-- ==== Sys2Proof/Word.lean ====
section
/-! DEFINITION. The data vocabulary of the device (00_scope, "Data vocabulary"): words, longs, triples, stamps,
registers and bytes, and the plain sparse map that the sparse parts of the state use. -/

namespace Sys2Proof

/-- A word: 14 bits (R5). -/
abbrev Word := BitVec 14
/-- A long: 28 bits, two words (R5, R6). -/
abbrev Long := BitVec 28
/-- A triple: 42 bits, three words (R5, R6). -/
abbrev Triple := BitVec 42
/-- A stamp: the low 42 bits of the timebase. -/
abbrev Stamp := BitVec 42
/-- A host register: 32 bits. -/
abbrev Reg := BitVec 32
/-- A byte of a store. -/
abbrev Byte := BitVec 8
/-- A physical cog number 17c + p (R16). -/
abbrev CogId := Fin 272
/-- A cassette number. -/
abbrev Cas := Fin 16

/-- A sparse map from numbers to values: pairs with strictly rising keys. A key that is not listed holds the default
that its reader names. -/
abbrev Sparse (α : Type) := List (Nat × α)

end Sys2Proof
end

