-- ==== Sys2Proof/Syntax.lean ====
section
/-! DEFINITION. The commands that the block takes, one constructor for each row of spec/opcode_table.json, with their operands.
What comes from outside the device (temperatures, frames, read data of a bus) is an operand (DEDUCED, log entry 3). -/

namespace Sys2Proof

/-- The long-latency units of a cog (R44). -/
inductive LongUnit where
  | mac | div | dig
  deriving DecidableEq, Repr

/-- A data SRAM (R167): the local store of a physical cog, or the shared store of a cassette. -/
inductive SramId where
  | loc (cog : CogId)
  | shared (cas : Cas)
  deriving DecidableEq, Repr

/-- An MRAM (R167): the program MRAM of a cassette, or a bank of the cam MRAM. -/
inductive MramId where
  | prog (cas : Cas)
  | cam (bank : Fin 8)
  deriving DecidableEq, Repr

/-- What the host sets in the configuration space of the PCI Express function (R363, R366): the two BARs, the enables of memory accesses and of bus
mastering, D3hot, the enable and the function mask of MSI-X, Max Payload Size and Max Read Request Size in bytes, and the enables of ASPM L1 and of its
substates L1.1 and L1.2. -/
structure PcieConf where
  bar0 : BitVec 64 := 0
  bar2 : BitVec 64 := 0
  memory : Bool := false
  busMaster : Bool := false
  d3hot : Bool := false
  msixEn : Bool := false
  msixMask : Bool := false
  maxPayload : Nat := 128
  maxRead : Nat := 512
  aspmL1 : Bool := false
  l11 : Bool := false
  l12 : Bool := false
  deriving DecidableEq, Repr

/-- A span record of the leader (R375): the state of a cadence from a stamp on (A, RATE, the ramp's amount, start and length, k_done), a
trim with its accepted amount, or a RATE. -/
inductive SpanRec where
  | state (cad : Fin 16) (stamp : BitVec 42) (a rate rampT : Int) (rampS : BitVec 42) (rampLen : Nat) (kDone : Int)
  | trim (cad : Fin 16) (stamp : BitVec 42) (amount : BitVec 28)
  | rate (cad : Fin 16) (stamp : BitVec 42) (rate : BitVec 42)
  deriving DecidableEq, Repr

/-- The wake causes of R445 that have no row of their own: a message held for a cassette, a CoaXPress signal, the chain wake pattern, an
exit of the PCI Express link from L1 or of its function from D3hot, a signal on a tandem lane. -/
inductive WakeSource where
  | message (cas : Cas)
  | vision (n : Fin 16)
  | chain (port : Fin 8)
  | pcie
  | tandem (port : Fin 2)
  deriving DecidableEq, Repr

/-- What the PMBus answers within a command (R454): of its read, the tries that were not acknowledged or whose packet error code was wrong, and the value
of the try that succeeds; the same two numbers for each of its writes in order, where it does not just acknowledge; and the address that answers an
injected alert. -/
structure PmbReply where
  nacks : Fin 4
  pecs  : Fin 4
  value : BitVec 16
  writes : List (Nat × Nat) := []
  ara : Option (BitVec 7) := none
  deriving DecidableEq, Repr

/-- The commands of the block, one constructor for each row of spec/opcode_table.json. -/
inductive Instr where
  /-- BUNDLE, R37: A cog decodes, checks, guards, reads, writes and presents the moves of one bundle. -/
  | bundle (cog : CogId)
  /-- ALU_ADD, R94: alu.t.add computes o + v and sets the flags. -/
  | aluAdd (cog : CogId) (unit : Bool)
  /-- ALU_ADC, R94: alu.t.adc computes o + v + C. -/
  | aluAdc (cog : CogId) (unit : Bool)
  /-- ALU_SUB, R94: alu.t.sub computes o - v with borrow in C. -/
  | aluSub (cog : CogId) (unit : Bool)
  /-- ALU_AND, R94: alu.t.and computes the bitwise AND. -/
  | aluAnd (cog : CogId) (unit : Bool)
  /-- ALU_OR, R94: alu.t.or computes the bitwise OR. -/
  | aluOr (cog : CogId) (unit : Bool)
  /-- ALU_XOR, R94: alu.t.xor computes the bitwise XOR. -/
  | aluXor (cog : CogId) (unit : Bool)
  /-- ALU_LIM, R94: alu.t.lim clamps o into [-|v|, +|v|]. -/
  | aluLim (cog : CogId) (unit : Bool)
  /-- SH_SHL, R95: sh.t.shl shifts sh.o left with zero fill. -/
  | shShl (cog : CogId)
  /-- SH_SHR, R95: sh.t.shr shifts sh.o right with zero fill. -/
  | shShr (cog : CogId)
  /-- SH_SAR, R95: sh.t.sar shifts sh.o right with sign fill. -/
  | shSar (cog : CogId)
  /-- MAC_MUL, R97: mac.t.mul sets the accumulator to o × v. -/
  | macMul (cog : CogId)
  /-- MAC_MAC, R97: mac.t.mac adds o × v to the accumulator. -/
  | macMac (cog : CogId)
  /-- MAC_MSU, R97: mac.t.msu subtracts o × v from the accumulator. -/
  | macMsu (cog : CogId)
  /-- MAC_LD, R96: mac.t.ld loads the accumulator with the sign-extended moved value. -/
  | macLd (cog : CogId)
  /-- MAC_RD, R98: mac.t.rd delivers the scaled, rounded and saturated accumulator to g(mac.d). -/
  | macRd (cog : CogId)
  /-- DIV_S, R99: div.t.s starts a signed division into the destination registers. -/
  | divS (cog : CogId)
  /-- DIV_U, R99: div.t.u starts an unsigned division into the destination registers. -/
  | divU (cog : CogId)
  /-- DIG_ADD, R103: dig.t.add adds digit words with carry D. -/
  | digAdd (cog : CogId)
  /-- DIG_SUB, R103: dig.t.sub subtracts digit words with borrow D. -/
  | digSub (cog : CogId)
  /-- DIG_ADJ, R103: dig.t.adj decimal-adjusts a binary sum of digit words. -/
  | digAdj (cog : CogId)
  /-- DIG_CVT, R104: dig.t.cvt converts a signed value into two digit words. -/
  | digCvt (cog : CogId)
  /-- LONG_LATENCY_RESULT, R44: A mac, div or dig unit writes its result and flags into g-registers and clears their scoreboard bits. -/
  | longLatencyResult (cog : CogId) (unit : LongUnit)
  /-- AG_SET, R105: ag.t.set loads an address generator descriptor and zeroes its index. -/
  | agSet (cog : CogId) (unit : Bool)
  /-- AG_IDX, R105: ag.t.idx sets the generator index modulo N. -/
  | agIdx (cog : CogId) (unit : Bool)
  /-- LD_W, R48: ld.t.w loads a word at ld.o plus the offset, visible at n + 3. -/
  | ldW (cog : CogId)
  /-- LD_L, R48: ld.t.l loads a long. -/
  | ldL (cog : CogId)
  /-- LD_T, R48: ld.t.t loads a triple. -/
  | ldT (cog : CogId)
  /-- LD_AG, R106: ld.t.ag0 or ld.t.ag1 loads at the generator address and steps the generator. -/
  | ldAg (cog : CogId) (unit : Bool)
  /-- LD_SET, R47: ld.t.set writes the moved value into ld.r. -/
  | ldSet (cog : CogId)
  /-- LOAD_ANSWER, R49: The memory answers a load in flight, from the store or the store buffer. -/
  | loadAnswer (cog : CogId)
  /-- ST_W, R57: st.t.w places a word store into the store buffer. -/
  | stW (cog : CogId)
  /-- ST_L, R57: st.t.l places a long store into the store buffer. -/
  | stL (cog : CogId)
  /-- ST_T, R57: st.t.t places a triple store into the store buffer. -/
  | stT (cog : CogId)
  /-- ST_AG, R106: st.t.ag0 or st.t.ag1 stores st.o at the generator address and steps the generator. -/
  | stAg (cog : CogId) (unit : Bool)
  /-- STORE_BUFFER_DRAIN, R57: The oldest store buffer entry is accepted by its store and leaves the buffer. -/
  | storeBufferDrain (cog : CogId)
  /-- BR, R70: ctl.t.br transfers control to a relative or absolute target. -/
  | br (cog : CogId)
  /-- CALL, R80: ctl.t.call pushes the return address and transfers control. -/
  | call (cog : CogId)
  /-- RET, R152: ctl.t.ret pops a call or exception frame and transfers to the stacked address. -/
  | ret (cog : CogId)
  /-- FENCE, R60: ctl.t.fence completes when the store buffer is empty. -/
  | fence (cog : CogId)
  /-- FSYNC, R72: ctl.t.fsync drains stores, invalidates fetch state and kills later bundles. -/
  | fsync (cog : CogId)
  /-- LOCK, R156: ctl.t.lock begins a locked sequence with a bundle limit. -/
  | lock (cog : CogId)
  /-- LP_LOOP, R75: lp.t.loop begins a hardware loop or skips a zero-count body. -/
  | lpLoop (cog : CogId)
  /-- LP_EXIT, R77: lp.t.exit ends the innermost loop level at once. -/
  | lpExit (cog : CogId)
  /-- LP_SAVE, R79: lp.t.save writes the 25-word loop state through the store buffer. -/
  | lpSave (cog : CogId)
  /-- LP_REST, R79: lp.t.rest reads and installs a saved loop state. -/
  | lpRest (cog : CogId)
  /-- CH_SEL, R108: ch.t.sel selects the send channel. -/
  | chSel (cog : CogId)
  /-- CH_SEND, R109: ch.t.send sends a 1 to 3 word message after earlier stores drain. -/
  | chSend (cog : CogId)
  /-- CH_SEND4, R108: ch.t.send4 sends a 4-word message. -/
  | chSend4 (cog : CogId)
  /-- CH_HZN, R109: ch.t.hzn sends a horizon token stamped ch.s. -/
  | chHzn (cog : CogId)
  /-- CH_RECV, R110: ch.t.recv waits for and takes a deliverable message. -/
  | chRecv (cog : CogId)
  /-- CH_TRY, R110: ch.t.try takes a deliverable message or sets Z = 1 without waiting. -/
  | chTry (cog : CogId)
  /-- TM_NOW, R112: tm.t.now samples the timebase or returns its high bits or status. -/
  | tmNow (cog : CogId)
  /-- TM_ARM, R266: tm.t.arm arms a release entry and returns its slack or a refusal. -/
  | tmArm (cog : CogId)
  /-- TM_KILL, R113: tm.t.kill disarms an owned release entry. -/
  | tmKill (cog : CogId)
  /-- EV_CLAIM, R408: ev.t.claim takes the highest-priority pending event routed to the cog or returns 1,023. -/
  | evClaim (cog : CogId)
  /-- EV_FIN, R410: ev.t.fin finishes a claimed event source. -/
  | evFin (cog : CogId)
  /-- PW_WAIT, R163: pw.t.wait drains the cog and enters idle, retention or off. -/
  | pwWait (cog : CogId)
  /-- DBG_STIM, R116: dbg.t.stim writes a value to a trace stimulus port. -/
  | dbgStim (cog : CogId)
  /-- LINE_FETCH, R67: A demand line read from program MRAM completes and the target bundle issues. -/
  | lineFetch (cog : CogId)
  /-- PREFETCH, R65: The line buffer prefetches a following line. -/
  | prefetch (cog : CogId)
  /-- EXCEPTION_ENTRY, R149: A trap raised by a bundle enters its vector with a three-word frame. -/
  | exceptionEntry (cog : CogId)
  /-- EVENT_ENTRY, R149: A presented event class above LVL enters vector 16 + k. -/
  | eventEntry (cog : CogId)
  /-- LOCK_LIMIT_TIMEOUT, R160: n bundles of a locked sequence complete without a conditional store, raising vector 10 cause 1. -/
  | lockLimitTimeout (cog : CogId)
  /-- LOCK_STALL_TIMEOUT, R160: A bundle of a locked sequence stalls over 4 µs, raising vector 10 cause 2. -/
  | lockStallTimeout (cog : CogId)
  /-- WAIT_WAKE, R165: An enabled wake condition ends a WAIT and sets pw.r. -/
  | waitWake (cog : CogId)
  /-- COG_KICK, R166: A write of COG_PWR.KICK ends a WAIT in idle or retention. -/
  | cogKick (cog : CogId)
  /-- COG_DISABLE, R532: PG_CTRL.EN = 0 on a cog page stops, drains and holds the cog at its reset vector. -/
  | cogDisable (cog : CogId)
  /-- REPAIR_GO, R33: CAS_REPAIR.GO moves a logical cog onto the spare or is refused. -/
  | repairGo (cas : Cas) (data : Reg)
  /-- BAR2_WRITE, R169: A host write to a store window merges the enabled bytes. -/
  | bar2Write (addr : BitVec 29) (bytes : List (Bool × Byte)) (poisoned : Bool) (malformed : Bool := false)
  /-- BAR2_READ, R173: A host read of a store window corrects or poisons as ECC gives. -/
  | bar2Read (addr : BitVec 29) (len : Nat)
  /-- CORRECTED_WRITE_BACK, R173: A corrected SRAM word is written back when the port or bank is free. -/
  | correctedWriteBack (addr : BitVec 29)
  /-- SRAM_SCRUB, R174: Each 1 µs the scrub reads one word per bank and corrects it. -/
  | sramScrub (store : SramId) (word : BitVec 18)
  /-- MRAM_SCRUB, R187: MRAM scrub reads a line and rewrites corrected granules. -/
  | mramScrub (store : MramId) (line : BitVec 16) (last : Bool)
  /-- COMMIT_PASS, R182: A commit pass merges buffered points into the target copy and writes its header, or ends without it. -/
  | commitPass (table : Fin 1024)
  /-- CAM_TABLE_SCAN, R180: The cam engine reads every copy of a table and selects the live copy. -/
  | camTableScan (table : Fin 1024)
  /-- MESSAGE_ARRIVAL, R206: A message reaches its receiving point and occupies a slot. -/
  | messageArrival (chan : Fin 4096) (sender : Fin 1024)
  /-- MERGE_DELIVERABLE, R208: The least held message of an ordered channel becomes deliverable. -/
  | mergeDeliverable (chan : Fin 4096)
  /-- CREDIT_RETURN, R205: A freed slot's credit returns to its sender. -/
  | creditReturn (chan : Fin 4096) (sender : Fin 1024)
  /-- HORIZON_TOKEN_ARRIVAL, R207: A horizon token reaches the merge and advances the member's horizon. -/
  | horizonTokenArrival (chan : Fin 4096) (sender : Fin 1024)
  /-- AUTOMATIC_TOKEN, R207: A sender that has sent nothing for PERIOD sends a horizon token automatically. -/
  | automaticToken (chan : Fin 4096) (sender : Fin 1024) (arriving : Option (BitVec 64) := none)
  /-- HORIZON_STALL, R211: A message blocked longer than DEAD sets STALL and raises the horizon-stall event. -/
  | horizonStall (chan : Fin 4096)
  /-- FAB_CMD_RETIRE, R212: FAB_CMD retire leaves a member out of the merge. -/
  | fabCmdRetire (chan : Fin 4096) (sender : Fin 1024)
  /-- FAB_CMD_RESTORE, R212: FAB_CMD restore brings a member back into the merge. -/
  | fabCmdRestore (chan : Fin 4096) (sender : Fin 1024)
  /-- FAB_CMD_FLUSH, R212: FAB_CMD flush discards every held message of a channel. -/
  | fabCmdFlush (chan : Fin 4096) (sender : Fin 1024)
  /-- CHANNEL_ENABLE, R202: A write of FAB_CH_LO.EN = 1 enables a channel after its checks. -/
  | channelEnable (data : Reg)
  /-- CHANNEL_DISABLE, R203: A write of FAB_CH_LO.EN = 0 disables a channel and starts its drain. -/
  | channelDisable (data : Reg)
  /-- CHANNEL_DRAIN_DONE, R203: A channel drain completes and a pending enable is applied. -/
  | channelDrainDone (chan : Fin 4096)
  /-- SET_MEMBER_WRITE, R202: A write of FAB_SET_MBR changes a sender set member or is rejected. -/
  | setMemberWrite (data : Reg)
  /-- QUEUE_PUSH, R218: A producer pushes a word into a queue's open quad, closing it when due. -/
  | queuePush (q : Fin 256)
  /-- QUEUE_PUSH_RESUME, R219: A closing push waiting at full completes when a slot frees. -/
  | queuePushResume (q : Fin 256)
  /-- QUEUE_TIMEOUT, R222: The queue timeout closes the open quad with TMO. -/
  | queueTimeout (q : Fin 256)
  /-- QCMD_POP, R221: QCMD.POP removes the oldest quad. -/
  | qcmdPop (q : Fin 256)
  /-- QCMD_DROP, R223: QCMD.DROP drops the rest of the packet. -/
  | qcmdDrop (q : Fin 256)
  /-- QCMD_FLUSH, R218: QCMD.FLUSH closes the open quad. -/
  | qcmdFlush (q : Fin 256)
  /-- QPUSH, R219: A host write of QPUSH pushes a word, or is dropped at full. -/
  | qpush (q : Fin 256) (word : Word) (eop : Bool)
  /-- QUEUE_QUAD_SEND, R221: The queue bank sends the oldest quad as a loose message when it gets credit. -/
  | queueQuadSend (q : Fin 256)
  /-- QUEUE_CMD_DROP, R221: A loose message with W0 = 1 to 0x300 + q drops the packet. -/
  | queueCmdDrop (q : Fin 256)
  /-- QUEUE_CMD_FLUSH, R221: A loose message with W0 = 2 to 0x300 + q flushes the open quad. -/
  | queueCmdFlush (q : Fin 256)
  /-- QUEUE_ENABLE, R229: A write of QCFG.EN = 1 empties and enables a queue or is refused. -/
  | queueEnable (q : Fin 256) (data : Reg)
  /-- TIMEREF_LOSS, R232: TIMEREF shows no edge for 200 ns and the timebase enters holdover. -/
  | timerefLoss
  /-- PLL_RELOCK, R232: The PLL relocks on a returned TIMEREF and the timebase leaves holdover. -/
  | pllRelock (locked : Bool := true)
  /-- SLEW_END, R232: The remaining alignment or TB_ADJ offset reaches 0 and SLEW clears. -/
  | slewEnd
  /-- TB_ADJ_GO, R234: TB_ADJ.GO adds OFS to the offset to be slewed. -/
  | tbAdjGo (ofs : BitVec 28)
  /-- TB_NOW_READ, R261: A read of TB_NOW_LO samples all 64 timebase bits and the status. -/
  | tbNowRead
  /-- CADENCE_ENABLE, R238: CAD_CTRL.EN = 1 places the accumulator at CAD_POS. -/
  | cadenceEnable (n : Fin 16) (data : Reg)
  /-- CADENCE_DISABLE, R238: CAD_CTRL.EN = 0 freezes the position and frees its axes. -/
  | cadenceDisable (n : Fin 16) (data : Reg)
  /-- CAD_POS_READ, R263: A read of CAD_POS_LO while enabled samples the position. -/
  | cadPosRead (n : Fin 16)
  /-- TRIM, R242: A TRIM command clips and folds an amount into a new ramp. -/
  | trim (n : Fin 16)
  /-- RATE, R242: A RATE command restarts the ramp at the new rate. -/
  | rate (n : Fin 16)
  /-- PT_SEL, R255: PT_SEL sets the sender's point pointer. -/
  | ptSel (n : Fin 16)
  /-- PT_M, R255: PT_M replaces the master of the selected point in the shadow. -/
  | ptM (n : Fin 16)
  /-- PT_Y, R255: PT_Y replaces the slave of the selected point. -/
  | ptY (n : Fin 16)
  /-- PT_K, R255: PT_K replaces the slope of the selected point. -/
  | ptK (n : Fin 16)
  /-- FLIP, R256: FLIP arms a table's flip for a cycle and starts its commit pass. -/
  | flip (n : Fin 16)
  /-- COUPLE, R251: COUPLE schedules an axis to couple at the boundary of a cycle. -/
  | couple (n : Fin 16)
  /-- FREE, R251: FREE makes an axis hold its last commanded position. -/
  | free (n : Fin 16)
  /-- SHIFT, R250: SHIFT schedules a gear ratio ramp over N cycles. -/
  | shift (n : Fin 16)
  /-- SYNC_EDGE, R244: A SYNC_IN capture is judged against the window and turned into a trim or rejected. -/
  | syncEdge (n : Fin 16)
  /-- CADENCE_BOUNDARY, R237: A cadence enters a new cycle, applying armed flips, couples and shift starts. -/
  | cadenceBoundary (n : Fin 16)
  /-- NOTICE, R245: A cadence notice is sent when the timebase reaches its stamp. -/
  | notice (n : Fin 16)
  /-- CAM_EVALUATION, R247: The cam engine evaluates a port's axes for a servo stamp and writes the command staging. -/
  | camEvaluation (port : Fin 8) (late : Bool)
  /-- TABLE_ENABLE, R178: CAM_TBL_A.EN = 1 checks and enables a cam table. -/
  | tableEnable (data : Reg)
  /-- TABLE_DISABLE, R257: CAM_TBL_A.EN = 0 disables a table, disarms its flip and frees its shadow entries. -/
  | tableDisable (data : Reg)
  /-- AXIS_ENABLE, R247: AX_BIND.EN = 1 enables an axis in freewheel or is dropped for load. -/
  | axisEnable (axis : Fin 512) (data : Reg)
  /-- RELEASE_MARKER, R272: A marker entry is released at its stamp with no effect beyond slack and digest. -/
  | releaseMarker (cas : Cas) (entry : Fin 256)
  /-- RELEASE_PIN_EDGE, R272: A pin edge entry drives its level at the release tick plus FINE. -/
  | releasePinEdge (cas : Cas) (entry : Fin 256)
  /-- PULSE_END, R272: A high pulse ends WIDTH ns after it started. -/
  | pulseEnd (pin : Fin 96)
  /-- RELEASE_PWM_DUTY_LOAD, R272: A PWM duty load entry sets DUTY and FULL now or at the next period. -/
  | releasePwmDutyLoad (cas : Cas) (entry : Fin 256)
  /-- RELEASE_CHAIN_COMMIT, R272: A chain command commit latches the staged commands into the next frame. -/
  | releaseChainCommit (cas : Cas) (entry : Fin 256)
  /-- RELEASE_MESSAGE, R272: A message entry sends a KIND 0x06 or 0x07 message from its release bank. -/
  | releaseMessage (cas : Cas) (entry : Fin 256)
  /-- STROBE_OPEN_WINDOW, R281: An I/O strobe with OP 0 opens an absolute window. -/
  | strobeOpenWindow (cas : Cas) (entry : Fin 256)
  /-- STROBE_CLOSE_WINDOW, R282: An I/O strobe with OP 1 closes a window, judging MISS. -/
  | strobeCloseWindow (cas : Cas) (entry : Fin 256)
  /-- STROBE_LATCH_ENCODER, R283: An I/O strobe with OP 2 latches an encoder count. -/
  | strobeLatchEncoder (cas : Cas) (entry : Fin 256)
  /-- STROBE_START_SSI, R283: An I/O strobe with OP 3 starts an SSI frame. -/
  | strobeStartSsi (cas : Cas) (entry : Fin 256)
  /-- REL_KILL, R271: REL_IDX.KILL disarms the selected entry from the host. -/
  | relKill (cas : Cas) (entry : Fin 256)
  /-- FIO_SAFE_CLR, R278: FIO_SAFE.CLR releases safe pins after the brake has cleared. -/
  | fioSafeClr
  /-- BANK_MISMATCH, R276: A bank rail monitor disagreeing with V18 holds the bank as inputs. -/
  | bankMismatch (bank : Fin 6)
  /-- PIN_EDGE_CAPTURE, R279: A filtered pin edge is stamped and sent as a capture message. -/
  | pinEdgeCapture (pin : Fin 97) (rise : Bool)
  /-- PHASE_WINDOW_OPEN, R281: A phase-mode window opens when its cadence reaches OPEN. -/
  | phaseWindowOpen (w : Fin 32)
  /-- PHASE_WINDOW_CLOSE, R282: A phase-mode window closes at CLOSE and may send MISS. -/
  | phaseWindowClose (w : Fin 32)
  /-- ENCODER_TRANSITION, R283: A quadrature transition changes the encoder count or counts QERR. -/
  | encoderTransition (e : Fin 16) (a : Bool) (b : Bool)
  /-- ENCODER_PERIODIC_LATCH, R283: At timebase mod PERIOD = OFS the encoder latches or starts an SSI frame. -/
  | encoderPeriodicLatch (e : Fin 16)
  /-- ENCODER_Z_LATCH, R283: A rising Z edge latches the count when ZLATCH is set. -/
  | encoderZLatch (e : Fin 16)
  /-- SSI_FRAME_END, R283: An SSI frame ends and its position message is sent. -/
  | ssiFrameEnd (e : Fin 16) (data : BitVec 29)
  /-- PWM_PERIOD_START, R284: A PWM period starts high and takes a pending duty. -/
  | pwmPeriodStart (j : Fin 32)
  /-- PWM_FALL, R284: The PWM output falls after PERIOD × DUTY / 65,536. -/
  | pwmFall (j : Fin 32)
  /-- LANE_ENABLE, R295: VIS_LINK.EN starts lane discovery or turns the lane off. -/
  | laneEnable (n : Fin 16) (data : Reg)
  /-- LANE_RATE_WRITE, R295: A write of VIS_LINK.RATE makes the lane relock. -/
  | laneRateWrite (n : Fin 16) (data : Reg)
  /-- LANE_LOCK, R295: The lane locks at its rate and reaches Up. -/
  | laneLock (n : Fin 16)
  /-- RELOCK_TIMEOUT, R295: A relocking lane fails within 1 ms and falls back to Discovery. -/
  | relockTimeout (n : Fin 16)
  /-- LOSS_OF_SIGNAL, R320: Loss of signal or lock sends an Up lane to Discovery. -/
  | lossOfSignal (n : Fin 16) (los : Bool)
  /-- CONTROL_COMMAND_GO, R296: VIS_CTL_CMD.GO sends one control command to the camera. -/
  | controlCommandGo (n : Fin 16) (data : Reg)
  /-- CONTROL_ACK, R296: A control acknowledgement arrives and DONE is set. -/
  | controlAck (n : Fin 16) (err : Bool) (crcBad : Bool) (code : BitVec 8) (data : List Byte)
  /-- CONTROL_TIMEOUT, R296: No acknowledgement within TMO ms ends the command with a timeout. -/
  | controlTimeout (n : Fin 16)
  /-- HEARTBEAT_PACKET, R297: A camera heartbeat packet restarts the heartbeat timer. -/
  | heartbeatPacket (n : Fin 16)
  /-- HEARTBEAT_LOST, R297: No heartbeat within TMO ms sets LOST and raises the event. -/
  | heartbeatLost (n : Fin 16)
  /-- EVENT_PACKET, R292: A camera event packet is acknowledged, counted and discarded. -/
  | eventPacket (n : Fin 16)
  /-- LINE_TRIGGER, R299: The trigger generator fires, stamps the trigger and sends a trigger packet, or skips. -/
  | lineTrigger (n : Fin 16)
  /-- LINE_COMPLETE, R300: A complete camera line is paired with a trigger and processed by the pipeline. -/
  | lineComplete (n : Fin 16) (pixels : List (BitVec 16)) (first : BitVec 64) (j : Nat) (crcBad : Nat) (fmtOk : Bool) (ovf : BitVec 4)
      (last : Bool := true) (codes : List Nat := []) (strays : Nat := 0)
  /-- TRIGGER_ABANDON, R301: An outstanding trigger with no line after TMO is abandoned. -/
  | triggerAbandon (n : Fin 16)
  /-- LOST_REPORT, R301: A run of lost lines is reported by one LOST finding. -/
  | lostReport (n : Fin 16)
  /-- FINDING_SEND, R317: Findings of a line enter the hub once their channels have credit. -/
  | findingSend (n : Fin 16)
  /-- VISION_IDLE_RETENTION, R319: A pipeline idle for VIS_PWR.IDLE µs enters retention. -/
  | visionIdleRetention (n : Fin 16)
  /-- VIS_WAKE, R319: VIS_PWR.WAKE wakes the pipeline domain. -/
  | visWake (n : Fin 16)
  /-- FREEZE_ARM, R322: A write of VIS_FWD_FRZ.ARM clears FROZEN and resumes forwarding. -/
  | freezeArm (n : Fin 16) (data : Reg)
  /-- IMAGE_READ, R341: The port reads the command image for the coming cycle from shared data. -/
  | imageRead (port : Fin 8) (nodes : Fin 65)
  /-- CHAIN_CYCLE_START, R340: At cycle start C the port sends the cyclic and bulk frames. -/
  | chainCycleStart (port : Fin 8)
  /-- CYCLIC_FRAME_RETURN, R340: The cyclic frame returns and the port sends the feedback messages. -/
  | cyclicFrameReturn (rx : Fin 8) (frame : List Byte) (latn : BitVec 20)
  /-- RING_BREAK_TIMEOUT, R351: No good frame at the closing port 200 ns after its expected arrival detects a break. -/
  | ringBreakTimeout (port : Fin 8)
  /-- FEEDBACK_DEADLINE, R340: At D without a good frame the port sends feedback with FRESH = 0. -/
  | feedbackDeadline (port : Fin 8)
  /-- BULK_FRAME_RETURN, R355: The bulk frame returns and stream areas and replies are pushed into queues. -/
  | bulkFrameReturn (rx : Fin 8) (frame : List Byte)
  /-- PARAMETER_REQUEST, R354: CHN_PAR_CMD.GO places a request in every bulk frame. -/
  | parameterRequest (port : Fin 8) (data : Reg)
  /-- PARAMETER_TIMEOUT, R354: A request with no reply after TMO cycles ends with RESULT 1. -/
  | parameterTimeout (port : Fin 8)
  /-- PORT_REQUEST, R349: A write of CHN_CTRL.REQ is checked and refused or accepted. -/
  | portRequest (port : Fin 8) (req : BitVec 3)
  /-- PORT_STATE_CHANGE, R348: An accepted request takes effect at the next cycle start at least 1 µs later. -/
  | portStateChange (port : Fin 8)
  /-- CHN_WAKE, R346: CHN_CMD OP 1 sends the wake pattern. -/
  | chnWake (port : Fin 8)
  /-- CHN_ENUMERATE, R346: CHN_CMD OP 2 sends an enumerate frame. -/
  | chnEnumerate (port : Fin 8)
  /-- CHN_MEASURE, R345: CHN_CMD OP 3 runs the delay-measure loops and a delay-set frame. -/
  | chnMeasure (port : Fin 8)
  /-- CHN_REJOIN, R352: CHN_CMD OP 4 returns a split ring to normal mode. -/
  | chnRejoin (port : Fin 8)
  /-- CHN_CMD_DONE, R346: A start-up command ends with DONE or FAIL. -/
  | chnCmdDone (port : Fin 8) (headers : List (Bool × Nat)) (loops : List (List Byte × Nat))
  /-- CHAIN_IDLE_RETENTION, R357: A port in OFF or SILENT idle for CHN_PWR.IDLE µs enters retention. -/
  | chainIdleRetention (port : Fin 8)
  /-- MAILBOX_SEND, R367: A write of MBX_SEND.LEN sends the mailbox words stamped on acceptance, or is refused. -/
  | mailboxSend (m : Fin 16) (data : Reg)
  /-- GROUP_RECEIVE, R371: A tandem group is accepted or discarded with NAK. Its header comes in parts: bits 0 to 21, SEQ, ACK, and bits 38 to 63. -/
  | groupReceive (port : Fin 2) (head : BitVec 22) (seq ack : BitVec 8) (tail : BitVec 26) (data : List (BitVec 64))
  /-- TIME_BLOCK_SEND, R370: Once every 1 µs a time block is sent between groups. -/
  | timeBlockSend (port : Fin 2)
  /-- TIME_BLOCK_RECEIVE, R372: A received time block updates the offset E and may capture TAN_OFS. -/
  | timeBlockReceive (port : Fin 2) (peer : BitVec 42) (h : BitVec 8) (index answers : BitVec 3) (ofs : Option (BitVec 42)) (kind : BitVec 8 := 0xA5)
  /-- LOCK_ACQUIRE, R372: LOCK is set once |E − TAN_OFS| ≤ 5 ns has held for 1 ms. -/
  | lockAcquire
  /-- TIME_BLOCK_TIMEOUT, R372: No time block for 10 µs clears LOCK. -/
  | timeBlockTimeout
  /-- TANDEM_PORT_DOWN, R377: A tandem port goes down and traffic moves to the other port. -/
  | tandemPortDown (port : Fin 2) (ack : Option (BitVec 8))
  /-- TANDEM_PORT_UP, R377: A tandem port returns and groups flow again once locked. -/
  | tandemPortUp (port : Fin 2) (lat : BitVec 16) (peerFollows : Bool)
  /-- SPAN_MASK_WRITE, R375: Setting a TAN_SPAN.MASK bit makes the leader send the cadence state record. -/
  | spanMaskWrite (data : Reg) (peer : Bool)
  /-- SPAN_RECORD, R376: A span record arriving on the follower is applied or marked late. -/
  | spanRecord (record : SpanRec)
  /-- MV_GO, R382: MV_CTRL.GO starts a register descriptor, a list or a resume. -/
  | mvGo (c : Fin 64)
  /-- MV_STOP, R396: MV_CTRL.STOP stops the channel at the next descriptor boundary. -/
  | mvStop (c : Fin 64)
  /-- MV_CLR, R396: MV_CTRL.CLR takes the channel from ERROR to IDLE. -/
  | mvClr (c : Fin 64)
  /-- MV_ENABLE, R396: A write of MV_CFG.EN enables a channel or stops it. -/
  | mvEnable (c : Fin 64) (data : Reg)
  /-- DESCRIPTOR_FETCH, R386: A channel fetches and checks a descriptor, rejecting it on a failed check. A write of the PCI Express configuration space may have come before. -/
  | descriptorFetch (c : Fin 64) (conf : Option PcieConf := none)
  /-- MOVER_BEAT, R388: The engine moves one 16-byte beat of the highest-priority channel. -/
  | moverBeat (engine : Fin 4) (srcHost : List Byte) (dstHost : List Byte) (hostErr : Bool) (timeout : Bool := false)
  /-- READ_BACK, R394: The read-back of the last destination beat returns and the descriptor completes. -/
  | readBack (c : Fin 64) (hostErr : Bool) (timeout : Bool := false)
  /-- EVENT_RAISE, R404: A source is raised and held, merged or marked REPEAT. -/
  | eventRaise (source : Fin 1023)
  /-- GROUP_TIME_LIMIT, R405: A group's NS time limit expires and its held sources become pending. -/
  | groupTimeLimit (group : Fin 64)
  /-- EVENT_SOURCE_CONFIG, R404: A write of EV_SRC_CFG changes routing or EN of a source. -/
  | eventSourceConfig (data : Reg)
  /-- EV_HCLAIM, R411: A host read of EV_HCLAIMv claims a pending source or returns 1,023. -/
  | evHclaim (v : Fin 64)
  /-- EV_HFIN, R410: A host write of EV_HFIN finishes a claimed source. -/
  | evHfin (num : Fin 1024)
  /-- EV_SW, R413: A write of EV_SW raises software sources. -/
  | evSw (data : BitVec 16)
  /-- PG_EVT_PEND_CLEAR, R403: A W1C write of PG_EVT_PEND re-arms a page-driven source. -/
  | pgEvtPendClear (page : Fin 0x410) (data : Reg)
  /-- JOURNAL_RECORD_WRITE, R421: A record leaves the journal FIFO into the host or shared ring. -/
  | journalRecordWrite
  /-- DIGEST_INTERVAL_END, R420: At the end of a digest interval FRONT and DIGEST records are written. -/
  | digestIntervalEnd
  /-- JOURNAL_ENABLE, R422: JRN_CTRL.EN = 1 starts recording or is refused. -/
  | journalEnable (data : Reg)
  /-- JOURNAL_DISABLE, R416: JRN_CTRL.EN = 0 stops recording and writes END. -/
  | journalDisable (data : Reg)
  /-- JOURNAL_MARK, R424: JRN_CTRL.MARK writes a host MARK record. -/
  | journalMark (data : Reg)
  /-- JRN_TRIG_EDGE, R424: A JRN_TRIG edge writes a MARK and may freeze the journal. -/
  | jrnTrigEdge (rise : Bool)
  /-- SNAPSHOT, R426: The journal writes SNAP records of a cadence when CMT reaches E or at E + 1 ms. -/
  | snapshot (n : Fin 16)
  /-- REPLAY_ENABLE, R429: JRN_RPL.EN = 1 enters replay mode or is refused. -/
  | replayEnable (data : Reg)
  /-- REPLAY_GO, R430: JRN_RPL.GO starts replay and discards live ordered inputs. -/
  | replayGo (data : Reg)
  /-- REPLAY_RECORD, R430: The bench reads the next journal record and installs, injects, applies or stops. -/
  | replayRecord (header : BitVec 64) (payload : BitVec 64)
  /-- REPLAY_DIGEST_COMPARE, R431: The bench compares a recorded digest with its own once the interval closes. -/
  | replayDigestCompare
  /-- DOMAIN_REQUEST, R438: A write of PG_CTRL.PWR_REQ requests a domain state. -/
  | domainRequest (dom : Fin 336) (req : BitVec 2)
  /-- DOMAIN_ENTRY, R439: A domain enters retention or off once its wait conditions clear. A write of the PCI Express configuration space may have come before. -/
  | domainEntry (dom : Fin 336) (conf : Option PcieConf := none)
  /-- DOMAIN_WAKE, R445: A wake cause starts the restore of its domains in the order of R449. -/
  | domainWake (source : WakeSource)
  /-- DOMAIN_RESTORE, R449: A waking domain reports on and brings back its state. -/
  | domainRestore (dom : Fin 336)
  /-- RESTORE_FAIL, R449: A domain not on within its bound stays off with FAIL set. -/
  | restoreFail (dom : Fin 336)
  /-- WAKE_PIN, R447: A filtered WAKE pin level or edge wakes its domain set. -/
  | wakePin (n : Fin 4) (level : Bool)
  /-- PWR_ALARM, R445: The timebase reaching PWR_ALARM wakes the alarm set. -/
  | pwrAlarm
  /-- IDLE_RULE, R444: A domain idle for PWR_IDLE.US enters retention. -/
  | idleRule (dom : Fin 64)
  /-- PWR_KICK, R468: PWR_KICK.GO kicks a cog through the always-on wake path. -/
  | pwrKick (cog : Fin 512)
  /-- GOVERNOR_PERIOD, R453: At each period end the governor reads slack meters and chooses a new VCOG. -/
  | governorPeriod (q : Fin 4) (iout : PmbReply)
  /-- READ_VOUT, R455: After slew and settle the governor reads READ_VOUT and confirms or faults. -/
  | readVout (q : Fin 4) (reply : PmbReply)
  /-- GOV_SET_WRITE, R453: A write of GOV_SET.MV in manual mode commands a new voltage. -/
  | govSetWrite (q : Fin 4) (data : Reg) (bus : PmbReply := { nacks := 0, pecs := 0, value := 0 })
  /-- PMBUS_ALERT, R454: PMB_ALERT_N falling makes the master read the alert status and clear faults. -/
  | pmbusAlert (addr : Option (BitVec 7)) (status : PmbReply) (low : Bool)
  /-- VCOG_UNDERVOLTAGE, R456: A VCOG rail below 0.535 V stops the quadrant's cogs. -/
  | vcogUndervoltage (q : Fin 4)
  /-- VCOG_RECOVER, R456: A VCOG rail rising above 0.545 V lets the cogs run on. -/
  | vcogRecover (q : Fin 4)
  /-- TEMP_CONVERSION, R476: Each 100 µs a sensor converts and updates warning and critical states. -/
  | tempConversion (sensor : Fin 5) (t : BitVec 12)
  /-- RAIL_SAMPLE, R477: Each 10 µs the rails are sampled against their windows. -/
  | railSample (low : BitVec 6) (high : BitVec 6)
  /-- SREF_LOSS, R459: SREF is lost and every SerDes domain loses lock. -/
  | srefLoss
  /-- WATCHDOG_WARNING, R478: The watchdog count reaching WARN enters vector 8. -/
  | watchdogWarning (cog : CogId)
  /-- WATCHDOG_EXPIRY, R478: The watchdog count reaching 0 takes its ACTION. -/
  | watchdogExpiry (cog : CogId)
  /-- WATCHDOG_KICK, R478: COG_WDT_CNT.KICK restarts the watchdog count. -/
  | watchdogKick (cog : CogId)
  /-- BRAKE_IN, R483: BRAKE_IN_N becomes active after its filter and sets the brake latch. -/
  | brakeIn
  /-- HLT_BRAKE_SET, R483: HLT_BRAKE.SET applies the HOST brake cause. -/
  | hltBrakeSet
  /-- HLT_BRAKE_CLR, R485: HLT_BRAKE.CLR clears the latch if no cause is present. -/
  | hltBrakeClr
  /-- TWO_WIRE_READ, R487: A two-wire transfer with OP 0b000 reads a DAU register. -/
  | twoWireRead (a : Fin 16)
  /-- TWO_WIRE_WRITE, R487: A two-wire transfer with OP 0b001 writes a DAU register. -/
  | twoWireWrite (a : Fin 16) (data : Reg) (parityOk : Bool) (mode : PmbReply)
  /-- TWO_WIRE_READ_INCREMENT, R487: OP 0b010 reads and adds 4 to DA_ADDR. -/
  | twoWireReadIncrement (a : Fin 16)
  /-- TWO_WIRE_WRITE_INCREMENT, R487: OP 0b011 writes and adds 4 to DA_ADDR. -/
  | twoWireWriteIncrement (a : Fin 16) (data : Reg) (parityOk : Bool) (mode : PmbReply)
  /-- LINE_RESET, R487: Sixty-four or more cycles with DIO high reset the two-wire line. -/
  | lineReset
  /-- DA_DATA_ACCESS, R489: A DAU access of DA_DATA makes a peek or consume access at DA_ADDR. -/
  | daDataAccess (port : Fin 2) (data : Option Reg) (mode : PmbReply)
  /-- IDCODE, R488: The IDCODE instruction selects the IDCODE register. -/
  | idcode
  /-- BYPASS, R488: The BYPASS instruction selects the bypass register. -/
  | bypass
  /-- EXTEST, R488: The EXTEST instruction drives boundary scan at level 3. -/
  | extest (cells : List (Fin 96 × Bool))
  /-- SAMPLE_PRELOAD, R488: The SAMPLE/PRELOAD instruction samples the boundary. -/
  | samplePreload (cells : List (Fin 96 × Bool))
  /-- DAU, R488: A DAU data register shift makes one DAU transfer. -/
  | dau (op : BitVec 3) (a : Fin 16) (data : Reg) (mode : PmbReply)
  /-- TRST, R488: TRST_N resets the TAP alone. -/
  | trst
  /-- AU_REQ, R511: AU_CTRL.REQ requests a new nonce. -/
  | auReq (port : Fin 2) (data : Reg)
  /-- NONCE_READY, R511: The random source delivers a 32-byte nonce. -/
  | nonceReady (port : Fin 2) (words : List Reg)
  /-- AU_CHK, R511: AU_CTRL.CHK starts the check of a response. -/
  | auChk (port : Fin 2) (data : Reg)
  /-- AUTH_CHECK_DONE, R511: The response check grants the level or fails with a lockout. -/
  | authCheckDone (port : Fin 2)
  /-- AU_DROP, R511: AU_CTRL.DROP returns the DAU to level 0. -/
  | auDrop (port : Fin 2) (data : Reg)
  /-- COG_HALT, R490: COG_DBG.HALT requests a halt or vector 9 entry. -/
  | cogHalt (cog : CogId) (data : Reg)
  /-- COG_RESUME, R490: COG_DBG.RESUME continues a halted cog and represents withdrawn triggers. -/
  | cogResume (cog : CogId) (data : Reg)
  /-- COG_STEP, R490: COG_DBG.STEP issues exactly one bundle and halts again. -/
  | cogStep (cog : CogId) (data : Reg)
  /-- DBG_VAL_WRITE, R491: A write of COG_DBG_VAL_LO places a value in the selected destination port. -/
  | dbgValWrite (cog : CogId) (data : Reg)
  /-- DBG_VAL_HI_WRITE, R491: A write of COG_DBG_VAL_HI holds the upper bits for a later placement. -/
  | dbgValHiWrite (cog : CogId) (data : Reg)
  /-- DBG_VAL_READ, R491: A read of COG_DBG_VAL_LO samples the selected source port. -/
  | dbgValRead (cog : CogId)
  /-- PELOTON_GO, R494: A peloton trigger sends a halt request to every member. -/
  | pelotonGo (g : Fin 8) (data : Reg)
  /-- PELOTON_RESUME, R494: PEL_CFG.RESUME resumes every halted member. -/
  | pelotonResume (g : Fin 8) (data : Reg)
  /-- BENCH_WRITE, R496: A level-3 write of DBG_BENCH.EN sets or clears bench mode, or is refused. -/
  | benchWrite (port : Fin 2) (en : Bool)
  /-- ATTACH_WRITE, R492: A write of DA_CTRL.ATTACH attaches or detaches a debugger. -/
  | attachWrite (port : Fin 2) (attach : Bool)
  /-- TRC_POP, R497: TRC_POP removes the oldest trace packet. -/
  | trcPop (data : Reg)
  /-- POWER_ON_RESET, R503: PORST_N low resets everything including the timebase. -/
  | powerOnReset (timeref : Bool := true) (rails : BitVec 3 := 0)
  /-- DEVICE_RESET, R503: SYS_RST.GO with KEY 0xD5 resets every domain except TIMEKEEP. -/
  | deviceReset (data : Reg)
  /-- PERST, R503: PERST_N resets the PCI Express link and configuration, or the device when PERST_RST is set. -/
  | perst
  /-- PAGE_SOFT_RESET, R503: PG_CTRL.SRST resets the page's non-surviving fields. -/
  | pageSoftReset (page : Fin 0x410) (data : Reg)
  /-- PG_CTRL_ENABLE, R441: A write of PG_CTRL.EN = 1 enables a block, clears STALE or is held pending. -/
  | pgCtrlEnable (page : Fin 0x410) (data : Reg)
  /-- BOOT, R507: After reset release the boot engine verifies the record and starts the named cogs. -/
  | boot
  /-- SYS_BOOT_GO, R507: SYS_BOOT.GO tells the boot engine that host images are ready. -/
  | sysBootGo
  /-- OTP_BLOW, R513: SYS_OTPW.GO starts blowing SYS_OTPD into an OTP word or is rejected. -/
  | otpBlow (data : Reg)
  /-- OTP_BLOW_DONE, R513: An OTP blow completes after 1 ms. -/
  | otpBlowDone
  /-- ELOG_POP, R514: SYS_ELOG_STAT.POP removes the oldest error log entry. -/
  | elogPop
  /-- PG_INJ_WRITE, R473: A write of PG_INJ arms a detector for one report. -/
  | pgInjWrite (page : Fin 0x410) (data : Reg) (bus : PmbReply := { nacks := 0, pecs := 0, value := 0 })
  /-- REGISTER_WRITE, R9: A host write to a register with no row of its own acts by its Access code. -/
  | registerWrite (addr : BitVec 26) (data : Reg) (be : BitVec 4) (poisoned : Bool) (mode : PmbReply) (malformed : Bool := false)
  /-- PAGE_DRAIN_DONE, R441: A block's drain after PG_CTRL.EN = 0, or a page soft reset, completes; BUSY clears and a pending EN is applied. -/
  | pageDrainDone (page : Fin 0x410)
  /-- BANK_MISMATCH_END, R276: A bank's rail monitor comes to agree with FIO_BANK.V18 again, and the bank's pins leave the held-input state. -/
  | bankMismatchEnd (bank : Fin 6)
  /-- VCOG_OVERVOLTAGE, R456: A VCOG rail monitor finds the rail above 0.95 V and raises the overvoltage health source. -/
  | vcogOvervoltage (q : Fin 4)
  /-- BRAKE_IN_RELEASE, R483: BRAKE_IN_N becomes inactive after its filter, so the BRAKE_IN cause stops being present and a later HLT_BRAKE.CLR can clear the latch. -/
  | brakeInRelease
  /-- POWER_LOSS, R188: Power is lost with no orderly reset, possibly during an MRAM granule write or an OTP blow, leaving old or new contents as stated. -/
  | powerLoss (timeref : Bool := true) (rails : BitVec 3 := 0)
  /-- PCIE_LINK_DOWN, R379: The PCI Express link goes down without PERST_N, and PCIE_STAT.LINKDN counts the event. -/
  | pcieLinkDown
  /-- PCIE_LINK_UP, R363: PCI Express link training completes at a negotiated speed and width, shown in PCIE_STAT. -/
  | pcieLinkUp (speed : BitVec 2) (width : BitVec 3) (l1 : Bool := false) (conf : PcieConf := {}) (aerClear : BitVec 32 := 0)
  deriving DecidableEq, Repr

end Sys2Proof
end

