-- ==== Sys2Proof/Decode.lean ====
section
/-! DEFINITION. The decoder of command words. No row of spec/opcode_table.json gives bits: commands come to the block as register
accesses, messages and pin events, so no word spells a command (log entry 1). The bundles of the cogs have an encoding of their
own, which the command BUNDLE decodes (Machine/Operands.lean). -/

namespace Sys2Proof

/-- The command that a word of the opcode table spells: none, since no row gives bits. -/
def decodeTableWord (_nbits _w : Nat) : Option Instr := none

end Sys2Proof
end

