-- ==== Sys2Proof/Machine/Crypto.lean ====
section
/-! DEFINITION. SHA-256 and the verification of ECDSA P-256 signatures, which R506 and R511 name. PRESUMED (log entry 33): as FIPS 180-4 and
FIPS 186-4 define them; the spec does not. -/

namespace Sys2Proof.Machine.Crypto

/-! ### SHA-256 -/

abbrev W32 := BitVec 32

/-- The greatest r below 2^n with r^e at most x. -/
def floorRoot (e x : Nat) : Nat → Nat
  | 0 => 0
  | n + 1 =>
    let top := floorRoot e (x / 2 ^ e) n * 2
    if (top + 1) ^ e ≤ x then top + 1 else top

/-- The first 64 primes. -/
def somePrimes : List Nat := ((List.range 312).filter fun n => decide (2 ≤ n) && (List.range 18).all fun d => decide (d < 2 ∨ n ≤ d ∨ n % d ≠ 0)).take 64

/-- The first 32 bits of the fractional part of the e-th root of a number below 2^10. -/
def rootBits (e p : Nat) : W32 := BitVec.ofNat 32 (floorRoot e (p * 2 ^ (32 * e)) 42)

/-- The round constants come from cube roots, and the first hash value from square roots. -/
def shaK : List W32 := somePrimes.map (rootBits 3)
def shaH : List W32 := (somePrimes.take 8).map (rootBits 2)

/-- A big-endian number from bytes, and the bytes of a number. -/
def beNat (bs : List Byte) : Nat := bs.foldl (fun v b => 256 * v + b.toNat) 0
def beBytes (n v : Nat) : List Byte := (List.range n).map fun i => BitVec.ofNat 8 (v / 256 ^ (n - 1 - i))

/-- The message with its padding. -/
def shaPad (m : List Byte) : List Byte := m ++ [0x80] ++ List.replicate ((119 - m.length % 64) % 64) 0 ++ beBytes 8 (8 * m.length)

/-- A word mixed with itself: the exclusive or of its rotations to the right, and of its shift to the right by `down` where there is one. -/
def mixed (x : W32) (turns : List Nat) (down : Option Nat) : W32 :=
  turns.foldl (fun y n => y ^^^ x.rotateRight n) (match down with
    | some n => x >>> n
    | none => 0)

/-- The last 16 words of the schedule, oldest first, move on by one word. -/
def scheduleNext : List W32 → List W32
  | [] => []
  | a :: r => r ++ [a + mixed (r.getD 0 0) [7, 18] (some 3) + r.getD 8 0 + mixed (r.getD 13 0) [17, 19] (some 10)]

/-- The eight working variables. -/
structure Work where
  a : W32
  b : W32
  c : W32
  d : W32
  e : W32
  f : W32
  g : W32
  h : W32
  deriving DecidableEq, Repr

def Work.ofList (l : List W32) : Work :=
  ⟨l.getD 0 0, l.getD 1 0, l.getD 2 0, l.getD 3 0, l.getD 4 0, l.getD 5 0, l.getD 6 0, l.getD 7 0⟩
def Work.toList (w : Work) : List W32 := [w.a, w.b, w.c, w.d, w.e, w.f, w.g, w.h]

/-- One round with the sum of a round constant and a word of the schedule. -/
def Work.round (w : Work) (kw : W32) : Work :=
  let pick := (w.e &&& w.f) ||| (~~~w.e &&& w.g)
  let most := (w.a &&& (w.b ||| w.c)) ||| (w.b &&& w.c)
  let t := w.h + mixed w.e [6, 11, 25] none + pick + kw
  ⟨t + mixed w.a [2, 13, 22] none + most, w.a, w.b, w.c, w.d + t, w.e, w.f, w.g⟩

/-- Rounds with the given constants, as the schedule moves on. -/
def rounds : List W32 → List W32 → Work → Work
  | [], _, w => w
  | k :: ks, ws, w => rounds ks (scheduleNext ws) (w.round (k + ws.headD 0))

/-- The hash value after a block. -/
def shaBlock (h : List W32) (block : List Byte) : List W32 :=
  let first := (List.range 16).map fun i => BitVec.ofNat 32 (beNat ((block.drop (4 * i)).take 4))
  List.zipWith (· + ·) h (rounds shaK first (Work.ofList h)).toList

/-- The 32 bytes of SHA-256 of a message. -/
def sha256 (m : List Byte) : List Byte :=
  let p := shaPad m
  ((List.range (p.length / 64)).foldl (fun h i => shaBlock h ((p.drop (64 * i)).take 64)) shaH).flatMap fun w => beBytes 4 w.toNat

/-! ### ECDSA on P-256 -/

def prime : Nat := 0xffffffff00000001000000000000000000000000ffffffffffffffffffffffff
def order : Nat := 0xffffffff00000000ffffffffffffffffbce6faada7179e84f3b9cac2fc632551
def curveB : Nat := 0x5ac635d8aa3a93e7b3ebbd55769886bc651d06b0cc53b0f63bce3c3e27d2604b
def base : Nat × Nat :=
  (0x6b17d1f2e12c4247f8bce6e563a440f277037d812deb33a0f4a13945d898c296, 0x4fe342e2fe1a7f9b8ee7eb4a7c0f9e162bce33576b315ececbb6406837bf51f5)

/-- b^e modulo m; `k` bounds the bits of the exponent. -/
def powMod (m b : Nat) : Nat → Nat → Nat
  | 0, _ => 1 % m
  | k + 1, e =>
    let h := powMod m b k (e / 2)
    let q := h * h % m
    if e % 2 = 1 then q * b % m else q

/-- The inverse modulo a prime. -/
def inverse (m a : Nat) : Nat := powMod m (a % m) 256 (m - 2)

/-- The sum of two points of the curve; none is the point at infinity. -/
def addPoints (p q : Option (Nat × Nat)) : Option (Nat × Nat) :=
  match p, q with
  | none, r | r, none => r
  | some (x1, y1), some (x2, y2) =>
    if x1 = x2 ∧ (y1 + y2) % prime = 0 then none
    else
      let l := if x1 = x2 then (3 * x1 * x1 + (prime - 3)) * inverse prime (2 * y1) % prime
        else (y2 + prime - y1) * inverse prime (x2 + prime - x1) % prime
      let x3 := (l * l + 2 * prime - x1 - x2) % prime
      some (x3, (l * (x1 + prime - x3) + prime - y1) % prime)

/-- n times a point; `k` bounds the bits of n. -/
def mulPoint (p : Option (Nat × Nat)) : Nat → Nat → Option (Nat × Nat)
  | 0, _ => none
  | k + 1, n =>
    let h := mulPoint p k (n / 2)
    let d := addPoints h h
    if n % 2 = 1 then addPoints d p else d

/-- Whether a point lies on the curve. -/
def onCurve (p : Nat × Nat) : Bool :=
  decide (p.1 < prime ∧ p.2 < prime ∧ p.2 * p.2 % prime = (p.1 * p.1 * p.1 + (prime - 3) * p.1 + curveB) % prime)

/-- Whether (r, s) is a signature of a digest under a public key. -/
def verifies (key : Nat × Nat) (digest : List Byte) (r s : Nat) : Bool :=
  onCurve key && decide (0 < r ∧ r < order ∧ 0 < s ∧ s < order) &&
  (let w := inverse order s
   match addPoints (mulPoint (some base) 256 (beNat digest * w % order)) (mulPoint (some key) 256 (r * w % order)) with
   | some (x, _) => decide (x % order = r)
   | none => false)

end Sys2Proof.Machine.Crypto
end

