-- ==== Sys2Proof/Config.lean ====
section
/-! DEFINITION. What one implementation fixes, and the free values of the model: constants without a body, so that no proof can
see them. -/

namespace Sys2Proof

/-- A free value: the syndrome that COG_LM_CAP.SYN shows, less one, after the n-th real uncorrectable read of a local store. R191
says only that it is never 0 (log entry 4). -/
opaque Config.syndrome : Nat → Fin 63

/-- A free value: the n-th value drawn where the spec states no result (log entry 4); its reader reduces it to the width at hand. -/
opaque Config.freeValue : Nat → Nat

/-- The direction of quadrature that counts up, A before B or B before A: R283 does not say which (log entry 26). -/
opaque Config.quadForward : Bool

end Sys2Proof
end

