-- ==== Sys2Proof/Machine/Regs.lean ====
section
/-! DEFINITION. Every register field of the device, one definition each, from the register tables of spec/ (the page map and
offsets of R527 to R531; the access codes of R9, the reset column of R10, the survives column of R11), the list of fields of each
kind of page, and the reset value of every register word. -/

namespace Sys2Proof.Machine

/-- The access codes of R9. -/
inductive Access where
  | rw | ro | wo | w1c | w1s | rc
  deriving DecidableEq, Repr

/-- The survives codes of R11; `none` is the dash. -/
inductive Keep where
  | none | ret | soft | aon
  deriving DecidableEq, Repr

/-- One register field: its offset within the page, the stride of an indexed register, its lowest bit and width, its access code,
its reset value and what it survives. -/
structure Fld where
  off : Nat
  stride : Nat
  lo : Nat
  w : Nat
  acc : Access
  rst : Nat
  keep : Keep
  deriving DecidableEq, Repr

namespace R

/-! SYS_ID: R514. -/
def SYS_ID_DEVID : Fld := ⟨0x40, 0, 0, 16, .ro, 598, .aon⟩
def SYS_ID_STEP : Fld := ⟨0x40, 0, 16, 8, .ro, 176, .aon⟩
/-! SYS_UID_LO: R514. -/
def SYS_UID_LO_UID : Fld := ⟨0x44, 0, 0, 32, .ro, 0, .aon⟩
/-! SYS_UID_HI: R514. -/
def SYS_UID_HI_UID : Fld := ⟨0x48, 0, 0, 32, .ro, 0, .aon⟩
/-! SYS_RST: R514. -/
def SYS_RST_KEY : Fld := ⟨0x4C, 0, 0, 8, .wo, 0, .none⟩
def SYS_RST_GO : Fld := ⟨0x4C, 0, 8, 1, .wo, 0, .none⟩
def SYS_RST_CAUSE : Fld := ⟨0x4C, 0, 16, 3, .ro, 1, .none⟩
/-! SYS_BOOT: R514. -/
def SYS_BOOT_STATE : Fld := ⟨0x50, 0, 0, 3, .ro, 0, .none⟩
def SYS_BOOT_CAUSE : Fld := ⟨0x50, 0, 4, 4, .ro, 0, .none⟩
def SYS_BOOT_GO : Fld := ⟨0x50, 0, 8, 1, .wo, 0, .none⟩
def SYS_BOOT_WARN : Fld := ⟨0x50, 0, 9, 1, .ro, 0, .none⟩
def SYS_BOOT_SRC : Fld := ⟨0x50, 0, 10, 1, .ro, 0, .none⟩
/-! SYS_SVN: R514. -/
def SYS_SVN_REC : Fld := ⟨0x54, 0, 0, 7, .ro, 0, .none⟩
def SYS_SVN_MIN : Fld := ⟨0x54, 0, 8, 7, .ro, 0, .none⟩
/-! SYS_LC: R514. -/
def SYS_LC_STATE : Fld := ⟨0x58, 0, 0, 3, .ro, 0, .none⟩
/-! SYS_ELOG_STAT: R514. -/
def SYS_ELOG_STAT_COUNT : Fld := ⟨0x60, 0, 0, 5, .ro, 0, .ret⟩
def SYS_ELOG_STAT_OVR : Fld := ⟨0x60, 0, 8, 1, .w1c, 0, .soft⟩
def SYS_ELOG_STAT_POP : Fld := ⟨0x60, 0, 9, 1, .wo, 0, .none⟩
/-! SYS_ELOG_A: R514. -/
def SYS_ELOG_A_ADDR : Fld := ⟨0x64, 0, 0, 32, .ro, 0, .ret⟩
/-! SYS_ELOG_B: R514. -/
def SYS_ELOG_B_KIND : Fld := ⟨0x68, 0, 0, 3, .ro, 0, .ret⟩
def SYS_ELOG_B_STAMP : Fld := ⟨0x68, 0, 4, 28, .ro, 0, .ret⟩
/-! SYS_OTPW: R514. -/
def SYS_OTPW_WORD : Fld := ⟨0x70, 0, 0, 6, .rw, 0, .soft⟩
def SYS_OTPW_GO : Fld := ⟨0x70, 0, 8, 1, .wo, 0, .none⟩
def SYS_OTPW_BUSY : Fld := ⟨0x70, 0, 9, 1, .ro, 0, .none⟩
def SYS_OTPW_REJECT : Fld := ⟨0x70, 0, 10, 1, .w1c, 0, .soft⟩
/-! SYS_OTPD: R514. -/
def SYS_OTPD_DATA : Fld := ⟨0x74, 0, 0, 32, .rw, 0, .soft⟩
/-! PWR_CTRL: R468. -/
def PWR_CTRL_MODE : Fld := ⟨0x40, 0, 0, 1, .rw, 1, .aon⟩
/-! PWR_WSTAT: R468. -/
def PWR_WSTAT_PIN : Fld := ⟨0x44, 0, 0, 4, .w1c, 0, .aon⟩
def PWR_WSTAT_LINK : Fld := ⟨0x44, 0, 4, 1, .w1c, 0, .aon⟩
def PWR_WSTAT_ALARM : Fld := ⟨0x44, 0, 5, 1, .w1c, 0, .aon⟩
def PWR_WSTAT_REPLAY : Fld := ⟨0x44, 0, 6, 1, .w1c, 0, .aon⟩
/-! PWR_IDLE: R468. -/
def PWR_IDLE_US : Fld := ⟨0x48, 0, 0, 16, .rw, 0, .aon⟩
/-! PWR_ALARM_LO: R468. -/
def PWR_ALARM_LO_STAMP : Fld := ⟨0x4C, 0, 0, 32, .rw, 0, .aon⟩
/-! PWR_ALARM_HI: R468. -/
def PWR_ALARM_HI_STAMP : Fld := ⟨0x50, 0, 0, 10, .rw, 0, .aon⟩
def PWR_ALARM_HI_EN : Fld := ⟨0x50, 0, 31, 1, .rw, 0, .aon⟩
/-! PWR_KICK: R468. -/
def PWR_KICK_COG : Fld := ⟨0x54, 0, 0, 9, .wo, 0, .none⟩
def PWR_KICK_GO : Fld := ⟨0x54, 0, 31, 1, .wo, 0, .none⟩
/-! PWR_WAKE: R468. -/
def PWR_WAKE_POL : Fld := ⟨0x60, 4, 0, 1, .rw, 0, .aon⟩
def PWR_WAKE_EDGE : Fld := ⟨0x60, 4, 1, 1, .rw, 0, .aon⟩
def PWR_WAKE_FILT : Fld := ⟨0x60, 4, 8, 8, .rw, 0, .aon⟩
def PWR_WAKE_LVL : Fld := ⟨0x60, 4, 16, 1, .ro, 1, .none⟩
/-! PWR_DOM: R468. -/
def PWR_DOM_REQ : Fld := ⟨0x100, 4, 0, 2, .rw, 0, .aon⟩
def PWR_DOM_STATE : Fld := ⟨0x100, 4, 2, 2, .ro, 0, .none⟩
def PWR_DOM_HOLD : Fld := ⟨0x100, 4, 4, 1, .ro, 0, .none⟩
def PWR_DOM_EMU : Fld := ⟨0x100, 4, 5, 1, .ro, 0, .none⟩
def PWR_DOM_FAIL : Fld := ⟨0x100, 4, 6, 1, .w1c, 0, .aon⟩
def PWR_DOM_IDLE_AUTO : Fld := ⟨0x100, 4, 7, 1, .rw, 0, .aon⟩
def PWR_DOM_WSET : Fld := ⟨0x100, 4, 8, 6, .rw, 0, .aon⟩
def PWR_DOM_ENTRIES : Fld := ⟨0x100, 4, 16, 16, .rw, 0, .aon⟩
/-! PMB_CFG: R469. -/
def PMB_CFG_SPEED : Fld := ⟨0x40, 0, 0, 2, .rw, 1, .soft⟩
def PMB_CFG_PEC : Fld := ⟨0x40, 0, 2, 1, .rw, 1, .soft⟩
/-! PMB_STAT: R469. -/
def PMB_STAT_BUSY : Fld := ⟨0x54, 0, 0, 1, .ro, 0, .none⟩
def PMB_STAT_ALERT : Fld := ⟨0x54, 0, 1, 1, .ro, 0, .none⟩
def PMB_STAT_NACK : Fld := ⟨0x54, 0, 2, 1, .w1c, 0, .soft⟩
def PMB_STAT_PECERR : Fld := ⟨0x54, 0, 3, 1, .w1c, 0, .soft⟩
def PMB_STAT_ARA_UNK : Fld := ⟨0x54, 0, 4, 1, .w1c, 0, .soft⟩
/-! PMB_ERR: R469. -/
def PMB_ERR_NACK : Fld := ⟨0x58, 0, 0, 8, .rw, 0, .ret⟩
def PMB_ERR_PEC : Fld := ⟨0x58, 0, 8, 8, .rw, 0, .ret⟩
def PMB_ERR_FAIL : Fld := ⟨0x58, 0, 16, 8, .rw, 0, .ret⟩
/-! PMB_ALERT: R469. -/
def PMB_ALERT_ADDR : Fld := ⟨0x5C, 0, 0, 7, .ro, 0, .soft⟩
def PMB_ALERT_STATUS : Fld := ⟨0x5C, 0, 16, 16, .ro, 0, .soft⟩
/-! PMB_Q: R469. -/
def PMB_Q_ADDR : Fld := ⟨0x44, 4, 0, 7, .rw, 0, .soft⟩
def PMB_Q_PAGED : Fld := ⟨0x44, 4, 7, 1, .rw, 0, .soft⟩
def PMB_Q_PAGE : Fld := ⟨0x44, 4, 8, 8, .rw, 0, .soft⟩
def PMB_Q_EXP : Fld := ⟨0x44, 4, 16, 5, .ro, 0, .ret⟩
def PMB_Q_MODE_OK : Fld := ⟨0x44, 4, 21, 1, .ro, 0, .ret⟩
/-! GOV_CTRL: R470. -/
def GOV_CTRL_EN : Fld := ⟨0x40, 0, 0, 1, .rw, 0, .soft⟩
def GOV_CTRL_MODE : Fld := ⟨0x40, 0, 1, 1, .rw, 0, .soft⟩
def GOV_CTRL_OFF_EN : Fld := ⟨0x40, 0, 2, 1, .rw, 0, .soft⟩
def GOV_CTRL_FAULT : Fld := ⟨0x40, 0, 8, 1, .w1c, 0, .soft⟩
/-! GOV_BAND: R470. -/
def GOV_BAND_LO : Fld := ⟨0x44, 0, 0, 16, .rw, 250, .soft⟩
def GOV_BAND_HI : Fld := ⟨0x44, 0, 16, 16, .rw, 625, .soft⟩
/-! GOV_STEP: R470. -/
def GOV_STEP_UP : Fld := ⟨0x48, 0, 0, 8, .rw, 20, .soft⟩
def GOV_STEP_DN : Fld := ⟨0x48, 0, 8, 8, .rw, 5, .soft⟩
def GOV_STEP_HOLD : Fld := ⟨0x48, 0, 16, 4, .rw, 4, .soft⟩
def GOV_STEP_QUIET : Fld := ⟨0x48, 0, 24, 8, .rw, 20, .soft⟩
/-! GOV_LIM: R470. -/
def GOV_LIM_VMIN : Fld := ⟨0x4C, 0, 0, 10, .rw, 600, .soft⟩
def GOV_LIM_VMAX : Fld := ⟨0x4C, 0, 10, 10, .rw, 900, .soft⟩
def GOV_LIM_VIDLE : Fld := ⟨0x4C, 0, 20, 10, .rw, 600, .soft⟩
/-! GOV_PER: R470. -/
def GOV_PER_US : Fld := ⟨0x50, 0, 0, 16, .rw, 1000, .soft⟩
/-! GOV_CFG: R470. -/
def GOV_CFG_SLEW : Fld := ⟨0x54, 0, 0, 8, .rw, 1, .soft⟩
def GOV_CFG_SETTLE : Fld := ⟨0x54, 0, 8, 8, .rw, 10, .soft⟩
def GOV_CFG_TON : Fld := ⟨0x54, 0, 16, 8, .rw, 5, .soft⟩
/-! GOV_SET: R470. -/
def GOV_SET_MV : Fld := ⟨0x58, 0, 0, 10, .rw, 900, .soft⟩
def GOV_SET_VSTART : Fld := ⟨0x58, 0, 16, 10, .rw, 900, .soft⟩
/-! GOV_V: R470. -/
def GOV_V_VOUT : Fld := ⟨0x5C, 0, 0, 10, .ro, 0, .ret⟩
def GOV_V_MEAS : Fld := ⟨0x5C, 0, 16, 10, .ro, 0, .ret⟩
def GOV_V_ASSIST : Fld := ⟨0x5C, 0, 26, 1, .ro, 0, .ret⟩
def GOV_V_CHANGING : Fld := ⟨0x5C, 0, 27, 1, .ro, 0, .none⟩
def GOV_V_RAIL_OFF : Fld := ⟨0x5C, 0, 28, 1, .ro, 0, .ret⟩
/-! GOV_SLK: R470. -/
def GOV_SLK_SMIN : Fld := ⟨0x60, 0, 0, 28, .ro, 0, .none⟩
def GOV_SLK_NONE : Fld := ⟨0x60, 0, 28, 1, .ro, 0, .none⟩
/-! GOV_CNT: R470. -/
def GOV_CNT_UPS : Fld := ⟨0x64, 0, 0, 8, .rw, 0, .ret⟩
def GOV_CNT_DOWNS : Fld := ⟨0x64, 0, 8, 8, .rw, 0, .ret⟩
def GOV_CNT_LATEP : Fld := ⟨0x64, 0, 16, 8, .rw, 0, .ret⟩
def GOV_CNT_QUIETP : Fld := ⟨0x64, 0, 24, 8, .rw, 0, .ret⟩
/-! GOV_TEL: R470. -/
def GOV_TEL_IOUT : Fld := ⟨0x68, 0, 0, 16, .ro, 0, .none⟩
/-! XING_SEL: R471. -/
def XING_SEL_DOM : Fld := ⟨0x40, 0, 0, 6, .rw, 0, .soft⟩
/-! XING_STAT: R471. -/
def XING_STAT_SRC_RST : Fld := ⟨0x44, 0, 0, 1, .w1c, 0, .soft⟩
def XING_STAT_OVF : Fld := ⟨0x44, 0, 1, 1, .w1c, 0, .soft⟩
def XING_STAT_LOST : Fld := ⟨0x44, 0, 8, 8, .rw, 0, .ret⟩
/-! HLT_BRAKE: R499. -/
def HLT_BRAKE_ACTIVE : Fld := ⟨0x40, 0, 0, 1, .ro, 1, .aon⟩
def HLT_BRAKE_SET : Fld := ⟨0x40, 0, 1, 1, .wo, 0, .none⟩
def HLT_BRAKE_CLR : Fld := ⟨0x40, 0, 2, 1, .wo, 0, .none⟩
def HLT_BRAKE_CLR_REJ : Fld := ⟨0x40, 0, 3, 1, .w1c, 0, .aon⟩
def HLT_BRAKE_CAUSES : Fld := ⟨0x40, 0, 8, 7, .ro, 1, .aon⟩
def HLT_BRAKE_PRESENT : Fld := ⟨0x40, 0, 16, 7, .ro, 0, .none⟩
/-! HLT_BRKIN: R499. -/
def HLT_BRKIN_FILT : Fld := ⟨0x44, 0, 0, 4, .rw, 0, .aon⟩
def HLT_BRKIN_LVL : Fld := ⟨0x44, 0, 4, 1, .ro, 1, .none⟩
/-! HLT_BRK_T_LO: R499. -/
def HLT_BRK_T_LO_STAMP : Fld := ⟨0x48, 0, 0, 32, .ro, 0, .aon⟩
/-! HLT_BRK_T_HI: R499. -/
def HLT_BRK_T_HI_STAMP : Fld := ⟨0x4C, 0, 0, 10, .ro, 0, .aon⟩
/-! HLT_TCFG: R499. -/
def HLT_TCFG_WARN : Fld := ⟨0x50, 0, 0, 8, .rw, 95, .soft⟩
def HLT_TCFG_CRIT : Fld := ⟨0x50, 0, 8, 8, .rw, 110, .soft⟩
def HLT_TCFG_CRIT_BRAKE : Fld := ⟨0x50, 0, 16, 1, .rw, 1, .soft⟩
/-! HLT_RAIL: R499. -/
def HLT_RAIL_LOW : Fld := ⟨0x68, 0, 0, 6, .ro, 0, .none⟩
def HLT_RAIL_HIGH : Fld := ⟨0x68, 0, 8, 6, .ro, 0, .none⟩
/-! HLT_WDT_CAP: R499. -/
def HLT_WDT_CAP_COG : Fld := ⟨0x6C, 0, 0, 9, .ro, 0, .soft⟩
def HLT_WDT_CAP_PC : Fld := ⟨0x6C, 0, 10, 19, .ro, 0, .soft⟩
def HLT_WDT_CAP_OVR : Fld := ⟨0x6C, 0, 30, 1, .w1c, 0, .soft⟩
def HLT_WDT_CAP_VALID : Fld := ⟨0x6C, 0, 31, 1, .w1c, 0, .soft⟩
/-! HLT_TEMP: R499. -/
def HLT_TEMP_T : Fld := ⟨0x54, 4, 0, 12, .ro, 0, .none⟩
def HLT_TEMP_WARN : Fld := ⟨0x54, 4, 16, 1, .ro, 0, .none⟩
def HLT_TEMP_CRIT : Fld := ⟨0x54, 4, 17, 1, .ro, 0, .none⟩
/-! DL_CFG: R500. -/
def DL_CFG_MASK : Fld := ⟨0x40, 16, 0, 5, .rw, 0, .soft⟩
def DL_CFG_BURST : Fld := ⟨0x40, 16, 8, 8, .rw, 0, .soft⟩
def DL_CFG_LIMIT : Fld := ⟨0x40, 16, 16, 8, .rw, 0, .soft⟩
def DL_CFG_CONSEC : Fld := ⟨0x40, 16, 24, 4, .rw, 1, .soft⟩
def DL_CFG_ACTION : Fld := ⟨0x40, 16, 28, 1, .rw, 1, .soft⟩
def DL_CFG_EN : Fld := ⟨0x40, 16, 31, 1, .rw, 0, .soft⟩
/-! DL_STAT: R500. -/
def DL_STAT_CUR : Fld := ⟨0x44, 16, 0, 16, .ro, 0, .ret⟩
def DL_STAT_RUN : Fld := ⟨0x44, 16, 16, 4, .ro, 0, .ret⟩
def DL_STAT_LAST : Fld := ⟨0x44, 16, 20, 3, .ro, 0, .ret⟩
def DL_STAT_FIRED : Fld := ⟨0x44, 16, 24, 1, .w1c, 0, .soft⟩
/-! DL_CNT: R500. -/
def DL_CNT_TOTAL : Fld := ⟨0x48, 16, 0, 32, .rw, 0, .ret⟩
/-! DBG_STAT: R501. -/
def DBG_STAT_LEVEL_J : Fld := ⟨0x40, 0, 0, 2, .ro, 0, .none⟩
def DBG_STAT_LEVEL_W : Fld := ⟨0x40, 0, 2, 2, .ro, 0, .none⟩
def DBG_STAT_ATTACH : Fld := ⟨0x40, 0, 4, 1, .ro, 0, .none⟩
/-! DBG_BENCH: R501. -/
def DBG_BENCH_EN : Fld := ⟨0x44, 0, 0, 1, .rw, 0, .none⟩
def DBG_BENCH_REFUSE : Fld := ⟨0x44, 0, 1, 1, .w1c, 0, .soft⟩
/-! PEL_CFG: R501. -/
def PEL_CFG_TRIG_ANY : Fld := ⟨0x40, 16, 0, 1, .rw, 0, .soft⟩
def PEL_CFG_FREEZE : Fld := ⟨0x40, 16, 1, 1, .rw, 0, .soft⟩
def PEL_CFG_BRK : Fld := ⟨0x40, 16, 2, 1, .rw, 0, .soft⟩
def PEL_CFG_GO : Fld := ⟨0x40, 16, 8, 1, .wo, 0, .none⟩
def PEL_CFG_RESUME : Fld := ⟨0x40, 16, 9, 1, .wo, 0, .none⟩
/-! PEL_STAT: R501. -/
def PEL_STAT_TRIGGERED : Fld := ⟨0x44, 16, 0, 1, .ro, 0, .none⟩
def PEL_STAT_LAG : Fld := ⟨0x44, 16, 16, 9, .ro, 0, .none⟩
/-! PEL_T: R501. -/
def PEL_T_STAMP : Fld := ⟨0x48, 16, 0, 32, .ro, 0, .soft⟩
/-! TRC_CTRL: R501. -/
def TRC_CTRL_EN : Fld := ⟨0x40, 0, 0, 1, .rw, 0, .soft⟩
def TRC_CTRL_HALTS : Fld := ⟨0x40, 0, 1, 1, .rw, 0, .soft⟩
def TRC_CTRL_TRAPS : Fld := ⟨0x40, 0, 2, 1, .rw, 0, .soft⟩
def TRC_CTRL_BRAKE : Fld := ⟨0x40, 0, 3, 1, .rw, 0, .soft⟩
/-! TRC_MASK: R501. -/
def TRC_MASK_PORTS : Fld := ⟨0x44, 0, 0, 32, .rw, 0, .soft⟩
/-! TRC_STAT: R501. -/
def TRC_STAT_COUNT : Fld := ⟨0x48, 0, 0, 13, .ro, 0, .none⟩
def TRC_STAT_DROP : Fld := ⟨0x48, 0, 16, 16, .rw, 0, .ret⟩
/-! TRC_POP: R501. -/
def TRC_POP_POP : Fld := ⟨0x5C, 0, 0, 1, .wo, 0, .none⟩
/-! TRC_DATA: R502. -/
def TRC_DATA_BYTES : Fld := ⟨0x4C, 4, 0, 32, .ro, 0, .none⟩
/-! EV_SRC_IDX: R413. -/
def EV_SRC_IDX_IDX : Fld := ⟨0x40, 0, 0, 10, .rw, 0, .soft⟩
/-! EV_GRP_IDX: R413. -/
def EV_GRP_IDX_IDX : Fld := ⟨0x4C, 0, 0, 6, .rw, 0, .soft⟩
/-! EV_SW: R413. -/
def EV_SW_RAISE : Fld := ⟨0x5C, 0, 0, 16, .w1s, 0, .none⟩
/-! EV_HFIN: R413. -/
def EV_HFIN_NUM : Fld := ⟨0x60, 0, 0, 10, .wo, 0, .none⟩
/-! EV_ERR: R413. -/
def EV_ERR_BADFIN : Fld := ⟨0x64, 0, 0, 8, .rw, 0, .ret⟩
def EV_ERR_OVF : Fld := ⟨0x64, 0, 8, 8, .rw, 0, .ret⟩
/-! EV_HCLAIM: R413. -/
def EV_HCLAIM_NUM : Fld := ⟨0x100, 4, 0, 10, .rc, 1023, .none⟩
/-! EV_SRC_CFG: R413. -/
def EV_SRC_CFG_MASK : Fld := ⟨0x44, 0, 0, 16, .rw, 0, .soft⟩
def EV_SRC_CFG_CAS : Fld := ⟨0x44, 0, 16, 4, .rw, 0, .soft⟩
def EV_SRC_CFG_CLASS : Fld := ⟨0x44, 0, 20, 4, .rw, 0, .soft⟩
def EV_SRC_CFG_VEC : Fld := ⟨0x44, 0, 24, 6, .rw, 0, .soft⟩
def EV_SRC_CFG_HOST : Fld := ⟨0x44, 0, 30, 1, .rw, 0, .soft⟩
def EV_SRC_CFG_EN : Fld := ⟨0x44, 0, 31, 1, .rw, 0, .soft⟩
/-! EV_SRC_STAT: R413. -/
def EV_SRC_STAT_STATE : Fld := ⟨0x48, 0, 0, 2, .ro, 0, .ret⟩
def EV_SRC_STAT_LEVEL : Fld := ⟨0x48, 0, 2, 1, .ro, 0, .none⟩
def EV_SRC_STAT_COND : Fld := ⟨0x48, 0, 3, 1, .ro, 0, .none⟩
def EV_SRC_STAT_REPEAT : Fld := ⟨0x48, 0, 4, 1, .ro, 0, .ret⟩
def EV_SRC_STAT_OWNER : Fld := ⟨0x48, 0, 8, 6, .ro, 0, .ret⟩
def EV_SRC_STAT_HOSTCL : Fld := ⟨0x48, 0, 14, 1, .ro, 0, .ret⟩
def EV_SRC_STAT_CASO : Fld := ⟨0x48, 0, 16, 4, .ro, 0, .ret⟩
/-! EV_GRP_CFG: R413. -/
def EV_GRP_CFG_COUNT : Fld := ⟨0x50, 0, 0, 14, .rw, 1, .soft⟩
/-! EV_GRP_NS: R413. -/
def EV_GRP_NS_NS : Fld := ⟨0x54, 0, 0, 20, .rw, 0, .soft⟩
/-! EV_GRP_STAT: R413. -/
def EV_GRP_STAT_HELD : Fld := ⟨0x58, 0, 0, 14, .ro, 0, .ret⟩
/-! MV_ERR: R400. -/
def MV_ERR_REJECT : Fld := ⟨0x40, 0, 0, 8, .rw, 0, .ret⟩
def MV_ERR_DATA : Fld := ⟨0x40, 0, 8, 8, .rw, 0, .ret⟩
def MV_ERR_ADDR : Fld := ⟨0x40, 0, 16, 8, .rw, 0, .ret⟩
def MV_ERR_HOST : Fld := ⟨0x40, 0, 24, 8, .rw, 0, .ret⟩
/-! MV_CAP: R400. -/
def MV_CAP_CH : Fld := ⟨0x44, 0, 0, 6, .ro, 0, .soft⟩
def MV_CAP_CAUSE : Fld := ⟨0x44, 0, 8, 4, .ro, 0, .soft⟩
def MV_CAP_OVR : Fld := ⟨0x44, 0, 30, 1, .w1c, 0, .soft⟩
def MV_CAP_VALID : Fld := ⟨0x44, 0, 31, 1, .w1c, 0, .soft⟩
/-! MV_HWIN_LO: R400. -/
def MV_HWIN_LO_EN : Fld := ⟨0x100, 8, 0, 1, .rw, 0, .soft⟩
def MV_HWIN_LO_BASE : Fld := ⟨0x100, 8, 12, 20, .rw, 0, .soft⟩
/-! MV_HWIN_HI: R400. -/
def MV_HWIN_HI_BASE : Fld := ⟨0x104, 8, 0, 32, .rw, 0, .soft⟩
/-! MV_CFG: R401. -/
def MV_CFG_DSRC : Fld := ⟨0x40, 64, 0, 2, .rw, 0, .soft⟩
def MV_CFG_PRIO : Fld := ⟨0x40, 64, 4, 2, .rw, 0, .soft⟩
def MV_CFG_EN : Fld := ⟨0x40, 64, 8, 1, .rw, 0, .soft⟩
/-! MV_CTRL: R401. -/
def MV_CTRL_GO : Fld := ⟨0x44, 64, 0, 1, .wo, 0, .none⟩
def MV_CTRL_STOP : Fld := ⟨0x44, 64, 1, 1, .wo, 0, .none⟩
def MV_CTRL_CLR : Fld := ⟨0x44, 64, 2, 1, .wo, 0, .none⟩
/-! MV_STAT: R401. -/
def MV_STAT_STATE : Fld := ⟨0x48, 64, 0, 3, .ro, 0, .ret⟩
def MV_STAT_EN_PENDING : Fld := ⟨0x48, 64, 4, 1, .ro, 0, .none⟩
def MV_STAT_CAUSE : Fld := ⟨0x48, 64, 8, 4, .ro, 0, .soft⟩
def MV_STAT_DONE : Fld := ⟨0x48, 64, 16, 16, .rw, 0, .ret⟩
/-! MV_NEXT: R401. -/
def MV_NEXT_ADDR : Fld := ⟨0x4C, 64, 0, 28, .rw, 0, .soft⟩
/-! MV_REM: R401. -/
def MV_REM_REM : Fld := ⟨0x50, 64, 0, 28, .ro, 0, .ret⟩
/-! MV_ERRAT: R401. -/
def MV_ERRAT_OFS : Fld := ⟨0x54, 64, 0, 28, .ro, 0, .soft⟩
/-! MV_CMP: R401. -/
def MV_CMP_OFS : Fld := ⟨0x58, 64, 0, 28, .ro, 0, .soft⟩
def MV_CMP_MISMATCH : Fld := ⟨0x58, 64, 31, 1, .w1c, 0, .soft⟩
/-! MV_TAG: R401. -/
def MV_TAG_TAG : Fld := ⟨0x5C, 64, 0, 14, .ro, 0, .ret⟩
/-! MV_D0: R401. -/
def MV_D0_WA : Fld := ⟨0x60, 64, 0, 14, .rw, 0, .soft⟩
def MV_D0_WB : Fld := ⟨0x60, 64, 16, 14, .rw, 0, .soft⟩
/-! MV_D1: R401. -/
def MV_D1_WA : Fld := ⟨0x64, 64, 0, 14, .rw, 0, .soft⟩
def MV_D1_WB : Fld := ⟨0x64, 64, 16, 14, .rw, 0, .soft⟩
/-! MV_D2: R401. -/
def MV_D2_WA : Fld := ⟨0x68, 64, 0, 14, .rw, 0, .soft⟩
def MV_D2_WB : Fld := ⟨0x68, 64, 16, 14, .rw, 0, .soft⟩
/-! MV_D3: R401. -/
def MV_D3_WA : Fld := ⟨0x6C, 64, 0, 14, .rw, 0, .soft⟩
def MV_D3_WB : Fld := ⟨0x6C, 64, 16, 14, .rw, 0, .soft⟩
/-! MV_D4: R401. -/
def MV_D4_WA : Fld := ⟨0x70, 64, 0, 14, .rw, 0, .soft⟩
def MV_D4_WB : Fld := ⟨0x70, 64, 16, 14, .rw, 0, .soft⟩
/-! MV_D5: R401. -/
def MV_D5_WA : Fld := ⟨0x74, 64, 0, 14, .rw, 0, .soft⟩
def MV_D5_WB : Fld := ⟨0x74, 64, 16, 14, .rw, 0, .soft⟩
/-! MV_D6: R401. -/
def MV_D6_WA : Fld := ⟨0x78, 64, 0, 14, .rw, 0, .soft⟩
def MV_D6_WB : Fld := ⟨0x78, 64, 16, 14, .rw, 0, .soft⟩
/-! MV_D7: R401. -/
def MV_D7_WA : Fld := ⟨0x7C, 64, 0, 14, .rw, 0, .soft⟩
def MV_D7_WB : Fld := ⟨0x7C, 64, 16, 14, .rw, 0, .soft⟩
/-! JRN_CTRL: R434. -/
def JRN_CTRL_EN : Fld := ⟨0x40, 0, 0, 1, .rw, 0, .soft⟩
def JRN_CTRL_MARK : Fld := ⟨0x40, 0, 1, 1, .wo, 0, .none⟩
def JRN_CTRL_DEST : Fld := ⟨0x40, 0, 2, 1, .rw, 0, .soft⟩
def JRN_CTRL_WRAP : Fld := ⟨0x40, 0, 3, 1, .rw, 0, .soft⟩
def JRN_CTRL_TRIG_EN : Fld := ⟨0x40, 0, 4, 1, .rw, 0, .soft⟩
def JRN_CTRL_CAS : Fld := ⟨0x40, 0, 8, 4, .rw, 0, .soft⟩
def JRN_CTRL_POST : Fld := ⟨0x40, 0, 16, 16, .rw, 0, .soft⟩
/-! JRN_STAT: R434. -/
def JRN_STAT_ACTIVE : Fld := ⟨0x44, 0, 0, 1, .ro, 0, .none⟩
def JRN_STAT_FROZEN : Fld := ⟨0x44, 0, 1, 1, .ro, 0, .ret⟩
def JRN_STAT_GAP : Fld := ⟨0x44, 0, 2, 1, .w1c, 0, .soft⟩
def JRN_STAT_REFUSE : Fld := ⟨0x44, 0, 3, 1, .w1c, 0, .soft⟩
def JRN_STAT_FIFO : Fld := ⟨0x44, 0, 16, 13, .ro, 0, .none⟩
/-! JRN_DST_LO: R434. -/
def JRN_DST_LO_BASE : Fld := ⟨0x48, 0, 16, 16, .rw, 0, .soft⟩
/-! JRN_DST_HI: R434. -/
def JRN_DST_HI_BASE : Fld := ⟨0x4C, 0, 0, 32, .rw, 0, .soft⟩
/-! JRN_SIZE: R434. -/
def JRN_SIZE_K : Fld := ⟨0x50, 0, 0, 5, .rw, 16, .soft⟩
def JRN_SIZE_SBASE : Fld := ⟨0x50, 0, 12, 18, .rw, 0, .soft⟩
/-! JRN_WP: R434. -/
def JRN_WP_WP : Fld := ⟨0x54, 0, 0, 32, .ro, 0, .ret⟩
/-! JRN_RP: R434. -/
def JRN_RP_RP : Fld := ⟨0x58, 0, 0, 32, .rw, 0, .soft⟩
/-! JRN_DIG: R434. -/
def JRN_DIG_PORT : Fld := ⟨0x5C, 0, 0, 3, .rw, 0, .soft⟩
/-! JRN_EPOCH: R434. -/
def JRN_EPOCH_MBX : Fld := ⟨0x40, 0, 0, 4, .rw, 0, .soft⟩
def JRN_EPOCH_ARM : Fld := ⟨0x40, 0, 8, 1, .rw, 0, .soft⟩
def JRN_EPOCH_SNAP_BUSY : Fld := ⟨0x40, 0, 9, 1, .ro, 0, .none⟩
def JRN_EPOCH_BAD : Fld := ⟨0x40, 0, 10, 1, .w1c, 0, .soft⟩
def JRN_EPOCH_NUM : Fld := ⟨0x40, 0, 16, 16, .ro, 0, .ret⟩
/-! JRN_E_LO: R434. -/
def JRN_E_LO_E : Fld := ⟨0x44, 0, 0, 32, .ro, 0, .ret⟩
/-! JRN_E_HI: R434. -/
def JRN_E_HI_E : Fld := ⟨0x48, 0, 0, 10, .ro, 0, .ret⟩
/-! JRN_SNAPCNT: R434. -/
def JRN_SNAPCNT_CNT : Fld := ⟨0x4C, 0, 0, 16, .ro, 0, .ret⟩
/-! JRN_RPL: R435. -/
def JRN_RPL_EN : Fld := ⟨0x40, 0, 0, 1, .rw, 0, .soft⟩
def JRN_RPL_GO : Fld := ⟨0x40, 0, 1, 1, .wo, 0, .none⟩
def JRN_RPL_STOP_ON_DIV : Fld := ⟨0x40, 0, 2, 1, .rw, 1, .soft⟩
/-! JRN_RPL_OFS_LO: R435. -/
def JRN_RPL_OFS_LO_OFS : Fld := ⟨0x44, 0, 0, 32, .rw, 0, .soft⟩
/-! JRN_RPL_OFS_HI: R435. -/
def JRN_RPL_OFS_HI_OFS : Fld := ⟨0x48, 0, 0, 10, .rw, 0, .soft⟩
/-! JRN_RPL_END: R435. -/
def JRN_RPL_END_END : Fld := ⟨0x4C, 0, 0, 32, .rw, 0, .soft⟩
/-! JRN_RPL_RD: R435. -/
def JRN_RPL_RD_RD : Fld := ⟨0x50, 0, 0, 32, .ro, 0, .none⟩
/-! JRN_RPL_STAT: R435. -/
def JRN_RPL_STAT_STATE : Fld := ⟨0x54, 0, 0, 3, .ro, 0, .none⟩
def JRN_RPL_STAT_BREAK_SEEN : Fld := ⟨0x54, 0, 3, 1, .w1c, 0, .soft⟩
def JRN_RPL_STAT_LIVE : Fld := ⟨0x54, 0, 8, 8, .rw, 0, .ret⟩
/-! JRN_DIV: R435. -/
def JRN_DIV_CAUSE : Fld := ⟨0x58, 0, 0, 3, .ro, 0, .soft⟩
def JRN_DIV_TMARK : Fld := ⟨0x58, 0, 3, 1, .ro, 0, .soft⟩
def JRN_DIV_VALID : Fld := ⟨0x58, 0, 4, 1, .w1c, 0, .soft⟩
def JRN_DIV_DIVCNT : Fld := ⟨0x58, 0, 8, 8, .rw, 0, .ret⟩
/-! JRN_DIV_C_LO: R435. -/
def JRN_DIV_C_LO_C : Fld := ⟨0x5C, 0, 0, 32, .ro, 0, .soft⟩
/-! JRN_DIV_C_HI: R435. -/
def JRN_DIV_C_HI_C : Fld := ⟨0x60, 0, 0, 10, .ro, 0, .soft⟩
/-! JRN_DIV_HR_LO: R435. -/
def JRN_DIV_HR_LO_HASH : Fld := ⟨0x64, 0, 0, 32, .ro, 0, .soft⟩
/-! JRN_DIV_HR_HI: R435. -/
def JRN_DIV_HR_HI_HASH : Fld := ⟨0x68, 0, 0, 32, .ro, 0, .soft⟩
/-! JRN_DIV_HL_LO: R435. -/
def JRN_DIV_HL_LO_HASH : Fld := ⟨0x6C, 0, 0, 32, .ro, 0, .soft⟩
/-! JRN_DIV_HL_HI: R435. -/
def JRN_DIV_HL_HI_HASH : Fld := ⟨0x70, 0, 0, 32, .ro, 0, .soft⟩
/-! JRN_DIV_MK: R435. -/
def JRN_DIV_MK_REC : Fld := ⟨0x74, 0, 0, 12, .ro, 0, .soft⟩
def JRN_DIV_MK_LOC : Fld := ⟨0x74, 0, 16, 12, .ro, 0, .soft⟩
/-! JRN_LOST: R436. -/
def JRN_LOST_LOST : Fld := ⟨0x40, 0, 0, 32, .rw, 0, .ret⟩
/-! JRN_BRK: R436. -/
def JRN_BRK_CNT : Fld := ⟨0x44, 0, 0, 16, .rw, 0, .ret⟩
def JRN_BRK_LAST : Fld := ⟨0x44, 0, 16, 4, .ro, 0, .soft⟩
/-! JRN_TRIG_CFG: R436. -/
def JRN_TRIG_CFG_FILT : Fld := ⟨0x48, 0, 0, 4, .rw, 0, .soft⟩
def JRN_TRIG_CFG_EDGE : Fld := ⟨0x48, 0, 4, 1, .rw, 0, .soft⟩
/-! TB_NOW_LO: R261. -/
def TB_NOW_LO_NOW : Fld := ⟨0x40, 0, 0, 32, .ro, 0, .none⟩
/-! TB_NOW_HI: R261. -/
def TB_NOW_HI_NOW : Fld := ⟨0x44, 0, 0, 32, .ro, 0, .none⟩
/-! TB_STAT: R261. -/
def TB_STAT_HOLD : Fld := ⟨0x48, 0, 0, 1, .ro, 0, .aon⟩
def TB_STAT_SLEW : Fld := ⟨0x48, 0, 1, 1, .ro, 0, .aon⟩
def TB_STAT_REF_OK : Fld := ⟨0x48, 0, 2, 1, .ro, 1, .aon⟩
def TB_STAT_HOLD_SMP : Fld := ⟨0x48, 0, 3, 1, .ro, 0, .aon⟩
def TB_STAT_HOLD_SEEN : Fld := ⟨0x48, 0, 8, 1, .w1c, 0, .aon⟩
def TB_STAT_HOLD_CNT : Fld := ⟨0x48, 0, 16, 16, .rw, 0, .aon⟩
/-! TB_ADJ: R261. -/
def TB_ADJ_OFS : Fld := ⟨0x4C, 0, 0, 28, .rw, 0, .aon⟩
def TB_ADJ_GO : Fld := ⟨0x4C, 0, 31, 1, .wo, 0, .none⟩
/-! TB_ADJ_REM: R261. -/
def TB_ADJ_REM_REM : Fld := ⟨0x50, 0, 0, 28, .ro, 0, .aon⟩
/-! TB_HOLD_IN: R261. -/
def TB_HOLD_IN_STAMP : Fld := ⟨0x54, 0, 0, 32, .ro, 0, .aon⟩
/-! TB_HOLD_OUT: R261. -/
def TB_HOLD_OUT_STAMP : Fld := ⟨0x58, 0, 0, 32, .ro, 0, .aon⟩
/-! CAM_LOAD: R262. -/
def CAM_LOAD_DEMAND : Fld := ⟨0x40, 0, 0, 25, .ro, 0, .ret⟩
def CAM_LOAD_REFUSE : Fld := ⟨0x40, 0, 31, 1, .w1c, 0, .soft⟩
/-! CAM_FAULT: R262. -/
def CAM_FAULT_ORDER : Fld := ⟨0x44, 0, 0, 8, .rw, 0, .ret⟩
def CAM_FAULT_UE_AX : Fld := ⟨0x44, 0, 8, 8, .rw, 0, .ret⟩
def CAM_FAULT_LATE : Fld := ⟨0x44, 0, 16, 16, .rw, 0, .ret⟩
/-! CAM_TBL_IDX: R262. -/
def CAM_TBL_IDX_IDX : Fld := ⟨0x48, 0, 0, 10, .rw, 0, .soft⟩
/-! CAM_PORT: R262. -/
def CAM_PORT_RATE : Fld := ⟨0x60, 4, 0, 2, .rw, 0, .soft⟩
def CAM_PORT_LEAD : Fld := ⟨0x60, 4, 2, 16, .rw, 5000, .soft⟩
def CAM_PORT_CLAMP : Fld := ⟨0x60, 4, 18, 1, .ro, 0, .none⟩
/-! CAM_TBL_A: R262. -/
def CAM_TBL_A_OFS : Fld := ⟨0x4C, 0, 0, 16, .rw, 0, .soft⟩
def CAM_TBL_A_FIRST : Fld := ⟨0x4C, 0, 16, 3, .rw, 0, .soft⟩
def CAM_TBL_A_SPAN : Fld := ⟨0x4C, 0, 20, 2, .rw, 0, .soft⟩
def CAM_TBL_A_CAD : Fld := ⟨0x4C, 0, 24, 4, .rw, 0, .soft⟩
def CAM_TBL_A_EN : Fld := ⟨0x4C, 0, 31, 1, .rw, 0, .soft⟩
/-! CAM_TBL_B: R262. -/
def CAM_TBL_B_POINTS : Fld := ⟨0x50, 0, 0, 15, .rw, 0, .soft⟩
/-! CAM_TBL_ADV: R262. -/
def CAM_TBL_ADV_ADV : Fld := ⟨0x54, 0, 0, 28, .rw, 0, .soft⟩
/-! CAM_TBL_STAT: R262. -/
def CAM_TBL_STAT_LIVE : Fld := ⟨0x58, 0, 0, 3, .ro, 0, .ret⟩
def CAM_TBL_STAT_ARMED : Fld := ⟨0x58, 0, 8, 1, .ro, 0, .ret⟩
def CAM_TBL_STAT_ARM_CYCLE : Fld := ⟨0x58, 0, 10, 14, .ro, 0, .ret⟩
def CAM_TBL_STAT_REFUSE : Fld := ⟨0x58, 0, 24, 4, .ro, 0, .soft⟩
/-! CAD_CTRL: R263. -/
def CAD_CTRL_EN : Fld := ⟨0x40, 64, 0, 1, .rw, 0, .soft⟩
def CAD_CTRL_NOTE_EN : Fld := ⟨0x40, 64, 1, 1, .rw, 0, .soft⟩
def CAD_CTRL_SYNC_EN : Fld := ⟨0x40, 64, 2, 1, .rw, 0, .soft⟩
def CAD_CTRL_SYNC_GAIN : Fld := ⟨0x40, 64, 4, 3, .rw, 0, .soft⟩
def CAD_CTRL_NOTE_CHAN : Fld := ⟨0x40, 64, 8, 12, .rw, 0, .soft⟩
/-! CAD_RATE_LO: R263. -/
def CAD_RATE_LO_VALUE : Fld := ⟨0x44, 64, 0, 32, .rw, 0, .ret⟩
/-! CAD_RATE_HI: R263. -/
def CAD_RATE_HI_VALUE : Fld := ⟨0x48, 64, 0, 10, .rw, 0, .ret⟩
/-! CAD_POS_LO: R263. -/
def CAD_POS_LO_VALUE : Fld := ⟨0x4C, 64, 0, 32, .rw, 0, .ret⟩
/-! CAD_POS_HI: R263. -/
def CAD_POS_HI_VALUE : Fld := ⟨0x50, 64, 0, 10, .rw, 0, .ret⟩
/-! CAD_TRIM: R263. -/
def CAD_TRIM_MAX : Fld := ⟨0x54, 64, 0, 25, .rw, 16777216, .soft⟩
/-! CAD_SLEW: R263. -/
def CAD_SLEW_TICKS : Fld := ⟨0x58, 64, 0, 24, .rw, 1000000, .soft⟩
/-! CAD_SYNC: R263. -/
def CAD_SYNC_OFS : Fld := ⟨0x5C, 64, 0, 20, .rw, 0, .soft⟩
/-! CAD_SYNCW: R263. -/
def CAD_SYNCW_WIN : Fld := ⟨0x60, 64, 0, 16, .rw, 0, .soft⟩
def CAD_SYNCW_DLY : Fld := ⟨0x60, 64, 16, 16, .rw, 2000, .soft⟩
/-! CAD_NOTE: R263. -/
def CAD_NOTE_LEAD : Fld := ⟨0x64, 64, 0, 20, .rw, 0, .soft⟩
/-! CAD_STAT: R263. -/
def CAD_STAT_CYCLE : Fld := ⟨0x68, 64, 0, 14, .ro, 0, .ret⟩
def CAD_STAT_RAMP : Fld := ⟨0x68, 64, 16, 1, .ro, 0, .ret⟩
def CAD_STAT_HELD : Fld := ⟨0x68, 64, 17, 1, .ro, 0, .ret⟩
/-! CAD_CNT: R263. -/
def CAD_CNT_CLIP : Fld := ⟨0x6C, 64, 0, 8, .rw, 0, .ret⟩
def CAD_CNT_LATE : Fld := ⟨0x6C, 64, 8, 8, .rw, 0, .ret⟩
def CAD_CNT_SYNCREJ : Fld := ⟨0x6C, 64, 16, 8, .rw, 0, .ret⟩
def CAD_CNT_REFUSED : Fld := ⟨0x6C, 64, 24, 8, .rw, 0, .ret⟩
/-! CAD_BST_LO: R263. -/
def CAD_BST_LO_STAMP : Fld := ⟨0x70, 64, 0, 32, .ro, 0, .ret⟩
/-! CAD_BST_HI: R263. -/
def CAD_BST_HI_STAMP : Fld := ⟨0x74, 64, 0, 10, .ro, 0, .ret⟩
/-! CAM_ERR: R192. -/
def CAM_ERR_CE : Fld := ⟨0x40, 0, 0, 16, .rw, 0, .ret⟩
def CAM_ERR_UE : Fld := ⟨0x40, 0, 16, 16, .rw, 0, .ret⟩
/-! CAM_CAP: R192. -/
def CAM_CAP_UE : Fld := ⟨0x44, 0, 0, 1, .ro, 0, .soft⟩
def CAM_CAP_GRANULE : Fld := ⟨0x44, 0, 4, 20, .ro, 0, .soft⟩
def CAM_CAP_OVR : Fld := ⟨0x44, 0, 30, 1, .w1c, 0, .soft⟩
def CAM_CAP_VALID : Fld := ⟨0x44, 0, 31, 1, .w1c, 0, .soft⟩
/-! CAM_BUF: R192. -/
def CAM_BUF_USED : Fld := ⟨0x48, 0, 0, 13, .ro, 0, .none⟩
def CAM_BUF_REFUSED : Fld := ⟨0x48, 0, 16, 16, .rw, 0, .ret⟩
/-! CAM_COMMIT: R192. -/
def CAM_COMMIT_LATE : Fld := ⟨0x4C, 0, 0, 16, .rw, 0, .ret⟩
def CAM_COMMIT_ABORT : Fld := ⟨0x4C, 0, 16, 8, .rw, 0, .ret⟩
/-! CAM_HOST: R192. -/
def CAM_HOST_LIVE_DROP : Fld := ⟨0x50, 0, 0, 16, .rw, 0, .ret⟩
/-! CAM_SCRUB: R192. -/
def CAM_SCRUB_PERIOD : Fld := ⟨0x54, 0, 0, 8, .rw, 24, .soft⟩
def CAM_SCRUB_DONE : Fld := ⟨0x54, 0, 8, 1, .w1c, 0, .soft⟩
/-! CAM_WEAR: R192. -/
def CAM_WEAR_WRITES : Fld := ⟨0x60, 4, 0, 32, .ro, 0, .aon⟩
/-! AX_BIND: R264. -/
def AX_BIND_PORT : Fld := ⟨0x0, 64, 0, 3, .rw, 0, .soft⟩
def AX_BIND_NODE : Fld := ⟨0x0, 64, 3, 6, .rw, 0, .soft⟩
def AX_BIND_CAD : Fld := ⟨0x0, 64, 9, 4, .rw, 0, .soft⟩
def AX_BIND_TABLE : Fld := ⟨0x0, 64, 13, 10, .rw, 0, .soft⟩
def AX_BIND_EN : Fld := ⟨0x0, 64, 31, 1, .rw, 0, .soft⟩
/-! AX_GEAR: R264. -/
def AX_GEAR_GEAR : Fld := ⟨0x4, 64, 0, 28, .rw, 65536, .soft⟩
/-! AX_OFS: R264. -/
def AX_OFS_OFS : Fld := ⟨0x8, 64, 0, 28, .rw, 0, .soft⟩
/-! AX_STEP: R264. -/
def AX_STEP_MAX : Fld := ⟨0xC, 64, 0, 28, .rw, 0, .soft⟩
/-! AX_STATE: R264. -/
def AX_STATE_STATE : Fld := ⟨0x10, 64, 0, 2, .ro, 0, .ret⟩
def AX_STATE_FAULT : Fld := ⟨0x10, 64, 2, 1, .w1c, 0, .soft⟩
def AX_STATE_CAUSE : Fld := ⟨0x10, 64, 4, 3, .ro, 0, .soft⟩
/-! AX_POS: R264. -/
def AX_POS_POS : Fld := ⟨0x14, 64, 0, 28, .rw, 0, .ret⟩
/-! AX_VEL: R264. -/
def AX_VEL_VEL : Fld := ⟨0x18, 64, 0, 28, .ro, 0, .ret⟩
/-! AX_MST_LO: R264. -/
def AX_MST_LO_M : Fld := ⟨0x1C, 64, 0, 32, .ro, 0, .ret⟩
/-! AX_MST_HI: R264. -/
def AX_MST_HI_M : Fld := ⟨0x20, 64, 0, 10, .ro, 0, .ret⟩
/-! AX_BASEY: R264. -/
def AX_BASEY_BASEY : Fld := ⟨0x24, 64, 0, 28, .rw, 0, .ret⟩
/-! AX_GCUR: R264. -/
def AX_GCUR_G : Fld := ⟨0x28, 64, 0, 28, .ro, 0, .ret⟩
/-! AX_SHIFT: R264. -/
def AX_SHIFT_LEFT : Fld := ⟨0x2C, 64, 0, 14, .ro, 0, .ret⟩
/-! FIO_BANK: R288. -/
def FIO_BANK_V18 : Fld := ⟨0x40, 0, 0, 6, .rw, 0, .soft⟩
def FIO_BANK_MISMATCH : Fld := ⟨0x40, 0, 8, 6, .ro, 0, .none⟩
/-! FIO_SAFE: R288. -/
def FIO_SAFE_ACTIVE : Fld := ⟨0x44, 0, 0, 1, .ro, 0, .ret⟩
def FIO_SAFE_CLR : Fld := ⟨0x44, 0, 1, 1, .wo, 0, .none⟩
/-! FIO_IN: R288. -/
def FIO_IN_IN : Fld := ⟨0x48, 4, 0, 32, .ro, 0, .none⟩
/-! FIO_CFG: R288. -/
def FIO_CFG_FUNC : Fld := ⟨0x100, 4, 0, 3, .rw, 0, .soft⟩
def FIO_CFG_OD : Fld := ⟨0x100, 4, 3, 1, .rw, 0, .soft⟩
def FIO_CFG_DRIVE : Fld := ⟨0x100, 4, 4, 2, .rw, 0, .soft⟩
def FIO_CFG_PULL : Fld := ⟨0x100, 4, 6, 2, .rw, 0, .soft⟩
def FIO_CFG_FILT : Fld := ⟨0x100, 4, 8, 4, .rw, 0, .soft⟩
def FIO_CFG_SAFE_EN : Fld := ⟨0x100, 4, 12, 1, .rw, 0, .soft⟩
def FIO_CFG_SAFE_LVL : Fld := ⟨0x100, 4, 13, 1, .rw, 0, .soft⟩
def FIO_CFG_HLVL : Fld := ⟨0x100, 4, 14, 1, .rw, 0, .soft⟩
def FIO_CFG_OUT : Fld := ⟨0x100, 4, 16, 1, .ro, 0, .none⟩
/-! FIO_CAP: R288. -/
def FIO_CAP_CHAN : Fld := ⟨0x300, 4, 0, 12, .rw, 0, .soft⟩
def FIO_CAP_EDGE : Fld := ⟨0x300, 4, 12, 2, .rw, 0, .soft⟩
/-! CAP_SYNC: R289. -/
def CAP_SYNC_CHAN : Fld := ⟨0x40, 0, 0, 12, .rw, 0, .soft⟩
def CAP_SYNC_EDGE : Fld := ⟨0x40, 0, 12, 2, .rw, 0, .soft⟩
def CAP_SYNC_FILT : Fld := ⟨0x40, 0, 16, 4, .rw, 0, .soft⟩
/-! CAP_ERR: R289. -/
def CAP_ERR_LATE : Fld := ⟨0x44, 0, 0, 16, .rw, 0, .ret⟩
def CAP_ERR_LOST : Fld := ⟨0x44, 0, 16, 16, .rw, 0, .ret⟩
/-! CW_CTRL: R289. -/
def CW_CTRL_PIN : Fld := ⟨0x100, 16, 0, 7, .rw, 0, .soft⟩
def CW_CTRL_EDGE : Fld := ⟨0x100, 16, 7, 2, .rw, 0, .soft⟩
def CW_CTRL_MODE : Fld := ⟨0x100, 16, 9, 1, .rw, 0, .soft⟩
def CW_CTRL_CAD : Fld := ⟨0x100, 16, 10, 4, .rw, 0, .soft⟩
def CW_CTRL_FIRST : Fld := ⟨0x100, 16, 14, 1, .rw, 0, .soft⟩
def CW_CTRL_MISS : Fld := ⟨0x100, 16, 15, 1, .rw, 0, .soft⟩
def CW_CTRL_EN : Fld := ⟨0x100, 16, 16, 1, .rw, 0, .soft⟩
def CW_CTRL_CHAN : Fld := ⟨0x100, 16, 20, 12, .rw, 0, .soft⟩
/-! CW_OPEN: R289. -/
def CW_OPEN_PHASE : Fld := ⟨0x104, 16, 0, 28, .rw, 0, .soft⟩
/-! CW_CLOSE: R289. -/
def CW_CLOSE_PHASE : Fld := ⟨0x108, 16, 0, 28, .rw, 0, .soft⟩
/-! CW_STAT: R289. -/
def CW_STAT_OPEN : Fld := ⟨0x10C, 16, 0, 1, .ro, 0, .ret⟩
def CW_STAT_HIT : Fld := ⟨0x10C, 16, 1, 1, .ro, 0, .ret⟩
def CW_STAT_EXTRA : Fld := ⟨0x10C, 16, 8, 8, .rw, 0, .ret⟩
def CW_STAT_OUTSIDE : Fld := ⟨0x10C, 16, 16, 8, .rw, 0, .ret⟩
def CW_STAT_MISSES : Fld := ⟨0x10C, 16, 24, 8, .rw, 0, .ret⟩
/-! ENC_CFG: R290. -/
def ENC_CFG_MODE : Fld := ⟨0x40, 32, 0, 2, .rw, 0, .soft⟩
def ENC_CFG_PIN_A : Fld := ⟨0x40, 32, 2, 7, .rw, 0, .soft⟩
def ENC_CFG_PIN_B : Fld := ⟨0x40, 32, 9, 7, .rw, 0, .soft⟩
def ENC_CFG_PIN_Z : Fld := ⟨0x40, 32, 16, 7, .rw, 127, .soft⟩
def ENC_CFG_ZLATCH : Fld := ⟨0x40, 32, 23, 1, .rw, 0, .soft⟩
/-! ENC_CHAN: R290. -/
def ENC_CHAN_CHAN : Fld := ⟨0x44, 32, 0, 12, .rw, 0, .soft⟩
/-! ENC_PER: R290. -/
def ENC_PER_PERIOD : Fld := ⟨0x48, 32, 0, 20, .rw, 0, .soft⟩
/-! ENC_OFS: R290. -/
def ENC_OFS_OFS : Fld := ⟨0x4C, 32, 0, 20, .rw, 0, .soft⟩
/-! ENC_SSI: R290. -/
def ENC_SSI_BITS : Fld := ⟨0x50, 32, 0, 5, .rw, 0, .soft⟩
def ENC_SSI_GRAY : Fld := ⟨0x50, 32, 5, 1, .rw, 0, .soft⟩
def ENC_SSI_PAR : Fld := ⟨0x50, 32, 6, 1, .rw, 0, .soft⟩
def ENC_SSI_HALF : Fld := ⟨0x50, 32, 8, 8, .rw, 5, .soft⟩
def ENC_SSI_MONO : Fld := ⟨0x50, 32, 16, 8, .rw, 20, .soft⟩
/-! ENC_CNT: R290. -/
def ENC_CNT_COUNT : Fld := ⟨0x54, 32, 0, 28, .rw, 0, .ret⟩
/-! ENC_STAT: R290. -/
def ENC_STAT_QERR : Fld := ⟨0x58, 32, 0, 8, .rw, 0, .ret⟩
def ENC_STAT_SSIERR : Fld := ⟨0x58, 32, 8, 8, .rw, 0, .ret⟩
def ENC_STAT_ZSEEN : Fld := ⟨0x58, 32, 16, 1, .w1c, 0, .soft⟩
/-! PWM_CFG: R291. -/
def PWM_CFG_PIN : Fld := ⟨0x40, 16, 0, 7, .rw, 0, .soft⟩
def PWM_CFG_EN : Fld := ⟨0x40, 16, 7, 1, .rw, 0, .soft⟩
def PWM_CFG_POL : Fld := ⟨0x40, 16, 8, 1, .rw, 0, .soft⟩
/-! PWM_PER: R291. -/
def PWM_PER_PERIOD : Fld := ⟨0x44, 16, 0, 24, .rw, 1000, .soft⟩
/-! PWM_ORG: R291. -/
def PWM_ORG_ORG : Fld := ⟨0x48, 16, 0, 24, .rw, 0, .soft⟩
/-! PWM_DUTY: R291. -/
def PWM_DUTY_DUTY : Fld := ⟨0x4C, 16, 0, 16, .rw, 0, .ret⟩
def PWM_DUTY_FULL : Fld := ⟨0x4C, 16, 16, 1, .rw, 0, .ret⟩
/-! REL_STAT: R287. -/
def REL_STAT_ARMED : Fld := ⟨0x40, 0, 0, 9, .ro, 0, .ret⟩
def REL_STAT_PWR_HOLD : Fld := ⟨0x40, 0, 16, 1, .ro, 0, .none⟩
/-! REL_CNT: R287. -/
def REL_CNT_LATE : Fld := ⟨0x44, 0, 0, 8, .rw, 0, .ret⟩
def REL_CNT_REFUSED : Fld := ⟨0x44, 0, 8, 8, .rw, 0, .ret⟩
def REL_CNT_COLLIDE : Fld := ⟨0x44, 0, 16, 8, .rw, 0, .ret⟩
def REL_CNT_DISCARD : Fld := ⟨0x44, 0, 24, 8, .rw, 0, .ret⟩
/-! REL_CAP: R287. -/
def REL_CAP_ENTRY : Fld := ⟨0x48, 0, 0, 8, .ro, 0, .soft⟩
def REL_CAP_COG : Fld := ⟨0x48, 0, 8, 4, .ro, 0, .soft⟩
def REL_CAP_CAUSE : Fld := ⟨0x48, 0, 12, 3, .ro, 0, .soft⟩
def REL_CAP_OVR : Fld := ⟨0x48, 0, 30, 1, .w1c, 0, .soft⟩
def REL_CAP_VALID : Fld := ⟨0x48, 0, 31, 1, .w1c, 0, .soft⟩
/-! REL_IDX: R287. -/
def REL_IDX_ENTRY : Fld := ⟨0x4C, 0, 0, 8, .rw, 0, .soft⟩
def REL_IDX_KILL : Fld := ⟨0x4C, 0, 8, 1, .wo, 0, .none⟩
def REL_IDX_ARMED : Fld := ⟨0x4C, 0, 16, 1, .ro, 0, .none⟩
def REL_IDX_PH : Fld := ⟨0x4C, 0, 17, 1, .ro, 0, .none⟩
def REL_IDX_OWNER : Fld := ⟨0x4C, 0, 18, 4, .ro, 0, .none⟩
/-! REL_VS_LO: R287. -/
def REL_VS_LO_VALUE : Fld := ⟨0x50, 0, 0, 32, .ro, 0, .ret⟩
/-! REL_VS_HI: R287. -/
def REL_VS_HI_VALUE : Fld := ⟨0x54, 0, 0, 10, .ro, 0, .ret⟩
/-! REL_VA_LO: R287. -/
def REL_VA_LO_VALUE : Fld := ⟨0x58, 0, 0, 32, .ro, 0, .ret⟩
/-! REL_VA_HI: R287. -/
def REL_VA_HI_VALUE : Fld := ⟨0x5C, 0, 0, 10, .ro, 0, .ret⟩
/-! REL_OWN: R287. -/
def REL_OWN_OWN0 : Fld := ⟨0x60, 4, 0, 4, .rw, 0, .soft⟩
def REL_OWN_OWN1 : Fld := ⟨0x60, 4, 4, 4, .rw, 0, .soft⟩
def REL_OWN_OWN2 : Fld := ⟨0x60, 4, 8, 4, .rw, 0, .soft⟩
def REL_OWN_OWN3 : Fld := ⟨0x60, 4, 12, 4, .rw, 0, .soft⟩
def REL_OWN_OWN4 : Fld := ⟨0x60, 4, 16, 4, .rw, 0, .soft⟩
def REL_OWN_OWN5 : Fld := ⟨0x60, 4, 20, 4, .rw, 0, .soft⟩
def REL_OWN_OWN6 : Fld := ⟨0x60, 4, 24, 4, .rw, 0, .soft⟩
def REL_OWN_OWN7 : Fld := ⟨0x60, 4, 28, 4, .rw, 0, .soft⟩
/-! FAB_HZN: R227. -/
def FAB_HZN_PERIOD : Fld := ⟨0x40, 0, 0, 16, .rw, 500, .soft⟩
def FAB_HZN_DEAD : Fld := ⟨0x40, 0, 16, 16, .rw, 100, .soft⟩
/-! FAB_ERR: R227. -/
def FAB_ERR_REGRESS : Fld := ⟨0x44, 0, 0, 8, .rw, 0, .ret⟩
def FAB_ERR_NOTREG : Fld := ⟨0x44, 0, 8, 8, .rw, 0, .ret⟩
def FAB_ERR_NOCHAN : Fld := ⟨0x44, 0, 16, 8, .rw, 0, .ret⟩
def FAB_ERR_LOST : Fld := ⟨0x44, 0, 24, 8, .rw, 0, .ret⟩
/-! FAB_ERR_CAP: R227. -/
def FAB_ERR_CAP_CHAN : Fld := ⟨0x48, 0, 0, 12, .ro, 0, .soft⟩
def FAB_ERR_CAP_SENDER : Fld := ⟨0x48, 0, 12, 10, .ro, 0, .soft⟩
def FAB_ERR_CAP_CAUSE : Fld := ⟨0x48, 0, 22, 4, .ro, 0, .soft⟩
def FAB_ERR_CAP_OVR : Fld := ⟨0x48, 0, 30, 1, .w1c, 0, .soft⟩
def FAB_ERR_CAP_VALID : Fld := ⟨0x48, 0, 31, 1, .w1c, 0, .soft⟩
/-! FAB_STALL: R227. -/
def FAB_STALL_CHAN : Fld := ⟨0x4C, 0, 0, 12, .ro, 0, .soft⟩
def FAB_STALL_SENDER : Fld := ⟨0x4C, 0, 12, 10, .ro, 0, .soft⟩
def FAB_STALL_OVR : Fld := ⟨0x4C, 0, 30, 1, .w1c, 0, .soft⟩
def FAB_STALL_VALID : Fld := ⟨0x4C, 0, 31, 1, .w1c, 0, .soft⟩
/-! FAB_CMD: R227. -/
def FAB_CMD_CHAN : Fld := ⟨0x50, 0, 0, 12, .rw, 0, .soft⟩
def FAB_CMD_SENDER : Fld := ⟨0x50, 0, 12, 10, .rw, 0, .soft⟩
def FAB_CMD_OP : Fld := ⟨0x50, 0, 24, 2, .rw, 0, .soft⟩
def FAB_CMD_GO : Fld := ⟨0x50, 0, 28, 1, .wo, 0, .none⟩
def FAB_CMD_BUSY : Fld := ⟨0x50, 0, 29, 1, .ro, 0, .none⟩
def FAB_CMD_REJECT : Fld := ⟨0x50, 0, 30, 1, .w1c, 0, .soft⟩
/-! FAB_CE: R227. -/
def FAB_CE_FLIT : Fld := ⟨0x54, 0, 0, 16, .rw, 0, .ret⟩
def FAB_CE_SLOT : Fld := ⟨0x54, 0, 16, 16, .rw, 0, .ret⟩
/-! FAB_CH_IDX: R227. -/
def FAB_CH_IDX_IDX : Fld := ⟨0x60, 0, 0, 12, .rw, 0, .soft⟩
/-! FAB_SET_IDX: R227. -/
def FAB_SET_IDX_SET : Fld := ⟨0x70, 0, 0, 9, .rw, 0, .soft⟩
def FAB_SET_IDX_MBR : Fld := ⟨0x70, 0, 16, 4, .rw, 0, .soft⟩
/-! FAB_CH_LO: R227. -/
def FAB_CH_LO_EN : Fld := ⟨0x64, 0, 0, 1, .rw, 0, .soft⟩
def FAB_CH_LO_ORD : Fld := ⟨0x64, 0, 1, 1, .rw, 0, .soft⟩
def FAB_CH_LO_TAN : Fld := ⟨0x64, 0, 2, 1, .rw, 0, .soft⟩
def FAB_CH_LO_RCV : Fld := ⟨0x64, 0, 3, 10, .rw, 0, .soft⟩
def FAB_CH_LO_SET : Fld := ⟨0x64, 0, 13, 9, .rw, 0, .soft⟩
def FAB_CH_LO_CRED : Fld := ⟨0x64, 0, 22, 4, .rw, 0, .soft⟩
/-! FAB_CH_HI: R227. -/
def FAB_CH_HI_SLOT : Fld := ⟨0x68, 0, 0, 10, .rw, 0, .soft⟩
/-! FAB_CH_STAT: R227. -/
def FAB_CH_STAT_HELD : Fld := ⟨0x6C, 0, 0, 11, .ro, 0, .none⟩
def FAB_CH_STAT_REFUSE : Fld := ⟨0x6C, 0, 12, 3, .ro, 0, .soft⟩
def FAB_CH_STAT_STALL : Fld := ⟨0x6C, 0, 16, 1, .ro, 0, .none⟩
def FAB_CH_STAT_LOSS : Fld := ⟨0x6C, 0, 17, 1, .w1c, 0, .soft⟩
def FAB_CH_STAT_DRAINING : Fld := ⟨0x6C, 0, 18, 1, .ro, 0, .none⟩
def FAB_CH_STAT_EN_PENDING : Fld := ⟨0x6C, 0, 19, 1, .ro, 0, .none⟩
/-! FAB_SET_MBR: R227. -/
def FAB_SET_MBR_SENDER : Fld := ⟨0x74, 0, 0, 10, .rw, 0, .soft⟩
def FAB_SET_MBR_VALID : Fld := ⟨0x74, 0, 15, 1, .rw, 0, .soft⟩
def FAB_SET_MBR_KNOWN : Fld := ⟨0x74, 0, 16, 1, .ro, 0, .none⟩
def FAB_SET_MBR_RETIRED : Fld := ⟨0x74, 0, 17, 1, .ro, 0, .none⟩
def FAB_SET_MBR_REJECT : Fld := ⟨0x74, 0, 18, 1, .w1c, 0, .soft⟩
/-! FAB_SET_HZN0: R227. -/
def FAB_SET_HZN0_HZN : Fld := ⟨0x78, 0, 0, 32, .ro, 0, .none⟩
/-! FAB_SET_HZN1: R227. -/
def FAB_SET_HZN1_HZN : Fld := ⟨0x7C, 0, 0, 10, .ro, 0, .none⟩
/-! QB_ERR: R228. -/
def QB_ERR_CE : Fld := ⟨0x40, 0, 0, 16, .rw, 0, .ret⟩
def QB_ERR_UE : Fld := ⟨0x40, 0, 16, 16, .rw, 0, .ret⟩
/-! QB_CAP: R228. -/
def QB_CAP_ADDR : Fld := ⟨0x44, 0, 0, 17, .ro, 0, .soft⟩
def QB_CAP_OVR : Fld := ⟨0x44, 0, 30, 1, .w1c, 0, .soft⟩
def QB_CAP_VALID : Fld := ⟨0x44, 0, 31, 1, .w1c, 0, .soft⟩
/-! QCFG: R229. -/
def QCFG_BASE : Fld := ⟨0x40, 64, 0, 15, .rw, 0, .soft⟩
def QCFG_SIZE : Fld := ⟨0x40, 64, 16, 4, .rw, 0, .soft⟩
def QCFG_EN : Fld := ⟨0x40, 64, 31, 1, .rw, 0, .soft⟩
/-! QSRC: R229. -/
def QSRC_KIND : Fld := ⟨0x44, 64, 0, 2, .rw, 0, .soft⟩
def QSRC_ID : Fld := ⟨0x44, 64, 2, 12, .rw, 0, .soft⟩
/-! QDST: R229. -/
def QDST_KIND : Fld := ⟨0x48, 64, 0, 2, .rw, 0, .soft⟩
def QDST_ID : Fld := ⟨0x48, 64, 2, 12, .rw, 0, .soft⟩
/-! QTMO: R229. -/
def QTMO_NS : Fld := ⟨0x4C, 64, 0, 20, .rw, 0, .soft⟩
/-! QSTAT: R229. -/
def QSTAT_DEPTH : Fld := ⟨0x50, 64, 0, 16, .ro, 0, .ret⟩
def QSTAT_OPEN : Fld := ⟨0x50, 64, 16, 3, .ro, 0, .ret⟩
def QSTAT_DROPPING : Fld := ⟨0x50, 64, 20, 1, .ro, 0, .ret⟩
def QSTAT_WAITING : Fld := ⟨0x50, 64, 21, 1, .ro, 0, .none⟩
/-! QHEAD0: R229. -/
def QHEAD0_WA : Fld := ⟨0x54, 64, 0, 14, .ro, 0, .none⟩
def QHEAD0_WB : Fld := ⟨0x54, 64, 16, 14, .ro, 0, .none⟩
/-! QHEAD1: R229. -/
def QHEAD1_WA : Fld := ⟨0x58, 64, 0, 14, .ro, 0, .none⟩
def QHEAD1_WB : Fld := ⟨0x58, 64, 16, 14, .ro, 0, .none⟩
/-! QTAG: R229. -/
def QTAG_VALID : Fld := ⟨0x5C, 64, 0, 3, .ro, 0, .none⟩
def QTAG_EOP : Fld := ⟨0x5C, 64, 3, 1, .ro, 0, .none⟩
def QTAG_TMO : Fld := ⟨0x5C, 64, 4, 1, .ro, 0, .none⟩
def QTAG_LOSS : Fld := ⟨0x5C, 64, 5, 1, .ro, 0, .none⟩
def QTAG_UE : Fld := ⟨0x5C, 64, 6, 1, .ro, 0, .none⟩
def QTAG_AVAIL : Fld := ⟨0x5C, 64, 8, 1, .ro, 0, .none⟩
/-! QCMD: R229. -/
def QCMD_POP : Fld := ⟨0x60, 64, 0, 1, .wo, 0, .none⟩
def QCMD_DROP : Fld := ⟨0x60, 64, 1, 1, .wo, 0, .none⟩
def QCMD_FLUSH : Fld := ⟨0x60, 64, 2, 1, .wo, 0, .none⟩
/-! QPUSH: R229. -/
def QPUSH_WORD : Fld := ⟨0x64, 64, 0, 14, .wo, 0, .none⟩
def QPUSH_EOP : Fld := ⟨0x64, 64, 16, 1, .wo, 0, .none⟩
/-! QCNT: R229. -/
def QCNT_HDROP : Fld := ⟨0x68, 64, 0, 16, .rw, 0, .ret⟩
def QCNT_PLOSS : Fld := ⟨0x68, 64, 16, 16, .rw, 0, .ret⟩
/-! CHN_CTRL: R359. -/
def CHN_CTRL_REQ : Fld := ⟨0x40, 0, 0, 3, .rw, 0, .soft⟩
/-! CHN_STAT: R359. -/
def CHN_STAT_STATE : Fld := ⟨0x44, 0, 0, 3, .ro, 0, .none⟩
def CHN_STAT_NODES : Fld := ⟨0x44, 0, 4, 7, .ro, 0, .ret⟩
def CHN_STAT_OVER : Fld := ⟨0x44, 0, 11, 1, .ro, 0, .ret⟩
def CHN_STAT_LOCKED : Fld := ⟨0x44, 0, 12, 1, .ro, 0, .none⟩
def CHN_STAT_SPLIT : Fld := ⟨0x44, 0, 13, 1, .ro, 0, .none⟩
def CHN_STAT_LIM : Fld := ⟨0x44, 0, 14, 7, .ro, 0, .none⟩
def CHN_STAT_RECOV_OK : Fld := ⟨0x44, 0, 21, 1, .ro, 0, .none⟩
def CHN_STAT_REFUSE : Fld := ⟨0x44, 0, 24, 3, .ro, 0, .soft⟩
/-! CHN_CMD: R359. -/
def CHN_CMD_OP : Fld := ⟨0x48, 0, 0, 3, .rw, 0, .soft⟩
def CHN_CMD_GO : Fld := ⟨0x48, 0, 8, 1, .wo, 0, .none⟩
def CHN_CMD_BUSY : Fld := ⟨0x48, 0, 9, 1, .ro, 0, .none⟩
def CHN_CMD_DONE : Fld := ⟨0x48, 0, 10, 1, .w1c, 0, .soft⟩
def CHN_CMD_FAIL : Fld := ⟨0x48, 0, 11, 1, .ro, 0, .soft⟩
/-! CHN_CYC: R359. -/
def CHN_CYC_PER : Fld := ⟨0x4C, 0, 0, 3, .rw, 2, .soft⟩
/-! CHN_ORG_LO: R359. -/
def CHN_ORG_LO_ORG : Fld := ⟨0x50, 0, 0, 32, .rw, 0, .soft⟩
/-! CHN_ORG_HI: R359. -/
def CHN_ORG_HI_ORG : Fld := ⟨0x54, 0, 0, 10, .rw, 0, .soft⟩
/-! CHN_CNT: R359. -/
def CHN_CNT_CYCLE : Fld := ⟨0x58, 0, 0, 32, .ro, 0, .none⟩
/-! CHN_RED: R359. -/
def CHN_RED_EN : Fld := ⟨0x5C, 0, 0, 1, .rw, 0, .soft⟩
def CHN_RED_PARTNER : Fld := ⟨0x5C, 0, 1, 3, .rw, 0, .soft⟩
def CHN_RED_SECOND : Fld := ⟨0x5C, 0, 4, 1, .ro, 0, .none⟩
/-! CHN_TIME: R359. -/
def CHN_TIME_IMG : Fld := ⟨0x60, 0, 0, 16, .rw, 2000, .soft⟩
/-! CHN_LAT: R359. -/
def CHN_LAT_RL : Fld := ⟨0x64, 0, 0, 20, .ro, 0, .ret⟩
/-! CHN_LATN: R359. -/
def CHN_LATN_LATN : Fld := ⟨0x68, 0, 0, 20, .ro, 0, .none⟩
/-! CHN_ERR0: R359. -/
def CHN_ERR0_FLOST : Fld := ⟨0x6C, 0, 0, 8, .rw, 0, .ret⟩
def CHN_ERR0_FCRC : Fld := ⟨0x6C, 0, 8, 8, .rw, 0, .ret⟩
def CHN_ERR0_BREAK : Fld := ⟨0x6C, 0, 16, 8, .rw, 0, .ret⟩
def CHN_ERR0_LATEFRM : Fld := ⟨0x6C, 0, 24, 8, .rw, 0, .ret⟩
/-! CHN_ERR1: R359. -/
def CHN_ERR1_IMGLATE : Fld := ⟨0x70, 0, 0, 8, .rw, 0, .ret⟩
def CHN_ERR1_RECOV : Fld := ⟨0x70, 0, 8, 8, .rw, 0, .ret⟩
def CHN_ERR1_PARTMO : Fld := ⟨0x70, 0, 16, 8, .rw, 0, .ret⟩
def CHN_ERR1_BADHDR : Fld := ⟨0x70, 0, 24, 8, .rw, 0, .ret⟩
/-! CHN_CAP: R359. -/
def CHN_CAP_CYCLE : Fld := ⟨0x74, 0, 0, 14, .ro, 0, .soft⟩
def CHN_CAP_CAUSE : Fld := ⟨0x74, 0, 14, 3, .ro, 0, .soft⟩
def CHN_CAP_BADN : Fld := ⟨0x74, 0, 17, 7, .ro, 0, .soft⟩
def CHN_CAP_OVR : Fld := ⟨0x74, 0, 30, 1, .w1c, 0, .soft⟩
def CHN_CAP_VALID : Fld := ⟨0x74, 0, 31, 1, .w1c, 0, .soft⟩
/-! CHN_IMG: R359. -/
def CHN_IMG_CAS : Fld := ⟨0x78, 0, 0, 4, .rw, 0, .soft⟩
def CHN_IMG_BASE : Fld := ⟨0x78, 0, 4, 9, .rw, 0, .soft⟩
def CHN_IMG_EN : Fld := ⟨0x78, 0, 31, 1, .rw, 0, .soft⟩
/-! CHN_PWR: R359. -/
def CHN_PWR_IDLE : Fld := ⟨0x7C, 0, 0, 16, .rw, 0, .soft⟩
/-! CHN_NIDX: R360. -/
def CHN_NIDX_NODE : Fld := ⟨0x40, 0, 0, 6, .rw, 0, .soft⟩
/-! CHN_NCFG: R360. -/
def CHN_NCFG_CHAN : Fld := ⟨0x44, 0, 0, 12, .rw, 0, .soft⟩
def CHN_NCFG_FB2 : Fld := ⟨0x44, 0, 12, 1, .rw, 0, .soft⟩
def CHN_NCFG_IMGW : Fld := ⟨0x44, 0, 13, 2, .rw, 0, .soft⟩
def CHN_NCFG_FBEN : Fld := ⟨0x44, 0, 15, 1, .rw, 0, .soft⟩
/-! CHN_NID0: R360. -/
def CHN_NID0_VENDOR : Fld := ⟨0x48, 0, 0, 16, .ro, 0, .ret⟩
def CHN_NID0_PRODUCT : Fld := ⟨0x48, 0, 16, 16, .ro, 0, .ret⟩
/-! CHN_NID1: R360. -/
def CHN_NID1_SERIAL : Fld := ⟨0x4C, 0, 0, 32, .ro, 0, .ret⟩
/-! CHN_NID2: R360. -/
def CHN_NID2_CLASS : Fld := ⟨0x50, 0, 0, 8, .ro, 0, .ret⟩
def CHN_NID2_STREAMS : Fld := ⟨0x50, 0, 8, 3, .ro, 0, .ret⟩
def CHN_NID2_PMIN : Fld := ⟨0x50, 0, 12, 3, .ro, 0, .ret⟩
def CHN_NID2_FB2CAP : Fld := ⟨0x50, 0, 15, 1, .ro, 0, .ret⟩
/-! CHN_NDLYU: R360. -/
def CHN_NDLYU_DLY : Fld := ⟨0x54, 0, 0, 32, .ro, 0, .ret⟩
/-! CHN_NDLYD: R360. -/
def CHN_NDLYD_DLY : Fld := ⟨0x58, 0, 0, 32, .ro, 0, .ret⟩
/-! CHN_NSTAT: R360. -/
def CHN_NSTAT_NSTATE : Fld := ⟨0x5C, 0, 0, 3, .ro, 0, .none⟩
def CHN_NSTAT_FAULT : Fld := ⟨0x5C, 0, 3, 1, .ro, 0, .none⟩
def CHN_NSTAT_POWERED : Fld := ⟨0x5C, 0, 4, 1, .ro, 0, .none⟩
def CHN_NSTAT_BRAKED : Fld := ⟨0x5C, 0, 5, 1, .ro, 0, .none⟩
def CHN_NSTAT_MISS : Fld := ⟨0x5C, 0, 8, 8, .rw, 0, .ret⟩
def CHN_NSTAT_MULTI : Fld := ⟨0x5C, 0, 16, 1, .ro, 0, .none⟩
def CHN_NSTAT_SIDE : Fld := ⟨0x5C, 0, 17, 1, .ro, 0, .none⟩
/-! CHN_NFB: R360. -/
def CHN_NFB_FB : Fld := ⟨0x60, 4, 0, 32, .ro, 0, .none⟩
/-! CHN_STR: R361. -/
def CHN_STR_EN : Fld := ⟨0x40, 16, 0, 1, .rw, 0, .soft⟩
def CHN_STR_NODE : Fld := ⟨0x40, 16, 1, 6, .rw, 0, .soft⟩
def CHN_STR_SEL : Fld := ⟨0x40, 16, 7, 2, .rw, 0, .soft⟩
def CHN_STR_BLK : Fld := ⟨0x40, 16, 9, 7, .rw, 0, .soft⟩
/-! CHN_STRC: R361. -/
def CHN_STRC_PKT : Fld := ⟨0x44, 16, 0, 16, .rw, 0, .ret⟩
def CHN_STRC_GAP : Fld := ⟨0x44, 16, 16, 8, .rw, 0, .ret⟩
def CHN_STRC_MISS : Fld := ⟨0x44, 16, 24, 8, .rw, 0, .ret⟩
/-! CHN_PAR_REQ: R361. -/
def CHN_PAR_REQ_BYTES : Fld := ⟨0x40, 4, 0, 32, .rw, 0, .soft⟩
/-! CHN_PAR_CMD: R362. -/
def CHN_PAR_CMD_GO : Fld := ⟨0x58, 0, 0, 1, .wo, 0, .none⟩
def CHN_PAR_CMD_BUSY : Fld := ⟨0x58, 0, 1, 1, .ro, 0, .none⟩
def CHN_PAR_CMD_DONE : Fld := ⟨0x58, 0, 2, 1, .w1c, 0, .soft⟩
def CHN_PAR_CMD_RESULT : Fld := ⟨0x58, 0, 3, 3, .ro, 0, .soft⟩
def CHN_PAR_CMD_TMO : Fld := ⟨0x58, 0, 8, 16, .rw, 4096, .soft⟩
/-! VIS_LINK: R325. -/
def VIS_LINK_RATE : Fld := ⟨0x40, 0, 0, 3, .rw, 0, .soft⟩
def VIS_LINK_LANES : Fld := ⟨0x40, 0, 4, 2, .rw, 0, .soft⟩
def VIS_LINK_EN : Fld := ⟨0x40, 0, 8, 1, .rw, 0, .soft⟩
def VIS_LINK_STATE : Fld := ⟨0x40, 0, 9, 3, .ro, 0, .none⟩
def VIS_LINK_MEMBER : Fld := ⟨0x40, 0, 12, 1, .ro, 0, .none⟩
def VIS_LINK_LOS : Fld := ⟨0x40, 0, 13, 1, .ro, 0, .none⟩
def VIS_LINK_STRIPE_ERR : Fld := ⟨0x40, 0, 14, 1, .ro, 0, .none⟩
/-! VIS_FMT: R325. -/
def VIS_FMT_PFMT : Fld := ⟨0x44, 0, 0, 3, .rw, 0, .soft⟩
def VIS_FMT_AREA : Fld := ⟨0x44, 0, 3, 1, .rw, 0, .soft⟩
def VIS_FMT_OVL : Fld := ⟨0x44, 0, 4, 9, .rw, 0, .soft⟩
def VIS_FMT_LINE_W : Fld := ⟨0x44, 0, 16, 14, .rw, 0, .soft⟩
/-! VIS_STRIPE: R325. -/
def VIS_STRIPE_START : Fld := ⟨0x48, 0, 0, 14, .rw, 0, .soft⟩
def VIS_STRIPE_LEN : Fld := ⟨0x48, 0, 16, 14, .rw, 0, .soft⟩
/-! VIS_PH: R325. -/
def VIS_PH_CAD : Fld := ⟨0x4C, 0, 0, 4, .rw, 0, .soft⟩
def VIS_PH_EN : Fld := ⟨0x4C, 0, 4, 1, .rw, 0, .soft⟩
/-! VIS_LPH: R325. -/
def VIS_LPH_LPH : Fld := ⟨0x50, 0, 0, 28, .rw, 0, .soft⟩
/-! VIS_TRG: R325. -/
def VIS_TRG_MODE : Fld := ⟨0x54, 0, 0, 2, .rw, 0, .soft⟩
def VIS_TRG_CAD : Fld := ⟨0x54, 0, 2, 4, .rw, 0, .soft⟩
def VIS_TRG_TMO : Fld := ⟨0x54, 0, 16, 16, .rw, 100, .soft⟩
/-! VIS_TRG_STEP: R325. -/
def VIS_TRG_STEP_STEP : Fld := ⟨0x58, 0, 0, 28, .rw, 0, .soft⟩
/-! VIS_TRG_OFS: R325. -/
def VIS_TRG_OFS_OFS : Fld := ⟨0x5C, 0, 0, 28, .rw, 0, .soft⟩
/-! VIS_CTL_ADDR: R325. -/
def VIS_CTL_ADDR_ADDR : Fld := ⟨0x60, 0, 0, 32, .rw, 0, .soft⟩
/-! VIS_CTL_CMD: R325. -/
def VIS_CTL_CMD_SIZE : Fld := ⟨0x64, 0, 0, 7, .rw, 4, .soft⟩
def VIS_CTL_CMD_WRITE : Fld := ⟨0x64, 0, 8, 1, .rw, 0, .soft⟩
def VIS_CTL_CMD_GO : Fld := ⟨0x64, 0, 12, 1, .wo, 0, .none⟩
def VIS_CTL_CMD_TMO : Fld := ⟨0x64, 0, 16, 16, .rw, 200, .soft⟩
/-! VIS_CTL_STAT: R325. -/
def VIS_CTL_STAT_BUSY : Fld := ⟨0x68, 0, 0, 1, .ro, 0, .none⟩
def VIS_CTL_STAT_DONE : Fld := ⟨0x68, 0, 1, 1, .w1c, 0, .soft⟩
def VIS_CTL_STAT_RESULT : Fld := ⟨0x68, 0, 2, 3, .ro, 0, .soft⟩
def VIS_CTL_STAT_ACK : Fld := ⟨0x68, 0, 8, 8, .ro, 0, .soft⟩
/-! VIS_HB: R325. -/
def VIS_HB_TMO : Fld := ⟨0xB0, 0, 0, 16, .rw, 0, .soft⟩
def VIS_HB_LOST : Fld := ⟨0xB0, 0, 16, 1, .w1c, 0, .soft⟩
def VIS_HB_CNT : Fld := ⟨0xB0, 0, 24, 8, .rw, 0, .ret⟩
/-! VIS_PWR: R325. -/
def VIS_PWR_IDLE : Fld := ⟨0xB4, 0, 0, 16, .rw, 0, .soft⟩
def VIS_PWR_WAKE : Fld := ⟨0xB4, 0, 16, 1, .wo, 0, .none⟩
/-! VIS_CTL_DATA: R325. -/
def VIS_CTL_DATA_BYTES : Fld := ⟨0x70, 4, 0, 32, .rw, 0, .soft⟩
/-! VIS_FF: R326. -/
def VIS_FF_EN : Fld := ⟨0x40, 0, 0, 1, .rw, 0, .soft⟩
/-! ACC_GEO: R326. -/
def ACC_GEO_X0 : Fld := ⟨0x50, 16, 0, 14, .rw, 0, .soft⟩
def ACC_GEO_W : Fld := ⟨0x50, 16, 16, 14, .rw, 0, .soft⟩
/-! ACC_LIN: R326. -/
def ACC_LIN_NL : Fld := ⟨0x54, 16, 0, 10, .rw, 0, .soft⟩
def ACC_LIN_TYPE : Fld := ⟨0x54, 16, 12, 1, .rw, 0, .soft⟩
def ACC_LIN_FREE : Fld := ⟨0x54, 16, 13, 1, .rw, 0, .soft⟩
def ACC_LIN_EN : Fld := ⟨0x54, 16, 31, 1, .rw, 0, .soft⟩
/-! ACC_START: R326. -/
def ACC_START_START : Fld := ⟨0x58, 16, 0, 28, .rw, 0, .soft⟩
/-! COR_RNG: R326. -/
def COR_RNG_X0 : Fld := ⟨0x90, 16, 0, 14, .rw, 0, .soft⟩
def COR_RNG_LEN : Fld := ⟨0x90, 16, 16, 14, .rw, 0, .soft⟩
/-! COR_CFG: R326. -/
def COR_CFG_N : Fld := ⟨0x94, 16, 0, 9, .rw, 0, .soft⟩
def COR_CFG_THR : Fld := ⟨0x94, 16, 16, 14, .rw, 0, .soft⟩
def COR_CFG_MISS : Fld := ⟨0x94, 16, 30, 1, .rw, 0, .soft⟩
def COR_CFG_EN : Fld := ⟨0x94, 16, 31, 1, .rw, 0, .soft⟩
/-! COR_CH: R326. -/
def COR_CH_CHAN : Fld := ⟨0x98, 16, 0, 12, .rw, 0, .soft⟩
/-! EDG_RNG: R326. -/
def EDG_RNG_I0 : Fld := ⟨0xD0, 16, 0, 14, .rw, 0, .soft⟩
def EDG_RNG_LEN : Fld := ⟨0xD0, 16, 16, 14, .rw, 0, .soft⟩
/-! EDG_CFG: R326. -/
def EDG_CFG_SRC : Fld := ⟨0xD4, 16, 0, 3, .rw, 0, .soft⟩
def EDG_CFG_K : Fld := ⟨0xD4, 16, 4, 4, .rw, 0, .soft⟩
def EDG_CFG_POL : Fld := ⟨0xD4, 16, 8, 2, .rw, 0, .soft⟩
def EDG_CFG_SEL : Fld := ⟨0xD4, 16, 10, 1, .rw, 0, .soft⟩
def EDG_CFG_THR : Fld := ⟨0xD4, 16, 16, 14, .rw, 0, .soft⟩
def EDG_CFG_MISS : Fld := ⟨0xD4, 16, 30, 1, .rw, 0, .soft⟩
def EDG_CFG_EN : Fld := ⟨0xD4, 16, 31, 1, .rw, 0, .soft⟩
/-! EDG_CH: R326. -/
def EDG_CH_CHAN : Fld := ⟨0xD8, 16, 0, 12, .rw, 0, .soft⟩
/-! STW_GEO: R327. -/
def STW_GEO_X0 : Fld := ⟨0x40, 32, 0, 14, .rw, 0, .soft⟩
def STW_GEO_W : Fld := ⟨0x40, 32, 16, 14, .rw, 0, .soft⟩
/-! STW_LIN: R327. -/
def STW_LIN_NL : Fld := ⟨0x44, 32, 0, 10, .rw, 0, .soft⟩
def STW_LIN_FREE : Fld := ⟨0x44, 32, 13, 1, .rw, 0, .soft⟩
def STW_LIN_EN : Fld := ⟨0x44, 32, 31, 1, .rw, 0, .soft⟩
/-! STW_START: R327. -/
def STW_START_START : Fld := ⟨0x48, 32, 0, 28, .rw, 0, .soft⟩
/-! STW_THR: R327. -/
def STW_THR_LO : Fld := ⟨0x4C, 32, 0, 14, .rw, 0, .soft⟩
def STW_THR_HI : Fld := ⟨0x4C, 32, 16, 14, .rw, 16383, .soft⟩
/-! STW_CTL: R327. -/
def STW_CTL_CHAN : Fld := ⟨0x50, 32, 0, 12, .rw, 0, .soft⟩
def STW_CTL_LIM : Fld := ⟨0x50, 32, 12, 14, .rw, 0, .soft⟩
def STW_CTL_SEL : Fld := ⟨0x50, 32, 26, 3, .rw, 0, .soft⟩
def STW_CTL_EMIT : Fld := ⟨0x50, 32, 29, 2, .rw, 0, .soft⟩
def STW_CTL_EN : Fld := ⟨0x50, 32, 31, 1, .rw, 0, .soft⟩
/-! VIS_LOST: R328. -/
def VIS_LOST_CHAN : Fld := ⟨0x40, 0, 0, 12, .rw, 0, .soft⟩
def VIS_LOST_EN : Fld := ⟨0x40, 0, 12, 1, .rw, 0, .soft⟩
/-! VIS_FWD_CFG: R328. -/
def VIS_FWD_CFG_DEC : Fld := ⟨0x44, 0, 0, 10, .rw, 0, .soft⟩
def VIS_FWD_CFG_HDEC : Fld := ⟨0x44, 0, 12, 2, .rw, 0, .soft⟩
def VIS_FWD_CFG_RSIZE : Fld := ⟨0x44, 0, 16, 5, .rw, 17, .soft⟩
def VIS_FWD_CFG_EN : Fld := ⟨0x44, 0, 31, 1, .rw, 0, .soft⟩
/-! VIS_FWD_WP: R328. -/
def VIS_FWD_WP_WP : Fld := ⟨0x48, 0, 0, 17, .ro, 0, .ret⟩
/-! VIS_FWD_FRZ: R328. -/
def VIS_FWD_FRZ_POST : Fld := ⟨0x4C, 0, 0, 10, .rw, 0, .soft⟩
def VIS_FWD_FRZ_ARM : Fld := ⟨0x4C, 0, 16, 1, .rw, 0, .soft⟩
def VIS_FWD_FRZ_FROZEN : Fld := ⟨0x4C, 0, 17, 1, .ro, 0, .ret⟩
def VIS_FWD_FRZ_WIN : Fld := ⟨0x4C, 0, 20, 6, .rw, 0, .soft⟩
/-! VIS_CNT_LINK: R328. -/
def VIS_CNT_LINK_CRC : Fld := ⟨0x50, 0, 0, 16, .rw, 0, .ret⟩
def VIS_CNT_LINK_CODE : Fld := ⟨0x50, 0, 16, 16, .rw, 0, .ret⟩
/-! VIS_CNT_LINE: R328. -/
def VIS_CNT_LINE_LOST : Fld := ⟨0x54, 0, 0, 8, .rw, 0, .ret⟩
def VIS_CNT_LINE_ORPHAN : Fld := ⟨0x54, 0, 8, 8, .rw, 0, .ret⟩
def VIS_CNT_LINE_LEN : Fld := ⟨0x54, 0, 16, 8, .rw, 0, .ret⟩
def VIS_CNT_LINE_FMT : Fld := ⟨0x54, 0, 24, 8, .rw, 0, .ret⟩
/-! VIS_CNT_TRG: R328. -/
def VIS_CNT_TRG_SKIP : Fld := ⟨0x58, 0, 0, 8, .rw, 0, .ret⟩
def VIS_CNT_TRG_ABANDON : Fld := ⟨0x58, 0, 8, 8, .rw, 0, .ret⟩
def VIS_CNT_TRG_OVF : Fld := ⟨0x58, 0, 16, 8, .rw, 0, .ret⟩
def VIS_CNT_TRG_CRWAIT : Fld := ⟨0x58, 0, 24, 8, .rw, 0, .ret⟩
/-! VIS_LB_ERR: R328. -/
def VIS_LB_ERR_CE : Fld := ⟨0x5C, 0, 0, 16, .rw, 0, .ret⟩
def VIS_LB_ERR_UE : Fld := ⟨0x5C, 0, 16, 16, .rw, 0, .ret⟩
/-! VIS_LB_CAP: R328. -/
def VIS_LB_CAP_ADDR : Fld := ⟨0x60, 0, 0, 18, .ro, 0, .soft⟩
def VIS_LB_CAP_OVR : Fld := ⟨0x60, 0, 30, 1, .w1c, 0, .soft⟩
def VIS_LB_CAP_VALID : Fld := ⟨0x60, 0, 31, 1, .w1c, 0, .soft⟩
/-! VIS_STAT: R328. -/
def VIS_STAT_TRG_OUT : Fld := ⟨0x64, 0, 0, 7, .ro, 0, .none⟩
def VIS_STAT_WARM : Fld := ⟨0x64, 0, 8, 7, .ro, 0, .none⟩
def VIS_STAT_FIFO : Fld := ⟨0x64, 0, 16, 9, .ro, 0, .none⟩
/-! PCIE_STAT: R379. -/
def PCIE_STAT_SPEED : Fld := ⟨0x40, 0, 0, 2, .ro, 0, .none⟩
def PCIE_STAT_WIDTH : Fld := ⟨0x40, 0, 4, 3, .ro, 0, .none⟩
def PCIE_STAT_L1 : Fld := ⟨0x40, 0, 8, 1, .ro, 0, .none⟩
def PCIE_STAT_LINKDN : Fld := ⟨0x40, 0, 16, 16, .rw, 0, .aon⟩
/-! MBX_LAST_LO: R379. -/
def MBX_LAST_LO_STAMP : Fld := ⟨0x48, 0, 0, 32, .ro, 0, .ret⟩
/-! MBX_LAST_HI: R379. -/
def MBX_LAST_HI_STAMP : Fld := ⟨0x4C, 0, 0, 10, .ro, 0, .ret⟩
/-! MBX_CH: R379. -/
def MBX_CH_CHAN : Fld := ⟨0x80, 16, 0, 12, .rw, 0, .soft⟩
def MBX_CH_EN : Fld := ⟨0x80, 16, 31, 1, .rw, 0, .soft⟩
/-! MBX_W01: R379. -/
def MBX_W01_W0 : Fld := ⟨0x84, 16, 0, 14, .rw, 0, .soft⟩
def MBX_W01_W1 : Fld := ⟨0x84, 16, 16, 14, .rw, 0, .soft⟩
/-! MBX_W23: R379. -/
def MBX_W23_W2 : Fld := ⟨0x88, 16, 0, 14, .rw, 0, .soft⟩
def MBX_W23_W3 : Fld := ⟨0x88, 16, 16, 14, .rw, 0, .soft⟩
/-! MBX_SEND: R379. -/
def MBX_SEND_LEN : Fld := ⟨0x8C, 16, 0, 3, .wo, 0, .none⟩
def MBX_SEND_CRED : Fld := ⟨0x8C, 16, 16, 4, .ro, 0, .none⟩
def MBX_SEND_REFUSED : Fld := ⟨0x8C, 16, 24, 8, .rw, 0, .ret⟩
/-! TAN_CFG: R380. -/
def TAN_CFG_EN : Fld := ⟨0x40, 0, 0, 1, .rw, 0, .soft⟩
def TAN_CFG_ROLE : Fld := ⟨0x40, 0, 1, 1, .rw, 0, .soft⟩
def TAN_CFG_PORTS : Fld := ⟨0x40, 0, 2, 2, .rw, 0, .soft⟩
/-! TAN_STAT: R380. -/
def TAN_STAT_UP : Fld := ⟨0x44, 0, 0, 2, .ro, 0, .none⟩
def TAN_STAT_LOCK : Fld := ⟨0x44, 0, 4, 1, .ro, 0, .none⟩
def TAN_STAT_LOCK_LOST : Fld := ⟨0x44, 0, 5, 1, .w1c, 0, .soft⟩
def TAN_STAT_ROLE_ERR : Fld := ⟨0x44, 0, 6, 1, .ro, 0, .none⟩
def TAN_STAT_SPAN_LOST : Fld := ⟨0x44, 0, 7, 1, .w1c, 0, .soft⟩
/-! TAN_OFS_LO: R380. -/
def TAN_OFS_LO_OFS : Fld := ⟨0x48, 0, 0, 32, .ro, 0, .ret⟩
/-! TAN_OFS_HI: R380. -/
def TAN_OFS_HI_OFS : Fld := ⟨0x4C, 0, 0, 10, .ro, 0, .ret⟩
/-! TAN_TERR: R380. -/
def TAN_TERR_ERR : Fld := ⟨0x50, 0, 0, 16, .ro, 0, .none⟩
/-! TAN_SPAN: R380. -/
def TAN_SPAN_MASK : Fld := ⟨0x54, 0, 0, 16, .rw, 0, .soft⟩
def TAN_SPAN_DIVERGE : Fld := ⟨0x54, 0, 16, 16, .w1c, 0, .soft⟩
/-! TANP_STAT: R381. -/
def TANP_STAT_STATE : Fld := ⟨0x40, 0, 0, 2, .ro, 0, .none⟩
def TANP_STAT_RETRY : Fld := ⟨0x40, 0, 8, 8, .rw, 0, .ret⟩
def TANP_STAT_CRCERR : Fld := ⟨0x40, 0, 16, 8, .rw, 0, .ret⟩
def TANP_STAT_DOWN : Fld := ⟨0x40, 0, 24, 8, .rw, 0, .ret⟩
/-! TANP_LAT: R381. -/
def TANP_LAT_LAT : Fld := ⟨0x44, 0, 0, 16, .ro, 0, .none⟩
/-! CAS_REPAIR: R32. -/
def CAS_REPAIR_LOGICAL : Fld := ⟨0x40, 0, 0, 4, .rw, 0, .soft⟩
def CAS_REPAIR_GO : Fld := ⟨0x40, 0, 8, 1, .wo, 0, .none⟩
/-! CAS_MAP: R32. -/
def CAS_MAP_SPARE_FOR : Fld := ⟨0x44, 0, 0, 5, .ro, 31, .aon⟩
def CAS_MAP_BUSY : Fld := ⟨0x44, 0, 8, 1, .ro, 0, .none⟩
def CAS_MAP_REJECT : Fld := ⟨0x44, 0, 9, 1, .w1c, 0, .soft⟩
def CAS_MAP_REJECT_CAUSE : Fld := ⟨0x44, 0, 10, 2, .ro, 0, .soft⟩
def CAS_MAP_SPARE_BAD : Fld := ⟨0x44, 0, 12, 1, .ro, 0, .aon⟩
/-! CAS_PM_ERR: R190. -/
def CAS_PM_ERR_CE : Fld := ⟨0x48, 0, 0, 16, .rw, 0, .ret⟩
def CAS_PM_ERR_UE : Fld := ⟨0x48, 0, 16, 16, .rw, 0, .ret⟩
/-! CAS_SD_ERR: R190. -/
def CAS_SD_ERR_CE : Fld := ⟨0x4C, 0, 0, 16, .rw, 0, .ret⟩
def CAS_SD_ERR_UE : Fld := ⟨0x4C, 0, 16, 16, .rw, 0, .ret⟩
/-! CAS_ST_CAP: R190. -/
def CAS_ST_CAP_ADDR : Fld := ⟨0x50, 0, 0, 19, .ro, 0, .soft⟩
def CAS_ST_CAP_STORE : Fld := ⟨0x50, 0, 28, 1, .ro, 0, .soft⟩
def CAS_ST_CAP_OVR : Fld := ⟨0x50, 0, 30, 1, .w1c, 0, .soft⟩
def CAS_ST_CAP_VALID : Fld := ⟨0x50, 0, 31, 1, .w1c, 0, .soft⟩
/-! CAS_ST_HOST: R190. -/
def CAS_ST_HOST_HI_BITS : Fld := ⟨0x54, 0, 0, 16, .rw, 0, .ret⟩
def CAS_ST_HOST_PART_UE : Fld := ⟨0x54, 0, 16, 16, .rw, 0, .ret⟩
/-! CAS_SCRUB: R190. -/
def CAS_SCRUB_PM_PERIOD : Fld := ⟨0x58, 0, 0, 8, .rw, 24, .soft⟩
def CAS_SCRUB_SD_EN : Fld := ⟨0x58, 0, 8, 1, .rw, 1, .soft⟩
def CAS_SCRUB_LM_EN : Fld := ⟨0x58, 0, 9, 1, .rw, 1, .soft⟩
def CAS_SCRUB_PM_DONE : Fld := ⟨0x58, 0, 16, 1, .w1c, 0, .soft⟩
/-! COG_EXEC: R85. -/
def COG_EXEC_PC : Fld := ⟨0x40, 0, 0, 19, .ro, 0, .ret⟩
def COG_EXEC_STATE : Fld := ⟨0x40, 0, 20, 3, .ro, 0, .none⟩
def COG_EXEC_STALL : Fld := ⟨0x40, 0, 24, 4, .ro, 0, .none⟩
def COG_EXEC_LOOP_DEPTH : Fld := ⟨0x40, 0, 28, 3, .ro, 0, .ret⟩
/-! COG_FETCH: R85. -/
def COG_FETCH_TC_MISS : Fld := ⟨0x44, 0, 0, 16, .rw, 0, .ret⟩
def COG_FETCH_LB_WAIT : Fld := ⟨0x44, 0, 16, 16, .rw, 0, .ret⟩
/-! COG_STORE: R85. -/
def COG_STORE_SB_DEPTH : Fld := ⟨0x48, 0, 0, 3, .ro, 0, .none⟩
def COG_STORE_UNMAPPED : Fld := ⟨0x48, 0, 8, 1, .w1c, 0, .soft⟩
def COG_STORE_BADRX : Fld := ⟨0x48, 0, 9, 1, .w1c, 0, .soft⟩
def COG_STORE_PARTIAL : Fld := ⟨0x48, 0, 16, 16, .rw, 0, .ret⟩
/-! COG_UNMAP: R85. -/
def COG_UNMAP_ADDR : Fld := ⟨0x4C, 0, 0, 28, .ro, 0, .soft⟩
def COG_UNMAP_STORE : Fld := ⟨0x4C, 0, 28, 1, .ro, 0, .soft⟩
/-! COG_VBASE: R166. -/
def COG_VBASE_BASE : Fld := ⟨0x50, 0, 10, 9, .rw, 0, .ret⟩
/-! COG_STK: R166. -/
def COG_STK_LO : Fld := ⟨0x54, 0, 0, 14, .rw, 0, .ret⟩
def COG_STK_HI : Fld := ⟨0x54, 0, 16, 14, .rw, 0, .ret⟩
def COG_STK_EN : Fld := ⟨0x54, 0, 31, 1, .rw, 0, .ret⟩
/-! COG_TRAP: R166. -/
def COG_TRAP_VEC : Fld := ⟨0x58, 0, 0, 5, .ro, 0, .soft⟩
def COG_TRAP_CAUSE : Fld := ⟨0x58, 0, 8, 4, .ro, 0, .soft⟩
def COG_TRAP_IDX : Fld := ⟨0x58, 0, 12, 5, .ro, 0, .soft⟩
def COG_TRAP_LEN : Fld := ⟨0x58, 0, 17, 5, .ro, 0, .soft⟩
def COG_TRAP_LOCKUP : Fld := ⟨0x58, 0, 24, 1, .w1c, 0, .soft⟩
def COG_TRAP_OVR : Fld := ⟨0x58, 0, 25, 1, .w1c, 0, .soft⟩
def COG_TRAP_VALID : Fld := ⟨0x58, 0, 26, 1, .w1c, 0, .soft⟩
/-! COG_TRAP_PC: R166. -/
def COG_TRAP_PC_PC : Fld := ⟨0x5C, 0, 0, 19, .ro, 0, .soft⟩
/-! COG_TRAP_INFO: R166. -/
def COG_TRAP_INFO_INFO : Fld := ⟨0x60, 0, 0, 28, .ro, 0, .soft⟩
/-! COG_LOCK: R166. -/
def COG_LOCK_RES_ADDR : Fld := ⟨0x78, 0, 0, 28, .ro, 0, .none⟩
def COG_LOCK_ACTIVE : Fld := ⟨0x78, 0, 28, 1, .ro, 0, .none⟩
def COG_LOCK_RES : Fld := ⟨0x78, 0, 29, 1, .ro, 0, .none⟩
/-! COG_LOCK_CNT: R166. -/
def COG_LOCK_CNT_FAIL : Fld := ⟨0x7C, 0, 0, 16, .rw, 0, .ret⟩
def COG_LOCK_CNT_TMO : Fld := ⟨0x7C, 0, 16, 16, .rw, 0, .ret⟩
/-! COG_PWR: R166. -/
def COG_PWR_MODE : Fld := ⟨0x80, 0, 0, 2, .ro, 0, .ret⟩
def COG_PWR_KICK : Fld := ⟨0x80, 0, 8, 1, .wo, 0, .none⟩
def COG_PWR_WAITS : Fld := ⟨0x80, 0, 16, 16, .rw, 0, .ret⟩
/-! COG_LM_ERR: R191. -/
def COG_LM_ERR_CE : Fld := ⟨0x84, 0, 0, 16, .rw, 0, .ret⟩
def COG_LM_ERR_UE : Fld := ⟨0x84, 0, 16, 16, .rw, 0, .ret⟩
/-! COG_LM_CAP: R191. -/
def COG_LM_CAP_ADDR : Fld := ⟨0x88, 0, 0, 14, .ro, 0, .soft⟩
def COG_LM_CAP_SYN : Fld := ⟨0x88, 0, 14, 6, .ro, 0, .soft⟩
def COG_LM_CAP_OVR : Fld := ⟨0x88, 0, 30, 1, .w1c, 0, .soft⟩
def COG_LM_CAP_VALID : Fld := ⟨0x88, 0, 31, 1, .w1c, 0, .soft⟩
/-! COG_LM_HOST: R191. -/
def COG_LM_HOST_HI_BITS : Fld := ⟨0x8C, 0, 0, 16, .rw, 0, .ret⟩
def COG_LM_HOST_PART_UE : Fld := ⟨0x8C, 0, 16, 16, .rw, 0, .ret⟩
/-! COG_SLACK: R472. -/
def COG_SLACK_MIN : Fld := ⟨0x90, 0, 0, 28, .ro, 0, .none⟩
def COG_SLACK_SAMPLED : Fld := ⟨0x90, 0, 28, 1, .ro, 0, .none⟩
def COG_SLACK_EXCL : Fld := ⟨0x90, 0, 31, 1, .rw, 0, .soft⟩
/-! COG_SLACK_CNT: R472. -/
def COG_SLACK_CNT_ARMS : Fld := ⟨0x94, 0, 0, 16, .rw, 0, .ret⟩
def COG_SLACK_CNT_LATE : Fld := ⟨0x94, 0, 16, 16, .rw, 0, .ret⟩
/-! COG_WDT: R502. -/
def COG_WDT_RELOAD : Fld := ⟨0x98, 0, 0, 16, .rw, 0, .soft⟩
def COG_WDT_WARN : Fld := ⟨0x98, 0, 16, 8, .rw, 0, .soft⟩
def COG_WDT_KSRC : Fld := ⟨0x98, 0, 24, 3, .rw, 1, .soft⟩
def COG_WDT_ACTION : Fld := ⟨0x98, 0, 28, 2, .rw, 0, .soft⟩
def COG_WDT_WAITRUN : Fld := ⟨0x98, 0, 30, 1, .rw, 0, .soft⟩
/-! COG_WDT_CNT: R502. -/
def COG_WDT_CNT_COUNT : Fld := ⟨0x9C, 0, 0, 16, .ro, 0, .ret⟩
def COG_WDT_CNT_KICK : Fld := ⟨0x9C, 0, 16, 1, .wo, 0, .none⟩
def COG_WDT_CNT_EXP : Fld := ⟨0x9C, 0, 17, 1, .w1c, 0, .soft⟩
/-! COG_DBG: R502. -/
def COG_DBG_HALT : Fld := ⟨0xA0, 0, 0, 1, .wo, 0, .none⟩
def COG_DBG_RESUME : Fld := ⟨0xA0, 0, 1, 1, .wo, 0, .none⟩
def COG_DBG_STEP : Fld := ⟨0xA0, 0, 2, 1, .wo, 0, .none⟩
def COG_DBG_MONITOR : Fld := ⟨0xA0, 0, 3, 1, .rw, 0, .soft⟩
def COG_DBG_STEPEV : Fld := ⟨0xA0, 0, 4, 1, .rw, 0, .soft⟩
def COG_DBG_ORD : Fld := ⟨0xA0, 0, 5, 1, .rw, 0, .soft⟩
def COG_DBG_PEL : Fld := ⟨0xA0, 0, 8, 8, .rw, 0, .soft⟩
def COG_DBG_BRKEN : Fld := ⟨0xA0, 0, 16, 4, .rw, 0, .soft⟩
/-! COG_DBG_STAT: R502. -/
def COG_DBG_STAT_HALTED : Fld := ⟨0xA4, 0, 0, 1, .ro, 0, .none⟩
def COG_DBG_STAT_CAUSE : Fld := ⟨0xA4, 0, 1, 3, .ro, 0, .none⟩
def COG_DBG_STAT_BRKN : Fld := ⟨0xA4, 0, 4, 2, .ro, 0, .none⟩
def COG_DBG_STAT_ORDERED : Fld := ⟨0xA4, 0, 8, 1, .ro, 0, .none⟩
def COG_DBG_STAT_PENDING : Fld := ⟨0xA4, 0, 9, 1, .ro, 0, .none⟩
def COG_DBG_STAT_WITHDRAWN : Fld := ⟨0xA4, 0, 10, 1, .ro, 0, .none⟩
/-! COG_DBG_PORT: R502. -/
def COG_DBG_PORT_CODE : Fld := ⟨0xB8, 0, 0, 7, .rw, 0, .soft⟩
def COG_DBG_PORT_DST : Fld := ⟨0xB8, 0, 7, 1, .rw, 0, .soft⟩
def COG_DBG_PORT_WIDTH : Fld := ⟨0xB8, 0, 8, 2, .rw, 0, .soft⟩
/-! COG_DBG_VAL_LO: R502. -/
def COG_DBG_VAL_LO_VALUE : Fld := ⟨0xBC, 0, 0, 32, .rw, 0, .none⟩
/-! COG_DBG_VAL_HI: R502. -/
def COG_DBG_VAL_HI_VALUE : Fld := ⟨0xC0, 0, 0, 10, .rw, 0, .none⟩
/-! COG_TRAP_B: R166. -/
def COG_TRAP_B_BYTES : Fld := ⟨0x64, 4, 0, 32, .ro, 0, .soft⟩
/-! COG_BRK: R502. -/
def COG_BRK_ADDR : Fld := ⟨0xA8, 4, 0, 19, .rw, 0, .soft⟩
/-! PG_ID: R529. -/
def PG_ID_TYPE : Fld := ⟨0x0, 0, 16, 16, .ro, 0, .aon⟩
def PG_ID_INST : Fld := ⟨0x0, 0, 8, 8, .ro, 0, .aon⟩
def PG_ID_PAGE : Fld := ⟨0x0, 0, 0, 8, .ro, 0, .aon⟩
/-! PG_VER: R529. -/
def PG_VER_VER : Fld := ⟨0x4, 0, 0, 16, .ro, 1, .aon⟩
/-! PG_CTRL: R529. -/
def PG_CTRL_EN : Fld := ⟨0x8, 0, 0, 1, .rw, 1, .ret⟩
def PG_CTRL_FRZ : Fld := ⟨0x8, 0, 1, 1, .rw, 1, .aon⟩
def PG_CTRL_SRST : Fld := ⟨0x8, 0, 2, 1, .w1s, 0, .none⟩
def PG_CTRL_PWR_REQ : Fld := ⟨0x8, 0, 4, 2, .rw, 0, .aon⟩
def PG_CTRL_IDLE_AUTO : Fld := ⟨0x8, 0, 8, 1, .rw, 0, .aon⟩
/-! PG_STAT: R529. -/
def PG_STAT_PWR_STATE : Fld := ⟨0xC, 0, 0, 2, .ro, 0, .none⟩
def PG_STAT_CLK_OK : Fld := ⟨0xC, 0, 2, 1, .ro, 0, .none⟩
def PG_STAT_BUSY : Fld := ⟨0xC, 0, 3, 1, .ro, 0, .none⟩
def PG_STAT_EN_PENDING : Fld := ⟨0xC, 0, 4, 1, .ro, 0, .none⟩
def PG_STAT_STALE : Fld := ⟨0xC, 0, 5, 1, .ro, 0, .none⟩
/-! PG_EVT_RAW: R529. -/
def PG_EVT_RAW_RAW : Fld := ⟨0x10, 0, 0, 32, .ro, 0, .none⟩
/-! PG_EVT_EN: R529. -/
def PG_EVT_EN_EN : Fld := ⟨0x14, 0, 0, 32, .rw, 0, .soft⟩
/-! PG_EVT_PEND: R529. -/
def PG_EVT_PEND_PEND : Fld := ⟨0x18, 0, 0, 32, .w1c, 0, .soft⟩
/-! PG_INJ: R529. -/
def PG_INJ_INJ : Fld := ⟨0x1C, 0, 0, 32, .w1s, 0, .none⟩
/-! PG_ERR_CNT: R529. -/
def PG_ERR_CNT_CNT : Fld := ⟨0x20, 0, 0, 16, .rw, 0, .ret⟩
/-! PG_ERR_CAP0: R529. -/
def PG_ERR_CAP0_OFS : Fld := ⟨0x24, 0, 0, 12, .ro, 0, .soft⟩
def PG_ERR_CAP0_OVR : Fld := ⟨0x24, 0, 30, 1, .w1c, 0, .soft⟩
def PG_ERR_CAP0_VALID : Fld := ⟨0x24, 0, 31, 1, .w1c, 0, .soft⟩
/-! PG_ERR_CAP1: R529. -/
def PG_ERR_CAP1_DATA : Fld := ⟨0x28, 0, 0, 32, .ro, 0, .soft⟩

end R

/-- The fields of the page kind `sys` with the number of instances of each. -/
def fields_sys : List (Nat × Fld) := [(1, R.SYS_ID_DEVID), (1, R.SYS_ID_STEP), (1, R.SYS_UID_LO_UID), (1, R.SYS_UID_HI_UID),
    (1, R.SYS_RST_KEY), (1, R.SYS_RST_GO), (1, R.SYS_RST_CAUSE), (1, R.SYS_BOOT_STATE), (1, R.SYS_BOOT_CAUSE),
    (1, R.SYS_BOOT_GO), (1, R.SYS_BOOT_WARN), (1, R.SYS_BOOT_SRC), (1, R.SYS_SVN_REC), (1, R.SYS_SVN_MIN), (1, R.SYS_LC_STATE),
    (1, R.SYS_ELOG_STAT_COUNT), (1, R.SYS_ELOG_STAT_OVR), (1, R.SYS_ELOG_STAT_POP), (1, R.SYS_ELOG_A_ADDR),
    (1, R.SYS_ELOG_B_KIND), (1, R.SYS_ELOG_B_STAMP), (1, R.SYS_OTPW_WORD), (1, R.SYS_OTPW_GO), (1, R.SYS_OTPW_BUSY),
    (1, R.SYS_OTPW_REJECT), (1, R.SYS_OTPD_DATA)]

/-- The fields of the page kind `pwr` with the number of instances of each. -/
def fields_pwr : List (Nat × Fld) := [(1, R.PWR_CTRL_MODE), (1, R.PWR_WSTAT_PIN), (1, R.PWR_WSTAT_LINK), (1, R.PWR_WSTAT_ALARM),
    (1, R.PWR_WSTAT_REPLAY), (1, R.PWR_IDLE_US), (1, R.PWR_ALARM_LO_STAMP), (1, R.PWR_ALARM_HI_STAMP), (1, R.PWR_ALARM_HI_EN),
    (1, R.PWR_KICK_COG), (1, R.PWR_KICK_GO), (4, R.PWR_WAKE_POL), (4, R.PWR_WAKE_EDGE), (4, R.PWR_WAKE_FILT),
    (4, R.PWR_WAKE_LVL), (64, R.PWR_DOM_REQ), (64, R.PWR_DOM_STATE), (64, R.PWR_DOM_HOLD), (64, R.PWR_DOM_EMU),
    (64, R.PWR_DOM_FAIL), (64, R.PWR_DOM_IDLE_AUTO), (64, R.PWR_DOM_WSET), (64, R.PWR_DOM_ENTRIES)]

/-- The fields of the page kind `pmb` with the number of instances of each. -/
def fields_pmb : List (Nat × Fld) := [(1, R.PMB_CFG_SPEED), (1, R.PMB_CFG_PEC), (1, R.PMB_STAT_BUSY), (1, R.PMB_STAT_ALERT),
    (1, R.PMB_STAT_NACK), (1, R.PMB_STAT_PECERR), (1, R.PMB_STAT_ARA_UNK), (1, R.PMB_ERR_NACK), (1, R.PMB_ERR_PEC),
    (1, R.PMB_ERR_FAIL), (1, R.PMB_ALERT_ADDR), (1, R.PMB_ALERT_STATUS), (4, R.PMB_Q_ADDR), (4, R.PMB_Q_PAGED),
    (4, R.PMB_Q_PAGE), (4, R.PMB_Q_EXP), (4, R.PMB_Q_MODE_OK)]

/-- The fields of the page kind `gov` with the number of instances of each. -/
def fields_gov : List (Nat × Fld) :=
  [(1, R.GOV_CTRL_EN), (1, R.GOV_CTRL_MODE), (1, R.GOV_CTRL_OFF_EN), (1, R.GOV_CTRL_FAULT), (1, R.GOV_BAND_LO),
    (1, R.GOV_BAND_HI), (1, R.GOV_STEP_UP), (1, R.GOV_STEP_DN), (1, R.GOV_STEP_HOLD), (1, R.GOV_STEP_QUIET), (1, R.GOV_LIM_VMIN),
    (1, R.GOV_LIM_VMAX), (1, R.GOV_LIM_VIDLE), (1, R.GOV_PER_US), (1, R.GOV_CFG_SLEW), (1, R.GOV_CFG_SETTLE), (1, R.GOV_CFG_TON),
    (1, R.GOV_SET_MV), (1, R.GOV_SET_VSTART), (1, R.GOV_V_VOUT), (1, R.GOV_V_MEAS), (1, R.GOV_V_ASSIST), (1, R.GOV_V_CHANGING),
    (1, R.GOV_V_RAIL_OFF), (1, R.GOV_SLK_SMIN), (1, R.GOV_SLK_NONE), (1, R.GOV_CNT_UPS), (1, R.GOV_CNT_DOWNS),
    (1, R.GOV_CNT_LATEP), (1, R.GOV_CNT_QUIETP)] ++
  [(1, R.GOV_TEL_IOUT)]

/-- The fields of the page kind `xing` with the number of instances of each. -/
def fields_xing : List (Nat × Fld) := [(1, R.XING_SEL_DOM)]

/-- The fields of the page kind `xingd` with the number of instances of each. -/
def fields_xingd : List (Nat × Fld) := [(1, R.XING_STAT_SRC_RST), (1, R.XING_STAT_OVF), (1, R.XING_STAT_LOST)]

/-- The fields of the page kind `hlt` with the number of instances of each. -/
def fields_hlt : List (Nat × Fld) := [(1, R.HLT_BRAKE_ACTIVE), (1, R.HLT_BRAKE_SET), (1, R.HLT_BRAKE_CLR),
    (1, R.HLT_BRAKE_CLR_REJ), (1, R.HLT_BRAKE_CAUSES), (1, R.HLT_BRAKE_PRESENT), (1, R.HLT_BRKIN_FILT), (1, R.HLT_BRKIN_LVL),
    (1, R.HLT_BRK_T_LO_STAMP), (1, R.HLT_BRK_T_HI_STAMP), (1, R.HLT_TCFG_WARN), (1, R.HLT_TCFG_CRIT), (1, R.HLT_TCFG_CRIT_BRAKE),
    (1, R.HLT_RAIL_LOW), (1, R.HLT_RAIL_HIGH), (1, R.HLT_WDT_CAP_COG), (1, R.HLT_WDT_CAP_PC), (1, R.HLT_WDT_CAP_OVR),
    (1, R.HLT_WDT_CAP_VALID), (5, R.HLT_TEMP_T), (5, R.HLT_TEMP_WARN), (5, R.HLT_TEMP_CRIT)]

/-- The fields of the page kind `dl` with the number of instances of each. -/
def fields_dl : List (Nat × Fld) := [(16, R.DL_CFG_MASK), (16, R.DL_CFG_BURST), (16, R.DL_CFG_LIMIT), (16, R.DL_CFG_CONSEC),
    (16, R.DL_CFG_ACTION), (16, R.DL_CFG_EN), (16, R.DL_STAT_CUR), (16, R.DL_STAT_RUN), (16, R.DL_STAT_LAST),
    (16, R.DL_STAT_FIRED), (16, R.DL_CNT_TOTAL)]

/-- The fields of the page kind `dbg` with the number of instances of each. -/
def fields_dbg : List (Nat × Fld) := [(1, R.DBG_STAT_LEVEL_J), (1, R.DBG_STAT_LEVEL_W), (1, R.DBG_STAT_ATTACH),
    (1, R.DBG_BENCH_EN), (1, R.DBG_BENCH_REFUSE)]

/-- The fields of the page kind `pel` with the number of instances of each. -/
def fields_pel : List (Nat × Fld) := [(8, R.PEL_CFG_TRIG_ANY), (8, R.PEL_CFG_FREEZE), (8, R.PEL_CFG_BRK), (8, R.PEL_CFG_GO),
    (8, R.PEL_CFG_RESUME), (8, R.PEL_STAT_TRIGGERED), (8, R.PEL_STAT_LAG), (8, R.PEL_T_STAMP)]

/-- The fields of the page kind `trc` with the number of instances of each. -/
def fields_trc : List (Nat × Fld) := [(1, R.TRC_CTRL_EN), (1, R.TRC_CTRL_HALTS), (1, R.TRC_CTRL_TRAPS), (1, R.TRC_CTRL_BRAKE),
    (1, R.TRC_MASK_PORTS), (1, R.TRC_STAT_COUNT), (1, R.TRC_STAT_DROP), (1, R.TRC_POP_POP), (4, R.TRC_DATA_BYTES)]

/-- The fields of the page kind `ev` with the number of instances of each. -/
def fields_ev : List (Nat × Fld) := [(1, R.EV_SRC_IDX_IDX), (1, R.EV_GRP_IDX_IDX), (1, R.EV_SW_RAISE), (1, R.EV_HFIN_NUM),
    (1, R.EV_ERR_BADFIN), (1, R.EV_ERR_OVF), (64, R.EV_HCLAIM_NUM)]

/-- The fields of the page kind `evsrc` with the number of instances of each. -/
def fields_evsrc : List (Nat × Fld) := [(1, R.EV_SRC_CFG_MASK), (1, R.EV_SRC_CFG_CAS), (1, R.EV_SRC_CFG_CLASS),
    (1, R.EV_SRC_CFG_VEC), (1, R.EV_SRC_CFG_HOST), (1, R.EV_SRC_CFG_EN), (1, R.EV_SRC_STAT_STATE), (1, R.EV_SRC_STAT_LEVEL),
    (1, R.EV_SRC_STAT_COND), (1, R.EV_SRC_STAT_REPEAT), (1, R.EV_SRC_STAT_OWNER), (1, R.EV_SRC_STAT_HOSTCL),
    (1, R.EV_SRC_STAT_CASO)]

/-- The fields of the page kind `evgrp` with the number of instances of each. -/
def fields_evgrp : List (Nat × Fld) := [(1, R.EV_GRP_CFG_COUNT), (1, R.EV_GRP_NS_NS), (1, R.EV_GRP_STAT_HELD)]

/-- The fields of the page kind `mvc` with the number of instances of each. -/
def fields_mvc : List (Nat × Fld) := [(1, R.MV_ERR_REJECT), (1, R.MV_ERR_DATA), (1, R.MV_ERR_ADDR), (1, R.MV_ERR_HOST),
    (1, R.MV_CAP_CH), (1, R.MV_CAP_CAUSE), (1, R.MV_CAP_OVR), (1, R.MV_CAP_VALID), (64, R.MV_HWIN_LO_EN),
    (64, R.MV_HWIN_LO_BASE), (64, R.MV_HWIN_HI_BASE)]

/-- The fields of the page kind `mve` with the number of instances of each. -/
def fields_mve : List (Nat × Fld) :=
  [(16, R.MV_CFG_DSRC), (16, R.MV_CFG_PRIO), (16, R.MV_CFG_EN), (16, R.MV_CTRL_GO), (16, R.MV_CTRL_STOP), (16, R.MV_CTRL_CLR),
    (16, R.MV_STAT_STATE), (16, R.MV_STAT_EN_PENDING), (16, R.MV_STAT_CAUSE), (16, R.MV_STAT_DONE), (16, R.MV_NEXT_ADDR),
    (16, R.MV_REM_REM), (16, R.MV_ERRAT_OFS), (16, R.MV_CMP_OFS), (16, R.MV_CMP_MISMATCH), (16, R.MV_TAG_TAG), (16, R.MV_D0_WA),
    (16, R.MV_D0_WB), (16, R.MV_D1_WA), (16, R.MV_D1_WB), (16, R.MV_D2_WA), (16, R.MV_D2_WB), (16, R.MV_D3_WA), (16, R.MV_D3_WB),
    (16, R.MV_D4_WA), (16, R.MV_D4_WB), (16, R.MV_D5_WA), (16, R.MV_D5_WB), (16, R.MV_D6_WA), (16, R.MV_D6_WB)] ++
  [(16, R.MV_D7_WA), (16, R.MV_D7_WB)]

/-- The fields of the page kind `jrn` with the number of instances of each. -/
def fields_jrn : List (Nat × Fld) := [(1, R.JRN_CTRL_EN), (1, R.JRN_CTRL_MARK), (1, R.JRN_CTRL_DEST), (1, R.JRN_CTRL_WRAP),
    (1, R.JRN_CTRL_TRIG_EN), (1, R.JRN_CTRL_CAS), (1, R.JRN_CTRL_POST), (1, R.JRN_STAT_ACTIVE), (1, R.JRN_STAT_FROZEN),
    (1, R.JRN_STAT_GAP), (1, R.JRN_STAT_REFUSE), (1, R.JRN_STAT_FIFO), (1, R.JRN_DST_LO_BASE), (1, R.JRN_DST_HI_BASE),
    (1, R.JRN_SIZE_K), (1, R.JRN_SIZE_SBASE), (1, R.JRN_WP_WP), (1, R.JRN_RP_RP), (1, R.JRN_DIG_PORT)]

/-- The fields of the page kind `jrne` with the number of instances of each. -/
def fields_jrne : List (Nat × Fld) := [(1, R.JRN_EPOCH_MBX), (1, R.JRN_EPOCH_ARM), (1, R.JRN_EPOCH_SNAP_BUSY),
    (1, R.JRN_EPOCH_BAD), (1, R.JRN_EPOCH_NUM), (1, R.JRN_E_LO_E), (1, R.JRN_E_HI_E), (1, R.JRN_SNAPCNT_CNT)]

/-- The fields of the page kind `jrnr` with the number of instances of each. -/
def fields_jrnr : List (Nat × Fld) := [(1, R.JRN_RPL_EN), (1, R.JRN_RPL_GO), (1, R.JRN_RPL_STOP_ON_DIV),
    (1, R.JRN_RPL_OFS_LO_OFS), (1, R.JRN_RPL_OFS_HI_OFS), (1, R.JRN_RPL_END_END), (1, R.JRN_RPL_RD_RD),
    (1, R.JRN_RPL_STAT_STATE), (1, R.JRN_RPL_STAT_BREAK_SEEN), (1, R.JRN_RPL_STAT_LIVE), (1, R.JRN_DIV_CAUSE),
    (1, R.JRN_DIV_TMARK), (1, R.JRN_DIV_VALID), (1, R.JRN_DIV_DIVCNT), (1, R.JRN_DIV_C_LO_C), (1, R.JRN_DIV_C_HI_C),
    (1, R.JRN_DIV_HR_LO_HASH), (1, R.JRN_DIV_HR_HI_HASH), (1, R.JRN_DIV_HL_LO_HASH), (1, R.JRN_DIV_HL_HI_HASH),
    (1, R.JRN_DIV_MK_REC), (1, R.JRN_DIV_MK_LOC)]

/-- The fields of the page kind `jrnc` with the number of instances of each. -/
def fields_jrnc : List (Nat × Fld) := [(1, R.JRN_LOST_LOST), (1, R.JRN_BRK_CNT), (1, R.JRN_BRK_LAST), (1, R.JRN_TRIG_CFG_FILT),
    (1, R.JRN_TRIG_CFG_EDGE)]

/-- The fields of the page kind `tb` with the number of instances of each. -/
def fields_tb : List (Nat × Fld) := [(1, R.TB_NOW_LO_NOW), (1, R.TB_NOW_HI_NOW), (1, R.TB_STAT_HOLD), (1, R.TB_STAT_SLEW),
    (1, R.TB_STAT_REF_OK), (1, R.TB_STAT_HOLD_SMP), (1, R.TB_STAT_HOLD_SEEN), (1, R.TB_STAT_HOLD_CNT), (1, R.TB_ADJ_OFS),
    (1, R.TB_ADJ_GO), (1, R.TB_ADJ_REM_REM), (1, R.TB_HOLD_IN_STAMP), (1, R.TB_HOLD_OUT_STAMP)]

/-- The fields of the page kind `cam` with the number of instances of each. -/
def fields_cam : List (Nat × Fld) := [(1, R.CAM_LOAD_DEMAND), (1, R.CAM_LOAD_REFUSE), (1, R.CAM_FAULT_ORDER),
    (1, R.CAM_FAULT_UE_AX), (1, R.CAM_FAULT_LATE), (1, R.CAM_TBL_IDX_IDX), (8, R.CAM_PORT_RATE), (8, R.CAM_PORT_LEAD),
    (8, R.CAM_PORT_CLAMP)]

/-- The fields of the page kind `camtbl` with the number of instances of each. -/
def fields_camtbl : List (Nat × Fld) := [(1, R.CAM_TBL_A_OFS), (1, R.CAM_TBL_A_FIRST), (1, R.CAM_TBL_A_SPAN),
    (1, R.CAM_TBL_A_CAD), (1, R.CAM_TBL_A_EN), (1, R.CAM_TBL_B_POINTS), (1, R.CAM_TBL_ADV_ADV), (1, R.CAM_TBL_STAT_LIVE),
    (1, R.CAM_TBL_STAT_ARMED), (1, R.CAM_TBL_STAT_ARM_CYCLE), (1, R.CAM_TBL_STAT_REFUSE)]

/-- The fields of the page kind `cad` with the number of instances of each. -/
def fields_cad : List (Nat × Fld) := [(16, R.CAD_CTRL_EN), (16, R.CAD_CTRL_NOTE_EN), (16, R.CAD_CTRL_SYNC_EN),
    (16, R.CAD_CTRL_SYNC_GAIN), (16, R.CAD_CTRL_NOTE_CHAN), (16, R.CAD_RATE_LO_VALUE), (16, R.CAD_RATE_HI_VALUE),
    (16, R.CAD_POS_LO_VALUE), (16, R.CAD_POS_HI_VALUE), (16, R.CAD_TRIM_MAX), (16, R.CAD_SLEW_TICKS), (16, R.CAD_SYNC_OFS),
    (16, R.CAD_SYNCW_WIN), (16, R.CAD_SYNCW_DLY), (16, R.CAD_NOTE_LEAD), (16, R.CAD_STAT_CYCLE), (16, R.CAD_STAT_RAMP),
    (16, R.CAD_STAT_HELD), (16, R.CAD_CNT_CLIP), (16, R.CAD_CNT_LATE), (16, R.CAD_CNT_SYNCREJ), (16, R.CAD_CNT_REFUSED),
    (16, R.CAD_BST_LO_STAMP), (16, R.CAD_BST_HI_STAMP)]

/-- The fields of the page kind `camst` with the number of instances of each. -/
def fields_camst : List (Nat × Fld) := [(1, R.CAM_ERR_CE), (1, R.CAM_ERR_UE), (1, R.CAM_CAP_UE), (1, R.CAM_CAP_GRANULE),
    (1, R.CAM_CAP_OVR), (1, R.CAM_CAP_VALID), (1, R.CAM_BUF_USED), (1, R.CAM_BUF_REFUSED), (1, R.CAM_COMMIT_LATE),
    (1, R.CAM_COMMIT_ABORT), (1, R.CAM_HOST_LIVE_DROP), (1, R.CAM_SCRUB_PERIOD), (1, R.CAM_SCRUB_DONE), (8, R.CAM_WEAR_WRITES)]

/-- The fields of the page kind `axis` with the number of instances of each. -/
def fields_axis : List (Nat × Fld) := [(512, R.AX_BIND_PORT), (512, R.AX_BIND_NODE), (512, R.AX_BIND_CAD),
    (512, R.AX_BIND_TABLE), (512, R.AX_BIND_EN), (512, R.AX_GEAR_GEAR), (512, R.AX_OFS_OFS), (512, R.AX_STEP_MAX),
    (512, R.AX_STATE_STATE), (512, R.AX_STATE_FAULT), (512, R.AX_STATE_CAUSE), (512, R.AX_POS_POS), (512, R.AX_VEL_VEL),
    (512, R.AX_MST_LO_M), (512, R.AX_MST_HI_M), (512, R.AX_BASEY_BASEY), (512, R.AX_GCUR_G), (512, R.AX_SHIFT_LEFT)]

/-- The fields of the page kind `fio` with the number of instances of each. -/
def fields_fio : List (Nat × Fld) := [(1, R.FIO_BANK_V18), (1, R.FIO_BANK_MISMATCH), (1, R.FIO_SAFE_ACTIVE), (1, R.FIO_SAFE_CLR),
    (3, R.FIO_IN_IN), (96, R.FIO_CFG_FUNC), (96, R.FIO_CFG_OD), (96, R.FIO_CFG_DRIVE), (96, R.FIO_CFG_PULL),
    (96, R.FIO_CFG_FILT), (96, R.FIO_CFG_SAFE_EN), (96, R.FIO_CFG_SAFE_LVL), (96, R.FIO_CFG_HLVL), (96, R.FIO_CFG_OUT),
    (96, R.FIO_CAP_CHAN), (96, R.FIO_CAP_EDGE)]

/-- The fields of the page kind `cap` with the number of instances of each. -/
def fields_cap : List (Nat × Fld) := [(1, R.CAP_SYNC_CHAN), (1, R.CAP_SYNC_EDGE), (1, R.CAP_SYNC_FILT), (1, R.CAP_ERR_LATE),
    (1, R.CAP_ERR_LOST), (32, R.CW_CTRL_PIN), (32, R.CW_CTRL_EDGE), (32, R.CW_CTRL_MODE), (32, R.CW_CTRL_CAD),
    (32, R.CW_CTRL_FIRST), (32, R.CW_CTRL_MISS), (32, R.CW_CTRL_EN), (32, R.CW_CTRL_CHAN), (32, R.CW_OPEN_PHASE),
    (32, R.CW_CLOSE_PHASE), (32, R.CW_STAT_OPEN), (32, R.CW_STAT_HIT), (32, R.CW_STAT_EXTRA), (32, R.CW_STAT_OUTSIDE),
    (32, R.CW_STAT_MISSES)]

/-- The fields of the page kind `enc` with the number of instances of each. -/
def fields_enc : List (Nat × Fld) := [(16, R.ENC_CFG_MODE), (16, R.ENC_CFG_PIN_A), (16, R.ENC_CFG_PIN_B), (16, R.ENC_CFG_PIN_Z),
    (16, R.ENC_CFG_ZLATCH), (16, R.ENC_CHAN_CHAN), (16, R.ENC_PER_PERIOD), (16, R.ENC_OFS_OFS), (16, R.ENC_SSI_BITS),
    (16, R.ENC_SSI_GRAY), (16, R.ENC_SSI_PAR), (16, R.ENC_SSI_HALF), (16, R.ENC_SSI_MONO), (16, R.ENC_CNT_COUNT),
    (16, R.ENC_STAT_QERR), (16, R.ENC_STAT_SSIERR), (16, R.ENC_STAT_ZSEEN)]

/-- The fields of the page kind `pwm` with the number of instances of each. -/
def fields_pwm : List (Nat × Fld) := [(32, R.PWM_CFG_PIN), (32, R.PWM_CFG_EN), (32, R.PWM_CFG_POL), (32, R.PWM_PER_PERIOD),
    (32, R.PWM_ORG_ORG), (32, R.PWM_DUTY_DUTY), (32, R.PWM_DUTY_FULL)]

/-- The fields of the page kind `rel` with the number of instances of each. -/
def fields_rel : List (Nat × Fld) := [(1, R.REL_STAT_ARMED), (1, R.REL_STAT_PWR_HOLD), (1, R.REL_CNT_LATE),
    (1, R.REL_CNT_REFUSED), (1, R.REL_CNT_COLLIDE), (1, R.REL_CNT_DISCARD), (1, R.REL_CAP_ENTRY), (1, R.REL_CAP_COG),
    (1, R.REL_CAP_CAUSE), (1, R.REL_CAP_OVR), (1, R.REL_CAP_VALID), (1, R.REL_IDX_ENTRY), (1, R.REL_IDX_KILL),
    (1, R.REL_IDX_ARMED), (1, R.REL_IDX_PH), (1, R.REL_IDX_OWNER), (1, R.REL_VS_LO_VALUE), (1, R.REL_VS_HI_VALUE),
    (1, R.REL_VA_LO_VALUE), (1, R.REL_VA_HI_VALUE), (32, R.REL_OWN_OWN0), (32, R.REL_OWN_OWN1), (32, R.REL_OWN_OWN2),
    (32, R.REL_OWN_OWN3), (32, R.REL_OWN_OWN4), (32, R.REL_OWN_OWN5), (32, R.REL_OWN_OWN6), (32, R.REL_OWN_OWN7)]

/-- The fields of the page kind `fab` with the number of instances of each. -/
def fields_fab : List (Nat × Fld) := [(1, R.FAB_HZN_PERIOD), (1, R.FAB_HZN_DEAD), (1, R.FAB_ERR_REGRESS), (1, R.FAB_ERR_NOTREG),
    (1, R.FAB_ERR_NOCHAN), (1, R.FAB_ERR_LOST), (1, R.FAB_ERR_CAP_CHAN), (1, R.FAB_ERR_CAP_SENDER), (1, R.FAB_ERR_CAP_CAUSE),
    (1, R.FAB_ERR_CAP_OVR), (1, R.FAB_ERR_CAP_VALID), (1, R.FAB_STALL_CHAN), (1, R.FAB_STALL_SENDER), (1, R.FAB_STALL_OVR),
    (1, R.FAB_STALL_VALID), (1, R.FAB_CMD_CHAN), (1, R.FAB_CMD_SENDER), (1, R.FAB_CMD_OP), (1, R.FAB_CMD_GO),
    (1, R.FAB_CMD_BUSY), (1, R.FAB_CMD_REJECT), (1, R.FAB_CE_FLIT), (1, R.FAB_CE_SLOT), (1, R.FAB_CH_IDX_IDX),
    (1, R.FAB_SET_IDX_SET), (1, R.FAB_SET_IDX_MBR)]

/-- The fields of the page kind `fabch` with the number of instances of each. -/
def fields_fabch : List (Nat × Fld) := [(1, R.FAB_CH_LO_EN), (1, R.FAB_CH_LO_ORD), (1, R.FAB_CH_LO_TAN), (1, R.FAB_CH_LO_RCV),
    (1, R.FAB_CH_LO_SET), (1, R.FAB_CH_LO_CRED), (1, R.FAB_CH_HI_SLOT), (1, R.FAB_CH_STAT_HELD), (1, R.FAB_CH_STAT_REFUSE),
    (1, R.FAB_CH_STAT_STALL), (1, R.FAB_CH_STAT_LOSS), (1, R.FAB_CH_STAT_DRAINING), (1, R.FAB_CH_STAT_EN_PENDING)]

/-- The fields of the page kind `fabset` with the number of instances of each. -/
def fields_fabset : List (Nat × Fld) := [(1, R.FAB_SET_MBR_SENDER), (1, R.FAB_SET_MBR_VALID), (1, R.FAB_SET_MBR_KNOWN),
    (1, R.FAB_SET_MBR_RETIRED), (1, R.FAB_SET_MBR_REJECT), (1, R.FAB_SET_HZN0_HZN), (1, R.FAB_SET_HZN1_HZN)]

/-- The fields of the page kind `qb` with the number of instances of each. -/
def fields_qb : List (Nat × Fld) := [(1, R.QB_ERR_CE), (1, R.QB_ERR_UE), (1, R.QB_CAP_ADDR), (1, R.QB_CAP_OVR), (1, R.QB_CAP_VALID)]

/-- The fields of the page kind `q` with the number of instances of each. -/
def fields_q : List (Nat × Fld) := [(16, R.QCFG_BASE), (16, R.QCFG_SIZE), (16, R.QCFG_EN), (16, R.QSRC_KIND), (16, R.QSRC_ID),
    (16, R.QDST_KIND), (16, R.QDST_ID), (16, R.QTMO_NS), (16, R.QSTAT_DEPTH), (16, R.QSTAT_OPEN), (16, R.QSTAT_DROPPING),
    (16, R.QSTAT_WAITING), (16, R.QHEAD0_WA), (16, R.QHEAD0_WB), (16, R.QHEAD1_WA), (16, R.QHEAD1_WB), (16, R.QTAG_VALID),
    (16, R.QTAG_EOP), (16, R.QTAG_TMO), (16, R.QTAG_LOSS), (16, R.QTAG_UE), (16, R.QTAG_AVAIL), (16, R.QCMD_POP),
    (16, R.QCMD_DROP), (16, R.QCMD_FLUSH), (16, R.QPUSH_WORD), (16, R.QPUSH_EOP), (16, R.QCNT_HDROP), (16, R.QCNT_PLOSS)]

/-- The fields of the page kind `chn` with the number of instances of each. -/
def fields_chn : List (Nat × Fld) :=
  [(1, R.CHN_CTRL_REQ), (1, R.CHN_STAT_STATE), (1, R.CHN_STAT_NODES), (1, R.CHN_STAT_OVER), (1, R.CHN_STAT_LOCKED),
    (1, R.CHN_STAT_SPLIT), (1, R.CHN_STAT_LIM), (1, R.CHN_STAT_RECOV_OK), (1, R.CHN_STAT_REFUSE), (1, R.CHN_CMD_OP),
    (1, R.CHN_CMD_GO), (1, R.CHN_CMD_BUSY), (1, R.CHN_CMD_DONE), (1, R.CHN_CMD_FAIL), (1, R.CHN_CYC_PER), (1, R.CHN_ORG_LO_ORG),
    (1, R.CHN_ORG_HI_ORG), (1, R.CHN_CNT_CYCLE), (1, R.CHN_RED_EN), (1, R.CHN_RED_PARTNER), (1, R.CHN_RED_SECOND),
    (1, R.CHN_TIME_IMG), (1, R.CHN_LAT_RL), (1, R.CHN_LATN_LATN), (1, R.CHN_ERR0_FLOST), (1, R.CHN_ERR0_FCRC),
    (1, R.CHN_ERR0_BREAK), (1, R.CHN_ERR0_LATEFRM), (1, R.CHN_ERR1_IMGLATE), (1, R.CHN_ERR1_RECOV)] ++
  [(1, R.CHN_ERR1_PARTMO), (1, R.CHN_ERR1_BADHDR), (1, R.CHN_CAP_CYCLE), (1, R.CHN_CAP_CAUSE), (1, R.CHN_CAP_BADN),
    (1, R.CHN_CAP_OVR), (1, R.CHN_CAP_VALID), (1, R.CHN_IMG_CAS), (1, R.CHN_IMG_BASE), (1, R.CHN_IMG_EN), (1, R.CHN_PWR_IDLE)]

/-- The fields of the page kind `chnn` with the number of instances of each. -/
def fields_chnn : List (Nat × Fld) := [(1, R.CHN_NIDX_NODE)]

/-- The fields of the page kind `chnode` with the number of instances of each. -/
def fields_chnode : List (Nat × Fld) := [(1, R.CHN_NCFG_CHAN), (1, R.CHN_NCFG_FB2), (1, R.CHN_NCFG_IMGW), (1, R.CHN_NCFG_FBEN),
    (1, R.CHN_NID0_VENDOR), (1, R.CHN_NID0_PRODUCT), (1, R.CHN_NID1_SERIAL), (1, R.CHN_NID2_CLASS), (1, R.CHN_NID2_STREAMS),
    (1, R.CHN_NID2_PMIN), (1, R.CHN_NID2_FB2CAP), (1, R.CHN_NDLYU_DLY), (1, R.CHN_NDLYD_DLY), (1, R.CHN_NSTAT_NSTATE),
    (1, R.CHN_NSTAT_FAULT), (1, R.CHN_NSTAT_POWERED), (1, R.CHN_NSTAT_BRAKED), (1, R.CHN_NSTAT_MISS), (1, R.CHN_NSTAT_MULTI),
    (1, R.CHN_NSTAT_SIDE), (4, R.CHN_NFB_FB)]

/-- The fields of the page kind `chns` with the number of instances of each. -/
def fields_chns : List (Nat × Fld) := [(16, R.CHN_STR_EN), (16, R.CHN_STR_NODE), (16, R.CHN_STR_SEL), (16, R.CHN_STR_BLK),
    (16, R.CHN_STRC_PKT), (16, R.CHN_STRC_GAP), (16, R.CHN_STRC_MISS)]

/-- The fields of the page kind `chnp` with the number of instances of each. -/
def fields_chnp : List (Nat × Fld) := [(6, R.CHN_PAR_REQ_BYTES), (1, R.CHN_PAR_CMD_GO), (1, R.CHN_PAR_CMD_BUSY),
    (1, R.CHN_PAR_CMD_DONE), (1, R.CHN_PAR_CMD_RESULT), (1, R.CHN_PAR_CMD_TMO)]

/-- The fields of the page kind `vis` with the number of instances of each. -/
def fields_vis : List (Nat × Fld) :=
  [(1, R.VIS_LINK_RATE), (1, R.VIS_LINK_LANES), (1, R.VIS_LINK_EN), (1, R.VIS_LINK_STATE), (1, R.VIS_LINK_MEMBER),
    (1, R.VIS_LINK_LOS), (1, R.VIS_LINK_STRIPE_ERR), (1, R.VIS_FMT_PFMT), (1, R.VIS_FMT_AREA), (1, R.VIS_FMT_OVL),
    (1, R.VIS_FMT_LINE_W), (1, R.VIS_STRIPE_START), (1, R.VIS_STRIPE_LEN), (1, R.VIS_PH_CAD), (1, R.VIS_PH_EN),
    (1, R.VIS_LPH_LPH), (1, R.VIS_TRG_MODE), (1, R.VIS_TRG_CAD), (1, R.VIS_TRG_TMO), (1, R.VIS_TRG_STEP_STEP),
    (1, R.VIS_TRG_OFS_OFS), (1, R.VIS_CTL_ADDR_ADDR), (1, R.VIS_CTL_CMD_SIZE), (1, R.VIS_CTL_CMD_WRITE), (1, R.VIS_CTL_CMD_GO),
    (1, R.VIS_CTL_CMD_TMO), (1, R.VIS_CTL_STAT_BUSY), (1, R.VIS_CTL_STAT_DONE), (1, R.VIS_CTL_STAT_RESULT),
    (1, R.VIS_CTL_STAT_ACK)] ++
  [(1, R.VIS_HB_TMO), (1, R.VIS_HB_LOST), (1, R.VIS_HB_CNT), (1, R.VIS_PWR_IDLE), (1, R.VIS_PWR_WAKE), (16, R.VIS_CTL_DATA_BYTES)]

/-- The fields of the page kind `viss` with the number of instances of each. -/
def fields_viss : List (Nat × Fld) := [(1, R.VIS_FF_EN), (4, R.ACC_GEO_X0), (4, R.ACC_GEO_W), (4, R.ACC_LIN_NL),
    (4, R.ACC_LIN_TYPE), (4, R.ACC_LIN_FREE), (4, R.ACC_LIN_EN), (4, R.ACC_START_START), (4, R.COR_RNG_X0), (4, R.COR_RNG_LEN),
    (4, R.COR_CFG_N), (4, R.COR_CFG_THR), (4, R.COR_CFG_MISS), (4, R.COR_CFG_EN), (4, R.COR_CH_CHAN), (4, R.EDG_RNG_I0),
    (4, R.EDG_RNG_LEN), (4, R.EDG_CFG_SRC), (4, R.EDG_CFG_K), (4, R.EDG_CFG_POL), (4, R.EDG_CFG_SEL), (4, R.EDG_CFG_THR),
    (4, R.EDG_CFG_MISS), (4, R.EDG_CFG_EN), (4, R.EDG_CH_CHAN)]

/-- The fields of the page kind `visw` with the number of instances of each. -/
def fields_visw : List (Nat × Fld) := [(64, R.STW_GEO_X0), (64, R.STW_GEO_W), (64, R.STW_LIN_NL), (64, R.STW_LIN_FREE),
    (64, R.STW_LIN_EN), (64, R.STW_START_START), (64, R.STW_THR_LO), (64, R.STW_THR_HI), (64, R.STW_CTL_CHAN),
    (64, R.STW_CTL_LIM), (64, R.STW_CTL_SEL), (64, R.STW_CTL_EMIT), (64, R.STW_CTL_EN)]

/-- The fields of the page kind `visf` with the number of instances of each. -/
def fields_visf : List (Nat × Fld) := [(1, R.VIS_LOST_CHAN), (1, R.VIS_LOST_EN), (1, R.VIS_FWD_CFG_DEC), (1, R.VIS_FWD_CFG_HDEC),
    (1, R.VIS_FWD_CFG_RSIZE), (1, R.VIS_FWD_CFG_EN), (1, R.VIS_FWD_WP_WP), (1, R.VIS_FWD_FRZ_POST), (1, R.VIS_FWD_FRZ_ARM),
    (1, R.VIS_FWD_FRZ_FROZEN), (1, R.VIS_FWD_FRZ_WIN), (1, R.VIS_CNT_LINK_CRC), (1, R.VIS_CNT_LINK_CODE),
    (1, R.VIS_CNT_LINE_LOST), (1, R.VIS_CNT_LINE_ORPHAN), (1, R.VIS_CNT_LINE_LEN), (1, R.VIS_CNT_LINE_FMT),
    (1, R.VIS_CNT_TRG_SKIP), (1, R.VIS_CNT_TRG_ABANDON), (1, R.VIS_CNT_TRG_OVF), (1, R.VIS_CNT_TRG_CRWAIT), (1, R.VIS_LB_ERR_CE),
    (1, R.VIS_LB_ERR_UE), (1, R.VIS_LB_CAP_ADDR), (1, R.VIS_LB_CAP_OVR), (1, R.VIS_LB_CAP_VALID), (1, R.VIS_STAT_TRG_OUT),
    (1, R.VIS_STAT_WARM), (1, R.VIS_STAT_FIFO)]

/-- The fields of the page kind `lnk` with the number of instances of each. -/
def fields_lnk : List (Nat × Fld) := [(1, R.PCIE_STAT_SPEED), (1, R.PCIE_STAT_WIDTH), (1, R.PCIE_STAT_L1),
    (1, R.PCIE_STAT_LINKDN), (1, R.MBX_LAST_LO_STAMP), (1, R.MBX_LAST_HI_STAMP), (16, R.MBX_CH_CHAN), (16, R.MBX_CH_EN),
    (16, R.MBX_W01_W0), (16, R.MBX_W01_W1), (16, R.MBX_W23_W2), (16, R.MBX_W23_W3), (16, R.MBX_SEND_LEN), (16, R.MBX_SEND_CRED),
    (16, R.MBX_SEND_REFUSED)]

/-- The fields of the page kind `tan` with the number of instances of each. -/
def fields_tan : List (Nat × Fld) := [(1, R.TAN_CFG_EN), (1, R.TAN_CFG_ROLE), (1, R.TAN_CFG_PORTS), (1, R.TAN_STAT_UP),
    (1, R.TAN_STAT_LOCK), (1, R.TAN_STAT_LOCK_LOST), (1, R.TAN_STAT_ROLE_ERR), (1, R.TAN_STAT_SPAN_LOST), (1, R.TAN_OFS_LO_OFS),
    (1, R.TAN_OFS_HI_OFS), (1, R.TAN_TERR_ERR), (1, R.TAN_SPAN_MASK), (1, R.TAN_SPAN_DIVERGE)]

/-- The fields of the page kind `tanp` with the number of instances of each. -/
def fields_tanp : List (Nat × Fld) := [(1, R.TANP_STAT_STATE), (1, R.TANP_STAT_RETRY), (1, R.TANP_STAT_CRCERR),
    (1, R.TANP_STAT_DOWN), (1, R.TANP_LAT_LAT)]

/-- The fields of the page kind `cas` with the number of instances of each. -/
def fields_cas : List (Nat × Fld) := [(1, R.CAS_REPAIR_LOGICAL), (1, R.CAS_REPAIR_GO), (1, R.CAS_MAP_SPARE_FOR),
    (1, R.CAS_MAP_BUSY), (1, R.CAS_MAP_REJECT), (1, R.CAS_MAP_REJECT_CAUSE), (1, R.CAS_MAP_SPARE_BAD), (1, R.CAS_PM_ERR_CE),
    (1, R.CAS_PM_ERR_UE), (1, R.CAS_SD_ERR_CE), (1, R.CAS_SD_ERR_UE), (1, R.CAS_ST_CAP_ADDR), (1, R.CAS_ST_CAP_STORE),
    (1, R.CAS_ST_CAP_OVR), (1, R.CAS_ST_CAP_VALID), (1, R.CAS_ST_HOST_HI_BITS), (1, R.CAS_ST_HOST_PART_UE),
    (1, R.CAS_SCRUB_PM_PERIOD), (1, R.CAS_SCRUB_SD_EN), (1, R.CAS_SCRUB_LM_EN), (1, R.CAS_SCRUB_PM_DONE)]

/-- The fields of the page kind `cog` with the number of instances of each. -/
def fields_cog : List (Nat × Fld) :=
  [(1, R.COG_EXEC_PC), (1, R.COG_EXEC_STATE), (1, R.COG_EXEC_STALL), (1, R.COG_EXEC_LOOP_DEPTH), (1, R.COG_FETCH_TC_MISS),
    (1, R.COG_FETCH_LB_WAIT), (1, R.COG_STORE_SB_DEPTH), (1, R.COG_STORE_UNMAPPED), (1, R.COG_STORE_BADRX),
    (1, R.COG_STORE_PARTIAL), (1, R.COG_UNMAP_ADDR), (1, R.COG_UNMAP_STORE), (1, R.COG_VBASE_BASE), (1, R.COG_STK_LO),
    (1, R.COG_STK_HI), (1, R.COG_STK_EN), (1, R.COG_TRAP_VEC), (1, R.COG_TRAP_CAUSE), (1, R.COG_TRAP_IDX), (1, R.COG_TRAP_LEN),
    (1, R.COG_TRAP_LOCKUP), (1, R.COG_TRAP_OVR), (1, R.COG_TRAP_VALID), (1, R.COG_TRAP_PC_PC), (1, R.COG_TRAP_INFO_INFO),
    (1, R.COG_LOCK_RES_ADDR), (1, R.COG_LOCK_ACTIVE), (1, R.COG_LOCK_RES), (1, R.COG_LOCK_CNT_FAIL), (1, R.COG_LOCK_CNT_TMO)] ++
  [(1, R.COG_PWR_MODE), (1, R.COG_PWR_KICK), (1, R.COG_PWR_WAITS), (1, R.COG_LM_ERR_CE), (1, R.COG_LM_ERR_UE),
    (1, R.COG_LM_CAP_ADDR), (1, R.COG_LM_CAP_SYN), (1, R.COG_LM_CAP_OVR), (1, R.COG_LM_CAP_VALID), (1, R.COG_LM_HOST_HI_BITS),
    (1, R.COG_LM_HOST_PART_UE), (1, R.COG_SLACK_MIN), (1, R.COG_SLACK_SAMPLED), (1, R.COG_SLACK_EXCL), (1, R.COG_SLACK_CNT_ARMS),
    (1, R.COG_SLACK_CNT_LATE), (1, R.COG_WDT_RELOAD), (1, R.COG_WDT_WARN), (1, R.COG_WDT_KSRC), (1, R.COG_WDT_ACTION),
    (1, R.COG_WDT_WAITRUN), (1, R.COG_WDT_CNT_COUNT), (1, R.COG_WDT_CNT_KICK), (1, R.COG_WDT_CNT_EXP), (1, R.COG_DBG_HALT),
    (1, R.COG_DBG_RESUME), (1, R.COG_DBG_STEP), (1, R.COG_DBG_MONITOR), (1, R.COG_DBG_STEPEV), (1, R.COG_DBG_ORD)] ++
  [(1, R.COG_DBG_PEL), (1, R.COG_DBG_BRKEN), (1, R.COG_DBG_STAT_HALTED), (1, R.COG_DBG_STAT_CAUSE), (1, R.COG_DBG_STAT_BRKN),
    (1, R.COG_DBG_STAT_ORDERED), (1, R.COG_DBG_STAT_PENDING), (1, R.COG_DBG_STAT_WITHDRAWN), (1, R.COG_DBG_PORT_CODE),
    (1, R.COG_DBG_PORT_DST), (1, R.COG_DBG_PORT_WIDTH), (1, R.COG_DBG_VAL_LO_VALUE), (1, R.COG_DBG_VAL_HI_VALUE),
    (5, R.COG_TRAP_B_BYTES), (4, R.COG_BRK_ADDR)]

/-- The fields of the page kind `hdr` with the number of instances of each. -/
def fields_hdr : List (Nat × Fld) := [(1, R.PG_ID_TYPE), (1, R.PG_ID_INST), (1, R.PG_ID_PAGE), (1, R.PG_VER_VER),
    (1, R.PG_CTRL_EN), (1, R.PG_CTRL_FRZ), (1, R.PG_CTRL_SRST), (1, R.PG_CTRL_PWR_REQ), (1, R.PG_CTRL_IDLE_AUTO),
    (1, R.PG_STAT_PWR_STATE), (1, R.PG_STAT_CLK_OK), (1, R.PG_STAT_BUSY), (1, R.PG_STAT_EN_PENDING), (1, R.PG_STAT_STALE),
    (1, R.PG_EVT_RAW_RAW), (1, R.PG_EVT_EN_EN), (1, R.PG_EVT_PEND_PEND), (1, R.PG_INJ_INJ), (1, R.PG_ERR_CNT_CNT),
    (1, R.PG_ERR_CAP0_OFS), (1, R.PG_ERR_CAP0_OVR), (1, R.PG_ERR_CAP0_VALID), (1, R.PG_ERR_CAP1_DATA)]

/-- The kinds of BAR0 page (R527), with the pseudo pages that hold the registers shown through an index register: one page for
each fabric channel (0x10000 + channel), each set member (0x11000 + 16 set + member), each cam table (0x14000 + table), each event
source (0x15000 + source), each event group (0x16000 + group), each chain node (0x17000 + 64 port + node) and each sending domain of a
crossing (0x18000 + domain). -/
inductive PageKind where
  | sys | otp | pwr | pmb | gov | xing | hlt | dl | dbg | pel | trc | ev | mvc | mve | jrn | jrne | jrnr | jrnc
  | tb | cam | cad | camst | fio | cap | enc | pwm | rel | fab | qb | q | chn | chnn | chns | chnp
  | vis | viss | visw | visf | lnk | msix | tan | tanp | cas | cog | axis
  | evsrc | evgrp | camtbl | fabch | fabset | chnode | xingd | reserved
  deriving DecidableEq, Repr

/-- The kind of a page number (R527). -/
def pageKind (p : Nat) : PageKind :=
  if p = 0x000 then .sys else if p = 0x001 then .otp
  else if p = 0x010 then .pwr else if p = 0x011 then .pmb else if 0x012 ≤ p ∧ p ≤ 0x015 then .gov else if p = 0x016 then .xing
  else if p = 0x020 then .hlt else if p = 0x021 then .dl
  else if p = 0x030 then .dbg else if p = 0x031 then .pel else if p = 0x032 then .trc
  else if p = 0x040 then .ev
  else if p = 0x050 then .mvc else if 0x051 ≤ p ∧ p ≤ 0x054 then .mve
  else if p = 0x060 then .jrn else if p = 0x061 then .jrne else if p = 0x062 then .jrnr else if p = 0x063 then .jrnc
  else if p = 0x070 then .tb else if p = 0x071 then .cam else if p = 0x072 then .cad else if p = 0x07F then .camst
  else if p = 0x080 then .fio else if p = 0x081 then .cap else if p = 0x082 then .enc else if p = 0x083 then .pwm
  else if 0x090 ≤ p ∧ p ≤ 0x09F then .rel
  else if p = 0x0A0 then .fab else if p = 0x0A1 then .qb else if 0x0B0 ≤ p ∧ p ≤ 0x0BF then .q
  else if 0x0C0 ≤ p ∧ p ≤ 0x0DF then
    (if p % 4 = 0 then .chn else if p % 4 = 1 then .chnn else if p % 4 = 2 then .chns else .chnp)
  else if 0x0E0 ≤ p ∧ p ≤ 0x11F then
    (if p % 4 = 0 then .vis else if p % 4 = 1 then .viss else if p % 4 = 2 then .visw else .visf)
  else if p = 0x120 then .lnk else if p = 0x121 then .msix else if p = 0x124 then .tan else if p = 0x125 ∨ p = 0x126 then .tanp
  else if 0x200 ≤ p ∧ p ≤ 0x20F then .cas
  else if 0x300 ≤ p ∧ p ≤ 0x40F then .cog
  else if 0x1000 ≤ p ∧ p ≤ 0x1007 then .axis
  else if 0x10000 ≤ p ∧ p < 0x11000 then .fabch
  else if 0x11000 ≤ p ∧ p < 0x13000 then .fabset
  else if 0x14000 ≤ p ∧ p < 0x14400 then .camtbl
  else if 0x15000 ≤ p ∧ p < 0x15400 then .evsrc
  else if 0x16000 ≤ p ∧ p < 0x16040 then .evgrp
  else if 0x17000 ≤ p ∧ p < 0x17200 then .chnode
  else if 0x18000 ≤ p ∧ p < 0x18040 then .xingd
  else .reserved

/-- Whether a page carries the common header (R529). -/
def PageKind.hasHeader : PageKind → Bool
  | .axis | .evsrc | .evgrp | .camtbl | .fabch | .fabset | .chnode | .xingd | .reserved => false
  | _ => true

/-- The block registers of a kind of page (R531). -/
def PageKind.fields : PageKind → List (Nat × Fld)
  | .sys => fields_sys | .otp => [] | .pwr => fields_pwr | .pmb => fields_pmb | .gov => fields_gov | .xing => fields_xing
  | .hlt => fields_hlt | .dl => fields_dl | .dbg => fields_dbg | .pel => fields_pel | .trc => fields_trc | .ev => fields_ev
  | .mvc => fields_mvc | .mve => fields_mve | .jrn => fields_jrn | .jrne => fields_jrne | .jrnr => fields_jrnr
  | .jrnc => fields_jrnc | .tb => fields_tb | .cam => fields_cam | .cad => fields_cad | .camst => fields_camst
  | .fio => fields_fio | .cap => fields_cap | .enc => fields_enc | .pwm => fields_pwm | .rel => fields_rel
  | .fab => fields_fab | .qb => fields_qb | .q => fields_q | .chn => fields_chn | .chnn => fields_chnn
  | .chns => fields_chns | .chnp => fields_chnp | .vis => fields_vis | .viss => fields_viss | .visw => fields_visw
  | .visf => fields_visf | .lnk => fields_lnk | .msix => [] | .tan => fields_tan | .tanp => fields_tanp
  | .cas => fields_cas | .cog => fields_cog | .axis => fields_axis | .evsrc => fields_evsrc | .evgrp => fields_evgrp
  | .camtbl => fields_camtbl | .fabch => fields_fabch | .fabset => fields_fabset | .chnode => fields_chnode
  | .xingd => fields_xingd
  | .reserved => []

/-- All fields of a page: the header's, where the page has one, and the block's. -/
def pageFields (p : Nat) : List (Nat × Fld) :=
  if (pageKind p).hasHeader then fields_hdr ++ (pageKind p).fields else (pageKind p).fields

/-- The first address of the page, or of the axis table, that an address lies in. -/
def pageBase (a : Nat) : Nat :=
  if 0x1000000 ≤ a ∧ a < 0x1008000 then 0x1000000 else a / 4096 * 4096

/-- Whether a field has an instance in the register word at page offset `o`. -/
def Fld.coversOff (f : Fld) (cnt o : Nat) : Bool :=
  if f.stride = 0 then o = f.off else decide (f.off ≤ o ∧ (o - f.off) % f.stride = 0 ∧ (o - f.off) / f.stride < cnt)

/-- The fields of the register word at an address, with the instance index. -/
def wordFields (a : Nat) : List Fld :=
  ((pageFields (pageBase a / 4096)).filter fun (n, f) => f.coversOff n (a - pageBase a)).map (·.2)

/-- PG_ID of a page: block type, instance and page within the instance (R527, R529). -/
def pageId (p : Nat) : Nat :=
  let id := fun (t i k : Nat) => t * 65536 + i * 256 + k
  if p ≤ 0x001 then id 0x0010 0 p
  else if 0x010 ≤ p ∧ p ≤ 0x016 then id 0x0011 0 (p - 0x010)
  else if 0x020 ≤ p ∧ p ≤ 0x021 then id 0x0012 0 (p - 0x020)
  else if 0x030 ≤ p ∧ p ≤ 0x032 then id 0x0013 0 (p - 0x030)
  else if p = 0x040 then id 0x0014 0 0
  else if 0x050 ≤ p ∧ p ≤ 0x054 then id 0x0015 0 (p - 0x050)
  else if 0x060 ≤ p ∧ p ≤ 0x063 then id 0x0016 0 (p - 0x060)
  else if 0x070 ≤ p ∧ p ≤ 0x07F then id 0x0017 0 (p - 0x070)
  else if 0x080 ≤ p ∧ p ≤ 0x083 then id 0x0018 0 (p - 0x080)
  else if 0x090 ≤ p ∧ p ≤ 0x09F then id 0x0018 0 (0x10 + (p - 0x090))
  else if 0x0A0 ≤ p ∧ p ≤ 0x0A1 then id 0x0019 0 (p - 0x0A0)
  else if 0x0B0 ≤ p ∧ p ≤ 0x0BF then id 0x0019 0 (0x10 + (p - 0x0B0))
  else if 0x0C0 ≤ p ∧ p ≤ 0x0DF then id 0x001A ((p - 0x0C0) / 4) (p % 4)
  else if 0x0E0 ≤ p ∧ p ≤ 0x11F then id 0x001B ((p - 0x0E0) / 4) (p % 4)
  else if 0x120 ≤ p ∧ p ≤ 0x126 then id 0x001C 0 (p - 0x120)
  else if 0x200 ≤ p ∧ p ≤ 0x20F then id 0x001D (p - 0x200) 0
  else if 0x300 ≤ p ∧ p ≤ 0x40F then id 0x001E ((p - 0x300) / 17) ((p - 0x300) % 17)
  else 0

/-- Factory contents of the OTP words (R512). Words 0, 2 and 5 are the rule's; the repair bytes 0x1F say that no spare is used
(R32). DESIGN CHOICE (log entry 7) for every other word: zero, which is lifecycle DEV and an image source of MRAM. -/
def otpFactory (w : Nat) : Nat :=
  if w = 0 then 0x02561C7A else if w = 2 then 0xB0 else if w = 5 then 0x12560567
  else if 59 ≤ w ∧ w ≤ 62 then 0x1F1F1F1F else 0

/-- The reset value of the register word at an address (R10), from the reset column of its fields, with the values that the
tables give per page or per domain: PG_ID (R527), PG_CTRL.EN (0 on cog pages, R529), the requests of R437 and R468, the owners of
R287 and the OTP words of R512. -/
def regReset (a : Nat) : Nat :=
  let p := pageBase a / 4096
  let o := a - pageBase a
  let k := pageKind p
  if k = .otp ∧ 0x100 ≤ o ∧ o < 0x200 ∧ o % 4 = 0 then otpFactory ((o - 0x100) / 4)
  else if k.hasHeader ∧ o = 0 then pageId p
  else if k = .cog ∧ o = 8 then (if (p - 0x300) % 17 < 16 then 0x32 else 0x02)
  else if k = .pwr ∧ 0x100 ≤ o ∧ o < 0x110 then 3
  else if k = .rel ∧ 0x60 ≤ o ∧ o < 0xE0 then 0x11111111 * ((o - 0x60) / 8)
  else ((wordFields a).map fun f => f.rst * 2 ^ f.lo).sum

end Sys2Proof.Machine
end

