-- ==== Sys2Proof/Machine/State.lean ====
section
/-! DEFINITION. The state of the device, as plain data: the register file, the stores, the live state of every block, the queue of
waiting commands, and the state right after power-on reset. -/

namespace Sys2Proof.Machine

/-! ### Cogs (chapters 02 to 05) -/

/-- The width of a move or of an access (R43, R88). -/
inductive Width where
  | word | long | triple
  deriving DecidableEq, Repr

/-- The operand and result ports that hold a value (R47, R86, R131). -/
inductive Port where
  | alu0o | alu0r | alu1o | alu1r | sho | shr | divo | divd
  | maco | macm | macd | digo | digd | pwo | pwr | evr
  | ag0b | ag0s | ag1b | ag1s | ldo | ldr
  | sto | stb | dbgo | tmo | tms | tmr
  | cho | chs | chr0 | chr1 | chr2 | chr3 | chrk | chrs | chrn
  | sp | flags | lpc | ag0r | ag1r | lpr
  deriving DecidableEq, Repr

/-- The operations of an ALU (R94). -/
inductive AluOp where
  | add | adc | sub | and | or | xor | lim
  deriving DecidableEq, Repr

/-- The trigger ports (R132). `u` selects the unit of a pair: false for alu0 and ag0, true for alu1 and ag1. -/
inductive Trigger where
  | alu (u : Bool) (op : AluOp)
  | shl | shr | sar
  | macMul | macMac | macMsu | macLd | macRd
  | divS | divU
  | digAdd | digSub | digAdj | digCvt
  | agSet (u : Bool) | agIdx (u : Bool)
  | ldW | ldL | ldT | ldAg (u : Bool) | ldSet
  | stW | stL | stT | stAg (u : Bool)
  | br | call | ret | fence | fsync | lock
  | lpLoop | lpExit | lpSave | lpRest
  | chSel | chSend | chSend4 | chHzn | chRecv | chTry
  | tmNow | tmArm | tmKill | evClaim | evFin | pwWait | dbgStim
  deriving DecidableEq, Repr

/-- A trigger that a bundle has presented to its unit (R37 step 6), with the moved value at the width of the move. -/
structure Presented where
  op  : Trigger
  val : Triple
  w   : Width
  deriving DecidableEq, Repr

/-- An address generator: the descriptor as it acts, and the index (R105). -/
structure Ag where
  len : Nat := 0
  ew  : Nat := 0
  rev : Nat := 0
  idx : Nat := 0
  deriving DecidableEq, Repr

/-- A hardware loop level: start address, address of the last bundle, remaining count (R75, R79). -/
structure Loop where
  start : Nat
  last  : Nat
  count : Nat
  deriving DecidableEq, Repr

/-- What a load was answered with: the value, or an uncorrectable error with the cause of R155 (R144). -/
inductive LoadAnswer where
  | value (v : Triple)
  | uncorrectable (cause : Nat)
  deriving DecidableEq, Repr

/-- A load in flight: its address and width, the bundles left before its value is due (R48), the buffered stores that must
leave before it reads memory (R56), and its answer. -/
structure Load where
  addr    : Nat
  w       : Width
  delay   : Nat
  behind  : Nat := 0
  answer  : Option LoadAnswer := none
  deriving DecidableEq, Repr

/-- A store buffer entry (R56): address, and one word for each address from there. -/
structure SbEntry where
  addr : Nat
  data : List Word
  deriving DecidableEq, Repr

/-- An accepted long-latency operation: the registers it will write, and the flag bits it will write (R44, R46); `fresh` while the
bundle that triggered it is not complete: its flags then follow those of that bundle's step 7. -/
structure LongOp where
  unit  : LongUnit
  dests : List (Nat × Word)
  fmask : Word
  fval  : Word
  fresh : Bool := false
  deriving DecidableEq, Repr

/-- A trap that waits for its entry (R143, R155): vector, cause, detail, the address of the bundle that raised it, the return
address to stack, and for vector 1 the index of the offending byte and the bytes as fetched. -/
structure Trap where
  vec   : Nat
  cause : Nat
  info  : Nat := 0
  pc    : Nat
  ret   : Nat
  idx   : Nat := 0
  bytes : List Byte := []
  deriving DecidableEq, Repr

/-- A WAIT in progress (R162 to R165): the mode, the enabled wakes, the channel and the stamp, the cause bits of a wake that is latched
while the gate is not on, and whether the gate has been in retention. -/
structure Waiting where
  mode  : Nat
  wev   : Bool
  wch   : Bool
  wtm   : Bool
  chan  : Nat
  stamp : Nat
  cause : Nat := 0
  slept : Bool := false
  deriving DecidableEq, Repr

/-- The bundle in progress: its address, the address after it, where a loop of count zero skips to (R75), a taken transfer's target, the
flag bits that its units will write in step 7 and whether one of them writes V = 1 (R93), the flag bits of long-latency results that came
within it, whether it begins a locked sequence, whether entries are deferred after it (R118), whether its conditional store
ends the sequence (R158), whether it completes only with the store buffer empty (R60) and then invalidates the fetch state (R72), the words
of a loop state that have entered the store buffer (R79), its WAIT as triggered (R163), its exception return: the stacked address and
FLAGS (R152), and the results that its single-bundle units write in step 7. -/
structure Current where
  pc       : Nat
  next     : Nat
  skip     : Option Nat := none
  target   : Option Nat := none
  fmask    : Word := 0
  fval     : Word := 0
  ovf      : Bool := false
  lmask    : Word := 0
  lval     : Word := 0
  locking  : Bool := false
  defers   : Bool := false
  lockEnd  : Bool := false
  fence    : Bool := false
  fsync    : Bool := false
  saved    : Nat := 0
  wait     : Option Waiting := none
  exret    : Option (Nat × Word) := none
  results  : List (Port × Triple) := []
  deriving DecidableEq, Repr

/-- Bytes held by the line buffer or the target cache (R65, R66): the address of the first, the bytes, and the addresses of the
16-byte granules among them that were read with an uncorrectable error (R69). -/
structure Fetched where
  addr  : Nat
  bytes : List Byte
  bad   : List Nat := []
  deriving DecidableEq, Repr

/-- A locked sequence (R156 to R161): limit, bundles completed, the address of the bundle that began it and of the
last one completed, whether a reservation has
been taken, the reserved word while it is held, and whether a bundle has stalled for more than 4 µs. -/
structure LockSeq where
  limit : Nat
  done  : Nat
  start : Nat
  last  : Nat := 0
  taken : Bool := false
  res   : Option Nat := none
  late  : Bool := false
  deriving DecidableEq, Repr

/-- Whether a cog issues bundles (R85). -/
inductive Run where
  | held | issuing | halted
  deriving DecidableEq, Repr

/-- A debug halt or monitor request (R490): its cause and breakpoint number. -/
structure HaltReq where
  cause : Nat
  brk   : Nat := 0
  deriving DecidableEq, Repr

/-- An event entry that has begun and waits in step 1 of R149: its class, and where an exception return tail-chains into it the FLAGS stacked in the
frame that stays (R151, R153). -/
structure Begun where
  cls   : Nat
  chain : Option Word := none
  deriving DecidableEq, Repr

/-- One physical cog (R14). Ports, registers and flags that are not listed hold zero (R83). `warned` and `expired`: its watchdog has reached
WARN, and 0, since its last restart (R478). `dbgHi`: COG_DBG_VAL_HI as last written (R491). `trap3`: an uncorrectable load that a halt within a
bundle completed (R144). `coming`: a line read ahead that waits for room in the line buffer (R78). `endMark`: the last byte of a decoded bundle with
E = 1 (R121). `parked`: held by a write of PG_CTRL.EN = 0 (R532). `brkSkip`: the bundle whose breakpoint a resume passes over (R491). -/
structure Cog where
  g      : Sparse Word := []
  sb     : BitVec 32 := 0
  port   : Sparse Triple := []
  acc    : Triple := 0
  sel    : Nat := 0
  ag0    : Ag := {}
  ag1    : Ag := {}
  flags  : Word := 0
  loops  : List Loop := []
  pc     : Nat := 0
  run    : Run := .held
  wait   : Option Waiting := none
  loads  : List Load := []
  sbuf   : List SbEntry := []
  long   : List LongOp := []
  todo   : List Presented := []
  cur    : Option Current := none
  trap   : Option Trap := none
  trap3  : Option Trap := none
  trap4  : Bool := false
  trap5  : Bool := false
  lines  : List Fetched := []
  tcache : List Fetched := []
  inUse  : Option Fetched := none
  coming : Option Fetched := none
  miss   : Bool := false
  fetchWait : Bool := false
  endMark : Option Nat := none
  lock   : Option LockSeq := none
  defer  : Nat := 0
  warn8  : Bool := false
  mon9   : Bool := false
  haltReq : Option HaltReq := none
  haltInfo : HaltReq := ⟨0, 0⟩
  lockup : Bool := false
  stepOne : Bool := false
  stepEvent : Bool := false
  brkSkip : Option Nat := none
  entering : Option Nat := none
  begun  : Option Begun := none
  stall  : Option (Nat × Nat) := none
  warned : Bool := false
  expired : Bool := false
  dbgHi  : Nat := 0
  disabling : Bool := false
  parked : Bool := false
  samples : Nat := 0
  lates  : Nat := 0
  sample : Nat := 0
  sampleStat : Nat := 0
  deriving DecidableEq, Repr

/-! ### Stores (chapter 06) -/

/-- Bad bits of a stored word or granule: one, two that its code corrects (an MRAM granule's), or more than it corrects. -/
inductive EccBad where
  | one | two | uncorrectable
  deriving DecidableEq, Repr

/-! ### Fabric and queue bank (chapter 07) -/

/-- A message (R195, R196): `words` holds the valid payload words, W0 first. -/
structure Msg where
  chan   : Nat
  sender : Nat
  stamp  : Nat
  kind   : Nat
  words  : List Nat
  deriving DecidableEq, Repr

/-- What travels between a sender's handshake and the receiving point (R194). -/
inductive Flit where
  | msg (m : Msg)
  | token (sender stamp : Nat)
  /-- Credits that travel back over a tandem link (R198, R374). -/
  | credit (sender count : Nat)
  deriving DecidableEq, Repr

/-- One (channel, member) pair: the horizon known to the merge, whether the member is retired (R212), the stamp of its last message
or token at its source since the channel was enabled (R204, R207), the time of that send, and whether the sender has sent
there since it was enabled itself. -/
structure Member where
  horizon : Option Nat := none
  retired : Bool := false
  lastSent : Option Nat := none
  sentAt  : Nat := 0
  spoke   : Bool := false
  deriving DecidableEq, Repr

/-- Live state of a channel: what is in flight, the held messages in order of arrival, its members by sender number, credits
taken and credits on their way back by sender (0x400 for a loose channel), the drain of a disable, the stamp of the last message
delivered, the least held message while it is blocked with the time since, and whether STALL has been reported (R211). -/
structure Chan where
  flight  : List Flit := []
  held    : List Msg := []
  members : Sparse Member := []
  used    : Sparse Nat := []
  back    : Sparse Nat := []
  draining : Bool := false
  pendEn  : Bool := false
  lastDelivered : Option Nat := none
  blocked : Option (Nat × Nat × Nat) := none
  stall   : Bool := false
  deriving DecidableEq, Repr

/-- A quad (R217): four words and its tag. -/
structure Quad where
  words : List Nat
  valid : Nat
  eop   : Bool := false
  tmo   : Bool := false
  loss  : Bool := false
  ue    : Bool := false
  deriving DecidableEq, Repr

/-- Live state of a queue: the closed quads, oldest first, the place of the oldest in the queue's region, the open quad's words, the dropping state, the time of the last push or
pop, a push, or a close by timeout (true) or flush, that waits at full, the channel and the words already pushed of the message that is being
pushed, whether a loss waits for the next quad, and a chain producer's own buffer
(word, EOP, first after a loss) with whether it drops the rest of a packet, and whether a packet has been dropped since (R217 to R223). -/
structure Queue where
  quads : List Quad := []
  head  : Nat := 0
  opened : List Nat := []
  dropping : Bool := false
  touched : Nat := 0
  waiting : Option (Nat × Bool) := none
  closeWait : Option Bool := none
  part : Option (Nat × Nat) := none
  lossNext : Bool := false
  buffer : List (Nat × Bool × Bool) := []
  dropPacket : Bool := false
  afterLoss : Bool := false
  deriving DecidableEq, Repr

/-! ### Cadences and the cam engine (chapter 08) -/

/-- A stretch of a cadence's course from a stamp on (R236, R242): the accumulator at its start, in units of 2^-48 cycle and not reduced
modulo 2^62; the rate; the trims applied in full; the ramp's amount, start and length; and the running extreme carried into it. Times
are values of the timebase. -/
structure Seg where
  start : Nat
  a     : Int
  rate  : Int
  kDone : Int
  rampT : Int
  rampS : Nat
  rampLen : Nat
  ext   : Option Int := none
  deriving DecidableEq, Repr

/-- A cadence notice that waits for its stamp (R245). -/
structure Note where
  stamp  : Nat
  type   : Nat
  detail : Nat := 0
  w1     : Nat := 0
  w2     : Nat := 0
  w3     : Nat := 0
  deriving DecidableEq, Repr

/-- One SNAP record of a cadence (R426): its TYPE, object, PART and value. -/
structure SnapRec where
  type   : Nat
  object : Nat
  part   : Nat
  value  : Int
  deriving DecidableEq, Repr

/-- A change that took effect at a stamp: the groups of SNAP records that it changed (the type, and the object of types 1 to 3), and what they were before. -/
structure Undo where
  at_  : Nat
  keys : List (Nat × Nat)
  old  : List SnapRec
  deriving DecidableEq, Repr

/-- Live state of a cadence: its course, newest stretch first; the trim budget of R242; the present cycle, not reduced modulo 16,384; the
boundaries passed since the enable with the cycles entered, newest first; how many boundaries that pass anew have ended their cycle before (R240,
R481); the latest boundary stamp before the enable; the enable tick; the part of CMT that evaluations, notices and boundaries fix (R240); the
notices that wait; the cycle of the last BOUNDARY notice; the point pointers by sender (R255); and the courses that later commands have changed, newest first, each
with the time until which it was in force (R302); what later changes took the place of in a snapshot, newest first (R426); and the time at which
an installed cadence is enabled (R430). -/
structure Cadence where
  segs  : List Seg := []
  used  : Nat := 0
  usedCyc : Nat := 0
  cyc   : Int := 0
  bnds  : List (Nat × Int) := []
  again : Nat := 0
  before : Nat := 0
  enabledAt : Nat := 0
  cmt   : Nat := 0
  notes : List Note := []
  noted : Int := 0
  ptrs  : Sparse (Nat × Nat) := []
  was   : List (Nat × List Seg) := []
  past  : List Undo := []
  startAt : Option Nat := none
  deriving DecidableEq, Repr

/-- Live state of an axis slot beside its registers (R249 to R251): frac, the position at the previous servo stamp, a couple that waits for
a cycle after a stamp, a FREE that waits for its stamp, a shift that waits for a boundary after a stamp (ratio, cycles, stamp), and a
running shift (G0, G1, N, position at B), its boundary B, and whether its table or cadence has been disabled since its last evaluation (R257),
or the brake has asserted since (R258). Each couple accepted waits by itself. -/
structure Axis where
  frac   : Nat := 0
  posC   : Int := 0
  couple : List (Nat × Nat) := []
  free   : Option Nat := none
  shiftAt : Option (Int × Nat × Nat) := none
  shift  : Option (Int × Int × Nat × Int) := none
  shiftB : Nat := 0
  drop   : Bool := false
  braked : Bool := false
  deriving DecidableEq, Repr

/-- A shadow buffer entry (R181): table, point, generation bit, and the fields of the point. -/
structure Shadow where
  table : Nat
  point : Nat
  gen   : Bool
  m : Nat
  y : Nat
  k : Nat
  deriving DecidableEq, Repr

/-- A commit pass (R182, R188): none, running, complete with its header written, or ended without it, with the DETAIL of its notice. -/
inductive Pass where
  | none | running | complete | ended (detail : Nat)
  deriving DecidableEq, Repr

/-- Live state of a cam table: the armed flip (cycle number, and the time after which it counts), the generation that writes now join, the
commit pass, the time at which it was armed, the copy that it writes, a boundary that an evaluation has shown it to be late for (R182), an enable
scan that waits (R180), and the boundary of the last flip taken with the copy that was live before it (R256). -/
structure Table where
  flip : Option (Nat × Nat) := none
  gen  : Bool := false
  pass : Pass := .none
  armedAt : Nat := 0
  target : Nat := 0
  lateAt : Option Nat := none
  scan : Bool := false
  flipped : Option (Nat × Nat) := none
  deriving DecidableEq, Repr

/-- What the device knows of TIMEREF and of holdover (R232, R233): whether its edges are gone, the end of an injected absence (R260), the time at which
the edges came back, the entry into the present holdover, and the intervals [in, out) of the past ones, newest first. -/
structure TimeRef where
  gone : Bool := false
  injUntil : Option Nat := none
  back : Option Nat := none
  since : Nat := 0
  past : List (Nat × Nat) := []
  deriving DecidableEq, Repr

/-- The command staging of a node (R249, R342): position, velocity, whether the slot was coupled, and the servo stamp evaluated. -/
structure Staged where
  pos : Nat := 0
  vel : Nat := 0
  coupled : Bool := false
  at_ : Int := -1
  deriving DecidableEq, Repr

/-! ### Release banks and field I/O (chapter 09) -/

/-- An armed release entry (R265): stamp or position, action, owner, the arming tick, and whether it was LATE when armed. -/
structure RelEntry where
  s     : Nat
  act   : Nat
  owner : Nat
  armed : Nat
  late  : Bool
  deriving DecidableEq, Repr

/-- Live state of a pin: the filtered input level, whether a release action has reached it since its function was set, the level that
action drives, a pending pulse end, the time of the last release edge with the level before it and its bank, the stamp of the last captured edge, and
the level last shown on the pin (none while it drives nothing), and whether the brake has set it safe (R278). Times of edges are in units of 250 ps. -/
structure Pin where
  inp   : Bool := false
  driven : Bool := false
  level : Bool := false
  pulse : Option Nat := none
  last  : Option (Nat × Bool × Nat) := none
  cap   : Option Nat := none
  shown : Option Bool := none
  safe  : Bool := false
  deriving DecidableEq, Repr

/-- An opening of a capture window that has closed (R281, R282): its open tick and its close tick, whether an edge was sent, and whether a MISS
is still to be judged. -/
structure Opening where
  open_ : Nat
  close : Nat
  hit   : Bool
  miss  : Bool
  deriving DecidableEq, Repr

/-- Live state of a capture window: when it last opened; its latest openings that have closed, newest first; in phase mode, the tick after which it
looks for its next edge, and the cadence position at which it took the last one (R281). -/
structure Win where
  opened : Nat := 0
  past  : List Opening := []
  seek  : Nat := 0
  mark  : Option Int := none
  deriving DecidableEq, Repr

/-- Live state of a PWM channel: the start of the present period, whether the output is high, the time of its fall (in units of 250 ps),
a duty that waits for the next period (DUTY, FULL, and the time from which it counts), whether the brake holds it, and whether it waits after the
brake for its next period (R278). -/
structure Pwm where
  start : Option Nat := none
  high  : Bool := false
  fall  : Option Nat := none
  pend  : Option (Nat × Bool × Nat) := none
  held  : Bool := false
  wait  : Bool := false
  deriving DecidableEq, Repr

/-- Live state of an encoder: the levels of A and B last seen, an SSI frame (its first falling edge, and whether DATA was low there),
the end of the pause, and the tick of the last periodic action. -/
structure Encoder where
  a : Bool := false
  b : Bool := false
  frame : Option (Nat × Bool) := none
  pauseEnd : Nat := 0
  lastPer : Option Nat := none
  deriving DecidableEq, Repr

/-! ### Chain ports (chapter 11) -/

/-- A command area of a slot (R334, R342): POS and VEL from an axis slot (AXV), whether that slot is coupled, and NEW. -/
structure Area where
  pos : Nat := 0
  vel : Nat := 0
  axv : Bool := false
  coupled : Bool := false
  fresh : Bool := false
  deriving DecidableEq, Repr

/-- A released commit that waits for its frame (R272, R342): its release tick, cassette and entry, the command areas by node that it
latched, and whether a bound axis's evaluation was late. -/
structure Latch where
  tick : Nat
  cas  : Nat
  entry : Nat
  areas : List Area
  late : Bool
  deriving DecidableEq, Repr

/-- Block lock of a receiver (R330): the consecutive valid sync headers before lock; while locked, the headers of the present 64, the invalid ones among
them, and the blocks since lock was gained. -/
structure BlockLock where
  locked : Bool := false
  run    : Nat := 0
  window : Nat := 0
  bad    : Nat := 0
  held   : Nat := 0
  deriving DecidableEq, Repr

/-- Live state of a chain port: the accepted request with the time of its write; the last cycle started; whether an enumeration has
succeeded; the image words of each node that the port last used, the cycle whose image it has read, and the nodes whose words were carried
over; commits that wait for their frame; the command areas, image words and STALE bits of the last commit; the cycle's frames that have returned (true:
at the closing port; the bytes); whether the cycle's feedback has been sent; the cyclic frames sent for the cycle, the CMT they carried, and how many have
come back bad; whether a second frame is under way after a break; the sides on which the bulk frame has returned; the limit J that split mode takes at the next
cycle; a rejoin that waits; the last SEQ of each stream; the last request TAG; the cycle in which the outstanding request was placed; the time at which a frame
was last received; the time at which the running command was given, and its OP; the block lock of the receiver; and the time at which the brake asserted
while the port was in RUN (R330, R339 to R357, R484). -/
structure ChainPort where
  req  : Option (Nat × Nat) := none
  cycle : Int := -1
  listed : Bool := false
  img  : Sparse (List Nat) := []
  imgFor : Option Int := none
  stale : List Nat := []
  latches : List Latch := []
  areas : List Area := []
  sentImg : Sparse (List Nat) := []
  sentStale : List Nat := []
  got  : List (Bool × List Byte) := []
  fed  : Bool := true
  sent : Nat := 0
  cmt  : Bool := false
  bad  : Nat := 0
  broken : Bool := false
  bulk : List Bool := [false, true]
  nextJ : Option Nat := none
  rejoin : Bool := false
  seqs : Sparse Nat := []
  tag  : Nat := 0
  par  : Option Int := none
  heard : Nat := 0
  cmdAt : Nat := 0
  cmdOp : Nat := 0
  lock  : BlockLock := {}
  braked : Option Nat := none
  deriving DecidableEq, Repr

/-! ### Vision pipelines (chapter 10) -/

/-- A line trigger (R299, R300): its tick, the position of the pipeline's cadence there while phases are sampled, and whether the
timebase was in holdover. -/
structure Trg where
  tick : Nat
  pos  : Option Int
  hold : Bool
  deriving DecidableEq, Repr

/-- A window's collection in progress (R310, R313): its geometry; the lines so far; the along profile or the column sums so far; sum, least
and greatest pixel, NHI and NLO; the phases of its lines; what its findings carry; and of a statistics window the registers STW_THR and STW_CTL as they stood at
its start (R318). -/
structure Collect where
  x0    : Nat
  w     : Nat
  nl    : Nat
  across : Bool
  done  : Nat := 0
  vals  : List Nat := []
  sum   : Nat := 0
  least : Nat := 16383
  most  : Nat := 0
  nhi   : Nat := 0
  nlo   : Nat := 0
  phases : List Nat := []
  warm  : Bool := false
  part  : Bool := false
  sat   : Bool := false
  lost  : Bool := false
  thr   : Nat := 0
  ctl   : Nat := 0
  deriving DecidableEq, Repr

/-- A finding that waits (R314): its channel, stamp and words, and the number of the line that it is of (R316). -/
structure Finding where
  chan  : Nat
  stamp : Nat
  words : List Nat
  line  : Nat
  deriving DecidableEq, Repr

/-- A run of lost lines that has not been reported (R301): the trigger of its first line, its phase, the lines, and when the first was lost. -/
structure LostRun where
  trg   : Trg
  phase : Nat
  count : Nat
  since : Nat
  deriving DecidableEq, Repr

/-- Live state of a lane and its pipeline: outstanding triggers, oldest first; the tick of the last firing, and from which tick the
generator looks for the next; the start of the last trigger packet; the trigger of the present frame with the time of its last line; the collections in
progress (windows 0 to 3 accumulate, 16 + w is statistics window w) and the cycle of the last line with the greatest phase among that cycle's lines (R310); the
run of lost lines, and the findings that
wait behind its report; the output FIFO, of which the first 256 findings are in it and the rest are those of an unfinished line that wait to enter (R316), and
whether its first line has been counted as delayed; lines paired; lines counted from the
enable of forwarding, and the records left to a freeze; when a relock, a control command (with its VIS_CTL_CMD) and the heartbeat timer began; the last
activity; event packets received, and stream packets with another stream ID (R292); how many lines the pipeline has seen; and the writes of its registers that a
line in progress does not see: the time, the word, and what it held before (R318). -/
structure Vision where
  trigs : List Trg := []
  seek  : Nat := 0
  packet : Option Nat := none
  frame : Option Trg := none
  frameAt : Nat := 0
  wins  : Sparse Collect := []
  peak  : Option (Int × Nat) := none
  run   : Option LostRun := none
  after : List Finding := []
  fifo  : List Finding := []
  waited : Bool := false
  seq   : Nat := 0
  fwdN  : Nat := 0
  post  : Option Nat := none
  relock : Nat := 0
  ctl   : Nat := 0
  ctlCmd : Nat := 0
  beat  : Nat := 0
  active : Nat := 0
  events : Nat := 0
  strays : Nat := 0
  lines : Nat := 0
  olds  : List (Nat × Nat × Reg) := []
  deriving DecidableEq, Repr

/-! ### Tandem links (chapter 12) -/

/-- Live state of a tandem port: the next group sequence, the unacknowledged groups (the sequence, and the flits with their channels), the
flits that wait ahead of any new one after the other port went down, the sequence expected next, whether a resend is asked for, the
last group received good, and a message header whose payload flit has not arrived yet; the index and the departures by index of its time blocks; the last
time block received since the port came up (its index and arrival), the arrival of the last one ever; and the end of an injected outage. -/
structure LinkPort where
  seq     : Nat := 0
  unacked : List (Nat × List (Nat × Flit)) := []
  queued  : List (Nat × Flit) := []
  expect  : Nat := 0
  nak     : Bool := false
  lastGood : Nat := 255
  half    : Option Nat := none
  index   : Nat := 0
  sent    : Sparse Nat := []
  peer    : Option (Nat × Nat) := none
  heard   : Nat := 0
  downUntil : Nat := 0
  deriving DecidableEq, Repr

/-! ### Block movers (chapter 13) -/

/-- Live state of a mover channel: whether GO has asked for a descriptor that is not fetched yet; the 16 words of the descriptor in
progress; the bytes read from its source and from the second range of a compare that have not been used, and how many of each were
read; the bytes written or compared; where a short queue source ended; whether it waits for its read-back, and the last beat written; and whether it stops at the
next descriptor boundary (R382 to R396). -/
structure Mover where
  go    : Bool := false
  desc  : Option (List Nat) := none
  funnel : List Byte := []
  second : List Byte := []
  read  : Nat := 0
  read2 : Nat := 0
  wrote : Nat := 0
  ended : Option Nat := none
  back  : Bool := false
  lastAt : Nat := 0
  lastN : Nat := 0
  stop  : Bool := false
  deriving DecidableEq, Repr

/-! ### Journal and replay (chapter 15) -/

/-- A journal record (R415): the fields of a header flit and the value of bytes 8 to 15. -/
structure JRec where
  chan    : Nat
  sender  : Nat
  stamp   : Nat
  payload : Nat
  deriving DecidableEq, Repr

/-- A digest item with its place in the order of R419, and what it adds to LATE and TIMING (R420). -/
structure DigItem where
  tick : Nat
  cas  : Nat
  entry : Nat
  part : Nat
  bytes : List Byte
  late : Bool
  timing : Bool
  deriving DecidableEq, Repr

/-- Live state of the journal: the FIFO, records lost since the last GAP, records written since the last EPOCH or enable, records
left after a freezing marker, the start of the oldest open digest interval, the start of the first recorded one, the releases of open intervals, the cadences whose snapshot is
due, E as a value of the timebase, and the markers so far. -/
structure Journal where
  fifo  : List JRec := []
  lost  : Nat := 0
  since : Nat := 0
  post  : Option Nat := none
  digFrom : Option Nat := none
  recFrom : Nat := 0
  items : List DigItem := []
  snapDue : List Nat := []
  snapE : Nat := 0
  marks : Nat := 0
  deriving DecidableEq, Repr

/-- Live state of a replay: started by GO, the local E and the E recorded, the snapshot records read so far, the recorded digests that
wait for the bench's own, the bench's own digests that wait for the recorded ones, and the recorded and live notices that wait for
each other, and whether the first BREAK has been kept. -/
structure Replay where
  going : Bool := false
  e     : Option Nat := none
  snaps : List JRec := []
  recDig : List JRec := []
  ownDig : List JRec := []
  recNote : List JRec := []
  ownNote : List JRec := []
  broke : Bool := false
  deriving DecidableEq, Repr

/-! ### Debug and trace (chapter 17) -/

/-- A trace packet (R497). -/
structure TracePacket where
  stamp : Nat
  type  : Nat
  src   : Nat := 0
  port  : Nat := 0
  width : Nat := 0
  value : Nat := 0
  deriving DecidableEq, Repr

/-- A peloton's live state: triggered and not yet resumed (R494). -/
structure Peloton where
  triggered : Bool := false
  deriving DecidableEq, Repr

/-! ### Events (chapter 14) -/

/-- The states of an event source (R404). -/
inductive SrcState where
  | idle | held | pending | claimed
  deriving DecidableEq, Repr

/-- Live state of an event source: its state, REPEAT, the claiming cog (cassette, logical number) or the host with the vector that it claimed for, and the
condition of a level source as it was last seen (R404, R412, R413). -/
structure EvSource where
  st     : SrcState := .idle
  rep    : Bool := false
  cas    : Nat := 0
  k      : Nat := 0
  host   : Bool := false
  vec    : Option Nat := none
  cond   : Bool := false
  deriving DecidableEq, Repr

/-- Live state of an event group: raises counted, and the time of the first of them (R405). -/
structure EvGroup where
  held  : Nat := 0
  first : Nat := 0
  deriving DecidableEq, Repr

/-! ### Power domains (chapter 16) -/

/-- The states of a power domain (R438). -/
inductive DomSt where
  | off | ret | on
  deriving DecidableEq, Repr

/-- A power domain: its state, the state it is changing to, a request that waits, a wake latched during an entry (R448), the emulated state while a
debugger is attached (R442), the start of its idle interval (R444), the time of its last wake with its place k among the domains of its kind that then were
waking, and the time at which it last reported on (R449). -/
structure Dom where
  st    : DomSt := .off
  going : Option DomSt := none
  hold  : Bool := false
  latched : Bool := false
  emu   : Option DomSt := none
  idleSince : Option Nat := none
  wokeAt : Nat := 0
  rank  : Nat := 0
  onAt  : Nat := 0
  deriving DecidableEq, Repr

/-- Live state of a quadrant's governor (R453 to R457): its target v, the periods counted above HI and without samples, whether a change was in progress
in this period, the start of the period, the target of the change in progress and one that waits for it, the time from which READ_VOUT reads, whether it has
missed once, the time since which the regulator turns on, whether the undervoltage hold has been reported, and the end of an injected hold. -/
structure Gov where
  v     : Nat := 0
  above : Nat := 0
  quiet : Nat := 0
  changed : Bool := false
  since : Nat := 0
  target : Option Nat := none
  want  : Option Nat := none
  readAt : Nat := 0
  missed : Bool := false
  turnOn : Option Nat := none
  held  : Bool := false
  injUntil : Option Nat := none
  deriving DecidableEq, Repr

/-! ### Debug ports and authorisation (R486 to R492, R510, R511) -/

/-- A debug access unit: the level that a challenge or DROP set (none: the level of the lifecycle); DA_CTRL; ERR and UE; DA_ADDR; LEVEL and KEY
of AU_CTRL; whether a nonce or a check is awaited; FAIL and CAUSE; AU_IDX; the nonce (8 words) and the response by word; and the end of a lockout.
For the TAP also the selected instruction and the ACK and data of the previous transfer. -/
structure Dau where
  granted : Option Nat := none
  space : Bool := false
  consume : Bool := false
  attach : Bool := false
  err   : Bool := false
  ue    : Bool := false
  addr  : Nat := 0
  level : Nat := 0
  key   : Nat := 0
  drawing : Bool := false
  checking : Bool := false
  fail  : Bool := false
  cause : Nat := 0
  idx   : Nat := 0
  nonce : Option (List Nat) := none
  resp  : Sparse Nat := []
  lockUntil : Nat := 0
  ir    : Nat := 1
  lastAck : Nat := 0
  lastData : Nat := 0
  deriving DecidableEq, Repr

/-- How far the boot engine has come (R507): held in reset until VAON, VCORE and VSRAM lie within their ranges (R526); not begun; waiting for GO; to check
the record; to hash and verify, with the cause found so far; done. -/
inductive BootStep where
  | held | start | host | check | verify (cause : Nat) | done
  deriving DecidableEq, Repr

/-! ### System (chapters 12, 18) -/

/-- An entry of the system error log (R514): page number or BAR address, kind, stamp. -/
structure ElogEntry where
  addr  : Nat
  kind  : Nat
  stamp : Nat
  deriving DecidableEq, Repr

/-- What the device sends to the world outside it. DESIGN CHOICE (log entry 10): the log is the model's own field, newest first. -/
inductive Out where
  | msix (vec addr data : Nat)
  /-- The completion of a host read of BAR2: the bytes, and whether it carries the poisoned bit (R173). -/
  | completion (addr : Nat) (data : List Byte) (poisoned : Bool)
  /-- A posted write to host memory (R365, R421). -/
  | hostWrite (addr : Nat) (data : List Byte)
  /-- A read-back of host memory that a mover sends (R394). -/
  | hostRead (addr len : Nat)
  /-- A group on tandem port i (R370): its header and 7 data blocks, and the blocks as the lane carries them, each its sync header and its scrambled
  payload; a time block in the same two forms; and the follower's message of the leader's TAN_OFS (R372). -/
  | tandem (port header : Nat) (data : List Nat) (line : List (Nat × Nat))
  | timeBlock (port block : Nat) (line : List (Nat × Nat))
  | tandemOfs (ofs : Nat)
  /-- A span record, or a span state record, to the tandem peer (R375): the cadence, whether it is a RATE, the effective stamp, and the
  amount or RATE; or the values of the state. -/
  | span (cad : Nat) (rate : Bool) (stamp : Nat) (value : Int)
  | spanState (cad stamp : Nat) (values : List Int)
  /-- The level that a pin drives changes, at a time in units of 250 ps; none: it drives nothing. -/
  | pin (n time : Nat) (level : Option Bool)
  /-- A frame, or the wake pattern, on a chain port's transmitter (R330, R331, R347): the frame's bytes, and the blocks as the lane carries them, each
its sync header and its scrambled payload. -/
  | chainFrame (port : Nat) (bytes : List Byte) (line : List (Nat × Nat))
  | chainWake (port : Nat) (line : List (Nat × Nat))
  /-- A trigger packet on a camera's uplink for the trigger at a tick (R299), a control command with its register address and data (none for
  a read, R296), and the acknowledgement of an event packet (R292). -/
  | visTrigger (lane tick : Nat)
  | visControl (lane addr size : Nat) (data : Option (List Byte))
  | visEventAck (lane : Nat)
  /-- The level of BRAKE_OUT_N (R483). -/
  | brakeOut (low : Bool)
  /-- A PMBus transaction: the address, the command code, and what it writes (none for a read or a send byte) (R454). -/
  | pmbus (addr cmd : Nat) (data : Option Nat)
  /-- The acknowledge of a two-wire transfer with its read data (R487); what a JTAG data register shifts out (R488); and a sample of the boundary,
  the level at each pin (R488). -/
  | twoWire (ack : Nat) (data : Option Nat)
  | tdo (data : Nat)
  | boundary (levels : List Bool)
  /-- The value that a host read of a register returns. -/
  | regRead (addr : Nat) (data : Reg)
  deriving DecidableEq, Repr

/-- The state of the device. -/
structure State where
  /-- The 64-bit nanosecond timebase (R230). -/
  tb     : Nat
  /-- The register file: words by address (R527); a word not listed holds its reset value. -/
  regs   : Sparse Reg
  /-- The stores, by BAR2 address (R168): one cell per byte that is not zero. -/
  mem    : List Host.Cell
  /-- Words and granules whose check bits do not match, by BAR2 address of the word or granule (R173). -/
  bad    : Sparse EccBad
  /-- Corrected SRAM words that wait to be written back (R173). -/
  writeBacks : List Nat
  /-- Granule writes to each cam bank since device reset (R192). -/
  camWrites : Sparse Nat
  /-- The physical cogs, by 17c + p. -/
  cogs   : Sparse Cog
  /-- Live state of the fabric's channels, the messages that the hub holds for cassettes in retention, and the queues. -/
  chans  : Sparse Chan
  hubHold : List Msg
  queues : Sparse Queue
  /-- Messages of hardware senders that wait for a credit, in the order sent (R205). -/
  outbox : List Msg
  /-- Whether an alignment to the reference is being slewed (R232), and the ticks since the last nanosecond slewed for TB_ADJ. -/
  aligning : Bool
  slewTicks : Nat
  /-- TIMEREF and the holdover intervals (R232, R233). -/
  timeref : TimeRef
  /-- Cadences, axis slots, cam tables, the shadow buffer, the command staging by 64 port + node, the last servo stamp evaluated by port,
  the origin of a chain port's cycles as a value of the timebase (R339), the servo rate and PER of a port before their last write with the time
  from which the new ones are in force (R248),
  and the deadline monitors that have acted and not yet rearmed (R481). -/
  cads   : Sparse Cadence
  axes   : Sparse Axis
  tables : Sparse Table
  shadow : List Shadow
  staging : Sparse Staged
  evals  : Sparse Int
  chnOrg : Sparse Int
  servoWas : Sparse (Nat × Nat × Nat)
  dlActed : Sparse Bool
  /-- Armed release entries by 256 cassette + entry; pins, PWM channels, windows and encoders; captures lost by source (pins to 96, encoders
  from 100); captures that wait for their turn in stamp order (R280); the banks whose rail disagrees with V18, and the end of an injected mismatch (R276). -/
  rel    : Sparse RelEntry
  pins   : Sparse Pin
  pwms   : Sparse Pwm
  cws    : Sparse Win
  encs   : Sparse Encoder
  capLost : Sparse Nat
  caps   : List Msg
  misBanks : Nat
  misUntil : Option Nat
  /-- The chain ports. -/
  ports  : Sparse ChainPort
  /-- The lanes with their pipelines. -/
  vis    : Sparse Vision
  /-- The tandem ports; the cadences that the peer spans (R375); whether TAN_OFS is fixed, and since when the time error has been at most
  5 ns (R372). -/
  links  : Sparse LinkPort
  spanTo : Nat
  tanFixed : Bool
  tanGood : Option Nat
  /-- The configuration space of the PCI Express function, the status of its uncorrectable errors as AER numbers them (R363), and whether the link has
  not come up again since a PCI Express reset (R504). -/
  pcie   : PcieConf
  aer    : BitVec 32
  perst  : Bool
  /-- The mover channels, and by engine and priority (4e + PRIO) the channel served last with the beats it has had in a row (R392). -/
  movers : Sparse Mover
  movTurn : Sparse (Nat × Nat)
  /-- The journal and the replay. -/
  jrn    : Journal
  rpl    : Replay
  /-- The trace buffer, oldest first, the packets lost since the last one accepted, and the pelotons. -/
  trace  : List TracePacket
  traceLost : Nat
  pels   : Sparse Peloton
  /-- The governors by quadrant, and the quadrants whose VCOG rail lies below its limit, so that their cogs stop (R456). -/
  govs   : Sparse Gov
  uvHold : Sparse Bool
  /-- How the PMBus answers the next writes of the command that acts: tries not acknowledged, and with a wrong packet error code; one that is not listed
  is acknowledged. Empty between commands. -/
  pmbPlan : List (Nat × Nat)
  /-- The end of an injected report of VCORE below its window (R477). -/
  railUntil : Option Nat
  /-- Whether VMRAM lies below its window, and the bytes that wait to be written into MRAM until it does not (R477). -/
  vmramLow : Bool
  mramWait : List (Nat × Byte)
  /-- The end of an injected BRAKE_IN_N (R498), and changes of filtered input pins that their filters have not passed yet: WAKE0 to WAKE3 (0 to 3) and
  JRN_TRIG (4), each with the new level and the time of the change (R424, R447). -/
  brkUntil : Option Nat
  inputs : Sparse (Bool × Nat)
  /-- The SerDes domains that have lost lock with SREF and have not shown it regained since (R438, R459). -/
  unlocked : List Nat
  /-- The cadences whose bits of TAN_SPAN.MASK have stood since the link went down (R377). -/
  spanHeld : Nat
  /-- The debug access units: JTAG (0) and two-wire (1); the one that set bench mode (R496); the boundary cells that EXTEST drives (R488). -/
  daus   : Sparse Dau
  benchBy : Option Nat
  boundary : Sparse Bool
  /-- The boot engine; whether the erase of lifecycle RETURN has been made (R509), which no reset undoes; an OTP blow in progress (word, bits), and a device
  reset that waits for its end, with its CAUSE (R513). -/
  boot   : BootStep
  erased : Bool
  blow   : Option (Nat × Nat)
  resetWaits : Option Nat
  /-- Repairs in progress, by cassette: the logical cog, and the time of GO (R33). -/
  repairs : Sparse (Nat × Nat)
  /-- Raises on their way to the event controller, by source (R463); its sources and groups. -/
  xing   : Sparse Nat
  evSrc  : Sparse EvSource
  evGrp  : Sparse EvGroup
  doms   : Sparse Dom
  elog   : List ElogEntry
  out    : List Out
  /-- The model's own counter of free values drawn (log entry 4). -/
  free   : Nat
  /-- Commands that wait, first in, first out. -/
  pending : List Instr
  deriving DecidableEq, Repr

/-- Why a step stops with a fault. -/
inductive Fault where
  /-- Raised by no meaning of this model: the block has no fault that stops it; its errors are state. Safe. -/
  | none
  deriving DecidableEq, Repr

/-- Why a step refuses a command. -/
inductive Refusal where
  /-- Raised by an arm of exec whose command has no meaning yet. Safe. -/
  | notModelled (mnemonic : String)
  deriving DecidableEq, Repr

/-- The device right after power-on reset (R503). -/
def State.reset : State where
  tb := 0
  regs := []
  mem := []
  bad := []
  writeBacks := []
  camWrites := []
  cogs := []
  chans := []
  hubHold := []
  queues := []
  outbox := []
  aligning := false
  slewTicks := 0
  timeref := {}
  cads := []
  axes := []
  tables := []
  shadow := []
  staging := []
  evals := []
  chnOrg := []
  servoWas := []
  dlActed := []
  rel := []
  pins := []
  pwms := []
  cws := []
  encs := []
  capLost := []
  caps := []
  misBanks := 0
  misUntil := none
  ports := []
  vis := []
  links := []
  spanTo := 0
  tanFixed := false
  tanGood := none
  pcie := {}
  aer := 0
  perst := false
  movers := []
  movTurn := []
  jrn := {}
  rpl := {}
  trace := []
  traceLost := 0
  pels := []
  govs := []
  uvHold := []
  pmbPlan := []
  railUntil := none
  vmramLow := false
  mramWait := []
  brkUntil := none
  inputs := []
  unlocked := []
  spanHeld := 0
  daus := []
  benchBy := none
  boundary := []
  boot := .start
  erased := false
  blow := none
  resetWaits := none
  repairs := []
  xing := []
  evSrc := []
  evGrp := []
  doms := []
  elog := []
  out := []
  free := 0
  pending := []

end Sys2Proof.Machine
end

