-- ==== Sys2Proof/Machine/Ops.lean ====
section
/-! DEFINITION. The named operations over the state: sparse maps, the register file, the stores and their error correction, power
domains, the system error log, events and MSI-X messages. -/

namespace Sys2Proof.Machine

/-- The outcome of a command. -/
abbrev Result := Host.Outcome State Fault Refusal

/-! ### Sparse maps -/

/-- The value listed at a key. -/
def look {α : Type} : Sparse α → Nat → Option α
  | [], _ => none
  | (k, v) :: m, a => if k = a then some v else look m a

/-- The value at a key, or the default. -/
def lookD {α : Type} (m : Sparse α) (a : Nat) (d : α) : α := (look m a).getD d

/-- The map with a value set at a key, keys strictly rising. -/
def put {α : Type} : Sparse α → Nat → α → Sparse α
  | [], a, v => [(a, v)]
  | (k, w) :: m, a, v => if a < k then (a, v) :: (k, w) :: m else if a = k then (a, v) :: m else (k, w) :: put m a v

/-- The map without a key. -/
def del {α : Type} : Sparse α → Nat → Sparse α
  | [], _ => []
  | (k, w) :: m, a => if k = a then m else (k, w) :: del m a

/-- Folds a state change over the numbers 0 to n − 1. -/
def upTo {α : Type} (n : Nat) (f : α → Nat → α) (a : α) : α := (List.range n).foldl f a

/-- Bit `i` of a number. -/
def bit (v i : Nat) : Bool := v / 2 ^ i % 2 = 1

/-- The bits of a number from `lo`, `w` of them. -/
def bits (v lo w : Nat) : Nat := v / 2 ^ lo % 2 ^ w

/-- A number whose `w` bits from `lo` are set to a value. -/
def setBits (v lo w x : Nat) : Nat := v - bits v lo w * 2 ^ lo + x % 2 ^ w * 2 ^ lo

/-- One bit as a number. -/
def b2n (b : Bool) : Nat := if b then 1 else 0

/-- A `w`-bit number read as two's complement (R5). -/
def signed (v w : Nat) : Int := if v % 2 ^ w < 2 ^ (w - 1) then (v % 2 ^ w : Nat) else (v % 2 ^ w : Nat) - (2 ^ w : Nat)

/-- An integer reduced to `w` bits. -/
def wrap (x : Int) (w : Nat) : Nat := (x % (2 ^ w : Nat)).toNat

/-! ### The register file (R9 to R12) -/

/-- The register word at an address: as listed, or its reset value (R10). -/
def State.reg (s : State) (a : Nat) : Reg := lookD s.regs a (BitVec.ofNat 32 (regReset a))

/-- The state with a register word set. -/
def State.setReg (s : State) (a : Nat) (v : Reg) : State := { s with regs := put s.regs a v }

/-- The address of instance `i` of a field on a page. -/
def Fld.addr (f : Fld) (p i : Nat) : Nat := p * 4096 + f.off + f.stride * i

/-- The value of a field. -/
def State.rd (s : State) (p : Nat) (f : Fld) (i : Nat := 0) : Nat := bits (s.reg (f.addr p i)).toNat f.lo f.w

/-- The state with a field set. -/
def State.wr (s : State) (p : Nat) (f : Fld) (v : Nat) (i : Nat := 0) : State :=
  s.setReg (f.addr p i) (BitVec.ofNat 32 (setBits (s.reg (f.addr p i)).toNat f.lo f.w v))

/-- A write of a register word by its Access codes (R9): RW fields take the value, W1C and W1S fields are cleared and set by ones, and
RO, WO and RC fields do not change. -/
def State.applyWrite (s : State) (a data : Nat) : State :=
  let old := (s.reg a).toNat
  let new := (wordFields a).foldl (fun (v : Nat) (f : Fld) =>
    let x := bits data f.lo f.w
    match f.acc with
    | .rw => setBits v f.lo f.w x
    | .w1c => setBits v f.lo f.w (Nat.land (bits v f.lo f.w) (2 ^ f.w - 1 - x))
    | .w1s => setBits v f.lo f.w (Nat.lor (bits v f.lo f.w) x)
    | .ro | .wo | .rc => v) old
  s.setReg a (BitVec.ofNat 32 new)

/-- Whether a one-bit field is 1. -/
def State.on (s : State) (p : Nat) (f : Fld) (i : Nat := 0) : Bool := s.rd p f i = 1

/-- A counter field plus `n`, saturating at its greatest value. -/
def State.bumpBy (s : State) (p : Nat) (f : Fld) (n : Nat) (i : Nat := 0) : State :=
  s.wr p f (min (s.rd p f i + n) (2 ^ f.w - 1)) i

/-- A counter field plus one, saturating. -/
def State.bump (s : State) (p : Nat) (f : Fld) (i : Nat := 0) : State := s.bumpBy p f 1 i

/-- PG_ERR_CNT plus one, with the capture of the register write that was counted, if it was one (R529). -/
def State.pgErr (s : State) (p : Nat) (wrote : Option (Nat × Nat) := none) : State :=
  let s := s.bump p R.PG_ERR_CNT_CNT
  let s := if s.on p R.PG_ERR_CAP0_VALID then s.wr p R.PG_ERR_CAP0_OVR 1 else s
  let s := s.wr p R.PG_ERR_CAP0_VALID 1
  match wrote with
  | some (o, d) => (s.wr p R.PG_ERR_CAP0_OFS o).wr p R.PG_ERR_CAP1_DATA d
  | none => (s.wr p R.PG_ERR_CAP0_OFS 0xFFF).wr p R.PG_ERR_CAP1_DATA 0

/-- A capture: OVR when VALID was already 1, then VALID. -/
def State.capture (s : State) (p : Nat) (valid ovr : Fld) (i : Nat := 0) : State :=
  (if s.on p valid i then s.wr p ovr 1 i else s).wr p valid 1 i

/-- Whether an injection bit of a page is armed (R473). -/
def State.injArmed (s : State) (p b : Nat) : Bool := bit (s.rd p R.PG_INJ_INJ) b

/-- The state with an injection bit taken: its report has been made. -/
def State.injTake (s : State) (p b : Nat) : State := s.wr p R.PG_INJ_INJ (setBits (s.rd p R.PG_INJ_INJ) b 1 0)

/-- Draws a free value of `w` bits: what the spec leaves unstated (log entry 4). -/
def State.freeDraw (s : State) (w : Nat) : Nat × State := (Config.freeValue s.free % 2 ^ w, { s with free := s.free + 1 })

/-- The present stamp: the low 42 bits of the timebase. -/
def State.now (s : State) : Nat := s.tb % 2 ^ 42

/-- The value of the timebase that a stamp names: the one nearest the present (R231). -/
def State.absStamp (s : State) (st : Nat) : Nat := ((s.tb : Int) + signed (wrap ((st : Int) - s.now) 42) 42).toNat

/-- The signed distance from stamp `b` to stamp `a`, modulo 2^42 within half that range. -/
def stampDiff (a b : Nat) : Int := signed (wrap ((a : Int) - b) 42) 42

/-! ### Sorting -/

/-- Inserts before the first element that does not come ahead of it. -/
def insertBy {α : Type} (le : α → α → Bool) (x : α) : List α → List α
  | [] => [x]
  | y :: ys => if le x y then x :: y :: ys else y :: insertBy le x ys
/-- A list in order; equal elements keep theirs. -/
def sortBy {α : Type} (le : α → α → Bool) : List α → List α
  | [] => []
  | x :: xs => insertBy le x (sortBy le xs)
def sortNat (l : List Nat) : List Nat := sortBy (fun a b => decide (a ≤ b)) l

/-! ### Pages and power domains (R437, R440, R527) -/

/-- The power domain of a page: d of R437, or 64 + physical cog for a cog gate. -/
def pageDom (p : Nat) : Nat :=
  match pageKind p with
  | .pwr => 0
  | .tb => 1
  | .jrn | .jrne | .jrnr | .jrnc => 4
  | .rel => 8 + (p - 0x090)
  | .cas => 8 + (p - 0x200)
  | .vis | .viss | .visw | .visf => 24 + (p - 0x0E0) / 4
  | .chn | .chnn | .chns | .chnp => 40 + (p - 0x0C0) / 4
  | .chnode => 40 + (p - 0x17000) / 64
  | .tan => 48
  | .tanp => 48 + (p - 0x125)
  | .cog => 64 + (p - 0x300)
  | .mvc | .mve | .cam | .cad | .camst | .fio | .cap | .enc | .pwm | .fab | .qb | .q | .fabch | .fabset | .camtbl | .axis => 3
  | _ => 2

/-- The home page of a domain (R437); a cam bank has none. -/
def homePage (d : Nat) : Option Nat :=
  if d = 0 then some 0x010 else if d = 1 then some 0x070 else if d = 2 then some 0x000 else if d = 3 then some 0x0A0
  else if d = 4 then some 0x060 else if 8 ≤ d ∧ d < 24 then some (0x200 + (d - 8)) else if 24 ≤ d ∧ d < 40 then some (0x0E0 + 4 * (d - 24))
  else if 40 ≤ d ∧ d < 48 then some (0x0C0 + 4 * (d - 40)) else if d = 48 ∨ d = 49 then some (0x125 + (d - 48))
  else if 64 ≤ d then some (0x300 + (d - 64)) else none

/-- A SerDes domain has lock again (R438, R459). -/
def State.relocked (s : State) (d : Nat) : State := { s with unlocked := s.unlocked.filter fun k => decide (k ≠ d) }

/-- A domain's live state. DEDUCED (log entry 9): after reset, the domains that PWR_DOMd.REQ asks for (0 to 3) are on. -/
def State.dom (s : State) (d : Nat) : Dom := lookD s.doms d { st := if d < 4 then .on else .off }

/-- The state with a domain's live state set. -/
def State.setDom (s : State) (d : Nat) (x : Dom) : State := { s with doms := put s.doms d x }

/-- Whether a domain is on and not changing; while sleep is emulated the domain stays on (R442). -/
def Dom.isOn (x : Dom) : Bool := decide (x.st = .on ∧ (x.going = none ∨ x.emu.isSome))

/-- Whether a domain is on. A cog gate is on only while its cassette is (R437). -/
def State.domOn (s : State) (d : Nat) : Bool := (s.dom d).isOn && (decide (d < 64) || (s.dom (8 + (d - 64) / 17)).isOn)

/-- Whether the domain of a page is on. -/
def State.pageOn (s : State) (p : Nat) : Bool := s.domOn (pageDom p)

/-- Whether a block that works only while enabled is: its page's domain is on, PG_CTRL.EN is 1, and no soft reset of the page is in progress (R441, R530). -/
def State.blockOn (s : State) (p : Nat) : Bool := s.pageOn p && s.on p R.PG_CTRL_EN && !s.on p R.PG_CTRL_SRST

/-- The domains that a domain depends on (R439). -/
def domNeeds (d : Nat) : List Nat :=
  if 64 ≤ d then [3, 8 + (d - 64) / 17] else if d = 4 ∨ (8 ≤ d ∧ d < 64) then [3] else []

/-- The request of a domain, PWR_DOMd.REQ, which is PG_CTRL.PWR_REQ of its home page; a cog gate's is on its own page (R437, R468). -/
def State.powerReq (s : State) (d : Nat) : Nat := if d < 64 then s.rd 0x010 R.PWR_DOM_REQ d else s.rd (0x300 + (d - 64)) R.PG_CTRL_PWR_REQ
def State.setPowerReq (s : State) (d v : Nat) : State :=
  if d < 64 then s.wr 0x010 R.PWR_DOM_REQ v d else s.wr (0x300 + (d - 64)) R.PG_CTRL_PWR_REQ v

/-- The kinds of domain that R449 starts one after another: the first index and the number of each. SerDes domains are one kind. -/
def wakeKind (d : Nat) : Nat × Nat :=
  if 8 ≤ d ∧ d < 24 then (8, 16) else if 24 ≤ d ∧ d < 50 then (24, 26) else if 56 ≤ d ∧ d < 64 then (56, 8) else (d, 0)

/-- The place k of a domain that wakes: how many of its kind with a lower index are waking (R449). -/
def State.wakeRank (s : State) (d : Nat) : Nat :=
  ((List.range (d - (wakeKind d).1)).filter fun k => decide ((s.dom ((wakeKind d).1 + k)).going = some .on)).length

/-- A wake of one domain (R438, R448): its request becomes on, and unless it is on it starts its way to on; one that is changing to
retention or off latches the wake and follows it when the change is done. -/
def State.wakeOne (s : State) (d : Nat) : State :=
  let x := s.dom d
  match x.going with
  | some .on => s.setPowerReq d 3
  | some _ => s.setDom d { x with latched := true }
  | none =>
    let s := s.setPowerReq d 3
    if x.st = .on ∧ x.emu = none then s.setDom d { x with hold := false }
    else s.setDom d { x with going := some .on, hold := false, wokeAt := s.tb, rank := s.wakeRank d }

/-- Whether an index names a domain; 5 to 7 and 50 to 55 are unused (R437). -/
def isDomain (d : Nat) : Bool := decide (d ≤ 4 ∨ (8 ≤ d ∧ d < 50) ∨ 56 ≤ d)

/-- A wake of a domain wakes the domains it depends on first (R439, R449). -/
def State.startWake (s : State) (d : Nat) : State :=
  if !isDomain d then s else (domNeeds d ++ [d]).foldl (fun (t : State) k => if t.domOn k && (t.dom k).emu.isNone && decide (k ≠ d) then t else t.wakeOne k) s

/-- Whether a WAKE pin is active: its filtered level agrees with its polarity (R447). -/
def State.wakeActive (s : State) (n : Nat) : Bool := decide (s.rd 0x010 R.PWR_WAKE_LVL n = s.rd 0x010 R.PWR_WAKE_POL n)

/-- A level-sensitive WAKE pin that is active keeps the domains of its set from entering by any means (R447). -/
def State.heldAwake (s : State) (d : Nat) : Bool :=
  decide (d < 64) && (List.range 4).any fun n => s.wakeActive n && !s.on 0x010 R.PWR_WAKE_EDGE n && bit (s.rd 0x010 R.PWR_DOM_WSET d) n

/-- A domain starts to change to retention or off (R439, R443), unless a WAKE pin keeps it from it; while a debugger is attached the
change of a domain that is on is emulated (R442). -/
def State.beginEntry (s : State) (d : Nat) (t : DomSt) : State :=
  let x := { s.dom d with hold := false, latched := false, idleSince := none }
  if s.heldAwake d then s
  else if s.on 0x030 R.DBG_STAT_ATTACH ∧ x.st = .on then s.setDom d { x with emu := some t } else s.setDom d { x with going := some t }

/-- A cog of a cassette issues, or a release entry is armed: the interval of the idle rule starts anew (R444). -/
def State.breakIdle (s : State) (c : Nat) : State :=
  match (s.dom (8 + c)).idleSince with
  | some _ => s.setDom (8 + c) { s.dom (8 + c) with idleSince := none }
  | none => s

/-! ### MSI-X, events and the system error log (R366, R402 to R413, R514) -/

/-- The kinds of event source that R402 lists as level sources: a queue with a quad waiting. -/
def isLevelSource (n : Nat) : Bool := decide (272 ≤ n ∧ n < 528)

/-- The sources that R402 and R475 list as reserved. -/
def isReservedSource (n : Nat) : Bool := decide (n = 14 ∨ n = 15 ∨ (38 ≤ n ∧ n ≤ 47) ∨ 928 ≤ n)

/-- The page of the registers of event source `n`, and of group `g`. -/
def srcPage (n : Nat) : Nat := 0x15000 + n
def grpPage (g : Nat) : Nat := 0x16000 + g

/-- The live state of an event source and of a group. -/
def State.src (s : State) (n : Nat) : EvSource := lookD s.evSrc n {}
def State.setSrc (s : State) (n : Nat) (x : EvSource) : State := { s with evSrc := put s.evSrc n x }
def State.grp (s : State) (g : Nat) : EvGroup := lookD s.evGrp g {}
def State.setGrp (s : State) (g : Nat) (x : EvGroup) : State := { s with evGrp := put s.evGrp g x }

/-- Whether a source is routed to the host on vector `v`. -/
def State.hostRouted (s : State) (n v : Nat) : Bool :=
  s.on (srcPage n) R.EV_SRC_CFG_HOST && s.rd (srcPage n) R.EV_SRC_CFG_VEC = v

/-- Vector `v` is asserted while a host-routed source with that vector is pending (R411). -/
def State.vecAsserted (s : State) (v : Nat) : Bool :=
  s.evSrc.any fun (n, x) => decide (x.st = .pending) && s.hostRouted n v

/-- A register word of the MSI-X table: `k` from 0 (address low) to 3 (vector control), at 0x400 + 16v (R366). A vector's mask bit
is 1 until software clears it, as the PCI Express specification defines (PRESUMED, log entry 11). -/
def State.msixWord (s : State) (v k : Nat) : Nat :=
  (lookD s.regs (0x121400 + 16 * v + 4 * k) (if k = 3 then 1 else 0)).toNat

/-- The state with the pending bit of a vector set or cleared. -/
def State.setPba (s : State) (v : Nat) (b : Bool) : State :=
  let a := 0x121800 + 4 * (v / 32)
  { s with regs := put s.regs a (BitVec.ofNat 32 (setBits (lookD s.regs a 0).toNat (v % 32) 1 (b2n b))) }

/-- The pending bit of a vector: PCI Express has it cleared once the events behind it are satisfied (PRESUMED, log entry 101). -/
def State.pba (s : State) (v : Nat) : Bool := bit (lookD s.regs (0x121800 + 4 * (v / 32)) 0).toNat (v % 32) && s.vecAsserted v

/-- The message of a vector is held back: the vector's mask, the function mask (R366), and, as PCI Express defines, MSI-X or bus mastering off, or D3hot
(PRESUMED, log entry 101). -/
def State.msixMasked (s : State) (v : Nat) : Bool :=
  bit (s.msixWord v 3) 0 || s.pcie.msixMask || !s.pcie.msixEn || !s.pcie.busMaster || s.pcie.d3hot

/-- Sends vector `v`'s message, or sets its pending bit while it is masked (R366, R411). -/
def State.msixSend (s : State) (v : Nat) : State :=
  if s.msixMasked v then s.setPba v true
  else { s with out := .msix v (s.msixWord v 1 * 2 ^ 32 + s.msixWord v 0) (s.msixWord v 2) :: s.out }

/-- A vector whose mask may have been lifted sends the message that is pending (R366). -/
def State.msixUnmask (s : State) (v : Nat) : State :=
  if s.msixMasked v then s
  else if s.pba v then (s.setPba v false).msixSend v
  else s.setPba v false

/-- Sends the message of each vector that `s'` asserts and `s` did not (R411), among the vectors of the given sources. -/
def State.msixRise (s s' : State) (srcs : List Nat) : State :=
  let vecs := ((srcs.filter fun n => s'.on (srcPage n) R.EV_SRC_CFG_HOST).map fun n => s'.rd (srcPage n) R.EV_SRC_CFG_VEC).dedup
  vecs.foldl (fun t v => if s'.vecAsserted v && !s.vecAsserted v then t.msixSend v else t) s'

/-- A group fires: every held source becomes pending, the count returns to 0 and the timer stops (R405). -/
def State.fireGroup (s : State) (g : Nat) : State :=
  let srcs := (List.range 16).map (16 * g + ·)
  let s' := srcs.foldl (fun t n => if (t.src n).st = .held then t.setSrc n { t.src n with st := .pending } else t) s
  (s.msixRise s' srcs).setGrp g {}

/-- Counts a raise in its group, and fires the group when the count reaches COUNT, 0 acting as 1 (R405). -/
def State.countRaise (s : State) (g : Nat) : State :=
  let x := s.grp g
  let x' : EvGroup := ⟨x.held + 1, if x.held = 0 then s.tb else x.first⟩
  let s := s.setGrp g x'
  if max 1 (s.rd (grpPage g) R.EV_GRP_CFG_COUNT) ≤ x'.held then s.fireGroup g else s

/-- A raise reaches the controller (R404): a source that is not enabled takes none. -/
def State.arrive (s : State) (n : Nat) : State :=
  if isReservedSource n || !s.on (srcPage n) R.EV_SRC_CFG_EN then s
  else match (s.src n).st with
    | .idle => (s.setSrc n { s.src n with st := .held }).countRaise (n / 16)
    | .held | .pending => if isLevelSource n then s else s.countRaise (n / 16)
    | .claimed => if isLevelSource n then s else s.setSrc n { s.src n with rep := true }

/-- The domain from which a source's raises cross into the controller (R407, R463); a cog's is that of its cassette. -/
def sourceDom (n : Nat) : Nat :=
  if n = 0 then 1
  else if n < 10 then 3
  else if n < 12 then 48
  else if n < 64 then 2
  else if n < 112 then 24 + n % 16
  else if n < 144 then 40 + (n - 112) / 4
  else if n < 624 then 3
  else if n < 640 then 8 + (n - 624)
  else if n < 656 then 2
  else 8 + (n - 656) / 17

/-- The page of XING_STAT of a sending domain (R471). -/
def xingPage (d : Nat) : Nat := 0x18000 + d

/-- The raises of a source that are on their way to the controller. -/
def State.crossing (s : State) (n : Nat) : Nat := lookD s.xing n 0

/-- Whether a source's raises come from another clock domain than the controller's, the fabric clock (R407, R458): those of the hub, the queue bank, the
movers, the cam engine and the controller itself do not. -/
def sourceCrosses (n : Nat) : Bool := decide (n = 0 ∨ (7 ≤ n ∧ n ≤ 12) ∨ (16 ≤ n ∧ n < 144) ∨ 528 ≤ n)

/-- One more raise on its way; it is lost while the controller is in reset (R465). -/
def State.cross (s : State) (n : Nat) : State := if s.on 0x040 R.PG_CTRL_SRST then s else { s with xing := put s.xing n (s.crossing n + 1) }

/-- A raise is lost between clock domains (R463, R475): the page's condition, once per PEND bit; its own raise is lost where it finds 255 pending. -/
def State.reportCrossing (s : State) (p b n : Nat) : State :=
  if bit (s.rd p R.PG_EVT_EN_EN) b && !bit (s.rd p R.PG_EVT_PEND_PEND) b then
    let s := s.wr p R.PG_EVT_PEND_PEND (setBits (s.rd p R.PG_EVT_PEND_PEND) b 1 1)
    if s.crossing n < 255 then s.cross n else s
  else s

/-- A raise of a source leaves its block (R407, R463): it is on its way to the controller until EVENT_RAISE; beyond 255 from another clock domain it is
lost and counted, and sources 13 and 37 are raised (R475). -/
def State.raise (s : State) (n : Nat) : State :=
  if isReservedSource n then s
  else if sourceCrosses n && decide (255 ≤ s.crossing n) then
    let d := xingPage (sourceDom n)
    let s := ((s.bump d R.XING_STAT_LOST).wr d R.XING_STAT_OVF 1).bump 0x040 R.EV_ERR_OVF
    (s.reportCrossing 0x040 0 13).reportCrossing 0x020 21 37
  else s.cross n

/-- A level source's condition takes a value; becoming true raises it (R403, R404). -/
def State.levelSource (s : State) (n : Nat) (c : Bool) : State :=
  let old := (s.src n).cond
  let s := if old = c then s else s.setSrc n { s.src n with cond := c }
  if c && !old then s.raise n else s

/-- The event source that a page's PG_EVT bit drives (R402, R475). -/
def pageSource (p b : Nat) : Option Nat :=
  match pageKind p with
  | .tb => if b = 0 then some 0 else none
  | .fab => if b < 2 then some (1 + b) else none
  | .qb => if b = 0 then some 3 else none
  | .cam => if b < 2 then some (4 + b) else none
  | .camst => if b = 0 then some 6 else none
  | .cad => if b = 0 then some 7 else none
  | .cap => if b = 0 then some 8 else none
  | .fio => if b = 0 then some 9 else none
  | .tan => if b < 2 then some (10 + b) else none
  | .lnk => if b = 0 then some 12 else none
  | .ev => if b = 0 then some 13 else none
  | .hlt => if b < 22 then some (16 + b) else none
  | .dl => if b < 16 then some (48 + b) else none
  | .vis => if b < 3 then some (64 + 16 * b + (p - 0x0E0) / 4) else none
  | .chn => if b < 4 then some (112 + (p - 0x0C0) + b) else none
  | .mve => if b < 16 then some (208 + 16 * (p - 0x051) + b) else none
  | .cog => if b < 2 then some (656 + (p - 0x300)) else none
  | _ => none

/-- An event condition of a page rises: with its PG_EVT_EN bit 1 it sets its PG_EVT_PEND bit, and a PEND bit that changes from 0
to 1 raises the source (R403). DESIGN CHOICE (log entry 12): the condition is a pulse, so PG_EVT_RAW reads 0 between commands. -/
def State.pgEvt (s : State) (p b : Nat) : State :=
  if bit (s.rd p R.PG_EVT_EN_EN) b && !bit (s.rd p R.PG_EVT_PEND_PEND) b then
    let s := s.wr p R.PG_EVT_PEND_PEND (setBits (s.rd p R.PG_EVT_PEND_PEND) b 1 1)
    match pageSource p b with
    | some n => s.raise n
    | none => s
  else s

/-- Adds an entry to the system error log; an entry that finds 16 held is lost and sets OVR (R514). -/
def State.logErr (s : State) (addr kind : Nat) : State :=
  if s.elog.length < 16 then
    ({ s with elog := s.elog ++ [⟨addr, kind, s.now⟩] } : State).pgEvt 0x020 20
  else s.wr 0x000 R.SYS_ELOG_STAT_OVR 1

/-- A write TLP that arrives poisoned is dropped and logged (R364); AER reports it in bit 12 of its status, as PCI Express numbers it (R363; PRESUMED,
log entry 101). -/
def State.poisonedTlp (s : State) (addr : Nat) : State := ({ s with aer := s.aer ||| 0x1000 } : State).logErr addr 4

/-- A TLP that arrives malformed is discarded; AER reports it in bit 18 (R363; PRESUMED, log entry 101). -/
def State.malformedTlp (s : State) : State := { s with aer := s.aer ||| 0x40000 }

/-- Whether the function takes host accesses to its BARs (R363, R504): not in a PCI Express reset, with memory accesses enabled, and in D0. -/
def State.hostReaches (s : State) : Bool := !s.perst && s.pcie.memory && !s.pcie.d3hot

/-- A host access. In a PCI Express reset it is dropped (R504); one that the function does not take is an unsupported request, which AER reports in
bit 20 (R363; PRESUMED, log entry 101). -/
def State.host (s : State) (f : State → State) : State :=
  if s.hostReaches then f s else if s.perst then s else { s with aer := s.aer ||| 0x100000 }

/-- A host write to a register of page `p`: dropped and logged while the page's domain is not on (R440). -/
def State.hostAt (s : State) (p : Nat) (f : State → State) : State := s.host fun s => if s.pageOn p then f s else s.logErr p 1

/-! ### Stores as bytes and words (R6, R168) -/

/-- The byte at a BAR2 address; a byte that is not listed is 0. -/
def State.byte (s : State) (a : Nat) : Byte := lookD s.mem a 0

/-- The list of cells with a byte set, in canonical form: a zero byte is not listed. -/
def memPut (m : List Host.Cell) (a : Nat) (b : Byte) : List Host.Cell := if b = 0 then del m a else put m a b

/-- The state with a byte of a store set. -/
def State.setByte (s : State) (a : Nat) (b : Byte) : State := { s with mem := memPut s.mem a b }

/-- Keys strictly rising, from a bound. -/
def risingFrom {α : Type} : Nat → List (Nat × α) → Bool
  | _, [] => true
  | lo, (k, _) :: m => decide (lo ≤ k) && risingFrom (k + 1) m

/-- The canonical form of memory: addresses strictly rising and no byte listed that is 0. -/
def Memory.wf (m : List Host.Cell) : Bool := risingFrom 0 m && m.all fun c => decide (c.2 ≠ 0)

/-- The 14-bit word in the 16-bit container at a BAR2 address (R6, R7). -/
def State.word (s : State) (a : Nat) : Word := BitVec.ofNat 14 ((s.byte a).toNat + 256 * (s.byte (a + 1)).toNat)

/-- The state with the word of a container set; bits [15:14] stay 0 (R7). -/
def State.setWord (s : State) (a : Nat) (w : Word) : State :=
  (s.setByte a (BitVec.ofNat 8 w.toNat)).setByte (a + 1) (BitVec.ofNat 8 (w.toNat / 256))

/-- The bytes of a range. -/
def State.bytes (s : State) (a n : Nat) : List Byte := (List.range n).map fun i => s.byte (a + i)

/-- The state with a range of bytes set. -/
def State.setBytes (s : State) (a : Nat) : List Byte → State
  | [] => s
  | b :: bs => (s.setByte a b).setBytes (a + 1) bs

/-- A store loses its contents: the bytes of a range become 0 with valid check bits (R175). -/
def State.clearRange (s : State) (a n : Nat) : State :=
  { s with mem := s.mem.filter fun c => !decide (a ≤ c.1 ∧ c.1 < a + n),
           bad := s.bad.filter fun c => !decide (a ≤ c.1 ∧ c.1 < a + n),
           writeBacks := s.writeBacks.filter fun c => !decide (a ≤ c ∧ c < a + n) }

/-- Little-endian value of a list of bytes. -/
def leNat : List Byte → Nat
  | [] => 0
  | b :: bs => b.toNat + 256 * leNat bs

/-- The bytes of a value, `n` of them, least significant first. -/
def leBytes (n v : Nat) : List Byte := (List.range n).map fun i => BitVec.ofNat 8 (v / 256 ^ i)

/-- The windows of BAR2 (R168, R528). -/
def localBase (cog : Nat) : Nat := cog * 0x8000
def sharedBase (c : Nat) : Nat := 0x1000000 + c * 0x80000
def progBase (c : Nat) : Nat := 0x2000000 + c * 0x80000
def camBase (b : Nat) : Nat := 0x4000000 + b * 0x200000
def visBase (n : Nat) : Nat := 0x6000000 + n * 0x80000

/-- The pages of a physical cog and of a cassette. -/
def cogPage (cog : Nat) : Nat := 0x300 + cog
def casPage (c : Nat) : Nat := 0x200 + c

/-! ### Error correction (R173, R187 to R192) -/

/-- What a read of a store met. -/
inductive Ecc where
  | good | corrected | uncorrectable
  deriving DecidableEq, Repr

/-- A store with its detectors: the page, the injection bits of corrected and uncorrectable errors (R189), and the counters. -/
structure EccUnit where
  page : Nat
  injC : Nat
  injU : Nat
  ce   : Fld
  ue   : Fld

def localEcc (cog : Nat) : EccUnit := ⟨cogPage cog, 0, 1, R.COG_LM_ERR_CE, R.COG_LM_ERR_UE⟩
def sharedEcc (c : Nat) : EccUnit := ⟨casPage c, 2, 3, R.CAS_SD_ERR_CE, R.CAS_SD_ERR_UE⟩
def progEcc (c : Nat) : EccUnit := ⟨casPage c, 0, 1, R.CAS_PM_ERR_CE, R.CAS_PM_ERR_UE⟩
def camEcc : EccUnit := ⟨0x07F, 0, 1, R.CAM_ERR_CE, R.CAM_ERR_UE⟩

/-- A read of one word or granule, at BAR2 address `a`, through a store's detectors (R173, R189): an armed injection first, the
uncorrectable one before the corrected one, then the stored check bits. Counts what it met; the flag says whether it was injected. DESIGN CHOICE
(log entry 109): an injected corrected error at a word that is really uncorrectable is reported alone, for the spec does not say which is. -/
def State.eccRead (s : State) (u : EccUnit) (a : Nat) : Ecc × Bool × State :=
  if s.injArmed u.page u.injU then (.uncorrectable, true, (s.injTake u.page u.injU).bump u.page u.ue)
  else if s.injArmed u.page u.injC then (.corrected, true, (s.injTake u.page u.injC).bump u.page u.ce)
  else match look s.bad a with
    | some .uncorrectable => (.uncorrectable, false, s.bump u.page u.ue)
    | some _ => (.corrected, false, s.bump u.page u.ce)
    | none => (.good, false, s)

/-- The state with the check bits of a word or granule made valid. -/
def State.eccFix (s : State) (a : Nat) : State := { s with bad := del s.bad a }

/-- A read of a word of a local store (R173, R191). -/
def State.readLocal (s : State) (cog a : Nat) : Ecc × Word × State :=
  let ba := localBase cog + 2 * (a % 16384)
  let r := s.eccRead (localEcc cog) ba
  let inj := r.2.1
  let s' := r.2.2
  match r.1 with
  | .uncorrectable =>
    let p := cogPage cog
    let t := (s'.capture p R.COG_LM_CAP_VALID R.COG_LM_CAP_OVR).wr p R.COG_LM_CAP_ADDR (a % 16384)
    if inj then (.uncorrectable, s.word ba, t.wr p R.COG_LM_CAP_SYN 0)
    else (.uncorrectable, s.word ba,
      { t.wr p R.COG_LM_CAP_SYN ((Config.syndrome t.free).val + 1) with free := t.free + 1 })
  | .corrected =>
    (.corrected, s.word ba, if inj then s' else { s' with writeBacks := s'.writeBacks ++ [ba] })
  | .good => (.good, s.word ba, s')

/-- A read of a word of a cassette shared store (R173, R190). -/
def State.readShared (s : State) (c a : Nat) : Ecc × Word × State :=
  let ba := sharedBase c + 2 * (a % 262144)
  let r := s.eccRead (sharedEcc c) ba
  let s' := r.2.2
  match r.1 with
  | .uncorrectable =>
    let p := casPage c
    (.uncorrectable, s.word ba, ((s'.capture p R.CAS_ST_CAP_VALID R.CAS_ST_CAP_OVR).wr p R.CAS_ST_CAP_ADDR (a % 262144)).wr p R.CAS_ST_CAP_STORE 1)
  | .corrected =>
    (.corrected, s.word ba, if r.2.1 then s' else { s' with writeBacks := s'.writeBacks ++ [ba] })
  | .good => (.good, s.word ba, s')

/-- A read of the granule that holds a byte of a program MRAM (R176, R187, R190). -/
def State.readProg (s : State) (c a : Nat) : Ecc × State :=
  let g := a % 0x80000 / 16 * 16
  let r := s.eccRead (progEcc c) (progBase c + g)
  let p := casPage c
  if r.1 = .uncorrectable then
    (.uncorrectable, ((r.2.2.capture p R.CAS_ST_CAP_VALID R.CAS_ST_CAP_OVR).wr p R.CAS_ST_CAP_ADDR g).wr p R.CAS_ST_CAP_STORE 0)
  else (r.1, r.2.2)

/-- A read of the granule at a byte of the cam window (R192). An injected correction, and a real one of 2 bad bits, is captured
with UE = 0 (R189); an uncorrectable read raises source 6 (R402). -/
def State.readCam (s : State) (a : Nat) : Ecc × State :=
  let g := a % 0x1000000 / 16
  let cap := fun (t : State) (ue : Nat) =>
    ((t.capture 0x07F R.CAM_CAP_VALID R.CAM_CAP_OVR).wr 0x07F R.CAM_CAP_GRANULE g).wr 0x07F R.CAM_CAP_UE ue
  let r := s.eccRead camEcc (0x4000000 + 16 * g)
  let s' := r.2.2
  match r.1 with
  | .uncorrectable => (.uncorrectable, (cap s' 1).pgEvt 0x07F 0)
  | .corrected => (.corrected, if r.2.1 || look s.bad (0x4000000 + 16 * g) = some .two then cap s' 0 else s')
  | .good => (.good, s')

/-! ### Cogs -/

/-- A physical cog. -/
def State.cog (s : State) (i : Nat) : Cog := lookD s.cogs i {}

/-- The state with a physical cog set. -/
def State.setCog (s : State) (i : Nat) (c : Cog) : State := { s with cogs := put s.cogs i c }

/-- The cassette of a physical cog. -/
def casOf (cog : Nat) : Nat := cog / 17

/-- The physical cog that carries logical cog k of a cassette (R16, R32). -/
def State.physOf (s : State) (c k : Nat) : Nat := 17 * c + (if s.rd (casPage c) R.CAS_MAP_SPARE_FOR = k then 16 else k)

/-- The logical number that a physical cog carries, if any (R16, R32). -/
def State.logicalOf (s : State) (cog : Nat) : Option Nat :=
  let f := s.rd (casPage (casOf cog)) R.CAS_MAP_SPARE_FOR
  if cog % 17 = 16 then (if f < 16 then some f else none) else if f = cog % 17 then none else some (cog % 17)

end Sys2Proof.Machine
end

