-- ==== Sys2Proof/Machine/Operands.lean ====
section
/-! DEFINITION. The encoding of bundles (chapter 04): source and destination codes, prefixes, immediates, the static checks of
R133, and the widths and extensions with which a move reads its source and writes its destination (R43, R87, R88). -/

namespace Sys2Proof.Machine

/-- The bits of a move width (R43). -/
def Width.bits : Width → Nat
  | .word => 14 | .long => 28 | .triple => 42

/-- The words of a width. -/
def Width.words : Width → Nat
  | .word => 1 | .long => 2 | .triple => 3

/-- The alignment of an access of a width, in words (R54); also the size of a register group (R43). -/
def Width.align : Width → Nat
  | .word => 1 | .long => 2 | .triple => 4

/-- What a source code names (R131). -/
inductive Src where
  | g (n : Nat)
  | port (p : Port)
  | imm
  | short (i : Nat)
  deriving DecidableEq, Repr

/-- What a destination code names (R132). -/
inductive Dst where
  | g (n : Nat)
  | port (p : Port)
  | trig (t : Trigger)
  deriving DecidableEq, Repr

/-- The source ports of codes 0x20 to 0x4F, in order; `none` is reserved (R131). -/
def srcPorts : List (Option Port) :=
  [some .alu0o, some .alu0r, some .alu1o, some .alu1r, some .sho, some .shr, some .divo, some .divd,
   some .maco, some .macm, some .macd, some .digo, some .digd, some .pwo, some .pwr, some .evr,
   some .ag0b, some .ag0s, some .ag0r, some .ag1b, some .ag1s, some .ag1r, some .ldo, some .ldr,
   some .sto, some .stb, some .dbgo, some .tmo, some .tms, some .tmr, none, none,
   some .cho, some .chs, some .chr0, some .chr1, some .chr2, some .chr3, some .chrk, some .chrs,
   some .chrn, some .sp, some .flags, some .lpc, some .lpr, none, none]

/-- The meaning of a source code (R131). -/
def srcOf (c : Nat) : Option Src :=
  if c < 0x20 then some (.g c)
  else if c = 0x4F then some .imm
  else if c < 0x4F then ((srcPorts[c - 0x20]?).join).map .port
  else if 0x60 ≤ c ∧ c < 0x80 then some (.short (c - 0x60))
  else none

/-- The destinations of codes 0x20 to 0x7F, in order; `none` is reserved (R132). -/
def dstPorts : List (Option Dst) :=
  let p := fun x => some (Dst.port x)
  let t := fun x => some (Dst.trig x)
  [p .alu0o, t (.alu false .add), t (.alu false .adc), t (.alu false .sub), t (.alu false .and), t (.alu false .or),
   t (.alu false .xor), t (.alu false .lim)] ++
  [p .alu1o, t (.alu true .add), t (.alu true .adc), t (.alu true .sub), t (.alu true .and), t (.alu true .or),
   t (.alu true .xor), t (.alu true .lim)] ++
  [p .sho, t .shl, t .shr, t .sar, p .divo, p .divd, t .divS, t .divU] ++
  [p .maco, p .macm, p .macd, t .macMul, t .macMac, t .macMsu, t .macLd, t .macRd] ++
  [p .digo, p .digd, t .digAdd, t .digSub, t .digAdj, t .digCvt, p .pwo, t .pwWait] ++
  [p .ag0b, p .ag0s, t (.agSet false), t (.agIdx false), p .ag1b, p .ag1s, t (.agSet true), t (.agIdx true)] ++
  [p .ldo, t .ldW, t .ldL, t .ldT, t (.ldAg false), t (.ldAg true), t .ldSet, p .dbgo] ++
  [p .sto, p .stb, t .stW, t .stL, t .stT, t (.stAg false), t (.stAg true), t .dbgStim] ++
  [p .cho, p .chs, t .chSel, t .chSend, t .chSend4, t .chHzn, t .chRecv, t .chTry] ++
  [p .tmo, p .tms, t .tmNow, t .tmArm, t .tmKill, t .evClaim, t .evFin, none] ++
  [p .sp, p .flags, t .br, t .call, t .ret, t .fence, t .fsync, t .lock] ++
  [p .lpc, t .lpLoop, t .lpExit, t .lpSave, t .lpRest, none, none, none]

/-- The meaning of a destination code (R132). -/
def dstOf (c : Nat) : Option Dst :=
  if c < 0x20 then some (.g c) else if c < 0x80 then (dstPorts[c - 0x20]?).join else none

/-- The units of R41: the name of a trigger port before its first dot. -/
inductive TrigUnit where
  | alu0 | alu1 | sh | mac | div | dig | ag0 | ag1 | ld | st | ctl | lp | ch | tm | ev | pw | dbg
  deriving DecidableEq, Repr

/-- The unit of a trigger (R41, R132). -/
def Trigger.unit : Trigger → TrigUnit
  | .alu u _ => if u then .alu1 else .alu0
  | .shl | .shr | .sar => .sh
  | .macMul | .macMac | .macMsu | .macLd | .macRd => .mac
  | .divS | .divU => .div
  | .digAdd | .digSub | .digAdj | .digCvt => .dig
  | .agSet u | .agIdx u => if u then .ag1 else .ag0
  | .ldW | .ldL | .ldT | .ldAg _ | .ldSet => .ld
  | .stW | .stL | .stT | .stAg _ => .st
  | .br | .call | .ret | .fence | .fsync | .lock => .ctl
  | .lpLoop | .lpExit | .lpSave | .lpRest => .lp
  | .chSel | .chSend | .chSend4 | .chHzn | .chRecv | .chTry => .ch
  | .tmNow | .tmArm | .tmKill => .tm
  | .evClaim | .evFin => .ev
  | .pwWait => .pw
  | .dbgStim => .dbg

/-- A decoded move (R122, R127). `src` and `dst` are the codes, `ext` the EXT payload assigned to it. -/
structure Move where
  src   : Src
  dst   : Dst
  srcCode : Nat
  dstCode : Nat
  guarded : Bool
  ext   : Option Nat
  deriving DecidableEq, Repr

/-- A decoded bundle (R119 to R130). -/
structure Bundle where
  len   : Nat
  width : Width
  pred  : Option Nat
  limm  : Option (Nat × Nat)
  moves : List Move
  endMark : Bool
  deriving DecidableEq, Repr

/-- What the walk of the prefix area has found (R125, R126): how far the order has gone, the width, the PRED byte with its index,
the LIMM with its index, count and data, and the EXT payloads with their indices. -/
structure Prefixes where
  stage : Nat := 0
  width : Width := .word
  pred  : Option (Nat × Nat) := none
  limm  : Option (Nat × Nat × Nat) := none
  exts  : List (Nat × Nat) := []
  deriving DecidableEq, Repr

/-- Walks the prefix area, the bytes `bs` of which the first has index `i` (R125, R126, checks 3 and 4 of R133). An error is a
cause with the index of the offending byte. The first argument bounds the walk by the number of bytes. -/
def walkPrefixes : Nat → Nat → List Byte → Prefixes → Except (Nat × Nat) Prefixes
  | 0, _, _, x => .ok x
  | _, _, [], x => .ok x
  | fuel + 1, i, b :: bs, x =>
    let v := b.toNat
    if v < 0x40 then
      if 4 ≤ x.exts.length then .error (0x3, i)
      else walkPrefixes fuel (i + 1) bs { x with stage := 4, exts := x.exts ++ [(i, v)] }
    else if v < 0x60 then
      if 2 ≤ x.stage then .error (0x3, i) else walkPrefixes fuel (i + 1) bs { x with stage := 2, pred := some (i, v - 0x40) }
    else if v = 0x61 ∨ v = 0x62 then
      if 1 ≤ x.stage then .error (0x3, i)
      else walkPrefixes fuel (i + 1) bs { x with stage := 1, width := if v = 0x61 then .long else .triple }
    else if 0x71 ≤ v ∧ v ≤ 0x73 then
      let n := v - 0x70
      if 3 ≤ x.stage then .error (0x3, i)
      else if bs.length < n then .error (0x4, i)
      else walkPrefixes fuel (i + 1 + n) (bs.drop n) { x with stage := 3, limm := some (i, n, leNat (bs.take n)) }
    else .error (0x3, i)

/-- The two bytes of each move, with the index of the first. -/
def movePairs : Nat → List Byte → List (Nat × Nat × Nat)
  | i, a :: b :: bs => (i, a.toNat, b.toNat) :: movePairs (i + 2) bs
  | _, _ => []

/-- Whether a source code is an immediate (R127). -/
def isImmCode (c : Nat) : Bool := decide (c = 0x4F ∨ 0x60 ≤ c)

/-- The EXT bytes assigned to the moves in order (R127): pairs of a move and its EXT, and the EXT bytes left over. -/
def assignExts : List (Nat × Nat × Nat) → List (Nat × Nat) → List (Option Nat) × List (Nat × Nat)
  | [], es => ([], es)
  | (_, a, _) :: ms, es =>
    if 0x80 ≤ a then
      match es with
      | (_, e) :: es' => let r := assignExts ms es'; (some e :: r.1, r.2)
      | [] => let r := assignExts ms []; (none :: r.1, r.2)
    else let r := assignExts ms es; (none :: r.1, r.2)

/-- The index of the first X move, in slot order, that reads no immediate or finds no EXT byte left (check 9 of R133). -/
def badExt : List (Nat × Nat × Nat) → Nat → Option Nat
  | [], _ => none
  | (i, a, _) :: ms, left =>
    if 0x80 ≤ a then
      if !isImmCode (a % 128) || left = 0 then some i else badExt ms (left - 1)
    else badExt ms left

/-- The index of the second byte of the first move that repeats a key of an earlier one (checks 14 and 15 of R133). -/
def firstRepeat {α : Type} [DecidableEq α] (key : Nat → Option α) : List (Nat × Nat × Nat) → List α → Option Nat
  | [], _ => none
  | (i, _, b) :: ms, seen =>
    match key (b % 128) with
    | some k => if k ∈ seen then some (i + 1) else firstRepeat key ms (k :: seen)
    | none => firstRepeat key ms seen

/-- The unit that a destination code triggers, if any. -/
def trigUnitOf (c : Nat) : Option TrigUnit :=
  match dstOf c with
  | some (.trig t) => some t.unit
  | _ => none

/-- The index of the first byte, source before destination in slot order, whose g-register does not start a group (check 16). -/
def badGroup (align : Nat) : List (Nat × Nat × Nat) → Option Nat
  | [] => none
  | (i, a, b) :: ms =>
    if a % 128 < 0x20 ∧ a % 128 % align ≠ 0 then some i
    else if b % 128 < 0x20 ∧ b % 128 % align ≠ 0 then some (i + 1)
    else badGroup align ms

/-- The length that a header byte gives: 1 + P + 2M, or 1 for causes 0x1 and 0x2 (R119, R134). -/
def bundleLength (h : Nat) : Nat :=
  let m := h % 8
  let p := h / 8 % 16
  if 4 < m ∨ 10 < p ∨ (m = 0 ∧ p ≠ 0) then 1 else 1 + p + 2 * m

/-- The first of the checks 6 to 17 of R133 that fails: cause and index. -/
def moveChecks (ms : List (Nat × Nat × Nat)) (x : Prefixes) : Option (Nat × Nat) :=
  let find := fun (f : Nat × Nat × Nat → Bool) (cause off : Nat) => (ms.find? f).map fun m => (cause, m.1 + off)
  let left := (assignExts ms x.exts).2
  let orElse := fun (a b : Option (Nat × Nat)) => match a with | some v => some v | none => b
  orElse (find (fun m => (srcOf (m.2.1 % 128)).isNone) 0x6 0) <|
  orElse (find (fun m => (dstOf (m.2.2 % 128)).isNone) 0x7 1) <|
  orElse (find (fun m => decide (0x80 ≤ m.2.2) && x.pred.isNone) 0x8 1) <|
  orElse ((badExt ms x.exts.length).map fun i => (0x9, i)) <|
  orElse (find (fun m => decide (m.2.1 % 128 = 0x4F) && x.limm.isNone) 0xA 0) <|
  orElse (left.head?.map fun e => (0x9, e.1)) <|
  orElse (if ms.all fun m => decide (m.2.2 < 0x80) then x.pred.map fun q => (0x8, q.1) else none) <|
  orElse (if ms.all fun m => decide (m.2.1 % 128 ≠ 0x4F) then x.limm.map fun q => (0xA, q.1) else none) <|
  orElse ((firstRepeat some ms []).map fun i => (0xB, i)) <|
  orElse ((firstRepeat trigUnitOf ms []).map fun i => (0xC, i)) <|
  orElse ((badGroup x.width.align ms).map fun i => (0xD, i)) <|
  find (fun m => decide (x.width = .triple) && decide (trigUnitOf (m.2.2 % 128) = some .div)) 0xE 1

/-- Decodes and statically checks a bundle from its bytes, of which there are at least `bundleLength` (R119 to R133). An error is a
cause of R133 with the index of the offending byte. -/
def decodeBundle (bs : List Byte) : Except (Nat × Nat) Bundle :=
  let h := (bs.headD 0).toNat
  let m := h % 8
  let p := h / 8 % 16
  if 4 < m then .error (0x1, 0)
  else if 10 < p ∨ (m = 0 ∧ p ≠ 0) then .error (0x2, 0)
  else match walkPrefixes p 1 ((bs.drop 1).take p) {} with
    | .error e => .error e
    | .ok x =>
      match x.pred with
      | some (i, c) =>
        if 9 ≤ c % 16 then .error (0x5, i) else finish bs h m p x
      | none => finish bs h m p x
where
  /-- The moves, once the prefixes stand. -/
  finish (bs : List Byte) (h m p : Nat) (x : Prefixes) : Except (Nat × Nat) Bundle :=
    let ms := movePairs (1 + p) ((bs.drop (1 + p)).take (2 * m))
    match moveChecks ms x with
    | some e => .error e
    | none =>
      let es := (assignExts ms x.exts).1
      .ok { len := 1 + p + 2 * m, width := x.width, pred := x.pred.map (·.2), limm := x.limm.map (·.2),
            endMark := decide (128 ≤ h),
            moves := (ms.zip es).filterMap fun (mv, e) =>
              match srcOf (mv.2.1 % 128), dstOf (mv.2.2 % 128) with
              | some a, some d => some ⟨a, d, mv.2.1 % 128, mv.2.2 % 128, decide (128 ≤ mv.2.2), e⟩
              | _, _ => none }

/-- The condition of a PRED prefix on the flags (R128): bits [3:0] the condition, bit 4 the inversion. -/
def condHolds (c : Nat) (fl : Word) : Bool :=
  let f := fun i => bit fl.toNat i
  let r := match c % 16 with
    | 0 => f 0
    | 1 => f 1
    | 2 => f 2
    | 3 => f 3
    | 4 => f 4
    | 5 => f 5
    | 6 => f 1 != f 3
    | 7 => f 0 || (f 1 != f 3)
    | _ => f 2 || f 0
  if bit c 4 then !r else r

/-- The value of an immediate, as an integer (R130). -/
def immValue (mv : Move) (limm : Option (Nat × Nat)) : Int :=
  match mv.src, limm with
  | .short i, _ => match mv.ext with
    | none => i
    | some e => signed (e * 32 + i) 11
  | .imm, some (n, d) => match mv.ext with
    | none => signed d (8 * n)
    | some e => signed (e * 2 ^ (8 * n) + d) (8 * n + 6)
  | _, _ => 0

/-- The source code number under which a port's value is kept. -/
def Port.key (p : Port) : Nat := srcPorts.idxOf (some p)

/-- The value an operand or result port holds, as 42 bits. -/
def Cog.get (c : Cog) (p : Port) : Nat := (lookD c.port p.key 0).toNat

/-- The cog with a port's 42 bits set. -/
def Cog.set (c : Cog) (p : Port) (v : Nat) : Cog := { c with port := put c.port p.key (BitVec.ofNat 42 v) }

/-- The address generator `u`. -/
def Cog.ag (c : Cog) (u : Bool) : Ag := if u then c.ag1 else c.ag0
def Cog.setAg (c : Cog) (u : Bool) (x : Ag) : Cog := if u then { c with ag1 := x } else { c with ag0 := x }

/-- ag.r: the index in bits [13:0], the descriptor as it acts in bits [33:14] (R105). -/
def Ag.report (x : Ag) : Nat := x.idx + (x.len + x.ew * 2 ^ 14 + x.rev * 2 ^ 16) * 2 ^ 14

/-- A word of the general registers. -/
def Cog.gWord (c : Cog) (n : Nat) : Nat := (lookD c.g n 0).toNat

/-- The cog with a general register set. -/
def Cog.setG (c : Cog) (n : Nat) (v : Nat) : Cog := { c with g := put c.g n (BitVec.ofNat 14 v) }

/-- The words of a value, low word first. -/
def wordsOf (n v : Nat) : List Nat := (List.range n).map fun i => bits v (14 * i) 14

/-- The value of a group of general registers at a width (R43). -/
def Cog.gGroup (c : Cog) (n : Nat) (w : Width) : Nat :=
  ((List.range w.words).map fun i => c.gWord (n + i) * 2 ^ (14 * i)).sum

/-- The cog with a group of general registers set (R43). -/
def Cog.setGroup (c : Cog) (n : Nat) (w : Width) (v : Nat) : Cog :=
  upTo w.words (fun c i => c.setG (n + i) (bits v (14 * i) 14)) c

/-- What a source port reads as 42 bits (R87): the generators, the flags and the remaining loop count are computed. -/
def Cog.portValue (c : Cog) : Port → Nat
  | .ag0r => c.ag0.report
  | .ag1r => c.ag1.report
  | .flags => c.flags.toNat
  | .lpr => (c.loops.getLast?.map (·.count)).getD 0
  | p => c.get p

/-- The value a move reads, as bits at the move's width (R43, R87, R130). -/
def Cog.readSrc (c : Cog) (w : Width) (limm : Option (Nat × Nat)) (mv : Move) : Nat :=
  match mv.src with
  | .g n => c.gGroup n w
  | .port p => c.portValue p % 2 ^ w.bits
  | _ => wrap (immValue mv limm) w.bits

/-- A value of a width extended to 42 bits by its sign. -/
def sext (v : Nat) (w : Width) : Nat := wrap (signed v w.bits) 42

/-- The cog after a move of a value of a width into a port that is no trigger (R43, R88): ld.o, st.b and lp.c take a long,
zero-extended; ch.o, ag.b, mac.m and dbg.o a triple, zero-extended; ctl.sp and ctl.flags the low word; every other port a triple,
sign-extended. -/
def Cog.writePort (c : Cog) (p : Port) (w : Width) (v : Nat) : Cog :=
  match p with
  | .flags => { c with flags := BitVec.ofNat 14 v }
  | .sp => c.set .sp (v % 2 ^ 14)
  | .ldo | .stb | .lpc => c.set p (v % 2 ^ 28)
  | .cho | .ag0b | .ag1b | .macm | .dbgo => c.set p v
  | _ => c.set p (sext v w)

end Sys2Proof.Machine
end

