-- ==== Sys2Proof/Machine/Flags.lean ====
section
/-! DEFINITION. The arithmetic of the function units and the flags it sets (chapter 03): values are bits at the width of the
operation, and a flag update is a mask of the flags written with their values. -/

namespace Sys2Proof.Machine

/-- The flag bits of R141. -/
def flagZ : Nat := 0
def flagN : Nat := 1
def flagC : Nat := 2
def flagV : Nat := 3
def flagDZ : Nat := 4
def flagD : Nat := 5
def flagSAT : Nat := 6
def flagVT : Nat := 7
def flagDT : Nat := 8

/-- The event level of a flags word (R141): values above 16 act as 16. -/
def levelOf (fl : Word) : Nat := min (bits fl.toNat 9 5) 16

/-- A flags word with LVL set. -/
def setLevel (fl : Word) (l : Nat) : Word := BitVec.ofNat 14 (setBits fl.toNat 9 5 l)

/-- A set of flag writes: which flags, and their values. -/
structure FlagWrite where
  mask : Nat := 0
  val  : Nat := 0
  deriving DecidableEq, Repr

/-- A flag write with one more flag. -/
def FlagWrite.put (f : FlagWrite) (i : Nat) (b : Bool) : FlagWrite := ⟨setBits f.mask i 1 1, setBits f.val i 1 (b2n b)⟩

/-- A flags word after a flag write. -/
def applyFlags (fl : Word) (f : FlagWrite) : Word :=
  BitVec.ofNat 14 ((List.range 14).map fun i => b2n (if bit f.mask i then bit f.val i else bit fl.toNat i) * 2 ^ i).sum

/-- Z and N from a delivered result (R91, "r"). -/
def resultFlags (r n : Nat) : FlagWrite := (({} : FlagWrite).put flagZ (r % 2 ^ n = 0)).put flagN (bit r (n - 1))

/-- Whether an integer lies in the signed range of a width. -/
def inSigned (x : Int) (n : Nat) : Bool := decide (-(2 ^ (n - 1) : Nat) ≤ x ∧ x < (2 ^ (n - 1) : Nat))

/-- The nearest end of the signed range, or the integer itself. -/
def clampSigned (x : Int) (n : Nat) : Int := max (-(2 ^ (n - 1) : Nat)) (min x ((2 ^ (n - 1) : Nat) - 1))

/-- An exact result delivered at a width: its low bits, or in saturate mode the nearest end of the range (R92). -/
def deliver (x : Int) (n : Nat) (sat : Bool) : Nat := wrap (if sat then clampSigned x n else x) n

/-- The ALU operations at width n on bits o and v (R91, R92, R94): the result and the flags written. -/
def aluCompute (op : AluOp) (n o v : Nat) (c sat : Bool) : Nat × FlagWrite :=
  let so := signed o n
  let sv := signed v n
  let arith := fun (x : Int) (carry : Bool) =>
    let r := deliver x n sat
    (r, ((resultFlags r n).put flagC carry).put flagV (!inSigned x n))
  match op with
  | .add => arith (so + sv) (decide (2 ^ n ≤ o % 2 ^ n + v % 2 ^ n))
  | .adc => arith (so + sv + b2n c) (decide (2 ^ n ≤ o % 2 ^ n + v % 2 ^ n + b2n c))
  | .sub => arith (so - sv) (decide (o % 2 ^ n < v % 2 ^ n))
  | .and => let r := (o &&& v) % 2 ^ n; (r, resultFlags r n)
  | .or => let r := (o ||| v) % 2 ^ n; (r, resultFlags r n)
  | .xor => let r := (o ^^^ v) % 2 ^ n; (r, resultFlags r n)
  | .lim =>
    let a : Int := sv.natAbs
    let x := if sv = -(2 ^ (n - 1) : Nat) then so else max (-a) (min so a)
    let r := wrap x n
    (r, (resultFlags r n).put flagC (decide (x ≠ so)))

/-- The bits of a shift count by width: 4, 5 or 6 (R95). -/
def shiftCount (w : Width) (v : Nat) : Nat :=
  match w with
  | .word => v % 16 | .long => v % 32 | .triple => v % 64

/-- The three shifts (R95). -/
inductive ShiftOp where
  | shl | shr | sar
  deriving DecidableEq, Repr

/-- A shift at width n of bits o by a count (R91, R95): the result and the flags written. -/
def shiftCompute (op : ShiftOp) (n o k : Nat) : Nat × FlagWrite :=
  let u := o % 2 ^ n
  let so := signed o n
  match op with
  | .shl =>
    let r := if n ≤ k then 0 else u * 2 ^ k % 2 ^ n
    let c := if k = 0 ∨ n ≤ k then false else bit u (n - k)
    (r, ((resultFlags r n).put flagC c).put flagV (decide (signed r n ≠ so * (2 ^ k : Nat))))
  | .shr =>
    let r := if n ≤ k then 0 else u / 2 ^ k
    let c := if k = 0 ∨ n ≤ k then false else bit u (k - 1)
    (r, ((resultFlags r n).put flagC c).put flagV false)
  | .sar =>
    let r := wrap (so / (2 ^ (min k n) : Nat)) n
    let c := if k = 0 then false else if n ≤ k then bit u (n - 1) else bit u (k - 1)
    (r, ((resultFlags r n).put flagC c).put flagV false)

/-- The factors of a mac operation: low words, signed unless UNS (R97). -/
def macProduct (o v : Nat) (uns : Bool) : Int :=
  if uns then ((o % 2 ^ 14 : Nat) : Int) * ((v % 2 ^ 14 : Nat) : Int) else signed o 14 * signed v 14

/-- mac.t.rd: the scaled, rounded accumulator at width n (R98). -/
def macRead (acc s n : Nat) (rnd sat : Bool) : Nat × FlagWrite :=
  let a := signed acc 42
  let x : Int := if 0 < s ∧ rnd then (a + (2 ^ (s - 1) : Nat)) / (2 ^ s : Nat) else a / (2 ^ s : Nat)
  let r := deliver x n sat
  (r, (resultFlags r n).put flagV (!inSigned x n))

/-- div.t.s and div.t.u at width n (R91, R99, R101): quotient, remainder and the flags written. -/
def divCompute (sgn : Bool) (n o v : Nat) (sat : Bool) : Nat × Nat × FlagWrite :=
  let fin := fun (q r : Nat) (ov dz : Bool) => (q, r, ((resultFlags q n).put flagV ov).put flagDZ dz)
  if sgn then
    let so := signed o n
    let sv := signed v n
    if sv = 0 then fin (wrap (if 0 ≤ so then (2 ^ (n - 1) : Nat) - 1 else -(2 ^ (n - 1) : Nat)) n) (o % 2 ^ n) false true
    else fin (deliver (so.tdiv sv) n sat) (wrap (so.tmod sv) n) (!inSigned (so.tdiv sv) n) false
  else
    let uo := o % 2 ^ n
    let uv := v % 2 ^ n
    if uv = 0 then fin (2 ^ n - 1) uo false true else fin (uo / uv) (uo % uv) false false

/-- One digit of dig_sum (R103): the digits so far and the carry. -/
def digSumStep (a b : Nat) (rc : Nat × Nat) (i : Nat) : Nat × Nat :=
  let t := bits a (4 * i) 4 + bits b (4 * i) 4 + rc.2
  if 10 ≤ t then (rc.1 + (t - 10) % 16 * 2 ^ (4 * i), 1) else (rc.1 + t % 16 * 2 ^ (4 * i), 0)

/-- dig_sum of R103: the digit word and D. -/
def digSum (a b c sign : Nat) : Nat × Bool :=
  let (r, k) := upTo 3 (digSumStep a b) (0, c)
  (r + k * 2 ^ 12 + (b2n (bit sign 13)) * 2 ^ 13, k = 1)

/-- One digit of dig_diff (R103). -/
def digDiffStep (a b : Nat) (rc : Nat × Nat) (i : Nat) : Nat × Nat :=
  let t : Int := (bits a (4 * i) 4 : Int) - bits b (4 * i) 4 - rc.2
  if t < 0 then (rc.1 + wrap (t + 10) 4 * 2 ^ (4 * i), 1) else (rc.1 + wrap t 4 * 2 ^ (4 * i), 0)

/-- dig_diff of R103: the digit word and D. -/
def digDiff (a b c sign : Nat) : Nat × Bool :=
  let (r, k) := upTo 3 (digDiffStep a b) (0, c)
  (r + k * 2 ^ 12 + (b2n (bit sign 13)) * 2 ^ 13, k = 1)

/-- The flags of dig.t.add, sub and adj (R91). -/
def digFlags (r : Nat) (d : Bool) : FlagWrite :=
  ((({} : FlagWrite).put flagZ (r % 4096 = 0)).put flagN (bit r 13)).put flagD d

/-- dig.t.cvt of a value of width n (R104): the two digit words, low first, and the flags written. -/
def digConvert (v n : Nat) : Nat × Nat × FlagWrite :=
  let x := signed v n
  let m := min x.natAbs 999999
  let neg := decide (x < 0)
  let digits := fun k => k % 10 + k / 10 % 10 * 16 + k / 100 % 10 * 256 + b2n neg * 2 ^ 13
  (digits (m % 1000), digits (m / 1000),
    (((({} : FlagWrite).put flagZ (m = 0)).put flagN neg).put flagV (decide (999999 < x.natAbs))).put flagD false)

/-- bitrev of R106: the low k bits of i reversed. -/
def bitrev (i k : Nat) : Nat := ((List.range k).map fun j => b2n (bit i j) * 2 ^ (k - 1 - j)).sum

/-- Words of an element by EW (R105). -/
def Ag.elem (x : Ag) : Nat := if x.ew = 1 then 2 else if x.ew = 2 then 4 else 1

/-- The access width by EW (R105). -/
def Ag.width (x : Ag) : Width := if x.ew = 1 then .long else if x.ew = 2 then .triple else .word

/-- N of R106: LEN, 0 meaning 16,384, or 2^k in bit-reversed mode. -/
def Ag.modulus (x : Ag) : Nat := if x.rev = 0 then (if x.len = 0 then 16384 else x.len) else 2 ^ x.rev

/-- The address of a generator access with base b (R106). -/
def Ag.addr (x : Ag) (b : Nat) : Nat := (b + x.elem * (if x.rev = 0 then x.idx else bitrev x.idx x.rev)) % 2 ^ 28

/-- The generator after an access with step s, a word signed (R106). -/
def Ag.step (x : Ag) (s : Nat) : Ag := { x with idx := ((x.idx + signed s 14) % (x.modulus : Int)).toNat }

/-- The generator after ag.t.set of a value (R105); a word move sets only LEN. -/
def Ag.load (v : Nat) (w : Width) : Ag :=
  let v := v % 2 ^ 28
  if w = .word then { len := v % 2 ^ 14 }
  else { len := bits v 0 14, ew := if bits v 14 2 = 3 then 0 else bits v 14 2, rev := min (bits v 16 4) 13 }

end Sys2Proof.Machine
end

