-- ==== Sys2Proof/Machine/Mram.lean ====
section
/-! DEFINITION. The windows of BAR2 (R168) and the writing of the MRAMs (R176, R477). -/

namespace Sys2Proof.Machine

/-- A BAR2 window (R168, R528). -/
inductive Window where
  | loc (cog a : Nat)
  | shared (c a : Nat)
  | prog (c a : Nat)
  | cam (b a : Nat)
  | vis (n a : Nat)
  | unmapped
  deriving DecidableEq, Repr

/-- The window of a BAR2 address, with the instance and the byte offset in it (R168, R528). -/
def windowOf (a : Nat) : Window :=
  if a < 0x880000 then .loc (a / 0x8000) (a % 0x8000)
  else if 0x1000000 ≤ a ∧ a < 0x1800000 then .shared ((a - 0x1000000) / 0x80000) (a % 0x80000)
  else if 0x2000000 ≤ a ∧ a < 0x2800000 then .prog ((a - 0x2000000) / 0x80000) (a % 0x80000)
  else if 0x4000000 ≤ a ∧ a < 0x5000000 then .cam ((a - 0x4000000) / 0x200000) (a % 0x200000)
  else if 0x6000000 ≤ a ∧ a < 0x6800000 then .vis ((a - 0x6000000) / 0x80000) (a % 0x80000)
  else .unmapped

/-- The power domain of a window's store. -/
def Window.dom : Window → Option Nat
  | .loc cog _ => some (64 + cog)
  | .shared c _ | .prog c _ => some (8 + c)
  | .cam b _ => some (56 + b)
  | .vis n _ => some (24 + n)
  | .unmapped => none

/-- Whether the store of a window can be accessed (R170). -/
def State.windowOn (s : State) (w : Window) : Bool :=
  match w.dom with
  | some d => s.domOn d
  | none => false

/-! ### Writes to an MRAM -/

/-- Whether the MRAMs accept writes: VMRAM not below its window (R477). -/
def State.mramWritable (s : State) : Bool := !s.vmramLow

/-- Counts granule writes to a cam bank; CAM_WEAR shows them in units of 1,024 (R192). -/
def State.camWear (s : State) (b n : Nat) : State :=
  let k := lookD s.camWrites b 0 + n
  ({ s with camWrites := put s.camWrites b k } : State).wr 0x07F R.CAM_WEAR_WRITES (min (k / 1024) (2 ^ 32 - 1)) b

/-- A read of the MRAM granule at a BAR2 address, through its detectors. -/
def State.mramRead (s : State) (g : Nat) : Ecc × State :=
  match windowOf g with
  | .prog c a => s.readProg c a
  | .cam b a => s.readCam (b * 0x200000 + a)
  | _ => (.good, s)

/-- Writes bytes of one MRAM granule (R176). A part of a granule is read, merged and written; data that does not change writes no cell; what
is written has valid check bits, and is counted for a cam bank (R192). DESIGN CHOICE (log entry 82): part of a granule that reads
uncorrectable takes the bytes and stays uncorrectable, for the spec states no outcome. -/
def State.granuleWrite (s : State) (g : Nat) (xs : List (Nat × Byte)) : State :=
  let r := if 16 ≤ xs.length then (.good, s) else s.mramRead g
  let s := r.2
  if (xs.all fun x => s.byte x.1 = x.2) && (decide (xs.length < 16) || (look s.bad g).isNone) then s
  else
    let s := xs.foldl (fun (t : State) x => t.setByte x.1 x.2) s
    let s := if r.1 = .uncorrectable then s else s.eccFix g
    match windowOf g with
    | .cam b _ => s.camWear b 1
    | _ => s

/-- Writes bytes into an MRAM, at BAR2 addresses, granule by granule (R176, R185). -/
def State.mramWrite (s : State) (xs : List (Nat × Byte)) : State :=
  ((xs.map fun x => x.1 / 16 * 16).dedup).foldl (fun (t : State) g => t.granuleWrite g (xs.filter fun x => x.1 / 16 * 16 = g)) s

/-- Writes bytes into an MRAM, or lets them wait in their banks while VMRAM lies below its window (R477). -/
def State.mramStore (s : State) (xs : List (Nat × Byte)) : State :=
  if s.mramWritable then s.mramWrite xs else { s with mramWait := s.mramWait ++ xs }

end Sys2Proof.Machine
end

