-- ==== Sys2Proof/Machine/Pins.lean ====
section
/-! DEFINITION. What the pins drive (R276 to R278, R283, R284), and what the brake does to them. -/

namespace Sys2Proof.Machine

/-- The live state of a pin, a PWM channel and an encoder. -/
def State.pin (s : State) (n : Nat) : Pin := lookD s.pins n {}
def State.setPin (s : State) (n : Nat) (x : Pin) : State := { s with pins := put s.pins n x }
def State.pwm (s : State) (j : Nat) : Pwm := lookD s.pwms j {}
def State.setPwm (s : State) (j : Nat) (x : Pwm) : State := { s with pwms := put s.pwms j x }
def State.enc (s : State) (e : Nat) : Encoder := lookD s.encs e {}
def State.setEnc (s : State) (e : Nat) (x : Encoder) : State := { s with encs := put s.encs e x }

/-- FIO_INi show the levels of the pins anew, after a reset or a return from off. -/
def State.showInputs (s : State) : State :=
  upTo 3 (fun (t : State) i => t.wr 0x080 R.FIO_IN_IN ((List.range 32).map fun b => b2n (t.pin (32 * i + b)).inp * 2 ^ b).sum i) s

/-- The half-period of an SSI clock in ns (R290). -/
def State.ssiHalf (s : State) (e : Nat) : Nat := 10 * max 5 (s.rd 0x082 R.ENC_SSI_HALF e)

/-- The bits that an SSI frame clocks in: data, and a parity bit when PAR = 1 (R283, R290). -/
def State.ssiBits (s : State) (e : Nat) : Nat :=
  let b := s.rd 0x082 R.ENC_SSI_BITS e
  (if b = 0 ∨ 28 < b then 28 else b) + s.rd 0x082 R.ENC_SSI_PAR e

/-- The level of an SSI clock output: high while no frame runs; within one it falls first at S (R283). -/
def State.ssiClock (s : State) (e : Nat) : Bool :=
  match (s.enc e).frame with
  | none => true
  | some (t, _) => decide ((s.tb - t) / s.ssiHalf e % 2 = 1) || decide (2 * s.ssiBits e ≤ (s.tb - t) / s.ssiHalf e)

/-- Whether a pin is held safe (R278): by its SAFE_EN when the brake asserted (DEDUCED, log entry 118), until FIO_SAFE.CLR. -/
def State.pinSafe (s : State) (n : Nat) : Bool := s.on 0x080 R.FIO_SAFE_ACTIVE && (s.pin n).safe

/-- The PWM channel that drives a pin: of those that name it the lowest-numbered one that runs, or if none runs the lowest-numbered one. -/
def State.pwmOf (s : State) (n : Nat) : Option Nat :=
  let mine := (List.range 32).filter fun j => decide (s.rd 0x083 R.PWM_CFG_PIN j = n)
  (mine.find? fun j => s.on 0x083 R.PWM_CFG_EN j) <|> mine.head?

/-- The boundary cell of a pin while EXTEST is selected (R488). -/
def State.extestCell (s : State) (n : Nat) : Option Bool := if (lookD s.daus 0 {}).ir = 0 then look s.boundary n else none

/-- The level that a pin's function asks for, none for an input: a release output before its first action, and a PWM output that waits after the brake
for its next period, is at HLVL (R277, R278, R283, R284). -/
def State.pinLevel (s : State) (n : Nat) : Option Bool :=
  if s.pinSafe n then some (s.on 0x080 R.FIO_CFG_SAFE_LVL n)
  else
    let h := s.on 0x080 R.FIO_CFG_HLVL n
    match s.rd 0x080 R.FIO_CFG_FUNC n with
    | 1 => some (if (s.pin n).driven then (s.pin n).level else h)
    | 2 => (s.pwmOf n).map fun j => if (s.pwm j).wait then h else (s.pwm j).high != s.on 0x083 R.PWM_CFG_POL j
    | 3 => ((List.range 16).find? fun e => decide (s.rd 0x082 R.ENC_CFG_MODE e = 2 ∧ s.rd 0x082 R.ENC_CFG_PIN_A e = n)).map s.ssiClock
    | 4 => some h
    | _ => none

/-- What a pin drives: its boundary cell under EXTEST, or its safe level or the level of its function; nothing while its bank is held as inputs (R276 to
R278), and nothing for the high level of an open-drain pin (R288; log entry 97). -/
def State.pinDrive (s : State) (n : Nat) : Option Bool :=
  if (s.extestCell n).isSome then s.extestCell n
  else if bit (s.rd 0x080 R.FIO_BANK_MISMATCH) (n / 16) then none
  else (s.pinLevel n).filter fun b => !(b && s.on 0x080 R.FIO_CFG_OD n)

/-- FIO_CFG.OUT and the pin itself follow what the pin drives, from a time in units of 250 ps. -/
def State.showPin (s : State) (n time : Nat) : State :=
  let d := s.pinDrive n
  if (s.pin n).shown = d then s
  else
    let s := (s.setPin n { s.pin n with shown := d }).wr 0x080 R.FIO_CFG_OUT (b2n (d.getD false)) n
    { s with out := .pin n time d :: s.out }

/-- The same for every pin, at the present tick. -/
def State.showPins (s : State) : State := upTo 96 (fun (t : State) n => t.showPin n (4 * t.tb)) s

/-- The brake sets pins safe (R278): pending pulse ends on them are cancelled, and PWM channels on them stop. -/
def State.pinsSafe (s : State) : State :=
  let s := s.wr 0x080 R.FIO_SAFE_ACTIVE 1
  let s := upTo 96 (fun (t : State) n => if t.on 0x080 R.FIO_CFG_SAFE_EN n then t.setPin n { t.pin n with safe := true, pulse := none } else t) s
  let s := upTo 32 (fun (t : State) j => if t.pinSafe (t.rd 0x083 R.PWM_CFG_PIN j) && t.on 0x083 R.PWM_CFG_EN j then
      t.setPwm j { t.pwm j with held := true, high := false, fall := none, wait := false } else t) s
  s.showPins

/-- The pins are safe no longer: each safe pin drives HLVL, also that of a PWM channel, which goes on at its next period if it runs (R278). -/
def State.safeEnd (s : State) : State :=
  let s := upTo 32 (fun (t : State) j =>
    let x := t.pwm j
    if x.held || (t.pin (t.rd 0x083 R.PWM_CFG_PIN j)).safe then
      t.setPwm j { x with held := false, wait := true, start := if x.held then some t.tb else x.start } else t) s
  let s := upTo 96 (fun (t : State) n => if (t.pin n).safe then t.setPin n { t.pin n with safe := false, driven := false, pulse := none } else t) s
  (s.wr 0x080 R.FIO_SAFE_ACTIVE 0).showPins

/-- FIO_SAFE.CLR (R278): ignored while the brake is asserted. -/
def State.safeClear (s : State) : State :=
  if s.on 0x020 R.HLT_BRAKE_ACTIVE || !s.on 0x080 R.FIO_SAFE_ACTIVE then s else s.safeEnd

/-- The hold of the pins after a soft reset of page 0x080, which clears ACTIVE: DESIGN CHOICE (log entry 118), it ends as by CLR, but while the brake is asserted it stands. -/
def State.safeReset (s : State) : State := if s.on 0x020 R.HLT_BRAKE_ACTIVE then s.pinsSafe else s.safeEnd

/-- FIO_BANK.MISMATCH shows the banks that are held as inputs (R276, R286). -/
def State.showBanks (s : State) : State :=
  (s.wr 0x080 R.FIO_BANK_MISMATCH (setBits s.misBanks 0 1 (if s.misUntil.isSome then 1 else s.misBanks))).showPins

/-- A bank's rail monitor disagrees with V18, or agrees again (R276). -/
def State.setMismatch (s : State) (b : Nat) (m : Bool) : State :=
  let was := bit s.misBanks b
  let s := ({ s with misBanks := setBits s.misBanks b 1 (b2n m) } : State).showBanks
  if m && !was then s.pgEvt 0x080 0 else s

/-- PG_INJ bit 0 of page 0x080 reports a mismatch on bank 0 for 1 ms (R286). -/
def State.injectMismatch (s : State) : State :=
  (({ s with misUntil := some (s.tb + 1000000) } : State).showBanks).pgEvt 0x080 0

end Sys2Proof.Machine
end

