-- ==== Sys2Proof/Machine/Wire.lean ====
section
/-! DEFINITION. The wire format of the Chain protocol (R330 to R336, R347) as the port sends and reads it, the CRC that it shares with the cam
tables, and the cycles and registers of a chain port that other blocks refer to (R339). -/

namespace Sys2Proof.Machine

/-- CRC-32C of bytes (R179): reflected, polynomial 0x82F63B78, initial value and final XOR all ones. -/
def crc32c (bs : List Byte) : Nat :=
  let step := fun (c : BitVec 32) (b : Byte) =>
    (List.range 8).foldl (fun (x : BitVec 32) _ => if x &&& 1 = 1 then (x >>> 1) ^^^ 0x82F63B78 else x >>> 1) (c ^^^ b.zeroExtend 32)
  ((bs.foldl step 0xFFFFFFFF) ^^^ 0xFFFFFFFF).toNat

/-- The states of a chain port as CHN_STAT.STATE shows them (R348). -/
def chOff : Nat := 0
def chSilent : Nat := 1
def chInit : Nat := 2
def chSafe : Nat := 3
def chRun : Nat := 4

/-- The page of chain port p. -/
def chnPage (p : Nat) : Nat := 0x0C0 + 4 * p

/-- Half of this many nanoseconds is a chain cycle of a port. -/
def State.cycHalf (s : State) (p : Nat) : Nat := 15625 * 2 ^ s.rd (chnPage p) R.CHN_CYC_PER

/-- The origin of a port's cycles, the start of cycle n, and the last cycle that starts at or before a time. -/
def State.chnOrigin (s : State) (p : Nat) : Int := lookD s.chnOrg p 0
def State.cycleStart (s : State) (p : Nat) (n : Int) : Int := s.chnOrigin p + n * s.cycHalf p / 2
def State.cycleAt (s : State) (p : Nat) (t : Int) : Int := (2 * (t - s.chnOrigin p) + 1) / s.cycHalf p

/-- The start of the first cycle of a port at or after a time. -/
def State.startFrom (s : State) (p : Nat) (t : Int) : Int := s.cycleStart p (s.cycleAt p (t - 1) + 1)

/-- The cycle T of a port as eighths: ⌊3T/4⌋ is the feedback deadline's distance from C (R340). -/
def State.deadlineNs (s : State) (p : Nat) : Nat := 3 * s.cycHalf p / 8

/-- A chain port's live state. -/
def State.port (s : State) (p : Nat) : ChainPort := lookD s.ports p {}
def State.setPort (s : State) (p : Nat) (x : ChainPort) : State := { s with ports := put s.ports p x }

/-- The state of a port, its nodes, and the port that leads the redundant ring it closes, if it closes one (R350). -/
def State.chnState (s : State) (p : Nat) : Nat := s.rd (chnPage p) R.CHN_STAT_STATE
def State.chnNodes (s : State) (p : Nat) : Nat := s.rd (chnPage p) R.CHN_STAT_NODES
def State.chnRed (s : State) (p : Nat) : Bool := s.on (chnPage p) R.CHN_RED_EN
def State.chnPartner (s : State) (p : Nat) : Nat := s.rd (chnPage p) R.CHN_RED_PARTNER
def State.chnLead (s : State) (q : Nat) : Option Nat :=
  (List.range 8).find? fun p => p ≠ q && s.chnRed p && s.chnPartner p = q && !(q < p && s.chnRed q && s.chnPartner q = p)

/-! ### Frames (R331 to R336) -/

/-- Bytes of value 0. -/
def zeros (n : Nat) : List Byte := List.replicate n 0

/-- The fields of a header that a port fills (R332). -/
structure Header where
  type  : Nat
  flags : Nat
  nodes : Nat
  lim   : Nat
  cycle : Nat
  time  : Nat
  per   : Nat
  lreq  : Nat := 0xFF
  deriving DecidableEq, Repr

/-- The 32 bytes of a header (R332). -/
def Header.bytes (h : Header) : List Byte :=
  let a := leBytes 1 (2 + 16 * h.type) ++ leBytes 1 h.flags ++ leBytes 1 h.nodes ++ leBytes 1 h.lim ++ leBytes 4 h.cycle ++
    leBytes 8 h.time ++ leBytes 1 h.per ++ zeros 1
  let b := leBytes 1 h.lreq ++ zeros 7
  a ++ leBytes 1 0 ++ leBytes 1 0xFF ++ b ++ leBytes 4 (crc32c (a ++ b))

/-- A whole frame: header, body and tail (R333). -/
def Header.frame (h : Header) (body : List Byte) : List Byte :=
  let x := h.bytes ++ body ++ leBytes 1 0xFF ++ zeros 3
  x ++ leBytes 4 (crc32c x)

/-- Bytes of a received frame as a little-endian number. -/
def fieldAt (f : List Byte) (a n : Nat) : Nat := leNat ((f.drop a).take n)

/-- Whether HCRC and FCRC of a received frame are good (R332, R333). -/
def hcrcGood (f : List Byte) : Bool := decide (40 ≤ f.length ∧ fieldAt f 28 4 = crc32c (f.take 18 ++ (f.drop 20).take 8))
def fcrcGood (f : List Byte) : Bool := decide (40 ≤ f.length ∧ fieldAt f (f.length - 4) 4 = crc32c (f.take (f.length - 4)))

/-- TYPE, PROC, LOOP and CYCLE of a received frame, and BADN of its tail. -/
def frameType (f : List Byte) : Nat := fieldAt f 0 1 / 16
def frameProc (f : List Byte) : Nat := fieldAt f 18 1
def frameLoop (f : List Byte) : Nat := fieldAt f 19 1
def frameCycle (f : List Byte) : Nat := fieldAt f 4 4
def frameBadn (f : List Byte) : Nat := fieldAt f (f.length - 8) 1

/-- A stamp, as a value of the timebase, is in holdover (R233). -/
def State.heldAt (s : State) (t : Nat) : Bool :=
  (s.on 0x070 R.TB_STAT_HOLD && decide (s.timeref.since ≤ t)) || s.timeref.past.any fun x => decide (x.1 ≤ t ∧ t < x.2)

/-- The header of a frame that a port sends for the cycle n that starts at C (R332): FLAGS carries BRAKE, DIR, RUN, CMT, HOLD and RCV. -/
def State.header (s : State) (p ty : Nat) (n : Int) (lim : Nat) (dir cmt rcv : Bool) : Header :=
  { type := ty,
    flags := b2n (s.on 0x020 R.HLT_BRAKE_ACTIVE) + 2 * b2n dir + 4 * b2n (decide (s.chnState p = chRun)) + 8 * b2n cmt +
      16 * b2n (s.heldAt (s.cycleStart p n).toNat) + 64 * b2n rcv,
    nodes := s.chnNodes p, lim := lim, cycle := wrap n 32, time := wrap (s.cycleStart p n) 64, per := s.rd (chnPage p) R.CHN_CYC_PER }

/-! ### The physical coding of a lane (R330, R331, R347) -/

/-- A 64b/66b block as the device sends it: idle, the start block with 7 bytes, a data block with 8, the terminate block with one, and block i of the
wake pattern. -/
inductive Block where
  | idle
  | start (b : List Byte)
  | data (b : List Byte)
  | term (b : List Byte)
  | wake (i : Nat)
  deriving DecidableEq, Repr

/-- The sync header of a block (R330). -/
def Block.sync : Block → Nat
  | .data _ => 1
  | .idle | .start _ | .term _ | .wake _ => 2

/-- The 64 payload bits of a block before scrambling, its type in the low byte: the control codes are idle (0), and the O code of the wake pattern lies
above its three bytes. -/
def Block.payload : Block → Nat
  | .idle => 0x1E
  | .start b => 0x78 + leNat (b.take 7) * 2 ^ 8
  | .data b => leNat (b.take 8)
  | .term b => 0x99 + leNat (b.take 1) * 2 ^ 8
  | .wake i => 0x4B + 0xC5 * 2 ^ 8 + 0x1A * 2 ^ 16 + i % 256 * 2 ^ 24 + 0xF * 2 ^ 32

/-- The data blocks of bytes, n of them. -/
def dataBlocks : Nat → List Byte → List Block
  | 0, _ => []
  | n + 1, b => .data (b.take 8) :: dataBlocks n (b.drop 8)

/-- The blocks of a frame: start, data, terminate, and an idle block that separates it from the next (R331). -/
def frameBlocks (f : List Byte) : List Block :=
  let rest := f.drop 7
  .start (f.take 7) :: (dataBlocks (rest.length / 8) rest ++ [.term (rest.drop (rest.length / 8 * 8)), .idle])

/-- The wake pattern (R347). -/
def wakeBlocks : List Block := (List.range 256).map .wake

/-- One payload bit through the scrambler x^58 + x^39 + 1, whose register holds the last 58 bits sent, the newest in bit 0. -/
def scrambleBit (reg : Nat) (b : Bool) : Nat × Bool :=
  let o := b ^^ (bit reg 38 ^^ bit reg 57)
  ((2 * reg + b2n o) % 2 ^ 58, o)

/-- A payload through the scrambler, bit 0 first: the register after it, and the scrambled payload. -/
def scramble (reg payload : Nat) : Nat × Nat :=
  (List.range 64).foldl (fun (q : Nat × Nat) i => let r := scrambleBit q.1 (bit payload i); (r.1, q.2 + b2n r.2 * 2 ^ i)) (reg, 0)

/-- Blocks, each its sync header and payload, as the lane carries them from a state of the scrambler: sync headers are not scrambled. -/
def onLane : Nat → List (Nat × Nat) → List (Nat × Nat)
  | _, [] => []
  | reg, b :: bs => let r := scramble reg b.2; (b.1, r.2) :: onLane r.1 bs

/-- The sync header and the payload of a block. -/
def Block.coded (b : Block) : Nat × Nat := (b.sync, b.payload)

/-- A frame, or the wake pattern, leaves a port. DESIGN CHOICE (log entry 92): the scrambler's register before it is a free value. -/
def State.sendFrame (s : State) (p : Nat) (f : List Byte) : State :=
  let r := s.freeDraw 58
  { r.2 with out := .chainFrame p f (onLane r.1 ((frameBlocks f).map Block.coded)) :: s.out }
def State.sendWake (s : State) (p : Nat) : State :=
  let r := s.freeDraw 58
  { r.2 with out := .chainWake p (onLane r.1 (wakeBlocks.map Block.coded)) :: s.out }

/-- A receiver sees n sync headers that are all valid. Lock is gained after 64 in a row; the 64 blocks of its loss are counted from there (PRESUMED, log
entry 92). -/
def BlockLock.good (x : BlockLock) (n : Nat) : BlockLock :=
  if x.locked then
    if x.window + n < 64 then { x with window := x.window + n, held := x.held + n }
    else { x with window := (x.window + n) % 64, bad := 0, held := x.held + n }
  else if x.run + n < 64 then { x with run := x.run + n }
  else { locked := true, window := (x.run + n - 64) % 64, held := x.run + n - 64 }

/-- A receiver sees an invalid sync header: lock is lost with the 16th within 64 blocks. -/
def BlockLock.invalid (x : BlockLock) : BlockLock :=
  if !x.locked then { x with run := 0 }
  else if 16 ≤ x.bad + 1 then {}
  else if x.window + 1 < 64 then { x with window := x.window + 1, bad := x.bad + 1, held := x.held + 1 }
  else { x with window := 0, bad := 0, held := x.held + 1 }

/-- A receiver sees sync headers, in runs of valid and of invalid ones. -/
def BlockLock.see (x : BlockLock) : List (Bool × Nat) → BlockLock
  | [] => x
  | (true, n) :: hs => (x.good n).see hs
  | (false, n) :: hs => ((List.range n).foldl (fun (y : BlockLock) _ => y.invalid) x).see hs

/-- Whether lock has been held for a time in ns: a block lasts 6.4 ns (R331). -/
def BlockLock.heldFor (x : BlockLock) (ns : Nat) : Bool := x.locked && decide (10 * ns ≤ 64 * x.held)

/-- The brake frames of a ring in SAFE or RUN, from both ports in a redundant ring (R353). The present cycle is the last one started. -/
def State.brakeFrames (s : State) : State :=
  upTo 8 (fun (t : State) p =>
    if (t.chnLead p).isNone && t.domOn (40 + p) && decide (chSafe ≤ t.chnState p) then
      let n := (t.port p).cycle
      let lim := if t.on (chnPage p) R.CHN_STAT_SPLIT then t.rd (chnPage p) R.CHN_STAT_LIM else t.chnNodes p
      let t := t.sendFrame p ((t.header p 5 n lim false false false).frame [])
      if t.chnRed p then t.sendFrame (t.chnPartner p) ((t.header p 5 n lim true false false).frame []) else t
    else t) s

end Sys2Proof.Machine
end

