-- ==== Sys2Proof/Machine/Brake.lean ====
section
/-! DEFINITION. The trace unit, the brake latch, halts and pelotons (chapter 17): the parts that other blocks act through; with the merge of a
channel (R208) and the events presented to a cog (R409), which end a WAIT. -/

namespace Sys2Proof.Machine

/-! ### Trace (R497) -/

/-- The trace unit takes a packet, or drops and counts it when the buffer is full. When room returns, an overflow packet with
the number of packets lost comes first (R497). Injection bit 0 treats the buffer as full for one packet (R501). -/
def State.tracePut (s : State) (k : TracePacket) : State :=
  if !s.on 0x032 R.TRC_CTRL_EN then s
  else
    let inj := s.injArmed 0x032 0
    let s := if !inj && decide (s.traceLost ≠ 0 ∧ s.trace.length < 4096) then
        { s with trace := s.trace ++ [{ stamp := s.now, type := 7, value := s.traceLost }], traceLost := 0 }
      else s
    if inj || 4096 ≤ s.trace.length then
      let t := (if inj then s.injTake 0x032 0 else s).bump 0x032 R.TRC_STAT_DROP
      ({ t with traceLost := t.traceLost + 1 } : State).pgEvt 0x020 17
    else { s with trace := s.trace ++ [k] }

/-- The logical number 16c + k that a packet's SRC shows for a physical cog. -/
def State.traceSrc (s : State) (cog : Nat) : Nat := 16 * casOf cog + (s.logicalOf cog).getD 0

/-! ### Channels as health sees them -/

/-- The live state of a channel. -/
def State.chan (s : State) (n : Nat) : Chan := lookD s.chans n {}
def State.setChan (s : State) (n : Nat) (x : Chan) : State := { s with chans := put s.chans n x }

/-- The pages of a channel's descriptor and of a set member. -/
def chanPage (n : Nat) : Nat := 0x10000 + n
def setPage (set m : Nat) : Nat := 0x11000 + 16 * set + m

/-- The senders of the valid members of a set, by member number (R201). -/
def State.setSenders (s : State) (set : Nat) : List Nat :=
  ((List.range 16).filter fun m => s.on (setPage set m) R.FAB_SET_MBR_VALID).map fun m => s.rd (setPage set m) R.FAB_SET_MBR_SENDER

/-- Whether a channel is enabled, and ordered. -/
def State.chEn (s : State) (n : Nat) : Bool := s.on (chanPage n) R.FAB_CH_LO_EN
def State.chOrd (s : State) (n : Nat) : Bool := s.on (chanPage n) R.FAB_CH_LO_ORD

/-- The channels whose descriptor has been written: only these can be enabled. -/
def State.knownChans (s : State) : List Nat :=
  (s.regs.filter fun c => decide (chanPage 0 * 4096 ≤ c.1 ∧ c.1 < (chanPage 4096) * 4096 ∧ c.1 % 4096 = R.FAB_CH_LO_EN.off)).map
    fun c => c.1 / 4096 - chanPage 0

/-- A valid, unretired member of the sender set of an ordered channel (R204, R483). -/
def State.isMember (s : State) (ch sender : Nat) : Bool :=
  decide (sender ∈ s.setSenders (s.rd (chanPage ch) R.FAB_CH_LO_SET)) && !(lookD (s.chan ch).members sender {}).retired

/-- An ordered-domain cog (R483). -/
def State.orderedCog (s : State) (cog : Nat) : Bool :=
  s.on (cogPage cog) R.COG_DBG_ORD ||
  match s.logicalOf cog with
  | some k => s.knownChans.any fun ch => s.chEn ch && s.chOrd ch && s.isMember ch (16 * casOf cog + k)
  | none => false

/-! ### Stamps and the merge order (R208) -/

/-- Stamp `a` is later than `b`, modulo 2^42 within half the range (R208). -/
def stampLt (b a : Nat) : Bool := decide (0 < stampDiff a b)

/-- Whether message `x` precedes `m` by (stamp, sender). -/
def Msg.before (x m : Msg) : Bool := stampLt x.stamp m.stamp || (decide (stampDiff m.stamp x.stamp = 0) && decide (x.sender < m.sender))

/-- The held message with the least (stamp, sender), the oldest of equals. -/
def leastMsg : List Msg → Option Msg
  | [] => none
  | m :: ms => match leastMsg ms with
    | some x => if x.before m then some x else some m
    | none => some m

/-- The valid, unretired members of a channel's set, as senders in the order of the member numbers. -/
def State.activeMembers (s : State) (ch : Nat) : List Nat :=
  (s.setSenders (s.rd (chanPage ch) R.FAB_CH_LO_SET)).filter fun x => !(lookD (s.chan ch).members x {}).retired

/-- A member that blocks message `m` under R208: it has no held message, and its horizon is unknown or not above the stamp. -/
def State.blocks (s : State) (ch : Nat) (m : Msg) (b : Nat) : Bool :=
  decide (b ≠ m.sender) && !((s.chan ch).held.any fun x => decide (x.sender = b)) &&
  match (lookD (s.chan ch).members b {}).horizon with
  | none => true
  | some h => !stampLt m.stamp h

/-- The message that a receive takes next: of an ordered channel the least, if no member blocks it (R208); of a loose channel the
first to arrive (R214). -/
def State.deliverable (s : State) (ch : Nat) : Option Msg :=
  if !s.chEn ch then none
  else if s.chOrd ch then
    match leastMsg (s.chan ch).held with
    | some m => if (s.activeMembers ch).any (s.blocks ch m) then none else some m
    | none => none
  else (s.chan ch).held.head?

/-! ### What ends a WAIT (R162 to R165) -/

/-- The sender number of a physical cog: its logical number 16c + k (R16, R199). -/
def State.cogSender (s : State) (i : Nat) : Option Nat := (s.logicalOf i).map (16 * casOf i + ·)

/-- Whether a cog receives on a channel (R111). -/
def State.canReceive (s : State) (i ch : Nat) : Bool :=
  s.chEn ch && !s.on (chanPage ch) R.FAB_CH_LO_TAN && decide (some (s.rd (chanPage ch) R.FAB_CH_LO_RCV) = s.cogSender i)

/-- The highest class among the pending sources that the event controller presents to a cog (R409). -/
def State.presentedClass (s : State) (i : Nat) : Option Nat :=
  match s.logicalOf i with
  | none => none
  | some k =>
    if !s.domOn 2 then none
    else (s.evSrc.filter fun (n, x) =>
        decide (x.st = .pending) && bit (s.rd (srcPage n) R.EV_SRC_CFG_MASK) k && decide (s.rd (srcPage n) R.EV_SRC_CFG_CAS = casOf i)).foldl
      (fun best (n, _) => match best with
        | some b => some (max b (s.rd (srcPage n) R.EV_SRC_CFG_CLASS))
        | none => some (s.rd (srcPage n) R.EV_SRC_CFG_CLASS)) none

/-- The wake conditions that hold for a WAIT, as bits of pw.r (R162, R164). -/
def State.waitCauses (s : State) (i : Nat) (w : Waiting) : Nat :=
  b2n (w.wev && (s.presentedClass i).isSome) +
  2 * b2n (w.wch && s.canReceive i w.chan && (s.deliverable w.chan).isSome) +
  4 * b2n (w.wtm && decide (0 ≤ stampDiff s.now w.stamp))

/-- A cog's watchdog restarts from RELOAD (R478). -/
def State.wdtRestart (s : State) (i : Nat) : State :=
  let c := s.cog i
  (s.setCog i { c with warned := false, expired := false }).wr (cogPage i) R.COG_WDT_CNT_COUNT (s.rd (cogPage i) R.COG_WDT_RELOAD)

/-- A kick of a cog's watchdog from a source, if KSRC takes it (R478): 0 tm.t.arm, 1 a delivered message, 2 ev.t.fin. -/
def State.watchdogKick (s : State) (i src : Nat) : State :=
  if bit (s.rd (cogPage i) R.COG_WDT_KSRC) src then s.wdtRestart i else s

/-- A WAIT ends with these bits of pw.r, every enabled condition that is true (R165), and the state reached in bits [7:6] (R164). -/
def State.endWait (s : State) (i k : Nat) : State :=
  let c := s.cog i
  match c.wait with
  | none => s
  | some w => s.setCog i { c.set .pwr (k ||| w.cause ||| s.waitCauses i w ||| (if w.slept then 0x40 else 0)) with wait := none }

/-- A cause ends the WAIT of a cog (R163 to R165): at once where its gate is on; else AON latches it and the gate returns. MODE off is woken by
host software alone. -/
def State.wakeCog (s : State) (i k : Nat) : State :=
  match (s.cog i).wait with
  | none => s
  | some w =>
    if k = 0 ∨ w.mode = 2 then s
    else
      let s := s.breakIdle (casOf i)
      if s.domOn (64 + i) && (s.dom (64 + i)).emu.isNone then
        let s := s.endWait i k
        if s.on (cogPage i) R.COG_WDT_WAITRUN then s else s.wdtRestart i
      else (s.setCog i { s.cog i with wait := some { w with cause := w.cause ||| k } }).startWake (64 + i)

/-! ### The brake (R483 to R485) -/

/-- The brake causes, in the order of HLT_BRAKE.CAUSES (R499). -/
inductive BrakeCause where
  | reset | brakeIn | host | halt | watchdog | deadline | temp
  deriving DecidableEq, Repr

/-- The bit of a cause in HLT_BRAKE.CAUSES. -/
def BrakeCause.index : BrakeCause → Nat
  | .reset => 0 | .brakeIn => 1 | .host => 2 | .halt => 3 | .watchdog => 4 | .deadline => 5 | .temp => 6

/-- Whether any chain port is in RUN. -/
def State.anyRun (s : State) : Bool := (List.range 8).any fun p => s.rd (chnPage p) R.CHN_STAT_STATE = chRun

/-- A cog that counts as halted for the brake cause HALT: halted or locked up, or held after PG_CTRL.EN was written to 0 (R532). -/
def Cog.countsHalted (c : Cog) : Bool := decide (c.run = .halted) || (decide (c.run = .held) && c.parked)

/-- Whether the brake cause HALT is present (R483). -/
def State.haltPresent (s : State) : Bool :=
  !s.on 0x030 R.DBG_BENCH_EN && s.anyRun && s.cogs.any fun (i, c) => c.countsHalted && s.orderedCog i

/-- Whether the brake cause TEMP is present (R476). -/
def State.tempPresent (s : State) : Bool :=
  s.on 0x020 R.HLT_TCFG_CRIT_BRAKE && (List.range 5).any fun i => s.on 0x020 R.HLT_TEMP_CRIT i

/-- Whether BRAKE_IN_N is active after its filter, in truth or by injection (R483, R498). -/
def State.brakeInActive (s : State) : Bool := !s.on 0x020 R.HLT_BRKIN_LVL || s.brkUntil.isSome

/-- The causes present now, as HLT_BRAKE.PRESENT shows them (R483, R499). RESET, HOST, WATCHDOG and DEADLINE are applied, not
present. -/
def State.brakePresent (s : State) : Nat :=
  2 * b2n s.brakeInActive + 8 * b2n s.haltPresent + 64 * b2n s.tempPresent

/-- The live state of a peloton. -/
def State.pel (s : State) (g : Nat) : Peloton := lookD s.pels g {}

/-- A page other than a cog's freezes while its PG_CTRL.FRZ is 1 and a peloton with FREEZE is triggered and not yet resumed (R495). -/
def State.frozen (s : State) (p : Nat) : Bool :=
  s.on p R.PG_CTRL_FRZ && s.pels.any fun (g, x) => x.triggered && s.on 0x031 R.PEL_CFG_FREEZE g

/-- The members of a peloton: every cog whose COG_DBG.PEL bit is set (R494). -/
def State.pelMembers (s : State) (g : Nat) : List Nat := (List.range 272).filter fun i => bit (s.rd (cogPage i) R.COG_DBG_PEL) g

/-- The cog with a request for vector 9. -/
def Cog.monitor (c : Cog) : Cog := { c with mon9 := true }

/-- A halt request reaches a cog that is not halted (R490). With MONITOR it is a request for vector 9 instead. The first request
that is pending keeps its cause. It ends a WAIT with bit 5 of pw.r (R163, R164), and the halt follows as R118 defers it. -/
def State.requestHalt (s : State) (i : Nat) (r : HaltReq) : State :=
  let c := s.cog i
  if c.run = .halted then s
  else
    let s := if s.on (cogPage i) R.COG_DBG_MONITOR then s.setCog i c.monitor
      else if c.haltReq.isSome then s
      else s.setCog i { c with haltReq := some r }
    s.wakeCog i 0x20

/-- A peloton is triggered: every member that is not halted receives a halt request (R494). Each peloton fires at most once until
it is resumed. -/
def State.pelTrigger (s : State) (g : Nat) : State :=
  if (s.pel g).triggered then s
  else
    let s := { s with pels := put s.pels g ⟨true⟩ }
    let s := s.wr 0x031 R.PEL_T_STAMP s.now g
    let s := if s.on 0x032 R.TRC_CTRL_BRAKE then s.tracePut { stamp := s.now, type := 6, src := g } else s
    let s := s.pgEvt 0x020 16
    (s.pelMembers g).foldl (fun t i => t.requestHalt i ⟨4, 0⟩) s

/-- The brake reaches the ports in RUN and the coupled and shifting axes (R484 steps 6 and 7), which act on it later, at their next cycle start and
evaluation, whether or not it still asserts then. -/
def State.brakeMarks (s : State) : State :=
  { s with ports := s.ports.map (fun x => if s.rd (chnPage x.1) R.CHN_STAT_STATE = chRun then (x.1, { x.2 with braked := some s.tb }) else x),
           axes := s.axes.map (fun x => if 2 ≤ s.rd 0x1000 R.AX_STATE_STATE x.1 then (x.1, { x.2 with braked := true }) else x) }

/-- The brake latch takes a cause (R483, R484): the cause bit; at the assertion also the stamp, source 16, the trace packet, the safe
pins (R278), the pelotons with BRK, and the marks of ports and axes. -/
def State.brake (s : State) (k : BrakeCause) : State :=
  let causes := setBits (s.rd 0x020 R.HLT_BRAKE_CAUSES) k.index 1 1
  let was := s.on 0x020 R.HLT_BRAKE_ACTIVE
  let s := s.wr 0x020 R.HLT_BRAKE_CAUSES causes
  if was then s
  else
    let s := s.wr 0x020 R.HLT_BRAKE_ACTIVE 1
    let s := (s.wr 0x020 R.HLT_BRK_T_LO_STAMP s.now).wr 0x020 R.HLT_BRK_T_HI_STAMP (s.now / 2 ^ 32)
    let s := ({ s with out := .brakeOut true :: s.out } : State).pinsSafe
    let s := (s.pgEvt 0x020 0).brakeFrames.brakeMarks
    let s := if s.on 0x032 R.TRC_CTRL_BRAKE then s.tracePut { stamp := s.now, type := 4, value := causes } else s
    upTo 8 (fun t g => if t.on 0x031 R.PEL_CFG_BRK g then t.pelTrigger g else t) s

/-- The brake asserts while HALT is present (R483). -/
def State.brakeIfHalt (s : State) : State := if s.haltPresent then s.brake .halt else s

/-! ### Halts (R490, R161) -/

/-- Whether a cog stands at a bundle boundary: no bundle in progress. -/
def Cog.atBoundary (c : Cog) : Bool := c.cur.isNone && c.todo.isEmpty

/-- The locked sequence that the bundle in progress, or the next to issue, belongs to: the bundles after the one that began it (R156). -/
def Cog.sequence (c : Cog) : Option LockSeq :=
  match c.cur with
  | some k => if k.locking then none else c.lock
  | none => c.lock

/-- The place of a trap in the order of R145. DESIGN CHOICE (log entry 79): a fetch error stands with a load error, where the spec orders only
the load. -/
def Trap.rank (t : Trap) : Nat :=
  match t.vec with
  | 1 => 0
  | 2 => 1
  | 10 => if t.cause = 3 ∨ t.cause = 4 then 2 else 8
  | 7 => 3
  | 6 => 4
  | 3 => 5
  | 4 => 6
  | _ => 7

/-- A trap is raised beside one that may wait already: the first in the order of R145 stays, and the other raises nothing further. -/
def Cog.raiseTrap (c : Cog) (t : Trap) : Cog :=
  { c with trap := some (match c.trap with
    | some u => if u.rank ≤ t.rank then u else t
    | none => t) }

/-- The vector 3 trap of the first uncorrectable load in flight, to be raised at the present boundary (R144): its return address is the
next bundle to issue. DEDUCED (log entry 13): the trap's own address, shown in COG_TRAP_PC, is that bundle too. -/
def Cog.loadTrap (c : Cog) : Option Trap :=
  c.loads.findSome? fun l => match l.answer with
    | some (.uncorrectable k) => some { vec := 3, cause := k, info := l.addr, pc := c.pc, ret := c.pc }
    | _ => none

/-- Completes the loads in flight, all of them answered (R51): ld.r holds the result of the last of them, an uncorrectable one giving 0.
DESIGN CHOICE (log entry 80): R144 has ld.r hold 0 after an uncorrectable load, R51 the result of the last; the last wins. -/
def Cog.takeLoads (c : Cog) : Cog :=
  c.loads.foldl (fun (c : Cog) (l : Load) =>
    match l.answer with
    | some (.value v) => c.set .ldr v.toNat
    | some (.uncorrectable _) => c.set .ldr 0
    | none => c) { c with loads := [] }

/-- Completes the loads in flight at a bundle boundary, with the vector 3 trap of an uncorrectable one (R51, R144). -/
def Cog.finishLoads (c : Cog) : Cog :=
  match c.loadTrap with
  | some t => c.takeLoads.raiseTrap t
  | none => c.takeLoads

/-- Whether every load in flight has been answered. -/
def Cog.loadsDone (c : Cog) : Bool := c.loads.all fun l => l.answer.isSome

/-- Whether a halt request of a cog takes effect now: at a bundle boundary that no deferral of R118 or R161 holds, or
within a bundle that waits for a unit with work outstanding. Inside a locked sequence it takes effect only once the bundle has
stalled for more than 4 µs (R161). A trap that waits is entered first, and so is an event whose entry has begun. -/
def Cog.haltReady (c : Cog) (tb : Nat) : Bool :=
  decide (c.run = .issuing) && c.trap.isNone && c.wait.isNone && c.begun.isNone && c.loadsDone &&
  match c.sequence with
  | some _ => match c.stall with
    | some (_, since) => !c.todo.isEmpty && decide (since + 4000 < tb)
    | none => false
  | none => if c.atBoundary then decide (c.defer = 0) else c.stall.isSome

/-- A halt takes effect. The loads in flight complete (R51); at a bundle boundary a vector 3 trap among them takes its place (R144), and within
a bundle that trap waits for the bundle's end (DESIGN CHOICE, log entry 81). Inside a locked sequence the reservation is lost, and no later load takes
one (R159, R161). -/
def State.takeHalt (s : State) (i : Nat) (r : HaltReq) : State :=
  let c0 := s.cog i
  let c := if c0.atBoundary then c0.finishLoads else { c0.takeLoads with trap3 := c0.trap3 <|> c0.loadTrap }
  if c.trap.isSome then s.setCog i c else
  let c : Cog := { c with run := .halted, haltReq := none, haltInfo := r, stall := none, stepOne := false, stepEvent := false,
                          lock := if c.sequence.isSome then c.lock.map fun l => { l with taken := true, res := none } else c.lock }
  let s := s.setCog i c
  let s := if s.on 0x032 R.TRC_CTRL_HALTS then
      s.tracePut { stamp := s.now, type := 1, src := s.traceSrc i, port := r.cause, value := c.pc } else s
  let s := s.brakeIfHalt
  upTo 8 (fun t g => if t.on 0x031 R.PEL_CFG_TRIG_ANY g && bit (t.rd (cogPage i) R.COG_DBG_PEL) g then t.pelTrigger g else t) s

/-- Whether a cog that has been disabled stops now: at a bundle boundary, deferred as a halt is, or inside a locked sequence as R161 gives (R532). -/
def Cog.disableReady (c : Cog) (tb : Nat) : Bool := c.haltReady tb && (c.sequence.isSome || c.atBoundary)

/-- A disabled cog is held at its reset vector (R532). DESIGN CHOICE (log entry 105): what its halt had withdrawn of a bundle, and an open locked
sequence, are dropped; its line buffer and its target cache keep what they hold. -/
def State.takeDisable (s : State) (i : Nat) : State :=
  let c := s.cog i
  let c : Cog := { c with run := .held, parked := true, haltReq := none, stall := none, stepOne := false, stepEvent := false, todo := [], cur := none,
                          lock := none, trap3 := none, pc := s.rd (cogPage i) R.COG_VBASE_BASE * 1024 }
  (s.setCog i c).brakeIfHalt

/-- Takes every halt request that can take effect now; a halt may trigger pelotons and so further requests. The first argument
bounds the number of halts: each cog halts at most once. -/
def State.settleHalts : Nat → State → State
  | 0, s => s
  | n + 1, s =>
    match s.cogs.find? fun (i, c) => s.domOn (64 + i) && ((c.haltReq.isSome && c.haltReady s.tb) || (c.disabling && c.disableReady s.tb)) with
    | some (i, c) => (if c.disabling then s.takeDisable i else s.takeHalt i (c.haltReq.getD ⟨1, 0⟩)).settleHalts n
    | none => s

/-- Takes the halts that can take effect now, for all cogs. -/
def State.settle (s : State) : State := s.settleHalts 272

end Sys2Proof.Machine
end

