-- ==== Sys2Proof/Machine/CogMem.lean ====
section
/-! DEFINITION. Cog data memory (chapters 02 and 06): the data address map, loads and their answers, the store buffer, the
reservation of a locked sequence, and the fetch of bundles. -/

namespace Sys2Proof.Machine

/-- The spaces of the data address map (R52). -/
inductive Space where
  | loc | shared | prog | unmapped
  deriving DecidableEq, Repr

/-- The space of a 28-bit word address (R52). -/
def spaceOf (a : Nat) : Space :=
  if a < 0x4000 then .loc
  else if 0x100000 ≤ a ∧ a < 0x140000 then .shared
  else if 0x1000000 ≤ a ∧ a < 0x1080000 then .prog
  else .unmapped

/-- The access to an unmapped address is recorded (R53). -/
def State.unmapped (s : State) (i a : Nat) (store : Bool) : State :=
  let p := cogPage i
  (((s.wr p R.COG_STORE_UNMAPPED 1).pgErr p).wr p R.COG_UNMAP_ADDR a).wr p R.COG_UNMAP_STORE (b2n store)

/-- Reads one data address of a cog: the value, an error cause of R155 if it was uncorrectable, and the state (R53, R55, R173). -/
def State.readData (s : State) (i a : Nat) : Nat × Option Nat × State :=
  match spaceOf a with
  | .loc =>
    let r := s.readLocal i a
    if r.1 = .uncorrectable then (0, some 1, r.2.2) else (r.2.1.toNat, none, r.2.2)
  | .shared =>
    let r := s.readShared (casOf i) (a - 0x100000)
    if r.1 = .uncorrectable then (0, some 2, r.2.2) else (r.2.1.toNat, none, r.2.2)
  | .prog =>
    let r := s.readProg (casOf i) (a - 0x1000000)
    if r.1 = .uncorrectable then (0, some 3, r.2) else ((s.byte (progBase (casOf i) + (a - 0x1000000))).toNat, none, r.2)
  | .unmapped => (0, none, s.unmapped i a false)

/-- Reads the words of an access, low word first; the first error decides. -/
def State.readWords (s : State) (i a : Nat) : Nat → List Nat × Option Nat × State
  | 0 => ([], none, s)
  | n + 1 =>
    let r1 := s.readData i a
    let v := r1.1
    let e := r1.2.1
    let s1 := r1.2.2
    let r2 := s1.readWords i (a + 1) n
    let vs := r2.1
    let e' := r2.2.1
    let s2 := r2.2.2
    (v :: vs, e <|> e', s2)

/-- The value of words, low word first. -/
def joinWords : List Nat → Nat
  | [] => 0
  | v :: vs => v % 2 ^ 14 + 2 ^ 14 * joinWords vs

/-- Whether a store buffer entry holds any word, and every word, of an access. -/
def SbEntry.overlaps (e : SbEntry) (a n : Nat) : Bool := decide (a < e.addr + e.data.length ∧ e.addr < a + n)
def SbEntry.covers (e : SbEntry) (a n : Nat) : Bool := decide (e.addr ≤ a ∧ a + n ≤ e.addr + e.data.length)

/-- The words of an access that an entry holds; through the program window bits [7:0] only (R55). -/
def SbEntry.forward (e : SbEntry) (a n : Nat) : Nat :=
  joinWords ((List.range n).map fun k =>
    let v := ((e.data[a - e.addr + k]?).getD 0).toNat
    if spaceOf a = .prog then v % 256 else v)

/-- What the store buffer says of a load (R56): the position from the oldest of the youngest entry that overlaps it, with that
entry's value if it holds every word. -/
def Cog.checkBuffer (c : Cog) (a n : Nat) : Option (Nat × Option Nat) :=
  ((c.sbuf.zipIdx.filter fun (e, _) => e.overlaps a n).getLast?).map fun (e, k) =>
    (k, if e.covers a n then some (e.forward a n) else none)

/-- Whether a load in flight waits for buffered stores (R56): up to the youngest one that overlapped it at its trigger. -/
def Cog.loadWaits (_c : Cog) (l : Load) : Bool := decide (0 < l.behind)

/-- Whether a load triggered before a store still waits to read memory at one of `n` words from `a`, which that store is to write. -/
def Cog.readsFirst (c : Cog) (a n : Nat) : Bool :=
  c.loads.any fun l => l.answer.isNone && decide (l.behind = 0) && decide (a < l.addr + l.w.words ∧ l.addr < a + n)

/-- Loses the reservations of a cassette's cogs that a write by another agent covers (R159); `by` is the writing cog, if one. -/
def State.dropReservations (s : State) (c a n : Nat) (by_ : Option Nat) : State :=
  { s with cogs := s.cogs.map fun (j, x) =>
      if j / 17 = c ∧ some j ≠ by_ then
        match x.lock with
        | some l => match l.res with
          | some r => if a ≤ r ∧ r < a + n then (j, { x with lock := some { l with res := none } }) else (j, x)
          | none => (j, x)
        | none => (j, x)
      else (j, x) }

/-- Writes one data address of a cog: a whole word, with valid check bits (R173). -/
def State.writeData (s : State) (i a : Nat) (w : Word) : State :=
  match spaceOf a with
  | .loc => (s.setWord (localBase i + 2 * a) w).eccFix (localBase i + 2 * a)
  | .shared =>
    let b := sharedBase (casOf i) + 2 * (a - 0x100000)
    ((s.setWord b w).eccFix b).dropReservations (casOf i) a 1 (some i)
  | _ => s

/-- Writes the words of an access, low word first; through the program window one byte for each, as a partial granule write (R55, R176). -/
def State.writeWords (s : State) (i a : Nat) (ws : List Word) : State :=
  if spaceOf a = .prog then
    s.mramWrite (ws.zipIdx.map fun (w, k) => (progBase (casOf i) + (a - 0x1000000) + k, BitVec.ofNat 8 w.toNat))
  else ws.zipIdx.foldl (fun (t : State) (w, k) => t.writeData i (a + k) w) s

/-- Answers the oldest load in flight that has no answer, unless it waits for buffered stores (R49, R56): reads memory. An access
to an unmapped address is recorded once and returns 0 (R53). -/
def State.answerLoad (s : State) (i : Nat) : State :=
  let c := s.cog i
  match c.loads.findIdx? (·.answer.isNone) with
  | none => s
  | some k => match c.loads[k]? with
    | none => s
    | some l =>
      if c.loadWaits l then s
      else
        let r3 := if spaceOf l.addr = .unmapped then ([], none, s.unmapped i l.addr false) else s.readWords i l.addr l.w.words
        let vs := r3.1
        let e := r3.2.1
        let s' := r3.2.2
        let ans := match e with
          | some cause => LoadAnswer.uncorrectable cause
          | none => .value (BitVec.ofNat 42 (sext (joinWords vs) l.w))
        let c' := s'.cog i
        s'.setCog i { c' with loads := c'.loads.set k { l with answer := some ans } }

/-- Whether the oldest store buffer entry may be accepted by its store: the MRAM accepts writes, and no older load that reads
memory still waits to read a word of the entry. -/
def State.drainReady (s : State) (i : Nat) : Bool :=
  match (s.cog i).sbuf with
  | [] => false
  | e :: _ => (spaceOf e.addr != .prog || s.mramWritable) &&
      !(s.cog i).readsFirst e.addr e.data.length

/-- The oldest store buffer entry is accepted by its store and leaves the buffer (R57, R59). -/
def State.drainStore (s : State) (i : Nat) : State :=
  match (s.cog i).sbuf with
  | [] => s
  | e :: es =>
    if s.drainReady i then
      let c := s.cog i
      let s := s.setCog i { c with sbuf := es, loads := c.loads.map fun l => { l with behind := l.behind - 1 } }
      s.writeWords i e.addr e.data
    else s

/-- Answers every load in flight and lets every store leave, in order: the drain of R84. Four entries and three loads bound it. -/
def State.drainAll (s : State) (i : Nat) : State := upTo 8 (fun t _ => (t.answerLoad i).drainStore i) s

/-- A store enters the buffer; one to an unmapped address is dropped and recorded (R53, R56). -/
def State.pushStore (s : State) (i a : Nat) (ws : List Word) : State :=
  if spaceOf a = .unmapped then s.unmapped i a true
  else s.setCog i { s.cog i with sbuf := (s.cog i).sbuf ++ [⟨a, ws⟩] }

/-- A load is triggered (R48, R56, R157): answered from the buffer, or waiting; the first load of a locked sequence in shared data
takes the reservation. -/
def State.startLoad (s : State) (i a : Nat) (w : Width) : State :=
  let c := s.cog i
  let l : Load := { addr := a, w := w, delay := 3 }
  let lock := if c.sequence.isSome && decide (spaceOf a = .shared) then
      c.lock.map fun q => if q.taken then q else { q with taken := true, res := some a }
    else c.lock
  match c.checkBuffer a w.words with
  | some (_, some v) =>
    s.setCog i { c with loads := c.loads ++ [{ l with answer := some (.value (BitVec.ofNat 42 (sext v w))) }], lock := lock }
  | some (k, none) =>
    (s.setCog i { c with loads := c.loads ++ [{ l with behind := k + 1 }], lock := lock }).bump (cogPage i) R.COG_STORE_PARTIAL
  | none => s.setCog i { c with loads := c.loads ++ [l], lock := lock }

/-- A word of local memory as the cog's own loads see it, through the store buffer (R56, R81). -/
def State.peekLocal (s : State) (i a : Nat) : Word :=
  match (s.cog i).checkBuffer (a % 16384) 1 with
  | some (_, some v) => BitVec.ofNat 14 v
  | _ => s.word (localBase i + 2 * (a % 16384))

/-- Words read at once through the store buffer, with the errors of R173 counted for those that memory answers: the words of a
return or of a loop state (R79, R81). An error comes with its cause and the address of the failing word. -/
def State.readStack (s : State) (i a : Nat) : Nat → List Nat × Option (Nat × Nat) × State
  | 0 => ([], none, s)
  | n + 1 =>
    let r4 := match (s.cog i).checkBuffer (a % 16384) 1 with
      | some (_, some v) => (v, none, s)
      | _ => s.readData i (a % 16384)
    let r5 := r4.2.2.readStack i (a + 1) n
    (r4.1 :: r5.1, (r4.2.1.map fun k => (k, a % 16384)) <|> r5.2.1, r5.2.2)

/-! ### Fetch (R65 to R74) -/

/-- Whether fetched bytes hold a program address. -/
def Fetched.has (f : Fetched) (a : Nat) : Bool := decide ((a + 0x80000 - f.addr) % 0x80000 < f.bytes.length)

/-- The byte at a program address of fetched bytes, and whether its granule was read uncorrectable. -/
def Fetched.at (f : Fetched) (a : Nat) : Byte × Bool :=
  ((f.bytes[(a + 0x80000 - f.addr) % 0x80000]?).getD 0, decide (a / 16 * 16 ∈ f.bad))

/-- The bytes that a cog executes from, those of the target-cache entry in use first (R67 step 3). -/
def Cog.fetched (c : Cog) : List Fetched := c.inUse.toList ++ c.lines

/-- The byte of the cog's fetch state at a program address: from the target-cache entry in use or the line buffer (R73). -/
def Cog.fetchByte (c : Cog) (a : Nat) : Option (Byte × Bool) := (c.fetched.find? (·.has a)).map (·.at a)

/-- Up to `n` bytes from a program address, as far as the fetch state holds them; addresses wrap modulo 2^19 (R123). -/
def Cog.fetchBytes (c : Cog) (a : Nat) : Nat → List (Byte × Bool)
  | 0 => []
  | n + 1 => match c.fetchByte (a % 0x80000) with
    | some b => b :: c.fetchBytes (a + 1) n
    | none => []

/-- Reads `n` bytes of program MRAM from an address, through the detectors of each granule (R69, R176): the bytes and the
granules read uncorrectable. -/
def State.readProgram (s : State) (c a n : Nat) : Fetched × State :=
  let granules := ((List.range n).map fun k => (a + k) % 0x80000 / 16 * 16).dedup
  let r := granules.foldl (fun (q : List Nat × State) g =>
    let x := q.2.readProg c g
    (if x.1 = .uncorrectable then q.1 ++ [g] else q.1, x.2)) ([], s)
  (⟨a % 0x80000, (List.range n).map (fun k => s.byte (progBase c + (a + k) % 0x80000)), r.1⟩, r.2)

/-- A part of fetched bytes: `n` of them from a program address. -/
def Fetched.slice (f : Fetched) (a n : Nat) : Fetched :=
  let k := (a + 0x80000 - f.addr) % 0x80000
  ⟨a % 0x80000, (f.bytes.drop k).take n, f.bad.filter fun g => (List.range n).any fun j => decide ((a + j) % 0x80000 / 16 * 16 = g)⟩

/-- The parts of fetched bytes by aligned line. -/
def Fetched.pieces (f : Fetched) : List Fetched :=
  let n := 32 - f.addr % 32
  [f.slice f.addr n, f.slice (f.addr + n) (32 - n)].filter fun x => !x.bytes.isEmpty

/-- The aligned line of a program address, and how many bytes line `x` lies behind line `pc`: 0 for that line and the 3 that follow it. DESIGN CHOICE
(log entry 104): a held line more than 3 lines ahead, as after a transfer backward, counts as furthest behind, its distance taken modulo 2^19. -/
def lineOf (a : Nat) : Nat := a % 0x80000 / 32 * 32
def linesBehind (pc x : Nat) : Nat := if (x + 0x80000 - lineOf pc) % 0x80000 ≤ 96 then 0 else (lineOf pc + 0x80000 - x) % 0x80000

/-- The line buffer without the line furthest behind the line being issued, when it holds 4 (R65). -/
def makeRoom (ls : List Fetched) (pc : Nat) : List Fetched :=
  if ls.length < 4 then ls
  else
    let worst := (ls.map fun x => linesBehind pc x.addr).foldl max 0
    ls.eraseP fun x => linesBehind pc x.addr = worst

/-- The line buffer with a line added: when 4 lines are held, the one furthest behind the line being issued leaves (R65). -/
def addLine (ls : List Fetched) (pc : Nat) (f : Fetched) : List Fetched := makeRoom (ls.filter fun x => lineOf x.addr ≠ f.addr) pc ++ [f]

/-- Whether a line can enter the line buffer without the loss of one that is not behind. -/
def hasRoom (ls : List Fetched) (pc : Nat) : Bool := decide (ls.length < 4) || ls.any fun x => decide (0 < linesBehind pc x.addr)

/-- A line that was read ahead enters the line buffer once there is room (R78). -/
def Cog.place (c : Cog) : Cog :=
  match c.coming with
  | some f => if hasRoom c.lines c.pc then { c with lines := addLine c.lines c.pc f, coming := none } else c
  | none => c

/-- A taken control transfer to a target (R66, R67): from the line buffer, else from the target cache, whose entry becomes the most
recently used; else a miss, counted, which LINE_FETCH answers. DESIGN CHOICE (log entry 83): a transfer that the line buffer serves is no use of an
entry of the target cache for the same target. -/
def Cog.transferTo (c : Cog) (target : Nat) : Cog × Bool :=
  let c := { c with pc := target, endMark := none, fetchWait := false, coming := none }
  if c.lines.any (·.has target) then ({ c with inUse := none, miss := false }, false)
  else match c.tcache.find? fun f => f.addr = target with
    | some f => ({ c with inUse := some f, miss := false, tcache := f :: c.tcache.filter fun x => x.addr ≠ target }, false)
    | none => ({ c with inUse := none, miss := true }, true)

/-- The state after a taken control transfer of a cog (R67). -/
def State.transfer (s : State) (i target : Nat) : State :=
  let moved := (s.cog i).transferTo (target % 0x80000)
  let s := s.setCog i moved.1
  if moved.2 then s.bump (cogPage i) R.COG_FETCH_TC_MISS else s

/-- The length of the bundle at a program address, from the bytes that the cog holds, else from program MRAM (R75). -/
def State.lengthAt (s : State) (i a : Nat) : Nat :=
  let c := s.cog i
  match (c.fetched ++ c.tcache).find? (·.has (a % 0x80000)) with
  | some f => bundleLength (f.at (a % 0x80000)).1.toNat
  | none => bundleLength (s.byte (progBase (casOf i) + a % 0x80000)).toNat

/-- The bytes from a loop body's first line to its end (R78). -/
def State.bodySpan (s : State) (i : Nat) (l : Loop) : Nat := (l.last + s.lengthAt i l.last + 0x80000 - lineOf l.start) % 0x80000

/-- Whether a line is one of a loop body's. -/
def State.inBody (s : State) (i : Nat) (l : Loop) (a : Nat) : Bool := decide ((a + 0x80000 - lineOf l.start) % 0x80000 < s.bodySpan i l)

/-- The innermost loop whose body the line buffer keeps: of at most 4 aligned lines, not in its final iteration (R78). DEDUCED (log entry 84): while
the cog executes within the body, all of the next bundle lying there. -/
def State.keptLoop (s : State) (i : Nat) : Option Loop :=
  let c := s.cog i
  match c.loops.getLast? with
  | some l => if 1 < l.count ∧ s.bodySpan i l ≤ 128 ∧ s.inBody i l c.pc ∧ s.inBody i l (c.pc + s.lengthAt i c.pc - 1) then some l else none
  | none => none

/-- While a loop body is kept, the line buffer holds its lines and no other (R78): also what issues from the target-cache entry in use, so that a
later iteration need not fetch it. -/
def State.keepBody (s : State) (i : Nat) : State :=
  match s.keptLoop i with
  | some l =>
    let c := s.cog i
    let held := c.lines.filter fun f => s.inBody i l f.addr
    let used := (c.inUse.toList.flatMap Fetched.pieces).filter fun f => s.inBody i l f.addr && !held.any fun x => decide (lineOf x.addr = lineOf f.addr)
    s.setCog i { c with lines := held ++ used, coming := none }
  | none => s.setCog i (s.cog i).place

/-- The line that the bundle at an address needs and the cog does not hold, if any. -/
def Cog.lacks (c : Cog) (a : Nat) : Option Nat :=
  let bs := c.fetchBytes a 19
  let len := match bs with | (b, _) :: _ => bundleLength b.toNat | [] => 1
  if bs.length < len then some (lineOf (a + bs.length)) else none

/-- Reads a line of program MRAM into the line buffer. -/
def State.readLine (s : State) (i a : Nat) : State :=
  let r := s.readProgram (casOf i) a 32
  let c := r.2.cog i
  (r.2.setCog i { c with lines := addLine c.lines c.pc r.1 }).keepBody i

/-- The next bundle waits for bytes that the cog does not hold: one sequential fetch stall, counted once (R68). -/
def State.fetchStall (s : State) (i : Nat) : State :=
  if (s.cog i).fetchWait then s else (s.setCog i { s.cog i with fetchWait := true }).bump (cogPage i) R.COG_FETCH_LB_WAIT

/-- A demand line read completes (R67 step 4, R68): after a missed transfer, the target's line and the target-cache entry of 32 bytes from the
target, each granule read once, the entry replacing the one unused longest when 32 are held; otherwise the next line that the bundle's bytes
need. -/
def State.fetchLine (s : State) (i : Nat) : State :=
  let c := s.cog i
  if c.miss then
    let a := lineOf c.pc
    let r := s.readProgram (casOf i) a (32 + c.pc % 32)
    let f := r.1.slice c.pc 32
    let c := r.2.cog i
    (r.2.setCog i { c with miss := false, inUse := some f, tcache := (f :: c.tcache).take 32, lines := addLine c.lines c.pc (r.1.slice a 32) }).keepBody i
  else match c.lacks c.pc with
    | some a => if c.atBoundary then (s.fetchStall i).readLine i a else s
    | none => s

/-- Whether no decoded bundle with E = 1 keeps a line from being read ahead: one beyond the line of that bundle's last byte, the nearer way round
the program addresses (R121). -/
def Cog.beforeMark (c : Cog) (a : Nat) : Bool :=
  match c.endMark with
  | some e => decide ((lineOf e + 0x80000 - a) % 0x80000 < 0x40000)
  | none => true

/-- The bundle after one that stores into program MRAM is fetched before that store leaves the buffer, and so executes in its old form (R73). -/
def State.fetchAhead (s : State) (i a : Nat) : State :=
  upTo 2 (fun (t : State) _ => match (t.cog i).lacks (a % 0x80000) with
    | some l => if (t.cog i).beforeMark l then t.readLine i l else t
    | none => t) s

/-- The line that may be prefetched now: the first that the buffer lacks of the 3 that follow the line being issued (R65); as a loop's final
iteration runs also the line after its body (R78). A decoded bundle with E = 1 stops it beyond the line of that bundle's last byte (R121). -/
def State.prefetchLine (s : State) (i : Nat) : Option Nat :=
  let c := s.cog i
  let after := match c.loops.getLast? with
    | some l => if l.count ≤ 1 ∧ s.bodySpan i l ≤ 128 ∧ s.inBody i l c.pc then [lineOf (lineOf l.start + s.bodySpan i l + 31)] else []
    | none => []
  (((List.range 3).map fun k => lineOf (c.pc + 32 * (k + 1))) ++ after).find? fun a =>
    !(c.lines.any fun f => decide (f.addr = a)) && c.beforeMark a

/-- PREFETCH: the line is read, and enters the buffer at once or as soon as a line has fallen behind. -/
def State.prefetch (s : State) (i : Nat) : State :=
  let c := s.cog i
  if c.miss || c.coming.isSome || (s.keptLoop i).isSome then s
  else match s.prefetchLine i with
    | none => s
    | some a =>
      let r := s.readProgram (casOf i) a 32
      r.2.setCog i { r.2.cog i with coming := some r.1 }.place

end Sys2Proof.Machine
end

