-- ==== Sys2Proof/Machine/CogIssue.lean ====
section
/-! DEFINITION. The issue and completion of bundles (R37 to R46), hardware loops (R75 to R78), traps before a bundle has effect
(R143 to R145), and the entry into a vector (R146 to R155). -/

namespace Sys2Proof.Machine

/-- A cog stalls for a cause of COG_EXEC.STALL; the time of the start is kept while the cause is the same (R85). -/
def State.stallCog (s : State) (i cause : Nat) : State :=
  let c := s.cog i
  match c.stall with
  | some (k, _) => if k = cause then s else s.setCog i { c with stall := some (cause, s.tb) }
  | none => s.setCog i { c with stall := some (cause, s.tb) }

/-- Whether the logic of a physical cog runs: its gate is on and no rail monitor stops its quadrant (R456). -/
def State.cogRuns (s : State) (i : Nat) : Bool := s.domOn (64 + i) && !lookD s.uvHold (casOf i / 4) false &&
  (lookD s.govs (casOf i / 4) {}).injUntil.isNone

/-! ### Triggers that a bundle presents -/

/-- The registers that a long-latency trigger writes, by unit and width (R98, R99, R103, R104). DESIGN CHOICE (log entry 85): a destination
number above 31 in mac.d, div.d or dig.d, which R44 does not give, is taken modulo 32. -/
def Cog.longDests (c : Cog) (t : Trigger) (w : Width) : List Nat :=
  let group := fun (d n k : Nat) => (List.range k).map (d % 32 / n * n + ·)
  match t with
  | .macRd => group (c.get .macd) w.align w.words
  | .divS | .divU => if w = .word then group (c.get .divd) 2 2 else group (c.get .divd) 4 4
  | .digAdd | .digSub | .digAdj => group (c.get .digd) 1 1
  | .digCvt => group (c.get .digd) 2 2
  | _ => []

/-- Whether any register of a list has its scoreboard bit set. -/
def Cog.scored (c : Cog) (rs : List Nat) : Bool := rs.any fun r => bit c.sb.toNat r

/-- The general registers that a move reads and writes (R43). -/
def Move.regs (m : Move) (w : Width) : List Nat :=
  (match m.src with | .g n => (List.range w.words).map (n + ·) | _ => []) ++
  (match m.dst with | .g n => (List.range w.words).map (n + ·) | _ => [])

/-- Whether a flag write of a long-latency unit is pending (R46). -/
def Cog.flagsPending (c : Cog) : Bool := c.long.any fun o => decide (o.fmask ≠ 0)

/-- Whether a trigger takes a flag as input (R90). -/
def Trigger.readsFlag : Trigger → Bool
  | .alu _ .adc | .digAdd | .digSub => true
  | _ => false

/-- The long-latency unit of a trigger that must have accepted its previous operation: div and dig (R45, R89). -/
def Trigger.busyUnit : Trigger → Option LongUnit
  | .divS | .divU => some .div
  | .digAdd | .digSub | .digAdj | .digCvt => some .dig
  | _ => none

/-- Whether an entry is deferred after a bundle with this trigger (R118). -/
def Trigger.defers : Trigger → Bool
  | .chRecv | .chTry | .tmNow | .tmArm | .tmKill | .evClaim | .pwWait => true
  | _ => false

/-- The unit of a port that leads to clocked hardware (R63): ch, tm, ev, pw or dbg. -/
def Port.clocked : Port → Option TrigUnit
  | .cho | .chs | .chr0 | .chr1 | .chr2 | .chr3 | .chrk | .chrs | .chrn => some .ch
  | .tmo | .tms | .tmr => some .tm
  | .evr => some .ev
  | .pwo | .pwr => some .pw
  | .dbgo => some .dbg
  | _ => none

/-- Whether the domain of a clocked unit is off, in retention or changing (R64): ch reaches the hub, tm the release bank, ev the
event controller, pw the always-on domain, dbg the trace unit. -/
def State.unitOffline (s : State) (i : Nat) : TrigUnit → Bool
  | .ch => !s.domOn 3
  | .tm => !s.domOn (8 + casOf i)
  | .ev | .dbg => !s.domOn 2
  | _ => false

/-- The first port of an offline unit among the enabled moves: cause, code and slot (R64, R155). -/
def State.offlinePort (s : State) (i : Nat) : Nat → List Move → Option (Nat × Nat × Nat)
  | _, [] => none
  | k, m :: ms =>
    let off := fun (u : Option TrigUnit) => match u with | some u => s.unitOffline i u | none => false
    if off (match m.src with | .port p => p.clocked | _ => none) then some (2, m.srcCode, k)
    else if off (match m.dst with | .port p => p.clocked | .trig t => some t.unit | _ => none) then some (1, m.dstCode, k)
    else s.offlinePort i (k + 1) ms

/-- The address of a load or store with an offset: base plus the sign-extended low word of the moved value, modulo 2^28 (R47, R52). -/
def offsetAddr (base v : Nat) : Nat := wrap ((base : Int) + signed v 14) 28

/-- What a trigger accesses: load or store, address and width; the generators step in slot order (R54, R106, R107). -/
def Cog.access (c : Cog) (p : Presented) : Option (Bool × Nat × Width) × Cog :=
  let v := p.val.toNat
  let viaAg := fun (store u : Bool) =>
    let x := c.ag u
    let b := c.get (if u then .ag1b else .ag0b) % 2 ^ 28
    (some (store, x.addr b, x.width), c.setAg u (x.step (c.get (if u then .ag1s else .ag0s))))
  match p.op with
  | .ldW => (some (false, offsetAddr (c.get .ldo) v, .word), c)
  | .ldL => (some (false, offsetAddr (c.get .ldo) v, .long), c)
  | .ldT => (some (false, offsetAddr (c.get .ldo) v, .triple), c)
  | .stW => (some (true, offsetAddr (c.get .stb) v, .word), c)
  | .stL => (some (true, offsetAddr (c.get .stb) v, .long), c)
  | .stT => (some (true, offsetAddr (c.get .stb) v, .triple), c)
  | .ldAg u => viaAg false u
  | .stAg u => viaAg true u
  | .agSet u => (none, c.setAg u (Ag.load v p.w))
  | .agIdx u => (none, c.setAg u { c.ag u with idx := v % 2 ^ 28 % (c.ag u).modulus })
  | _ => (none, c)

/-- The first misaligned access among the triggers, in slot order: cause and address (R54, R155). -/
def Cog.misaligned (c : Cog) : List Presented → Option (Nat × Nat)
  | [] => none
  | p :: ps =>
    match c.access p with
    | (some (store, a, w), c') => if a % w.align ≠ 0 then some (if store then 2 else 1, a) else c'.misaligned ps
    | (none, c') => c'.misaligned ps

/-- The stack limits (R147): whether a stack pointer lowered to `x` lies below LO, and raised to `x` above HI. -/
def State.belowLo (s : State) (i : Nat) (x : Int) : Bool :=
  s.on (cogPage i) R.COG_STK_EN && decide (x < s.rd (cogPage i) R.COG_STK_LO)
def State.aboveHi (s : State) (i x : Nat) : Bool :=
  let hi := s.rd (cogPage i) R.COG_STK_HI
  s.on (cogPage i) R.COG_STK_EN && decide ((if hi = 0 then 16384 else hi) < x)

/-- The vector 6 trap of a trigger, if it raises one: cause and detail (R75, R147, R155). DESIGN CHOICE (log entry 86): the check of HI is made for
every exception return, also one that would then tail-chain and raise ctl.sp by nothing; and INFO is ctl.sp + n as it is above HI, but modulo 16,384
below LO. -/
def State.stackTrap (s : State) (i : Nat) (c : Cog) (p : Presented) : Option (Nat × Nat) :=
  let sp := c.get .sp
  match p.op with
  | .call => if s.belowLo i ((sp : Int) - 2) then some (1, wrap ((sp : Int) - 2) 14) else none
  | .ret =>
    let n := if bit (s.peekLocal i (sp + 1)).toNat 13 then 3 else 2
    if s.aboveHi i (sp + n) then some (2, sp + n) else none
  | .lpLoop => if c.get .lpc ≠ 0 ∧ 4 ≤ c.loops.length then some (3, 0) else none
  | _ => none

/-! ### Completion of a bundle -/

/-- The loop decision at the completion of a bundle without a taken transfer (R76, R77): the loop levels that remain, and the start
of the body to issue next, if a level loops back. The innermost level, last in the list, is decided first; an outer one only when
the inner ends at that bundle. DESIGN CHOICE (log entry 106): so it is where lp.t.exit ends the inner level in the outer one's last bundle; the outer level is
then decided at that bundle and may loop back. -/
def loopDecide (pc : Nat) : List Loop → List Loop × Option Nat
  | [] => ([], none)
  | l :: ls =>
    if l.last ≠ pc then (l :: ls, none)
    else if 1 < l.count then ({ l with count := l.count - 1 } :: ls, some l.start)
    else loopDecide pc ls

/-- Flag bits joined to others, the later ones deciding. -/
def joinFlags (m v m' v' : Nat) : Word × Word :=
  (BitVec.ofNat 14 (m ||| m'), BitVec.ofNat 14 (((List.range 14).map fun b => b2n (if bit m' b then bit v' b else bit v b) * 2 ^ b).sum))

/-! ### Long-latency results (R44, R93) -/

/-- A unit writes the result of its oldest operation: registers, scoreboard bits, flags, and the trap of R93 for the next boundary. The flags of an
operation whose own bundle is not complete follow those of that bundle's step 7. -/
def Cog.longWrite (c : Cog) (o : LongOp) : Cog :=
  let c := o.dests.foldl (fun (x : Cog) (r, v) => { x.setG r v.toNat with sb := BitVec.ofNat 32 (setBits x.sb.toNat r 1 0) }) c
  let fw : FlagWrite := ⟨o.fmask.toNat, o.fval.toNat⟩
  let c := { c with long := c.long.erase o,
                    trap4 := c.trap4 || (bit fw.mask flagDZ && bit fw.val flagDZ && bit c.flags.toNat flagDT),
                    trap5 := c.trap5 || (bit fw.mask flagV && bit fw.val flagV && bit c.flags.toNat flagVT) }
  match o.fresh, c.cur with
  | true, some k =>
    let j := joinFlags k.lmask.toNat k.lval.toNat fw.mask fw.val
    { c with cur := some { k with lmask := j.1, lval := j.2 } }
  | _, _ => { c with flags := applyFlags c.flags fw }

/-- Every pending long-latency result is written (R84, R149 step 1). -/
def Cog.longDrain (c : Cog) : Cog := c.long.foldl (fun (x : Cog) o => x.longWrite o) c

/-! ### The boundary after a bundle -/

/-- At a bundle boundary: the traps of completed operations, and of a load that a halt within the bundle completed (R93, R144, R145): vector
3, 4 or 5, then the lock timeout of a stalled bundle. `raised` is the address shown in COG_TRAP_PC. DESIGN CHOICE (log entry 87): for a long-latency result
that is the bundle just complete, or the next one at a boundary, not the bundle that triggered the operation; and a bundle that both reaches
the limit of a locked sequence and has stalled for more than 4 µs raises cause 0x2. -/
def Cog.boundaryTrap (c : Cog) (raised : Nat) : Cog :=
  let at_ := fun (vec cause info : Nat) => ({ vec := vec, cause := cause, info := info, pc := raised, ret := c.pc } : Trap)
  let late := match c.lock with
    | some l => if l.late then some (at_ 10 2 l.start) else none
    | none => none
  let raises := (c.trap3.map fun t => { t with pc := c.pc, ret := c.pc }).toList ++ (if c.trap4 then [at_ 4 0 0] else []) ++
    (if c.trap5 then [at_ 5 0 0] else []) ++ late.toList
  raises.foldl Cog.raiseTrap { c with trap3 := none, trap4 := false, trap5 := false }

/-- Step 1 of R149: every load in flight completes, every pending long-latency result is written, and the stores that the loads wait
for leave; nothing of it while a load cannot be answered. -/
def State.settleCog (s : State) (i : Nat) : State :=
  let s := s.drainAll i
  let c := s.cog i
  if c.loadsDone then s.setCog i (c.finishLoads.longDrain.boundaryTrap c.pc) else s

/-- Whether an entry may be made: no load in flight and no long-latency result pending. -/
def Cog.settled (c : Cog) : Bool := c.loads.isEmpty && c.long.isEmpty

/-- Whether an exception return may tail-chain, `defer` boundaries being held after its bundle (R151, R153): no locked sequence, no
step that excludes events, and no asynchronous cause that comes before an event (R145). -/
def Cog.mayChain (c : Cog) (defer : Nat) : Bool :=
  decide (defer = 0) && c.lock.isNone && !(c.stepOne && !c.stepEvent) && !c.mon9 && !c.warn8

/-- The class of the event into which an exception return to a level tail-chains (R153). -/
def State.chainClass (s : State) (i level : Nat) : Option Nat :=
  match s.presentedClass i with
  | some k => if level < k + 1 then some k else none
  | none => none

/-- The program address of a vector's slot (R143). -/
def State.vectorAddr (s : State) (i v : Nat) : Nat := (s.rd (cogPage i) R.COG_VBASE_BASE * 1024 + 32 * v) % 0x80000

/-- The cog as an exception return leaves it with the frame unstacked: ctl.sp raised by 3 (R152). -/
def Cog.unstack (c : Cog) : Cog := c.set .sp ((c.get .sp + 3) % 16384)

/-- An event entry that had begun gives way: a tail-chaining return unstacks its frame after all and transfers to the stacked address (R149, R153). -/
def State.dropBegun (s : State) (i : Nat) : State :=
  let c := s.cog i
  match c.begun with
  | some ⟨_, some _⟩ => (s.setCog i { c.unstack with begun := none }).transfer i c.pc
  | some ⟨_, none⟩ => s.setCog i { c with begun := none }
  | none => s

/-- A tail-chaining entry whose step 1 is done, and which no trap replaces, enters its vector on the frame in place, with the stacked flags (R153). -/
def State.chainNow (s : State) (i : Nat) : State :=
  let c := s.cog i
  match c.begun with
  | some ⟨k, some fl⟩ =>
    if c.trap.isSome || !c.settled then s
    else (s.setCog i { c with flags := setLevel (BitVec.ofNat 14 (bits fl.toNat 0 6)) (k + 1), entering := some k, begun := none }).transfer i (s.vectorAddr i (16 + k))
  | _ => s

/-- An exception return completes (R152, R153): it unstacks and transfers, or it begins to tail-chain into an event above the stacked LVL on the same
frame, whose entry is to be made once step 1 of R149 is done. -/
def State.returnFrom (s : State) (i pc target : Nat) (stacked : Word) (defer : Nat) : State :=
  match if (s.cog i).mayChain defer then s.chainClass i (levelOf stacked) else none with
  | none => (s.setCog i (s.cog i).unstack).transfer i target
  | some k => (s.setCog i (({ s.cog i with pc := target % 0x80000, begun := some ⟨k, some (s.cog i).flags⟩ } : Cog).boundaryTrap pc)).settleCog i |>.chainNow i

/-- Where execution goes on after a completed bundle: a taken transfer, an exception return, the start of a loop body, or in order. -/
def State.goOn (s : State) (i : Nat) (k : Current) (back : Option Nat) (defer : Nat) : State :=
  match k.exret, k.target, back with
  | some (target, stacked), _, _ => s.returnFrom i k.pc target stacked defer
  | none, some t, _ => s.transfer i t
  | none, none, some b =>
    if (s.cog i).lines.any (·.has b) then s.setCog i { s.cog i with pc := b, inUse := none } else s.transfer i b
  | none, none, none => s

/-- The locked sequence after a bundle (R156, R158, R160): it begins after the bundle that triggered ctl.t.lock, counts each bundle, and ends with the
conditional store, but for a lock timeout that is still to be raised. -/
def Cog.lockAfter (c : Cog) (k : Current) : Option LockSeq :=
  if k.lockEnd then c.lock.filter (·.late)
  else if k.locking then c.lock
  else c.lock.map fun l => { l with done := l.done + 1, last := k.pc }

/-- Completes the bundle in progress (R37 step 7): the results of the single-bundle units, the units' flags, the overflow trap of R93, the delays of loads, the locked
sequence, the deferral of R118, the next address by transfer, loop or order, and the halts that now take effect. DESIGN CHOICE (log entry 88): flags that
another unit of a returning bundle writes, and those of a long-latency result within it, override the installed FLAGS whatever the slots. DEDUCED (log
entry 89): a loop-back within the line buffer is no control transfer that ends the mark of R121; one outside it is. -/
def State.finishBundle (s : State) (i : Nat) : State :=
  let c := s.cog i
  match c.cur with
  | none => s
  | some k =>
    let installed := match k.exret with | some (_, fl) => fl | none => c.flags
    let flags := applyFlags (applyFlags installed ⟨k.fmask.toNat, k.fval.toNat⟩) ⟨k.lmask.toNat, k.lval.toNat⟩
    let loops := if k.target.isSome || k.exret.isSome then (c.loops.reverse, none) else loopDecide k.pc c.loops.reverse
    let defer := if k.defers then 2 else c.defer - 1
    let c := k.results.foldl (fun (x : Cog) (p, v) => x.set p v.toNat) c
    let c := { c with flags := flags, trap5 := c.trap5 || (k.ovf && bit c.flags.toNat flagVT), cur := none, stall := none, lock := c.lockAfter k,
                      loops := loops.1.reverse, loads := c.loads.map fun l => { l with delay := l.delay - 1 },
                      long := c.long.map fun o => { o with fresh := false },
                      defer := defer,
                      pc := (k.skip.getD k.next) % 0x80000 }
    let c := if k.fsync then { c with lines := [], tcache := [], inUse := none, coming := none } else c
    let s := ((s.setCog i c).goOn i k loops.2 defer).keepBody i
    let c := (s.cog i).boundaryTrap k.pc
    let c := if c.trap.isSome && (match c.lock with | some l => l.late | none => false) then { c with lock := none } else c
    let s := s.setCog i { c with stepOne := false }
    let s := if c.stepOne then s.requestHalt i ⟨2, 0⟩ else s
    s.settle

/-- The bundle in progress completes once its last trigger is accepted, and where it fences (R60) once the store buffer is empty. -/
def State.tryFinish (s : State) (i : Nat) : State :=
  let c := s.cog i
  match c.cur with
  | none => s
  | some k =>
    if c.run ≠ .issuing ∨ ¬ c.todo.isEmpty then s
    else if k.fence && !c.sbuf.isEmpty then s.stallCog i 7
    else s.finishBundle i

/-- The trigger at the head of a cog's presented moves, while its gate is on: an undervoltage hold lets the bundle complete (R456). -/
def State.presented (s : State) (i : Nat) : Option Presented :=
  let c := s.cog i
  if s.domOn (64 + i) && decide (c.run = .issuing) then c.todo.head? else none

/-- A unit has accepted the trigger at the head: its flags join those of the bundle, a higher slot's last (R46), and an operation that writes V = 1
is noted (R93); after the last trigger the bundle completes. -/
def State.accepted (s : State) (i : Nat) (fw : FlagWrite := {}) : State :=
  let c := s.cog i
  let cur := c.cur.map fun k =>
    let j := joinFlags k.fmask.toNat k.fval.toNat fw.mask fw.val
    { k with fmask := j.1, fval := j.2, ovf := k.ovf || (bit fw.mask flagV && bit fw.val flagV) }
  (s.setCog i { c with todo := c.todo.tail, cur := cur, stall := none }).tryFinish i

/-- The effect of a trigger command: acts when the head of the cog's presented moves is that trigger (log entry 2). -/
def State.onTrigger (s : State) (i : Nat) (t : Trigger) (f : Nat → Width → State → State) : State :=
  match s.presented i with
  | some p => if p.op = t then f p.val.toNat p.w s else s
  | none => s

/-! ### Issue -/

/-- The cog waits for a trap's entry; a bundle that trapped before its effect leaves the cog as it was. A stepped bundle that traps
ends its step (R490). -/
def State.trapCog (s : State) (i : Nat) (t : Trap) : State :=
  let c := s.cog i
  let s := s.setCog i { c with trap := some t, stall := none, stepOne := false }
  if c.stepOne then s.requestHalt i ⟨2, 0⟩ else s

/-- The load that must be visible at this bundle: the oldest in flight with its delay run out (R48, R49). -/
def Cog.dueLoad (c : Cog) : Option Load :=
  match c.loads with
  | l :: _ => if l.delay = 0 then some l else none
  | [] => none

/-- The mark of R121 as a bundle issues: that of an E bundle before it is gone with a bundle beyond it in address order. -/
def Cog.issuedMark (c : Cog) (b : Bundle) : Option Nat :=
  if b.endMark then c.endMark else c.endMark.filter fun e => !decide (0 < (c.pc + 0x80000 - e) % 0x80000 ∧ (c.pc + 0x80000 - e) % 0x80000 < 0x40000)

/-- Steps 3 to 6 of R37 for a decoded bundle whose due load, if any, has been answered: `c` is the cog with ld.r as this bundle
reads it, `loadTrap` the vector 3 trap of that load. -/
def State.issueDecoded (s : State) (i : Nat) (b : Bundle) (c : Cog) (loadTrap : Option Trap) : State :=
  let pc := c.pc
  if b.pred.isSome && c.flagsPending then s.stallCog i 1
  else
    let live := b.moves.filter fun m => !m.guarded || condHolds (b.pred.getD 0) c.flags
    if (live.any fun m => c.scored (m.regs b.width)) ||
       (c.flagsPending && live.any fun m => decide (m.src = .port .flags) ||
          (match m.dst with | .trig t => t.readsFlag | _ => false)) then s.stallCog i 1
    else
      let vals := live.map fun m => (m, c.readSrc b.width b.limm m)
      let c1 := vals.foldl (fun (x : Cog) (m, v) =>
        match m.dst with
        | .g n => x.setGroup n b.width v
        | .port p => x.writePort p b.width v
        | .trig _ => x) c
      let trigs : List Presented := vals.filterMap fun (m, v) =>
        match m.dst with
        | .trig t => some ⟨t, BitVec.ofNat 42 v, b.width⟩
        | _ => none
      if trigs.any fun p => c1.scored (c1.longDests p.op p.w) then s.stallCog i 1
      else if trigs.any fun p => match p.op.busyUnit with
          | some u => c1.long.any fun o => decide (o.unit = u)
          | none => false then s.stallCog i 8
      else
        let trap := fun (vec cause info : Nat) => s.trapCog i { vec := vec, cause := cause, info := info, pc := pc, ret := pc }
        match (live.filterMap fun m => (s.offlinePort i 0 [m]).map fun x => (x.1, x.2.1, b.moves.idxOf m)).head? with
        | some (k, code, slot) => trap 2 k (code + 256 * slot)
        | none =>
          let inSeq := c.lock.isSome
          let start := (c.lock.map (·.start)).getD 0
          if inSeq && trigs.any (fun p => decide (p.op = .lock)) then trap 10 3 start
          else if inSeq && trigs.any (fun p => decide (p.op = .pwWait)) then trap 10 4 start
          else match c1.misaligned trigs with
            | some (k, a) => trap 7 k a
            | none => match trigs.findSome? fun p => s.stackTrap i c1 p with
              | some (k, info) => trap 6 k info
              | none => match loadTrap with
                | some t => s.trapCog i t
                | none =>
                  let cur : Current := { pc := pc, next := (pc + b.len) % 0x80000, defers := trigs.any fun p => p.op.defers }
                  let s := s.setCog i { c1 with todo := trigs, cur := some cur, stall := none, entering := none, brkSkip := c1.brkSkip.filter (· ≠ pc), fetchWait := false,
                                                 endMark := c1.issuedMark b }
                  if trigs.isEmpty then s.finishBundle i else s

/-- The mark of R121 as a bundle is decoded: the last byte of the bundle with E = 1. -/
def Cog.decodedMark (c : Cog) (b : Bundle) : Option Nat := if b.endMark then some ((c.pc + b.len - 1) % 0x80000) else c.endMark

/-- A load from the cog's own local store that no buffered store holds back is answered before the bundle that it is due in (R50), and so is one
from an unmapped address, which no memory answers (R53). -/
def State.answerDue (s : State) (i : Nat) : State :=
  let c := s.cog i
  match c.dueLoad with
  | some l => if l.answer.isNone && !c.loadWaits l && decide (spaceOf l.addr = .loc ∨ spaceOf l.addr = .unmapped) then s.answerLoad i else s
  | none => s

/-- Steps 1 and 3 of R37 for the fetched bytes of a bundle: the errors of the bytes (R69), the static check (R133), and the due load (R49). DESIGN CHOICE
(log entry 79): bytes that are both uncorrectable and a reserved encoding raise vector 3, for no check can be made on them. -/
def State.issueFetched (s : State) (i : Nat) (used : List (Byte × Bool)) : State :=
  let c := s.cog i
  match used.findIdx? (·.2) with
  | some k => s.trapCog i { vec := 3, cause := 4, info := (c.pc + k) % 0x80000 / 32 * 32, pc := c.pc, ret := c.pc }
  | none =>
    match decodeBundle (used.map (·.1)) with
    | .error (cause, idx) =>
      s.trapCog i { vec := 1, cause := cause, pc := c.pc, ret := c.pc, idx := idx, bytes := used.map (·.1) }
    | .ok b =>
      let s := (s.setCog i { c with endMark := c.decodedMark b }).answerDue i
      let c := s.cog i
      match c.dueLoad with
      | none => s.issueDecoded i b c none
      | some l => match l.answer with
        | none => s.stallCog i (if c.loadWaits l then 4 else 2)
        | some (.value v) => s.issueDecoded i b { c.set Port.ldr v.toNat with loads := c.loads.tail } none
        | some (.uncorrectable k) =>
          s.issueDecoded i b { c.set Port.ldr 0 with loads := c.loads.tail }
            (some { vec := 3, cause := k, info := l.addr, pc := c.pc, ret := c.pc })

/-- The breakpoint at the next bundle of a cog, if one is enabled there and not passed over (R491). -/
def State.breakpoint (s : State) (i : Nat) : Option Nat :=
  let p := cogPage i
  (List.range 4).find? fun k => bit (s.rd p R.COG_DBG_BRKEN) k && decide (s.rd p R.COG_BRK_ADDR k = (s.cog i).pc) && decide ((s.cog i).brkSkip ≠ some (s.cog i).pc)

/-- Whether a cog stands at a boundary, ready to issue: a halt or a disable that no deferral holds comes first, and so do an event entry that has
begun and the end of a locked sequence at its limit. -/
def Cog.mayIssue (c : Cog) : Bool :=
  decide (c.run = .issuing) && c.wait.isNone && c.trap.isNone && c.begun.isNone && c.atBoundary &&
  !(match c.lock with | some l => decide (l.limit ≤ l.done) | none => false) &&
  !((c.haltReq.isSome || c.disabling) && decide (c.defer = 0) && c.lock.isNone)

/-- Whether an asynchronous entry may be made now (R149, R151): at a boundary, with no deferral and no trap waiting. -/
def Cog.asyncReady (c : Cog) : Bool :=
  decide (c.run = .issuing) && c.wait.isNone && c.atBoundary && c.trap.isNone && decide (c.defer = 0) && c.lock.isNone

/-- BUNDLE: a cog issues its next bundle (R37): breakpoint, fetch, static check, due load, and the steps of `issueDecoded`. A breakpoint whose halt, or
whose entry to vector 9, is deferred does not hold the bundle (R118, R161). A cog that does not stand at a boundary, ready to issue, does nothing. -/
def State.issue (s : State) (i : Nat) : State :=
  if !s.cogRuns i || !(s.cog i).mayIssue then s
  else
    let hit := s.breakpoint i
    let s := match hit with
      | some k => (s.requestHalt i ⟨3, k⟩).settle
      | none => s
    let c := s.cog i
    if !c.mayIssue || (hit.isSome && c.asyncReady) then s
    else if c.miss then s.stallCog i 5
    else match c.lacks c.pc with
      | some _ => (s.fetchStall i).stallCog i 5
      | none =>
        let bs := c.fetchBytes c.pc 19
        s.issueFetched i (bs.take (match bs with | (b, _) :: _ => bundleLength b.toNat | [] => 1))

/-! ### Delivery of long-latency results -/

/-- LONG_LATENCY_RESULT: the oldest pending operation of a unit delivers; at a boundary its trap, if any, is raised at once. -/
def State.longResult (s : State) (i : Nat) (u : LongUnit) : State :=
  let c := s.cog i
  match c.long.find? fun o => decide (o.unit = u) with
  | none => s
  | some o =>
    let c := c.longWrite o
    s.setCog i (if c.cur.isNone then c.boundaryTrap c.pc else c)

/-! ### Entry into a vector (R146 to R149, R155) -/

/-- The trap capture (R155): all of COG_TRAP, COG_TRAP_PC and COG_TRAP_INFO, and the bytes for vector 1. -/
def State.captureTrap (s : State) (i : Nat) (t : Trap) : State :=
  let p := cogPage i
  let s := s.capture p R.COG_TRAP_VALID R.COG_TRAP_OVR
  let s := (((s.wr p R.COG_TRAP_VEC t.vec).wr p R.COG_TRAP_CAUSE t.cause).wr p R.COG_TRAP_IDX t.idx).wr p R.COG_TRAP_LEN t.bytes.length
  let s := (s.wr p R.COG_TRAP_PC_PC t.pc).wr p R.COG_TRAP_INFO_INFO t.info
  let s := if t.vec = 1 then upTo 5 (fun u j => u.wr p R.COG_TRAP_B_BYTES (leNat ((t.bytes.drop (4 * j)).take 4)) j) s else s
  s.pgEvt p 0

/-- The frame of an entry: lowers ctl.sp by 3 and writes the return address with the frame mark and the flags (R146). -/
def State.pushFrame (s : State) (i ret : Nat) : State :=
  let c := s.cog i
  let sp := wrap ((c.get .sp : Int) - 3) 14
  let s := s.setCog i (c.set .sp sp)
  let at_ := fun k => (sp + k) % 16384
  let s := s.pushStore i (at_ 0) [BitVec.ofNat 14 ret]
  let s := s.pushStore i (at_ 1) [BitVec.ofNat 14 (ret / 2 ^ 14 + 2 ^ 13)]
  s.pushStore i (at_ 2) [c.flags]

/-- Steps 3 to 5 of R149 for a vector: the frame, the flags (for an event of class k, LVL k + 1), and the fetch of the slot. -/
def State.enterVector (s : State) (i v ret : Nat) (level : Option Nat) : State :=
  let s := s.pushFrame i ret
  let c := s.cog i
  let fl := BitVec.ofNat 14 (setBits c.flags.toNat 6 3 0)
  let fl := match level with | some l => setLevel fl l | none => fl
  let s := s.setCog i { c with flags := fl, entering := level.map (· - 1), begun := none }
  s.transfer i (s.vectorAddr i v)

/-- The cog locks up (R148): the capture, LOCKUP, and a halt that only a soft reset or device reset ends. -/
def State.lockUp (s : State) (i : Nat) (t : Trap) : State :=
  let s := s.captureTrap i t
  let s := s.wr (cogPage i) R.COG_TRAP_LOCKUP 1
  let s := s.pgEvt (cogPage i) 1
  let c := s.cog i
  let s := s.setCog i { c with run := .halted, lockup := true, haltInfo := ⟨6, 0⟩, haltReq := none, trap := none, lock := none, begun := none }
  let s := if s.on 0x032 R.TRC_CTRL_HALTS then
      s.tracePut { stamp := s.now, type := 1, src := s.traceSrc i, port := 6, value := c.pc } else s
  s.brakeIfHalt

/-- The entry for a vector whose frame may not fit (R147, R148): vector 6 with cause 1 takes the place of another vector whose frame
would fall below LO; a vector 6 frame more than 3 words below LO locks the cog up. `trap` is the trap to capture, if the entry is one. DESIGN CHOICE (log
entry 87): where vector 6 takes the place of an asynchronous entry, COG_TRAP_PC shows the next bundle. -/
def State.tryEnter (s : State) (i v ret : Nat) (level : Option Nat) (trap : Option Trap) : State :=
  let c := s.cog i
  let sp := c.get .sp
  let lo := s.rd (cogPage i) R.COG_STK_LO
  let low := s.belowLo i ((sp : Int) - 3)
  let vec6 : Trap := { vec := 6, cause := 1, info := wrap ((sp : Int) - 3) 14, pc := (trap.map (·.pc)).getD ret, ret := ret }
  let take := fun (s : State) (t : Trap) =>
    let s := s.captureTrap i t
    let s := if s.on 0x032 R.TRC_CTRL_TRAPS then
        s.tracePut { stamp := s.now, type := 3, src := s.traceSrc i, port := t.vec, value := t.pc } else s
    let s := if t.vec = 10 then s.bump (cogPage i) R.COG_LOCK_CNT_TMO else s
    let s := s.setCog i { s.cog i with trap := none, lock := none }
    s.enterVector i t.vec ret none
  if v ≠ 6 ∧ low then
    (if sp < lo then s.lockUp i vec6 else take s vec6)
  else match trap with
    | some t => if low && decide (sp < lo) then s.lockUp i t else take s t
    | none => s.enterVector i v ret level

/-- After step 1 of R149: the trap that waits is entered, the first in the order of R145, the bundle that it stopped having no effect and an event
entry that had begun giving way. -/
def State.enterTrap (s : State) (i : Nat) (t : Trap) : State :=
  let s := s.dropBegun i
  ((s.setCog i { s.cog i with cur := none, todo := [] }).tryEnter i t.vec t.ret none (some t)).settle

/-- EXCEPTION_ENTRY: the trap that waits, or one that comes before it and that step 1 raises, enters its vector; else a pending monitor request
enters vector 9, else a pending watchdog warning vector 8 (R145, R149). A trap that step 1 raises takes the place of an asynchronous cause, which
stays pending. Step 1 lasts while a load cannot be answered. A trap of the bundle that a WAIT completes is entered after the wake (R163). -/
def State.exceptionEntry (s : State) (i : Nat) : State :=
  let c := s.cog i
  if !s.cogRuns i || c.run ≠ .issuing || c.wait.isSome || !(c.trap.isSome || (c.asyncReady && (c.mon9 || c.warn8))) then s
  else
    let s := s.settleCog i
    let c1 := s.cog i
    if !c1.settled then s
    else match c1.trap with
      | some t => s.enterTrap i t
      | none =>
        let s := s.dropBegun i
        let c1 := s.cog i
        let fits := !s.belowLo i ((c1.get .sp : Int) - 3)
        let s := if fits then s.setCog i (if c1.mon9 then { c1 with mon9 := false } else { c1 with warn8 := false }) else s
        s.tryEnter i (if c1.mon9 then 9 else 8) c1.pc none none

/-- The class of the event that a cog enters: the highest presented to it, or that of an entry which has begun and whose event another cog has claimed
since (R151). DESIGN CHOICE (log entry 107): where a lower class is presented then, the entry keeps its own. -/
def State.eventClass (s : State) (i : Nat) : Option Nat :=
  match s.presentedClass i, (s.cog i).begun with
  | some k, some b => some (max k b.cls)
  | some k, none => some k
  | none, b => b.map (·.cls)

/-- Steps 2 to 5 of R149 for an event of class k, once step 1 is done; until then the entry has begun. A trap that step 1 raises takes its place. -/
def State.enterEvent (s : State) (i k : Nat) : State :=
  let c := s.cog i
  let s := (s.setCog i { c with begun := some ⟨k, c.begun.bind (·.chain)⟩ }).settleCog i
  let c1 := s.cog i
  if !c1.settled then s
  else match c1.trap with
    | some t => s.enterTrap i t
    | none => if (c1.begun.bind (·.chain)).isSome then s.chainNow i else s.tryEnter i (16 + k) c1.pc (some (k + 1)) none

/-- EVENT_ENTRY: the highest class presented to the cog enters vector 16 + k when k + 1 > LVL (R142, R149). While the slot of an
event of a lower class is being fetched, the higher class takes its place on the frame already written (R150). -/
def State.eventEntry (s : State) (i : Nat) : State :=
  let c := s.cog i
  match s.eventClass i with
  | none => s
  | some k =>
    if !s.cogRuns i || !c.asyncReady || c.mon9 || c.warn8 || (c.begun.isNone && !decide (levelOf c.flags < k + 1)) || (c.stepOne && !c.stepEvent) then s
    else match c.entering with
    | some _ =>
      let s := s.setCog i { c with flags := setLevel c.flags (k + 1), entering := some k }
      s.transfer i (s.vectorAddr i (16 + k))
    | none => s.enterEvent i k

end Sys2Proof.Machine
end

