-- ==== Sys2Proof/Machine/Tap.lean ====
section
/-! DEFINITION. The journal's intake (R414 to R418, R424, R428) and the sending side of the tandem links (R370, R371): the parts that
the fabric acts through. -/

namespace Sys2Proof.Machine

/-! ### The journal FIFO (R414, R417) -/

/-- Whether the journal records. -/
def State.recording (s : State) : Bool := s.blockOn 0x060 && s.on 0x060 R.JRN_CTRL_EN && !s.on 0x060 R.JRN_STAT_FROZEN

/-- A record is dropped (R417): counted, and a GAP is due. A lost SNAP record sets JRN_EPOCH.BAD (R432). -/
def State.jrnDrop (s : State) (k : JRec) : State :=
  let s := { s with jrn := { s.jrn with lost := s.jrn.lost + 1 } }
  let s := s.bump 0x063 R.JRN_LOST_LOST
  if k.sender = 0x1F1 then s.wr 0x061 R.JRN_EPOCH_BAD 1 else s

/-- A record takes the next place of the FIFO. It counts against the POST further records of a freezing marker: after the last the journal freezes, the snapshot
in progress first (R424, R432). -/
def State.jrnTake (s : State) (k : JRec) : State :=
  let s := { s with jrn := { s.jrn with fifo := s.jrn.fifo ++ [k], since := s.jrn.since + 1, post := s.jrn.post.map (· - 1) } }
  if s.jrn.post = some 0 ∧ ¬ s.on 0x061 R.JRN_EPOCH_SNAP_BUSY then (s.wr 0x060 R.JRN_STAT_FROZEN 1).pgEvt 0x020 14 else s

/-- Whether the POST further records have been written: only the records of the snapshot in progress still enter (R432). -/
def State.jrnFull (s : State) (k : JRec) : Bool := decide (s.jrn.post = some 0) && decide (k.sender ≠ 0x1F1)

/-- The GAP record takes the first free place (R417): JRN_STAT.GAP is set and the journal's gap is a health source. -/
def State.jrnGap (s : State) : State :=
  if s.jrn.lost = 0 ∨ 4096 ≤ s.jrn.fifo.length ∨ (s.jrn.post = some 0 ∧ ¬ s.on 0x061 R.JRN_EPOCH_SNAP_BUSY) then s
  else
    let k : JRec := ⟨0, 0x1F8, s.now, s.jrn.lost⟩
    ((({ s with jrn := { s.jrn with lost := 0 } } : State).jrnTake k).wr 0x060 R.JRN_STAT_GAP 1).pgEvt 0x020 13

/-- A record is offered to the FIFO: whether it enters. It is dropped when the FIFO is full, by injection for one record (R433), or behind a GAP that is due;
nothing enters that comes after the POST further records. -/
def State.jrnOffer (s : State) (k : JRec) : Bool × State :=
  if !s.recording || s.jrnFull k then (false, s)
  else if s.injArmed 0x060 0 then (false, (s.injTake 0x060 0).jrnDrop k)
  else
    let s := s.jrnGap
    if !s.recording || s.jrnFull k then (false, s)
    else if 4096 ≤ s.jrn.fifo.length then (false, s.jrnDrop k)
    else (true, s.jrnTake k)

/-- A record is offered to the FIFO. -/
def State.jrnPut (s : State) (k : JRec) : State := (s.jrnOffer k).2

/-- The payload flit of a message (R196). -/
def Msg.payload (m : Msg) : Nat :=
  ((m.words.zipIdx.map fun (w, i) => w % 2 ^ 14 * 2 ^ (14 * i)).sum) + m.words.length * 2 ^ 56 + m.kind * 2 ^ 59

/-- The journal tap copies an ordered input as it enters the hub (R22, R213, R414). -/
def State.jrnTap (s : State) (m : Msg) : State :=
  if (0x100 ≤ m.sender ∧ m.sender ≤ 0x11A) ∨ 0x200 ≤ m.sender then s.jrnPut ⟨m.chan, m.sender, m.stamp, m.payload⟩ else s

/-- A break of exactness that the device detects (R428): JRN_BRK counts the records written (R436). -/
def State.jrnBreak (s : State) (cause stamp detail : Nat) : State :=
  if s.recording then
    let r := s.jrnOffer ⟨cause, 0x1F6, stamp % 2 ^ 42, detail⟩
    (if r.1 then r.2.bump 0x063 R.JRN_BRK_CNT else r.2).wr 0x063 R.JRN_BRK_LAST cause
  else s

/-- A host write to a register that R428 lists under cause 3. -/
def State.jrnHost (s : State) (addr : Nat) : State := s.jrnBreak 3 s.now addr

/-! ### Tandem links, sending side (R370, R371, R374) -/

/-- A tandem port. -/
def State.link (s : State) (i : Nat) : LinkPort := lookD s.links i {}
def State.setLink (s : State) (i : Nat) (x : LinkPort) : State := { s with links := put s.links i x }

/-- The port that carries a channel: channel mod 2 with both ports up, else the one that is up. -/
def State.linkFor (s : State) (ch : Nat) : Option Nat :=
  let up := s.rd 0x124 R.TAN_STAT_UP
  if up = 3 then some (ch % 2) else if up = 1 then some 0 else if up = 2 then some 1 else none

/-- The data blocks of a flit, each its flit type and its 64 bits (R194 to R198). R194 lists no type for a payload flit: `pt` stands there. -/
def Flit.blocks (pt ch : Nat) : Flit → List (Nat × Nat)
  | .msg m => [(1, ch % 2 ^ 12 + m.stamp % 2 ^ 42 * 2 ^ 12 + m.sender % 2 ^ 10 * 2 ^ 54), (pt, m.payload)]
  | .token x st => [(2, ch % 2 ^ 12 + st % 2 ^ 42 * 2 ^ 12 + x % 2 ^ 10 * 2 ^ 54)]
  | .credit x n => [(3, ch % 2 ^ 12 + x % 2 ^ 10 * 2 ^ 12 + n % 2 ^ 4 * 2 ^ 22)]

/-- The data blocks that a flit takes. -/
def Flit.size : Flit → Nat
  | .msg _ => 2
  | .token _ _ | .credit _ _ => 1

/-- CRC-16 of bytes (R370): polynomial 0x1021 and initial value 0xFFFF, not reflected, no final XOR. -/
def crc16 (bs : List Byte) : Nat :=
  bs.foldl (fun (c : Nat) b => (List.range 8).foldl (fun (x : Nat) _ => if bit x 15 then 2 * x % 2 ^ 16 ^^^ 0x1021 else 2 * x) (c ^^^ b.toNat * 2 ^ 8)) 0xFFFF

/-- The CRC of a group, over the low 48 bits of its header and its 7 data blocks, each in ascending bytes (DEDUCED, log entry 100). -/
def groupCrc (header : Nat) (data : List Nat) : Nat := crc16 (leBytes 6 header ++ data.flatMap (leBytes 8))

/-- The header of a group (R370). -/
def groupHeader (types : List Nat) (seq ack : Nat) (nak : Bool) (data : List Nat) : Nat :=
  let ft := (types.zipIdx.map fun (t, j) => t % 4 * 4 ^ j).sum
  let h := 0x5A + ft % 2 ^ 14 * 2 ^ 8 + seq % 2 ^ 8 * 2 ^ 22 + ack % 2 ^ 8 * 2 ^ 30 + b2n nak * 2 ^ 38
  h + groupCrc h data * 2 ^ 48

/-- A group of flits leaves a port with the port's ACK and NAK (R370). Idle fills it up; a group with no flit is an idle one. DESIGN CHOICE (log
entry 100): the scrambler's register, the type beside a payload flit, the bits of idle flits and those at SEQ of an idle group are free values. -/
def State.groupOut (s : State) (i : Nat) (seq : Option Nat) (flits : List (Nat × Flit)) : State :=
  let x := s.link i
  let r := s.freeDraw 516
  let gap := (List.range 7).map fun j => (0, bits r.1 (68 + 64 * j) 64)
  let blocks := ((flits.flatMap fun (ch, f) => f.blocks (bits r.1 58 2) ch) ++ gap).take 7
  let data := blocks.map (·.2)
  let h := groupHeader (blocks.map (·.1)) (seq.getD (bits r.1 60 8)) x.lastGood x.nak data
  { r.2 with out := .tandem i h data (onLane (r.1 % 2 ^ 58) ((2, h) :: data.map fun d => (1, d))) :: s.out }

/-- Flits leave through a port in one group, unless 64 groups are unacknowledged (R371). -/
def State.groupSend (s : State) (i : Nat) (flits : List (Nat × Flit)) : Option State :=
  let x := s.link i
  if 64 ≤ x.unacked.length then none
  else some ((s.setLink i { x with seq := (x.seq + 1) % 256, unacked := x.unacked ++ [(x.seq, flits)] }).groupOut i (some x.seq) flits)

/-- A new flit leaves over the link, behind those that wait for its port (R371, R377); `none` while it cannot. -/
def State.linkSend (s : State) (ch : Nat) (f : Flit) : Option State :=
  match s.linkFor ch with
  | none => none
  | some i => if (s.link i).queued.isEmpty then s.groupSend i [(ch, f)] else none

end Sys2Proof.Machine
end

