-- ==== Sys2Proof/Machine/Fabric.lean ====
section
/-! DEFINITION. The spoke fabric (chapter 07): sends and their checks, credits, arrival, the merge, horizons, stalls, the channel table
and the sender sets; and the cogs' ch triggers (R108 to R111). -/

namespace Sys2Proof.Machine

/-! ### Credits (R205) -/

/-- The key under which a channel counts credits: the sender of an ordered channel, one pool for a loose one (R205), and the
sender itself for a message that crossed a tandem link, whose credits go back over it (R374). -/
def State.creditKey (s : State) (ch sender : Nat) : Nat := if s.chOrd ch || decide (0x200 ≤ sender) then sender else 0x400

/-- The credits of a pair or of a loose channel: CRED, 0 meaning 16 (R201). -/
def State.chCred (s : State) (ch : Nat) : Nat :=
  let c := s.rd (chanPage ch) R.FAB_CH_LO_CRED
  if c = 0 then 16 else c

/-- The free credits of a sender on a channel. -/
def State.freeCredits (s : State) (ch sender : Nat) : Nat := s.chCred ch - lookD (s.chan ch).used (s.creditKey ch sender) 0

/-! ### Errors -/

/-- FAB_ERR_CAP records a discarded send or a lost message (R204, R213). -/
def State.fabCapture (s : State) (ch sender cause : Nat) : State :=
  (((s.capture 0x0A0 R.FAB_ERR_CAP_VALID R.FAB_ERR_CAP_OVR).wr 0x0A0 R.FAB_ERR_CAP_CHAN ch).wr 0x0A0 R.FAB_ERR_CAP_SENDER sender).wr
    0x0A0 R.FAB_ERR_CAP_CAUSE cause

/-- A discarded send or message: its counter, and the capture with its cause (R204, R216). -/
def State.fabErr (s : State) (ch sender cause : Nat) : State :=
  let f := if cause = 1 then R.FAB_ERR_REGRESS else if cause = 2 then R.FAB_ERR_NOTREG else if cause = 3 then R.FAB_ERR_NOCHAN
           else R.FAB_ERR_LOST
  (s.bump 0x0A0 f).fabCapture ch sender cause

/-- FAB_STALL records the channel and the blocking member; the event is raised once until the channel delivers (R211). -/
def State.reportStall (s : State) (ch sender : Nat) : State :=
  let s := s.setChan ch { s.chan ch with stall := true }
  let s := ((s.capture 0x0A0 R.FAB_STALL_VALID R.FAB_STALL_OVR).wr 0x0A0 R.FAB_STALL_CHAN ch).wr 0x0A0 R.FAB_STALL_SENDER sender
  s.pgEvt 0x0A0 0

/-- The least held message of a channel's merge, and the members that block it. -/
def State.blockers (s : State) (ch : Nat) : Option (Msg × List Nat) :=
  (if s.chEn ch && s.chOrd ch then leastMsg (s.chan ch).held else none).map fun m => (m, (s.activeMembers ch).filter (s.blocks ch m))

/-- The blocked timer of R211 after a change on a channel: it runs while the same least message stays blocked. Injection bit 4 reports
the next channel that holds a message at once (R226). -/
def State.refresh (s : State) (ch : Nat) : State :=
  let c := s.chan ch
  match s.blockers ch with
  | none => s.setChan ch { c with blocked := none }
  | some (m, blockers) =>
    let b := if blockers.isEmpty then none
      else match c.blocked with
        | some (st, sd, t) => if st = m.stamp ∧ sd = m.sender then some (st, sd, t) else some (m.stamp, m.sender, s.tb)
        | none => some (m.stamp, m.sender, s.tb)
    let s := s.setChan ch { c with blocked := b }
    if s.injArmed 0x0A0 4 then (s.injTake 0x0A0 4).reportStall ch (blockers.headD m.sender) else s

/-- Injection bit 4 of page 0x0A0 while a channel holds a message: that channel reports R211 at once (R226). -/
def State.injectStall (s : State) : Option State :=
  (s.knownChans.findSome? fun ch => (s.blockers ch).map fun b => (ch, b)).map fun (ch, m, b) => s.reportStall ch (b.headD m.sender)

/-! ### Sending (R204, R205) -/

/-- Whether a replay discards what a live sender sends (R430 step 1). -/
def State.replayDiscards (s : State) (sender : Nat) : Bool :=
  s.rpl.going && (decide (0x100 ≤ sender ∧ sender ≤ 0x119) || decide (0x200 ≤ sender))

/-- The member state of a sender on a channel. -/
def State.member (s : State) (ch sender : Nat) : Member := lookD (s.chan ch).members sender {}
def State.setMember (s : State) (ch sender : Nat) (x : Member) : State :=
  s.setChan ch { s.chan ch with members := put (s.chan ch).members sender x }

/-- The check of R204 that a send fails, if any, as the cause that FAB_ERR_CAP shows. -/
def State.sendFails (s : State) (ch sender stamp : Nat) : Option Nat :=
  if !s.chEn ch then some 3
  else if s.chOrd ch then
    if !s.isMember ch sender then some 2
    else match (s.member ch sender).lastSent with
      | some l => if stampLt stamp l then some 1 else none
      | none => none
  else none

/-- The sender's own record of what it sent last on an ordered channel (R204, R207). -/
def State.noteSent (s : State) (ch sender stamp : Nat) : State :=
  if s.chOrd ch then s.setMember ch sender { s.member ch sender with lastSent := some stamp, sentAt := s.tb, spoke := true } else s

/-- A send in the sender's router or port (R204, R205): `none` while it waits for the fabric or for a credit; a send that fails a check is
counted and carries nothing; a message that passes takes a credit and enters the fabric, where the journal tap sees it. `live` is
false for what a replay injects (R430). -/
def State.trySend (s : State) (ch sender stamp kind : Nat) (words : List Nat) (live : Bool := true) : Option State :=
  if !s.domOn 3 then none
  else if live && s.replayDiscards sender then some (s.bump 0x062 R.JRN_RPL_STAT_LIVE)
  else match s.sendFails ch sender stamp with
    | some cause => some (s.fabErr ch sender cause)
    | none =>
      if s.freeCredits ch sender = 0 then none
      else
        let m : Msg := ⟨ch, sender, if s.chOrd ch then stamp % 2 ^ 42 else s.now, kind, words.map (· % 2 ^ 14)⟩
        let key := s.creditKey ch sender
        let c := s.chan ch
        let s := s.setChan ch { c with flight := c.flight ++ [.msg m], used := put c.used key (lookD c.used key 0 + 1) }
        some ((s.noteSent ch sender m.stamp).jrnTap m)

/-- A horizon token (R204, R207): one that fails a check is dropped and not counted. -/
def State.sendToken (s : State) (ch sender stamp : Nat) (live : Bool := true) : State :=
  if !s.domOn 3 || !s.chOrd ch then s
  else if live && s.replayDiscards sender then s.bump 0x062 R.JRN_RPL_STAT_LIVE
  else if (s.sendFails ch sender stamp).isSome then s
  else
    let s := s.setChan ch { s.chan ch with flight := (s.chan ch).flight ++ [.token sender (stamp % 2 ^ 42)] }
    s.noteSent ch sender (stamp % 2 ^ 42)

/-! ### Hardware senders that wait for a credit (R205) -/

/-- The source that a capture message names: a pin, or 100 more than an encoder (R280). -/
def Msg.capSource (m : Msg) : Nat := if m.words.getD 1 0 % 8 < 2 then m.words.getD 0 0 % 128 else 100 + m.words.getD 0 0 % 128

/-- A capture that could not be sent within 100 ns of its stamp is discarded (R280): counted, in LOST of the source's next message too. -/
def State.captureLate (s : State) (m : Msg) : State :=
  let w0 := m.words.getD 0 0
  let src := m.capSource
  let s := s.bump 0x081 R.CAP_ERR_LATE
  let s := { s with capLost := put s.capLost src (lookD s.capLost src 0 + 1) }
  (s.pgEvt 0x081 0).jrnBreak 6 m.stamp (w0 % 128)

/-- A hardware sender's message as it is sent: a capture takes in LOST what its source has lost since its last message (R280). -/
def State.trySendMsg (s : State) (m : Msg) : Option State :=
  if m.sender = 0x118 ∧ m.kind = 3 then
    let lost := min 255 (lookD s.capLost m.capSource 0)
    (s.trySend m.chan m.sender m.stamp m.kind (m.words.modify 1 (· + 64 * lost))).map fun t => { t with capLost := del t.capLost m.capSource }
  else s.trySend m.chan m.sender m.stamp m.kind m.words

/-- Sends a hardware sender's message, behind those of the same sender that wait for a credit. -/
def State.hwSend (s : State) (ch sender stamp kind : Nat) (words : List Nat) : State :=
  let m : Msg := ⟨ch, sender, stamp % 2 ^ 42, kind, words⟩
  if s.outbox.any fun x => decide (x.sender = sender) then { s with outbox := s.outbox ++ [m] }
  else (s.trySendMsg m).getD { s with outbox := s.outbox ++ [m] }

/-- Sends what can now be sent of the messages that wait: of each sender in order. -/
def State.flushGo : List Msg → List Nat → State → State
  | [], _, s => s
  | m :: ms, stuck, s =>
    if m.sender = 0x118 ∧ 100 < stampDiff s.now m.stamp then flushGo ms stuck (s.captureLate m)
    else if m.sender ∈ stuck then flushGo ms stuck { s with outbox := s.outbox ++ [m] }
    else match s.trySendMsg m with
      | some t => flushGo ms stuck t
      | none => flushGo ms (m.sender :: stuck) { s with outbox := s.outbox ++ [m] }

/-- Sends what can now be sent of the messages that wait for a credit. -/
def State.flushOutbox (s : State) : State := if s.outbox.isEmpty then s else State.flushGo s.outbox [] { s with outbox := [] }

/-! ### Slots and delivery (R205, R208, R213) -/

/-- A message leaves its slot. -/
def State.unslot (s : State) (m : Msg) : State := s.setChan m.chan { s.chan m.chan with held := (s.chan m.chan).held.erase m }

/-- A message's credit is on its way back to the sender (R205). -/
def State.restoreCredit (s : State) (m : Msg) : State :=
  let key := s.creditKey m.chan m.sender
  let c := s.chan m.chan
  s.setChan m.chan { c with back := put c.back key (lookD c.back key 0 + 1) }

/-- The credits of peers' senders that have yet to go back over a tandem link: a channel's disable keeps them (R203, R374). -/
def Chan.owed (c : Chan) : Sparse Nat := c.back.filter fun x => decide (0x200 ≤ x.1 ∧ x.1 < 0x400)

/-- A message that a disabled channel discards returns its credit (R203): a peer's goes back over the link (R374); those of the chip's own senders
are all free again with the channel emptied. -/
def State.refuseMsg (s : State) (m : Msg) : State := if 0x200 ≤ m.sender then s.restoreCredit m else s

/-- The same for a flit in flight. -/
def State.refuseFlit (s : State) (f : Flit) : State := match f with | .msg m => s.refuseMsg m | _ => s

/-- Empties a disabled channel: what it still holds or has in flight is discarded, and of its credits those owed to a peer remain (R203). -/
def State.emptyChan (s : State) (ch : Nat) : State :=
  let c := s.chan ch
  let s := c.held.foldl (fun (t : State) m => t.refuseMsg m) s
  let s := c.flight.foldl (fun (t : State) f => t.refuseFlit f) s
  s.setChan ch { back := (s.chan ch).owed }

/-- A flit reaches the end of its spoke: injection bit 0 of page 0x0A0 makes the next one a corrected flit (R213, R226). -/
def State.flitArrives (s : State) : State := if s.injArmed 0x0A0 0 then (s.injTake 0x0A0 0).bump 0x0A0 R.FAB_CE_FLIT else s

/-- A message's slot is freed, which returns its credit (R205). -/
def State.freeSlot (s : State) (m : Msg) : State := (s.unslot m).restoreCredit m

/-- A message that holds no slot is lost to an uncorrectable flit or slot (R213): its credit is restored, and it is counted and captured. -/
def State.loseMsg (s : State) (m : Msg) : State :=
  let s := (s.restoreCredit m).fabErr m.chan m.sender 4
  let s := (s.wr (chanPage m.chan) R.FAB_CH_STAT_LOSS 1).pgEvt 0x0A0 1
  let s := if s.chOrd m.chan then s.jrnBreak 2 m.stamp m.chan else s
  s.refresh m.chan

/-- The channel delivers a message (R208): its slot is freed, and STALL clears (R211). -/
def State.deliver (s : State) (m : Msg) : State :=
  let s := s.freeSlot m
  let s := s.setChan m.chan { s.chan m.chan with lastDelivered := some m.stamp, stall := false }
  s.refresh m.chan

/-- Reads the deliverable message of a channel, through the slot memory's detectors (R213, R226): an uncorrectable slot's message is lost. -/
def State.readSlot (s : State) (ch : Nat) : Option Msg × State :=
  match s.deliverable ch with
  | none => (none, s)
  | some m =>
    if s.injArmed 0x0A0 3 then
      let s := ((s.injTake 0x0A0 3).unslot m).loseMsg m
      (s.deliverable ch, s)
    else if s.injArmed 0x0A0 2 then (some m, (s.injTake 0x0A0 2).bump 0x0A0 R.FAB_CE_SLOT)
    else (some m, s)

/-- Takes the deliverable message of a channel. -/
def State.takeMsg (s : State) (ch : Nat) : Option Msg × State :=
  let r := s.readSlot ch
  (r.1, match r.1 with | some m => r.2.deliver m | none => r.2)

/-- A message meets its receiving point (R206, R216, R221): a slot, or for a command input with no command the end. A channel that has
been disabled accepts nothing. -/
def State.occupy (s : State) (m : Msg) : State :=
  if !s.chEn m.chan then s.refuseMsg m
  else
    let c := s.chan m.chan
    let s := s.setChan m.chan { c with held := c.held ++ [m] }
    let s := if s.chOrd m.chan then s.setMember m.chan m.sender { s.member m.chan m.sender with horizon := some m.stamp } else s
    let r := s.rd (chanPage m.chan) R.FAB_CH_LO_RCV
    let w := m.words.headD 0
    if 0x300 ≤ r ∧ w ≠ 1 ∧ w ≠ 2 then s.deliver m else s.refresh m.chan

/-- The cassette of a channel's receiver, for a cog. -/
def State.rcvCas (s : State) (ch : Nat) : Option Nat :=
  let r := s.rd (chanPage ch) R.FAB_CH_LO_RCV
  if r < 0x100 then some (r / 16) else none

/-- A message reaches the receiver's spoke (R206, R216): while the cassette is in retention or waking the hub holds it, up to 256;
while it is off the message is discarded. `none` while the hub's hold buffer is full. -/
def State.reachSpoke (s : State) (m : Msg) : Option State :=
  match s.rcvCas m.chan with
  | none => some (s.occupy m)
  | some c =>
    if s.domOn (8 + c) then some (s.occupy m)
    else if (s.dom (8 + c)).st = .off ∧ (s.dom (8 + c)).going = none then some ((s.restoreCredit m).fabErr m.chan m.sender 3)
    else if 256 ≤ s.hubHold.length then none
    else some { s with hubHold := s.hubHold ++ [m] }

/-- The first flit of a sender in a channel's flight. -/
def Chan.firstOf (c : Chan) (sender : Nat) : Option Flit :=
  c.flight.find? fun f => match f with
    | .msg m => decide (m.sender = sender)
    | .token x _ => decide (x = sender)
    | .credit _ _ => false

/-- MESSAGE_ARRIVAL (R206): the sender's first flit in flight on the channel, if it is a message, reaches its receiving point, or leaves
over the tandem link (R215). Injection bits 0 and 1 act on it (R226). -/
def State.messageArrival (s : State) (ch sender : Nat) : State :=
  let c := s.chan ch
  match c.firstOf sender with
  | some (.msg m) =>
    if !s.domOn 3 then s
    else
      let s' := s.setChan ch { c with flight := c.flight.erase (.msg m) }
      if !s.chEn ch then s'.flitArrives.refuseMsg m
      else if s.injArmed 0x0A0 1 then (s'.injTake 0x0A0 1).loseMsg m
      else
        let s' := s'.flitArrives
        (if s.on (chanPage ch) R.FAB_CH_LO_TAN then s'.linkSend ch (.msg m) else s'.reachSpoke m).getD s
  | _ => s

/-- HORIZON_TOKEN_ARRIVAL (R207): the sender's first flit, if it is a token, advances the member's horizon at the merge. -/
def State.tokenArrival (s : State) (ch sender : Nat) : State :=
  let c := s.chan ch
  match c.firstOf sender with
  | some (.token x h) =>
    if !s.domOn 3 then s
    else
      let s' := (s.setChan ch { c with flight := c.flight.erase (.token x h) }).flitArrives
      if !s.chEn ch then s'
      else if s.on (chanPage ch) R.FAB_CH_LO_TAN then (s'.linkSend ch (.token x h)).getD s
      else (s'.setMember ch sender { s'.member ch sender with horizon := some h }).refresh ch
  | _ => s

/-- CREDIT_RETURN (R205): up to 15 credits reach their sender; those of a tandem peer travel back over the link, while LOCK is 1 (R373, R374). -/
def State.creditReturn (s : State) (ch sender : Nat) : State :=
  if !s.domOn 3 then s
  else
    let c := s.chan ch
    let key := s.creditKey ch sender
    let n := min 15 (lookD c.back key 0)
    if n = 0 then s
    else
      let s' := s.flitArrives.setChan ch { c with back := put c.back key (lookD c.back key 0 - n), used := put c.used key (lookD c.used key 0 - n) }
      if 0x200 ≤ sender then (if s.on 0x124 R.TAN_STAT_LOCK then (s'.linkSend ch (.credit (sender - 0x200) n)).getD s else s)
      else s'.flushOutbox

/-- HORIZON_STALL (R211): the least held message has stayed blocked for longer than DEAD. -/
def State.horizonStall (s : State) (ch : Nat) : State :=
  let c := s.chan ch
  let dead := s.rd 0x0A0 R.FAB_HZN_DEAD
  match c.blocked, leastMsg c.held with
  | some (_, _, t), some m =>
    if s.domOn 3 && !c.stall && decide (dead ≠ 0) && decide (t + dead * 1000 < s.tb) then
      match (s.activeMembers ch).find? (s.blocks ch m) with
      | some b => s.reportStall ch b
      | none => s
    else s
  | _, _ => s

/-! ### The cogs' receives and sends (R108 to R111) -/

/-- A receive on a channel that is not the cog's is recorded (R111). -/
def State.badReceive (s : State) (i : Nat) : State := (s.wr (cogPage i) R.COG_STORE_BADRX 1).pgErr (cogPage i)

/-- A delivered message in the result ports (R108). -/
def Cog.receive (c : Cog) (m : Msg) : Cog :=
  let w := fun k => m.words.getD k 0
  ((((((((c.set .chr0 (sext (w 0) .word)).set .chr1 (sext (w 1) .word)).set .chr2 (sext (w 2) .word)).set .chr3 (sext (w 3) .word)).set .chrk
    (m.words.length + 8 * m.kind))).set .chrs m.stamp).set .chrn m.sender)

/-- ch.t.recv and ch.t.try (R110, R111): a channel that is not the cog's completes with Z = 1; a deliverable message completes; without
one, a receive waits and a try completes with Z = 1. -/
def State.receiveOp (s : State) (i : Nat) (t : Trigger) : State :=
  s.onTrigger i t fun v _ s =>
    let ch := v % 4096
    if !s.canReceive i ch then (s.badReceive i).accepted i (({} : FlagWrite).put flagZ true)
    else
      let taken := s.takeMsg ch
      let s := taken.2
      match taken.1 with
      | some m =>
        let s := (s.setCog i ((s.cog i).receive m)).watchdogKick i 1
        s.accepted i (if t = .chTry then ({} : FlagWrite).put flagZ false else {})
      | none => if t = .chTry then s.accepted i (({} : FlagWrite).put flagZ true) else s.stallCog i 6

/-- A cog's send of payload words (R61, R109): after its earlier stores have left, once a credit is free. -/
def State.cogSend (s : State) (i : Nat) (words : List Nat) : State :=
  let c := s.cog i
  if !c.sbuf.isEmpty then s.stallCog i 7
  else match s.cogSender i with
    | none => s.accepted i
    | some x => match s.trySend c.sel x (c.get .chs) 0 words with
      | some s => s.accepted i
      | none => s.stallCog i 6

/-- Completes the cogs that wait in ch.t.recv on a channel and can now take a message, or can no longer (R206 step 4, R111). -/
def State.wakeReceivers (s : State) (ch : Nat) : State :=
  s.cogs.foldl (fun (t : State) (i, _) =>
    match t.presented i with
    | some p => if p.op = .chRecv ∧ p.val.toNat % 4096 = ch ∧ (t.cog i).stall.isSome then t.receiveOp i .chRecv else t
    | none => t) s

/-! ### The channel table and the sender sets (R201 to R203, R212) -/

/-- The number of valid members in the set of an ordered channel. -/
def State.setSize (s : State) (ch : Nat) : Nat := (s.setSenders (s.rd (chanPage ch) R.FAB_CH_LO_SET)).length

/-- The slots of a channel: the first, and how many (R201). -/
def State.slotsOf (s : State) (ch : Nat) : Nat × Nat :=
  (s.rd (chanPage ch) R.FAB_CH_HI_SLOT, s.chCred ch * (if s.chOrd ch then s.setSize ch else 1))

/-- The receiving point of a channel: cassette router c, the hub as 16, or the tandem peer as 17 (R201, R215). -/
def State.rcvPoint (s : State) (ch : Nat) : Nat :=
  if s.on (chanPage ch) R.FAB_CH_LO_TAN then 17 else (s.rcvCas ch).getD 16

/-- The first failing check of an enable, as FAB_CH_STAT.REFUSE shows it (R202); 0 if none fails. DEDUCED (log entry 15): a channel to the
tandem peer has no slots here that could overlap. -/
def State.chRefuse (s : State) (ch : Nat) : Nat :=
  let (b, n) := s.slotsOf ch
  let clash := (s.knownChans.filter fun x => x ≠ ch && s.chEn x && s.rcvPoint x = s.rcvPoint ch && s.rcvPoint ch ≠ 17).any fun x =>
    let (b', n') := s.slotsOf x
    decide (b < b' + n' ∧ b' < b + n)
  let set := s.setSenders (s.rd (chanPage ch) R.FAB_CH_LO_SET)
  let r := s.rd (chanPage ch) R.FAB_CH_LO_RCV
  if 1024 < b + n || clash then 1
  else if s.chOrd ch && (set.isEmpty || decide (0x11B ∈ set) || decide (¬ set.Nodup)) then 2
  else if r < 0x100 then 0
  else if 0x140 ≤ r ∧ r < 0x150 then (if s.chOrd ch then 0 else 4)
  else if 0x200 ≤ r then (if s.chOrd ch then 4 else 0)
  else 4

/-- Applies an enable: EN becomes 1 when every check passes, else REFUSE takes the cause (R202). An enable of an ordered channel with a halted member meets
HALT's other conditions (R483). -/
def State.chTryEnable (s : State) (ch : Nat) : State :=
  let c := s.chRefuse ch
  if c = 0 then (s.emptyChan ch).wr (chanPage ch) R.FAB_CH_LO_EN 1 |>.brakeIfHalt else s.wr (chanPage ch) R.FAB_CH_STAT_REFUSE c

/-- Whether a write of FAB_CH_LO differs from the fields held, EN aside. -/
def State.chDiffers (s : State) (ch data : Nat) : Bool := decide (bits (s.reg (R.FAB_CH_LO_EN.addr (chanPage ch) 0)).toNat 1 25 ≠ bits data 1 25)

/-- The messages of a channel that the hub holds for a cassette are discarded and their credits return (R203, R212, R216). -/
def State.dropHub (s : State) (ch : Nat) : State :=
  (s.hubHold.filter fun m => decide (m.chan = ch)).foldl (fun (t : State) m => t.restoreCredit m)
    { s with hubHold := s.hubHold.filter fun m => decide (m.chan ≠ ch) }

/-- The queues that were taking in a message of a channel go on without it: its slot has been emptied (R203, R212, R218). -/
def State.cutFeeds (s : State) (ch : Nat) : State :=
  { s with queues := s.queues.map fun (q, x) => (q, if x.part.any fun y => decide (y.1 = ch) then { x with part := none, waiting := none } else x) }

/-- A write of FAB_CH_LO for the channel that FAB_CH_IDX selects (R202, R203). -/
def State.writeChLo (s : State) (data : Nat) : State :=
  let ch := s.rd 0x0A0 R.FAB_CH_IDX_IDX
  let p := chanPage ch
  let s := s.jrnHost 0xA0064
  let c := s.chan ch
  if s.chEn ch then
    let s := if s.chDiffers ch data then s.wr p R.FAB_CH_STAT_REFUSE 3 else s
    if bit data 0 then s
    else
      let s := s.wr p R.FAB_CH_LO_EN 0
      let s := (s.cutFeeds ch).dropHub ch
      let s := c.held.foldl (fun (t : State) m => t.refuseMsg m) s
      let s := s.setChan ch { flight := c.flight, draining := true, back := (s.chan ch).owed }
      (s.wakeReceivers ch).flushOutbox
  else
    let s := s.setReg (R.FAB_CH_LO_EN.addr p 0) (BitVec.ofNat 32 (bits data 1 25 * 2))
    if c.draining then s.setChan ch { c with pendEn := bit data 0 }
    else if bit data 0 then s.chTryEnable ch else s

/-- CHANNEL_DRAIN_DONE (R203): the drain completes, what was in flight is gone, and a pending enable is checked and applied (R202). -/
def State.chDrained (s : State) (ch : Nat) : State :=
  let c := s.chan ch
  if c.draining then
    let s := s.emptyChan ch
    if c.pendEn then s.chTryEnable ch else s
  else s

/-- A write of FAB_CH_HI: dropped with REFUSE 3 while the channel is enabled (R202). -/
def State.writeChHi (s : State) (data : Nat) : State :=
  let p := chanPage (s.rd 0x0A0 R.FAB_CH_IDX_IDX)
  if s.chEn (s.rd 0x0A0 R.FAB_CH_IDX_IDX) then s.wr p R.FAB_CH_STAT_REFUSE 3 else s.wr p R.FAB_CH_HI_SLOT (data % 1024)

/-- A write of FAB_SET_MBR for the selected member: dropped with REJECT while an enabled ordered channel uses the set (R202). -/
def State.writeSetMbr (s : State) (data : Nat) : State :=
  let set := s.rd 0x0A0 R.FAB_SET_IDX_SET
  let p := setPage set (s.rd 0x0A0 R.FAB_SET_IDX_MBR)
  let s := if bit data 18 then s.wr p R.FAB_SET_MBR_REJECT 0 else s
  if s.knownChans.any fun ch => s.chEn ch && s.chOrd ch && decide (s.rd (chanPage ch) R.FAB_CH_LO_SET = set) then
    s.wr p R.FAB_SET_MBR_REJECT 1
  else (s.wr p R.FAB_SET_MBR_SENDER (data % 1024)).wr p R.FAB_SET_MBR_VALID (data / 2 ^ 15)

/-- A write of FAB_CMD with GO (R212, R227). -/
def State.fabCmd (s : State) (op ch sender : Nat) : State :=
  let s := s.jrnHost 0xA0050
  let s := ((s.wr 0x0A0 R.FAB_CMD_CHAN ch).wr 0x0A0 R.FAB_CMD_SENDER sender).wr 0x0A0 R.FAB_CMD_OP op
  let valid := s.chOrd ch && decide (sender ∈ s.setSenders (s.rd (chanPage ch) R.FAB_CH_LO_SET))
  if op = 0 then s
  else if !s.chEn ch || (op ≠ 3 && !valid) then s.wr 0x0A0 R.FAB_CMD_REJECT 1
  else if op = 1 then (s.setMember ch sender { s.member ch sender with retired := true }).refresh ch
  else if op = 2 then
    (s.setMember ch sender { s.member ch sender with retired := false, horizon := (s.chan ch).lastDelivered }).refresh ch |>.brakeIfHalt
  else (((s.chan ch).held.foldl (fun (t : State) m => t.freeSlot m) s).dropHub ch |>.cutFeeds ch).refresh ch

/-! ### Commands -/

/-- CH_SEL (R108). -/
def execChSel (cog : CogId) (s : State) : Result :=
  .next (s.onTrigger cog .chSel fun v _ s => (s.setCog cog { s.cog cog with sel := v % 4096 }).accepted cog)

/-- CH_SEND: 1, 2 or 3 words by the width of the move (R108). -/
def execChSend (cog : CogId) (s : State) : Result :=
  .next (s.onTrigger cog .chSend fun v w s => s.cogSend cog (wordsOf w.words v))

/-- CH_SEND4: the three words of ch.o, then the low word of the moved value (R108). -/
def execChSend4 (cog : CogId) (s : State) : Result :=
  .next (s.onTrigger cog .chSend4 fun v _ s => s.cogSend cog (wordsOf 3 ((s.cog cog).get .cho) ++ [v % 2 ^ 14]))

/-- CH_HZN: a token stamped ch.s after earlier stores have left; nothing on a loose channel (R109). -/
def execChHzn (cog : CogId) (s : State) : Result :=
  .next (s.onTrigger cog .chHzn fun _ _ s =>
    let c := s.cog cog
    if !c.sbuf.isEmpty then s.stallCog cog 7
    else match s.cogSender cog with
      | some x => (s.sendToken c.sel x (c.get .chs)).accepted cog
      | none => s.accepted cog)

def execChRecv (cog : CogId) (s : State) : Result := .next (s.receiveOp cog .chRecv)
def execChTry (cog : CogId) (s : State) : Result := .next (s.receiveOp cog .chTry)

def execMessageArrival (chan : Fin 4096) (sender : Fin 1024) (s : State) : Result := .next (s.messageArrival chan sender)

/-- MERGE_DELIVERABLE (R206, R208): a cog that waits for the channel's message takes it. -/
def execMergeDeliverable (chan : Fin 4096) (s : State) : Result :=
  .next (if s.domOn 3 && (s.deliverable chan).isSome then s.wakeReceivers chan else s)

def execCreditReturn (chan : Fin 4096) (sender : Fin 1024) (s : State) : Result := .next (s.creditReturn chan sender)
def execHorizonTokenArrival (chan : Fin 4096) (sender : Fin 1024) (s : State) : Result := .next (s.tokenArrival chan sender)
def execHorizonStall (chan : Fin 4096) (s : State) : Result := .next (s.horizonStall chan)

def execFabCmdRetire (chan : Fin 4096) (sender : Fin 1024) (s : State) : Result := .next (s.hostAt 0x0A0 fun s => s.fabCmd 1 chan sender)
def execFabCmdRestore (chan : Fin 4096) (sender : Fin 1024) (s : State) : Result := .next (s.hostAt 0x0A0 fun s => s.fabCmd 2 chan sender)
def execFabCmdFlush (chan : Fin 4096) (sender : Fin 1024) (s : State) : Result := .next (s.hostAt 0x0A0 fun s => s.fabCmd 3 chan sender)

/-- CHANNEL_ENABLE (R202): FAB_CH_LO written with EN = 1 and these other bits. -/
def execChannelEnable (data : Reg) (s : State) : Result := .next (s.hostAt 0x0A0 fun s => s.writeChLo (data.toNat / 2 * 2 + 1))
/-- CHANNEL_DISABLE (R203): FAB_CH_LO written with EN = 0. -/
def execChannelDisable (data : Reg) (s : State) : Result := .next (s.hostAt 0x0A0 fun s => s.writeChLo (data.toNat / 2 * 2))
def execChannelDrainDone (chan : Fin 4096) (s : State) : Result := .next (s.chDrained chan)
def execSetMemberWrite (data : Reg) (s : State) : Result := .next (s.hostAt 0x0A0 fun s => s.writeSetMbr data.toNat)

end Sys2Proof.Machine
end

