-- ==== Sys2Proof/Machine/Queues.lean ====
section
/-! DEFINITION. The queue bank (R217 to R224, R228, R229). -/

namespace Sys2Proof.Machine

/-- The page and the instance of a queue's registers, the live state of a queue. -/
def qPage (q : Nat) : Nat := 0x0B0 + q / 16
def State.queue (s : State) (q : Nat) : Queue := lookD s.queues q {}
def State.setQueue (s : State) (q : Nat) (x : Queue) : State := { s with queues := put s.queues q x }

/-- A field of a queue's registers. -/
def State.qrd (s : State) (q : Nat) (f : Fld) : Nat := s.rd (qPage q) f (q % 16)
/-- The capacity of a queue in quads. -/
def State.qCap (s : State) (q : Nat) : Nat := 2 ^ s.qrd q R.QCFG_SIZE
/-- Whether a queue is enabled and its fabric on. -/
def State.qOn (s : State) (q : Nat) : Bool := s.domOn 3 && decide (s.qrd q R.QCFG_EN = 1)

/-- The condition of a level source holds: its queue's QTAG.AVAIL is 1 (R402). -/
def State.levelCond (s : State) (n : Nat) : Bool := isLevelSource n && !(s.queue (n - 272)).quads.isEmpty

/-- The level source of a queue follows its condition (R402, R404). -/
def State.qLevel (s : State) (q : Nat) : State := s.levelSource (272 + q) (s.levelCond (272 + q))

/-- A quad closes and enters the queue, or is discarded in the dropping state, which ends with a quad that carries EOP (R218, R223). -/
def State.closeQuad (s : State) (q : Nat) (words : List Nat) (eop tmo : Bool) : State :=
  let x := s.queue q
  let x := { x with opened := [], closeWait := none }
  if x.dropping then s.setQueue q { x with dropping := !eop }
  else
    let d : Quad := { words := (words ++ [0, 0, 0, 0]).take 4, valid := words.length, eop := eop, tmo := tmo, loss := x.lossNext }
    (s.setQueue q { x with quads := x.quads ++ [d], lossNext := false }).qLevel q

/-- Whether a push closes the open quad (R218). -/
def State.qCloses (s : State) (q : Nat) (eop : Bool) : Bool := eop || decide (3 ≤ (s.queue q).opened.length)

/-- Whether a push waits (R219, R224): it would close a quad at full, or it meets a close that waits. -/
def State.qBlocked (s : State) (q : Nat) (eop : Bool) : Bool :=
  let x := s.queue q
  x.closeWait.isSome || (s.qCloses q eop && !x.dropping && decide (s.qCap q ≤ x.quads.length))

/-- A push of a word (R218, R219, R224): `none` while it waits. -/
def State.qTryPush (s : State) (q w : Nat) (eop : Bool) : Option State :=
  if s.qBlocked q eop then none
  else
    let words := (s.queue q).opened ++ [w % 2 ^ 14]
    let t := s.setQueue q { s.queue q with touched := s.tb, opened := words }
    some (if s.qCloses q eop then t.closeQuad q words eop false else t)

/-- The oldest quad leaves (R221). -/
def State.qPop (s : State) (q : Nat) : State :=
  let x := s.queue q
  if x.quads.isEmpty then s
  else (s.setQueue q { x with quads := x.quads.tail, head := (x.head + 1) % s.qCap q, touched := s.tb }).qLevel q

/-- Reads the oldest quad through the detectors of the queue memory (R217, R226, R228). DESIGN CHOICE (log entry 16): an injected
uncorrectable word is the quad's first. -/
def State.qRead (s : State) (q : Nat) : Option Quad × State :=
  let x := s.queue q
  match x.quads with
  | [] => (none, s)
  | d :: ds =>
    if s.injArmed 0x0A1 1 then
      let d := { d with words := 0 :: d.words.tail, ue := true }
      let s := ((s.injTake 0x0A1 1).setQueue q { x with quads := d :: ds }).bump 0x0A1 R.QB_ERR_UE
      let s := (s.capture 0x0A1 R.QB_CAP_VALID R.QB_CAP_OVR).wr 0x0A1 R.QB_CAP_ADDR (4 * (s.qrd q R.QCFG_BASE + x.head))
      (some d, s.pgEvt 0x0A1 0)
    else if s.injArmed 0x0A1 0 then (some d, (s.injTake 0x0A1 0).bump 0x0A1 R.QB_ERR_CE)
    else (some d, s)

/-- Closes the open quad without a push, by the timeout (true) or a flush; at full the close waits (R218, R222). -/
def State.qClose (s : State) (q : Nat) (tmo : Bool) : State :=
  let x := s.queue q
  if x.opened.isEmpty then s
  else if !x.dropping && decide (s.qCap q ≤ x.quads.length) then s.setQueue q { x with closeWait := some (tmo || x.closeWait.getD false) }
  else s.closeQuad q x.opened false tmo

/-- Drops the rest of the packet (R223): neither a push nor a pop, so the timeout runs on (R222). -/
def State.qDrop (s : State) (q : Nat) : State :=
  let x := s.queue q
  let x' := match x.quads.findIdx? (·.eop) with
    | some k => { x with quads := x.quads.drop (k + 1), head := (x.head + k + 1) % s.qCap q }
    | none => { x with quads := [], head := (x.head + x.quads.length) % s.qCap q, opened := [], closeWait := none, dropping := true }
  (s.setQueue q x').qLevel q

/-- The loose channels that feed a queue's input number (0x200 + q, or 0x300 + q for commands), in order of number. -/
def State.feeders (s : State) (r : Nat) : List Nat :=
  s.knownChans.filter fun ch => s.chEn ch && !s.chOrd ch && !s.on (chanPage ch) R.FAB_CH_LO_TAN && s.rd (chanPage ch) R.FAB_CH_LO_RCV = r

/-- The word that a queue's producer has ready: of the message at the head of a loose channel, or of a chain port's buffer (R218, R220):
the word, whether it ends the packet, and the state with the message read. -/
def State.qNext (s : State) (q : Nat) : Option (Nat × Bool) × State :=
  let x := s.queue q
  let k := s.qrd q R.QSRC_KIND
  if k = 1 then
    match x.part with
    | some (ch, n) => match (s.chan ch).held with
      | m :: _ => (some (m.words.getD n 0, n + 1 = m.words.length), s)
      | [] => (none, s.setQueue q { x with part := none })
    | none =>
      match (s.feeders (0x200 + q)).find? fun ch => !(s.chan ch).held.isEmpty with
      | none => (none, s)
      | some ch =>
        let r := s.readSlot ch
        let s := r.2
        match r.1 with
        | some m => (some (m.words.getD 0 0, m.words.length = 1), s.setQueue q { s.queue q with part := some (ch, 0) })
        | none => (none, s)
  else if k = 2 then
    match x.buffer with
    | (w, eop, loss) :: _ => (some (w, eop), if loss then s.setQueue q { x with lossNext := true } else s)
    | [] => (none, s)
  else (none, s)

/-- The producer's word has entered the queue: a loose message's slot is freed after its last word (R224). -/
def State.qTaken (s : State) (q : Nat) : State :=
  let x := s.queue q
  if s.qrd q R.QSRC_KIND = 1 then
    match x.part with
    | some (ch, n) => match (s.chan ch).held with
      | m :: _ =>
        if n + 1 = m.words.length then (s.deliver m).setQueue q { x with part := none }
        else s.setQueue q { x with part := some (ch, n + 1) }
      | [] => s.setQueue q { x with part := none }
    | none => s
  else s.setQueue q { x with buffer := x.buffer.tail }

/-- QUEUE_PUSH (R218, R219): the producer's next word enters, or waits at full. -/
def State.queuePush (s : State) (q : Nat) : State :=
  if !s.qOn q || (s.queue q).waiting.isSome then s
  else
    let next := s.qNext q
    let s := next.2
    match next.1 with
    | none => s
    | some (w, eop) => match s.qTryPush q w eop with
      | some s => s.qTaken q
      | none => s.setQueue q { s.queue q with waiting := some (w, eop) }

/-- QUEUE_PUSH_RESUME (R219, R222): a slot being free, the close or the push that waits completes. -/
def State.queueResume (s : State) (q : Nat) : State :=
  let x := s.queue q
  if !s.qOn q || (decide (s.qCap q ≤ x.quads.length) && !x.dropping) then s
  else match x.closeWait with
    | some tmo => s.closeQuad q x.opened false tmo
    | none => match x.waiting with
      | none => s
      | some (w, eop) => match (s.setQueue q { x with waiting := none }).qTryPush q w eop with
        | some s => s.qTaken q
        | none => s

/-- QUEUE_TIMEOUT (R222); the timer is held while the page is frozen (R495). -/
def State.queueTimeout (s : State) (q : Nat) : State :=
  let x := s.queue q
  let ns := s.qrd q R.QTMO_NS
  if s.qOn q && !s.frozen (qPage q) && decide (ns ≠ 0) && !x.opened.isEmpty && x.closeWait.isNone && decide (x.touched + ns ≤ s.tb) then s.qClose q true else s

/-- A host push (R219, R229). -/
def State.hostPush (s : State) (q w : Nat) (eop : Bool) : State :=
  if !s.qOn q || s.qrd q R.QSRC_KIND ≠ 0 then s
  else (s.qTryPush q w eop).getD (s.bump (qPage q) R.QCNT_HDROP (q % 16))

/-- The KIND of a quad's message (R197). -/
def Quad.kind (d : Quad) : Nat := if d.ue then 0x18 else 0x10 + b2n d.eop + 2 * b2n d.tmo + 4 * b2n d.loss

/-- QUEUE_QUAD_SEND (R221): the oldest quad leaves when its message takes a credit. DEDUCED (log entry 16): a send that fails a check
takes no credit, so the quad stays. -/
def State.quadSend (s : State) (q : Nat) : State :=
  if !s.qOn q || s.qrd q R.QDST_KIND ≠ 1 then s
  else
    let r := s.qRead q
    let s := r.2
    match r.1 with
    | none => s
    | some d =>
      let ch := s.qrd q R.QDST_ID
      match s.trySend ch 0x11B s.now d.kind (d.words.take d.valid) with
      | none => s
      | some t => if (s.sendFails ch 0x11B s.now).isSome then t else t.qPop q

/-- A command message to 0x300 + q is consumed and acts; one with a value that names no command is consumed and ignored (R221). -/
def State.queueCmd (s : State) (q w0 : Nat) (f : State → State) : State :=
  let takes := fun (w : Nat) => decide (w = w0) || !([1, 2].contains w)
  match (s.feeders (0x300 + q)).find? fun ch => match (s.chan ch).held with | m :: _ => takes (m.words.headD 0) | [] => false with
  | none => s
  | some ch =>
    if s.domOn 3 then
      let taken := s.takeMsg ch
      if taken.1.any fun m => decide (m.words.headD 0 = w0) then f taken.2 else taken.2
    else s

/-- A write of QCFG (R229): EN = 1 empties and enables the queue unless it is refused; BASE and SIZE do not change while EN is 1. -/
def State.writeQcfg (s : State) (q data : Nat) : State :=
  let p := qPage q
  let k := q % 16
  let was := s.qrd q R.QCFG_EN = 1
  let s := if was then s else (s.wr p R.QCFG_BASE data k).wr p R.QCFG_SIZE (data / 2 ^ 16) k
  if bit data 31 then
    let b := s.qrd q R.QCFG_BASE
    let clash := (List.range 256).any fun r => decide (r ≠ q) && decide (s.qrd r R.QCFG_EN = 1) &&
      decide (b < s.qrd r R.QCFG_BASE + s.qCap r ∧ s.qrd r R.QCFG_BASE < b + s.qCap q)
    if s.qrd q R.QCFG_SIZE < 2 || clash then s
    else ((s.setQueue q { buffer := (s.queue q).buffer, touched := s.tb }).qLevel q).wr p R.QCFG_EN 1 k
  else s.wr p R.QCFG_EN 0 k

/-- A write of QCMD (R221, R223, R224). DESIGN CHOICE (log entry 110): on a queue with EN = 0 it does nothing. -/
def State.writeQcmd (s : State) (q data : Nat) : State :=
  if s.qrd q R.QCFG_EN = 0 then s
  else
    let s := if bit data 1 then s.qDrop q else if bit data 0 then s.qPop q else s
    if bit data 2 then s.qClose q false else s

/-! ### Commands -/

def execQueuePush (q : Fin 256) (s : State) : Result := .next (s.queuePush q)
def execQueuePushResume (q : Fin 256) (s : State) : Result := .next (s.queueResume q)
def execQueueTimeout (q : Fin 256) (s : State) : Result := .next (s.queueTimeout q)
def execQcmdPop (q : Fin 256) (s : State) : Result := .next (s.hostAt (qPage q) fun s => s.writeQcmd q 1)
def execQcmdDrop (q : Fin 256) (s : State) : Result := .next (s.hostAt (qPage q) fun s => s.writeQcmd q 2)
def execQcmdFlush (q : Fin 256) (s : State) : Result := .next (s.hostAt (qPage q) fun s => s.writeQcmd q 4)
def execQpush (q : Fin 256) (word : Word) (eop : Bool) (s : State) : Result :=
  .next (s.hostAt (qPage q) fun s => s.hostPush q word.toNat eop)
def execQueueQuadSend (q : Fin 256) (s : State) : Result := .next (s.quadSend q)
def execQueueCmdDrop (q : Fin 256) (s : State) : Result := .next (s.queueCmd q 1 fun s => if s.qOn q then s.qDrop q else s)
def execQueueCmdFlush (q : Fin 256) (s : State) : Result := .next (s.queueCmd q 2 fun s => if s.qOn q then s.qClose q false else s)
/-- QUEUE_ENABLE (R229): QCFG written with EN = 1 and these other bits. -/
def execQueueEnable (q : Fin 256) (data : Reg) (s : State) : Result :=
  .next (s.hostAt (qPage q) fun s => s.writeQcfg q (setBits data.toNat 31 1 1))

end Sys2Proof.Machine
end

