-- ==== Sys2Proof/Machine/CogUnits.lean ====
section
/-! DEFINITION. The meanings of the self-timed units' triggers (chapters 02, 03 and 05): alu, sh, mac, div, dig, ag, ld, st, ctl and
lp, with the answers, drains and results that complete them. -/

namespace Sys2Proof.Machine

/-! ### The bundle itself -/

/-- BUNDLE (R37). -/
def execBundle (cog : CogId) (s : State) : Result := .next (s.issue cog)

/-! ### alu and sh (R94, R95) -/

/-- A single-bundle unit gives its result and its flags to the bundle, which writes them in step 7 (R37). -/
def State.yieldResult (s : State) (i : Nat) (p : Port) (r : Nat) (fw : FlagWrite) : State :=
  let c := s.cog i
  (s.setCog i { c with cur := c.cur.map fun k => { k with results := k.results ++ [(p, BitVec.ofNat 42 r)] } }).accepted i fw

/-- An ALU operation: the result for alu.r, sign-extended, and its flags (R88, R91). -/
def State.aluOp (s : State) (i : Nat) (u : Bool) (op : AluOp) : State :=
  s.onTrigger i (.alu u op) fun v w s =>
    let c := s.cog i
    let res := aluCompute op w.bits (c.get (if u then Port.alu1o else Port.alu0o)) v (bit c.flags.toNat flagC) (bit c.flags.toNat flagSAT)
    let r := res.1
    let fw := res.2
    s.yieldResult i (if u then Port.alu1r else Port.alu0r) (sext r w) fw

def execAluAdd (cog : CogId) (u : Bool) (s : State) : Result := .next (s.aluOp cog u .add)
def execAluAdc (cog : CogId) (u : Bool) (s : State) : Result := .next (s.aluOp cog u .adc)
def execAluSub (cog : CogId) (u : Bool) (s : State) : Result := .next (s.aluOp cog u .sub)
def execAluAnd (cog : CogId) (u : Bool) (s : State) : Result := .next (s.aluOp cog u .and)
def execAluOr (cog : CogId) (u : Bool) (s : State) : Result := .next (s.aluOp cog u .or)
def execAluXor (cog : CogId) (u : Bool) (s : State) : Result := .next (s.aluOp cog u .xor)
def execAluLim (cog : CogId) (u : Bool) (s : State) : Result := .next (s.aluOp cog u .lim)

/-- A shift of sh.o by the moved count: the result for sh.r (R95). -/
def State.shiftOp (s : State) (i : Nat) (t : Trigger) (op : ShiftOp) : State :=
  s.onTrigger i t fun v w s =>
    let c := s.cog i
    let res := shiftCompute op w.bits (c.get Port.sho) (shiftCount w v)
    let r := res.1
    let fw := res.2
    s.yieldResult i Port.shr (sext r w) fw

def execShShl (cog : CogId) (s : State) : Result := .next (s.shiftOp cog .shl .shl)
def execShShr (cog : CogId) (s : State) : Result := .next (s.shiftOp cog .shr .shr)
def execShSar (cog : CogId) (s : State) : Result := .next (s.shiftOp cog .sar .sar)

/-! ### mac (R96 to R98) -/

/-- A mac trigger that changes the accumulator: `f` gives the new one from the old, the product and the moved value (R97). -/
def State.macOp (s : State) (i : Nat) (t : Trigger) (f : Int → Int → Int → Int) : State :=
  s.onTrigger i t fun v w s =>
    let c := s.cog i
    let p := macProduct (c.get Port.maco) v (bit (c.get Port.macm) 1)
    let a := f (signed c.acc.toNat 42) p (signed v w.bits)
    (s.setCog i { c with acc := BitVec.ofNat 42 (wrap a 42) }).accepted i

def execMacMul (cog : CogId) (s : State) : Result := .next (s.macOp cog .macMul fun _ p _ => p)
def execMacMac (cog : CogId) (s : State) : Result := .next (s.macOp cog .macMac fun a p _ => a + p)
def execMacMsu (cog : CogId) (s : State) : Result := .next (s.macOp cog .macMsu fun a p _ => a - p)
def execMacLd (cog : CogId) (s : State) : Result := .next (s.macOp cog .macLd fun _ _ v => v)

/-- A long-latency unit accepts an operation: its registers' scoreboard bits are set until LONG_LATENCY_RESULT writes them (R44). -/
def State.longStart (s : State) (i : Nat) (u : LongUnit) (dests : List (Nat × Nat)) (fw : FlagWrite) : State :=
  let c := s.cog i
  let op : LongOp := ⟨u, dests.map fun (r, v) => (r, BitVec.ofNat 14 v), BitVec.ofNat 14 fw.mask, BitVec.ofNat 14 fw.val, true⟩
  let sb := dests.foldl (fun (m : Nat) (r, _) => setBits m r 1 1) c.sb.toNat
  (s.setCog i { c with long := c.long ++ [op], sb := BitVec.ofNat 32 sb }).accepted i

/-- MAC_RD: the scaled, rounded, saturated accumulator to g(mac.d) (R98). -/
def execMacRd (cog : CogId) (s : State) : Result :=
  .next (s.onTrigger cog .macRd fun v w s =>
    let c := s.cog cog
    let res := macRead c.acc.toNat (bits v 0 6) w.bits (bit (c.get Port.macm) 0) (bit c.flags.toNat flagSAT)
    let r := res.1
    let fw := res.2
    s.longStart cog .mac ((c.longDests .macRd w).zip (wordsOf w.words r)) fw)

/-! ### div and dig (R99 to R104) -/

/-- A division of div.o by the moved value: quotient and remainder to the registers of R99. -/
def State.divOp (s : State) (i : Nat) (t : Trigger) (sgn : Bool) : State :=
  s.onTrigger i t fun v w s =>
    let c := s.cog i
    let res := divCompute sgn w.bits (c.get Port.divo) v (bit c.flags.toNat flagSAT)
    let q := res.1
    let r := res.2.1
    let fw := res.2.2
    s.longStart i .div ((c.longDests t w).zip (wordsOf w.words q ++ wordsOf w.words r)) fw

def execDivS (cog : CogId) (s : State) : Result := .next (s.divOp cog .divS true)
def execDivU (cog : CogId) (s : State) : Result := .next (s.divOp cog .divU false)

/-- A digit operation with one result word (R103): `f` gives it and D from dig.o, the moved value and flag D. -/
def State.digOp (s : State) (i : Nat) (t : Trigger) (f : Nat → Nat → Nat → Nat × Bool) : State :=
  s.onTrigger i t fun v w s =>
    let c := s.cog i
    let res := f (c.get Port.digo % 2 ^ 14) (v % 2 ^ 14) (b2n (bit c.flags.toNat flagD))
    let r := res.1
    let d := res.2
    s.longStart i .dig ((c.longDests t w).zip [r]) (digFlags r d)

def execDigAdd (cog : CogId) (s : State) : Result := .next (s.digOp cog .digAdd fun o v d => digSum o v d o)
def execDigSub (cog : CogId) (s : State) : Result := .next (s.digOp cog .digSub fun o v d => digDiff o v d o)
def execDigAdj (cog : CogId) (s : State) : Result :=
  .next (s.digOp cog .digAdj fun o v _ => digSum (wrap ((v : Int) - (o % 4096 : Nat)) 12) o 0 o)

/-- DIG_CVT: two digit words of the moved value (R104). -/
def execDigCvt (cog : CogId) (s : State) : Result :=
  .next (s.onTrigger cog .digCvt fun v w s =>
    let c := s.cog cog
    let res := digConvert v w.bits
    let lo := res.1
    let hi := res.2.1
    let fw := res.2.2
    s.longStart cog .dig ((c.longDests .digCvt w).zip [lo, hi]) fw)

/-- LONG_LATENCY_RESULT (R44). -/
def execLongLatencyResult (cog : CogId) (unit : LongUnit) (s : State) : Result :=
  .next (if s.domOn (64 + cog) then s.longResult cog unit else s)

/-! ### Address generators, loads and stores (R47 to R61, R105 to R107, R158) -/

/-- AG_SET (R105). -/
def execAgSet (cog : CogId) (unit : Bool) (s : State) : Result :=
  .next (s.onTrigger cog (.agSet unit) fun v w s => (s.setCog cog ((s.cog cog).setAg unit (Ag.load v w))).accepted cog)

/-- AG_IDX (R105). -/
def execAgIdx (cog : CogId) (unit : Bool) (s : State) : Result :=
  .next (s.onTrigger cog (.agIdx unit) fun v w s =>
    let c := s.cog cog
    (s.setCog cog (c.access ⟨.agIdx unit, BitVec.ofNat 42 v, w⟩).2).accepted cog)

/-- A load trigger: the load starts, and a generator steps (R48, R106). -/
def State.loadOp (s : State) (i : Nat) (t : Trigger) : State :=
  s.onTrigger i t fun v w s =>
    match (s.cog i).access ⟨t, BitVec.ofNat 42 v, w⟩ with
    | (some (_, a, aw), c) => ((s.setCog i c).startLoad i a aw).accepted i
    | (none, _) => s

def execLdW (cog : CogId) (s : State) : Result := .next (s.loadOp cog .ldW)
def execLdL (cog : CogId) (s : State) : Result := .next (s.loadOp cog .ldL)
def execLdT (cog : CogId) (s : State) : Result := .next (s.loadOp cog .ldT)
def execLdAg (cog : CogId) (unit : Bool) (s : State) : Result := .next (s.loadOp cog (.ldAg unit))

/-- LD_SET: the moved value into ld.r (R47). -/
def execLdSet (cog : CogId) (s : State) : Result :=
  .next (s.onTrigger cog .ldSet fun v w s => (s.setCog cog ((s.cog cog).set Port.ldr (sext v w))).accepted cog)

/-- LOAD_ANSWER (R49). -/
def execLoadAnswer (cog : CogId) (s : State) : Result := .next (if s.domOn (64 + cog) then (s.answerLoad cog).settle else s)

/-- The conditional store of a locked sequence (R158): made only if the reservation is held on its lowest word; Z tells, a refusal is
counted, and the sequence ends with the bundle. -/
def State.conditionalStore (s : State) (i a : Nat) (ws : List Word) (l : LockSeq) : State :=
  let made := decide (l.res = some a)
  let s := if made then s.writeWords i a ws else s.bump (cogPage i) R.COG_LOCK_CNT_FAIL
  let c := s.cog i
  let s := s.setCog i { c with cur := c.cur.map fun k => { k with lockEnd := true } }
  s.accepted i (({} : FlagWrite).put flagZ made)

/-- A store trigger (R57, R58): into the store buffer, or waiting for a free entry; the first store of a locked sequence to shared
data is its conditional store, which waits for every earlier store to leave (R158), and for an earlier load of its words to read them. The bundle
after a store into program MRAM is fetched first (R73). -/
def State.storeOp (s : State) (i : Nat) (t : Trigger) : State :=
  s.onTrigger i t fun v w s =>
    match (s.cog i).access ⟨t, BitVec.ofNat 42 v, w⟩ with
    | (some (_, a, aw), c) =>
      let ws := (wordsOf aw.words (c.get Port.sto)).map (BitVec.ofNat 14)
      match c.sequence, spaceOf a with
      | some l, .shared =>
        if c.sbuf.isEmpty && !c.readsFirst a aw.words then (s.setCog i c).conditionalStore i a ws l else s.stallCog i 7
      | _, .prog =>
        if 4 ≤ c.sbuf.length then s.stallCog i 3
        else (((s.setCog i c).pushStore i a ws).fetchAhead i ((c.cur.map (·.next)).getD 0)).accepted i
      | _, _ => if 4 ≤ c.sbuf.length then s.stallCog i 3 else ((s.setCog i c).pushStore i a ws).accepted i
    | (none, _) => s

def execStW (cog : CogId) (s : State) : Result := .next (s.storeOp cog .stW)
def execStL (cog : CogId) (s : State) : Result := .next (s.storeOp cog .stL)
def execStT (cog : CogId) (s : State) : Result := .next (s.storeOp cog .stT)
def execStAg (cog : CogId) (unit : Bool) (s : State) : Result := .next (s.storeOp cog (.stAg unit))

/-- STORE_BUFFER_DRAIN (R57): a bundle that fences completes with it. -/
def execStoreBufferDrain (cog : CogId) (s : State) : Result := .next (if s.domOn (64 + cog) then (s.drainStore cog).tryFinish cog else s)

/-! ### ctl (R60, R70 to R72, R80 to R82, R152, R153, R156) -/

/-- The target of a transfer move (R70). DESIGN CHOICE (log entry 108): a triple acts as a long does, an absolute address in bits [18:0]. -/
def transferTarget (pc v : Nat) (w : Width) : Nat :=
  if w = .word then wrap ((pc : Int) + signed v 14) 19 else v % 2 ^ 19

/-- The bundle in progress takes a transfer. -/
def Cog.aim (c : Cog) (target : Nat) : Cog := { c with cur := c.cur.map fun k => { k with target := some target } }

/-- BR (R70). -/
def execBr (cog : CogId) (s : State) : Result :=
  .next (s.onTrigger cog .br fun v w s =>
    let c := s.cog cog
    (s.setCog cog (c.aim (transferTarget c.pc v w))).accepted cog)

/-- CALL: lowers ctl.sp by 2, pushes the return address as two word stores, and transfers (R80). -/
def execCall (cog : CogId) (s : State) : Result :=
  .next (s.onTrigger cog .call fun v w s =>
    let c := s.cog cog
    if 2 < c.sbuf.length then s.stallCog cog 3
    else
      let sp := wrap ((c.get Port.sp : Int) - 2) 14
      let ret := (c.cur.map (·.next)).getD 0
      let c := (c.set Port.sp sp).aim (transferTarget c.pc v w)
      let c := { c with sbuf := c.sbuf ++ [⟨sp, [BitVec.ofNat 14 ret]⟩, ⟨(sp + 1) % 16384, [BitVec.ofNat 14 (ret / 2 ^ 14)]⟩] }
      (s.setCog cog c).accepted cog)

/-- A stack word that ctl.t.ret or lp.t.rest reads is uncorrectable: vector 3 in place of the bundle, with the word's address (DEDUCED, log
entry 13). -/
def State.stackError (s : State) (i cause addr : Nat) : State :=
  let c := s.cog i
  (s.setCog i { c with todo := [], cur := none }).trapCog i { vec := 3, cause := cause, info := addr, pc := c.pc, ret := c.pc }

/-- RET: a call return raises ctl.sp by 2; an exception return gives its frame to the end of the bundle, which unstacks it or tail-chains (R81, R152,
R153). -/
def execRet (cog : CogId) (s : State) : Result :=
  .next (s.onTrigger cog .ret fun _ _ s =>
    let sp := (s.cog cog).get Port.sp
    let r1 := s.readStack cog sp 2
    let hi := r1.1.getD 1 0
    let r2 := if bit hi 13 then r1.2.2.readStack cog (sp + 2) 1 else ([], none, r1.2.2)
    let target := r1.1.getD 0 0 + hi % 32 * 2 ^ 14
    let s := r2.2.2
    let c := s.cog cog
    match r1.2.1 <|> r2.2.1 with
    | some (k, a) => s.stackError cog k a
    | none =>
      if bit hi 13 then
        (s.setCog cog { c with cur := c.cur.map fun k => { k with exret := some (target, BitVec.ofNat 14 (r2.1.getD 0 0)) } }).accepted cog
      else (s.setCog cog ((c.set Port.sp ((sp + 2) % 16384)).aim target)).accepted cog)

/-- A fencing trigger is accepted once the stores before it have left; the bundle completes with the store buffer empty, of a store in a higher slot
too (R60). `f` marks the bundle. -/
def State.fenceOp (s : State) (i : Nat) (t : Trigger) (f : Current → Current) : State :=
  s.onTrigger i t fun _ _ s =>
    let c := s.cog i
    if c.sbuf.isEmpty then (s.setCog i { c with cur := c.cur.map f }).accepted i else s.stallCog i 7

/-- FENCE (R60). -/
def execFence (cog : CogId) (s : State) : Result := .next (s.fenceOp cog .fence fun k => { k with fence := true })

/-- FSYNC: as a fence, and the completed bundle leaves the line buffer and the target cache empty (R72). -/
def execFsync (cog : CogId) (s : State) : Result := .next (s.fenceOp cog .fsync fun k => { k with fence := true, fsync := true })

/-- LOCK: begins a locked sequence of 1 to 16 bundles (R156). -/
def execLock (cog : CogId) (s : State) : Result :=
  .next (s.onTrigger cog .lock fun v _ s =>
    let c := s.cog cog
    let n := bits v 0 5
    let l : LockSeq := { limit := if n = 0 ∨ 16 < n then 16 else n, done := 0, start := c.pc }
    (s.setCog cog { c with lock := some l, cur := c.cur.map fun k => { k with locking := true } }).accepted cog)

/-! ### lp (R75, R77, R79) -/

/-- LP_LOOP: a new innermost level, or with a count of zero the skip of the body (R75). -/
def execLpLoop (cog : CogId) (s : State) : Result :=
  .next (s.onTrigger cog .lpLoop fun v _ s =>
    let c := s.cog cog
    let start := (c.cur.map (·.next)).getD 0
    let last := (start + v % 2 ^ 14) % 0x80000
    let n := c.get Port.lpc
    if n = 0 then
      (s.setCog cog { c with cur := c.cur.map fun k => { k with skip := some ((last + s.lengthAt cog last) % 0x80000) } }).accepted cog
    else (s.setCog cog { c with loops := c.loops ++ [⟨start, last, n⟩] }).accepted cog)

/-- LP_EXIT: the innermost level ends at once (R77). -/
def execLpExit (cog : CogId) (s : State) : Result :=
  .next (s.onTrigger cog .lpExit fun _ _ s =>
    let c := s.cog cog
    (s.setCog cog { c with loops := c.loops.dropLast }).accepted cog)

/-- The 25 words of a saved loop state (R79). -/
def loopWords (ls : List Loop) : List Nat :=
  ls.length :: (List.range 4).flatMap fun k =>
    match ls[k]? with
    | some l => [l.start % 2 ^ 14, l.start / 2 ^ 14, l.last % 2 ^ 14, l.last / 2 ^ 14, l.count % 2 ^ 14, l.count / 2 ^ 14]
    | none => [0, 0, 0, 0, 0, 0]

/-- The loop levels of 25 saved words (R79): a depth of 5 to 7 is installed as 4. -/
def wordsLoops (ws : List Nat) : List Loop :=
  (List.range (min (ws.getD 0 0 % 8) 4)).map fun k =>
    let f := fun j => ws.getD (1 + 6 * k + j) 0
    ⟨f 0 + f 1 % 32 * 2 ^ 14, f 2 + f 3 % 32 * 2 ^ 14, f 4 + f 5 * 2 ^ 14⟩

/-- The words of a saved loop state enter the store buffer in order, each as an entry is free, the oldest entry leaving where its store accepts it
(R57, R79). -/
def State.saveWords (s : State) (i a : Nat) (ws : List Nat) : State :=
  ws.foldl (fun (t : State) x =>
    let t := if 4 ≤ (t.cog i).sbuf.length then t.drainStore i else t
    let c := t.cog i
    if 4 ≤ c.sbuf.length then t
    else
      let n := (c.cur.map (·.saved)).getD 0
      t.setCog i { c with sbuf := c.sbuf ++ [⟨(a + n) % 16384, [BitVec.ofNat 14 x]⟩], cur := c.cur.map fun k => { k with saved := n + 1 } }) s

/-- LP_SAVE: 25 words through the store buffer (R79); the bundle waits while an entry is not free. -/
def execLpSave (cog : CogId) (s : State) : Result :=
  .next (s.onTrigger cog .lpSave fun v _ s =>
    let saved := fun (s : State) => (((s.cog cog).cur.map (·.saved)).getD 0)
    let s := s.saveWords cog v ((loopWords (s.cog cog).loops).drop (saved s))
    if saved s < 25 then s.stallCog cog 3 else s.accepted cog)

/-- LP_REST: reads the same layout and installs it (R79). -/
def execLpRest (cog : CogId) (s : State) : Result :=
  .next (s.onTrigger cog .lpRest fun v _ s =>
    let r := s.readStack cog v 25
    let s := r.2.2
    match r.2.1 with
    | some (k, a) => s.stackError cog k a
    | none => (s.setCog cog { s.cog cog with loops := wordsLoops r.1 }).accepted cog)

/-! ### Fetch, entries and locks -/

/-- LINE_FETCH: the demanded bytes arrive and the bundle issues (R67). -/
def execLineFetch (cog : CogId) (s : State) : Result :=
  .next (if s.cogRuns cog && (decide ((s.cog cog).run = .issuing)) then (s.fetchLine cog).issue cog else s)

/-- PREFETCH (R65). -/
def execPrefetch (cog : CogId) (s : State) : Result :=
  .next (if s.cogRuns cog && (decide ((s.cog cog).run = .issuing)) then s.prefetch cog else s)

/-- EXCEPTION_ENTRY (R149). -/
def execExceptionEntry (cog : CogId) (s : State) : Result := .next (s.exceptionEntry cog)

/-- EVENT_ENTRY (R149). -/
def execEventEntry (cog : CogId) (s : State) : Result := .next (s.eventEntry cog)

/-- LOCK_LIMIT_TIMEOUT: n bundles have completed without a conditional store (R160); the last of them raises the trap (R145). A trap that
already waits is taken instead. -/
def execLockLimitTimeout (cog : CogId) (s : State) : Result :=
  .next (
    let c := s.cog cog
    match c.lock with
    | some l =>
      if l.limit ≤ l.done ∧ c.atBoundary ∧ c.trap.isNone ∧ c.run = .issuing then
        (s.setCog cog { c with lock := none }).trapCog cog { vec := 10, cause := 1, info := l.start, pc := l.last, ret := c.pc }
      else s
    | none => s)

/-- LOCK_STALL_TIMEOUT: a bundle of a locked sequence has stalled for more than 4 µs with no halt pending; vector 10 with cause 2
follows when it completes (R160). -/
def execLockStallTimeout (cog : CogId) (s : State) : Result :=
  .next (
    let c := s.cog cog
    match c.sequence, c.stall with
    | some l, some (_, since) =>
      if since + 4000 < s.tb ∧ c.haltReq.isNone ∧ !c.todo.isEmpty ∧ !l.late then s.setCog cog { c with lock := some { l with late := true } } else s
    | _, _ => s)

end Sys2Proof.Machine
end

