-- ==== Sys2Proof/Machine/Stores.lean ====
section
/-! DEFINITION. The stores (chapter 06): host accesses through BAR2, write-back of corrected words, and scrub. -/

namespace Sys2Proof.Machine

/-! ### Cam table regions (R178, R184) -/

/-- The page of a cam table's descriptor. -/
def tablePage (t : Nat) : Nat := 0x14000 + t

/-- The span of a table, 2, 4 or 8, by the code of CAM_TBL_A.SPAN. -/
def spanOf (code : Nat) : Nat := if code = 0 then 2 else if code = 1 then 4 else 8

/-- The byte offset of a table's region within its banks: OFS in units of 32 bytes (R178, R262). -/
def State.tblOfs (s : State) (t : Nat) : Nat := 32 * s.rd (tablePage t) R.CAM_TBL_A_OFS
def State.tblPoints (s : State) (t : Nat) : Nat := s.rd (tablePage t) R.CAM_TBL_B_POINTS
def State.tblSpan (s : State) (t : Nat) : Nat := spanOf (s.rd (tablePage t) R.CAM_TBL_A_SPAN)
def State.tblFirst (s : State) (t : Nat) : Nat := s.rd (tablePage t) R.CAM_TBL_A_FIRST
def State.tblEn (s : State) (t : Nat) : Bool := s.on (tablePage t) R.CAM_TBL_A_EN

/-- The bytes of a region: 16 + 12P rounded up to a multiple of 32 (R178). -/
def regionBytes (points : Nat) : Nat := (16 + 12 * points + 31) / 32 * 32

/-- The bank of copy j of a table (R178). -/
def State.copyBank (s : State) (t j : Nat) : Nat := (s.tblFirst t + j) % 8

/-- The BAR2 address of copy j of a table. -/
def State.copyBase (s : State) (t j : Nat) : Nat := camBase (s.copyBank t j) + s.tblOfs t

/-- The tables whose descriptor has been written: only these can be enabled. -/
def State.knownTables (s : State) : List Nat :=
  (s.regs.filter fun c => decide (tablePage 0 * 4096 ≤ c.1 ∧ c.1 < tablePage 1024 * 4096 ∧ c.1 % 4096 = R.CAM_TBL_A_EN.off)).map
    fun c => c.1 / 4096 - tablePage 0

/-- The enabled tables. -/
def State.enabledTables (s : State) : List Nat := s.knownTables.filter fun t => s.tblEn t

/-- Whether a table has a copy in a bank. -/
def State.usesBank (s : State) (t b : Nat) : Bool := (List.range (s.tblSpan t)).any fun j => s.copyBank t j = b

/-- Whether a byte of a cam bank lies in a region of an enabled table (R184). -/
def State.inLiveRegion (s : State) (b a : Nat) : Bool :=
  s.enabledTables.any fun t => s.usesBank t b && decide (s.tblOfs t ≤ a ∧ a < s.tblOfs t + regionBytes (s.tblPoints t))

/-! ### Writes -/

/-- The detectors of a vision line buffer (R324, R328). -/
def visEcc (n : Nat) : EccUnit := ⟨0x0E3 + 4 * n, 0, 1, R.VIS_LB_ERR_CE, R.VIS_LB_ERR_UE⟩

/-- A read of a word of a vision line buffer (R307, R328); reserved words read 0. -/
def State.readVis (s : State) (n a : Nat) : Ecc × Word × State :=
  if 0x8400 ≤ a ∧ a < 0x20000 then (.good, 0, s)
  else
    let ba := visBase n + 2 * a
    let r := s.eccRead (visEcc n) ba
    let s' := r.2.2
    if r.1 = .uncorrectable then
      (.uncorrectable, s.word ba, ((s'.capture (0x0E3 + 4 * n) R.VIS_LB_CAP_VALID R.VIS_LB_CAP_OVR).wr (0x0E3 + 4 * n) R.VIS_LB_CAP_ADDR a))
    else (r.1, s.word ba, if r.1 = .corrected ∧ !r.2.1 then { s' with writeBacks := s'.writeBacks ++ [ba] } else s')

/-- Reads the word of an SRAM window through its detectors: what the read met, the word, and the state. -/
def State.readWindowWord (s : State) : Window → Ecc × Word × State
  | .loc cog a => s.readLocal cog (a / 2)
  | .shared c a => s.readShared c (a / 2)
  | .vis n a => s.readVis n (a / 2)
  | _ => (.good, 0, s)

/-- The counters of a host write that sets container bits [15:14] (R7), and of a merging write dropped on an uncorrectable word
(R173). DESIGN CHOICE (log entry 96): a vision pipeline's page has no field for the first, so its page header's error counter takes it. -/
def State.hostWordCount (s : State) (w : Window) (part : Bool) : State :=
  match w with
  | .loc cog _ => s.bump (cogPage cog) (if part then R.COG_LM_HOST_PART_UE else R.COG_LM_HOST_HI_BITS)
  | .shared c _ => s.bump (casPage c) (if part then R.CAS_ST_HOST_PART_UE else R.CAS_ST_HOST_HI_BITS)
  | .vis n _ => if part then s else s.pgErr (0x0E3 + 4 * n)
  | _ => s

/-- A host write of one container: the enabled bytes merge with the stored word in one access (R7, R169, R173). `a` is the
container's BAR2 address; `lo` and `hi` are its bytes where they are enabled. -/
def State.writeContainer (s : State) (a : Nat) (lo hi : Option Byte) : State :=
  let w := windowOf a
  let s := match hi with
    | some h => if 64 ≤ h.toNat then s.hostWordCount w false else s
    | none => s
  let hi6 := fun (h : Byte) => h.toNat % 64
  let store := fun (s : State) (v : Nat) =>
    let s := (s.setWord a (BitVec.ofNat 14 v)).eccFix a
    match w with
    | .shared c o => s.dropReservations c (0x100000 + o / 2) 1 none
    | _ => s
  match w, lo, hi with
  | .vis _ o, _, _ =>
    if 0x8400 ≤ o / 2 ∧ o / 2 < 0x20000 then s
    else
      let old := (s.word a).toNat
      store s ((lo.map (·.toNat)).getD (old % 256) + 256 * (hi.map hi6).getD (old / 256))
  | _, some l, some h => store s (l.toNat + 256 * hi6 h)
  | _, none, none => s
  | _, _, _ =>
    let r := s.readWindowWord w
    let old := r.2.1
    let s' := r.2.2
    if r.1 = .uncorrectable then s'.hostWordCount w true
    else
      store s' ((lo.map (·.toNat)).getD (old.toNat % 256) + 256 * (hi.map hi6).getD (old.toNat / 256))

/-- The containers, in ascending order, that a list of enabled bytes touches. -/
def containersOf (xs : List (Nat × Byte)) : List Nat := sortNat (xs.map fun x => x.1 / 2 * 2).dedup

/-- The byte that a list of enabled bytes has for an address. -/
def byteFor (xs : List (Nat × Byte)) (a : Nat) : Option Byte := (xs.find? fun x => x.1 = a).map (·.2)

/-! ### The boot record (R505, R506, R508) -/

/-- The BAR2 address of the boot record. -/
def bootRecord : Nat := 0x2000000 + 0x7FE00

/-- Byte, and little-endian word, of the record at an offset. -/
def State.recByte (s : State) (o : Nat) : Nat := (s.byte (bootRecord + o)).toNat
def State.recWord (s : State) (o n : Nat) : Nat := leNat (s.bytes (bootRecord + o) n)

/-- Region j: its cassette, offset and length. -/
def State.bootRegion (s : State) (j : Nat) : Nat × Nat × Nat :=
  let e := 48 + 8 * j
  (s.recByte e, 32 * s.recWord (e + 2) 2, s.recWord (e + 4) 4)

/-- Whether a region is refused: its cassette or length is none that the layout allows, it lies partly outside its cassette's program MRAM, or it
covers the record. -/
def regionBad (r : Nat × Nat × Nat) : Bool :=
  decide (16 ≤ r.1 ∨ r.2.2 = 0 ∨ 0x80000 < r.2.1 + r.2.2 ∨ (r.1 = 0 ∧ 0x7FE00 < r.2.1 + r.2.2))

/-- The regions that the record counts, and those of them that lie where a region may. -/
def State.bootAreas (s : State) : List (Nat × Nat × Nat) := (List.range (min 16 (s.recByte 6))).map s.bootRegion
def State.goodAreas (s : State) : List (Nat × Nat × Nat) := s.bootAreas.filter fun r => !regionBad r

/-- Whether the boot engine's check guards an address against host and mover writes (R508): the 304 bytes of the record and its regions, in steps 4 to 6. -/
def State.bootGuards (s : State) (a : Nat) : Bool :=
  (match s.boot with | .verify _ => true | _ => false) &&
  (decide (bootRecord ≤ a ∧ a < bootRecord + 304) || s.goodAreas.any fun r => decide (progBase r.1 + r.2.1 ≤ a ∧ a < progBase r.1 + r.2.1 + r.2.2))

/-- Whether a write of a byte through BAR2 is dropped: the boot engine checks it, its store is off, or it lies in a region of an enabled table (R170, R184, R508). -/
def State.bar2Drops (s : State) (a : Nat) : Bool :=
  s.bootGuards a || !s.windowOn (windowOf a) || (match windowOf a with | .cam b o => s.inLiveRegion b o | _ => false)

/-- A write access through BAR2 of the enabled bytes (R169, R170, R184, R508), by the host or a mover. Bytes of an unmapped address, or of
a store that is off, are dropped, and the system error log records the first; so are bytes that the boot engine is checking. -/
def State.bar2Put (s : State) (xs : List (Nat × Byte)) : State :=
  let s := match xs.find? fun x => s.bootGuards x.1 with | some x => s.logErr x.1 5 | none => s
  let xs := xs.filter fun x => !s.bootGuards x.1
  let dead := xs.filter fun x => !s.windowOn (windowOf x.1)
  let live := xs.filter fun x => s.windowOn (windowOf x.1)
  let s := match dead with | x :: _ => s.logErr x.1 2 | [] => s
  let inCam := fun (x : Nat × Byte) => match windowOf x.1 with | .cam _ _ => true | _ => false
  let inProg := fun (x : Nat × Byte) => match windowOf x.1 with | .prog _ _ => true | _ => false
  let barred := fun (x : Nat × Byte) => match windowOf x.1 with | .cam b a => s.inLiveRegion b a | _ => false
  let s' := if live.any barred then s.bump 0x07F R.CAM_HOST_LIVE_DROP else s
  let s' := s'.mramStore (live.filter fun x => (inCam x || inProg x) && !barred x)
  let words := live.filter fun x => !inCam x && !inProg x
  (containersOf words).foldl (fun (t : State) a => t.writeContainer a (byteFor words a) (byteFor words (a + 1))) s'

/-- A read access through BAR2 of `len` bytes (R170, R173, R307): the bytes, whether any word was uncorrectable, and the state. Each
container and each granule is read once; a dead address reads 0, and the system error log records the first. -/
def State.bar2Get (s : State) (a len : Nat) : List Byte × Bool × State :=
  let addrs := (List.range len).map (a + ·)
  let s := match addrs.find? fun x => !s.windowOn (windowOf x) with | some x => s.logErr x 2 | none => s
  let visit := fun (q : Bool × State) (x : Nat) =>
    match windowOf x with
    | .prog c o => if x % 16 = 0 ∨ x = a then let r := q.2.readProg c o; (q.1 || decide (r.1 = .uncorrectable), r.2) else q
    | .cam b o => if x % 16 = 0 ∨ x = a then let r := q.2.readCam (b * 0x200000 + o); (q.1 || decide (r.1 = .uncorrectable), r.2) else q
    | .unmapped => q
    | w => if x % 2 = 0 ∨ x = a then let r := q.2.readWindowWord w; (q.1 || decide (r.1 = .uncorrectable), r.2.2) else q
  let r := (addrs.filter fun x => s.windowOn (windowOf x)).foldl visit (false, s)
  let byte := fun (x : Nat) =>
    if !s.windowOn (windowOf x) then (0 : Byte)
    else match windowOf x with
      | .vis _ o => if 0x8400 ≤ o / 2 ∧ o / 2 < 0x20000 then 0 else s.byte x
      | _ => s.byte x
  (addrs.map byte, r.1, r.2)

/-! ### Commands -/

/-- BAR2_WRITE (R169, R363, R364): a poisoned write is dropped and logged, a malformed one discarded. -/
def execBar2Write (addr : BitVec 29) (bytes : List (Bool × Byte)) (poisoned : Bool) (s : State) (malformed : Bool := false) : Result :=
  .next (s.host fun s =>
    if malformed then s.malformedTlp
    else if poisoned then s.poisonedTlp addr.toNat
    else s.bar2Put ((bytes.zipIdx.filter fun x => x.1.1).map fun x => (addr.toNat + x.2, x.1.2)))

/-- BAR2_READ (R173): the completion goes to the host. -/
def execBar2Read (addr : BitVec 29) (len : Nat) (s : State) : Result :=
  .next (s.host fun s =>
    let r1 := s.bar2Get addr.toNat len
    let bs := r1.1
    let ep := r1.2.1
    let s' := r1.2.2
    { s' with out := .completion addr.toNat bs ep :: s'.out })

/-- CORRECTED_WRITE_BACK (R173): a corrected word that waits is written back with valid check bits. -/
def execCorrectedWriteBack (addr : BitVec 29) (s : State) : Result :=
  .next (
    if addr.toNat ∈ s.writeBacks then
      let s := { s with writeBacks := s.writeBacks.erase addr.toNat }
      if look s.bad addr.toNat = some .one then s.eccFix addr.toNat else s
    else s)

/-- SRAM_SCRUB: reads one word of a local store, or one word of each bank of a shared store, and corrects what it can (R174). A store
that is not on, or whose scrub is not enabled, is not scrubbed. -/
def execSramScrub (store : SramId) (word : BitVec 18) (s : State) : Result :=
  .next (match store with
    | .loc cog =>
      if s.domOn (64 + cog) && s.on (casPage (casOf cog)) R.CAS_SCRUB_LM_EN then (s.readLocal cog word.toNat).2.2 else s
    | .shared cas =>
      if s.domOn (8 + cas) && s.on (casPage cas) R.CAS_SCRUB_SD_EN then
        upTo 8 (fun (t : State) k => (t.readShared cas (word.toNat / 8 * 8 + k)).2.2) s
      else s)

/-- Scrub of one granule of an MRAM: a corrected granule is rewritten, unless VMRAM is low; an injected error changes no cell. -/
def State.scrubGranule (s : State) (g : Nat) (bank : Option Nat) (r : Ecc × State) : State :=
  let real := look s.bad g = some .one ∨ look s.bad g = some .two
  if r.1 = .corrected ∧ real ∧ s.mramWritable then
    let t := r.2.eccFix g
    match bank with | some b => t.camWear b 1 | none => t
  else r.2

/-- MRAM_SCRUB: reads one line and rewrites the granules in which it corrected a bit (R187); the last line of a pass sets DONE. -/
def execMramScrub (store : MramId) (line : BitVec 16) (last : Bool) (s : State) : Result :=
  .next (match store with
    | .prog cas =>
      if s.domOn (8 + cas) && s.rd (casPage cas) R.CAS_SCRUB_PM_PERIOD != 0 then
        let t := upTo 2 (fun (t : State) k =>
          let a := line.toNat % 16384 * 32 + 16 * k
          t.scrubGranule (progBase cas + a) none (t.readProg cas a)) s
        if last then t.wr (casPage cas) R.CAS_SCRUB_PM_DONE 1 else t
      else s
    | .cam bank =>
      if s.domOn (56 + bank) && s.rd 0x07F R.CAM_SCRUB_PERIOD != 0 then
        let t := upTo 2 (fun (t : State) k =>
          let a := line.toNat * 32 + 16 * k
          t.scrubGranule (camBase bank + a) (some bank) (t.readCam (bank * 0x200000 + a))) s
        if last then t.wr 0x07F R.CAM_SCRUB_DONE 1 else t
      else s)

end Sys2Proof.Machine
end

