-- ==== Sys2Proof/Machine/Cadence.lean ====
section
/-! DEFINITION. The timebase, the cadences and their commands, the cam tables and the axes (chapter 08, R178 to R182), and the cadence
deadline monitors (R480, R481). -/

namespace Sys2Proof.Machine

/-! ### The timebase (R230 to R234) -/

/-- The device is the follower of an enabled tandem link (R372). -/
def State.tandemFollows (s : State) : Bool := s.on 0x124 R.TAN_CFG_EN && s.on 0x124 R.TAN_CFG_ROLE

/-- TB_ADJ.GO adds OFS to the offset that remains to be slewed (R234); a follower of an enabled tandem link drops and counts the write
(R372). A sum outside the 28 bits of TB_ADJ_REM is a free value. -/
def State.tbAdjGo (s : State) (ofs : Nat) : State :=
  let s := s.jrnHost 0x7004C
  if s.tandemFollows then s.pgErr 0x070 (some (0x4C, 0x80000000 + ofs % 2 ^ 28))
  else
    let s := s.wr 0x070 R.TB_ADJ_OFS ofs
    let sum := signed (s.rd 0x070 R.TB_ADJ_REM_REM) 28 + signed ofs 28
    let r1 := if -(2 ^ 27 : Int) ≤ sum ∧ sum < 2 ^ 27 then (wrap sum 28, s) else s.freeDraw 28
    let v := r1.1
    let s := r1.2
    let s := s.wr 0x070 R.TB_ADJ_REM_REM v
    if v ≠ 0 then s.wr 0x070 R.TB_STAT_SLEW 1 else s

/-- TIMEREF shows no edge: the timebase enters holdover (R232 step 1). -/
def State.refAbsent (s : State) : State :=
  let s := ({ s with timeref := { s.timeref with back := none } } : State).wr 0x070 R.TB_STAT_REF_OK 0
  if s.on 0x070 R.TB_STAT_HOLD then s
  else
    let s := (((s.wr 0x070 R.TB_STAT_HOLD 1).wr 0x070 R.TB_STAT_HOLD_SEEN 1).bump 0x070 R.TB_STAT_HOLD_CNT).wr 0x070 R.TB_HOLD_IN_STAMP (s.now / 1024)
    (({ s with timeref := { s.timeref with since := s.tb } } : State).pgEvt 0x070 0).jrnPut ⟨1, 0x1F4, s.now, 0⟩

/-- TIMEREF is lost (R232 step 1). -/
def State.timerefLoss (s : State) : State := ({ s with timeref := { s.timeref with gone := true } } : State).refAbsent

/-- TIMEREF's edges are present again (R232 step 3, R261), unless their absence is injected (R260). -/
def State.refBack (s : State) : State :=
  let x := { s.timeref with gone := false }
  if x.injUntil.isSome then { s with timeref := x }
  else ({ s with timeref := { x with back := x.back <|> some s.tb } } : State).wr 0x070 R.TB_STAT_REF_OK 1

/-- An injected absence of TIMEREF (R260): 1 ms, from step 1 of R232. -/
def State.refInject (s : State) : State := ({ s with timeref := { s.timeref with injUntil := some (s.tb + 1000000) } } : State).refAbsent

/-- The injected absence ends: the edges that are there are seen again. -/
def State.refInjectEnd (s : State) : State :=
  let s := { s with timeref := { s.timeref with injUntil := none } }
  if s.timeref.gone then s else s.refBack

/-- Whether the PLL may relock (R232 step 3): no absence is injected, and the edges have been back for 1 ms. DEDUCED (log entry 90): a relock whose
return of edges was not reported follows one 1 ms before. -/
def State.mayRelock (s : State) : Bool :=
  s.timeref.injUntil.isNone && match s.timeref.back with | some t => decide (t + 1000000 ≤ s.tb) | none => true

/-- The PLL relocks: the timebase leaves holdover and aligns its count (R232 step 4). -/
def State.pllRelock (s : State) : State :=
  if !s.mayRelock then s
  else
    let s := s.refBack
    if !s.on 0x070 R.TB_STAT_HOLD then s
    else
      let s := ((s.wr 0x070 R.TB_STAT_HOLD 0).wr 0x070 R.TB_STAT_SLEW 1).wr 0x070 R.TB_HOLD_OUT_STAMP (s.now / 1024)
      ({ s with aligning := true, timeref := { s.timeref with past := (s.timeref.since, s.tb) :: s.timeref.past } } : State).jrnPut ⟨2, 0x1F4, s.now, 0⟩

/-- The alignment, or the adjustment that waits behind it, has reached 0 (R232 step 5, R234). -/
def State.slewEnd (s : State) : State :=
  let s := { s with aligning := false }
  if s.rd 0x070 R.TB_ADJ_REM_REM = 0 then s.wr 0x070 R.TB_STAT_SLEW 0 else s

/-- A read of TB_NOW_LO samples the timebase and its status (R261). -/
def State.tbNowRead (s : State) : State :=
  let s := ((s.wr 0x070 R.TB_NOW_LO_NOW s.tb).wr 0x070 R.TB_NOW_HI_NOW (s.tb / 2 ^ 32)).wr 0x070 R.TB_STAT_HOLD_SMP (s.rd 0x070 R.TB_STAT_HOLD)
  { s with out := .regRead 0x70040 (BitVec.ofNat 32 s.tb) :: s.out }

/-! ### Deadline monitors (R480, R481) -/

/-- The monitor of cadence n acts. -/
def State.dlAct (s : State) (n : Nat) : State :=
  if lookD s.dlActed n false then s
  else
    let s := ({ s with dlActed := put s.dlActed n true } : State).wr 0x021 R.DL_STAT_FIRED 1 n
    let s := s.pgEvt 0x021 n
    if s.on 0x021 R.DL_CFG_ACTION n then s.brake .deadline else s

/-- A miss of a kind (R480). -/
def State.dlMiss (s : State) (n kind : Nat) : State :=
  if s.on 0x021 R.DL_CFG_EN n && bit (s.rd 0x021 R.DL_CFG_MASK n) kind then
    let s := ((s.bump 0x021 R.DL_CNT_TOTAL n).bump 0x021 R.DL_STAT_CUR n).wr 0x021 R.DL_STAT_LAST kind n
    let b := s.rd 0x021 R.DL_CFG_BURST n
    if b ≠ 0 ∧ b ≤ s.rd 0x021 R.DL_STAT_CUR n then s.dlAct n else s
  else s

/-- A cycle of cadence n ends (R481): the count restarts at each boundary, also of a monitor that is off, which counts no miss and does not act. -/
def State.dlCycle (s : State) (n : Nat) : State :=
  let bad := decide (s.rd 0x021 R.DL_CFG_LIMIT n < s.rd 0x021 R.DL_STAT_CUR n)
  let s := s.wr 0x021 R.DL_STAT_CUR 0 n
  if bad then
    let s := s.bump 0x021 R.DL_STAT_RUN n
    if s.on 0x021 R.DL_CFG_EN n && decide (max 1 (s.rd 0x021 R.DL_CFG_CONSEC n) ≤ s.rd 0x021 R.DL_STAT_RUN n) then s.dlAct n else s
  else ({ s with dlActed := put s.dlActed n false } : State).wr 0x021 R.DL_STAT_RUN 0 n

/-! ### Position (R235 to R237, R242) -/

/-- The accumulator of a stretch at a time. -/
def Seg.accAt (g : Seg) (t : Int) : Int := g.a + g.rate * (t - g.start)

/-- The part of the ramp applied at a time (R242). -/
def Seg.applied (g : Seg) (t : Nat) : Int :=
  if g.rampT = 0 ∨ g.rate = 0 ∨ t < g.rampS then 0
  else if g.rampLen ≤ t - g.rampS then g.rampT
  else (g.rampT * (t - g.rampS : Nat)).tdiv g.rampLen

/-- The position p of R236, not reduced modulo 2^42. -/
def Seg.raw (g : Seg) (t : Nat) : Int := g.accAt t / 2 ^ 20 + g.kDone + g.applied t

/-- The running maximum or minimum of the position (R236). A ramp runs at most at half the cadence's speed (R242), so only the last
2^23 / |rate| ticks can hold the extreme, and without a ramp against the rate only the present one. -/
def Seg.pos (g : Seg) (t : Nat) : Int :=
  if g.rate = 0 then g.raw t
  else
    let back := if (0 < g.rate ∧ g.rampT < 0) ∨ (g.rate < 0 ∧ 0 < g.rampT) then min (t - g.start) (2 ^ 23 / g.rate.natAbs + 4) else 0
    let vals := (List.range back).map fun k => g.raw (t - 1 - k)
    let best := fun (x y : Int) => if 0 < g.rate then max x y else min x y
    let v := vals.foldl best (g.raw t)
    match g.ext with
    | some e => best v e
    | none => v

/-- The stretch in force at a time. -/
def Cadence.segAt (c : Cadence) (t : Nat) : Option Seg :=
  match c.segs.find? fun g => decide (g.start ≤ t) with
  | some g => some g
  | none => c.segs.getLast?

/-- The position at a time, not reduced modulo 2^42. -/
def Cadence.posAt (c : Cadence) (t : Nat) : Int :=
  match c.segAt t with
  | some g => g.pos (max t g.start)
  | none => 0

/-- The rate in force at a time. -/
def Cadence.rateAt (c : Cadence) (t : Nat) : Int := ((c.segAt t).map (·.rate)).getD 0

/-- The least time after `lo`, up to `hi`, at which a predicate holds that holds at `hi` and stays true once it is. -/
def bisect (f : Nat → Bool) : Nat → Nat → Nat → Nat
  | 0, _, hi => hi
  | n + 1, lo, hi =>
    if hi ≤ lo + 1 then hi
    else if f ((lo + hi) / 2) then bisect f n lo ((lo + hi) / 2) else bisect f n ((lo + hi) / 2) hi

/-- The first time after `t0` within one stretch at which the position reaches the target for its direction; the stretch ends before
`stop`, if it ends. -/
def Seg.reach (g : Seg) (t0 : Nat) (stop : Option Nat) (up down : Int) : Option Nat :=
  let lo := max (t0 + 1) g.start
  let target := if 0 < g.rate then up else down
  let f := fun t => if 0 < g.rate then decide (target ≤ g.pos t) else decide (g.pos t ≤ target)
  let far := lo + ((target - g.pos lo).natAbs + 4) * 2 ^ 21 / g.rate.natAbs + 4
  let hi := match stop with | some e => min far (e - 1) | none => far
  if g.rate = 0 ∨ hi < lo then none
  else if f lo then some lo
  else if f hi then some (bisect f 64 lo hi)
  else none

/-- The first time after `t0` at which the position reaches `up` running forward, or `down` running backward. -/
def reachGo (t0 : Nat) (up down : Int) : List Seg → Option Nat
  | [] => none
  | g :: gs =>
    let stop := (gs.head?).map (·.start)
    match (if stop.any fun e => decide (e ≤ t0 + 1) then none else g.reach t0 stop up down) with
    | some t => some t
    | none => reachGo t0 up down gs

/-- The first time after `t0` at which the cadence reaches a target. -/
def Cadence.reach (c : Cadence) (t0 : Nat) (up down : Int) : Option Nat := reachGo t0 up down c.segs.reverse

/-- The cadence without the stretches that start after a time: its state at that time, with no later command taken into account. -/
def Cadence.upToStamp (c : Cadence) (t : Nat) : Cadence := { c with segs := c.segs.filter fun g => decide (g.start ≤ t) }

/-- The boundary that follows the one at `t0` into cycle `k`: its stamp and the cycle entered (R237). -/
def Cadence.boundaryAfter (c : Cadence) (t0 : Nat) (k : Int) : Option (Nat × Int) :=
  (c.reach t0 ((k + 1) * 2 ^ 28) (k * 2 ^ 28 - 1)).map fun t => (t, if 0 < c.rateAt t then k + 1 else k - 1)

/-- The latest boundary passed, or the enable with its cycle. -/
def Cadence.latest (c : Cadence) : Nat × Int := c.bnds.headD (c.enabledAt, c.posAt c.enabledAt / 2 ^ 28)

/-- The next boundary to pass. -/
def Cadence.nextBoundary (c : Cadence) : Option (Nat × Int) := c.boundaryAfter c.latest.1 c.cyc

/-! ### Registers and live state -/

def State.cad (s : State) (n : Nat) : Cadence := lookD s.cads n {}
def State.setCad (s : State) (n : Nat) (x : Cadence) : State := { s with cads := put s.cads n x }
def State.axis (s : State) (a : Nat) : Axis := lookD s.axes a {}
def State.setAxis (s : State) (a : Nat) (x : Axis) : State := { s with axes := put s.axes a x }
def State.table (s : State) (t : Nat) : Table := lookD s.tables t {}
def State.setTable (s : State) (t : Nat) (x : Table) : State := { s with tables := put s.tables t x }

/-- A register field of cadence n, and of axis slot a. -/
def State.crd (s : State) (n : Nat) (f : Fld) : Nat := s.rd 0x072 f n
def State.ard (s : State) (a : Nat) (f : Fld) : Nat := s.rd 0x1000 f a
def State.awr (s : State) (a : Nat) (f : Fld) (v : Nat) : State := s.wr 0x1000 f v a

/-- A 42-bit value in a pair of registers. -/
def State.crd42 (s : State) (n : Nat) (lo hi : Fld) : Nat := s.crd n lo + (s.crd n hi) * 2 ^ 32
def State.cadEn (s : State) (n : Nat) : Bool := s.on 0x072 R.CAD_CTRL_EN n
/-- Whether a cadence is enabled at a stamp that may lie ahead: one that a replay has installed is from local E on (R430). -/
def State.cadRuns (s : State) (n c : Nat) : Bool := s.cadEn n || (s.cad n).startAt.any fun e => decide (e ≤ c)

/-- A cadence's present cycle and latest boundary in its registers (R237); with no boundary since the enable, the one before it. -/
def State.showCad (s : State) (n : Nat) : State :=
  let c := s.cad n
  let s := s.wr 0x072 R.CAD_STAT_CYCLE (wrap c.cyc 14) n
  let b := (c.bnds.head?.map (·.1)).getD c.before
  (s.wr 0x072 R.CAD_BST_LO_STAMP b n).wr 0x072 R.CAD_BST_HI_STAMP (b % 2 ^ 42 / 2 ^ 32) n

/-- A cadence takes another course; the one that it had is kept for the phases of lines whose stamps lie before now (R302), for 2^30 ns (log entry 98). -/
def State.setCourse (s : State) (n : Nat) (c : Cadence) : State :=
  s.setCad n { c with was := (s.tb, (s.cad n).segs) :: (s.cad n).was.filter fun x => decide (s.tb < x.1 + 2 ^ 30) }

/-- A cadence as it stood at a tick: on the course that was then in force. -/
def Cadence.asOf (c : Cadence) (t : Nat) : Cadence :=
  match (c.was.takeWhile fun x => decide (t < x.1)).getLast? with
  | some (_, g) => { c with segs := g }
  | none => c

/-- The position of a cadence at a tick as it was computed then; that of a cadence that stands disabled is frozen (R238, R300). -/
def State.cadSampled (s : State) (n t : Nat) : Int :=
  let c := (s.cad n).asOf t
  if c.segs.isEmpty then s.crd42 n R.CAD_POS_LO_VALUE R.CAD_POS_HI_VALUE else c.posAt t

/-- A notice is queued for its stamp (R245). -/
def State.notice (s : State) (n : Nat) (x : Note) : State := s.setCad n { s.cad n with notes := (s.cad n).notes ++ [x] }

/-- Whether a phase-referenced window, release action or trigger generator names a cadence (R240, R298). -/
def State.phaseNamed (s : State) (n : Nat) : Bool :=
  ((List.range 16).any fun v => decide (s.rd (0x0E0 + 4 * v) R.VIS_TRG_MODE = 1) && decide (s.rd (0x0E0 + 4 * v) R.VIS_TRG_CAD = n)) ||
  (s.rel.any fun (_, e) => bit e.act 38 && decide (bits e.act 34 4 = n)) ||
  (List.range 32).any fun w => s.on 0x081 R.CW_CTRL_EN w && s.on 0x081 R.CW_CTRL_MODE w && decide (s.rd 0x081 R.CW_CTRL_CAD w = n)

/-- The committed stamp CMT, as a value of the timebase (R240). -/
def State.cmt (s : State) (n : Nat) : Nat := if s.phaseNamed n then max (s.cad n).cmt s.tb else (s.cad n).cmt

/-- Raises CMT to a stamp. -/
def State.commitTo (s : State) (n t : Nat) : State := s.setCad n { s.cad n with cmt := max (s.cad n).cmt t }

/-! ### The cam tables as data (R178, R179, R253, R254) -/

/-- A point of a copy at a BAR2 address: master, slave and slope as stored (R253). -/
def State.pointAt (s : State) (base i : Nat) : Nat × Nat × Nat :=
  let f := fun k => leNat (s.bytes (base + 16 + 12 * i + 4 * k) 4) % 2 ^ 28
  (f 0, f 1, f 2)

/-- The 12 bytes of a point; the upper 4 bits of each field repeat bit 27 (R253). -/
def pointBytes (m y k : Nat) : List Byte :=
  let f := fun v => leBytes 4 (wrap (signed v 28) 32)
  f m ++ f y ++ f k

/-- The masters of a copy increase strictly (R253). -/
def State.ordered (s : State) (base points : Nat) : Bool :=
  (List.range (points - 1)).all fun i => decide ((s.pointAt base i).1 < (s.pointAt base (i + 1)).1)

/-- Reads the lines that hold a range of a cam bank, through the detectors of each granule; whether any was uncorrectable. -/
def State.readCamRange (s : State) (a n : Nat) : Bool × State :=
  let gs := (List.range (2 * ((a + n - 1) / 32 + 1 - a / 32))).map (2 * (a / 32) + ·)
  gs.foldl (fun (q : Bool × State) g => let r := q.2.readCam (g * 16); (q.1 || decide (r.1 = .uncorrectable), r.2)) (false, s)

/-- The number of the live copy, and its BAR2 address. -/
def State.liveCopy (s : State) (t : Nat) : Nat := s.rd (tablePage t) R.CAM_TBL_STAT_LIVE
def State.liveBase (s : State) (t : Nat) : Nat := s.copyBase t (s.liveCopy t)

/-- The boundaries of a cadence that have not been passed, up to a time, with the cycles entered. -/
def Cadence.upcoming (c : Cadence) (stop : Nat) : Nat → Nat → Int → List (Nat × Int)
  | 0, _, _ => []
  | fuel + 1, t0, k =>
    match c.boundaryAfter t0 k with
    | none => []
    | some (b, k') => if stop < b then [] else (b, k') :: c.upcoming stop fuel b k'

/-- The boundaries that an evaluation at a servo stamp lies beyond before they are passed: a lead of 65,535 ns holds fewer than 64. -/
def State.comingTo (s : State) (n c : Nat) : List (Nat × Int) :=
  if s.cadRuns n c then (s.cad n).upcoming c 64 (s.cad n).latest.1 (s.cad n).cyc else []

/-- Whether an armed flip acts at a boundary into cycle k (R256). -/
def Table.flipsAt (x : Table) (b : Nat) (k : Int) : Bool :=
  match x.flip with
  | some (cy, after) => decide (cy = wrap k 14 ∧ after < b)
  | none => false

/-- The boundary of its cadence, not passed yet and at or before a stamp, at which a table's armed flip acts. -/
def State.flipBefore (s : State) (t c : Nat) : Option Nat :=
  ((s.comingTo (s.rd (tablePage t) R.CAM_TBL_A_CAD) c).find? fun b => (s.table t).flipsAt b.1 b.2).map (·.1)

/-- The copy of a table that an evaluation at a stamp uses (R256, R258): the old one before the boundary of the last flip taken; the new one at or after
the boundary at which an armed flip whose pass is complete will be taken; else the live one. -/
def State.copyAt (s : State) (t c : Nat) : Nat :=
  let x := s.table t
  match x.flipped.filter fun b => decide (c < b.1) with
  | some b => b.2
  | none =>
    match s.flipBefore t c with
    | some b => if x.pass = .complete ∧ x.lateAt ≠ some b then x.target else s.liveCopy t
    | none => s.liveCopy t
def State.baseAt (s : State) (t c : Nat) : Nat := s.copyBase t (s.copyAt t c)

/-- How many of the first points have a master at or below x, by bisection. -/
def countBelow (f : Nat → Nat) (x : Nat) : Nat → Nat → Nat → Nat
  | 0, lo, _ => lo
  | n + 1, lo, hi => if hi ≤ lo then lo else if f ((lo + hi) / 2) ≤ x then countBelow f x n ((lo + hi) / 2 + 1) hi else countBelow f x n lo ((lo + hi) / 2)

/-- A quotient rounded to nearest, ties towards plus infinity; the divisor is positive. -/
def roundDiv (num den : Int) : Int := (2 * num + den) / (2 * den)

/-- How many points of a copy of a table lie at or below a master, and the two points of its interval (R254). -/
def State.belowAt (s : State) (t base x : Nat) : Nat := countBelow (fun i => (s.pointAt base i).1) x 16 0 (s.tblPoints t)
def State.intervalOf (s : State) (t k : Nat) : Nat × Nat := (if k = 0 then s.tblPoints t - 1 else k - 1, if k = s.tblPoints t then 0 else k)

/-- A read joined to one before it: whether either was uncorrectable. -/
def joinRead (q x : Bool × State) : Bool × State := (q.1 || x.1, x.2)

/-- Reads the lines of the two points of an interval through their detectors: whether any is uncorrectable. -/
def State.readInterval (s : State) (t base k : Nat) : Bool × State :=
  let x := s.readCamRange (base + (16 + 12 * (s.intervalOf t k).1)) 12
  joinRead x (x.2.readCamRange (base + (16 + 12 * (s.intervalOf t k).2)) 12)

/-- The cubic of an interval at a master, exactly: the value rounded, and the slope as a quotient (R254). -/
def State.cubicAt (s : State) (t base x k : Nat) : Int × (Int × Int) :=
  let n := s.tblPoints t
  let adv := signed (s.rd (tablePage t) R.CAM_TBL_ADV_ADV) 28
  let p0 := s.pointAt base (s.intervalOf t k).1
  let p1 := s.pointAt base (s.intervalOf t k).2
  let x0 : Int := if k = 0 then (p0.1 : Int) - 2 ^ 28 else p0.1
  let y0 : Int := if k = 0 then signed p0.2.1 28 - adv else signed p0.2.1 28
  let x1 : Int := if k = n then (p1.1 : Int) + 2 ^ 28 else p1.1
  let y1 : Int := if k = n then signed p1.2.1 28 + adv else signed p1.2.1 28
  let k0 := signed p0.2.2 28
  let k1 := signed p1.2.2 28
  let h := x1 - x0
  let d := (x : Int) - x0
  let num := 2 ^ 28 * (y0 * (2 * d ^ 3 - 3 * d ^ 2 * h + h ^ 3) + y1 * (3 * d ^ 2 * h - 2 * d ^ 3)) +
    h * (k0 * (d ^ 3 - 2 * d ^ 2 * h + d * h ^ 2) + k1 * (d ^ 3 - d ^ 2 * h))
  let dnum := 2 ^ 28 * 6 * (d * h - d ^ 2) * (y1 - y0) + h * (k0 * (3 * d ^ 2 - 4 * d * h + h ^ 2) + k1 * (3 * d ^ 2 - 2 * d * h))
  (roundDiv num (2 ^ 28 * h ^ 3), (dnum, 2 ^ 28 * h ^ 3))

/-- The interpolant of the copy of a table that stamp c uses, at master phase x (R254): y, and y′ as a fraction; whether a point's line was uncorrectable. -/
def State.interpolate (s : State) (t c x : Nat) : Int × (Int × Int) × Bool × State :=
  let k := s.belowAt t (s.baseAt t c) x
  let y := s.cubicAt t (s.baseAt t c) x k
  let r := s.readInterval t (s.baseAt t c) k
  (y.1, y.2, r.1, r.2)

/-! ### Commit passes (R182, R188, R253) -/

/-- The merged bytes of a granule of the target copy: the live copy's, with the fixed points over them (R182). -/
def State.mergedBytes (s : State) (t g : Nat) (fixed : List Shadow) : List Byte :=
  let base := s.liveBase t
  (List.range 16).map fun k =>
    let o := 16 * g + k
    match fixed.find? fun e => decide (16 + 12 * e.point ≤ o ∧ o < 28 + 12 * e.point) with
    | some e => (pointBytes e.m e.y e.k).getD (o - (16 + 12 * e.point)) 0
    | none => s.byte (base + o)

/-- A pass writes a granule of the target copy where its data differs, or where it is uncorrectable, which repairs it (R182, R188). -/
def State.passWrite (s : State) (g : Nat) (bs : List Byte) (bad : Bool) : State :=
  let xs := (List.range 16).map fun k => (g + k, bs.getD k 0)
  if bad && s.mramWritable && xs.all fun x => s.byte x.1 = x.2 then
    match windowOf g with
    | .cam b _ => (s.eccFix g).camWear b 1
    | _ => s.eccFix g
  else s.mramStore xs

/-- One granule of the target copy in a pass: read, and written with the merged data. The header granule is only read; step 3 writes it. -/
def State.mergeGranule (s : State) (t tgt : Nat) (fixed : List Shadow) (g : Nat) : State :=
  let r := s.readCam (tgt + 16 * g)
  if g = 0 then r.2 else r.2.passWrite (tgt + 16 * g) (r.2.mergedBytes t g fixed) (decide (r.1 = .uncorrectable))

/-- Merges a line of a region: false when the line of the live copy is uncorrectable, where the pass stops (R188). -/
def State.mergeLine (s : State) (t tgt : Nat) (fixed : List Shadow) (l : Nat) : Bool × State :=
  let live := s.readCamRange (s.liveBase t + 32 * l) 32
  (!live.1, if live.1 then live.2 else (live.2.mergeGranule t tgt fixed (2 * l)).mergeGranule t tgt fixed (2 * l + 1))

/-- Merges the lines of a region from line l on, `n` of them (R182 step 2), as far as the pass goes. -/
def State.mergeGo (s : State) (t tgt : Nat) (fixed : List Shadow) : Nat → Nat → Bool × State
  | 0, _ => (true, s)
  | n + 1, l =>
    let r := s.mergeLine t tgt fixed l
    if r.1 then State.mergeGo r.2 t tgt fixed n (l + 1) else r

/-- The entries that the armed flip of a table has fixed (R182 step 1). -/
def State.fixedFor (s : State) (t : Nat) : List Shadow := s.shadow.filter fun e => decide (e.table = t) && decide (e.gen ≠ (s.table t).gen)

/-- The target copy of a pass (R182): the one after the live copy. -/
def State.targetCopy (s : State) (t : Nat) : Nat := (s.liveCopy t + 1) % s.tblSpan t

/-- COMMIT_PASS (R182, R188, R253): once the MRAM takes writes (R477), the pass of a table merges its fixed points into the target copy and writes the header, or ends
without it. DESIGN CHOICE (log entry 109): a target copy in a bank that is not on is written as in one that is. -/
def State.commitPass (s : State) (t : Nat) : State :=
  let x := s.table t
  if !s.domOn 3 || !s.mramWritable || decide (x.pass ≠ .running) then s
  else
    let p := s.tblPoints t
    let tgt := s.copyBase t (s.targetCopy t)
    let fixed := s.fixedFor t
    let target := s.targetCopy t
    let r15 := s.mergeGo t tgt fixed (regionBytes p / 32) 0
    let ok := r15.1
    let s := r15.2
    if !ok then (s.setTable t { x with pass := .ended 3 }).bump 0x07F R.CAM_COMMIT_ABORT
    else
      let merged := (List.range (regionBytes p / 16 - 1)).flatMap fun k => s.mergedBytes t (k + 1) fixed
      let masters := (List.range p).map fun i => leNat ((merged.drop (12 * i)).take 4) % 2 ^ 28
      let inj := s.injArmed 0x071 0
      if inj || !(masters.zip masters.tail).all fun (a, b) => decide (a < b) then
        ((if inj then s.injTake 0x071 0 else s).setTable t { x with pass := .ended 2 }).bump 0x071 R.CAM_FAULT_ORDER
      else
        let gen := leNat (s.bytes (s.liveBase t) 4) + 1
        let head := leBytes 4 gen ++ leBytes 2 p ++ leBytes 2 t ++ leBytes 4 (crc32c (merged.take (12 * p))) ++ leBytes 4 0
        let s := s.passWrite tgt head (decide (look s.bad tgt = some .uncorrectable))
        s.setTable t { x with pass := .complete, target := target }

/-- When a running pass has ended at the latest (R182 steps 2 and 3): 30 ns for each line, 60 ns for each granule that it writes, and 60 ns for the header. -/
def State.passBound (s : State) (t : Nat) : Nat :=
  let n := regionBytes (s.tblPoints t)
  let tgt := s.copyBase t (s.targetCopy t)
  let differs := fun g => decide (s.mergedBytes t g (s.fixedFor t) ≠ s.bytes (tgt + 16 * g) 16)
  (s.table t).armedAt + 30 * (n / 32) + 60 * ((List.range (n / 16 - 1)).filter fun g => differs (g + 1)).length + 60

/-- An evaluation at a stamp that lies beyond the boundary of an armed flip has to know whether the pass is complete there (R182, R256). One whose bound
ends by the boundary is, and ends now. DESIGN CHOICE (log entry 91): any other that still runs is late at that boundary. -/
def State.settlePass (s : State) (t c : Nat) : State :=
  if (s.table t).pass ≠ .running then s
  else match s.flipBefore t c with
    | none => s
    | some b =>
      let s := if s.passBound t ≤ b then s.commitPass t else s
      if (s.table t).pass = .running then s.setTable t { s.table t with lateAt := some b } else s

/-! ### Axes (R246 to R251) -/

/-- The axis slots that are enabled, in order of number. -/
def State.enabledAxes (s : State) : List Nat := (List.range 512).filter fun a => s.on 0x1000 R.AX_BIND_EN a

/-- An axis is in freewheel: it holds, and a shift that waits or runs ends (R246, R264). -/
def State.freewheel (s : State) (a : Nat) : State :=
  let s := s.setAxis a { s.axis a with shift := none, shiftAt := none, drop := false, braked := false }
  ((s.awr a R.AX_STATE_STATE 1).awr a R.AX_VEL_VEL 0).awr a R.AX_SHIFT_LEFT 0

/-- An axis enters freewheel with a fault (R246): AXIS_FAULT is sent, and the event raised. -/
def State.axisFault (s : State) (a cause t : Nat) : State :=
  let s := ((s.freewheel a).awr a R.AX_STATE_FAULT 1).awr a R.AX_STATE_CAUSE cause
  (s.notice (s.ard a R.AX_BIND_CAD) { stamp := t, type := 7, detail := cause, w1 := a }).pgEvt 0x071 0

/-- FREE from its stamp f (R251): the axis holds its last commanded position; a COUPLE stamped after it waits on. -/
def State.axisFree (s : State) (a f : Nat) : State :=
  let x := s.axis a
  let s := s.setAxis a { x with free := none, couple := x.couple.filter fun k => decide (f < k.2) }
  if s.ard a R.AX_STATE_STATE = 0 then s else s.freewheel a

/-- Applies the FREE of an axis that is stamped at or before a time. -/
def State.applyFree (s : State) (a t : Nat) : State :=
  match (s.axis a).free with
  | some f => if f ≤ t then s.axisFree a f else s
  | none => s

/-- The new commanded position of an axis with master m at stamp c: whether the read failed, the position, and y′. -/
def State.command (s : State) (a c m : Nat) : Bool × Nat × (Int × Int) × State :=
  let r4 := s.interpolate (s.ard a R.AX_BIND_TABLE) c (m % 2 ^ 28)
  let y := r4.1
  let dy := r4.2.1
  let ue := r4.2.2.1
  let s := r4.2.2.2
  (ue, wrap (y + s.ard a R.AX_BASEY_BASEY) 28, dy, s)

/-- The master of an axis in its registers. -/
def State.setMaster (s : State) (a m : Nat) : State := (s.awr a R.AX_MST_LO_M m).awr a R.AX_MST_HI_M (m / 2 ^ 32)

/-- COUPLE acts at boundary B (R251). -/
def State.coupleAt (s : State) (a n b : Nat) : State :=
  if !s.tblEn (s.ard a R.AX_BIND_TABLE) then s.axisFault a 4 b
  else
    let p := (s.cad n).posAt b
    let g := signed (s.ard a R.AX_GEAR_GEAR) 28
    let m := wrap ((wrap p 42 : Int) * g / 2 ^ 16 + signed (s.ard a R.AX_OFS_OFS) 28) 42
    let r5 := s.command a b m
    let ue := r5.1
    let y := r5.2.1
    let s := r5.2.2.2
    if ue then (s.bump 0x071 R.CAM_FAULT_UE_AX).axisFault a 1 b
    else if s.ard a R.AX_STEP_MAX < (signed (wrap ((y : Int) - s.ard a R.AX_POS_POS) 28) 28).natAbs then s.axisFault a 2 b
    else
      let s := ((s.setMaster a m).awr a R.AX_GCUR_G (wrap g 28)).awr a R.AX_STATE_STATE 2
      s.setAxis a { s.axis a with frac := 0, posC := p }

/-- A boundary of its cadence reaches an axis (R250, R251): a FREE stamped by then, the COUPLEs for the cycle entered, the start of a SHIFT stamped
before it. -/
def State.axisAtBoundary (s : State) (a n b : Nat) (k : Int) : State :=
  let s := s.applyFree a b
  let now := fun (x : Nat × Nat) => decide (x.1 = wrap k 14 ∧ x.2 < b)
  let s := if (s.axis a).couple.any now then (s.setAxis a { s.axis a with couple := (s.axis a).couple.filter fun x => !now x }).coupleAt a n b else s
  let x := s.axis a
  match x.shiftAt with
  | some (g1, nn, after) =>
    if after < b ∧ s.ard a R.AX_STATE_STATE = 2 then
      ((s.setAxis a { x with shiftAt := none, shift := some (signed (s.ard a R.AX_GCUR_G) 28, g1, nn, (s.cad n).posAt b), shiftB := b }).awr a
        R.AX_STATE_STATE 3).awr a R.AX_SHIFT_LEFT nn
    else s
  | none => s

/-- The cycles left in a shift (R264): whole cadence cycles. -/
def shiftLeft (n : Nat) (q : Int) : Nat := ((n : Int) - (q + 2 ^ 28 - 1) / 2 ^ 28).toNat

/-- Whether an axis has lost its table or a cadence since its last evaluation, for one at a stamp (R257). -/
def State.axisLost (s : State) (a c : Nat) : Bool :=
  let t := s.ard a R.AX_BIND_TABLE
  (s.axis a).drop || !s.cadRuns (s.ard a R.AX_BIND_CAD) c || !s.tblEn t || !s.cadRuns (s.rd (tablePage t) R.CAM_TBL_A_CAD) c

/-- One axis at servo stamp C (R249, R250, R257, R258): the boundaries up to C that its cadence has not passed yet reach it first; then the staged
command, or a fault. -/
def State.evalAxis (s : State) (a c : Nat) : State :=
  let n := s.ard a R.AX_BIND_CAD
  let s := (s.comingTo n c).foldl (fun (t : State) b => t.axisAtBoundary a n b.1 b.2) s
  let s := s.applyFree a c
  let stage := fun (s : State) (coupled : Bool) =>
    let key := 64 * s.ard a R.AX_BIND_PORT + s.ard a R.AX_BIND_NODE
    let lower := (s.enabledAxes.find? fun b => 64 * s.ard b R.AX_BIND_PORT + s.ard b R.AX_BIND_NODE = key).getD a
    if lower = a then { s with staging := put s.staging key ⟨s.ard a R.AX_POS_POS, s.ard a R.AX_VEL_VEL, coupled, c⟩ } else s
  if s.ard a R.AX_STATE_STATE < 2 then stage s false
  else if s.on 0x020 R.HLT_BRAKE_ACTIVE || (s.axis a).braked then stage (s.axisFault a 3 c) false
  else if s.axisLost a c then stage (s.axisFault a 4 c) false
  else
    let cad := s.cad n
    let p := cad.posAt c
    let x := s.axis a
    let (g, done, left) := match x.shift with
      | some (g0, g1, nn, pb) =>
        let q := max 0 (min (p - pb) (nn * 2 ^ 28))
        (if q = nn * 2 ^ 28 then g1 else g0 + ((g1 - g0) * q).tdiv (nn * 2 ^ 28), decide (q = nn * 2 ^ 28), shiftLeft nn q)
      | none => (signed (s.ard a R.AX_GCUR_G) 28, false, 0)
    let f := (x.frac : Int) + (p - x.posC) * g
    let dm := f / 2 ^ 16
    let m : Nat := s.ard a R.AX_MST_LO_M + s.ard a R.AX_MST_HI_M * 2 ^ 32
    let kc := ((m : Int) + dm) / 2 ^ 28 - (m : Int) / 2 ^ 28
    let m' := wrap ((m : Int) + dm) 42
    let by_ := wrap ((s.ard a R.AX_BASEY_BASEY : Int) + kc * signed (s.rd (tablePage (s.ard a R.AX_BIND_TABLE)) R.CAM_TBL_ADV_ADV) 28) 28
    let s := ((s.setMaster a m').awr a R.AX_BASEY_BASEY by_).awr a R.AX_GCUR_G (wrap g 28)
    let s := s.awr a R.AX_SHIFT_LEFT left
    let s := s.setAxis a { x with frac := (f - dm * 2 ^ 16).toNat, posC := p, shift := if done then none else x.shift }
    let s := if done then (s.awr a R.AX_STATE_STATE 2).notice n { stamp := c, type := 6, w1 := a } else s
    let r6 := s.command a c m'
    let ue := r6.1
    let y := r6.2.1
    let dy := r6.2.2.1
    let s := r6.2.2.2
    if ue then stage ((s.bump 0x071 R.CAM_FAULT_UE_AX).axisFault a 1 c) false
    else
      let seg := (cad.segAt c).getD ⟨0, 0, 0, 0, 0, 0, 1, none⟩
      let active := decide (seg.rampT ≠ 0 ∧ seg.rate ≠ 0 ∧ seg.rampS ≤ c ∧ c - seg.rampS < seg.rampLen)
      let len : Int := max 1 seg.rampLen
      let speed := seg.rate * len + (if active then seg.rampT * 2 ^ 20 else 0)
      let v := roundDiv (dy.1 * (10 ^ 9 * speed * g)) (dy.2 * (2 ^ 36 * len))
      let v := max (-(2 ^ 27 : Int)) (min v (2 ^ 27 - 1))
      stage ((s.awr a R.AX_POS_POS y).awr a R.AX_VEL_VEL (wrap v 28)) true

/-! ### Servo stamps (R247, R248, R339) -/

/-- The latest start at or before a time of a chain cycle that begins a servo period, for an origin, a servo rate and a PER (R247, R248, R339); none while
the rate is 0. -/
def servoLast (org : Int) (rate per : Nat) (t : Int) : Option Int :=
  let half : Int := 15625 * 2 ^ per
  let every : Int := 2 ^ (4 - rate - per)
  let n := (2 * (t - org) + 1) / half
  if rate = 0 ∨ n < 0 then none else some (org + n / every * every * half / 2)

/-- The servo rate and PER of a port in force. -/
def State.servoRate (s : State) (p : Nat) : Nat := s.rd 0x071 R.CAM_PORT_RATE p
def State.servoPer (s : State) (p : Nat) : Nat := s.rd (chnPage p) R.CHN_CYC_PER

/-- Before a write of a port's servo rate or PER: a cycle that has started keeps the values in force at its start (R248). -/
def State.servoNote (s : State) (p : Nat) : State :=
  let fresh := (s.servoRate p, s.servoPer p, s.tb + 1)
  let x := match look s.servoWas p with
    | some (r, d, w) => if (s.tb : Int) < s.startFrom p w then (r, d, s.tb + 1) else fresh
    | none => fresh
  { s with servoWas := put s.servoWas p x }

/-- Whether the rate's period is shorter than the chain cycle (R248). -/
def State.servoClamp (s : State) (p : Nat) : Bool :=
  let r := s.rd 0x071 R.CAM_PORT_RATE p
  decide (r ≠ 0 ∧ 4 - r < s.rd (chnPage p) R.CHN_CYC_PER)

/-- The latest servo stamp of a port at or before a time, by the rate and PER in force at each cycle's start (R248). -/
def State.servoStamp (s : State) (p : Nat) (t : Int) : Option Int :=
  let new := servoLast (s.chnOrigin p) (s.servoRate p) (s.servoPer p) t
  match look s.servoWas p with
  | some (r, d, w) => (new.filter fun c => decide ((w : Int) ≤ c)) <|> servoLast (s.chnOrigin p) r d (min t (w - 1))
  | none => new

/-- The evaluations per second that a port's axes demand, for a count of axes and a rate code (R247). -/
def portDemand (axes rate per : Nat) : Nat := if rate = 0 then 0 else axes * (128000 / 2 ^ max per (4 - rate))

/-- The demand of all ports, with the axes and rates in force. -/
def State.demand (s : State) : Nat :=
  let ax := s.enabledAxes
  ((List.range 8).map fun p =>
    portDemand (ax.filter fun a => s.ard a R.AX_BIND_PORT = p).length (s.rd 0x071 R.CAM_PORT_RATE p) (s.rd (chnPage p) R.CHN_CYC_PER)).sum

/-- Shows the demand and the clamps in their registers. -/
def State.showDemand (s : State) : State :=
  upTo 8 (fun (t : State) p => t.wr 0x071 R.CAM_PORT_CLAMP (b2n (t.servoClamp p)) p) (s.wr 0x071 R.CAM_LOAD_DEMAND s.demand)

/-! ### Snapshots of a cadence (R426) -/

/-- The axis slots of a cadence, and its enabled tables. -/
def State.cadAxes (s : State) (n : Nat) : List Nat := s.enabledAxes.filter fun a => decide (s.ard a R.AX_BIND_CAD = n)
def State.cadTables (s : State) (n : Nat) : List Nat := s.enabledTables.filter fun t => decide (s.rd (tablePage t) R.CAM_TBL_A_CAD = n)

/-- The SNAP records of an object: one for each value, its parts in ascending order from `from_`. -/
def snapParts (type object from_ : Nat) (vs : List Int) : List SnapRec := vs.zipIdx.map fun (v, k) => ⟨type, object, from_ + k, v⟩

/-- The records of a cadence but for its course: the trim budget, its axes, tables, shadow entries and point pointers, as they stand (R426). -/
def State.snapNow (s : State) (n : Nat) : List SnapRec :=
  let c := s.cad n
  let tables := s.cadTables n
  snapParts 1 n 6 [c.used, c.usedCyc] ++
  ((s.cadAxes n).flatMap fun a =>
    let x := s.axis a
    let (g0, g1, nn) := match x.shift with | some (g0, g1, nn, _) => (g0, g1, nn) | none => (0, 0, 0)
    snapParts 2 a 0 [s.ard a R.AX_STATE_STATE, (s.ard a R.AX_MST_LO_M + s.ard a R.AX_MST_HI_M * 2 ^ 32 : Nat), x.frac,
      signed (s.ard a R.AX_BASEY_BASEY) 28, signed (s.ard a R.AX_GCUR_G) 28, g0, g1, (x.shiftB % 2 ^ 42 : Nat), nn, signed (s.ard a R.AX_POS_POS) 28]) ++
  (tables.flatMap fun k =>
    snapParts 3 k 0 [s.liveCopy k, leNat (s.bytes (s.liveBase k) 4),
      (s.rd (tablePage k) R.CAM_TBL_STAT_ARMED * 2 ^ 16 + s.rd (tablePage k) R.CAM_TBL_STAT_ARM_CYCLE : Nat)]) ++
  ((s.shadow.zipIdx.filter fun e => decide (e.1.table ∈ tables)).flatMap fun (x, i) =>
    let v := leNat (pointBytes x.m x.y x.k)
    snapParts 4 i 0 [(x.table + x.point * 2 ^ 10 + b2n (x.gen ≠ (s.table x.table).gen) * 2 ^ 24 : Nat), (v % 2 ^ 64 : Nat), (v / 2 ^ 64 : Nat)]) ++
  c.ptrs.flatMap fun (x, (k, i)) => snapParts 5 (x + 2 ^ 10 * n) 0 [(k + 2 ^ 10 * i : Nat)]

/-- The group of records that changes as one: an object's, or all the shadow entries, or all the pointers. -/
def SnapRec.key (r : SnapRec) : Nat × Nat := (r.type, if r.type < 4 then r.object else 0)

/-- After a change to cadence n that took effect at a stamp: while the journal records, what it changed in the cadence's records is kept, as long as a snapshot
may be of an earlier stamp. -/
def State.notePast (u : State) (n at_ : Nat) (s : State) : State :=
  if !s.recording then u
  else
    let least := if n ∈ u.jrn.snapDue then min u.tb u.jrn.snapE else u.tb
    let old := s.snapNow n
    let new := u.snapNow n
    let keys := ((old ++ new).map SnapRec.key).dedup.filter fun k => decide ((old.filter fun r => r.key = k) ≠ new.filter fun r => r.key = k)
    let past := (u.cad n).past.filter fun x => decide (least < x.at_)
    u.setCad n { u.cad n with past := if keys.isEmpty || decide (at_ ≤ least) then past else ⟨at_, keys, old.filter fun r => decide (r.key ∈ keys)⟩ :: past }

/-- The records less the changes that took effect after a stamp. -/
def undoAfter (e : Nat) (past : List Undo) (rs : List SnapRec) : List SnapRec :=
  past.foldl (fun rs x => if e < x.at_ then (rs.filter fun r => decide (r.key ∉ x.keys)) ++ x.old else rs) rs

/-- CAM_EVALUATION (R247, R252): the port's axes are evaluated for the latest servo stamp whose evaluation has started and has not been
made; those of an installed cadence from local E on (R430). DEDUCED (log entry 17): whether it ends before the staged commands are committed is timing, and comes as an operand. -/
def State.camEvaluation (s : State) (p : Nat) (late : Bool) : State :=
  match s.servoStamp p (s.tb + s.rd 0x071 R.CAM_PORT_LEAD p) with
  | none => s
  | some c =>
    if !s.domOn 3 || c < 0 || decide (c ≤ lookD s.evals p (-1)) then s
    else
      let ax := s.enabledAxes.filter fun a => decide (s.ard a R.AX_BIND_PORT = p) && !(s.cad (s.ard a R.AX_BIND_CAD)).startAt.any fun (e : Nat) => decide (c < (e : Int))
      let cads := (ax.map fun a => s.ard a R.AX_BIND_CAD).dedup
      let was := s
      let s := cads.foldl (fun (t : State) n => t.commitTo n c.toNat) { s with evals := put s.evals p c }
      let s := ((ax.map fun a => s.ard a R.AX_BIND_TABLE).dedup).foldl (fun (t : State) x => t.settlePass x c.toNat) s
      let inj := s.injArmed 0x071 1
      let noted := fun (u : State) => cads.foldl (fun (t : State) n => t.notePast n c.toNat was) u
      if (late || inj) && !ax.isEmpty then
        let s := if inj then s.injTake 0x071 1 else s
        let s := cads.foldl (fun (t : State) n => t.dlMiss n 0) ((s.bump 0x071 R.CAM_FAULT_LATE).pgEvt 0x071 1)
        if late then s else noted (ax.foldl (fun (t : State) a => t.evalAxis a c.toNat) s)
      else noted (ax.foldl (fun (t : State) a => t.evalAxis a c.toNat) s)

/-! ### Boundaries (R237, R245, R250, R251, R256) -/

/-- The commit pass of a table as it stands at a boundary: one that an evaluation has shown to be late for it still runs (R182). -/
def State.passAt (s : State) (t b : Nat) : Pass := if (s.table t).lateAt = some b then .running else (s.table t).pass

/-- A flip armed for this boundary takes effect, is carried, or is disarmed (R182, R188, R256). -/
def State.flipAt (s : State) (t n b num : Nat) (next : Nat) : State :=
  let x := s.table t
  let p := tablePage t
  match s.passAt t b with
  | .complete =>
    let s := (s.setTable t { x with flip := none, pass := .none, flipped := some (b, s.liveCopy t) }).wr p R.CAM_TBL_STAT_ARMED 0
    let s := s.wr p R.CAM_TBL_STAT_LIVE x.target
    let s := { s with shadow := s.shadow.filter fun e => !(decide (e.table = t) && decide (e.gen ≠ x.gen)) }
    s.notice n { stamp := b, type := 4, w1 := t, w2 := num }
  | .ended k =>
    let s := (s.setTable t { x with flip := none, pass := .none }).wr p R.CAM_TBL_STAT_ARMED 0
    s.notice n { stamp := b, type := 5, detail := k, w1 := t }
  | _ =>
    let s := (s.setTable t { x with flip := some (next, b) }).wr p R.CAM_TBL_STAT_ARM_CYCLE next
    (s.bump 0x07F R.CAM_COMMIT_LATE).notice n { stamp := b, type := 5, detail := 1, w1 := t }

/-- A cycle of cadence n ends for its deadline monitor, unless the boundary was passed before it moved (R240, R481). -/
def State.cycleEnds (s : State) (n : Nat) : State :=
  let c := s.cad n
  if 0 < c.again then s.setCad n { c with again := c.again - 1 } else s.dlCycle n

/-- The tables whose armed flip acts at a boundary (R256). -/
def State.flipsAt (s : State) (n b : Nat) (k : Int) : List Nat :=
  (s.tables.filter fun (t, x) => s.tblEn t && decide (s.rd (tablePage t) R.CAM_TBL_A_CAD = n) && x.flipsAt b k).map (·.1)

/-- The BOUNDARY notice of a boundary (R245), with its stamp. -/
def boundaryNotice (stamp b : Nat) (k : Int) : Note := { stamp := stamp, type := 0, w1 := wrap k 14, w2 := b % 2 ^ 14, w3 := b / 2 ^ 14 % 2 ^ 14 }

/-- Whether the BOUNDARY notice of a boundary into cycle k has been sent, or dropped, before the boundary: `noted` lies beyond it. -/
def Cadence.notedFor (c : Cadence) (k : Int) : Bool := decide ((c.noted - k).natAbs < (c.noted - c.cyc).natAbs)

/-- A boundary whose notice has not been sent yet leaves it waiting for its stamp (R245). -/
def State.noteBoundary (s : State) (n b : Nat) (k : Int) : State :=
  let c := s.cad n
  if c.notedFor k then s
  else
    let s := s.setCad n { c with noted := k }
    if s.on 0x072 R.CAD_CTRL_NOTE_EN n then s.notice n (boundaryNotice (b - s.crd n R.CAD_NOTE_LEAD) b k) else s

/-- The cadence passes a boundary: armed flips, then couples, then shift starts act; CMT follows if a flip, a couple or a shift start took effect
there (R240). -/
def State.passBoundary (s : State) (n b : Nat) (k : Int) : State :=
  let next := wrap (if (s.cad n).cyc < k then k + 1 else k - 1) 14
  let was := s
  let s := s.noteBoundary n b k
  let s := (s.setCad n { s.cad n with cyc := k, bnds := (b, k) :: (s.cad n).bnds }).showCad n
  let s := s.cycleEnds n
  let flips := s.flipsAt n b k
  let taken := flips.any fun t => decide (s.passAt t b = .complete)
  let s := flips.foldl (fun (t : State) tb => t.flipAt tb n b (wrap k 14) next) s
  let mine := (s.axes.map (·.1)).filter fun a => s.on 0x1000 R.AX_BIND_EN a && decide (s.ard a R.AX_BIND_CAD = n)
  let t := mine.foldl (fun (t : State) a => t.axisAtBoundary a n b k) s
  let acted := mine.any fun a => decide (2 ≤ t.ard a R.AX_STATE_STATE) &&
    (decide ((t.axis a).couple.length < (s.axis a).couple.length) || ((s.axis a).shiftAt.isSome && (t.axis a).shiftAt.isNone))
  (if taken || acted then t.commitTo n b else t).notePast n b was

/-- CADENCE_BOUNDARY (R237): the next boundary, if the timebase has reached it. -/
def State.cadBoundary (s : State) (n : Nat) : State :=
  if !s.domOn 3 || !s.cadEn n then s
  else match (s.cad n).nextBoundary with
    | some (b, k) => if b ≤ s.tb then s.passBoundary n b k else s
    | none => s

/-- After a command stamped before passed boundaries: those at or after its stamp are computed anew (R240). -/
def State.recompute (s : State) (n t : Nat) : State :=
  let c := s.cad n
  let keep := c.bnds.filter fun b => decide (b.1 < t)
  let dropped := c.bnds.length - keep.length
  if dropped = 0 then s
  else
    let c := { c with bnds := keep, again := c.again + dropped }
    let s := (s.setCad n { c with cyc := c.latest.2 }).showCad n
    upTo (dropped + 1) (fun (u : State) _ => u.cadBoundary n) s

/-! ### Commands (R239 to R244, R250, R251, R255, R256) -/

/-- What a message on the command input asks: an OP of R239, 16 for a SYNC edge, or 0 for what R239 does not accept. -/
def Msg.cadOp (m : Msg) : Nat :=
  if m.kind = 0 ∨ m.kind = 4 then m.words.getD 0 0 % 16
  else if m.kind = 3 ∧ m.sender = 0x118 ∧ m.words.getD 0 0 % 128 = 96 then 16
  else 0

/-- The ARG of a command. -/
def Msg.arg (m : Msg) : Nat := m.words.getD 0 0 / 16 % 1024

/-- A command is refused (R241). -/
def State.refuse (s : State) (n cause : Nat) (m : Msg) : State :=
  let s := s.bump 0x072 R.CAD_CNT_REFUSED n
  let op := if m.cadOp = 16 then 15 else m.words.getD 0 0 % 16
  (s.notice n { stamp := s.absStamp m.stamp, type := 1, detail := cause, w1 := op, w2 := m.arg, w3 := m.sender }).pgEvt 0x072 0

/-- Whether a command at a stamp is late, or reported late by injection (R240, R260). -/
def State.isLate (s : State) (n t : Nat) : Bool := decide (t ≤ s.cmt n) || s.injArmed 0x072 0

/-- The stamp at which a command takes effect, by the late rule of R240, and what a late one leaves. A late one counts as if stamped CMT + 1; neither acts
before the tick of the last enable. -/
def State.lateRule (s : State) (n : Nat) (m : Msg) (t : Nat) : Nat × State :=
  let cmt := s.cmt n
  let late := decide (t ≤ cmt)
  let op := if m.cadOp = 16 then 15 else m.cadOp
  let at_ := max (if late then cmt + 1 else t) (if s.cadEn n then (s.cad n).enabledAt else 0)
  if s.isLate n t then
    let s := if late then s else s.injTake 0x072 0
    let s := (s.bump 0x072 R.CAD_CNT_LATE n).notice n { stamp := cmt + 1, type := 3, w1 := op, w3 := m.sender }
    (at_, ((s.dlMiss n 4).jrnBreak 1 at_ (n + 16 * op)).pgEvt 0x072 0)
  else (at_, s)

/-- The variables of R242 as the last command delivered left them. -/
def Cadence.vars (c : Cadence) : Seg := c.segs.headD ⟨0, 0, 0, 0, 0, 0, 1, none⟩

/-- The remainder of the ramp at a stamp (R242). -/
def Cadence.remainder (c : Cadence) (t : Nat) : Int := c.vars.rampT - c.vars.applied t

/-- restart of R242 at stamp t: the ramp carries `amount`, and the rate becomes r. The course up to t stands; what the variables gave after t
gives way to the new stretch. `fresh` restarts the running extreme (R236). -/
def Cadence.restart (c : Cadence) (t : Nat) (amount r : Int) (slew : Nat) (fresh : Bool) : Cadence :=
  let g := (c.segAt t).getD ⟨t, 0, 0, 0, 0, 0, 1, none⟩
  let need := if r = 0 then 0 else (2 * amount.natAbs * 2 ^ 20 + r.natAbs - 1) / r.natAbs
  let a := if t = c.enabledAt then g.a else g.accAt ((t : Int) - 1) + r
  let ext := if fresh then none else if t ≤ g.start then g.ext else some (g.pos (t - 1))
  let seg : Seg := { start := t, a := a, rate := r, kDone := c.vars.kDone + c.vars.applied t, rampT := amount, rampS := t,
                     rampLen := max (max slew need) 1, ext := ext }
  { c with segs := seg :: c.segs.filter fun g => decide (g.start ≤ t) }

/-- A span record to the peer that spans a cadence (R375). -/
def State.spanEmit (s : State) (n : Nat) (rate : Bool) (t : Nat) (v : Int) : State :=
  if bit s.spanTo n && s.on 0x124 R.TAN_CFG_EN && !s.on 0x124 R.TAN_CFG_ROLE then { s with out := .span n rate (t % 2 ^ 42) v :: s.out } else s

/-- trim_cmd of R242. -/
def State.trimCmd (s : State) (n t : Nat) (req : Int) : State :=
  let c := s.cad n
  let cy := wrap (c.posAt t / 2 ^ 28) 14
  let used := if cy = c.usedCyc then c.used else 0
  let r := c.vars.rate
  let room : Int := if r = 0 then 0 else (min (s.crd n R.CAD_TRIM_MAX) (2 ^ 24) - used : Nat)
  let acc := max (-room) (min req room)
  let clip := wrap (req - acc) 28
  let s := if acc = req then s else
    (s.bump 0x072 R.CAD_CNT_CLIP n).notice n { stamp := t, type := 2, w1 := clip % 2 ^ 14, w2 := clip / 2 ^ 14 }
  let c := { s.cad n with used := used + acc.natAbs, usedCyc := cy }
  let s := s.setCourse n (c.restart t (c.remainder t + acc) r (s.crd n R.CAD_SLEW_TICKS) false)
  (s.recompute n t).spanEmit n false t acc

/-- rate_cmd of R242. -/
def State.rateCmd (s : State) (n t : Nat) (r : Int) : State :=
  let c := s.cad n
  let s := s.setCourse n (c.restart t (c.remainder t) r (s.crd n R.CAD_SLEW_TICKS) true)
  (s.recompute n t).spanEmit n true t r

/-- Whether a cadence of this device follows the tandem leader's (R375). -/
def State.spanned (s : State) (n : Nat) : Bool :=
  s.tandemFollows && bit (s.rd 0x124 R.TAN_SPAN_MASK) n

/-- Boundaries after the one at `t0` into cycle k, in order, until one lies at or after a target. -/
def Cadence.ahead (c : Cadence) (target : Int) : Nat → Nat → Int → List Nat
  | 0, _, _ => []
  | fuel + 1, t0, k =>
    match c.boundaryAfter t0 k with
    | none => []
    | some (b, k') => b :: (if target ≤ b then [] else c.ahead target fuel b k')

/-- The nearest of some times to a target, the earlier on a tie. -/
def nearest (target : Int) : List Nat → Option Nat
  | [] => none
  | b :: bs => match nearest target bs with
    | none => some b
    | some x =>
      let db := (target - b).natAbs
      let dx := (target - x).natAbs
      if db < dx ∨ (db = dx ∧ b ≤ x) then some b else some x

/-- A SYNC edge (R244). A late one counts once for the deadline monitor, by its stamp or by its distance from the boundary (R480). -/
def State.syncCmd (s : State) (n : Nat) (m : Msg) : State :=
  let e := s.absStamp m.stamp
  let tgt : Int := e + signed (s.crd n R.CAD_SYNC_OFS) 20
  let counted := s.isLate n (e + s.crd n R.CAD_SYNCW_DLY)
  let r7 := s.lateRule n m (e + s.crd n R.CAD_SYNCW_DLY)
  let t := r7.1
  let s := r7.2
  let c := s.cad n
  let (t0, k0) := c.latest
  let reject := fun (s : State) (k : Nat) (d : Int) =>
    let w := wrap d 28
    let s := if k = 2 ∧ !counted then s.dlMiss n 4 else s
    (s.bump 0x072 R.CAD_CNT_SYNCREJ n).notice n { stamp := t, type := 8, detail := k, w1 := w % 2 ^ 14, w2 := w / 2 ^ 14 }
  match nearest tgt ((c.bnds.map (·.1)) ++ (c.upToStamp t).ahead tgt 8192 t0 k0) with
  | none => reject s 3 0
  | some b =>
    let d := tgt - b
    let win : Int := 16 * s.crd n R.CAD_SYNCW_WIN
    if s.injArmed 0x072 1 then reject (s.injTake 0x072 1) 2 d
    else if win ≤ d then reject s 2 d
    else if d < -win then reject s 1 d
    else s.trimCmd n t (-(d * (c.rateAt t)).tdiv (2 ^ (20 + s.crd n R.CAD_CTRL_SYNC_GAIN)))

/-- The value of two or three payload words, signed. -/
def Msg.value (m : Msg) (k n : Nat) : Int := signed (((List.range n).map fun i => m.words.getD (k + i) 0 * 2 ^ (14 * i)).sum) (14 * n)

/-- Why an axis command is refused, if it is (R241, R251). A FREE that waits and is stamped before the command counts as done. -/
def State.axisRefuse (s : State) (n : Nat) (m : Msg) : Option Nat :=
  let a := m.arg % 512
  let st := match (s.axis a).free with
    | some f => if f ≤ s.absStamp m.stamp then 1 else s.ard a R.AX_STATE_STATE
    | none => s.ard a R.AX_STATE_STATE
  if !s.on 0x1000 R.AX_BIND_EN a || s.ard a R.AX_BIND_CAD ≠ n then some 2
  else if m.cadOp = 8 ∧ st ≠ 1 then some 5
  else if m.cadOp = 10 ∧ st ≠ 2 then some 5
  else none

/-- Why a table command is refused, if it is (R241). -/
def State.tableRefuse (s : State) (n t : Nat) : Option Nat :=
  if !s.tblEn t || s.rd (tablePage t) R.CAM_TBL_A_CAD ≠ n then some 2 else none

/-- The shadow's entry for a point in the generation that writes now join, its entry fixed for the armed flip, or the live copy (R181). -/
def State.shadowPoint (s : State) (t i : Nat) : Nat × Nat × Nat :=
  let g := (s.table t).gen
  match s.shadow.find? fun e => e.table = t ∧ e.point = i ∧ e.gen = g with
  | some e => (e.m, e.y, e.k)
  | none => match s.shadow.find? fun e => e.table = t ∧ e.point = i with
    | some e => (e.m, e.y, e.k)
    | none => s.pointAt (s.liveBase t) i

/-- The state once that point has been read: the live copy through the bank's detectors (R189). -/
def State.shadowRead (s : State) (t i : Nat) : State :=
  if s.shadow.any fun e => decide (e.table = t ∧ e.point = i) then s else (s.readCamRange (s.liveBase t + 16 + 12 * i) 12).2

/-- PT_M, PT_Y and PT_K (R255): replace a field of the selected point in the shadow, or are refused. DESIGN CHOICE (log entry 109): an entry made from a
point whose live line reads uncorrectable takes the bytes as they stand. -/
def State.pointCmd (s : State) (n : Nat) (m : Msg) : State :=
  match look (s.cad n).ptrs m.sender with
  | none => s.refuse n 4 m
  | some (t, i) =>
    match s.tableRefuse n t with
    | some k => s.refuse n k m
    | none =>
      if s.tblPoints t ≤ i then s.refuse n 4 m
      else
        let g := (s.table t).gen
        let hit := s.shadow.any fun e => decide (e.table = t ∧ e.point = i ∧ e.gen = g)
        if s.injArmed 0x07F 2 || (!hit && decide (4096 ≤ s.shadow.length)) then
          ((if s.injArmed 0x07F 2 then s.injTake 0x07F 2 else s).bump 0x07F R.CAM_BUF_REFUSED).refuse n 3 m
        else
          let r8 := s.lateRule n m (s.absStamp m.stamp)
          let s := r8.2
          let (pm, py, pk) := s.shadowPoint t i
          let s := s.shadowRead t i
          let v := wrap (m.value 1 2) 28
          let e : Shadow := match m.cadOp with
            | 4 => ⟨t, i, g, v, py, pk⟩
            | 5 => ⟨t, i, g, pm, v, pk⟩
            | _ => ⟨t, i, g, pm, py, v⟩
          let s := { s with shadow := (s.shadow.filter fun x => !decide (x.table = t ∧ x.point = i ∧ x.gen = g)) ++ [e] }
          let c := s.cad n
          if bit (m.words.getD 3 0) 0 then s.setCad n { c with ptrs := put c.ptrs m.sender (t, (i + 1) % 2 ^ 14) } else s

/-- FLIP (R256, R182 step 1): arms the flip, fixes the buffered entries of both generations, a later one before an earlier for the same
point (R188), and starts the commit pass. DESIGN CHOICE (log entry 109): an earlier entry that a later one overrides is freed at the arming. -/
def State.flipCmd (s : State) (n : Nat) (m : Msg) : State :=
  let t := m.arg
  match s.tableRefuse n t with
  | some k => s.refuse n k m
  | none =>
    if (s.table t).flip.isSome then s.refuse n 6 m
    else
      let r9 := s.lateRule n m (s.absStamp m.stamp)
      let at_ := r9.1
      let s := r9.2
      let g := (s.table t).gen
      let mine := s.shadow.filter fun (e : Shadow) => e.table = t
      let fixed := (mine.filter fun (e : Shadow) => e.gen = g || !(mine.any fun (x : Shadow) => decide (x.point = e.point ∧ x.gen = g))).map fun (e : Shadow) => { e with gen := g }
      let cy := m.words.getD 1 0 % 2 ^ 14
      let s := { s with shadow := (s.shadow.filter fun (e : Shadow) => e.table ≠ t) ++ fixed }
      let s := s.setTable t { s.table t with flip := some (cy, at_), gen := !g, pass := .running, armedAt := s.tb, lateAt := none }
      (s.wr (tablePage t) R.CAM_TBL_STAT_ARMED 1).wr (tablePage t) R.CAM_TBL_STAT_ARM_CYCLE cy

/-- An accepted or refused command of OP `op` (R239). -/
def State.cadExec (s : State) (n op : Nat) (m : Msg) : State :=
  let st := s.absStamp m.stamp
  if op = 1 ∨ op = 2 then
    if s.spanned n then s.refuse n 1 m
    else if !s.cadEn n then s.refuse n 2 m
    else
      let r10 := s.lateRule n m st
      let t := r10.1
      let s := r10.2
      if op = 1 then s.trimCmd n t (m.value 1 2) else s.rateCmd n t (m.value 1 3)
  else if op = 3 then
    match s.tableRefuse n m.arg with
    | some k => s.refuse n k m
    | none =>
      let r11 := s.lateRule n m st
      let s := r11.2
      let c := s.cad n
      s.setCad n { c with ptrs := put c.ptrs m.sender (m.arg, m.words.getD 1 0 % 2 ^ 14) }
  else if 4 ≤ op ∧ op ≤ 6 then s.pointCmd n m
  else if op = 7 then s.flipCmd n m
  else if 8 ≤ op ∧ op ≤ 10 then
    let a := m.arg % 512
    match s.axisRefuse n m with
    | some k => s.refuse n k m
    | none =>
      let r12 := s.lateRule n m st
      let t := r12.1
      let s := r12.2
      let x := s.axis a
      if op = 8 then s.setAxis a { x with couple := x.couple ++ [(m.words.getD 1 0 % 2 ^ 14, t)] }
      else if op = 9 then (s.setAxis a { x with free := some ((x.free.map fun f => min f t).getD t) }).applyFree a s.tb
      else s.setAxis a { x with shiftAt := some (m.value 1 2, max 1 (m.words.getD 3 0 % 2 ^ 14), t) }
  else if op = 16 then
    if s.spanned n || !s.on 0x072 R.CAD_CTRL_SYNC_EN n then s.refuse n 1 m
    else if !s.cadEn n then s.refuse n 2 m
    else s.syncCmd n m
  else s.refuse n 1 m

/-- The stamp after which a command has taken effect, for a snapshot: one that the cut at its own stamp leaves out, by its sender, counts as later (R425). -/
def State.cmdEffect (s : State) (n : Nat) (m : Msg) : Nat :=
  let t := s.absStamp m.stamp
  (if t ≤ s.cmt n then s.cmt n + 1 else t) + b2n (decide (0x119 ≤ m.sender))

/-- A command of cadence n: the deliverable message of its command input, if it carries this OP, is taken and acts. A message that R239
does not accept is taken by whichever command comes first, and refused. -/
def State.cadCommand (s : State) (n op : Nat) : State :=
  let chans := s.knownChans.filter fun ch => s.chOrd ch && !s.on (chanPage ch) R.FAB_CH_LO_TAN && s.rd (chanPage ch) R.FAB_CH_LO_RCV = 0x140 + n
  let wants := fun (m : Msg) => decide (m.cadOp = op ∨ m.cadOp = 0 ∨ (11 ≤ m.cadOp ∧ m.cadOp ≤ 15))
  match if s.domOn 3 then chans.find? fun ch => (s.deliverable ch).any wants else none with
  | none => s
  | some ch =>
    let taken := s.takeMsg ch
    match taken.1 with
    | some m => (taken.2.cadExec n m.cadOp m).notePast n (taken.2.cmdEffect n m) taken.2
    | none => taken.2

/-! ### Notices (R245) -/

/-- The next BOUNDARY notice: its stamp B − LEAD, the boundary and the cycle entered. -/
def Cadence.boundaryNote (c : Cadence) (lead : Nat) : Option (Nat × Nat × Int) :=
  let skip := (c.noted - c.cyc).natAbs
  let rec walk : Nat → Nat → Int → Option (Nat × Int)
    | 0, t0, k => c.boundaryAfter t0 k
    | j + 1, t0, k => match c.boundaryAfter t0 k with
      | some (b, k') => walk j b k'
      | none => none
  match walk skip c.latest.1 c.cyc with
  | none => none
  | some (b, k) =>
    let c' := c.upToStamp (b - lead)
    match (if c'.segs.isEmpty then none else c'.boundaryAfter (c.latest.1) c.cyc) with
    | some (b', k') => if skip = 0 then some (b' - lead, b', k') else some (b - lead, b, k)
    | none => some (b - lead, b, k)

/-- A failing comparison of a replay, or a stop of it with cause 4 or 5 (R431): the first is reported, with the recorded stamp, the hashes
and the marks; further ones are counted. Each is a health source. -/
def State.diverge (s : State) (cause c hr hl mr ml : Nat) : State :=
  let s := if s.on 0x062 R.JRN_DIV_VALID then s.bump 0x062 R.JRN_DIV_DIVCNT
    else
      let s := (((s.wr 0x062 R.JRN_DIV_VALID 1).wr 0x062 R.JRN_DIV_CAUSE cause).wr 0x062 R.JRN_DIV_C_LO_C c).wr 0x062 R.JRN_DIV_C_HI_C (c / 2 ^ 32)
      let s := ((s.wr 0x062 R.JRN_DIV_HR_LO_HASH hr).wr 0x062 R.JRN_DIV_HR_HI_HASH (hr / 2 ^ 32)).wr 0x062 R.JRN_DIV_HL_LO_HASH hl
      let s := ((s.wr 0x062 R.JRN_DIV_HL_HI_HASH (hl / 2 ^ 32)).wr 0x062 R.JRN_DIV_MK_REC mr).wr 0x062 R.JRN_DIV_MK_LOC ml
      s.wr 0x062 R.JRN_DIV_TMARK (b2n (mr ≠ 0 ∨ ml ≠ 0))
  let s := if s.on 0x062 R.JRN_RPL_STOP_ON_DIV ∨ cause = 4 ∨ cause = 5 then s.wr 0x062 R.JRN_RPL_STAT_STATE 3 else s
  s.pgEvt 0x020 15

/-- A replay's recorded notice against the bench's next of the same cadence, both with local stamps (R430 step 7). -/
def State.noteCompare (s : State) (rec own : JRec) : State :=
  if rec = own then s
  else s.diverge 2 (wrap ((rec.stamp : Int) + (s.rd 0x062 R.JRN_RPL_OFS_LO_OFS + s.rd 0x062 R.JRN_RPL_OFS_HI_OFS * 2 ^ 32)) 42) 0 0 0 0

/-- The cadence of a notice's record. -/
def JRec.cadence (k : JRec) : Nat := k.payload % 16

/-- The bench sends a notice during a replay: it is compared with the recorded one that waits for it, or waits itself. -/
def State.ownNotice (s : State) (k : JRec) : State :=
  match s.rpl.recNote.find? fun r => decide (r.cadence = k.cadence) with
  | some r => ({ s with rpl := { s.rpl with recNote := s.rpl.recNote.erase r } } : State).noteCompare r k
  | none => { s with rpl := { s.rpl with ownNote := s.rpl.ownNote ++ [k] } }

/-- The next notice of a cadence, and the cycle of a BOUNDARY notice (R245). -/
def State.nextNotice (s : State) (n : Nat) : Option (Note × Option Int) :=
  let c := s.cad n
  let first := c.notes.foldl (fun (b : Option Note) x => match b with
    | some y => if x.stamp < y.stamp then some x else b
    | none => some x) none
  let bn := (if s.cadEn n then c.boundaryNote (s.crd n R.CAD_NOTE_LEAD) else none).map fun (st, b, k) =>
    (boundaryNotice st b k, some k)
  match first, bn with
  | some x, some b => if x.stamp ≤ b.1.stamp then some (x, none) else some b
  | some x, none => some (x, none)
  | none, b => b

/-- Whether another cadence has an earlier notice for the same channel: notices of a channel go out in stamp order (R245). -/
def State.noticeWaits (s : State) (n stamp : Nat) : Bool :=
  (List.range 16).any fun m => decide (m ≠ n) && s.on 0x072 R.CAD_CTRL_NOTE_EN m &&
    decide (s.crd m R.CAD_CTRL_NOTE_CHAN = s.crd n R.CAD_CTRL_NOTE_CHAN) && (s.nextNotice m).any fun x => decide (x.1.stamp < stamp)

/-- NOTICE: the cadence's earliest notice whose stamp the timebase has reached is sent, unless notices are off, when it is dropped. -/
def State.sendNotice (s : State) (n : Nat) : State :=
  let c := s.cad n
  match s.nextNotice n with
  | none => s
  | some (x, k) =>
    if !s.domOn 3 || s.tb < x.stamp then s
    else
      let c' := match k with | some k => { c with noted := k } | none => { c with notes := c.notes.erase x }
      if !s.on 0x072 R.CAD_CTRL_NOTE_EN n then s.setCad n c'
      else if s.noticeWaits n x.stamp then s
      else
        let words := [n + 16 * x.type + 256 * x.detail, x.w1, x.w2, x.w3]
        let ch := s.crd n R.CAD_CTRL_NOTE_CHAN
        match s.trySend ch 0x11A (x.stamp % 2 ^ 42) 5 words with
        | none => s
        | some t =>
          let t := (t.setCad n { c' with cmt := max c'.cmt x.stamp })
          if t.rpl.going then t.ownNotice ⟨ch, 0x11A, x.stamp % 2 ^ 42, (⟨ch, 0x11A, x.stamp, 5, words⟩ : Msg).payload⟩ else t

/-! ### Enabling (R238) -/

/-- CAD_CTRL.EN = 1: A is placed at CAD_POS at the first tick after the write. -/
def State.cadEnable (s : State) (n : Nat) : State :=
  let pos := s.crd42 n R.CAD_POS_LO_VALUE R.CAD_POS_HI_VALUE
  let rate := signed (s.crd42 n R.CAD_RATE_LO_VALUE R.CAD_RATE_HI_VALUE) 42
  let k : Int := pos / 2 ^ 28
  let t := s.tb + 1
  let c := s.cad n
  let s := s.setCourse n { c with segs := [⟨t, pos * 2 ^ 20, rate, 0, 0, t, 1, none⟩], used := 0, usedCyc := wrap k 14, cyc := k, bnds := [],
                                  again := 0, before := (c.bnds.head?.map (·.1)).getD c.before, enabledAt := t, noted := k,
                                  startAt := none }
  (s.wr 0x072 R.CAD_CTRL_EN 1 n).showCad n

/-- The cadences that a replay has installed are enabled at local E (R430 step 3). -/
def State.startDue (s : State) : State :=
  s.cads.foldl (fun (t : State) (n, c) =>
    if c.startAt.any fun e => decide (e ≤ t.tb) then ((t.setCad n { t.cad n with startAt := none }).wr 0x072 R.CAD_CTRL_EN 1 n).showCad n else t) s

/-- The coupled and shifting axes of a selection enter freewheel with cause 4 at their next evaluation (R238, R257). -/
def State.dropAxes (s : State) (p : Nat → Bool) : State :=
  ((List.range 512).filter fun a => decide (2 ≤ s.ard a R.AX_STATE_STATE) && p a).foldl (fun (t : State) a => t.setAxis a { t.axis a with drop := true }) s

/-- CAD_CTRL.EN = 0: the position freezes and any ramp is discarded. The axes on the cadence, and those of its tables, enter freewheel. -/
def State.cadDisable (s : State) (n : Nat) : State :=
  let p := wrap ((s.cad n).posAt s.tb) 42
  let s := (s.wr 0x072 R.CAD_POS_LO_VALUE p n).wr 0x072 R.CAD_POS_HI_VALUE (p / 2 ^ 32) n
  let s := (s.setCourse n { s.cad n with segs := [] }).wr 0x072 R.CAD_CTRL_EN 0 n
  s.dropAxes fun a => decide (s.ard a R.AX_BIND_CAD = n) || decide (s.rd (tablePage (s.ard a R.AX_BIND_TABLE)) R.CAM_TBL_A_CAD = n)

/-- A write of CAD_CTRL. -/
def State.writeCadCtrl (s : State) (n data : Nat) : State :=
  let a := R.CAD_CTRL_EN.addr 0x072 n
  let s := s.jrnHost a
  let was := s.cadEn n
  let s := s.applyWrite a (setBits data 0 1 (b2n was))
  if bit data 0 && !was then s.cadEnable n else if !bit data 0 && was then s.cadDisable n else s

/-- A read of CAD_POS_LO: while the cadence is enabled it samples the position (R263). -/
def State.cadPosRead (s : State) (n : Nat) : State :=
  let p := wrap ((s.cad n).posAt s.tb) 42
  let s := if s.cadEn n then (s.wr 0x072 R.CAD_POS_LO_VALUE p n).wr 0x072 R.CAD_POS_HI_VALUE (p / 2 ^ 32) n else s
  { s with out := .regRead (R.CAD_POS_LO_VALUE.addr 0x072 n) (s.reg (R.CAD_POS_LO_VALUE.addr 0x072 n)) :: s.out }

/-! ### Tables (R178 to R182, R257, R262) -/

/-- A table that is enabled, or whose enable scan waits. -/
def State.tblBusy (s : State) (t : Nat) : Bool := s.tblEn t || (s.table t).scan

/-- The failing check of an enable that needs no scan: 4 for a bad field, 1 for an overlap, 0 for none (R178, R262). DESIGN CHOICE (log entry 109): a
table whose enable scan waits counts as enabled for the overlap. -/
def State.tblRefuse (s : State) (t : Nat) : Nat :=
  let p := s.tblPoints t
  let len := regionBytes p
  if s.rd (tablePage t) R.CAM_TBL_A_SPAN = 3 ∨ p < 2 ∨ 16384 < p ∨ 0x200000 < s.tblOfs t + len then 4
  else if (s.knownTables.filter fun x => x ≠ t && s.tblBusy x).any fun x =>
      decide (s.tblOfs t < s.tblOfs x + regionBytes (s.tblPoints x) ∧ s.tblOfs x < s.tblOfs t + len) &&
      (List.range 8).any fun b => s.usesBank t b && s.usesBank x b then 1
  else 0

/-- A table is disabled (R181, R257): its flip is disarmed, its pass stops, its shadow entries are freed, and its axes enter freewheel. -/
def State.disableTable (s : State) (t : Nat) : State :=
  let p := tablePage t
  let s := { s.wr p R.CAM_TBL_A_EN 0 with shadow := s.shadow.filter fun e => e.table ≠ t }
  ((s.setTable t {}).wr p R.CAM_TBL_STAT_ARMED 0).dropAxes fun a => decide (s.ard a R.AX_BIND_TABLE = t)

/-- A write of CAM_TBL_A for the table that CAM_TBL_IDX selects (R178, R180, R257, R262). -/
def State.writeTblA (s : State) (data : Nat) : State :=
  let t := s.rd 0x071 R.CAM_TBL_IDX_IDX
  let p := tablePage t
  let s := s.jrnHost 0x7104C
  let fields := fun (s : State) => s.applyWrite (R.CAM_TBL_A_EN.addr p 0) (setBits data 31 1 0)
  if bit data 31 then
    if s.tblBusy t then s.wr p R.CAM_TBL_STAT_REFUSE 5
    else
      let s := fields s
      let k := s.tblRefuse t
      if k ≠ 0 then s.wr p R.CAM_TBL_STAT_REFUSE k
      else
        let s := (List.range (s.tblSpan t)).foldl (fun (u : State) j => if u.domOn (56 + u.copyBank t j) then u else u.startWake (56 + u.copyBank t j)) s
        s.setTable t { s.table t with scan := true }
  else (fields s).disableTable t

/-- What a copy that has been read says: its generation, if its header and its check are right (R180). -/
def State.copyValid (s : State) (t base : Nat) (r : Bool × State) : Option Nat × State :=
  let p := s.tblPoints t
  let h := r.2.bytes base 16
  let ok := !r.1 && decide (leNat ((h.drop 4).take 2) = p) && decide (leNat ((h.drop 6).take 2) = t) &&
    decide (leNat ((h.drop 8).take 4) = crc32c (r.2.bytes (base + 16) (12 * p)))
  (if ok then some (leNat (h.take 4)) else none, r.2)

/-- A copy of a table as the scan reads it (R180): its generation if it is valid. DEDUCED (log entry 19): a copy with an uncorrectable line, or in
a bank that is not on, is not valid. -/
def State.scanCopy (s : State) (t j : Nat) : Option Nat × State :=
  if !s.domOn (56 + s.copyBank t j) then (none, s)
  else s.copyValid t (s.copyBase t j) (s.readCamRange (s.copyBase t j) (16 + 12 * s.tblPoints t))

/-- CAM_TABLE_SCAN (R180): once the table's banks have come on, the live copy is the valid one with the highest GEN; without one, or with a
copy whose masters do not increase, the table is not enabled. -/
def State.tableScan (s : State) (t : Nat) : State :=
  let p := tablePage t
  let span := s.tblSpan t
  if !s.domOn 3 || !(s.table t).scan || (List.range span).any fun j => (s.dom (56 + s.copyBank t j)).going.isSome then s
  else
    let r := (List.range span).foldl (fun (q : List (Nat × Nat) × State) j =>
      let x := q.2.scanCopy t j
      (q.1 ++ (x.1.toList.map fun g => (j, g)), x.2)) ([], s)
    let s := r.2.setTable t { r.2.table t with scan := false }
    let best := r.1.foldl (fun (b : Option (Nat × Nat)) x => match b with
      | some y => if 0 < signed (wrap ((x.2 : Int) - y.2) 32) 32 then some x else b
      | none => some x) none
    match best with
    | none => (s.disableTable t).wr p R.CAM_TBL_STAT_REFUSE 2
    | some (j, _) =>
      if r.1.all fun (i, _) => s.ordered (s.copyBase t i) (s.tblPoints t) then (s.wr p R.CAM_TBL_STAT_LIVE j).wr p R.CAM_TBL_A_EN 1
      else (s.disableTable t).wr p R.CAM_TBL_STAT_REFUSE 3

/-- A cam bank that returns from off has the enabled tables with a copy in it scanned again (R180). -/
def State.rescan (s : State) (b : Nat) : State :=
  (s.enabledTables.filter fun t => s.usesBank t b).foldl (fun (u : State) t => u.setTable t { u.table t with scan := true }) s

/-- A write of CAM_TBL_B or CAM_TBL_ADV: dropped with REFUSE 5 while the table is enabled (R262). -/
def State.writeTblField (s : State) (f : Fld) (data : Nat) : State :=
  let p := tablePage (s.rd 0x071 R.CAM_TBL_IDX_IDX)
  if s.tblBusy (s.rd 0x071 R.CAM_TBL_IDX_IDX) then s.wr p R.CAM_TBL_STAT_REFUSE 5 else s.wr p f data

/-! ### The axis table (R247, R264) -/

/-- A write of AX_BIND: bindings change only while the axis is off or in freewheel; an enable beyond the demand is dropped. -/
def State.writeAxBind (s : State) (a data : Nat) : State :=
  let adr := R.AX_BIND_EN.addr 0x1000 a
  let s := s.jrnHost adr
  let was := s.on 0x1000 R.AX_BIND_EN a
  let bound := fun (s : State) => if s.ard a R.AX_STATE_STATE < 2 then s.applyWrite adr (setBits data 31 1 (b2n was)) else s
  let t := ((bound s).awr a R.AX_BIND_EN (data / 2 ^ 31))
  if bit data 31 && !was && decide (32000000 < t.demand) then s.wr 0x071 R.CAM_LOAD_REFUSE 1
  else
    let t := if bit data 31 && !was then (t.awr a R.AX_STATE_STATE 1).awr a R.AX_VEL_VEL 0 else t
    let t := if !bit data 31 && was then ((t.awr a R.AX_STATE_STATE 0).awr a R.AX_SHIFT_LEFT 0).setAxis a {} else t
    t.showDemand

/-- A write of another word of the axis table: "freewheel" fields only while STATE is 0 or 1 (R264). -/
def State.writeAxis (s : State) (a off data : Nat) : State :=
  let adr := 0x1000000 + 64 * a + off
  if off = 0x00 then s.writeAxBind a data
  else
  let s := s.jrnHost adr
  if (off = 0x04 ∨ off = 0x14 ∨ off = 0x24) ∧ 2 ≤ s.ard a R.AX_STATE_STATE then s
  else s.applyWrite adr data

/-- A write of CAM_PORTp: a rate beyond the demand is dropped (R247). -/
def State.writeCamPort (s : State) (p data : Nat) : State :=
  let t := s.applyWrite (R.CAM_PORT_RATE.addr 0x071 p) data
  if 32000000 < t.demand ∧ s.demand < t.demand then s.wr 0x071 R.CAM_LOAD_REFUSE 1
  else ((s.servoNote p).applyWrite (R.CAM_PORT_RATE.addr 0x071 p) data).showDemand

/-! ### Commands -/

def execTimerefLoss (s : State) : Result := .next s.timerefLoss
def execPllRelock (s : State) (locked : Bool := true) : Result := .next (if locked then s.pllRelock else s.refBack)
def execSlewEnd (s : State) : Result := .next s.slewEnd
def execTbAdjGo (ofs : BitVec 28) (s : State) : Result := .next (s.hostAt 0x070 fun s => s.tbAdjGo ofs.toNat)
def execTbNowRead (s : State) : Result := .next (s.host State.tbNowRead)
def execCadenceEnable (n : Fin 16) (data : Reg) (s : State) : Result :=
  .next (s.hostAt 0x072 fun s => s.writeCadCtrl n (setBits data.toNat 0 1 1))
def execCadenceDisable (n : Fin 16) (data : Reg) (s : State) : Result :=
  .next (s.hostAt 0x072 fun s => s.writeCadCtrl n (setBits data.toNat 0 1 0))
def execCadPosRead (n : Fin 16) (s : State) : Result :=
  .next (s.host fun s => if s.pageOn 0x072 then s.cadPosRead n else { s with out := .regRead (R.CAD_POS_LO_VALUE.addr 0x072 n) 0 :: s.out })
def execTrim (n : Fin 16) (s : State) : Result := .next (s.cadCommand n 1)
def execRate (n : Fin 16) (s : State) : Result := .next (s.cadCommand n 2)
def execPtSel (n : Fin 16) (s : State) : Result := .next (s.cadCommand n 3)
def execPtM (n : Fin 16) (s : State) : Result := .next (s.cadCommand n 4)
def execPtY (n : Fin 16) (s : State) : Result := .next (s.cadCommand n 5)
def execPtK (n : Fin 16) (s : State) : Result := .next (s.cadCommand n 6)
def execFlip (n : Fin 16) (s : State) : Result := .next (s.cadCommand n 7)
def execCouple (n : Fin 16) (s : State) : Result := .next (s.cadCommand n 8)
def execFree (n : Fin 16) (s : State) : Result := .next (s.cadCommand n 9)
def execShift (n : Fin 16) (s : State) : Result := .next (s.cadCommand n 10)
def execSyncEdge (n : Fin 16) (s : State) : Result := .next (s.cadCommand n 16)
def execCadenceBoundary (n : Fin 16) (s : State) : Result := .next (s.cadBoundary n)
def execNotice (n : Fin 16) (s : State) : Result := .next (s.sendNotice n)
def execCamEvaluation (port : Fin 8) (late : Bool) (s : State) : Result := .next (s.camEvaluation port late)
def execTableEnable (data : Reg) (s : State) : Result := .next (s.hostAt 0x071 fun s => s.writeTblA (setBits data.toNat 31 1 1))
def execTableDisable (data : Reg) (s : State) : Result := .next (s.hostAt 0x071 fun s => s.writeTblA (setBits data.toNat 31 1 0))
def execAxisEnable (axis : Fin 512) (data : Reg) (s : State) : Result :=
  .next (s.hostAt 0x071 fun s => s.writeAxBind axis (setBits data.toNat 31 1 1))
def execCommitPass (table : Fin 1024) (s : State) : Result := .next (s.commitPass table)
def execCamTableScan (table : Fin 1024) (s : State) : Result := .next (s.tableScan table)

end Sys2Proof.Machine
end

