-- ==== Sys2Proof/Machine/Chain.lean ====
section
/-! DEFINITION. The chain ports (chapter 11): states and requests, commits, the command image, cycles and frames, feedback, breaks of a
redundant ring, parameters, sample streams and the start-up commands. -/

namespace Sys2Proof.Machine

/-- The pages of a port's streams and parameters, and of node a of its node table. -/
def strPage (p : Nat) : Nat := chnPage p + 2
def parPage (p : Nat) : Nat := chnPage p + 3
def nodePage (p a : Nat) : Nat := 0x17000 + 64 * p + a

/-! ### Durations (R331), in tenths of a nanosecond -/

/-- The blocks of a stream in a bulk frame (R361). -/
def State.streamBlocks (s : State) (p i : Nat) : Nat :=
  let b := s.rd (strPage p) R.CHN_STR_BLK i
  if b = 0 then 128 else max 2 b

/-- The enabled streams of a port. -/
def State.streams (s : State) (p : Nat) : List Nat := (List.range 16).filter fun i => s.on (strPage p) R.CHN_STR_EN i

def State.cyclicTime (s : State) (p : Nat) : Nat := 64 * (6 + 4 * s.chnNodes p)
def State.bulkTime (s : State) (p : Nat) : Nat := 64 * (14 + ((s.streams p).map (s.streamBlocks p)).sum)

/-- Whether recovery within the cycle of a break of a redundant ring is certain (R351, R359). -/
def State.recovOk (s : State) (p : Nat) : Bool :=
  s.chnRed p && decide (2 * (10 * s.rd (chnPage p) R.CHN_LAT_RL + s.cyclicTime p) + 6000 ≤ 10 * s.deadlineNs p)

/-! ### Events and captures (R356, R359) -/

/-- CHN_CAP records an error of a cycle. -/
def State.chnCapture (s : State) (p cause : Nat) (n : Int) (badn : Nat := 0x7F) : State :=
  let g := chnPage p
  (((s.capture g R.CHN_CAP_VALID R.CHN_CAP_OVR).wr g R.CHN_CAP_CYCLE (wrap n 14)).wr g R.CHN_CAP_CAUSE cause).wr g R.CHN_CAP_BADN badn

/-- A counted frame error, its capture and the frame event. -/
def State.frameError (s : State) (p : Nat) (f : Fld) (cause : Nat) (badn : Nat := 0x7F) : State :=
  ((s.bump (chnPage p) f).chnCapture p cause (s.port p).cycle badn).pgEvt (chnPage p) 0

/-! ### Digest items (R419, R420) -/

/-- The lowest-numbered enabled axis slot that names a node. -/
def State.axisOf (s : State) (p a : Nat) : Option Nat :=
  s.enabledAxes.find? fun x => decide (s.ard x R.AX_BIND_PORT = p ∧ s.ard x R.AX_BIND_NODE = a)

/-- A 16-byte digest item's node form (R419): NEW and STALE cleared, words beyond IMGW 0. -/
def nodeItem (r : Area) (a : Nat) (img : List Nat) (w : Nat) : List Byte :=
  leBytes 4 r.pos ++ leBytes 4 (wrap (signed r.vel 28) 32) ++ leBytes 1 (b2n r.axv + 2 * b2n r.coupled) ++ leBytes 1 a ++
  (List.range 3).flatMap fun i => leBytes 2 (if i < w then img.getD i 0 else 0)

/-- The digest items of a commit (R419, R420): with the image words and the STALE bits of the frame that it caught. -/
def State.commitItems (s : State) (p : Nat) (l : Latch) (stale : List Nat) (img : Sparse (List Nat)) : List DigItem :=
  let timing := l.late || !stale.isEmpty
  let nodes := (List.range (s.chnNodes p)).filter fun a => (s.axisOf p a).isSome || decide (0 < s.rd (nodePage p a) R.CHN_NCFG_IMGW)
  { tick := l.tick, cas := l.cas, entry := l.entry, part := 1, bytes := [], late := false, timing := timing } ::
  nodes.map fun a => { tick := l.tick, cas := l.cas, entry := l.entry, part := 2 + a, bytes := nodeItem (l.areas.getD a {}) a (lookD img a []) (s.rd (nodePage p a) R.CHN_NCFG_IMGW),
                       late := false, timing := false }

/-- The digest items of a commit that its target discards (R419): the command areas are those that it would latch. DESIGN CHOICE (log entry 116): a port that reads no
image gives the words that it last used. -/
def State.discardItems (s : State) (p : Nat) (l : Latch) : State :=
  if s.recording || s.rpl.going then
    { s with jrn := { s.jrn with items := s.jrn.items ++ s.commitItems p l [] (s.port p).img } }
  else s

/-! ### Port states and requests (R348 to R350) -/

/-- A closing port shows SECOND and the state of the port that it closes the ring of (R350). -/
def State.chnFollow (s : State) : State :=
  upTo 8 (fun (t : State) q =>
    let t := t.wr (chnPage q) R.CHN_RED_SECOND (b2n (t.chnLead q).isSome)
    match t.chnLead q with
    | some p => t.wr (chnPage q) R.CHN_STAT_STATE (t.chnState p)
    | none => t) s

/-- A port's live state is cleared; the origin of its cycles stays, as CHN_ORG does in a soft reset (R359). Commits that wait for their frame are discarded. -/
def State.clearPort (s : State) (p : Nat) : State :=
  (((s.port p).latches.foldl (fun (t : State) l => t.discardItems p l) s).setPort p {}).chnFollow

/-- A port's live state is lost, with the origin of its cycles. -/
def State.dropPort (s : State) (p : Nat) : State := ({ s with chnOrg := del s.chnOrg p, servoWas := del s.servoWas p } : State).clearPort p

/-- A port takes a state, and its closing port with it (R350). Commits that wait are discarded when it leaves RUN; a port that enters RUN while
HALT's other conditions hold asserts the brake (R483). -/
def State.setPortState (s : State) (p v : Nat) (n : Int) : State :=
  let was := s.chnState p
  let s := if v = chRun then s else (s.port p).latches.foldl (fun (t : State) l => t.discardItems p l) s
  let x := s.port p
  let x := { x with latches := if v = chRun then x.latches else [], braked := none }
  let x := if was < chSafe ∧ chSafe ≤ v then
      { x with cycle := n - 1, fed := true, bulk := [false, true], got := [], sent := 0, bad := 0, broken := false } else x
  let s := (s.setPort p x).wr (chnPage p) R.CHN_STAT_STATE v
  let s := if v < chSafe then ((s.wr (chnPage p) R.CHN_STAT_LOCKED 0).wr (chnPage p) R.CHN_STAT_SPLIT 0).wr (chnPage p) R.CHN_STAT_LIM 0 else s
  s.chnFollow.brakeIfHalt

/-- The cycle at which a port's accepted request takes effect: the first that starts at least 1 µs after the write (R348). -/
def State.requestCycle (s : State) (p : Nat) : Option (Nat × Int) :=
  (s.port p).req.map fun (v, t) => (v, s.cycleAt p ((t : Int) + 999) + 1)

/-- The time at which the brake asserted last. -/
def State.brakeTime (s : State) : Nat := s.absStamp (s.rd 0x020 R.HLT_BRK_T_LO_STAMP + s.rd 0x020 R.HLT_BRK_T_HI_STAMP * 2 ^ 32)

/-- The time of an assertion of the brake that a port in RUN has yet to act on: one that asserts, or one that met the port in RUN and has been cleared since. -/
def State.portBrake (s : State) (p : Nat) : Option Nat :=
  if s.chnState p ≠ chRun then none
  else if s.on 0x020 R.HLT_BRAKE_ACTIVE then some s.brakeTime else (s.port p).braked

/-- PORT_STATE_CHANGE (R348): what takes effect by now: the accepted request at its cycle start, and the brake, which moves a port in
RUN to SAFE at the next cycle start and leaves a request for a later one standing. -/
def State.portSettle (s : State) (p : Nat) : State :=
  let s := match s.requestCycle p with
    | some (v, n) => if s.cycleStart p n ≤ (s.tb : Int) then (s.setPort p { s.port p with req := none }).setPortState p v n else s
    | none => s
  match s.portBrake p with
  | some t =>
    let n := s.cycleAt p (t : Int) + 1
    if s.cycleStart p n ≤ (s.tb : Int) then s.setPortState p chSafe n else s
  | none => s

/-- The words of the command image run past the end of the shared store. -/
def State.imgPastEnd (s : State) (p : Nat) : Bool := decide (262144 < 512 * s.rd (chnPage p) R.CHN_IMG_BASE + 1024)

/-- Why a request is refused (R349); 0 when it is allowed. DEDUCED (log entry 20): causes 2, 5 and 6 bear on SAFE and RUN. -/
def State.portRefuse (s : State) (p v : Nat) : Nat :=
  let g := chnPage p
  let st := s.chnState p
  let n := s.chnNodes p
  let q := s.chnPartner p
  let img := s.on g R.CHN_IMG_EN
  if v < chSafe then 0
  else if v = chRun ∧ st ≠ chSafe then 1
  else if v = chSafe ∧ !(decide (chInit ≤ st) || (decide (st = chSilent) && (s.port p).listed)) then 1
  else if 4 < s.rd g R.CHN_CYC_PER ∨ 16 * 2 ^ s.rd g R.CHN_CYC_PER < n ∨
      10 * s.deadlineNs p < 320 + 10 * s.rd g R.CHN_LAT_RL + s.cyclicTime p + 64 + s.bulkTime p + 2000 then 2
  else if v = chRun ∧ (!s.on g R.CHN_STAT_LOCKED || (List.range n).any fun a => s.on (nodePage p a) R.CHN_NSTAT_FAULT) then 3
  else if v = chRun ∧ (s.on 0x020 R.HLT_BRAKE_ACTIVE || s.on 0x030 R.DBG_BENCH_EN) then 4
  else if s.chnRed p && (decide (s.rd (chnPage q) R.CHN_CYC_PER ≠ s.rd g R.CHN_CYC_PER) ||
      decide (s.rd (chnPage q) R.CHN_ORG_LO_ORG ≠ s.rd g R.CHN_ORG_LO_ORG) || decide (s.rd (chnPage q) R.CHN_ORG_HI_ORG ≠ s.rd g R.CHN_ORG_HI_ORG) ||
      decide (s.chnState q ≠ st)) then 5
  else if img && (s.imgPastEnd p || (decide (v = chRun) && !s.domOn (8 + s.rd g R.CHN_IMG_CAS))) then 6
  else 0

/-- A write of CHN_CTRL.REQ (R348, R349). A closing port ignores its own. -/
def State.portRequest (s : State) (p v : Nat) : State :=
  if (s.chnLead p).isSome ∨ 4 < v then s
  else
    let k := s.portRefuse p v
    if k ≠ 0 then (s.wr (chnPage p) R.CHN_STAT_REFUSE k).wr (chnPage p) R.CHN_CTRL_REQ (s.chnState p)
    else (s.setPort p { s.port p with req := some (v, s.tb) }).wr (chnPage p) R.CHN_CTRL_REQ v

/-- A write of CHN_CYC, CHN_ORG or CHN_RED: only in OFF, SILENT and INIT (R349). The origin is the time nearest the present that the
written stamp names. -/
def State.writeChnSetup (s : State) (p off data : Nat) : State :=
  let a := chnPage p * 4096 + off
  if chSafe ≤ s.chnState p then s.pgErr (chnPage p) (some (off, data))
  else
    let s := (s.servoNote p).applyWrite a data
    let org := s.rd (chnPage p) R.CHN_ORG_LO_ORG + s.rd (chnPage p) R.CHN_ORG_HI_ORG * 2 ^ 32
    let s := { s with chnOrg := put s.chnOrg p ((s.tb : Int) + stampDiff org s.now) }
    s.showDemand.chnFollow

/-! ### Commits (R272, R342) -/

/-- Whether cycle n of a port begins a servo period (R248, R339). -/
def State.servoCycle (s : State) (p : Nat) (n : Int) : Bool := decide (s.servoStamp p (s.cycleStart p n) = some (s.cycleStart p n))

/-- The command area that a commit latches for a node, for the frame that starts at C (R342). -/
def State.areaFor (s : State) (p a : Nat) (servo : Bool) (c : Int) : Area :=
  match s.axisOf p a with
  | none => {}
  | some _ =>
    let g := lookD s.staging (64 * p + a) {}
    { pos := g.pos, vel := g.vel, axv := true, coupled := g.coupled, fresh := servo && decide (g.at_ = c) }

/-- What a commit released at a tick latches: the staging, for the first cycle that starts at or after the tick (R272, R342). -/
def State.commitLatch (s : State) (p tick cas entry : Nat) : Latch :=
  let n := s.cycleAt p ((tick : Int) - 1) + 1
  let servo := s.servoCycle p n
  let areas := (List.range (s.chnNodes p)).map fun a => s.areaFor p a servo (s.cycleStart p n)
  ⟨tick, cas, entry, areas, servo && areas.any fun r => r.axv && !r.fresh⟩

/-- A commit released at a tick: it latches the staging, unless the port is not in RUN, when it is discarded: `none` (R272, R348). A commit for a closing port
is discarded too: those of its ring use the leader (R350; DEDUCED, log entry 94). -/
def State.chainCommit (s : State) (p tick cas entry : Nat) : Option State :=
  let s := s.portSettle p
  if s.chnState p ≠ chRun ∨ (s.chnLead p).isSome then none
  else some (s.setPort p { s.port p with latches := (s.port p).latches ++ [s.commitLatch p tick cas entry] })

/-- A commit that is discarded at its target. -/
def State.commitDiscard (s : State) (p tick cas entry : Nat) : State :=
  let s := s.portSettle p
  s.discardItems p (s.commitLatch p tick cas entry)

/-! ### The command image (R341) -/

/-- The words of an image node. DESIGN CHOICE (log entry 21): an uncorrectable word reads as a free value. -/
def State.readImage (s : State) (cas a : Nat) : Nat → List Nat × State
  | 0 => ([], s)
  | w + 1 =>
    let r1 := s.readImage cas a w
    let ws := r1.1
    let s := r1.2
    let r2 := s.readShared cas (a + w)
    let s := r2.2.2
    if r2.1 = .uncorrectable then
      let drawn := s.freeDraw 14
      (ws ++ [drawn.1], drawn.2)
    else (ws ++ [r2.2.1.toNat], s)

/-- IMAGE_READ (R341): the port reads the image for the coming cycle. DEDUCED (log entry 22): how many of the nodes' accesses are made by C
is timing, and comes as an operand. -/
def State.imageRead (s : State) (p upTo_ : Nat) : State :=
  let g := chnPage p
  let n := s.cycleAt p s.tb + 1
  let x := s.port p
  let lead : Int := max 500 (s.rd g R.CHN_TIME_IMG)
  let running := decide (s.chnState p = chRun) || (s.requestCycle p).any fun (v, k) => decide (v = chRun ∧ k ≤ n)
  if !s.on g R.CHN_IMG_EN || !s.domOn (40 + p) || !running || decide (s.tb < s.cycleStart p n - lead) || decide (x.imgFor = some n) then s
  else
    let cas := s.rd g R.CHN_IMG_CAS
    let base := 512 * s.rd g R.CHN_IMG_BASE + 512 * wrap n 1
    let r2 := s.readImage cas base 1
    let tag := r2.1
    let s := r2.2
    let inj := s.injArmed g 3
    let s := if inj then s.injTake g 3 else s
    let nodes := (List.range (s.chnNodes p)).filter fun a => decide (0 < s.rd (nodePage p a) R.CHN_NCFG_IMGW)
    if inj ∨ tag.headD 0 ≠ wrap n 14 then s.setPort p { x with imgFor := some n, stale := List.range (s.chnNodes p) }
    else
      let now := nodes.take upTo_
      let r3 := now.foldl (fun (q : Sparse (List Nat) × State) a =>
        let r4 := q.2.readImage cas (base + 4 + 4 * a) (q.2.rd (nodePage p a) R.CHN_NCFG_IMGW)
        let ws := r4.1
        let t := r4.2
        (put q.1 a ws, t)) (x.img, s)
      let img := r3.1
      let s := r3.2
      s.setPort p { x with imgFor := some n, stale := nodes.drop upTo_, img := img }

/-! ### Cyclic frames (R334, R340, R342) -/

/-- The slot of a node as the port sends it: 0 in every feedback area. -/
def slotBytes (r : Area) (stale : Bool) (img : List Nat) : List Byte :=
  leBytes 4 r.pos ++ leBytes 4 (wrap (signed r.vel 28) 32) ++
  leBytes 1 (b2n r.axv + 2 * b2n r.coupled + 4 * b2n r.fresh + 8 * b2n stale) ++ zeros 1 ++
  (List.range 3).flatMap (fun i => leBytes 2 (img.getD i 0)) ++ zeros 16

/-- The command areas of the frame of the present cycle: those of the last commit in RUN, zero in SAFE (R342). -/
def State.cyclicBody (s : State) (p : Nat) : List Byte :=
  let x := s.port p
  (List.range (s.chnNodes p)).flatMap fun a =>
    if s.chnState p = chRun then slotBytes (x.areas.getD a {}) (decide (a ∈ x.sentStale)) (lookD x.sentImg a []) else zeros 32

/-- The image words that a cycle sends, and the nodes that carry STALE: with the image not read by C, or read for another cycle, every
node's previous words (R341). -/
def State.imageOf (s : State) (p : Nat) (n : Int) : List Nat :=
  let x := s.port p
  if !s.on (chnPage p) R.CHN_IMG_EN then []
  else if x.imgFor = some n then x.stale
  else (List.range (s.chnNodes p)).filter fun a => decide (0 < s.rd (nodePage p a) R.CHN_NCFG_IMGW)

/-- The request record of a bulk frame (R335, R354). -/
def State.requestRecord (s : State) (p : Nat) : List Byte :=
  if (s.port p).par.isSome then
    (List.range 6).flatMap (fun j => leBytes 4 (s.rd (parPage p) R.CHN_PAR_REQ_BYTES j)) ++ zeros 8
  else leBytes 1 0xFF ++ zeros 31

/-- A cyclic and a bulk frame leave a port of a ring. -/
def State.sendPair (s : State) (p tx : Nat) (n : Int) (lim : Nat) (dir cmt : Bool) : State :=
  let s := s.sendFrame tx ((s.header p 0 n lim dir cmt false).frame (s.cyclicBody p))
  let streams := (s.streams p).flatMap fun i => zeros (8 * s.streamBlocks p i)
  s.sendFrame tx ((s.header p 1 n lim dir cmt false).frame (s.requestRecord p ++ leBytes 1 0xFF ++ zeros 31 ++ streams))

/-! ### Feedback (R343, R350) -/

/-- A node's slot in a received frame. -/
def slotIn (f : List Byte) (a : Nat) : List Byte := (f.drop (32 + 32 * a)).take 32
def slotProc (f : List Byte) (a : Nat) : Bool := bit (fieldAt f (32 + 32 * a + 20) 1) 0

/-- The frame that a node processed, with the side it came back on. -/
def ChainPort.frameFor (x : ChainPort) (a : Nat) : Option (Bool × List Byte) := x.got.find? fun g => slotProc g.2 a

/-- A node's feedback in its registers, and the node event when it reports FAULT or leaves OP in RUN (R343, R356). SIDE shows the frame's DIR: the closing
port sent it (R350, R360). -/
def State.nodeFeedback (s : State) (p a : Nat) : State :=
  let g := nodePage p a
  match (s.port p).frameFor a with
  | none => if (s.port p).got.isEmpty then s else s.bump g R.CHN_NSTAT_MISS
  | some (_, f) =>
    let o := 32 + 32 * a
    let st := fieldAt f (o + 20) 2
    let ev := decide (s.chnState p = chRun) && ((bit st 4 && !s.on g R.CHN_NSTAT_FAULT) || (decide (s.rd g R.CHN_NSTAT_NSTATE = 4) && decide (bits st 1 3 ≠ 4)))
    let s := (((s.wr g R.CHN_NSTAT_NSTATE (bits st 1 3)).wr g R.CHN_NSTAT_FAULT (bits st 4 1)).wr g R.CHN_NSTAT_POWERED (bits st 5 1)).wr g
      R.CHN_NSTAT_BRAKED (bits st 6 1)
    let s := upTo 4 (fun (t : State) j => t.wr g R.CHN_NFB_FB (fieldAt f (o + 16 + 4 * j) 4) j) (s.wr g R.CHN_NSTAT_SIDE (bits (fieldAt f 1 1) 1 1))
    if ev then s.pgEvt (chnPage p) 2 else s

/-- The feedback messages of a node (R343). -/
def State.nodeMessages (s : State) (p a : Nat) : State :=
  let g := nodePage p a
  if !s.on g R.CHN_NCFG_FBEN then s
  else
    let f := ((s.port p).frameFor a).map (·.2)
    let o := 32 + 32 * a
    let w := fun k => match f with | some f => fieldAt f (o + 20 + 2 * k) 2 % 2 ^ 14 | none => 0
    let fpos := match f with | some f => fieldAt f (o + 16) 4 % 2 ^ 28 | none => 0
    let fst := match f with | some f => fieldAt f (o + 20) 2 | none => 0
    let ch := s.rd g R.CHN_NCFG_CHAN
    let c := wrap (s.cycleStart p (s.port p).cycle) 42
    let s := s.hwSend ch (0x110 + p) c 2
      [a + 64 * b2n f.isSome + 128 * bits fst 1 3 + 1024 * bits fst 4 1 + 2048 * bits fst 5 1 + 4096 * bits fst 6 1, fpos % 2 ^ 14, fpos / 2 ^ 14, w 1]
    if s.on g R.CHN_NCFG_FB2 then s.hwSend ch (0x110 + p) c 2 [a + 64 * b2n f.isSome + 2 ^ 13, w 2, w 3, w 4] else s

/-- The cycle's feedback goes into the registers and, in RUN, into the ordered domain, in address order (R340, R343). -/
def State.feed (s : State) (p : Nat) : State :=
  let n := s.chnNodes p
  let s := upTo n (fun (t : State) a => t.nodeFeedback p a) s
  let s := if s.chnState p = chRun then upTo n (fun (t : State) a => t.nodeMessages p a) s else s
  let locked := decide (0 < n) && (List.range n).all fun a => decide (3 ≤ s.rd (nodePage p a) R.CHN_NSTAT_NSTATE)
  (s.setPort p { s.port p with fed := true, got := [] }).wr (chnPage p) R.CHN_STAT_LOCKED (b2n locked)

/-- FEEDBACK_DEADLINE (R340): a cycle whose feedback has not been sent by D sends it with what has returned; each frame that has not returned is
lost (R356). -/
def State.feedbackDeadline (s : State) (p : Nat) : State :=
  let x := s.port p
  if x.fed || !s.domOn (40 + p) || decide (s.chnState p < chSafe) || decide (s.tb < s.cycleStart p x.cycle + s.deadlineNs p) then s
  else
    (upTo (x.sent - x.got.length - x.bad) (fun (t : State) _ => t.frameError p R.CHN_ERR0_FLOST 1) s).feed p

/-! ### Breaks (R351) -/

/-- Whether a frame of the present cycle may still start: not after C + T − 1,000 ns (R340 step 7). -/
def State.mayStart (s : State) (p : Nat) (n : Int) : Bool := decide ((s.tb : Int) + 1000 ≤ s.cycleStart p (n + 1))

/-- A break is detected: counted, with the ring event; the closing port sends the recovery frame with the commands and the CMT of the cycle, if it may still
start, and split mode follows at the next cycle. -/
def State.breakFound (s : State) (p : Nat) (j : Option Nat) : State :=
  let x := s.port p
  let s := ((s.bump (chnPage p) R.CHN_ERR0_BREAK).chnCapture p 3 x.cycle).pgEvt (chnPage p) 1
  let sends := s.mayStart p x.cycle
  let s := if sends then
      (s.sendFrame (s.chnPartner p) ((s.header p 0 x.cycle 0 true x.cmt true).frame (s.cyclicBody p))).bump (chnPage p) R.CHN_ERR1_RECOV
    else s
  s.setPort p { s.port p with broken := true, nextJ := j, sent := x.sent + b2n sends }

/-- RING_BREAK_TIMEOUT (R351 step 1): in normal mode no frame has arrived good at the closing port by 200 ns after its expected arrival. -/
def State.ringTimeout (s : State) (p : Nat) : State :=
  let x := s.port p
  let g := chnPage p
  let due := 10 * (s.cycleStart p x.cycle + 32 + s.rd g R.CHN_LATN_LATN + 200) + s.cyclicTime p
  if !s.chnRed p || s.on g R.CHN_STAT_SPLIT || x.fed || x.broken || !s.domOn (40 + p) || decide (s.chnState p < chSafe) || decide (10 * (s.tb : Int) < due) then s
  else s.breakFound p none

/-- The frame in hand belongs to the merge of R350; when every frame of the cycle has returned, the feedback is sent. -/
def State.takeFrame (s : State) (p : Nat) (side : Bool) (f : List Byte) : State :=
  let x := s.port p
  let s := s.setPort p { x with got := x.got ++ [(side, f)] }
  if x.got.length + 1 + x.bad < x.sent then s else s.feed p

/-- A frame has been received (R357), by a receiver that is in lock (R438). -/
def State.hear (s : State) (rx : Nat) : State := (s.setPort rx { s.port rx with heard := s.tb }).relocked (40 + rx)

/-- What LOOP of a frame of the present cycle shows, its header being good (R351 steps 1 and 4, R356): a break of a single ring, the limit of a ring that is
broken in this cycle, or a break of a redundant ring in normal mode. -/
def State.loopRead (s : State) (p : Nat) (side : Bool) (loop : Nat) : State :=
  let x := s.port p
  let g := chnPage p
  if !s.chnRed p then
    if loop + 1 < s.chnNodes p then ((s.bump g R.CHN_ERR0_BREAK).chnCapture p 3 x.cycle).pgEvt g 1 else s
  else if s.on g R.CHN_STAT_SPLIT || x.broken then
    if x.broken && !side then s.setPort p { x with nextJ := some (loop + 1) }
    else if x.broken && x.nextJ.isNone then s.setPort p { x with nextJ := some loop } else s
  else if side && loop = 0xFF then s
  else s.breakFound p (some (loop + 1))

/-- A frame of the ring has come back whole in normal mode: through all the nodes of a single ring, or to the closing port (R359). -/
def State.wentRound (s : State) (p : Nat) (side : Bool) (loop : Nat) : Bool :=
  if s.chnRed p then side && decide (loop = 0xFF) && !s.on (chnPage p) R.CHN_STAT_SPLIT && !(s.port p).broken else decide (s.chnNodes p ≤ loop + 1)

/-- A frame with a bad FCRC (R356): counted, and BADN captured. -/
def State.badFcrc (s : State) (p : Nat) (f : List Byte) : State :=
  let badn := frameBadn f
  s.frameError p R.CHN_ERR0_FCRC 2 (if badn < 64 then badn else 0x7F)

/-- A frame of the present cycle comes too late: after D, or after its cycle (R340). -/
def State.frameLate (s : State) (p : Nat) (f : List Byte) : Bool :=
  let n := (s.port p).cycle
  decide (s.cycleStart p n + s.deadlineNs p < s.tb) || decide (frameCycle f ≠ wrap n 32)

/-- CYCLIC_FRAME_RETURN (R340, R350, R351, R356): a cyclic frame arrives at a receiver, with its head latency. What LOOP shows holds whatever the FCRC. -/
def State.cyclicReturn (s : State) (rx : Nat) (f : List Byte) (latn : Nat) : State :=
  let p := (s.chnLead rx).getD rx
  let g := chnPage p
  let side := decide (rx ≠ p)
  if !s.domOn (40 + rx) then s
  else if s.chnState p < chSafe then s.hear rx
  else
    let s := s.hear rx
    let x := s.port p
    if s.injArmed g 1 then s.injTake g 1
    else if !hcrcGood f || frameType f ≠ 0 then s.frameError p R.CHN_ERR1_BADHDR 6
    else if s.frameLate p f || x.fed then s.frameError p R.CHN_ERR0_LATEFRM 4
    else if s.injArmed g 0 || !fcrcGood f then
      let s := if s.injArmed g 0 then s.injTake g 0 else s
      let s := if side then s else s.loopRead p false (frameLoop f)
      let s := s.badFcrc p f
      s.setPort p { s.port p with bad := x.bad + 1 }
    else
      let inj := s.injArmed g 2
      let s := if inj then s.injTake g 2 else s
      let loop := if inj then 0 else frameLoop f
      let whole := s.wentRound p side loop
      let s := s.loopRead p side loop
      let s := if whole then s.wr g R.CHN_LATN_LATN latn else s
      s.takeFrame p side (if inj && !s.chnRed p then (f.take 64) ++ zeros (32 * (s.chnNodes p - 1)) ++ f.drop (32 + 32 * s.chnNodes p) else f)

/-! ### Cycles (R340, R351 step 4, R352) -/

/-- The modes of a redundant ring at a cycle start: a rejoin returns to normal, a break of the last cycle splits (R351, R352). -/
def State.ringMode (s : State) (p : Nat) : State :=
  let x := s.port p
  let g := chnPage p
  let s := if x.rejoin then
      ((s.setPort p { x with rejoin := false }).wr g R.CHN_STAT_SPLIT 0).wr g R.CHN_STAT_LIM 0 |>.pgEvt g 1
    else s
  let x := s.port p
  if x.broken then
    let j := x.nextJ.getD (s.chnNodes p)
    (((s.setPort p { x with nextJ := none, broken := false }).wr g R.CHN_STAT_SPLIT 1).wr g R.CHN_STAT_LIM j).pgEvt g 1
  else s

/-- The misses of the deadline monitors at a cycle in RUN that begins a servo period (R480): NOCMT, and STALE. -/
def State.cycleMisses (s : State) (p : Nat) (n : Int) (cmt stale : Bool) : State :=
  if !s.servoCycle p n then s
  else
    let cads := ((s.enabledAxes.filter fun a => s.ard a R.AX_BIND_PORT = p).map fun a => s.ard a R.AX_BIND_CAD).dedup
    cads.foldl (fun (t : State) c =>
      let t := if cmt then t else t.dlMiss c 1
      if stale then t.dlMiss c 2 else t) s

/-- Whether the bulk frame that serves a stream was lost: of both ports in split mode, each its own side (R350, R355). -/
def State.bulkLost (s : State) (p i : Nat) : Bool :=
  let b := (s.port p).bulk
  if s.on (chnPage p) R.CHN_STAT_SPLIT then !b.contains (decide (s.rd (chnPage p) R.CHN_STAT_LIM ≤ s.rd (strPage p) R.CHN_STR_NODE i)) else b.isEmpty

/-- CHAIN_CYCLE_START (R340): the next cycle of a port in SAFE or RUN starts; in the other states only the cycle number moves. A closing port
sends with its leader. Frames start only by C + T − 1,000 ns. -/
def State.cycleBegin (s : State) (p : Nat) : State :=
  if (s.chnLead p).isSome || !s.domOn (40 + p) then s
  else
    let s := s.portSettle p
    let x := s.port p
    let g := chnPage p
    if s.chnState p < chSafe then s.wr g R.CHN_CNT_CYCLE (wrap (s.cycleAt p s.tb) 32)
    else
      let n := x.cycle + 1
      let c := s.cycleStart p n
      if s.tb < c then s
      else
        let s := if x.fed then s else s.feedbackDeadline p
        let s := ((s.streams p).filter fun i => s.bulkLost p i).foldl (fun (t : State) i => t.bump (strPage p) R.CHN_STRC_MISS i) s
        let s := s.ringMode p
        let run := decide (s.chnState p = chRun)
        let mine := (s.port p).latches.filter fun l => decide ((l.tick : Int) ≤ c)
        let cmt := run && !mine.isEmpty
        let stale := s.imageOf p n
        let s := if run && !stale.isEmpty then ((s.bump g R.CHN_ERR1_IMGLATE).chnCapture p 5 n).pgEvt g 0 else s
        let x := s.port p
        let items := if run && (s.recording || s.rpl.going) then mine.flatMap fun l => s.commitItems p l stale x.img else []
        let x := match mine.getLast? with
          | some l => { x with areas := l.areas, sentImg := x.img, sentStale := stale }
          | none => { x with areas := x.areas.map fun (r : Area) => { r with fresh := false } }
        let split := s.on g R.CHN_STAT_SPLIT
        let sends := s.mayStart p n
        let x := { x with cycle := n, latches := x.latches.filter fun l => decide (c < (l.tick : Int)), got := [], fed := false, bad := 0, bulk := [],
                          cmt := cmt, sent := if sends then 1 + b2n split else 0 }
        let s := s.setPort p x
        let s := { s with jrn := { s.jrn with items := s.jrn.items ++ items } }
        let s := s.wr g R.CHN_CNT_CYCLE (wrap n 32)
        let s := if run then s.cycleMisses p n cmt (!x.sentStale.isEmpty) else s
        if !sends then s
        else if split then
          let j := s.rd g R.CHN_STAT_LIM
          (s.sendPair p p n j false cmt).sendPair p (s.chnPartner p) n j true cmt
        else s.sendPair p p n (s.chnNodes p) false cmt

/-! ### Bulk frames: streams and parameters (R354, R355, R220) -/

/-- The queue that takes a chain stream: the lowest-numbered enabled one that selects it (R355). -/
def State.streamQueue (s : State) (n : Nat) : Option Nat :=
  (List.range 256).find? fun q => decide (s.qrd q R.QCFG_EN = 1 ∧ s.qrd q R.QSRC_KIND = 2 ∧ s.qrd q R.QSRC_ID = n)

/-- The words that a port holds in its own buffer (R219). -/
def State.portBuffered (s : State) (p : Nat) : Nat :=
  (((List.range 256).filter fun q => decide (s.qrd q R.QSRC_KIND = 2) &&
    (decide (s.qrd q R.QSRC_ID / 16 = p) || decide (s.qrd q R.QSRC_ID = 128 + p))).map fun q => (s.queue q).buffer.length).sum

/-- A port pushes one word: into the queue, or into its own buffer while the queue waits; with 64 words there, the rest of the packet is dropped and
the packet counted (R219, R220). -/
def State.chainPush (s : State) (p q : Nat) (w : Nat × Bool) (first : Bool) : State :=
  let x := s.queue q
  if x.dropPacket then s.setQueue q { x with dropPacket := !w.2 }
  else
    let loss := first && x.afterLoss
    let x := if loss then { x with afterLoss := false } else x
    let direct := if x.buffer.isEmpty && x.waiting.isNone then
        (s.setQueue q { x with lossNext := x.lossNext || loss }).qTryPush q w.1 w.2 else none
    match direct with
    | some t => t
    | none =>
      if s.portBuffered p < 64 then s.setQueue q { x with buffer := x.buffer ++ [(w.1, w.2, loss)] }
      else (s.setQueue q { x with dropPacket := !w.2, afterLoss := true }).bump (qPage q) R.QCNT_PLOSS (q % 16)

/-- A port pushes a packet, with EOP on its last word. -/
def State.chainPacket (s : State) (p q : Nat) (ws : List Nat) : State :=
  ws.zipIdx.foldl (fun (t : State) (w, i) => t.chainPush p q (w, decide (i + 1 = ws.length)) (decide (i = 0))) s

/-- The stream area of a stream at an offset of a bulk frame (R335, R355). -/
def State.streamArea (s : State) (p i off : Nat) (f : List Byte) : State :=
  let g := strPage p
  if !bit (fieldAt f (off + 4) 1) 0 then s.bump g R.CHN_STRC_MISS i
  else
    let seq := fieldAt f off 2 % 2 ^ 14
    let x := s.port p
    let key := i
    let gap := match look x.seqs key with | some k => decide (seq ≠ (k + 1) % 2 ^ 14) | none => false
    let s := s.setPort p { x with seqs := put x.seqs key seq }
    let s := if gap then s.bump g R.CHN_STRC_GAP i else s
    match s.streamQueue (16 * p + i) with
    | none => s.bump g R.CHN_STRC_MISS i
    | some q =>
      let n := min (fieldAt f (off + 2) 2 % 2 ^ 14) (4 * (s.streamBlocks p i - 1))
      (s.chainPacket p q ([seq, n] ++ (List.range n).map fun k => fieldAt f (off + 8 + 2 * k) 2 % 2 ^ 14)).bump g R.CHN_STRC_PKT i

/-- An outstanding parameter request ends, with the command event (R354, R356). -/
def State.parEnd (s : State) (p result : Nat) : State :=
  let g := parPage p
  let s := s.setPort p { s.port p with par := none }
  ((s.wr g R.CHN_PAR_CMD_DONE 1).wr g R.CHN_PAR_CMD_RESULT result).pgEvt (chnPage p) 3

/-- The reply record of a bulk frame (R354): a reply with the outstanding TAG and a STATUS other than 1 ends the request. -/
def State.reply (s : State) (p : Nat) (f : List Byte) : State :=
  let x := s.port p
  if x.par.isNone || decide (fieldAt f 64 1 = 0xFF) || decide (fieldAt f 70 1 ≠ x.tag) || decide (fieldAt f 65 1 = 1) then s
  else match s.streamQueue (128 + p) with
    | none => s.parEnd p 3
    | some q => (s.chainPacket p q ((List.range 24).map fun k => fieldAt f (64 + k) 1)).parEnd p 0

/-- BULK_FRAME_RETURN (R355): the streams whose nodes the frame served, in ascending number, and the reply. A frame that
is not good, or that comes after D, carries nothing, and is counted as a cyclic one (R340, R356). -/
def State.bulkReturn (s : State) (rx : Nat) (f : List Byte) : State :=
  let p := (s.chnLead rx).getD rx
  let side := decide (rx ≠ p)
  if !s.domOn (40 + rx) then s
  else if s.chnState p < chSafe then s.hear rx
  else
    let s := s.hear rx
    if !hcrcGood f then s.frameError p R.CHN_ERR1_BADHDR 6
    else if frameType f ≠ 1 then s
    else if s.frameLate p f then s.frameError p R.CHN_ERR0_LATEFRM 4
    else if !fcrcGood f then s.badFcrc p f
    else
      let split := s.on (chnPage p) R.CHN_STAT_SPLIT
      let j := s.rd (chnPage p) R.CHN_STAT_LIM
      let r := (s.streams p).foldl (fun (q : Nat × State) i =>
        let mine := !split || (side == decide (j ≤ s.rd (strPage p) R.CHN_STR_NODE i))
        (q.1 + 8 * s.streamBlocks p i, if mine then q.2.streamArea p i q.1 f else q.2)) (96, s)
      let s := r.2.setPort p { r.2.port p with bulk := side :: (r.2.port p).bulk }
      s.reply p f

/-- A write of CHN_PAR_CMD with GO (R354): the request is placed with the next TAG, which overwrites byte 6. -/
def State.parRequest (s : State) (p data : Nat) : State :=
  let g := parPage p
  let s := s.applyWrite (R.CHN_PAR_CMD_GO.addr g 0) data
  if !bit data 0 || (s.port p).par.isSome then s
  else if s.chnState p < chSafe then s.parEnd p 2
  else
    let x := s.port p
    let tag := (x.tag + 1) % 256
    let s := s.setPort p { x with tag := tag, par := some (s.cycleAt p s.tb) }
    s.wr g R.CHN_PAR_REQ_BYTES (setBits (s.rd g R.CHN_PAR_REQ_BYTES 1) 16 8 tag) 1

/-- PARAMETER_TIMEOUT (R354): TMO cycles have passed without a reply. -/
def State.parTimeout (s : State) (p : Nat) : State :=
  match (s.port p).par with
  | none => s
  | some n =>
    if s.domOn (40 + p) && decide (n + (max 1 (s.rd (parPage p) R.CHN_PAR_CMD_TMO) : Nat) ≤ s.cycleAt p s.tb) then
      (s.bump (chnPage p) R.CHN_ERR1_PARTMO).parEnd p 1
    else s

/-! ### Start-up commands (R345, R346, R352) -/

/-- The header of a frame of R346, sent in INIT for the present cycle. -/
def State.startHeader (s : State) (p ty lim : Nat) (dir : Bool) (lreq : Nat) (clr : Bool) : Header :=
  let h := s.header p ty (s.cycleAt p s.tb) lim dir false false
  { h with lreq := lreq, flags := h.flags + 32 * b2n clr }

/-- A chain command begins at a port in INIT (R346, R347): BUSY, and the frame that carries it out. -/
def State.chnCmdStart (s : State) (p op : Nat) : State :=
  let g := chnPage p
  let s := (s.setPort p { s.port p with cmdAt := s.tb, cmdOp := op }).wr g R.CHN_CMD_BUSY 1
  let n := s.chnNodes p
  let q := s.chnPartner p
  let records := zeros 1024
  if op = 1 then
    let s := s.sendWake p
    if s.chnRed p then s.sendWake q else s
  else if op = 2 then s.sendFrame p ((s.startHeader p 2 64 false 0xFF true).frame records)
  else
    let s := s.sendFrame p ((s.startHeader p 3 n false ((n + 255) % 256) false).frame records)
    if s.chnRed p then s.sendFrame q ((s.startHeader p 3 0 true 0 false).frame records) else s

/-- A write of CHN_CMD (R346): while a command runs only GO is ignored (R359). With GO and no command running, OP starts; outside INIT a start-up step is refused with FAIL. On a closing port no OP starts:
CHN_CMD of its ring is the leader's (R350). -/
def State.chnCommand (s : State) (p data : Nat) : State :=
  let g := chnPage p
  let busy := s.on g R.CHN_CMD_BUSY
  let s := s.applyWrite (R.CHN_CMD_OP.addr g 0) data
  let op := data % 8
  if !bit data 8 || busy || (s.chnLead p).isSome then s
  else if op = 4 then
    (s.setPort p { s.port p with rejoin := s.on g R.CHN_STAT_SPLIT, cmdOp := 4 }).wr g R.CHN_CMD_BUSY 1
  else if op = 0 ∨ 4 < op then s
  else if s.chnState p ≠ chInit then s.wr g R.CHN_CMD_FAIL 1
  else s.chnCmdStart p op

/-- A start-up command ends (R346). -/
def State.cmdEnd (s : State) (p : Nat) (ok : Bool) : State :=
  let g := chnPage p
  (((s.wr g R.CHN_CMD_BUSY 0).wr g R.CHN_CMD_DONE 1).wr g R.CHN_CMD_FAIL (b2n (!ok))).pgEvt g 3

/-- The enumerate frame has returned (R336, R346): the node table. -/
def State.enumerated (s : State) (p : Nat) (f : List Byte) : State :=
  let g := chnPage p
  let n := frameProc f
  if 64 < n then (s.wr g R.CHN_STAT_OVER 1).cmdEnd p false
  else
    let s := upTo n (fun (t : State) a =>
      let o := 32 + 16 * a
      let d := nodePage p a
      let t := ((t.wr d R.CHN_NID0_VENDOR (fieldAt f o 2)).wr d R.CHN_NID0_PRODUCT (fieldAt f (o + 2) 2)).wr d R.CHN_NID1_SERIAL (fieldAt f (o + 4) 4)
      ((((t.wr d R.CHN_NID2_CLASS (fieldAt f (o + 8) 1)).wr d R.CHN_NID2_STREAMS (fieldAt f (o + 9) 1)).wr d R.CHN_NID2_PMIN (fieldAt f (o + 10) 1)).wr d
        R.CHN_NID2_FB2CAP (fieldAt f (o + 11) 1))) s
    (((s.setPort p { s.port p with listed := true }).wr g R.CHN_STAT_NODES n).wr g R.CHN_STAT_OVER 0).cmdEnd p true

/-- The delays of a loop through nodes (R345), in units of 1/16 ns: `rec` gives T_F, T_R, PD and RD of a node. The cable to the first node, then
along the loop; the quotients are those of the rule's C expressions. -/
def loopDelays (rt : Int) (rec : Nat → Int × Int × Int × Int) : List Nat → List (Nat × Int)
  | [] => []
  | n0 :: ns =>
    let r := fun n => let (tf, tr, _, _) := rec n; (tr - tf) % 2 ^ 32
    let (_, _, _, rd0) := rec n0
    let go := fun (q : List (Nat × Int) × Nat × Int) n =>
      let (_, _, pd, _) := rec q.2.1
      let (_, _, _, rd) := rec n
      let cab := (r q.2.1 - r n - pd - rd).tdiv 2
      (q.1 ++ [(n, q.2.2 + pd + cab)], n, q.2.2 + pd + cab)
    let d0 := (rt - r n0 - rd0).tdiv 2
    (ns.foldl go ([(n0, d0)], n0, d0)).1

/-- The record of a node in a delay-measure frame (R336). -/
def delayRecord (f : List Byte) (n : Nat) : Int × Int × Int × Int :=
  let o := 32 + 16 * n
  (fieldAt f o 4, fieldAt f (o + 4) 4, fieldAt f (o + 8) 2, fieldAt f (o + 10) 2)

/-- The loops of a measurement have returned (R345): delays, RL, and the delay-set frame. DESIGN CHOICE (log entry 23): RL is the greater rt in
whole nanoseconds, rounded up. -/
def State.measured (s : State) (p : Nat) (loops : List (List Byte × Nat)) : State :=
  let n := s.chnNodes p
  let u := match loops with | (f, rt) :: _ => loopDelays rt (delayRecord f) (List.range n) | [] => []
  let d := match loops with | _ :: (f, rt) :: _ => loopDelays rt (delayRecord f) (List.range n).reverse | _ => []
  let of := fun (l : List (Nat × Int)) a => wrap ((look l a).getD 0) 32
  let s := upTo n (fun (t : State) a => (t.wr (nodePage p a) R.CHN_NDLYU_DLY (of u a)).wr (nodePage p a) R.CHN_NDLYD_DLY (of (sortBy (fun x y => decide (x.1 ≤ y.1)) d) a)) s
  let rl := (loops.map (·.2)).foldl max 0
  let records := (List.range 64).flatMap fun a =>
    if a < n then leBytes 4 (s.rd (nodePage p a) R.CHN_NDLYU_DLY) ++ leBytes 4 (s.rd (nodePage p a) R.CHN_NDLYD_DLY) ++ zeros 8 else zeros 16
  let s := s.wr (chnPage p) R.CHN_LAT_RL ((rl + 15) / 16)
  (s.sendFrame p ((s.startHeader p 4 n false 0xFF false).frame records)).cmdEnd p true

/-- The receiver at which a ring's frames arrive in normal mode: the closing port's in a redundant ring (R346, R350). -/
def State.closingRx (s : State) (p : Nat) : Nat := if s.chnRed p then s.chnPartner p else p

/-- CHN_CMD_DONE (R346): the running command ends, if what came back ends it: for Wake the sync headers that the closing receiver has seen, for Enumerate and
Measure the frames with the port's own times in units of 1/16 ns. Wake is done once lock has been held for 1 ms, and fails after 100 ms; a frame must return within
1 ms. A rejoin ends once the port has sent in normal mode. -/
def State.chnCmdDone (s : State) (p : Nat) (headers : List (Bool × Nat)) (loops : List (List Byte × Nat)) : State :=
  let g := chnPage p
  let rx := s.closingRx p
  let lock := (s.port rx).lock.see headers
  let s := s.setPort rx { s.port rx with lock := lock }
  let s := if lock.locked then s.relocked (40 + rx) else s
  if !s.on g R.CHN_CMD_BUSY || !s.domOn (40 + p) then s
  else
    let since := s.tb - (s.port p).cmdAt
    let late := decide (1000000 < since)
    let good := loops.filter fun l => hcrcGood l.1 && fcrcGood l.1 && decide (frameType l.1 = (s.port p).cmdOp)
    match (s.port p).cmdOp with
    | 1 => if (s.port rx).lock.heldFor 1000000 then s.cmdEnd p true else if 100000000 < since then s.cmdEnd p false else s
    | 2 => match good with
      | (f, _) :: _ => if late then s.cmdEnd p false else s.enumerated p f
      | [] => if late then s.cmdEnd p false else s
    | 3 =>
      if late then s.cmdEnd p false
      else if (if s.chnRed p then 2 else 1) ≤ good.length then s.measured p good else s
    | _ => if (s.port p).rejoin then s else s.cmdEnd p true

/-! ### Idle retention (R357) -/

/-- CHAIN_IDLE_RETENTION: a port in OFF or SILENT that has received no frame for IDLE µs asks for retention of its domain; true when it does. -/
def State.chnIdle (s : State) (p : Nat) : Bool :=
  let us := s.rd (chnPage p) R.CHN_PWR_IDLE
  s.domOn (40 + p) && decide (s.chnState p ≤ chSilent ∧ us ≠ 0 ∧ (s.port p).heard + 1000 * us ≤ s.tb)

/-! ### Commands -/

def execImageRead (port : Fin 8) (nodes : Fin 65) (s : State) : Result := .next (s.imageRead port nodes)
def execChainCycleStart (port : Fin 8) (s : State) : Result := .next (s.cycleBegin port)
def execCyclicFrameReturn (rx : Fin 8) (frame : List Byte) (latn : BitVec 20) (s : State) : Result := .next (s.cyclicReturn rx frame latn.toNat)
def execRingBreakTimeout (port : Fin 8) (s : State) : Result := .next (s.ringTimeout port)
def execFeedbackDeadline (port : Fin 8) (s : State) : Result := .next (s.feedbackDeadline port)
def execBulkFrameReturn (rx : Fin 8) (frame : List Byte) (s : State) : Result := .next (s.bulkReturn rx frame)
def execParameterRequest (port : Fin 8) (data : Reg) (s : State) : Result :=
  .next (s.hostAt (parPage port) fun s => s.parRequest port (setBits data.toNat 0 1 1))
def execParameterTimeout (port : Fin 8) (s : State) : Result := .next (s.parTimeout port)
def execPortRequest (port : Fin 8) (req : BitVec 3) (s : State) : Result := .next (s.hostAt (chnPage port) fun s => s.portRequest port req.toNat)
def execPortStateChange (port : Fin 8) (s : State) : Result := .next (if s.domOn (40 + port) then s.portSettle port else s)
def execChnWake (port : Fin 8) (s : State) : Result := .next (s.hostAt (chnPage port) fun s => s.chnCommand port 0x101)
def execChnEnumerate (port : Fin 8) (s : State) : Result := .next (s.hostAt (chnPage port) fun s => s.chnCommand port 0x102)
def execChnMeasure (port : Fin 8) (s : State) : Result := .next (s.hostAt (chnPage port) fun s => s.chnCommand port 0x103)
def execChnRejoin (port : Fin 8) (s : State) : Result := .next (s.hostAt (chnPage port) fun s => s.chnCommand port 0x104)
def execChnCmdDone (port : Fin 8) (headers : List (Bool × Nat)) (loops : List (List Byte × Nat)) (s : State) : Result := .next (s.chnCmdDone port headers loops)

end Sys2Proof.Machine
end

