-- ==== Sys2Proof/Machine/Release.lean ====
section
/-! DEFINITION. The release banks (R265 to R275): arming, killing, release in order of tick, and what each action does to its target. -/

namespace Sys2Proof.Machine

/-! ### Slack meters (R452) -/

/-- A slack as tm.r and the meters show it (R113). -/
def clampSlack (x : Int) : Int := max (-134217727) (min x 134217727)

/-- A physical cog's slack meter takes a sample. -/
def State.slackSample (s : State) (i : Nat) (x : Int) (late : Bool) : State :=
  let p := cogPage i
  let x := clampSlack x
  let c := s.cog i
  let least := if c.samples = 0 then x else min x (signed (s.rd p R.COG_SLACK_MIN) 28)
  let s := s.setCog i { c with samples := c.samples + 1, lates := c.lates + b2n late }
  let s := ((s.wr p R.COG_SLACK_MIN (wrap least 28)).wr p R.COG_SLACK_SAMPLED 1).bump p R.COG_SLACK_CNT_ARMS
  if late then s.bump p R.COG_SLACK_CNT_LATE else s

/-! ### Entries (R265 to R270, R274) -/

/-- The page of a release bank, and the key of an entry. -/
def relPage (c : Nat) : Nat := 0x090 + c
def relKey (c e : Nat) : Nat := 256 * c + e

/-- The logical owner of an entry (R265, R287). -/
def State.relOwner (s : State) (c e : Nat) : Nat := bits (s.reg (R.REL_OWN_OWN0.addr (relPage c) (e / 8))).toNat (4 * (e % 8)) 4

/-- The number of armed entries of a bank, and REL_STAT.ARMED. -/
def State.relArmed (s : State) (c : Nat) : Nat := (s.rel.filter fun x => decide (x.1 / 256 = c)).length
def State.showRel (s : State) (c : Nat) : State := s.wr (relPage c) R.REL_STAT_ARMED (s.relArmed c)

/-- The fields of an action (R267). -/
def actType (a : Nat) : Nat := bits a 39 3
def actPh (a : Nat) : Bool := bit a 38
def actCad (a : Nat) : Nat := bits a 34 4
def actFine (a : Nat) : Nat := bits a 32 2

/-- How far a cadence's position at a time lies short of a target, along its direction, modulo 2^42 within half the range (R269). -/
def Cadence.short (c : Cadence) (target t : Nat) : Int :=
  let d := signed (wrap ((target : Int) - c.posAt t) 42) 42
  if c.rateAt t < 0 then -d else d

/-- The first tick after `t0` at which a cadence reaches a target position (R269). -/
def Cadence.reachesAt (c : Cadence) (target t0 : Nat) : Option Nat :=
  let t0 := max t0 (c.enabledAt - 1)
  let p := c.posAt t0
  let goal := p + signed (wrap ((target : Int) - p) 42) 42
  c.reach t0 goal goal

/-- The release tick of an entry that is due: its stamp; the tick at which the cadence reaches its position; the present tick when LATE. -/
def State.relTick (s : State) (e : RelEntry) : Option Nat :=
  let due := fun (t : Nat) => if t ≤ s.tb then some t else none
  if e.late then some s.tb
  else if actPh e.act then
    if s.cadEn (actCad e.act) then ((s.cad (actCad e.act)).reachesAt e.s e.armed).bind due else none
  else due ((e.armed : Int) + stampDiff e.s (e.armed % 2 ^ 42)).toNat

/-- The entry that releases next: the least (tick, cassette, entry) of those due (R275). -/
def State.relNext (s : State) : Option (Nat × Nat × RelEntry) :=
  s.rel.foldl (fun (b : Option (Nat × Nat × RelEntry)) (k, e) =>
    match s.relTick e, b with
    | none, _ => b
    | some t, none => some (t, k, e)
    | some t, some (t', _, _) => if t < t' then some (t, k, e) else b) none

/-! ### Actions (R272, R275) -/

/-- An action is discarded at its target. -/
def State.relDiscard (s : State) (c : Nat) : State := s.bump (relPage c) R.REL_CNT_DISCARD

/-- The last edge on a pin, if it lies less than 1 ns from a time: its time, the level before it, its bank. -/
def Pin.clash (x : Pin) (time : Nat) : Option (Nat × Bool × Nat) := x.last.filter fun y => decide (time < y.1 + 4 ∧ y.1 < time + 4)

/-- The last edge on a pin is taken back, to the level before it. -/
def State.unplaceEdge (s : State) (n time : Nat) (before : Bool) : State :=
  let s := s.setPin n { s.pin n with driven := true, level := before }
  { s.setPin n { s.pin n with shown := s.pinDrive n } with out := s.out.filter fun o => match o with
      | .pin m t _ => !(decide (m = n) && decide (time < t + 4))
      | _ => true }

/-- The edge placer of a pin takes an edge at a time in units of 250 ps; `pulse` is the time of a pulse's end. Of two edges less than 1 ns apart only
the later is made, of two at one time the one applied last, and the later one's bank counts them (R272, R275). -/
def State.placeEdge (s : State) (c n time level : Nat) (pulse : Option Nat) : State :=
  let x := s.pin n
  let now := if x.driven then x.level else s.on 0x080 R.FIO_CFG_HLVL n
  let make := fun (s : State) (before : Bool) =>
    (s.setPin n { s.pin n with driven := true, level := if level = 2 then !before else decide (level ≠ 0), pulse := pulse,
                               last := some (time, before, c) }).showPin n time
  match x.clash time with
  | none => make s now
  | some (t, before, b) =>
    if time < t then s.bump (relPage b) R.REL_CNT_COLLIDE else make ((s.bump (relPage c) R.REL_CNT_COLLIDE).unplaceEdge n time before) before

/-- A pin edge (R272): discarded unless the pin's function is release output, and on a pin held safe (R275). -/
def State.relPinEdge (s : State) (c tick act : Nat) : State :=
  let n := bits act 0 7
  let level := bits act 8 2
  let time := 4 * tick + actFine act
  if s.rd 0x080 R.FIO_CFG_FUNC n ≠ 1 || s.pinSafe n then s.relDiscard c
  else s.placeEdge c n time level (if level = 3 then some (time + 4 * max 1 (bits act 12 20)) else none)

/-- PULSE_END (R272): the pin falls WIDTH after its pulse started. -/
def State.pulseEnd (s : State) (n : Nat) : State :=
  match (s.pin n).pulse with
  | some t =>
    if s.domOn 3 && decide (t ≤ 4 * s.tb) then
      let x := s.pin n
      (s.setPin n { x with level := false, pulse := none, last := some (t, x.level, (x.last.map (·.2.2)).getD 0) }).showPin n t
    else s
  | none => s

/-- The distance from a PWM period's start to its fall, in units of 250 ps: PERIOD × DUTY / 65,536 ns rounded to nearest, ties upwards (R284). -/
def pwmFallAfter (period duty : Nat) : Nat := (8 * period * duty + 65536) / 131072

/-- The period of a PWM channel (R291). -/
def State.pwmPeriod (s : State) (j : Nat) : Nat := max 20 (s.rd 0x083 R.PWM_PER_PERIOD j)

/-- The duty of a PWM channel takes effect. -/
def State.pwmSet (s : State) (j duty : Nat) (full : Bool) : State := (s.wr 0x083 R.PWM_DUTY_DUTY duty j).wr 0x083 R.PWM_DUTY_FULL (b2n full) j

/-- A PWM duty load (R272): with NOW the present period's fall moves, or comes at the release tick. DEDUCED (log entry 24): an output that has
fallen in this period stays low. -/
def State.relPwm (s : State) (tick act : Nat) : State :=
  let j := bits act 0 5
  let duty := bits act 16 16
  let full := bit act 6
  let x := s.pwm j
  if !bit act 5 then s.setPwm j { x with pend := some (duty, full, tick) }
  else
    let s := s.pwmSet j duty full
    match x.start, x.high with
    | some t, true =>
      let f := 4 * t + pwmFallAfter (s.pwmPeriod j) duty
      let n := s.rd 0x083 R.PWM_CFG_PIN j
      if full then s.setPwm j { x with fall := none }
      else if 4 * tick < f then s.setPwm j { x with fall := some f }
      else (s.setPwm j { x with high := false, fall := none }).showPin n (4 * tick)
    | _, _ => s

/-- The sender of a release message puts it on its channel (R272, R273): KIND 0x06 on time, 0x07 when LATE. -/
def State.relMessage (s : State) (c entry tick : Nat) (e : RelEntry) : State :=
  let stamp := if e.late then s.tb else if actPh e.act then tick else e.s
  let s := if e.late then s.jrnBreak 4 s.now (c + 16 * entry) else s
  s.hwSend (bits e.act 0 12) (0x120 + c) (stamp % 2 ^ 42) (if e.late then 7 else 6) [bits e.act 12 14, entry + 256 * c]

/-! ### Windows and encoders, as strobes reach them (R281 to R283) -/

/-- The live state of a window. -/
def State.win (s : State) (w : Nat) : Win := lookD s.cws w {}
def State.setWin (s : State) (w : Nat) (x : Win) : State := { s with cws := put s.cws w x }

/-- A capture message (R280): the fields of W0 to W3, but for LOST, which it takes as it is sent. -/
structure CapMsg where
  src  : Nat
  type : Nat
  rise : Bool := false
  win  : Option Nat := none
  err  : Bool := false
  zl   : Bool := false
  val  : Nat := 0

/-- The pin's filter in ns (R279); pin 96 is SYNC_IN. -/
def State.filterNs (s : State) (n : Nat) : Nat := 4 * min 12 (if n = 96 then s.rd 0x081 R.CAP_SYNC_FILT else s.rd 0x080 R.FIO_CFG_FILT n)

/-- The longest filter among the inputs that can be captured: a capture waits that long, so that none with an earlier stamp follows it (R280). -/
def State.capDelay (s : State) : Nat :=
  let on := fun n => (if n = 96 then s.rd 0x081 R.CAP_SYNC_EDGE ≠ 0 else s.rd 0x080 R.FIO_CAP_EDGE n ≠ 0) ||
    (List.range 32).any fun w => s.on 0x081 R.CW_CTRL_EN w && decide (s.rd 0x081 R.CW_CTRL_PIN w = n)
  ((List.range 97).filter on).foldl (fun m n => max m (s.filterNs n)) 0

/-- Sends the captures whose turn has come, in stamp order; one that is due but too old is discarded as late (R280). -/
def State.flushCaps (s : State) : State :=
  let d : Int := s.capDelay
  let due := s.caps.filter fun m => decide (d ≤ stampDiff s.now m.stamp)
  let s := { s with caps := s.caps.filter fun m => !decide (d ≤ stampDiff s.now m.stamp) }
  due.foldl (fun (t : State) m =>
    if t.injArmed 0x081 0 then (t.injTake 0x081 0).captureLate m
    else if 100 < stampDiff t.now m.stamp then t.captureLate m
    else t.hwSend m.chan 0x118 m.stamp 3 m.words) s

/-- Places a message behind those with an earlier or equal stamp. -/
def insertByStamp (m : Msg) : List Msg → List Msg
  | [] => [m]
  | x :: xs => if stampLt m.stamp x.stamp then m :: x :: xs else x :: insertByStamp m xs

/-- Field capture takes a message for a channel (R280). HOLD is that of its stamp (R233). -/
def State.capture118 (s : State) (ch stamp : Nat) (c : CapMsg) : State :=
  let w0 := c.src + 128 * b2n c.rise + 256 * b2n c.win.isSome + 512 * c.win.getD 0
  let w1 := c.type + 8 * b2n (s.heldAt stamp) + 16 * b2n c.err + 32 * b2n c.zl
  let m : Msg := ⟨ch, 0x118, stamp % 2 ^ 42, 3, [w0, w1, c.val % 2 ^ 14, c.val / 2 ^ 14 % 2 ^ 14]⟩
  ({ s with caps := insertByStamp m s.caps } : State).flushCaps

/-- A window opens at a tick (R281); `mark` is the position reached in phase mode. -/
def State.winOpen (s : State) (w tick : Nat) (mark : Option Int) : State :=
  ((s.setWin w { s.win w with opened := tick, seek := tick - 1, mark := mark }).wr 0x081 R.CW_STAT_OPEN 1 w).wr 0x081 R.CW_STAT_HIT 0 w

/-- The MISS of an opening without an edge (R282), stamped at its close tick. -/
def State.winMiss (s : State) (w : Nat) (o : Opening) : State :=
  if o.hit then s
  else (s.bump 0x081 R.CW_STAT_MISSES w).capture118 (s.rd 0x081 R.CW_CTRL_CHAN w) o.close { src := s.rd 0x081 R.CW_CTRL_PIN w, type := 1, win := some w }

/-- Whether a MISS of a window can be judged: every edge stamped before the close has held for its filter time (R279, R282). -/
def State.missDue (s : State) (w : Nat) (o : Opening) : Bool := o.miss && decide (o.close + s.filterNs (s.rd 0x081 R.CW_CTRL_PIN w) ≤ s.tb)

/-- Judges the MISSes of a window whose time has come, in order. -/
def State.winJudge (s : State) (w : Nat) : State :=
  let x := s.win w
  let t := s.setWin w { x with past := x.past.map fun o => if s.missDue w o then { o with miss := false } else o }
  (x.past.filter (s.missDue w)).reverse.foldl (fun (t : State) o => t.winMiss w o) t

/-- A window closes at a tick (R281, R282). Closed openings are kept while an edge stamped in them can still be in its filter time. -/
def State.winClose (s : State) (w tick : Nat) (mark : Option Int) : State :=
  let x := s.win w
  let o : Opening := ⟨x.opened, tick, s.on 0x081 R.CW_STAT_HIT w, s.on 0x081 R.CW_CTRL_MISS w⟩
  let past := o :: x.past.filter fun y => y.miss || decide (s.tb < y.close + 49)
  ((s.setWin w { x with past := past, seek := tick - 1, mark := mark }).wr 0x081 R.CW_STAT_OPEN 0 w).winJudge w

/-- A strobe on an absolute window that is enabled (R281): an open of an open window and a close of a closed one are ignored. -/
def State.winStrobe (s : State) (w tick : Nat) (opens : Bool) : State :=
  if !s.on 0x081 R.CW_CTRL_EN w || s.on 0x081 R.CW_CTRL_MODE w then s
  else if opens then (if s.on 0x081 R.CW_STAT_OPEN w then s else s.winOpen w tick none)
  else if s.on 0x081 R.CW_STAT_OPEN w then s.winClose w tick none else s

/-- Whether a pin named by an encoder has the matching function (R276). -/
def State.encPin (s : State) (n : Nat) : Bool := decide (n < 96) && decide (s.rd 0x080 R.FIO_CFG_FUNC n = 3)

/-- A quadrature count is latched at a tick and sent (R283). -/
def State.encLatch (s : State) (e tick : Nat) (zl : Bool) : State :=
  if s.rd 0x082 R.ENC_CFG_MODE e ≠ 1 then s
  else s.capture118 (s.rd 0x082 R.ENC_CHAN_CHAN e) tick { src := e, type := 2, zl := zl, val := s.rd 0x082 R.ENC_CNT_COUNT e }

/-- The SSI clock output of an encoder is shown: with an edge at a past tick, and as it stands now (R283). -/
def State.ssiShow (s : State) (e tick : Nat) : State :=
  let n := s.rd 0x082 R.ENC_CFG_PIN_A e
  if 96 ≤ n then s
  else ({ ({ s with tb := tick } : State).showPin n (4 * tick) with tb := s.tb } : State).showPin n (4 * s.tb)

/-- An SSI frame starts at a tick, with the first falling edge of its clock, or is skipped during a frame or its pause (R283). -/
def State.ssiStart (s : State) (e tick : Nat) : State :=
  if s.rd 0x082 R.ENC_CFG_MODE e ≠ 2 then s
  else
    let x := s.enc e
    if x.frame.isSome ∨ tick < x.pauseEnd then s.bump 0x082 R.ENC_STAT_SSIERR e
    else
      let data := s.rd 0x082 R.ENC_CFG_PIN_B e
      let low := !(s.encPin data && (s.pin data).inp)
      (s.setEnc e { x with frame := some (tick, low) }).ssiShow e tick

/-- An I/O strobe (R272). -/
def State.relStrobe (s : State) (tick act : Nat) : State :=
  let x := bits act 0 5
  match bits act 5 3 with
  | 0 => s.winStrobe x tick true
  | 1 => s.winStrobe x tick false
  | 2 => s.encLatch x tick false
  | 3 => s.ssiStart x tick
  | _ => s

/-! ### Release (R269, R270, R275, R419) -/

/-- The digest item of a release (R419): every release is reported to the journal tap (R270). -/
def State.relDigest (s : State) (c entry tick : Nat) (e : RelEntry) : State :=
  if s.recording || s.rpl.going then
    let b := leBytes 6 e.s ++ leBytes 6 e.act ++ leBytes 1 entry ++ leBytes 1 c ++ leBytes 1 e.owner ++ leBytes 1 0
    { s with jrn := { s.jrn with items := s.jrn.items ++ [⟨tick, c, entry, 0, b, e.late, false⟩] } }
  else s

/-- The misses that a LATE release gives to the deadline monitors (R480): a PH entry's cadence, or those of the axes on a commit's port. -/
def State.relMisses (s : State) (e : RelEntry) : State :=
  let s := if actPh e.act then s.dlMiss (actCad e.act) 3 else s
  if actType e.act = 3 then
    let p := bits e.act 0 3
    let cads := ((s.enabledAxes.filter fun a => s.ard a R.AX_BIND_PORT = p).map fun a => s.ard a R.AX_BIND_CAD).dedup
    (cads.filter fun n => !(actPh e.act && decide (n = actCad e.act))).foldl (fun (t : State) n => t.dlMiss n 3) s
  else s

/-- An entry that is released at a tick becomes empty, and its slack and marks are reported. Injection bit 1 counts it as a collision (R286). -/
def State.freed (s : State) (k tick : Nat) (e : RelEntry) : State :=
  let c := k / 256
  let s := ({ s with rel := del s.rel k } : State).showRel c
  let s := s.relDigest c (k % 256) tick e
  let s := if e.late then ((s.bump (relPage c) R.REL_CNT_LATE).raise (624 + c)).relMisses e else s
  let s := if actPh e.act && !e.late then s.slackSample (s.physOf c e.owner) ((tick : Int) - e.armed) false else s
  if s.injArmed (relPage c) 1 then (s.injTake (relPage c) 1).bump (relPage c) R.REL_CNT_COLLIDE else s

/-- An entry is released at a tick, and its action reaches its target. -/
def State.release (s : State) (k tick : Nat) (e : RelEntry) : State :=
  let c := k / 256
  let entry := k % 256
  let s := s.freed k tick e
  match actType e.act with
  | 1 => s.relPinEdge c tick (if e.late then setBits e.act 32 2 0 else e.act)
  | 2 => s.relPwm tick e.act
  | 3 => (s.chainCommit (bits e.act 0 3) tick c entry).getD ((s.commitDiscard (bits e.act 0 3) tick c entry).relDiscard c)
  | 4 => s.relMessage c entry tick e
  | 5 => s.relStrobe tick e.act
  | _ => s

/-- A release of a kind: the entry that releases next, if it is this one and its action is of this kind (R275). -/
def State.releaseIf (s : State) (c entry : Nat) (kind : Nat → Bool) : State :=
  if !s.domOn (8 + c) then s
  else match s.relNext with
    | some (t, k, e) => if k = relKey c entry && kind e.act then s.release k t e else s
    | none => s

/-- Every release that is due, in order: at most the armed entries. -/
def State.releaseGo : Nat → State → State
  | 0, s => s
  | n + 1, s => match s.relNext with
    | some (t, k, e) => (s.release k t e).releaseGo n
    | none => s

/-- What is due is released before an entry is armed or killed: an arm in the tick of the release uses the old contents (R275). -/
def State.releaseDue (s : State) : State := s.releaseGo s.rel.length

/-! ### Arming and killing (R266 to R269, R271) -/

/-- Why an arm is refused (R268); 0 when it is not. -/
def State.armRefuse (s : State) (c k entry act : Nat) : Nat :=
  let t := actType act
  if s.relOwner c entry ≠ k then 1
  else if 6 ≤ t then 2
  else if (t = 1 ∧ 95 < bits act 0 7) ∨ (t = 5 ∧ (4 ≤ bits act 5 3 ∨ (2 ≤ bits act 5 3 ∧ 15 < bits act 0 5))) then 3
  else 0

/-- A refused arm or kill is counted and recorded (R268). -/
def State.relRefuse (s : State) (c k entry cause : Nat) : State :=
  let p := relPage c
  let s := s.bump p R.REL_CNT_REFUSED
  (((s.capture p R.REL_CAP_VALID R.REL_CAP_OVR).wr p R.REL_CAP_ENTRY entry).wr p R.REL_CAP_COG k).wr p R.REL_CAP_CAUSE cause

/-- The slack of an entry armed now, and whether it is LATE (R266, R269): with PH it is −1 when the cadence has reached the target, else 0. -/
def State.armSlack (s : State) (st act : Nat) : Int × Bool :=
  if actPh act then
    let n := actCad act
    let c := s.cad n
    if s.cadEn n && decide (c.enabledAt ≤ s.tb) && decide (c.rateAt s.tb ≠ 0) && decide (c.short st s.tb ≤ 0) then (-1, true) else (0, false)
  else let d := stampDiff st s.now; (d, decide (d < 0))

/-- tm.t.arm (R266 to R270). DEDUCED (log entry 25): the arming tick is the tick of the handshake. -/
def State.tmArm (s : State) (i v : Nat) : State :=
  let c := casOf i
  let entry := v % 256
  let s := s.releaseDue.watchdogKick i 0
  let x := s.cog i
  let act := x.get .tmo
  let st := x.get .tms
  match s.logicalOf i with
  | none => s.accepted i
  | some k =>
    let no := s.armRefuse c k entry act
    if no ≠ 0 then
      let s := s.relRefuse c k entry no
      (s.setCog i ((s.cog i).set .tmr (wrap (-134217728) 42))).accepted i (({} : FlagWrite).put flagN true)
    else
      let inj := s.injArmed (relPage c) 0
      let s := if inj then s.injTake (relPage c) 0 else s
      let slack := if inj then (-1, true) else s.armSlack st act
      let d := slack.1
      let late := slack.2
      let s := ({ s with rel := put s.rel (relKey c entry) ⟨st, act, k, s.tb, late⟩ } : State).showRel c
      let s := s.breakIdle c
      let s := if actPh act && !late then s else s.slackSample i d late
      (s.setCog i ((s.cog i).set .tmr (wrap (clampSlack d) 42))).accepted i (({} : FlagWrite).put flagN late)

/-- An entry is disarmed: whether it was armed. -/
def State.disarm (s : State) (c entry : Nat) : Bool × State :=
  ((look s.rel (relKey c entry)).isSome, ({ s with rel := del s.rel (relKey c entry) } : State).showRel c)

/-- tm.t.kill (R113, R268). -/
def State.tmKill (s : State) (i v : Nat) : State :=
  let c := casOf i
  let entry := v % 256
  let s := s.releaseDue
  match s.logicalOf i with
  | none => s.accepted i
  | some k =>
    if s.relOwner c entry ≠ k then (s.relRefuse c k entry 4).accepted i (({} : FlagWrite).put flagZ true)
    else
      let r1 := s.disarm c entry
      let armed := r1.1
      let s := r1.2
      s.accepted i (({} : FlagWrite).put flagZ (!armed))

/-- The status word of a sample (R231): HOLD, SLEW and REF_OK. -/
def State.tbStatus (s : State) : Nat := s.rd 0x070 R.TB_STAT_HOLD + 2 * s.rd 0x070 R.TB_STAT_SLEW + 4 * s.rd 0x070 R.TB_STAT_REF_OK

/-- tm.t.now (R112): a sample of the timebase, or the high bits or the status of the last one. -/
def State.tmNow (s : State) (i v : Nat) : State :=
  let c := s.cog i
  let s := if v % 2 ^ 14 = 1 then s.setCog i (c.set .tmr (c.sample / 2 ^ 42))
    else if v % 2 ^ 14 = 2 then s.setCog i (c.set .tmr c.sampleStat)
    else s.setCog i { c.set .tmr s.now with sample := s.tb, sampleStat := s.tbStatus }
  s.accepted i

/-- A write of REL_IDX, with KILL (R271, R287). -/
def State.writeRelIdx (s : State) (c data : Nat) : State :=
  let p := relPage c
  let s := s.wr p R.REL_IDX_ENTRY data
  if bit data 8 then
    let s := s.jrnHost (R.REL_IDX_KILL.addr p 0)
    (s.releaseDue.disarm c (data % 256)).2
  else s

/-- A write of REL_OWNi (R287): dropped while one of its entries is armed. -/
def State.writeRelOwn (s : State) (c i data : Nat) : State :=
  let p := relPage c
  if s.rel.any fun x => decide (x.1 / 8 = 32 * c + i) then s.pgErr p (some (0x60 + 4 * i, data))
  else s.setReg (R.REL_OWN_OWN0.addr p i) (BitVec.ofNat 32 data)

/-! ### Commands -/

def execTmNow (cog : CogId) (s : State) : Result := .next (s.onTrigger cog .tmNow fun v _ s => s.tmNow cog v)
def execTmArm (cog : CogId) (s : State) : Result := .next (s.onTrigger cog .tmArm fun v _ s => s.tmArm cog v)
def execTmKill (cog : CogId) (s : State) : Result := .next (s.onTrigger cog .tmKill fun v _ s => s.tmKill cog v)
def execReleaseMarker (cas : Cas) (entry : Fin 256) (s : State) : Result := .next (s.releaseIf cas entry fun a => actType a = 0)
def execReleasePinEdge (cas : Cas) (entry : Fin 256) (s : State) : Result := .next (s.releaseIf cas entry fun a => actType a = 1)
def execReleasePwmDutyLoad (cas : Cas) (entry : Fin 256) (s : State) : Result := .next (s.releaseIf cas entry fun a => actType a = 2)
def execReleaseChainCommit (cas : Cas) (entry : Fin 256) (s : State) : Result := .next (s.releaseIf cas entry fun a => actType a = 3)
def execReleaseMessage (cas : Cas) (entry : Fin 256) (s : State) : Result := .next (s.releaseIf cas entry fun a => actType a = 4)
def execStrobeOpenWindow (cas : Cas) (entry : Fin 256) (s : State) : Result :=
  .next (s.releaseIf cas entry fun a => decide (actType a = 5) && decide (bits a 5 3 = 0))
def execStrobeCloseWindow (cas : Cas) (entry : Fin 256) (s : State) : Result :=
  .next (s.releaseIf cas entry fun a => decide (actType a = 5) && decide (bits a 5 3 = 1))
def execStrobeLatchEncoder (cas : Cas) (entry : Fin 256) (s : State) : Result :=
  .next (s.releaseIf cas entry fun a => decide (actType a = 5) && decide (bits a 5 3 = 2))
def execStrobeStartSsi (cas : Cas) (entry : Fin 256) (s : State) : Result :=
  .next (s.releaseIf cas entry fun a => decide (actType a = 5) && decide (bits a 5 3 = 3))
def execPulseEnd (pin : Fin 96) (s : State) : Result := .next (s.pulseEnd pin)
def execRelKill (cas : Cas) (entry : Fin 256) (s : State) : Result := .next (s.hostAt (relPage cas) fun s => s.writeRelIdx cas (256 + entry.val))

end Sys2Proof.Machine
end

