-- ==== Sys2Proof/Machine/FieldIo.lean ====
section
/-! DEFINITION. Field I/O (R276 to R291): pins, capture and its windows, encoders, SSI and PWM. -/

namespace Sys2Proof.Machine

/-- Whether an EDGE code selects a rising or a falling edge (R288). -/
def edgeSelects (code : Nat) (rise : Bool) : Bool := bit code (if rise then 0 else 1)

/-- The EDGE code and the channel of a pin's direct captures (R280, R289). -/
def State.capEdge (s : State) (n : Nat) : Nat := if n = 96 then s.rd 0x081 R.CAP_SYNC_EDGE else s.rd 0x080 R.FIO_CAP_EDGE n
def State.capChan (s : State) (n : Nat) : Nat := if n = 96 then s.rd 0x081 R.CAP_SYNC_CHAN else s.rd 0x080 R.FIO_CAP_CHAN n

/-- The level of an input, in FIO_INi for the pins. -/
def State.setInput (s : State) (n : Nat) (level : Bool) : State :=
  let s := s.setPin n { s.pin n with inp := level }
  if n < 96 then s.wr 0x080 R.FIO_IN_IN (setBits (s.rd 0x080 R.FIO_IN_IN (n / 32)) (n % 32) 1 (b2n level)) (n / 32) else s

/-- Whether a stamp lies in an opening that has closed: from the open tick, before the close tick (R281). -/
def Opening.covers (o : Opening) (t : Nat) : Bool := decide (o.open_ ≤ t ∧ t < o.close)

/-- Whether a window is open at a stamp in the opening that goes on. -/
def State.inOpen (s : State) (w t : Nat) : Bool := s.on 0x081 R.CW_STAT_OPEN w && decide ((s.win w).opened ≤ t)

/-- Whether an edge at a stamp lies inside a window (R281). -/
def State.inWindow (s : State) (w t : Nat) : Bool := s.inOpen w t || (s.win w).past.any fun o => o.covers t

/-- The enabled windows on a pin. -/
def State.windowsOn (s : State) (n : Nat) : List Nat :=
  (List.range 32).filter fun w => s.on 0x081 R.CW_CTRL_EN w && decide (s.rd 0x081 R.CW_CTRL_PIN w = n)

/-- Whether a window selects the polarity of an edge. -/
def State.winSelects (s : State) (w : Nat) (rise : Bool) : Bool := edgeSelects (s.rd 0x081 R.CW_CTRL_EDGE w) rise

/-- Whether an edge has been sent in the opening that covers a stamp. -/
def State.openingHit (s : State) (w t : Nat) : Bool :=
  if s.inOpen w t then s.on 0x081 R.CW_STAT_HIT w else (s.win w).past.any fun o => o.covers t && o.hit

/-- An edge is sent in the opening that covers a stamp; CW_STAT.HIT is that of the present opening, or of the last. -/
def State.noteHit (s : State) (w t : Nat) : State :=
  if s.inOpen w t then s.wr 0x081 R.CW_STAT_HIT 1 w
  else
    let x := s.win w
    let s := if !s.on 0x081 R.CW_STAT_OPEN w && (x.past.head?.any fun o => o.covers t) then s.wr 0x081 R.CW_STAT_HIT 1 w else s
    s.setWin w { x with past := x.past.map fun o => if o.covers t then { o with hit := true } else o }

/-- An edge inside a window is sent, or held back by FIRST (R282). -/
def State.windowEdge (s : State) (w n t : Nat) (rise : Bool) : State :=
  if s.on 0x081 R.CW_CTRL_FIRST w && s.openingHit w t then s.bump 0x081 R.CW_STAT_EXTRA w
  else (s.noteHit w t).capture118 (s.rd 0x081 R.CW_CTRL_CHAN w) t { src := n, type := 0, rise := rise, win := some w }

/-! ### Phase windows (R281) -/

/-- The position from which a phase window seeks its next edge: where it took its last one, unless the cadence has been enabled since. -/
def Win.place (x : Win) (c : Cadence) : Option Int := if c.enabledAt ≤ x.seek then x.mark else none

/-- The tick at which a cadence next reaches a phase for a window, and the position then reached: beyond the place of the window's last edge, or at that
place itself for an open that follows a close (OPEN = CLOSE, R281). -/
def Cadence.reachPhase (c : Cadence) (phase : Nat) (x : Win) (opens : Bool) : Option (Nat × Int) :=
  let t0 := max x.seek (c.enabledAt - 1)
  let p := (x.place c).getD (c.posAt t0)
  let far := fun (d : Int) => if d = 0 ∧ ¬ (opens ∧ (x.place c).isSome) then 2 ^ 28 else d
  let up := p + far (((phase : Int) - p) % 2 ^ 28)
  let down := p - far ((p - phase) % 2 ^ 28)
  (c.reach t0 up down).map fun t => (t, if up ≤ c.posAt t then up else down)

/-- A phase window's next edge, if the timebase has reached it. -/
def State.winEdge (s : State) (w phase : Nat) (opens : Bool) : Option (Nat × Int) :=
  let n := s.rd 0x081 R.CW_CTRL_CAD w
  if !s.domOn 3 || !s.on 0x081 R.CW_CTRL_EN w || !s.on 0x081 R.CW_CTRL_MODE w || !s.cadEn n then none
  else ((s.cad n).reachPhase phase (s.win w) opens).filter fun y => decide (y.1 ≤ s.tb)

/-- PHASE_WINDOW_OPEN and PHASE_WINDOW_CLOSE. -/
def State.phaseOpen (s : State) (w : Nat) : State :=
  if s.on 0x081 R.CW_STAT_OPEN w then s
  else match s.winEdge w (s.rd 0x081 R.CW_OPEN_PHASE w) true with
    | some (t, p) => s.winOpen w t (some p)
    | none => s
def State.phaseClose (s : State) (w : Nat) : State :=
  if !s.on 0x081 R.CW_STAT_OPEN w then s
  else match s.winEdge w (s.rd 0x081 R.CW_CLOSE_PHASE w) false with
    | some (t, p) => s.winClose w t (some p)
    | none => s

/-- Whether an I/O strobe is due. -/
def State.strobeDue (s : State) : Bool := s.rel.any fun (k, e) => decide (actType e.act = 5) && s.domOn (8 + k / 256) && (s.relTick e).isSome

/-- What opens and closes the windows of a pin by now, strobes and phases, comes before an edge is judged against them (R282). -/
def State.windowsDue (s : State) (n : Nat) : State :=
  let s := if s.strobeDue then s.releaseDue else s
  (s.windowsOn n).foldl (fun (t : State) w => if t.on 0x081 R.CW_STAT_OPEN w then (t.phaseClose w).phaseOpen w else (t.phaseOpen w).phaseClose w) s

/-- PIN_EDGE_CAPTURE (R279 to R282): an input has held a new level for its filter time; the stamp is the start of that time. The edge is
captured directly and judged against each window of its pin. -/
def State.pinEdge (s : State) (n : Nat) (rise : Bool) : State :=
  if !s.domOn 3 || (s.pin n).inp = rise then s
  else
    let s := (s.windowsDue n).setInput n rise
    let t := s.tb - s.filterNs n
    let direct := edgeSelects (s.capEdge n) rise
    let wins := s.windowsOn n
    let inside := wins.filter fun w => s.inWindow w t
    let outside := fun (s : State) => if inside.isEmpty then wins.foldl (fun (u : State) w => u.bump 0x081 R.CW_STAT_OUTSIDE w) s else s
    if !direct && !(wins.any fun w => s.winSelects w rise) then outside s
    else
      let s := if direct && n < 96 then s.raise (528 + n) else s
      let x := s.pin n
      if x.cap.any fun c => decide (t < c + 8) then
        ({ s with capLost := put s.capLost n (lookD s.capLost n 0 + 1) } : State).bump 0x081 R.CAP_ERR_LOST
      else
        let s := s.setPin n { x with cap := some t }
        let s := if direct then s.capture118 (s.capChan n) t { src := n, type := 0, rise := rise } else s
        (inside.filter fun w => s.winSelects w rise).foldl (fun (u : State) w => u.windowEdge w n t rise) (outside s)

/-! ### Windows' registers (R281, R282) -/

/-- A write of CW_CTRL: disabling an open window closes it without a MISS, and the MISS of one that has closed is still judged; a window that is enabled, or that takes another cadence or mode, looks for
the next edge (R281, R282). -/
def State.writeCwCtrl (s : State) (w data : Nat) : State :=
  let follows := fun (s : State) => (s.on 0x081 R.CW_CTRL_EN w, s.rd 0x081 R.CW_CTRL_CAD w, s.rd 0x081 R.CW_CTRL_MODE w)
  let was := follows s
  let s := s.applyWrite (R.CW_CTRL_EN.addr 0x081 w) data
  let now := follows s
  if was.1 ≠ now.1 then (s.setWin w { opened := s.tb, seek := s.tb, past := (s.win w).past }).wr 0x081 R.CW_STAT_OPEN 0 w
  else if was = now then s
  else s.setWin w { s.win w with seek := s.tb, mark := none }

/-! ### Encoders (R283) -/

/-- ENCODER_TRANSITION: A and B take new levels in one 4 ns sample, which the encoder follows in every mode and counts in quadrature. The direction that
counts up is the implementation's (log entry 26). -/
def State.encTransition (s : State) (e : Nat) (a b : Bool) : State :=
  let x := s.enc e
  if !s.domOn 3 || !s.encPin (s.rd 0x082 R.ENC_CFG_PIN_A e) || !s.encPin (s.rd 0x082 R.ENC_CFG_PIN_B e) then s
  else if a = x.a && b = x.b then s
  else
    let s := s.setEnc e { x with a := a, b := b }
    if s.rd 0x082 R.ENC_CFG_MODE e ≠ 1 then s
    else if decide (e = 0) && s.injArmed 0x082 0 then (s.injTake 0x082 0).bump 0x082 R.ENC_STAT_QERR e
    else if a ≠ x.a ∧ b ≠ x.b then s.bump 0x082 R.ENC_STAT_QERR e
    else
      let forward := if a ≠ x.a then a != b else a == b
      let step : Int := if forward = Config.quadForward then 1 else -1
      s.wr 0x082 R.ENC_CNT_COUNT (wrap ((s.rd 0x082 R.ENC_CNT_COUNT e : Int) + step) 28) e

/-- ENCODER_PERIODIC_LATCH: the latest tick at which timebase mod PERIOD = OFS latches the count or starts an SSI frame. -/
def State.encPeriodic (s : State) (e : Nat) : State :=
  let per := s.rd 0x082 R.ENC_PER_PERIOD e
  if !s.domOn 3 || per = 0 then s
  else
    let per := max 1000 per
    let ofs := s.rd 0x082 R.ENC_OFS_OFS e % per
    if s.tb < ofs then s
    else
      let t := s.tb - (s.tb - ofs) % per
      let x := s.enc e
      if x.lastPer.any fun l => decide (t ≤ l) then s
      else
        let s := s.setEnc e { x with lastPer := some t }
        if s.rd 0x082 R.ENC_CFG_MODE e = 2 then s.ssiStart e t else s.encLatch e t false

/-- ENCODER_Z_LATCH: a rising Z edge. -/
def State.encZ (s : State) (e : Nat) : State :=
  if !s.domOn 3 || !s.encPin (s.rd 0x082 R.ENC_CFG_PIN_Z e) then s
  else
    let s := s.wr 0x082 R.ENC_STAT_ZSEEN 1 e
    if s.on 0x082 R.ENC_CFG_ZLATCH e then s.encLatch e s.tb true else s

/-- The binary value of a Gray code of up to 28 bits. -/
def grayDecode (v : Nat) : Nat := (List.range 28).foldl (fun acc k => acc ^^^ (v / 2 ^ k)) 0

/-- SSI_FRAME_END: the frame's bits have been clocked in, MSB first; the message is stamped at the frame's end. -/
def State.ssiEnd (s : State) (e : Nat) (bits_ : Nat) : State :=
  let x := s.enc e
  match x.frame with
  | none => s
  | some (t, low) =>
    let n := s.ssiBits e
    let par := s.on 0x082 R.ENC_SSI_PAR e
    let stop := t + 2 * n * s.ssiHalf e
    if !s.domOn 3 || s.tb < stop then s
    else
      let v := bits_ % 2 ^ n
      let odd := decide (((List.range n).map fun i => b2n (bit v i)).sum % 2 = 1)
      let inj := decide (e = 0) && s.injArmed 0x082 1
      let s := if inj then s.injTake 0x082 1 else s
      let err := low || inj || (par && odd)
      let raw := if par then v / 2 else v
      let pos := if err then 0 else if s.on 0x082 R.ENC_SSI_GRAY e then grayDecode raw else raw
      let s := s.ssiShow e stop
      let s := s.setEnc e { x with frame := none, pauseEnd := stop + 1000 * max 1 (s.rd 0x082 R.ENC_SSI_MONO e) }
      let s := if err then s.bump 0x082 R.ENC_STAT_SSIERR e else s
      s.capture118 (s.rd 0x082 R.ENC_CHAN_CHAN e) stop { src := e, type := 3, err := err, val := pos }

/-- An encoder takes the levels of its pins A and B as they stand. -/
def State.encSample (s : State) (e : Nat) : State :=
  s.setEnc e { s.enc e with a := (s.pin (s.rd 0x082 R.ENC_CFG_PIN_A e)).inp, b := (s.pin (s.rd 0x082 R.ENC_CFG_PIN_B e)).inp }

/-- A write of an encoder's register: COUNT only while MODE is off; the period counts from the write (R290). -/
def State.writeEnc (s : State) (e off data : Nat) : State :=
  let a := 0x082000 + 0x40 + 32 * e + off
  let off? := let m := s.rd 0x082 R.ENC_CFG_MODE e; decide (m = 0 ∨ m = 3)
  if off = 0x14 ∧ !off? then s
  else
    let pins := fun (s : State) => (s.rd 0x082 R.ENC_CFG_PIN_A e, s.rd 0x082 R.ENC_CFG_PIN_B e)
    let was := pins s
    let s := s.applyWrite a data
    let s := if pins s = was then s else s.encSample e
    if off = 0 ∨ off = 8 ∨ off = 12 then
      (s.setEnc e { s.enc e with lastPer := some s.tb, frame := if off = 0 then none else (s.enc e).frame }).showPins
    else s

/-! ### PWM (R284) -/

/-- PWM_PERIOD_START: the latest tick at which timebase mod PERIOD = ORG starts a period, which takes a duty that waits for it. -/
def State.pwmPeriodStart (s : State) (j : Nat) : State :=
  let per := s.pwmPeriod j
  let org := s.rd 0x083 R.PWM_ORG_ORG j % per
  let x := s.pwm j
  if !s.domOn 3 || !s.on 0x083 R.PWM_CFG_EN j || x.held || s.tb < org then s
  else
    let t := s.tb - (s.tb - org) % per
    if x.start.any fun u => decide (t ≤ u) then s
    else
      let taken := x.pend.filter fun y => decide (y.2.2 ≤ t)
      let s := match taken with | some (d, f, _) => s.pwmSet j d f | none => s
      let pend := if taken.isSome then none else x.pend
      let d := s.rd 0x083 R.PWM_DUTY_DUTY j
      let full := s.on 0x083 R.PWM_DUTY_FULL j
      let fall := if full then none else some (4 * t + pwmFallAfter per d)
      (s.setPwm j { x with start := some t, wait := false, pend := pend, high := full || decide (d ≠ 0), fall := if d = 0 then none else fall }).showPin
        (s.rd 0x083 R.PWM_CFG_PIN j) (4 * t)

/-- PWM_FALL. -/
def State.pwmFall (s : State) (j : Nat) : State :=
  let x := s.pwm j
  match x.fall with
  | some t =>
    if s.domOn 3 && x.high && decide (t ≤ 4 * s.tb) then (s.setPwm j { x with high := false, fall := none }).showPin (s.rd 0x083 R.PWM_CFG_PIN j) t
    else s
  | none => s

/-- A write of a PWM register (R284, R291): a duty waits for the next period start; a channel that is switched off leaves an output of which
the spec states no level (log entry 4). -/
def State.writePwm (s : State) (j off data : Nat) : State :=
  if off = 0x0C then s.setPwm j { s.pwm j with pend := some (data % 2 ^ 16, bit data 16, s.tb) }
  else
    let was := s.on 0x083 R.PWM_CFG_EN j
    let s := s.applyWrite (0x083000 + 0x40 + 16 * j + off) data
    let now := s.on 0x083 R.PWM_CFG_EN j
    let s := if was && !now then
        let r1 := s.freeDraw 1
        let v := r1.1
        let s := r1.2
        s.setPwm j { s.pwm j with start := none, fall := none, wait := false, high := decide (v = 1) }
      else if !was && now then s.setPwm j { s.pwm j with start := some s.tb, fall := none, wait := false, held := s.pinSafe (s.rd 0x083 R.PWM_CFG_PIN j) }
      else s
    s.showPins

/-! ### Pins (R276 to R278) -/

/-- A write of FIO_CFGn: a pin whose function changes drives HLVL until its first release action (R277), and an encoder that begins to see it takes its
level. -/
def State.writeFioCfg (s : State) (n data : Nat) : State :=
  let was := s.rd 0x080 R.FIO_CFG_FUNC n
  let s := s.applyWrite (R.FIO_CFG_FUNC.addr 0x080 n) data
  let s := if s.rd 0x080 R.FIO_CFG_FUNC n = was then s else s.setPin n { s.pin n with driven := false, pulse := none, last := none }
  let s := if s.rd 0x080 R.FIO_CFG_FUNC n = was ∨ ¬ s.encPin n then s
    else upTo 16 (fun (t : State) e => if t.rd 0x082 R.ENC_CFG_PIN_A e = n ∨ t.rd 0x082 R.ENC_CFG_PIN_B e = n then t.encSample e else t) s
  s.showPin n (4 * s.tb)

/-! ### Commands -/

def execFioSafeClr (s : State) : Result := .next (s.hostAt 0x080 fun s => s.safeClear)
def execBankMismatch (bank : Fin 6) (s : State) : Result := .next (if s.domOn 3 then s.setMismatch bank true else s)
def execBankMismatchEnd (bank : Fin 6) (s : State) : Result := .next (if s.domOn 3 then s.setMismatch bank false else s)
def execPinEdgeCapture (pin : Fin 97) (rise : Bool) (s : State) : Result := .next (s.pinEdge pin rise)
def execPhaseWindowOpen (w : Fin 32) (s : State) : Result := .next (s.phaseOpen w)
def execPhaseWindowClose (w : Fin 32) (s : State) : Result := .next (s.phaseClose w)
def execEncoderTransition (e : Fin 16) (a b : Bool) (s : State) : Result := .next (s.encTransition e a b)
def execEncoderPeriodicLatch (e : Fin 16) (s : State) : Result := .next (s.encPeriodic e)
def execEncoderZLatch (e : Fin 16) (s : State) : Result := .next (s.encZ e)
def execSsiFrameEnd (e : Fin 16) (data : BitVec 29) (s : State) : Result := .next (s.ssiEnd e data.toNat)
def execPwmPeriodStart (j : Fin 32) (s : State) : Result := .next (s.pwmPeriodStart j)
def execPwmFall (j : Fin 32) (s : State) : Result := .next (s.pwmFall j)

end Sys2Proof.Machine
end

