-- ==== Sys2Proof/Machine/Events.lean ====
section
/-! DEFINITION. The event controller (chapter 14) beyond the raises and groups of Ops: arrival, routing, claims and finishes by cogs and by
the host, and the MSI-X table. -/

namespace Sys2Proof.Machine

/-- EVENT_RAISE (R404): a raise that is on its way reaches the controller. -/
def State.eventRaise (s : State) (n : Nat) : State :=
  if s.domOn 2 && decide (0 < s.crossing n) then ({ s with xing := put s.xing n (s.crossing n - 1) } : State).arrive n else s

/-- GROUP_TIME_LIMIT (R405): NS nanoseconds have passed since the group's first raise; the limit is held while page 0x040 is
frozen (R495). -/
def State.groupTime (s : State) (g : Nat) : State :=
  let x := s.grp g
  let ns := s.rd (grpPage g) R.EV_GRP_NS_NS
  if s.domOn 2 && !s.frozen 0x040 && decide (0 < x.held) && decide (ns ≠ 0) && decide (x.first + ns ≤ s.tb) then s.fireGroup g else s

/-- A write of EV_SRC_CFG for a source (R402, R404, R412). -/
def State.writeSrcCfg (s : State) (n data : Nat) : State :=
  if 1023 ≤ n ∨ (isReservedSource n ∧ bit data 31) then s
  else
    let p := srcPage n
    let was := s.on p R.EV_SRC_CFG_EN
    let t := s.applyWrite (R.EV_SRC_CFG_EN.addr p 0) data
    let x := t.src n
    let t := if was && !bit data 31 && decide (x.st = .held ∨ x.st = .pending) then t.setSrc n { x with st := .idle } else t
    let t := s.msixRise t [n]
    if !was && bit data 31 && t.levelCond n && decide (x.st = .idle) then t.arrive n else t

/-- The pending source that a claim takes: the highest CLASS, then the lowest number (R408). -/
def State.bestOf (s : State) (routed : Nat → Bool) : Option Nat :=
  s.evSrc.foldl (fun (b : Option Nat) (n, x) =>
    if x.st = .pending && routed n then
      match b with
      | some m => if s.rd (srcPage m) R.EV_SRC_CFG_CLASS < s.rd (srcPage n) R.EV_SRC_CFG_CLASS then some n else b
      | none => some n
    else b) none

/-- A claim (R408), with the vector that the source then has (R412): nothing while the controller's domain is not on; injection bit 1 makes the next claim return 1,023 (R412). -/
def State.claim (s : State) (routed : Nat → Bool) (take : EvSource → EvSource) : Nat × State :=
  if s.injArmed 0x040 1 then (1023, s.injTake 0x040 1)
  else match if s.domOn 2 then s.bestOf routed else none with
    | some n =>
      let vec := if s.on (srcPage n) R.EV_SRC_CFG_HOST then some (s.rd (srcPage n) R.EV_SRC_CFG_VEC) else none
      (n, s.setSrc n (take { s.src n with st := .claimed, vec := vec }))
    | none => (1023, s)

/-- ev.t.claim (R114, R408): ev.r holds the number; Z marks 1,023. -/
def State.evClaim (s : State) (i : Nat) : State :=
  let c := casOf i
  let k := (s.logicalOf i).getD 16
  let routed := fun n => decide (s.rd (srcPage n) R.EV_SRC_CFG_CAS = c) && bit (s.rd (srcPage n) R.EV_SRC_CFG_MASK) k
  let r1 := s.claim routed fun x => { x with cas := c, k := k, host := false }
  let n := r1.1
  let s := r1.2
  (s.setCog i ((s.cog i).set .evr n)).accepted i (({} : FlagWrite).put flagZ (decide (n = 1023)))

/-- A finish (R410): whether the source was claimed. -/
def State.finish (s : State) (n : Nat) : State :=
  let x := s.src n
  if !s.domOn 2 then s
  else if x.st ≠ .claimed then s.bump 0x040 R.EV_ERR_BADFIN
  else
    let s := s.setSrc n { x with st := .idle, rep := false, cas := 0, k := 0, host := false, vec := none }
    if s.on (srcPage n) R.EV_SRC_CFG_EN && (if isLevelSource n then s.levelCond n else x.rep) then s.arrive n else s

/-- A read of EV_HCLAIMv (R411): claims for vector v. A peek reads the number and claims nothing (R9). -/
def State.hostClaim (s : State) (v : Nat) : Nat × State := s.claim (fun n => s.hostRouted n v) fun x => { x with host := true, cas := 0, k := 0 }

/-- A host finish (R411): the message of the vector that the claim was on, if it was on one, is sent again when the finish leaves the vector asserted. -/
def State.hostFinish (s : State) (n : Nat) : State :=
  let t := s.finish n
  match (s.src n).vec with
  | some v => if (s.src n).st = .claimed && s.vecAsserted v && t.vecAsserted v then t.msixSend v else t
  | none => t

/-- A write of a word of the MSI-X table (R366): unmasking a vector whose message is pending sends it. -/
def State.writeMsix (s : State) (a data : Nat) : State :=
  let v := (a - 0x121400) / 16
  let s := { s with regs := put s.regs a (BitVec.ofNat 32 (if a % 16 = 12 then data % 2 else if a % 16 = 0 then data / 4 * 4 else data)) }
  if a % 16 = 12 then s.msixUnmask v else s

/-- A write of EV_SW (R413). -/
def State.writeEvSw (s : State) (data : Nat) : State := upTo 16 (fun (t : State) i => if bit data i then t.raise (640 + i) else t) s

/-- A write of PG_EVT_PEND (R403): the bits written 1 clear, which re-arms their sources. -/
def State.pendClear (s : State) (p data : Nat) : State := s.applyWrite (R.PG_EVT_PEND_PEND.addr p 0) data

/-! ### Commands -/

def execEventRaise (source : Fin 1023) (s : State) : Result := .next (s.eventRaise source)
def execGroupTimeLimit (group : Fin 64) (s : State) : Result := .next (s.groupTime group)
/-- EVENT_SOURCE_CONFIG (R404): EV_SRC_CFG of the source that EV_SRC_IDX selects. -/
def execEventSourceConfig (data : Reg) (s : State) : Result :=
  .next (s.hostAt 0x040 fun s => s.writeSrcCfg (s.rd 0x040 R.EV_SRC_IDX_IDX) data.toNat)
def execEvClaim (cog : CogId) (s : State) : Result := .next (s.onTrigger cog .evClaim fun _ _ s => s.evClaim cog)
/-- EV_FIN (R410): the number moved. -/
def execEvFin (cog : CogId) (s : State) : Result :=
  .next (s.onTrigger cog .evFin fun v _ s => ((s.finish (v % 1024)).watchdogKick cog 2).accepted cog)
/-- EV_HCLAIM (R411): the read returns the number claimed. -/
def execEvHclaim (v : Fin 64) (s : State) : Result :=
  .next (s.host fun s =>
    let r2 := if s.pageOn 0x040 then s.hostClaim v else (0, s)
    let n := r2.1
    let s := r2.2
    { s with out := .regRead (0x40100 + 4 * v.val) (BitVec.ofNat 32 n) :: s.out })
def execEvHfin (num : Fin 1024) (s : State) : Result := .next (s.hostAt 0x040 fun s => s.hostFinish num)
def execEvSw (data : BitVec 16) (s : State) : Result := .next (s.hostAt 0x040 fun s => s.writeEvSw data.toNat)
/-- PG_EVT_PEND_CLEAR (R403). -/
def execPgEvtPendClear (page : Fin 0x410) (data : Reg) (s : State) : Result :=
  .next (if (pageKind page).hasHeader then s.hostAt page fun s => s.pendClear page data.toNat else s)

end Sys2Proof.Machine
end

