-- ==== Sys2Proof/Machine/Vision.lean ====
section
/-! DEFINITION. The CoaXPress lanes and the mark-finder pipelines (chapter 10): bring-up, the control channel, line triggers, the stages of a
pipeline on a line, findings, and image forwarding. -/

namespace Sys2Proof.Machine

/-- The pages of pipeline n: lane, stages, statistics windows, and forwarding with the counters (R323). -/
def visPage (n : Nat) : Nat := 0x0E0 + 4 * n
def stagePage (n : Nat) : Nat := visPage n + 1
def statPage (n : Nat) : Nat := visPage n + 2
def fwdPage (n : Nat) : Nat := visPage n + 3

/-- The live state of a lane and its pipeline. -/
def State.lane (s : State) (n : Nat) : Vision := lookD s.vis n {}
def State.setLane (s : State) (n : Nat) (x : Vision) : State := { s with vis := put s.vis n x }

/-! ### Lanes and groups (R292, R295, R303) -/

/-- The lane states of VIS_LINK.STATE. -/
def lnOff : Nat := 0
def lnDiscovery : Nat := 1
def lnRelocking : Nat := 2
def lnUp : Nat := 3
def lnSleep : Nat := 4

/-- The lanes of the camera whose master is lane n. DESIGN CHOICE (log entry 27): LANES on a lane that is not a multiple of it acts as 1. -/
def State.visLanes (s : State) (n : Nat) : Nat :=
  let l := match s.rd (visPage n) R.VIS_LINK_LANES with | 1 => 2 | 2 => 4 | _ => 1
  if n % l = 0 then l else 1

/-- The master of a lane: the lower lane whose enabled group takes it in, or the lane itself. -/
def State.visMaster (s : State) (m : Nat) : Nat :=
  (([m / 4 * 4, m / 2 * 2].find? fun n => decide (n < m ∧ m < n + s.visLanes n) && s.on (visPage n) R.VIS_LINK_EN).getD m)

/-- The pipelines of a master's group. -/
def State.visGroup (s : State) (n : Nat) : List Nat := (List.range (s.visLanes n)).map (n + ·)

/-- The state of a lane. -/
def State.lnState (s : State) (n : Nat) : Nat := s.rd (visPage n) R.VIS_LINK_STATE

/-- A master's change of state: the other lanes of the group follow, as far as their domains are on (R295). -/
def State.setLnState (s : State) (n v : Nat) : State :=
  (s.visGroup n).foldl (fun (t : State) m =>
    if m = n ∨ t.domOn (24 + m) then (t.wr (visPage m) R.VIS_LINK_STATE v).wr (visPage m) R.VIS_LINK_MEMBER (b2n (decide (m ≠ n))) else t) s

/-- A lane by itself: Off, or with EN = 1 in Discovery (R295). -/
def State.laneAlone (s : State) (m : Nat) : State :=
  (s.wr (visPage m) R.VIS_LINK_MEMBER 0).wr (visPage m) R.VIS_LINK_STATE (if s.on (visPage m) R.VIS_LINK_EN then lnDiscovery else lnOff)

/-- The lanes of a list that no group takes in any more stand by themselves. -/
def State.freeLanes (s : State) (ms : List Nat) : State :=
  ms.foldl (fun (t : State) m => if t.visMaster m = m ∧ t.domOn (24 + m) then t.laneAlone m else t) s

/-- The lanes that follow a master that is enabled. -/
def State.visFollowers (s : State) (n : Nat) : List Nat :=
  if s.on (visPage n) R.VIS_LINK_EN ∧ s.visMaster n = n then (s.visGroup n).filter fun m => decide (m ≠ n) else []

/-- A 14-bit width of which 0 means 16,384. -/
def wide14 (v : Nat) : Nat := if v = 0 then 16384 else v

/-- The own range of a pipeline, and the camera pixels it receives: first, and one past the last (R303). -/
def State.ownRange (s : State) (m : Nat) : Nat × Nat :=
  let a := s.rd (visPage m) R.VIS_STRIPE_START
  (a, a + wide14 (s.rd (visPage m) R.VIS_STRIPE_LEN))
def State.lineWidth (s : State) (m : Nat) : Nat := wide14 (s.rd (visPage m) R.VIS_FMT_LINE_W)
def State.received (s : State) (m : Nat) : Nat × Nat :=
  let o := min 256 (s.rd (visPage m) R.VIS_FMT_OVL)
  let (a, b) := s.ownRange m
  (a - o, min (b + o) (s.lineWidth m))

/-- Whether the own ranges of a group tile the line without gaps or overlap (R303). -/
def State.tiles (s : State) (n : Nat) : Bool :=
  let rs := sortBy (fun a b => decide (a.1 ≤ b.1)) ((s.visGroup n).map s.ownRange)
  decide (rs.foldl (fun (e : Option Nat) r => if e = some r.1 then some r.2 else none) (some 0) = some (s.lineWidth n))

/-- A lane drops to Discovery with its link event (R295, R320). -/
def State.lnFall (s : State) (n : Nat) : State := (s.setLnState n lnDiscovery).pgEvt (visPage n) 0

/-- A write of VIS_LINK (R295): EN starts discovery or turns the lane off; RATE written in Discovery or Up makes the lane relock. Lanes that leave the
group stand by themselves. -/
def State.writeVisLink (s : State) (n data : Nat) : State :=
  let was := s.on (visPage n) R.VIS_LINK_EN
  let st := s.lnState n
  let old := s.visFollowers n
  let s := s.applyWrite (R.VIS_LINK_EN.addr (visPage n) 0) data
  let s := (s.setLane n { s.lane n with relock := s.tb }).freeLanes old
  if s.visMaster n ≠ n then s
  else if !bit data 8 then s.laneAlone n
  else if !was then s.setLnState n lnDiscovery
  else if st = lnDiscovery ∨ st = lnUp then s.setLnState n lnRelocking
  else s

/-- A lane has a signal: LOS clears (R325). -/
def State.signalBack (s : State) (n : Nat) : State := s.wr (visPage n) R.VIS_LINK_LOS 0

/-- The lane locks (R295, R303): a master that relocks is Up at a rate other than the discovery rate, unless the own ranges do not tile the line. -/
def State.laneLock (s : State) (n : Nat) : State :=
  if !s.pageOn (visPage n) then s
  else if s.lnState n ≠ lnRelocking ∨ s.visMaster n ≠ n then (s.signalBack n).relocked (24 + n)
  else
    let s := (s.visGroup n).foldl (fun (t : State) m => (t.signalBack m).relocked (24 + m)) s
    if s.rd (visPage n) R.VIS_LINK_RATE = 0 then s.setLnState n lnDiscovery
    else if s.tiles n then (s.wr (visPage n) R.VIS_LINK_STRIPE_ERR 0).setLnState n lnUp
    else s.wr (visPage n) R.VIS_LINK_STRIPE_ERR 1

/-! ### Control channel and heartbeat (R296, R297) -/

/-- A field of a word. -/
def Fld.of (f : Fld) (w : Nat) : Nat := bits w f.lo f.w

/-- The data bytes of a control command: SIZE, 0 and values above 64 acting as 64. -/
def ctlSize (cmd : Nat) : Nat :=
  let k := R.VIS_CTL_CMD_SIZE.of cmd
  if k = 0 ∨ 64 < k then 64 else k

/-- A control command ends: BUSY clears, DONE is set and RESULT is reported. -/
def State.ctlEnd (s : State) (n result ack : Nat) : State :=
  ((((s.wr (visPage n) R.VIS_CTL_STAT_BUSY 0).wr (visPage n) R.VIS_CTL_STAT_DONE 1).wr (visPage n) R.VIS_CTL_STAT_RESULT result).wr
    (visPage n) R.VIS_CTL_STAT_ACK ack)

/-- The bytes of VIS_CTL_DATA in packet order. -/
def State.ctlData (s : State) (n k : Nat) : List Byte :=
  (List.range k).map fun i => BitVec.ofNat 8 (s.rd (visPage n) R.VIS_CTL_DATA_BYTES (i / 4) / 256 ^ (i % 4))

/-- A write of VIS_CTL_CMD (R296). -/
def State.writeVisCtl (s : State) (n data : Nat) : State :=
  let p := visPage n
  let s := s.applyWrite (R.VIS_CTL_CMD_GO.addr p 0) data
  if !bit data 12 || s.on p R.VIS_CTL_STAT_BUSY then s
  else if s.lnState n ≠ lnDiscovery ∧ s.lnState n ≠ lnUp then s.ctlEnd n 4 0
  else
    let s := (s.wr p R.VIS_CTL_STAT_BUSY 1).setLane n { s.lane n with ctl := s.tb, ctlCmd := data }
    let d := if R.VIS_CTL_CMD_WRITE.of data = 1 then some (s.ctlData n (ctlSize data)) else none
    { s with out := .visControl n (s.rd p R.VIS_CTL_ADDR_ADDR) (ctlSize data) d :: s.out }

/-- An acknowledgement of the command that is outstanding arrives: read data appears in VIS_CTL_DATA. -/
def State.ctlAck (s : State) (n : Nat) (err crcBad : Bool) (code : Nat) (data : List Byte) : State :=
  let p := visPage n
  if !s.pageOn p || !s.on p R.VIS_CTL_STAT_BUSY then s
  else
    let result := if crcBad then 3 else if err then 1 else 0
    let cmd := (s.lane n).ctlCmd
    let s := s.signalBack n
    let s := if R.VIS_CTL_CMD_WRITE.of cmd = 1 ∨ result ≠ 0 then s
      else (data.take (ctlSize cmd)).zipIdx.foldl (fun (t : State) (b, i) =>
        t.wr p R.VIS_CTL_DATA_BYTES (setBits (t.rd p R.VIS_CTL_DATA_BYTES (i / 4)) (8 * (i % 4)) 8 b.toNat) (i / 4)) s
    s.ctlEnd n result code

/-- A heartbeat is missed: LOST, the count, and the event (R297). -/
def State.beatLost (s : State) (n : Nat) : State :=
  ((s.wr (visPage n) R.VIS_HB_LOST 1).bump (visPage n) R.VIS_HB_CNT).pgEvt (visPage n) 1

/-! ### Line triggers (R298, R299) -/

/-- The firing after a time: the next phase OFS + k STEP of the cadence in the direction it runs, or the next tick of the period (R298). -/
def State.nextFiring (s : State) (n t0 : Nat) : Option Nat :=
  let p := visPage n
  let step := max 1 (s.rd p R.VIS_TRG_STEP_STEP)
  let ofs := s.rd p R.VIS_TRG_OFS_OFS
  match s.rd p R.VIS_TRG_MODE with
  | 1 =>
    let k := s.rd p R.VIS_TRG_CAD
    if !s.domOn 3 || !s.cadEn k then none
    else
      let c := s.cad k
      let t0 := max t0 (c.enabledAt - 1)
      let x := c.posAt t0
      let cyc := x / 2 ^ 28
      let ph := (x % 2 ^ 28).toNat
      let last : Nat := ofs + (2 ^ 28 - 1 - ofs) / step * step
      let up : Int := if ph < ofs then cyc * 2 ^ 28 + (ofs : Int)
        else if ofs + ((ph - ofs) / step + 1) * step < 2 ^ 28 then cyc * 2 ^ 28 + ((ofs + ((ph - ofs) / step + 1) * step : Nat) : Int)
        else (cyc + 1) * 2 ^ 28 + (ofs : Int)
      let down : Int := if ph ≤ ofs then (cyc - 1) * 2 ^ 28 + (last : Int) else cyc * 2 ^ 28 + ((ofs + (ph - 1 - ofs) / step * step : Nat) : Int)
      c.reach t0 up down
  | 2 => some (t0 + 1 + (((ofs : Int) - (t0 + 1 : Nat)) % (step : Int)).toNat)
  | _ => none

/-- The trigger record of a tick: the position of cadence VIS_PH.CAD as it was computed there, and holdover (R233, R300, R302). -/
def State.trgAt (s : State) (n t : Nat) : Trg :=
  ⟨t, if s.on (visPage n) R.VIS_PH_EN then some (s.cadSampled (s.rd (visPage n) R.VIS_PH_CAD) t) else none, s.heldAt t⟩

/-- The outstanding triggers of a lane, shown in VIS_STAT.TRG_OUT. -/
def State.setTrigs (s : State) (n : Nat) (l : List Trg) : State := s.setLane n { s.lane n with trigs := l }

/-- LINE_TRIGGER (R299, R319): the generator's next firing, once the timebase has reached it. -/
def State.lineTrigger (s : State) (n : Nat) : State :=
  let p := visPage n
  match s.nextFiring n (s.lane n).seek with
  | none => s
  | some t =>
    if s.tb < t ∨ s.visMaster n ≠ n then s
    else
      let x := s.lane n
      let s := s.setLane n { x with seek := t, active := s.tb }
      let gap := if 6 ≤ s.rd p R.VIS_LINK_RATE then 2000 else 4000
      let early := match x.packet with | some t' => decide (t < t' + gap) | none => false
      if (s.dom (24 + n)).st = .off then s
      else if !s.blockOn p then (s.startWake (24 + n)).bump (fwdPage n) R.VIS_CNT_TRG_SKIP
      else if early || s.lnState n ≠ lnUp || 64 ≤ x.trigs.length then s.bump (fwdPage n) R.VIS_CNT_TRG_SKIP
      else
        let s := (s.setLane n { s.lane n with packet := some t }).setTrigs n (x.trigs ++ [s.trgAt n t])
        { s with out := .visTrigger n t :: s.out }

/-! ### Findings and lost lines (R301, R314 to R316) -/

/-- W0 of a finding (R314). -/
def findingW0 (kind src : Nat) (warm part sat hold : Bool) : Nat :=
  kind + 16 * src + 1024 * b2n warm + 2048 * b2n part + 4096 * b2n sat + 8192 * b2n hold

/-- The two words of a long. -/
def longWords (v : Nat) : List Nat := [v % 2 ^ 14, v / 2 ^ 14 % 2 ^ 14]

/-- Findings of the present line enter the output FIFO, behind the report of a run of lost lines that is still open. -/
def State.pushFindings (s : State) (m : Nat) (fs : List Finding) : State :=
  let x := s.lane m
  let fs := fs.map fun f => { f with line := x.lines }
  if x.run.isSome then s.setLane m { x with after := x.after ++ fs } else s.setLane m { x with fifo := x.fifo ++ fs }

/-- The LOST finding of a run, and the findings that waited behind it (R301, R316). -/
def State.lostReport (s : State) (m : Nat) : State :=
  let x := s.lane m
  match x.run with
  | none => s
  | some r =>
    let f : Finding := ⟨s.rd (fwdPage m) R.VIS_LOST_CHAN, r.trg.tick % 2 ^ 42,
      [findingW0 5 0 false false false r.trg.hold, r.count] ++ longWords r.phase, x.lines⟩
    s.setLane m { x with run := none, after := [], fifo := x.fifo ++ [f] ++ x.after }

/-- A line is lost (R301): counted, and in a run while VIS_LOST.EN = 1; a run of 1,024 lines is reported. -/
def State.lineLost (s : State) (m : Nat) (g : Trg) (phase : Nat) : State :=
  let s := s.bump (fwdPage m) R.VIS_CNT_LINE_LOST
  if !s.on (fwdPage m) R.VIS_LOST_EN then s
  else
    let x := s.lane m
    let r : LostRun := match x.run with | some r => { r with count := r.count + 1 } | none => ⟨g, phase, 1, s.tb⟩
    let s := s.setLane m { x with run := some r }
    if 1024 ≤ r.count then s.lostReport m else s

/-! ### Pixels (R293, R307, R308) -/

/-- A pixel after flat-field: its value, whether it was saturated, and whether it rests on incomplete data. -/
structure Px where
  v    : Nat
  sat  : Bool := false
  part : Bool := false
  deriving DecidableEq, Repr

/-- A pixel aligned to 14 bits (R293). -/
def alignPixel (fmt v : Nat) : Nat :=
  match fmt with
  | 0 => v % 2 ^ 8 * 64 | 1 => v % 2 ^ 10 * 16 | 2 => v % 2 ^ 12 * 4 | 3 => v % 2 ^ 14 | _ => v % 2 ^ 16 / 4

/-- The flat-field of an aligned pixel (R308). -/
def flatField (p gain : Nat) (offset : Int) : Nat := (min 16383 (max 0 ((((p : Int) - offset) * gain + 2048) / 4096))).toNat

/-- The pixels that a pipeline receives of a camera line, after flat-field (R303, R308, R320); a pixel that the line lacks reads 0. -/
def State.receive (s : State) (m : Nat) (raw : List Nat) : List Px × State :=
  let (lo, hi) := s.received m
  let fmt := s.rd (visPage m) R.VIS_FMT_PFMT
  (List.range (hi - lo)).foldl (fun (q : List Px × State) j =>
    let a := match raw[lo + j]? with | some v => alignPixel fmt v | none => 0
    let px : Px := ⟨a, decide (a = 16383), (raw[lo + j]?).isNone⟩
    if !q.2.on (stagePage m) R.VIS_FF_EN then (q.1 ++ [px], q.2)
    else
      let r1 := q.2.readVis m (2 * j)
      let e := r1.1
      let g := r1.2.1
      let t := r1.2.2
      let r2 := t.readVis m (2 * j + 1)
      let e' := r2.1
      let o := r2.2.1
      let t := r2.2.2
      if e = .uncorrectable ∨ e' = .uncorrectable then (q.1 ++ [{ px with v := 0, part := true }], t)
      else (q.1 ++ [{ px with v := flatField a g.toNat o.toInt }], t)) ([], s)

/-- A line at a pipeline: its trigger, phase and unreduced position, whether it is a warming line, whether all of it is partial, and the
received pixels with the camera number of the first; no pixels for a lost line. -/
structure Line where
  trg   : Trg
  phase : Nat
  cyc   : Int
  warm  : Bool
  part  : Bool
  lo    : Nat
  px    : Option (List Px)
  deriving DecidableEq, Repr

/-- The camera pixels of a range; a pixel outside what the pipeline receives reads 0. -/
def Line.slice (l : Line) (x n : Nat) : List Px :=
  let ps := l.px.getD []
  (List.range n).map fun i => if x + i < l.lo then ⟨0, false, true⟩ else (ps[x + i - l.lo]?).getD ⟨0, false, true⟩

/-! ### Correlators and edges (R309, R311, R312) -/

/-- The whole part of a square root below 2^40. -/
def isqrt (n : Nat) : Nat := countBelow (fun k => (k + 1) * (k + 1)) n 64 0 (2 ^ 40)

/-- The score of a template on pixels (R309), rounded with ties upwards (DEDUCED, log entry 28). -/
def corrScore (ts ps : List Nat) : Nat :=
  let n : Int := ts.length
  let sum := fun (f : Nat → Nat → Nat) => (((List.zip ts ps).map fun x => f x.1 x.2).sum : Int)
  let st := sum fun t _ => t
  let sp := sum fun _ p => p
  let c := n * sum (fun t p => t * p) - st * sp
  let v := (n * sum (fun t _ => t * t) - st * st) * (n * sum (fun _ p => p * p) - sp * sp)
  if c ≤ 0 ∨ v ≤ 0 then 0 else (isqrt ((2 * 16383 * c.toNat) ^ 2 / v.toNat) + 1) / 2

/-- round(64 δ) of three neighbouring values (R309): ties towards plus infinity, δ within half a sample. -/
def delta64 (a b c : Int) : Int :=
  let den := 2 * (a - 2 * b + c)
  if den = 0 then 0
  else
    let num := 64 * (a - c)
    let r := if 0 < den then roundDiv num den else roundDiv (-num) (-den)
    max (-32) (min 32 r)

/-- The first index of the greatest value of a list, with the value. -/
def peakOf (vs : List Nat) : Option (Nat × Nat) :=
  vs.zipIdx.foldl (fun (b : Option (Nat × Nat)) (v, i) => match b with
    | some (_, w) => if w < v then some (i, v) else b
    | none => some (i, v)) none

/-- The finding of correlator c on a line (R309, R315). -/
def State.correlate (s : State) (m c : Nat) (l : Line) : List Finding × State :=
  let p := stagePage m
  if !s.on p R.COR_CFG_EN c then ([], s)
  else
    let n := s.rd p R.COR_CFG_N c
    let x0 := s.rd p R.COR_RNG_X0 c
    let len := wide14 (s.rd p R.COR_RNG_LEN c)
    let r3 := (List.range n).foldl (fun (q : List Nat × Bool × State) t =>
      let r4 := q.2.2.readVis m (0x8000 + 256 * c + t)
      let e := r4.1
      let v := r4.2.1
      let u := r4.2.2
      if e = .uncorrectable then (q.1 ++ [0], true, u) else (q.1 ++ [v.toNat], q.2.1, u)) ([], false, s)
    let ts := r3.1
    let bad := r3.2.1
    let s := r3.2.2
    let px := l.slice x0 len
    let vs := px.map (·.v)
    let scores := (List.range (len + 1 - n)).map fun i => corrScore ts ((vs.drop i).take n)
    let sat := px.any (·.sat)
    let part := l.part || bad || px.any (·.part)
    let ch := s.rd p R.COR_CH_CHAN c
    let st := l.trg.tick % 2 ^ 42
    let miss := if s.on p R.COR_CFG_MISS c then
        [⟨ch, st, [findingW0 4 c l.warm part sat l.trg.hold, 0] ++ longWords l.phase, 0⟩] else []
    match peakOf scores with
    | none => (miss, s)
    | some (i, b) =>
      if b < s.rd p R.COR_CFG_THR c then (miss, s)
      else
        let ends := decide (i = 0 ∨ i + 1 = scores.length)
        let d := if ends then 0 else delta64 (scores.getD (i - 1) 0) b (scores.getD (i + 1) 0)
        let pos := wrap (64 * ((x0 + i : Nat) : Int) + 32 * ((n : Int) - 1) + d) 20
        let own := s.ownRange m
        let a := own.1
        let e := own.2
        if a ≤ pos / 64 ∧ pos / 64 < e then
          ([⟨ch, st, [findingW0 0 c l.warm (part || ends) sat l.trg.hold, b] ++ longWords (pos + bits l.phase 20 8 * 2 ^ 20), 0⟩], s)
        else ([], s)

/-- The edge that a finder selects among samples (R311): index, score, round(64 δ), and whether a neighbour is missing. -/
def edgeOf (vs : List Nat) (i0 len k pol sel thr : Nat) : Option (Nat × Nat × Int × Bool) :=
  let g := fun (i : Nat) => ((List.range k).map fun j => ((vs.getD (i + 1 + j) 0 : Nat) : Int) - ((vs.getD (i - j) 0 : Nat) : Int)).sum
  let lo := i0 + k - 1
  let hi := i0 + len - k
  let has := fun (i : Nat) => decide (lo ≤ i ∧ i < hi)
  let ok := fun (i : Nat) =>
    let a := (g i).natAbs
    decide (thr ≤ a) && (if pol = 1 then decide (0 < g i) else if pol = 2 then decide (g i < 0) else true) &&
      (!(decide (0 < i) && has (i - 1)) || decide ((g (i - 1)).natAbs ≤ a)) && (!has (i + 1) || decide ((g (i + 1)).natAbs < a))
  let cands := ((List.range (hi - lo)).map (lo + ·)).filter ok
  let pick := if sel = 0 then cands.head? else cands.foldl (fun (b : Option Nat) i => match b with
    | some j => if (g j).natAbs < (g i).natAbs then some i else b
    | none => some i) none
  pick.map fun i =>
    let part := !(decide (0 < i) && has (i - 1) && has (i + 1))
    let d := if part then 0 else delta64 (g (i - 1)).natAbs (g i).natAbs (g (i + 1)).natAbs
    (i, min 16383 ((2 * (g i).natAbs + k) / (2 * k)), d, part)

/-- What an edge finder looks at: the samples with their first index, what its finding carries, the column of sample 0 for a finding across the
web, and the phases of an along profile. -/
structure Samples where
  vs     : List Nat
  warm   : Bool
  part   : Bool
  sat    : Bool
  column : Option Nat
  phases : List Nat
  deriving DecidableEq, Repr

/-- The phase of an edge at P on an along profile (R312). -/
def edgePhase (phases : List Nat) (p : Nat) : Nat :=
  let i := p / 64
  let f := p % 64
  let a := phases.getD i 0
  let d := signed (wrap ((phases.getD (i + 1) 0 : Int) - a) 28) 28
  wrap (a + (d * f + 32) / 64) 28

/-- The finding of edge finder e on samples (R311, R315). DESIGN CHOICE (log entry 29): samples beyond the end of a profile are not searched. -/
def State.findEdge (s : State) (m e : Nat) (l : Line) (x : Samples) : List Finding :=
  let p := stagePage m
  let i0 := s.rd p R.EDG_RNG_I0 e
  let len := min (wide14 (s.rd p R.EDG_RNG_LEN e)) (x.vs.length - i0)
  let k := if s.rd p R.EDG_CFG_K e = 0 then 16 else s.rd p R.EDG_CFG_K e
  let ch := s.rd p R.EDG_CH_CHAN e
  let st := l.trg.tick % 2 ^ 42
  match edgeOf x.vs i0 len k (s.rd p R.EDG_CFG_POL e) (s.rd p R.EDG_CFG_SEL e) (s.rd p R.EDG_CFG_THR e) with
  | none => if s.on p R.EDG_CFG_MISS e then
      [⟨ch, st, [findingW0 4 e x.warm x.part x.sat l.trg.hold, 1] ++ longWords l.phase, 0⟩] else []
  | some (i, score, d, part) =>
    let pos := (((64 * i + 32 : Nat) : Int) + d).toNat
    match x.column with
    | some c =>
      let q := 64 * c + pos
      let own := s.ownRange m
      let a := own.1
      let b := own.2
      if a ≤ q / 64 ∧ q / 64 < b then
        [⟨ch, st, [findingW0 1 e x.warm (x.part || part) x.sat l.trg.hold, score] ++ longWords (q % 2 ^ 20 + bits l.phase 20 8 * 2 ^ 20), 0⟩]
      else []
    | none =>
      let ph := if s.on (visPage (s.visMaster m)) R.VIS_PH_EN then edgePhase x.phases pos else pos
      [⟨ch, st, [findingW0 2 e x.warm (x.part || part) x.sat l.trg.hold, score] ++ longWords ph, 0⟩]

/-! ### Windows (R310, R313) -/

/-- A mean rounded to nearest, ties upwards (R310). -/
def meanOf (sum n : Nat) : Nat := (2 * sum + n) / (2 * n)

/-- The registers of window key: 0 to 3 accumulation, 16 + w statistics. -/
def State.winEnabled (s : State) (m key : Nat) : Bool :=
  if key < 16 then s.on (stagePage m) R.ACC_LIN_EN key else s.on (statPage m) R.STW_CTL_EN (key - 16)
def State.winFree (s : State) (m key : Nat) : Bool :=
  if key < 16 then s.on (stagePage m) R.ACC_LIN_FREE key else s.on (statPage m) R.STW_LIN_FREE (key - 16)
def State.winStart (s : State) (m key : Nat) : Nat :=
  if key < 16 then s.rd (stagePage m) R.ACC_START_START key else s.rd (statPage m) R.STW_START_START (key - 16)
def State.winNew (s : State) (m key : Nat) : Collect :=
  let shape := if key < 16 then
      (s.rd (stagePage m) R.ACC_GEO_X0 key, s.rd (stagePage m) R.ACC_GEO_W key, s.rd (stagePage m) R.ACC_LIN_NL key, s.on (stagePage m) R.ACC_LIN_TYPE key)
    else (s.rd (statPage m) R.STW_GEO_X0 (key - 16), s.rd (statPage m) R.STW_GEO_W (key - 16), s.rd (statPage m) R.STW_LIN_NL (key - 16), false)
  let x0 := shape.1
  let w := shape.2.1
  let nl := shape.2.2.1
  let ty := shape.2.2.2
  let word := fun (f : Fld) => if key < 16 then 0 else (s.reg (f.addr (statPage m) (key - 16))).toNat
  { x0 := x0, w := wide14 w, nl := if nl = 0 then 1024 else nl, across := ty, thr := word R.STW_THR_LO, ctl := word R.STW_CTL_EN }

/-- A line joins a collection, under the thresholds of its start. What a lost line would have given to it is a free value (R320 states none; log entry 4). -/
def State.collect (s : State) (key : Nat) (c : Collect) (l : Line) : Collect × State :=
  let c := { c with done := c.done + 1, phases := c.phases ++ [l.phase], warm := c.warm || l.warm }
  match l.px with
  | none =>
    let r5 := s.freeDraw 14
    let v := r5.1
    let s := r5.2
    ({ c with part := true, lost := true, vals := if c.across then c.vals else c.vals ++ [v] }, s)
  | some _ =>
    let px := l.slice c.x0 c.w
    let vs := px.map (·.v)
    let sum := vs.sum
    let vals := if 16 ≤ key then c.vals
      else if !c.across then c.vals ++ [meanOf sum c.w]
      else if c.vals.isEmpty then vs else (List.zip c.vals vs).map fun x => x.1 + x.2
    let lo := R.STW_THR_LO.of c.thr
    let hi := R.STW_THR_HI.of c.thr
    ({ c with vals := vals, sum := c.sum + sum, least := vs.foldl min c.least, most := vs.foldl max c.most,
              nhi := c.nhi + (vs.filter fun v => decide (hi < v)).length, nlo := c.nlo + (vs.filter fun v => decide (v < lo)).length,
              sat := c.sat || px.any (·.sat), part := c.part || l.part || px.any (·.part) }, s)

/-- A line has passed the windows: the greatest phase among the lines of its cycle (R310). -/
def State.notePeak (s : State) (m : Nat) (l : Line) : State :=
  let x := s.lane m
  let ph := match x.peak with | some (k, ph) => if k = l.cyc then max ph l.phase else l.phase | none => l.phase
  s.setLane m { x with peak := some (l.cyc, ph) }

/-- One window on a line (R310), which starts at the first line of a cycle whose phase is at or above START, enabled or not before: a start that falls due, the line, and the collection that it completes. -/
def State.windowLine (s : State) (m key : Nat) (l : Line) : Option Collect × State :=
  let x := s.lane m
  if !s.winEnabled m key then (none, if (look x.wins key).isSome then s.setLane m { x with wins := del x.wins key } else s)
  else
    let start := s.winStart m key
    let past := match x.peak with | some (k, ph) => decide (k = l.cyc ∧ start ≤ ph) | none => false
    let due := s.winFree m key || (decide (start ≤ l.phase) && !past)
    let c := match look x.wins key with | some c => some c | none => if due then some (s.winNew m key) else none
    match c with
    | none => (none, s)
    | some c =>
      let r6 := s.collect key c l
      let c := r6.1
      let s := r6.2
      let y := s.lane m
      if c.nl ≤ c.done then (some c, s.setLane m { y with wins := del y.wins key }) else (none, s.setLane m { y with wins := put y.wins key c })

/-- The profile of a completed accumulation window as samples (R310, R311). A column mean over a lost line is a free value. -/
def State.profile (s : State) (c : Collect) : Samples × State :=
  let r7 := if !c.across then (c.vals, s)
    else if c.lost then (List.range c.w).foldl (fun (q : List Nat × State) _ => (q.1 ++ [(q.2.freeDraw 14).1], (q.2.freeDraw 14).2)) ([], s)
    else (c.vals.map fun v => meanOf v c.nl, s)
  let vs := r7.1
  let s := r7.2
  (⟨vs, c.warm, c.part, c.sat, if c.across then some c.x0 else none, c.phases⟩, s)

/-- The STAT finding of a completed statistics window, if it sends one by the registers of its start (R313, R318); its values over a lost line are free. -/
def State.statFinding (s : State) (w : Nat) (c : Collect) (l : Line) : List Finding × State :=
  let r8 := if c.lost then s.freeDraw 14 else (meanOf c.sum (c.w * c.nl), s)
  let mean := r8.1
  let s := r8.2
  let second := match R.STW_CTL_SEL.of c.ctl with
    | 1 => c.most | 2 => c.most - c.least | 3 => min 16383 c.nhi | 4 => min 16383 c.nlo | _ => c.least
  let r9 := if c.lost then s.freeDraw 14 else (second, s)
  let second := r9.1
  let s := r9.2
  let lim := R.STW_CTL_LIM.of c.ctl
  let send := match R.STW_CTL_EMIT.of c.ctl with
    | 0 => false | 1 => true | 2 => decide (lim ≤ second) | _ => decide (second < lim)
  if send then
    ([⟨R.STW_CTL_CHAN.of c.ctl, l.trg.tick % 2 ^ 42, [findingW0 3 w c.warm c.part c.sat l.trg.hold, mean, second, bits l.phase 14 14], 0⟩], s)
  else ([], s)

/-- Folds a change that answers findings over the numbers below n. -/
def overSources (n : Nat) (f : Nat → State → List Finding × State) (s : State) : List Finding × State :=
  (List.range n).foldl (fun (q : List Finding × State) i => (q.1 ++ (f i q.2).1, (f i q.2).2)) ([], s)

/-- The findings of a line in the order of R316, and whether the window of the freeze sent one (R322). -/
def State.lineFindings (s : State) (m : Nat) (l : Line) : List Finding × Bool × State :=
  let p := stagePage m
  let live := l.px.isSome
  let r10 := overSources 4 (fun c t => if live then t.correlate m c l else ([], t)) s
  let cor := r10.1
  let s := r10.2
  let src := fun (t : State) (e : Nat) => if t.on p R.EDG_CFG_EN e then t.rd p R.EDG_CFG_SRC e else 1
  let r11 := overSources 4 (fun e t =>
    if live && decide (src t e = 0) then
      let i0 := t.rd p R.EDG_RNG_I0 e
      let px := l.slice i0 (wide14 (t.rd p R.EDG_RNG_LEN e))
      (t.findEdge m e l ⟨List.replicate i0 0 ++ px.map (·.v), l.warm, l.part || px.any (·.part), px.any (·.sat), some 0, []⟩, t)
    else ([], t)) s
  let edg := r11.1
  let s := r11.2
  let r12 := (List.range 4).foldl (fun (q : List (Nat × Samples) × State) a =>
    let x := q.2.windowLine m a l
    match x.1 with
    | some c => (q.1 ++ [(a, (x.2.profile c).1)], (x.2.profile c).2)
    | none => (q.1, x.2)) ([], s)
  let profs := r12.1
  let s := r12.2
  let r13 := overSources 4 (fun e t =>
    match profs.find? fun x => decide (src t e = 4 + x.1) with
    | some (_, x) => (t.findEdge m e l x, t)
    | none => ([], t)) s
  let pro := r13.1
  let s := r13.2
  let r14 := (List.range 64).foldl (fun (q : List Finding × Bool × State) w =>
    let x := q.2.2.windowLine m (16 + w) l
    let t := x.2
    match x.1 with
    | some c =>
      let r15 := t.statFinding w c l
      let fs := r15.1
      let t := r15.2
      (q.1 ++ fs, q.2.1 || (!fs.isEmpty && decide (w = t.rd (fwdPage m) R.VIS_FWD_FRZ_WIN)), t)
    | none => (q.1, q.2.1, t)) ([], false, s)
  let sts := r14.1
  let hit := r14.2.1
  let s := r14.2.2
  (cor ++ edg ++ pro ++ sts, hit, s.notePeak m l)

/-! ### Image forwarding (R321, R322) -/

/-- The words of the forwarding ring. -/
def State.ringWords (s : State) (m : Nat) : Nat :=
  let k := s.rd (fwdPage m) R.VIS_FWD_CFG_RSIZE
  if 10 ≤ k ∧ k ≤ 17 then 2 ^ k else 2 ^ 17

/-- The own range's pixels, one word each, or the means of groups of HDEC. DESIGN CHOICE (log entry 30): a rest shorter than a group gives none. -/
def decimate (h : Nat) (vs : List Nat) : List Nat := (List.range (vs.length / h)).map fun i => meanOf ((vs.drop (h * i)).take h).sum h

/-- Whether a STAT finding of the freeze's window starts the freeze (R322). -/
def State.freezes (s : State) (m : Nat) (hit : Bool) : Bool :=
  hit && s.on (fwdPage m) R.VIS_FWD_FRZ_ARM && (s.lane m).post.isNone && !s.on (fwdPage m) R.VIS_FWD_FRZ_FROZEN

/-- Forwarding stops after the last record of a freeze (R322). -/
def State.freezeEnd (s : State) (m : Nat) : State :=
  if (s.lane m).post = some 0 then
    ((s.setLane m { s.lane m with post := none }).wr (fwdPage m) R.VIS_FWD_FRZ_FROZEN 1).pgEvt (visPage m) 2
  else s

/-- The finding that starts the freeze is that of a lost line, which has no record (R322): POST further records follow. -/
def State.freezeLost (s : State) (m : Nat) (hit : Bool) : State :=
  if s.on (fwdPage m) R.VIS_FWD_CFG_EN && s.freezes m hit then
    (s.setLane m { s.lane m with post := some (s.rd (fwdPage m) R.VIS_FWD_FRZ_POST) }).freezeEnd m
  else s

/-- Forwards a paired line (R321): every DEC-th is written as a record, which a freeze may mark; after POST further records forwarding stops. -/
def State.forward (s : State) (m : Nat) (l : Line) (hit : Bool) : State :=
  let p := fwdPage m
  if !s.on p R.VIS_FWD_CFG_EN then s
  else
    let x := s.lane m
    let n := x.fwdN + 1
    let dec := if s.rd p R.VIS_FWD_CFG_DEC = 0 then 1024 else s.rd p R.VIS_FWD_CFG_DEC
    let mark := s.freezes m hit
    let s := s.setLane m { x with fwdN := n, post := if mark then some (s.rd p R.VIS_FWD_FRZ_POST) else x.post }
    let s := if n % dec ≠ 0 ∨ s.on p R.VIS_FWD_FRZ_FROZEN then s
      else
        let own := s.ownRange m
        let a := own.1
        let b := own.2
        let px := l.slice a (b - a)
        let vs := decimate (2 ^ s.rd p R.VIS_FWD_CFG_HDEC) (px.map (·.v))
        let st := l.trg.tick % 2 ^ 42
        let fl := b2n l.warm + 2 * b2n (l.part || px.any (·.part)) + 4 * b2n l.trg.hold + 8 * b2n mark
        let words := [vs.length % 16384, fl] ++ [st % 2 ^ 14, st / 2 ^ 14 % 2 ^ 14, st / 2 ^ 28] ++ longWords l.phase ++ [x.seq % 16384] ++ vs
        let wp := s.rd p R.VIS_FWD_WP_WP
        let size := s.ringWords m
        let s := words.zipIdx.foldl (fun (t : State) (w, i) =>
          let ad := visBase m + 2 * (0x20000 + (wp + i) % size)
          (t.setWord ad (BitVec.ofNat 14 w)).eccFix ad) s
        let s := if mark then s else s.setLane m { s.lane m with post := (s.lane m).post.map (· - 1) }
        (s.wr p R.VIS_FWD_WP_WP ((wp + words.length) % size)).pgEvt (visPage m) 2
    s.freezeEnd m

/-- A write of VIS_FWD_FRZ (R322): either value of ARM clears FROZEN and resumes forwarding. -/
def State.writeVisFrz (s : State) (n data : Nat) : State :=
  let p := fwdPage n
  ((s.applyWrite (R.VIS_FWD_FRZ_ARM.addr p 0) data).wr p R.VIS_FWD_FRZ_FROZEN 0).setLane n { s.lane n with post := none }

/-! ### Lines (R300 to R304, R320) -/

/-- The words of a pipeline whose writes act at the next line start (R318): line geometry and phases, stages and windows. -/
def lineWord (m a : Nat) : Bool :=
  let o := a % 4096
  decide ((a / 4096 = visPage m ∧ 0x44 ≤ o ∧ o < 0x54) ∨ ((a / 4096 = stagePage m ∨ a / 4096 = statPage m) ∧ 0x40 ≤ o))

/-- A write of such a word is noted with what the word held. -/
def State.noteOld (s : State) (m a : Nat) : State :=
  if lineWord m a then s.setLane m { s.lane m with olds := (s.tb, a, s.reg a) :: (s.lane m).olds } else s

/-- Runs a change over the registers of a pipeline as they stood when the line started (R318). -/
def State.atLineStart (s : State) (m first : Nat) (f : State → State) : State :=
  let late := (s.lane m).olds.filter fun x => decide (first < x.1)
  let now := (late.map (·.2.1)).dedup.map fun a => (a, s.reg a)
  let t := f (late.foldl (fun (t : State) x => t.setReg x.2.1 x.2.2) s)
  now.foldl (fun (t : State) x => t.setReg x.1 x.2) t

/-- The next line of a pipeline starts no earlier than this one: older writes are no longer noted. -/
def State.dropOlds (s : State) (m first : Nat) : State :=
  s.setLane m { s.lane m with olds := (s.lane m).olds.filter fun x => decide (first < x.1) }

/-- One line at one pipeline of a group: lost, or through its stages. -/
def State.pipeLine (s : State) (m : Nat) (g : Trg) (phase : Nat) (cyc : Int) (raw : Option (List Nat)) (part : Bool) : State :=
  let p := fwdPage m
  let s := s.setLane m { s.lane m with lines := (s.lane m).lines + 1 }
  let warm := decide (0 < s.rd p R.VIS_STAT_WARM)
  match raw with
  | none =>
    let s := s.lineLost m g phase
    let r16 := s.lineFindings m ⟨g, phase, cyc, warm, true, 0, none⟩
    let fs := r16.1
    let s := r16.2.2
    (s.pushFindings m fs).freezeLost m r16.2.1
  | some raw =>
    let s := s.lostReport m
    let s := s.wr p R.VIS_STAT_WARM (s.rd p R.VIS_STAT_WARM - 1)
    let s := s.setLane m { s.lane m with seq := (s.lane m).seq + 1 }
    let r17 := s.receive m raw
    let px := r17.1
    let s := r17.2
    let l : Line := ⟨g, phase, cyc, warm, part, (s.received m).1, some px⟩
    let r18 := s.lineFindings m l
    let fs := r18.1
    let hit := r18.2.1
    let s := r18.2.2
    (s.pushFindings m fs).forward m l hit

/-- The phase and the cycle of line j of a trigger's frame (R300). -/
def State.linePhase (s : State) (n j : Nat) (g : Trg) : Nat × Int :=
  match g.pos with
  | some x => let y := x + ((j * s.rd (visPage n) R.VIS_LPH_LPH : Nat) : Int); (wrap y 28, y / 2 ^ 28)
  | none => (0, 0)

/-- The trigger that a complete line is paired with (R300): its frame's, the oldest outstanding one, or one made for it. While MODE is Off the line takes the
oldest one away and is stamped at its first packet. -/
def State.linePair (s : State) (n first j : Nat) : Trg × State :=
  let p := visPage n
  let x := s.lane n
  let off := decide (s.rd p R.VIS_TRG_MODE ≠ 1 ∧ s.rd p R.VIS_TRG_MODE ≠ 2)
  match s.on p R.VIS_FMT_AREA && decide (0 < j), x.frame, off, x.trigs with
  | true, some g, _, _ => (g, s)
  | _, _, true, gs => (s.trgAt n first, if gs.isEmpty then s else s.setTrigs n gs.tail)
  | _, _, false, g :: gs => (g, s.setTrigs n gs)
  | _, _, false, [] => (s.trgAt n first, s.bump (fwdPage n) R.VIS_CNT_LINE_ORPHAN)

/-- What the world reports of a complete line beside its pixels (R292, R302 to R304, R320): the tick of its first stream packet; its number in its frame
and whether it is the frame's last; the stream packets that failed their CRC; whether its format was PFMT; the line-code errors by lane of the group; stream
packets with another stream ID; and the pipelines of the group whose input would overflow, by bit. -/
structure LineInfo where
  first : Nat
  j     : Nat := 0
  last  : Bool := true
  crcBad : Nat := 0
  fmtOk : Bool := true
  codes : List Nat := []
  strays : Nat := 0
  ovf   : Nat := 0

/-- The CRC of a packet on another lane of the group fails by injection (R324): whether one does. -/
def State.memberCrc (s : State) (n : Nat) : Bool × State :=
  (s.visGroup n).foldl (fun (q : Bool × State) m =>
    if m ≠ n ∧ q.2.domOn (24 + m) ∧ q.2.injArmed (visPage m) 0 then (true, (q.2.injTake (visPage m) 0).bump (fwdPage m) R.VIS_CNT_LINK_CRC) else q) (false, s)

/-- The errors of a complete line, each counted (R302 to R304): whether it is unusable, and whether it is short. -/
def State.lineChecks (s : State) (n : Nat) (raw : List Nat) (i : LineInfo) : Bool × Bool × State :=
  let p := visPage n
  let crc := if s.injArmed p 0 then max 1 i.crcBad else i.crcBad
  let s := (if s.injArmed p 0 then s.injTake p 0 else s).bumpBy (fwdPage n) R.VIS_CNT_LINK_CRC crc
  let others := s.memberCrc n
  let s := others.2
  let fmtBad := !i.fmtOk || decide (5 ≤ s.rd p R.VIS_FMT_PFMT)
  let s := if fmtBad && decide (crc = 0) && !others.1 then s.bump (fwdPage n) R.VIS_CNT_LINE_FMT else s
  let short := s.injArmed p 2
  let s := if short then s.injTake p 2 else s
  (decide (0 < crc) || others.1 || fmtBad, short, if raw.length ≠ s.lineWidth n ∨ short then s.bump (fwdPage n) R.VIS_CNT_LINE_LEN else s)

/-- What reaches the lanes with a line, usable or not (R292, R319, R328): pixels, which end an idle time, line-code errors, and stray packets. -/
def State.lineArrives (s : State) (n : Nat) (i : LineInfo) : State :=
  let s := (s.visGroup n).zipIdx.foldl (fun (t : State) (m, k) =>
    if t.domOn (24 + m) then (t.setLane m { t.lane m with active := t.tb }).bumpBy (fwdPage m) R.VIS_CNT_LINK_CODE (i.codes.getD k 0) else t) s
  s.setLane n { s.lane n with strays := (s.lane n).strays + i.strays }

/-- A complete line at pipeline m, which is the k-th of its group: dropped at a full input or output, lost, or through the stages (R304, R316, R320). -/
def State.lineAt (s : State) (m k : Nat) (g : Trg) (phase : Nat) (cyc : Int) (raw : List Nat) (i : LineInfo) (unusable part : Bool) : State :=
  let inj := s.injArmed (fwdPage m) 2
  let s := if inj then s.injTake (fwdPage m) 2 else s
  let short := decide (k ≠ 0) && s.injArmed (visPage m) 2
  let s := if short then (s.injTake (visPage m) 2).bump (fwdPage m) R.VIS_CNT_LINE_LEN else s
  if bit i.ovf k || inj || 256 ≤ (s.lane m).fifo.length then (s.bump (fwdPage m) R.VIS_CNT_TRG_OVF).pipeLine m g phase cyc none true
  else s.pipeLine m g phase cyc (if unusable then none else some raw) (unusable || part || short)

/-- LINE_COMPLETE (R300 to R304, R318, R320): a complete line of the camera on master lane n is paired and goes to every pipeline of the group, which
treats it by its registers as they stood at its first packet. -/
def State.lineComplete (s : State) (n : Nat) (raw : List Nat) (i : LineInfo) : State :=
  let p := visPage n
  if !s.blockOn p || s.lnState n ≠ lnUp || s.visMaster n ≠ n then s
  else
    let s := s.lineArrives n i
    let t := s.atLineStart n i.first fun s =>
      let area := s.on p R.VIS_FMT_AREA
      let pair := s.linePair n i.first i.j
      let g := pair.1
      let s := pair.2
      let s := s.setLane n { s.lane n with frame := if area && !i.last then some g else none, frameAt := s.tb }
      let ph := s.linePhase n (if area then i.j else 0) g
      let checks := s.lineChecks n raw i
      let w := s.lineWidth n
      (s.visGroup n).zipIdx.foldl (fun (t : State) (m, k) =>
        if !t.domOn (24 + m) then t
        else t.atLineStart m i.first fun t => t.lineAt m k g ph.1 ph.2 (raw.take w) i checks.1 (checks.2.1 || decide (w < raw.length))) checks.2.2
    (t.visGroup n).foldl (fun (t : State) m => t.dropOlds m i.first) t

/-- TRIGGER_ABANDON (R301): the oldest outstanding trigger's line has not arrived within TMO, 0 acting as 1. -/
def State.triggerAbandon (s : State) (n : Nat) : State :=
  match (s.lane n).trigs with
  | g :: gs =>
    if s.domOn (24 + n) && decide (g.tick + 1000 * max 1 (s.rd (visPage n) R.VIS_TRG_TMO) ≤ s.tb) then
      let s := (s.setTrigs n gs).bump (fwdPage n) R.VIS_CNT_TRG_ABANDON
      let ph := s.linePhase n 0 g
      let phase := ph.1
      let cyc := ph.2
      (s.visGroup n).foldl (fun (t : State) m => if t.domOn (24 + m) then t.pipeLine m g phase cyc none true else t) s
    else s
  | [] => s

/-- LOST_REPORT (R301): 1 ms after the first line of the run was lost. -/
def State.lostTimer (s : State) (m : Nat) : State :=
  match (s.lane m).run with
  | some r => if s.domOn (24 + m) && decide (r.since + 1000000 ≤ s.tb) then s.lostReport m else s
  | none => s

/-- FINDING_SEND (R316, R317): the oldest finding enters the hub once its channel has credit; a line that waits is counted once. -/
def State.findingSend (s : State) (m : Nat) : State :=
  let x := s.lane m
  match x.fifo with
  | [] => s
  | f :: fs =>
    if !s.domOn (24 + m) then s
    else match s.trySend f.chan (0x100 + m) f.stamp 1 f.words with
      | some t => t.setLane m { x with fifo := fs, waited := match fs with | g :: _ => x.waited && decide (g.line = f.line) | [] => false }
      | none => if x.waited then s else (s.bump (fwdPage m) R.VIS_CNT_TRG_CRWAIT).setLane m { x with waited := true }

/-- The lane of a pipeline takes up its state anew (R295, R319): a member that of its master, a lane with EN = 0 Off, any other Discovery or a relock at
VIS_LINK.RATE. -/
def State.laneResume (s : State) (n : Nat) : State :=
  let m := s.visMaster n
  if m ≠ n then (s.wr (visPage n) R.VIS_LINK_STATE (s.lnState m)).wr (visPage n) R.VIS_LINK_MEMBER 1
  else if !s.on (visPage n) R.VIS_LINK_EN then s.laneAlone n
  else (s.setLane n { s.lane n with relock := s.tb }).setLnState n (if s.rd (visPage n) R.VIS_LINK_RATE = 0 then lnDiscovery else lnRelocking)

/-- The pipeline returns from retention (R319): histories and collections are gone, 64 lines are warming, and the lane resumes. -/
def State.visReturn (s : State) (n : Nat) : State :=
  let s := (s.setLane n { s.lane n with wins := [], frame := none, active := s.tb }).wr (fwdPage n) R.VIS_STAT_WARM 64
  s.laneResume n

/-- The pipeline's domain is in retention: its lane sleeps (R295). -/
def State.visSleep (s : State) (n : Nat) : State := s.wr (visPage n) R.VIS_LINK_STATE lnSleep

/-! ### Enables (R305, R306, R310, R326) -/

/-- Whether a range lies inside the pixels a pipeline receives. -/
def State.inReceived (s : State) (m x n : Nat) : Bool := let (a, b) := s.received m; decide (a ≤ x ∧ x + n ≤ b)

/-- Whether correlator c, edge finder e, and the window of a key may be enabled: ranges as R306 and R326 give, inside the pixels received (R305). -/
def State.corFits (s : State) (m c : Nat) : Bool :=
  let n := s.rd (stagePage m) R.COR_CFG_N c
  decide (2 ≤ n ∧ n ≤ 256) && s.inReceived m (s.rd (stagePage m) R.COR_RNG_X0 c) (wide14 (s.rd (stagePage m) R.COR_RNG_LEN c))
def State.edgFits (s : State) (m e : Nat) : Bool :=
  decide (s.rd (stagePage m) R.EDG_CFG_SRC e ≠ 0) || s.inReceived m (s.rd (stagePage m) R.EDG_RNG_I0 e) (wide14 (s.rd (stagePage m) R.EDG_RNG_LEN e))
def State.winFits (s : State) (m key : Nat) : Bool :=
  let c := s.winNew m key
  s.inReceived m c.x0 c.w && decide (c.w * c.nl ≤ 262144)

/-- Whether the enable that a write of a word carries may stand (R305): each word has the EN of at most one source, in bit 31. -/
def State.enableFits (s : State) (m a : Nat) : Bool :=
  let p := stagePage m
  (List.range 4).all (fun c => decide (a ≠ R.COR_CFG_EN.addr p c) || s.corFits m c) &&
  (List.range 4).all (fun e => decide (a ≠ R.EDG_CFG_EN.addr p e) || s.edgFits m e) &&
  (List.range 4).all (fun k => decide (a ≠ R.ACC_LIN_EN.addr p k) || s.winFits m k) &&
  (List.range 64).all (fun w => decide (a ≠ R.STW_CTL_EN.addr (statPage m) w) || s.winFits m (16 + w))

/-- A write of a source's register: an enable that it carries is checked, and EN stays 0 where it is refused (R305). -/
def State.writeStage (s : State) (m addr data : Nat) : State :=
  let s := (s.noteOld m addr).applyWrite addr data
  if bit data 31 && !s.enableFits m addr then s.setReg addr (BitVec.ofNat 32 (setBits (s.reg addr).toNat 31 1 0)) else s

/-- Whether a write of VIS_TRG is dropped (R302): while MODE is not Off, but for one that sets it to Off (DEDUCED, log entry 99). -/
def State.trgDrops (s : State) (n data : Nat) : Bool :=
  let on := fun (m : Nat) => decide (m = 1 ∨ m = 2)
  on (s.rd (visPage n) R.VIS_TRG_MODE) && on (data % 4)

/-- A write of VIS_TRG (R302): one that is dropped is counted. The generator looks for firings after the write. -/
def State.writeVisTrg (s : State) (n data : Nat) : State :=
  let p := visPage n
  if s.trgDrops n data then s.pgErr p (some (0x54, data))
  else (s.applyWrite (R.VIS_TRG_MODE.addr p 0) data).setLane n { s.lane n with seek := s.tb }

/-- A write of VIS_FWD_CFG: lines are counted from the enable (R321). -/
def State.writeVisFwd (s : State) (n data : Nat) : State :=
  let was := s.on (fwdPage n) R.VIS_FWD_CFG_EN
  let s := s.applyWrite (R.VIS_FWD_CFG_EN.addr (fwdPage n) 0) data
  if was then s else s.setLane n { s.lane n with fwdN := 0 }

/-- A write of VIS_HB: the heartbeat timer starts as TMO becomes non-zero (R297). -/
def State.writeVisHb (s : State) (n data : Nat) : State :=
  let t := s.applyWrite (R.VIS_HB_TMO.addr (visPage n) 0) data
  if s.rd (visPage n) R.VIS_HB_TMO = 0 then t.setLane n { t.lane n with beat := t.tb } else t

/-- A write of VIS_TRG_STEP or VIS_TRG_OFS: the generator looks for firings after the write (R298). -/
def State.writeVisStep (s : State) (n addr data : Nat) : State := (s.applyWrite addr data).setLane n { s.lane n with seek := s.tb }

/-- A write of VIS_LOST: with EN = 0 a run that is open sends nothing, and the findings behind it go on (R301). -/
def State.writeVisLost (s : State) (n data : Nat) : State :=
  let s := s.applyWrite (R.VIS_LOST_EN.addr (fwdPage n) 0) data
  let x := s.lane n
  if s.on (fwdPage n) R.VIS_LOST_EN then s else s.setLane n { x with run := none, after := [], fifo := x.fifo ++ x.after }

/-! ### Commands -/

/-- LANE_ENABLE and LANE_RATE_WRITE: a write of VIS_LINK. -/
def execLaneEnable (n : Fin 16) (data : Reg) (s : State) : Result := .next (s.hostAt (visPage n) fun s => s.writeVisLink n data.toNat)
def execLaneRateWrite (n : Fin 16) (data : Reg) (s : State) : Result := .next (s.hostAt (visPage n) fun s => s.writeVisLink n data.toNat)
def execLaneLock (n : Fin 16) (s : State) : Result := .next (s.laneLock n)
/-- RELOCK_TIMEOUT (R295). -/
def execRelockTimeout (n : Fin 16) (s : State) : Result :=
  .next (if s.pageOn (visPage n) && decide (s.lnState n = lnRelocking) && decide (s.visMaster n = n) && decide ((s.lane n).relock + 1000000 ≤ s.tb) then
      s.lnFall n
    else s)
/-- LOSS_OF_SIGNAL (R320): loss of the signal, or of lock alone. The camera's lanes fall to Discovery together; the lane that lost it raises its link event. -/
def execLossOfSignal (n : Fin 16) (los : Bool) (s : State) : Result :=
  .next (
    let s := if los && s.pageOn (visPage n) then s.wr (visPage n) R.VIS_LINK_LOS 1 else s
    if s.pageOn (visPage n) && decide (s.lnState n = lnUp) then
      let m := s.visMaster n
      ((s.setLane m { s.lane m with frame := none }).setLnState m lnDiscovery).pgEvt (visPage n) 0
    else s)
def execControlCommandGo (n : Fin 16) (data : Reg) (s : State) : Result :=
  .next (s.hostAt (visPage n) fun s => s.writeVisCtl n (setBits data.toNat 12 1 1))
def execControlAck (n : Fin 16) (err crcBad : Bool) (code : BitVec 8) (data : List Byte) (s : State) : Result :=
  .next (s.ctlAck n err crcBad code.toNat data)
/-- CONTROL_TIMEOUT (R296). -/
def execControlTimeout (n : Fin 16) (s : State) : Result :=
  .next (if s.pageOn (visPage n) && s.on (visPage n) R.VIS_CTL_STAT_BUSY &&
      decide ((s.lane n).ctl + 1000000 * max 1 (R.VIS_CTL_CMD_TMO.of (s.lane n).ctlCmd) ≤ s.tb) then s.ctlEnd n 2 0 else s)
def execHeartbeatPacket (n : Fin 16) (s : State) : Result :=
  .next (if s.pageOn (visPage n) then (s.setLane n { s.lane n with beat := s.tb }).signalBack n else s)
/-- HEARTBEAT_LOST (R297). -/
def execHeartbeatLost (n : Fin 16) (s : State) : Result :=
  .next (
    let t := s.rd (visPage n) R.VIS_HB_TMO
    if s.pageOn (visPage n) && decide (t ≠ 0) && decide ((s.lane n).beat + 1000000 * t ≤ s.tb) then
      (s.setLane n { s.lane n with beat := s.tb }).beatLost n
    else s)
/-- EVENT_PACKET (R292). -/
def execEventPacket (n : Fin 16) (s : State) : Result :=
  .next (if s.pageOn (visPage n) && decide (s.lnState n = lnUp) then
      { s.setLane n { s.lane n with events := (s.lane n).events + 1 } with out := .visEventAck n :: s.out }
    else s)
def execLineTrigger (n : Fin 16) (s : State) : Result := .next (s.lineTrigger n)
def execLineComplete (n : Fin 16) (pixels : List (BitVec 16)) (first : BitVec 64) (j : Nat) (crcBad : Nat) (fmtOk : Bool) (ovf : BitVec 4) (s : State)
    (last : Bool := true) (codes : List Nat := []) (strays : Nat := 0) : Result :=
  .next (s.lineComplete n (pixels.map (·.toNat)) { first := first.toNat, j, last, crcBad, fmtOk, codes, strays, ovf := ovf.toNat })
def execTriggerAbandon (n : Fin 16) (s : State) : Result := .next (s.triggerAbandon n)
def execLostReport (n : Fin 16) (s : State) : Result := .next (s.lostTimer n)
def execFindingSend (n : Fin 16) (s : State) : Result := .next (s.findingSend n)
/-- VISION_IDLE_RETENTION (R319): IDLE microseconds without a pixel or a firing. -/
def execVisionIdleRetention (n : Fin 16) (s : State) : Result :=
  .next (
    let us := s.rd (visPage n) R.VIS_PWR_IDLE
    if s.domOn (24 + n) && (s.dom (24 + n)).emu.isNone && !s.heldAwake (24 + n) && decide (us ≠ 0) && decide ((s.lane n).active + 1000 * us ≤ s.tb) then
      let t := s.beginEntry (24 + n) .ret
      if (t.dom (24 + n)).emu = some .ret then t.visSleep n else t
    else s)
/-- VIS_WAKE (R319): the write reaches the always-on wake logic in every state of the domain. -/
def execVisWake (n : Fin 16) (s : State) : Result :=
  .next (s.host fun s => if (s.dom (24 + n)).st = .off then s.logErr (visPage n) 1 else s.startWake (24 + n))
def execFreezeArm (n : Fin 16) (data : Reg) (s : State) : Result := .next (s.hostAt (fwdPage n) fun s => s.writeVisFrz n data.toNat)

end Sys2Proof.Machine
end

