-- ==== Sys2Proof/Machine/Links.lean ====
section
/-! DEFINITION. The host link's mailboxes and the tandem links (chapter 12): groups, time blocks and the timebase lock, ports, and
spanned cadences. -/

namespace Sys2Proof.Machine

/-! ### The beginning of an epoch (R425) -/

/-- A 42-bit stamp in a pair of LO and HI fields. -/
def State.wr42 (s : State) (p : Nat) (lo hi : Fld) (v : Nat) : State := (s.wr p lo v).wr p hi (v / 2 ^ 32)
def State.rd42 (s : State) (p : Nat) (lo hi : Fld) : Nat := s.rd p lo + s.rd p hi * 2 ^ 32

/-- Writes the SNAP end record when no cadence's snapshot is due any more (R426): its value counts the SNAP records before it. A freeze
that waited for the snapshot then takes place (R432). -/
def State.snapEnd (s : State) : State :=
  if s.on 0x061 R.JRN_EPOCH_SNAP_BUSY && s.jrn.snapDue.isEmpty then
    let n := s.rd 0x061 R.JRN_SNAPCNT_CNT
    let s := (s.jrnPut ⟨6, 0x1F1, 0, n⟩).wr 0x061 R.JRN_EPOCH_SNAP_BUSY 0
    if s.jrn.post = some 0 ∧ ¬ s.on 0x060 R.JRN_STAT_FROZEN then (s.wr 0x060 R.JRN_STAT_FROZEN 1).pgEvt 0x020 14 else s
  else s

/-- An accepted send of mailbox m begins an epoch (R425): while the journal records, ARM is set and names the mailbox, and no snapshot of an
earlier epoch is in progress (R432). -/
def State.epochBegins (s : State) (m : Nat) : Bool :=
  s.recording && s.on 0x061 R.JRN_EPOCH_ARM && decide (s.rd 0x061 R.JRN_EPOCH_MBX = m) && !s.on 0x061 R.JRN_EPOCH_SNAP_BUSY

/-- The epoch begins with E the present stamp; the EPOCH record comes before the send's own (R425). -/
def State.beginEpoch (s : State) : State :=
  let num := (s.rd 0x061 R.JRN_EPOCH_NUM + 1) % 2 ^ 16
  let s := ((s.wr 0x061 R.JRN_EPOCH_NUM num).wr 0x061 R.JRN_EPOCH_ARM 0).wr 0x061 R.JRN_EPOCH_SNAP_BUSY 1
  let s := (s.wr42 0x061 R.JRN_E_LO_E R.JRN_E_HI_E s.now).wr 0x061 R.JRN_SNAPCNT_CNT 0
  let s := s.jrnPut ⟨0, 0x1F0, s.now, num⟩
  { s with jrn := { s.jrn with since := 0, snapE := s.tb, snapDue := (List.range 16).filter s.cadEn } }

/-! ### Mailboxes (R367 to R369) -/

/-- A write of MBX_SEND of mailbox m: REFUSED takes its value, and LEN from 1 to 4 sends the mailbox's words as sender 0x119 stamped now,
unless the send is refused. -/
def State.mailboxSend (s : State) (m data : Nat) : State :=
  let s := s.wr 0x120 R.MBX_SEND_REFUSED (data / 2 ^ 24) m
  let len := data % 8
  let ch := s.rd 0x120 R.MBX_CH_CHAN m
  let refuse := fun (s : State) => (s.bump 0x120 R.MBX_SEND_REFUSED m).pgEvt 0x120 0
  if len = 0 ∨ 4 < len then s
  else if s.injArmed 0x120 0 then refuse (s.injTake 0x120 0)
  else if !s.on 0x120 R.MBX_CH_EN m || !s.domOn 3 || !s.chEn ch || decide (s.freeCredits ch 0x119 = 0) then refuse s
  else
    let words := [s.rd 0x120 R.MBX_W01_W0 m, s.rd 0x120 R.MBX_W01_W1 m, s.rd 0x120 R.MBX_W23_W2 m, s.rd 0x120 R.MBX_W23_W3 m].take len
    let ok := (s.sendFails ch 0x119 s.now).isNone
    let s := if ok && s.epochBegins m then s.beginEpoch else s
    let s := if ok then s.wr42 0x120 R.MBX_LAST_LO_STAMP R.MBX_LAST_HI_STAMP s.now else s
    let s := (s.trySend ch 0x119 s.now 4 words).getD s
    s.snapEnd

/-! ### Groups (R370, R371, R373, R374) -/

/-- The flits that fill the next group, in order, with `room` data blocks left, and those after them. -/
def fillGroup : Nat → List (Nat × Flit) → List (Nat × Flit) × List (Nat × Flit)
  | _, [] => ([], [])
  | room, g :: gs =>
    if g.2.size ≤ room then
      let r := fillGroup (room - g.2.size) gs
      (g :: r.1, r.2)
    else ([], g :: gs)

/-- Sends what waits for a port ahead of any new flit (R377). -/
def State.linkFlush (s : State) (i : Nat) : Nat → State
  | 0 => s
  | fuel + 1 =>
    let x := s.link i
    let r := fillGroup 7 x.queued
    if r.1.isEmpty then s
    else match (s.setLink i { x with queued := r.2 }).groupSend i r.1 with
      | some t => t.linkFlush i fuel
      | none => s

/-- An idle group of a port carries its new ACK and NAK: groups are sent continuously (R370). -/
def State.showAck (s : State) (i : Nat) : State := s.groupOut i none []

/-- Groups of a port up to the one that a SEQ names. -/
def ackDrop (seq : Nat) (l : List (Nat × List (Nat × Flit))) : List (Nat × List (Nat × Flit)) :=
  if l.any fun g => decide (g.1 = seq) then (l.dropWhile fun g => decide (g.1 ≠ seq)).drop 1 else l

/-- The header's ACK frees the groups that the peer has received good, and NAK resends the others in order (R371). -/
def State.takeAck (s : State) (i ack : Nat) (nak : Bool) : State :=
  let x := s.link i
  let left := ackDrop ack x.unacked
  let s := s.setLink i { x with unacked := left }
  let s := if nak && !left.isEmpty then
      left.foldl (fun (t : State) g => t.groupOut i (some g.1) g.2) (s.bump (0x125 + i) R.TANP_STAT_RETRY)
    else s
  s.linkFlush i 64

/-- TAN_OFS, 42 bits. -/
def State.tanOfs (s : State) : Nat := s.rd42 0x124 R.TAN_OFS_LO_OFS R.TAN_OFS_HI_OFS

/-- A stamp of the peer in local terms (R373). -/
def State.translate (s : State) (st : Nat) : Nat := wrap ((st : Int) - s.tanOfs) 42

/-- What a group of the peer carries, by its flits: a message, a token, or one return of credits. -/
inductive TandemFlit where
  | msg (chan sender stamp kind : Nat) (words : List Nat)
  | token (chan sender stamp : Nat)
  | credit (chan sender count : Nat)
  deriving DecidableEq, Repr

/-- A message of its header and payload flits (R195, R196). -/
def TandemFlit.ofMsg (h p : Nat) : TandemFlit :=
  .msg (bits h 0 12) (bits h 54 10) (bits h 12 42) (bits p 59 5) ((List.range (min 4 (bits p 56 3))).map fun j => bits p (14 * j) 14)

/-- A return of credits (R198): COUNT 0 marks an empty one. -/
def TandemFlit.ofReturn (w : Nat) : List TandemFlit := if bits w 22 4 = 0 then [] else [.credit (bits w 0 12) (bits w 12 10) (bits w 22 4)]

/-- What data blocks with their flit types carry, after a message header that waits for its payload, if one does; and the header that waits after
them (R194, R370). -/
def flitsOf : Option Nat → List (Nat × Nat) → List TandemFlit × Option Nat
  | half, [] => ([], half)
  | some h, (_, d) :: bs => let r := flitsOf none bs; (.ofMsg h d :: r.1, r.2)
  | none, (ft, d) :: bs =>
    if ft = 1 then flitsOf (some d) bs
    else
      let r := flitsOf none bs
      if ft = 2 then (.token (bits d 0 12) (bits d 54 10) (bits d 12 42) :: r.1, r.2)
      else if ft = 3 then (TandemFlit.ofReturn (bits d 0 32) ++ TandemFlit.ofReturn (bits d 32 32) ++ r.1, r.2)
      else r

/-- A group's header of its parts (R370): TYPE and FT, SEQ, ACK, and NAK with the zero bits and the CRC. -/
def groupWord (head : BitVec 22) (seq ack : BitVec 8) (tail : BitVec 26) : BitVec 64 := tail ++ ack ++ seq ++ head

/-- A time block of its parts (R370): TYPE, the sender's timebase, H, its index and the index that it answers. -/
def timeWord (kind : BitVec 8) (peer : BitVec 42) (h : BitVec 8) (index answers : BitVec 3) : BitVec 64 := answers ++ index ++ h ++ peer ++ kind

/-- The flit types that a group's header gives its data blocks, and whether it is an idle group, which carries no SEQ (R370, R371). -/
def groupTypes (header : Nat) : List Nat := (List.range 7).map fun j => bits header (8 + 2 * j) 2
def groupIdle (header : Nat) : Bool := decide (bits header 8 14 = 0)

/-- Whether a group's CRC is good (R370). -/
def groupGood (header : Nat) (data : List Nat) : Bool := decide (bits header 48 16 = groupCrc header data)

/-- A flit of the peer enters the hub (R373, R374, R215): senders appear as 0x200 + n, stamps are translated. No peer sends
for a sender above 0x1FF (R374): such a flit is discarded (DESIGN CHOICE, log entry 100). During a replay messages and
tokens of the peer are discarded and counted, and a discarded message's credit goes back (R430). What arrives on a channel whose own
receiver is on the peer is not forwarded again. -/
def State.flitIn (s : State) (f : TandemFlit) : State :=
  match f with
  | .msg ch x st kind words =>
    let c := s.chan ch
    let m : Msg := ⟨ch, 0x200 + x, s.translate st, kind, words⟩
    if 0x200 ≤ x then s
    else if s.rpl.going then
      let key := s.creditKey ch m.sender
      (s.setChan ch { c with back := put c.back key (lookD c.back key 0 + 1) }).bump 0x062 R.JRN_RPL_STAT_LIVE
    else if s.on (chanPage ch) R.FAB_CH_LO_TAN then s
    else ((s.setChan ch { c with flight := c.flight ++ [.msg m] }).noteSent ch m.sender m.stamp).jrnTap m
  | .token ch x st =>
    if 0x200 ≤ x then s
    else if s.rpl.going then s.bump 0x062 R.JRN_RPL_STAT_LIVE
    else if s.on (chanPage ch) R.FAB_CH_LO_TAN || !s.chOrd ch then s
    else
      let h := s.translate st
      (s.setChan ch { s.chan ch with flight := (s.chan ch).flight ++ [.token (0x200 + x) h] }).noteSent ch (0x200 + x) h
  | .credit ch x n =>
    let c := s.chan ch
    let key := s.creditKey ch x
    (s.setChan ch { c with used := put c.used key (lookD c.used key 0 - n) }).flushOutbox

/-- A group reaches a port that is up (R371): its header and 7 data blocks. Injection bit 0 of the port's page fails the CRC (R378). While LOCK is 0 no group is
acknowledged or forwarded, and the resend is asked for once LOCK is set (R373). -/
def State.groupReceive (s : State) (i header : Nat) (data : List Nat) : State :=
  let p := 0x125 + i
  if !bit (s.rd 0x124 R.TAN_STAT_UP) i || !s.domOn 3 || decide (bits header 0 8 ≠ 0x5A) then s
  else
    let inj := s.injArmed p 0
    let s := if inj then s.injTake p 0 else s
    if inj || !groupGood header data then
      let s := s.bump p R.TANP_STAT_CRCERR
      (s.setLink i { s.link i with nak := true }).showAck i
    else
      let s := s.takeAck i (bits header 30 8) (bit header 38)
      let x := s.link i
      if groupIdle header then s
      else if !s.on 0x124 R.TAN_STAT_LOCK then s.setLink i { x with nak := true }
      else if bits header 22 8 ≠ x.expect then (s.setLink i { x with nak := true }).showAck i
      else
        let r := flitsOf x.half ((groupTypes header).zip data)
        let s := (s.setLink i { x with expect := (x.expect + 1) % 256, lastGood := x.expect, nak := false, half := r.2 }).showAck i
        r.1.foldl (fun (t : State) f => t.flitIn f) s

/-! ### Time blocks and the timebase lock (R370, R372) -/

/-- LOCK clears (R372): LOCK_LOST and the lock event. -/
def State.lockLost (s : State) : State :=
  let s := { s with tanGood := none }
  if s.on 0x124 R.TAN_STAT_LOCK then ((s.wr 0x124 R.TAN_STAT_LOCK 0).wr 0x124 R.TAN_STAT_LOCK_LOST 1).pgEvt 0x124 1 else s

/-- A time block leaves a port that is up: the timebase, H in units of 4 ns since the peer's latest arrived, its index and the one it
answers (R370). -/
def State.timeBlockSend (s : State) (i : Nat) : State :=
  if !bit (s.rd 0x124 R.TAN_STAT_UP) i then s
  else
    let x := s.link i
    let peer := match x.peer with
      | some (a, t) => (a, (s.tb - t) / 4 % 256)
      | none => (0, 0)
    let a := peer.1
    let h := peer.2
    let s := s.setLink i { x with index := (x.index + 1) % 8, sent := put x.sent x.index s.tb }
    let block := 0xA5 + s.now * 2 ^ 8 + h * 2 ^ 50 + x.index % 8 * 2 ^ 58 + a % 8 * 2 ^ 61
    let r := s.freeDraw 58
    { r.2 with out := .timeBlock i block (onLane r.1 [(2, block)]) :: s.out }

/-- The time error E − TAN_OFS in units of half a nanosecond (R372), given the peer's departure stamp and twice the one-way latency. -/
def State.timeError2 (s : State) (peer : Nat) (lat2 : Int) : Int := 2 * signed (wrap ((peer : Int) - s.tanOfs - s.tb) 42) 42 + lat2

/-- What a time error does (R372): TAN_TERR; on a follower the slew of R234 towards 0; above 50 ns LOCK clears; up to 5 ns it may be set. -/
def State.takeError (s : State) (d2 : Int) : State :=
  let d := (d2 + 1) / 2
  let s := s.wr 0x124 R.TAN_TERR_ERR (wrap (max (-32768) (min d 32767)) 16)
  let s := if s.on 0x124 R.TAN_CFG_ROLE then
      let s := s.wr 0x070 R.TB_ADJ_REM_REM (wrap (max (-(2 ^ 27)) (min d (2 ^ 27 - 1))) 28)
      if d ≠ 0 then s.wr 0x070 R.TB_STAT_SLEW 1 else s
    else s
  if 100 < d2.natAbs then s.lockLost
  else if d2.natAbs ≤ 10 then { s with tanGood := some (s.tanGood.getD s.tb) }
  else { s with tanGood := none }

/-- A time block arrives on a port that is up (R372). With the departure of the block that it answers it gives the one-way latency and E;
the follower captures the first E into TAN_OFS and tells the leader its negative, which a block may carry (log entry 3). -/
def State.timeBlockReceive (s : State) (i block : Nat) (ofs : Option (BitVec 42)) : State :=
  if !bit (s.rd 0x124 R.TAN_STAT_UP) i || !s.on 0x124 R.TAN_CFG_EN || decide (bits block 0 8 ≠ 0xA5) then s
  else
    let x := s.link i
    let peer := bits block 8 42
    let h := bits block 50 8
    let answers := bits block 61 3
    let s := s.setLink i { x with peer := some (bits block 58 3, s.tb), heard := s.tb }
    let follower := s.on 0x124 R.TAN_CFG_ROLE
    let s := match ofs with
      | some o => if follower then s else { s.wr42 0x124 R.TAN_OFS_LO_OFS R.TAN_OFS_HI_OFS o.toNat with tanFixed := true }
      | none => s
    match look x.sent answers with
    | none => s
    | some t1 =>
      let lat2 : Int := ((s.tb : Int) - t1) - 4 * h
      let s := s.wr (0x125 + i) R.TANP_LAT_LAT (max 0 (min (lat2 / 2) 65535)).toNat
      let s := if follower && !s.tanFixed then
          let e := wrap ((peer : Int) - s.tb + (lat2 + 1) / 2) 42
          let s := { s.wr42 0x124 R.TAN_OFS_LO_OFS R.TAN_OFS_HI_OFS e with tanFixed := true }
          { s with out := .tandemOfs (wrap (-(e : Int)) 42) :: s.out }
        else s
      if !s.tanFixed then s
      else if s.injArmed 0x124 0 then ((s.injTake 0x124 0).wr 0x124 R.TAN_TERR_ERR 60).lockLost
      else s.takeError (s.timeError2 peer lat2)

/-- LOCK is set once the time error has been at most 5 ns for 1 ms, unless both devices have one role (R372, R377). A port that discarded
groups meanwhile asks for them. -/
def State.lockAcquire (s : State) : State :=
  match s.tanGood with
  | some t =>
    if t + 1000000 ≤ s.tb ∧ s.on 0x124 R.TAN_CFG_EN ∧ ¬ s.on 0x124 R.TAN_STAT_ROLE_ERR ∧ s.rd 0x124 R.TAN_STAT_UP ≠ 0 then
      upTo 2 (fun (t : State) i => if (t.link i).nak then t.showAck i else t) (s.wr 0x124 R.TAN_STAT_LOCK 1)
    else s
  | none => s

/-- No time block on either port for 10 µs clears LOCK (R372). -/
def State.timeBlockTimeout (s : State) : State :=
  if (List.range 2).all fun i => decide ((s.link i).heard + 10000 ≤ s.tb) then s.lockLost else s

/-! ### Ports (R377) -/

/-- A port goes down. Its unacknowledged groups, less those that the peer reports as received, are resent on the other port ahead of any new
flit; with both ports down the link event is raised and spanning ends. -/
def State.portDown (s : State) (i : Nat) (ack : Option (BitVec 8)) : State :=
  if !bit (s.rd 0x124 R.TAN_STAT_UP) i then s
  else
    let p := 0x125 + i
    let s := ((s.wr 0x124 R.TAN_STAT_UP (setBits (s.rd 0x124 R.TAN_STAT_UP) i 1 0)).wr p R.TANP_STAT_STATE 0).bump p R.TANP_STAT_DOWN
    let x := s.link i
    let left := match ack with
      | some a => ackDrop a.toNat x.unacked
      | none => x.unacked
    let again := left.flatMap (·.2)
    let s := s.setLink i { downUntil := x.downUntil, heard := x.heard }
    let y := s.link (1 - i)
    if bit (s.rd 0x124 R.TAN_STAT_UP) (1 - i) then (s.setLink (1 - i) { y with queued := again ++ y.queued ++ x.queued }).linkFlush (1 - i) 64
    else
      let s := s.setLink i { s.link i with queued := again ++ x.queued }
      let mask := s.rd 0x124 R.TAN_SPAN_MASK
      let s := if s.on 0x124 R.TAN_CFG_ROLE && decide (mask ≠ 0) then { s.wr 0x124 R.TAN_STAT_SPAN_LOST 1 with spanHeld := mask } else s
      ({ s with spanTo := 0 } : State).pgEvt 0x124 0

/-- A port that TAN_CFG enables comes up, with its measured latency and the peer's role. What waits at a port that stays down moves to it. -/
def State.portUp (s : State) (i lat : Nat) (peerFollows : Bool) : State :=
  let p := 0x125 + i
  if !s.blockOn p || !s.on 0x124 R.TAN_CFG_EN || !bit (s.rd 0x124 R.TAN_CFG_PORTS) i || bit (s.rd 0x124 R.TAN_STAT_UP) i
      || decide (s.tb < (s.link i).downUntil) then s
  else
    let s := ((s.wr 0x124 R.TAN_STAT_UP (setBits (s.rd 0x124 R.TAN_STAT_UP) i 1 1)).wr p R.TANP_STAT_STATE 2).wr p R.TANP_LAT_LAT lat
    let s := (s.relocked (48 + i)).wr 0x124 R.TAN_STAT_ROLE_ERR (b2n (s.on 0x124 R.TAN_CFG_ROLE = peerFollows))
    let y := s.link (1 - i)
    let s := if bit (s.rd 0x124 R.TAN_STAT_UP) (1 - i) then s
      else (s.setLink (1 - i) { y with queued := [] }).setLink i { s.link i with queued := (s.link i).queued ++ y.queued }
    s.linkFlush i 64

/-- A write of TAN_CFG (R372, R380): ROLE is written only while EN is 0. Clearing EN, or a port's bit, takes ports down, and clearing EN frees
TAN_OFS and ends the lock. -/
def State.writeTanCfg (s : State) (data : Nat) : State :=
  let was := s.on 0x124 R.TAN_CFG_EN
  let a := R.TAN_CFG_EN.addr 0x124 0
  let s := if was && decide (bits data 1 1 ≠ s.rd 0x124 R.TAN_CFG_ROLE) then s.pgErr 0x124 (some (0x40, data)) else s
  let s := s.applyWrite a (if was then setBits data 1 1 (s.rd 0x124 R.TAN_CFG_ROLE) else data)
  let en := s.on 0x124 R.TAN_CFG_EN
  let s := upTo 2 (fun (t : State) i =>
    if en && bit (t.rd 0x124 R.TAN_CFG_PORTS) i then
      if t.rd (0x125 + i) R.TANP_STAT_STATE = 0 then t.wr (0x125 + i) R.TANP_STAT_STATE 1 else t
    else (t.portDown i none).wr (0x125 + i) R.TANP_STAT_STATE 0) s
  if was && !en then { s.lockLost with tanFixed := false } else s

/-! ### Spanned cadences (R375, R376) -/

/-- The leader's state record of a cadence, stamped 10 µs ahead of its CMT and of the timebase. -/
def State.spanState (s : State) (n : Nat) : State :=
  let t := max (s.cmt n) s.tb + 10000
  let g := ((s.cad n).segAt t).getD ⟨t, s.crd42 n R.CAD_POS_LO_VALUE R.CAD_POS_HI_VALUE * 2 ^ 20,
    signed (s.crd42 n R.CAD_RATE_LO_VALUE R.CAD_RATE_HI_VALUE) 42, 0, 0, t, 1, none⟩
  { s with out := .spanState n (t % 2 ^ 42) [g.accAt t, g.rate, g.rampT, g.rampS, g.rampLen, g.kDone] :: s.out }

/-- A write of TAN_SPAN: by this device's host, or of the peer's mask as this leader learns it. After the link has been down a cadence is spanned again once its
bit has been cleared and set (R377). -/
def State.spanMaskWrite (s : State) (data : Nat) (peer : Bool) : State :=
  if peer then
    if !s.on 0x124 R.TAN_CFG_EN || s.on 0x124 R.TAN_CFG_ROLE || decide (s.rd 0x124 R.TAN_STAT_UP = 0) then s
    else
      let new := (List.range 16).filter fun n => bit data n && !bit s.spanTo n
      new.foldl (fun (t : State) n => t.spanState n) { s with spanTo := data % 2 ^ 16 }
  else
    let was := s.rd 0x124 R.TAN_SPAN_MASK
    let s := (s.jrnHost 0x124054).applyWrite (R.TAN_SPAN_MASK.addr 0x124 0) data
    { s with spanHeld := s.spanHeld &&& was &&& s.rd 0x124 R.TAN_SPAN_MASK }

/-- The time at which a span record takes effect (R376): a late one at CMT + 1, with DIVERGE, a LATE notice and a break of cause 5. -/
def State.spanLate (s : State) (n t op : Nat) : Nat × State :=
  let cmt := s.cmt n
  if t ≤ cmt then
    let s := s.wr 0x124 R.TAN_SPAN_DIVERGE (setBits (s.rd 0x124 R.TAN_SPAN_DIVERGE) n 1 1)
    (cmt + 1, ((s.notice n { stamp := cmt + 1, type := 3, w1 := op }).pgEvt 0x072 0).jrnBreak 5 t n)
  else (t, s)

/-- A span record applied with no clip check (R375). -/
def State.spanApply (s : State) (n t : Nat) (rate : Bool) (v : Int) : State :=
  let r1 := s.spanLate n t (if rate then 2 else 1)
  let t := r1.1
  let s := r1.2
  let c := s.cad n
  let slew := s.crd n R.CAD_SLEW_TICKS
  let c' := if rate then c.restart t (c.remainder t) v slew true else c.restart t (c.remainder t + v) c.vars.rate slew false
  (s.setCourse n c').recompute n t

/-- A state record: the cadence runs from that state on. -/
def State.spanStart (s : State) (n t : Nat) (a rate rampT : Int) (rampS rampLen : Nat) (kDone : Int) : State :=
  let r2 := s.spanLate n t 0
  let t := r2.1
  let s := r2.2
  let g : Seg := ⟨t, a, rate, kDone, rampT, rampS, rampLen, none⟩
  let k := g.pos t / 2 ^ 28
  let s := s.setCourse n { s.cad n with segs := [g], used := 0, usedCyc := wrap k 14, cyc := k, bnds := [], enabledAt := t, noted := k }
  (s.wr 0x072 R.CAD_CTRL_EN 1 n).showCad n

/-- A span record arrives at a follower whose lock holds, for a cadence that it spans; the journal records trims and rates (R414, R416). -/
def State.spanRecord (s : State) (r : SpanRec) : State :=
  let takes := fun (n : Nat) => s.domOn 3 && s.spanned n && s.on 0x124 R.TAN_STAT_LOCK && !bit s.spanHeld n
  let put := fun (n : Nat) (st : BitVec 42) (rate : Bool) (v : Int) =>
    let t := s.translate st.toNat
    (s.jrnPut ⟨n + 16 * b2n rate, 0x1F5, t, wrap v 64⟩).spanApply n (s.absStamp t) rate v
  match r with
  | .state n st a rate rampT rampS rampLen kDone =>
    if takes n then s.spanStart n (s.absStamp (s.translate st.toNat)) a rate rampT (s.absStamp (s.translate rampS.toNat)) rampLen kDone else s
  | .trim n st v => if takes n then put n st false v.toInt else s
  | .rate n st v => if takes n then put n st true v.toInt else s

/-! ### Commands -/

def execMailboxSend (m : Fin 16) (data : Reg) (s : State) : Result := .next (s.hostAt 0x120 fun s => s.mailboxSend m data.toNat)
def execGroupReceive (port : Fin 2) (head : BitVec 22) (seq ack : BitVec 8) (tail : BitVec 26) (data : List (BitVec 64)) (s : State) : Result :=
  .next (s.groupReceive port (groupWord head seq ack tail).toNat (data.map (·.toNat)))
def execTimeBlockSend (port : Fin 2) (s : State) : Result := .next (s.timeBlockSend port)
def execTimeBlockReceive (port : Fin 2) (peer : BitVec 42) (h : BitVec 8) (index answers : BitVec 3) (ofs : Option (BitVec 42)) (s : State)
    (kind : BitVec 8 := 0xA5) : Result :=
  .next (s.timeBlockReceive port (timeWord kind peer h index answers).toNat ofs)
def execLockAcquire (s : State) : Result := .next s.lockAcquire
def execTimeBlockTimeout (s : State) : Result := .next s.timeBlockTimeout
def execTandemPortDown (port : Fin 2) (ack : Option (BitVec 8)) (s : State) : Result := .next (s.portDown port ack)
def execTandemPortUp (port : Fin 2) (lat : BitVec 16) (peerFollows : Bool) (s : State) : Result := .next (s.portUp port lat.toNat peerFollows)
def execSpanMaskWrite (data : Reg) (peer : Bool) (s : State) : Result :=
  .next (if peer then s.spanMaskWrite data.toNat true else s.hostAt 0x124 fun s => s.spanMaskWrite data.toNat false)
def execSpanRecord (record : SpanRec) (s : State) : Result := .next (s.spanRecord record)

end Sys2Proof.Machine
end

