-- ==== Sys2Proof/Machine/Movers.lean ====
section
/-! DEFINITION. The block movers (chapter 13): descriptors and their checks, beats and their arbitration, overlap, completion and
read-back, stop and errors. -/

namespace Sys2Proof.Machine

/-! ### Channels and descriptors (R382 to R385) -/

/-- The page of a channel's registers, its live state and its fields. -/
def movPage (c : Nat) : Nat := 0x051 + c / 16
def State.mover (s : State) (c : Nat) : Mover := lookD s.movers c {}
def State.setMover (s : State) (c : Nat) (x : Mover) : State := { s with movers := put s.movers c x }
def State.mrd (s : State) (c : Nat) (f : Fld) : Nat := s.rd (movPage c) f (c % 16)
def State.mwr (s : State) (c : Nat) (f : Fld) (v : Nat) : State := s.wr (movPage c) f v (c % 16)

/-- The states of a channel (R401). -/
def mvIdle : Nat := 0
def mvBusy : Nat := 1
def mvStopping : Nat := 2
def mvStopped : Nat := 3
def mvError : Nat := 4
def mvWaiting : Nat := 5

/-- Whether a channel has a descriptor under way or asked for. -/
def State.mvActive (s : State) (c : Nat) : Bool :=
  let st := s.mrd c R.MV_STAT_STATE
  decide (st = mvBusy ∨ st = mvStopping ∨ st = mvWaiting)

/-- A little-endian number of `n` words from word `k` of a descriptor. -/
def wordsAt (d : List Nat) (k n : Nat) : Nat := ((List.range n).map fun i => d.getD (k + i) 0 % 2 ^ 14 * 2 ^ (14 * i)).sum

/-- The fields of a descriptor (R384). -/
def mvMode (d : List Nat) : Nat := d.getD 0 0 % 8
def mvLen (d : List Nat) : Nat := wordsAt d 7 2
def mvEvt (d : List Nat) : Bool := bit (d.getD 0 0) 3
def mvRb (d : List Nat) : Bool := bit (d.getD 0 0) 4
def mvLast (d : List Nat) : Bool := bit (d.getD 0 0) 5

/-- A side of a descriptor: its space, its address in that space, and its wrap (R385, R389). -/
structure Side where
  space : Nat
  addr  : Nat
  wrap  : Nat
  deriving DecidableEq, Repr

def mvSide (d : List Nat) (k w : Nat) : Side :=
  let a := wordsAt d k 3
  let sp := bits a 39 3
  ⟨sp, if sp = 0 then a % 2 ^ 29 else if sp = 1 then a % 2 ^ 38 else a % 2 ^ 8, w⟩

def mvSrc (d : List Nat) : Side := mvSide d 1 (d.getD 9 0 % 32)
def mvDst (d : List Nat) : Side := mvSide d 4 (d.getD 9 0 / 32 % 32)

/-- Whether a mode reads SRC: copy and compare do, fill and compare with constant do not (R384, R390). -/
def usesSrc (mode : Nat) : Bool := decide (mode = 0 ∨ mode = 2)
/-- Whether a mode only reads. -/
def compares (mode : Nat) : Bool := decide (mode = 2 ∨ mode = 3)

/-- The pattern byte at an offset (R390). -/
def patByte (d : List Nat) (o : Nat) : Byte := BitVec.ofNat 8 (d.getD (10 + o % 2) 0)

/-- The address of the byte of a side at an offset, within the region of its wrap (R389). -/
def Side.at (x : Side) (o : Nat) : Nat :=
  if x.wrap = 0 then x.addr + o
  else
    let n := 2 ^ x.wrap
    x.addr / n * n + (x.addr % n + o) % n

/-- The ranges (start, length) that a side covers, and the region that its wrap names. -/
def Side.spans (x : Side) (len : Nat) : List (Nat × Nat) :=
  if x.wrap = 0 then [(x.addr, len)]
  else
    let n := 2 ^ x.wrap
    let base := x.addr / n * n
    let first := n - x.addr % n
    if n ≤ len then [(base, n)] else if len ≤ first then [(x.addr, len)] else [(x.addr, first), (base, len - first)]

def Side.region (x : Side) (len : Nat) : Nat × Nat :=
  if x.wrap = 0 then (x.addr, len) else (x.addr / 2 ^ x.wrap * 2 ^ x.wrap, 2 ^ x.wrap)

def meets (x y : Nat × Nat) : Bool := decide (x.1 < y.1 + y.2 ∧ y.1 < x.1 + x.2)

/-! ### Errors and completion (R394, R396) -/

/-- A stop completes: STOPPED, and an enable that waits for it takes effect. -/
def State.mvStopDone (s : State) (c : Nat) : State :=
  let s := (s.setMover c { s.mover c with stop := false, go := false }).mwr c R.MV_STAT_STATE mvStopped
  if s.mrd c R.MV_STAT_EN_PENDING = 1 then (s.mwr c R.MV_STAT_EN_PENDING 0).mwr c R.MV_CFG_EN 1 else s

/-- A channel enters ERROR with a cause at a byte offset (R396, R400). -/
def State.mvFail (s : State) (c cause ofs : Nat) : State :=
  let f := if cause = 6 then R.MV_ERR_DATA else if cause = 7 then R.MV_ERR_ADDR else if cause = 8 then R.MV_ERR_HOST else R.MV_ERR_REJECT
  let s := (s.bump 0x050 f).capture 0x050 R.MV_CAP_VALID R.MV_CAP_OVR
  let s := (s.wr 0x050 R.MV_CAP_CH c).wr 0x050 R.MV_CAP_CAUSE cause
  let s := ((s.setMover c {}).mwr c R.MV_STAT_CAUSE cause).mwr c R.MV_ERRAT_OFS ofs
  let s := (s.mwr c R.MV_STAT_STATE mvError).pgEvt (movPage c) (c % 16)
  if s.mrd c R.MV_STAT_EN_PENDING = 1 then (s.mwr c R.MV_STAT_EN_PENDING 0).mwr c R.MV_CFG_EN 1 else s

/-- A descriptor completes (R394): DONE, TAG, the done event; then the stop, the list's next descriptor, or the wait for one. -/
def State.mvDone (s : State) (c : Nat) : State :=
  let x := s.mover c
  let d := x.desc.getD []
  let s := ((s.bump (movPage c) R.MV_STAT_DONE (c % 16)).mwr c R.MV_TAG_TAG (d.getD 12 0)).setMover c { stop := x.stop }
  let s := if mvEvt d then s.raise (144 + c) else s
  let list := s.mrd c R.MV_CFG_DSRC = 1 ∧ ¬ mvLast d
  let s := if list then s.mwr c R.MV_NEXT_ADDR (wordsAt d 13 2) else s
  if x.stop then s.mvStopDone c
  else if list then (s.setMover c { go := true }).mwr c R.MV_STAT_STATE mvBusy
  else s.mwr c R.MV_STAT_STATE mvIdle

/-! ### Control (R382, R396, R398) -/

/-- MV_CTRL.GO. -/
def State.mvGo (s : State) (c : Nat) : State :=
  let st := s.mrd c R.MV_STAT_STATE
  if s.mrd c R.MV_CFG_EN = 0 ∨ ¬ (st = mvIdle ∨ st = mvStopped) then s
  else if s.mrd c R.MV_CFG_DSRC = 2 then s.mwr c R.MV_STAT_STATE mvIdle
  else (s.setMover c { go := true }).mwr c R.MV_STAT_STATE mvBusy

/-- A stop is asked for, by MV_CTRL.STOP or by EN = 0. -/
def State.mvStopAsk (s : State) (c : Nat) : State :=
  let st := s.mrd c R.MV_STAT_STATE
  if st = mvError ∨ st = mvStopped then s
  else if (s.mover c).desc.isNone then s.mvStopDone c
  else (s.setMover c { s.mover c with stop := true }).mwr c R.MV_STAT_STATE mvStopping

/-- MV_CTRL.CLR leaves ERROR for IDLE. -/
def State.mvClr (s : State) (c : Nat) : State :=
  if s.mrd c R.MV_STAT_STATE = mvError then ((s.setMover c {}).mwr c R.MV_STAT_STATE mvIdle).mwr c R.MV_STAT_CAUSE 0 else s

/-- A write of MV_CTRL. -/
def State.writeMvCtrl (s : State) (c data : Nat) : State :=
  let s := if bit data 2 then s.mvClr c else s
  let s := if bit data 0 then s.mvGo c else s
  if bit data 1 then s.mvStopAsk c else s

/-- A write of MV_CFG (R382, R396, R401): DSRC changes only while EN is 0; EN = 1 with a reserved DSRC is refused, and waits for a stop. -/
def State.writeMvCfg (s : State) (c data : Nat) : State :=
  let was := s.mrd c R.MV_CFG_EN = 1
  let s := s.mwr c R.MV_CFG_PRIO (data / 16)
  let s := if was then (if data % 4 ≠ s.mrd c R.MV_CFG_DSRC then s.pgErr (movPage c) (some (0x40 + 64 * (c % 16), data)) else s)
    else s.mwr c R.MV_CFG_DSRC data
  if bit data 8 then
    if was then s
    else if s.mrd c R.MV_CFG_DSRC = 3 then s.mwr c R.MV_STAT_EN_PENDING 0
    else if (s.mover c).stop then s.mwr c R.MV_STAT_EN_PENDING 1
    else s.mwr c R.MV_CFG_EN 1
  else
    let s := (s.mwr c R.MV_CFG_EN 0).mwr c R.MV_STAT_EN_PENDING 0
    if was then s.mvStopAsk c else s

/-! ### Fetch (R382, R383, R386) -/

/-- Whether a queue's QDST, and its QSRC, select a mover channel. -/
def State.mvFeeds (s : State) (c q : Nat) : Bool := decide (s.qrd q R.QDST_KIND = 2 ∧ s.qrd q R.QDST_ID = c)
def State.mvFills (s : State) (c q : Nat) : Bool := decide (s.qrd q R.QSRC_KIND = 3 ∧ s.qrd q R.QSRC_ID = c)

/-- Whether the host window of a side is enabled. -/
def State.winOn (s : State) (x : Side) : Bool := s.on 0x050 R.MV_HWIN_LO_EN (x.addr / 2 ^ 32)

/-- The start of the store that holds a BAR2 address (R168, R528). -/
def storeStart (a : Nat) : Nat :=
  let n := if a < 0x1000000 then 0x8000 else if 0x4000000 ≤ a ∧ a < 0x6000000 then 0x200000 else 0x80000
  a / n * n

/-- Whether two ranges have bytes in one store. -/
def sameStore (x y : Nat × Nat) : Bool :=
  decide (storeStart x.1 ≤ storeStart (y.1 + y.2 - 1) ∧ storeStart y.1 ≤ storeStart (x.1 + x.2 - 1))

/-- The overlap of a copy that is rejected (R391, R398): with a wrap on either side, regions that overlap, where both sides have bytes in one store. -/
def wrapsOverlap (d : List Nat) : Bool :=
  let a := mvSrc d
  let b := mvDst d
  decide (mvMode d = 0 ∧ a.space = 0 ∧ b.space = 0 ∧ (a.wrap ≠ 0 ∨ b.wrap ≠ 0)) && meets (a.region (mvLen d)) (b.region (mvLen d)) &&
    (a.spans (mvLen d)).any fun r => (b.spans (mvLen d)).any (sameStore r)

/-- The first failing check of a descriptor, as its cause (R386); 0 if none fails. One with LEN = 0 passes. -/
def State.mvCheck (s : State) (c : Nat) (d : List Nat) : Nat :=
  let mode := mvMode d
  let a := mvSrc d
  let b := mvDst d
  let len := mvLen d
  let srcs := if usesSrc mode then [a] else []
  let badWrap := fun (w : Nat) => decide ((1 ≤ w ∧ w ≤ 5) ∨ 24 < w)
  let sides := srcs ++ [b]
  let onDesc := !compares mode && decide (s.mrd c R.MV_CFG_DSRC = 1 ∧ b.space = 0) &&
    (b.spans len).any fun r => meets r (s.mrd c R.MV_NEXT_ADDR / 32 * 32, 32)
  let readSides := if compares mode then sides else srcs
  if len = 0 then 0
  else if 4 ≤ mode ∨ sides.any (fun x => decide (2 < x.space)) then 1
  else if badWrap a.wrap || badWrap b.wrap || sides.any fun x => decide (x.space = 2 ∧ (x.wrap ≠ 0 ∨ len % 2 = 1)) then 2
  else if wrapsOverlap d ∨ onDesc then 3
  else if readSides.any (fun x => decide (x.space = 2) && !s.mvFeeds c x.addr) || (!compares mode && decide (b.space = 2) && !s.mvFills c b.addr) then 4
  else if sides.any fun x => decide (x.space = 1) && !(s.pcie.busMaster && s.winOn x) then 5
  else if s.injArmed 0x050 0 then 9
  else 0

/-- Where a descriptor comes from: its 16 words, or an error cause, or nothing yet. -/
inductive DescRead where
  | words (d : List Nat)
  | bad (cause : Nat)
  | none

/-- The words of MV_D0 to MV_D7. -/
def State.mvRegWords (s : State) (c : Nat) : List Nat :=
  ((List.range 8).map fun k =>
    let v := (s.reg (movPage c * 4096 + 0x60 + 64 * (c % 16) + 4 * k)).toNat
    [v % 2 ^ 14, v / 2 ^ 16 % 2 ^ 14]).flatten

/-- Whether a quad in a place (0 to 3) of a descriptor ends its packet. A cog posts a descriptor as four messages of four words (R383), each of which marks its
last word (R218): DEDUCED (log entry 114), in a queue that a loose channel fills the mark on one of the first three full quads ends no descriptor. -/
def State.descEnds (s : State) (q n : Nat) (x : Quad) : Bool := x.eop && !(decide (n < 3 ∧ x.valid = 4) && decide (s.qrd q R.QSRC_KIND = 1))

/-- Up to `n` quads of a queue, to the first that ends the packet or with an uncorrectable word: their words, how many there are, whether the last
ends the packet, and whether one is uncorrectable. -/
def descQuads (s : State) (q : Nat) : Nat → List Nat × Nat × Bool × Bool × State
  | 0 => ([], 0, false, false, s)
  | n + 1 =>
    let r1 := descQuads s q n
    let ws := r1.1
    let k := r1.2.1
    let eop := r1.2.2.1
    let ue := r1.2.2.2.1
    let s := r1.2.2.2.2
    if eop || ue || decide (k < n) then (ws, k, eop, ue, s)
    else
      let y := s.qRead q
      match y.1 with
      | none => (ws, k, eop, ue, y.2)
      | some x => (ws ++ x.words, k + 1, s.descEnds q n x, x.ue, y.2.qPop q)

/-- Reads the next descriptor of a channel's source. A list's descriptor lies in a cog local or cassette shared window (R383). DESIGN CHOICE (log entry
102): of several enabled queues whose QDST selects the channel, the one with the lowest number delivers the descriptors. -/
def State.descRead (s : State) (c : Nat) : DescRead × State :=
  let src := s.mrd c R.MV_CFG_DSRC
  if src = 0 then (.words (s.mvRegWords c), s)
  else if src = 1 then
    let a := s.mrd c R.MV_NEXT_ADDR / 32 * 32
    let ok := s.windowOn (windowOf a) && match windowOf a with
      | .loc _ _ | .shared _ _ => true
      | _ => false
    if !ok then (.bad 7, s)
    else
      let r2 := s.bar2Get a 32
      let bs := r2.1
      let ue := r2.2.1
      let s := r2.2.2
      if ue then (.bad 6, s) else (.words ((List.range 16).map fun k => leNat ((bs.drop (2 * k)).take 2) % 2 ^ 14), s)
  else match (List.range 256).find? fun q => s.qOn q && s.mvFeeds c q with
    | none => (.none, s)
    | some q =>
      let quads := (s.queue q).quads.take 4
      if quads.length < 4 ∧ ¬ quads.zipIdx.any (fun x => s.descEnds q x.2 x.1) then (.none, s)
      else
        let r3 := descQuads s q 4
        let ws := r3.1
        let k := r3.2.1
        let eop := r3.2.2.1
        let ue := r3.2.2.2.1
        let s := r3.2.2.2.2
        if ue then (.bad 6, s)
        else if k = 4 ∧ eop then (.words ws, s)
        else (.bad 1, if eop then s else s.qDrop q)

/-- DESCRIPTOR_FETCH (R386): the channel fetches its next descriptor and checks it; LEN 0 completes at once. -/
def State.descFetch (s : State) (c : Nat) : State :=
  let x := s.mover c
  let due := if s.mrd c R.MV_CFG_DSRC = 2 then decide (s.mrd c R.MV_STAT_STATE = mvIdle) else x.go
  if !s.blockOn (movPage c) || s.mrd c R.MV_CFG_EN = 0 || x.desc.isSome || !due then s
  else
    let r := s.descRead c
    let s := r.2
    match r.1 with
    | .none => s
    | .bad k => s.mvFail c k 0
    | .words d =>
      let k := s.mvCheck c d
      let s := if mvLen d ≠ 0 ∧ s.injArmed 0x050 0 then s.injTake 0x050 0 else s
      if k ≠ 0 then s.mvFail c k 0
      else
        let s := ((s.setMover c { desc := some d }).mwr c R.MV_REM_REM (mvLen d)).mwr c R.MV_STAT_STATE mvBusy
        if mvLen d = 0 then s.mvDone c else s

/-! ### Beats (R387 to R393) -/

/-- What an access of a side gives: bytes, and whether the side ends there; an error; or nothing yet. -/
inductive BeatRead where
  | bytes (bs : List Byte) (ends : Bool)
  | err (cause : Nat)
  | wait

/-- The length of an access at an offset: to the next 16-byte boundary of the side's own grid, at most `left` (R388). -/
def Side.step (x : Side) (o left : Nat) : Nat := min left (16 - x.at o % 16)

/-- Whether all bytes of an access reach a store that is on. -/
def State.allLive (s : State) (a n : Nat) : Bool := (List.range n).all fun k => s.windowOn (windowOf (a + k))

/-- An access to host memory fails during a PCI Express reset (R504), or meets the injected error of page 0x050 bit 1 (R399). -/
def State.hostFault (s : State) : Bool × State :=
  if s.perst then (true, s) else if s.injArmed 0x050 1 then (true, s.injTake 0x050 1) else (false, s)

/-- The host address of a side's byte (R385). -/
def State.hostAddr (s : State) (x : Side) (o : Nat) : Nat :=
  let w := x.addr / 2 ^ 32
  s.rd 0x050 R.MV_HWIN_HI_BASE w * 2 ^ 32 + s.rd 0x050 R.MV_HWIN_LO_BASE w * 4096 + x.at o % 2 ^ 32

/-- One read access of a side at an offset, of what is left; `host` is what host memory answers (log entry 3), `bad` an answer with an
error. A queue side gives the words of its oldest quad, of which those beyond LEN are discarded (R393). -/
def State.sideRead (s : State) (x : Side) (o left : Nat) (host : List Byte) (bad : Bool) : BeatRead × List Byte × State :=
  if x.space = 0 then
    let n := x.step o left
    if !s.allLive (x.at o) n then (.err 7, host, s)
    else
      let r4 := s.bar2Get (x.at o) n
      let bs := r4.1
      let ue := r4.2.1
      let s := r4.2.2
      (if ue then .err 6 else .bytes bs false, host, s)
  else if x.space = 1 then
    let n := x.step o left
    let r5 := s.hostFault
    let inj := r5.1
    let s := r5.2
    if inj || bad then (.err 8, host, s)
    else if host.length < n then (.wait, host, s)
    else (.bytes (host.take n) false, host.drop n, { s with out := .hostRead (s.hostAddr x o) n :: s.out })
  else if !s.qOn x.addr then (.wait, host, s)
  else
    let r := s.qRead x.addr
    let s := r.2
    match r.1 with
    | none => (.wait, host, s)
    | some d =>
      if d.ue then (.err 6, host, s)
      else
        let bs := ((d.words.take d.valid).map fun w => leBytes 2 w).flatten.take left
        (.bytes bs (d.eop && decide (bs.length < left)), host, s.qPop x.addr)

/-- Fills a side's bytes to `want`, by up to `fuel` accesses: an error with its offset and the state it leaves, or the bytes, the count
read, and whether the side has ended. -/
def State.sideFill (s : State) (x : Side) (len want : Nat) (bad : Bool) : Nat → List Byte → Nat → List Byte →
    (Nat × Nat × State) ⊕ (List Byte × Nat × Bool) × List Byte × State
  | 0, have_, n, host => .inr ((have_, n, false), host, s)
  | fuel + 1, have_, n, host =>
    if want ≤ have_.length ∨ len ≤ n then .inr ((have_, n, false), host, s)
    else
      let r := s.sideRead x n (len - n) host bad
      let host := r.2.1
      let s := r.2.2
      match r.1 with
      | .err k => .inl (k, n, s)
      | .wait => .inr ((have_, n, false), host, s)
      | .bytes bs ends =>
        if ends then .inr ((have_ ++ bs, n + bs.length, true), host, s)
        else s.sideFill x len want bad fuel (have_ ++ bs) (n + bs.length) host

/-- Pushes words into a queue, EOP with the last of the descriptor; how many entered. -/
def State.pushWords (s : State) (q : Nat) (lastEop : Bool) : List Nat → Nat × State
  | [] => (0, s)
  | w :: ws => match s.qTryPush q w (lastEop && ws.isEmpty) with
    | none => (0, s)
    | some t =>
      let r := t.pushWords q lastEop ws
      (r.1 + 1, r.2)

/-- Writes bytes to a side at an offset: an error cause, or how many were taken (R387). -/
def State.sideWrite (s : State) (x : Side) (o : Nat) (bs : List Byte) (last bad : Bool) : Nat ⊕ Nat × State :=
  if x.space = 0 then
    if !s.allLive (x.at o) bs.length then .inl 7
    else .inr (bs.length, s.bar2Put (bs.zipIdx.map fun (b, k) => (x.at o + k, b)))
  else if x.space = 1 then
    if s.perst ∨ s.injArmed 0x050 1 ∨ bad then .inl 8
    else .inr (bs.length, { s with out := .hostWrite (s.hostAddr x o) bs :: s.out })
  else
    let r6 := s.pushWords x.addr last ((List.range (bs.length / 2)).map fun k => leNat ((bs.drop (2 * k)).take 2) % 2 ^ 14)
    let n := r6.1
    let s := r6.2
    .inr (2 * n, s)

/-- The descriptor's last write or comparison has been made: it reads back (R394) or completes. -/
def State.mvFinish (s : State) (c : Nat) : State :=
  let x := s.mover c
  let d := x.desc.getD []
  let b := mvDst d
  if mvRb d ∧ ¬ compares (mvMode d) ∧ b.space ≠ 2 then
    let s := s.setMover c { x with back := true }
    if b.space = 1 then { s with out := .hostRead (s.hostAddr b x.lastAt) x.lastN :: s.out } else s
  else s.mvDone c

/-- Whether a copy runs from the last byte to the first (R391). -/
def descends (d : List Nat) : Bool :=
  let a := mvSrc d
  let b := mvDst d
  decide (mvMode d = 0 ∧ a.space = 0 ∧ b.space = 0 ∧ a.wrap = 0 ∧ b.wrap = 0 ∧ a.addr < b.addr ∧ b.addr < a.addr + mvLen d)

/-- The first index at which two lists of bytes differ. -/
def firstDiff : List Byte → List Byte → Option Nat
  | a :: as, b :: bs => if a = b then (firstDiff as bs).map (· + 1) else some 0
  | _, _ => none

/-- The access of a descending copy below an offset: to the next 16-byte boundary of the side's own grid; its length (R388, R391). -/
def stepDown (addr hi : Nat) : Nat := min hi ((addr + hi - 1) % 16 + 1)

/-- Fills the funnel of a descending copy to `want` bytes from its source of `len` bytes, of which `n` from the high end have been read: an error with its offset
and the state it leaves, or the bytes and the count read. -/
def State.fillDown (s : State) (addr len want : Nat) : Nat → List Byte → Nat → (Nat × Nat × State) ⊕ List Byte × Nat × State
  | 0, have_, n => .inr (have_, n, s)
  | fuel + 1, have_, n =>
    if want ≤ have_.length ∨ len ≤ n then .inr (have_, n, s)
    else
      let k := stepDown addr (len - n)
      let o := len - n - k
      if !s.allLive (addr + o) k then .inl (7, o, s)
      else
        let r := s.bar2Get (addr + o) k
        if r.2.1 then .inl (6, o, r.2.2) else r.2.2.fillDown addr len want fuel (r.1 ++ have_) (n + k)

/-- A beat of a descending copy has written `n` bytes at offset `o`; `left` stay in its funnel, and `m` bytes of the source have been read. -/
def State.downDone (s : State) (c : Nat) (d : List Nat) (n o m : Nat) (left : List Byte) : State :=
  let wrote := (s.mover c).wrote + n
  let t := (s.setMover c { s.mover c with wrote := wrote, read := m, funnel := left, lastAt := o, lastN := n }).mwr c R.MV_REM_REM (mvLen d - wrote)
  if o = 0 then t.mvFinish c else t

/-- A beat of a descending copy with its funnel filled writes the `n` highest bytes at offset `o`. -/
def State.downWrite (s : State) (c : Nat) (d : List Nat) (n o m : Nat) (bs : List Byte) : State :=
  (s.sideWrite (mvDst d) o (bs.drop (bs.length - n)) false false).elim (fun k => s.mvFail c k o)
    fun r => r.2.downDone c d n o m (bs.take (bs.length - n))

/-- A beat of a descending copy: its funnel holds the bytes read and not yet written, the highest last. -/
def State.beatDown (s : State) (c : Nat) (d : List Nat) : State :=
  let x := s.mover c
  let hi := mvLen d - x.wrote
  let n := stepDown (mvDst d).addr hi
  match s.fillDown (mvSrc d).addr (mvLen d) n 8 x.funnel x.read with
  | .inl (k, o, t) => t.mvFail c k o
  | .inr (bs, m, t) => t.downWrite c d n (hi - n) m bs

/-- A beat that writes bytes ready in the funnel, or the pattern. -/
def State.beatWrite (s : State) (c : Nat) (d : List Nat) (want : Nat) (bad : Bool) : State :=
  let x := s.mover c
  let fin := x.ended.getD (mvLen d)
  let bs := if mvMode d = 1 then (List.range want).map fun k => patByte d (x.wrote + k) else x.funnel.take want
  if bs.isEmpty then s.mwr c R.MV_STAT_STATE (if x.stop then mvStopping else mvWaiting)
  else match s.sideWrite (mvDst d) x.wrote bs (decide (x.wrote + bs.length = fin)) bad with
    | .inl k => (if k = 8 then s.hostFault.2 else s).mvFail c k x.wrote
    | .inr (n, s) =>
      let s := (s.setMover c { s.mover c with wrote := x.wrote + n, funnel := x.funnel.drop n, lastAt := x.wrote, lastN := n }).mwr c R.MV_REM_REM (mvLen d - x.wrote - n)
      let s := s.mwr c R.MV_STAT_STATE (if x.stop then mvStopping else if n = 0 then mvWaiting else mvBusy)
      if x.wrote + n = fin then s.mvFinish c else s

/-- A beat that compares what both sides have ready (R390). -/
def State.beatCompare (s : State) (c : Nat) (d : List Nat) : State :=
  let x := s.mover c
  let fin := x.ended.getD (mvLen d)
  let first := if mvMode d = 3 then (List.range x.second.length).map fun k => patByte d (x.wrote + k) else x.funnel
  let n := min (min first.length x.second.length) (fin - x.wrote)
  match firstDiff (first.take n) (x.second.take n) with
  | some k =>
    let s := (s.mwr c R.MV_CMP_MISMATCH 1).mwr c R.MV_CMP_OFS (x.wrote + k)
    (s.mwr c R.MV_REM_REM (mvLen d - x.wrote - k)).mvDone c
  | none =>
    let s := (s.setMover c { x with wrote := x.wrote + n, funnel := x.funnel.drop n, second := x.second.drop n }).mwr c R.MV_REM_REM (mvLen d - x.wrote - n)
    let s := s.mwr c R.MV_STAT_STATE (if x.stop then mvStopping else if n = 0 then mvWaiting else mvBusy)
    if x.wrote + n = fin then s.mvDone c else s

/-- A beat's read of its source, of `fin` bytes in all; a mode without a source reads nothing. -/
def State.sourceFill (s : State) (c : Nat) (d : List Nat) (fin want : Nat) (host : List Byte) (bad : Bool) :
    (Nat × Nat × State) ⊕ (List Byte × Nat × Bool) × List Byte × State :=
  if usesSrc (mvMode d) then s.sideFill (mvSrc d) fin want bad 8 (s.mover c).funnel (s.mover c).read host
  else .inr (((s.mover c).funnel, (s.mover c).read, false), host, s)

/-- The bytes that a beat moves at most. -/
def State.beatWant (s : State) (c : Nat) (d : List Nat) : Nat :=
  let x := s.mover c
  let fin := x.ended.getD (mvLen d)
  if (mvDst d).space = 2 then min 16 (fin - x.wrote) else (mvDst d).step x.wrote (fin - x.wrote)

/-- A comparing beat, once its second side is read. -/
def State.beatSecond (s : State) (c : Nat) (d : List Nat) : (Nat × Nat × State) ⊕ (List Byte × Nat × Bool) × List Byte × State → State
  | .inl (k, o, t) => t.mvFail c k o
  | .inr ((sec, m, ends), _, t) =>
    let x := s.mover c
    (t.setMover c { x with second := sec, read2 := m, ended := if ends then some (min m (x.ended.getD m)) else x.ended }).beatCompare c d

/-- A beat once its source is read: it compares with its second side, or writes. -/
def State.beatFirst (s : State) (c : Nat) (d : List Nat) (dstHost : List Byte) (bad : Bool) :
    (Nat × Nat × State) ⊕ (List Byte × Nat × Bool) × List Byte × State → State
  | .inl (k, o, t) => t.mvFail c k o
  | .inr ((fun_, n, ends), _, t) =>
    let x := s.mover c
    let want := s.beatWant c d
    let u := t.setMover c { x with funnel := fun_, read := n, ended := if ends then some n else x.ended }
    if compares (mvMode d) then u.beatSecond c d (u.sideFill (mvDst d) (x.ended.getD (mvLen d)) want bad 8 x.second x.read2 dstHost)
    else
      let want := min want ((u.mover c).ended.getD (mvLen d) - x.wrote)
      if mvMode d = 0 && (mvDst d).space ≠ 2 && decide (fun_.length < want) then u.mwr c R.MV_STAT_STATE (if x.stop then mvStopping else mvWaiting)
      else u.beatWrite c d want (bad && decide ((mvDst d).space = 1 ∧ (mvSrc d).space ≠ 1))

/-- One beat of a channel: its sides are read as far as the beat needs, then it writes or compares (R388). -/
def State.beat (s : State) (c : Nat) (d : List Nat) (srcHost dstHost : List Byte) (bad : Bool) : State :=
  if descends d then s.beatDown c d
  else s.beatFirst c d dstHost bad (s.sourceFill c d ((s.mover c).ended.getD (mvLen d)) (s.beatWant c d) srcHost bad)

/-- The bytes that a beat needs of each side that it reads: a comparison takes what both have, a queue destination each word, another destination the
whole beat. -/
def State.beatNeed (s : State) (c : Nat) (d : List Nat) : Nat :=
  if compares (mvMode d) then 1 else if (mvDst d).space = 2 then min 2 (s.beatWant c d) else s.beatWant c d

/-- Whether the read of a side serves a beat: it gives the bytes needed, or the side's end, or an error. -/
def fillServes (need : Nat) : (Nat × Nat × State) ⊕ (List Byte × Nat × Bool) × List Byte × State → Bool
  | .inl _ => true
  | .inr ((bs, _, ends), _, _) => ends || decide (need ≤ bs.length)

/-- Whether a channel has the bytes that its next beat needs of its source; a mode without a source needs none. -/
def State.sourceReady (s : State) (c : Nat) (d : List Nat) (srcHost : List Byte) (bad : Bool) : Bool :=
  !(s.mover c).back && (!usesSrc (mvMode d) || descends d ||
    fillServes (s.beatNeed c d) (s.sourceFill c d ((s.mover c).ended.getD (mvLen d)) (s.beatWant c d) srcHost bad))

/-- The read of a comparison's second side. -/
def State.secondFill (s : State) (c : Nat) (d : List Nat) (dstHost : List Byte) (bad : Bool) :
    (Nat × Nat × State) ⊕ (List Byte × Nat × Bool) × List Byte × State :=
  s.sideFill (mvDst d) ((s.mover c).ended.getD (mvLen d)) (s.beatWant c d) bad 8 (s.mover c).second (s.mover c).read2 dstHost

/-- Whether a comparing channel has the bytes that its next beat needs of its second side. -/
def State.secondReady (s : State) (c : Nat) (d : List Nat) (dstHost : List Byte) (bad : Bool) : Bool := fillServes 1 (s.secondFill c d dstHost bad)

/-- Whether the next word that a channel pushes into its queue destination waits (R219): EOP marks the last word of a descriptor. -/
def State.pushBlocked (s : State) (c : Nat) (d : List Nat) : Bool :=
  let x := s.mover c
  !compares (mvMode d) && decide ((mvDst d).space = 2) &&
    (!s.qOn (mvDst d).addr || s.qBlocked (mvDst d).addr (decide (x.ended.getD (mvLen d) ≤ x.wrote + 2)))

/-- Whether a channel can move (R392): its descriptor is under way, the sides that it reads have bytes, and its push need not wait. -/
def State.canMove (s : State) (c : Nat) (srcHost dstHost : List Byte) (bad : Bool) : Bool :=
  match (s.mover c).desc with
  | none => false
  | some d =>
    s.sourceReady c d srcHost bad && !s.pushBlocked c d && (!compares (mvMode d) || s.secondReady c d dstHost bad)

/-- Whether a mover's closing push waits at a queue (R229). -/
def State.moverWaits (s : State) (q : Nat) : Bool :=
  s.qOn q && s.movers.any fun (c, x) => match x.desc with
    | some d => s.pushBlocked c d && decide ((mvDst d).addr = q) && s.sourceReady c d [] false
    | none => false

/-- STATE as it reads (R401): a channel with a descriptor under way waits on a queue while a queue that it reads has nothing for it, or its push
waits. -/
def State.mvShown (s : State) (c : Nat) : Nat :=
  let st := s.mrd c R.MV_STAT_STATE
  match (s.mover c).desc with
  | none => st
  | some d =>
    let waits := (usesSrc (mvMode d) && decide ((mvSrc d).space = 2) && !s.sourceReady c d [] false) ||
      (compares (mvMode d) && decide ((mvDst d).space = 2) && !s.secondReady c d [] false) || (s.pushBlocked c d && s.sourceReady c d [] false)
    if st ≠ mvBusy ∧ st ≠ mvWaiting then st else if waits && !(s.mover c).back then mvWaiting else mvBusy

/-- The turn among an engine's channels of a priority: the one served last, with its beats in a row. -/
def State.mvTurn (s : State) (e prio : Nat) : Nat × Nat := lookD s.movTurn (4 * e + prio) (16 * e + 15, 16)

/-- The channel that an engine serves next (R392): of the highest priority that can move; the one of that priority served last for up to 16 beats, then
the next in turn. -/
def State.mvChoose (s : State) (e : Nat) (can : Nat → Bool) : Option Nat :=
  let cs := ((List.range 16).map (16 * e + ·)).filter can
  let top := cs.foldl (fun (m : Nat) c => max m (s.mrd c R.MV_CFG_PRIO)) 0
  let cs := cs.filter fun c => decide (s.mrd c R.MV_CFG_PRIO = top)
  let turn := s.mvTurn e top
  let last := turn.1
  let n := turn.2
  if decide (last ∈ cs) && decide (n < 16) then some last
  else match cs.find? fun c => decide (last < c) with
    | some c => some c
    | none => cs.head?

/-- A host read that got no completion in time has ended a channel's descriptor: AER reports it in bit 14 (R363; PRESUMED, log entry 101). -/
def State.noteTimeout (s : State) (c : Nat) (timeout : Bool) : State :=
  if timeout ∧ s.mrd c R.MV_STAT_STATE = mvError ∧ s.mrd c R.MV_STAT_CAUSE = 8 then { s with aer := s.aer ||| 0x4000 } else s

/-- Whether a descriptor reads host memory. -/
def readsHost (d : List Nat) : Bool := (usesSrc (mvMode d) && decide ((mvSrc d).space = 1)) || (compares (mvMode d) && decide ((mvDst d).space = 1))

/-- MOVER_BEAT: an engine whose page is not frozen (R495) moves one beat. -/
def State.moverBeat (s : State) (e : Nat) (srcHost dstHost : List Byte) (bad timeout : Bool) : State :=
  let fails := fun (c : Nat) => bad || (timeout && readsHost ((s.mover c).desc.getD []))
  if !s.blockOn (0x051 + e) || s.frozen (0x051 + e) then s
  else match s.mvChoose e fun c => s.canMove c srcHost dstHost (fails c) with
    | none => s
    | some c =>
      let prio := s.mrd c R.MV_CFG_PRIO
      let turn := s.mvTurn e prio
      let last := turn.1
      let n := turn.2
      let t := s.beat c ((s.mover c).desc.getD []) srcHost dstHost (fails c)
      let t := { t with movTurn := put t.movTurn (4 * e + prio) (c, if (t.mover c).desc.isNone then 16 else if c = last then n % 16 + 1 else 1) }
      t.noteTimeout c timeout

/-- READ_BACK (R394): the read-back returns; one that fails is an error like any other read. -/
def State.readBack (s : State) (c : Nat) (bad : Bool) : State :=
  let x := s.mover c
  if !x.back || !s.domOn 3 then s
  else
    let d := x.desc.getD []
    let b := mvDst d
    let o := x.lastAt
    if b.space = 1 then
      let r8 := s.hostFault
      let inj := r8.1
      let s := r8.2
      if inj || bad then s.mvFail c 8 o else s.mvDone c
    else if !s.allLive (b.at o) x.lastN then s.mvFail c 7 o
    else
      let r9 := s.bar2Get (b.at o) x.lastN
      let ue := r9.2.1
      let s := r9.2.2
      if ue then s.mvFail c 6 o else s.mvDone c

/-! ### Commands -/

def execMvGo (c : Fin 64) (s : State) : Result := .next (s.hostAt (movPage c) fun s => s.writeMvCtrl c 1)
def execMvStop (c : Fin 64) (s : State) : Result := .next (s.hostAt (movPage c) fun s => s.writeMvCtrl c 2)
def execMvClr (c : Fin 64) (s : State) : Result := .next (s.hostAt (movPage c) fun s => s.writeMvCtrl c 4)
def execMvEnable (c : Fin 64) (data : Reg) (s : State) : Result := .next (s.hostAt (movPage c) fun s => s.writeMvCfg c data.toNat)
def execMoverBeat (engine : Fin 4) (srcHost dstHost : List Byte) (hostErr : Bool) (s : State) (timeout : Bool := false) : Result :=
  .next (s.moverBeat engine srcHost dstHost hostErr timeout)
def execReadBack (c : Fin 64) (hostErr : Bool) (s : State) (timeout : Bool := false) : Result :=
  .next ((s.readBack c (hostErr || timeout)).noteTimeout c (timeout && (s.mover c).back))

end Sys2Proof.Machine
end

