-- ==== Sys2Proof/Machine/Journal.lean ====
section
/-! DEFINITION. The journal and replay (chapter 15): rings, markers, digests, snapshots, and the replay of an epoch. -/

namespace Sys2Proof.Machine

/-! ### Records and rings (R415, R417, R421) -/

/-- The 16 bytes of a record (R415, R195). -/
def JRec.bytes (k : JRec) : List Byte :=
  leBytes 8 (k.chan % 2 ^ 12 + k.stamp % 2 ^ 42 * 2 ^ 12 + k.sender % 2 ^ 10 * 2 ^ 54) ++ leBytes 8 k.payload

/-- The record that 16 bytes hold, given as two 64-bit values. -/
def JRec.ofFlits (h p : Nat) : JRec := ⟨h % 2 ^ 12, h / 2 ^ 54 % 2 ^ 10, h / 2 ^ 12 % 2 ^ 42, p⟩

/-- The records that the ring holds at most. -/
def State.ringSize (s : State) : Nat := 2 ^ (if s.on 0x060 R.JRN_CTRL_DEST then s.rd 0x060 R.JRN_SIZE_K else s.rd 0x060 R.JRN_SIZE_K - 4)

/-- The ring base in host memory. -/
def State.ringBase (s : State) : Nat := s.rd 0x060 R.JRN_DST_HI_BASE * 2 ^ 32 + s.rd 0x060 R.JRN_DST_LO_BASE * 2 ^ 16

/-- Whether a record waits in the FIFO because the ring is full (R421). -/
def State.ringFull (s : State) : Bool :=
  !s.on 0x060 R.JRN_CTRL_WRAP && decide (s.ringSize ≤ wrap ((s.rd 0x060 R.JRN_WP_WP : Int) - s.rd 0x060 R.JRN_RP_RP) 32)

/-- A record in a shared ring: ten words of 14 bits (R421). -/
def State.putShared (s : State) (c w v : Nat) : State :=
  upTo 10 (fun (t : State) i =>
    ((t.setWord (sharedBase c + 2 * (w + i)) (BitVec.ofNat 14 (v / 2 ^ (14 * i)))).eccFix (sharedBase c + 2 * (w + i))).dropReservations c
      (0x100000 + w + i) 1 none) s

/-- JOURNAL_RECORD_WRITE: the oldest record leaves the FIFO for the ring. A posted write to host memory fails during a PCI Express reset (R504): DESIGN
CHOICE (log entry 103), the record has left the journal and is lost. -/
def State.recordWrite (s : State) : State :=
  match s.jrn.fifo with
  | [] => s
  | k :: ks =>
    if !s.blockOn 0x060 || s.ringFull then s
    else
      let wp := s.rd 0x060 R.JRN_WP_WP
      let i := wp % s.ringSize
      let s := if s.on 0x060 R.JRN_CTRL_DEST then
          s.putShared (s.rd 0x060 R.JRN_CTRL_CAS) (s.rd 0x060 R.JRN_SIZE_SBASE + 10 * i) (leNat k.bytes)
        else if s.perst then s
        else { s with out := .hostWrite (s.ringBase + 16 * i) k.bytes :: s.out }
      let s := ({ s with jrn := { s.jrn with fifo := ks } } : State).wr 0x060 R.JRN_WP_WP (wp + 1)
      if s.recording then s.jrnGap else s

/-! ### Control and markers (R422, R424) -/

/-- Why an enable is refused (R422). -/
def State.jrnRefuses (s : State) : Bool :=
  let k := s.rd 0x060 R.JRN_SIZE_K
  if s.on 0x060 R.JRN_CTRL_DEST then
    decide (k < 4 ∨ 14 < k ∨ 262144 < s.rd 0x060 R.JRN_SIZE_SBASE + 10 * 2 ^ k) || !s.domOn (8 + s.rd 0x060 R.JRN_CTRL_CAS)
  else decide (k < 16 ∨ 31 < k)

/-- Writes a MARK record (R424); the kind is 1 for JRN_TRIG and 2 for the host. -/
def State.jrnMark (s : State) (kind at_ : Nat) : State :=
  if s.recording then
    let s := { s with jrn := { s.jrn with marks := s.jrn.marks + 1 } }
    s.jrnPut ⟨kind, 0x1F7, at_ % 2 ^ 42, s.jrn.marks % 2 ^ 32⟩
  else s

/-- The start of the first digest interval at or after a time (R419). -/
def State.digStart (s : State) (t : Nat) : Nat := (s.startFrom (s.rd 0x060 R.JRN_DIG_PORT) t).toNat

/-- A write of JRN_CTRL. -/
def State.writeJrnCtrl (s : State) (data : Nat) : State :=
  let a := R.JRN_CTRL_EN.addr 0x060 0
  let was := s.on 0x060 R.JRN_CTRL_EN
  let s := if !was && bit data 0 then
      let s := s.applyWrite a (setBits data 0 1 0)
      if s.jrnRefuses then s.wr 0x060 R.JRN_STAT_REFUSE 1
      else
        let s := (s.wr 0x060 R.JRN_CTRL_EN 1).wr 0x060 R.JRN_STAT_FROZEN 0
        let from_ := s.digStart s.tb
        let items := if s.rpl.going then s.jrn.items else []
        let s := { s with jrn := { s.jrn with since := 0, post := none, digFrom := some (s.jrn.digFrom.getD from_), recFrom := from_, items := items } }
        s.jrnGap
    else if was && !bit data 0 then
      let s := (s.jrnPut ⟨0, 0x1F9, s.now, s.jrn.since⟩).wr 0x061 R.JRN_EPOCH_SNAP_BUSY 0
      let s := { s with jrn := { s.jrn with snapDue := [], digFrom := if s.rpl.going then s.jrn.digFrom else none } }
      s.applyWrite a data
    else if was then
      s.applyWrite a (setBits (setBits data 2 1 (s.rd 0x060 R.JRN_CTRL_DEST)) 8 4 (s.rd 0x060 R.JRN_CTRL_CAS))
    else s.applyWrite a data
  if bit data 1 then s.jrnMark 2 s.tb else s

/-- An edge of JRN_TRIG at a time, filtered: one of the selected polarity writes a marker; while TRIG_EN is 1 it freezes the journal after POST further records. -/
def State.jrnTrigger (s : State) (rise : Bool) (at_ : Nat) : State :=
  if !s.recording || decide (s.on 0x063 R.JRN_TRIG_CFG_EDGE = rise) then s
  else
    let s := s.jrnMark 1 at_
    if !s.on 0x060 R.JRN_CTRL_TRIG_EN || s.jrn.post.isSome then s
    else
      let n := s.rd 0x060 R.JRN_CTRL_POST
      let s := { s with jrn := { s.jrn with post := some n } }
      if n = 0 ∧ ¬ s.on 0x061 R.JRN_EPOCH_SNAP_BUSY then (s.wr 0x060 R.JRN_STAT_FROZEN 1).pgEvt 0x020 14 else s

/-! ### Digests (R418 to R420) -/

/-- CRC-64 of bytes (R420): polynomial 0x42F0E1EBA9EA3693, not reflected, initial value and final XOR 0. -/
def crc64 (bs : List Byte) : Nat :=
  let step := fun (c : BitVec 64) (b : Byte) =>
    (List.range 8).foldl (fun (x : BitVec 64) _ => if x.msb then (x <<< 1) ^^^ 0x42F0E1EBA9EA3693 else x <<< 1) (c ^^^ (b.zeroExtend 64 <<< 56))
  (bs.foldl step 0).toNat

/-- The order of the items of an interval (R419). -/
def DigItem.le (a b : DigItem) : Bool :=
  decide (a.tick < b.tick) || (decide (a.tick = b.tick) && (decide (a.cas < b.cas) || (decide (a.cas = b.cas) &&
    (decide (a.entry < b.entry) || (decide (a.entry = b.entry) && decide (a.part ≤ b.part))))))

/-- The frontier F of a FRONT record (R418). DESIGN CHOICE (log entry 31): a horizon that is not known yet counts as the least stamp that
compares below the present. -/
def State.frontier (s : State) : Nat :=
  let hs := (s.knownChans.filter fun ch => s.chEn ch && s.chOrd ch).flatMap fun ch =>
    ((s.setSenders (s.rd (chanPage ch) R.FAB_CH_LO_SET)).filter fun x => decide ((0x100 ≤ x ∧ x ≤ 0x11A) ∨ 0x200 ≤ x)).map fun x =>
      ((s.member ch x).lastSent).getD ((s.now + 2 ^ 41) % 2 ^ 42)
  hs.foldl (fun (m : Nat) h => if stampLt m h then m else h) (hs.headD s.now)

/-- Whether a commit released before a time still waits for its frame. -/
def State.commitWaits (s : State) (t : Nat) : Bool := s.ports.any fun (_, x) => x.latches.any fun l => decide (l.tick < t)

/-- DIGEST_INTERVAL_END (R418 to R420): the oldest open interval has ended, and every commit released in it has met its frame. Recording
writes FRONT and DIGEST; a replay keeps the bench's own digest. -/
def State.digestEnd (s : State) : State :=
  match s.jrn.digFrom with
  | none => s
  | some c =>
    let e := s.digStart (c + 1)
    if !s.blockOn 0x060 || decide (s.tb < e) || s.commitWaits e then s
    else
      let mine := sortBy DigItem.le (s.jrn.items.filter fun x => decide (c ≤ x.tick ∧ x.tick < e))
      let hash := crc64 (mine.flatMap (·.bytes))
      let late := min 63 (mine.filter (·.late)).length
      let timing := min 63 (mine.filter (·.timing)).length
      let k : JRec := ⟨late + 64 * timing, 0x1F2, c % 2 ^ 42, hash⟩
      let s := { s with jrn := { s.jrn with items := s.jrn.items.filter fun x => decide (e ≤ x.tick), digFrom := some e } }
      let s := if s.recording && decide (s.jrn.recFrom ≤ c) then (s.jrnPut ⟨0, 0x1F3, s.frontier, 0⟩).jrnPut k else s
      if s.rpl.going then { s with rpl := { s.rpl with ownDig := s.rpl.ownDig ++ [k] } } else s

/-! ### Snapshots (R426) -/

/-- Writes a SNAP record, counted in JRN_SNAPCNT. -/
def State.snapPut (s : State) (r : SnapRec) : State :=
  (s.bump 0x061 R.JRN_SNAPCNT_CNT).jrnPut ⟨r.type + 16 * r.part, 0x1F1, r.object, wrap r.value 64⟩

/-- The cadence as boundaries and evaluations up to a stamp will leave it: those that have still to be made (R426). -/
def State.foreseen (s : State) (n e : Nat) : State :=
  let s := (s.comingTo n e).foldl (fun (t : State) b => t.passBoundary n b.1 b.2) s
  upTo 8 (fun (t : State) p =>
    match t.servoStamp p e with
    | some c => if lookD t.evals p (-1) < c then
        ((t.cadAxes n).filter fun a => t.ard a R.AX_BIND_PORT = p).foldl (fun (u : State) a => u.evalAxis a c.toNat) t else t
    | none => t) s

/-- The snapshot of a cadence at stamp E, in the order of R426: its course, then what stood at E of its axes, tables, shadow entries and pointers. What has taken effect since
is undone, and what will by E is done. -/
def State.snapAt (s : State) (n e : Nat) : List SnapRec :=
  let g := ((s.cad n).segAt e).getD ⟨e, 0, 0, 0, 0, 0, 1, none⟩
  let rs := undoAfter e (s.cad n).past ((s.foreseen n e).snapNow n)
  let one := fun (k : Nat) => rs.filter fun (r : SnapRec) => decide (r.type = k)
  snapParts 1 n 0 [wrap (g.accAt e) 62, g.rate, g.rampT, (g.rampS % 2 ^ 42 : Nat), g.rampLen, g.kDone] ++ one 1 ++
    snapParts 1 n 8 [wrap (g.pos e) 42] ++ one 2 ++ one 3 ++ one 4 ++ one 5

/-- SNAPSHOT: a cadence whose snapshot is due is written once its CMT has reached E, or at E + 1 ms with a break of cause 7; after the
last one the snapshot ends. -/
def State.snapshot (s : State) (n : Nat) : State :=
  let e := s.jrn.snapE
  if n ∉ s.jrn.snapDue ∨ ¬ s.recording then s
  else
    let reached := decide (e ≤ s.cmt n)
    if !reached && decide (s.tb < e + 1000000) then s
    else
      let s := (s.snapAt n e).foldl (fun (t : State) r => t.snapPut r) s
      let s := if reached then s else s.jrnBreak 7 e n
      ({ s with jrn := { s.jrn with snapDue := s.jrn.snapDue.erase n } } : State).snapEnd

/-! ### Replay (R429 to R432) -/

/-- The replay's offset, and a recorded stamp in local terms (R430). -/
def State.rplOfs (s : State) : Nat := s.rd42 0x062 R.JRN_RPL_OFS_LO_OFS R.JRN_RPL_OFS_HI_OFS
def State.rplLocal (s : State) (st : Nat) : Nat := wrap ((st : Int) - s.rplOfs) 42

/-- Starts a replay (R430 step 1). -/
def State.rplGo (s : State) : State :=
  if !s.on 0x062 R.JRN_RPL_EN || s.rpl.going then s
  else
    let s := { s with rpl := { going := true }, jrn := { s.jrn with digFrom := some (s.jrn.digFrom.getD (s.digStart s.tb)) } }
    s.wr 0x062 R.JRN_RPL_STAT_STATE 1

/-- A write of JRN_RPL (R422, R429, R435). -/
def State.writeJrnRpl (s : State) (data : Nat) : State :=
  let was := s.on 0x062 R.JRN_RPL_EN
  let k := s.rd 0x060 R.JRN_SIZE_K
  let s := s.wr 0x062 R.JRN_RPL_STOP_ON_DIV (data / 4)
  let s := if !was && bit data 0 then
      if k < 16 ∨ 31 < k ∨ (List.range 8).any (fun p => decide (chSilent < s.chnState p)) then s
      else (s.wr 0x062 R.JRN_RPL_EN 1).wr 0x062 R.JRN_RPL_RD_RD 0
    else if was && !bit data 0 then
      let s := { s with rpl := {}, jrn := { s.jrn with digFrom := if s.on 0x060 R.JRN_CTRL_EN then s.jrn.digFrom else none } }
      (s.wr 0x062 R.JRN_RPL_EN 0).wr 0x062 R.JRN_RPL_STAT_STATE 0
    else s
  if bit data 1 then s.rplGo else s

/-- The parts of an object among the snapshot's records. -/
def snapPart (rs : List JRec) (type object part : Nat) : Nat :=
  ((rs.find? fun k => decide (k.chan % 16 = type ∧ k.stamp % 2 ^ 14 = object ∧ k.chan / 16 = part)).map (·.payload)).getD 0

/-- The objects of a type. -/
def snapObjects (rs : List JRec) (type : Nat) : List Nat :=
  ((rs.filter fun k => decide (k.chan % 16 = type)).map fun k => k.stamp % 2 ^ 14).dedup

/-- The position of a stretch at a time before its start, by its own rate and ramp. -/
def Seg.back (g : Seg) (t : Int) : Int := g.accAt t / 2 ^ 20 + g.kDone + (if t < g.rampS then 0 else g.applied t.toNat)

/-- Installs the snapshot (R430 step 3): each cadence runs from its state, and is enabled, at local E. -/
def State.install (s : State) (e : Nat) : State :=
  let rs := s.rpl.snaps
  let at_ := fun (st : Nat) => s.absStamp (s.rplLocal st)
  let segOf := fun (n : Nat) =>
    let v := snapPart rs 1 n
    let g : Seg := ⟨e, (v 0 : Nat), signed (v 1) 64, signed (v 5) 64, signed (v 2) 64, at_ (v 3 % 2 ^ 42), v 4, none⟩
    let raw := g.raw e
    { g with ext := some (raw + signed (wrap ((v 8 : Int) - raw) 42) 42) }
  let s := (snapObjects rs 1).foldl (fun (t : State) n =>
    let g := segOf n
    let k := g.pos e / 2 ^ 28
    let c : Cadence := { t.cad n with segs := [g], used := snapPart rs 1 n 6, usedCyc := snapPart rs 1 n 7, cyc := k, bnds := [], enabledAt := e, noted := k, ptrs := [],
                                           startAt := some e }
    t.setCad n c) s
  let s := (snapObjects rs 2).foldl (fun (t : State) a =>
    let v := snapPart rs 2 a
    let g := segOf (t.ard a R.AX_BIND_CAD)
    let b := at_ (v 7 % 2 ^ 42)
    let servo := (t.servoStamp (t.ard a R.AX_BIND_PORT) e).getD e
    let sh := if v 8 = 0 then none else some (signed (v 5) 64, signed (v 6) 64, v 8, g.back b)
    let t := t.setAxis a { frac := v 2, posC := g.back servo, shift := sh, shiftB := b }
    let t := ((t.setMaster a (v 1)).awr a R.AX_STATE_STATE (v 0)).awr a R.AX_BASEY_BASEY (v 3)
    (t.awr a R.AX_GCUR_G (v 4)).awr a R.AX_POS_POS (v 9)) s
  let s := (snapObjects rs 3).foldl (fun (t : State) k =>
    let v := snapPart rs 3 k
    let armed := bit (v 2) 16
    let t := t.setTable k { flip := if armed then some (v 2 % 2 ^ 14, e) else none, pass := if armed then .running else .none }
    ((t.wr (tablePage k) R.CAM_TBL_STAT_LIVE (v 0)).wr (tablePage k) R.CAM_TBL_STAT_ARMED (b2n armed)).wr (tablePage k) R.CAM_TBL_STAT_ARM_CYCLE (v 2)) s
  let sh := (snapObjects rs 4).map fun i =>
    let v := snapPart rs 4 i
    let bytes := leBytes 8 (v 1) ++ leBytes 4 (v 2)
    let f := fun (k : Nat) => leNat ((bytes.drop (4 * k)).take 4) % 2 ^ 28
    (⟨v 0 % 2 ^ 10, v 0 / 2 ^ 10 % 2 ^ 14, bit (v 0) 24, f 0, f 1, f 2⟩ : Shadow)
  let s := { s with shadow := s.shadow ++ sh }
  (snapObjects rs 5).foldl (fun (t : State) o =>
    let v := snapPart rs 5 o 0
    let n := o / 2 ^ 10
    t.setCad n { t.cad n with ptrs := put (t.cad n).ptrs (o % 2 ^ 10) (v % 2 ^ 10, v / 2 ^ 10 % 2 ^ 14) }) s

/-- The record has been read. -/
def State.rplNext (s : State) : State := s.wr 0x062 R.JRN_RPL_RD_RD (s.rd 0x062 R.JRN_RPL_RD_RD + 1)

/-- The tokens of a FRONT record (R430 step 5). -/
def State.rplTokens (s : State) (f : Nat) : State :=
  (s.knownChans.filter fun ch => s.chEn ch && s.chOrd ch).foldl (fun (t : State) ch =>
    ((t.setSenders (t.rd (chanPage ch) R.FAB_CH_LO_SET)).filter fun x => decide ((0x100 ≤ x ∧ x ≤ 0x119) ∨ 0x200 ≤ x)).foldl
      (fun (u : State) x => u.sendToken ch x f false) t) s

/-- Whether a replay reads and compares. -/
def State.rplRuns (s : State) : Bool :=
  s.rpl.going && s.blockOn 0x060 && s.domOn 3 && decide (s.rd 0x062 R.JRN_RPL_STAT_STATE = 1 ∨ s.rd 0x062 R.JRN_RPL_STAT_STATE = 2)

/-- REPLAY_RECORD (R430): the record at JRN_RPL_RD, as host memory gives it (log entry 3); a PCI Express reset gives none (R504). An input record waits for its credit. -/
def State.replayRecord (s : State) (h p : Nat) : State :=
  if !s.rplRuns || s.perst then s
  else if s.rd 0x062 R.JRN_RPL_RD_RD = s.rd 0x062 R.JRN_RPL_END_END then
    let s := s.wr 0x062 R.JRN_RPL_STAT_STATE 4
    if s.on 0x062 R.JRN_DIV_VALID then s else s.wr 0x062 R.JRN_DIV_CAUSE 3
  else
    let s := { s with out := .hostRead (s.ringBase + 16 * (s.rd 0x062 R.JRN_RPL_RD_RD % 2 ^ (s.rd 0x060 R.JRN_SIZE_K - 4))) 16 :: s.out }
    let k := JRec.ofFlits h p
    let lt := s.rplLocal k.stamp
    if k.sender = 0x1F0 then { s with rpl := { s.rpl with e := some lt } }.rplNext
    else if k.sender = 0x1F1 then
      if k.chan % 16 = 6 then
        let e := s.absStamp (s.rpl.e.getD s.now)
        if e ≤ s.tb then (s.diverge 5 k.stamp 0 0 0 0).rplNext
        else ((s.install e).wr 0x062 R.JRN_RPL_STAT_STATE 2).rplNext
      else { s with rpl := { s.rpl with snaps := s.rpl.snaps ++ [k] } }.rplNext
    else if k.sender = 0x1F2 then
      match s.rpl.e with
      | some e => if stampLt lt e then s.rplNext else { s with rpl := { s.rpl with recDig := s.rpl.recDig ++ [{ k with stamp := lt }] } }.rplNext
      | none => s.rplNext
    else if k.sender = 0x1F3 then (s.rplTokens lt).rplNext
    else if k.sender = 0x1F5 then (s.spanApply (k.chan % 16) (s.absStamp lt) (bit k.chan 4) (signed k.payload 64)).rplNext
    else if k.sender = 0x1F6 then
      let s := s.wr 0x062 R.JRN_RPL_STAT_BREAK_SEEN 1
      (if s.on 0x062 R.JRN_DIV_VALID || s.rpl.broke then s
       else { s with rpl := { s.rpl with broke := true } }.wr42 0x062 R.JRN_DIV_C_LO_C R.JRN_DIV_C_HI_C k.stamp).rplNext
    else if k.sender = 0x1F8 then (s.diverge 4 k.stamp 0 0 0 0).rplNext
    else if k.sender = 0x11A then
      let r := { k with stamp := lt }
      match s.rpl.ownNote.find? fun o => decide (o.cadence = r.cadence) with
      | some o => (({ s with rpl := { s.rpl with ownNote := s.rpl.ownNote.erase o } } : State).noteCompare r o).rplNext
      | none => { s with rpl := { s.rpl with recNote := s.rpl.recNote ++ [r] } }.rplNext
    else if (0x100 ≤ k.sender ∧ k.sender ≤ 0x119) ∨ 0x200 ≤ k.sender then
      let n := p / 2 ^ 56 % 8
      match s.trySend k.chan k.sender lt (p / 2 ^ 59 % 32) ((List.range n).map fun i => p / 2 ^ (14 * i) % 2 ^ 14) false with
      | some t => t.rplNext
      | none => s
    else s.rplNext

/-- REPLAY_DIGEST_COMPARE (R431): the oldest recorded digest against the bench's own of the same interval. -/
def State.digestCompare (s : State) : State :=
  if !s.rpl.going || s.rd 0x062 R.JRN_RPL_STAT_STATE = 3 then s
  else match s.rpl.recDig with
    | [] => s
    | r :: rs => match s.rpl.ownDig.find? fun o => decide (o.stamp = r.stamp) with
      | none => s
      | some o =>
        let s := { s with rpl := { s.rpl with recDig := rs, ownDig := s.rpl.ownDig.filter fun x => stampLt r.stamp x.stamp } }
        let inj := s.injArmed 0x062 0
        let s := if inj then s.injTake 0x062 0 else s
        if inj ∨ r.payload ≠ o.payload then
          s.diverge 1 (wrap ((r.stamp : Int) + s.rplOfs) 42) r.payload o.payload r.chan o.chan
        else s

/-! ### Commands -/

def execJournalRecordWrite (s : State) : Result := .next s.recordWrite
def execDigestIntervalEnd (s : State) : Result := .next s.digestEnd
/-- JOURNAL_ENABLE (R422): JRN_CTRL written with EN = 1 and these other bits. -/
def execJournalEnable (data : Reg) (s : State) : Result := .next (s.hostAt 0x060 fun s => s.writeJrnCtrl (setBits data.toNat 0 1 1))
/-- JOURNAL_DISABLE (R416): JRN_CTRL written with EN = 0. -/
def execJournalDisable (data : Reg) (s : State) : Result := .next (s.hostAt 0x060 fun s => s.writeJrnCtrl (setBits data.toNat 0 1 0))
/-- JOURNAL_MARK (R424): JRN_CTRL written with MARK = 1. -/
def execJournalMark (data : Reg) (s : State) : Result := .next (s.hostAt 0x060 fun s => s.writeJrnCtrl (setBits data.toNat 1 1 1))
def execSnapshot (n : Fin 16) (s : State) : Result := .next (s.snapshot n)
/-- REPLAY_ENABLE (R429): JRN_RPL written with EN = 1. -/
def execReplayEnable (data : Reg) (s : State) : Result := .next (s.hostAt 0x062 fun s => s.writeJrnRpl (setBits data.toNat 0 1 1))
/-- REPLAY_GO (R430): JRN_RPL written with GO = 1. -/
def execReplayGo (data : Reg) (s : State) : Result := .next (s.hostAt 0x062 fun s => s.writeJrnRpl (setBits data.toNat 1 1 1))
def execReplayRecord (header payload : BitVec 64) (s : State) : Result := .next (s.replayRecord header.toNat payload.toNat)
def execReplayDigestCompare (s : State) : Result := .next s.digestCompare

end Sys2Proof.Machine
end

