-- ==== Sys2Proof/Machine/CogClocked.lean ====
section
/-! DEFINITION. The cogs' pw and dbg ports and their WAIT (R116, R162 to R166), enabling and disabling pages (R441, R529, R530, R532), the
repair of a cog by its spare (R29 to R33), and automatic horizon tokens (R207). -/

namespace Sys2Proof.Machine

/-! ### Enabling and disabling (R441, R442, R530, R532) -/

/-- A cog that starts has sent nothing on any channel since it was enabled (R207). -/
def State.unspoken (s : State) (x : Nat) : State :=
  { s with chans := s.chans.map fun (ch, c) => (ch, { c with members := c.members.map fun (y, m) => (y, if y = x then { m with spoke := false } else m) }) }

/-- A cog starts at vector 0 (R31, R163, R532): its page is not STALE any more, and a watchdog that has expired restarts (R478). -/
def State.cogStart (s : State) (i : Nat) : State :=
  let s := if (s.cog i).expired then s.wdtRestart i else s
  let s := s.setCog i { s.cog i with run := .issuing, disabling := false, parked := false }
  let s := match s.cogSender i with | some x => s.unspoken x | none => s
  (s.transfer i (s.vectorAddr i 0)).breakIdle (casOf i)

/-- An enable takes effect: EN is 1 and STALE is 0; a cog that is held starts. -/
def State.enableNow (s : State) (p : Nat) : State :=
  let s := ((s.wr p R.PG_CTRL_EN 1).wr p R.PG_STAT_STALE 0).wr p R.PG_STAT_EN_PENDING 0
  if pageKind p = .cog && decide ((s.cog (p - 0x300)).run = .held) then s.cogStart (p - 0x300) else s

/-- Whether a page is that of a spare during a repair (R33, R440). -/
def State.repairHolds (s : State) (p : Nat) : Bool :=
  pageKind p = .cog && decide ((p - 0x300) % 17 = 16) && s.on (casPage ((p - 0x300) / 17)) R.CAS_MAP_BUSY

/-- Whether a page drains or is being reset, or a repair holds its enable (R441, R530, R33). -/
def State.enableHeld (s : State) (p : Nat) : Bool := s.on p R.PG_STAT_BUSY || s.on p R.PG_CTRL_SRST || s.repairHolds p

/-- A write of PG_CTRL.EN = 1: applied, or held pending; ignored while the domain is not on, except on a spare's page during a repair
(R440). -/
def State.pageEnable (s : State) (p : Nat) : State :=
  if s.enableHeld p then (if s.pageOn p ∨ s.repairHolds p then s.wr p R.PG_STAT_EN_PENDING 1 else s)
  else if !s.pageOn p then s
  else s.enableNow p

/-- A disabled cog in WAIT goes on with no cause bit in pw.r, to its next boundary that no deferral holds (R532). -/
def State.disableWait (s : State) (i : Nat) : State :=
  let c := s.cog i
  if c.wait.isNone then s
  else
    let s := s.setCog i { c.set .pwr 0 with wait := none }
    if (s.dom (64 + i)).emu.isSome then s.startWake (64 + i) else s

/-- A write of PG_CTRL.EN = 0: the block drains, with BUSY set; a pending enable is cancelled. A cog stops at its next bundle boundary, or at
once where it is halted, unless it is locked up (R148, R532). -/
def State.pageDisable (s : State) (p : Nat) : State :=
  if !s.pageOn p then s
  else
    let was := s.on p R.PG_CTRL_EN
    let s := (s.wr p R.PG_CTRL_EN 0).wr p R.PG_STAT_EN_PENDING 0
    if !was then s
    else
      let s := s.wr p R.PG_STAT_BUSY 1
      if pageKind p = .cog then
        let i := p - 0x300
        let c := s.cog i
        let s := (s.setCog i { c with disabling := true }).disableWait i
        let s := if c.run = .halted ∧ ¬ c.lockup then s.takeDisable i else s
        s.settle
      else s

/-- An enable that was held takes effect once a cog's gate is on and no repair holds it. -/
def State.pendingStart (s : State) (i : Nat) : State :=
  let p := cogPage i
  if s.on p R.PG_STAT_EN_PENDING && s.domOn (64 + i) && !s.enableHeld p then s.enableNow p else s

/-- The drain or the soft reset of a page is complete: BUSY and SRST clear and a pending enable is applied (R441, R530). A cog must have stopped and
drained (R84). DESIGN CHOICE (log entry 105): a vector 4 or 5 trap of a long-latency result that is written in the drain of a disabled cog is dropped. -/
def State.drainDone (s : State) (p : Nat) : State :=
  if !s.on p R.PG_STAT_BUSY || !s.pageOn p then s
  else if s.on p R.PG_CTRL_SRST then
    let s := (s.wr p R.PG_STAT_BUSY 0).wr p R.PG_CTRL_SRST 0
    if pageKind p = .cog then s.pendingStart (p - 0x300) else if s.on p R.PG_STAT_EN_PENDING then s.enableNow p else s
  else if pageKind p = .cog then
    let i := p - 0x300
    let c := s.cog i
    if c.disabling then
      if c.run = .held ∧ c.long.isEmpty ∧ c.sbuf.isEmpty ∧ c.loads.all (fun l => l.answer.isSome) then
        let s := (s.setCog i { c.takeLoads with disabling := false, trap := none, trap4 := false, trap5 := false }).wr p R.PG_STAT_BUSY 0
        s.pendingStart i
      else s
    else (s.wr p R.PG_STAT_BUSY 0).pendingStart i
  else
    let s := s.wr p R.PG_STAT_BUSY 0
    if s.on p R.PG_STAT_EN_PENDING then s.enableNow p else s

/-! ### WAIT (R162 to R166) -/

/-- pw.t.wait as it is triggered: the WAIT with the wake conditions that hold already (R165). One that names a channel which the cog does not receive
sets BADRX, and goes without WCH (R111). -/
def State.newWait (s : State) (i v : Nat) : Waiting × State :=
  let c := s.cog i
  let o := c.get .pwo
  let ch := v % 4096
  let bad := bit o 3 && !s.canReceive i ch
  let w : Waiting := { mode := o % 4, wev := bit o 2, wch := bit o 3 && !bad, wtm := bit o 4, chan := ch, stamp := c.get .tms }
  let w := { w with cause := s.waitCauses i w }
  let s := if bad then s.wr (cogPage i) R.COG_STORE_BADRX 1 else s
  (w, s.setCog i { s.cog i with cur := (s.cog i).cur.map fun k => { k with wait := some w } })

/-- The cause for which an unfinished drain holds a WAIT (R84): loads, long-latency results, the store buffer. -/
def Cog.drainCause (c : Cog) : Option Nat :=
  if !c.loadsDone then some 2 else if !c.long.isEmpty then some 1 else if !c.sbuf.isEmpty then some 7 else none

/-- A cog enters its WAIT: its gate begins to sleep as MODE says (R163), 0b11 acting as idle; a debug request or a disable that is pending ends it. -/
def State.enterWait (s : State) (i : Nat) (w : Waiting) : State :=
  let s := (s.setCog i { s.cog i with wait := some w }).accepted i
  if (s.cog i).wait.isNone then s
  else
    let s := if w.mode = 1 then s.beginEntry (64 + i) .ret else if w.mode = 2 then s.beginEntry (64 + i) .off else s
    let c := s.cog i
    if c.haltReq.isSome || c.mon9 then s.wakeCog i 0x20 else if c.disabling then s.disableWait i else s

/-- pw.t.wait (R163): after the drain it completes at once where a wake condition held as it was triggered (bit 4 of pw.r); else the cog waits. -/
def State.waitOp (s : State) (i : Nat) : State :=
  s.onTrigger i .pwWait fun v _ s =>
    let r := match (s.cog i).cur.bind (·.wait) with | some w => (w, s) | none => s.newWait i v
    let w := r.1
    let s := r.2
    match (s.cog i).drainCause with
    | some k => s.stallCog i k
    | none =>
      let s := (s.bump (cogPage i) R.COG_PWR_WAITS).wr (cogPage i) R.COG_PWR_MODE w.mode
      if w.cause ≠ 0 then (s.setCog i ((s.cog i).set .pwr (16 + (w.cause ||| s.waitCauses i w)))).accepted i
      else s.enterWait i w

/-- WAIT_WAKE: an enabled wake condition of a cog in WAIT holds. -/
def State.waitWake (s : State) (i : Nat) : State :=
  match (s.cog i).wait with
  | some w => s.wakeCog i (s.waitCauses i w)
  | none => s

/-! ### The stimulus port (R116, R497) -/

/-- dbg.t.stim: the value at the width of the move, if the port is traced; while trace is off it is dropped and counted. -/
def State.stimOp (s : State) (i : Nat) : State :=
  s.onTrigger i .dbgStim fun v w s =>
    let port := (s.cog i).get .dbgo % 32
    let s := if !s.on 0x032 R.TRC_CTRL_EN then s.bump 0x032 R.TRC_STAT_DROP
      else if bit (s.rd 0x032 R.TRC_MASK_PORTS) port then
        s.tracePut { stamp := s.now, type := 0, src := s.traceSrc i, port := port,
                     width := (match w with | .word => 0 | .long => 1 | .triple => 2), value := v % 2 ^ (14 * w.words) }
      else s
    s.accepted i

/-! ### Repair (R29 to R33) -/

/-- Why a repair is refused, the lowest-numbered cause; 0 if it is not (R33). -/
def State.repairRefuse (s : State) (c k : Nat) : Nat :=
  let i := s.physOf c k
  if s.rd (casPage c) R.CAS_MAP_SPARE_FOR ≠ 0x1F then 1
  else if (s.cog i).run ≠ .halted ∧ ¬ ((s.dom (64 + i)).st = .off ∧ (s.dom (64 + i)).going = none) then 2
  else if s.on (casPage c) R.CAS_MAP_SPARE_BAD then 3
  else 0

/-- A write of CAS_REPAIR: LOGICAL, and with GO the repair begins (steps 1 to 3 of R33). A write with GO while a repair is in progress is ignored. -/
def State.repairGo (s : State) (c data : Nat) : State :=
  let p := casPage c
  let k := data % 16
  if bit data 8 && s.on p R.CAS_MAP_BUSY then s
  else
    let s := s.wr p R.CAS_REPAIR_LOGICAL k
    if !bit data 8 then s
    else
      let no := s.repairRefuse c k
      if no ≠ 0 then (s.wr p R.CAS_MAP_REJECT 1).wr p R.CAS_MAP_REJECT_CAUSE no
      else
        let i := s.physOf c k
        let s := s.jrnBreak 8 s.now (c + 16 * k)
        let s := ({ s with repairs := put s.repairs c (k, s.tb) } : State).wr p R.CAS_MAP_BUSY 1
        let s := s.setPowerReq (64 + i) 0
        let s := if (s.dom (64 + i)).st = .off then s else s.beginEntry (64 + i) .off
        s.wakeOne (64 + 17 * c + 16)

/-- Steps 4 and 5 of R33: logical k moves to the spare, whose store is clear and whose page shows STALE; its horizon
stays where it was (R213). An enable held since step 2 follows once the gate is on. -/
def State.repairDone (s : State) (c k : Nat) : State :=
  let i := 17 * c + 16
  let s := (({ s with repairs := del s.repairs c } : State).wr (casPage c) R.CAS_MAP_SPARE_FOR k).wr (casPage c) R.CAS_MAP_BUSY 0
  let s := ((s.setCog i {}).clearRange (localBase i) 0x8000).unspoken (16 * c + k)
  (s.wr (cogPage i) R.PG_STAT_STALE 1).pendingStart i

/-- The repairs that are complete 4 µs after their GO. -/
def State.repairsDue (s : State) : State :=
  s.repairs.foldl (fun (t : State) (c, (k, at_)) => if at_ + 4000 ≤ t.tb then t.repairDone c k else t) s

/-! ### Automatic tokens (R207) -/

/-- The least of a horizon and the stamps of a hardware sender's messages that wait for a credit. -/
def State.heldBack (s : State) (x h : Nat) : Nat :=
  s.outbox.foldl (fun (m : Nat) (k : Msg) => if k.sender = x ∧ stampLt k.stamp m then k.stamp else m) h

/-- The trigger of a master's present frame, until TMO and 1 ms after its last line arrived: DESIGN CHOICE (log entry 115), as R301 bounds the hold of a line
that never arrives. -/
def State.openFrame (s : State) (n : Nat) : Option Nat :=
  let x := s.lane n
  if s.tb ≤ x.frameAt + 1000 * max 1 (s.rd (visPage n) R.VIS_TRG_TMO) + 1000000 then x.frame.map (·.tick) else none

/-- The stamps of a pipeline's unfinished lines (R207, R303): outstanding triggers and the present frame of its master, the first packet of a line that
arrives without a trigger, and its own unreported lost lines and unsent findings. -/
def State.unfinished (s : State) (m : Nat) (arriving : Option Nat) : List Nat :=
  let x := s.lane m
  let g := s.lane (s.visMaster m)
  g.trigs.map (·.tick) ++ (s.openFrame (s.visMaster m)).toList ++ arriving.toList ++ (x.run.map fun r => r.trg.tick).toList ++ x.after.map (·.stamp) ++
    x.fifo.map (·.stamp)

/-- Whether an enabled source of a pipeline names a channel (R316). -/
def State.visNames (s : State) (m ch : Nat) : Bool :=
  let p := stagePage m
  ((List.range 4).any fun c => s.on p R.COR_CFG_EN c && decide (s.rd p R.COR_CH_CHAN c = ch)) ||
  ((List.range 4).any fun e => s.on p R.EDG_CFG_EN e && decide (s.rd p R.EDG_CH_CHAN e = ch)) ||
  ((List.range 64).any fun w => s.on (statPage m) R.STW_CTL_EN w && decide (s.rd (statPage m) R.STW_CTL_CHAN w = ch)) ||
  (s.on (fwdPage m) R.VIS_LOST_EN && decide (s.rd (fwdPage m) R.VIS_LOST_CHAN = ch))

/-- The horizon of a sender other than a tandem peer's (R207); `none` for a sender that sends no tokens of its own on the channel. -/
def State.horizonOf (s : State) (ch x : Nat) (arriving : Option Nat) : Option Nat :=
  let ago := fun (n : Nat) => wrap ((s.now : Int) - n) 42
  if x < 0x100 then
    let i := s.physOf (x / 16) (x % 16)
    if s.isMember ch x && (s.member ch x).spoke && decide ((s.dom (64 + i)).st ≠ .off) then some ((s.cog i).get .chs) else none
  else if x < 0x110 then
    if !s.visNames (x - 0x100) ch then none
    else some (s.heldBack x (((s.unfinished (x - 0x100) arriving).map (· % 2 ^ 42)).foldl (fun (m : Nat) t => if stampLt t m then t else m) s.now))
  else if x < 0x118 then
    let p := x - 0x110
    let n := if (s.port p).fed then (s.port p).cycle + 1 else (s.port p).cycle
    some (s.heldBack x (if s.chnState p = chRun then wrap (s.cycleStart p n) 42 else s.now))
  else if x = 0x118 then some (s.heldBack x ((s.caps.map (·.stamp)).foldl (fun (m : Nat) t => if stampLt t m then t else m) (ago 100)))
  else if x = 0x119 then some (ago 200)
  else if x = 0x11A then some (s.heldBack x (ago 50))
  else if 0x120 ≤ x ∧ x < 0x130 then some (s.heldBack x s.now)
  else none

/-- Whether a member's router can send tokens: that of a cog or of a release bank only while its cassette is on (R207, R213). -/
def State.tokensOn (s : State) (x : Nat) : Bool :=
  if x < 0x100 then s.domOn (8 + x / 16) else if 0x120 ≤ x ∧ x < 0x130 then s.domOn (8 + (x - 0x120)) else true

/-- AUTOMATIC_TOKEN: a sender of a channel's set that has sent nothing there for PERIOD sends its horizon, once it has advanced. PERIOD values
below 20 act as 20 (R227). The world says of a pipeline the first packet of a line that arrives without a trigger. -/
def State.autoToken (s : State) (ch x : Nat) (arriving : Option Nat) : State :=
  if !s.domOn 3 || !s.tokensOn x || !s.chEn ch || !s.chOrd ch || !decide (x ∈ s.setSenders (s.rd (chanPage ch) R.FAB_CH_LO_SET)) then s
  else match s.horizonOf ch x arriving with
    | none => s
    | some h =>
      let m := s.member ch x
      let newer := match m.lastSent with | some l => stampLt l h | none => true
      let due := match m.lastSent with | some _ => decide (m.sentAt + max 20 (s.rd 0x0A0 R.FAB_HZN_PERIOD) ≤ s.tb) | none => true
      if newer && due then s.sendToken ch x h else s

/-! ### Commands -/

def execPwWait (cog : CogId) (s : State) : Result := .next (s.waitOp cog)
def execDbgStim (cog : CogId) (s : State) : Result := .next (s.stimOp cog)
def execWaitWake (cog : CogId) (s : State) : Result := .next (s.waitWake cog)
/-- COG_KICK (R166): COG_PWR.KICK, while the page reads normally. -/
def execCogKick (cog : CogId) (s : State) : Result := .next (s.hostAt (cogPage cog) fun s => s.wakeCog cog 8)
/-- PWR_KICK (R468): the always-on path kicks a cog in any state of its gate; a number that names no cog does nothing. -/
def execPwrKick (cog : Fin 512) (s : State) : Result := .next (s.host fun s => s.wakeCog cog 8)
def execCogDisable (cog : CogId) (s : State) : Result := .next (s.host fun s => s.pageDisable (cogPage cog))
def execRepairGo (cas : Cas) (data : Reg) (s : State) : Result :=
  .next (s.hostAt (casPage cas) fun s => s.repairGo cas (setBits data.toNat 8 1 1))
def execAutomaticToken (chan : Fin 4096) (sender : Fin 1024) (s : State) (arriving : Option (BitVec 64) := none) : Result :=
  .next (s.autoToken chan sender (arriving.map (·.toNat)))
def execPageDrainDone (page : Fin 0x410) (s : State) : Result := .next (s.drainDone page)

end Sys2Proof.Machine
end

