-- ==== Sys2Proof/Machine/Power.lean ====
section
/-! DEFINITION. The power domains (chapter 16, R437 to R449): requests, entries and what they lose, wakes, restores, and the crossings of
a sender that is reset (R464). -/

namespace Sys2Proof.Machine

/-! ### What a reset, an entry or a loss of power leaves of registers (R11) -/

/-- The register file with every field of the chosen pages set to its reset value, but for the fields kept. -/
def State.resetFields (s : State) (page : Nat → Bool) (keep : Nat → Fld → Bool) : State :=
  { s with regs := s.regs.map fun (a, v) =>
      if page (pageBase a / 4096) then
        (a, BitVec.ofNat 32 ((wordFields a).foldl (fun (x : Nat) f =>
          if keep (pageBase a / 4096) f then x else setBits x f.lo f.w (bits (regReset a) f.lo f.w)) v.toNat))
      else (a, v) }

/-- The fields marked "—" that show what goes on over a retention of their domain, so that their return derives them again (R11; DEDUCED, log entry 111):
the page header, pins, links, levels and waiting commands. -/
def reDerived (p : Nat) (f : Fld) : Bool :=
  decide (f.off < 0x40 ∧ p < 0x1000) ||
  (match pageKind p with
   | .sys => [R.SYS_LC_STATE, R.SYS_RST_CAUSE].contains f
   | .pmb => decide (f = R.PMB_STAT_ALERT)
   | .gov => decide (f = R.GOV_V_CHANGING)
   | .hlt => decide (f = R.HLT_BRKIN_LVL)
   | .dbg => [R.DBG_STAT_ATTACH, R.DBG_BENCH_EN].contains f
   | .lnk => [R.PCIE_STAT_SPEED, R.PCIE_STAT_WIDTH, R.PCIE_STAT_L1].contains f
   | .mve => decide (f = R.MV_STAT_EN_PENDING)
   | .cam => decide (f = R.CAM_PORT_CLAMP)
   | .fio => [R.FIO_BANK_MISMATCH, R.FIO_IN_IN].contains f
   | .fab => decide (f = R.FAB_CMD_BUSY)
   | .chn => [R.CHN_STAT_STATE, R.CHN_STAT_LOCKED, R.CHN_STAT_SPLIT, R.CHN_STAT_LIM, R.CHN_CMD_BUSY, R.CHN_RED_SECOND].contains f
   | .vis => [R.VIS_LINK_STATE, R.VIS_LINK_MEMBER, R.VIS_LINK_LOS, R.VIS_LINK_STRIPE_ERR, R.VIS_CTL_STAT_BUSY].contains f
   | .cas => decide (f = R.CAS_MAP_BUSY)
   | _ => false)

/-- A domain enters retention: fields marked "—" take their reset values, but for those that its return derives again (R11). -/
def State.retainRegs (s : State) (d : Nat) : State :=
  s.resetFields (fun p => decide (pageDom p = d)) fun p f => decide (f.keep ≠ .none) || reDerived p f

/-- A domain goes off: only fields marked AON are kept. -/
def State.loseRegs (s : State) (d : Nat) : State := s.resetFields (fun p => decide (pageDom p = d)) fun _ f => decide (f.keep = .aon)

/-- The pages of a domain that carry a header (R529). -/
def domPages (d : Nat) : List Nat :=
  if d = 3 then [0x050, 0x051, 0x052, 0x053, 0x054, 0x071, 0x072, 0x07F, 0x080, 0x081, 0x082, 0x083, 0x0A0, 0x0A1] ++ (List.range 16).map (0x0B0 + ·)
  else if d = 4 then [0x060, 0x061, 0x062, 0x063]
  else if 8 ≤ d ∧ d < 24 then [0x200 + (d - 8), 0x090 + (d - 8)]
  else if 24 ≤ d ∧ d < 40 then (List.range 4).map (0x0E0 + 4 * (d - 24) + ·)
  else if 40 ≤ d ∧ d < 48 then (List.range 4).map (0x0C0 + 4 * (d - 40) + ·)
  else if d = 48 then [0x124, 0x125]
  else if d = 49 then [0x126]
  else if 64 ≤ d then [0x300 + (d - 64)]
  else []

/-! ### Crossings (R464, R465) -/

/-- The sending side of some event crossings, of domain `d`, is reset or goes off: SRC_RST, and their raises in flight are lost and counted. -/
def State.dropRaises (s : State) (d : Nat) (mine : Nat → Bool) : State :=
  let lost := ((s.xing.filter fun x => mine x.1).map (·.2)).sum
  let s := { s with xing := s.xing.filter fun x => !mine x.1 }
  ((s.wr (xingPage d) R.XING_STAT_SRC_RST 1).bumpBy (xingPage d) R.XING_STAT_LOST lost).pgEvt 0x020 21

/-- The event controller is reset or its domain goes off: it takes new references and discards every raise in flight (R464). -/
def State.dropArriving (s : State) : State := { s with xing := [] }

/-- The event crossings of a domain that goes off. MGMT holds the controller too: both sides are reset (R465). -/
def State.dropCrossings (s : State) (d : Nat) : State :=
  if 64 ≤ d then s.dropRaises (8 + (d - 64) / 17) fun n => decide (n = 656 + (d - 64))
  else (if d = 2 then s.dropArriving else s).dropRaises d fun n => sourceCrosses n && decide (sourceDom n = d)

/-- The sources of a page whose raises cross into the controller (R402). -/
def pageRaises (p : Nat) : List Nat :=
  ((List.range 32).filterMap (pageSource p) ++
    (match pageKind p with
     | .fio => (List.range 96).map (528 + ·)
     | .rel => [624 + (p - 0x090)]
     | .ev => (List.range 16).map (640 + ·)
     | _ => [])).filter sourceCrosses

/-- The event crossings of a page that is soft reset: those of its block, and on the controller's own page all of them (R464, R465). -/
def State.resetCrossings (s : State) (p : Nat) : State :=
  let s := if pageKind p = .ev then s.dropArriving else s
  if (pageRaises p).isEmpty then s
  else s.dropRaises (if 64 ≤ pageDom p then 8 + (pageDom p - 64) / 17 else pageDom p) fun n => (pageRaises p).contains n

/-! ### What a domain loses (R83, R175, R216, R259, R277, R319, R357, R397) -/

/-- The messages that wait for a cassette in slots or in the hub are discarded, counted, and their credits return (R216). -/
def State.discardHeld (s : State) (c : Nat) : State :=
  let s := s.knownChans.foldl (fun (t : State) ch =>
    if t.rcvCas ch = some c && !t.on (chanPage ch) R.FAB_CH_LO_TAN then
      ((t.chan ch).held.foldl (fun (u : State) m => (u.freeSlot m).fabErr ch m.sender 3) t).refresh ch
    else t) s
  let mine := s.hubHold.filter fun m => decide (s.rcvCas m.chan = some c)
  mine.foldl (fun (t : State) m => (t.restoreCredit m).fabErr m.chan m.sender 3) { s with hubHold := s.hubHold.filter fun m => decide (s.rcvCas m.chan ≠ some c) }

/-- The queues of a range are empty: the conditions of their level sources are false (R403). -/
def State.condsFalse (s : State) (mine : Nat → Bool) : State :=
  { s with evSrc := s.evSrc.map fun (n, x) => (n, if isLevelSource n && mine (n - 272) then { x with cond := false } else x) }

/-- The event controller's live state is lost; the conditions of level sources are not its state (R413). -/
def State.dropEvents (s : State) : State :=
  { s with evSrc := (s.evSrc.filter fun x => x.2.cond).map fun (n, _) => (n, { cond := true }), evGrp := [] }

/-- The live state of the FABRIC domain is lost; pins keep their levels from outside and drive nothing. -/
def State.dropFabric (s : State) : State :=
  let s := (s.condsFalse fun _ => true)
  let s := { s with chans := [], hubHold := [], queues := [], outbox := [], cads := [], axes := [], tables := [], shadow := [], staging := [],
                    evals := [], pwms := [], cws := [], encs := [], capLost := [], caps := [], movers := [], movTurn := [] }
  { s with pins := s.pins.map fun (n, x) => (n, { inp := x.inp, shown := x.shown }) }

/-- The live state of a domain is lost. -/
def State.dropLive (s : State) (d : Nat) : State :=
  if d = 3 then s.dropFabric
  else if d = 2 then s.dropEvents
  else if d = 4 then { s with jrn := {}, rpl := {} }
  else if 8 ≤ d ∧ d < 24 then
    let s := s.discardHeld (d - 8)
    ({ s with rel := s.rel.filter fun x => decide (x.1 / 256 ≠ d - 8) } : State).clearRange (sharedBase (d - 8)) 0x80000
  else if 24 ≤ d ∧ d < 40 then (((s.wr (visPage (d - 24)) R.VIS_LINK_EN 0).freeLanes (s.visFollowers (d - 24))).setLane (d - 24) {}).clearRange (visBase (d - 24)) 0x80000
  else if 40 ≤ d ∧ d < 48 then s.dropPort (d - 40)
  else if d = 48 then { s.setLink 0 {} with tanFixed := false, tanGood := none, spanTo := 0 }
  else if d = 49 then s.setLink 1 {}
  else if 64 ≤ d then (s.setCog (d - 64) {}).clearRange (localBase (d - 64)) 0x8000
  else s

/-- A domain has gone off: its live state and its registers, and what crosses from it. -/
def State.powerOff (s : State) (d : Nat) : State :=
  let s := ((s.dropLive d).loseRegs d).dropCrossings d
  let s := s.relocked d
  if 40 ≤ d ∧ d < 48 then s.chnFollow.showDemand else if d = 3 then s.showPins else s

/-- A domain has entered retention: a cog's slack meter goes with its COG_SLACK fields (R472). -/
def State.powerRetain (s : State) (d : Nat) : State :=
  let s := (s.retainRegs d).relocked d
  if 24 ≤ d ∧ d < 40 then s.visSleep (d - 24)
  else if 64 ≤ d then s.setCog (d - 64) { s.cog (d - 64) with samples := 0, lates := 0 }
  else s

/-! ### Requests and entries (R438, R439) -/

/-- Whether a cog's state is drained (R84): no long-latency result pending, every load answered, the store buffer empty. -/
def Cog.drained (c : Cog) : Bool := c.drainCause.isNone

/-- Whether a cog gate may sleep (R439): the cog is halted, held or in WAIT, and drained. -/
def Cog.quiet (c : Cog) : Bool := (decide (c.run ≠ .issuing) || c.wait.isSome) && c.drained

/-- The conditions for which a request for retention or off waits (R439). -/
def State.powerWaits (s : State) (d : Nat) : Bool :=
  let active := fun (k : Nat) => decide ((s.dom k).st = .on ∨ (s.dom k).going ≠ none)
  s.heldAwake d ||
  (if d = 2 then !s.pcie.d3hot
   else if d = 3 then s.doms.any fun (k, _) => decide (4 ≤ k ∧ k < 64) && active k
   else if d = 4 then s.on 0x060 R.JRN_CTRL_EN || s.on 0x062 R.JRN_RPL_EN
   else if 8 ≤ d ∧ d < 24 then
     let c := d - 8
     ((List.range 17).any fun p => s.domOn (64 + 17 * c + p) && !(s.cog (17 * c + p)).quiet) ||
     ((List.range 17).any fun p => decide ((s.dom (64 + 17 * c + p)).going ≠ none)) || decide (0 < s.relArmed c) ||
     ((List.range 8).any fun p => decide (s.chnState p = chRun) && s.on (chnPage p) R.CHN_IMG_EN && decide (s.rd (chnPage p) R.CHN_IMG_CAS = c)) ||
     (s.on 0x060 R.JRN_CTRL_EN && s.on 0x060 R.JRN_CTRL_DEST && decide (s.rd 0x060 R.JRN_CTRL_CAS = c))
   else if 40 ≤ d ∧ d < 48 then decide (chSilent < s.chnState (d - 40))
   else if d = 48 then s.on 0x124 R.TAN_CFG_EN
   else if d = 49 then s.on 0x124 R.TAN_CFG_EN && bit (s.rd 0x124 R.TAN_CFG_PORTS) 1
   else if 56 ≤ d ∧ d < 64 then s.enabledTables.any fun t => s.usesBank t (d - 56)
   else if 64 ≤ d then !(s.cog (d - 64)).quiet
   else false)

/-- The state that a request asks for; MGMT takes off as retention, and AON and TIMEKEEP stay on (R438). -/
def reqTarget (d v : Nat) : DomSt := if d < 2 ∨ 2 ≤ v then .on else if v = 1 ∨ d = 2 then .ret else .off

/-- The gates of a cassette that are on. -/
def State.gatesOn (s : State) (c : Nat) : List Nat := ((List.range 17).map (64 + 17 * c + ·)).filter fun g => (s.dom g).isOn

/-- A domain starts its change; an emulated entry of a cassette takes its gates along at once. -/
def State.enterDomain (s : State) (d : Nat) (t : DomSt) : State :=
  let gates := if 8 ≤ d ∧ d < 24 then s.gatesOn (d - 8) else []
  let s := s.beginEntry d t
  if (s.dom d).emu = some t then
    let s := gates.foldl (fun (u : State) g => u.beginEntry g t) s
    if 24 ≤ d ∧ d < 40 ∧ t = .ret then s.visSleep (d - 24) else s
  else s

/-- The value 0b10 of a request acts as on, and the page on which it was written counts it (R438). -/
def State.countRequest (s : State) (p off v data : Nat) : State := if v = 2 then s.pgErr p (some (off, data)) else s

/-- A domain's request takes a value (R438, R439). -/
def State.takeRequest (s : State) (d v : Nat) : State :=
  if !isDomain d then s
  else if 2 ≤ v then
    let s := s.setPowerReq d v
    if s.domOn d && (s.dom d).emu.isNone then s.setDom d { s.dom d with hold := false } else s.startWake d
  else
    let s := s.setPowerReq d v
    let t := reqTarget d v
    let x := s.dom d
    if t = .on then s
    else match x.going with
      | some _ => s.setDom d { x with hold := true }
      | none =>
        if x.st = t ∨ x.st = .off ∨ x.emu = some t then s.setDom d { x with hold := false }
        else if s.powerWaits d then s.setDom d { x with hold := true }
        else s.enterDomain d t

/-- DOMAIN_REQUEST: a write of a domain's request through its home page, or for a cam bank, which has none, through PWR_DOMd. -/
def State.domainRequest (s : State) (d v : Nat) : State :=
  if !isDomain d then s
  else (match homePage d with
    | some p => s.countRequest p 0x08 v (16 * v)
    | none => s.countRequest 0x010 (0x100 + 4 * d) v v).takeRequest d v

/-- The change of a domain to retention or off is complete: it is counted, its cassette's gates follow, its state is kept or lost, and a wake
that came meanwhile is replayed (R448). -/
def State.completeEntry (s : State) (d : Nat) (t : DomSt) : State :=
  let x := s.dom d
  let lose := fun (s : State) (k : Nat) => if t = .off then s.powerOff k else s.powerRetain k
  let gates := if 8 ≤ d ∧ d < 24 then s.gatesOn (d - 8) else []
  let s := gates.foldl (fun (u : State) g => lose (u.setDom g { u.dom g with st := t, hold := false }) g) s
  let s := if d < 64 then s.bump 0x010 R.PWR_DOM_ENTRIES d else s
  let s := lose (s.setDom d { x with st := t, going := none, latched := false, idleSince := none }) d
  if x.latched then (s.wr 0x010 R.PWR_WSTAT_REPLAY 1).startWake d else s

/-- DOMAIN_ENTRY: a request that waited takes effect, or the change that it started is complete. -/
def State.domainEntry (s : State) (d : Nat) : State :=
  let x := s.dom d
  match x.going with
  | some .on => s
  | some t => s.completeEntry d t
  | none =>
    let t := reqTarget d (s.powerReq d)
    if !x.hold || s.powerWaits d then s
    else if t = .on ∨ x.st = t ∨ x.st = .off then s.setDom d { x with hold := false }
    else s.enterDomain d t

/-! ### Wakes (R445 to R448) -/

/-- Every domain whose WSET has a bit wakes. -/
def State.wakeSet (s : State) (b : Nat) : State :=
  upTo 64 (fun (t : State) d => if bit (t.rd 0x010 R.PWR_DOM_WSET d) b then t.startWake d else t) s

/-- A link wake: in maintenance mode it also wakes the set of bit 4. -/
def State.linkWake (s : State) (d : Nat) : State :=
  let s := s.startWake d
  if s.on 0x010 R.PWR_CTRL_MODE then (s.wr 0x010 R.PWR_WSTAT_LINK 1).wakeSet 4 else s

/-- The PCI Express link leaves L1, or the function D3hot (R363, R445). -/
def State.pcieWake (s : State) : State := (s.linkWake 2).wr 0x120 R.PCIE_STAT_L1 0

/-- The link as it stands after training or a change of its power state, with what the host has set in the configuration space (R363, R366, R379). L1 needs
its enable, and a function in D3hot takes the link there. A function or a link that leaves its low-power state wakes MGMT (R445), and MSI-X messages that
are no longer masked leave. -/
def State.pcieLink (s : State) (speed width : Nat) (l1 : Bool) (conf : PcieConf) (aerClear : BitVec 32) : State :=
  let l1 := (l1 && conf.aspmL1) || conf.d3hot
  let leaves := (s.on 0x120 R.PCIE_STAT_L1 && !l1) || (s.pcie.d3hot && !conf.d3hot)
  let s := { s with pcie := conf, aer := s.aer &&& ~~~aerClear, perst := false }
  let s := if leaves then s.pcieWake else s
  let s := ((s.wr 0x120 R.PCIE_STAT_SPEED speed).wr 0x120 R.PCIE_STAT_WIDTH width).wr 0x120 R.PCIE_STAT_L1 (b2n l1)
  upTo 64 (fun (t : State) v => t.msixUnmask v) s

/-- What the host's configuration writes since the last command left, none where there were none (R363; PRESUMED, log entry 101). A
write finds the link out of L1, and no write reaches a function in reset. -/
def State.confWritten (s : State) (conf : Option PcieConf) : State :=
  match conf with
  | some k => if s.perst then s else s.pcieLink (s.rd 0x120 R.PCIE_STAT_SPEED) (s.rd 0x120 R.PCIE_STAT_WIDTH) false k 0
  | none => s

/-- DOMAIN_WAKE: the causes of R445 that have no row of their own. -/
def State.domainWake (s : State) (w : WakeSource) : State :=
  let asleep := fun (d : Nat) => decide ((s.dom d).st = .ret ∨ (s.dom d).going = some .ret ∨ (s.dom d).emu = some .ret)
  match w with
  | .message c => if asleep (8 + c) && s.hubHold.any fun m => decide (s.rcvCas m.chan = some c.val) then s.startWake (8 + c) else s
  | .vision n => if asleep (24 + n) then s.startWake (24 + n) else s
  | .chain p => if asleep (40 + p) then s.linkWake (40 + p) else s
  | .pcie => s.pcieWake
  | .tandem i => if asleep (48 + i) then s.linkWake (48 + i) else s

/-- A WAKE pin wakes its set (R447). -/
def State.pinWake (s : State) (n : Nat) : State :=
  (s.wr 0x010 R.PWR_WSTAT_PIN (setBits (s.rd 0x010 R.PWR_WSTAT_PIN) n 1 1)).wakeSet n

/-- The filtered level of a WAKE pin takes a value. -/
def State.wakeLevel (s : State) (n : Nat) (level : Bool) : State :=
  let was := s.wakeActive n
  let s := s.wr 0x010 R.PWR_WAKE_LVL (b2n level) n
  if s.wakeActive n && !(was && s.on 0x010 R.PWR_WAKE_EDGE n) then s.pinWake n else s

/-- The filter of an input in ns: WAKE0 to WAKE3 (0 to 3) by FILT µs (R447), JRN_TRIG (4) by FILT × 4 ns, 13 to 15 acting as 12 (R424, R436). -/
def State.inputFilter (s : State) (k : Nat) : Nat :=
  if k < 4 then 1000 * s.rd 0x010 R.PWR_WAKE_FILT k else 4 * min 12 (s.rd 0x063 R.JRN_TRIG_CFG_FILT)

/-- An input has passed its filter. DESIGN CHOICE (log entry 112): a JRN_TRIG marker is stamped with the edge, not with the end of its filter. -/
def State.inputActs (s : State) (k : Nat) (level : Bool) (at_ : Nat) : State := if k < 4 then s.wakeLevel k level else s.jrnTrigger level at_

/-- An input changes (R424, R447): without a filter it acts at once; else the change waits for its filter's time, and a change back before that ends it. -/
def State.inputChange (s : State) (k : Nat) (level : Bool) : State :=
  if s.inputFilter k = 0 then ({ s with inputs := del s.inputs k } : State).inputActs k level s.tb
  else match look s.inputs k with
    | some x => if x.1 = level then s else { s with inputs := del s.inputs k }
    | none => if k < 4 ∧ s.rd 0x010 R.PWR_WAKE_LVL k = b2n level then s else { s with inputs := put s.inputs k (level, s.tb) }

/-- The changes of inputs that have lasted for their filters' time act. -/
def State.inputsDue (s : State) : State :=
  s.inputs.foldl (fun (t : State) (k, x) =>
    if x.2 + t.inputFilter k ≤ t.tb then ({ t with inputs := del t.inputs k } : State).inputActs k x.1 x.2 else t) s

/-- The level-sensitive pins that are active wake the domains of their sets that are not on: after a write of a pin's or a set's registers. -/
def State.levelWakes (s : State) : State :=
  upTo 4 (fun (t : State) n =>
    if t.wakeActive n && !t.on 0x010 R.PWR_WAKE_EDGE n &&
      (List.range 64).any fun d => bit (t.rd 0x010 R.PWR_DOM_WSET d) n && !(t.domOn d && (t.dom d).emu.isNone)
    then t.pinWake n else t) s

/-- PWR_ALARM (R445): the timebase has reached the alarm's stamp while it is armed. -/
def State.powerAlarm (s : State) : State :=
  let st := s.rd 0x010 R.PWR_ALARM_LO_STAMP + s.rd 0x010 R.PWR_ALARM_HI_STAMP * 2 ^ 32
  if s.on 0x010 R.PWR_ALARM_HI_EN && decide (0 ≤ stampDiff s.now st) then
    ((s.wr 0x010 R.PWR_ALARM_HI_EN 0).wr 0x010 R.PWR_WSTAT_ALARM 1).wakeSet 5
  else s

/-! ### Restore (R442, R449) -/

/-- The pages of a domain that returns from off show STALE, with EN = 0 (R442). -/
def State.showStale (s : State) (d : Nat) : State :=
  (domPages d).foldl (fun (t : State) p => (t.wr p R.PG_STAT_STALE 1).wr p R.PG_CTRL_EN 0) s

/-- A cog returns from retention (R84): line buffer, target cache and scoreboard are empty; a WAIT that a wake has ended completes. -/
def State.cogReturn (s : State) (i : Nat) : State :=
  let c := s.cog i
  let s := s.setCog i { c with lines := [], tcache := [], inUse := none, coming := none, sb := 0, wait := c.wait.map fun w => { w with slept := true } }
  match c.wait with
  | some w =>
    if w.cause = 0 then s
    else
      let s := s.endWait i 0
      if s.on (cogPage i) R.COG_WDT_WAITRUN then s else s.wdtRestart i
  | none => s

/-- The messages that the hub holds for a cassette are forwarded in order (R216). -/
def State.forwardHeld (s : State) (c : Nat) : State :=
  let mine := s.hubHold.filter fun m => decide (s.rcvCas m.chan = some c)
  mine.foldl (fun (t : State) m => t.occupy m) { s with hubHold := s.hubHold.filter fun m => decide (s.rcvCas m.chan ≠ some c) }

/-- The cadences are brought forward over retention (R259): flips armed for passed boundaries are taken, and no boundary is notified. -/
def State.forwardCads (s : State) : State :=
  upTo 16 (fun (t : State) n =>
    if t.cadEn n then
      let k := ((t.cad n).posAt t.tb / 2 ^ 28 - (t.cad n).cyc).natAbs
      let had := (t.cad n).notes
      let t := upTo (k + 1) (fun (u : State) _ => u.cadBoundary n) t
      t.setCad n { t.cad n with notes := (t.cad n).notes.filter fun x => decide (x.type ≠ 0 ∨ x ∈ had) }
    else t) s

/-- What a domain does as it reports on, from retention (R442). -/
def State.returnRet (s : State) (d : Nat) : State :=
  if d = 3 then s.forwardCads
  else if 24 ≤ d ∧ d < 40 then s.visReturn (d - 24)
  else if d = 48 ∨ d = 49 then
    if s.on 0x124 R.TAN_CFG_EN && bit (s.rd 0x124 R.TAN_CFG_PORTS) (d - 48) then s.wr (0x125 + (d - 48)) R.TANP_STAT_STATE 1 else s
  else if 64 ≤ d then s.cogReturn (d - 64)
  else s

/-- A cassette that is on brings each gate whose request is on with it (R437, R449 step 6). -/
def State.wakeGates (s : State) (c : Nat) : State :=
  upTo 17 (fun (t : State) p =>
    let g := 64 + 17 * c + p
    if 2 ≤ t.powerReq g ∧ ¬ (t.dom g).isOn then t.wakeOne g else t) s

/-- Whether the regulators that a domain's restore waits for are on (R449 steps 2 and 3): a cassette's own; for MGMT, FABRIC and JRN those of the cassettes
that are waking. -/
def State.railOn (s : State) (d : Nat) : Bool :=
  if 8 ≤ d ∧ d < 24 then !s.on (0x012 + (d - 8) / 4) R.GOV_V_RAIL_OFF
  else if 2 ≤ d ∧ d < 5 then (List.range 16).all fun c => !(decide ((s.dom (8 + c)).going = some .on) && s.on (0x012 + c / 4) R.GOV_V_RAIL_OFF)
  else true

/-- The time from which a domain that is waking starts to restore (R449 steps 4 to 7): T1 + k × 0.5 µs, for a cassette T1 + k µs, and for gate p 0.1 p µs
after its cassette reports on. -/
def State.startsAt (s : State) (d : Nat) : Nat :=
  let x := s.dom d
  if 64 ≤ d then max x.wokeAt ((s.dom (8 + (d - 64) / 17)).onAt + 100 * ((d - 64) % 17))
  else if 8 ≤ d then max x.wokeAt (s.dom 3).onAt + (if d < 24 then 1000 else 500) * x.rank
  else x.wokeAt

/-- A domain's restore fails: FAIL and the health source (R449). -/
def State.showFail (s : State) (d : Nat) : State := (if d < 64 then s.wr 0x010 R.PWR_DOM_FAIL 1 d else s).pgEvt 0x020 11

/-- DOMAIN_RESTORE: a domain that is changing to on, and whose needs are on, reports on with its state. An emulated return keeps stores. -/
def State.domainRestore (s : State) (d : Nat) : State :=
  let x := s.dom d
  if x.going ≠ some .on || !(domNeeds d).all s.domOn || !s.railOn d || decide (s.tb < s.startsAt d) then s
  else
    let s := s.setDom d { x with st := .on, going := none, emu := none, hold := decide (s.powerReq d < 2), idleSince := none, onAt := s.tb }
    let from_ := if x.st = .on then x.emu.getD .ret else x.st
    let s := if from_ = .off then
        let s := if x.st = .on ∧ 64 ≤ d then s.setCog (d - 64) {} else s
        let s := if d = 3 then s.showInputs.showBanks else s
        if 56 ≤ d ∧ d < 64 then s.rescan (d - 56)
        else if 24 ≤ d ∧ d < 40 then (s.showStale d).laneResume (d - 24)
        else s.showStale d
      else s.returnRet d
    let s := if 64 ≤ d then s.pendingStart (d - 64) else s
    let s := if 8 ≤ d ∧ d < 24 then (s.forwardHeld (d - 8)).wakeGates (d - 8) else s
    if s.injArmed 0x010 0 then (s.injTake 0x010 0).showFail d else s

/-- RESTORE_FAIL: a domain that did not report on within its bound stays off (R449). -/
def State.restoreFail (s : State) (d : Nat) : State :=
  let x := s.dom d
  if x.going ≠ some .on ∨ x.emu.isSome then s
  else
    let s := if x.st = .ret then s.powerOff d else if 8 ≤ d ∧ d < 24 then s.discardHeld (d - 8) else s
    (s.setDom d { x with st := .off, going := none, hold := false }).showFail d

/-! ### Idle rules (R444, R357) -/

/-- The condition of a domain's idle rule at present. -/
def State.idleNow (s : State) (d : Nat) : Bool :=
  s.domOn d && (s.dom d).emu.isNone &&
  (if 8 ≤ d ∧ d < 24 then decide (s.relArmed (d - 8) = 0) && (List.range 17).all fun p =>
      let g := 64 + 17 * (d - 8) + p
      decide ((s.dom g).going = none) && (!(s.dom g).isOn || (s.cog (g - 64)).wait.isSome)
   else if d = 48 then !s.on 0x124 R.TAN_CFG_EN
   else if d = 49 then !(s.on 0x124 R.TAN_CFG_EN && bit (s.rd 0x124 R.TAN_CFG_PORTS) 1)
   else false)

/-- The start of the present idle interval follows the condition. -/
def State.trackIdle (s : State) (d : Nat) : State :=
  let x := s.dom d
  match s.idleNow d, x.idleSince with
  | true, none => s.setDom d { x with idleSince := some s.tb }
  | false, some _ => s.setDom d { x with idleSince := none }
  | _, _ => s

/-- IDLE_RULE: a CASc or TANi that has been idle for PWR_IDLE.US without a break enters retention (R444). -/
def State.idleRule (s : State) (d : Nat) : State :=
  let us := s.rd 0x010 R.PWR_IDLE_US
  match (s.dom d).idleSince with
  | some t =>
    if s.on 0x010 R.PWR_DOM_IDLE_AUTO d && s.idleNow d && !s.powerWaits d && decide (us ≠ 0 ∧ t + 1000 * us ≤ s.tb) then s.enterDomain d .ret else s
  | none => s

/-- The last debugger detaches (R492): each emulated domain enters the state that it emulated, unless a condition of R439 holds. -/
def State.detach (s : State) : State :=
  s.doms.foldl (fun (t : State) (d, x) =>
    match x.emu with
    | some e =>
      let t := t.setDom d { x with emu := none }
      if x.going.isSome then t
      else if t.powerWaits d then t.setDom d { x with emu := none, hold := decide (t.powerReq d < 2) }
      else t.enterDomain d e
    | none => t) s

/-! ### Commands -/

def execDomainRequest (dom : Fin 336) (req : BitVec 2) (s : State) : Result := .next (s.host fun s => s.domainRequest dom req.toNat)
def execDomainEntry (dom : Fin 336) (conf : Option PcieConf) (s : State) : Result := .next ((s.confWritten conf).domainEntry dom)
/-- DESCRIPTOR_FETCH (R386): it stands here because a configuration write that comes before it can wake a domain. -/
def execDescriptorFetch (c : Fin 64) (conf : Option PcieConf) (s : State) : Result := .next ((s.confWritten conf).descFetch c)
def execDomainWake (source : WakeSource) (s : State) : Result := .next (s.domainWake source)
def execDomainRestore (dom : Fin 336) (s : State) : Result := .next (s.domainRestore dom)
def execRestoreFail (dom : Fin 336) (s : State) : Result := .next (s.restoreFail dom)
/-- WAKE_PIN: the level at a WAKE pin takes a value. -/
def execWakePin (n : Fin 4) (level : Bool) (s : State) : Result := .next (s.inputChange n level)
/-- JRN_TRIG_EDGE (R424): it stands here beside the other filtered inputs. -/
def execJrnTrigEdge (rise : Bool) (s : State) : Result := .next (s.inputChange 4 rise)
def execPwrAlarm (s : State) : Result := .next s.powerAlarm
def execIdleRule (dom : Fin 64) (s : State) : Result := .next (s.idleRule dom)
/-- CHAIN_IDLE_RETENTION (R357). -/
def execChainIdleRetention (port : Fin 8) (s : State) : Result :=
  .next (if s.chnIdle port && (s.dom (40 + port)).emu.isNone then s.enterDomain (40 + port) .ret else s)

end Sys2Proof.Machine
end

