-- ==== Sys2Proof/Machine/Governor.lean ====
section
/-! DEFINITION. The PMBus master and the supply governors (R450 to R457). -/

namespace Sys2Proof.Machine

/-- The page of a quadrant's governor, and its live state. -/
def govPage (q : Nat) : Nat := 0x012 + q
def State.gov (s : State) (q : Nat) : Gov := lookD s.govs q {}
def State.setGov (s : State) (q : Nat) (g : Gov) : State := { s with govs := put s.govs q g }

/-! ### PMBus transactions (R454) -/

/-- Counts the tries of a transaction that failed; after three the transaction has failed. Injection bit 0 of page 0x011 is one NACK (R467). -/
def State.pmbTries (s : State) (nacks pecs : Nat) : Bool × State :=
  let inj := s.injArmed 0x011 0
  let n := min 3 (nacks + b2n inj)
  let k := min (3 - n) (if s.on 0x011 R.PMB_CFG_PEC then pecs else 0)
  let s := if inj then s.injTake 0x011 0 else s
  let s := (s.bumpBy 0x011 R.PMB_ERR_NACK n).bumpBy 0x011 R.PMB_ERR_PEC k
  let s := if 0 < n then s.wr 0x011 R.PMB_STAT_NACK 1 else s
  let s := if 0 < k then s.wr 0x011 R.PMB_STAT_PECERR 1 else s
  if n + k = 3 then (false, (s.bump 0x011 R.PMB_ERR_FAIL).pgEvt 0x020 10) else (true, s)

/-- A transaction with an address: what it sends, and whether it succeeds. -/
def State.pmbSend (s : State) (addr cmd : Nat) (data : Option Nat) (nacks pecs : Nat) : Bool × State :=
  ({ s with out := .pmbus addr cmd data :: s.out } : State).pmbTries nacks pecs

/-- The address of a quadrant's regulator, after PAGE where it is paged. -/
def State.pmbPage (s : State) (q : Nat) : State :=
  if s.on 0x011 R.PMB_Q_PAGED q then { s with out := .pmbus (s.rd 0x011 R.PMB_Q_ADDR q) 0x00 (some (s.rd 0x011 R.PMB_Q_PAGE q)) :: s.out } else s

/-- What a command tells of the bus holds for the writes that it brings about. -/
def State.withBus (s : State) (r : PmbReply) (f : State → State) : State := { f { s with pmbPlan := r.writes } with pmbPlan := [] }

/-- A write on the bus. DEDUCED (log entry 32): one of which the command says nothing is acknowledged, unless a NACK is injected. -/
def State.pmbPut (s : State) (addr cmd : Nat) (data : Option Nat) : State :=
  let tries := s.pmbPlan.headD (0, 0)
  (({ s with pmbPlan := s.pmbPlan.tail } : State).pmbSend addr cmd data tries.1 tries.2).2

/-- A write to a quadrant's regulator. -/
def State.pmbWrite (s : State) (q cmd data : Nat) : State := (s.pmbPage q).pmbPut (s.rd 0x011 R.PMB_Q_ADDR q) cmd (some data)

/-- A read from a quadrant's regulator: its value, if the transaction succeeds. -/
def State.pmbRead (s : State) (q cmd : Nat) (r : PmbReply) : Option Nat × State :=
  let r1 := (s.pmbPage q).pmbSend (s.rd 0x011 R.PMB_Q_ADDR q) cmd none r.nacks r.pecs
  let ok := r1.1
  let s := r1.2
  (if ok then some r.value.toNat else none, s)

/-- VOUT_COMMAND's word for a voltage in mV: round(mV × 2^−exponent / 1,000), ties upwards (R454). -/
def State.voutWord (s : State) (q mv : Nat) : Nat :=
  let e := signed (s.rd 0x011 R.PMB_Q_EXP q) 5
  (if e ≤ 0 then (2 * mv * 2 ^ e.natAbs + 1000) / 2000 else (2 * mv + 1000 * 2 ^ e.natAbs) / (2000 * 2 ^ e.natAbs)) % 65536

/-- The voltage in mV that READ_VOUT's word states, rounded, ties upwards; at most 1,023 (GOV_V.MEAS). -/
def State.voutMv (s : State) (q w : Nat) : Nat :=
  let e := signed (s.rd 0x011 R.PMB_Q_EXP q) 5
  min 1023 (if e ≤ 0 then (2000 * w + 2 ^ e.natAbs) / (2 * 2 ^ e.natAbs) else 1000 * w * 2 ^ e.natAbs)

/-! ### Changes of the voltage (R451, R455, R457) -/

/-- A value of GOV_LIM outside 550 to 900 mV acts as the nearer end (R457). -/
def govLimit (v : Nat) : Nat := max 550 (min v 900)

/-- VOUT_COMMAND for a voltage; bias and assist are engaged first for 650 mV or less (R451). -/
def State.govCommand (s : State) (q v : Nat) : State :=
  let s := if v ≤ 650 then s.wr (govPage q) R.GOV_V_ASSIST 1 else s
  s.pmbWrite q 0x21 (s.voutWord q v)

/-- GOV_CFG.SETTLE in ns. -/
def State.govSettleTime (s : State) (q : Nat) : Nat := 1000 * s.rd (govPage q) R.GOV_CFG_SETTLE

/-- The wait of step 3 of R455 in ns: |v − vout| / SLEW, and SETTLE. -/
def State.govWait (s : State) (q v : Nat) : Nat :=
  let vout := s.rd (govPage q) R.GOV_V_VOUT
  1000 * (max v vout - min v vout) / max 1 (s.rd (govPage q) R.GOV_CFG_SLEW) + s.govSettleTime q

/-- Steps 1 to 3 of R455. -/
def State.govBegin (s : State) (q v : Nat) : State :=
  let s := (s.govCommand q v).wr (govPage q) R.GOV_V_CHANGING 1
  s.setGov q { s.gov q with target := some v, want := none, missed := false, changed := true, readAt := s.tb + s.govWait q v }

/-- A new target (R455, R457): none while FAULT is set or the regulator is off; one that arises during a change waits for its end. -/
def State.govChange (s : State) (q v : Nat) : State :=
  let p := govPage q
  let g := s.gov q
  if s.on p R.GOV_CTRL_FAULT || s.on p R.GOV_V_RAIL_OFF then s
  else match g.target with
    | some t => s.setGov q { g with want := if t = v then none else some v }
    | none => s.govBegin q v

/-- FAULT (R457): the governor holds the last confirmed voltage, and its health source is raised. -/
def State.govFault (s : State) (q : Nat) : State :=
  let p := govPage q
  let s := ((s.wr p R.GOV_CTRL_FAULT 1).wr p R.GOV_V_CHANGING 0).pgEvt 0x020 9
  s.setGov q { s.gov q with v := s.rd p R.GOV_V_VOUT, target := none, want := none, missed := false, turnOn := none }

/-! ### The regulator off and on (R456) -/

/-- The domains of a quadrant's cassettes. -/
def quadDoms (q : Nat) : List Nat := (List.range 4).map fun k => 8 + 4 * q + k

/-- Whether a cassette of a quadrant is on or changing. -/
def State.quadActive (s : State) (q : Nat) : Bool := (quadDoms q).any fun d => decide ((s.dom d).st = .on ∨ (s.dom d).going ≠ none)

/-- Whether a quadrant's governor acts: its page's domain is on, or a cassette that is to restore waits for the regulator (R449 step 2). -/
def State.govActs (s : State) (q : Nat) : Bool := s.pageOn (govPage q) || (quadDoms q).any fun d => decide ((s.dom d).going = some .on)

/-- The regulator goes off while OFF_EN is 1 and no cassette is on or changing; it is turned on when one is to restore, and fails after TON. -/
def State.govSettle (s : State) (q : Nat) : State :=
  let p := govPage q
  let g := s.gov q
  if !s.govActs q then s
  else if !s.quadActive q then
    if s.on p R.GOV_CTRL_OFF_EN && !s.on p R.GOV_V_RAIL_OFF then
      let s := ((s.pmbWrite q 0x01 0x00).wr p R.GOV_V_RAIL_OFF 1).wr p R.GOV_V_CHANGING 0
      s.setGov q { g with target := none, want := none, missed := false, turnOn := none }
    else s
  else if !s.on p R.GOV_V_RAIL_OFF || s.on p R.GOV_CTRL_FAULT then s
  else match g.turnOn with
    | none =>
      let s := (s.pmbWrite q 0x01 0x80).govCommand q (s.rd p R.GOV_SET_VSTART)
      s.setGov q { g with turnOn := some s.tb }
    | some t =>
      if t + 1000000 * max 1 (s.rd p R.GOV_CFG_TON) < s.tb then
        (quadDoms q).foldl (fun (u : State) d => if (u.dom d).going = some .on then u.restoreFail d else u) (s.govFault q)
      else s

/-! ### READ_VOUT (R455 steps 4 and 5, R456) -/

/-- Whether a measured voltage lies within 15 mV of another. -/
def nearMv (a b : Nat) : Bool := decide (a ≤ b + 15 ∧ b ≤ a + 15)

/-- READ_VOUT's transaction: the voltage in mV, shown in GOV_V.MEAS, if it succeeds. -/
def State.measureVout (s : State) (q : Nat) (r : PmbReply) : Option Nat × State :=
  let x := s.pmbRead q 0x8B r
  match x.1 with
  | some w => (some (x.2.voutMv q w), x.2.wr (govPage q) R.GOV_V_MEAS (x.2.voutMv q w))
  | none => (none, x.2)

/-- Bias and assist are released once READ_VOUT reports 670 mV or more (R451). -/
def State.assistOff (s : State) (q m : Nat) : State := if 670 ≤ m then s.wr (govPage q) R.GOV_V_ASSIST 0 else s

/-- READ_VOUT: confirms a change or the regulator's turn-on; a second miss of a change sets FAULT. -/
def State.readVout (s : State) (q : Nat) (r : PmbReply) : State :=
  let p := govPage q
  if !s.govActs q then s
  else
    let s := s.govSettle q
    let g := s.gov q
    match g.turnOn, g.target with
    | some _, _ =>
      let start := s.rd p R.GOV_SET_VSTART
      let x := s.measureVout q r
      let s := x.2
      match x.1 with
      | some m =>
        if nearMv m start then
          (((s.wr p R.GOV_V_RAIL_OFF 0).wr p R.GOV_V_VOUT start).assistOff q m).setGov q { g with v := start, turnOn := none }
        else s
      | none => s
    | none, some v =>
      if s.tb < g.readAt then s
      else
        let r2 := s.measureVout q r
        let m := r2.1
        let s := r2.2
        if (m.map (nearMv · v)).getD false then
          let s := ((s.wr p R.GOV_V_VOUT v).wr p R.GOV_V_CHANGING 0).assistOff q (m.getD 0)
          let s := s.setGov q { g with target := none, want := none, missed := false }
          match g.want with
          | some w => if w = v then s else s.govBegin q w
          | none => s
        else if g.missed then s.govFault q
        else s.setGov q { g with missed := true, readAt := s.tb + s.govSettleTime q }
    | none, none => s

/-! ### The end of a period (R452, R453) -/

/-- The cogs whose meters a governor reads: those of its cassettes that are on, but for excluded ones. -/
def State.govMeters (s : State) (q : Nat) : List Nat :=
  (List.range 68).filterMap fun k =>
    let i := 68 * q + k
    if (s.dom (8 + casOf i)).isOn && !s.on (cogPage i) R.COG_SLACK_EXCL then some i else none

/-- The governor resets a meter. -/
def State.meterReset (s : State) (i : Nat) : State :=
  ((s.setCog i { s.cog i with samples := 0, lates := 0 }).wr (cogPage i) R.COG_SLACK_MIN 0).wr (cogPage i) R.COG_SLACK_SAMPLED 0

/-- The rule of R453 for the period's samples: the new target before the clamp, with above and quiet, and which counter it adds to. -/
def govRule (v up dn hold quietLim lo hi vidle above quiet n late : Nat) (smin : Int) (changed : Bool) : Nat × Nat × Nat :=
  if n = 0 then
    if quietLim ≠ 0 ∧ quietLim ≤ quiet + 1 then (vidle, 0, quiet + 1) else (v, 0, if quietLim = 0 then quiet else quiet + 1)
  else if 0 < late then (v + 2 * up, 0, 0)
  else if smin < 16 * lo then (v + up, 0, 0)
  else if (16 * hi : Int) ≤ smin ∧ !changed then
    if hold ≤ above + 1 then (v - dn, 0, 0) else (v, above + 1, 0)
  else (v, 0, 0)

/-- What a period's meters say (R452): the samples, the late ones and the least slack; the meters are reset and GOV_SLK shows them. -/
def State.govMeasure (s : State) (q : Nat) : Nat × Nat × Int × State :=
  let p := govPage q
  let inj := s.injArmed p 1
  let s := if inj then s.injTake p 1 else s
  let meters := s.govMeters q
  let sampled := meters.filter fun i => decide (0 < (s.cog i).samples)
  let n := sampled.length + b2n inj
  let late := (meters.map fun i => (s.cog i).lates).sum + b2n inj
  let smin := sampled.foldl (fun (m : Int) i => min m (signed (s.rd (cogPage i) R.COG_SLACK_MIN) 28)) 134217727
  let s := ((List.range 68).map (68 * q + ·)).foldl (fun (t : State) i => if 0 < (t.cog i).samples then t.meterReset i else t) s
  let s := (s.wr p R.GOV_SLK_SMIN (wrap smin 28)).wr p R.GOV_SLK_NONE (b2n (n = 0))
  (n, late, smin, if 0 < late then s.bump p R.GOV_CNT_LATEP else s)

/-- The period's new target is taken and counted (R453), and a change begins where it differs from the confirmed voltage. `idle`: the quiet rule has moved
it. -/
def State.govTarget (s : State) (q : Nat) (g : Gov) (idle : Bool) (v : Nat) : State :=
  let p := govPage q
  let s := s.setGov q g
  let s := if idle then (if g.v ≠ v then s.bump p R.GOV_CNT_QUIETP else s)
    else if v < g.v then s.bump p R.GOV_CNT_UPS else if g.v < v then s.bump p R.GOV_CNT_DOWNS else s
  if g.v = s.rd p R.GOV_V_VOUT then s else s.govChange q g.v

/-- The length of a period in ns: GOV_PER.US, values below 10 acting as 10. -/
def State.govPeriodTime (s : State) (q : Nat) : Nat := 1000 * max 10 (s.rd (govPage q) R.GOV_PER_US)

/-- GOVERNOR_PERIOD, once the period has ended: the meters are read and reset, READ_IOUT is read, and in automatic mode the target follows R453. -/
def State.governorPeriod (s : State) (q : Nat) (iout : PmbReply) : State :=
  let p := govPage q
  let len := s.govPeriodTime q
  let past := s.tb - (s.gov q).since
  if !s.pageOn p || !s.on p R.GOV_CTRL_EN || decide (past < len) then s
  else
    let s := s.setGov q { s.gov q with since := s.tb - past % len }
    let m := s.govMeasure q
    let n := m.1
    let late := m.2.1
    let smin := m.2.2.1
    let s := m.2.2.2
    let current := s.pmbRead q 0x8C iout
    let s := match current.1 with | some w => current.2.wr p R.GOV_TEL_IOUT w | none => current.2
    let g := s.gov q
    if s.on p R.GOV_CTRL_MODE || s.on p R.GOV_CTRL_FAULT then s.setGov q { g with changed := g.target.isSome }
    else
      let next := govRule g.v (s.rd p R.GOV_STEP_UP) (s.rd p R.GOV_STEP_DN) (max 1 (s.rd p R.GOV_STEP_HOLD)) (s.rd p R.GOV_STEP_QUIET)
        (s.rd p R.GOV_BAND_LO) (s.rd p R.GOV_BAND_HI) (govLimit (s.rd p R.GOV_LIM_VIDLE)) g.above g.quiet n late smin g.changed
      let v := next.1
      let above := next.2.1
      let quiet := next.2.2
      let v := min (max v (govLimit (s.rd p R.GOV_LIM_VMIN))) (govLimit (s.rd p R.GOV_LIM_VMAX))
      let lim := s.rd p R.GOV_STEP_QUIET
      s.govTarget q { g with v := v, above := above, quiet := quiet, changed := g.target.isSome } (decide (n = 0 ∧ lim ≠ 0 ∧ lim ≤ quiet)) g.v

/-! ### Register writes -/

/-- A manual target is commanded (R453). -/
def State.govManual (s : State) (q : Nat) : State :=
  let p := govPage q
  if s.on p R.GOV_CTRL_EN && s.on p R.GOV_CTRL_MODE then
    let v := s.rd p R.GOV_SET_MV
    (s.setGov q { s.gov q with v := v }).govChange q v
  else s

/-- GOV_SET_WRITE. -/
def State.writeGovSet (s : State) (q data : Nat) : State := (s.applyWrite (R.GOV_SET_MV.addr (govPage q) 0) data).govManual q

/-- EN is set (R454): VOUT_MODE is read; unless its mode is ULINEAR16, EN stays 0. The limits and the slew are sent, and the governor starts at the
confirmed voltage. -/
def State.govStart (s : State) (q : Nat) (mode : PmbReply) : State :=
  let p := govPage q
  let x := s.pmbRead q 0x20 mode
  let s := x.2
  match x.1 with
  | some m =>
    if m / 32 % 8 ≠ 0 then (s.wr 0x011 R.PMB_Q_MODE_OK 0 q).wr p R.GOV_CTRL_EN 0
    else
      let s := (s.wr 0x011 R.PMB_Q_MODE_OK 1 q).wr 0x011 R.PMB_Q_EXP (m % 32) q
      let s := s.pmbWrite q 0x24 (s.voutWord q (govLimit (s.rd p R.GOV_LIM_VMAX)))
      let s := s.pmbWrite q 0x2B (s.voutWord q (govLimit (s.rd p R.GOV_LIM_VMIN)))
      let s := s.pmbWrite q 0x27 (max 1 (s.rd p R.GOV_CFG_SLEW))
      s.setGov q { s.gov q with v := s.rd p R.GOV_V_VOUT, above := 0, quiet := 0, changed := false, since := s.tb }
  | none => (s.wr 0x011 R.PMB_Q_MODE_OK 0 q).wr p R.GOV_CTRL_EN 0

/-- A write of GOV_CTRL: EN set, manual mode entered (R453), OFF_EN (R456), and FAULT written to 0 (R457). -/
def State.writeGovCtrl (s : State) (q data : Nat) (mode : PmbReply) : State :=
  let p := govPage q
  let manual := s.on p R.GOV_CTRL_EN && s.on p R.GOV_CTRL_MODE
  let was := s.on p R.GOV_CTRL_EN
  let s := s.applyWrite (R.GOV_CTRL_EN.addr p 0) data
  let s := if s.on p R.GOV_CTRL_EN && !was then s.govStart q mode else s
  let s := if manual then s else s.govManual q
  s.govSettle q

/-! ### Alerts and the rail monitors (R454, R456) -/

/-- PAGE before a transaction with an address: DESIGN CHOICE (log entry 113), of the lowest quadrant that names it. -/
def State.pmbPageOf (s : State) (addr : Nat) : State :=
  match (List.range 4).find? fun q => decide (s.rd 0x011 R.PMB_Q_ADDR q = addr) with
  | some q => s.pmbPage q
  | none => s

/-- What an alert brings about: its address (none when nothing answers) and its STATUS_WORD are read, CLEAR_FAULTS is sent, and the health source is
raised. -/
def State.alertRead (s : State) (addr : Option (BitVec 7)) (status : PmbReply) : State :=
  let s := { s with out := .pmbus 0x0C 0x00 none :: s.out }
  match addr with
  | none => (s.pmbTries 3 0).2.pgEvt 0x020 10
  | some a =>
    let s := s.wr 0x011 R.PMB_ALERT_ADDR a.toNat
    let s := if (List.range 4).any fun q => decide (s.rd 0x011 R.PMB_Q_ADDR q = a.toNat) then s else s.wr 0x011 R.PMB_STAT_ARA_UNK 1
    let r3 := (s.pmbPageOf a.toNat).pmbSend a.toNat 0x79 none status.nacks status.pecs
    let ok := r3.1
    let s := r3.2
    let s := if ok then s.wr 0x011 R.PMB_ALERT_STATUS status.value.toNat else s
    ((s.pmbPageOf a.toNat).pmbPut a.toNat 0x03 none).pgEvt 0x020 10

/-- PMBUS_ALERT: `low` is the level of PMB_ALERT_N afterwards. -/
def State.pmbAlert (s : State) (addr : Option (BitVec 7)) (status : PmbReply) (low : Bool) : State :=
  if !s.pageOn 0x011 then s else (s.wr 0x011 R.PMB_STAT_ALERT (b2n low)).withBus status fun s => s.alertRead addr status

/-- No answer on the PMBus but acknowledges. -/
def noReply : PmbReply := ⟨0, 0, 0, [], none⟩

/-- The hold of a quadrant's cogs is reported once, while a cassette is on (R456, source 24). -/
def State.uvReport (s : State) (q : Nat) : State :=
  let g := s.gov q
  let low := lookD s.uvHold q false && (quadDoms q).any fun d => (s.dom d).isOn
  if low = g.held then s
  else
    let s := s.setGov q { g with held := low }
    if low then s.pgEvt 0x020 8 else s

/-- Injection bit 0 of a governor's page holds the quadrant's cogs for 10 µs as an undervoltage does (R467). -/
def State.uvInject (s : State) (q : Nat) : State := (s.setGov q { s.gov q with injUntil := some (s.tb + 10000) }).pgEvt 0x020 8

/-! ### Commands -/

def execGovernorPeriod (q : Fin 4) (iout : PmbReply) (s : State) : Result := .next (s.withBus iout fun s => s.governorPeriod q iout)
def execReadVout (q : Fin 4) (reply : PmbReply) (s : State) : Result := .next (s.withBus reply fun s => s.readVout q reply)
def execGovSetWrite (q : Fin 4) (data : Reg) (s : State) (bus : PmbReply := noReply) : Result :=
  .next (s.hostAt (govPage q) fun s => s.withBus bus fun s => s.writeGovSet q data.toNat)
def execPmbusAlert (addr : Option (BitVec 7)) (status : PmbReply) (low : Bool) (s : State) : Result := .next (s.pmbAlert addr status low)
/-- VCOG_UNDERVOLTAGE (R456). -/
def execVcogUndervoltage (q : Fin 4) (s : State) : Result := .next (({ s with uvHold := put s.uvHold q true } : State).uvReport q)
/-- VCOG_RECOVER (R456). -/
def execVcogRecover (q : Fin 4) (s : State) : Result := .next (({ s with uvHold := del s.uvHold q } : State).uvReport q)
/-- VCOG_OVERVOLTAGE (R456): source 23. -/
def execVcogOvervoltage (_q : Fin 4) (s : State) : Result := .next (s.pgEvt 0x020 7)

end Sys2Proof.Machine
end

