-- ==== Sys2Proof/Machine/Resets.lean ====
section
/-! DEFINITION. The four resets (R503, R504), loss of power, writes of PG_CTRL (R441, R530), and the OTP lifecycle that a reset derives
(R509). -/

namespace Sys2Proof.Machine

/-! ### Page soft reset (R11, R503, R530) -/

/-- The pages whose registers a page carries: itself and those that it shows through an index register. -/
def pageCarries (p q : Nat) : Bool :=
  decide (q = p) ||
  (match pageKind p, pageKind q with
   | .ev, .evsrc | .ev, .evgrp | .fab, .fabch | .fab, .fabset | .cam, .camtbl | .cam, .axis | .xing, .xingd => true
   | .chnn, .chnode => decide ((q - 0x17000) / 64 = (p - 0x0C1) / 4)
   | _, _ => false)

/-- A cadence that stays enabled through a soft reset of its page stands at the reset values of CAD_POS and CAD_RATE (R11, R263). -/
def State.softCad (s : State) (n : Nat) : State :=
  s.setCad n (if s.cadEn n then { segs := [⟨s.tb, 0, 0, 0, 0, s.tb, 1, none⟩], enabledAt := s.tb, was := [(s.tb, (s.cad n).segs)] } else {})

/-- The axis slots after a soft reset of page 0x071 (R264): an enabled slot stands in freewheel, since Off means EN = 0 (R246; DEDUCED, log entry 95). -/
def State.softAxes (s : State) : State :=
  s.enabledAxes.foldl (fun (t : State) a => t.awr a R.AX_STATE_STATE 1) { s with axes := [], tables := [], evals := [] }

/-- The journal's live state after a soft reset of page 0x060. JRN_CTRL.EN keeps its value: recording goes on with an empty FIFO, and digests with the first whole
interval from then on (DESIGN CHOICE, log entry 117); the snapshot belongs to page 0x061. -/
def State.clearJrn (s : State) : State :=
  let c := s.digStart s.tb
  { s with jrn := { snapDue := s.jrn.snapDue, snapE := s.jrn.snapE, recFrom := c,
                    digFrom := if s.rpl.going then s.jrn.digFrom else if s.on 0x060 R.JRN_CTRL_EN then some c else none,
                    items := if s.rpl.going then s.jrn.items else [] } }

/-- The live state that a page soft reset clears with the fields marked "—" and RET that show it. A cog returns to the state of R83, held at its reset
vector; its watchdog stays at 0 until it restarts. -/
def State.softLive (s : State) (p : Nat) : State :=
  match pageKind p with
  | .cog => s.setCog (p - 0x300) { pc := s.rd p R.COG_VBASE_BASE * 1024 % 0x80000, warned := true, expired := true }
  | .rel => { s with rel := s.rel.filter fun x => decide (x.1 / 256 ≠ p - 0x090) }
  | .fab => { s with chans := [], hubHold := [], outbox := [] }
  | .fio => s.safeReset.showBanks
  | .cap => { s with caps := [], capLost := [], cws := ((List.range 32).filter fun w => s.on 0x081 R.CW_CTRL_EN w).map fun w => (w, { opened := s.tb, seek := s.tb }) }
  | .q => ({ s with queues := s.queues.filter fun x => decide (x.1 / 16 ≠ p - 0x0B0) } : State).condsFalse fun q => decide (q / 16 = p - 0x0B0)
  | .chn => s.clearPort ((p - 0x0C0) / 4)
  | .chns => let n := (p - 0x0C2) / 4; s.setPort n { s.port n with seqs := [] }
  | .chnp => let n := (p - 0x0C3) / 4; s.setPort n { s.port n with par := none }
  | .cam => s.softAxes
  | .camst => { s with shadow := [] }
  | .cad => upTo 16 State.softCad s
  | .visf => let n := (p - 0x0E3) / 4; s.setLane n { s.lane n with fifo := [] }
  | .vis => (s.setLane ((p - 0x0E0) / 4) {}).laneResume ((p - 0x0E0) / 4)
  | .jrn => s.clearJrn
  | .jrne => { s with jrn := { s.jrn with snapDue := [] } }
  | .jrnr => { s with rpl := {}, jrn := { s.jrn with digFrom := if s.on 0x060 R.JRN_CTRL_EN then s.jrn.digFrom else none } }
  | .mve => { s with movers := s.movers.filter fun x => decide (x.1 / 16 ≠ p - 0x051) }
  | .tanp => s.setLink (p - 0x125) {}
  | .trc => { s with trace := [], traceLost := 0 }
  | .pel => { s with pels := [] }
  | .dl => { s with dlActed := [] }
  | .ev => s.dropEvents
  | .gov => s.setGov (p - 0x012) { since := s.tb }
  | .sys => { s with elog := [] }
  | _ => s

/-- The fields that show a pin, or what a reset alone derives from OTP: page, field, instance. -/
def pinFields : List (Nat × Fld × Nat) :=
  [(0x010, R.PWR_WAKE_LVL, 0), (0x010, R.PWR_WAKE_LVL, 1), (0x010, R.PWR_WAKE_LVL, 2), (0x010, R.PWR_WAKE_LVL, 3), (0x020, R.HLT_BRKIN_LVL, 0),
   (0x011, R.PMB_STAT_ALERT, 0), (0x000, R.SYS_RST_CAUSE, 0), (0x000, R.SYS_LC_STATE, 0)]

/-- The state with some fields as they are in another state. -/
def State.keepFields (t s : State) (l : List (Nat × Fld × Nat)) : State := l.foldl (fun (t : State) (p, f, i) => t.wr p f (s.rd p f i) i) t
def State.keepPins (t s : State) : State := t.keepFields s pinFields

/-- What no soft reset changes beside them: whether a debugger is attached (R492), and bench mode, which only its own events clear (R496). -/
def debugFields : List (Nat × Fld × Nat) := [(0x030, R.DBG_STAT_ATTACH, 0), (0x030, R.DBG_BENCH_EN, 0)]

/-- A page soft reset: the fields that R11 gives and their live state; SRST and BUSY read 1 until it completes. STALE stays (R442). -/
def State.softReset (s : State) (p : Nat) : State :=
  let stale := s.rd p R.PG_STAT_STALE
  let s := (((s.resetFields (pageCarries p) fun _ f => decide (f.keep = .soft ∨ f.keep = .aon)).keepPins s).keepFields s debugFields |>.softLive p).showInputs
  let s := if pageKind p = .rel then s.showRel (p - 0x090) else s
  (((s.wr p R.PG_STAT_STALE stale).wr p R.PG_CTRL_SRST 1).wr p R.PG_STAT_BUSY 1).resetCrossings p

/-! ### Writes of PG_CTRL (R438, R440, R441, R530) -/

/-- PG_CTRL.PWR_REQ and IDLE_AUTO: they belong to the domain whose home page this is; on page 0x07F the request is that of the eight cam banks. -/
def State.pageRequest (s : State) (p data : Nat) : State :=
  let d := pageDom p
  let s := if pageKind p = .cog then s.wr p R.PG_CTRL_IDLE_AUTO (bits data 8 1) else s.wr 0x010 R.PWR_DOM_IDLE_AUTO (bits data 8 1) d
  if p = 0x07F then upTo 8 (fun (t : State) b => t.takeRequest (56 + b) (bits data 4 2)) (s.countRequest p 0x08 (bits data 4 2) data)
  else if homePage d = some p then (s.countRequest p 0x08 (bits data 4 2) data).takeRequest d (bits data 4 2)
  else s

/-- A write of PG_CTRL. A soft reset acts before EN, which is applied when it completes (R441, R530); while the domain is not on, EN and SRST are ignored. -/
def State.writePgCtrl (s : State) (p data : Nat) : State :=
  let on := s.pageOn p
  let s := (s.wr p R.PG_CTRL_FRZ (bits data 1 1)).pageRequest p data
  let s := if on && bit data 2 then (s.softReset p).wr p R.PG_CTRL_EN 0 else s
  if bit data 0 then s.pageEnable p
  else if on && s.on p R.PG_CTRL_SRST then (s.wr p R.PG_CTRL_EN 0).wr p R.PG_STAT_EN_PENDING 0
  else s.pageDisable p

/-! ### OTP and the lifecycle (R509, R512) -/

/-- A word of the OTP. -/
def State.otp (s : State) (w : Nat) : Nat := (s.reg (0x1100 + 4 * w)).toNat
def State.setOtp (s : State) (w v : Nat) : State := s.setReg (0x1100 + 4 * w) (BitVec.ofNat 32 v)

/-- The blown bits of a value. -/
def blown (n v : Nat) : Nat := ((List.range n).filter fun i => bit v i).length

/-- The lifecycle that OTP gives: 0 DEV, 1 SECURE, 2 RETURN, 3 DEAD. -/
def lifecycleOf (w : Nat) : Nat := min 3 ((blown 8 w + 1) / 2)
def State.otpLifecycle (s : State) : Nat := lifecycleOf (s.otp 6)

/-- The lifecycle in force since the latest device reset, SYS_LC.STATE. -/
def State.lifecycle (s : State) : Nat := s.rd 0x000 R.SYS_LC_STATE

/-- The repair map that OTP holds is installed (R29, R32, R507 step 1): a cassette whose byte is 0x1F has an unused spare, as at reset. The
requests of the cog gates follow it (R437). -/
def State.installMap (s : State) : State :=
  upTo 16 (fun (t : State) c =>
    let b := bits (t.otp (59 + c / 4)) (8 * (c % 4)) 8
    let k := b % 32
    let t := if bit b 5 then t.wr (0x200 + c) R.CAS_MAP_SPARE_BAD 1 else t
    if k = 31 then t
    else
      let t := t.wr (0x200 + c) R.CAS_MAP_SPARE_FOR k
      if k < 16 then (t.wr (cogPage (17 * c + k)) R.PG_CTRL_PWR_REQ 0).wr (cogPage (17 * c + 16)) R.PG_CTRL_PWR_REQ 3 else t) s

/-! ### Device reset, power-on reset and loss of power (R503, R504, R513, R526) -/

/-- The pins as the world drives them: their input levels outlive a reset of the device. -/
def State.pinLevels (s : State) : Sparse Pin := s.pins.map fun (n, x) => (n, { inp := x.inp, shown := x.shown })

/-- What is left of a reset of everything: OTP, the contents of MRAM with their check bits, and the levels of the pins; the model's own fields go on. -/
def State.afterReset (s : State) (cause : Nat) : State :=
  let inMram := fun (a : Nat) => decide (0x2000000 ≤ a ∧ a < 0x2800000 ∨ 0x4000000 ≤ a ∧ a < 0x5000000)
  let t : State := { State.reset with
    regs := s.regs.filter fun c => decide (0x1100 ≤ c.1 ∧ c.1 < 0x1200),
    mem := s.mem.filter fun c => inMram c.1,
    bad := s.bad.filter fun c => inMram c.1,
    pins := s.pinLevels, misBanks := s.misBanks, uvHold := s.uvHold, vmramLow := s.vmramLow, inputs := s.inputs, erased := s.erased,
    out := s.out, free := s.free, pending := s.pending }
  let t := t.keepPins s
  let t := if !s.on 0x020 R.HLT_BRAKE_ACTIVE then { t with out := .brakeOut true :: t.out } else t
  let t := (t.wr 0x000 R.SYS_RST_CAUSE cause).wr 0x000 R.SYS_LC_STATE t.otpLifecycle
  t.installMap.showInputs.showBanks

/-- Device reset: the timebase and its holdover state are kept: HOLD and REF_OK, an alignment in progress with its SLEW, and the stamps of entry and exit; the
other fields of its page take their reset values (R503). The brake cause RESET is applied now. -/
def State.deviceReset (s : State) (cause : Nat) : State :=
  let t := s.afterReset cause
  let t := { t with tb := s.tb, aligning := s.aligning, timeref := s.timeref }
  let t := [R.TB_STAT_HOLD, R.TB_STAT_REF_OK, R.TB_HOLD_IN_STAMP, R.TB_HOLD_OUT_STAMP].foldl (fun (t : State) f => t.wr 0x070 f (s.rd 0x070 f)) t
  let t := t.wr 0x070 R.TB_STAT_SLEW (b2n s.aligning)
  (t.wr 0x020 R.HLT_BRK_T_LO_STAMP t.now).wr 0x020 R.HLT_BRK_T_HI_STAMP (t.now / 2 ^ 32)

/-- A requested device reset waits for the end of an OTP blow (R513). -/
def State.requestReset (s : State) (cause : Nat) : State :=
  match s.blow with
  | some _ => { s with resetWaits := some cause }
  | none => s.deviceReset cause

/-- What a loss of power leaves of the granules whose bytes still waited: the old or the new contents, a free value (R188, log entry 4). -/
def State.mramCut (s : State) : State :=
  ((s.mramWait.map fun x => x.1 / 16 * 16).dedup).foldl (fun (t : State) g =>
    let r1 := t.freeDraw 1
    if r1.1 = 1 then r1.2.mramWrite (t.mramWait.filter fun x => decide (x.1 / 16 * 16 = g)) else r1.2) s

/-- The words that a blow of LIFECYCLE bits can leave when it is cut short (R509): the bits are blown one at a time in ascending order, and what is left is an
odd count in a later state. -/
def lifecycleCuts (old v : Nat) : List Nat :=
  let new := (List.range 8).filter fun i => bit v i && !bit old i
  ((List.range new.length).map fun k => (new.take (k + 1)).foldl (fun w i => setBits w i 1 1) old).filter fun w =>
    decide (blown 8 w % 2 = 1 ∧ lifecycleOf old < lifecycleOf w)

/-- What is left of a blow cut short: a subset of the requested bits (R513), of the LIFECYCLE word one of the words that R509 allows; which of them is a
free value (log entry 4). -/
def State.otpCut (s : State) : State :=
  match s.blow with
  | some (w, v) =>
    let r := s.freeDraw 32
    let cuts := lifecycleCuts (s.otp 6) v
    if w = 6 then r.2.setOtp 6 (cuts.getD (r.1 % max 1 cuts.length) (s.otp 6 ||| v)) else r.2.setOtp w (s.otp w ||| (v &&& r.1))
  | none => s

/-- Power-on: everything is reset, the timebase among it. HOLD and REF_OK follow TIMEREF as PORST_N is released: without it the timebase starts in holdover
(R230, R261). With one of VAON, VCORE and VSRAM out of range at the release the device holds itself in reset (R526). -/
def State.powerOn (s : State) (timeref railsOk : Bool) : State :=
  let t := s.otpCut.afterReset 1
  let t := { t with timeref := { gone := !timeref } }
  let t := if railsOk then t else { t with boot := .held, doms := (List.range 4).map fun d => (d, { st := .off }) }
  (t.wr 0x070 R.TB_STAT_HOLD (b2n (!timeref))).wr 0x070 R.TB_STAT_REF_OK (b2n timeref)

/-- The device held in reset proceeds once its monitors find the three rails within range (R526). -/
def State.releaseHold (s : State) (out : Nat) : State :=
  if s.boot = .held ∧ Nat.land out 0x23 = 0 then { s with doms := [], boot := .start } else s

/-- PERST_N low with BOOT.PERST_RST 0: the configuration space, the MSI-X table and the state of the link (R503); accesses to host memory fail until the link
has trained again (R504). -/
def State.pcieReset (s : State) : State :=
  let s := { s with regs := s.regs.filter fun c => !decide (0x121400 ≤ c.1 ∧ c.1 < 0x121C00), pcie := {}, aer := 0, perst := true }
  ((s.wr 0x120 R.PCIE_STAT_SPEED 0).wr 0x120 R.PCIE_STAT_WIDTH 0).wr 0x120 R.PCIE_STAT_L1 0

/-! ### Commands -/

/-- POWER_ON_RESET: an MRAM write in progress completes before the reset takes effect (R526). `rails` says which of VAON, VCORE and VSRAM lie out of range at
the release. -/
def execPowerOnReset (s : State) (timeref : Bool := true) (rails : BitVec 3 := 0) : Result :=
  .next ((s.mramWrite s.mramWait).powerOn timeref (decide (rails = 0)))
/-- POWER_LOSS (R188, R513, R526): what is left is what the next power-on finds. -/
def execPowerLoss (s : State) (timeref : Bool := true) (rails : BitVec 3 := 0) : Result := .next (s.mramCut.powerOn timeref (decide (rails = 0)))
/-- DEVICE_RESET: a write of SYS_RST; GO acts with KEY 0xD5. -/
def execDeviceReset (data : Reg) (s : State) : Result :=
  .next (s.hostAt 0x000 fun s => if bit data.toNat 8 && decide (bits data.toNat 0 8 = 0xD5) then s.requestReset 2 else s)
/-- PERST (R503, R512): BOOT.PERST_RST selects the device reset. -/
def execPerst (s : State) : Result := .next (if bit (s.otp 7) 2 then s.requestReset 3 else s.pcieReset)
/-- PAGE_SOFT_RESET: a write of PG_CTRL with SRST. -/
def execPageSoftReset (page : Fin 0x410) (data : Reg) (s : State) : Result :=
  .next (s.host fun s => if (pageKind page).hasHeader then s.writePgCtrl page (setBits data.toNat 2 1 1) else s)
/-- PG_CTRL_ENABLE: a write of PG_CTRL with EN = 1. -/
def execPgCtrlEnable (page : Fin 0x410) (data : Reg) (s : State) : Result :=
  .next (s.host fun s => if (pageKind page).hasHeader then s.writePgCtrl page (setBits data.toNat 0 1 1) else s)
/-- PCIE_LINK_DOWN (R379): counted; the link has no speed or width. -/
def execPcieLinkDown (s : State) : Result :=
  .next ((((s.bump 0x120 R.PCIE_STAT_LINKDN).wr 0x120 R.PCIE_STAT_SPEED 0).wr 0x120 R.PCIE_STAT_WIDTH 0).wr 0x120 R.PCIE_STAT_L1 0)
/-- PCIE_LINK_UP (R363, R379): training starts at boot step 2 (R523). No row writes the configuration space: the command carries what the host has set there (PRESUMED, log entry 101). -/
def execPcieLinkUp (speed : BitVec 2) (width : BitVec 3) (s : State) (l1 : Bool := false) (conf : PcieConf := {}) (aerClear : BitVec 32 := 0) : Result :=
  .next (if s.boot = .held ∨ s.boot = .start then s else s.pcieLink speed.toNat width.toNat l1 conf aerClear)

end Sys2Proof.Machine
end

