-- ==== Sys2Proof/Machine/Health.lean ====
section
/-! DEFINITION. Temperature, rails, the loss of SREF, the cog watchdogs, and the brake input and register (R459, R476 to R485). -/

namespace Sys2Proof.Machine

/-! ### Temperature and rails (R476, R477) -/

/-- Whether a sensor is in a state after a conversion: it enters at the threshold and leaves 5 °C below it. Temperatures in units of 0.25 °C. -/
def tempState (was : Bool) (t : Int) (threshold : Nat) : Bool :=
  decide ((4 * threshold : Int) ≤ t) || (was && decide ((4 * threshold : Int) - 20 < t))

/-- TEMP_CONVERSION: a sensor's value, its states with their sources, and the brake cause TEMP while one is critical. Injection bits 1 and 2
report a state on TS0 for one conversion. -/
def State.tempConversion (s : State) (n : Nat) (v : BitVec 12) : State :=
  if !s.pageOn 0x020 then s
  else
    let t := signed v.toNat 12
    let injW := decide (n = 0) && s.injArmed 0x020 1
    let injC := decide (n = 0) && s.injArmed 0x020 2
    let s := if injW then s.injTake 0x020 1 else s
    let s := if injC then s.injTake 0x020 2 else s
    let wasW := s.on 0x020 R.HLT_TEMP_WARN n
    let wasC := s.on 0x020 R.HLT_TEMP_CRIT n
    let w := injW || tempState wasW t (s.rd 0x020 R.HLT_TCFG_WARN)
    let c := injC || tempState wasC t (s.rd 0x020 R.HLT_TCFG_CRIT)
    let s := ((s.wr 0x020 R.HLT_TEMP_T v.toNat n).wr 0x020 R.HLT_TEMP_WARN (b2n w) n).wr 0x020 R.HLT_TEMP_CRIT (b2n c) n
    let s := if w && !wasW then s.pgEvt 0x020 4 else s
    let s := if c && !wasC then s.pgEvt 0x020 5 else s
    if s.tempPresent then s.brake .temp else s

/-- MRAM writes that waited are made once VMRAM is back in its window (R477). -/
def State.mramWaited (s : State) : State :=
  if s.mramWritable && !s.mramWait.isEmpty then { s.mramWrite s.mramWait with mramWait := [] } else s

/-- HLT_RAIL takes the rails outside their windows; one that newly leaves raises source 22. -/
def State.showRails (s : State) (low high : Nat) : State :=
  let left := Nat.lor (Nat.land low (63 - s.rd 0x020 R.HLT_RAIL_LOW)) (Nat.land high (63 - s.rd 0x020 R.HLT_RAIL_HIGH))
  let s := (s.wr 0x020 R.HLT_RAIL_LOW low).wr 0x020 R.HLT_RAIL_HIGH high
  let s := if left ≠ 0 then s.pgEvt 0x020 6 else s
  s.mramWaited

/-- RAIL_SAMPLE: an injected report keeps VCORE shown below its window until its end. -/
def State.railSample (s : State) (low high : Nat) : State :=
  let s := ({ s with vmramLow := bit low 4 } : State).releaseHold (Nat.lor low high)
  if !s.pageOn 0x020 then s.mramWaited
  else s.showRails (if s.railUntil.isSome then setBits low 0 1 1 else low) high

/-- Injection bit 3 of page 0x020 reports VCORE below its window for 1 ms. -/
def State.railInject (s : State) : State :=
  ({ s with railUntil := some (s.tb + 1000000) } : State).showRails (setBits (s.rd 0x020 R.HLT_RAIL_LOW) 0 1 1) (s.rd 0x020 R.HLT_RAIL_HIGH)

/-- SREF_LOSS (R459): source 28, and every SerDes domain that is on loses lock: lanes that are Up fall to Discovery, tandem ports go down. A chain port
loses its frames, which its own rules meet. -/
def State.srefLoss (s : State) : State :=
  let s := s.pgEvt 0x020 12
  let s := { s with unlocked := (((List.range 24).map (24 + ·)) ++ [48, 49]).filter s.domOn }
  let s := upTo 16 (fun (t : State) n => if t.pageOn (visPage n) && decide (t.lnState n = lnUp) then t.lnFall n else t) s
  upTo 2 (fun (t : State) i => if t.pageOn (0x125 + i) then t.portDown i none else t) s

/-! ### Cog watchdogs (R478, R479) -/

/-- Whether a cog's watchdog is held: while the cog is halted with FRZ = 1, in a WAIT without WAITRUN, after an expiry, or with its gate not on. -/
def State.wdtHeld (s : State) (i : Nat) : Bool :=
  let c := s.cog i
  let p := cogPage i
  !s.domOn (64 + i) || decide (s.rd p R.COG_WDT_RELOAD = 0) || c.expired || (decide (c.run = .halted) && s.on p R.PG_CTRL_FRZ) ||
  (c.wait.isSome && !s.on p R.COG_WDT_WAITRUN)

/-- The cog enters vector 8: the warning, in truth or by injection, which leaves the count's own warning to come. -/
def State.vector8 (s : State) (i : Nat) : State := s.setCog i { s.cog i with warn8 := true }
def State.wdtWarn (s : State) (i : Nat) : State := (s.vector8 i).setCog i { s.cog i with warn8 := true, warned := true }

/-- The watchdog expires: EXP, the capture, source 19 and the action. Its halt and its soft reset do not act on a cog that is halted. -/
def State.wdtExpire (s : State) (i : Nat) : State :=
  let p := cogPage i
  let c := s.cog i
  let s := s.setCog i { c with expired := true, warned := true }
  let s := (s.wr p R.COG_WDT_CNT_COUNT 0).wr p R.COG_WDT_CNT_EXP 1
  let s := ((s.capture 0x020 R.HLT_WDT_CAP_VALID R.HLT_WDT_CAP_OVR).wr 0x020 R.HLT_WDT_CAP_COG i).wr 0x020 R.HLT_WDT_CAP_PC c.pc
  let s := s.pgEvt 0x020 3
  let halted := decide (c.run = .halted)
  match s.rd p R.COG_WDT_ACTION with
  | 0 => s.wdtRestart i
  | 1 => if halted then s else (s.requestHalt i ⟨5, 0⟩).settle
  | 2 => (if halted then s else (s.requestHalt i ⟨5, 0⟩).settle).brake .watchdog
  | _ => if halted then s else (s.softReset p).wr p R.PG_CTRL_EN 0

/-- WATCHDOG_WARNING: the count has fallen to WARN. A count that starts at or below WARN gives none. -/
def State.wdtReachWarn (s : State) (i : Nat) : State :=
  let p := cogPage i
  let w := s.rd p R.COG_WDT_WARN
  if !s.wdtHeld i && !(s.cog i).warned && decide (0 < w ∧ w < s.rd p R.COG_WDT_RELOAD ∧ s.rd p R.COG_WDT_CNT_COUNT ≤ w) then s.wdtWarn i else s

/-- WATCHDOG_EXPIRY: the count has reached 0. -/
def State.wdtReachZero (s : State) (i : Nat) : State :=
  if !s.wdtHeld i && decide (s.rd (cogPage i) R.COG_WDT_CNT_COUNT = 0) then s.wdtExpire i else s

/-- A whole microsecond of the timebase passes for a watchdog. -/
def State.wdtCount (s : State) (i : Nat) : State :=
  if s.wdtHeld i then s else s.wr (cogPage i) R.COG_WDT_CNT_COUNT (s.rd (cogPage i) R.COG_WDT_CNT_COUNT - 1)

/-- A write of COG_WDT restarts the count from the RELOAD written. -/
def State.writeCogWdt (s : State) (i data : Nat) : State := (s.applyWrite (R.COG_WDT_RELOAD.addr (cogPage i) 0) data).wdtRestart i

/-- A write of COG_WDT_CNT: EXP, and KICK. -/
def State.writeCogWdtCnt (s : State) (i data : Nat) : State :=
  let s := s.applyWrite (R.COG_WDT_CNT_COUNT.addr (cogPage i) 0) data
  if bit data 16 then s.wdtRestart i else s

/-! ### The brake input and register (R483, R485) -/

/-- BRAKE_IN: the filtered input is active, and so is the cause while it stays so. -/
def State.brakeIn (s : State) : State :=
  let was := s.on 0x020 R.HLT_BRKIN_LVL
  let s := s.wr 0x020 R.HLT_BRKIN_LVL 0
  let s := if was then s.pgEvt 0x020 2 else s
  s.brake .brakeIn

/-- Injection bit 0 of page 0x020 (R498): BRAKE_IN_N is active for one filter period. -/
def State.brakeInInject (s : State) : State :=
  (({ s with brkUntil := some (s.tb + 4 * s.rd 0x020 R.HLT_BRKIN_FILT) } : State).pgEvt 0x020 2).brake .brakeIn

/-- HLT_BRAKE.CLR: clears the latch while no cause is present; else it is ignored and CLR_REJ set. -/
def State.brakeClear (s : State) : State :=
  if s.brakePresent ≠ 0 then s.wr 0x020 R.HLT_BRAKE_CLR_REJ 1
  else if !s.on 0x020 R.HLT_BRAKE_ACTIVE then s
  else
    let s := (s.wr 0x020 R.HLT_BRAKE_ACTIVE 0).wr 0x020 R.HLT_BRAKE_CAUSES 0
    let s := ({ s with out := .brakeOut false :: s.out } : State).pgEvt 0x020 1
    if s.on 0x032 R.TRC_CTRL_BRAKE then s.tracePut { stamp := s.now, type := 5 } else s

/-- A write of HLT_BRAKE. -/
def State.writeHltBrake (s : State) (data : Nat) : State :=
  let s := s.applyWrite (R.HLT_BRAKE_ACTIVE.addr 0x020 0) data
  let s := if bit data 1 then s.brake .host else s
  if bit data 2 then s.brakeClear else s

/-- A write of HLT_TCFG: CRIT_BRAKE set while a sensor is critical makes TEMP present. -/
def State.writeHltTcfg (s : State) (data : Nat) : State :=
  let s := s.applyWrite (R.HLT_TCFG_WARN.addr 0x020 0) data
  if s.tempPresent then s.brake .temp else s

/-! ### Commands -/

def execTempConversion (sensor : Fin 5) (t : BitVec 12) (s : State) : Result := .next (s.tempConversion sensor t)
def execRailSample (low high : BitVec 6) (s : State) : Result := .next (s.railSample low.toNat high.toNat)
def execSrefLoss (s : State) : Result := .next s.srefLoss
def execWatchdogWarning (cog : CogId) (s : State) : Result := .next (s.wdtReachWarn cog)
def execWatchdogExpiry (cog : CogId) (s : State) : Result := .next (s.wdtReachZero cog)
def execWatchdogKick (cog : CogId) (s : State) : Result := .next (s.hostAt (cogPage cog) fun s => s.wdtRestart cog)
def execBrakeIn (s : State) : Result := .next s.brakeIn
def execBrakeInRelease (s : State) : Result := .next (s.wr 0x020 R.HLT_BRKIN_LVL 1)
def execHltBrakeSet (s : State) : Result := .next (s.hostAt 0x020 fun s => s.writeHltBrake 2)
def execHltBrakeClr (s : State) : Result := .next (s.hostAt 0x020 fun s => s.writeHltBrake 4)

end Sys2Proof.Machine
end

