-- ==== Sys2Proof/Machine/Debug.lean ====
section
/-! DEFINITION. Halting, stepping and debug access of cogs (R490, R491), pelotons (R494), bench mode (R496) and the trace buffer (R497). -/

namespace Sys2Proof.Machine

/-! ### Halt, resume and step (R490) -/

/-- A halted cog goes on, for one bundle where it is stepped: what its halt withdrew is presented again, and the bundle at a breakpoint that it hit
runs. A watchdog that was held, or that has expired, restarts (R479). A locked-up cog stays stopped (R148). -/
def State.resumeCog (s : State) (i : Nat) (step : Bool) : State :=
  let c := s.cog i
  if c.run ≠ .halted ∨ c.lockup then s
  else
    let p := cogPage i
    let s := if s.on p R.PG_CTRL_FRZ ∨ c.expired then s.wdtRestart i else s
    let c := { s.cog i with run := .issuing, haltReq := none, stall := none, stepOne := step, stepEvent := step && s.on p R.COG_DBG_STEPEV,
                            brkSkip := if (step || decide (c.haltInfo.cause = 3)) && c.atBoundary then some c.pc else none }
    let s := (s.setCog i c).breakIdle (casOf i)
    let s := if s.on 0x032 R.TRC_CTRL_HALTS then s.tracePut { stamp := s.now, type := 2, src := s.traceSrc i, value := c.pc } else s
    s.tryFinish i

/-- A write of COG_DBG: the lasting fields first, then HALT, RESUME and STEP. -/
def State.writeCogDbg (s : State) (i data : Nat) : State :=
  let s := (s.applyWrite (R.COG_DBG_HALT.addr (cogPage i) 0) data).brakeIfHalt
  let s := if bit data 0 then (s.requestHalt i ⟨1, 0⟩).settle else s
  let s := if bit data 1 then s.resumeCog i false else s
  if bit data 2 then s.resumeCog i true else s

/-! ### Port values (R491) -/

/-- The width of COG_DBG_PORT. -/
def State.dbgWidth (s : State) (i : Nat) : Option Width :=
  match s.rd (cogPage i) R.COG_DBG_PORT_WIDTH with | 0 => some .word | 1 => some .long | 2 => some .triple | _ => none

/-- The value that the selected source port holds; none for any other code or while the cog is not halted. -/
def State.dbgSource (s : State) (i : Nat) : Option Nat :=
  let c := s.cog i
  let p := cogPage i
  if c.run ≠ .halted ∨ s.on p R.COG_DBG_PORT_DST then none
  else match srcOf (s.rd p R.COG_DBG_PORT_CODE), s.dbgWidth i with
    | some (.g n), some w => if n % w.align = 0 then some (c.gGroup n w) else none
    | some (.port q), some w => some (c.portValue q % 2 ^ w.bits)
    | _, _ => none

/-- A read of COG_DBG_VAL_LO samples the selected source port; true when it does. -/
def State.dbgRead (s : State) (i : Nat) : Bool × State :=
  match s.dbgSource i with
  | some v => (true, (s.wr (cogPage i) R.COG_DBG_VAL_LO_VALUE v).wr (cogPage i) R.COG_DBG_VAL_HI_VALUE (v / 2 ^ 32))
  | none => (false, s)

/-- A write of COG_DBG_VAL_LO places the value in the selected g-register, operand port, ctl.sp or ctl.flags; true when it does. -/
def State.dbgPlace (s : State) (i data : Nat) : Bool × State :=
  let c := s.cog i
  let p := cogPage i
  let v := data + c.dbgHi * 2 ^ 32
  if c.run ≠ .halted ∨ ¬ s.on p R.COG_DBG_PORT_DST then (false, s)
  else match dstOf (s.rd p R.COG_DBG_PORT_CODE), s.dbgWidth i with
    | some (.g n), some w => if n % w.align = 0 then (true, s.setCog i (c.setGroup n w v)) else (false, s)
    | some (.port q), some w => (true, s.setCog i (c.writePort q w (v % 2 ^ w.bits)))
    | _, _ => (false, s)

/-- A write of COG_DBG_VAL_HI holds bits [41:32]; dropped while the cog is not halted. -/
def State.dbgHold (s : State) (i data : Nat) : Bool × State :=
  let c := s.cog i
  if c.run ≠ .halted then (false, s) else (true, s.setCog i { c with dbgHi := data % 1024 })

/-! ### Pelotons (R494) -/

/-- PEL_CFGg.RESUME: the peloton may fire again, and every halted member resumes. -/
def State.pelResume (s : State) (g : Nat) : State :=
  (s.pelMembers g).foldl (fun (t : State) i => t.resumeCog i false) { s with pels := del s.pels g }

/-- A write of PEL_CFGg. -/
def State.writePelCfg (s : State) (g data : Nat) : State :=
  let s := s.applyWrite (R.PEL_CFG_GO.addr 0x031 g) data
  let s := if bit data 8 then (s.pelTrigger g).settle else s
  if bit data 9 then s.pelResume g else s

/-- The members of a triggered peloton that are still to halt. -/
def State.pelLag (s : State) (g : Nat) : Nat :=
  if (s.pel g).triggered then ((s.pelMembers g).filter fun i => decide ((s.cog i).run ≠ .halted)).length else 0

/-! ### Bench mode (R496) -/

/-- Bench mode takes a value, and source 35 is raised at a change. Without it the brake cause HALT may be present (R483). -/
def State.setBench (s : State) (by_ : Option Nat) : State :=
  let was := s.on 0x030 R.DBG_BENCH_EN
  let s := ({ s with benchBy := by_ } : State).wr 0x030 R.DBG_BENCH_EN (b2n by_.isSome)
  let s := if was = by_.isSome then s else s.pgEvt 0x020 19
  s.brakeIfHalt

/-- A write of DBG_BENCH by a debug access unit at level 3: refused unless every chain port is in OFF, SILENT or SAFE. -/
def State.writeBench (s : State) (j data : Nat) : State :=
  let s := if bit data 1 then s.wr 0x030 R.DBG_BENCH_REFUSE 0 else s
  if !bit data 0 then (if s.on 0x030 R.DBG_BENCH_EN then s.setBench none else s)
  else if (List.range 8).all fun p => decide (s.chnState p ≤ chSilent ∨ s.chnState p = chSafe) then s.setBench (some j)
  else s.wr 0x030 R.DBG_BENCH_REFUSE 1

/-! ### Trace (R497, R501) -/

/-- The 128 bits of a trace packet. -/
def TracePacket.bits (k : TracePacket) : Nat :=
  k.stamp + k.type * 2 ^ 42 + k.src * 2 ^ 46 + k.port * 2 ^ 54 + k.width * 2 ^ 59 + k.value * 2 ^ 64

/-- TRC_POP: the oldest packet is removed. -/
def State.tracePop (s : State) (data : Nat) : State := if bit data 0 then { s with trace := s.trace.tail } else s

/-! ### Commands -/

/-- A command that is a write of COG_DBG with one of its actions. -/
def execCogHalt (cog : CogId) (data : Reg) (s : State) : Result :=
  .next (s.hostAt (cogPage cog) fun s => s.writeCogDbg cog (setBits data.toNat 0 1 1))
def execCogResume (cog : CogId) (data : Reg) (s : State) : Result :=
  .next (s.hostAt (cogPage cog) fun s => s.writeCogDbg cog (setBits data.toNat 1 1 1))
def execCogStep (cog : CogId) (data : Reg) (s : State) : Result :=
  .next (s.hostAt (cogPage cog) fun s => s.writeCogDbg cog (setBits data.toNat 2 1 1))
def execDbgValWrite (cog : CogId) (data : Reg) (s : State) : Result := .next (s.hostAt (cogPage cog) fun s => (s.dbgPlace cog data.toNat).2)
def execDbgValHiWrite (cog : CogId) (data : Reg) (s : State) : Result := .next (s.hostAt (cogPage cog) fun s => (s.dbgHold cog data.toNat).2)
/-- DBG_VAL_READ by the host: the sample's low bits are returned; an access that is dropped returns 0. -/
def execDbgValRead (cog : CogId) (s : State) : Result :=
  .next (s.host fun s =>
    let a := R.COG_DBG_VAL_LO_VALUE.addr (cogPage cog) 0
    let r1 := s.dbgRead cog
    let ok := r1.1
    let t := r1.2
    if s.pageOn (cogPage cog) && ok then { t with out := .regRead a (t.reg a) :: t.out } else { s with out := .regRead a 0 :: s.out })
def execPelotonGo (g : Fin 8) (data : Reg) (s : State) : Result :=
  .next (s.hostAt 0x031 fun s => s.writePelCfg g (setBits data.toNat 8 1 1))
def execPelotonResume (g : Fin 8) (data : Reg) (s : State) : Result :=
  .next (s.hostAt 0x031 fun s => s.writePelCfg g (setBits data.toNat 9 1 1))
def execTrcPop (data : Reg) (s : State) : Result := .next (s.hostAt 0x032 fun s => s.tracePop data.toNat)

end Sys2Proof.Machine
end

