-- ==== Sys2Proof/Machine/Boot.lean ====
section
/-! DEFINITION. The boot engine (R505 to R508), OTP programming (R513), the system error log (R514) and injection (R473, R474). -/

namespace Sys2Proof.Machine

/-! ### The boot record (R505, R506) -/

/-- The boot engine reads a stretch of a program MRAM through its detectors (R189): what a granule holds is used as it stands. -/
def State.bootRead (s : State) (c a n : Nat) : State :=
  ((List.range ((a + n + 15) / 16 - a / 16)).map (a / 16 + ·)).foldl (fun (t : State) g => (t.readProg c (16 * g)).2) s

/-- The logical cogs that START names. -/
def State.bootCogs (s : State) : List (Nat × Nat) :=
  (List.range 256).filterMap fun x => if bit (s.recWord (16 + 2 * (x / 16)) 2) (x % 16) then some (x / 16, x % 16) else none

/-- Whether two regions overlap. -/
def regionsMeet (a b : Nat × Nat × Nat) : Bool := decide (a.1 = b.1 ∧ a.2.1 < b.2.1 + b.2.2 ∧ b.2.1 < a.2.1 + a.2.2)

/-- Whether the record's regions are refused. -/
def State.areasBad (s : State) : Bool :=
  let n := s.recByte 6
  let rs := s.bootAreas
  decide (n = 0 ∨ 16 < n) || rs.any regionBad ||
  (List.range rs.length).any fun i => (List.range i).any fun j => regionsMeet (rs.getD i (0, 0, 0)) (rs.getD j (0, 0, 0))

/-- The bytes of an OTP field, most significant byte of each word first (R510's order of bytes; log entry 34). -/
def State.otpBytes (s : State) (w n : Nat) : List Byte := (List.range n).flatMap fun i => Crypto.beBytes 4 (s.otp (w + i))

/-- Whether the public key is accepted (R506). -/
def State.bootKeyOk (s : State) : Bool :=
  let k := s.recByte 7
  let slot := s.otpBytes (10 + 8 * k) 8
  decide (k < 4) && slot.any (· ≠ 0) && !bit (s.otp 7) (4 + k) && decide (Crypto.sha256 (s.bytes (bootRecord + 176) 64) = slot)

/-- The blown bits of OTP SVN. -/
def State.svnMin (s : State) : Nat := blown 32 (s.otp 8) + blown 32 (s.otp 9)

/-- What is found against the record at step 4; 0 is nothing. In lifecycle RETURN no image check is made (R509). -/
def State.bootCause (s : State) : Nat :=
  if s.lifecycle = 3 then 6
  else if s.lifecycle = 2 then 0
  else if s.recWord 0 4 ≠ 0x42525348 ∨ s.recWord 4 2 ≠ 1 then 1
  else if s.areasBad then 2
  else if !s.bootKeyOk then 3
  else if s.recWord 8 4 < s.svnMin then 4
  else 0

/-- Whether SIG verifies over the digest of the record and its regions. -/
def State.bootSigned (s : State) : Bool :=
  let msg := s.bytes bootRecord 240 ++ s.bootAreas.flatMap fun r => s.bytes (progBase r.1 + r.2.1) r.2.2
  let part := fun o => Crypto.beNat (s.bytes (bootRecord + o) 32)
  Crypto.verifies (part 176, part 208) (Crypto.sha256 msg) (part 240) (part 272)

/-! ### The boot sequence (R507) -/

/-- Whether a failure is overruled: lifecycle DEV with SB_EN = 0. -/
def State.bootLax (s : State) : Bool := decide (s.lifecycle = 0) && !bit (s.otp 7) 3

/-- Step 8. -/
def State.bootFail (s : State) (cause : Nat) : State :=
  let s := (s.wr 0x000 R.SYS_BOOT_STATE 4).wr 0x000 R.SYS_BOOT_CAUSE cause
  if bit (s.otp 7) 1 && decide (s.lifecycle < 2) then { s.wr 0x000 R.SYS_BOOT_STATE 5 with boot := .host } else { s with boot := .done }

/-- Step 7. -/
def State.bootPass (s : State) (cause : Nat) : State :=
  let s := (s.wr 0x000 R.SYS_BOOT_STATE 3).wr 0x000 R.SYS_BOOT_WARN (b2n (cause ≠ 0))
  let s := if cause = 0 then s.wr 0x000 R.SYS_SVN_REC (s.recWord 8 4) else s
  let s := if bit (s.recWord 12 4) 0 then s.wr 0x010 R.PWR_CTRL_MODE 0 else s
  s.bootCogs.foldl (fun (t : State) (c, k) => t.pageEnable (cogPage (t.physOf c k))) { s with boot := .done }

/-- Steps 1 and 2, and with a host source step 3. -/
def State.bootStart (s : State) : State :=
  let s := (s.wr 0x000 R.SYS_BOOT_STATE 1).startWake 8
  if bit (s.otp 7) 0 then { s.wr 0x000 R.SYS_BOOT_STATE 5 with boot := .host } else { s with boot := .check }

/-- The erase of the first boot in lifecycle RETURN (R509). -/
def State.bootErase (s : State) : State :=
  if s.lifecycle = 2 ∧ ¬ s.erased then { (s.clearRange 0x2000000 0x800000).clearRange 0x4000000 0x1000000 with erased := true } else s

/-- Step 4, and the start of step 5: every cassette that a region or START names is turned on. -/
def State.bootCheck (s : State) : State :=
  let s := s.bootErase.bootRead 0 0x7FE00 304
  let cause := s.bootCause
  if cause ≠ 0 ∧ ¬ s.bootLax then s.bootFail cause
  else
    let named := sortNat (s.goodAreas.map (·.1) ++ s.bootCogs.map (·.1)).dedup
    let s := named.foldl (fun (t : State) c => if t.domOn (8 + c) then t else t.startWake (8 + c)) s
    { s.wr 0x000 R.SYS_BOOT_STATE 2 with boot := .verify cause }

/-- The rest of step 5 with steps 6 to 8. -/
def State.bootVerify (s : State) (cause : Nat) : State :=
  let s := s.goodAreas.foldl (fun (t : State) r => t.bootRead r.1 r.2.1 r.2.2) s
  let cause := if cause = 0 ∧ s.lifecycle ≠ 2 ∧ ¬ s.bootSigned then 5 else cause
  if cause = 0 ∨ s.bootLax then s.bootPass cause else s.bootFail cause

/-- Whether a domain changes. -/
def State.changing (s : State) (d : Nat) : Bool := (s.dom d).going.isSome

/-- BOOT: the boot engine takes its next steps, once the domains that they need have changed (R507). -/
def State.bootStep (s : State) : State :=
  match s.boot with
  | .start => s.bootStart
  | .check => if s.changing 8 then s else s.bootCheck
  | .verify cause =>
    if (List.range 16).any (fun c => s.changing (8 + c)) || s.bootCogs.any (fun x => s.changing (64 + s.physOf x.1 x.2)) then s
    else s.bootVerify cause
  | .held | .host | .done => s

/-- A write of SYS_BOOT: GO while the engine waits for the host. -/
def State.bootGo (s : State) (data : Nat) : State :=
  if bit data 8 ∧ s.boot = .host then { s.wr 0x000 R.SYS_BOOT_STATE 1 with boot := .check } else s

/-! ### OTP programming (R513) -/

/-- The level of a debug access unit: what a challenge or DROP set, else what the lifecycle gives without one (R509). -/
def State.dau (s : State) (j : Nat) : Dau := lookD s.daus j {}
def State.setDau (s : State) (j : Nat) (x : Dau) : State := { s with daus := put s.daus j x }
def State.dauLevel (s : State) (j : Nat) : Nat := (s.dau j).granted.getD (if s.lifecycle = 0 ∨ s.lifecycle = 2 then 3 else 0)

/-- Whether the bits to blow are a step of the lifecycle (R509): the next two bits, which give SECURE or RETURN, or every bit, which gives DEAD. DESIGN
CHOICE (log entry 35): the device refuses any other write of the LIFECYCLE word. -/
def lifecycleStep (old v : Nat) : Bool :=
  let n := Nat.lor old v % 256
  decide (v < 256) && (decide (n = 255) || (decide (blown 8 old < 3) && decide (n = Nat.lor (old % 256) (2 ^ (blown 8 old + 2) - 1))))

/-- Whether a write of a word is allowed (R513). -/
def State.otpAllowed (s : State) (w v : Nat) : Bool :=
  match s.lifecycle with
  | 0 => decide (w = 1 ∨ w = 7 ∨ (8 ≤ w ∧ w ≤ 58)) || (decide (w = 6) && lifecycleStep (s.otp 6) v)
  | 1 | 2 => decide (w = 8 ∨ w = 9) || (decide (w = 7) && decide (v % 256 - v % 16 = v)) ||
      (decide (w = 6) && lifecycleStep (s.otp 6) v && (decide (s.lifecycle = 2) || decide (s.dauLevel 0 = 3) || decide (s.dauLevel 1 = 3)))
  | _ => false

/-- A write of SYS_OTPW: GO starts the blow of SYS_OTPD into the word, unless one is in progress or the write is refused. -/
def State.writeOtpw (s : State) (data : Nat) : State :=
  let s := s.applyWrite (R.SYS_OTPW_WORD.addr 0x000 0) data
  if !bit data 8 || s.blow.isSome then s
  else
    let w := s.rd 0x000 R.SYS_OTPW_WORD
    let v := s.rd 0x000 R.SYS_OTPD_DATA
    if s.otpAllowed w v then { s with blow := some (w, v) } else s.wr 0x000 R.SYS_OTPW_REJECT 1

/-- OTP_BLOW_DONE: the word has the bits; a device reset that waited follows. -/
def State.otpDone (s : State) : State :=
  match s.blow with
  | none => s
  | some (w, v) =>
    let s := ({ s with blow := none } : State).setOtp w (s.otp w ||| v)
    match s.resetWaits with
    | some c => { s with resetWaits := none }.deviceReset c
    | none => s

/-! ### System error log (R514) -/

/-- A write of SYS_ELOG_STAT. -/
def State.writeElog (s : State) (data : Nat) : State :=
  let s := s.applyWrite (R.SYS_ELOG_STAT_COUNT.addr 0x000 0) data
  if bit data 9 then { s with elog := s.elog.tail } else s

/-! ### Injection (R473, R474) -/

/-- The injection bits of a page. -/
def injBits (p : Nat) : Nat :=
  match pageKind p with
  | .sys | .pwr | .xing | .trc | .jrn | .jrnr | .fio | .cap | .lnk | .tan => 1
  | .pmb | .gov | .ev | .mvc | .cam | .cad | .enc | .rel | .qb | .tanp => 3
  | .tb => 1
  | .hlt | .fab => 31
  | .dl => 0xFFFF
  | .camst | .vis | .visf => 7
  | .chn | .cas | .cog => 15
  | _ => 0

/-- The report of an injection whose opportunity is at once; none for one that waits for its detector. An injected alert is answered as `bus` says. -/
def State.injectNow (s : State) (p b : Nat) (bus : PmbReply := noReply) : Option State :=
  match pageKind p, b with
  | .sys, _ => some (s.logErr 0 7)
  | .pmb, 1 => some (s.withBus bus fun s => s.alertRead bus.ara bus)
  | .gov, 0 => some (s.uvInject (p - 0x012))
  | .xing, _ => some ((s.wr (xingPage (s.rd 0x016 R.XING_SEL_DOM)) R.XING_STAT_SRC_RST 1).pgEvt 0x020 21)
  | .hlt, 0 => some s.brakeInInject
  | .hlt, 3 => some s.railInject
  | .hlt, 4 => some (s.pgEvt 0x020 12)
  | .dl, n => some (s.dlMiss n 1)
  | .ev, 0 => some (s.pgEvt 0x040 0)
  | .tb, _ => some s.refInject
  | .fab, 4 => s.injectStall
  | .fio, _ => some s.injectMismatch
  | .vis, 1 => some (s.beatLost ((p - 0x0E0) / 4))
  | .tanp, 1 =>
    let i := p - 0x125
    let s := s.portDown i none
    some (s.setLink i { s.link i with downUntil := s.tb + 1000000 })
  | .cog, 2 => some (s.vector8 (p - 0x300))
  | .cog, 3 => some (s.wdtExpire (p - 0x300))
  | _, _ => none

/-- A write of PG_INJ: the bits that the page has are armed; one whose opportunity is at once reports and reads 0 again. -/
def State.writePgInj (s : State) (p data : Nat) (bus : PmbReply := noReply) : State :=
  let new := Nat.land data (injBits p)
  let s := s.wr p R.PG_INJ_INJ (Nat.lor (s.rd p R.PG_INJ_INJ) new)
  upTo 16 (fun (t : State) b =>
    if bit new b then (match t.injectNow p b bus with | some u => u.injTake p b | none => t) else t) s

/-! ### Commands -/

def execBoot (s : State) : Result := .next s.bootStep
def execSysBootGo (s : State) : Result := .next (s.hostAt 0x000 fun s => s.bootGo 0x100)
def execOtpBlow (data : Reg) (s : State) : Result := .next (s.hostAt 0x000 fun s => s.writeOtpw (setBits data.toNat 8 1 1))
def execOtpBlowDone (s : State) : Result := .next s.otpDone
def execElogPop (s : State) : Result := .next (s.hostAt 0x000 fun s => s.writeElog 0x200)
def execPgInjWrite (page : Fin 0x410) (data : Reg) (s : State) (bus : PmbReply := noReply) : Result :=
  .next (if (pageKind page).hasHeader then s.hostAt page (fun s => s.writePgInj page data.toNat bus) else s)

end Sys2Proof.Machine
end

