-- ==== Sys2Proof/Machine/Registers.lean ====
section
/-! DEFINITION. The register interconnect (R3, R9, R12, R364, R440, R527 to R531): a write and a read of any register word, by the host or by a
debug access unit, and the words that an index register selects. -/

namespace Sys2Proof.Machine

/-- Whether an address lies on an allocated, non-reserved page or in the axis table (R527). -/
def registerPlace (a : Nat) : Bool := decide (pageKind (pageBase a / 4096) ≠ .reserved ∧ pageBase a / 4096 ≤ 0x1007)

/-- The address at which the model holds the register word that an address shows: the words that an index register selects have pages of their
own. -/
def State.wordAddr (s : State) (a : Nat) : Nat :=
  let p := a / 4096
  let o := a % 4096
  let at_ := fun (q : Nat) => q * 4096 + o
  match pageKind (pageBase a / 4096) with
  | .ev =>
    if o = 0x44 ∨ o = 0x48 then at_ (srcPage (s.rd 0x040 R.EV_SRC_IDX_IDX))
    else if 0x50 ≤ o ∧ o ≤ 0x58 then at_ (grpPage (s.rd 0x040 R.EV_GRP_IDX_IDX))
    else a
  | .fab =>
    if 0x64 ≤ o ∧ o ≤ 0x6C then at_ (chanPage (s.rd 0x0A0 R.FAB_CH_IDX_IDX))
    else if 0x74 ≤ o ∧ o ≤ 0x7C then at_ (setPage (s.rd 0x0A0 R.FAB_SET_IDX_SET) (s.rd 0x0A0 R.FAB_SET_IDX_MBR))
    else a
  | .cam => if 0x4C ≤ o ∧ o ≤ 0x58 then at_ (tablePage (s.rd 0x071 R.CAM_TBL_IDX_IDX)) else a
  | .chnn => if 0x44 ≤ o ∧ o ≤ 0x6C then at_ (nodePage ((p - 0x0C1) / 4) (s.rd p R.CHN_NIDX_NODE)) else a
  | .xing => if o = 0x44 then at_ (xingPage (s.rd 0x016 R.XING_SEL_DOM)) else a
  | _ => a

/-! ### Writes -/

/-- A write that the block drops. -/
def State.dropped (s : State) : Bool × State := (false, s)

/-- A write that the block drops and counts in PG_ERR_CNT. -/
def State.droppedErr (s : State) (p off data : Nat) : Bool × State := (false, s.pgErr p (some (off, data)))

/-- A write of a word of the page header (R529, R530). -/
def State.writeHeader (s : State) (p off data : Nat) (bus : PmbReply) : State :=
  if off = 0x08 then s.writePgCtrl p data
  else if off = 0x14 ∨ off = 0x20 ∨ off = 0x24 then s.applyWrite (p * 4096 + off) data
  else if off = 0x18 then s.pendClear p data
  else if off = 0x1C then s.writePgInj p data bus
  else s

/-- A write of PWR_DOMd: the lasting fields, then the request. -/
def State.writePwrDom (s : State) (d data : Nat) : State :=
  if !isDomain d then s
  else
    let s := s.applyWrite (R.PWR_DOM_REQ.addr 0x010 d) (setBits data 0 2 (s.rd 0x010 R.PWR_DOM_REQ d))
    ((s.countRequest 0x010 (0x100 + 4 * d) (data % 4) data).takeRequest d (data % 4)).levelWakes

/-- A write of FAB_CMD, which the journal reports: with GO the command acts at once (R212, R227, R428). -/
def State.writeFabCmd (s : State) (data : Nat) : State :=
  let t := s.applyWrite (R.FAB_CMD_CHAN.addr 0x0A0 0) data
  if bit data R.FAB_CMD_GO.lo
  then t.fabCmd (t.rd 0x0A0 R.FAB_CMD_OP) (t.rd 0x0A0 R.FAB_CMD_CHAN) (t.rd 0x0A0 R.FAB_CMD_SENDER) else t.jrnHost 0xA0050

/-- A write of CAD_RATE or CAD_POS: dropped and counted while the cadence runs (R238). -/
def State.writeCadPlace (s : State) (n off data : Nat) : Bool × State :=
  let a := 0x72040 + 64 * n + off
  let s := s.jrnHost a
  if s.cadEn n then s.droppedErr 0x072 (a % 4096) data else (true, s.applyWrite a data)

/-- A write of a word of a cadence's block. -/
def State.writeCad (s : State) (off data : Nat) : Bool × State :=
  let n := (off - 0x40) / 64
  let r := (off - 0x40) % 64
  if r = 0 then (true, s.writeCadCtrl n data)
  else if 4 ≤ r ∧ r ≤ 0x10 then s.writeCadPlace n r data
  else (true, s.applyWrite (0x72000 + off) data)

/-- A write of CHN_STR: the stream enable is written only in OFF, SILENT, INIT or SAFE (R361). -/
def State.writeStr (s : State) (p off data : Nat) : State :=
  let a := strPage p * 4096 + off
  if (off - 0x40) % 16 = 0 ∧ s.chnState p = chRun then s.applyWrite a (setBits data 0 1 ((s.reg a).toNat % 2)) else s.applyWrite a data

/-- A write of VIS_PWR: IDLE; WAKE acts as a wake of the lane (R319). -/
def State.writeVisPwr (s : State) (n data : Nat) : State :=
  let s := s.applyWrite (R.VIS_PWR_IDLE.addr (visPage n) 0) data
  if bit data R.VIS_PWR_WAKE.lo then s.startWake (24 + n) else s

/-- A write of a word of a cog page (R166, R478, R490, R491). -/
def State.writeCogWord (s : State) (i off data : Nat) : Bool × State :=
  let a := cogPage i * 4096 + off
  if off = 0x80 then
    let s := s.applyWrite a data
    (true, if bit data 8 then s.wakeCog i 8 else s)
  else if off = 0x98 then (true, s.writeCogWdt i data)
  else if off = 0x9C then (true, s.writeCogWdtCnt i data)
  else if off = 0xA0 then (true, s.writeCogDbg i data)
  else if off = 0xBC then s.dbgPlace i data
  else if off = 0xC0 then s.dbgHold i data
  else (true, s.applyWrite a data)

/-- A write of a word of the fabric page (R202, R203, R212). -/
def State.writeFab (s : State) (off data : Nat) : Bool × State :=
  if off = 0x50 then (true, s.writeFabCmd data)
  else if off = 0x64 then (true, s.writeChLo data)
  else if off = 0x68 then (!s.chEn (s.rd 0x0A0 R.FAB_CH_IDX_IDX), s.writeChHi data)
  else if off = 0x74 then
    let t := s.writeSetMbr data
    (!t.on (setPage (s.rd 0x0A0 R.FAB_SET_IDX_SET) (s.rd 0x0A0 R.FAB_SET_IDX_MBR)) R.FAB_SET_MBR_REJECT, t)
  else (true, s.applyWrite (s.wordAddr (0xA0000 + off)) data)

/-- A write of a word of the timebase or the cam page (R232, R261, R262). -/
def State.writeTime (s : State) (p off data : Nat) : Bool × State :=
  let a := p * 4096 + off
  if p = 0x070 then
    (true, if off ≠ 0x4C then s.applyWrite a data
      else if bit data R.TB_ADJ_GO.lo then s.tbAdjGo (data % 2 ^ 28)
      else if s.tandemFollows then (s.jrnHost a).pgErr p (some (off, data))
      else (s.jrnHost a).applyWrite a data)
  else if off = 0x4C then (true, s.writeTblA data)
  else if off = 0x50 ∨ off = 0x54 then
    (!s.tblBusy (s.rd 0x071 R.CAM_TBL_IDX_IDX), s.writeTblField (if off = 0x50 then R.CAM_TBL_B_POINTS else R.CAM_TBL_ADV_ADV) data)
  else if 0x60 ≤ off then (true, s.writeCamPort ((off - 0x60) / 4) data)
  else (true, s.applyWrite (s.wordAddr a) data)

/-- A write of a word of a chain port's pages (R346, R348, R349, R354, R361). -/
def State.writeChn (s : State) (pg off data : Nat) : Bool × State :=
  let p := (pg - 0x0C0) / 4
  let a := pg * 4096 + off
  if pg % 4 = 0 then
    if off = 0x40 then (true, s.portRequest p (data % 8))
    else if off = 0x48 then (true, s.chnCommand p data)
    else if off = 0x4C ∨ off = 0x50 ∨ off = 0x54 ∨ off = 0x5C then (decide (s.chnState p < chSafe), s.writeChnSetup p off data)
    else (true, s.applyWrite a data)
  else if pg % 4 = 2 then (true, s.writeStr p off data)
  else if pg % 4 = 3 ∧ off = 0x58 then (true, s.parRequest p data)
  else (true, s.applyWrite (s.wordAddr a) data)

/-- A write of a word of a pipeline's pages (R295 to R297, R302, R305, R319, R321, R322). -/
def State.writeVis (s : State) (pg off data : Nat) : Bool × State :=
  let n := (pg - 0x0E0) / 4
  let a := pg * 4096 + off
  if pg % 4 = 0 then
    if off = 0x40 then (true, s.writeVisLink n data)
    else if off = 0x54 then (!s.trgDrops n data, s.writeVisTrg n data)
    else if off = 0x58 ∨ off = 0x5C then (true, s.writeVisStep n a data)
    else if off = 0x64 then (true, s.writeVisCtl n data)
    else if off = 0xB0 then (true, s.writeVisHb n data)
    else if off = 0xB4 then (true, s.writeVisPwr n data)
    else (true, (s.noteOld n a).applyWrite a data)
  else if pg % 4 < 3 then (true, s.writeStage n a data)
  else if off = 0x40 then (true, s.writeVisLost n data)
  else if off = 0x44 then (true, s.writeVisFwd n data)
  else if off = 0x4C then (true, s.writeVisFrz n data)
  else (true, s.applyWrite a data)

/-- A write of a word of a mover engine: a descriptor written while its channel is busy is dropped and counted (R401). -/
def State.writeMve (s : State) (pg off data : Nat) : Bool × State :=
  let c := 16 * (pg - 0x051) + (off - 0x40) / 64
  let r := (off - 0x40) % 64
  if r = 0 then (true, s.writeMvCfg c data)
  else if r = 4 then (true, s.writeMvCtrl c data)
  else if 0x20 ≤ r ∧ s.mvActive c then s.droppedErr pg off data
  else (true, s.applyWrite (pg * 4096 + off) data)

/-- A write of a word of a queue's block (R229). -/
def State.writeQueue (s : State) (pg off data : Nat) : State :=
  let q := 16 * (pg - 0x0B0) + (off - 0x40) / 64
  let r := (off - 0x40) % 64
  if r = 0 then s.writeQcfg q data
  else if r = 0x20 then s.writeQcmd q data
  else if r = 0x24 then s.hostPush q (data % 2 ^ 14) (bit data R.QPUSH_EOP.lo)
  else s.applyWrite (pg * 4096 + off) data

/-- A write of a word of the field I/O and release pages (R278, R281, R284, R287, R290). -/
def State.writeField (s : State) (pg off data : Nat) : Bool × State :=
  let a := pg * 4096 + off
  if pg = 0x080 then
    (true, if off = 0x44 then (if bit data R.FIO_SAFE_CLR.lo then s.safeClear else s)
      else if 0x100 ≤ off ∧ off < 0x280 then s.writeFioCfg ((off - 0x100) / 4) data else s.applyWrite a data)
  else if pg = 0x081 then (true, if 0x100 ≤ off ∧ off % 16 = 0 then s.writeCwCtrl ((off - 0x100) / 16) data else s.applyWrite a data)
  else if pg = 0x082 then (true, s.writeEnc ((off - 0x40) / 32) ((off - 0x40) % 32) data)
  else if pg = 0x083 then (true, s.writePwm ((off - 0x40) / 16) ((off - 0x40) % 16) data)
  else
    let c := pg - 0x090
    if off = 0x4C then (true, s.writeRelIdx c data)
    else if 0x60 ≤ off then
      let i := (off - 0x60) / 4
      (!s.rel.any fun x => decide (x.1 / 8 = 32 * c + i), s.writeRelOwn c i data)
    else (true, s.applyWrite a data)

/-- A write of a block register at an offset that the index of R531 lists, on a page whose domain is on; false when it is dropped. `by_` is the
debug access unit that writes, none for the host. -/
def State.writeBlock (s : State) (p off data : Nat) (mode : PmbReply) (by_ : Option Nat) : Bool × State :=
  let a := p * 4096 + off
  let plain := s.applyWrite a data
  match pageKind p with
  | .sys =>
    (true, if off = 0x4C then (if bit data 8 && decide (data % 256 = 0xD5) then s.requestReset 2 else s)
      else if off = 0x50 then s.bootGo data else if off = 0x60 then s.writeElog data else if off = 0x70 then s.writeOtpw data else plain)
  | .pwr =>
    (true, if off = 0x54 then (if bit data 31 then s.wakeCog (data % 512) 8 else s)
      else if 0x60 ≤ off ∧ off < 0x70 then plain.levelWakes
      else if 0x100 ≤ off then s.writePwrDom ((off - 0x100) / 4) data else plain)
  | .gov =>
    (true, if off = 0x40 then s.withBus mode fun s => s.writeGovCtrl (p - 0x012) data mode
      else if off = 0x58 then s.withBus mode fun s => s.writeGovSet (p - 0x012) data else plain)
  | .xing => (true, s.applyWrite (s.wordAddr a) data)
  | .hlt => (true, if off = 0x40 then s.writeHltBrake data else if off = 0x50 then s.writeHltTcfg data else plain)
  | .dbg => match by_ with
    | some j => if off = 0x44 ∧ s.dauLevel j = 3 then (true, s.writeBench j data) else s.dropped
    | none => s.dropped
  | .pel => (true, if off % 16 = 0 then s.writePelCfg ((off - 0x40) / 16) data else plain)
  | .trc => (true, if off = 0x5C then s.tracePop data else plain)
  | .ev =>
    (true, if off = 0x44 then s.writeSrcCfg (s.rd 0x040 R.EV_SRC_IDX_IDX) data
      else if off = 0x5C then s.writeEvSw data else if off = 0x60 then s.hostFinish (data % 1024) else s.applyWrite (s.wordAddr a) data)
  | .mve => s.writeMve p off data
  | .jrn =>
    if off = 0x40 then (true, s.writeJrnCtrl data)
    else if (off = 0x48 ∨ off = 0x4C ∨ off = 0x50) ∧ s.on 0x060 R.JRN_CTRL_EN then s.droppedErr p off data
    else (true, plain)
  | .jrnr => (true, if off = 0x40 then s.writeJrnRpl data else plain)
  | .tb | .cam => s.writeTime p off data
  | .cad => s.writeCad off data
  | .fio | .cap | .enc | .pwm | .rel => s.writeField p off data
  | .fab => s.writeFab off data
  | .q => (true, s.writeQueue p off data)
  | .chn | .chnn | .chns | .chnp => s.writeChn p off data
  | .vis | .viss | .visw | .visf => s.writeVis p off data
  | .lnk => (true, if 0x80 ≤ off ∧ off % 16 = 12 then s.mailboxSend ((off - 0x80) / 16) data else plain)
  | .msix => (true, if off < 0x800 then s.writeMsix a data else s)
  | .tan => (true, if off = 0x40 then s.writeTanCfg data else if off = 0x54 then s.spanMaskWrite data false else plain)
  | .cas => (true, if off = 0x40 then s.repairGo (p - 0x200) data else plain)
  | .cog => s.writeCogWord (p - 0x300) off data
  | .pmb | .dl | .mvc | .jrne | .jrnc | .camst | .qb | .tanp => (true, plain)
  | .otp | .axis | .evsrc | .evgrp | .camtbl | .fabch | .fabset | .chnode | .xingd | .reserved => s.dropped

/-- Whether R531 lists an offset of a page; the MSI-X table and its pending bits are words of page 0x121 (R366). -/
def State.listed (s : State) (a : Nat) : Bool :=
  !(wordFields (s.wordAddr a)).isEmpty || decide (0x121400 ≤ a ∧ a < 0x121C00 ∨ 0x121800 ≤ a ∧ a < 0x121820)

/-- A full write of one aligned register word; false when it is dropped (R440, R527, R529 to R531). -/
def State.busWrite (s : State) (a data : Nat) (mode : PmbReply) (by_ : Option Nat) : Bool × State :=
  let a := a / 4 * 4
  let p := pageBase a / 4096
  if !registerPlace a then s.dropped
  else if p = 0x1000 then
    if !s.pageOn p then (false, s.logErr (a / 4096) 1)
    else if s.listed a then
      let off := a % 64
      let held := (off = 0x04 ∨ off = 0x14 ∨ off = 0x24) ∧ 2 ≤ s.ard (a % 0x8000 / 64) R.AX_STATE_STATE
      (!decide held, s.writeAxis (a % 0x8000 / 64) off data)
    else s.dropped
  else
    let off := a % 4096
    if off = 0x08 then (true, s.writePgCtrl p data)
    else if off = 0x00 ∨ off = 0x04 ∨ off = 0x0C then (true, s)
    else if !s.pageOn p && !(decide (pageKind p = .vis ∧ off = 0xB4 ∧ (s.dom (pageDom p)).st = .ret) && bit data R.VIS_PWR_WAKE.lo) then
      (false, s.logErr p 1)
    else if !s.pageOn p then (true, s.startWake (pageDom p))
    else if off < 0x40 then (true, s.writeHeader p off data mode)
    else if !s.listed a then s.dropped
    else s.writeBlock p off data mode by_

/-! ### Reads -/

/-- PG_STAT.PWR_STATE of a domain (R438). -/
def State.powerState (s : State) (d : Nat) : Nat :=
  let x := s.dom d
  let st := match x.emu with | some e => e | none => x.st
  if x.going.isSome then 2
  else if 64 ≤ d ∧ ¬ s.domOn d ∧ st = .on then
    let c := s.dom (8 + (d - 64) / 17)
    if c.going.isSome then 2 else if c.st = .ret then 1 else 0
  else match st with | .off => 0 | .ret => 1 | .on => 3

/-- The request that a page's PG_CTRL shows (R529): its domain's, a cog's own, and on page 0x07F the highest of the eight cam banks. -/
def State.shownRequest (s : State) (p : Nat) : Nat :=
  let up := fun (v : Nat) => if v = 2 then 3 else v
  if p = 0x07F then ((List.range 8).map fun b => up (s.powerReq (56 + b))).foldl max 0 else s.powerReq (pageDom p)

/-- The state of a cog in COG_EXEC (R85). -/
def State.execState (s : State) (c : Cog) : Nat :=
  match c.run with
  | .held => 0
  | .halted => 4
  | .issuing => if c.wait.isSome then 3 else match c.stall with
    | some (_, since) => if since + 1000 < s.tb then 2 else 1
    | none => 1

/-- The live values of a cog page (R85, R166, R502). -/
def State.liveCog (s : State) (i : Nat) (f : Fld) : Option Nat :=
  let c := s.cog i
  let res := (c.lock.bind (·.res))
  if f = R.COG_EXEC_PC then some (if c.run = .held then s.vectorAddr i 0 else c.pc)
  else if f = R.COG_EXEC_STATE then some (s.execState c)
  else if f = R.COG_EXEC_STALL then some (if s.execState c = 2 then (c.stall.map (·.1)).getD 0 else 0)
  else if f = R.COG_EXEC_LOOP_DEPTH then some c.loops.length
  else if f = R.COG_STORE_SB_DEPTH then some c.sbuf.length
  else if f = R.COG_LOCK_RES_ADDR then some (res.getD 0)
  else if f = R.COG_LOCK_ACTIVE then some (b2n c.lock.isSome)
  else if f = R.COG_LOCK_RES then some (b2n res.isSome)
  else if f = R.COG_DBG_STAT_HALTED then some (b2n (decide (c.run = .halted)))
  else if f = R.COG_DBG_STAT_CAUSE then some (if c.run = .halted then (if c.lockup then 6 else c.haltInfo.cause) else 0)
  else if f = R.COG_DBG_STAT_BRKN then some (if c.run = .halted then c.haltInfo.brk else 0)
  else if f = R.COG_DBG_STAT_ORDERED then some (b2n (s.orderedCog i))
  else if f = R.COG_DBG_STAT_PENDING then some (b2n (c.haltReq.isSome || c.mon9))
  else if f = R.COG_DBG_STAT_WITHDRAWN then some (b2n (decide (c.run = .halted) && !c.todo.isEmpty))
  else none

/-- The live values of the fabric's selected channel and member (R227). -/
def State.liveFab (s : State) (f : Fld) : Option Nat :=
  let ch := s.rd 0x0A0 R.FAB_CH_IDX_IDX
  let c := s.chan ch
  let m := s.member ch (s.rd (setPage (s.rd 0x0A0 R.FAB_SET_IDX_SET) (s.rd 0x0A0 R.FAB_SET_IDX_MBR)) R.FAB_SET_MBR_SENDER)
  if f = R.FAB_CH_STAT_HELD then some c.held.length
  else if f = R.FAB_CH_STAT_STALL then some (b2n c.stall)
  else if f = R.FAB_CH_STAT_DRAINING then some (b2n c.draining)
  else if f = R.FAB_CH_STAT_EN_PENDING then some (b2n c.pendEn)
  else if f = R.FAB_SET_MBR_KNOWN then some (b2n m.horizon.isSome)
  else if f = R.FAB_SET_MBR_RETIRED then some (b2n m.retired)
  else if f = R.FAB_SET_HZN0_HZN then some (m.horizon.getD 0)
  else if f = R.FAB_SET_HZN1_HZN then some (m.horizon.getD 0 / 2 ^ 32)
  else none

/-- The live values of a queue (R229): an oldest quad shows its words and its tag. -/
def State.liveQueue (s : State) (q : Nat) (f : Fld) : Option Nat :=
  let x := s.queue q
  let d := x.quads.headD ⟨[], 0, false, false, false, false⟩
  let w := fun (k : Nat) => some (d.words.getD k 0)
  if f = R.QSTAT_DEPTH then some x.quads.length
  else if f = R.QSTAT_OPEN then some x.opened.length
  else if f = R.QSTAT_DROPPING then some (b2n x.dropping)
  else if f = R.QSTAT_WAITING then 
    some (b2n (x.waiting.isSome || x.closeWait.isSome || s.moverWaits q || (x.buffer.head?.any fun y => s.qBlocked q y.2.1)))
  else if f = R.QHEAD0_WA then w 0
  else if f = R.QHEAD0_WB then w 1
  else if f = R.QHEAD1_WA then w 2
  else if f = R.QHEAD1_WB then w 3
  else if f = R.QTAG_VALID then some d.valid
  else if f = R.QTAG_EOP then some (b2n d.eop)
  else if f = R.QTAG_TMO then some (b2n d.tmo)
  else if f = R.QTAG_LOSS then some (b2n d.loss)
  else if f = R.QTAG_UE then some (b2n d.ue)
  else if f = R.QTAG_AVAIL then some (b2n (!x.quads.isEmpty))
  else none

/-- The live values of the selected release entry (R287). -/
def State.liveRel (s : State) (c : Nat) (f : Fld) : Option Nat :=
  let e := look s.rel (256 * c + s.rd (0x090 + c) R.REL_IDX_ENTRY)
  let num := fun (g : RelEntry → Nat) => some ((e.map g).getD 0)
  if f = R.REL_STAT_PWR_HOLD then some (b2n ((s.dom (8 + c)).hold && decide (0 < s.relArmed c)))
  else if f = R.REL_IDX_ARMED then some (b2n e.isSome)
  else if f = R.REL_IDX_PH then num fun e => b2n (decide (actPh e.act))
  else if f = R.REL_IDX_OWNER then num (·.owner)
  else if f = R.REL_VS_LO_VALUE then num (·.s)
  else if f = R.REL_VS_HI_VALUE then num (·.s / 2 ^ 32)
  else if f = R.REL_VA_LO_VALUE then num (·.act)
  else if f = R.REL_VA_HI_VALUE then num (·.act / 2 ^ 32)
  else none

/-- The live values of an event source (R404, R414). -/
def State.liveSrc (s : State) (n : Nat) (f : Fld) : Option Nat :=
  let x := s.src n
  if f = R.EV_SRC_STAT_STATE then some (match x.st with | .idle => 0 | .held => 1 | .pending => 2 | .claimed => 3)
  else if f = R.EV_SRC_STAT_LEVEL then some (b2n (isLevelSource n))
  else if f = R.EV_SRC_STAT_COND then some (b2n (s.levelCond n))
  else if f = R.EV_SRC_STAT_REPEAT then some (b2n x.rep)
  else if f = R.EV_SRC_STAT_OWNER then some (x.k + 16 * (x.cas % 4))
  else if f = R.EV_SRC_STAT_HOSTCL then some (b2n x.host)
  else if f = R.EV_SRC_STAT_CASO then some x.cas
  else none

/-- The live values of the system, power, health and debug pages (R468, R499, R501, R514). -/
def State.liveSystem (s : State) (f : Fld) (i : Nat) : Option Nat :=
  let e := s.elog.head?
  if f = R.SYS_UID_LO_UID then some (s.otp 3)
  else if f = R.SYS_UID_HI_UID then some (s.otp 4)
  else if f = R.SYS_BOOT_SRC then some (s.otp 7 % 2)
  else if f = R.SYS_SVN_MIN then some s.svnMin
  else if f = R.SYS_ELOG_STAT_COUNT then some s.elog.length
  else if f = R.SYS_ELOG_A_ADDR then some ((e.map (·.addr)).getD 0)
  else if f = R.SYS_ELOG_B_KIND then some ((e.map (·.kind)).getD 0)
  else if f = R.SYS_ELOG_B_STAMP then some ((e.map (·.stamp)).getD 0 / 2 ^ 14)
  else if f = R.SYS_OTPW_BUSY then some (b2n s.blow.isSome)
  else if f = R.PWR_DOM_STATE then some (if isDomain i then s.powerState i else 0)
  else if f = R.PWR_DOM_HOLD then some (b2n (s.dom i).hold)
  else if f = R.PWR_DOM_EMU then some (b2n (s.dom i).emu.isSome)
  else if f = R.HLT_BRAKE_PRESENT then some s.brakePresent
  else if f = R.HLT_BRKIN_LVL then some (b2n (!s.brakeInActive))
  else if f = R.DBG_STAT_LEVEL_J then some (s.dauLevel 0)
  else if f = R.DBG_STAT_LEVEL_W then some (s.dauLevel 1)
  else if f = R.PEL_STAT_TRIGGERED then some (b2n (s.pel i).triggered)
  else if f = R.PEL_STAT_LAG then some (s.pelLag i)
  else if f = R.TRC_STAT_COUNT then some s.trace.length
  else if f = R.TRC_DATA_BYTES then some ((s.trace.head?.map fun k => k.bits / 2 ^ (32 * i)).getD 0)
  else none

/-- Whether a trim ramp of a cadence is active, and whether it is held at rate 0 (R242, R263). -/
def State.rampNow (s : State) (n : Nat) : Bool × Bool :=
  match (s.cad n).segAt s.tb with
  | some g => let left := decide (g.rampT ≠ g.applied s.tb); (s.cadEn n && left, s.cadEn n && left && decide (g.rate = 0))
  | none => (false, false)

/-- The live value of a field that follows live state; none for a field that its register holds. `i` is the instance of an indexed field. -/
def State.liveField (s : State) (p : Nat) (f : Fld) (i : Nat) : Option Nat :=
  match pageKind p with
  | .sys | .pwr | .hlt | .dbg | .pel | .trc => s.liveSystem f i
  | .evsrc => s.liveSrc (p - 0x15000) f
  | .evgrp => if f = R.EV_GRP_STAT_HELD then some (s.grp (p - 0x16000)).held else none
  | .jrn =>
    if f = R.JRN_STAT_ACTIVE then some (b2n s.recording) else if f = R.JRN_STAT_FIFO then some s.jrn.fifo.length else none
  | .cad =>
    if f = R.CAD_STAT_RAMP then some (b2n (s.rampNow i).1)
    else if f = R.CAD_STAT_HELD then some (b2n (s.rampNow i).2)
    else none
  | .camst => if f = R.CAM_BUF_USED then some s.shadow.length else none
  | .fio => if f = R.FIO_CFG_OUT then some (b2n ((s.pinDrive i).getD false)) else none
  | .rel => s.liveRel (p - 0x090) f
  | .fabch | .fabset => s.liveFab f
  | .q => s.liveQueue (16 * (p - 0x0B0) + i) f
  | .chn =>
    if f = R.CHN_STAT_RECOV_OK then some (b2n (s.recovOk ((p - 0x0C0) / 4)))
    else if f = R.CHN_CNT_CYCLE then some (wrap (s.cycleAt ((p - 0x0C0) / 4) s.tb) 32)
    else none
  | .chnp => if f = R.CHN_PAR_CMD_BUSY then some (b2n (s.port ((p - 0x0C3) / 4)).par.isSome) else none
  | .chnode =>
    if f = R.CHN_NSTAT_MULTI then
      let slots := s.enabledAxes.filter fun x => decide (s.ard x R.AX_BIND_PORT = (p - 0x17000) / 64 ∧ s.ard x R.AX_BIND_NODE = p % 64)
      some (b2n (decide (1 < slots.length)))
    else none
  | .visf =>
    let x := s.lane ((p - 0x0E3) / 4)
    if f = R.VIS_STAT_FIFO then some (min 256 x.fifo.length) else if f = R.VIS_STAT_TRG_OUT then some x.trigs.length else none
  | .mve => if f = R.MV_STAT_STATE then some (s.mvShown (16 * (p - 0x051) + i)) else none
  | .lnk => if f = R.MBX_SEND_CRED then some (if s.chEn (s.rd 0x120 R.MBX_CH_CHAN i) then min 15 (s.freeCredits (s.rd 0x120 R.MBX_CH_CHAN i) 0x119) else 0) else none
  | .cog => s.liveCog (p - 0x300) f
  | _ => none

/-- The live values of the page header (R438, R439, R529, R530). -/
def State.liveHeader (s : State) (p : Nat) (f : Fld) : Option Nat :=
  let d := pageDom p
  if f = R.PG_STAT_PWR_STATE then some (s.powerState d)
  else if f = R.PG_STAT_CLK_OK then some (b2n (s.domOn d && !s.unlocked.contains d))
  else if f = R.PG_STAT_BUSY then some (b2n (s.on p R.PG_STAT_BUSY || (decide (64 ≤ d) && (s.dom d).hold)))
  else if f = R.PG_CTRL_PWR_REQ then some (s.shownRequest p)
  else if f = R.PG_CTRL_IDLE_AUTO ∧ d < 64 then some (s.rd 0x010 R.PWR_DOM_IDLE_AUTO d)
  else none

/-- A word of page 0x121: the MSI-X table at 0x400 and the pending bit array at 0x800 (R366). -/
def State.msixRead (s : State) (o : Nat) : Nat :=
  if 0x400 ≤ o ∧ o < 0x800 then s.msixWord ((o - 0x400) / 16) (o % 16 / 4)
  else if o = 0x800 ∨ o = 0x804 then ((List.range 32).map fun j => b2n (s.pba ((o - 0x800) * 8 + j)) * 2 ^ j).sum
  else 0

/-- The value that a register word shows: live fields, held fields, and 0 for what is written only. -/
def State.shown (s : State) (a : Nat) : Nat :=
  let w := s.wordAddr a
  let p := pageBase w / 4096
  let o := w - pageBase w
  let value := fun (f : Fld) =>
    let i := if f.stride = 0 then 0 else (o - f.off) / f.stride
    if f.acc = .wo then 0
    else ((if o < 0x40 ∧ p ≠ 0x1000 then s.liveHeader p f else s.liveField p f i).getD (bits (s.reg w).toNat f.lo f.w)) % 2 ^ f.w
  if (wordFields w).isEmpty then (if pageKind p = .otp then (s.reg w).toNat else if pageKind p = .msix then s.msixRead o else 0)
  else ((wordFields w).map fun f => value f * 2 ^ f.lo).sum

/-- A read of one aligned register word (R9, R261, R263, R411, R440, R491, R527): whether it is carried out, and its value. A peek has no side
effect: it claims nothing and leaves samples alone. -/
def State.busRead (s : State) (a : Nat) (consume : Bool) : Bool × Nat × State :=
  let a := a / 4 * 4
  let p := pageBase a / 4096
  let off := a % 4096
  if !registerPlace a then (true, 0, s)
  else if !s.pageOn p ∧ ¬ (p ≠ 0x1000 ∧ (off = 0 ∨ off = 8 ∨ off = 0x0C)) then (true, 0, s)
  else match pageKind p with
    | .ev =>
      if 0x100 ≤ off ∧ off < 0x200 then
        let r := s.hostClaim ((off - 0x100) / 4)
        if consume then (true, r.1, r.2) else (true, r.1, s)
      else (true, s.shown a, s)
    | .tb =>
      if off = 0x40 ∧ consume then
        let t := { s.tbNowRead with out := s.out }
        (true, t.shown a, t)
      else (true, s.shown a, s)
    | .cad =>
      if (off - 0x40) % 64 = 0x0C ∧ 0x40 ≤ off ∧ consume then
        let t := { s.cadPosRead ((off - 0x40) / 64) with out := s.out }
        (true, t.shown a, t)
      else (true, s.shown a, s)
    | .q =>
      let o := (off - 0x40) % 64
      if consume ∧ 0x40 ≤ off ∧ (o = 0x14 ∨ o = 0x18 ∨ o = 0x1C) then
        let t := (s.qRead (16 * (p - 0x0B0) + (off - 0x40) / 64)).2
        (true, t.shown a, t)
      else (true, s.shown a, s)
    | .cog =>
      if off = 0xBC then
        let r := s.dbgRead (p - 0x300)
        (r.1, r.2.shown a, if consume then r.2 else s)
      else if off = 0xC0 then (decide ((s.cog (p - 0x300)).run = .halted), s.shown a, s)
      else (true, s.shown a, s)
    | _ => (true, s.shown a, s)

/-! ### Commands -/

/-- REGISTER_WRITE (R9, R364): a poisoned write, and one whose byte enables do not cover the word, is dropped and logged; in a reserved place
neither is logged (R527). -/
def execRegisterWrite (addr : BitVec 26) (data : Reg) (be : BitVec 4) (poisoned : Bool) (mode : PmbReply) (s : State) (malformed : Bool := false) : Result :=
  .next (s.host fun s =>
    if malformed then s.malformedTlp
    else if !registerPlace addr.toNat then s
    else if poisoned then s.poisonedTlp addr.toNat
    else if be ≠ 15 then s.logErr addr.toNat 3
    else (s.busWrite addr.toNat data.toNat mode none).2)

end Sys2Proof.Machine
end

