-- ==== Sys2Proof/Machine/Dau.lean ====
section
/-! DEFINITION. The debug access units and their ports (R486 to R489), authorisation (R509 to R511), attachment (R492) and bench mode (R496). -/

namespace Sys2Proof.Machine

/-! ### Levels and attachment (R489, R492, R496) -/

/-- Whether a debugger is attached. -/
def State.attached (s : State) : Bool := (List.range 2).any fun j => (s.dau j).attach && decide (2 ≤ s.dauLevel j)

/-- What follows a change of a unit's level or of its ATTACH: below level 2 it does not stay attached, below level 3 its bench mode and its EXTEST
end; DBG_STAT.ATTACH follows, and at the last detachment the emulated domains enter their states. -/
def State.settleDau (s : State) (j : Nat) : State :=
  let x := s.dau j
  let low := decide (s.dauLevel j < 2)
  let s := s.setDau j { x with attach := x.attach && !low, consume := x.consume && !low, ir := if x.ir = 0 ∧ s.dauLevel j < 3 then 0x1F else x.ir }
  let s := if x.ir = 0 ∧ s.dauLevel j < 3 then s.showPins else s
  let s := if s.benchBy = some j ∧ s.dauLevel j < 3 then s.setBench none else s
  let was := s.on 0x030 R.DBG_STAT_ATTACH
  let s := s.wr 0x030 R.DBG_STAT_ATTACH (b2n s.attached)
  if was && !s.attached then s.detach else s

/-- A unit's state changes; source 34 is raised when its level or attachment does (R475). -/
def State.changeDau (s : State) (j : Nat) (x : Dau) : State :=
  let was := (s.dauLevel j, s.attached)
  let t := (s.setDau j x).settleDau j
  if (t.dauLevel j, t.attached) = was then t else t.pgEvt 0x020 18

/-! ### Authorisation (R509 to R511) -/

/-- AU_CTRL.REQ: a nonce is drawn, unless the unit is locked out. -/
def State.auReq (s : State) (j : Nat) : State :=
  let x := s.dau j
  if x.drawing || x.checking then s
  else if s.tb < x.lockUntil then s.setDau j { x with fail := true, cause := 5 }
  else s.setDau j { x with drawing := true, nonce := none, fail := false, cause := 0 }

/-- The random source delivers the nonce. -/
def State.nonceReady (s : State) (j : Nat) (words : List Nat) : State :=
  let x := s.dau j
  if x.drawing then s.setDau j { x with drawing := false, nonce := some ((List.range 8).map fun i => words.getD i 0) } else s

/-- AU_CTRL.CHK: the response is checked; without a nonce it fails with cause 1. -/
def State.auChk (s : State) (j : Nat) : State :=
  let x := s.dau j
  if x.drawing || x.checking then s
  else match x.nonce with
    | none => s.setDau j { x with fail := true, cause := 1 }
    | some _ => s.setDau j { x with checking := true, fail := false, cause := 0 }

/-- Bytes of the response from word `k`, `n` words. -/
def Dau.answer (x : Dau) (k n : Nat) : List Byte := (List.range n).flatMap fun i => Crypto.beBytes 4 (lookD x.resp (k + i) 0)

/-- Why a response is refused (R511); 0 when it is accepted. -/
def State.auCause (s : State) (x : Dau) (nonce : List Nat) : Nat :=
  let slot := s.otpBytes (42 + 8 * x.key) 8
  let msg := nonce.flatMap (Crypto.beBytes 4) ++ Crypto.beBytes 8 (s.otp 4 * 2 ^ 32 + s.otp 3) ++ Crypto.beBytes 1 x.level ++ Crypto.beBytes 1 x.key
  let num := fun k => Crypto.beNat (x.answer k 8)
  if !(slot.any (· ≠ 0)) || decide (Crypto.sha256 (x.answer 0 16) ≠ slot) then 2
  else if bits (s.otp 58) (2 * x.key) 2 < x.level then 3
  else if Crypto.verifies (num 0, num 8) (Crypto.sha256 msg) (num 16) (num 24) then 0
  else 4

/-- AUTH_CHECK_DONE: the level is granted, or the unit is locked out for 1 s. -/
def State.auDone (s : State) (j : Nat) : State :=
  let x := s.dau j
  match x.checking, x.nonce with
  | true, some nonce =>
    let cause := s.auCause x nonce
    let x := { x with checking := false, nonce := none }
    if cause = 0 then s.changeDau j { x with granted := some (if s.lifecycle = 3 then 0 else x.level) }
    else s.setDau j { x with fail := true, cause := cause, lockUntil := s.tb + 1000000000 }
  | _, _ => s

/-- AU_CTRL.DROP: the unit returns to level 0. -/
def State.auDrop (s : State) (j : Nat) : State := s.changeDau j { s.dau j with granted := some 0 }

/-- A write of AU_CTRL: LEVEL and KEY, which a draw or check under way holds, then DROP, REQ and CHK. -/
def State.writeAuCtrl (s : State) (j data : Nat) : State :=
  let x := s.dau j
  let s := if x.drawing || x.checking then s else s.setDau j { x with level := bits data 4 2, key := bits data 6 1 }
  let s := if bit data 2 then s.auDrop j else s
  let s := if bit data 0 then s.auReq j else s
  if bit data 1 then s.auChk j else s

/-! ### Register transfers (R486, R489, R510) -/

/-- A write of DA_CTRL: CONSUME and ATTACH need level 2. -/
def State.writeDaCtrl (s : State) (j data : Nat) : Bool × State :=
  if s.dauLevel j < 1 ∨ (s.dauLevel j < 2 ∧ data / 2 % 4 ≠ 0) then (false, s)
  else (true, s.changeDau j { s.dau j with space := bit data 0, consume := bit data 1, attach := bit data 2 })

/-- Whether a peek of four bytes of BAR2 meets an uncorrectable word (R489). -/
def State.peekBad (s : State) (a : Nat) : Bool :=
  (List.range 4).any fun k =>
    s.windowOn (windowOf (a + k)) &&
    match windowOf (a + k) with
    | .prog _ _ | .cam _ _ => decide (look s.bad ((a + k) / 16 * 16) = some .uncorrectable)
    | .unmapped => false
    | _ => decide (look s.bad ((a + k) / 2 * 2) = some .uncorrectable)

/-- What a read of DA_DATA returns: whether it is carried out, the data, whether they are uncorrectable, and the state. -/
def State.dauFetch (s : State) (j : Nat) : Bool × Nat × Bool × State :=
  let x := s.dau j
  if !x.space then
    let r := s.busRead x.addr x.consume
    (r.1, r.2.1, false, r.2.2)
  else if x.consume then
    let r := s.bar2Get x.addr 4
    (true, leNat r.1, r.2.1, r.2.2)
  else (true, leNat (s.bar2Get x.addr 4).1, s.peekBad x.addr, s)

/-- A write access at DA_ADDR: false when it, or a byte of it, is dropped (R170, R184, R508). -/
def State.dauStore (s : State) (j data : Nat) (mode : PmbReply) : Bool × State :=
  let x := s.dau j
  if !x.space then s.busWrite x.addr data mode (some j)
  else ((List.range 4).all fun k => !s.bar2Drops (x.addr + k), s.bar2Put ((leBytes 4 data).zipIdx.map fun b => (x.addr + b.2, b.1)))

/-- Notes in DA_STAT how a transfer went. -/
def State.noteErr (s : State) (j : Nat) (err : Bool) : State := s.setDau j { s.dau j with err := err }

/-- A transfer that reads a register: whether it is done, and the data. -/
def State.dauRead (s : State) (j a : Nat) : Bool × Nat × State :=
  let x := s.dau j
  let level := s.dauLevel j
  let ok := fun (v : Nat) => (true, v, s.noteErr j false)
  let no := (false, 0, s.noteErr j true)
  match a with
  | 0 => ok 0x48530100
  | 1 => if level < 1 then no else ok (b2n x.space + 2 * b2n x.consume + 4 * b2n x.attach)
  | 2 => (true, level + 4 * b2n x.err + 8 * b2n x.ue, s)
  | 3 => if level < 1 then no else ok x.addr
  | 4 =>
    if level < (if x.consume ∨ x.attach then 2 else 1) then no
    else
      let r1 := s.dauFetch j
      let done := r1.1
      let v := r1.2.1
      let ue := r1.2.2.1
      let t := r1.2.2.2
      (true, v, t.setDau j { t.dau j with err := !done, ue := ue })
  | 8 => ok (16 * x.level + 64 * x.key)
  | 9 => ok (level + 4 * b2n (x.drawing || x.checking) + 8 * b2n x.fail + 16 * x.cause)
  | 10 => ok x.idx
  | 11 => (true, (x.nonce.getD []).getD x.idx 0, s.setDau j { x with idx := (x.idx + 1) % 32, err := false })
  | 12 => ok (lookD x.resp x.idx 0)
  | 13 => ok (s.otp 3)
  | 14 => ok (s.otp 4)
  | 15 => ok s.lifecycle
  | _ => no

/-- Whether a unit's next access through DA_DATA would write bench mode (R496). -/
def Dau.writesBench (x : Dau) : Bool := !x.space && decide (x.addr = 0x30044)

/-- Whether a write of a register is within the unit's level (R486, R489): the acknowledge of the two-wire port comes before the data (R487). -/
def State.dauTakes (s : State) (j a : Nat) : Bool :=
  match a with
  | 1 | 3 => decide (1 ≤ s.dauLevel j)
  | 4 => decide ((if (s.dau j).writesBench then 3 else 2) ≤ s.dauLevel j)
  | 5 | 6 | 7 => false
  | _ => true

/-- A transfer that writes a register: whether it is done. -/
def State.dauWrite (s : State) (j a data : Nat) (mode : PmbReply) : Bool × State :=
  let x := s.dau j
  let ok := fun (t : State) => (true, t.noteErr j false)
  let no := (false, s.noteErr j true)
  match a with
  | 1 =>
    let r := s.writeDaCtrl j data
    if r.1 then ok r.2 else no
  | 3 => if s.dauLevel j < 1 then no else ok (s.setDau j { x with addr := data / 4 * 4 })
  | 4 =>
    if !s.dauTakes j 4 then no
    else
      let r := s.dauStore j data mode
      (true, r.2.setDau j { r.2.dau j with err := !r.1, ue := false })
  | 8 => ok (s.writeAuCtrl j data)
  | 10 => ok (s.setDau j { x with idx := data % 32 })
  | 12 => ok (s.setDau j { x with resp := put x.resp x.idx data, idx := (x.idx + 1) % 32 })
  | 0 | 2 | 9 | 11 | 13 | 14 | 15 => ok s
  | _ => no

/-- OP 0b010 and 0b011 add 4 to DA_ADDR after a transfer that is done. -/
def State.dauNext (s : State) (j : Nat) : State := s.setDau j { s.dau j with addr := ((s.dau j).addr + 4) % 2 ^ 32 }

/-- One transfer of R487: OP, register, data; other OPs are refused. -/
def State.dauOp (s : State) (j op a data : Nat) (mode : PmbReply) : Bool × Nat × State :=
  if op = 0 ∨ op = 2 then
    let r := s.dauRead j a
    (r.1, r.2.1, if op = 2 ∧ r.1 then r.2.2.dauNext j else r.2.2)
  else if op = 1 ∨ op = 3 then
    let r := s.dauWrite j a data mode
    (r.1, 0, if op = 3 ∧ r.1 then r.2.dauNext j else r.2)
  else (false, 0, s.noteErr j true)

/-- What a port shows of a transfer: the two-wire port its acknowledge and read data at once, the TAP at the next shift. -/
def State.dauShow (s : State) (j : Nat) (read : Bool) (r : Bool × Nat) : State :=
  if j = 0 then s.setDau 0 { s.dau 0 with lastAck := b2n r.1, lastData := r.2 }
  else { s with out := .twoWire (b2n r.1) (if read ∧ r.1 then some r.2 else none) :: s.out }

/-- One transfer with what its port shows. -/
def State.dauTransfer (s : State) (j op a data : Nat) (mode : PmbReply) : State :=
  let r := s.dauOp j op a data mode
  r.2.2.dauShow j (decide (op = 0 ∨ op = 2)) (r.1, r.2.1)

/-- A two-wire write: one that is not refused and has a parity error in its data is dropped and sets ERR. -/
def State.twoWireWrite (s : State) (op a data : Nat) (parityOk : Bool) (mode : PmbReply) : State :=
  if parityOk then s.dauTransfer 1 op a data mode
  else (s.noteErr 1 true).dauShow 1 false (s.dauTakes 1 a, 0)

/-! ### The TAP (R488) -/

/-- The TAP takes an instruction; EXTEST drives the boundary cells while it is selected. -/
def State.tapSelect (s : State) (ir : Nat) : State :=
  let was := (s.dau 0).ir
  let s := s.setDau 0 { s.dau 0 with ir := ir }
  if was = 0 ∨ ir = 0 then s.showPins else s

/-- The boundary cells that a shift has loaded. -/
def cellsOf (cells : List (Fin 96 × Bool)) : Sparse Bool := cells.foldl (fun (m : Sparse Bool) x => put m x.1.val x.2) []

/-! ### Commands -/

def execTwoWireRead (a : Fin 16) (s : State) : Result := .next (s.dauTransfer 1 0 a 0 noReply)
def execTwoWireWrite (a : Fin 16) (data : Reg) (parityOk : Bool) (mode : PmbReply) (s : State) : Result :=
  .next (s.twoWireWrite 1 a data.toNat parityOk mode)
def execTwoWireReadIncrement (a : Fin 16) (s : State) : Result := .next (s.dauTransfer 1 2 a 0 noReply)
def execTwoWireWriteIncrement (a : Fin 16) (data : Reg) (parityOk : Bool) (mode : PmbReply) (s : State) : Result :=
  .next (s.twoWireWrite 3 a data.toNat parityOk mode)
/-- LINE_RESET (R487): a transfer is one command, so none is under way that the reset would end. -/
def execLineReset (s : State) : Result := .next s
/-- DA_DATA_ACCESS (R489): a read, or a write of data. -/
def execDaDataAccess (port : Fin 2) (data : Option Reg) (mode : PmbReply) (s : State) : Result :=
  .next (match data with
    | some d => s.dauTransfer port 1 4 d.toNat mode
    | none => s.dauTransfer port 0 4 0 noReply)
/-- IDCODE (R488): the register is selected and shifted out. -/
def execIdcode (s : State) : Result :=
  .next (
    let s := s.tapSelect 1
    { s with out := .tdo (s.otp 5) :: s.out })
def execBypass (s : State) : Result := .next (s.tapSelect 0x1F)
/-- EXTEST (R488, R489): below level 3 it is refused, and the TAP acts as with BYPASS. -/
def execExtest (cells : List (Fin 96 × Bool)) (s : State) : Result :=
  .next (if s.dauLevel 0 = 3 then ({ s with boundary := cellsOf cells } : State).tapSelect 0 else s.tapSelect 0x1F)
/-- SAMPLE_PRELOAD (R488): the level of every pin, and the cells for a later EXTEST. -/
def execSamplePreload (cells : List (Fin 96 × Bool)) (s : State) : Result :=
  .next (
    let s := s.tapSelect 2
    let levels := (List.range 96).map fun n => (s.pinDrive n).getD (s.pin n).inp
    { s with boundary := cellsOf cells, out := .boundary levels :: s.out })
/-- DAU (R488): the DAU register is selected and shifted, which shows the previous transfer and makes this one. -/
def execDau (op : BitVec 3) (a : Fin 16) (data : Reg) (mode : PmbReply) (s : State) : Result :=
  .next (
    let s := s.tapSelect 8
    let s := { s with out := .tdo ((s.dau 0).lastAck + 4 * (s.dau 0).lastData) :: s.out }
    s.dauTransfer 0 op.toNat a data.toNat mode)
def execTrst (s : State) : Result := .next (s.tapSelect 1)
/-- AU_REQ, AU_CHK and AU_DROP: writes of AU_CTRL with the bit. -/
def execAuReq (port : Fin 2) (data : Reg) (s : State) : Result := .next (s.dauTransfer port 1 8 (setBits data.toNat 0 1 1) noReply)
def execNonceReady (port : Fin 2) (words : List Reg) (s : State) : Result := .next (s.nonceReady port (words.map (·.toNat)))
def execAuChk (port : Fin 2) (data : Reg) (s : State) : Result := .next (s.dauTransfer port 1 8 (setBits data.toNat 1 1 1) noReply)
def execAuthCheckDone (port : Fin 2) (s : State) : Result := .next (s.auDone port)
def execAuDrop (port : Fin 2) (data : Reg) (s : State) : Result := .next (s.dauTransfer port 1 8 (setBits data.toNat 2 1 1) noReply)
/-- BENCH_WRITE (R496): a write of DBG_BENCH.EN through a debug access unit. -/
def execBenchWrite (port : Fin 2) (en : Bool) (s : State) : Result :=
  .next (
    if s.dauLevel port < 3 then (s.noteErr port true).dauShow port false (false, 0)
    else
      let r := s.busWrite 0x30044 (b2n en) noReply (some port)
      (r.2.noteErr port (!r.1)).dauShow port false (true, 0))
/-- ATTACH_WRITE (R492): a write of DA_CTRL that keeps its other bits. -/
def execAttachWrite (port : Fin 2) (attach : Bool) (s : State) : Result :=
  .next (s.dauTransfer port 1 1 (b2n (s.dau port).space + 2 * b2n (s.dau port).consume + 4 * b2n attach) noReply)

end Sys2Proof.Machine
end

