-- ==== Sys2Proof/Machine/Dispatch.lean ====
section
/-! DEFINITION. One arm for each command: the direct call of its meaning. -/

namespace Sys2Proof.Machine

def exec (i : Instr) (s : State) : Host.Outcome State Fault Refusal :=
  match i with
  | .bundle cog => Sys2Proof.Machine.execBundle cog s
  | .aluAdd cog unit => Sys2Proof.Machine.execAluAdd cog unit s
  | .aluAdc cog unit => Sys2Proof.Machine.execAluAdc cog unit s
  | .aluSub cog unit => Sys2Proof.Machine.execAluSub cog unit s
  | .aluAnd cog unit => Sys2Proof.Machine.execAluAnd cog unit s
  | .aluOr cog unit => Sys2Proof.Machine.execAluOr cog unit s
  | .aluXor cog unit => Sys2Proof.Machine.execAluXor cog unit s
  | .aluLim cog unit => Sys2Proof.Machine.execAluLim cog unit s
  | .shShl cog => Sys2Proof.Machine.execShShl cog s
  | .shShr cog => Sys2Proof.Machine.execShShr cog s
  | .shSar cog => Sys2Proof.Machine.execShSar cog s
  | .macMul cog => Sys2Proof.Machine.execMacMul cog s
  | .macMac cog => Sys2Proof.Machine.execMacMac cog s
  | .macMsu cog => Sys2Proof.Machine.execMacMsu cog s
  | .macLd cog => Sys2Proof.Machine.execMacLd cog s
  | .macRd cog => Sys2Proof.Machine.execMacRd cog s
  | .divS cog => Sys2Proof.Machine.execDivS cog s
  | .divU cog => Sys2Proof.Machine.execDivU cog s
  | .digAdd cog => Sys2Proof.Machine.execDigAdd cog s
  | .digSub cog => Sys2Proof.Machine.execDigSub cog s
  | .digAdj cog => Sys2Proof.Machine.execDigAdj cog s
  | .digCvt cog => Sys2Proof.Machine.execDigCvt cog s
  | .longLatencyResult cog unit => Sys2Proof.Machine.execLongLatencyResult cog unit s
  | .agSet cog unit => Sys2Proof.Machine.execAgSet cog unit s
  | .agIdx cog unit => Sys2Proof.Machine.execAgIdx cog unit s
  | .ldW cog => Sys2Proof.Machine.execLdW cog s
  | .ldL cog => Sys2Proof.Machine.execLdL cog s
  | .ldT cog => Sys2Proof.Machine.execLdT cog s
  | .ldAg cog unit => Sys2Proof.Machine.execLdAg cog unit s
  | .ldSet cog => Sys2Proof.Machine.execLdSet cog s
  | .loadAnswer cog => Sys2Proof.Machine.execLoadAnswer cog s
  | .stW cog => Sys2Proof.Machine.execStW cog s
  | .stL cog => Sys2Proof.Machine.execStL cog s
  | .stT cog => Sys2Proof.Machine.execStT cog s
  | .stAg cog unit => Sys2Proof.Machine.execStAg cog unit s
  | .storeBufferDrain cog => Sys2Proof.Machine.execStoreBufferDrain cog s
  | .br cog => Sys2Proof.Machine.execBr cog s
  | .call cog => Sys2Proof.Machine.execCall cog s
  | .ret cog => Sys2Proof.Machine.execRet cog s
  | .fence cog => Sys2Proof.Machine.execFence cog s
  | .fsync cog => Sys2Proof.Machine.execFsync cog s
  | .lock cog => Sys2Proof.Machine.execLock cog s
  | .lpLoop cog => Sys2Proof.Machine.execLpLoop cog s
  | .lpExit cog => Sys2Proof.Machine.execLpExit cog s
  | .lpSave cog => Sys2Proof.Machine.execLpSave cog s
  | .lpRest cog => Sys2Proof.Machine.execLpRest cog s
  | .chSel cog => Sys2Proof.Machine.execChSel cog s
  | .chSend cog => Sys2Proof.Machine.execChSend cog s
  | .chSend4 cog => Sys2Proof.Machine.execChSend4 cog s
  | .chHzn cog => Sys2Proof.Machine.execChHzn cog s
  | .chRecv cog => Sys2Proof.Machine.execChRecv cog s
  | .chTry cog => Sys2Proof.Machine.execChTry cog s
  | .tmNow cog => Sys2Proof.Machine.execTmNow cog s
  | .tmArm cog => Sys2Proof.Machine.execTmArm cog s
  | .tmKill cog => Sys2Proof.Machine.execTmKill cog s
  | .evClaim cog => Sys2Proof.Machine.execEvClaim cog s
  | .evFin cog => Sys2Proof.Machine.execEvFin cog s
  | .pwWait cog => Sys2Proof.Machine.execPwWait cog s
  | .dbgStim cog => Sys2Proof.Machine.execDbgStim cog s
  | .lineFetch cog => Sys2Proof.Machine.execLineFetch cog s
  | .prefetch cog => Sys2Proof.Machine.execPrefetch cog s
  | .exceptionEntry cog => Sys2Proof.Machine.execExceptionEntry cog s
  | .eventEntry cog => Sys2Proof.Machine.execEventEntry cog s
  | .lockLimitTimeout cog => Sys2Proof.Machine.execLockLimitTimeout cog s
  | .lockStallTimeout cog => Sys2Proof.Machine.execLockStallTimeout cog s
  | .waitWake cog => Sys2Proof.Machine.execWaitWake cog s
  | .cogKick cog => Sys2Proof.Machine.execCogKick cog s
  | .cogDisable cog => Sys2Proof.Machine.execCogDisable cog s
  | .repairGo cas data => Sys2Proof.Machine.execRepairGo cas data s
  | .bar2Write addr bytes poisoned malformed => Sys2Proof.Machine.execBar2Write addr bytes poisoned s malformed
  | .bar2Read addr len => Sys2Proof.Machine.execBar2Read addr len s
  | .correctedWriteBack addr => Sys2Proof.Machine.execCorrectedWriteBack addr s
  | .sramScrub store word => Sys2Proof.Machine.execSramScrub store word s
  | .mramScrub store line last => Sys2Proof.Machine.execMramScrub store line last s
  | .commitPass table => Sys2Proof.Machine.execCommitPass table s
  | .camTableScan table => Sys2Proof.Machine.execCamTableScan table s
  | .messageArrival chan sender => Sys2Proof.Machine.execMessageArrival chan sender s
  | .mergeDeliverable chan => Sys2Proof.Machine.execMergeDeliverable chan s
  | .creditReturn chan sender => Sys2Proof.Machine.execCreditReturn chan sender s
  | .horizonTokenArrival chan sender => Sys2Proof.Machine.execHorizonTokenArrival chan sender s
  | .automaticToken chan sender arriving => Sys2Proof.Machine.execAutomaticToken chan sender s arriving
  | .horizonStall chan => Sys2Proof.Machine.execHorizonStall chan s
  | .fabCmdRetire chan sender => Sys2Proof.Machine.execFabCmdRetire chan sender s
  | .fabCmdRestore chan sender => Sys2Proof.Machine.execFabCmdRestore chan sender s
  | .fabCmdFlush chan sender => Sys2Proof.Machine.execFabCmdFlush chan sender s
  | .channelEnable data => Sys2Proof.Machine.execChannelEnable data s
  | .channelDisable data => Sys2Proof.Machine.execChannelDisable data s
  | .channelDrainDone chan => Sys2Proof.Machine.execChannelDrainDone chan s
  | .setMemberWrite data => Sys2Proof.Machine.execSetMemberWrite data s
  | .queuePush q => Sys2Proof.Machine.execQueuePush q s
  | .queuePushResume q => Sys2Proof.Machine.execQueuePushResume q s
  | .queueTimeout q => Sys2Proof.Machine.execQueueTimeout q s
  | .qcmdPop q => Sys2Proof.Machine.execQcmdPop q s
  | .qcmdDrop q => Sys2Proof.Machine.execQcmdDrop q s
  | .qcmdFlush q => Sys2Proof.Machine.execQcmdFlush q s
  | .qpush q word eop => Sys2Proof.Machine.execQpush q word eop s
  | .queueQuadSend q => Sys2Proof.Machine.execQueueQuadSend q s
  | .queueCmdDrop q => Sys2Proof.Machine.execQueueCmdDrop q s
  | .queueCmdFlush q => Sys2Proof.Machine.execQueueCmdFlush q s
  | .queueEnable q data => Sys2Proof.Machine.execQueueEnable q data s
  | .timerefLoss => Sys2Proof.Machine.execTimerefLoss s
  | .pllRelock locked => Sys2Proof.Machine.execPllRelock s locked
  | .slewEnd => Sys2Proof.Machine.execSlewEnd s
  | .tbAdjGo ofs => Sys2Proof.Machine.execTbAdjGo ofs s
  | .tbNowRead => Sys2Proof.Machine.execTbNowRead s
  | .cadenceEnable n data => Sys2Proof.Machine.execCadenceEnable n data s
  | .cadenceDisable n data => Sys2Proof.Machine.execCadenceDisable n data s
  | .cadPosRead n => Sys2Proof.Machine.execCadPosRead n s
  | .trim n => Sys2Proof.Machine.execTrim n s
  | .rate n => Sys2Proof.Machine.execRate n s
  | .ptSel n => Sys2Proof.Machine.execPtSel n s
  | .ptM n => Sys2Proof.Machine.execPtM n s
  | .ptY n => Sys2Proof.Machine.execPtY n s
  | .ptK n => Sys2Proof.Machine.execPtK n s
  | .flip n => Sys2Proof.Machine.execFlip n s
  | .couple n => Sys2Proof.Machine.execCouple n s
  | .free n => Sys2Proof.Machine.execFree n s
  | .shift n => Sys2Proof.Machine.execShift n s
  | .syncEdge n => Sys2Proof.Machine.execSyncEdge n s
  | .cadenceBoundary n => Sys2Proof.Machine.execCadenceBoundary n s
  | .notice n => Sys2Proof.Machine.execNotice n s
  | .camEvaluation port late => Sys2Proof.Machine.execCamEvaluation port late s
  | .tableEnable data => Sys2Proof.Machine.execTableEnable data s
  | .tableDisable data => Sys2Proof.Machine.execTableDisable data s
  | .axisEnable axis data => Sys2Proof.Machine.execAxisEnable axis data s
  | .releaseMarker cas entry => Sys2Proof.Machine.execReleaseMarker cas entry s
  | .releasePinEdge cas entry => Sys2Proof.Machine.execReleasePinEdge cas entry s
  | .pulseEnd pin => Sys2Proof.Machine.execPulseEnd pin s
  | .releasePwmDutyLoad cas entry => Sys2Proof.Machine.execReleasePwmDutyLoad cas entry s
  | .releaseChainCommit cas entry => Sys2Proof.Machine.execReleaseChainCommit cas entry s
  | .releaseMessage cas entry => Sys2Proof.Machine.execReleaseMessage cas entry s
  | .strobeOpenWindow cas entry => Sys2Proof.Machine.execStrobeOpenWindow cas entry s
  | .strobeCloseWindow cas entry => Sys2Proof.Machine.execStrobeCloseWindow cas entry s
  | .strobeLatchEncoder cas entry => Sys2Proof.Machine.execStrobeLatchEncoder cas entry s
  | .strobeStartSsi cas entry => Sys2Proof.Machine.execStrobeStartSsi cas entry s
  | .relKill cas entry => Sys2Proof.Machine.execRelKill cas entry s
  | .fioSafeClr => Sys2Proof.Machine.execFioSafeClr s
  | .bankMismatch bank => Sys2Proof.Machine.execBankMismatch bank s
  | .pinEdgeCapture pin rise => Sys2Proof.Machine.execPinEdgeCapture pin rise s
  | .phaseWindowOpen w => Sys2Proof.Machine.execPhaseWindowOpen w s
  | .phaseWindowClose w => Sys2Proof.Machine.execPhaseWindowClose w s
  | .encoderTransition e a b => Sys2Proof.Machine.execEncoderTransition e a b s
  | .encoderPeriodicLatch e => Sys2Proof.Machine.execEncoderPeriodicLatch e s
  | .encoderZLatch e => Sys2Proof.Machine.execEncoderZLatch e s
  | .ssiFrameEnd e data => Sys2Proof.Machine.execSsiFrameEnd e data s
  | .pwmPeriodStart j => Sys2Proof.Machine.execPwmPeriodStart j s
  | .pwmFall j => Sys2Proof.Machine.execPwmFall j s
  | .laneEnable n data => Sys2Proof.Machine.execLaneEnable n data s
  | .laneRateWrite n data => Sys2Proof.Machine.execLaneRateWrite n data s
  | .laneLock n => Sys2Proof.Machine.execLaneLock n s
  | .relockTimeout n => Sys2Proof.Machine.execRelockTimeout n s
  | .lossOfSignal n los => Sys2Proof.Machine.execLossOfSignal n los s
  | .controlCommandGo n data => Sys2Proof.Machine.execControlCommandGo n data s
  | .controlAck n err crcBad code data => Sys2Proof.Machine.execControlAck n err crcBad code data s
  | .controlTimeout n => Sys2Proof.Machine.execControlTimeout n s
  | .heartbeatPacket n => Sys2Proof.Machine.execHeartbeatPacket n s
  | .heartbeatLost n => Sys2Proof.Machine.execHeartbeatLost n s
  | .eventPacket n => Sys2Proof.Machine.execEventPacket n s
  | .lineTrigger n => Sys2Proof.Machine.execLineTrigger n s
  | .lineComplete n pixels first j crcBad fmtOk ovf last codes strays => Sys2Proof.Machine.execLineComplete n pixels first j crcBad fmtOk ovf s last codes strays
  | .triggerAbandon n => Sys2Proof.Machine.execTriggerAbandon n s
  | .lostReport n => Sys2Proof.Machine.execLostReport n s
  | .findingSend n => Sys2Proof.Machine.execFindingSend n s
  | .visionIdleRetention n => Sys2Proof.Machine.execVisionIdleRetention n s
  | .visWake n => Sys2Proof.Machine.execVisWake n s
  | .freezeArm n data => Sys2Proof.Machine.execFreezeArm n data s
  | .imageRead port nodes => Sys2Proof.Machine.execImageRead port nodes s
  | .chainCycleStart port => Sys2Proof.Machine.execChainCycleStart port s
  | .cyclicFrameReturn rx frame latn => Sys2Proof.Machine.execCyclicFrameReturn rx frame latn s
  | .ringBreakTimeout port => Sys2Proof.Machine.execRingBreakTimeout port s
  | .feedbackDeadline port => Sys2Proof.Machine.execFeedbackDeadline port s
  | .bulkFrameReturn rx frame => Sys2Proof.Machine.execBulkFrameReturn rx frame s
  | .parameterRequest port data => Sys2Proof.Machine.execParameterRequest port data s
  | .parameterTimeout port => Sys2Proof.Machine.execParameterTimeout port s
  | .portRequest port req => Sys2Proof.Machine.execPortRequest port req s
  | .portStateChange port => Sys2Proof.Machine.execPortStateChange port s
  | .chnWake port => Sys2Proof.Machine.execChnWake port s
  | .chnEnumerate port => Sys2Proof.Machine.execChnEnumerate port s
  | .chnMeasure port => Sys2Proof.Machine.execChnMeasure port s
  | .chnRejoin port => Sys2Proof.Machine.execChnRejoin port s
  | .chnCmdDone port headers loops => Sys2Proof.Machine.execChnCmdDone port headers loops s
  | .chainIdleRetention port => Sys2Proof.Machine.execChainIdleRetention port s
  | .mailboxSend m data => Sys2Proof.Machine.execMailboxSend m data s
  | .groupReceive port head seq ack tail data => Sys2Proof.Machine.execGroupReceive port head seq ack tail data s
  | .timeBlockSend port => Sys2Proof.Machine.execTimeBlockSend port s
  | .timeBlockReceive port peer h index answers ofs kind => Sys2Proof.Machine.execTimeBlockReceive port peer h index answers ofs s kind
  | .lockAcquire => Sys2Proof.Machine.execLockAcquire s
  | .timeBlockTimeout => Sys2Proof.Machine.execTimeBlockTimeout s
  | .tandemPortDown port ack => Sys2Proof.Machine.execTandemPortDown port ack s
  | .tandemPortUp port lat peerFollows => Sys2Proof.Machine.execTandemPortUp port lat peerFollows s
  | .spanMaskWrite data peer => Sys2Proof.Machine.execSpanMaskWrite data peer s
  | .spanRecord record => Sys2Proof.Machine.execSpanRecord record s
  | .mvGo c => Sys2Proof.Machine.execMvGo c s
  | .mvStop c => Sys2Proof.Machine.execMvStop c s
  | .mvClr c => Sys2Proof.Machine.execMvClr c s
  | .mvEnable c data => Sys2Proof.Machine.execMvEnable c data s
  | .descriptorFetch c conf => Sys2Proof.Machine.execDescriptorFetch c conf s
  | .moverBeat engine srcHost dstHost hostErr timeout => Sys2Proof.Machine.execMoverBeat engine srcHost dstHost hostErr s timeout
  | .readBack c hostErr timeout => Sys2Proof.Machine.execReadBack c hostErr s timeout
  | .eventRaise source => Sys2Proof.Machine.execEventRaise source s
  | .groupTimeLimit group => Sys2Proof.Machine.execGroupTimeLimit group s
  | .eventSourceConfig data => Sys2Proof.Machine.execEventSourceConfig data s
  | .evHclaim v => Sys2Proof.Machine.execEvHclaim v s
  | .evHfin num => Sys2Proof.Machine.execEvHfin num s
  | .evSw data => Sys2Proof.Machine.execEvSw data s
  | .pgEvtPendClear page data => Sys2Proof.Machine.execPgEvtPendClear page data s
  | .journalRecordWrite => Sys2Proof.Machine.execJournalRecordWrite s
  | .digestIntervalEnd => Sys2Proof.Machine.execDigestIntervalEnd s
  | .journalEnable data => Sys2Proof.Machine.execJournalEnable data s
  | .journalDisable data => Sys2Proof.Machine.execJournalDisable data s
  | .journalMark data => Sys2Proof.Machine.execJournalMark data s
  | .jrnTrigEdge rise => Sys2Proof.Machine.execJrnTrigEdge rise s
  | .snapshot n => Sys2Proof.Machine.execSnapshot n s
  | .replayEnable data => Sys2Proof.Machine.execReplayEnable data s
  | .replayGo data => Sys2Proof.Machine.execReplayGo data s
  | .replayRecord header payload => Sys2Proof.Machine.execReplayRecord header payload s
  | .replayDigestCompare => Sys2Proof.Machine.execReplayDigestCompare s
  | .domainRequest dom req => Sys2Proof.Machine.execDomainRequest dom req s
  | .domainEntry dom conf => Sys2Proof.Machine.execDomainEntry dom conf s
  | .domainWake source => Sys2Proof.Machine.execDomainWake source s
  | .domainRestore dom => Sys2Proof.Machine.execDomainRestore dom s
  | .restoreFail dom => Sys2Proof.Machine.execRestoreFail dom s
  | .wakePin n level => Sys2Proof.Machine.execWakePin n level s
  | .pwrAlarm => Sys2Proof.Machine.execPwrAlarm s
  | .idleRule dom => Sys2Proof.Machine.execIdleRule dom s
  | .pwrKick cog => Sys2Proof.Machine.execPwrKick cog s
  | .governorPeriod q iout => Sys2Proof.Machine.execGovernorPeriod q iout s
  | .readVout q reply => Sys2Proof.Machine.execReadVout q reply s
  | .govSetWrite q data bus => Sys2Proof.Machine.execGovSetWrite q data s bus
  | .pmbusAlert addr status low => Sys2Proof.Machine.execPmbusAlert addr status low s
  | .vcogUndervoltage q => Sys2Proof.Machine.execVcogUndervoltage q s
  | .vcogRecover q => Sys2Proof.Machine.execVcogRecover q s
  | .tempConversion sensor t => Sys2Proof.Machine.execTempConversion sensor t s
  | .railSample low high => Sys2Proof.Machine.execRailSample low high s
  | .srefLoss => Sys2Proof.Machine.execSrefLoss s
  | .watchdogWarning cog => Sys2Proof.Machine.execWatchdogWarning cog s
  | .watchdogExpiry cog => Sys2Proof.Machine.execWatchdogExpiry cog s
  | .watchdogKick cog => Sys2Proof.Machine.execWatchdogKick cog s
  | .brakeIn => Sys2Proof.Machine.execBrakeIn s
  | .hltBrakeSet => Sys2Proof.Machine.execHltBrakeSet s
  | .hltBrakeClr => Sys2Proof.Machine.execHltBrakeClr s
  | .twoWireRead a => Sys2Proof.Machine.execTwoWireRead a s
  | .twoWireWrite a data parityOk mode => Sys2Proof.Machine.execTwoWireWrite a data parityOk mode s
  | .twoWireReadIncrement a => Sys2Proof.Machine.execTwoWireReadIncrement a s
  | .twoWireWriteIncrement a data parityOk mode => Sys2Proof.Machine.execTwoWireWriteIncrement a data parityOk mode s
  | .lineReset => Sys2Proof.Machine.execLineReset s
  | .daDataAccess port data mode => Sys2Proof.Machine.execDaDataAccess port data mode s
  | .idcode => Sys2Proof.Machine.execIdcode s
  | .bypass => Sys2Proof.Machine.execBypass s
  | .extest cells => Sys2Proof.Machine.execExtest cells s
  | .samplePreload cells => Sys2Proof.Machine.execSamplePreload cells s
  | .dau op a data mode => Sys2Proof.Machine.execDau op a data mode s
  | .trst => Sys2Proof.Machine.execTrst s
  | .auReq port data => Sys2Proof.Machine.execAuReq port data s
  | .nonceReady port words => Sys2Proof.Machine.execNonceReady port words s
  | .auChk port data => Sys2Proof.Machine.execAuChk port data s
  | .authCheckDone port => Sys2Proof.Machine.execAuthCheckDone port s
  | .auDrop port data => Sys2Proof.Machine.execAuDrop port data s
  | .cogHalt cog data => Sys2Proof.Machine.execCogHalt cog data s
  | .cogResume cog data => Sys2Proof.Machine.execCogResume cog data s
  | .cogStep cog data => Sys2Proof.Machine.execCogStep cog data s
  | .dbgValWrite cog data => Sys2Proof.Machine.execDbgValWrite cog data s
  | .dbgValHiWrite cog data => Sys2Proof.Machine.execDbgValHiWrite cog data s
  | .dbgValRead cog => Sys2Proof.Machine.execDbgValRead cog s
  | .pelotonGo g data => Sys2Proof.Machine.execPelotonGo g data s
  | .pelotonResume g data => Sys2Proof.Machine.execPelotonResume g data s
  | .benchWrite port en => Sys2Proof.Machine.execBenchWrite port en s
  | .attachWrite port attach => Sys2Proof.Machine.execAttachWrite port attach s
  | .trcPop data => Sys2Proof.Machine.execTrcPop data s
  | .powerOnReset timeref rails => Sys2Proof.Machine.execPowerOnReset s timeref rails
  | .deviceReset data => Sys2Proof.Machine.execDeviceReset data s
  | .perst => Sys2Proof.Machine.execPerst s
  | .pageSoftReset page data => Sys2Proof.Machine.execPageSoftReset page data s
  | .pgCtrlEnable page data => Sys2Proof.Machine.execPgCtrlEnable page data s
  | .boot => Sys2Proof.Machine.execBoot s
  | .sysBootGo => Sys2Proof.Machine.execSysBootGo s
  | .otpBlow data => Sys2Proof.Machine.execOtpBlow data s
  | .otpBlowDone => Sys2Proof.Machine.execOtpBlowDone s
  | .elogPop => Sys2Proof.Machine.execElogPop s
  | .pgInjWrite page data bus => Sys2Proof.Machine.execPgInjWrite page data s bus
  | .registerWrite addr data be poisoned mode malformed => Sys2Proof.Machine.execRegisterWrite addr data be poisoned mode s malformed
  | .pageDrainDone page => Sys2Proof.Machine.execPageDrainDone page s
  | .bankMismatchEnd bank => Sys2Proof.Machine.execBankMismatchEnd bank s
  | .vcogOvervoltage q => Sys2Proof.Machine.execVcogOvervoltage q s
  | .brakeInRelease => Sys2Proof.Machine.execBrakeInRelease s
  | .powerLoss timeref rails => Sys2Proof.Machine.execPowerLoss s timeref rails
  | .pcieLinkDown => Sys2Proof.Machine.execPcieLinkDown s
  | .pcieLinkUp speed width l1 conf aerClear => Sys2Proof.Machine.execPcieLinkUp speed width s l1 conf aerClear

end Sys2Proof.Machine
end

