-- ==== Sys2Proof/Machine/Tick.lean ====
section
/-! DEFINITION. What passes with one nanosecond of the timebase while no command waits (DESIGN CHOICE, log entry 1): the timebase, and what follows
from time alone and has no row of its own. -/

namespace Sys2Proof.Machine

/-- The adjustment of the timebase falls by 1 ns in 10,000 ticks, behind an alignment (R234). -/
def State.slewTick (s : State) : State :=
  let rem := signed (s.rd 0x070 R.TB_ADJ_REM_REM) 28
  if s.aligning ∨ rem = 0 then { s with slewTicks := 0 }
  else if s.slewTicks + 1 < 10000 then { s with slewTicks := s.slewTicks + 1 }
  else ({ s with slewTicks := 0 } : State).wr 0x070 R.TB_ADJ_REM_REM (wrap (if 0 < rem then rem - 1 else rem + 1) 28)

/-- The timers of a frozen page stand still: their starts move with the time (R222, R405, R495). -/
def State.holdTimers (s : State) : State :=
  let s := if s.pels.isEmpty then s
    else { s with queues := s.queues.map fun (q, x) => (q, if s.frozen (qPage q) then { x with touched := x.touched + 1 } else x) }
  if s.frozen 0x040 then { s with evGrp := s.evGrp.map fun (g, x) => (g, { x with first := x.first + 1 }) } else s

/-- The ends of injected conditions (R260, R276, R467, R477). -/
def State.endInjected (s : State) : State :=
  let due := fun (u : Option Nat) => (u.map fun t => decide (t ≤ s.tb)).getD false
  let s := if due s.timeref.injUntil then s.refInjectEnd else s
  let s := if due s.misUntil then ({ s with misUntil := none } : State).showBanks else s
  let s := if due s.railUntil then
      ({ s with railUntil := none } : State).showRails (setBits (s.rd 0x020 R.HLT_RAIL_LOW) 0 1 0) (s.rd 0x020 R.HLT_RAIL_HIGH)
    else s
  let s := if due s.brkUntil then { s with brkUntil := none } else s
  { s with govs := s.govs.map fun (q, g) => (q, if due g.injUntil then { g with injUntil := none } else g) }

/-- The watchdogs count whole microseconds of the timebase (R478). -/
def State.watchdogTick (s : State) : State := if s.tb % 1000 = 0 then upTo 272 (fun (t : State) i => t.wdtCount i) s else s

/-- The supply of each quadrant follows its cassettes (R456): the transactions that turn a regulator on go first, then in ascending order (R454). -/
def State.supplyTick (s : State) : State :=
  let qs := List.range 4
  (qs.filter s.quadActive ++ qs.filter fun q => !s.quadActive q).foldl (fun (t : State) q => (t.govSettle q).uvReport q) s

/-- The idle rules' intervals (R444). -/
def State.idleTick (s : State) : State := ((List.range 16).map (8 + ·) ++ [48, 49]).foldl (fun (t : State) d => t.trackIdle d) s

/-- The SSI clocks go on (R283), and the MISSes of windows that can now be judged are (R282). -/
def State.fieldTick (s : State) : State :=
  if !s.domOn 3 then s
  else
    let s := s.encs.foldl (fun (t : State) (e, x) => if x.frame.isSome then t.ssiShow e t.tb else t) s
    s.cws.foldl (fun (t : State) (w, _) => t.winJudge w) s

/-- One nanosecond passes (R230); none does before the timebase starts (R526). -/
def State.tick (s : State) : State :=
  if s.boot = .held then s
  else
  let s := { s with tb := (s.tb + 1) % 2 ^ 64 }
  (s.inputsDue.startDue.slewTick.holdTimers.endInjected.watchdogTick.supplyTick.idleTick.repairsDue.settle.fieldTick.flushCaps).flushOutbox

end Sys2Proof.Machine
end

