-- ==== Sys2Proof/Safety.lean ====
section
/-! DEFINITION. What a safe state and a safe step are, in the terms that claims use. -/

namespace Sys2Proof.Machine

/-- A state whose byte memory is in canonical form: two states with equal stores have equal lists. -/
def State.Ok (s : State) : Prop := Memory.wf s.mem = true

/-- A step that answers a next state: it neither faults nor refuses. -/
def Runs (s : State) : Prop := ∃ t, step s = .next t

/-! ### Words of the statements -/

/-- The command of an ALU operation on one of a cog's two ALUs. -/
def aluCommand (op : AluOp) (i : CogId) (u : Bool) : Instr :=
  match op with
  | .add => .aluAdd i u
  | .adc => .aluAdc i u
  | .sub => .aluSub i u
  | .and => .aluAnd i u
  | .or => .aluOr i u
  | .xor => .aluXor i u
  | .lim => .aluLim i u

/-- A message waits at the command input of cadence `n`: the hub is on, exactly one enabled ordered channel of this device names that input, its merge
can deliver the message, and no error is to be injected into a slot. -/
def State.commandReady (s : State) (n ch : Nat) (m : Msg) : Prop :=
  s.domOn 3 = true ∧
  (s.knownChans.filter fun k => s.chOrd k && !s.on (chanPage k) R.FAB_CH_LO_TAN && s.rd (chanPage k) R.FAB_CH_LO_RCV = 0x140 + n) = [ch] ∧
  s.deliverable ch = some m ∧ s.injArmed 0x0A0 3 = false ∧ s.injArmed 0x0A0 2 = false

end Sys2Proof.Machine
end

