-- ==== Sys2Proof/Certificates/Slice0/Obligations.lean ====
section
/-! DEFINITION. The statements about the device, one definition each. -/

section

open Sys2Proof Sys2Proof.Machine

/-- The queue is first in, first out. The idle tick is the model's choice (log entry 1). -/
def Obligations.StepTakesTheFrontCommand : Prop :=
  (∀ (s : State) (c : Instr) (rest : List Instr), step { s with pending := c :: rest } = exec c { s with pending := rest }) ∧
  (∀ s : State, s.pending = [] → step s = .next s.tick)

/-- What power-on leaves (R83, R230, R503, R507). -/
def Obligations.ResetMeetsTheInvariant : Prop :=
  State.reset.Ok ∧ State.reset.tb = 0 ∧ (∀ i, State.reset.cog i = {}) ∧ State.reset.pending = [] ∧ State.reset.elog = [] ∧ State.reset.boot = .start ∧
    State.reset.rd 0x000 R.SYS_RST_CAUSE = 1

/-- The invariant of the stores, kept by all 288 commands and by the tick. -/
def Obligations.EveryStepKeepsMemoryCanonical : Prop :=
  ∀ s t : State, s.Ok → step s = .next t → t.Ok

/-- R230 over all commands: no other reset touches the timebase; it never skips or repeats a value. -/
def Obligations.OnlyPowerMovesTheTimebase : Prop :=
  (∀ (c : Instr) (s : State), ∃ t, exec c s = .next t ∧ t.pending = s.pending ∧
    ((∀ ref rails, c ≠ .powerOnReset ref rails ∧ c ≠ .powerLoss ref rails) → t.tb = s.tb) ∧
    (∀ ref rails, c = .powerOnReset ref rails ∨ c = .powerLoss ref rails → t.tb = 0)) ∧
  (∀ s : State, s.pending = [] → ∃ t, step s = .next t ∧ t.tb = (if s.boot = .held then s.tb else (s.tb + 1) % 2 ^ 64) ∧ t.pending = [])

/-- R104, from the trigger to the registers. -/
def Obligations.DigitConversionDelivers : Prop :=
  let word := fun (m : Nat) (neg : Bool) => m % 10 + 16 * (m / 10 % 10) + 256 * (m / 100 % 10) + 8192 * b2n neg
  (∀ (i : CogId) (s : State) (p : Presented), s.presented i = some p → p.op = .digCvt →
    let c := s.cog i
    let x := signed p.val.toNat p.w.bits
    let m := min x.natAbs 999999
    let d := c.get .digd % 32 / 2 * 2
    ∃ fw : FlagWrite, exec (.digCvt i) s = .next (s.longStart i .dig [(d, word m (decide (x < 0))), (d + 1, word (m / 1000) (decide (x < 0)))] fw) ∧
      bit fw.mask flagV = true ∧ bit fw.val flagV = decide (999999 < x.natAbs) ∧ fw.mask < 2 ^ 14 ∧ fw.val < 2 ^ 14) ∧
  (∀ (i : CogId) (s : State) (o : LongOp) (d : Nat) (a b : Word), s.domOn (64 + i) = true → (s.cog i).long.find? (fun x => decide (x.unit = .dig)) = some o → o.fresh = false →
    o.dests = [(d, a), (d + 1, b)] → d < 31 → bit o.fmask.toNat flagV = true →
    ∃ t, exec (.longLatencyResult i .dig) s = .next t ∧ (t.cog i).gWord d = a.toNat ∧ (t.cog i).gWord (d + 1) = b.toNat ∧
      bit (t.cog i).flags.toNat flagV = bit o.fval.toNat flagV)

/-- R53, for loads and for stores of each width. -/
def Obligations.UnmappedAccessesAreCountedAndReadZero : Prop :=
  let recorded := fun (i : CogId) (s u : State) (a : Nat) (store : Bool) =>
    u.on (cogPage i) R.COG_STORE_UNMAPPED = true ∧ u.rd (cogPage i) R.PG_ERR_CNT_CNT = min (s.rd (cogPage i) R.PG_ERR_CNT_CNT + 1) 65535 ∧
    u.rd (cogPage i) R.COG_UNMAP_ADDR = a % 2 ^ 28 ∧ u.on (cogPage i) R.COG_UNMAP_STORE = store ∧ u.mem = s.mem ∧ (u.cog i).trap = (s.cog i).trap ∧
    (u.cog i).trap4 = (s.cog i).trap4 ∧ (u.cog i).trap5 = (s.cog i).trap5
  (∀ (i : CogId) (s : State) (k : Nat) (l : Load), s.domOn (64 + i) = true → (s.cog i).loads.findIdx? (·.answer.isNone) = some k →
    (s.cog i).loads[k]? = some l → (s.cog i).loadWaits l = false → spaceOf l.addr = .unmapped →
    ∃ (u : State), exec (.loadAnswer i) s = .next u.settle ∧ (u.cog i).loads = (s.cog i).loads.set k { l with answer := some (.value 0) } ∧ recorded i s u l.addr false) ∧
  (∀ (i : CogId) (s : State) (p : Presented), s.presented i = some p → (s.cog i).lock = none → (s.cog i).sbuf.length < 4 →
    let a := wrap (((s.cog i).get .stb : Int) + signed p.val.toNat 14) 28
    spaceOf a = .unmapped →
    ∀ x ∈ [(Instr.stW i, Trigger.stW), (.stL i, .stL), (.stT i, .stT)], p.op = x.2 →
      ∃ (u : State), exec x.1 s = .next (u.accepted i) ∧ (u.cog i).sbuf = (s.cog i).sbuf ∧ recorded i s u a true)

/-- R170. -/
def Obligations.DeadBar2AccessesReadZeroAndAreLogged : Prop :=
  let dead := fun (s : State) (a : Nat) => (match (windowOf a).dom with | none => true | some d => decide ((s.dom d).st = .off ∨ (s.dom d).st = .ret)) = true
  (∀ (a : BitVec 29) (n : Nat) (s : State), s.hostReaches = true → 0 < n → (∀ k, k < n → dead s (a.toNat + k)) → s.elog.length < 16 →
    ∃ t, exec (.bar2Read a n) s = .next t ∧ t.out.head? = some (.completion a.toNat (List.replicate n 0) false) ∧
      t.elog = s.elog ++ [⟨a.toNat, 2, s.now⟩] ∧ t.mem = s.mem) ∧
  (∀ (a : BitVec 29) (bytes : List (Bool × Byte)) (k : Nat) (s : State), s.hostReaches = true → (∀ j, j < bytes.length → dead s (a.toNat + j)) →
    bytes.findIdx? (·.1) = some k → s.boot = .done → s.elog.length < 16 →
    ∃ t, exec (.bar2Write a bytes false) s = .next t ∧ t.elog = s.elog ++ [⟨a.toNat + k, 2, s.now⟩] ∧ t.mem = s.mem)

/-- R397. -/
def Obligations.MoversFollowTheFabricDomain : Prop :=
  let fs := (fields_mve.map (·.2)).filter fun f => f.keep ≠ .none
  (∀ p, 0x050 ≤ p → p ≤ 0x054 → pageDom p = 3) ∧
  (∀ (e : Fin 4) (a b : List Byte) (h o : Bool) (s : State), (s.dom 3).st = .ret ∨ (s.dom 3).st = .off → exec (.moverBeat e a b h o) s = .next s) ∧
  (∀ s : State, (s.dom 3).going = some .ret → (s.dom 3).latched = false →
    ∃ t, exec (.domainEntry 3) s = .next t ∧ (t.dom 3).st = .ret ∧ t.movers = s.movers ∧ t.movTurn = s.movTurn ∧
      ∀ c, c < 64 → ∀ f ∈ fs, t.mrd c f = s.mrd c f) ∧
  (∀ s : State, (s.dom 3).going = some .off → (s.dom 3).latched = false →
    ∃ t, exec (.domainEntry 3) s = .next t ∧ (t.dom 3).st = .off ∧ t.movers = [] ∧ t.movTurn = [] ∧ ∀ c, c < 64 → ∀ f ∈ fs, t.mrd c f = 0) ∧
  (∀ s : State, (s.dom 3).going = some .on → (s.dom 3).st = .off → s.railOn 3 = true → s.startsAt 3 ≤ s.tb →
    ∃ t, exec (.domainRestore 3) s = .next t ∧ (t.dom 3).st = .on ∧ t.movers = s.movers ∧ ∀ c, c < 64 → t.mrd c R.MV_CFG_EN = s.mrd c R.MV_CFG_EN)

/-- The result and the flags of the seven ALU triggers (R88, R91, R94): only the bundle in progress changes before the unit accepts; step 7
of R37 writes the port. Addition and subtraction of the ALU (R91, R92, R94), in terms of numbers. -/
def Obligations.AluTriggersDeliverExactSums : Prop :=
  (
  ∀ (i : CogId) (u : Bool) (op : AluOp) (s : State) (p : Presented),
    s.presented i = some p → p.op = .alu u op →
    let c := s.cog i
    let r := aluCompute op p.w.bits (c.get (if u then .alu1o else .alu0o)) p.val.toNat (bit c.flags.toNat flagC) (bit c.flags.toNat flagSAT)
    exec (aluCommand op i u) s = .next ((s.setCog i { c with cur := c.cur.map fun k => { k with
      results := k.results ++ [(if u then .alu1r else .alu0r, BitVec.ofNat 42 (sext r.1 p.w))] } }).accepted i r.2)) ∧
  (
  ∀ (w : Width) (o v : Nat) (c : Bool), o < 2 ^ w.bits → v < 2 ^ w.bits →
    let n := w.bits
    let so := signed o n
    let sv := signed v n
    let claims := fun (a : Nat × FlagWrite) (x : Int) (carry : Bool) =>
      (a.1 : Int) = x % (2 ^ n : Nat) ∧ bit a.2.val flagC = carry ∧ bit a.2.val flagZ = decide (a.1 = 0) ∧ bit a.2.val flagN = decide (2 ^ (n - 1) ≤ a.1) ∧
      bit a.2.val flagV = decide (x < -(2 ^ (n - 1) : Nat) ∨ (2 ^ (n - 1) : Nat) ≤ x) ∧ a.2.mask = 0xF
    claims (aluCompute .add n o v c false) (so + sv) (decide (2 ^ n ≤ o + v)) ∧
    claims (aluCompute .adc n o v c false) (so + sv + b2n c) (decide (2 ^ n ≤ o + v + b2n c)) ∧
    claims (aluCompute .sub n o v c false) (so - sv) (decide (o < v)) ∧
    signed (aluCompute .add n o v c true).1 n = max (-((2 ^ (n - 1) : Nat) : Int)) (min (so + sv) ((2 ^ (n - 1) : Nat) - 1)) ∧
    signed (aluCompute .adc n o v c true).1 n = max (-((2 ^ (n - 1) : Nat) : Int)) (min (so + sv + b2n c) ((2 ^ (n - 1) : Nat) - 1)) ∧
    signed (aluCompute .sub n o v c true).1 n = max (-((2 ^ (n - 1) : Nat) : Int)) (min (so - sv) ((2 ^ (n - 1) : Nat) - 1)))

/-- The shifts of R95, exactly, and what they compute. -/
def Obligations.ShiftTriggersDeliver : Prop :=
  (∀ (i : CogId) (op : ShiftOp) (s : State) (p : Presented),
    s.presented i = some p → p.op = (match op with | .shl => .shl | .shr => .shr | .sar => .sar) →
    let r := shiftCompute op p.w.bits ((s.cog i).get .sho) (shiftCount p.w p.val.toNat)
    exec (match op with | .shl => .shShl i | .shr => .shShr i | .sar => .shSar i) s =
      .next ((s.setCog i { s.cog i with cur := (s.cog i).cur.map fun k => { k with
        results := k.results ++ [(.shr, BitVec.ofNat 42 (sext r.1 p.w))] } }).accepted i r.2)) ∧
  (∀ (w : Width) (o k : Nat),
    (shiftCompute .shl w.bits o k).1 = o * 2 ^ k % 2 ^ w.bits ∧
    (shiftCompute .shr w.bits o k).1 = o % 2 ^ w.bits / 2 ^ k ∧
    signed (shiftCompute .sar w.bits o k).1 w.bits = signed o w.bits / (2 ^ k : Nat))

/-- The accumulator after the four mac triggers that change it (R96, R97). -/
def Obligations.MacTriggersAccumulate : Prop :=
  ∀ (i : CogId) (s : State) (p : Presented), s.presented i = some p →
    let c := s.cog i
    let uns := bit (c.get .macm) 1
    let prod : Int := if uns then ((c.get .maco % 2 ^ 14 * (p.val.toNat % 2 ^ 14) : Nat) : Int) else signed (c.get .maco) 14 * signed p.val.toNat 14
    let ends := fun (x : Int) => (Host.Outcome.next ((s.setCog i { c with acc := BitVec.ofInt 42 x }).accepted i) : Result)
    (p.op = .macMul → exec (.macMul i) s = ends prod) ∧
    (p.op = .macMac → exec (.macMac i) s = ends (c.acc.toInt + prod)) ∧
    (p.op = .macMsu → exec (.macMsu i) s = ends (c.acc.toInt - prod)) ∧
    (p.op = .macLd → exec (.macLd i) s = ends (signed p.val.toNat p.w.bits))

/-- The long-latency triggers (R44, R98, R99, R103, R104): each starts its operation on the registers of its unit. A long-latency result
(R44, R46): the destinations hold the words with their scoreboard bits clear; all else of the cog's data is kept. Flags within the
operation's own bundle follow at its completion. -/
def Obligations.LongUnitsScoreboardAndWrite : Prop :=
  (
  ∀ (i : CogId) (s : State) (p : Presented), s.presented i = some p →
    let c := s.cog i
    let v := p.val.toNat
    let n := p.w.bits
    let sat := bit c.flags.toNat flagSAT
    let o := c.get .digo % 2 ^ 14
    let starts := fun (u : LongUnit) (words : List Nat) (fw : FlagWrite) =>
      (Host.Outcome.next (s.longStart i u ((c.longDests p.op p.w).zip words) fw) : Result)
    (p.op = .macRd →
      let r := macRead c.acc.toNat (v % 64) n (bit (c.get .macm) 0) sat
      exec (.macRd i) s = starts .mac (wordsOf p.w.words r.1) r.2) ∧
    (p.op = .divS →
      let r := divCompute true n (c.get .divo) v sat
      exec (.divS i) s = starts .div (wordsOf p.w.words r.1 ++ wordsOf p.w.words r.2.1) r.2.2) ∧
    (p.op = .divU →
      let r := divCompute false n (c.get .divo) v sat
      exec (.divU i) s = starts .div (wordsOf p.w.words r.1 ++ wordsOf p.w.words r.2.1) r.2.2) ∧
    (p.op = .digAdd →
      let r := digSum o (v % 2 ^ 14) (b2n (bit c.flags.toNat flagD)) o
      exec (.digAdd i) s = starts .dig [r.1] (digFlags r.1 r.2)) ∧
    (p.op = .digSub →
      let r := digDiff o (v % 2 ^ 14) (b2n (bit c.flags.toNat flagD)) o
      exec (.digSub i) s = starts .dig [r.1] (digFlags r.1 r.2)) ∧
    (p.op = .digAdj →
      let r := digSum (wrap ((v % 2 ^ 14 : Nat) - (o % 4096 : Nat) : Int) 12) o 0 o
      exec (.digAdj i) s = starts .dig [r.1] (digFlags r.1 r.2)) ∧
    (p.op = .digCvt →
      let r := digConvert v n
      exec (.digCvt i) s = starts .dig [r.1, r.2.1] r.2.2)) ∧
  (
  ∀ (i : CogId) (u : LongUnit) (s : State) (o : LongOp), s.domOn (64 + i) = true → (s.cog i).long.find? (fun x => decide (x.unit = u)) = some o →
    ∃ t, exec (.longLatencyResult i u) s = .next t ∧
      (t.cog i).long = (s.cog i).long.erase o ∧
      (∀ r v, look o.dests.reverse r = some v → (t.cog i).gWord r = v.toNat ∧ (r < 32 → bit (t.cog i).sb.toNat r = false)) ∧
      (∀ r, look o.dests.reverse r = none → (t.cog i).gWord r = (s.cog i).gWord r ∧ bit (t.cog i).sb.toNat r = bit (s.cog i).sb.toNat r) ∧
      (t.cog i).flags = (if o.fresh && (s.cog i).cur.isSome then (s.cog i).flags else applyFlags (s.cog i).flags ⟨o.fmask.toNat, o.fval.toNat⟩) ∧
      ((o.fresh && (s.cog i).cur.isSome) = true → (t.cog i).cur = (s.cog i).cur.map fun k =>
        let j := joinFlags k.lmask.toNat k.lval.toNat o.fmask.toNat o.fval.toNat
        { k with lmask := j.1, lval := j.2 }) ∧
      (t.cog i).acc = (s.cog i).acc ∧ (t.cog i).port = (s.cog i).port ∧
      (∀ j, j ≠ i.val → t.cog j = s.cog j) ∧ t.mem = s.mem ∧ t.regs = s.regs ∧ t.pending = s.pending)

/-- Triggers that act in one unit and complete at once (R47, R60, R70, R72, R77, R105, R108, R156). -/
def Obligations.SimpleTriggersActAtOnce : Prop :=
  ∀ (i : CogId) (u : Bool) (s : State) (p : Presented), s.presented i = some p →
    let c := s.cog i
    let v := p.val.toNat
    let ends := fun (c' : Cog) => (Host.Outcome.next ((s.setCog i c').accepted i) : Result)
    (p.op = .agSet u → exec (.agSet i u) s = ends (c.setAg u (Ag.load v p.w))) ∧
    (p.op = .agIdx u → exec (.agIdx i u) s = ends (c.setAg u { c.ag u with idx := v % 2 ^ 28 % (c.ag u).modulus })) ∧
    (p.op = .ldSet → exec (.ldSet i) s = ends (c.set .ldr (sext v p.w))) ∧
    (p.op = .chSel → exec (.chSel i) s = ends { c with sel := v % 4096 }) ∧
    (p.op = .br → exec (.br i) s = ends { c with cur := c.cur.map fun k => { k with
      target := some (if p.w = .word then wrap ((c.pc : Int) + signed v 14) 19 else v % 2 ^ 19) } }) ∧
    (p.op = .fence → exec (.fence i) s =
      if c.sbuf = [] then ends { c with cur := c.cur.map fun k => { k with fence := true } } else .next (s.stallCog i 7)) ∧
    (p.op = .fsync → exec (.fsync i) s =
      if c.sbuf = [] then ends { c with cur := c.cur.map fun k => { k with fence := true, fsync := true } } else .next (s.stallCog i 7)) ∧
    (p.op = .lock → exec (.lock i) s = ends { c with
      lock := some { limit := if v % 32 = 0 ∨ 16 < v % 32 then 16 else v % 32, done := 0, start := c.pc },
      cur := c.cur.map fun k => { k with locking := true } }) ∧
    (p.op = .lpExit → exec (.lpExit i) s = ends { c with loops := c.loops.dropLast })

/-- The load triggers (R47, R48, R56, R106): address, width, delay and forwarding. -/
def Obligations.LoadTriggersStartALoad : Prop :=
  ∀ (i : CogId) (u : Bool) (s : State) (p : Presented), s.presented i = some p → (s.cog i).lock = none →
    let c := s.cog i
    let a0 := wrap ((c.get .ldo : Int) + signed p.val.toNat 14) 28
    let x := c.ag u
    let aA := x.addr (c.get (if u then .ag1b else .ag0b) % 2 ^ 28)
    let cA := c.setAg u (x.step (c.get (if u then .ag1s else .ag0s)))
    let starts := fun (e : Instr) (c' : Cog) (a : Nat) (w : Width) =>
      (c.checkBuffer a w.words = none →
        exec e s = .next ((s.setCog i { c' with loads := c.loads ++ [{ addr := a, w := w, delay := 3 }] }).accepted i)) ∧
      (∀ k v, c.checkBuffer a w.words = some (k, some v) →
        exec e s = .next ((s.setCog i { c' with loads := c.loads ++
          [{ addr := a, w := w, delay := 3, answer := some (.value (BitVec.ofNat 42 (sext v w))) }] }).accepted i)) ∧
      (∀ k, c.checkBuffer a w.words = some (k, none) →
        exec e s = .next ((((s.setCog i { c' with loads := c.loads ++ [{ addr := a, w := w, delay := 3, behind := k + 1 }] }).bump
          (cogPage i) R.COG_STORE_PARTIAL).accepted i)))
    (p.op = .ldW → starts (.ldW i) c a0 .word) ∧ (p.op = .ldL → starts (.ldL i) c a0 .long) ∧
    (p.op = .ldT → starts (.ldT i) c a0 .triple) ∧ (p.op = .ldAg u → starts (.ldAg i u) cA aA x.width)

/-- The store triggers (R53, R56, R57, R106): one entry enters the buffer, and the bundle after a store to the program window is fetched
first (R73). -/
def Obligations.StoreTriggersEnterTheBuffer : Prop :=
  ∀ (i : CogId) (u : Bool) (s : State) (p : Presented), s.presented i = some p → (s.cog i).lock = none →
    let c := s.cog i
    let a0 := wrap ((c.get .stb : Int) + signed p.val.toNat 14) 28
    let x := c.ag u
    let aA := x.addr (c.get (if u then .ag1b else .ag0b) % 2 ^ 28)
    let cA := c.setAg u (x.step (c.get (if u then .ag1s else .ag0s)))
    let enters := fun (e : Instr) (c' : Cog) (a : Nat) (w : Width) =>
      let ws : List Word := (wordsOf w.words (c.get .sto)).map (BitVec.ofNat 14)
      (4 ≤ c.sbuf.length → exec e s = .next (s.stallCog i 3)) ∧
      (c.sbuf.length < 4 → spaceOf a ≠ .unmapped → spaceOf a ≠ .prog →
        exec e s = .next ((s.setCog i { c' with sbuf := c.sbuf ++ [⟨a, ws⟩] }).accepted i)) ∧
      (c.sbuf.length < 4 → spaceOf a = .prog →
        exec e s = .next (((s.setCog i { c' with sbuf := c.sbuf ++ [⟨a, ws⟩] }).fetchAhead i ((c.cur.map (·.next)).getD 0)).accepted i)) ∧
      (c.sbuf.length < 4 → spaceOf a = .unmapped → exec e s = .next (((s.setCog i c').unmapped i a true).accepted i))
    (p.op = .stW → enters (.stW i) c a0 .word) ∧ (p.op = .stL → enters (.stL i) c a0 .long) ∧
    (p.op = .stT → enters (.stT i) c a0 .triple) ∧ (p.op = .stAg u → enters (.stAg i u) cA aA x.width)

/-- The store of a buffer entry (R55, R57, R59): the bytes written are those that the entry's address gives, and no others; the answer to a
load (R49) changes no byte. -/
def Obligations.DrainStoresExactlyTheEntry : Prop :=
  (∀ (i : CogId) (s : State) (e : SbEntry) (es : List SbEntry),
    s.Ok → s.domOn (64 + i) = true → (s.cog i).sbuf = e :: es → s.drainReady i = true →
    ∃ t : State, exec (.storeBufferDrain i) s = .next (t.tryFinish i) ∧ (t.cog i).sbuf = es ∧ t.pending = s.pending ∧
      (spaceOf e.addr ≠ .prog → t.regs = s.regs) ∧
      (e.addr + e.data.length ≤ 0x4000 →
        (∀ k w, e.data[k]? = some w → t.word (localBase i + 2 * (e.addr + k)) = w) ∧
        (∀ a, a < localBase i + 2 * e.addr ∨ localBase i + 2 * (e.addr + e.data.length) ≤ a → t.byte a = s.byte a)) ∧
      (0x100000 ≤ e.addr → e.addr + e.data.length ≤ 0x140000 →
        let b := sharedBase (casOf i) + 2 * (e.addr - 0x100000)
        (∀ k w, e.data[k]? = some w → t.word (b + 2 * k) = w) ∧
        (∀ a, a < b ∨ b + 2 * e.data.length ≤ a → t.byte a = s.byte a)) ∧
      (0x1000000 ≤ e.addr → e.addr + e.data.length ≤ 0x1080000 →
        let b := progBase (casOf i) + (e.addr - 0x1000000)
        (∀ k w, e.data[k]? = some w → t.byte (b + k) = BitVec.ofNat 8 w.toNat) ∧
        (∀ a, a < b ∨ b + e.data.length ≤ a → t.byte a = s.byte a))) ∧
  (∀ (i : CogId) (s : State) (k : Nat) (l : Load), s.domOn (64 + i) = true →
    (s.cog i).loads.findIdx? (·.answer.isNone) = some k → (s.cog i).loads[k]? = some l → (s.cog i).loadWaits l = false →
    ∃ (t : State) (u : State), exec (.loadAnswer i) s = .next t ∧ t = u.settle ∧
      (∃ l', (u.cog i).loads = (s.cog i).loads.set k l' ∧ l'.addr = l.addr ∧ l'.w = l.w ∧ l'.delay = l.delay ∧ l'.answer.isSome = true) ∧
      (∀ a, t.byte a = s.byte a) ∧ t.tb = s.tb)

/-- Calls and returns (R80, R81, R152). -/
def Obligations.CallAndReturnKeepTheFrame : Prop :=
  ∀ (i : CogId) (s : State) (p : Presented), s.presented i = some p →
    let c := s.cog i
    let sp := c.get .sp
    let fails := fun (t : State) (k a : Nat) => (Host.Outcome.next ((t.setCog i { t.cog i with todo := [], cur := none }).trapCog i
      { vec := 3, cause := k, info := a, pc := (t.cog i).pc, ret := (t.cog i).pc }) : Result)
    (p.op = .call → c.sbuf.length ≤ 2 →
      let q := wrap ((sp : Int) - 2) 14
      let ret := (c.cur.map (·.next)).getD 0
      exec (.call i) s = .next ((s.setCog i { c.set .sp q with
        cur := c.cur.map fun k => { k with target := some (if p.w = .word then wrap ((c.pc : Int) + signed p.val.toNat 14) 19 else p.val.toNat % 2 ^ 19) },
        sbuf := c.sbuf ++ [⟨q, [BitVec.ofNat 14 ret]⟩, ⟨(q + 1) % 16384, [BitVec.ofNat 14 (ret / 2 ^ 14)]⟩] }).accepted i)) ∧
    (p.op = .call → 2 < c.sbuf.length → exec (.call i) s = .next (s.stallCog i 3)) ∧
    (p.op = .ret → ∀ lo hi u, s.readStack i sp 2 = ([lo, hi], none, u) →
      let aimed := fun (x : Cog) => { x with cur := x.cur.map fun k => { k with target := some (lo + hi % 32 * 2 ^ 14) } }
      (bit hi 13 = false → exec (.ret i) s = .next ((u.setCog i (aimed ((u.cog i).set .sp ((sp + 2) % 16384)))).accepted i)) ∧
      (bit hi 13 = true → ∀ f t, u.readStack i (sp + 2) 1 = ([f], none, t) →
        exec (.ret i) s = .next ((t.setCog i { t.cog i with cur := (t.cog i).cur.map fun k =>
          { k with exret := some (lo + hi % 32 * 2 ^ 14, BitVec.ofNat 14 f) } }).accepted i)) ∧
      (bit hi 13 = true → ∀ f k a t, u.readStack i (sp + 2) 1 = ([f], some (k, a), t) → exec (.ret i) s = fails t k a)) ∧
    (p.op = .ret → ∀ lo hi k a u, s.readStack i sp 2 = ([lo, hi], some (k, a), u) →
      exec (.ret i) s = fails (if bit hi 13 then (u.readStack i (sp + 2) 1).2.2 else u) k a) ∧
    (∀ (t : State) (pc target : Nat) (f : Word) (d : Nat),
      (t.cog i).mayChain d = false ∨ (∀ k, t.presentedClass i = some k → k + 1 ≤ levelOf f) →
      t.returnFrom i pc target f d = (t.setCog i ((t.cog i).set .sp (((t.cog i).get .sp + 3) % 16384))).transfer i target)

/-- Hardware loops (R75, R79). -/
def Obligations.LoopTriggersKeepTheLevels : Prop :=
  (∀ (i : CogId) (s : State) (p : Presented), s.presented i = some p →
    let c := s.cog i
    let v := p.val.toNat
    let start := (c.cur.map (·.next)).getD 0
    let last := (start + v % 2 ^ 14) % 0x80000
    (p.op = .lpLoop → c.get .lpc ≠ 0 →
      exec (.lpLoop i) s = .next ((s.setCog i { c with loops := c.loops ++ [⟨start, last, c.get .lpc⟩] }).accepted i)) ∧
    (p.op = .lpLoop → c.get .lpc = 0 →
      exec (.lpLoop i) s = .next ((s.setCog i { c with cur := c.cur.map fun k => { k with skip := some ((last + s.lengthAt i last) % 0x80000) } }).accepted i)) ∧
    (p.op = .lpSave → s.Ok → c.sbuf = [] → c.loads = [] → (∀ k, c.cur = some k → k.saved = 0) → c.cur.isSome = true →
      let at_ := fun k => (v + k) % 16384
      let word := fun k => BitVec.ofNat 14 ((loopWords c.loops).getD k 0)
      ∃ u : State, exec (.lpSave i) s = .next (u.accepted i) ∧ (u.cog i).loops = c.loops ∧ u.regs = s.regs ∧ (∀ j, j ≠ i.val → u.cog j = s.cog j) ∧
        (u.cog i).sbuf = (List.range 4).map (fun j => ⟨at_ (21 + j), [word (21 + j)]⟩) ∧
        (∀ k, k < 21 → u.word (localBase i + 2 * at_ k) = word k) ∧
        (∀ a, (∀ k, k < 21 → a ≠ localBase i + 2 * at_ k ∧ a ≠ localBase i + 2 * at_ k + 1) → u.byte a = s.byte a)) ∧
    (p.op = .lpSave →
      let done := fun (t : State) => ((t.cog i).cur.map (·.saved)).getD 0
      let u := s.saveWords i v ((loopWords c.loops).drop (done s))
      exec (.lpSave i) s = .next (if done u < 25 then u.stallCog i 3 else u.accepted i)) ∧
    (p.op = .lpRest → ∀ ws u, s.readStack i v 25 = (ws, none, u) →
      exec (.lpRest i) s = .next ((u.setCog i { u.cog i with loops := wordsLoops ws }).accepted i)) ∧
    (p.op = .lpRest → ∀ ws k a u, s.readStack i v 25 = (ws, some (k, a), u) →
      exec (.lpRest i) s = .next ((u.setCog i { u.cog i with todo := [], cur := none }).trapCog i
        { vec := 3, cause := k, info := a, pc := (u.cog i).pc, ret := (u.cog i).pc }))) ∧
  (∀ ls : List Loop, ls.length ≤ 4 → (∀ l ∈ ls, l.start < 0x80000 ∧ l.last < 0x80000 ∧ l.count < 2 ^ 28) →
    wordsLoops (loopWords ls) = ls ∧ (loopWords ls).length = 25 ∧ ∀ x ∈ loopWords ls, x < 2 ^ 14)

/-- The ch triggers (R108 to R111) over the fabric's sends and deliveries. -/
def Obligations.ChannelTriggersSendAndReceive : Prop :=
  ∀ (i : CogId) (s : State) (p : Presented) (x : Nat), s.presented i = some p → s.cogSender i = some x → s.domOn 3 = true →
    let c := s.cog i
    let v := p.val.toNat
    let ch := c.sel
    let sends := fun (e : Instr) (words : List Nat) =>
      (c.sbuf ≠ [] → exec e s = .next (s.stallCog i 7)) ∧
      (c.sbuf = [] → ∀ n, s.sendFails ch x (c.get .chs) = some n → exec e s = .next ((s.fabErr ch x n).accepted i)) ∧
      (c.sbuf = [] → s.sendFails ch x (c.get .chs) = none → s.freeCredits ch x = 0 → exec e s = .next (s.stallCog i 6)) ∧
      (c.sbuf = [] → s.sendFails ch x (c.get .chs) = none → s.freeCredits ch x ≠ 0 →
        ∃ (u : State) (m : Msg), exec e s = .next (u.accepted i) ∧ m.chan = ch ∧ m.sender = x ∧ m.kind = 0 ∧ m.words = words.map (· % 2 ^ 14) ∧
          (s.chOrd ch = true → m.stamp = c.get .chs % 2 ^ 42) ∧
          (u.chan ch).flight = (s.chan ch).flight ++ [.msg m] ∧
          lookD (u.chan ch).used (s.creditKey ch x) 0 = lookD (s.chan ch).used (s.creditKey ch x) 0 + 1 ∧
          u.mem = s.mem ∧ u.regs = s.regs ∧ u.cogs = s.cogs ∧ ∀ k, k ≠ ch → u.chan k = s.chan k)
    (p.op = .chSend → sends (.chSend i) (wordsOf p.w.words v)) ∧
    (p.op = .chSend4 → sends (.chSend4 i) (wordsOf 3 (c.get .cho) ++ [v % 2 ^ 14])) ∧
    (p.op = .chHzn → c.sbuf = [] → s.chOrd ch = true → s.sendFails ch x (c.get .chs) = none →
      ∃ (u : State), exec (.chHzn i) s = .next (u.accepted i) ∧ (u.chan ch).flight = (s.chan ch).flight ++ [.token x (c.get .chs % 2 ^ 42)] ∧
        (u.member ch x).lastSent = some (c.get .chs % 2 ^ 42) ∧ u.mem = s.mem ∧ u.regs = s.regs) ∧
    (p.op = .chHzn → c.sbuf = [] → s.chOrd ch = false ∨ (s.sendFails ch x (c.get .chs)).isSome = true → exec (.chHzn i) s = .next (s.accepted i)) ∧
    (p.op = .chHzn → c.sbuf ≠ [] → exec (.chHzn i) s = .next (s.stallCog i 7)) ∧
    (∀ m u, s.canReceive i (v % 4096) = true → s.takeMsg (v % 4096) = (some m, u) →
      let w := (u.setCog i ((u.cog i).receive m)).watchdogKick i 1
      (p.op = .chRecv → exec (.chRecv i) s = .next (w.accepted i)) ∧
      (p.op = .chTry → exec (.chTry i) s = .next (w.accepted i ⟨1, 0⟩))) ∧
    (∀ u, s.canReceive i (v % 4096) = true → s.takeMsg (v % 4096) = (none, u) →
      (p.op = .chTry → exec (.chTry i) s = .next (u.accepted i ⟨1, 1⟩)) ∧
      (p.op = .chRecv → exec (.chRecv i) s = .next (u.stallCog i 6))) ∧
    (s.injArmed 0x0A0 3 = false → s.injArmed 0x0A0 2 = false →
      s.takeMsg (v % 4096) = match s.deliverable (v % 4096) with | some m => (some m, s.deliver m) | none => (none, s)) ∧
    (s.canReceive i (v % 4096) = false → p.op = .chTry → exec (.chTry i) s = .next ((s.badReceive i).accepted i ⟨1, 1⟩)) ∧
    (s.canReceive i (v % 4096) = false → p.op = .chRecv → exec (.chRecv i) s = .next ((s.badReceive i).accepted i ⟨1, 1⟩))

/-- The tm triggers (R112, R113, R265 to R269). -/
def Obligations.TimeTriggersSampleArmAndKill : Prop :=
  ∀ (i : CogId) (s : State) (p : Presented), s.presented i = some p →
    let c := s.cog i
    let v := p.val.toNat
    let entry := v % 256
    let key := relKey (casOf i) entry
    let stat := s.rd 0x070 R.TB_STAT_HOLD + 2 * s.rd 0x070 R.TB_STAT_SLEW + 4 * s.rd 0x070 R.TB_STAT_REF_OK
    (p.op = .tmNow → v % 2 ^ 14 ≠ 1 → v % 2 ^ 14 ≠ 2 →
      exec (.tmNow i) s = .next ((s.setCog i { c.set .tmr (s.tb % 2 ^ 42) with sample := s.tb, sampleStat := stat }).accepted i)) ∧
    (p.op = .tmNow → v % 2 ^ 14 = 1 → exec (.tmNow i) s = .next ((s.setCog i (c.set .tmr (c.sample / 2 ^ 42))).accepted i)) ∧
    (p.op = .tmNow → v % 2 ^ 14 = 2 → exec (.tmNow i) s = .next ((s.setCog i (c.set .tmr c.sampleStat)).accepted i)) ∧
    (s.relNext = none → s.releaseDue = s) ∧
    (p.op = .tmArm →
      let r := s.releaseDue.watchdogKick i 0
      let x := r.cog i
      (∀ k, r.logicalOf i = some k → r.armRefuse (casOf i) k entry (x.get .tmo) = 0 →
        let n := actCad (x.get .tmo)
        let slack : Int × Bool := if r.injArmed (relPage (casOf i)) 0 then (-1, true)
          else if actPh (x.get .tmo) then
            (if r.cadEn n && decide ((r.cad n).enabledAt ≤ r.tb) && decide ((r.cad n).rateAt r.tb ≠ 0) && decide ((r.cad n).short (x.get .tms) r.tb ≤ 0)
              then (-1, true) else (0, false))
          else (stampDiff (x.get .tms) r.now, decide (stampDiff (x.get .tms) r.now < 0))
        ∃ (u : State), exec (.tmArm i) s = .next (u.accepted i ⟨2, if slack.2 then 2 else 0⟩) ∧
          look u.rel key = some ⟨x.get .tms, x.get .tmo, k, r.tb, slack.2⟩ ∧
          (u.cog i).get .tmr = wrap (clampSlack slack.1) 42 ∧ (∀ q, q ≠ key → look u.rel q = look r.rel q) ∧ u.mem = r.mem ∧ u.tb = r.tb) ∧
      (∀ k, r.logicalOf i = some k → r.armRefuse (casOf i) k entry (x.get .tmo) ≠ 0 →
        ∃ (u : State), exec (.tmArm i) s = .next (u.accepted i ⟨2, 2⟩) ∧ u.rel = r.rel ∧ (u.cog i).get .tmr = wrap (-134217728) 42)) ∧
    (p.op = .tmKill →
      let r := s.releaseDue
      (∀ k, r.logicalOf i = some k → r.relOwner (casOf i) entry = k →
        ∃ (u : State), exec (.tmKill i) s = .next (u.accepted i ⟨1, b2n (look r.rel key).isNone⟩) ∧
          (risingFrom 0 r.rel = true → look u.rel key = none) ∧ (∀ q, q ≠ key → look u.rel q = look r.rel q) ∧ u.cogs = r.cogs ∧ u.mem = r.mem) ∧
      (∀ k, r.logicalOf i = some k → r.relOwner (casOf i) entry ≠ k →
        ∃ (u : State), exec (.tmKill i) s = .next (u.accepted i ⟨1, 1⟩) ∧ u.rel = r.rel ∧ u.cogs = r.cogs ∧ u.mem = r.mem))

/-- The ev, pw and dbg triggers (R114, R116, R162, R163, R408, R410, R497), each in every state in which it stands at the head. -/
def Obligations.EventWaitAndTraceTriggers : Prop :=
  ∀ (i : CogId) (s : State) (p : Presented), s.presented i = some p →
    let c := s.cog i
    let v := p.val.toNat
    let k := (s.logicalOf i).getD 16
    let routed := fun n => decide (s.rd (srcPage n) R.EV_SRC_CFG_CAS = casOf i) && bit (s.rd (srcPage n) R.EV_SRC_CFG_MASK) k
    (p.op = .evClaim →
      (s.injArmed 0x040 1 = true → exec (.evClaim i) s = .next (((s.injTake 0x040 1).setCog i (c.set .evr 1023)).accepted i ⟨1, 1⟩)) ∧
      (s.injArmed 0x040 1 = false → s.domOn 2 = true → ∀ n, s.bestOf routed = some n →
        let vec := if s.on (srcPage n) R.EV_SRC_CFG_HOST then some (s.rd (srcPage n) R.EV_SRC_CFG_VEC) else none
        exec (.evClaim i) s = .next (((s.setSrc n { s.src n with st := .claimed, vec := vec, cas := casOf i, k := k, host := false }).setCog i
          (c.set .evr n)).accepted i ⟨1, b2n (decide (n = 1023))⟩)) ∧
      (s.injArmed 0x040 1 = false → s.domOn 2 = false ∨ s.bestOf routed = none →
        exec (.evClaim i) s = .next ((s.setCog i (c.set .evr 1023)).accepted i ⟨1, 1⟩))) ∧
    (p.op = .evFin →
      let n := v % 1024
      let x := s.src n
      let idle := s.setSrc n { x with st := .idle, rep := false, cas := 0, k := 0, host := false, vec := none }
      let again := s.on (srcPage n) R.EV_SRC_CFG_EN && (if isLevelSource n then !(s.queue (n - 272)).quads.isEmpty else x.rep)
      let u := if s.domOn 2 = false then s else if x.st = .claimed then (if again then idle.arrive n else idle) else s.bump 0x040 R.EV_ERR_BADFIN
      exec (.evFin i) s = .next ((u.watchdogKick i 2).accepted i)) ∧
    (∀ k0 : Current, p.op = .pwWait → c.cur = some k0 →
      let o := c.get .pwo
      let bad := bit o 3 && !s.canReceive i (v % 4096)
      let w0 : Waiting := { mode := o % 4, wev := bit o 2, wch := bit o 3 && !bad, wtm := bit o 4, chan := v % 4096, stamp := c.get .tms }
      let w := k0.wait.getD { w0 with cause := s.waitCauses i w0 }
      let s1 := if k0.wait.isSome then s else
        (if bad then s.wr (cogPage i) R.COG_STORE_BADRX 1 else s).setCog i { c with cur := some { k0 with wait := some w } }
      let busy := if c.loads.any (fun l => l.answer.isNone) then 2 else if c.long ≠ [] then 1 else if c.sbuf ≠ [] then 7 else 0
      let u := (s1.bump (cogPage i) R.COG_PWR_WAITS).wr (cogPage i) R.COG_PWR_MODE w.mode
      let z := (u.setCog i { u.cog i with wait := some w }).accepted i
      let asleep := if w.mode = 1 then z.beginEntry (64 + i) .ret else if w.mode = 2 then z.beginEntry (64 + i) .off else z
      (busy ≠ 0 → exec (.pwWait i) s = .next (s1.stallCog i busy)) ∧
      (busy = 0 → w.cause ≠ 0 → exec (.pwWait i) s = .next ((u.setCog i ((u.cog i).set .pwr (16 + (w.cause ||| u.waitCauses i w)))).accepted i)) ∧
      (busy = 0 → w.cause = 0 → (z.cog i).wait = none → exec (.pwWait i) s = .next z) ∧
      (busy = 0 → w.cause = 0 → (z.cog i).wait ≠ none →
        exec (.pwWait i) s = .next (if (asleep.cog i).haltReq.isSome || (asleep.cog i).mon9 then asleep.wakeCog i 0x20
          else if (asleep.cog i).disabling then asleep.disableWait i else asleep))) ∧
    (p.op = .dbgStim →
      let port := c.get .dbgo % 32
      let packet : TracePacket := ⟨s.now, 0, s.traceSrc i, port, p.w.words - 1, v % 2 ^ (14 * p.w.words)⟩
      let lost : TracePacket := { stamp := s.now, type := 7, value := s.traceLost }
      let lose := fun (t : State) => ({ t.bump 0x032 R.TRC_STAT_DROP with traceLost := t.traceLost + 1 } : State).pgEvt 0x020 17
      let ends := fun (t : State) => exec (.dbgStim i) s = .next (t.accepted i)
      (s.on 0x032 R.TRC_CTRL_EN = false → ends (s.bump 0x032 R.TRC_STAT_DROP)) ∧
      (s.on 0x032 R.TRC_CTRL_EN = true → bit (s.rd 0x032 R.TRC_MASK_PORTS) port = false → ends s) ∧
      (s.on 0x032 R.TRC_CTRL_EN = true → bit (s.rd 0x032 R.TRC_MASK_PORTS) port = true →
        (s.injArmed 0x032 0 = true → ends (lose (s.injTake 0x032 0))) ∧
        (s.injArmed 0x032 0 = false → 4096 ≤ s.trace.length → ends (lose s)) ∧
        (s.injArmed 0x032 0 = false → s.trace.length < 4096 → s.traceLost = 0 → ends { s with trace := s.trace ++ [packet] }) ∧
        (s.injArmed 0x032 0 = false → s.trace.length < 4095 → s.traceLost ≠ 0 → ends { s with trace := s.trace ++ [lost, packet], traceLost := 0 }) ∧
        (s.injArmed 0x032 0 = false → s.trace.length = 4095 → s.traceLost ≠ 0 → ends (lose { s with trace := s.trace ++ [lost], traceLost := 0 }))))

/-- The issue of a bundle (R37 steps 1 to 6) and the fetch that feeds it (R65, R67, R68). The acceptance of a trigger and the completion of
its bundle (R37 step 7, R46, R60, R76, R152). -/
def Obligations.BundlesIssueAndComplete : Prop :=
  (
  (∀ (i : CogId) (s : State) (b : Bundle) (x : Byte × Bool) (bs : List (Byte × Bool)),
    let c := s.cog i
    s.cogRuns i = true → c.run = .issuing → c.wait = none → c.trap = none → c.begun = none → c.cur = none → c.todo = [] → c.lock = none → c.miss = false →
    c.haltReq = none → c.disabling = false → (∀ k, k < 4 → bit (s.rd (cogPage i) R.COG_DBG_BRKEN) k = false) →
    c.fetchBytes c.pc 19 = x :: bs → bundleLength x.1.toNat ≤ bs.length + 1 →
    (∀ y ∈ (x :: bs).take (bundleLength x.1.toNat), y.2 = false) →
    decodeBundle (((x :: bs).take (bundleLength x.1.toNat)).map (·.1)) = .ok b →
    (∀ l, c.loads.head? = some l → l.delay ≠ 0) → c.sb = 0 → c.long = [] →
    let live := b.moves.filter fun m => !m.guarded || condHolds (b.pred.getD 0) c.flags
    let c1 := live.foldl (fun (y : Cog) m =>
      match m.dst with
      | .g n => y.setGroup n b.width (c.readSrc b.width b.limm m)
      | .port q => y.writePort q b.width (c.readSrc b.width b.limm m)
      | .trig _ => y) c
    let trigs : List Presented := live.filterMap fun m =>
      match m.dst with
      | .trig t => some ⟨t, BitVec.ofNat 42 (c.readSrc b.width b.limm m), b.width⟩
      | _ => none
    let ahead := fun (e : Nat) => decide (0 < (c.pc + 0x80000 - e) % 0x80000 ∧ (c.pc + 0x80000 - e) % 0x80000 < 0x40000)
    (∀ m ∈ live, s.offlinePort i 0 [m] = none) →
    c1.misaligned trigs = none → (∀ p ∈ trigs, s.stackTrap i c1 p = none) →
    let u := s.setCog i { c1 with
      todo := trigs, cur := some { pc := c.pc, next := (c.pc + b.len) % 0x80000, defers := trigs.any fun p => p.op.defers },
      stall := none, entering := none, brkSkip := c.brkSkip.filter (· ≠ c.pc), fetchWait := false,
      endMark := if b.endMark then some ((c.pc + b.len - 1) % 0x80000) else c.endMark.filter fun e => !ahead e }
    exec (.bundle i) s = .next (if trigs = [] then u.finishBundle i else u)) ∧
  (∀ (i : CogId) (s : State), s.cogRuns i = true → (s.cog i).run = .issuing →
    ((s.cog i).miss = true →
      ∃ (u : State), exec (.lineFetch i) s = .next (u.issue i) ∧ (u.cog i).miss = false ∧ (u.cog i).pc = (s.cog i).pc ∧
        (∃ f, (u.cog i).inUse = some f ∧ f.addr = (s.cog i).pc % 0x80000 ∧ f.bytes.length = 32 ∧ (u.cog i).tcache = (f :: (s.cog i).tcache).take 32) ∧
        u.mem = s.mem) ∧
    (∀ a, (s.cog i).miss = false → (s.cog i).lacks (s.cog i).pc = some a → (s.cog i).atBoundary = true →
      exec (.lineFetch i) s = .next (((s.fetchStall i).readLine i a).issue i)) ∧
    ((s.cog i).miss = false → (s.cog i).lacks (s.cog i).pc = none ∨ (s.cog i).atBoundary = false → exec (.lineFetch i) s = .next (s.issue i))) ∧
  (∀ (i : CogId) (s : State), s.cogRuns i = true → (s.cog i).run = .issuing → (s.cog i).miss = false → (s.cog i).endMark = none →
    s.keptLoop i = none → (s.cog i).lines = [] → (s.cog i).coming = none →
    ∃ (t : State) (f : _), exec (.prefetch i) s = .next t ∧ (t.cog i).lines = [f] ∧ f.addr = ((s.cog i).pc + 32) % 0x80000 / 32 * 32 ∧ f.bytes.length = 32 ∧
      (t.cog i).pc = (s.cog i).pc ∧ t.mem = s.mem)) ∧
  (
  ∀ (i : CogId) (s : State) (p : Presented) (ps : List Presented) (k : Current) (fw : FlagWrite),
    (s.cog i).todo = p :: ps → (s.cog i).cur = some k →
    let c := s.cog i
    let k' := { k with fmask := BitVec.ofNat 14 (k.fmask.toNat ||| fw.mask),
                       fval := BitVec.ofNat 14 (((List.range 14).map fun b => b2n (if bit fw.mask b then bit fw.val b else bit k.fval.toNat b) * 2 ^ b).sum),
                       ovf := k.ovf || (bit fw.mask flagV && bit fw.val flagV) }
    let written := k.results.foldl (fun (x : Cog) r => x.set r.1 r.2.toNat) c
    let calm := c.run = .issuing ∧ c.loads = [] ∧ c.lock = none ∧ c.trap = none ∧ c.trap3 = none ∧ c.trap4 = false ∧ c.trap5 = false ∧ c.begun = none ∧
      bit c.flags.toNat flagVT = false ∧ c.stepOne = false ∧ k.defers = false ∧ k.lockEnd = false ∧ k.lmask = 0 ∧
      (∀ j x, (j, x) ∈ s.cogs → x.haltReq = none ∧ x.disabling = false) ∧ c.haltReq = none ∧ c.disabling = false ∧ (k.fence = false ∨ c.sbuf = [])
    let ends := fun (pc : Nat) (loops : List Loop) =>
      ∃ t, s.accepted i fw = t ∧ (t.cog i).todo = [] ∧ (t.cog i).cur = none ∧ (t.cog i).pc % 0x80000 = pc % 0x80000 ∧ (t.cog i).loops = loops ∧
        (t.cog i).flags = applyFlags c.flags ⟨k'.fmask.toNat, k'.fval.toNat⟩ ∧ (t.cog i).g = c.g ∧ (t.cog i).port = written.port ∧
        (t.cog i).acc = c.acc ∧ (t.cog i).defer = c.defer - 1 ∧ t.mem = s.mem ∧ ∀ j, j ≠ i.val → t.cog j = s.cog j
    let order := k.skip.getD k.next
    (ps ≠ [] → s.accepted i fw = s.setCog i { c with todo := ps, cur := some k', stall := none }) ∧
    (ps = [] → c.run = .issuing → k.fence = true → c.sbuf ≠ [] →
      s.accepted i fw = s.setCog i { c with todo := [], cur := some k', stall := some (7, s.tb) }) ∧
    (∀ a, ps = [] → calm → k.exret = none → k.target = some a → ends a c.loops) ∧
    (∀ ls l, ps = [] → calm → k.exret = none → k.target = none → c.loops = ls ++ [l] → l.last = k.pc → 1 < l.count →
      ends l.start (ls ++ [{ l with count := l.count - 1 }])) ∧
    (∀ ls l, ps = [] → calm → k.exret = none → k.target = none → c.loops = ls ++ [l] → l.last = k.pc → l.count ≤ 1 →
      (∀ m, ls.getLast? = some m → m.last ≠ k.pc) → ends order ls) ∧
    (ps = [] → calm → k.exret = none → k.target = none → (∀ m, c.loops.getLast? = some m → m.last ≠ k.pc) → ends order c.loops) ∧
    (∀ (target : Nat) (f : Word), ps = [] → calm → k.exret = some (target, f) →
      (∀ n, s.presentedClass i = some n → n + 1 ≤ levelOf f) →
      ∃ t, s.accepted i fw = t ∧ (t.cog i).todo = [] ∧ (t.cog i).cur = none ∧ (t.cog i).pc = target % 0x80000 ∧
        (t.cog i).get .sp = (written.get .sp + 3) % 16384 ∧ (t.cog i).flags = applyFlags f ⟨k'.fmask.toNat, k'.fval.toNat⟩ ∧ (t.cog i).g = c.g ∧
        (t.cog i).acc = c.acc ∧ t.mem = s.mem ∧ ∀ j, j ≠ i.val → t.cog j = s.cog j))

/-- Entries into a vector (R143, R146, R149, R150, R155) and the timeouts of a locked sequence (R160). -/
def Obligations.EntriesAndLockTimeouts : Prop :=
  ∀ (i : CogId) (s : State),
    let c := s.cog i
    let sp := c.get .sp
    let q := wrap ((sp : Int) - 3) 14
    let frame := fun (ret : Nat) =>
      [⟨q, [BitVec.ofNat 14 ret]⟩, ⟨(q + 1) % 16384, [BitVec.ofNat 14 (ret / 2 ^ 14 + 2 ^ 13)]⟩, (⟨(q + 2) % 16384, [c.flags]⟩ : SbEntry)]
    (s.cogRuns i = true → c.run = .issuing → c.wait = none → c.begun = none → c.loads = [] → c.sbuf = [] → c.long = [] →
      c.trap3 = none → c.trap4 = false → c.trap5 = false → (∀ l, c.lock = some l → l.late = false) → s.belowLo i ((sp : Int) - 3) = false →
      (∀ tr : Trap, c.trap = some tr → tr.vec < 16 → tr.cause < 16 →
        (∀ j x, (j, x) ∈ s.cogs → x.haltReq = none ∧ x.disabling = false) →
        ∃ t, exec (.exceptionEntry i) s = .next t ∧
          t.rd (cogPage i) R.COG_TRAP_VEC = tr.vec ∧ t.rd (cogPage i) R.COG_TRAP_CAUSE = tr.cause ∧
          t.rd (cogPage i) R.COG_TRAP_PC_PC = tr.pc % 2 ^ 19 ∧ t.rd (cogPage i) R.COG_TRAP_INFO_INFO = tr.info % 2 ^ 28 ∧ t.on (cogPage i) R.COG_TRAP_VALID = true ∧
          (t.cog i).get .sp = q ∧ (t.cog i).trap = none ∧ (t.cog i).lock = none ∧ (t.cog i).sbuf = frame tr.ret ∧
          (t.cog i).pc = t.vectorAddr i tr.vec ∧ (∀ a, t.byte a = s.byte a)) ∧
      (c.trap = none → c.asyncReady = true → (c.mon9 || c.warn8) = true →
        ∃ t, exec (.exceptionEntry i) s = .next t ∧ (t.cog i).get .sp = q ∧ (t.cog i).sbuf = frame c.pc ∧
          (t.cog i).pc = t.vectorAddr i (if c.mon9 then 9 else 8) ∧ (t.cog i).mon9 = false ∧ (t.cog i).warn8 = (c.mon9 && c.warn8) ∧ (∀ a, t.byte a = s.byte a)) ∧
      (∀ k, s.presentedClass i = some k → k < 16 → c.asyncReady = true → c.mon9 = false → c.warn8 = false → (c.stepOne && !c.stepEvent) = false →
        levelOf c.flags < k + 1 →
        (c.entering = none →
          ∃ t, exec (.eventEntry i) s = .next t ∧ (t.cog i).get .sp = q ∧ levelOf (t.cog i).flags = k + 1 ∧ (t.cog i).entering = some k ∧
            (t.cog i).sbuf = frame c.pc ∧ (t.cog i).pc = t.vectorAddr i (16 + k) ∧ (∀ a, t.byte a = s.byte a)) ∧
        (∀ j, c.entering = some j →
          ∃ t, exec (.eventEntry i) s = .next t ∧ (t.cog i).get .sp = sp ∧ (t.cog i).sbuf = [] ∧ levelOf (t.cog i).flags = k + 1 ∧
            (t.cog i).entering = some k ∧ (t.cog i).pc = t.vectorAddr i (16 + k)))) ∧
    (∀ l : LockSeq, c.lock = some l → l.limit ≤ l.done → c.atBoundary = true → c.trap = none → c.run = .issuing →
      let u := s.setCog i { c with
        lock := none, stall := none, stepOne := false, trap := some { vec := 10, cause := 1, info := l.start, pc := l.last, ret := c.pc } }
      exec (.lockLimitTimeout i) s = .next (if c.stepOne then u.requestHalt i ⟨2, 0⟩ else u)) ∧
    (∀ (l : LockSeq) (why since : Nat), c.sequence = some l → c.stall = some (why, since) → since + 4000 < s.tb → c.haltReq = none → c.todo ≠ [] → l.late = false →
      exec (.lockStallTimeout i) s = .next (s.setCog i { c with lock := some { l with late := true } }))

/-- The ends of a WAIT (R163 to R166), the disable of a cog page (R441, R532), and the start of a repair (R33). -/
def Obligations.WaitsEndAndCogsStop : Prop :=
  (∀ (i : CogId) (s : State) (w : Waiting), (s.cog i).wait = some w → w.mode ≠ 2 →
    let b := s.breakIdle (casOf i)
    let ends := fun (k : Nat) =>
      if s.domOn (64 + i) = true ∧ (s.dom (64 + i)).emu = none then
        let u := b.setCog i { (s.cog i).set .pwr (k ||| w.cause ||| s.waitCauses i w ||| (if w.slept then 0x40 else 0)) with wait := none }
        if s.on (cogPage i) R.COG_WDT_WAITRUN = true then u else u.wdtRestart i
      else (b.setCog i { s.cog i with wait := some { w with cause := w.cause ||| k } }).startWake (64 + i)
    (s.waitCauses i w ≠ 0 → exec (.waitWake i) s = .next (ends (s.waitCauses i w))) ∧
    (s.hostReaches = true → exec (.pwrKick ⟨i.val, by omega⟩) s = .next (ends 8)) ∧
    (s.hostReaches = true → s.pageOn (cogPage i) = true → exec (.cogKick i) s = .next (ends 8))) ∧
  (∀ (i : CogId) (s : State), s.hostReaches = true → s.pageOn (cogPage i) = true → s.on (cogPage i) R.PG_CTRL_EN = true →
    ∃ u : State, (u.on (cogPage i) R.PG_CTRL_EN = false ∧ u.on (cogPage i) R.PG_STAT_BUSY = true ∧ u.on (cogPage i) R.PG_STAT_EN_PENDING = false ∧
        u.cog i = (if (s.cog i).wait.isNone then { s.cog i with disabling := true } else
          { (s.cog i).set .pwr 0 with wait := none, disabling := true }) ∧ (∀ j, j ≠ i.val → u.cog j = s.cog j) ∧ u.mem = s.mem ∧ u.tb = s.tb) ∧
      ((s.cog i).run = .halted → (s.cog i).lockup = false → exec (.cogDisable i) s = .next (u.takeDisable i).settle) ∧
      ((s.cog i).run ≠ .halted ∨ (s.cog i).lockup = true → exec (.cogDisable i) s = .next u.settle)) ∧
  (∀ (i : CogId) (s : State), s.hostReaches = true → s.pageOn (cogPage i) = true → s.on (cogPage i) R.PG_CTRL_EN = false →
    exec (.cogDisable i) s = .next ((s.wr (cogPage i) R.PG_CTRL_EN 0).wr (cogPage i) R.PG_STAT_EN_PENDING 0)) ∧
  (∀ (c : Cas) (data : Reg) (s : State), s.hostReaches = true → s.pageOn (casPage c) = true →
    let k := data.toNat % 16
    let i := s.physOf c k
    let no := if s.rd (casPage c) R.CAS_MAP_SPARE_FOR ≠ 0x1F then 1
      else if (s.cog i).run ≠ .halted ∧ ¬ ((s.dom (64 + i)).st = .off ∧ (s.dom (64 + i)).going = none) then 2
      else if s.on (casPage c) R.CAS_MAP_SPARE_BAD = true then 3 else 0
    (s.on (casPage c) R.CAS_MAP_BUSY = true → exec (.repairGo c data) s = .next s) ∧
    (s.on (casPage c) R.CAS_MAP_BUSY = false → no ≠ 0 →
      ∃ t, exec (.repairGo c data) s = .next t ∧ t.on (casPage c) R.CAS_MAP_REJECT = true ∧ t.rd (casPage c) R.CAS_MAP_REJECT_CAUSE = no ∧
        t.rd (casPage c) R.CAS_MAP_SPARE_FOR = s.rd (casPage c) R.CAS_MAP_SPARE_FOR ∧ t.rd (casPage c) R.CAS_REPAIR_LOGICAL = k ∧
        t.cogs = s.cogs ∧ t.mem = s.mem) ∧
    (s.on (casPage c) R.CAS_MAP_BUSY = false → no = 0 →
      ∃ t, exec (.repairGo c data) s = .next t ∧ t.on (casPage c) R.CAS_MAP_BUSY = true ∧ look t.repairs c = some (k, s.tb) ∧ t.mem = s.mem))

/-- Host accesses to the stores (R7, R169, R173, R363, R364): the bytes written are those addressed and no others. AER's bits are log entry
101's. -/
def Obligations.HostWritesOfStoresLandWhereTheyAim : Prop :=
  (∀ (a : BitVec 29) (lo hi : Byte) (s : State), s.Ok → s.hostReaches = true → a.toNat % 2 = 0 →
    (a.toNat < 0x880000 ∨ (0x1000000 ≤ a.toNat ∧ a.toNat < 0x1800000)) → s.windowOn (windowOf a.toNat) = true →
    ∃ t, exec (.bar2Write a [(true, lo), (true, hi)] false) s = .next t ∧
      t.word a.toNat = BitVec.ofNat 14 (lo.toNat + 256 * (hi.toNat % 64)) ∧
      (∀ x, x ≠ a.toNat → x ≠ a.toNat + 1 → t.byte x = s.byte x) ∧ t.tb = s.tb ∧ t.out = s.out) ∧
  (∀ (a : BitVec 29) (bytes : List (Bool × Byte)) (s : State), s.hostReaches = true →
    ∃ t, exec (.bar2Write a bytes true) s = .next t ∧ (∀ x, t.byte x = s.byte x) ∧
      (s.elog.length < 16 → t.elog = s.elog ++ [⟨a.toNat, 4, s.now⟩])) ∧
  (∀ (a : BitVec 29) (bytes : List (Bool × Byte)) (p : Bool) (s : State), s.hostReaches = true →
    exec (.bar2Write a bytes p true) s = .next { s with aer := s.aer ||| 0x40000 }) ∧
  (∀ (a : BitVec 29) (n : Nat) (s : State), s.hostReaches = true →
    ∃ (t : State) (bs : _) (ep : _), exec (.bar2Read a n) s = .next t ∧ bs.length = n ∧ t.out.head? = some (.completion a.toNat bs ep) ∧ (∀ x, t.byte x = s.byte x) ∧
      ∀ k, k < n → s.windowOn (windowOf (a.toNat + k)) = true → (∀ v o, windowOf (a.toNat + k) = .vis v o → o / 2 < 0x8400 ∨ 0x20000 ≤ o / 2) →
        bs[k]? = some (s.byte (a.toNat + k))) ∧
  (∀ (a : BitVec 29) (bytes : List (Bool × Byte)) (p m : Bool) (n : Nat) (s : State), s.hostReaches = false →
    let t : State := if s.perst then s else { s with aer := s.aer ||| 0x100000 }
    exec (.bar2Write a bytes p m) s = .next t ∧ exec (.bar2Read a n) s = .next t)

/-- Write-back and scrub (R173, R174, R187, R192). -/
def Obligations.ScrubsAndWriteBacksCorrect : Prop :=
  let good := fun (s : State) (a : Nat) => decide (look s.bad a = some .one ∨ look s.bad a = some .two)
  let bad := fun (s : State) (a : Nat) => decide (look s.bad a = some .uncorrectable)
  let counts := fun (s t : State) (p : Nat) (ce ue : Fld) (words : List Nat) =>
    t.rd p ce = min (s.rd p ce + (words.filter (good s)).length) (2 ^ ce.w - 1) ∧ t.rd p ue = min (s.rd p ue + (words.filter (bad s)).length) (2 ^ ue.w - 1)
  (∀ (a : BitVec 29) (s : State),
    exec (.correctedWriteBack a) s = .next (if a.toNat ∈ s.writeBacks then
      { s with writeBacks := s.writeBacks.erase a.toNat, bad := if look s.bad a.toNat = some .one then del s.bad a.toNat else s.bad } else s)) ∧
  (∀ (i : CogId) (w : BitVec 18) (s : State),
    let a := localBase i + 2 * (w.toNat % 16384)
    let on := s.domOn (64 + i) && s.on (casPage (casOf i)) R.CAS_SCRUB_LM_EN
    (on = false → exec (.sramScrub (.loc i) w) s = .next s) ∧
    (on = true → s.injArmed (cogPage i) 0 = false → s.injArmed (cogPage i) 1 = false →
      ∃ t, exec (.sramScrub (.loc i) w) s = .next t ∧ counts s t (cogPage i) R.COG_LM_ERR_CE R.COG_LM_ERR_UE [a] ∧
        t.writeBacks = s.writeBacks ++ [a].filter (good s) ∧ t.bad = s.bad)) ∧
  (∀ (c : Cas) (w : BitVec 18) (s : State),
    let words := (List.range 8).map fun k => sharedBase c + 2 * (w.toNat / 8 * 8 + k)
    let on := s.domOn (8 + c) && s.on (casPage c) R.CAS_SCRUB_SD_EN
    (on = false → exec (.sramScrub (.shared c) w) s = .next s) ∧
    (on = true → s.injArmed (casPage c) 2 = false → s.injArmed (casPage c) 3 = false →
      ∃ t, exec (.sramScrub (.shared c) w) s = .next t ∧ counts s t (casPage c) R.CAS_SD_ERR_CE R.CAS_SD_ERR_UE words ∧
        t.writeBacks = s.writeBacks ++ words.filter (good s) ∧ t.bad = s.bad)) ∧
  (∀ (c : Cas) (line : BitVec 16) (last : Bool) (s : State),
    let words := (List.range 2).map fun k => progBase c + line.toNat % 16384 * 32 + 16 * k
    let on := s.domOn (8 + c) && decide (s.rd (casPage c) R.CAS_SCRUB_PM_PERIOD ≠ 0)
    (on = false → exec (.mramScrub (.prog c) line last) s = .next s) ∧
    (on = true → s.injArmed (casPage c) 0 = false → s.injArmed (casPage c) 1 = false →
      ∃ t, exec (.mramScrub (.prog c) line last) s = .next t ∧ counts s t (casPage c) R.CAS_PM_ERR_CE R.CAS_PM_ERR_UE words ∧
        t.bad = (if s.mramWritable then (words.filter (good s)).foldl del s.bad else s.bad) ∧
        (last = true → t.on (casPage c) R.CAS_SCRUB_PM_DONE = true))) ∧
  (∀ (b : Fin 8) (line : BitVec 16) (last : Bool) (s : State),
    let words := (List.range 2).map fun k => camBase b + line.toNat * 32 + 16 * k
    let on := s.domOn (56 + b) && decide (s.rd 0x07F R.CAM_SCRUB_PERIOD ≠ 0)
    (on = false → exec (.mramScrub (.cam b) line last) s = .next s) ∧
    (on = true → s.injArmed 0x07F 0 = false → s.injArmed 0x07F 1 = false →
      ∃ t, exec (.mramScrub (.cam b) line last) s = .next t ∧ counts s t 0x07F R.CAM_ERR_CE R.CAM_ERR_UE words ∧
        t.bad = (if s.mramWritable then (words.filter (good s)).foldl del s.bad else s.bad) ∧
        lookD t.camWrites b 0 = lookD s.camWrites b 0 + (if s.mramWritable then (words.filter (good s)).length else 0) ∧
        (last = true → t.on 0x07F R.CAM_SCRUB_DONE = true))) ∧
  (∀ (a : BitVec 29) (x : SramId) (y : MramId) (w : BitVec 18) (line : BitVec 16) (last : Bool) (s : State),
    ∀ e ∈ [Instr.correctedWriteBack a, .sramScrub x w, .mramScrub y line last], ∃ t, exec e s = .next t ∧ (∀ k, t.byte k = s.byte k) ∧ t.tb = s.tb)

/-- The fabric's own events (R203, R205 to R208, R213 to R216, R226). -/
def Obligations.FabricMovesMessagesAndCredits : Prop :=
  (∀ (ch : Fin 4096) (x : Fin 1024) (s : State) (m : Msg), (s.chan ch).firstOf x = some (.msg m) → s.domOn 3 = true → m.chan = ch.val →
    let taken := s.setChan ch { s.chan ch with flight := (s.chan ch).flight.erase (.msg m) }
    let a := if s.injArmed 0x0A0 0 then (taken.injTake 0x0A0 0).bump 0x0A0 R.FAB_CE_FLIT else taken
    let ends := fun (t : State) => exec (.messageArrival ch x) s = .next t
    (s.chEn ch = false → ends (if 0x200 ≤ m.sender then a.restoreCredit m else a)) ∧
    (s.chEn ch = true → s.injArmed 0x0A0 1 = true → ends ((taken.injTake 0x0A0 1).loseMsg m)) ∧
    (s.chEn ch = true → s.injArmed 0x0A0 1 = false →
      (s.on (chanPage ch) R.FAB_CH_LO_TAN = true → ends ((a.linkSend ch (.msg m)).getD s)) ∧
      (s.on (chanPage ch) R.FAB_CH_LO_TAN = false →
        (∀ c, s.rcvCas ch = some c → s.domOn (8 + c) = false → (s.dom (8 + c)).st = .off ∧ (s.dom (8 + c)).going = none →
          ends ((a.restoreCredit m).fabErr ch m.sender 3)) ∧
        (∀ c, s.rcvCas ch = some c → s.domOn (8 + c) = false → ¬ ((s.dom (8 + c)).st = .off ∧ (s.dom (8 + c)).going = none) →
          ends (if 256 ≤ s.hubHold.length then s else { a with hubHold := s.hubHold ++ [m] })) ∧
        ((∀ c, s.rcvCas ch = some c → s.domOn (8 + c) = true) → s.rd (chanPage ch) R.FAB_CH_LO_RCV < 0x300 ∨ m.words.headD 0 = 1 ∨ m.words.headD 0 = 2 →
          (s.chOrd ch = false → s.injArmed 0x0A0 0 = false → ends (s.setChan ch { s.chan ch with
            flight := (s.chan ch).flight.erase (.msg m), held := (s.chan ch).held ++ [m], blocked := none })) ∧
          (s.injArmed 0x0A0 4 = false →
            ∃ t, ends t ∧ (t.chan ch).flight = (s.chan ch).flight.erase (.msg m) ∧ (t.chan ch).held = (s.chan ch).held ++ [m] ∧
              (s.chOrd ch = true → (t.member ch m.sender).horizon = some m.stamp) ∧ (t.chan ch).used = (s.chan ch).used ∧ t.regs = a.regs))))) ∧
  (∀ (ch : Fin 4096) (x : Fin 1024) (s : State) (y h : Nat), (s.chan ch).firstOf x = some (.token y h) → s.domOn 3 = true →
    let taken := s.setChan ch { s.chan ch with flight := (s.chan ch).flight.erase (.token y h) }
    let a := if s.injArmed 0x0A0 0 then (taken.injTake 0x0A0 0).bump 0x0A0 R.FAB_CE_FLIT else taken
    (s.chEn ch = false → exec (.horizonTokenArrival ch x) s = .next a) ∧
    (s.chEn ch = true → s.on (chanPage ch) R.FAB_CH_LO_TAN = true → exec (.horizonTokenArrival ch x) s = .next ((a.linkSend ch (.token y h)).getD s)) ∧
    (s.chEn ch = true → s.on (chanPage ch) R.FAB_CH_LO_TAN = false → s.injArmed 0x0A0 4 = false →
      ∃ t, exec (.horizonTokenArrival ch x) s = .next t ∧ (t.member ch x).horizon = some h ∧ (t.chan ch).held = (s.chan ch).held ∧
        (t.chan ch).flight = (s.chan ch).flight.erase (.token y h) ∧ t.regs = a.regs)) ∧
  (∀ (ch : Fin 4096) (x : Fin 1024) (s : State), s.domOn 3 = true →
    let key := s.creditKey ch x
    let n := min 15 (lookD (s.chan ch).back key 0)
    let a := if s.injArmed 0x0A0 0 then (s.injTake 0x0A0 0).bump 0x0A0 R.FAB_CE_FLIT else s
    let u := a.setChan ch { s.chan ch with
      back := put (s.chan ch).back key (lookD (s.chan ch).back key 0 - n), used := put (s.chan ch).used key (lookD (s.chan ch).used key 0 - n) }
    (n = 0 → exec (.creditReturn ch x) s = .next s) ∧
    (n ≠ 0 → x.val < 0x200 → exec (.creditReturn ch x) s = .next u.flushOutbox) ∧
    (s.outbox = [] → u.flushOutbox = u) ∧
    (n ≠ 0 → 0x200 ≤ x.val → exec (.creditReturn ch x) s =
      .next (if s.on 0x124 R.TAN_STAT_LOCK then (u.linkSend ch (.credit (x.val - 0x200) n)).getD s else s))) ∧
  (∀ (ch : Fin 4096) (x : Fin 1024) (s : State),
    ((∀ m, (s.chan ch).firstOf x ≠ some (.msg m)) ∨ s.domOn 3 = false → exec (.messageArrival ch x) s = .next s) ∧
    ((∀ y h, (s.chan ch).firstOf x ≠ some (.token y h)) ∨ s.domOn 3 = false → exec (.horizonTokenArrival ch x) s = .next s) ∧
    (s.domOn 3 = false → exec (.creditReturn ch x) s = .next s)) ∧
  (∀ (ch : Fin 4096) (x : Fin 1024) (arriving : Option (BitVec 64)) (s : State),
    let h := s.horizonOf ch x (arriving.map (·.toNat))
    let due := fun (h : Nat) => ∀ l, (s.member ch x).lastSent = some l → stampLt l h = true ∧ (s.member ch x).sentAt + max 20 (s.rd 0x0A0 R.FAB_HZN_PERIOD) ≤ s.tb
    let able := s.domOn 3 = true ∧ s.tokensOn x = true ∧ s.chEn ch = true ∧ s.chOrd ch = true ∧ x.val ∈ s.setSenders (s.rd (chanPage ch) R.FAB_CH_LO_SET)
    (∀ k, able → h = some k → due k → s.isMember ch x = true → s.replayDiscards x = false →
      ∃ t, exec (.automaticToken ch x arriving) s = .next t ∧ (t.chan ch).flight = (s.chan ch).flight ++ [.token x (k % 2 ^ 42)] ∧
        (t.member ch x).lastSent = some (k % 2 ^ 42) ∧ t.regs = s.regs ∧ t.mem = s.mem) ∧
    (¬ able ∨ h = none ∨ (∃ k, h = some k ∧ ¬ due k) → exec (.automaticToken ch x arriving) s = .next s)) ∧
  (∀ (ch : Fin 4096) (s : State),
    let waits := fun (t : State) (i : Nat) => (t.presented i).any fun p => decide (p.op = .chRecv ∧ p.val.toNat % 4096 = ch.val) && (t.cog i).stall.isSome
    (s.domOn 3 = false ∨ s.deliverable ch = none → exec (.mergeDeliverable ch) s = .next s) ∧
    (s.domOn 3 = true → s.deliverable ch ≠ none →
      exec (.mergeDeliverable ch) s = .next (s.cogs.foldl (fun (t : State) x => if waits t x.1 then t.receiveOp x.1 .chRecv else t) s)))

/-- The channel table (R201 to R203) and the stall report (R211). FAB_CMD (R212, R227). -/
def Obligations.ChannelsOpenCloseStallAndTakeCommands : Prop :=
  (
  let enabled := fun (u : State) (ch : Nat) =>
    if u.chRefuse ch = 0 then ((u.emptyChan ch).wr (chanPage ch) R.FAB_CH_LO_EN 1).brakeIfHalt else u.wr (chanPage ch) R.FAB_CH_STAT_REFUSE (u.chRefuse ch)
  (∀ (t : State) (ch : Nat), (∀ m ∈ (t.chan ch).held, m.chan = ch) → (∀ m, .msg m ∈ (t.chan ch).flight → m.chan = ch) →
    ∃ b, (t.emptyChan ch).chan ch = { back := b } ∧ (∀ x ∈ b, 0x200 ≤ x.1 ∧ x.1 < 0x400) ∧ (t.emptyChan ch).regs = t.regs ∧ ∀ k, k ≠ ch → (t.emptyChan ch).chan k = t.chan k) ∧
  (∀ (s : State), s.recording = false → s.jrnHost 0xA0064 = s) ∧
  (∀ (s : State) (data : Reg), s.hostReaches = true → s.domOn 3 = true →
    let ch := s.rd 0x0A0 R.FAB_CH_IDX_IDX
    let r := s.jrnHost 0xA0064
    let u := r.setReg (R.FAB_CH_LO_EN.addr (chanPage ch) 0) (BitVec.ofNat 32 (data.toNat / 2 % 2 ^ 25 * 2))
    (r.chEn ch = false → (r.chan ch).draining = false → exec (.channelEnable data) s = .next (enabled u ch)) ∧
    (r.chEn ch = false → (r.chan ch).draining = true → exec (.channelEnable data) s = .next (u.setChan ch { r.chan ch with pendEn := true })) ∧
    (r.chEn ch = true → exec (.channelEnable data) s = .next (if r.chDiffers ch data.toNat then r.wr (chanPage ch) R.FAB_CH_STAT_REFUSE 3 else r)) ∧
    (r.chEn ch = false → exec (.channelDisable data) s =
      .next (if (r.chan ch).draining then u.setChan ch { r.chan ch with pendEn := false } else u)) ∧
    (r.chEn ch = true → (∀ m ∈ (r.chan ch).held, m.chan = ch) →
      ∃ (v : State) (b : _), exec (.channelDisable data) s = .next (v.wakeReceivers ch).flushOutbox ∧ v.chEn ch = false ∧
        v.chan ch = { flight := (r.chan ch).flight, draining := true, back := b } ∧
        (∀ y, lookD b y 0 = if 0x200 ≤ y ∧ y < 0x400 then lookD (r.chan ch).back y 0 + ((r.chan ch).held.filter fun m => decide (m.sender = y)).length +
          (r.hubHold.filter fun m => decide (m.chan = ch ∧ m.sender = y)).length else 0) ∧
        (r.chDiffers ch data.toNat = true → v.rd (chanPage ch) R.FAB_CH_STAT_REFUSE = 3) ∧ (∀ k, k ≠ ch → v.chan k = r.chan k) ∧ v.mem = r.mem)) ∧
  (∀ (ch : Fin 4096) (s : State), exec (.channelDrainDone ch) s =
    .next (if (s.chan ch).draining then (if (s.chan ch).pendEn then enabled (s.emptyChan ch) ch else s.emptyChan ch) else s)) ∧
  (∀ (s : State) (data : Reg), s.hostReaches = true → s.domOn 3 = true →
    let set := s.rd 0x0A0 R.FAB_SET_IDX_SET
    let p := setPage set (s.rd 0x0A0 R.FAB_SET_IDX_MBR)
    let used := s.knownChans.any fun ch => s.chEn ch && s.chOrd ch && decide (s.rd (chanPage ch) R.FAB_CH_LO_SET = set)
    ∃ t, exec (.setMemberWrite data) s = .next t ∧ t.mem = s.mem ∧
      (used = false → t.rd p R.FAB_SET_MBR_SENDER = data.toNat % 1024 ∧ t.rd p R.FAB_SET_MBR_VALID = data.toNat / 2 ^ 15 % 2) ∧
      (used = true → t.on p R.FAB_SET_MBR_REJECT = true ∧ t.rd p R.FAB_SET_MBR_SENDER = s.rd p R.FAB_SET_MBR_SENDER ∧
        t.rd p R.FAB_SET_MBR_VALID = s.rd p R.FAB_SET_MBR_VALID)) ∧
  (∀ (ch : Fin 4096) (s : State) (a b since : Nat) (m : Msg) (x : Nat), s.domOn 3 = true → (s.chan ch).blocked = some (a, b, since) →
    leastMsg (s.chan ch).held = some m → (s.chan ch).stall = false → s.rd 0x0A0 R.FAB_HZN_DEAD ≠ 0 → since + s.rd 0x0A0 R.FAB_HZN_DEAD * 1000 < s.tb →
    (s.activeMembers ch).find? (s.blocks ch m) = some x → x < 1024 →
    ∃ t, exec (.horizonStall ch) s = .next t ∧ (t.chan ch).stall = true ∧ (t.chan ch).held = (s.chan ch).held ∧ t.on 0x0A0 R.FAB_STALL_VALID = true ∧
      t.rd 0x0A0 R.FAB_STALL_CHAN = ch.val ∧ t.rd 0x0A0 R.FAB_STALL_SENDER = x ∧ t.mem = s.mem) ∧
  (∀ (ch : Fin 4096) (s : State), (s.chan ch).stall = true ∨ (s.chan ch).blocked = none → exec (.horizonStall ch) s = .next s)) ∧
  (
  ∀ (ch : Fin 4096) (x : Fin 1024) (s : State), s.hostReaches = true → s.domOn 3 = true → s.injArmed 0x0A0 4 = false →
    let valid := s.chOrd ch = true ∧ x.val ∈ s.setSenders (s.rd (chanPage ch) R.FAB_CH_LO_SET)
    let rejected := fun (e : Instr) => ∃ t, exec e s = .next t ∧ t.on 0x0A0 R.FAB_CMD_REJECT = true ∧ t.chans = s.chans ∧ t.mem = s.mem
    (s.chEn ch = true → valid →
      (∃ t, exec (.fabCmdRetire ch x) s = .next t ∧ t.member ch x = { s.member ch x with retired := true } ∧ (t.chan ch).held = (s.chan ch).held ∧
        (∀ y, y ≠ x.val → t.member ch y = s.member ch y) ∧ t.mem = s.mem) ∧
      (∃ t, exec (.fabCmdRestore ch x) s = .next t ∧ t.member ch x = { s.member ch x with retired := false, horizon := (s.chan ch).lastDelivered } ∧
        (t.chan ch).held = (s.chan ch).held ∧ (∀ y, y ≠ x.val → t.member ch y = s.member ch y) ∧ t.mem = s.mem)) ∧
    (s.chEn ch = true → (∀ m ∈ (s.chan ch).held, m.chan = ch.val) →
      ∃ t, exec (.fabCmdFlush ch x) s = .next t ∧ (t.chan ch).held = [] ∧ (t.chan ch).flight = (s.chan ch).flight ∧
        (∀ y, lookD (t.chan ch).back y 0 = lookD (s.chan ch).back y 0 + ((s.chan ch).held.filter fun m => decide (s.creditKey ch m.sender = y)).length +
          (s.hubHold.filter fun m => decide (m.chan = ch.val) && decide (s.creditKey ch m.sender = y)).length) ∧
        t.hubHold = (s.hubHold.filter fun m => decide (m.chan ≠ ch.val)) ∧
        t.mem = s.mem) ∧
    (s.chEn ch = false ∨ ¬ valid → rejected (.fabCmdRetire ch x) ∧ rejected (.fabCmdRestore ch x)) ∧
    (s.chEn ch = false → rejected (.fabCmdFlush ch x)))

/-- The producing side of a queue (R217 to R219, R222, R224). -/
def Obligations.QueuesPushInOrder : Prop :=
  ∀ (q : Fin 256) (s : State), s.qOn q = true →
    let x := s.queue q
    let shuts := fun (eop : Bool) => eop = true ∨ 3 ≤ x.opened.length
    let full := s.qCap q ≤ x.quads.length
    let joins := fun (t : State) (w : Nat) => (t.queue q).opened = x.opened ++ [w % 2 ^ 14] ∧ (t.queue q).quads = x.quads ∧ (t.queue q).touched = s.tb ∧
      t.mem = s.mem ∧ ∀ r, r ≠ q.val → t.queue r = s.queue r
    let closes := fun (t : State) (w : Nat) (eop loss : Bool) => (t.queue q).opened = [] ∧
      (t.queue q).quads = x.quads ++ [{ words := (x.opened ++ [w % 2 ^ 14] ++ [0, 0, 0, 0]).take 4, valid := x.opened.length + 1, eop := eop, loss := x.lossNext || loss }] ∧
      t.mem = s.mem ∧ ∀ r, r ≠ q.val → t.queue r = s.queue r
    (∀ (w : Word) (eop : Bool), s.hostReaches = true → s.qrd q R.QSRC_KIND = 0 →
      (x.closeWait = none → x.dropping = false →
        (¬ shuts eop → ∃ t, exec (.qpush q w eop) s = .next t ∧ joins t w.toNat ∧ t.regs = s.regs) ∧
        (shuts eop → ¬ full → ∃ t, exec (.qpush q w eop) s = .next t ∧ closes t w.toNat eop false) ∧
        (shuts eop → full → exec (.qpush q w eop) s = .next (s.bump (qPage q) R.QCNT_HDROP (q % 16)))) ∧
      (x.closeWait = none → x.dropping = true → shuts eop →
        ∃ t, exec (.qpush q w eop) s = .next t ∧ (t.queue q).opened = [] ∧ (t.queue q).quads = x.quads ∧ (t.queue q).dropping = !eop ∧ t.mem = s.mem) ∧
      (x.closeWait ≠ none → exec (.qpush q w eop) s = .next (s.bump (qPage q) R.QCNT_HDROP (q % 16)))) ∧
    (∀ (w : Nat) (eop loss : Bool) (rest : List (Nat × Bool × Bool)), x.closeWait = none → x.dropping = false →
      s.qrd q R.QSRC_KIND = 2 → x.waiting = none → x.buffer = (w, eop, loss) :: rest →
      (¬ shuts eop → ∃ t, exec (.queuePush q) s = .next t ∧ joins t w ∧ (t.queue q).buffer = rest ∧ (t.queue q).lossNext = (x.lossNext || loss)) ∧
      (shuts eop → ¬ full → ∃ t, exec (.queuePush q) s = .next t ∧ closes t w eop loss ∧ (t.queue q).buffer = rest) ∧
      (shuts eop → full → exec (.queuePush q) s = .next (s.setQueue q { x with waiting := some (w, eop), lossNext := x.lossNext || loss }))) ∧
    (∀ (ch n : Nat) (m : Msg) (ms : List Msg), x.closeWait = none → x.dropping = false → s.qrd q R.QSRC_KIND = 1 → x.waiting = none →
      (s.chan ch).held = m :: ms → m.chan = ch →
      (x.part = some (ch, n) ∨ (x.part = none ∧ n = 0 ∧ (s.feeders (0x200 + q)).find? (fun k => !(s.chan k).held.isEmpty) = some ch ∧
        s.injArmed 0x0A0 2 = false ∧ s.injArmed 0x0A0 3 = false)) →
      let w := m.words.getD n 0
      let eop := decide (n + 1 = m.words.length)
      let moves := fun (t : State) => (t.queue q).part = (if eop then none else some (ch, n + 1)) ∧ (t.chan ch).held = (if eop then ms else m :: ms)
      (¬ shuts eop → ∃ t, exec (.queuePush q) s = .next t ∧ joins t w ∧ moves t) ∧
      (shuts eop → ¬ full → ∃ t, exec (.queuePush q) s = .next t ∧ closes t w eop false ∧ moves t) ∧
      (shuts eop → full → ∃ t, exec (.queuePush q) s = .next t ∧ t.queue q = { x with part := some (ch, n), waiting := some (w, eop) } ∧
        (t.chan ch).held = m :: ms ∧ t.mem = s.mem)) ∧
    (∀ (w : Nat) (eop : Bool), x.closeWait = none → x.dropping = false → x.waiting = some (w, eop) → shuts eop → ¬ full →
      ∃ t, exec (.queuePushResume q) s = .next t ∧ closes t w eop false ∧ (t.queue q).waiting = none) ∧
    (x.closeWait = none → x.dropping = false → x.opened ≠ [] → s.frozen (qPage q) = false → s.qrd q R.QTMO_NS ≠ 0 → x.touched + s.qrd q R.QTMO_NS ≤ s.tb →
      (¬ full → ∃ t, exec (.queueTimeout q) s = .next t ∧ (t.queue q).opened = [] ∧
        (t.queue q).quads = x.quads ++ [{ words := (x.opened ++ [0, 0, 0, 0]).take 4, valid := x.opened.length, tmo := true, loss := x.lossNext }] ∧ t.mem = s.mem) ∧
      (full → exec (.queueTimeout q) s = .next (s.setQueue q { x with closeWait := some true })))

/-- The consuming side of a queue and its enable (R217, R218, R221 to R224, R229). The enable of a queue (R229). -/
def Obligations.QueuesPopDropFlushSendAndEnable : Prop :=
  (
  ∀ (q : Fin 256) (s : State), s.domOn 3 = true → s.qrd q R.QCFG_EN = 1 →
    let x := s.queue q
    let drops := fun (t : State) =>
      (∀ k, x.quads.findIdx? (·.eop) = some k → (t.queue q).quads = x.quads.drop (k + 1) ∧ (t.queue q).opened = x.opened) ∧
      (x.quads.findIdx? (·.eop) = none → (t.queue q).quads = [] ∧ (t.queue q).opened = [] ∧ (t.queue q).dropping = true) ∧
      (t.queue q).touched = x.touched ∧ t.mem = s.mem ∧ ∀ r, r ≠ q.val → t.queue r = s.queue r
    let flushes := fun (t : State) => (t.queue q).opened = [] ∧
      (t.queue q).quads = x.quads ++ [{ words := (x.opened ++ [0, 0, 0, 0]).take 4, valid := x.opened.length, loss := x.lossNext }] ∧
      t.mem = s.mem ∧ ∀ r, r ≠ q.val → t.queue r = s.queue r
    (s.hostReaches = true →
      (∀ d ds, x.quads = d :: ds → ∃ t, exec (.qcmdPop q) s = .next t ∧ (t.queue q).quads = ds ∧ (t.queue q).opened = x.opened ∧ t.mem = s.mem ∧
        ∀ r, r ≠ q.val → t.queue r = s.queue r) ∧
      (x.quads = [] → exec (.qcmdPop q) s = .next s) ∧
      (∃ t, exec (.qcmdDrop q) s = .next t ∧ drops t) ∧
      (x.opened ≠ [] → x.dropping = false → x.quads.length < s.qCap q → ∃ t, exec (.qcmdFlush q) s = .next t ∧ flushes t) ∧
      (x.opened ≠ [] → x.dropping = false → s.qCap q ≤ x.quads.length →
        exec (.qcmdFlush q) s = .next (s.setQueue q { x with closeWait := some (x.closeWait.getD false) })) ∧
      (x.opened = [] → exec (.qcmdFlush q) s = .next s)) ∧
    (∀ (ch : Nat) (m : Msg) (ms : List Msg) (w0 : Nat),
      ((s.feeders (0x300 + q)).find? fun k => match (s.chan k).held with
        | y :: _ => decide (y.words.headD 0 = w0 ∨ y.words.headD 0 ∉ [1, 2]) | [] => false) = some ch →
      (s.chan ch).held = m :: ms → m.chan = ch → m.words.headD 0 = w0 → s.injArmed 0x0A0 3 = false → s.injArmed 0x0A0 2 = false →
      (w0 = 1 → ∃ t, exec (.queueCmdDrop q) s = .next t ∧ drops t ∧ (t.chan ch).held = ms) ∧
      (w0 = 2 → x.opened ≠ [] → x.dropping = false → x.quads.length < s.qCap q →
        ∃ t, exec (.queueCmdFlush q) s = .next t ∧ flushes t ∧ (t.chan ch).held = ms)) ∧
    (∀ d ds, x.quads = d :: ds → s.qrd q R.QDST_KIND = 1 → s.injArmed 0x0A1 0 = false → s.injArmed 0x0A1 1 = false →
      let ch := s.qrd q R.QDST_ID
      (s.sendFails ch 0x11B s.now = none → s.freeCredits ch 0x11B ≠ 0 →
        ∃ (t : State) (m : Msg), exec (.queueQuadSend q) s = .next t ∧ (t.queue q).quads = ds ∧ (t.chan ch).flight = (s.chan ch).flight ++ [.msg m] ∧ m.chan = ch ∧
          m.sender = 0x11B ∧ m.kind = d.kind ∧ m.words = (d.words.take d.valid).map (· % 2 ^ 14) ∧ t.mem = s.mem) ∧
      (∀ n, s.sendFails ch 0x11B s.now = some n → exec (.queueQuadSend q) s = .next (s.fabErr ch 0x11B n)) ∧
      (s.sendFails ch 0x11B s.now = none → s.freeCredits ch 0x11B = 0 → exec (.queueQuadSend q) s = .next s))) ∧
  (
  ∀ (q : Fin 256) (data : Reg) (s : State), s.hostReaches = true → s.domOn 3 = true → s.qrd q R.QCFG_EN = 0 →
    let base := bits data.toNat 0 R.QCFG_BASE.w
    let size := bits data.toNat 16 R.QCFG_SIZE.w
    let free := ∀ r, r < 256 → r ≠ q.val → s.qrd r R.QCFG_EN = 1 → s.qrd r R.QCFG_BASE + s.qCap r ≤ base ∨ base + 2 ^ size ≤ s.qrd r R.QCFG_BASE
    (2 ≤ size → free →
      ∃ t, exec (.queueEnable q data) s = .next t ∧ t.qrd q R.QCFG_EN = 1 ∧ t.qrd q R.QCFG_BASE = base ∧ t.qrd q R.QCFG_SIZE = size ∧
        (t.queue q).quads = [] ∧ (t.queue q).opened = [] ∧ (t.queue q).dropping = false ∧ t.mem = s.mem ∧ ∀ r, r ≠ q.val → t.queue r = s.queue r) ∧
    (size < 2 ∨ ¬ free → ∃ t, exec (.queueEnable q data) s = .next t ∧ t.qrd q R.QCFG_EN = 0 ∧ t.queues = s.queues ∧ t.mem = s.mem))

/-- The timebase's commands (R232, R234, R261); a follower takes no TB_ADJ (R372). The relock without a reported return is log entry 90's.
-/
def Obligations.TimebaseCommandsActOnTheirRegisters : Prop :=
  (∀ s : State, s.recording = false → s.jrnHost 0x7004C = s) ∧
  ∀ s : State,
    let noEdges := { s.timeref with gone := true, back := none }
    let back : State := if s.timeref.injUntil.isSome then { s with timeref := { s.timeref with gone := false } } else
      ({ s with timeref := { s.timeref with gone := false, back := s.timeref.back <|> some s.tb } } : State).wr 0x070 R.TB_STAT_REF_OK 1
    let aligned : State := { s with aligning := false }
    (s.on 0x070 R.TB_STAT_HOLD = false → ∃ t, exec .timerefLoss s = .next t ∧ t.on 0x070 R.TB_STAT_HOLD = true ∧ t.on 0x070 R.TB_STAT_HOLD_SEEN = true ∧
      t.on 0x070 R.TB_STAT_REF_OK = false ∧ t.rd 0x070 R.TB_HOLD_IN_STAMP = s.now / 1024 % 2 ^ R.TB_HOLD_IN_STAMP.w ∧ t.timeref = { noEdges with since := s.tb } ∧
      t.tb = s.tb ∧ t.mem = s.mem) ∧
    (s.on 0x070 R.TB_STAT_HOLD = true → exec .timerefLoss s = .next (({ s with timeref := noEdges } : State).wr 0x070 R.TB_STAT_REF_OK 0)) ∧
    exec (.pllRelock false) s = .next back ∧
    (s.timeref.injUntil.isSome = true ∨ (∃ b, s.timeref.back = some b ∧ s.tb < b + 1000000) → exec (.pllRelock true) s = .next s) ∧
    (s.timeref.injUntil = none → (∀ b, s.timeref.back = some b → b + 1000000 ≤ s.tb) →
      (s.on 0x070 R.TB_STAT_HOLD = false → exec (.pllRelock true) s = .next back) ∧
      (s.on 0x070 R.TB_STAT_HOLD = true → ∃ t, exec (.pllRelock true) s = .next t ∧ t.on 0x070 R.TB_STAT_HOLD = false ∧ t.on 0x070 R.TB_STAT_SLEW = true ∧
        t.on 0x070 R.TB_STAT_REF_OK = true ∧ t.rd 0x070 R.TB_HOLD_OUT_STAMP = s.now / 1024 % 2 ^ R.TB_HOLD_OUT_STAMP.w ∧ t.aligning = true ∧ t.tb = s.tb ∧ t.mem = s.mem)) ∧
    exec .slewEnd s = .next (if s.rd 0x070 R.TB_ADJ_REM_REM = 0 then aligned.wr 0x070 R.TB_STAT_SLEW 0 else aligned) ∧
    (∀ ofs : BitVec 28, s.hostReaches = true → s.domOn 1 = true →
      let r := s.jrnHost 0x7004C
      let sum := signed (r.rd 0x070 R.TB_ADJ_REM_REM) 28 + ofs.toInt
      let fits := sum < 2 ^ 27 ∧ -(2 ^ 27 : Int) ≤ sum
      let left := if fits then wrap sum 28 else Config.freeValue r.free % 2 ^ 28
      (r.on 0x124 R.TAN_CFG_EN = true ∧ r.on 0x124 R.TAN_CFG_ROLE = true →
        exec (.tbAdjGo ofs) s = .next (r.pgErr 0x070 (some (0x4C, 0x80000000 + ofs.toNat)))) ∧
      (¬ (r.on 0x124 R.TAN_CFG_EN = true ∧ r.on 0x124 R.TAN_CFG_ROLE = true) →
        ∃ t, exec (.tbAdjGo ofs) s = .next t ∧ t.rd 0x070 R.TB_ADJ_OFS = ofs.toNat ∧ t.rd 0x070 R.TB_ADJ_REM_REM = left ∧
          (left ≠ 0 → t.on 0x070 R.TB_STAT_SLEW = true) ∧ t.aligning = r.aligning ∧ t.tb = s.tb ∧ t.mem = s.mem)) ∧
    (s.hostReaches = true → ∃ t, exec .tbNowRead s = .next t ∧ t.rd 0x070 R.TB_NOW_LO_NOW + 2 ^ 32 * t.rd 0x070 R.TB_NOW_HI_NOW = s.tb % 2 ^ 64 ∧
      t.rd 0x070 R.TB_STAT_HOLD_SMP = s.rd 0x070 R.TB_STAT_HOLD ∧ t.out = .regRead 0x70040 (BitVec.ofNat 32 s.tb) :: s.out ∧ t.tb = s.tb ∧ t.mem = s.mem)

/-- Enabling, disabling and reading a cadence (R236 to R238, R257, R263). TRIM and RATE (R242) as commands (R239 to R241). -/
def Obligations.CadencesRunTrimAndChangeRate : Prop :=
  (
  (∀ (a : Nat) (s : State), s.recording = false → s.jrnHost a = s) ∧
  (∀ (n : Fin 16) (data : Reg) (s : State), s.hostReaches = true → s.domOn 3 = true →
    let r := s.jrnHost (R.CAD_CTRL_EN.addr 0x072 n)
    let pos : Nat := r.rd 0x072 R.CAD_POS_LO_VALUE n + r.rd 0x072 R.CAD_POS_HI_VALUE n * 2 ^ 32
    let rate := signed (r.rd 0x072 R.CAD_RATE_LO_VALUE n + r.rd 0x072 R.CAD_RATE_HI_VALUE n * 2 ^ 32) 42
    let here := fun (x : State) => wrap ((x.cad n).posAt x.tb) 42
    let written := fun (t : State) => (∀ f ∈ [R.CAD_CTRL_NOTE_EN, R.CAD_CTRL_SYNC_EN, R.CAD_CTRL_SYNC_GAIN, R.CAD_CTRL_NOTE_CHAN],
      t.rd 0x072 f n = bits data.toNat f.lo f.w) ∧ (∀ k, k ≠ n.val → t.cad k = r.cad k) ∧ t.mem = s.mem ∧ t.tb = s.tb
    (r.cadEn n = false → ∃ t, exec (.cadenceEnable n data) s = .next t ∧ t.cadEn n = true ∧
      (t.cad n).segs = [⟨s.tb + 1, pos * 2 ^ 20, rate, 0, 0, s.tb + 1, 1, none⟩] ∧ (t.cad n).cyc = (pos / 2 ^ 28 : Nat) ∧ (t.cad n).bnds = [] ∧
      (t.cad n).enabledAt = s.tb + 1 ∧ (t.cad n).posAt (s.tb + 1) = pos ∧ written t) ∧
    (r.cadEn n = true → ∃ t, exec (.cadenceEnable n data) s = .next t ∧ t.cadEn n = true ∧ t.cad n = r.cad n ∧ written t) ∧
    (r.cadEn n = true → ∃ t, exec (.cadenceDisable n data) s = .next t ∧ t.cadEn n = false ∧ (t.cad n).segs = [] ∧
      t.rd 0x072 R.CAD_POS_LO_VALUE n + t.rd 0x072 R.CAD_POS_HI_VALUE n * 2 ^ 32 = here r ∧
      (∀ a, a < 512 → 2 ≤ r.rd 0x1000 R.AX_STATE_STATE a →
        r.rd 0x1000 R.AX_BIND_CAD a = n.val ∨ r.rd (tablePage (r.rd 0x1000 R.AX_BIND_TABLE a)) R.CAM_TBL_A_CAD = n.val → (t.axis a).drop = true) ∧ written t) ∧
    (r.cadEn n = false → ∃ t, exec (.cadenceDisable n data) s = .next t ∧ t.cadEn n = false ∧ t.cad n = r.cad n ∧ written t) ∧
    (s.cadEn n = true → ∃ t, exec (.cadPosRead n) s = .next t ∧
      t.rd 0x072 R.CAD_POS_LO_VALUE n + t.rd 0x072 R.CAD_POS_HI_VALUE n * 2 ^ 32 = here s ∧
      t.out = .regRead (R.CAD_POS_LO_VALUE.addr 0x072 n) (BitVec.ofNat 32 (here s)) :: s.out ∧ t.cads = s.cads ∧ t.mem = s.mem) ∧
    (s.cadEn n = false → exec (.cadPosRead n) s =
      .next { s with out := .regRead (R.CAD_POS_LO_VALUE.addr 0x072 n) (s.reg (R.CAD_POS_LO_VALUE.addr 0x072 n)) :: s.out })) ∧
  (∀ (n : Fin 16) (s : State), s.hostReaches = true → s.domOn 3 = false →
    exec (.cadPosRead n) s = .next { s with out := .regRead (R.CAD_POS_LO_VALUE.addr 0x072 n) 0 :: s.out }) ∧
  (∀ (g : Seg) (t : Nat), g.rampT = 0 → g.ext = none → g.start ≤ t → g.pos t = (g.a + g.rate * (t - g.start : Nat)) / 2 ^ 20 + g.kDone)) ∧
  (
  (∀ (n : Nat) (m : Msg) (t : Nat) (u : State),
    let enabled := if u.cadEn n then (u.cad n).enabledAt else 0
    (u.lateRule n m t).1 = max (if t ≤ u.cmt n then u.cmt n + 1 else t) enabled ∧
    (u.cmt n < t → u.injArmed 0x072 0 = false → (u.lateRule n m t).2 = u) ∧
    (t ≤ u.cmt n → u.recording = false → u.on 0x021 R.DL_CFG_EN n = false → (u.lateRule n m t).2 = ((u.bump 0x072 R.CAD_CNT_LATE n).notice n
      { stamp := u.cmt n + 1, type := 3, w1 := if m.cadOp = 16 then 15 else m.cadOp, w3 := m.sender }).pgEvt 0x072 0)) ∧
  (∀ (n : Fin 16) (s : State), s.domOn 3 = false →
    ∀ e ∈ [Instr.trim n, .rate n, .ptSel n, .ptM n, .ptY n, .ptK n, .flip n, .couple n, .free n, .shift n, .syncEdge n], exec e s = .next s) ∧
  ∀ (n : Fin 16) (s : State) (ch : Nat) (m : Msg), s.commandReady n ch m →
    let u := s.deliver m
    let t := u.absStamp m.stamp
    let at_ := (u.lateRule n m t).1
    let w := (u.lateRule n m t).2
    let c := w.cad n
    let becomes := fun (e : Instr) (x : State) => exec e s = .next (x.notePast n (u.cmdEffect n m) u)
    (m.cadOp = 0 ∨ (11 ≤ m.cadOp ∧ m.cadOp ≤ 15) →
      ∀ e ∈ [Instr.trim n, .rate n, .ptSel n, .ptM n, .ptY n, .ptK n, .flip n, .couple n, .free n, .shift n, .syncEdge n], becomes e (u.refuse n 1 m)) ∧
    (u.spanned n = true → (m.cadOp = 1 → becomes (.trim n) (u.refuse n 1 m)) ∧ (m.cadOp = 2 → becomes (.rate n) (u.refuse n 1 m))) ∧
    (u.spanned n = false → u.cadEn n = false → (m.cadOp = 1 → becomes (.trim n) (u.refuse n 2 m)) ∧ (m.cadOp = 2 → becomes (.rate n) (u.refuse n 2 m))) ∧
    (u.spanned n = false → u.cadEn n = true → (∀ b ∈ c.bnds, b.1 < at_) →
      (m.cadOp = 1 →
        let cy := wrap (c.posAt at_ / 2 ^ 28) 14
        let used := if cy = c.usedCyc then c.used else 0
        let room : Int := if c.vars.rate = 0 then 0 else (min (w.rd 0x072 R.CAD_TRIM_MAX n) (2 ^ 24) - used : Nat)
        let acc := max (-room) (min (m.value 1 2) room)
        let clip := wrap (m.value 1 2 - acc) 28
        let x := if acc = m.value 1 2 then w else
          (w.bump 0x072 R.CAD_CNT_CLIP n).notice n { stamp := at_, type := 2, w1 := clip % 2 ^ 14, w2 := clip / 2 ^ 14 }
        becomes (.trim n) ((x.setCourse n (({ x.cad n with used := used + acc.natAbs, usedCyc := cy } : Cadence).restart at_ (c.remainder at_ + acc) c.vars.rate
          (w.rd 0x072 R.CAD_SLEW_TICKS n) false)).spanEmit n false at_ acc)) ∧
      (m.cadOp = 2 → becomes (.rate n) ((w.setCourse n (c.restart at_ (c.remainder at_) (m.value 1 3) (w.rd 0x072 R.CAD_SLEW_TICKS n) true)).spanEmit n true at_ (m.value 1 3)))))

/-- The cam and axis commands (R250, R251, R255, R256) and the SYNC edge (R244). -/
def Obligations.PointFlipAndAxisCommandsAreKept : Prop :=
  ∀ (n : Fin 16) (s : State) (ch : Nat) (m : Msg), s.commandReady n ch m →
    let u := s.deliver m
    let t := u.absStamp m.stamp
    let at_ := (u.lateRule n m t).1
    let w := (u.lateRule n m t).2
    let becomes := fun (e : Instr) (x : State) => exec e s = .next (x.notePast n (u.cmdEffect n m) u)
    let cycle := m.words.getD 1 0 % 2 ^ 14
    (m.cadOp = 3 → (∀ k, u.tableRefuse n m.arg = some k → becomes (.ptSel n) (u.refuse n k m)) ∧
      (u.tableRefuse n m.arg = none → becomes (.ptSel n) (w.setCad n { w.cad n with ptrs := put (w.cad n).ptrs m.sender (m.arg, cycle) }))) ∧
    (∀ x ∈ [(4, Instr.ptM n), (5, .ptY n), (6, .ptK n)], m.cadOp = x.1 →
      (look (u.cad n).ptrs m.sender = none → becomes x.2 (u.refuse n 4 m)) ∧
      ∀ tb i, look (u.cad n).ptrs m.sender = some (tb, i) →
        (∀ k, u.tableRefuse n tb = some k → becomes x.2 (u.refuse n k m)) ∧
        (u.tableRefuse n tb = none → u.tblPoints tb ≤ i → becomes x.2 (u.refuse n 4 m)) ∧
        (u.tableRefuse n tb = none → i < u.tblPoints tb →
          let g := (u.table tb).gen
          let held := ∃ y ∈ u.shadow, y.table = tb ∧ y.point = i ∧ y.gen = g
          (u.injArmed 0x07F 2 = true → becomes x.2 (((u.injTake 0x07F 2).bump 0x07F R.CAM_BUF_REFUSED).refuse n 3 m)) ∧
          (u.injArmed 0x07F 2 = false → ¬ held → 4096 ≤ u.shadow.length → becomes x.2 ((u.bump 0x07F R.CAM_BUF_REFUSED).refuse n 3 m)) ∧
          (u.injArmed 0x07F 2 = false → held ∨ u.shadow.length < 4096 →
            let old := w.shadowPoint tb i
            let v := wrap (m.value 1 2) 28
            let y : Shadow := if x.1 = 4 then ⟨tb, i, g, v, old.2.1, old.2.2⟩ else if x.1 = 5 then ⟨tb, i, g, old.1, v, old.2.2⟩ else ⟨tb, i, g, old.1, old.2.1, v⟩
            let r : State := { w.shadowRead tb i with shadow := ((w.shadowRead tb i).shadow.filter fun z => !decide (z.table = tb ∧ z.point = i ∧ z.gen = g)) ++ [y] }
            becomes x.2 (if bit (m.words.getD 3 0) 0 then r.setCad n { r.cad n with ptrs := put (r.cad n).ptrs m.sender (tb, (i + 1) % 2 ^ 14) } else r)))) ∧
    (m.cadOp = 7 → (∀ k, u.tableRefuse n m.arg = some k → becomes (.flip n) (u.refuse n k m)) ∧
      (u.tableRefuse n m.arg = none → (u.table m.arg).flip ≠ none → becomes (.flip n) (u.refuse n 6 m)) ∧
      (u.tableRefuse n m.arg = none → (u.table m.arg).flip = none →
        ∃ r, becomes (.flip n) r ∧ r.table m.arg = { w.table m.arg with flip := some (cycle, at_), gen := !(w.table m.arg).gen, pass := .running, armedAt := w.tb, lateAt := none } ∧
          r.on (tablePage m.arg) R.CAM_TBL_STAT_ARMED = true ∧ r.rd (tablePage m.arg) R.CAM_TBL_STAT_ARM_CYCLE = cycle ∧
          (∀ y, y ∈ r.shadow ↔ (y ∈ w.shadow ∧ y.table ≠ m.arg) ∨ ∃ z ∈ w.shadow, z.table = m.arg ∧ y = { z with gen := (w.table m.arg).gen } ∧
            (z.gen = (w.table m.arg).gen ∨ ∀ o ∈ w.shadow, o.table = m.arg → o.point = z.point → o.gen ≠ (w.table m.arg).gen)) ∧
          (∀ k, k ≠ m.arg → r.table k = w.table k) ∧ r.mem = s.mem)) ∧
    (let a := m.arg % 512
     let x := w.axis a
     let f := (x.free.map fun k => min k at_).getD at_
     (∀ k, u.axisRefuse n m = some k → ∀ e ∈ [(8, Instr.couple n), (9, .free n), (10, .shift n)], m.cadOp = e.1 → becomes e.2 (u.refuse n k m)) ∧
     (u.axisRefuse n m = none →
       (m.cadOp = 8 → becomes (.couple n) (w.setAxis a { x with couple := x.couple ++ [(cycle, at_)] })) ∧
       (m.cadOp = 9 → w.tb < f → becomes (.free n) (w.setAxis a { x with free := some f })) ∧
       (m.cadOp = 9 → f ≤ w.tb → w.rd 0x1000 R.AX_STATE_STATE a ≠ 0 → ∃ r, becomes (.free n) r ∧ r.rd 0x1000 R.AX_STATE_STATE a = 1 ∧ r.rd 0x1000 R.AX_VEL_VEL a = 0 ∧
         r.rd 0x1000 R.AX_POS_POS a = w.rd 0x1000 R.AX_POS_POS a ∧ (r.axis a).free = none ∧ (r.axis a).shift = none ∧ (r.axis a).shiftAt = none ∧
         (r.axis a).couple = x.couple.filter fun k => decide (f < k.2)) ∧
       (m.cadOp = 10 → becomes (.shift n) (w.setAxis a { x with shiftAt := some (m.value 1 2, max 1 (m.words.getD 3 0 % 2 ^ 14), at_) })))) ∧
    (m.cadOp = 16 →
      (u.spanned n = true ∨ u.on 0x072 R.CAD_CTRL_SYNC_EN n = false → becomes (.syncEdge n) (u.refuse n 1 m)) ∧
      (u.spanned n = false → u.on 0x072 R.CAD_CTRL_SYNC_EN n = true → u.cadEn n = false → becomes (.syncEdge n) (u.refuse n 2 m)) ∧
      (u.spanned n = false → u.on 0x072 R.CAD_CTRL_SYNC_EN n = true → u.cadEn n = true →
        let edge := t + u.rd 0x072 R.CAD_SYNCW_DLY n
        let e := (u.lateRule n m edge).1
        let v := (u.lateRule n m edge).2
        let c := v.cad n
        let tgt : Int := t + signed (u.rd 0x072 R.CAD_SYNC_OFS n) 20
        let win : Int := 16 * v.rd 0x072 R.CAD_SYNCW_WIN n
        let rejected := fun (y : State) (detail : Nat) (d : Int) => becomes (.syncEdge n) ((y.bump 0x072 R.CAD_CNT_SYNCREJ n).notice n
          { stamp := e, type := 8, detail := detail, w1 := wrap d 28 % 2 ^ 14, w2 := wrap d 28 / 2 ^ 14 })
        let late := fun (y : State) => if u.isLate n edge then y else y.dlMiss n 4
        let found := nearest tgt ((c.bnds.map (·.1)) ++ (c.upToStamp e).ahead tgt 8192 c.latest.1 c.latest.2)
        (found = none → rejected v 3 0) ∧
        ∀ b, found = some b →
          (v.injArmed 0x072 1 = true → rejected (late (v.injTake 0x072 1)) 2 (tgt - b)) ∧
          (v.injArmed 0x072 1 = false →
            (win ≤ tgt - b → rejected (late v) 2 (tgt - b)) ∧
            (tgt - b < win → tgt - b < -win → rejected v 1 (tgt - b)) ∧
            (tgt - b < win → -win ≤ tgt - b →
              becomes (.syncEdge n) (v.trimCmd n e (-(((tgt - b) * c.rateAt e).tdiv (2 ^ 20)).tdiv (2 ^ v.rd 0x072 R.CAD_CTRL_SYNC_GAIN n)))))))

/-- Boundaries (R237, R256), notices (R245) and evaluations (R247, R249, R252). -/
def Obligations.BoundariesNoticesAndEvaluations : Prop :=
  (∀ (n : Fin 16) (s : State),
    (s.domOn 3 = false ∨ s.cadEn n = false ∨ (∀ b k, (s.cad n).nextBoundary = some (b, k) → s.tb < b) → exec (.cadenceBoundary n) s = .next s) ∧
    (∀ b k, s.domOn 3 = true → s.cadEn n = true → (s.cad n).nextBoundary = some (b, k) → b ≤ s.tb →
      ∃ t, exec (.cadenceBoundary n) s = .next t ∧ (t.cad n).cyc = k ∧ (t.cad n).bnds = (b, k) :: (s.cad n).bnds ∧ (t.cad n).segs = (s.cad n).segs ∧
        t.rd 0x072 R.CAD_STAT_CYCLE n = wrap k 14 ∧ t.rd 0x072 R.CAD_BST_LO_STAMP n + 2 ^ 32 * t.rd 0x072 R.CAD_BST_HI_STAMP n = b % 2 ^ 42 ∧
        (∀ j, j ≠ n.val → (t.cad j).segs = (s.cad j).segs) ∧ t.mem = s.mem ∧
        ∀ tb, s.flipsAt n b k = [tb] → tb < 1024 →
          let x := s.table tb
          let next := wrap (if (s.cad n).cyc < k then k + 1 else k - 1) 14
          (s.passAt tb b = .complete → (t.table tb).flip = none ∧ t.on (tablePage tb) R.CAM_TBL_STAT_ARMED = false ∧ t.rd (tablePage tb) R.CAM_TBL_STAT_LIVE = x.target % 8 ∧
            (⟨b, 4, 0, tb, wrap k 14, 0⟩ : Note) ∈ (t.cad n).notes ∧ b ≤ (t.cad n).cmt) ∧
          (∀ d, s.passAt tb b = .ended d → (t.table tb).flip = none ∧ t.on (tablePage tb) R.CAM_TBL_STAT_ARMED = false ∧
            t.rd (tablePage tb) R.CAM_TBL_STAT_LIVE = s.rd (tablePage tb) R.CAM_TBL_STAT_LIVE ∧ (⟨b, 5, d, tb, 0, 0⟩ : Note) ∈ (t.cad n).notes) ∧
          (s.passAt tb b = .running → (t.table tb).flip = some (next, b) ∧ t.rd (tablePage tb) R.CAM_TBL_STAT_ARM_CYCLE = next ∧
            t.rd (tablePage tb) R.CAM_TBL_STAT_LIVE = s.rd (tablePage tb) R.CAM_TBL_STAT_LIVE ∧ (⟨b, 5, 1, tb, 0, 0⟩ : Note) ∈ (t.cad n).notes))) ∧
  (∀ (n : Fin 16) (s : State) (x : Note), s.cadEn n = false → (s.cad n).notes = [x] → s.nextNotice n = some (x, none)) ∧
  (∀ (n : Fin 16) (s : State),
    (s.nextNotice n = none → exec (.notice n) s = .next s) ∧
    ∀ (x : Note) (k : Option Int), s.nextNotice n = some (x, k) →
      let c : Cadence := match k with | some k => { s.cad n with noted := k } | none => { s.cad n with notes := (s.cad n).notes.erase x }
      let ch := s.rd 0x072 R.CAD_CTRL_NOTE_CHAN n
      (s.domOn 3 = false ∨ s.tb < x.stamp → exec (.notice n) s = .next s) ∧
      (s.domOn 3 = true → x.stamp ≤ s.tb → s.on 0x072 R.CAD_CTRL_NOTE_EN n = false → exec (.notice n) s = .next (s.setCad n c)) ∧
      (s.domOn 3 = true → x.stamp ≤ s.tb → s.on 0x072 R.CAD_CTRL_NOTE_EN n = true →
        (s.noticeWaits n x.stamp = true → exec (.notice n) s = .next s) ∧
        (s.replayDiscards 0x11A = false → s.sendFails ch 0x11A (x.stamp % 2 ^ 42) = none →
          (s.freeCredits ch 0x11A = 0 → exec (.notice n) s = .next s) ∧
          (s.noticeWaits n x.stamp = false → s.freeCredits ch 0x11A ≠ 0 →
            ∃ (t : State) (y : _), exec (.notice n) s = .next t ∧ t.cad n = { c with cmt := max c.cmt x.stamp } ∧ (t.chan ch).flight = (s.chan ch).flight ++ [.msg y] ∧
              y.kind = 5 ∧ y.sender = 0x11A ∧ (s.chOrd ch = true → y.stamp = x.stamp % 2 ^ 42) ∧
              y.words = [n.val + 16 * x.type + 256 * x.detail, x.w1, x.w2, x.w3].map (· % 2 ^ 14) ∧ t.mem = s.mem)))) ∧
  (∀ (p : Fin 8) (late : Bool) (s : State), s.domOn 3 = false ∨ (∀ c, s.servoStamp p (s.tb + s.rd 0x071 R.CAM_PORT_LEAD p) = some c → c < 0 ∨ c ≤ lookD s.evals p (-1)) →
    exec (.camEvaluation p late) s = .next s) ∧
  (∀ (p : Fin 8) (s : State) (c : Nat), s.domOn 3 = true → s.servoStamp p (s.tb + s.rd 0x071 R.CAM_PORT_LEAD p) = some (c : Int) → lookD s.evals p (-1) < c →
    (∀ k, (s.table k).pass ≠ .running) →
    let axes := s.enabledAxes.filter fun a => decide (s.rd 0x1000 R.AX_BIND_PORT a = p.val) && !(s.cad (s.rd 0x1000 R.AX_BIND_CAD a)).startAt.any fun (e : Nat) => decide ((c : Int) < e)
    let cads := (axes.map fun a => s.rd 0x1000 R.AX_BIND_CAD a).dedup
    let u := cads.foldl (fun (t : State) n => t.commitTo n c) { s with evals := put s.evals p c }
    (axes ≠ [] → s.injArmed 0x071 1 = false → exec (.camEvaluation p true) s =
      .next (cads.foldl (fun (t : State) n => t.dlMiss n 0) ((u.bump 0x071 R.CAM_FAULT_LATE).pgEvt 0x071 1))) ∧
    (s.injArmed 0x071 1 = false → exec (.camEvaluation p false) s =
      .next (cads.foldl (fun (t : State) n => t.notePast n c s) (axes.foldl (fun (t : State) a => t.evalAxis a c) u))) ∧
    (∀ a, a < 512 → s.on 0x1000 R.AX_BIND_EN a = true → s.rd 0x1000 R.AX_STATE_STATE a < 2 → (s.axis a).free = none → s.comingTo (s.rd 0x1000 R.AX_BIND_CAD a) c = [] →
      let key := 64 * s.rd 0x1000 R.AX_BIND_PORT a + s.rd 0x1000 R.AX_BIND_NODE a
      (∀ b ∈ s.enabledAxes, 64 * s.rd 0x1000 R.AX_BIND_PORT b + s.rd 0x1000 R.AX_BIND_NODE b = key → a ≤ b) →
      s.evalAxis a c = { s with staging := put s.staging key ⟨s.rd 0x1000 R.AX_POS_POS a, s.rd 0x1000 R.AX_VEL_VEL a, false, c⟩ }))

/-- The evaluation of a coupled axis (R249, R250, R257, R258), and the interpolant at a table's points (R253, R254). -/
def Obligations.CoupledAxesFollowTheirMaster : Prop :=
  (∀ (s : State) (a c : Nat), (s.axis a).free = none → s.rd 0x1000 R.AX_STATE_STATE a = 2 → s.comingTo (s.rd 0x1000 R.AX_BIND_CAD a) c = [] → a < 512 →
    let braked := s.on 0x020 R.HLT_BRAKE_ACTIVE || (s.axis a).braked
    let faults := fun (cause : Nat) => (s.evalAxis a c).rd 0x1000 R.AX_STATE_STATE a = 1 ∧ (s.evalAxis a c).on 0x1000 R.AX_STATE_FAULT a = true ∧
      (s.evalAxis a c).rd 0x1000 R.AX_STATE_CAUSE a = cause ∧ (s.evalAxis a c).rd 0x1000 R.AX_VEL_VEL a = 0 ∧
      (s.evalAxis a c).rd 0x1000 R.AX_POS_POS a = s.rd 0x1000 R.AX_POS_POS a ∧ (s.evalAxis a c).mem = s.mem
    (braked = true → faults 3) ∧ (braked = false → s.axisLost a c = true → faults 4) ∧
    (braked = false → s.axisLost a c = false → (s.axis a).shift = none → s.bad = [] → s.injArmed 0x07F 0 = false → s.injArmed 0x07F 1 = false →
      let tb := s.rd 0x1000 R.AX_BIND_TABLE a
      let p := (s.cad (s.rd 0x1000 R.AX_BIND_CAD a)).posAt c
      let f := ((s.axis a).frac : Int) + (p - (s.axis a).posC) * signed (s.rd 0x1000 R.AX_GCUR_G a) 28
      let m : Nat := s.rd 0x1000 R.AX_MST_LO_M a + s.rd 0x1000 R.AX_MST_HI_M a * 2 ^ 32
      let m' := wrap (m + f / 2 ^ 16) 42
      let turns : Int := (m + f / 2 ^ 16) / 2 ^ 28 - (m : Int) / 2 ^ 28
      let base := (s.rd 0x1000 R.AX_BASEY_BASEY a : Int) + turns * signed (s.rd (tablePage tb) R.CAM_TBL_ADV_ADV) 28
      let t := s.evalAxis a c
      t.rd 0x1000 R.AX_MST_LO_M a + t.rd 0x1000 R.AX_MST_HI_M a * 2 ^ 32 = m' ∧ ((t.axis a).frac : Int) = f % 2 ^ 16 ∧ (t.axis a).posC = p ∧
        t.rd 0x1000 R.AX_BASEY_BASEY a = wrap base 28 ∧ t.rd 0x1000 R.AX_POS_POS a = wrap ((s.interpolate tb c (m' % 2 ^ 28)).1 + wrap base 28) 28 ∧
        t.rd 0x1000 R.AX_STATE_STATE a = 2 ∧ t.mem = s.mem)) ∧
  (∀ (s : State) (t c i : Nat), 2 ≤ s.tblPoints t → s.tblPoints t ≤ 16384 → i < s.tblPoints t →
    let base := s.baseAt t c
    (∀ j k, j < k → k < s.tblPoints t → (s.pointAt base j).1 < (s.pointAt base k).1) →
    (s.interpolate t c (s.pointAt base i).1).1 = signed (s.pointAt base i).2.1 28)

/-- The enables of tables and axes, the scan and the commit pass (R178 to R182, R188, R247, R253, R257). -/
def Obligations.TablesAndAxesAreEnabledAfterTheirChecks : Prop :=
  (∀ (v : State) (t : Nat),
    let p := v.tblPoints t
    let badField := v.rd (tablePage t) R.CAM_TBL_A_SPAN = 3 ∨ p < 2 ∨ 16384 < p ∨ 0x200000 < v.tblOfs t + regionBytes p
    let overlaps := ∃ x ∈ v.knownTables, x ≠ t ∧ (v.tblEn x = true ∨ (v.table x).scan = true) ∧ v.tblOfs t < v.tblOfs x + regionBytes (v.tblPoints x) ∧
      v.tblOfs x < v.tblOfs t + regionBytes p ∧ ∃ b, b < 8 ∧ v.usesBank t b = true ∧ v.usesBank x b = true
    (badField → v.tblRefuse t = 4) ∧ (¬ badField → overlaps → v.tblRefuse t = 1) ∧ (¬ badField → ¬ overlaps → v.tblRefuse t = 0)) ∧
  (∀ (s : State) (data : Reg), s.hostReaches = true → s.domOn 3 = true →
    let t := s.rd 0x071 R.CAM_TBL_IDX_IDX
    let r := s.jrnHost 0x7104C
    let fields := fun (d : Nat) => r.applyWrite (R.CAM_TBL_A_EN.addr (tablePage t) 0) (setBits d 31 1 0)
    let v := fields (setBits data.toNat 31 1 1)
    (r.tblBusy t = true → exec (.tableEnable data) s = .next (r.wr (tablePage t) R.CAM_TBL_STAT_REFUSE 5)) ∧
    (r.tblBusy t = false → v.tblRefuse t ≠ 0 → exec (.tableEnable data) s = .next (v.wr (tablePage t) R.CAM_TBL_STAT_REFUSE (v.tblRefuse t))) ∧
    (r.tblBusy t = false → v.tblRefuse t = 0 →
      let x := (List.range (v.tblSpan t)).foldl (fun (u : State) j => if u.domOn (56 + u.copyBank t j) then u else u.startWake (56 + u.copyBank t j)) v
      exec (.tableEnable data) s = .next (x.setTable t { x.table t with scan := true })) ∧
    (∃ q, exec (.tableDisable data) s = .next q ∧ q.tblEn t = false ∧ q.on (tablePage t) R.CAM_TBL_STAT_ARMED = false ∧ q.table t = {} ∧
      q.shadow = r.shadow.filter (fun e => e.table ≠ t) ∧ (∀ f ∈ [R.CAM_TBL_A_OFS, R.CAM_TBL_A_FIRST, R.CAM_TBL_A_SPAN, R.CAM_TBL_A_CAD], q.rd (tablePage t) f = bits data.toNat f.lo f.w) ∧
      (∀ a, a < 512 → 2 ≤ r.rd 0x1000 R.AX_STATE_STATE a → r.rd 0x1000 R.AX_BIND_TABLE a = t → (q.axis a).drop = true) ∧ q.mem = s.mem)) ∧
  (∀ (a : Fin 512) (data : Reg) (s : State), s.hostReaches = true → s.domOn 3 = true →
    let adr := R.AX_BIND_EN.addr 0x1000 a
    let r := s.jrnHost adr
    let was := r.on 0x1000 R.AX_BIND_EN a
    let t := (if r.rd 0x1000 R.AX_STATE_STATE a < 2 then r.applyWrite adr (setBits (setBits data.toNat 31 1 1) 31 1 (b2n was)) else r).wr 0x1000 R.AX_BIND_EN 1 a
    (was = true → exec (.axisEnable a data) s = .next t.showDemand) ∧
    (was = false → t.demand ≤ 32000000 → exec (.axisEnable a data) s = .next ((t.wr 0x1000 R.AX_STATE_STATE 1 a).wr 0x1000 R.AX_VEL_VEL 0 a).showDemand) ∧
    (was = false → 32000000 < t.demand → exec (.axisEnable a data) s = .next (r.wr 0x071 R.CAM_LOAD_REFUSE 1))) ∧
  (∀ (t j g : Nat) (s : State), s.domOn (56 + s.copyBank t j) = true → s.bad = [] → s.injArmed 0x07F 0 = false → s.injArmed 0x07F 1 = false →
    let h := s.bytes (s.copyBase t j) 16
    ((s.scanCopy t j).1 = some g ↔ g = leNat (h.take 4) ∧ leNat ((h.drop 4).take 2) = s.tblPoints t ∧ leNat ((h.drop 6).take 2) = t ∧
      leNat ((h.drop 8).take 4) = crc32c (s.bytes (s.copyBase t j + 16) (12 * s.tblPoints t)))) ∧
  (∀ (t : Fin 1024) (s : State),
    let changing := ∃ j, j < s.tblSpan t ∧ (s.dom (56 + s.copyBank t j)).going ≠ none
    (s.domOn 3 = false ∨ (s.table t).scan = false ∨ changing → exec (.camTableScan t) s = .next s) ∧
    (s.domOn 3 = true → (s.table t).scan = true → ¬ changing →
      let q := (List.range (s.tblSpan t)).foldl (fun (q : List (Nat × Nat) × State) j => (q.1 ++ ((q.2.scanCopy t j).1.toList.map fun g => (j, g)), (q.2.scanCopy t j).2)) ([], s)
      let u := q.2.setTable t { q.2.table t with scan := false }
      let rises := ∀ x ∈ q.1, u.ordered (u.copyBase t x.1) (u.tblPoints t) = true
      (q.1 = [] → exec (.camTableScan t) s = .next ((u.disableTable t).wr (tablePage t) R.CAM_TBL_STAT_REFUSE 2)) ∧
      (q.1 ≠ [] → ¬ rises → exec (.camTableScan t) s = .next ((u.disableTable t).wr (tablePage t) R.CAM_TBL_STAT_REFUSE 3)) ∧
      (q.1 ≠ [] → rises → ∃ x ∈ q.1, ((∀ y ∈ q.1, y.2 < 2 ^ 31) → ∀ y ∈ q.1, y.2 ≤ x.2) ∧
        exec (.camTableScan t) s = .next ((u.wr (tablePage t) R.CAM_TBL_STAT_LIVE x.1).wr (tablePage t) R.CAM_TBL_A_EN 1)))) ∧
  (∀ (t : Fin 1024) (s : State),
    (s.domOn 3 = false ∨ s.mramWritable = false ∨ (s.table t).pass ≠ .running → exec (.commitPass t) s = .next s) ∧
    (s.domOn 3 = true → s.mramWritable = true → (s.table t).pass = .running →
      let p := s.tblPoints t
      let n := regionBytes p
      let tgt := s.copyBase t (s.targetCopy t)
      let u := (s.mergeGo t tgt (s.fixedFor t) (n / 32) 0).2
      let merged := (List.range (n / 16 - 1)).flatMap fun k => u.mergedBytes t (k + 1) (s.fixedFor t)
      let masters := (List.range p).map fun i => leNat ((merged.drop (12 * i)).take 4) % 2 ^ 28
      let rises := (masters.zip masters.tail).all (fun x => decide (x.1 < x.2)) = true
      let ends := fun (x : State) (pass : Pass) => x.setTable t { s.table t with pass := pass }
      ((s.mergeGo t tgt (s.fixedFor t) (n / 32) 0).1 = false → exec (.commitPass t) s = .next ((ends u (.ended 3)).bump 0x07F R.CAM_COMMIT_ABORT)) ∧
      ((s.mergeGo t tgt (s.fixedFor t) (n / 32) 0).1 = true →
        (u.injArmed 0x071 0 = true → exec (.commitPass t) s = .next ((ends (u.injTake 0x071 0) (.ended 2)).bump 0x071 R.CAM_FAULT_ORDER)) ∧
        (u.injArmed 0x071 0 = false → ¬ rises → exec (.commitPass t) s = .next ((ends u (.ended 2)).bump 0x071 R.CAM_FAULT_ORDER)) ∧
        (u.injArmed 0x071 0 = false → rises →
          let head := leBytes 4 (leNat (u.bytes (u.liveBase t) 4) + 1) ++ leBytes 2 p ++ leBytes 2 t ++ leBytes 4 (crc32c (merged.take (12 * p))) ++ leBytes 4 0
          exec (.commitPass t) s = .next ((u.passWrite tgt head (decide (look u.bad tgt = some .uncorrectable))).setTable t
            { s.table t with pass := .complete, target := s.targetCopy t }) ∧
          (s.Ok → s.copyBank t (s.targetCopy t) ≠ s.copyBank t (s.liveCopy t) → s.tblOfs t + n ≤ 0x200000 →
            ∀ k, k < n / 16 - 1 → u.bytes (tgt + 16 * (k + 1)) 16 = s.mergedBytes t (k + 1) (s.fixedFor t))))))

/-- Releases of a bank (R270, R272, R275). The edge placer (R272, R275) and the ends of pulses. -/
def Obligations.ReleasesActAndDriveTheirPins : Prop :=
  (
  ∀ (c : Cas) (entry : Fin 256) (s : State),
    let kinds : List (Instr × (Nat → Bool)) := [(.releaseMarker c entry, fun a => decide (actType a = 0)), (.releasePinEdge c entry, fun a => decide (actType a = 1)),
      (.releasePwmDutyLoad c entry, fun a => decide (actType a = 2)), (.releaseChainCommit c entry, fun a => decide (actType a = 3)),
      (.releaseMessage c entry, fun a => decide (actType a = 4)), (.strobeOpenWindow c entry, fun a => decide (actType a = 5 ∧ bits a 5 3 = 0)),
      (.strobeCloseWindow c entry, fun a => decide (actType a = 5 ∧ bits a 5 3 = 1)), (.strobeLatchEncoder c entry, fun a => decide (actType a = 5 ∧ bits a 5 3 = 2)),
      (.strobeStartSsi c entry, fun a => decide (actType a = 5 ∧ bits a 5 3 = 3))]
    (s.domOn (8 + c) = false ∨ (∀ t k e, s.relNext = some (t, k, e) → k ≠ relKey c entry) → ∀ x ∈ kinds, exec x.1 s = .next s) ∧
    ∀ (tick : Nat) (e : RelEntry), s.domOn (8 + c) = true → s.relNext = some (tick, relKey c entry, e) →
      let u := s.freed (relKey c entry) tick e
      let act := if e.late then setBits e.act 32 2 0 else e.act
      let pin := bits e.act 0 7
      let level := bits e.act 8 2
      let time := 4 * tick + actFine act
      let port := bits e.act 0 3
      let j := bits e.act 0 5
      let duty := bits e.act 16 16
      let full := bit e.act 6
      (∀ x ∈ kinds, x.2 e.act = false → exec x.1 s = .next s) ∧
      (e.late = false → actPh e.act = false → s.recording = false → s.rpl.going = false → s.injArmed (relPage c) 1 = false →
        u = ({ s with rel := del s.rel (relKey c entry) } : State).wr (relPage c) R.REL_STAT_ARMED (({ s with rel := del s.rel (relKey c entry) } : State).relArmed c)) ∧
      (actType e.act = 0 → exec (.releaseMarker c entry) s = .next u) ∧
      (actType e.act = 1 → exec (.releasePinEdge c entry) s = .next (
        if u.rd 0x080 R.FIO_CFG_FUNC pin = 1 ∧ u.pinSafe pin = false then
          u.placeEdge c pin time level (if level = 3 then some (time + 4 * max 1 (bits e.act 12 20)) else none)
        else u.bump (relPage c) R.REL_CNT_DISCARD)) ∧
      (actType e.act = 2 → bit e.act 5 = false → exec (.releasePwmDutyLoad c entry) s = .next (u.setPwm j { u.pwm j with pend := some (duty, full, tick) })) ∧
      (actType e.act = 2 → bit e.act 5 = true →
        let v := (u.wr 0x083 R.PWM_DUTY_DUTY duty j).wr 0x083 R.PWM_DUTY_FULL (b2n full) j
        ((u.pwm j).start = none ∨ (u.pwm j).high = false → exec (.releasePwmDutyLoad c entry) s = .next v) ∧
        (∀ t, (u.pwm j).start = some t → (u.pwm j).high = true →
          let fall := 4 * t + pwmFallAfter (max 20 (u.rd 0x083 R.PWM_PER_PERIOD j)) duty
          exec (.releasePwmDutyLoad c entry) s = .next (
            if full then v.setPwm j { u.pwm j with fall := none }
            else if 4 * tick < fall then v.setPwm j { u.pwm j with fall := some fall }
            else (v.setPwm j { u.pwm j with high := false, fall := none }).showPin (u.rd 0x083 R.PWM_CFG_PIN j) (4 * tick)))) ∧
      (actType e.act = 3 → exec (.releaseChainCommit c entry) s = .next (match u.chainCommit port tick c entry with
        | some v => v
        | none => (u.commitDiscard port tick c entry).bump (relPage c) R.REL_CNT_DISCARD)) ∧
      (actType e.act = 4 → exec (.releaseMessage c entry) s = .next (
        if e.late then (u.jrnBreak 4 u.now (c + 16 * entry)).hwSend (bits e.act 0 12) (0x120 + c) (u.tb % 2 ^ 42) 7 [bits e.act 12 14, entry + 256 * c]
        else u.hwSend (bits e.act 0 12) (0x120 + c) ((if actPh e.act then tick else e.s) % 2 ^ 42) 6 [bits e.act 12 14, entry + 256 * c]))) ∧
  (
  (∀ (s : State) (c n time level : Nat) (pulse : Option Nat), c < 16 → n < 96 → level < 4 →
    let x := s.pin n
    let t := s.placeEdge c n time level pulse
    let held := if x.driven then x.level else s.on 0x080 R.FIO_CFG_HLVL n
    let made := fun (before : Bool) => (t.pin n).driven = true ∧ (t.pin n).pulse = pulse ∧ (t.pin n).last = some (time, before, c) ∧
      (t.pin n).level = (if level = 2 then !before else decide (level ≠ 0))
    let counted := fun (k : Nat) => t.rd (relPage k) R.REL_CNT_COLLIDE = min (s.rd (relPage k) R.REL_CNT_COLLIDE + 1) (2 ^ R.REL_CNT_COLLIDE.w - 1)
    ((∀ l b k, x.last = some (l, b, k) → l + 4 ≤ time ∨ time + 4 ≤ l) → made held ∧ t.rd (relPage c) R.REL_CNT_COLLIDE = s.rd (relPage c) R.REL_CNT_COLLIDE) ∧
    (∀ l b k, x.last = some (l, b, k) → l ≤ time → time < l + 4 → made b ∧ counted c) ∧
    (∀ l b k, k < 16 → x.last = some (l, b, k) → time < l → l < time + 4 → t.pin n = x ∧ counted k) ∧
    t.mem = s.mem ∧ t.rel = s.rel ∧ ∀ k, k ≠ n → t.pin k = s.pin k) ∧
  (∀ (n : Fin 96) (s : State),
    (s.domOn 3 = false ∨ (∀ e, (s.pin n).pulse = some e → 4 * s.tb < e) → exec (.pulseEnd n) s = .next s) ∧
    ∀ e, (s.pin n).pulse = some e → s.domOn 3 = true → e ≤ 4 * s.tb →
      ∃ t, exec (.pulseEnd n) s = .next t ∧ (t.pin n).level = false ∧ (t.pin n).pulse = none ∧ (t.pin n).last = some (e, (s.pin n).level, ((s.pin n).last.map (·.2.2)).getD 0) ∧
        t.mem = s.mem ∧ ∀ k, k ≠ n.val → t.pin k = s.pin k))

/-- I/O strobes (R272, R281 to R283) and the host's kill (R271, R287). -/
def Obligations.StrobesReachWindowsAndEncoders : Prop :=
  (∀ (c : Cas) (entry : Fin 256) (s : State) (tick : Nat) (e : RelEntry), s.domOn (8 + c) = true → s.relNext = some (tick, relKey c entry, e) → actType e.act = 5 →
    let u := s.freed (relKey c entry) tick e
    let x := bits e.act 0 5
    let absolute := u.on 0x081 R.CW_CTRL_EN x = true ∧ u.on 0x081 R.CW_CTRL_MODE x = false
    let isOpen := u.on 0x081 R.CW_STAT_OPEN x = true
    (bits e.act 5 3 = 0 →
      (absolute → ¬ isOpen → ∃ t, exec (.strobeOpenWindow c entry) s = .next t ∧ t.on 0x081 R.CW_STAT_OPEN x = true ∧ t.on 0x081 R.CW_STAT_HIT x = false ∧
        (t.win x).opened = tick ∧ (t.win x).past = (u.win x).past ∧ t.pins = u.pins ∧ t.mem = s.mem) ∧
      (¬ absolute ∨ isOpen → exec (.strobeOpenWindow c entry) s = .next u)) ∧
    (bits e.act 5 3 = 1 →
      (absolute → isOpen → ∃ (t : State) (o : Opening), exec (.strobeCloseWindow c entry) s = .next t ∧ t.on 0x081 R.CW_STAT_OPEN x = false ∧ (t.win x).past.head? = some o ∧
        o.close = tick ∧ o.open_ = (u.win x).opened ∧ o.hit = u.on 0x081 R.CW_STAT_HIT x ∧
        o.miss = (u.on 0x081 R.CW_CTRL_MISS x && decide (u.tb < tick + u.filterNs (u.rd 0x081 R.CW_CTRL_PIN x))) ∧ t.mem = s.mem ∧
        ((∀ y ∈ (u.win x).past, y.miss = false) →
          let judged := u.on 0x081 R.CW_CTRL_MISS x && !u.on 0x081 R.CW_STAT_HIT x && !o.miss
          t.rd 0x081 R.CW_STAT_MISSES x = min (u.rd 0x081 R.CW_STAT_MISSES x + b2n judged) (2 ^ R.CW_STAT_MISSES.w - 1) ∧ (judged = false → t.caps = u.caps))) ∧
      (¬ absolute ∨ ¬ isOpen → exec (.strobeCloseWindow c entry) s = .next u)) ∧
    (bits e.act 5 3 = 2 → exec (.strobeLatchEncoder c entry) s = .next (if u.rd 0x082 R.ENC_CFG_MODE x = 1 then
      u.capture118 (u.rd 0x082 R.ENC_CHAN_CHAN x) tick { src := x, type := 2, val := u.rd 0x082 R.ENC_CNT_COUNT x } else u)) ∧
    (bits e.act 5 3 = 3 →
      (u.rd 0x082 R.ENC_CFG_MODE x ≠ 2 → exec (.strobeStartSsi c entry) s = .next u) ∧
      (u.rd 0x082 R.ENC_CFG_MODE x = 2 →
        ((u.enc x).frame ≠ none ∨ tick < (u.enc x).pauseEnd → exec (.strobeStartSsi c entry) s = .next (u.bump 0x082 R.ENC_STAT_SSIERR x)) ∧
        ((u.enc x).frame = none → (u.enc x).pauseEnd ≤ tick →
          let data := u.rd 0x082 R.ENC_CFG_PIN_B x
          ∃ t, exec (.strobeStartSsi c entry) s = .next t ∧ (t.enc x).frame = some (tick, !(u.encPin data && (u.pin data).inp)) ∧ (∀ k, k ≠ x → t.enc k = u.enc k) ∧
            (96 ≤ u.rd 0x082 R.ENC_CFG_PIN_A x → t.regs = u.regs) ∧ t.caps = u.caps ∧ t.tb = s.tb ∧ t.mem = s.mem)))) ∧
  (∀ (c : Cas) (entry : Fin 256) (s : State), s.hostReaches = true → s.domOn (8 + c) = true →
    let w := s.wr (relPage c) R.REL_IDX_ENTRY entry
    let r := (w.jrnHost (R.REL_IDX_KILL.addr (relPage c) 0)).releaseDue
    exec (.relKill c entry) s = .next (({ r with rel := del r.rel (relKey c entry) } : State).showRel c) ∧
    (s.recording = false → s.relNext = none → risingFrom 0 s.rel = true →
      ∃ t, exec (.relKill c entry) s = .next t ∧ look t.rel (relKey c entry) = none ∧ (∀ k, k ≠ relKey c entry → look t.rel k = look s.rel k) ∧
        t.rd (relPage c) R.REL_IDX_ENTRY = entry.val ∧ t.mem = s.mem))

/-- Captures (R279 to R282), banks (R276) and the safe state (R278). -/
def Obligations.CapturesWindowsAndBanks : Prop :=
  (∀ (n : Fin 97) (rise : Bool) (s : State),
    (s.domOn 3 = false ∨ (s.pin n).inp = rise → exec (.pinEdgeCapture n rise) s = .next s) ∧
    (s.domOn 3 = true → (s.pin n).inp ≠ rise →
      let w := (s.windowsDue n).setInput n rise
      let t := w.tb - w.filterNs n
      let direct := edgeSelects (w.capEdge n) rise
      let raised := if direct ∧ n.val < 96 then w.raise (528 + n) else w
      let soon := ∃ k, (w.pin n).cap = some k ∧ t < k + 8
      let taken := (raised.setPin n { w.pin n with cap := some t })
      let sent := if direct then taken.capture118 (taken.capChan n) t { src := n, type := 0, rise := rise } else taken
      let lost := ({ raised with capLost := put raised.capLost n (lookD raised.capLost n 0 + 1) } : State).bump 0x081 R.CAP_ERR_LOST
      (s.strobeDue = false → s.windowsOn n = [] → s.windowsDue n = s) ∧
      (w.windowsOn n = [] →
        (direct = false → exec (.pinEdgeCapture n rise) s = .next w) ∧
        (direct = true → soon → exec (.pinEdgeCapture n rise) s = .next lost) ∧
        (direct = true → ¬ soon → exec (.pinEdgeCapture n rise) s = .next sent)) ∧
      (∀ x, w.windowsOn n = [x] →
        let selects := edgeSelects (w.rd 0x081 R.CW_CTRL_EDGE x) rise
        let inside := w.inWindow x t
        (direct = false → selects = false → exec (.pinEdgeCapture n rise) s = .next (if inside then w else w.bump 0x081 R.CW_STAT_OUTSIDE x)) ∧
        (direct = true ∨ selects = true → soon → exec (.pinEdgeCapture n rise) s = .next lost) ∧
        (direct = true ∨ selects = true → ¬ soon →
          (inside = false → exec (.pinEdgeCapture n rise) s = .next (sent.bump 0x081 R.CW_STAT_OUTSIDE x)) ∧
          (inside = true → selects = false → exec (.pinEdgeCapture n rise) s = .next sent) ∧
          (inside = true → selects = true → exec (.pinEdgeCapture n rise) s = .next (
            if sent.on 0x081 R.CW_CTRL_FIRST x ∧ sent.openingHit x t = true then sent.bump 0x081 R.CW_STAT_EXTRA x
            else (sent.noteHit x t).capture118 (sent.rd 0x081 R.CW_CTRL_CHAN x) t { src := n, type := 0, rise := rise, win := some x })))))) ∧
  (∀ (w : Fin 32) (s : State),
    (s.on 0x081 R.CW_STAT_OPEN w = true ∨ s.winEdge w (s.rd 0x081 R.CW_OPEN_PHASE w) true = none → exec (.phaseWindowOpen w) s = .next s) ∧
    (s.on 0x081 R.CW_STAT_OPEN w = false ∨ s.winEdge w (s.rd 0x081 R.CW_CLOSE_PHASE w) false = none → exec (.phaseWindowClose w) s = .next s) ∧
    ∀ (t : Nat) (p : Int),
      (s.on 0x081 R.CW_STAT_OPEN w = false → s.winEdge w (s.rd 0x081 R.CW_OPEN_PHASE w) true = some (t, p) →
        ∃ r, exec (.phaseWindowOpen w) s = .next r ∧ r.on 0x081 R.CW_STAT_OPEN w = true ∧ r.on 0x081 R.CW_STAT_HIT w = false ∧ (r.win w).opened = t ∧
          (r.win w).mark = some p ∧ r.mem = s.mem) ∧
      (s.on 0x081 R.CW_STAT_OPEN w = true → s.winEdge w (s.rd 0x081 R.CW_CLOSE_PHASE w) false = some (t, p) →
        ∃ (r : State) (o : Opening), exec (.phaseWindowClose w) s = .next r ∧ r.on 0x081 R.CW_STAT_OPEN w = false ∧ (r.win w).past.head? = some o ∧ o.close = t ∧
          o.open_ = (s.win w).opened ∧ o.hit = s.on 0x081 R.CW_STAT_HIT w ∧ (r.win w).mark = some p ∧ r.mem = s.mem)) ∧
  (∀ (b : Fin 6) (s : State), s.domOn 3 = true →
    (∃ t, exec (.bankMismatch b) s = .next t ∧ bit (t.rd 0x080 R.FIO_BANK_MISMATCH) b = true ∧ bit t.misBanks b = true ∧ t.mem = s.mem) ∧
    (∃ t, exec (.bankMismatchEnd b) s = .next t ∧ bit (t.rd 0x080 R.FIO_BANK_MISMATCH) b = (decide (b.val = 0) && s.misUntil.isSome) ∧ bit t.misBanks b = false ∧ t.mem = s.mem)) ∧
  (∀ s : State, s.hostReaches = true → s.domOn 3 = true →
    (s.on 0x020 R.HLT_BRAKE_ACTIVE = true ∨ s.on 0x080 R.FIO_SAFE_ACTIVE = false → exec .fioSafeClr s = .next s) ∧
    (s.on 0x020 R.HLT_BRAKE_ACTIVE = false → s.on 0x080 R.FIO_SAFE_ACTIVE = true → ∃ t, exec .fioSafeClr s = .next t ∧ t.on 0x080 R.FIO_SAFE_ACTIVE = false ∧
      (∀ n, n < 96 → (t.pin n).safe = false ∧ ((s.pin n).safe = true → (t.pin n).driven = false ∧ (t.pin n).pulse = none)) ∧
      (∀ j, j < 32 → (t.pwm j).held = false ∧ ((s.pwm j).held = true → (t.pwm j).wait = true ∧ (t.pwm j).start = some s.tb)) ∧ t.mem = s.mem))

/-- Encoders (R283, R290; the direction is log entry 26's) and PWM (R272, R284, R291). -/
def Obligations.EncodersAndPwmRun : Prop :=
  (∀ (e : Fin 16) (a b : Bool) (s : State),
    let x := s.enc e
    let seen := s.domOn 3 = true ∧ s.encPin (s.rd 0x082 R.ENC_CFG_PIN_A e) = true ∧ s.encPin (s.rd 0x082 R.ENC_CFG_PIN_B e) = true ∧ ¬ (a = x.a ∧ b = x.b)
    let u := s.setEnc e { x with a := a, b := b }
    let injected := e.val = 0 ∧ s.injArmed 0x082 0 = true
    let step : Int := if (if a ≠ x.a then a != b else a == b) = Config.quadForward then 1 else -1
    (¬ seen → exec (.encoderTransition e a b) s = .next s) ∧
    (seen → s.rd 0x082 R.ENC_CFG_MODE e ≠ 1 → exec (.encoderTransition e a b) s = .next u) ∧
    (seen → s.rd 0x082 R.ENC_CFG_MODE e = 1 →
      (injected → exec (.encoderTransition e a b) s = .next ((u.injTake 0x082 0).bump 0x082 R.ENC_STAT_QERR e)) ∧
      (¬ injected → a ≠ x.a → b ≠ x.b → exec (.encoderTransition e a b) s = .next (u.bump 0x082 R.ENC_STAT_QERR e)) ∧
      (¬ injected → (a = x.a ∨ b = x.b) → exec (.encoderTransition e a b) s =
        .next (u.wr 0x082 R.ENC_CNT_COUNT (wrap ((s.rd 0x082 R.ENC_CNT_COUNT e : Int) + step) 28) e)))) ∧
  (∀ (e : Fin 16) (s : State),
    let latch := fun (t : State) (tick : Nat) (z : Bool) => if s.rd 0x082 R.ENC_CFG_MODE e = 1 then
      t.capture118 (s.rd 0x082 R.ENC_CHAN_CHAN e) tick { src := e, type := 2, zl := z, val := s.rd 0x082 R.ENC_CNT_COUNT e } else t
    (s.domOn 3 = true → s.encPin (s.rd 0x082 R.ENC_CFG_PIN_Z e) = true →
      let z := s.wr 0x082 R.ENC_STAT_ZSEEN 1 e
      exec (.encoderZLatch e) s = .next (if s.on 0x082 R.ENC_CFG_ZLATCH e then latch z s.tb true else z)) ∧
    (s.domOn 3 = false ∨ s.encPin (s.rd 0x082 R.ENC_CFG_PIN_Z e) = false → exec (.encoderZLatch e) s = .next s) ∧
    (let per := max 1000 (s.rd 0x082 R.ENC_PER_PERIOD e)
     let ofs := s.rd 0x082 R.ENC_OFS_OFS e % per
     let t := s.tb - (s.tb - ofs) % per
     let due := s.domOn 3 = true ∧ s.rd 0x082 R.ENC_PER_PERIOD e ≠ 0 ∧ ofs ≤ s.tb ∧ ∀ l, (s.enc e).lastPer = some l → l < t
     let u := s.setEnc e { s.enc e with lastPer := some t }
     (¬ due → exec (.encoderPeriodicLatch e) s = .next s) ∧
     (due → s.rd 0x082 R.ENC_CFG_MODE e ≠ 2 → exec (.encoderPeriodicLatch e) s = .next (latch u t false)) ∧
     (due → s.rd 0x082 R.ENC_CFG_MODE e = 2 →
       ((s.enc e).frame ≠ none ∨ t < (s.enc e).pauseEnd → exec (.encoderPeriodicLatch e) s = .next (u.bump 0x082 R.ENC_STAT_SSIERR e)) ∧
       ((s.enc e).frame = none → (s.enc e).pauseEnd ≤ t →
         let data := s.rd 0x082 R.ENC_CFG_PIN_B e
         ∃ r, exec (.encoderPeriodicLatch e) s = .next r ∧ (r.enc e).frame = some (t, !(s.encPin data && (s.pin data).inp)) ∧ (r.enc e).lastPer = some t ∧
           (∀ k, k ≠ e.val → r.enc k = s.enc k) ∧ r.caps = s.caps ∧ r.mem = s.mem)))) ∧
  (∀ (e : Fin 16) (data : BitVec 29) (s : State),
    let stop := fun (start : Nat) => start + 2 * s.ssiBits e * s.ssiHalf e
    (s.domOn 3 = false ∨ (∀ start low, (s.enc e).frame = some (start, low) → s.tb < stop start) → exec (.ssiFrameEnd e data) s = .next s) ∧
    ∀ (start : Nat) (low : Bool), s.domOn 3 = true → (s.enc e).frame = some (start, low) → stop start ≤ s.tb →
      let injected := decide (e.val = 0) && s.injArmed 0x082 1
      let parity := s.on 0x082 R.ENC_SSI_PAR e
      let v := data.toNat % 2 ^ s.ssiBits e
      let odd := decide (((List.range (s.ssiBits e)).map fun i => b2n (bit v i)).sum % 2 = 1)
      let err := low || injected || (parity && odd)
      let raw := if parity then v / 2 else v
      let u := if injected then s.injTake 0x082 1 else s
      let w := (u.ssiShow e (stop start)).setEnc e { s.enc e with frame := none, pauseEnd := stop start + 1000 * max 1 (s.rd 0x082 R.ENC_SSI_MONO e) }
      exec (.ssiFrameEnd e data) s = .next ((if err then w.bump 0x082 R.ENC_STAT_SSIERR e else w).capture118 (s.rd 0x082 R.ENC_CHAN_CHAN e) (stop start)
        { src := e, type := 3, err := err, val := if err then 0 else if s.on 0x082 R.ENC_SSI_GRAY e then grayDecode raw else raw })) ∧
  (∀ (j : Fin 32) (s : State),
    let x := s.pwm j
    let per := max 20 (s.rd 0x083 R.PWM_PER_PERIOD j)
    let org := s.rd 0x083 R.PWM_ORG_ORG j % per
    let t := s.tb - (s.tb - org) % per
    let due := s.domOn 3 = true ∧ s.on 0x083 R.PWM_CFG_EN j = true ∧ x.held = false ∧ org ≤ s.tb ∧ ∀ u, x.start = some u → u < t
    let taken := x.pend.filter fun y => decide (y.2.2 ≤ t)
    let duty := (taken.map (·.1)).getD (s.rd 0x083 R.PWM_DUTY_DUTY j)
    let full := (taken.map (·.2.1)).getD (s.on 0x083 R.PWM_DUTY_FULL j)
    (¬ due → exec (.pwmPeriodStart j) s = .next s) ∧
    (due → (∀ y, taken = some y → y.1 < 65536) → ∃ r, exec (.pwmPeriodStart j) s = .next r ∧
      r.pwm j = { x with start := some t, wait := false, pend := if taken.isSome then none else x.pend, high := full || decide (duty ≠ 0),
                         fall := if full ∨ duty = 0 then none else some (4 * t + (8 * per * duty + 65536) / 131072) } ∧
      r.rd 0x083 R.PWM_DUTY_DUTY j = duty ∧ r.on 0x083 R.PWM_DUTY_FULL j = full ∧ r.mem = s.mem ∧ ∀ k, k ≠ j.val → r.pwm k = s.pwm k) ∧
    (s.domOn 3 = false ∨ x.high = false ∨ (∀ f, x.fall = some f → 4 * s.tb < f) → exec (.pwmFall j) s = .next s) ∧
    (∀ f, s.domOn 3 = true → x.fall = some f → x.high = true → f ≤ 4 * s.tb →
      ∃ r, exec (.pwmFall j) s = .next r ∧ r.pwm j = { x with high := false, fall := none } ∧ r.mem = s.mem ∧ ∀ k, k ≠ j.val → r.pwm k = s.pwm k))

/-- The event controller's commands (R403 to R413), and the crossing's limit (R407, R463, R465). -/
def Obligations.EventsArePresentedClaimedAndFinished : Prop :=
  (∀ (n : Fin 1023) (s : State),
    let u : State := { s with xing := put s.xing n (s.crossing n - 1) }
    let g := n.val / 16
    let x := s.grp g
    let held := x.held + 1
    let fires := max 1 (s.rd (grpPage g) R.EV_GRP_CFG_COUNT) ≤ held
    let counted := fun (t : State) => t.mem = s.mem ∧ (fires → t.grp g = {} ∧ ∀ i, i < 16 → (s.src (16 * g + i)).st = .held → (t.src (16 * g + i)).st = .pending) ∧
      (¬ fires → t.grp g = ⟨held, if x.held = 0 then s.tb else x.first⟩ ∧ ∀ k, k ≠ n.val → t.src k = s.src k)
    (s.domOn 2 = false ∨ s.crossing n = 0 → exec (.eventRaise n) s = .next s) ∧
    (s.domOn 2 = true → 0 < s.crossing n →
      (isReservedSource n = true ∨ s.on (srcPage n) R.EV_SRC_CFG_EN = false → exec (.eventRaise n) s = .next u) ∧
      (isReservedSource n = false → s.on (srcPage n) R.EV_SRC_CFG_EN = true →
        ((s.src n).st = .idle → ∃ t, exec (.eventRaise n) s = .next t ∧ counted t ∧ t.crossing n = s.crossing n - 1 ∧
          (t.src n).st = (if fires then .pending else .held)) ∧
        ((s.src n).st = .held ∨ (s.src n).st = .pending → isLevelSource n = false → ∃ t, exec (.eventRaise n) s = .next t ∧ counted t ∧ t.crossing n = s.crossing n - 1) ∧
        ((s.src n).st = .claimed → isLevelSource n = false → exec (.eventRaise n) s = .next (u.setSrc n { s.src n with rep := true })) ∧
        ((s.src n).st ≠ .idle → isLevelSource n = true → exec (.eventRaise n) s = .next u)))) ∧
  (∀ (g : Fin 64) (s : State),
    let due := s.domOn 2 = true ∧ s.frozen 0x040 = false ∧ 0 < (s.grp g).held ∧ s.rd (grpPage g) R.EV_GRP_NS_NS ≠ 0 ∧ (s.grp g).first + s.rd (grpPage g) R.EV_GRP_NS_NS ≤ s.tb
    (¬ due → exec (.groupTimeLimit g) s = .next s) ∧
    (due → ∃ t, exec (.groupTimeLimit g) s = .next t ∧ t.grp g = {} ∧ (∀ i, i < 16 → (s.src (16 * g + i)).st = .held → (t.src (16 * g + i)).st = .pending) ∧
      (∀ n, (s.src n).st ≠ .held → t.src n = s.src n) ∧ t.mem = s.mem)) ∧
  (∀ (data : Reg) (s : State), s.hostReaches = true → s.domOn 2 = true →
    let n := s.rd 0x040 R.EV_SRC_IDX_IDX
    let en := bit data.toNat 31
    let was := s.on (srcPage n) R.EV_SRC_CFG_EN
    (n = 1023 ∨ (isReservedSource n = true ∧ en = true) → exec (.eventSourceConfig data) s = .next s) ∧
    (n < 1023 → ¬ (isReservedSource n = true ∧ en = true) → ∃ t, exec (.eventSourceConfig data) s = .next t ∧ t.mem = s.mem ∧
      (∀ f ∈ [R.EV_SRC_CFG_EN, R.EV_SRC_CFG_HOST, R.EV_SRC_CFG_VEC, R.EV_SRC_CFG_CLASS, R.EV_SRC_CFG_CAS, R.EV_SRC_CFG_MASK], t.rd (srcPage n) f = bits data.toNat f.lo f.w) ∧
      (was = true → en = false → (s.src n).st = .held ∨ (s.src n).st = .pending → t.src n = { s.src n with st := .idle }) ∧
      (was = true ∧ en = true ∨ was = false ∧ (en = false ∨ s.levelCond n = false) → t.src n = s.src n) ∧
      (was = false → en = true → s.levelCond n = true → (s.src n).st = .idle → (t.src n).st ≠ .idle))) ∧
  (∀ (v : Fin 64) (s : State), s.hostReaches = true →
    let answers := fun (t : State) (n : Nat) => exec (.evHclaim v) s = .next { t with out := .regRead (0x40100 + 4 * v.val) (BitVec.ofNat 32 n) :: t.out }
    let routed := fun n => s.on (srcPage n) R.EV_SRC_CFG_HOST && s.rd (srcPage n) R.EV_SRC_CFG_VEC = v.val
    (s.domOn 2 = false → answers s 0) ∧
    (s.domOn 2 = true → s.injArmed 0x040 1 = true → answers (s.injTake 0x040 1) 1023) ∧
    (s.domOn 2 = true → s.injArmed 0x040 1 = false → risingFrom 0 s.evSrc = true →
      ((∀ n, (s.src n).st = .pending → routed n = false) → answers s 1023) ∧
      (∀ n, (s.src n).st = .pending → routed n = true →
        (∀ m, (s.src m).st = .pending → routed m = true → s.rd (srcPage m) R.EV_SRC_CFG_CLASS < s.rd (srcPage n) R.EV_SRC_CFG_CLASS ∨
          (s.rd (srcPage m) R.EV_SRC_CFG_CLASS = s.rd (srcPage n) R.EV_SRC_CFG_CLASS ∧ n ≤ m)) →
        answers (s.setSrc n { s.src n with st := .claimed, host := true, cas := 0, k := 0, vec := some v.val }) n))) ∧
  (∀ (n : Fin 1024) (s : State), s.hostReaches = true → s.domOn 2 = true →
    let x := s.src n
    let idle := s.setSrc n { x with st := .idle, rep := false, cas := 0, k := 0, host := false, vec := none }
    let again := s.on (srcPage n) R.EV_SRC_CFG_EN && (if isLevelSource n then s.levelCond n else x.rep)
    let t := if again then idle.arrive n else idle
    (x.st ≠ .claimed → exec (.evHfin n) s = .next (s.bump 0x040 R.EV_ERR_BADFIN)) ∧
    (x.st = .claimed → x.vec = none → exec (.evHfin n) s = .next t) ∧
    (x.st = .claimed → ∀ v, x.vec = some v → exec (.evHfin n) s = .next (if s.vecAsserted v ∧ t.vecAsserted v then t.msixSend v else t))) ∧
  (∀ (data : BitVec 16) (s : State), s.hostReaches = true → s.domOn 2 = true →
    (s.on 0x040 R.PG_CTRL_SRST = false → (∀ i, i < 16 → bit data.toNat i = true → s.crossing (640 + i) < 255) →
      ∃ t, exec (.evSw data) s = .next t ∧ (∀ i, i < 16 → t.crossing (640 + i) = s.crossing (640 + i) + b2n (bit data.toNat i)) ∧ t.evSrc = s.evSrc ∧ t.regs = s.regs ∧ t.mem = s.mem) ∧
    (s.on 0x040 R.PG_CTRL_SRST = true → (∀ i, i < 16 → bit data.toNat i = true → s.crossing (640 + i) < 255) → exec (.evSw data) s = .next s) ∧
    (∀ i, i < 16 → data.toNat = 2 ^ i → 255 ≤ s.crossing (640 + i) →
      ∃ t, exec (.evSw data) s = .next t ∧ t.crossing (640 + i) = s.crossing (640 + i) ∧ t.on (xingPage 2) R.XING_STAT_OVF = true ∧
        t.rd 0x040 R.EV_ERR_OVF = min (s.rd 0x040 R.EV_ERR_OVF + 1) (2 ^ R.EV_ERR_OVF.w - 1) ∧ t.mem = s.mem)) ∧
  (∀ (page : Fin 0x410) (data : Reg) (s : State), s.hostReaches = true →
    ((pageKind page).hasHeader = true → s.pageOn page = true → exec (.pgEvtPendClear page data) s = .next (s.applyWrite (R.PG_EVT_PEND_PEND.addr page 0) data.toNat)) ∧
    ((pageKind page).hasHeader = false → exec (.pgEvtPendClear page data) s = .next s))

/-- The states of a CoaXPress lane (R295, R303, R320, R325). The control channel (R296), heartbeats (R297) and event packets (R292). -/
def Obligations.LanesChangeStateAndReport : Prop :=
  (
  ∀ (n : Fin 16) (data : Reg) (s : State), s.pageOn (visPage n) = true →
    let follows := fun (t : State) (st : Nat) => t.lnState n = st ∧ ∀ m ∈ t.visGroup n, m ≠ n.val → t.domOn (24 + m) = true → t.lnState m = st ∧ t.on (visPage m) R.VIS_LINK_MEMBER = true
    let en := bit data.toNat 8
    let was := s.on (visPage n) R.VIS_LINK_EN
    let st := s.lnState n
    (s.hostReaches = true → ∀ e ∈ [Instr.laneEnable n data, .laneRateWrite n data],
      ∃ t, exec e s = .next t ∧ t.mem = s.mem ∧ (∀ f ∈ [R.VIS_LINK_RATE, R.VIS_LINK_LANES, R.VIS_LINK_EN], t.rd (visPage n) f = bits data.toNat f.lo f.w) ∧
        (s.visMaster n ≠ n.val → t.lnState n = st) ∧
        (s.visMaster n = n.val →
          (en = false → t.lnState n = 0) ∧ (en = true → was = false → follows t 1) ∧
          (en = true → was = true → st = 1 ∨ st = 3 → follows t 2 ∧ (t.lane n).relock = s.tb) ∧ (en = true → was = true → st ≠ 1 → st ≠ 3 → t.lnState n = st) ∧
          ∀ m ∈ s.visFollowers n, t.visMaster m = m → s.domOn (24 + m) = true → t.on (visPage m) R.VIS_LINK_MEMBER = false ∧
            t.lnState m = b2n (s.on (visPage m) R.VIS_LINK_EN))) ∧
    (st ≠ 2 ∨ s.visMaster n ≠ n.val → exec (.laneLock n) s = .next ((s.wr (visPage n) R.VIS_LINK_LOS 0).relocked (24 + n))) ∧
    (st = 2 → s.visMaster n = n.val → ∃ t, exec (.laneLock n) s = .next t ∧ t.on (visPage n) R.VIS_LINK_LOS = false ∧ t.mem = s.mem ∧
      (s.rd (visPage n) R.VIS_LINK_RATE = 0 → follows t 1) ∧
      (s.rd (visPage n) R.VIS_LINK_RATE ≠ 0 → s.tiles n = true → follows t 3 ∧ t.on (visPage n) R.VIS_LINK_STRIPE_ERR = false) ∧
      (s.rd (visPage n) R.VIS_LINK_RATE ≠ 0 → s.tiles n = false → t.lnState n = 2 ∧ t.on (visPage n) R.VIS_LINK_STRIPE_ERR = true)) ∧
    (let due := st = 2 ∧ s.visMaster n = n.val ∧ (s.lane n).relock + 1000000 ≤ s.tb
     (¬ due → exec (.relockTimeout n) s = .next s) ∧ (due → ∃ t, exec (.relockTimeout n) s = .next t ∧ follows t 1 ∧ t.mem = s.mem)) ∧
    (∀ los : Bool, ∃ t, exec (.lossOfSignal n los) s = .next t ∧ t.on (visPage n) R.VIS_LINK_LOS = (los || s.on (visPage n) R.VIS_LINK_LOS) ∧ t.mem = s.mem ∧
      (st ≠ 3 → t.lnState n = st) ∧ (st = 3 → t.lnState n = 1 ∧ t.lnState (s.visMaster n) = 1 ∧ (t.lane (s.visMaster n)).frame = none))) ∧
  (
  ∀ (n : Fin 16) (s : State), s.pageOn (visPage n) = true →
    let p := visPage n
    let busy := s.on p R.VIS_CTL_STAT_BUSY
    let ended := fun (t : State) (result : Nat) => t.on p R.VIS_CTL_STAT_BUSY = false ∧ t.on p R.VIS_CTL_STAT_DONE = true ∧ t.rd p R.VIS_CTL_STAT_RESULT = result ∧ t.mem = s.mem
    (∀ data : Reg, s.hostReaches = true →
      let cmd := setBits data.toNat 12 1 1
      let u := s.applyWrite (R.VIS_CTL_CMD_GO.addr p 0) cmd
      (busy = true → exec (.controlCommandGo n data) s = .next u) ∧
      (busy = false → s.lnState n ≠ 1 → s.lnState n ≠ 3 → ∃ t, exec (.controlCommandGo n data) s = .next t ∧ ended t 4 ∧ t.out = s.out) ∧
      (busy = false → s.lnState n = 1 ∨ s.lnState n = 3 → ∃ t, exec (.controlCommandGo n data) s = .next t ∧ t.on p R.VIS_CTL_STAT_BUSY = true ∧
        t.out = .visControl n (s.rd p R.VIS_CTL_ADDR_ADDR) (ctlSize cmd) (if R.VIS_CTL_CMD_WRITE.of cmd = 1 then some (s.ctlData n (ctlSize cmd)) else none) :: s.out ∧
        (t.lane n).ctl = s.tb ∧ (t.lane n).ctlCmd = cmd ∧ t.mem = s.mem)) ∧
    (∀ (err crcBad : Bool) (code : BitVec 8) (data : List Byte),
      let result := if crcBad then 3 else if err then 1 else 0
      (busy = false → exec (.controlAck n err crcBad code data) s = .next s) ∧
      (busy = true → ∃ t, exec (.controlAck n err crcBad code data) s = .next t ∧ ended t result ∧ t.rd p R.VIS_CTL_STAT_ACK = code.toNat ∧
        (R.VIS_CTL_CMD_WRITE.of (s.lane n).ctlCmd = 0 → result = 0 → ∀ i b, i < ctlSize (s.lane n).ctlCmd → data[i]? = some b →
          t.rd p R.VIS_CTL_DATA_BYTES (i / 4) / 256 ^ (i % 4) % 256 = b.toNat) ∧
        (R.VIS_CTL_CMD_WRITE.of (s.lane n).ctlCmd = 1 ∨ result ≠ 0 → ∀ i, t.rd p R.VIS_CTL_DATA_BYTES i = s.rd p R.VIS_CTL_DATA_BYTES i))) ∧
    (let due := busy = true ∧ (s.lane n).ctl + 1000000 * max 1 (R.VIS_CTL_CMD_TMO.of (s.lane n).ctlCmd) ≤ s.tb
     (¬ due → exec (.controlTimeout n) s = .next s) ∧ (due → ∃ t, exec (.controlTimeout n) s = .next t ∧ ended t 2)) ∧
    exec (.heartbeatPacket n) s = .next ((s.setLane n { s.lane n with beat := s.tb }).wr p R.VIS_LINK_LOS 0) ∧
    (let due := s.rd p R.VIS_HB_TMO ≠ 0 ∧ (s.lane n).beat + 1000000 * s.rd p R.VIS_HB_TMO ≤ s.tb
     (¬ due → exec (.heartbeatLost n) s = .next s) ∧
     (due → ∃ t, exec (.heartbeatLost n) s = .next t ∧ t.on p R.VIS_HB_LOST = true ∧ t.rd p R.VIS_HB_CNT = min (s.rd p R.VIS_HB_CNT + 1) (2 ^ R.VIS_HB_CNT.w - 1) ∧
       (t.lane n).beat = s.tb ∧ t.mem = s.mem)) ∧
    exec (.eventPacket n) s = .next (if s.lnState n = 3 then { s.setLane n { s.lane n with events := (s.lane n).events + 1 } with out := .visEventAck n :: s.out } else s))

/-- Triggers and lines (R298 to R301, R304, R319, R320). -/
def Obligations.TriggersPairWithLines : Prop :=
  ∀ (n : Fin 16) (s : State),
    let x := s.lane n
    let p := visPage n
    let f := fwdPage n
    ((∀ t, s.nextFiring n x.seek = some t → s.tb < t) ∨ s.visMaster n ≠ n.val → exec (.lineTrigger n) s = .next s) ∧
    (∀ t, s.nextFiring n x.seek = some t → t ≤ s.tb → s.visMaster n = n.val →
      let u := s.setLane n { x with seek := t, active := s.tb }
      let soon := ∃ b, x.packet = some b ∧ t < b + (if 6 ≤ s.rd p R.VIS_LINK_RATE then 2000 else 4000)
      let skipped := soon ∨ s.lnState n ≠ 3 ∨ 64 ≤ x.trigs.length
      ((s.dom (24 + n)).st = .off → exec (.lineTrigger n) s = .next u) ∧
      ((s.dom (24 + n)).st ≠ .off → s.blockOn p = false → exec (.lineTrigger n) s = .next ((u.startWake (24 + n)).bump f R.VIS_CNT_TRG_SKIP)) ∧
      ((s.dom (24 + n)).st ≠ .off → s.blockOn p = true → skipped → exec (.lineTrigger n) s = .next (u.bump f R.VIS_CNT_TRG_SKIP)) ∧
      ((s.dom (24 + n)).st ≠ .off → s.blockOn p = true → ¬ skipped → exec (.lineTrigger n) s =
        .next { u.setLane n { x with seek := t, active := s.tb, packet := some t, trigs := x.trigs ++ [s.trgAt n t] } with out := .visTrigger n t :: s.out })) ∧
    (∀ (pixels : List (BitVec 16)) (first : BitVec 64) (j crcBad : Nat) (fmtOk last : Bool) (ovf : BitVec 4) (codes : List Nat) (strays : Nat),
      (s.blockOn p = false ∨ s.lnState n ≠ 3 ∨ s.visMaster n ≠ n.val → exec (.lineComplete n pixels first j crcBad fmtOk ovf last codes strays) s = .next s) ∧
      (s.blockOn p = true → s.lnState n = 3 → s.visMaster n = n.val → x.olds = [] → s.visLanes n = 1 → s.on p R.VIS_FMT_AREA = false → s.injArmed p 0 = false →
        s.injArmed p 2 = false → s.injArmed f 2 = false → ovf = 0 → x.fifo.length < 256 → pixels.length = s.lineWidth n →
        let bad := 0 < crcBad ∨ fmtOk = false ∨ 5 ≤ s.rd p R.VIS_FMT_PFMT
        let orphan := (s.rd p R.VIS_TRG_MODE = 1 ∨ s.rd p R.VIS_TRG_MODE = 2) ∧ x.trigs = []
        let counts := fun (r : State) (fld : Fld) (k : Nat) => r.rd f fld = min (s.rd f fld + k) (2 ^ fld.w - 1)
        ∃ r, exec (.lineComplete n pixels first j crcBad fmtOk ovf last codes strays) s = .next r ∧ (r.lane n).trigs = x.trigs.tail ∧ (r.lane n).active = s.tb ∧
          (r.lane n).strays = x.strays + strays ∧ counts r R.VIS_CNT_LINK_CODE (codes.getD 0 0) ∧ counts r R.VIS_CNT_LINK_CRC crcBad ∧
          (orphan → counts r R.VIS_CNT_LINE_ORPHAN 1) ∧ (bad → (r.lane n).seq = x.seq ∧ counts r R.VIS_CNT_LINE_LOST 1) ∧
          (¬ bad → (r.lane n).seq = x.seq + 1 ∧ counts r R.VIS_CNT_LINE_LOST 0) ∧ r.tb = s.tb)) ∧
    (let due := fun (g : Trg) => s.domOn (24 + n) = true ∧ g.tick + 1000 * max 1 (s.rd p R.VIS_TRG_TMO) ≤ s.tb
     ((∀ g, x.trigs.head? = some g → ¬ due g) → exec (.triggerAbandon n) s = .next s) ∧
     (∀ (g : Trg) (gs : List Trg), x.trigs = g :: gs → due g →
       ∃ r, exec (.triggerAbandon n) s = .next r ∧ (r.lane n).trigs = gs ∧ r.rd f R.VIS_CNT_TRG_ABANDON = min (s.rd f R.VIS_CNT_TRG_ABANDON + 1) (2 ^ R.VIS_CNT_TRG_ABANDON.w - 1) ∧
         r.tb = s.tb ∧ r.mem = s.mem))

/-- Findings (R301, R314 to R317), sleep (R319) and the freeze (R322). -/
def Obligations.FindingsLeaveAndPipelinesSleep : Prop :=
  ∀ (n : Fin 16) (s : State), s.domOn (24 + n) = true →
    let x := s.lane n
    ((∀ r : LostRun, x.run = some r → s.tb < r.since + 1000000) → exec (.lostReport n) s = .next s) ∧
    (∀ r : LostRun, x.run = some r → r.since + 1000000 ≤ s.tb →
      exec (.lostReport n) s = .next (s.setLane n { x with run := none, after := [], fifo := x.fifo ++ [⟨s.rd (fwdPage n) R.VIS_LOST_CHAN, r.trg.tick % 2 ^ 42,
        [5 + 8192 * b2n r.trg.hold, r.count, r.phase % 2 ^ 14, r.phase / 2 ^ 14 % 2 ^ 14], x.lines⟩] ++ x.after })) ∧
    (x.fifo = [] → exec (.findingSend n) s = .next s) ∧
    (∀ f fs, x.fifo = f :: fs → s.replayDiscards (0x100 + n) = false → s.sendFails f.chan (0x100 + n) f.stamp = none →
      (s.domOn 3 = true → s.freeCredits f.chan (0x100 + n) ≠ 0 →
        ∃ (t : State) (m : Msg), exec (.findingSend n) s = .next t ∧ (t.lane n).fifo = fs ∧ (t.chan f.chan).flight = (s.chan f.chan).flight ++ [.msg m] ∧ m.kind = 1 ∧
          m.sender = 0x100 + n ∧ m.words = f.words.map (· % 2 ^ 14) ∧ t.mem = s.mem) ∧
      (s.domOn 3 = false ∨ s.freeCredits f.chan (0x100 + n) = 0 →
        exec (.findingSend n) s = .next (if x.waited then s else (s.bump (fwdPage n) R.VIS_CNT_TRG_CRWAIT).setLane n { x with waited := true }))) ∧
    (let due := (s.dom (24 + n)).emu = none ∧ s.heldAwake (24 + n) = false ∧ s.rd (visPage n) R.VIS_PWR_IDLE ≠ 0 ∧ x.active + 1000 * s.rd (visPage n) R.VIS_PWR_IDLE ≤ s.tb
     (¬ due → exec (.visionIdleRetention n) s = .next s) ∧
     (due → ∃ t, exec (.visionIdleRetention n) s = .next t ∧ t.mem = s.mem ∧
       (s.on 0x030 R.DBG_STAT_ATTACH = false → (t.dom (24 + n)).going = some .ret ∧ t.lnState n = s.lnState n) ∧
       (s.on 0x030 R.DBG_STAT_ATTACH = true → (t.dom (24 + n)).st = .on ∧ (t.dom (24 + n)).emu = some .ret ∧ t.lnState n = 4))) ∧
    (∀ (d : Fin 336) (u : State), d.val = 24 + n → (u.dom d).going = some .ret → (u.dom d).latched = false →
      ∃ t, exec (.domainEntry d) u = .next t ∧ (t.dom d).st = .ret ∧ t.lnState n = 4 ∧ t.mem = u.mem) ∧
    (∀ data : Reg, s.hostReaches = true → ∃ t, exec (.freezeArm n data) s = .next t ∧ t.on (fwdPage n) R.VIS_FWD_FRZ_FROZEN = false ∧ (t.lane n).post = none ∧
      t.on (fwdPage n) R.VIS_FWD_FRZ_ARM = bit data.toNat R.VIS_FWD_FRZ_ARM.lo ∧ t.mem = s.mem) ∧
    (∀ u : State, u.hostReaches = true →
      ((u.dom (24 + n)).st = .off → exec (.visWake n) u = .next (u.logErr (visPage n) 1)) ∧
      ((u.dom (24 + n)).st = .ret → (u.dom (24 + n)).going = none → u.domOn 3 = true → (u.dom 3).emu = none →
        ∃ t, exec (.visWake n) u = .next t ∧ (t.dom (24 + n)).going = some .on ∧ t.powerReq (24 + n) = 3 ∧ t.mem = u.mem))

/-- Requests and states of a chain port (R348, R349). A commit of a closing port is discarded (R350; log entry 94). -/
def Obligations.ChainPortsTakeTheirRequests : Prop :=
  (∀ (p : Fin 8) (v : BitVec 3) (s : State), s.hostReaches = true → s.domOn (40 + p) = true →
    (s.chnLead p ≠ none ∨ 4 < v.toNat → exec (.portRequest p v) s = .next s) ∧
    (s.chnLead p = none → v.toNat ≤ 4 →
      (s.portRefuse p v.toNat = 0 → ∃ t, exec (.portRequest p v) s = .next t ∧ t.port p = { s.port p with req := some (v.toNat, s.tb) } ∧
        t.rd (chnPage p) R.CHN_CTRL_REQ = v.toNat ∧ t.chnState p = s.chnState p ∧ (∀ q, q ≠ p.val → t.port q = s.port q) ∧ t.mem = s.mem) ∧
      (s.portRefuse p v.toNat ≠ 0 → ∃ t, exec (.portRequest p v) s = .next t ∧ t.ports = s.ports ∧ t.rd (chnPage p) R.CHN_STAT_REFUSE = s.portRefuse p v.toNat ∧
        t.rd (chnPage p) R.CHN_CTRL_REQ = s.chnState p % 8 ∧ t.chnState p = s.chnState p ∧ t.mem = s.mem))) ∧
  (∀ (p : Fin 8) (s : State),
    let after := fun (t : Int) => decide (s.cycleStart p (s.cycleAt p t + 1) ≤ (s.tb : Int))
    let asked := (s.port p).req.any fun r => after ((r.2 : Int) + 999)
    let braked := (s.portBrake p).any fun t => after t
    (s.domOn (40 + p) = false ∨ (asked = false ∧ braked = false) → exec (.portStateChange p) s = .next s) ∧
    (s.domOn (40 + p) = true → s.chnLead p = none →
      (∀ (v at_ : Nat), (s.port p).req = some (v, at_) → v ≤ 4 → asked = true →
        ∃ t, exec (.portStateChange p) s = .next t ∧ (t.port p).req = none ∧ t.mem = s.mem ∧
          t.chnState p = (if v = 4 ∧ s.on 0x020 R.HLT_BRAKE_ACTIVE = true ∧ after s.brakeTime = true then 3 else v)) ∧
      (asked = false → braked = true →
        ∃ t, exec (.portStateChange p) s = .next t ∧ t.chnState p = 3 ∧ (t.port p).req = (s.port p).req ∧ (t.port p).latches = [] ∧ t.mem = s.mem))) ∧
  (∀ (p tick cas entry : Nat) (s : State),
    let u := s.portSettle p
    (u.chnState p ≠ 4 ∨ u.chnLead p ≠ none → s.chainCommit p tick cas entry = none) ∧
    (u.chnState p = 4 → u.chnLead p = none →
      ∃ t l, s.chainCommit p tick cas entry = some t ∧ (t.port p).latches = (u.port p).latches ++ [l] ∧ l.tick = tick ∧ l.cas = cas ∧ l.entry = entry ∧
        l.areas.length = u.chnNodes p ∧ t.regs = u.regs ∧ t.mem = s.mem))

/-- The cycle of a chain port (R340, R343, R351). -/
def Obligations.ChainCyclesSendAndFeedBack : Prop :=
  (∀ (p : Fin 8) (s : State),
    let g := chnPage p
    let u := s.portSettle p
    let n := (u.port p).cycle + 1
    let lane := fun (reg : Nat) (f : List Byte) => onLane reg ((frameBlocks f).map Block.coded)
    let pair := fun (port : Nat) (t : State) (before after : List Out) => ∃ (a b : List Byte) (ra rb : Nat), after = .chainFrame port b (lane rb b) :: .chainFrame port a (lane ra a) :: before ∧
      frameType a = 0 ∧ frameType b = 1 ∧ frameCycle a = wrap n 32 ∧ frameCycle b = wrap n 32 ∧ t.mem = s.mem
    (s.domOn (40 + p) = false ∨ s.chnLead p ≠ none → exec (.chainCycleStart p) s = .next s) ∧
    (s.domOn (40 + p) = true → s.chnLead p = none →
      (u.chnState p < 3 → exec (.chainCycleStart p) s = .next (u.wr g R.CHN_CNT_CYCLE (wrap (u.cycleAt p u.tb) 32))) ∧
      (3 ≤ u.chnState p → (u.tb : Int) < u.cycleStart p n → exec (.chainCycleStart p) s = .next u) ∧
      (3 ≤ u.chnState p → u.cycleStart p n ≤ (u.tb : Int) → ∃ t, exec (.chainCycleStart p) s = .next t ∧ (t.port p).cycle = n ∧ (t.port p).fed = false ∧ (t.port p).got = [] ∧
        (t.port p).bulk = [] ∧ t.rd g R.CHN_CNT_CYCLE = wrap n 32 ∧ t.mem = s.mem ∧
        (u.mayStart p n = false → (t.port p).sent = 0) ∧
        (u.mayStart p n = true → t.on g R.CHN_STAT_SPLIT = false → (t.port p).sent = 1 ∧ ∃ o, pair p t o t.out) ∧
        (u.mayStart p n = true → t.on g R.CHN_STAT_SPLIT = true → (t.port p).sent = 2 ∧ ∃ o o', pair p t o o' ∧ pair (t.chnPartner p) t o' t.out)))) ∧
  (∀ (rx : Fin 8) (f : List Byte) (latn : BitVec 20) (s : State),
    let p := (s.chnLead rx).getD rx
    let g := chnPage p
    let side := decide (rx.val ≠ p)
    let h := s.hear rx
    let x := h.port p
    let late := h.frameLate p f
    (s.domOn (40 + rx) = false → exec (.cyclicFrameReturn rx f latn) s = .next s ∧ exec (.bulkFrameReturn rx f) s = .next s) ∧
    (s.domOn (40 + rx) = true → s.chnState p < 3 → exec (.cyclicFrameReturn rx f latn) s = .next h ∧ exec (.bulkFrameReturn rx f) s = .next h) ∧
    (s.domOn (40 + rx) = true → 3 ≤ s.chnState p →
      (h.injArmed g 1 = true → exec (.cyclicFrameReturn rx f latn) s = .next (h.injTake g 1)) ∧
      (h.injArmed g 1 = false →
        let good := hcrcGood f && decide (frameType f = 0)
        (good = false → exec (.cyclicFrameReturn rx f latn) s = .next (h.frameError p R.CHN_ERR1_BADHDR 6)) ∧
        (good = true → late = true ∨ x.fed = true → exec (.cyclicFrameReturn rx f latn) s = .next (h.frameError p R.CHN_ERR0_LATEFRM 4)) ∧
        (good = true → late = false → x.fed = false →
          ((h.injArmed g 0 || !fcrcGood f) = true →
            let i := if h.injArmed g 0 then h.injTake g 0 else h
            let u := (if side then i else i.loopRead p false (frameLoop f)).frameError p R.CHN_ERR0_FCRC 2 (if frameBadn f < 64 then frameBadn f else 0x7F)
            exec (.cyclicFrameReturn rx f latn) s = .next (u.setPort p { u.port p with bad := x.bad + 1 })) ∧
          (h.injArmed g 0 = false → fcrcGood f = true →
            let i := if h.injArmed g 2 then h.injTake g 2 else h
            let loop := if h.injArmed g 2 then 0 else frameLoop f
            let split := i.on g R.CHN_STAT_SPLIT || (i.port p).broken
            let u := if i.chnRed p = false then
                if loop + 1 < i.chnNodes p then ((i.bump g R.CHN_ERR0_BREAK).chnCapture p 3 (i.port p).cycle).pgEvt g 1 else i
              else if split then
                if (i.port p).broken && !side then i.setPort p { i.port p with nextJ := some (loop + 1) }
                else if (i.port p).broken && (i.port p).nextJ.isNone then i.setPort p { i.port p with nextJ := some loop } else i
              else if side ∧ loop = 0xFF then i else i.breakFound p (some (loop + 1))
            let v := if i.wentRound p side loop then u.wr g R.CHN_LATN_LATN latn.toNat else u
            ∃ frame, (h.injArmed g 2 = false → frame = f) ∧
              exec (.cyclicFrameReturn rx f latn) s = .next (
                let w := v.setPort p { v.port p with got := (v.port p).got ++ [(side, frame)] }
                if (v.port p).got.length + 1 + (v.port p).bad < (v.port p).sent then w else w.feed p)))) ∧
      (hcrcGood f = false → exec (.bulkFrameReturn rx f) s = .next (h.frameError p R.CHN_ERR1_BADHDR 6)) ∧
      (hcrcGood f = true → frameType f ≠ 1 → exec (.bulkFrameReturn rx f) s = .next h) ∧
      (hcrcGood f = true → frameType f = 1 →
        (late = true → exec (.bulkFrameReturn rx f) s = .next (h.frameError p R.CHN_ERR0_LATEFRM 4)) ∧
        (late = false → fcrcGood f = false → exec (.bulkFrameReturn rx f) s = .next (h.frameError p R.CHN_ERR0_FCRC 2 (if frameBadn f < 64 then frameBadn f else 0x7F))) ∧
        (late = false → fcrcGood f = true →
          let serves := fun (i : Nat) => !h.on g R.CHN_STAT_SPLIT || (side == decide (h.rd g R.CHN_STAT_LIM ≤ h.rd (strPage p) R.CHN_STR_NODE i))
          ((h.streams p).filter serves = [] → h.reply p f = h → exec (.bulkFrameReturn rx f) s = .next (h.setPort p { x with bulk := side :: x.bulk })) ∧
          ∃ t, exec (.bulkFrameReturn rx f) s = .next t ∧ (t.port p).bulk = side :: x.bulk ∧ t.mem = s.mem)))) ∧
  (∀ (p : Fin 8) (s : State), s.chnLead p = none →
    let x := s.port p
    let g := chnPage p
    let owes := x.fed = false ∧ s.domOn (40 + p) = true ∧ 3 ≤ s.chnState p
    let due := owes ∧ s.cycleStart p x.cycle + s.deadlineNs p ≤ (s.tb : Int)
    let broke := owes ∧ s.chnRed p = true ∧ s.on g R.CHN_STAT_SPLIT = false ∧ x.broken = false ∧
      10 * (s.cycleStart p x.cycle + 32 + s.rd g R.CHN_LATN_LATN + 200) + s.cyclicTime p ≤ 10 * (s.tb : Int)
    (¬ due → exec (.feedbackDeadline p) s = .next s) ∧
    (due → ∃ (t : State) (u : State), exec (.feedbackDeadline p) s = .next t ∧ t = u.feed p ∧ (t.port p).fed = true ∧ (t.port p).got = [] ∧ u.ports = s.ports ∧
      u.rd g R.CHN_ERR0_FLOST = min (s.rd g R.CHN_ERR0_FLOST + (x.sent - x.got.length - x.bad)) (2 ^ R.CHN_ERR0_FLOST.w - 1) ∧ t.mem = s.mem) ∧
    (¬ broke → exec (.ringBreakTimeout p) s = .next s) ∧
    (broke → ∃ (t : State) (f : List Byte) (r : Nat), exec (.ringBreakTimeout p) s = .next t ∧ (t.port p).broken = true ∧ t.mem = s.mem ∧
      t.rd g R.CHN_ERR0_BREAK = min (s.rd g R.CHN_ERR0_BREAK + 1) (2 ^ R.CHN_ERR0_BREAK.w - 1) ∧ frameType f = 0 ∧ frameCycle f = wrap x.cycle 32 ∧
      (s.mayStart p x.cycle = true → t.out = .chainFrame (s.chnPartner p) f (onLane r ((frameBlocks f).map Block.coded)) :: s.out ∧ (t.port p).sent = x.sent + 1) ∧
      (s.mayStart p x.cycle = false → t.out = s.out ∧ (t.port p).sent = x.sent)))

/-- Parameters (R354), images (R341) and the commands of CHN_CMD (R346, R352). -/
def Obligations.ChainParametersImagesAndStartUp : Prop :=
  ∀ (p : Fin 8) (s : State), s.domOn (40 + p) = true →
    let x := s.port p
    let g := chnPage p
    let q := parPage p
    (∀ data : Reg, s.hostReaches = true →
      (x.par ≠ none → exec (.parameterRequest p data) s = .next (s.applyWrite (R.CHN_PAR_CMD_GO.addr q 0) (setBits data.toNat 0 1 1))) ∧
      (x.par = none → 3 ≤ s.chnState p → ∃ t, exec (.parameterRequest p data) s = .next t ∧ t.liveField q R.CHN_PAR_CMD_BUSY 0 = some 1 ∧ (t.port p).tag = (x.tag + 1) % 256 ∧
        (t.port p).par = some (s.cycleAt p s.tb) ∧ bits (t.rd q R.CHN_PAR_REQ_BYTES 1) 16 8 = (x.tag + 1) % 256 ∧ t.mem = s.mem) ∧
      (x.par = none → s.chnState p < 3 → ∃ t, exec (.parameterRequest p data) s = .next t ∧ t.liveField q R.CHN_PAR_CMD_BUSY 0 = some 0 ∧ t.on q R.CHN_PAR_CMD_DONE = true ∧
        t.rd q R.CHN_PAR_CMD_RESULT = 2 ∧ t.mem = s.mem)) ∧
    (let due := x.par.any fun n => decide (n + (max 1 (s.rd q R.CHN_PAR_CMD_TMO) : Nat) ≤ s.cycleAt p s.tb)
     (due = false → exec (.parameterTimeout p) s = .next s) ∧
     (due = true → ∃ t, exec (.parameterTimeout p) s = .next t ∧ (t.port p).par = none ∧ t.rd q R.CHN_PAR_CMD_RESULT = 1 ∧ t.on q R.CHN_PAR_CMD_DONE = true ∧ t.mem = s.mem)) ∧
    (∀ k : Fin 65,
      let n := s.cycleAt p s.tb + 1
      let running := decide (s.chnState p = 4) || (s.requestCycle p).any fun r => decide (r.1 = 4 ∧ r.2 ≤ n)
      let reads := s.on g R.CHN_IMG_EN = true ∧ running = true ∧ s.cycleStart p n - max 500 (s.rd g R.CHN_TIME_IMG) ≤ (s.tb : Int) ∧ x.imgFor ≠ some n
      let base := 512 * s.rd g R.CHN_IMG_BASE + 512 * wrap n 1
      let cas := s.rd g R.CHN_IMG_CAS
      let r := s.readImage cas base 1
      let u := if r.2.injArmed g 3 then r.2.injTake g 3 else r.2
      let nodes := (List.range (u.chnNodes p)).filter fun a => decide (0 < u.rd (nodePage p a) R.CHN_NCFG_IMGW)
      (¬ reads → exec (.imageRead p k) s = .next s) ∧
      (reads → r.2.injArmed g 3 = true ∨ r.1 ≠ [wrap n 14] → exec (.imageRead p k) s = .next (u.setPort p { x with imgFor := some n, stale := List.range (u.chnNodes p) })) ∧
      (reads → r.2.injArmed g 3 = false → r.1 = [wrap n 14] →
        let taken := (nodes.take k).foldl (fun (d : Sparse (List Nat) × State) a =>
          let words := d.2.readImage cas (base + 4 + 4 * a) (d.2.rd (nodePage p a) R.CHN_NCFG_IMGW)
          (put d.1 a words.1, words.2)) (x.img, u)
        exec (.imageRead p k) s = .next (taken.2.setPort p { x with imgFor := some n, stale := nodes.drop k, img := taken.1 }))) ∧
    (s.hostReaches = true → ∀ op ∈ [(Instr.chnWake p, 1), (.chnEnumerate p, 2), (.chnMeasure p, 3), (.chnRejoin p, 4)],
      (s.on g R.CHN_CMD_BUSY = true ∨ s.chnLead p ≠ none → exec op.1 s = .next (s.applyWrite (R.CHN_CMD_OP.addr g 0) (0x100 + op.2))) ∧
      (s.on g R.CHN_CMD_BUSY = false → s.chnLead p = none → s.chnState p ≠ 2 → op.2 ≠ 4 →
        ∃ t, exec op.1 s = .next t ∧ t.on g R.CHN_CMD_FAIL = true ∧ t.on g R.CHN_CMD_BUSY = false ∧ t.out = s.out ∧ t.mem = s.mem) ∧
      (s.on g R.CHN_CMD_BUSY = false → s.chnLead p = none → s.chnState p = 2 ∨ op.2 = 4 →
        ∃ t, exec op.1 s = .next t ∧ t.on g R.CHN_CMD_BUSY = true ∧ t.rd g R.CHN_CMD_OP = op.2 ∧ (t.port p).cmdOp = op.2 ∧ t.mem = s.mem ∧
          (op.2 = 4 → (t.port p).rejoin = s.on g R.CHN_STAT_SPLIT ∧ t.out = s.out) ∧ (op.2 ≠ 4 → (t.port p).cmdAt = s.tb) ∧
          (op.2 = 1 → ∃ r r', t.out = (if s.chnRed p then [Out.chainWake (s.chnPartner p) (onLane r' (wakeBlocks.map Block.coded))] else []) ++
            .chainWake p (onLane r (wakeBlocks.map Block.coded)) :: s.out) ∧
          (op.2 = 2 → ∃ f l, t.out = .chainFrame p f l :: s.out ∧ frameType f = 2) ∧
          (op.2 = 3 → ∃ f l f' l', t.out = (if s.chnRed p then [Out.chainFrame (s.chnPartner p) f' l'] else []) ++ .chainFrame p f l :: s.out ∧ frameType f = 3 ∧ frameType f' = 3))) ∧
    (∀ (headers : List (Bool × Nat)) (loops : List (List Byte × Nat)),
      let rx := s.closingRx p
      let lock := (s.port rx).lock.see headers
      let w := s.setPort rx { s.port rx with lock := lock }
      let y := if lock.locked then w.relocked (40 + rx) else w
      let op := (y.port p).cmdOp
      let since := s.tb - (y.port p).cmdAt
      let good := loops.filter fun l => hcrcGood l.1 && fcrcGood l.1 && decide (frameType l.1 = op)
      let ends := fun (ok : Bool) => ∃ t, exec (.chnCmdDone p headers loops) s = .next t ∧ t.on g R.CHN_CMD_BUSY = false ∧ t.on g R.CHN_CMD_DONE = true ∧
        t.on g R.CHN_CMD_FAIL = !ok ∧ t.mem = s.mem ∧ (op = 2 → since ≤ 1000000 → ok = false → t.on g R.CHN_STAT_OVER = true) ∧
        (op = 2 → ok = true → ∀ f as, good = f :: as → t.chnNodes p = frameProc f.1)
      let waits := exec (.chnCmdDone p headers loops) s = .next y
      (s.on g R.CHN_CMD_BUSY = false → waits) ∧
      (s.on g R.CHN_CMD_BUSY = true →
        (op = 1 → (lock.heldFor 1000000 = true → ends true) ∧ (lock.heldFor 1000000 = false → 100000000 < since → ends false) ∧
          (lock.heldFor 1000000 = false → since ≤ 100000000 → waits)) ∧
        (op = 2 → since ≤ 1000000 → (good = [] → waits) ∧ (∀ f as, good = f :: as → ends (decide (frameProc f.1 ≤ 64)))) ∧
        (op = 3 → since ≤ 1000000 → (good.length < (if s.chnRed p then 2 else 1) → waits) ∧ ((if s.chnRed p then 2 else 1) ≤ good.length → ends true)) ∧
        (op = 2 ∨ op = 3 → 1000000 < since → ends false) ∧
        (op = 0 ∨ 3 < op → ((y.port p).rejoin = true → waits) ∧ ((y.port p).rejoin = false → ends true))))

/-- Mailboxes (R367, R368), groups (R371, R373), time blocks and the lock (R370, R372), ports (R377) and spans (R375, R376). -/
def Obligations.MailboxesAndTandemLinksCarryMessages : Prop :=
  (∀ (m : Fin 16) (data : Reg) (s : State), s.hostReaches = true → s.domOn 2 = true →
    let len := data.toNat % 8
    let w := s.wr 0x120 R.MBX_SEND_REFUSED (data.toNat / 2 ^ 24) m
    let ch := s.rd 0x120 R.MBX_CH_CHAN m
    let usable := s.on 0x120 R.MBX_CH_EN m = true ∧ s.domOn 3 = true ∧ s.chEn ch = true ∧ s.freeCredits ch 0x119 ≠ 0
    (len = 0 ∨ 4 < len → exec (.mailboxSend m data) s = .next w) ∧
    (1 ≤ len → len ≤ 4 →
      (s.injArmed 0x120 0 = true → exec (.mailboxSend m data) s = .next (((w.injTake 0x120 0).bump 0x120 R.MBX_SEND_REFUSED m).pgEvt 0x120 0)) ∧
      (s.injArmed 0x120 0 = false → ¬ usable → exec (.mailboxSend m data) s = .next ((w.bump 0x120 R.MBX_SEND_REFUSED m).pgEvt 0x120 0)) ∧
      (s.injArmed 0x120 0 = false → usable → s.sendFails ch 0x119 s.now ≠ none → ∃ t, exec (.mailboxSend m data) s = .next t ∧ t.chans = s.chans ∧
        t.rd 0x120 R.MBX_SEND_REFUSED m = data.toNat / 2 ^ 24 ∧ t.mem = s.mem ∧ t.tb = s.tb) ∧
      (s.injArmed 0x120 0 = false → usable → s.rpl.going = false → s.sendFails ch 0x119 s.now = none →
        ∃ (t : State) (k : _), exec (.mailboxSend m data) s = .next t ∧ (t.chan ch).flight = (s.chan ch).flight ++ [.msg k] ∧ k = ⟨ch, 0x119, s.now, 4,
            ([s.rd 0x120 R.MBX_W01_W0 m, s.rd 0x120 R.MBX_W01_W1 m, s.rd 0x120 R.MBX_W23_W2 m, s.rd 0x120 R.MBX_W23_W3 m].take len).map (· % 2 ^ 14)⟩ ∧
          t.rd 0x120 R.MBX_LAST_LO_STAMP + t.rd 0x120 R.MBX_LAST_HI_STAMP * 2 ^ 32 = s.now ∧
          t.rd 0x120 R.MBX_SEND_REFUSED m = data.toNat / 2 ^ 24 ∧ (∀ c, c ≠ ch → t.chan c = s.chan c) ∧ t.mem = s.mem ∧ t.tb = s.tb))) ∧
  (∀ (i : Fin 2) (head : BitVec 22) (seq ack : BitVec 8) (tail : BitVec 26) (data : List (BitVec 64)) (s : State),
    let e := Instr.groupReceive i head seq ack tail data
    let hd := (groupWord head seq ack tail).toNat
    let dt := data.map (·.toNat)
    let takes := bit (s.rd 0x124 R.TAN_STAT_UP) i = true ∧ s.domOn 3 = true ∧ bits hd 0 8 = 0x5A
    let good := groupGood hd dt && !s.injArmed (0x125 + i) 0
    let u := s.takeAck i (bits hd 30 8) (bit hd 38)
    let x := u.link i
    let left := ackDrop (bits hd 30 8) (s.link i).unacked
    (¬ takes → exec e s = .next s) ∧
    (takes → good = false → ∃ t, exec e s = .next t ∧ (t.link i).nak = true ∧ t.chans = s.chans ∧ (t.link i).expect = (s.link i).expect ∧
      (t.link i).unacked = (s.link i).unacked ∧ t.rd (0x125 + i) R.TANP_STAT_CRCERR = min (s.rd (0x125 + i) R.TANP_STAT_CRCERR + 1) (2 ^ R.TANP_STAT_CRCERR.w - 1) ∧
      t.out.length = s.out.length + 1 ∧ t.mem = s.mem) ∧
    (takes → good = true →
      ((s.link i).queued = [] → x.unacked = left ∧ u.chans = s.chans ∧ x.expect = (s.link i).expect ∧ u.mem = s.mem ∧
        u.out.length = s.out.length + (if bit hd 38 then left.length else 0) ∧
        u.rd (0x125 + i) R.TANP_STAT_RETRY = (if bit hd 38 ∧ left ≠ [] then min (s.rd (0x125 + i) R.TANP_STAT_RETRY + 1) (2 ^ R.TANP_STAT_RETRY.w - 1)
          else s.rd (0x125 + i) R.TANP_STAT_RETRY)) ∧
      (groupIdle hd = true → exec e s = .next u) ∧
      (groupIdle hd = false →
        (u.on 0x124 R.TAN_STAT_LOCK = false → exec e s = .next (u.setLink i { x with nak := true })) ∧
        (u.on 0x124 R.TAN_STAT_LOCK = true → bits hd 22 8 ≠ x.expect → exec e s = .next ((u.setLink i { x with nak := true }).showAck i)) ∧
        (u.on 0x124 R.TAN_STAT_LOCK = true → bits hd 22 8 = x.expect →
          let r := flitsOf x.half ((groupTypes hd).zip dt)
          let v := (u.setLink i { x with expect := (x.expect + 1) % 256, lastGood := x.expect, nak := false, half := r.2 }).showAck i
          exec e s = .next (r.1.foldl (fun (t : State) f => t.flitIn f) v) ∧
          ∀ (h p pt : Nat) (rest : List Nat), x.half = none → u.rpl.going = false → dt = h :: p :: rest → groupTypes hd = [1, pt, 0, 0, 0, 0, 0] → bits h 54 10 < 0x200 →
            let ch := bits h 0 12
            u.on (chanPage ch) R.FAB_CH_LO_TAN = false →
            ∃ (t : State) (k : Msg), exec e s = .next t ∧ (t.chan ch).flight = (u.chan ch).flight ++ [.msg k] ∧
              k = ⟨ch, 0x200 + bits h 54 10, wrap ((bits h 12 42 : Int) - u.tanOfs) 42, bits p 59 5, (List.range (min 4 (bits p 56 3))).map fun j => bits p (14 * j) 14⟩ ∧
              (t.link i).expect = (x.expect + 1) % 256 ∧ (t.link i).nak = false ∧ (t.link i).half = none ∧ t.mem = s.mem)))) ∧
  (∀ (i : Fin 2) (s : State),
    (bit (s.rd 0x124 R.TAN_STAT_UP) i = false → exec (.timeBlockSend i) s = .next s) ∧
    (bit (s.rd 0x124 R.TAN_STAT_UP) i = true → ∃ (t : State) (r : Nat),
      let x := s.link i
      let a := match x.peer with | some y => y.1 | none => 0
      let h := match x.peer with | some y => (s.tb - y.2) / 4 % 256 | none => 0
      let block := 0xA5 + s.now * 2 ^ 8 + h * 2 ^ 50 + x.index % 8 * 2 ^ 58 + a % 8 * 2 ^ 61
      exec (.timeBlockSend i) s = .next t ∧ t.out = .timeBlock i block (onLane r [(2, block)]) :: s.out ∧ (t.link i).index = (x.index + 1) % 8 ∧
        look (t.link i).sent x.index = some s.tb ∧ t.regs = s.regs ∧ t.mem = s.mem) ∧
    (∀ (peer : BitVec 42) (h : BitVec 8) (index answers : BitVec 3) (ofs : Option (BitVec 42)) (kind : BitVec 8),
      let e := Instr.timeBlockReceive i peer h index answers ofs kind
      let takes := bit (s.rd 0x124 R.TAN_STAT_UP) i = true ∧ s.on 0x124 R.TAN_CFG_EN = true ∧ kind = 0xA5
      let follower := s.on 0x124 R.TAN_CFG_ROLE
      let u := s.setLink i { s.link i with peer := some (index.toNat, s.tb), heard := s.tb }
      let v := match ofs with
        | some o => if follower then u else { u.wr42 0x124 R.TAN_OFS_LO_OFS R.TAN_OFS_HI_OFS o.toNat with tanFixed := true }
        | none => u
      (¬ takes → exec e s = .next s) ∧
      (takes → look (s.link i).sent answers.toNat = none → exec e s = .next v) ∧
      (takes → ∀ t1, look (s.link i).sent answers.toNat = some t1 →
        let lat2 : Int := ((s.tb : Int) - t1) - 4 * h.toNat
        let w := v.wr (0x125 + i) R.TANP_LAT_LAT (max 0 (min (lat2 / 2) 65535)).toNat
        let first := wrap ((peer.toNat : Int) - s.tb + (lat2 + 1) / 2) 42
        let y : State := if follower ∧ v.tanFixed = false then
            { w.wr42 0x124 R.TAN_OFS_LO_OFS R.TAN_OFS_HI_OFS first with tanFixed := true, out := .tandemOfs (wrap (-(first : Int)) 42) :: w.out } else w
        let d2 := y.timeError2 peer.toNat lat2
        let d := (d2 + 1) / 2
        (y.tanFixed = false → exec e s = .next y) ∧
        (y.tanFixed = true → y.injArmed 0x124 0 = true → exec e s = .next (((y.injTake 0x124 0).wr 0x124 R.TAN_TERR_ERR 60).lockLost)) ∧
        (y.tanFixed = true → y.injArmed 0x124 0 = false → ∃ t, exec e s = .next t ∧ t.rd 0x124 R.TAN_TERR_ERR = wrap (max (-32768) (min d 32767)) 16 ∧
          (follower = true → t.rd 0x070 R.TB_ADJ_REM_REM = wrap (max (-(2 ^ 27)) (min d (2 ^ 27 - 1))) 28 ∧ (d ≠ 0 → t.on 0x070 R.TB_STAT_SLEW = true)) ∧
          (100 < d2.natAbs → t.on 0x124 R.TAN_STAT_LOCK = false ∧ t.tanGood = none) ∧
          (d2.natAbs ≤ 10 → t.tanGood = some (s.tanGood.getD s.tb)) ∧ (10 < d2.natAbs → t.tanGood = none) ∧ t.tb = s.tb ∧ t.mem = s.mem)))) ∧
  (∀ s : State,
    let held := s.tanGood.any fun g => decide (g + 1000000 ≤ s.tb)
    let locks := held = true ∧ s.on 0x124 R.TAN_CFG_EN = true ∧ s.on 0x124 R.TAN_STAT_ROLE_ERR = false ∧ s.rd 0x124 R.TAN_STAT_UP ≠ 0
    let silent := ∀ i, i < 2 → (s.link i).heard + 10000 ≤ s.tb
    (locks → ∃ t, exec .lockAcquire s = .next t ∧ t.on 0x124 R.TAN_STAT_LOCK = true ∧ t.links = s.links ∧ t.mem = s.mem) ∧
    (¬ locks → exec .lockAcquire s = .next s) ∧
    (silent → ∃ t, exec .timeBlockTimeout s = .next t ∧ t.on 0x124 R.TAN_STAT_LOCK = false ∧ t.tanGood = none ∧
      (s.on 0x124 R.TAN_STAT_LOCK = true → t.on 0x124 R.TAN_STAT_LOCK_LOST = true) ∧ t.mem = s.mem) ∧
    (¬ silent → exec .timeBlockTimeout s = .next s)) ∧
  (∀ (i : Fin 2) (s : State),
    let o := 1 - i.val
    let waits := fun (t : State) (k : Nat) => (t.link k).unacked.flatMap (·.2) ++ (t.link k).queued
    let up := fun (k : Nat) => bit (s.rd 0x124 R.TAN_STAT_UP) k
    (∀ ack : Option (BitVec 8),
      let left : List (Nat × List (Nat × Flit)) := match ack with | some a => ackDrop a.toNat (s.link i).unacked | none => (s.link i).unacked
      let again := left.flatMap (·.2)
      (up i = false → exec (.tandemPortDown i ack) s = .next s) ∧
      (up i = true → ∃ t, exec (.tandemPortDown i ack) s = .next t ∧ bit (t.rd 0x124 R.TAN_STAT_UP) i = false ∧ bit (t.rd 0x124 R.TAN_STAT_UP) o = up o ∧
        t.rd (0x125 + i) R.TANP_STAT_STATE = 0 ∧ (t.link i).unacked = [] ∧ t.mem = s.mem ∧
        (up o = true → (t.link i).queued = [] ∧ waits t o = (s.link o).unacked.flatMap (·.2) ++ (again ++ (s.link o).queued ++ (s.link i).queued) ∧ t.spanTo = s.spanTo) ∧
        (up o = false → (t.link i).queued = again ++ (s.link i).queued ∧ t.link o = s.link o ∧ t.spanTo = 0 ∧
          (s.on 0x124 R.TAN_CFG_ROLE = true → s.rd 0x124 R.TAN_SPAN_MASK ≠ 0 → t.on 0x124 R.TAN_STAT_SPAN_LOST = true ∧ t.spanHeld = s.rd 0x124 R.TAN_SPAN_MASK)))) ∧
    (∀ (lat : BitVec 16) (f : Bool),
      let comes := s.blockOn (0x125 + i) = true ∧ s.on 0x124 R.TAN_CFG_EN = true ∧ bit (s.rd 0x124 R.TAN_CFG_PORTS) i = true ∧ up i = false ∧ (s.link i).downUntil ≤ s.tb
      (¬ comes → exec (.tandemPortUp i lat f) s = .next s) ∧
      (comes → ∃ t, exec (.tandemPortUp i lat f) s = .next t ∧ bit (t.rd 0x124 R.TAN_STAT_UP) i = true ∧ bit (t.rd 0x124 R.TAN_STAT_UP) o = up o ∧
        t.rd (0x125 + i) R.TANP_STAT_STATE = 2 ∧ t.rd (0x125 + i) R.TANP_LAT_LAT = lat.toNat ∧ t.on 0x124 R.TAN_STAT_ROLE_ERR = decide (s.on 0x124 R.TAN_CFG_ROLE = f) ∧ t.mem = s.mem ∧
        (up o = true → waits t i = waits s i ∧ t.link o = s.link o) ∧ (up o = false → waits t i = waits s i ++ (s.link o).queued ∧ (t.link o).queued = [])))) ∧
  (∀ (data : Reg) (s : State),
    let leads := s.on 0x124 R.TAN_CFG_EN = true ∧ s.on 0x124 R.TAN_CFG_ROLE = false ∧ s.rd 0x124 R.TAN_STAT_UP ≠ 0
    let r := s.jrnHost 0x124054
    let u := r.applyWrite (R.TAN_SPAN_MASK.addr 0x124 0) data.toNat
    (¬ leads → exec (.spanMaskWrite data true) s = .next s) ∧
    (leads → ∃ t, exec (.spanMaskWrite data true) s = .next t ∧ t.spanTo = data.toNat % 2 ^ 16 ∧
      t.out.length = s.out.length + ((List.range 16).filter fun n => bit data.toNat n && !bit s.spanTo n).length ∧ t.regs = s.regs ∧ t.mem = s.mem) ∧
    (s.recording = false → r = s) ∧
    (s.hostReaches = true → s.domOn 48 = true → exec (.spanMaskWrite data false) s =
      .next { u with spanHeld := s.spanHeld &&& s.rd 0x124 R.TAN_SPAN_MASK &&& u.rd 0x124 R.TAN_SPAN_MASK } ∧ u.rd 0x124 R.TAN_SPAN_MASK = data.toNat % 2 ^ R.TAN_SPAN_MASK.w)) ∧
  (∀ (n : Fin 16) (st : BitVec 42) (s : State),
    let takes := s.domOn 3 = true ∧ s.spanned n = true ∧ s.on 0x124 R.TAN_STAT_LOCK = true ∧ bit s.spanHeld n = false
    let stamp := s.translate st.toNat
    let T := s.absStamp stamp
    let acts := fun (u : State) (op : Nat) (go : Nat → State → Prop) =>
      (s.cmt n < T → go T u) ∧ (T ≤ s.cmt n → ∃ y, y = (u.spanLate n T op).2 ∧ bit (y.rd 0x124 R.TAN_SPAN_DIVERGE) n = true ∧ (y.cad n).segs = (u.cad n).segs ∧ y.mem = s.mem ∧ go (s.cmt n + 1) y)
    (∀ (a rate rampT : Int) (rampS : BitVec 42) (len : Nat) (k : Int),
      (¬ takes → exec (.spanRecord (.state n st a rate rampT rampS len k)) s = .next s) ∧
      (takes → acts s 0 fun at_ y => ∃ t, exec (.spanRecord (.state n st a rate rampT rampS len k)) s = .next t ∧
        (t.cad n).segs = [⟨at_, a, rate, k, rampT, s.absStamp (s.translate rampS.toNat), len, none⟩] ∧ t.cadEn n = true ∧ (∀ j, j ≠ n.val → t.cad j = y.cad j) ∧ t.mem = s.mem)) ∧
    (∀ v : BitVec 28,
      (¬ takes → exec (.spanRecord (.trim n st v)) s = .next s) ∧
      (takes → acts (s.jrnPut ⟨n, 0x1F5, stamp, wrap v.toInt 64⟩) 1 fun at_ y =>
        let c := y.cad n
        exec (.spanRecord (.trim n st v)) s =
          .next ((y.setCourse n (c.restart at_ (c.remainder at_ + v.toInt) c.vars.rate (y.crd n R.CAD_SLEW_TICKS) false)).recompute n at_))) ∧
    (∀ v : BitVec 42,
      (¬ takes → exec (.spanRecord (.rate n st v)) s = .next s) ∧
      (takes → acts (s.jrnPut ⟨n + 16, 0x1F5, stamp, wrap v.toInt 64⟩) 2 fun at_ y =>
        let c := y.cad n
        exec (.spanRecord (.rate n st v)) s =
          .next ((y.setCourse n (c.restart at_ (c.remainder at_) v.toInt (y.crd n R.CAD_SLEW_TICKS) true)).recompute n at_))))

/-- Movers: control (R382, R396), fetch and its checks (R383, R386), beats (R388, R390, R392), and the read-back (R394). AER's bit is
PRESUMED (log entry 101). -/
def Obligations.MoversFetchMoveStopAndFinish : Prop :=
  (∀ (c : Fin 64) (s : State), s.domOn 3 = true → s.hostReaches = true →
    let x := s.mover c
    let st := s.mrd c R.MV_STAT_STATE
    let en := s.mrd c R.MV_CFG_EN
    let keeps := fun (t : State) => (∀ k, k ≠ c.val → t.mover k = s.mover k) ∧ t.mem = s.mem ∧ t.tb = s.tb ∧ t.out = s.out
    let goes := en ≠ 0 ∧ (st = mvIdle ∨ st = mvStopped)
    let stops := st ≠ mvError ∧ st ≠ mvStopped
    (∀ data : Reg, ∃ t, exec (.mvEnable c data) s = .next t ∧ t.mrd c R.MV_CFG_PRIO = data.toNat / 16 % 2 ^ R.MV_CFG_PRIO.w ∧
      t.mrd c R.MV_CFG_DSRC = (if en = 1 then s.mrd c R.MV_CFG_DSRC else data.toNat % 4) ∧ keeps t ∧
      (bit data.toNat 8 = true → t.mover c = x ∧ t.mrd c R.MV_STAT_STATE = st ∧
        (en = 1 → t.mrd c R.MV_CFG_EN = 1) ∧
        (en ≠ 1 → data.toNat % 4 = 3 → t.mrd c R.MV_CFG_EN = en ∧ t.mrd c R.MV_STAT_EN_PENDING = 0) ∧
        (en ≠ 1 → data.toNat % 4 ≠ 3 → x.stop = true → t.mrd c R.MV_CFG_EN = en ∧ t.mrd c R.MV_STAT_EN_PENDING = 1) ∧
        (en ≠ 1 → data.toNat % 4 ≠ 3 → x.stop = false → t.mrd c R.MV_CFG_EN = 1)) ∧
      (bit data.toNat 8 = false → t.mrd c R.MV_CFG_EN = 0 ∧ t.mrd c R.MV_STAT_EN_PENDING = 0 ∧
        (en = 1 → stops → t.mrd c R.MV_STAT_STATE = (if x.desc = none then mvStopped else mvStopping) ∧
          t.mover c = (if x.desc = none then { x with stop := false, go := false } else { x with stop := true })) ∧
        (en ≠ 1 ∨ ¬ stops → t.mover c = x ∧ t.mrd c R.MV_STAT_STATE = st))) ∧
    (¬ goes → exec (.mvGo c) s = .next s) ∧
    (goes → s.mrd c R.MV_CFG_DSRC = 2 → exec (.mvGo c) s = .next (s.mwr c R.MV_STAT_STATE mvIdle)) ∧
    (goes → s.mrd c R.MV_CFG_DSRC ≠ 2 →
      ∃ t, exec (.mvGo c) s = .next t ∧ t.mover c = { x with go := true } ∧ t.mrd c R.MV_STAT_STATE = mvBusy ∧ keeps t) ∧
    (¬ stops → exec (.mvStop c) s = .next s) ∧
    (stops → x.desc = none → ∃ t, exec (.mvStop c) s = .next t ∧ t.mover c = { x with stop := false, go := false } ∧ t.mrd c R.MV_STAT_STATE = mvStopped ∧
      t.mrd c R.MV_CFG_EN = (if s.mrd c R.MV_STAT_EN_PENDING = 1 then 1 else en) ∧ keeps t) ∧
    (stops → x.desc ≠ none → ∃ t, exec (.mvStop c) s = .next t ∧ t.mover c = { x with stop := true } ∧ t.mrd c R.MV_STAT_STATE = mvStopping ∧ keeps t) ∧
    (st = mvError → ∃ t, exec (.mvClr c) s = .next t ∧ t.mover c = {} ∧ t.mrd c R.MV_STAT_STATE = mvIdle ∧ t.mrd c R.MV_STAT_CAUSE = 0 ∧ keeps t) ∧
    (st ≠ mvError → exec (.mvClr c) s = .next s)) ∧
  (∀ (c : Fin 64) (s : State),
    let x := s.mover c
    let dsrc := s.mrd c R.MV_CFG_DSRC
    let due := s.blockOn (movPage c) = true ∧ s.mrd c R.MV_CFG_EN ≠ 0 ∧ x.desc = none ∧ (if dsrc = 2 then s.mrd c R.MV_STAT_STATE = mvIdle else x.go = true)
    let r := s.descRead c
    let u := r.2
    let at_ := s.mrd c R.MV_NEXT_ADDR / 32 * 32
    let list := s.windowOn (windowOf at_) = true ∧ ∃ a b, windowOf at_ = .loc a b ∨ windowOf at_ = .shared a b
    let got := s.bar2Get at_ 32
    let fails := fun (v : State) (k : Nat) => ∃ t, exec (.descriptorFetch c) s = .next t ∧ t = v.mvFail c k 0 ∧ t.mover c = {} ∧ t.mrd c R.MV_STAT_STATE = mvError ∧ t.mrd c R.MV_STAT_CAUSE = k ∧
      t.rd 0x050 R.MV_CAP_CH = c.val ∧ t.rd 0x050 R.MV_CAP_CAUSE = k ∧ t.on 0x050 R.MV_CAP_VALID = true ∧ (∀ j, j ≠ c.val → t.mover j = s.mover j)
    (¬ due → exec (.descriptorFetch c) s = .next s) ∧
    (dsrc = 0 → r = (.words (s.mvRegWords c), s)) ∧
    (dsrc = 1 → (¬ list → r = (.bad 7, s)) ∧ (list → got.2.1 = true → r = (.bad 6, got.2.2)) ∧
      (list → got.2.1 = false → r = (.words ((List.range 16).map fun k => leNat ((got.1.drop (2 * k)).take 2) % 2 ^ 14), got.2.2))) ∧
    (due → (r.1 = .none → exec (.descriptorFetch c) s = .next u) ∧ (∀ k, k < 16 → r.1 = .bad k → fails u k) ∧
      ∀ d, r.1 = .words d →
        let v := if mvLen d ≠ 0 ∧ u.injArmed 0x050 0 = true then u.injTake 0x050 0 else u
        (u.mvCheck c d ≠ 0 → fails v (u.mvCheck c d)) ∧
        (u.mvCheck c d = 0 →
          let w := ((v.setMover c { desc := some d }).mwr c R.MV_REM_REM (mvLen d)).mwr c R.MV_STAT_STATE mvBusy
          exec (.descriptorFetch c) s = .next (if mvLen d = 0 then w.mvDone c else w)))) ∧
  (∀ (c : Nat) (s : State), c < 64 →
    let x := s.mover c
    let d := x.desc.getD []
    let list := s.mrd c R.MV_CFG_DSRC = 1 ∧ mvLast d = false
    let t := s.mvDone c
    t.mrd c R.MV_TAG_TAG = d.getD 12 0 % 2 ^ R.MV_TAG_TAG.w ∧ t.mrd c R.MV_STAT_DONE = min (s.mrd c R.MV_STAT_DONE + 1) (2 ^ R.MV_STAT_DONE.w - 1) ∧ t.mem = s.mem ∧
      (∀ k, k ≠ c → t.mover k = s.mover k) ∧ (list → t.mrd c R.MV_NEXT_ADDR = wordsAt d 13 2 % 2 ^ R.MV_NEXT_ADDR.w) ∧
      (x.stop = true → t.mover c = {} ∧ t.mrd c R.MV_STAT_STATE = mvStopped) ∧ (x.stop = false → list → t.mover c = { go := true } ∧ t.mrd c R.MV_STAT_STATE = mvBusy) ∧
      (x.stop = false → ¬ list → t.mover c = {} ∧ t.mrd c R.MV_STAT_STATE = mvIdle)) ∧
  (∀ (c : Fin 64) (bad timeout : Bool) (s : State),
    let e := Instr.readBack c bad timeout
    let x := s.mover c
    let d := x.desc.getD []
    let host := s.hostFault
    let got := s.bar2Get ((mvDst d).at x.lastAt) x.lastN
    (x.back = false ∨ s.domOn 3 = false → timeout = false ∨ x.back = false → exec e s = .next s) ∧
    (x.back = true → s.domOn 3 = true →
      ((mvDst d).space = 1 → host.1 = true ∨ bad = true ∨ timeout = true →
        exec e s = .next ((host.2.mvFail c 8 x.lastAt).noteTimeout c timeout) ∧ ∀ t, exec e s = .next t → timeout = true → t.aer = s.aer ||| 0x4000) ∧
      ((mvDst d).space = 1 → host.1 = false → bad = false → timeout = false → exec e s = .next (host.2.mvDone c)) ∧
      ((mvDst d).space ≠ 1 →
        (s.allLive ((mvDst d).at x.lastAt) x.lastN = false → exec e s = .next (s.mvFail c 7 x.lastAt)) ∧
        (s.allLive ((mvDst d).at x.lastAt) x.lastN = true → got.2.1 = true → exec e s = .next (got.2.2.mvFail c 6 x.lastAt)) ∧
        (s.allLive ((mvDst d).at x.lastAt) x.lastN = true → got.2.1 = false → exec e s = .next (got.2.2.mvDone c))))) ∧
  (∀ (e : Fin 4) (src dst : List Byte) (bad timeout : Bool) (s : State),
    let runs := s.blockOn (0x051 + e) = true ∧ s.frozen (0x051 + e) = false
    let fails := fun (c : Nat) => bad || (timeout && readsHost ((s.mover c).desc.getD []))
    let chosen := s.mvChoose e fun c => s.canMove c src dst (fails c)
    (¬ runs ∨ chosen = none → exec (.moverBeat e src dst bad timeout) s = .next s) ∧
    (runs → ∀ c, chosen = some c →
      let prio := s.mrd c R.MV_CFG_PRIO
      let turn := s.mvTurn e prio
      let t := s.beat c ((s.mover c).desc.getD []) src dst (fails c)
      let served := if (t.mover c).desc = none then 16 else if c = turn.1 then turn.2 % 16 + 1 else 1
      exec (.moverBeat e src dst bad timeout) s = .next (({ t with movTurn := put t.movTurn (4 * e + prio) (c, served) } : State).noteTimeout c timeout))) ∧
  (∀ (e : Fin 4) (s : State) (c : Nat) (d : List Nat), s.Ok → s.blockOn (0x051 + e) = true → s.frozen (0x051 + e) = false → s.boot = .done → s.bad = [] →
    (∀ p, s.rd p R.PG_INJ_INJ = 0) → s.mvChoose e (fun k => s.canMove k [] [] false) = some c →
    let x := s.mover c
    let a := mvSrc d
    let b := mvDst d
    let n := min (mvLen d - x.wrote) (16 - (b.addr + x.wrote) % 16)
    let plain := fun (y : Nat) => s.windowOn (windowOf y) = true ∧ (y < 0x880000 ∨ (0x1000000 ≤ y ∧ y < 0x1800000))
    x.desc = some d → mvMode d = 0 → a.space = 0 → b.space = 0 → a.wrap = 0 → b.wrap = 0 → descends d = false →
    x.funnel = [] → x.read = x.wrote → x.ended = none → x.wrote < mvLen d →
    a.addr % 2 = 0 → b.addr % 2 = 0 → x.wrote % 2 = 0 → mvLen d % 2 = 0 → (∀ k, k < mvLen d → plain (a.addr + k) ∧ plain (b.addr + k)) →
    ∃ t, exec (.moverBeat e [] [] false) s = .next t ∧
      (∀ k, 2 * k < n → t.word (b.addr + x.wrote + 2 * k) = s.word (a.addr + x.wrote + 2 * k)) ∧
      (∀ y, (y < b.addr + x.wrote ∨ b.addr + x.wrote + n ≤ y) → t.byte y = s.byte y) ∧ t.tb = s.tb ∧
      (x.wrote + n < mvLen d → (t.mover c).wrote = x.wrote + n ∧ t.mrd c R.MV_REM_REM = (mvLen d - x.wrote - n) % 2 ^ R.MV_REM_REM.w))

/-- The journal (R415 to R426): what each command appends, and where a record goes. A record written during a PCI Express reset is lost (log
entry 103). -/
def Obligations.JournalRecordsWritesAndFreezes : Prop :=
  (∀ (k : JRec) (s : State),
    let n := s.jrn.fifo.length
    let gap : JRec := ⟨0, 0x1F8, s.now, s.jrn.lost⟩
    let adds := fun (t : State) (ks : List JRec) => t.jrn.fifo = s.jrn.fifo ++ ks ∧ t.jrn.since = s.jrn.since + ks.length ∧ t.mem = s.mem ∧ t.tb = s.tb ∧ t.out = s.out
    let takes := s.recording = true ∧ (s.jrn.post ≠ some 0 ∨ k.sender = 0x1F1)
    (s.jrn.lost = 0 → s.jrnGap = s) ∧
    (¬ takes → s.jrnPut k = s) ∧
    (takes → s.injArmed 0x060 0 = true ∨ 4096 ≤ n → (s.jrnPut k).jrn.lost = s.jrn.lost + 1 ∧ adds (s.jrnPut k) [] ∧
      (s.jrnPut k).rd 0x063 R.JRN_LOST_LOST = min (s.rd 0x063 R.JRN_LOST_LOST + 1) (2 ^ R.JRN_LOST_LOST.w - 1) ∧ (k.sender = 0x1F1 → (s.jrnPut k).on 0x061 R.JRN_EPOCH_BAD = true)) ∧
    (takes → s.injArmed 0x060 0 = false → n < 4096 → s.jrn.lost = 0 → adds (s.jrnPut k) [k] ∧ (s.jrnPut k).jrn.post = s.jrn.post.map (· - 1) ∧
      (s.jrn.post = some 1 → s.on 0x061 R.JRN_EPOCH_SNAP_BUSY = false → (s.jrnPut k).on 0x060 R.JRN_STAT_FROZEN = true)) ∧
    (takes → s.injArmed 0x060 0 = false → n + 2 ≤ 4096 → s.jrn.lost ≠ 0 → s.jrn.post = none → adds (s.jrnPut k) [gap, k] ∧ (s.jrnPut k).jrn.lost = 0 ∧
      (s.jrnPut k).on 0x060 R.JRN_STAT_GAP = true)) ∧
  (∀ (data : Reg) (s : State), s.hostReaches = true → s.domOn 4 = true →
    let a := R.JRN_CTRL_EN.addr 0x060 0
    let en := s.on 0x060 R.JRN_CTRL_EN
    let u := s.applyWrite a (setBits data.toNat 0 1 0)
    let marks := fun (t : State) => if bit data.toNat 1 then t.jrnMark 2 s.tb else t
    let more := data ||| 2
    (∀ t : State, t.jrnMark 2 s.tb = if t.recording then
      ({ t with jrn := { t.jrn with marks := t.jrn.marks + 1 } } : State).jrnPut ⟨2, 0x1F7, s.tb % 2 ^ 42, (t.jrn.marks + 1) % 2 ^ 32⟩ else t) ∧
    (en = false → u.jrnRefuses = true → exec (.journalEnable data) s = .next (u.wr 0x060 R.JRN_STAT_REFUSE 1)) ∧
    (en = false → u.jrnRefuses = false → ∃ w, exec (.journalEnable data) s = .next (marks w) ∧ w.on 0x060 R.JRN_CTRL_EN = true ∧ w.on 0x060 R.JRN_STAT_FROZEN = false ∧
      w.jrn.post = none ∧ w.mem = s.mem ∧ w.out = s.out ∧ (s.jrn.lost = 0 → w.jrn.fifo = s.jrn.fifo ∧ w.jrn.since = 0) ∧
      (s.jrn.lost ≠ 0 → s.jrn.fifo.length < 4096 → w.jrn.fifo = s.jrn.fifo ++ [⟨0, 0x1F8, s.now, s.jrn.lost⟩] ∧ w.jrn.since = 1 ∧ w.jrn.lost = 0)) ∧
    (en = true → exec (.journalEnable data) s =
      .next (marks (s.applyWrite a (setBits (setBits (setBits data.toNat 0 1 1) 2 1 (s.rd 0x060 R.JRN_CTRL_DEST)) 8 4 (s.rd 0x060 R.JRN_CTRL_CAS))))) ∧
    (en = false → exec (.journalDisable data) s = .next u) ∧
    (en = true → ∃ t, exec (.journalDisable data) s = .next t ∧ t.on 0x060 R.JRN_CTRL_EN = false ∧ t.jrn.fifo = (s.jrnPut ⟨0, 0x1F9, s.now, s.jrn.since⟩).jrn.fifo ∧
      t.jrn.snapDue = [] ∧ t.on 0x061 R.JRN_EPOCH_SNAP_BUSY = false ∧ t.mem = s.mem ∧ t.out = s.out) ∧
    (bit data.toNat 0 = true → exec (.journalMark data) s = exec (.journalEnable more) s) ∧
    (bit data.toNat 0 = false → exec (.journalMark data) s = exec (.journalDisable more) s)) ∧
  (∀ (rise : Bool) (s : State),
    let u : State := { s with inputs := del s.inputs 4 }
    let selected := s.recording = true ∧ s.on 0x063 R.JRN_TRIG_CFG_EDGE = !rise
    let m := u.jrnMark 1 s.tb
    let n := m.rd 0x060 R.JRN_CTRL_POST
    let starts : State := { m with jrn := { m.jrn with post := some n } }
    (s.inputFilter 4 = 0 → ¬ selected → exec (.jrnTrigEdge rise) s = .next u) ∧
    (s.inputFilter 4 = 0 → selected → m.on 0x060 R.JRN_CTRL_TRIG_EN = false ∨ m.jrn.post ≠ none → exec (.jrnTrigEdge rise) s = .next m) ∧
    (s.inputFilter 4 = 0 → selected → m.on 0x060 R.JRN_CTRL_TRIG_EN = true → m.jrn.post = none → exec (.jrnTrigEdge rise) s =
      .next (if n = 0 ∧ m.on 0x061 R.JRN_EPOCH_SNAP_BUSY = false then (starts.wr 0x060 R.JRN_STAT_FROZEN 1).pgEvt 0x020 14 else starts)) ∧
    (s.inputFilter 4 ≠ 0 → look s.inputs 4 = none → exec (.jrnTrigEdge rise) s = .next { s with inputs := put s.inputs 4 (rise, s.tb) }) ∧
    (s.inputFilter 4 ≠ 0 → ∀ x, look s.inputs 4 = some x → exec (.jrnTrigEdge rise) s = .next (if x.1 = rise then s else u))) ∧
  (∀ s : State,
    (s.jrn.digFrom = none → exec .digestIntervalEnd s = .next s) ∧
    ∀ c, s.jrn.digFrom = some c →
      let e := s.digStart (c + 1)
      let due := s.blockOn 0x060 = true ∧ e ≤ s.tb ∧ s.commitWaits e = false
      let mine := sortBy DigItem.le (s.jrn.items.filter fun x => decide (c ≤ x.tick ∧ x.tick < e))
      let k : JRec := ⟨min 63 (mine.filter (·.late)).length + 64 * min 63 (mine.filter (·.timing)).length, 0x1F2, c % 2 ^ 42, crc64 (mine.flatMap (·.bytes))⟩
      let u : State := { s with jrn := { s.jrn with items := s.jrn.items.filter fun x => decide (e ≤ x.tick), digFrom := some e } }
      let v := if s.recording ∧ s.jrn.recFrom ≤ c then (u.jrnPut ⟨0, 0x1F3, u.frontier, 0⟩).jrnPut k else u
      (¬ due → exec .digestIntervalEnd s = .next s) ∧
      (due → exec .digestIntervalEnd s = .next (if v.rpl.going then { v with rpl := { v.rpl with ownDig := v.rpl.ownDig ++ [k] } } else v))) ∧
  (∀ (n : Fin 16) (s : State),
    let e := s.jrn.snapE
    let due := n.val ∈ s.jrn.snapDue ∧ s.recording = true ∧ (e ≤ s.cmt n ∨ e + 1000000 ≤ s.tb)
    let t := (s.snapAt n e).foldl (fun (t : State) r => t.snapPut r) s
    let u := if e ≤ s.cmt n then t else t.jrnBreak 7 e n
    (¬ due → exec (.snapshot n) s = .next s) ∧
    (due → exec (.snapshot n) s = .next (({ u with jrn := { u.jrn with snapDue := u.jrn.snapDue.erase n } } : State).snapEnd)) ∧
    (due → s.cadAxes n = [] → s.cadTables n = [] → s.shadow = [] → (s.cad n).ptrs = [] → (s.cad n).past = [] → s.comingTo n e = [] →
      (s.snapAt n e).length = 9 ∧ (∀ r ∈ s.snapAt n e, r.type = 1 ∧ r.object = n.val) ∧
      (s.snapAt n e).map (·.part) = [0, 1, 2, 3, 4, 5, 6, 7, 8] ∧ (s.snapAt n e)[6]?.map (·.value) = some ((s.cad n).used : Int)) ∧
    (s.jrn.snapDue = [] → s.on 0x061 R.JRN_EPOCH_SNAP_BUSY = true → ∃ w, s.snapEnd = w ∧ w.on 0x061 R.JRN_EPOCH_SNAP_BUSY = false ∧
      w.jrn.fifo = (s.jrnPut ⟨6, 0x1F1, 0, s.rd 0x061 R.JRN_SNAPCNT_CNT⟩).jrn.fifo)) ∧
  (∀ s : State,
    (s.blockOn 0x060 = false ∨ s.ringFull = true ∨ s.jrn.fifo = [] → exec .journalRecordWrite s = .next s) ∧
    ∀ (k : JRec) (ks : List JRec), s.blockOn 0x060 = true → s.jrn.fifo = k :: ks → s.ringFull = false →
      let wp := s.rd 0x060 R.JRN_WP_WP
      let leaves := fun (v : State) => exec .journalRecordWrite s = .next (if s.recording then v.jrnGap else v) ∧ v.jrn = { s.jrn with fifo := ks } ∧
        v.rd 0x060 R.JRN_WP_WP = (wp + 1) % 2 ^ 32
      k.bytes.length = 16 ∧
      (s.on 0x060 R.JRN_CTRL_DEST = false → ∃ v, leaves v ∧ v.mem = s.mem ∧
        v.out = if s.perst then s.out else .hostWrite (s.ringBase + 16 * (wp % s.ringSize)) k.bytes :: s.out) ∧
      (s.on 0x060 R.JRN_CTRL_DEST = true → s.Ok →
        let a := sharedBase (s.rd 0x060 R.JRN_CTRL_CAS) + 2 * (s.rd 0x060 R.JRN_SIZE_SBASE + 10 * (wp % s.ringSize))
        ∃ v, leaves v ∧ (∀ j, j < 10 → v.word (a + 2 * j) = BitVec.ofNat 14 (leNat k.bytes / 2 ^ (14 * j))) ∧ (∀ y, y < a ∨ a + 20 ≤ y → v.byte y = s.byte y)))

/-- Replays (R429 to R431). -/
def Obligations.ReplayReadsInjectsAndCompares : Prop :=
  (∀ (data : Reg) (s : State), s.hostReaches = true → s.domOn 4 = true →
    let en := s.on 0x062 R.JRN_RPL_EN
    let w := s.wr 0x062 R.JRN_RPL_STOP_ON_DIV (data.toNat / 4)
    let starts := fun (t : State) => if bit data.toNat 1 then t.rplGo else t
    let allowed := 16 ≤ s.rd 0x060 R.JRN_SIZE_K ∧ ∀ p, p < 8 → s.chnState p ≤ chSilent
    (en = false → ¬ allowed → exec (.replayEnable data) s = .next w) ∧
    (en = false → allowed → exec (.replayEnable data) s = .next (starts ((w.wr 0x062 R.JRN_RPL_EN 1).wr 0x062 R.JRN_RPL_RD_RD 0))) ∧
    (en = true → exec (.replayEnable data) s = .next (starts w)) ∧
    (bit data.toNat 0 = true → exec (.replayGo data) s = exec (.replayEnable (data ||| 2)) s) ∧
    (bit data.toNat 0 = false → en = false → exec (.replayGo data) s = .next w) ∧
    (bit data.toNat 0 = false → en = true → ∃ t, exec (.replayGo data) s = .next t ∧ t.on 0x062 R.JRN_RPL_EN = false ∧ t.rpl = {} ∧ t.rd 0x062 R.JRN_RPL_STAT_STATE = 0 ∧ t.mem = s.mem) ∧
    (∀ t : State, t.on 0x062 R.JRN_RPL_EN = false ∨ t.rpl.going = true → t.rplGo = t) ∧
    (∀ t : State, t.on 0x062 R.JRN_RPL_EN = true → t.rpl.going = false → t.rplGo.rpl = { going := true } ∧ t.rplGo.rd 0x062 R.JRN_RPL_STAT_STATE = 1 ∧ t.rplGo.jrn.digFrom ≠ none ∧
      t.rplGo.mem = t.mem)) ∧
  (∀ (h p : BitVec 64) (s : State),
    let e := Instr.replayRecord h p
    let rd := s.rd 0x062 R.JRN_RPL_RD_RD
    let k := JRec.ofFlits h.toNat p.toNat
    let at_ := s.rplLocal k.stamp
    let u : State := { s with out := .hostRead (s.ringBase + 16 * (rd % 2 ^ (s.rd 0x060 R.JRN_SIZE_K - 4))) 16 :: s.out }
    let reads := fun (t : State) => exec e s = .next (t.wr 0x062 R.JRN_RPL_RD_RD (t.rd 0x062 R.JRN_RPL_RD_RD + 1)) ∧ t.mem = s.mem ∧ t.tb = s.tb
    let runs := s.rplRuns = true ∧ s.perst = false
    let input := (0x100 ≤ k.sender ∧ k.sender ≤ 0x119) ∨ 0x200 ≤ k.sender
    let words := (List.range (p.toNat / 2 ^ 56 % 8)).map fun i => p.toNat / 2 ^ (14 * i) % 2 ^ 14
    (¬ runs → exec e s = .next s) ∧
    (runs → rd = s.rd 0x062 R.JRN_RPL_END_END → ∃ t, exec e s = .next t ∧ t.rd 0x062 R.JRN_RPL_STAT_STATE = 4 ∧ t.rpl = s.rpl ∧ t.out = s.out ∧
      (s.on 0x062 R.JRN_DIV_VALID = false → t.rd 0x062 R.JRN_DIV_CAUSE = 3) ∧ t.mem = s.mem) ∧
    (runs → rd ≠ s.rd 0x062 R.JRN_RPL_END_END →
      (k.sender = 0x1F0 → reads { u with rpl := { s.rpl with e := some at_ } }) ∧
      (k.sender = 0x1F1 → k.chan % 16 ≠ 6 → reads { u with rpl := { s.rpl with snaps := s.rpl.snaps ++ [k] } }) ∧
      (k.sender = 0x1F1 → k.chan % 16 = 6 →
        let begins := s.absStamp (s.rpl.e.getD s.now)
        (begins ≤ s.tb → reads (u.diverge 5 k.stamp 0 0 0 0)) ∧ (s.tb < begins → reads ((u.install begins).wr 0x062 R.JRN_RPL_STAT_STATE 2))) ∧
      (k.sender = 0x1F2 → reads (match s.rpl.e with
        | some e => if stampLt at_ e then u else { u with rpl := { s.rpl with recDig := s.rpl.recDig ++ [{ k with stamp := at_ }] } }
        | none => u)) ∧
      (k.sender = 0x1F3 → reads (u.rplTokens at_)) ∧
      (k.sender = 0x1F5 → reads (u.spanApply (k.chan % 16) (s.absStamp at_) (bit k.chan 4) (signed k.payload 64))) ∧
      (k.sender = 0x1F6 → ∃ t, reads t ∧ t.on 0x062 R.JRN_RPL_STAT_BREAK_SEEN = true ∧
        (s.on 0x062 R.JRN_DIV_VALID = false → s.rpl.broke = false → t.rd 0x062 R.JRN_DIV_C_LO_C + t.rd 0x062 R.JRN_DIV_C_HI_C * 2 ^ 32 = k.stamp)) ∧
      (k.sender = 0x1F8 → reads (u.diverge 4 k.stamp 0 0 0 0)) ∧
      (k.sender = 0x11A →
        let r := { k with stamp := at_ }
        (∀ o, (s.rpl.ownNote.find? fun o => decide (o.cadence = r.cadence)) = some o →
          reads (({ u with rpl := { s.rpl with ownNote := s.rpl.ownNote.erase o } } : State).noteCompare r o)) ∧
        ((s.rpl.ownNote.find? fun o => decide (o.cadence = r.cadence)) = none → reads { u with rpl := { s.rpl with recNote := s.rpl.recNote ++ [r] } })) ∧
      (input →
        (u.trySend k.chan k.sender at_ (p.toNat / 2 ^ 59) words false = none → exec e s = .next u) ∧
        (∀ t, u.trySend k.chan k.sender at_ (p.toNat / 2 ^ 59) words false = some t → reads t) ∧
        (s.sendFails k.chan k.sender at_ = none → s.freeCredits k.chan k.sender ≠ 0 → s.chOrd k.chan = true →
          ∃ (t : State) (m : Msg), reads t ∧ (t.chan k.chan).flight = (s.chan k.chan).flight ++ [.msg m] ∧ m.chan = k.chan ∧ m.sender = k.sender ∧
            m.stamp = at_ ∧ m.kind = p.toNat / 2 ^ 59 ∧ m.words = words)) ∧
      (¬ input → k.sender ∉ [0x1F0, 0x1F1, 0x1F2, 0x1F3, 0x1F5, 0x1F6, 0x1F8, 0x11A] → reads u))) ∧
  (∀ (s : State) (r : JRec) (rs : List JRec),
    let waits := s.rpl.going = false ∨ s.rd 0x062 R.JRN_RPL_STAT_STATE = 3
    let own := s.rpl.ownDig.find? fun o => decide (o.stamp = r.stamp)
    (waits ∨ s.rpl.recDig = [] → exec .replayDigestCompare s = .next s) ∧
    (¬ waits → s.rpl.recDig = r :: rs → own = none → exec .replayDigestCompare s = .next s) ∧
    (∀ o, ¬ waits → s.rpl.recDig = r :: rs → own = some o →
      let u : State := { s with rpl := { s.rpl with recDig := rs, ownDig := s.rpl.ownDig.filter fun x => stampLt r.stamp x.stamp } }
      (r.payload = o.payload → s.injArmed 0x062 0 = false → exec .replayDigestCompare s = .next u) ∧
      (r.payload ≠ o.payload ∨ s.injArmed 0x062 0 = true → r.payload < 2 ^ 64 → o.payload < 2 ^ 64 →
        ∃ t, exec .replayDigestCompare s = .next t ∧ t.rpl = u.rpl ∧ t.on 0x062 R.JRN_DIV_VALID = true ∧ t.mem = s.mem ∧
          (s.on 0x062 R.JRN_RPL_STOP_ON_DIV = true → t.rd 0x062 R.JRN_RPL_STAT_STATE = 3) ∧
          (s.on 0x062 R.JRN_DIV_VALID = true → t.rd 0x062 R.JRN_DIV_DIVCNT = min (s.rd 0x062 R.JRN_DIV_DIVCNT + 1) (2 ^ R.JRN_DIV_DIVCNT.w - 1)) ∧
          (s.on 0x062 R.JRN_DIV_VALID = false → t.rd 0x062 R.JRN_DIV_CAUSE = 1 ∧
            t.rd 0x062 R.JRN_DIV_C_LO_C + t.rd 0x062 R.JRN_DIV_C_HI_C * 2 ^ 32 = wrap ((r.stamp : Int) + s.rplOfs) 42 ∧
            t.rd 0x062 R.JRN_DIV_HR_LO_HASH + t.rd 0x062 R.JRN_DIV_HR_HI_HASH * 2 ^ 32 = r.payload ∧
            t.rd 0x062 R.JRN_DIV_HL_LO_HASH + t.rd 0x062 R.JRN_DIV_HL_HI_HASH * 2 ^ 32 = o.payload))))

/-- Power domains (R437 to R449) and the idle chain port (R357). -/
def Obligations.DomainsEnterWakeAndReturn : Prop :=
  let sleeps := fun (x : Dom) => x.going = none ∧ ¬ (x.st = .on ∧ x.emu = none)
  let keeps := fun (s t : State) => t.mem = s.mem ∧ t.tb = s.tb ∧ t.cogs = s.cogs
  let starts := fun (s t : State) (d : Nat) => (t.dom d).going = some .on ∧ (t.dom d).wokeAt = s.tb ∧ t.powerReq d = 3 ∧ keeps s t
  let enters := fun (s t : State) (d : Nat) (g : DomSt) => (t.dom d).st = (s.dom d).st ∧ keeps s t ∧
    (if s.on 0x030 R.DBG_STAT_ATTACH = true ∧ (s.dom d).st = .on then (t.dom d).emu = some g ∧ (t.dom d).going = (s.dom d).going else (t.dom d).going = some g)
  (∀ (d : Fin 336) (s : State), isDomain d = true →
    let x := s.dom d
    (sleeps x → starts s (s.startWake d) d ∧ ∀ k ∈ domNeeds d, sleeps (s.dom k) → ((s.startWake d).dom k).going = some .on) ∧
    (x.going = some .ret ∨ x.going = some .off → (s.startWake d).dom d = { x with latched := true } ∧ keeps s (s.startWake d))) ∧
  (∀ (d : Fin 336) (v : BitVec 2) (s : State), s.hostReaches = true →
    let e := Instr.domainRequest d v
    let x := s.dom d
    let on_ := s.domOn d = true ∧ x.emu = none
    let u := s.setPowerReq d v.toNat
    let g := reqTarget d v.toNat
    let stays := x.st = g ∨ x.st = .off ∨ x.emu = some g
    (isDomain d = false → exec e s = .next s) ∧
    (isDomain d = true → 2 ≤ v.toNat →
      (on_ → ∃ t, exec e s = .next t ∧ t.dom d = { x with hold := false } ∧ t.powerReq d = v.toNat ∧ keeps s t) ∧
      (sleeps x → ¬ on_ → ∃ t, exec e s = .next t ∧ starts s t d) ∧
      (x.going = some .ret ∨ x.going = some .off → ¬ on_ → ∃ t, exec e s = .next t ∧ t.dom d = { x with latched := true } ∧ t.powerReq d = v.toNat ∧ keeps s t) ∧
      (x.going = some .on → ¬ on_ → ∃ t, exec e s = .next t ∧ t.dom d = x ∧ t.powerReq d = 3 ∧ keeps s t)) ∧
    (isDomain d = true → v.toNat < 2 →
      (d.val < 2 → exec e s = .next u) ∧
      (2 ≤ d.val →
        (x.going ≠ none → exec e s = .next (u.setDom d { x with hold := true })) ∧
        (x.going = none → stays → exec e s = .next (u.setDom d { x with hold := false })) ∧
        (x.going = none → ¬ stays → u.powerWaits d = true → exec e s = .next (u.setDom d { x with hold := true })) ∧
        (x.going = none → ¬ stays → u.powerWaits d = false → ∃ t, exec e s = .next t ∧ enters s t d (if v.toNat = 1 ∨ d.val = 2 then .ret else .off) ∧ t.powerReq d = v.toNat)))) ∧
  (∀ (d : Fin 336) (s : State),
    let x := s.dom d
    let g := reqTarget d (s.powerReq d)
    (∀ k : PcieConf, exec (.domainEntry d (some k)) s = exec (.domainEntry d) (s.confWritten (some k))) ∧
    (x.going = some .on ∨ (x.going = none ∧ (x.hold = false ∨ s.powerWaits d = true)) → exec (.domainEntry d) s = .next s) ∧
    (x.going = none → x.hold = true → s.powerWaits d = false →
      (g = .on ∨ x.st = g ∨ x.st = .off → exec (.domainEntry d) s = .next (s.setDom d { x with hold := false })) ∧
      (g ≠ .on → x.st ≠ g → x.st ≠ .off → ∃ t, exec (.domainEntry d) s = .next t ∧ enters s t d g)) ∧
    (isDomain d = true → ∀ g', x.going = some g' → g' ≠ .on → ∃ t, exec (.domainEntry d) s = .next t ∧ (t.dom d).st = g' ∧ t.tb = s.tb ∧
      (g' = .ret → t.mem = s.mem) ∧ (x.latched = false → (t.dom d).going = none) ∧ (x.latched = true → (t.dom d).going = some .on ∧ t.on 0x010 R.PWR_WSTAT_REPLAY = true) ∧
      (2 ≤ d.val → d.val < 64 → t.rd 0x010 R.PWR_DOM_ENTRIES d = min (s.rd 0x010 R.PWR_DOM_ENTRIES d + 1) (2 ^ R.PWR_DOM_ENTRIES.w - 1))) ∧
    (∀ i : CogId, d.val = 64 + i.val →
      let mine := fun (a : Nat) => localBase i ≤ a ∧ a < localBase i + 0x8000
      (x.going = some .off → ∃ t, exec (.domainEntry d) s = .next t ∧ t.cog i = {} ∧ (∀ a, mine a → t.byte a = 0) ∧ (∀ a, ¬ mine a → t.byte a = s.byte a) ∧ ∀ j, j ≠ i.val → t.cog j = s.cog j) ∧
      (x.going = some .ret → ∃ t, exec (.domainEntry d) s = .next t ∧ t.cog i = { s.cog i with samples := 0, lates := 0 } ∧ t.mem = s.mem ∧ ∀ j, j ≠ i.val → t.cog j = s.cog j))) ∧
  (∀ (d : Fin 336) (s : State), isDomain d = true →
    let x := s.dom d
    let due := x.going = some .on ∧ (domNeeds d).all s.domOn = true ∧ s.railOn d = true ∧ s.startsAt d ≤ s.tb
    let was := if x.st = .on then x.emu.getD .ret else x.st
    let fails := x.going = some .on ∧ x.emu = none
    (¬ due → exec (.domainRestore d) s = .next s) ∧
    (due → ∃ t, exec (.domainRestore d) s = .next t ∧ (t.dom d).st = .on ∧ (t.dom d).going = none ∧ (t.dom d).emu = none ∧ (t.dom d).onAt = s.tb ∧ t.mem = s.mem ∧ t.tb = s.tb ∧
      (was = .off → (d.val < 64 ∨ s.on (0x300 + (d - 64)) R.PG_STAT_EN_PENDING = false) → ∀ p ∈ domPages d, t.on p R.PG_STAT_STALE = true ∧ t.on p R.PG_CTRL_EN = false)) ∧
    (¬ fails → exec (.restoreFail d) s = .next s) ∧
    (fails → ∃ t, exec (.restoreFail d) s = .next t ∧ (t.dom d).st = .off ∧ (t.dom d).going = none ∧ (d.val < 64 → t.on 0x010 R.PWR_DOM_FAIL d = true) ∧ t.tb = s.tb ∧
      (x.st = .off → t.mem = s.mem))) ∧
  (∀ s : State,
    let asleep := fun (d : Nat) => (s.dom d).st = .ret ∨ (s.dom d).going = some .ret ∨ (s.dom d).emu = some .ret
    let link := fun (d : Nat) =>
      let t := s.startWake d
      if t.on 0x010 R.PWR_CTRL_MODE then (t.wr 0x010 R.PWR_WSTAT_LINK 1).wakeSet 4 else t
    (∀ c : Cas,
      let wakes := asleep (8 + c) ∧ ∃ m ∈ s.hubHold, s.rcvCas m.chan = some c.val
      (wakes → exec (.domainWake (.message c)) s = .next (s.startWake (8 + c))) ∧ (¬ wakes → exec (.domainWake (.message c)) s = .next s)) ∧
    (∀ n : Fin 16, (asleep (24 + n) → exec (.domainWake (.vision n)) s = .next (s.startWake (24 + n))) ∧ (¬ asleep (24 + n) → exec (.domainWake (.vision n)) s = .next s)) ∧
    (∀ p : Fin 8, (asleep (40 + p) → exec (.domainWake (.chain p)) s = .next (link (40 + p))) ∧ (¬ asleep (40 + p) → exec (.domainWake (.chain p)) s = .next s)) ∧
    (∀ i : Fin 2, (asleep (48 + i) → exec (.domainWake (.tandem i)) s = .next (link (48 + i))) ∧ (¬ asleep (48 + i) → exec (.domainWake (.tandem i)) s = .next s)) ∧
    exec (.domainWake .pcie) s = .next ((link 2).wr 0x120 R.PCIE_STAT_L1 0)) ∧
  (∀ (n : Fin 4) (l : Bool) (s : State),
    let u : State := { s with inputs := del s.inputs n }
    let active := b2n l = s.rd 0x010 R.PWR_WAKE_POL n
    let wakes := active ∧ (s.on 0x010 R.PWR_WAKE_EDGE n = false ∨ s.rd 0x010 R.PWR_WAKE_LVL n ≠ s.rd 0x010 R.PWR_WAKE_POL n)
    (s.rd 0x010 R.PWR_WAKE_FILT n = 0 → ∃ t, exec (.wakePin n l) s = .next t ∧ t.rd 0x010 R.PWR_WAKE_LVL n = b2n l ∧ t.mem = s.mem ∧ t.inputs = u.inputs ∧
      (¬ wakes → t.doms = s.doms) ∧
      (wakes → bit (t.rd 0x010 R.PWR_WSTAT_PIN) n = true ∧
        ∀ d, d < 64 → isDomain d = true → bit (s.rd 0x010 R.PWR_DOM_WSET d) n = true → sleeps (s.dom d) → (t.dom d).going = some .on)) ∧
    (s.rd 0x010 R.PWR_WAKE_FILT n ≠ 0 →
      (look s.inputs n = none → exec (.wakePin n l) s = .next (if s.rd 0x010 R.PWR_WAKE_LVL n = b2n l then s else { s with inputs := put s.inputs n (l, s.tb) })) ∧
      (∀ x, look s.inputs n = some x → exec (.wakePin n l) s = .next (if x.1 = l then s else u)))) ∧
  (∀ s : State,
    let st := s.rd 0x010 R.PWR_ALARM_LO_STAMP + s.rd 0x010 R.PWR_ALARM_HI_STAMP * 2 ^ 32
    let due := s.on 0x010 R.PWR_ALARM_HI_EN = true ∧ 0 ≤ stampDiff s.now st
    (due → ∃ t, exec .pwrAlarm s = .next t ∧ t.on 0x010 R.PWR_ALARM_HI_EN = false ∧ t.on 0x010 R.PWR_WSTAT_ALARM = true ∧ t.mem = s.mem ∧
      ∀ d, d < 64 → isDomain d = true → bit (s.rd 0x010 R.PWR_DOM_WSET d) 5 = true → sleeps (s.dom d) → (t.dom d).going = some .on) ∧
    (¬ due → exec .pwrAlarm s = .next s)) ∧
  (∀ (d : Fin 64) (s : State),
    let us := s.rd 0x010 R.PWR_IDLE_US
    let due := ∃ b, (s.dom d).idleSince = some b ∧ s.on 0x010 R.PWR_DOM_IDLE_AUTO d = true ∧ s.idleNow d = true ∧ s.powerWaits d = false ∧ us ≠ 0 ∧ b + 1000 * us ≤ s.tb
    (due → ∃ t, exec (.idleRule d) s = .next t ∧ enters s t d .ret) ∧ (¬ due → exec (.idleRule d) s = .next s)) ∧
  (∀ (p : Fin 8) (s : State),
    let due := s.chnIdle p = true ∧ (s.dom (40 + p)).emu = none ∧ s.heldAwake (40 + p) = false
    (due → ∃ t, exec (.chainIdleRetention p) s = .next t ∧ enters s t (40 + p) .ret ∧ t.regs = s.regs) ∧ (¬ due → exec (.chainIdleRetention p) s = .next s))

/-- Supply governors and the PMBus (R450 to R457); a write of whose answer the command says nothing is acknowledged (log entry 32). -/
def Obligations.GovernorsMeasureChangeAndConfirm : Prop :=
  ∀ (q : Fin 4) (s : State), s.domOn 2 = true →
    let p := govPage q
    let g := s.gov q
    let limits := fun (v : Nat) => min (max v (govLimit (s.rd p R.GOV_LIM_VMIN))) (govLimit (s.rd p R.GOV_LIM_VMAX))
    let paged := fun (t : State) => if t.on 0x011 R.PMB_Q_PAGED q then Out.pmbus (t.rd 0x011 R.PMB_Q_ADDR q) 0x00 (some (t.rd 0x011 R.PMB_Q_PAGE q)) :: t.out else t.out
    let quiet := fun (t : State) => ({ t with pmbPlan := [] } : State)
    (∀ (data : Reg) (bus : PmbReply), s.hostReaches = true →
      let mv := data.toNat % 1024
      let u := s.applyWrite (R.GOV_SET_MV.addr p 0) data.toNat
      let manual := s.on p R.GOV_CTRL_EN = true ∧ s.on p R.GOV_CTRL_MODE = true
      let stuck := s.on p R.GOV_CTRL_FAULT = true ∨ s.on p R.GOV_V_RAIL_OFF = true
      u.rd p R.GOV_SET_MV = mv ∧
      (¬ manual → exec (.govSetWrite q data bus) s = .next (quiet u)) ∧
      (manual → stuck → exec (.govSetWrite q data bus) s = .next (quiet (u.setGov q { g with v := mv }))) ∧
      (manual → ¬ stuck → ∀ v, g.target = some v →
        exec (.govSetWrite q data bus) s = .next (quiet (u.setGov q { g with v := mv, want := if v = mv then none else some mv }))) ∧
      (manual → ¬ stuck → g.target = none →
        ∃ t, exec (.govSetWrite q data bus) s = .next t ∧ t.gov q = { g with v := mv, target := some mv, want := none, missed := false, changed := true, readAt := s.tb + s.govWait q mv } ∧
          t.on p R.GOV_V_CHANGING = true ∧ t.rd p R.GOV_SET_MV = mv ∧ (mv ≤ 650 → t.on p R.GOV_V_ASSIST = true) ∧
          t.out = .pmbus (s.rd 0x011 R.PMB_Q_ADDR q) 0x21 (some (s.voutWord q mv)) :: paged s ∧ t.rd p R.GOV_V_VOUT = s.rd p R.GOV_V_VOUT ∧ t.mem = s.mem ∧ t.cogs = s.cogs)) ∧
    (∀ r : PmbReply,
      let w := ({ s with pmbPlan := r.writes } : State).govSettle q
      let x := w.gov q
      let read := (w.measureVout q r).1
      let start := w.rd p R.GOV_SET_VSTART
      let waits := exec (.readVout q r) s = .next (quiet w)
      let isNear := fun (v : Nat) => ∃ m, read = some m ∧ nearMv m v = true
      (r.nacks.val = 0 → r.pecs.val = 0 → w.injArmed 0x011 0 = false → read = some (w.voutMv q r.value.toNat)) ∧
      (x.turnOn = none → x.target = none → waits) ∧
      (x.turnOn ≠ none → isNear start → ∃ t, exec (.readVout q r) s = .next t ∧ t.on p R.GOV_V_RAIL_OFF = false ∧ t.rd p R.GOV_V_VOUT = start ∧
        t.gov q = { x with v := start, turnOn := none } ∧ t.mem = s.mem) ∧
      (x.turnOn ≠ none → ¬ isNear start → ∃ t, exec (.readVout q r) s = .next t ∧ t.on p R.GOV_V_RAIL_OFF = w.on p R.GOV_V_RAIL_OFF ∧ t.gov q = x ∧ t.mem = s.mem) ∧
      (x.turnOn = none → ∀ v, x.target = some v →
        (s.tb < x.readAt → waits) ∧
        (x.readAt ≤ s.tb →
          (isNear v → ∃ t, exec (.readVout q r) s = .next t ∧ t.rd p R.GOV_V_VOUT = v % 2 ^ R.GOV_V_VOUT.w ∧ some (t.rd p R.GOV_V_MEAS) = read ∧ t.mem = s.mem ∧
            (x.want = none ∨ x.want = some v → t.on p R.GOV_V_CHANGING = false ∧ (t.gov q).target = none ∧ (∀ m, read = some m → 670 ≤ m → t.on p R.GOV_V_ASSIST = false)) ∧
            (∀ k, x.want = some k → k ≠ v → t.on p R.GOV_V_CHANGING = true ∧ (t.gov q).target = some k)) ∧
          (¬ isNear v → x.missed = false → ∃ t, exec (.readVout q r) s = .next t ∧ t.gov q = { x with missed := true, readAt := s.tb + w.govSettleTime q } ∧
            t.rd p R.GOV_V_VOUT = w.rd p R.GOV_V_VOUT ∧ t.mem = s.mem) ∧
          (¬ isNear v → x.missed = true → ∃ t, exec (.readVout q r) s = .next t ∧ t.on p R.GOV_CTRL_FAULT = true ∧ t.on p R.GOV_V_CHANGING = false ∧
            (t.gov q).target = none ∧ (t.gov q).v = w.rd p R.GOV_V_VOUT ∧ t.rd p R.GOV_V_VOUT = w.rd p R.GOV_V_VOUT ∧ t.mem = s.mem)))) ∧
    (∀ r : PmbReply,
      let past := s.tb - g.since
      let due := s.on p R.GOV_CTRL_EN = true ∧ s.govPeriodTime q ≤ past
      let meters := s.govMeters q
      let sampled := meters.filter fun i => decide (0 < (s.cog i).samples)
      let n := sampled.length + b2n (s.injArmed p 1)
      let late := (meters.map fun i => (s.cog i).lates).sum + b2n (s.injArmed p 1)
      let smin := sampled.foldl (fun (m : Int) i => min m (signed (s.rd (cogPage i) R.COG_SLACK_MIN) 28)) 134217727
      let rule := govRule g.v (s.rd p R.GOV_STEP_UP) (s.rd p R.GOV_STEP_DN) (max 1 (s.rd p R.GOV_STEP_HOLD)) (s.rd p R.GOV_STEP_QUIET)
        (s.rd p R.GOV_BAND_LO) (s.rd p R.GOV_BAND_HI) (govLimit (s.rd p R.GOV_LIM_VIDLE)) g.above g.quiet n late smin g.changed
      let automatic := s.on p R.GOV_CTRL_MODE = false ∧ s.on p R.GOV_CTRL_FAULT = false
      (¬ due → exec (.governorPeriod q r) s = .next (quiet s)) ∧
      (due → ∃ t, exec (.governorPeriod q r) s = .next t ∧ (t.gov q).since = s.tb - past % s.govPeriodTime q ∧ t.on p R.GOV_SLK_NONE = decide (n = 0) ∧
        t.rd p R.GOV_SLK_SMIN = wrap smin 28 ∧ t.mem = s.mem ∧ t.tb = s.tb ∧
        (∀ k, k < 68 → 0 < (s.cog (68 * q + k)).samples → (t.cog (68 * q + k)).samples = 0 ∧ (t.cog (68 * q + k)).lates = 0) ∧
        (0 < late → t.rd p R.GOV_CNT_LATEP = min (s.rd p R.GOV_CNT_LATEP + 1) (2 ^ R.GOV_CNT_LATEP.w - 1)) ∧
        ((s.pmbTries r.nacks r.pecs).1 = true → t.rd p R.GOV_TEL_IOUT = r.value.toNat % 2 ^ R.GOV_TEL_IOUT.w) ∧
        (¬ automatic → (t.gov q).v = g.v ∧ (t.gov q).target = g.target) ∧
        (automatic → (t.gov q).v = limits rule.1 ∧ (t.gov q).above = rule.2.1 ∧ (t.gov q).quiet = rule.2.2))) ∧
    (∀ (r : PmbReply) (low : Bool),
      (∃ t, exec (.pmbusAlert none r low) s = .next t ∧ t.on 0x011 R.PMB_STAT_ALERT = low ∧ t.on 0x011 R.PMB_STAT_NACK = true ∧
        t.rd 0x011 R.PMB_ERR_FAIL = min (s.rd 0x011 R.PMB_ERR_FAIL + 1) 255 ∧ t.mem = s.mem) ∧
      ∀ a : BitVec 7, ∃ t, exec (.pmbusAlert (some a) r low) s = .next t ∧ t.rd 0x011 R.PMB_ALERT_ADDR = a.toNat ∧ t.on 0x011 R.PMB_STAT_ALERT = low ∧
        t.rd 0x011 R.PMB_ALERT_STATUS = (if (s.pmbTries r.nacks r.pecs).1 then r.value.toNat else s.rd 0x011 R.PMB_ALERT_STATUS) ∧
        t.out.head? = some (.pmbus a.toNat 0x03 none) ∧ t.mem = s.mem) ∧
    (∃ t, exec (.vcogUndervoltage q) s = .next t ∧ (∀ i : CogId, i.val / 68 = q.val → t.cogRuns i = false) ∧ t.cogs = s.cogs ∧ t.mem = s.mem) ∧
    (risingFrom 0 s.uvHold = true → ∃ t, exec (.vcogRecover q) s = .next t ∧
      (∀ i : CogId, i.val / 68 = q.val → t.cogRuns i = (s.domOn (64 + i) && g.injUntil.isNone)) ∧ t.cogs = s.cogs ∧ t.mem = s.mem) ∧
    (let raises := bit (s.rd 0x020 R.PG_EVT_EN_EN) 7 = true ∧ bit (s.rd 0x020 R.PG_EVT_PEND_PEND) 7 = false
     (¬ raises → exec (.vcogOvervoltage q) s = .next s) ∧
     (raises → ∃ t, exec (.vcogOvervoltage q) s = .next t ∧ bit (t.rd 0x020 R.PG_EVT_PEND_PEND) 7 = true ∧ t.govs = s.govs ∧ t.mem = s.mem ∧
       (s.crossing 23 < 255 → t.crossing 23 = s.crossing 23 + 1)))

/-- Temperature, rails, SREF, the watchdogs and the brake latch (R459, R476 to R485). -/
def Obligations.HealthWatchesTemperatureRailsWatchdogsAndBrake : Prop :=
  (∀ (n : Fin 5) (v : BitVec 12) (s : State),
    let inj := fun (b : Nat) => decide (n.val = 0) && s.injArmed 0x020 b
    let state := fun (was : Bool) (threshold : Nat) => decide ((4 * threshold : Int) ≤ v.toInt) || (was && decide ((4 * threshold : Int) - 20 < v.toInt))
    let crit := inj 2 || state (s.on 0x020 R.HLT_TEMP_CRIT n) (s.rd 0x020 R.HLT_TCFG_CRIT)
    (s.domOn 2 = false → exec (.tempConversion n v) s = .next s) ∧
    (s.domOn 2 = true → ∃ t, exec (.tempConversion n v) s = .next t ∧ t.rd 0x020 R.HLT_TEMP_T n = v.toNat ∧
      t.on 0x020 R.HLT_TEMP_WARN n = (inj 1 || state (s.on 0x020 R.HLT_TEMP_WARN n) (s.rd 0x020 R.HLT_TCFG_WARN)) ∧ t.on 0x020 R.HLT_TEMP_CRIT n = crit ∧
      (crit = true → s.on 0x020 R.HLT_TCFG_CRIT_BRAKE = true → t.on 0x020 R.HLT_BRAKE_ACTIVE = true ∧ bit (t.rd 0x020 R.HLT_BRAKE_CAUSES) 6 = true) ∧ t.mem = s.mem ∧ t.tb = s.tb)) ∧
  (∀ (low high : BitVec 6) (s : State),
    ∃ t, exec (.railSample low high) s = .next t ∧ t.vmramLow = bit low.toNat 4 ∧ t.cogs = s.cogs ∧ t.tb = s.tb ∧
      (s.boot ≠ .held → s.domOn 2 = true → t.rd 0x020 R.HLT_RAIL_LOW = (if s.railUntil = none then low.toNat else setBits low.toNat 0 1 1) ∧ t.rd 0x020 R.HLT_RAIL_HIGH = high.toNat) ∧
      (s.boot = .held → t.boot = (if Nat.land (Nat.lor low.toNat high.toNat) 0x23 = 0 then .start else .held)) ∧ (s.boot ≠ .held → t.boot = s.boot) ∧
      (bit low.toNat 4 = true ∨ s.mramWait = [] → t.mem = s.mem ∧ t.mramWait = s.mramWait) ∧ (bit low.toNat 4 = false → t.mramWait = [])) ∧
  (∀ s : State, ∃ t, exec .srefLoss s = .next t ∧ t.mem = s.mem ∧
    (∀ i, i < 2 → bit (t.rd 0x124 R.TAN_STAT_UP) i = (bit (s.rd 0x124 R.TAN_STAT_UP) i && !s.domOn (48 + i))) ∧
    (∀ n : Fin 16, s.domOn (24 + n) = true → s.lnState n = lnUp → t.lnState n = lnDiscovery) ∧
    (∀ n : Fin 16, s.lnState n ≠ lnUp → (∀ m, m < 16 → s.lnState m = lnUp → n.val ∉ s.visGroup m) → t.lnState n = s.lnState n)) ∧
  (∀ (i : CogId) (s : State),
    let p := cogPage i
    let c := s.cog i
    let count := s.rd p R.COG_WDT_CNT_COUNT
    let action := s.rd p R.COG_WDT_ACTION
    let halted := c.run = .halted
    let warns := s.wdtHeld i = false ∧ c.warned = false ∧ 0 < s.rd p R.COG_WDT_WARN ∧ s.rd p R.COG_WDT_WARN < s.rd p R.COG_WDT_RELOAD ∧ count ≤ s.rd p R.COG_WDT_WARN
    let expires := s.wdtHeld i = false ∧ count = 0
    let restarted := fun (t : State) => t.rd p R.COG_WDT_CNT_COUNT = s.rd p R.COG_WDT_RELOAD ∧ (t.cog i).expired = false ∧ (t.cog i).warned = false ∧ t.mem = s.mem ∧
      ∀ j, j ≠ i.val → t.cog j = s.cog j
    (¬ warns → exec (.watchdogWarning i) s = .next s) ∧
    (warns → exec (.watchdogWarning i) s = .next (s.setCog i { c with warn8 := true, warned := true })) ∧
    (¬ expires → exec (.watchdogExpiry i) s = .next s) ∧
    (expires → ∃ t, exec (.watchdogExpiry i) s = .next t ∧ t.on 0x020 R.HLT_WDT_CAP_VALID = true ∧ t.rd 0x020 R.HLT_WDT_CAP_COG = i.val ∧ t.rd 0x020 R.HLT_WDT_CAP_PC = c.pc % 2 ^ 19 ∧
      (action ≠ 3 → t.on p R.COG_WDT_CNT_EXP = true ∧ t.mem = s.mem) ∧
      (action = 0 → restarted t) ∧
      (action = 2 → t.on 0x020 R.HLT_BRAKE_ACTIVE = true ∧ bit (t.rd 0x020 R.HLT_BRAKE_CAUSES) 4 = true) ∧
      ∃ u : State, u.cog i = { c with expired := true, warned := true } ∧ u.on p R.COG_WDT_CNT_EXP = true ∧ (∀ j, j ≠ i.val → u.cog j = s.cog j) ∧
        (let v := if halted then u else (u.requestHalt i ⟨5, 0⟩).settle
         (action = 1 → t = v) ∧ (action = 2 → t = v.brake .watchdog) ∧ (action = 3 → t = if halted then u else (u.softReset p).wr p R.PG_CTRL_EN 0))) ∧
    (s.hostReaches = true → s.domOn (64 + i) = true → ∃ t, exec (.watchdogKick i) s = .next t ∧ restarted t)) ∧
  (∀ s : State,
    let was := s.on 0x020 R.HLT_BRAKE_ACTIVE
    let asserted := fun (t : State) (k : Nat) => t.on 0x020 R.HLT_BRAKE_ACTIVE = true ∧ bit (t.rd 0x020 R.HLT_BRAKE_CAUSES) k = true ∧
      (was = false → t.rd 0x020 R.HLT_BRK_T_LO_STAMP + t.rd 0x020 R.HLT_BRK_T_HI_STAMP * 2 ^ 32 = s.now) ∧ t.mem = s.mem ∧ t.tb = s.tb
    let host := s.hostReaches = true ∧ s.domOn 2 = true
    (∃ t, exec .brakeIn s = .next t ∧ asserted t 1 ∧ t.rd 0x020 R.HLT_BRKIN_LVL = 0) ∧
    exec .brakeInRelease s = .next (s.wr 0x020 R.HLT_BRKIN_LVL 1) ∧
    (host → ∃ t, exec .hltBrakeSet s = .next t ∧ asserted t 2) ∧
    (host → s.brakePresent = 0 → was = true →
      ∃ t, exec .hltBrakeClr s = .next t ∧ t.on 0x020 R.HLT_BRAKE_ACTIVE = false ∧ t.rd 0x020 R.HLT_BRAKE_CAUSES = 0 ∧ t.out = .brakeOut false :: s.out ∧ t.mem = s.mem) ∧
    (host → s.brakePresent = 0 → was = false → exec .hltBrakeClr s = .next (s.applyWrite (R.HLT_BRAKE_ACTIVE.addr 0x020 0) 4)) ∧
    (host → s.brakePresent ≠ 0 →
      ∃ t, exec .hltBrakeClr s = .next t ∧ t.on 0x020 R.HLT_BRAKE_CLR_REJ = true ∧ t.on 0x020 R.HLT_BRAKE_ACTIVE = was ∧
        t.rd 0x020 R.HLT_BRAKE_CAUSES = s.rd 0x020 R.HLT_BRAKE_CAUSES ∧ t.out = s.out ∧ t.mem = s.mem))

/-- Cog debug access (R490, R491), pelotons (R494) and the trace buffer's pop (R497). -/
def Obligations.DebugHaltsStepsAndReadsCogs : Prop :=
  (∀ (i : CogId) (data : Reg) (s : State), s.hostReaches = true → s.domOn (64 + i) = true →
    let c := s.cog i
    let p := cogPage i
    let w := fun (k : Nat) => s.applyWrite (R.COG_DBG_HALT.addr p 0) (setBits data.toNat k 1 1)
    let steady := fun (k : Nat) => (w k).haltPresent = false ∨ s.on 0x020 R.HLT_BRAKE_ACTIVE = true
    let alone := ∀ j x, (j, x) ∈ s.cogs → x.haltReq = none ∧ x.disabling = false
    let kept := fun (x : Cog) => x.g = c.g ∧ x.port = c.port ∧ x.acc = c.acc ∧ x.pc = c.pc ∧ x.flags = c.flags ∧ x.todo = c.todo ∧ x.cur = c.cur
    let plain := s.anyRun = false ∧ s.on 0x032 R.TRC_CTRL_EN = false ∧ ∀ g, g < 8 → s.on 0x031 R.PEL_CFG_TRIG_ANY g = false
    (bit data.toNat 1 = false → bit data.toNat 2 = false → steady 0 → alone →
      (c.run = .issuing → c.wait = none →
        (bit data.toNat 3 = true → ∃ t, exec (.cogHalt i data) s = .next t ∧ (t.cog i).mon9 = true ∧ (t.cog i).run = .issuing ∧ kept (t.cog i) ∧ t.mem = s.mem ∧ t.tb = s.tb) ∧
        (bit data.toNat 3 = false → c.haltReady s.tb = false →
          ∃ t, exec (.cogHalt i data) s = .next t ∧ (t.cog i).haltReq = some ⟨1, 0⟩ ∧ (t.cog i).run = .issuing ∧ kept (t.cog i) ∧ t.mem = s.mem ∧ t.tb = s.tb) ∧
        (bit data.toNat 3 = false → c.haltReady s.tb = true → c.loads = [] →
          ∃ t, exec (.cogHalt i data) s = .next t ∧ (t.cog i).run = .halted ∧ (t.cog i).haltInfo = ⟨1, 0⟩ ∧ (t.cog i).haltReq = none ∧ kept (t.cog i) ∧ t.mem = s.mem ∧ t.tb = s.tb ∧
            (plain → ∀ j, j ≠ i.val → t.cog j = s.cog j))) ∧
      (c.run = .halted → exec (.cogHalt i data) s = .next (w 0).brakeIfHalt)) ∧
    (∀ step : Bool,
      let k := if step then 2 else 1
      let cmd : Instr := if step then .cogStep i data else .cogResume i data
      bit data.toNat 0 = false → bit data.toNat (3 - k) = false → steady k →
      (c.run ≠ .halted ∨ c.lockup = true → exec cmd s = .next (w k).brakeIfHalt) ∧
      (c.run = .halted → c.lockup = false → c.cur = none ∨ c.todo ≠ [] →
        ∃ t, exec cmd s = .next t ∧ (t.cog i).run = .issuing ∧ (t.cog i).stepOne = step ∧ (t.cog i).haltReq = none ∧ kept (t.cog i) ∧
          (t.cog i).brkSkip = (if (step = true ∨ c.haltInfo.cause = 3) ∧ c.atBoundary = true then some c.pc else none) ∧ t.mem = s.mem ∧
          (plain → ∀ j, j ≠ i.val → t.cog j = s.cog j))) ∧
    (let dst := dstOf (s.rd p R.COG_DBG_PORT_CODE)
     let placed := s.on p R.COG_DBG_PORT_DST = true ∧ c.run = .halted
     let v := data.toNat + c.dbgHi * 2 ^ 32
     (∀ (n : Nat) (z : Width), placed → dst = some (.g n) → s.dbgWidth i = some z → n % z.align = 0 → exec (.dbgValWrite i data) s = .next (s.setCog i (c.setGroup n z v))) ∧
     (∀ (q : Port) (z : Width), placed → dst = some (.port q) → s.dbgWidth i = some z →
       exec (.dbgValWrite i data) s = .next (s.setCog i (c.writePort q z (v % 2 ^ z.bits)))) ∧
     (¬ placed ∨ s.dbgWidth i = none ∨ (∀ n, dst ≠ some (.g n)) ∧ (∀ q, dst ≠ some (.port q)) ∨ (∃ n z, dst = some (.g n) ∧ s.dbgWidth i = some z ∧ n % z.align ≠ 0) →
       exec (.dbgValWrite i data) s = .next s)) ∧
    (c.run = .halted → exec (.dbgValHiWrite i data) s = .next (s.setCog i { c with dbgHi := data.toNat % 1024 })) ∧
    (c.run ≠ .halted → exec (.dbgValHiWrite i data) s = .next s) ∧
    (let src := srcOf (s.rd p R.COG_DBG_PORT_CODE)
     let sampled := s.on p R.COG_DBG_PORT_DST = false ∧ c.run = .halted
     let reads := fun (v : Nat) => ∃ t, exec (.dbgValRead i) s = .next t ∧ t.out = .regRead (p * 4096 + 0xBC) (BitVec.ofNat 32 v) :: s.out ∧
       t.rd p R.COG_DBG_VAL_HI_VALUE = v / 2 ^ 32 % 1024 ∧ t.cogs = s.cogs ∧ t.mem = s.mem ∧ t.tb = s.tb
     (∀ (n : Nat) (z : Width), sampled → src = some (.g n) → s.dbgWidth i = some z → n % z.align = 0 → reads (c.gGroup n z)) ∧
     (∀ (q : Port) (z : Width), sampled → src = some (.port q) → s.dbgWidth i = some z → reads (c.portValue q % 2 ^ z.bits)) ∧
     (¬ sampled ∨ s.dbgSource i = none → exec (.dbgValRead i) s = .next { s with out := .regRead (p * 4096 + 0xBC) 0 :: s.out }))) ∧
  (∀ (g : Fin 8) (data : Reg) (s : State), s.hostReaches = true → s.domOn 2 = true →
    (bit data.toNat 9 = false → (s.pel g).triggered = false →
      ∃ t, exec (.pelotonGo g data) s = .next t ∧ (t.pel g).triggered = true ∧ t.mem = s.mem ∧
        ∀ i ∈ s.pelMembers g, (t.cog i).run ≠ .issuing ∨ (t.cog i).haltReq ≠ none ∨ (t.cog i).mon9 = true) ∧
    (bit data.toNat 9 = false → (s.pel g).triggered = true →
      ∃ t, exec (.pelotonGo g data) s = .next t ∧ (t.pel g).triggered = true ∧ t.rd 0x031 R.PEL_T_STAMP g = s.rd 0x031 R.PEL_T_STAMP g ∧ t.mem = s.mem) ∧
    (bit data.toNat 8 = false → risingFrom 0 s.pels = true → (∀ i ∈ s.pelMembers g, (s.cog i).cur = none ∨ (s.cog i).todo ≠ []) →
      ∃ t, exec (.pelotonResume g data) s = .next t ∧ (t.pel g).triggered = false ∧ t.mem = s.mem ∧
        ∀ i ∈ s.pelMembers g, (s.cog i).run = .halted → (s.cog i).lockup = false → (t.cog i).run = .issuing)) ∧
  (∀ (data : Reg) (s : State), s.hostReaches = true → s.domOn 2 = true →
    (bit data.toNat 0 = true → exec (.trcPop data) s = .next { s with trace := s.trace.tail }) ∧ (bit data.toNat 0 = false → exec (.trcPop data) s = .next s))

/-- The debug access units and their ports (R486 to R489, R492, R496). -/
def Obligations.DebugPortsTransferByTheirLevel : Prop :=
  ∀ s : State,
    let x := s.dau 1
    let only := fun (j : Nat) (t : State) => t.regs = s.regs ∧ t.mem = s.mem ∧ t.cogs = s.cogs ∧ t.tb = s.tb ∧ t.dau (1 - j) = s.dau (1 - j)
    let refused := fun (t : State) => (t.dau 1).err = true ∧ t.out = .twoWire 0 none :: s.out ∧ (t.dau 1).addr = x.addr ∧ only 1 t
    let reads := fun (a : Fin 16) (v : Nat) => ∃ t, exec (.twoWireRead a) s = .next t ∧ t.out = .twoWire 1 (some v) :: s.out ∧ (t.dau 1).addr = x.addr ∧ only 1 t
    reads 0 0x48530100 ∧ reads 2 (s.dauLevel 1 + 4 * b2n x.err + 8 * b2n x.ue) ∧ reads 10 x.idx ∧ reads 13 (s.otp 3) ∧ reads 14 (s.otp 4) ∧ reads 15 s.lifecycle ∧
    (∀ a : Fin 16, (s.dauLevel 1 < 1 ∧ (a.val = 1 ∨ a.val = 3 ∨ a.val = 4)) ∨ a.val = 5 ∨ a.val = 6 ∨ a.val = 7 →
      (∃ t, exec (.twoWireRead a) s = .next t ∧ refused t) ∧ (∃ t, exec (.twoWireReadIncrement a) s = .next t ∧ refused t) ∧
      ∀ (d : Reg) (r : PmbReply), (∃ t, exec (.twoWireWrite a d true r) s = .next t ∧ refused t) ∧ ∃ t, exec (.twoWireWriteIncrement a d true r) s = .next t ∧ refused t) ∧
    (1 ≤ s.dauLevel 1 → ∀ (d : Reg) (r : PmbReply),
      (∃ t, exec (.twoWireWrite 3 d true r) s = .next t ∧ (t.dau 1).addr = d.toNat / 4 * 4 ∧ t.out = .twoWire 1 none :: s.out ∧ only 1 t) ∧
      (∃ t, exec (.twoWireWriteIncrement 3 d true r) s = .next t ∧ (t.dau 1).addr = (d.toNat / 4 * 4 + 4) % 2 ^ 32 ∧ t.out = .twoWire 1 none :: s.out ∧ only 1 t) ∧
      (∃ t, exec (.twoWireReadIncrement 3) s = .next t ∧ t.out = .twoWire 1 (some x.addr) :: s.out ∧ (t.dau 1).addr = (x.addr + 4) % 2 ^ 32 ∧ only 1 t)) ∧
    (∀ (a : Fin 16) (d : Reg) (r : PmbReply),
      let after := fun (t : State) => t.setDau 1 { t.dau 1 with addr := ((t.dau 1).addr + 4) % 2 ^ 32 }
      let shown : State := { s.setDau 1 { x with err := true } with out := .twoWire (b2n (s.dauTakes 1 a)) none :: s.out }
      exec (.twoWireWrite a d false r) s = .next shown ∧ exec (.twoWireWriteIncrement a d false r) s = .next shown ∧
      (∀ t, exec (.twoWireRead a) s = .next t → ∃ u, exec (.twoWireReadIncrement a) s = .next u ∧ (t.out.head? ≠ some (.twoWire 0 none) → u = after t)) ∧
      ∀ t, exec (.twoWireWrite a d true r) s = .next t → ∃ u, exec (.twoWireWriteIncrement a d true r) s = .next u ∧ (t.out.head? ≠ some (.twoWire 0 none) → u = after t)) ∧
    exec .lineReset s = .next s ∧
    (∀ (j : Fin 2) (r : PmbReply),
      let y := s.dau j
      let returned := fun (t : State) (v : Nat) => only j t ∧ (j.val = 0 → (t.dau 0).lastAck = 1 ∧ (t.dau 0).lastData = v) ∧ (j.val = 1 → t.out = .twoWire 1 (some v) :: s.out)
      let q := fun (d : Reg) => if y.space then ((List.range 4).all fun k => !s.bar2Drops (y.addr + k), s.bar2Put ((leBytes 4 d.toNat).zipIdx.map fun b => (y.addr + b.2, b.1)))
        else s.busWrite y.addr d.toNat r (some j)
      ((if y.attach then 2 else 1) ≤ s.dauLevel j → y.consume = false →
        (y.space = false → ∃ t, exec (.daDataAccess j none r) s = .next t ∧ returned t (s.busRead y.addr false).2.1 ∧ (t.dau j).err = !(s.busRead y.addr false).1 ∧ (t.dau j).ue = false) ∧
        (y.space = false → pageKind (pageBase (y.addr / 4 * 4) / 4096) ∉ [.ev, .cog] → s.pageOn (pageBase (y.addr / 4 * 4) / 4096) = true → registerPlace (y.addr / 4 * 4) = true →
          ∃ t, exec (.daDataAccess j none r) s = .next t ∧ returned t (s.shown (y.addr / 4 * 4)) ∧ (t.dau j).err = false) ∧
        (y.space = true → ∃ t, exec (.daDataAccess j none r) s = .next t ∧ returned t (leNat (s.bar2Get y.addr 4).1) ∧ (t.dau j).err = false ∧ (t.dau j).ue = s.peekBad y.addr)) ∧
      (s.dauLevel j < 2 ∨ (s.dauLevel j < 3 ∧ y.space = false ∧ y.addr = 0x30044) → ∀ d : Reg, ∃ t, exec (.daDataAccess j (some d) r) s = .next t ∧ only j t ∧ (t.dau j).err = true ∧
        (j.val = 0 → (t.dau 0).lastAck = 0) ∧ (j.val = 1 → t.out = .twoWire 0 none :: s.out)) ∧
      (2 ≤ s.dauLevel j → (y.space = false → y.addr = 0x30044 → 3 ≤ s.dauLevel j) → ∀ d : Reg, ∃ t, exec (.daDataAccess j (some d) r) s = .next t ∧
        (t.dau j).err = !(q d).1 ∧ (t.dau j).ue = false ∧ t.regs = (q d).2.regs ∧ t.mem = (q d).2.mem ∧ t.cogs = (q d).2.cogs ∧ t.doms = (q d).2.doms) ∧
      (2 ≤ s.dauLevel j → y.space = false → registerPlace (y.addr / 4 * 4) = false → ∀ d : Reg, ∃ t, exec (.daDataAccess j (some d) r) s = .next t ∧ only j t ∧ (t.dau j).err = true) ∧
      (2 ≤ s.dauLevel j → ∀ (d : Reg) (a : BitVec 29), y.space = true → y.addr = a.toNat → s.windowOn (windowOf a.toNat) = false → s.boot = .done →
        ∃ t, exec (.daDataAccess j (some d) r) s = .next t ∧ (∀ b, b < a.toNat ∨ a.toNat + 4 ≤ b → s.Ok → t.byte b = s.byte b) ∧ (t.dau j).err = true)) ∧
    (let selects := fun (cmd : Instr) (ir : Nat) => ∃ t, exec cmd s = .next t ∧ (t.dau 0).ir = ir ∧ t.mem = s.mem ∧ t.cogs = s.cogs ∧ t.tb = s.tb ∧ t.dau 1 = s.dau 1 ∧
       ((s.dau 0).ir ≠ 0 → ir ≠ 0 → t.regs = s.regs ∧ t.pins = s.pins)
     selects .idcode 1 ∧ selects .bypass 0x1F ∧ selects .trst 1 ∧ (∃ t, exec .idcode s = .next t ∧ t.out.head? = some (.tdo (s.otp 5))) ∧
     (∀ cells, (s.dauLevel 0 < 3 → selects (.extest cells) 0x1F ∧ ∃ t, exec (.extest cells) s = .next t ∧ t.boundary = s.boundary) ∧
       (s.dauLevel 0 = 3 → selects (.extest cells) 0 ∧ ∃ t, exec (.extest cells) s = .next t ∧ t.boundary = cellsOf cells) ∧
       selects (.samplePreload cells) 2 ∧ ∃ (t : State) (ls : _), exec (.samplePreload cells) s = .next t ∧ t.boundary = cellsOf cells ∧ t.out.head? = some (.boundary ls) ∧ ls.length = 96) ∧
     ∀ (r : PmbReply) (d : Reg), selects (.dau 0 0 d r) 8 ∧
       (∃ t, exec (.dau 0 0 d r) s = .next t ∧ (t.dau 0).lastAck = 1 ∧ (t.dau 0).lastData = 0x48530100 ∧ t.out.head? = some (.tdo ((s.dau 0).lastAck + 4 * (s.dau 0).lastData))) ∧
       ∀ (op : BitVec 3) (a : Fin 16), 4 ≤ op.toNat → selects (.dau op a d r) 8 ∧ ∃ t, exec (.dau op a d r) s = .next t ∧ (t.dau 0).lastAck = 0 ∧ (t.dau 0).err = true) ∧
    (∀ j : Fin 2,
      let y := s.dau j
      let alone := s.benchBy = some j.val → s.dauLevel j = 3
      let other := (s.dau (1 - j.val)).attach = true ∧ 2 ≤ s.dauLevel (1 - j.val)
      (2 ≤ s.dauLevel j → alone → ∃ t, exec (.attachWrite j true) s = .next t ∧ (t.dau j).attach = true ∧ (t.dau j).err = false ∧ t.on 0x030 R.DBG_STAT_ATTACH = true ∧ t.doms = s.doms ∧ t.mem = s.mem) ∧
      (2 ≤ s.dauLevel j ∨ (1 ≤ s.dauLevel j ∧ y.consume = false) → alone → (∀ d x, (d, x) ∈ s.doms → x.emu = none) →
        ∃ t, exec (.attachWrite j false) s = .next t ∧ (t.dau j).attach = false ∧ (t.dau j).err = false ∧ t.on 0x030 R.DBG_STAT_ATTACH = decide other ∧ t.doms = s.doms ∧ t.mem = s.mem) ∧
      (∀ b : Bool, s.dauLevel j < 1 ∨ (s.dauLevel j < 2 ∧ (b = true ∨ y.consume = true)) → ∃ t, exec (.attachWrite j b) s = .next t ∧ (t.dau j).err = true ∧ (t.dau j).attach = y.attach ∧ only j t)) ∧
    (∀ (j : Fin 2) (en : Bool),
      let shows := fun (a : Nat) (t : State) => (j.val = 0 → (t.dau 0).lastAck = a ∧ (t.dau 0).lastData = 0) ∧ (j.val = 1 → t.out.head? = some (.twoWire a none))
      let quiet := (List.range 8).all fun p => decide (s.chnState p ≤ chSilent ∨ s.chnState p = chSafe)
      let completes := fun (a : Nat) (err : Bool) (post : State → Prop) => ∃ t, exec (.benchWrite j en) s = .next t ∧ shows a t ∧ (t.dau j).err = err ∧ t.mem = s.mem ∧ post t
      (s.dauLevel j < 3 → completes 0 true (only j)) ∧
      (s.dauLevel j = 3 → s.domOn 2 = false → completes 1 true fun t => t.benchBy = s.benchBy) ∧
      (s.dauLevel j = 3 → s.domOn 2 = true →
        (en = true → quiet = true → completes 1 false fun t => t.on 0x030 R.DBG_BENCH_EN = true ∧ t.benchBy = some j.val) ∧
        (en = true → quiet = false → completes 1 false fun t => t.on 0x030 R.DBG_BENCH_EN = s.on 0x030 R.DBG_BENCH_EN ∧ t.on 0x030 R.DBG_BENCH_REFUSE = true ∧ t.benchBy = s.benchBy) ∧
        (en = false → s.on 0x030 R.DBG_BENCH_EN = true → completes 1 false fun t => t.on 0x030 R.DBG_BENCH_EN = false ∧ t.benchBy = none) ∧
        (en = false → s.on 0x030 R.DBG_BENCH_EN = false → completes 1 false (only j))))

/-- Authorisation (R509 to R511). -/
def Obligations.ChallengesGrantAndDropLevels : Prop :=
  ∀ (j : Fin 2) (s : State),
    let x := s.dau j
    (∀ data : Reg, x.drawing = false → x.checking = false → bit data.toNat 1 = false → bit data.toNat 2 = false →
      let y := { x with level := bits data.toNat 4 2, key := bits data.toNat 6 1 }
      (x.lockUntil ≤ s.tb → ∃ t, exec (.auReq j data) s = .next t ∧ (t.dau j).drawing = true ∧ (t.dau j).nonce = none ∧ (t.dau j).fail = false ∧ (t.dau j).level = y.level ∧
        (t.dau j).granted = x.granted ∧ t.regs = s.regs ∧ t.mem = s.mem) ∧
      (s.tb < x.lockUntil → ∃ t, exec (.auReq j data) s = .next t ∧ (t.dau j).fail = true ∧ (t.dau j).cause = 5 ∧ (t.dau j).drawing = false ∧ (t.dau j).granted = x.granted ∧
        t.regs = s.regs ∧ t.mem = s.mem)) ∧
    (∀ data : Reg, x.drawing = false → x.checking = false → bit data.toNat 0 = false → bit data.toNat 2 = false →
      (∀ n, x.nonce = some n → ∃ t, exec (.auChk j data) s = .next t ∧ (t.dau j).checking = true ∧ (t.dau j).nonce = some n ∧ (t.dau j).granted = x.granted ∧ t.mem = s.mem) ∧
      (x.nonce = none → ∃ t, exec (.auChk j data) s = .next t ∧ (t.dau j).checking = false ∧ (t.dau j).fail = true ∧ (t.dau j).cause = 1 ∧ t.mem = s.mem)) ∧
    (∀ data : Reg, x.drawing = true ∨ x.checking = true → bit data.toNat 2 = false → ∀ cmd ∈ [Instr.auReq j data, .auChk j data],
      ∃ t, exec cmd s = .next t ∧ (t.dau j).level = x.level ∧ (t.dau j).key = x.key ∧ (t.dau j).drawing = x.drawing ∧ (t.dau j).checking = x.checking ∧
        (t.dau j).nonce = x.nonce ∧ (t.dau j).granted = x.granted ∧ t.dau (1 - j.val) = s.dau (1 - j.val) ∧ t.regs = s.regs ∧ t.mem = s.mem) ∧
    (∀ ws : List Reg,
      (x.drawing = true → ws.length = 8 → exec (.nonceReady j ws) s = .next (s.setDau j { x with drawing := false, nonce := some (ws.map (·.toNat)) })) ∧
      (x.drawing = true → ∃ t n, exec (.nonceReady j ws) s = .next t ∧ (t.dau j).nonce = some n ∧ n.length = 8 ∧ (t.dau j).drawing = false ∧ t.mem = s.mem) ∧
      (x.drawing = false → exec (.nonceReady j ws) s = .next s)) ∧
    (x.checking = false → exec (.authCheckDone j) s = .next s) ∧
    (∀ n, x.checking = true → x.nonce = some n →
      (s.auCause x n ≠ 0 → exec (.authCheckDone j) s = .next (s.setDau j { x with
        checking := false, nonce := none, fail := true, cause := s.auCause x n, lockUntil := s.tb + 1000000000 })) ∧
      (s.auCause x n = 0 → ∃ t, exec (.authCheckDone j) s = .next t ∧ t.dauLevel j = (if s.lifecycle = 3 then 0 else x.level) ∧ (t.dau j).nonce = none ∧
        (t.dau j).checking = false ∧ t.dau (1 - j.val) = s.dau (1 - j.val) ∧ t.mem = s.mem)) ∧
    (∀ data : Reg, bit data.toNat 0 = false → bit data.toNat 1 = false →
      ∃ t, exec (.auDrop j data) s = .next t ∧ t.dauLevel j = 0 ∧ (t.dau j).attach = false ∧ t.dau (1 - j.val) = s.dau (1 - j.val) ∧ t.mem = s.mem)

/-- The resets (R503, R504, R509, R512, R513, R526) and the PCIe link (R363, R379, R523). That the two power commands carry TIMEREF and the
rails is DEDUCED (log entry 3); that PCIE_LINK_UP, DOMAIN_ENTRY and DESCRIPTOR_FETCH carry what the host has written to the configuration
space is the model's choice (log entry 101). -/
def Obligations.ResetsKeepWhatTheyKeep : Prop :=
  let mram := fun (a : Nat) => (0x2000000 ≤ a ∧ a < 0x2800000) ∨ (0x4000000 ≤ a ∧ a < 0x5000000)
  let bare := fun (s t : State) (cause : Nat) => t.rd 0x000 R.SYS_RST_CAUSE = cause ∧ (∀ i, t.cog i = {}) ∧ (∀ a, ¬ mram a → t.byte a = 0) ∧ t.elog = [] ∧ t.pending = s.pending
  let left := fun (s t : State) (cause : Nat) => bare s t cause ∧ (∀ w, w < 64 → t.otp w = s.otp w) ∧ (∀ a, mram a → t.byte a = s.byte a) ∧ t.boot = .start
  (∀ (s : State) (ref : Bool) (rails : BitVec 3),
    let up := fun (t : State) => bare s t 1 ∧ t.tb = 0 ∧ t.on 0x070 R.TB_STAT_HOLD = !ref ∧ t.on 0x070 R.TB_STAT_REF_OK = ref ∧
      (rails = 0 → t.boot = .start) ∧ (rails ≠ 0 → t.boot = .held ∧ t.domOn 2 = false) ∧
      (s.blow = none → ∀ w, w < 64 → t.otp w = s.otp w) ∧
      (∀ w v, s.blow = some (w, v) → w < 64 → v < 2 ^ 32 → (∀ k, k < 64 → k ≠ w → t.otp k = s.otp k) ∧
        (w ≠ 6 → ∃ r, t.otp w = Nat.lor (s.otp w) (Nat.land v r)) ∧ (w = 6 → lifecycleCuts (s.otp 6) v ≠ [] → t.otp 6 ∈ lifecycleCuts (s.otp 6) v))
    let done := s.mramWrite s.mramWait
    (∃ t, exec (.powerOnReset ref rails) s = .next t ∧ up t ∧ ∀ a, mram a → t.byte a = done.byte a) ∧
    (∃ t, exec (.powerLoss ref rails) s = .next t ∧ up t ∧ ∀ a, mram a → t.byte a = s.byte a ∨ t.byte a = done.byte a) ∧
    (s.mramWait = [] → done = s)) ∧
  (∀ (s : State) (data : Reg), s.hostReaches = true → s.domOn 2 = true →
    (bit data.toNat 8 = true → data.toNat % 256 = 0xD5 → s.blow = none → ∃ t, exec (.deviceReset data) s = .next t ∧ left s t 2 ∧ t.tb = s.tb) ∧
    (bit data.toNat 8 = true → data.toNat % 256 = 0xD5 → s.blow ≠ none → exec (.deviceReset data) s = .next { s with resetWaits := some 2 }) ∧
    (bit data.toNat 8 = false ∨ data.toNat % 256 ≠ 0xD5 → exec (.deviceReset data) s = .next s)) ∧
  (∀ s : State,
    (bit (s.otp 7) 2 = true → s.blow = none → ∃ t, exec .perst s = .next t ∧ left s t 3 ∧ t.tb = s.tb) ∧
    (bit (s.otp 7) 2 = true → s.blow ≠ none → exec .perst s = .next { s with resetWaits := some 3 }) ∧
    (bit (s.otp 7) 2 = false → ∃ t, exec .perst s = .next t ∧ (∀ v, v < 64 → t.msixWord v 0 = 0 ∧ t.msixWord v 1 = 0 ∧ t.msixWord v 2 = 0 ∧ t.msixWord v 3 = 1) ∧
      t.rd 0x120 R.PCIE_STAT_SPEED = 0 ∧ t.rd 0x120 R.PCIE_STAT_WIDTH = 0 ∧ t.perst = true ∧ t.pcie = {} ∧ t.aer = 0 ∧ t.cogs = s.cogs ∧ t.mem = s.mem ∧ t.tb = s.tb)) ∧
  (∀ s : State,
    (∃ t, exec .pcieLinkDown s = .next t ∧ t.rd 0x120 R.PCIE_STAT_LINKDN = min (s.rd 0x120 R.PCIE_STAT_LINKDN + 1) (2 ^ R.PCIE_STAT_LINKDN.w - 1) ∧
      t.rd 0x120 R.PCIE_STAT_SPEED = 0 ∧ t.rd 0x120 R.PCIE_STAT_WIDTH = 0 ∧ t.rd 0x120 R.PCIE_STAT_L1 = 0 ∧ t.cogs = s.cogs ∧ t.mem = s.mem ∧ t.tb = s.tb) ∧
    (∀ (v : BitVec 2) (w : BitVec 3) (l1 : Bool) (k : PcieConf) (ac : BitVec 32),
      (s.boot = .held ∨ s.boot = .start → exec (.pcieLinkUp v w l1 k ac) s = .next s) ∧
      (s.boot ≠ .held → s.boot ≠ .start → ∃ t, exec (.pcieLinkUp v w l1 k ac) s = .next t ∧ t.perst = false ∧ t.pcie = k ∧ t.aer = s.aer &&& ~~~ac ∧
        t.on 0x120 R.PCIE_STAT_L1 = ((l1 && k.aspmL1) || k.d3hot) ∧ t.rd 0x120 R.PCIE_STAT_SPEED = v.toNat ∧ t.rd 0x120 R.PCIE_STAT_WIDTH = w.toNat ∧
        t.rd 0x120 R.PCIE_STAT_LINKDN = s.rd 0x120 R.PCIE_STAT_LINKDN ∧ t.cogs = s.cogs ∧ t.mem = s.mem ∧ t.tb = s.tb)) ∧
    (∀ k : PcieConf, let t := s.confWritten (some k)
      (∀ d, exec (.domainEntry d (some k)) s = exec (.domainEntry d) t) ∧ (∀ c, exec (.descriptorFetch c (some k)) s = exec (.descriptorFetch c) t) ∧
      (s.perst = true → t = s) ∧
      (s.perst = false → t.perst = false ∧ t.pcie = k ∧ t.on 0x120 R.PCIE_STAT_L1 = k.d3hot ∧ t.rd 0x120 R.PCIE_STAT_SPEED = s.rd 0x120 R.PCIE_STAT_SPEED ∧
        t.rd 0x120 R.PCIE_STAT_WIDTH = s.rd 0x120 R.PCIE_STAT_WIDTH ∧ t.cogs = s.cogs ∧ t.mem = s.mem ∧ t.tb = s.tb)))

/-- Register writes (R9, R12, R363, R364, R440, R504, R527), page soft reset and enable (R441, R530), and injection (R473). -/
def Obligations.RegisterAndPageWritesAct : Prop :=
  (∀ (s : State) (a : BitVec 26) (data : Reg) (be : BitVec 4) (mode : PmbReply) (poisoned malformed : Bool) (page : Fin 0x410) (bus : PmbReply),
    ∀ cmd ∈ [Instr.registerWrite a data be poisoned mode malformed, .pageSoftReset page data, .pgCtrlEnable page data, .deviceReset data, .otpBlow data, .sysBootGo, .elogPop] ++
      (if (pageKind page).hasHeader then [Instr.pgInjWrite page data bus] else []),
    (s.perst = true → exec cmd s = .next s) ∧
    (s.perst = false → s.hostReaches = false → exec cmd s = .next { s with aer := s.aer ||| 0x100000 })) ∧
  (∀ (a : BitVec 26) (data : Reg) (be : BitVec 4) (mode : PmbReply) (poisoned : Bool) (s : State), s.hostReaches = true →
    exec (.registerWrite a data be poisoned mode true) s = .next { s with aer := s.aer ||| 0x40000 } ∧
    (registerPlace a.toNat = false → exec (.registerWrite a data be poisoned mode) s = .next s) ∧
    (registerPlace a.toNat = true → exec (.registerWrite a data be true mode) s = .next (({ s with aer := s.aer ||| 0x1000 } : State).logErr a.toNat 4)) ∧
    (registerPlace a.toNat = true → be ≠ 15 → exec (.registerWrite a data be false mode) s = .next (s.logErr a.toNat 3)) ∧
    (registerPlace a.toNat = true → a.toNat < 0x410000 → a.toNat % 4096 / 4 ∈ [0, 1, 3] → exec (.registerWrite a data 15 false mode) s = .next s) ∧
    (registerPlace a.toNat = true → a.toNat < 0x410000 → 0x10 ≤ a.toNat % 4096 → pageKind (a.toNat / 4096) ≠ .vis → s.pageOn (a.toNat / 4096) = false →
      exec (.registerWrite a data 15 false mode) s = .next (s.logErr (a.toNat / 4096) 1)) ∧
    (∀ m : Fin 16, a.toNat = 0x120080 + 16 * m → s.domOn 2 = true →
      ∃ t, exec (.registerWrite a data 15 false mode) s = .next t ∧ t.rd 0x120 R.MBX_CH_CHAN m = data.toNat % 4096 ∧ t.rd 0x120 R.MBX_CH_EN m = data.toNat / 2 ^ 31 ∧
        (∀ b, b ≠ a.toNat → t.reg b = s.reg b) ∧ t.mem = s.mem ∧ t.cogs = s.cogs ∧ t.tb = s.tb)) ∧
  (∀ (page : Fin 0x410) (data : Reg) (s : State), s.hostReaches = true → (pageKind page).hasHeader = true → page.val ≠ 0x07F →
    (homePage (pageDom page) = some page.val → bits data.toNat 4 2 = 3) →
    let p := page.val
    let cog := p - 0x300
    let others := fun (t : State) => (pageKind p ≠ .cog → t.cogs = s.cogs) ∧ (pageKind p = .cog → ∀ j, j ≠ cog → t.cog j = s.cog j) ∧ t.mem = s.mem ∧ t.tb = s.tb
    let resets := fun (t : State) (pend : Bool) => t.on p R.PG_CTRL_SRST = true ∧ t.on p R.PG_STAT_BUSY = true ∧ t.on p R.PG_CTRL_EN = false ∧
      t.on p R.PG_STAT_EN_PENDING = pend ∧ others t ∧ (pageKind p = .cog → (t.cog cog).run = .held ∧ (t.cog cog).cur = none ∧ (t.cog cog).todo = []) ∧
      (p = 0x120 → (∀ m, m < 16 → t.reg (R.MBX_CH_CHAN.addr p m) = s.reg (R.MBX_CH_CHAN.addr p m) ∧ t.rd p R.MBX_SEND_REFUSED m = 0) ∧
        t.rd p R.MBX_LAST_LO_STAMP = 0 ∧ t.rd p R.MBX_LAST_HI_STAMP = 0)
    (s.pageOn page = true → ∃ t, exec (.pageSoftReset page data) s = .next t ∧ resets t (bit data.toNat 0)) ∧
    (s.pageOn page = true → bit data.toNat 2 = true → ∃ t, exec (.pgCtrlEnable page data) s = .next t ∧ resets t true) ∧
    (s.pageOn page = true → bit data.toNat 2 = false → s.enableHeld p = false →
      ∃ t, exec (.pgCtrlEnable page data) s = .next t ∧ t.on p R.PG_CTRL_EN = true ∧ t.on p R.PG_STAT_STALE = false ∧ t.on p R.PG_STAT_EN_PENDING = false ∧
        t.on p R.PG_CTRL_FRZ = bit data.toNat 1 ∧ others t) ∧
    (s.pageOn page = true → bit data.toNat 2 = false → s.on p R.PG_STAT_BUSY = true ∨ s.on p R.PG_CTRL_SRST = true ∨ s.repairHolds p = true →
      ∃ t, exec (.pgCtrlEnable page data) s = .next t ∧ t.on p R.PG_CTRL_EN = s.on p R.PG_CTRL_EN ∧ t.on p R.PG_STAT_EN_PENDING = true ∧ t.cogs = s.cogs ∧ t.mem = s.mem ∧ t.tb = s.tb) ∧
    (s.pageOn page = false → ∀ cmd ∈ [Instr.pageSoftReset page data, .pgCtrlEnable page data],
      ∃ t, exec cmd s = .next t ∧ t.on p R.PG_CTRL_EN = s.on p R.PG_CTRL_EN ∧ t.on p R.PG_CTRL_SRST = s.on p R.PG_CTRL_SRST ∧ t.on p R.PG_CTRL_FRZ = bit data.toNat 1 ∧
        t.cogs = s.cogs ∧ t.mem = s.mem ∧ t.tb = s.tb)) ∧
  (∀ (page : Fin 0x410) (data : Reg) (bus : PmbReply) (s : State), (pageKind page).hasHeader = false →
    exec (.pgInjWrite page data bus) s = .next s ∧ (s.hostReaches = true → exec (.pageSoftReset page data) s = .next s ∧ exec (.pgCtrlEnable page data) s = .next s)) ∧
  (∀ (page : Fin 0x410) (s : State),
    let p := page.val
    let c := s.cog (p - 0x300)
    let resetting := s.on p R.PG_CTRL_SRST = true
    let drained := c.disabling = true → c.run = .held ∧ c.long = [] ∧ c.sbuf = [] ∧ c.loadsDone = true
    (s.on p R.PG_STAT_BUSY = false ∨ s.pageOn page = false → exec (.pageDrainDone page) s = .next s) ∧
    (s.on p R.PG_STAT_BUSY = true → s.pageOn page = true → (pageKind p = .cog → resetting ∨ drained) → s.repairHolds p = false →
      ∃ t, exec (.pageDrainDone page) s = .next t ∧ t.on p R.PG_STAT_BUSY = false ∧ t.on p R.PG_CTRL_SRST = false ∧
        (s.on p R.PG_STAT_EN_PENDING = true → t.on p R.PG_CTRL_EN = true ∧ t.on p R.PG_STAT_EN_PENDING = false) ∧
        (s.on p R.PG_STAT_EN_PENDING = false → t.on p R.PG_CTRL_EN = s.on p R.PG_CTRL_EN) ∧ (pageKind p ≠ .cog → t.cogs = s.cogs) ∧ t.mem = s.mem ∧ t.tb = s.tb) ∧
    (s.on p R.PG_STAT_BUSY = true → pageKind p = .cog → ¬ resetting → ¬ drained → exec (.pageDrainDone page) s = .next s)) ∧
  (∀ (page : Fin 0x410) (data : Reg) (bus : PmbReply) (s : State), s.hostReaches = true → (pageKind page).hasHeader = true →
    (s.pageOn page = false → exec (.pgInjWrite page data bus) s = .next (s.logErr page 1)) ∧
    (s.pageOn page = true → ∃ t, exec (.pgInjWrite page data bus) s = .next t ∧ t.mem = s.mem ∧ t.tb = s.tb) ∧
    (s.pageOn page = true → (∀ t b, State.injectNow t page b bus = none) →
      exec (.pgInjWrite page data bus) s = .next (s.wr page R.PG_INJ_INJ (Nat.lor (s.rd page R.PG_INJ_INJ) (Nat.land data.toNat (injBits page)))))) ∧
  (∀ s : State, s.hostReaches = true → s.domOn 2 = true → s.elog.length < 16 →
    ∃ t, exec (.pgInjWrite 0x000 1) s = .next t ∧ t.elog = s.elog ++ [⟨0, 7, s.now⟩] ∧ t.injArmed 0x000 0 = false ∧ t.mem = s.mem)

/-- The boot engine (R506 to R509), OTP programming (R512, R513) and the error log (R514). -/
def Obligations.BootOtpAndErrorLogAct : Prop :=
  (∀ s : State,
    let failed := fun (t : State) (cause : Nat) => t.rd 0x000 R.SYS_BOOT_CAUSE = cause ∧ t.rd 0x000 R.SYS_BOOT_STATE = (if bit (s.otp 7) 1 ∧ s.lifecycle < 2 then 5 else 4) ∧
      t.boot = (if bit (s.otp 7) 1 ∧ s.lifecycle < 2 then .host else .done) ∧ t.cogs = s.cogs ∧ t.mem = s.mem
    (s.boot = .start → bit (s.otp 7) 0 = false → ∃ t, exec .boot s = .next t ∧ t.boot = .check ∧ t.rd 0x000 R.SYS_BOOT_STATE = 1 ∧ t.mem = s.mem ∧ t.tb = s.tb) ∧
    (s.boot = .start → bit (s.otp 7) 0 = true → ∃ t, exec .boot s = .next t ∧ t.boot = .host ∧ t.rd 0x000 R.SYS_BOOT_STATE = 5 ∧ t.mem = s.mem ∧ t.tb = s.tb) ∧
    (s.boot = .held ∨ s.boot = .host ∨ s.boot = .done → exec .boot s = .next s) ∧
    (s.hostReaches = true → s.domOn 2 = true → s.boot = .host → exec .sysBootGo s = .next { s.wr 0x000 R.SYS_BOOT_STATE 1 with boot := .check }) ∧
    (s.hostReaches = true → s.domOn 2 = true → s.boot ≠ .host → exec .sysBootGo s = .next s) ∧
    (s.boot = .check → s.changing 8 = true → exec .boot s = .next s) ∧
    (s.boot = .check → s.changing 8 = false →
      (s.lifecycle = 3 → ∃ t, exec .boot s = .next t ∧ failed t 6) ∧
      (s.lifecycle < 2 → s.bootLax = false → leNat (s.bytes bootRecord 4) ≠ 0x42525348 → ∃ t, exec .boot s = .next t ∧ failed t 1) ∧
      (s.lifecycle = 2 → ∃ t, exec .boot s = .next t ∧ t.boot = .verify 0 ∧ t.rd 0x000 R.SYS_BOOT_STATE = 2 ∧ t.erased = true ∧
        (s.erased = false → ∀ a, (0x2000000 ≤ a ∧ a < 0x2800000) ∨ (0x4000000 ≤ a ∧ a < 0x5000000) → t.byte a = 0) ∧ (s.erased = true → t.mem = s.mem))) ∧
    (∀ cause, s.boot = .verify cause → (∃ c, c < 16 ∧ s.changing (8 + c) = true) → exec .boot s = .next s) ∧
    (∀ cause, s.boot = .verify cause → (∀ d, s.changing d = false) → s.lifecycle < 2 →
      (cause = 0 → s.bootSigned = true → s.bootCogs = [] → ∃ t, exec .boot s = .next t ∧ t.boot = .done ∧ t.rd 0x000 R.SYS_BOOT_STATE = 3 ∧ t.rd 0x000 R.SYS_BOOT_WARN = 0 ∧
        t.rd 0x000 R.SYS_SVN_REC = leNat (s.bytes (bootRecord + 8) 4) % 2 ^ 7 ∧ t.cogs = s.cogs ∧ t.mem = s.mem) ∧
      (cause = 0 → s.bootSigned = false → s.bootLax = false → ∃ t, exec .boot s = .next t ∧ failed t 5) ∧
      (cause ≠ 0 ∨ s.bootSigned = false → s.bootLax = true → s.bootCogs = [] → ∃ t, exec .boot s = .next t ∧ t.boot = .done ∧ t.rd 0x000 R.SYS_BOOT_STATE = 3 ∧
        t.rd 0x000 R.SYS_BOOT_WARN = 1 ∧ t.cogs = s.cogs ∧ t.mem = s.mem))) ∧
  (∀ (data : Reg) (s : State), s.hostReaches = true → s.domOn 2 = true →
    let w := bits data.toNat R.SYS_OTPW_WORD.lo R.SYS_OTPW_WORD.w
    let v := s.rd 0x000 R.SYS_OTPD_DATA
    (s.blow = none → s.otpAllowed w v = true → ∃ t, exec (.otpBlow data) s = .next t ∧ t.blow = some (w, v) ∧ (∀ k, t.otp k = s.otp k) ∧ t.mem = s.mem ∧ t.tb = s.tb) ∧
    (s.blow = none → s.otpAllowed w v = false → ∃ t, exec (.otpBlow data) s = .next t ∧ t.blow = none ∧ t.on 0x000 R.SYS_OTPW_REJECT = true ∧ (∀ k, k < 64 → t.otp k = s.otp k) ∧
      t.mem = s.mem) ∧
    (s.blow ≠ none → ∃ t, exec (.otpBlow data) s = .next t ∧ t.blow = s.blow ∧ (∀ k, k < 64 → t.otp k = s.otp k) ∧ t.mem = s.mem)) ∧
  (∀ s : State,
    (s.blow = none → exec .otpBlowDone s = .next s) ∧
    (∀ w v, s.blow = some (w, v) → w < 64 → v < 2 ^ 32 → ∃ t, exec .otpBlowDone s = .next t ∧ t.blow = none ∧ t.otp w = Nat.lor (s.otp w) v ∧
      (∀ b, bit (s.otp w) b = true → bit (t.otp w) b = true) ∧ (∀ k, k < 64 → k ≠ w → t.otp k = s.otp k) ∧ t.tb = s.tb ∧
      (s.resetWaits = none → t.mem = s.mem) ∧ (∀ c, c < 8 → s.resetWaits = some c → t.rd 0x000 R.SYS_RST_CAUSE = c ∧ t.resetWaits = none ∧ ∀ i, t.cog i = {}))) ∧
  (∀ s : State, s.hostReaches = true → s.domOn 2 = true → ∃ t, exec .elogPop s = .next t ∧ t.elog = s.elog.tail ∧ t.on 0x000 R.SYS_ELOG_STAT_OVR = s.on 0x000 R.SYS_ELOG_STAT_OVR ∧
    t.mem = s.mem ∧ t.tb = s.tb)

end
end

