-- ==== Sys2Proof/Laws/Maps.lean ====
section
/-! SUPPORT. Laws of sparse maps, of bit fields of numbers, and of the canonical form of memory. -/

/-! The proofs of this file are elaborated one after another: as one text with the rest of the package, in parallel they would need more threads
than the memory holds. -/

set_option Elab.async false

namespace Sys2Proof.Machine

/-! ### Sparse maps -/

@[simp] theorem look_nil {α : Type} (a : Nat) : look ([] : Sparse α) a = none := rfl

theorem look_cons {α : Type} (k : Nat) (v : α) (m : Sparse α) (a : Nat) :
    look ((k, v) :: m) a = if k = a then some v else look m a := rfl

/-- A map read after a write: the value written at its key, the old one elsewhere. -/
theorem look_put {α : Type} (m : Sparse α) (a b : Nat) (v : α) : look (put m a v) b = if a = b then some v else look m b := by
  induction m with
  | nil => rfl
  | cons x m ih =>
    obtain ⟨k, w⟩ := x
    simp only [put]
    split
    · simp only [look_cons]
    · split
      · subst_vars; simp only [look_cons]; split <;> rfl
      · simp only [look_cons, ih]; split <;> split <;> first | rfl | omega

@[simp] theorem look_put_self {α : Type} (m : Sparse α) (a : Nat) (v : α) : look (put m a v) a = some v := by simp [look_put]

theorem look_put_ne {α : Type} (m : Sparse α) {a b : Nat} (v : α) (h : a ≠ b) : look (put m a v) b = look m b := by simp [look_put, h]

/-- A key removed from a map leaves every other key. -/
theorem look_del_ne {α : Type} (m : Sparse α) {a b : Nat} (h : a ≠ b) : look (del m a) b = look m b := by
  induction m with
  | nil => rfl
  | cons x m ih =>
    obtain ⟨k, w⟩ := x
    simp only [del]
    split
    · subst_vars; simp [look_cons, h]
    · simp only [look_cons, ih]

theorem look_below {α : Type} (m : Sparse α) : ∀ {lo a : Nat}, risingFrom lo m = true → a < lo → look m a = none := by
  induction m with
  | nil => intros; rfl
  | cons x m ih =>
    obtain ⟨k, w⟩ := x
    intro lo a h ha
    simp only [risingFrom, Bool.and_eq_true, decide_eq_true_eq] at h
    rw [look_cons, if_neg (by omega)]
    exact ih h.2 (by omega)

theorem rising_weaken {α : Type} (m : Sparse α) : ∀ {lo lo' : Nat}, risingFrom lo m = true → lo' ≤ lo → risingFrom lo' m = true := by
  cases m with
  | nil => intros; rfl
  | cons x m =>
    obtain ⟨k, w⟩ := x
    intro lo lo' h hl
    simp only [risingFrom, Bool.and_eq_true, decide_eq_true_eq] at h ⊢
    exact ⟨by omega, h.2⟩

/-- A key removed from a map with rising keys is gone. -/
theorem look_del_self {α : Type} (m : Sparse α) : ∀ {lo a : Nat}, risingFrom lo m = true → look (del m a) a = none := by
  induction m with
  | nil => intros; rfl
  | cons x m ih =>
    obtain ⟨k, w⟩ := x
    intro lo a h
    simp only [risingFrom, Bool.and_eq_true, decide_eq_true_eq] at h
    simp only [del]
    split
    · subst_vars; exact look_below m h.2 (by omega)
    · rw [look_cons, if_neg (by assumption)]; exact ih h.2

theorem rising_del {α : Type} (m : Sparse α) : ∀ {lo : Nat} (a : Nat), risingFrom lo m = true → risingFrom lo (del m a) = true := by
  induction m with
  | nil => intros; rfl
  | cons x m ih =>
    obtain ⟨k, w⟩ := x
    intro lo a h
    simp only [risingFrom, Bool.and_eq_true, decide_eq_true_eq] at h
    simp only [del]
    split
    · exact rising_weaken m h.2 (by omega)
    · simp only [risingFrom, Bool.and_eq_true, decide_eq_true_eq]; exact ⟨h.1, ih a h.2⟩

theorem rising_put {α : Type} (m : Sparse α) : ∀ {lo a : Nat} (v : α), risingFrom lo m = true → lo ≤ a → risingFrom lo (put m a v) = true := by
  induction m with
  | nil => intro lo a v _ h; simp [put, risingFrom, h]
  | cons x m ih =>
    obtain ⟨k, w⟩ := x
    intro lo a v h ha
    simp only [risingFrom, Bool.and_eq_true, decide_eq_true_eq] at h
    simp only [put]
    split
    · simp only [risingFrom, Bool.and_eq_true, decide_eq_true_eq]; exact ⟨ha, by omega, h.2⟩
    · split
      · subst_vars; simp only [risingFrom, Bool.and_eq_true, decide_eq_true_eq]; exact ⟨ha, h.2⟩
      · simp only [risingFrom, Bool.and_eq_true, decide_eq_true_eq]; exact ⟨h.1, ih v h.2 (by omega)⟩

theorem rising_filter {α : Type} (p : Nat × α → Bool) (m : Sparse α) : ∀ {lo : Nat}, risingFrom lo m = true → risingFrom lo (m.filter p) = true := by
  induction m with
  | nil => intros; rfl
  | cons x m ih =>
    obtain ⟨k, w⟩ := x
    intro lo h
    simp only [risingFrom, Bool.and_eq_true, decide_eq_true_eq] at h
    rw [List.filter_cons]
    split
    · simp only [risingFrom, Bool.and_eq_true, decide_eq_true_eq]; exact ⟨h.1, ih h.2⟩
    · exact rising_weaken _ (ih h.2) (by omega)

/-- A map filtered by its keys. -/
theorem look_filter_key {α : Type} (p : Nat → Bool) (m : Sparse α) (a : Nat) :
    look (m.filter fun c => p c.1) a = if p a then look m a else none := by
  induction m with
  | nil => simp
  | cons x m ih =>
    obtain ⟨k, w⟩ := x
    rw [List.filter_cons]
    by_cases hk : p k
    · simp only [hk, ↓reduceIte, look_cons, ih]
      by_cases h : k = a
      · subst h; simp [hk]
      · simp [h]
    · simp only [hk, look_cons, ih, Bool.false_eq_true, ↓reduceIte]
      by_cases h : k = a
      · subst h; simp [hk]
      · simp [h]

theorem mem_put {α : Type} (m : Sparse α) (a : Nat) (v : α) (x : Nat × α) (h : x ∈ put m a v) : x = (a, v) ∨ x ∈ m := by
  induction m with
  | nil => simpa [put] using h
  | cons y m ih =>
    obtain ⟨k, w⟩ := y
    simp only [put] at h
    split at h
    · simpa using h
    · split at h
      · rcases List.mem_cons.1 h with h | h
        · exact .inl h
        · exact .inr (List.mem_cons_of_mem _ h)
      · rcases List.mem_cons.1 h with h | h
        · exact .inr (h ▸ List.mem_cons_self)
        · rcases ih h with h | h
          · exact .inl h
          · exact .inr (List.mem_cons_of_mem _ h)

theorem mem_del {α : Type} (m : Sparse α) (a : Nat) (x : Nat × α) (h : x ∈ del m a) : x ∈ m := by
  induction m with
  | nil => simp [del] at h
  | cons y m ih =>
    obtain ⟨k, w⟩ := y
    simp only [del] at h
    split at h
    · exact List.mem_cons_of_mem _ h
    · rcases List.mem_cons.1 h with h | h
      · exact h ▸ List.mem_cons_self
      · exact List.mem_cons_of_mem _ (ih h)

/-! ### The canonical form of memory -/

theorem wf_memPut (m : List Host.Cell) (a : Nat) (b : Byte) (h : Memory.wf m = true) : Memory.wf (memPut m a b) = true := by
  simp only [Memory.wf, Bool.and_eq_true, List.all_eq_true, decide_eq_true_eq, memPut] at h ⊢
  split
  · exact ⟨rising_del m a h.1, fun x hx => h.2 x (mem_del m a x hx)⟩
  · refine ⟨rising_put m b h.1 (Nat.zero_le a), fun x hx => ?_⟩
    rcases mem_put m a b x hx with rfl | hx
    · assumption
    · exact h.2 x hx

theorem wf_filter (m : List Host.Cell) (p : Host.Cell → Bool) (h : Memory.wf m = true) : Memory.wf (m.filter p) = true := by
  simp only [Memory.wf, Bool.and_eq_true, List.all_eq_true, decide_eq_true_eq] at h ⊢
  exact ⟨rising_filter p m h.1, fun x hx => h.2 x (List.mem_filter.1 hx).1⟩

/-- A byte read after a write to a canonical memory. -/
theorem lookD_memPut (m : List Host.Cell) (a x : Nat) (b : Byte) (h : Memory.wf m = true) :
    lookD (memPut m a b) x 0 = if a = x then b else lookD m x 0 := by
  simp only [Memory.wf, Bool.and_eq_true] at h
  simp only [lookD, memPut]
  split
  · subst_vars
    split
    · subst_vars; rw [look_del_self m h.1]; rfl
    · rw [look_del_ne m (by assumption)]
  · rw [look_put]; split <;> rfl

/-! ### Bits of numbers -/

theorem bits_lt (v lo w : Nat) : bits v lo w < 2 ^ w := Nat.mod_lt _ (Nat.two_pow_pos w)

@[simp] theorem bits_mod (v lo w : Nat) : bits v lo w % 2 ^ w = bits v lo w := Nat.mod_eq_of_lt (bits_lt v lo w)

theorem bits_testBit (v lo w i : Nat) : (bits v lo w).testBit i = (decide (i < w) && v.testBit (lo + i)) := by
  simp only [bits, Nat.testBit_mod_two_pow, Nat.testBit_div_two_pow, Nat.add_comm]

theorem bit_testBit (v i : Nat) : bit v i = v.testBit i := by
  simp only [bit, Nat.testBit, Nat.shiftRight_eq_div_pow, Nat.and_comm 1, Nat.and_one_is_mod]
  rcases Nat.mod_two_eq_zero_or_one (v / 2 ^ i) with h | h <;> simp [h]

/-- A number with a field set, by its parts above, in and below the field. -/
theorem setBits_parts (v lo w x : Nat) : setBits v lo w x = 2 ^ lo * (2 ^ w * (v / 2 ^ lo / 2 ^ w) + x % 2 ^ w) + v % 2 ^ lo := by
  have h1 := Nat.div_add_mod v (2 ^ lo)
  have h2 := Nat.div_add_mod (v / 2 ^ lo) (2 ^ w)
  simp only [setBits, bits]
  generalize v / 2 ^ lo / 2 ^ w = a at *
  generalize v / 2 ^ lo % 2 ^ w = b at *
  generalize v % 2 ^ lo = c at *
  rw [← h2, Nat.mul_add] at h1
  rw [← h1, Nat.mul_comm b, Nat.mul_comm (x % 2 ^ w), Nat.mul_add]
  omega

theorem setBits_testBit (v lo w x i : Nat) :
    (setBits v lo w x).testBit i = if lo ≤ i ∧ i < lo + w then x.testBit (i - lo) else v.testBit i := by
  rw [setBits_parts, Nat.testBit_two_pow_mul_add _ (Nat.mod_lt _ (Nat.two_pow_pos lo))]
  by_cases h : i < lo
  · have : ¬ (lo ≤ i ∧ i < lo + w) := by omega
    simp [h, this]
  · rw [if_neg h, Nat.testBit_two_pow_mul_add _ (Nat.mod_lt _ (Nat.two_pow_pos w))]
    by_cases h2 : i - lo < w
    · rw [if_pos h2, if_pos (by omega), Nat.testBit_mod_two_pow]; simp [h2]
    · rw [if_neg h2, if_neg (by omega), Nat.testBit_div_two_pow, Nat.testBit_div_two_pow]
      congr 1; omega

theorem setBits_lt {v lo w x n : Nat} (hv : v < 2 ^ n) (h : lo + w ≤ n) : setBits v lo w x < 2 ^ n := by
  apply Nat.lt_pow_two_of_testBit
  intro i hi
  rw [setBits_testBit, if_neg (by omega)]
  exact Nat.testBit_lt_two_pow (Nat.lt_of_lt_of_le hv (Nat.pow_le_pow_right (by omega) hi))

/-- A field read after it was set. -/
theorem bits_setBits_self (v lo w x : Nat) : bits (setBits v lo w x) lo w = x % 2 ^ w := by
  apply Nat.eq_of_testBit_eq
  intro i
  rw [bits_testBit, setBits_testBit, Nat.testBit_mod_two_pow]
  by_cases h : i < w <;> simp [h]

/-- A field read after a field that shares no bit with it was set. -/
theorem bits_setBits_ne (v : Nat) {lo w lo' w' : Nat} (x : Nat) (h : lo + w ≤ lo' ∨ lo' + w' ≤ lo) : bits (setBits v lo w x) lo' w' = bits v lo' w' := by
  apply Nat.eq_of_testBit_eq
  intro i
  rw [bits_testBit, bits_testBit, setBits_testBit]
  by_cases hi : i < w'
  · rw [if_neg (by omega)]
  · simp [hi]

theorem bit_setBits (v lo w x i : Nat) : bit (setBits v lo w x) i = if lo ≤ i ∧ i < lo + w then bit x (i - lo) else bit v i := by
  simp only [bit_testBit, setBits_testBit]

@[simp] theorem b2n_true : b2n true = 1 := rfl
@[simp] theorem b2n_false : b2n false = 0 := rfl

end Sys2Proof.Machine
end

