-- ==== Sys2Proof/Laws/State.lean ====
section
/-! SUPPORT. One law for each update of one part of the state: what it leaves (every other field), and what the part then reads as; and the laws of the
register file. -/

namespace Sys2Proof.Machine

/-- setReg leaves every field but `regs`. -/
@[simp] theorem State.setReg_frame (s : State) (a : Nat) (v : Reg) :
    (s.setReg a v).tb = s.tb ∧ (s.setReg a v).mem = s.mem ∧ (s.setReg a v).bad = s.bad ∧ (s.setReg a v).writeBacks = s.writeBacks ∧
    (s.setReg a v).camWrites = s.camWrites ∧ (s.setReg a v).cogs = s.cogs ∧ (s.setReg a v).chans = s.chans ∧ (s.setReg a v).hubHold = s.hubHold ∧
    (s.setReg a v).queues = s.queues ∧ (s.setReg a v).outbox = s.outbox ∧ (s.setReg a v).aligning = s.aligning ∧
    (s.setReg a v).slewTicks = s.slewTicks ∧ (s.setReg a v).timeref = s.timeref ∧ (s.setReg a v).cads = s.cads ∧ (s.setReg a v).axes = s.axes ∧
    (s.setReg a v).tables = s.tables ∧ (s.setReg a v).shadow = s.shadow ∧ (s.setReg a v).staging = s.staging ∧ (s.setReg a v).evals = s.evals ∧
    (s.setReg a v).chnOrg = s.chnOrg ∧ (s.setReg a v).servoWas = s.servoWas ∧ (s.setReg a v).dlActed = s.dlActed ∧ (s.setReg a v).rel = s.rel ∧
    (s.setReg a v).pins = s.pins ∧ (s.setReg a v).pwms = s.pwms ∧ (s.setReg a v).cws = s.cws ∧ (s.setReg a v).encs = s.encs ∧
    (s.setReg a v).capLost = s.capLost ∧ (s.setReg a v).caps = s.caps ∧ (s.setReg a v).misBanks = s.misBanks ∧ (s.setReg a v).misUntil = s.misUntil ∧
    (s.setReg a v).ports = s.ports ∧ (s.setReg a v).vis = s.vis ∧ (s.setReg a v).links = s.links ∧ (s.setReg a v).spanTo = s.spanTo ∧
    (s.setReg a v).tanFixed = s.tanFixed ∧ (s.setReg a v).tanGood = s.tanGood ∧ (s.setReg a v).pcie = s.pcie ∧ (s.setReg a v).aer = s.aer ∧
    (s.setReg a v).perst = s.perst ∧ (s.setReg a v).movers = s.movers ∧ (s.setReg a v).movTurn = s.movTurn ∧ (s.setReg a v).jrn = s.jrn ∧
    (s.setReg a v).rpl = s.rpl ∧ (s.setReg a v).trace = s.trace ∧ (s.setReg a v).traceLost = s.traceLost ∧ (s.setReg a v).pels = s.pels ∧
    (s.setReg a v).govs = s.govs ∧ (s.setReg a v).uvHold = s.uvHold ∧ (s.setReg a v).railUntil = s.railUntil ∧ (s.setReg a v).mramWait = s.mramWait ∧
    (s.setReg a v).daus = s.daus ∧ (s.setReg a v).benchBy = s.benchBy ∧ (s.setReg a v).boundary = s.boundary ∧ (s.setReg a v).boot = s.boot ∧
    (s.setReg a v).erased = s.erased ∧ (s.setReg a v).blow = s.blow ∧ (s.setReg a v).resetWaits = s.resetWaits ∧ (s.setReg a v).repairs = s.repairs ∧
    (s.setReg a v).xing = s.xing ∧ (s.setReg a v).evSrc = s.evSrc ∧ (s.setReg a v).evGrp = s.evGrp ∧ (s.setReg a v).doms = s.doms ∧
    (s.setReg a v).elog = s.elog ∧ (s.setReg a v).out = s.out ∧ (s.setReg a v).free = s.free ∧ (s.setReg a v).pending = s.pending :=
  ⟨rfl, rfl, rfl, rfl, rfl, rfl, rfl, rfl, rfl, rfl, rfl, rfl, rfl, rfl, rfl, rfl, rfl, rfl, rfl, rfl, rfl, rfl, rfl, rfl, rfl, rfl, rfl, rfl, rfl, rfl, rfl, rfl, rfl, rfl, rfl, rfl, rfl, rfl, rfl, rfl, rfl, rfl, rfl, rfl, rfl, rfl, rfl, rfl, rfl, rfl, rfl, rfl, rfl, rfl, rfl, rfl, rfl, rfl, rfl, rfl, rfl, rfl, rfl, rfl, rfl, rfl, rfl⟩

/-- setDom leaves every field but `doms`. -/
@[simp] theorem State.setDom_frame (s : State) (d : Nat) (x : Dom) :
    (s.setDom d x).tb = s.tb ∧ (s.setDom d x).regs = s.regs ∧ (s.setDom d x).mem = s.mem ∧ (s.setDom d x).bad = s.bad ∧
    (s.setDom d x).writeBacks = s.writeBacks ∧ (s.setDom d x).camWrites = s.camWrites ∧ (s.setDom d x).cogs = s.cogs ∧
    (s.setDom d x).chans = s.chans ∧ (s.setDom d x).hubHold = s.hubHold ∧ (s.setDom d x).queues = s.queues ∧ (s.setDom d x).outbox = s.outbox ∧
    (s.setDom d x).aligning = s.aligning ∧ (s.setDom d x).slewTicks = s.slewTicks ∧ (s.setDom d x).timeref = s.timeref ∧
    (s.setDom d x).cads = s.cads ∧ (s.setDom d x).axes = s.axes ∧ (s.setDom d x).tables = s.tables ∧ (s.setDom d x).shadow = s.shadow ∧
    (s.setDom d x).staging = s.staging ∧ (s.setDom d x).evals = s.evals ∧ (s.setDom d x).chnOrg = s.chnOrg ∧ (s.setDom d x).servoWas = s.servoWas ∧
    (s.setDom d x).dlActed = s.dlActed ∧ (s.setDom d x).rel = s.rel ∧ (s.setDom d x).pins = s.pins ∧ (s.setDom d x).pwms = s.pwms ∧
    (s.setDom d x).cws = s.cws ∧ (s.setDom d x).encs = s.encs ∧ (s.setDom d x).capLost = s.capLost ∧ (s.setDom d x).caps = s.caps ∧
    (s.setDom d x).misBanks = s.misBanks ∧ (s.setDom d x).misUntil = s.misUntil ∧ (s.setDom d x).ports = s.ports ∧ (s.setDom d x).vis = s.vis ∧
    (s.setDom d x).links = s.links ∧ (s.setDom d x).spanTo = s.spanTo ∧ (s.setDom d x).tanFixed = s.tanFixed ∧ (s.setDom d x).tanGood = s.tanGood ∧
    (s.setDom d x).pcie = s.pcie ∧ (s.setDom d x).aer = s.aer ∧ (s.setDom d x).perst = s.perst ∧ (s.setDom d x).movers = s.movers ∧
    (s.setDom d x).movTurn = s.movTurn ∧ (s.setDom d x).jrn = s.jrn ∧ (s.setDom d x).rpl = s.rpl ∧ (s.setDom d x).trace = s.trace ∧
    (s.setDom d x).traceLost = s.traceLost ∧ (s.setDom d x).pels = s.pels ∧ (s.setDom d x).govs = s.govs ∧ (s.setDom d x).uvHold = s.uvHold ∧
    (s.setDom d x).railUntil = s.railUntil ∧ (s.setDom d x).mramWait = s.mramWait ∧ (s.setDom d x).daus = s.daus ∧
    (s.setDom d x).benchBy = s.benchBy ∧ (s.setDom d x).boundary = s.boundary ∧ (s.setDom d x).boot = s.boot ∧ (s.setDom d x).erased = s.erased ∧
    (s.setDom d x).blow = s.blow ∧ (s.setDom d x).resetWaits = s.resetWaits ∧ (s.setDom d x).repairs = s.repairs ∧ (s.setDom d x).xing = s.xing ∧
    (s.setDom d x).evSrc = s.evSrc ∧ (s.setDom d x).evGrp = s.evGrp ∧ (s.setDom d x).elog = s.elog ∧ (s.setDom d x).out = s.out ∧
    (s.setDom d x).free = s.free ∧ (s.setDom d x).pending = s.pending :=
  ⟨rfl, rfl, rfl, rfl, rfl, rfl, rfl, rfl, rfl, rfl, rfl, rfl, rfl, rfl, rfl, rfl, rfl, rfl, rfl, rfl, rfl, rfl, rfl, rfl, rfl, rfl, rfl, rfl, rfl, rfl, rfl, rfl, rfl, rfl, rfl, rfl, rfl, rfl, rfl, rfl, rfl, rfl, rfl, rfl, rfl, rfl, rfl, rfl, rfl, rfl, rfl, rfl, rfl, rfl, rfl, rfl, rfl, rfl, rfl, rfl, rfl, rfl, rfl, rfl, rfl, rfl, rfl⟩

@[simp] theorem State.setDom_self (s : State) (d : Nat) (x : Dom) : (s.setDom d x).dom d = x := by simp [State.dom, State.setDom, lookD]

theorem State.setDom_ne (s : State) (d : Nat) (x : Dom) {z : Nat} (h : d ≠ z) : (s.setDom d x).dom z = s.dom z := by
  simp [State.dom, State.setDom, lookD, look_put_ne _ _ h]

/-- setSrc leaves every field but `evSrc`. -/
@[simp] theorem State.setSrc_frame (s : State) (n : Nat) (x : EvSource) :
    (s.setSrc n x).tb = s.tb ∧ (s.setSrc n x).regs = s.regs ∧ (s.setSrc n x).mem = s.mem ∧ (s.setSrc n x).bad = s.bad ∧
    (s.setSrc n x).writeBacks = s.writeBacks ∧ (s.setSrc n x).camWrites = s.camWrites ∧ (s.setSrc n x).cogs = s.cogs ∧
    (s.setSrc n x).chans = s.chans ∧ (s.setSrc n x).hubHold = s.hubHold ∧ (s.setSrc n x).queues = s.queues ∧ (s.setSrc n x).outbox = s.outbox ∧
    (s.setSrc n x).aligning = s.aligning ∧ (s.setSrc n x).slewTicks = s.slewTicks ∧ (s.setSrc n x).timeref = s.timeref ∧
    (s.setSrc n x).cads = s.cads ∧ (s.setSrc n x).axes = s.axes ∧ (s.setSrc n x).tables = s.tables ∧ (s.setSrc n x).shadow = s.shadow ∧
    (s.setSrc n x).staging = s.staging ∧ (s.setSrc n x).evals = s.evals ∧ (s.setSrc n x).chnOrg = s.chnOrg ∧ (s.setSrc n x).servoWas = s.servoWas ∧
    (s.setSrc n x).dlActed = s.dlActed ∧ (s.setSrc n x).rel = s.rel ∧ (s.setSrc n x).pins = s.pins ∧ (s.setSrc n x).pwms = s.pwms ∧
    (s.setSrc n x).cws = s.cws ∧ (s.setSrc n x).encs = s.encs ∧ (s.setSrc n x).capLost = s.capLost ∧ (s.setSrc n x).caps = s.caps ∧
    (s.setSrc n x).misBanks = s.misBanks ∧ (s.setSrc n x).misUntil = s.misUntil ∧ (s.setSrc n x).ports = s.ports ∧ (s.setSrc n x).vis = s.vis ∧
    (s.setSrc n x).links = s.links ∧ (s.setSrc n x).spanTo = s.spanTo ∧ (s.setSrc n x).tanFixed = s.tanFixed ∧ (s.setSrc n x).tanGood = s.tanGood ∧
    (s.setSrc n x).pcie = s.pcie ∧ (s.setSrc n x).aer = s.aer ∧ (s.setSrc n x).perst = s.perst ∧ (s.setSrc n x).movers = s.movers ∧
    (s.setSrc n x).movTurn = s.movTurn ∧ (s.setSrc n x).jrn = s.jrn ∧ (s.setSrc n x).rpl = s.rpl ∧ (s.setSrc n x).trace = s.trace ∧
    (s.setSrc n x).traceLost = s.traceLost ∧ (s.setSrc n x).pels = s.pels ∧ (s.setSrc n x).govs = s.govs ∧ (s.setSrc n x).uvHold = s.uvHold ∧
    (s.setSrc n x).railUntil = s.railUntil ∧ (s.setSrc n x).mramWait = s.mramWait ∧ (s.setSrc n x).daus = s.daus ∧
    (s.setSrc n x).benchBy = s.benchBy ∧ (s.setSrc n x).boundary = s.boundary ∧ (s.setSrc n x).boot = s.boot ∧ (s.setSrc n x).erased = s.erased ∧
    (s.setSrc n x).blow = s.blow ∧ (s.setSrc n x).resetWaits = s.resetWaits ∧ (s.setSrc n x).repairs = s.repairs ∧ (s.setSrc n x).xing = s.xing ∧
    (s.setSrc n x).evGrp = s.evGrp ∧ (s.setSrc n x).doms = s.doms ∧ (s.setSrc n x).elog = s.elog ∧ (s.setSrc n x).out = s.out ∧
    (s.setSrc n x).free = s.free ∧ (s.setSrc n x).pending = s.pending :=
  ⟨rfl, rfl, rfl, rfl, rfl, rfl, rfl, rfl, rfl, rfl, rfl, rfl, rfl, rfl, rfl, rfl, rfl, rfl, rfl, rfl, rfl, rfl, rfl, rfl, rfl, rfl, rfl, rfl, rfl, rfl, rfl, rfl, rfl, rfl, rfl, rfl, rfl, rfl, rfl, rfl, rfl, rfl, rfl, rfl, rfl, rfl, rfl, rfl, rfl, rfl, rfl, rfl, rfl, rfl, rfl, rfl, rfl, rfl, rfl, rfl, rfl, rfl, rfl, rfl, rfl, rfl, rfl⟩

@[simp] theorem State.setSrc_self (s : State) (n : Nat) (x : EvSource) : (s.setSrc n x).src n = x := by simp [State.src, State.setSrc, lookD]

theorem State.setSrc_ne (s : State) (n : Nat) (x : EvSource) {z : Nat} (h : n ≠ z) : (s.setSrc n x).src z = s.src z := by
  simp [State.src, State.setSrc, lookD, look_put_ne _ _ h]

/-- setGrp leaves every field but `evGrp`. -/
@[simp] theorem State.setGrp_frame (s : State) (g : Nat) (x : EvGroup) :
    (s.setGrp g x).tb = s.tb ∧ (s.setGrp g x).regs = s.regs ∧ (s.setGrp g x).mem = s.mem ∧ (s.setGrp g x).bad = s.bad ∧
    (s.setGrp g x).writeBacks = s.writeBacks ∧ (s.setGrp g x).camWrites = s.camWrites ∧ (s.setGrp g x).cogs = s.cogs ∧
    (s.setGrp g x).chans = s.chans ∧ (s.setGrp g x).hubHold = s.hubHold ∧ (s.setGrp g x).queues = s.queues ∧ (s.setGrp g x).outbox = s.outbox ∧
    (s.setGrp g x).aligning = s.aligning ∧ (s.setGrp g x).slewTicks = s.slewTicks ∧ (s.setGrp g x).timeref = s.timeref ∧
    (s.setGrp g x).cads = s.cads ∧ (s.setGrp g x).axes = s.axes ∧ (s.setGrp g x).tables = s.tables ∧ (s.setGrp g x).shadow = s.shadow ∧
    (s.setGrp g x).staging = s.staging ∧ (s.setGrp g x).evals = s.evals ∧ (s.setGrp g x).chnOrg = s.chnOrg ∧ (s.setGrp g x).servoWas = s.servoWas ∧
    (s.setGrp g x).dlActed = s.dlActed ∧ (s.setGrp g x).rel = s.rel ∧ (s.setGrp g x).pins = s.pins ∧ (s.setGrp g x).pwms = s.pwms ∧
    (s.setGrp g x).cws = s.cws ∧ (s.setGrp g x).encs = s.encs ∧ (s.setGrp g x).capLost = s.capLost ∧ (s.setGrp g x).caps = s.caps ∧
    (s.setGrp g x).misBanks = s.misBanks ∧ (s.setGrp g x).misUntil = s.misUntil ∧ (s.setGrp g x).ports = s.ports ∧ (s.setGrp g x).vis = s.vis ∧
    (s.setGrp g x).links = s.links ∧ (s.setGrp g x).spanTo = s.spanTo ∧ (s.setGrp g x).tanFixed = s.tanFixed ∧ (s.setGrp g x).tanGood = s.tanGood ∧
    (s.setGrp g x).pcie = s.pcie ∧ (s.setGrp g x).aer = s.aer ∧ (s.setGrp g x).perst = s.perst ∧ (s.setGrp g x).movers = s.movers ∧
    (s.setGrp g x).movTurn = s.movTurn ∧ (s.setGrp g x).jrn = s.jrn ∧ (s.setGrp g x).rpl = s.rpl ∧ (s.setGrp g x).trace = s.trace ∧
    (s.setGrp g x).traceLost = s.traceLost ∧ (s.setGrp g x).pels = s.pels ∧ (s.setGrp g x).govs = s.govs ∧ (s.setGrp g x).uvHold = s.uvHold ∧
    (s.setGrp g x).railUntil = s.railUntil ∧ (s.setGrp g x).mramWait = s.mramWait ∧ (s.setGrp g x).daus = s.daus ∧
    (s.setGrp g x).benchBy = s.benchBy ∧ (s.setGrp g x).boundary = s.boundary ∧ (s.setGrp g x).boot = s.boot ∧ (s.setGrp g x).erased = s.erased ∧
    (s.setGrp g x).blow = s.blow ∧ (s.setGrp g x).resetWaits = s.resetWaits ∧ (s.setGrp g x).repairs = s.repairs ∧ (s.setGrp g x).xing = s.xing ∧
    (s.setGrp g x).evSrc = s.evSrc ∧ (s.setGrp g x).doms = s.doms ∧ (s.setGrp g x).elog = s.elog ∧ (s.setGrp g x).out = s.out ∧
    (s.setGrp g x).free = s.free ∧ (s.setGrp g x).pending = s.pending :=
  ⟨rfl, rfl, rfl, rfl, rfl, rfl, rfl, rfl, rfl, rfl, rfl, rfl, rfl, rfl, rfl, rfl, rfl, rfl, rfl, rfl, rfl, rfl, rfl, rfl, rfl, rfl, rfl, rfl, rfl, rfl, rfl, rfl, rfl, rfl, rfl, rfl, rfl, rfl, rfl, rfl, rfl, rfl, rfl, rfl, rfl, rfl, rfl, rfl, rfl, rfl, rfl, rfl, rfl, rfl, rfl, rfl, rfl, rfl, rfl, rfl, rfl, rfl, rfl, rfl, rfl, rfl, rfl⟩

@[simp] theorem State.setGrp_self (s : State) (g : Nat) (x : EvGroup) : (s.setGrp g x).grp g = x := by simp [State.grp, State.setGrp, lookD]

theorem State.setGrp_ne (s : State) (g : Nat) (x : EvGroup) {z : Nat} (h : g ≠ z) : (s.setGrp g x).grp z = s.grp z := by
  simp [State.grp, State.setGrp, lookD, look_put_ne _ _ h]

/-- setByte leaves every field but `mem`. -/
@[simp] theorem State.setByte_frame (s : State) (a : Nat) (b : Byte) :
    (s.setByte a b).tb = s.tb ∧ (s.setByte a b).regs = s.regs ∧ (s.setByte a b).bad = s.bad ∧ (s.setByte a b).writeBacks = s.writeBacks ∧
    (s.setByte a b).camWrites = s.camWrites ∧ (s.setByte a b).cogs = s.cogs ∧ (s.setByte a b).chans = s.chans ∧ (s.setByte a b).hubHold = s.hubHold ∧
    (s.setByte a b).queues = s.queues ∧ (s.setByte a b).outbox = s.outbox ∧ (s.setByte a b).aligning = s.aligning ∧
    (s.setByte a b).slewTicks = s.slewTicks ∧ (s.setByte a b).timeref = s.timeref ∧ (s.setByte a b).cads = s.cads ∧ (s.setByte a b).axes = s.axes ∧
    (s.setByte a b).tables = s.tables ∧ (s.setByte a b).shadow = s.shadow ∧ (s.setByte a b).staging = s.staging ∧ (s.setByte a b).evals = s.evals ∧
    (s.setByte a b).chnOrg = s.chnOrg ∧ (s.setByte a b).servoWas = s.servoWas ∧ (s.setByte a b).dlActed = s.dlActed ∧ (s.setByte a b).rel = s.rel ∧
    (s.setByte a b).pins = s.pins ∧ (s.setByte a b).pwms = s.pwms ∧ (s.setByte a b).cws = s.cws ∧ (s.setByte a b).encs = s.encs ∧
    (s.setByte a b).capLost = s.capLost ∧ (s.setByte a b).caps = s.caps ∧ (s.setByte a b).misBanks = s.misBanks ∧
    (s.setByte a b).misUntil = s.misUntil ∧ (s.setByte a b).ports = s.ports ∧ (s.setByte a b).vis = s.vis ∧ (s.setByte a b).links = s.links ∧
    (s.setByte a b).spanTo = s.spanTo ∧ (s.setByte a b).tanFixed = s.tanFixed ∧ (s.setByte a b).tanGood = s.tanGood ∧ (s.setByte a b).pcie = s.pcie ∧
    (s.setByte a b).aer = s.aer ∧ (s.setByte a b).perst = s.perst ∧ (s.setByte a b).movers = s.movers ∧ (s.setByte a b).movTurn = s.movTurn ∧
    (s.setByte a b).jrn = s.jrn ∧ (s.setByte a b).rpl = s.rpl ∧ (s.setByte a b).trace = s.trace ∧ (s.setByte a b).traceLost = s.traceLost ∧
    (s.setByte a b).pels = s.pels ∧ (s.setByte a b).govs = s.govs ∧ (s.setByte a b).uvHold = s.uvHold ∧ (s.setByte a b).railUntil = s.railUntil ∧
    (s.setByte a b).mramWait = s.mramWait ∧ (s.setByte a b).daus = s.daus ∧ (s.setByte a b).benchBy = s.benchBy ∧
    (s.setByte a b).boundary = s.boundary ∧ (s.setByte a b).boot = s.boot ∧ (s.setByte a b).erased = s.erased ∧ (s.setByte a b).blow = s.blow ∧
    (s.setByte a b).resetWaits = s.resetWaits ∧ (s.setByte a b).repairs = s.repairs ∧ (s.setByte a b).xing = s.xing ∧
    (s.setByte a b).evSrc = s.evSrc ∧ (s.setByte a b).evGrp = s.evGrp ∧ (s.setByte a b).doms = s.doms ∧ (s.setByte a b).elog = s.elog ∧
    (s.setByte a b).out = s.out ∧ (s.setByte a b).free = s.free ∧ (s.setByte a b).pending = s.pending :=
  ⟨rfl, rfl, rfl, rfl, rfl, rfl, rfl, rfl, rfl, rfl, rfl, rfl, rfl, rfl, rfl, rfl, rfl, rfl, rfl, rfl, rfl, rfl, rfl, rfl, rfl, rfl, rfl, rfl, rfl, rfl, rfl, rfl, rfl, rfl, rfl, rfl, rfl, rfl, rfl, rfl, rfl, rfl, rfl, rfl, rfl, rfl, rfl, rfl, rfl, rfl, rfl, rfl, rfl, rfl, rfl, rfl, rfl, rfl, rfl, rfl, rfl, rfl, rfl, rfl, rfl, rfl, rfl⟩

/-- setCog leaves every field but `cogs`. -/
@[simp] theorem State.setCog_frame (s : State) (i : Nat) (c : Cog) :
    (s.setCog i c).tb = s.tb ∧ (s.setCog i c).regs = s.regs ∧ (s.setCog i c).mem = s.mem ∧ (s.setCog i c).bad = s.bad ∧
    (s.setCog i c).writeBacks = s.writeBacks ∧ (s.setCog i c).camWrites = s.camWrites ∧ (s.setCog i c).chans = s.chans ∧
    (s.setCog i c).hubHold = s.hubHold ∧ (s.setCog i c).queues = s.queues ∧ (s.setCog i c).outbox = s.outbox ∧ (s.setCog i c).aligning = s.aligning ∧
    (s.setCog i c).slewTicks = s.slewTicks ∧ (s.setCog i c).timeref = s.timeref ∧ (s.setCog i c).cads = s.cads ∧ (s.setCog i c).axes = s.axes ∧
    (s.setCog i c).tables = s.tables ∧ (s.setCog i c).shadow = s.shadow ∧ (s.setCog i c).staging = s.staging ∧ (s.setCog i c).evals = s.evals ∧
    (s.setCog i c).chnOrg = s.chnOrg ∧ (s.setCog i c).servoWas = s.servoWas ∧ (s.setCog i c).dlActed = s.dlActed ∧ (s.setCog i c).rel = s.rel ∧
    (s.setCog i c).pins = s.pins ∧ (s.setCog i c).pwms = s.pwms ∧ (s.setCog i c).cws = s.cws ∧ (s.setCog i c).encs = s.encs ∧
    (s.setCog i c).capLost = s.capLost ∧ (s.setCog i c).caps = s.caps ∧ (s.setCog i c).misBanks = s.misBanks ∧ (s.setCog i c).misUntil = s.misUntil ∧
    (s.setCog i c).ports = s.ports ∧ (s.setCog i c).vis = s.vis ∧ (s.setCog i c).links = s.links ∧ (s.setCog i c).spanTo = s.spanTo ∧
    (s.setCog i c).tanFixed = s.tanFixed ∧ (s.setCog i c).tanGood = s.tanGood ∧ (s.setCog i c).pcie = s.pcie ∧ (s.setCog i c).aer = s.aer ∧
    (s.setCog i c).perst = s.perst ∧ (s.setCog i c).movers = s.movers ∧ (s.setCog i c).movTurn = s.movTurn ∧ (s.setCog i c).jrn = s.jrn ∧
    (s.setCog i c).rpl = s.rpl ∧ (s.setCog i c).trace = s.trace ∧ (s.setCog i c).traceLost = s.traceLost ∧ (s.setCog i c).pels = s.pels ∧
    (s.setCog i c).govs = s.govs ∧ (s.setCog i c).uvHold = s.uvHold ∧ (s.setCog i c).railUntil = s.railUntil ∧ (s.setCog i c).mramWait = s.mramWait ∧
    (s.setCog i c).daus = s.daus ∧ (s.setCog i c).benchBy = s.benchBy ∧ (s.setCog i c).boundary = s.boundary ∧ (s.setCog i c).boot = s.boot ∧
    (s.setCog i c).erased = s.erased ∧ (s.setCog i c).blow = s.blow ∧ (s.setCog i c).resetWaits = s.resetWaits ∧ (s.setCog i c).repairs = s.repairs ∧
    (s.setCog i c).xing = s.xing ∧ (s.setCog i c).evSrc = s.evSrc ∧ (s.setCog i c).evGrp = s.evGrp ∧ (s.setCog i c).doms = s.doms ∧
    (s.setCog i c).elog = s.elog ∧ (s.setCog i c).out = s.out ∧ (s.setCog i c).free = s.free ∧ (s.setCog i c).pending = s.pending :=
  ⟨rfl, rfl, rfl, rfl, rfl, rfl, rfl, rfl, rfl, rfl, rfl, rfl, rfl, rfl, rfl, rfl, rfl, rfl, rfl, rfl, rfl, rfl, rfl, rfl, rfl, rfl, rfl, rfl, rfl, rfl, rfl, rfl, rfl, rfl, rfl, rfl, rfl, rfl, rfl, rfl, rfl, rfl, rfl, rfl, rfl, rfl, rfl, rfl, rfl, rfl, rfl, rfl, rfl, rfl, rfl, rfl, rfl, rfl, rfl, rfl, rfl, rfl, rfl, rfl, rfl, rfl, rfl⟩

@[simp] theorem State.setCog_self (s : State) (i : Nat) (c : Cog) : (s.setCog i c).cog i = c := by simp [State.cog, State.setCog, lookD]

theorem State.setCog_ne (s : State) (i : Nat) (c : Cog) {z : Nat} (h : i ≠ z) : (s.setCog i c).cog z = s.cog z := by
  simp [State.cog, State.setCog, lookD, look_put_ne _ _ h]

/-- setPin leaves every field but `pins`. -/
@[simp] theorem State.setPin_frame (s : State) (n : Nat) (x : Pin) :
    (s.setPin n x).tb = s.tb ∧ (s.setPin n x).regs = s.regs ∧ (s.setPin n x).mem = s.mem ∧ (s.setPin n x).bad = s.bad ∧
    (s.setPin n x).writeBacks = s.writeBacks ∧ (s.setPin n x).camWrites = s.camWrites ∧ (s.setPin n x).cogs = s.cogs ∧
    (s.setPin n x).chans = s.chans ∧ (s.setPin n x).hubHold = s.hubHold ∧ (s.setPin n x).queues = s.queues ∧ (s.setPin n x).outbox = s.outbox ∧
    (s.setPin n x).aligning = s.aligning ∧ (s.setPin n x).slewTicks = s.slewTicks ∧ (s.setPin n x).timeref = s.timeref ∧
    (s.setPin n x).cads = s.cads ∧ (s.setPin n x).axes = s.axes ∧ (s.setPin n x).tables = s.tables ∧ (s.setPin n x).shadow = s.shadow ∧
    (s.setPin n x).staging = s.staging ∧ (s.setPin n x).evals = s.evals ∧ (s.setPin n x).chnOrg = s.chnOrg ∧ (s.setPin n x).servoWas = s.servoWas ∧
    (s.setPin n x).dlActed = s.dlActed ∧ (s.setPin n x).rel = s.rel ∧ (s.setPin n x).pwms = s.pwms ∧ (s.setPin n x).cws = s.cws ∧
    (s.setPin n x).encs = s.encs ∧ (s.setPin n x).capLost = s.capLost ∧ (s.setPin n x).caps = s.caps ∧ (s.setPin n x).misBanks = s.misBanks ∧
    (s.setPin n x).misUntil = s.misUntil ∧ (s.setPin n x).ports = s.ports ∧ (s.setPin n x).vis = s.vis ∧ (s.setPin n x).links = s.links ∧
    (s.setPin n x).spanTo = s.spanTo ∧ (s.setPin n x).tanFixed = s.tanFixed ∧ (s.setPin n x).tanGood = s.tanGood ∧ (s.setPin n x).pcie = s.pcie ∧
    (s.setPin n x).aer = s.aer ∧ (s.setPin n x).perst = s.perst ∧ (s.setPin n x).movers = s.movers ∧ (s.setPin n x).movTurn = s.movTurn ∧
    (s.setPin n x).jrn = s.jrn ∧ (s.setPin n x).rpl = s.rpl ∧ (s.setPin n x).trace = s.trace ∧ (s.setPin n x).traceLost = s.traceLost ∧
    (s.setPin n x).pels = s.pels ∧ (s.setPin n x).govs = s.govs ∧ (s.setPin n x).uvHold = s.uvHold ∧ (s.setPin n x).railUntil = s.railUntil ∧
    (s.setPin n x).mramWait = s.mramWait ∧ (s.setPin n x).daus = s.daus ∧ (s.setPin n x).benchBy = s.benchBy ∧ (s.setPin n x).boundary = s.boundary ∧
    (s.setPin n x).boot = s.boot ∧ (s.setPin n x).erased = s.erased ∧ (s.setPin n x).blow = s.blow ∧ (s.setPin n x).resetWaits = s.resetWaits ∧
    (s.setPin n x).repairs = s.repairs ∧ (s.setPin n x).xing = s.xing ∧ (s.setPin n x).evSrc = s.evSrc ∧ (s.setPin n x).evGrp = s.evGrp ∧
    (s.setPin n x).doms = s.doms ∧ (s.setPin n x).elog = s.elog ∧ (s.setPin n x).out = s.out ∧ (s.setPin n x).free = s.free ∧
    (s.setPin n x).pending = s.pending :=
  ⟨rfl, rfl, rfl, rfl, rfl, rfl, rfl, rfl, rfl, rfl, rfl, rfl, rfl, rfl, rfl, rfl, rfl, rfl, rfl, rfl, rfl, rfl, rfl, rfl, rfl, rfl, rfl, rfl, rfl, rfl, rfl, rfl, rfl, rfl, rfl, rfl, rfl, rfl, rfl, rfl, rfl, rfl, rfl, rfl, rfl, rfl, rfl, rfl, rfl, rfl, rfl, rfl, rfl, rfl, rfl, rfl, rfl, rfl, rfl, rfl, rfl, rfl, rfl, rfl, rfl, rfl, rfl⟩

@[simp] theorem State.setPin_self (s : State) (n : Nat) (x : Pin) : (s.setPin n x).pin n = x := by simp [State.pin, State.setPin, lookD]

theorem State.setPin_ne (s : State) (n : Nat) (x : Pin) {z : Nat} (h : n ≠ z) : (s.setPin n x).pin z = s.pin z := by
  simp [State.pin, State.setPin, lookD, look_put_ne _ _ h]

/-- setPwm leaves every field but `pwms`. -/
@[simp] theorem State.setPwm_frame (s : State) (j : Nat) (x : Pwm) :
    (s.setPwm j x).tb = s.tb ∧ (s.setPwm j x).regs = s.regs ∧ (s.setPwm j x).mem = s.mem ∧ (s.setPwm j x).bad = s.bad ∧
    (s.setPwm j x).writeBacks = s.writeBacks ∧ (s.setPwm j x).camWrites = s.camWrites ∧ (s.setPwm j x).cogs = s.cogs ∧
    (s.setPwm j x).chans = s.chans ∧ (s.setPwm j x).hubHold = s.hubHold ∧ (s.setPwm j x).queues = s.queues ∧ (s.setPwm j x).outbox = s.outbox ∧
    (s.setPwm j x).aligning = s.aligning ∧ (s.setPwm j x).slewTicks = s.slewTicks ∧ (s.setPwm j x).timeref = s.timeref ∧
    (s.setPwm j x).cads = s.cads ∧ (s.setPwm j x).axes = s.axes ∧ (s.setPwm j x).tables = s.tables ∧ (s.setPwm j x).shadow = s.shadow ∧
    (s.setPwm j x).staging = s.staging ∧ (s.setPwm j x).evals = s.evals ∧ (s.setPwm j x).chnOrg = s.chnOrg ∧ (s.setPwm j x).servoWas = s.servoWas ∧
    (s.setPwm j x).dlActed = s.dlActed ∧ (s.setPwm j x).rel = s.rel ∧ (s.setPwm j x).pins = s.pins ∧ (s.setPwm j x).cws = s.cws ∧
    (s.setPwm j x).encs = s.encs ∧ (s.setPwm j x).capLost = s.capLost ∧ (s.setPwm j x).caps = s.caps ∧ (s.setPwm j x).misBanks = s.misBanks ∧
    (s.setPwm j x).misUntil = s.misUntil ∧ (s.setPwm j x).ports = s.ports ∧ (s.setPwm j x).vis = s.vis ∧ (s.setPwm j x).links = s.links ∧
    (s.setPwm j x).spanTo = s.spanTo ∧ (s.setPwm j x).tanFixed = s.tanFixed ∧ (s.setPwm j x).tanGood = s.tanGood ∧ (s.setPwm j x).pcie = s.pcie ∧
    (s.setPwm j x).aer = s.aer ∧ (s.setPwm j x).perst = s.perst ∧ (s.setPwm j x).movers = s.movers ∧ (s.setPwm j x).movTurn = s.movTurn ∧
    (s.setPwm j x).jrn = s.jrn ∧ (s.setPwm j x).rpl = s.rpl ∧ (s.setPwm j x).trace = s.trace ∧ (s.setPwm j x).traceLost = s.traceLost ∧
    (s.setPwm j x).pels = s.pels ∧ (s.setPwm j x).govs = s.govs ∧ (s.setPwm j x).uvHold = s.uvHold ∧ (s.setPwm j x).railUntil = s.railUntil ∧
    (s.setPwm j x).mramWait = s.mramWait ∧ (s.setPwm j x).daus = s.daus ∧ (s.setPwm j x).benchBy = s.benchBy ∧ (s.setPwm j x).boundary = s.boundary ∧
    (s.setPwm j x).boot = s.boot ∧ (s.setPwm j x).erased = s.erased ∧ (s.setPwm j x).blow = s.blow ∧ (s.setPwm j x).resetWaits = s.resetWaits ∧
    (s.setPwm j x).repairs = s.repairs ∧ (s.setPwm j x).xing = s.xing ∧ (s.setPwm j x).evSrc = s.evSrc ∧ (s.setPwm j x).evGrp = s.evGrp ∧
    (s.setPwm j x).doms = s.doms ∧ (s.setPwm j x).elog = s.elog ∧ (s.setPwm j x).out = s.out ∧ (s.setPwm j x).free = s.free ∧
    (s.setPwm j x).pending = s.pending :=
  ⟨rfl, rfl, rfl, rfl, rfl, rfl, rfl, rfl, rfl, rfl, rfl, rfl, rfl, rfl, rfl, rfl, rfl, rfl, rfl, rfl, rfl, rfl, rfl, rfl, rfl, rfl, rfl, rfl, rfl, rfl, rfl, rfl, rfl, rfl, rfl, rfl, rfl, rfl, rfl, rfl, rfl, rfl, rfl, rfl, rfl, rfl, rfl, rfl, rfl, rfl, rfl, rfl, rfl, rfl, rfl, rfl, rfl, rfl, rfl, rfl, rfl, rfl, rfl, rfl, rfl, rfl, rfl⟩

@[simp] theorem State.setPwm_self (s : State) (j : Nat) (x : Pwm) : (s.setPwm j x).pwm j = x := by simp [State.pwm, State.setPwm, lookD]

theorem State.setPwm_ne (s : State) (j : Nat) (x : Pwm) {z : Nat} (h : j ≠ z) : (s.setPwm j x).pwm z = s.pwm z := by
  simp [State.pwm, State.setPwm, lookD, look_put_ne _ _ h]

/-- setEnc leaves every field but `encs`. -/
@[simp] theorem State.setEnc_frame (s : State) (e : Nat) (x : Encoder) :
    (s.setEnc e x).tb = s.tb ∧ (s.setEnc e x).regs = s.regs ∧ (s.setEnc e x).mem = s.mem ∧ (s.setEnc e x).bad = s.bad ∧
    (s.setEnc e x).writeBacks = s.writeBacks ∧ (s.setEnc e x).camWrites = s.camWrites ∧ (s.setEnc e x).cogs = s.cogs ∧
    (s.setEnc e x).chans = s.chans ∧ (s.setEnc e x).hubHold = s.hubHold ∧ (s.setEnc e x).queues = s.queues ∧ (s.setEnc e x).outbox = s.outbox ∧
    (s.setEnc e x).aligning = s.aligning ∧ (s.setEnc e x).slewTicks = s.slewTicks ∧ (s.setEnc e x).timeref = s.timeref ∧
    (s.setEnc e x).cads = s.cads ∧ (s.setEnc e x).axes = s.axes ∧ (s.setEnc e x).tables = s.tables ∧ (s.setEnc e x).shadow = s.shadow ∧
    (s.setEnc e x).staging = s.staging ∧ (s.setEnc e x).evals = s.evals ∧ (s.setEnc e x).chnOrg = s.chnOrg ∧ (s.setEnc e x).servoWas = s.servoWas ∧
    (s.setEnc e x).dlActed = s.dlActed ∧ (s.setEnc e x).rel = s.rel ∧ (s.setEnc e x).pins = s.pins ∧ (s.setEnc e x).pwms = s.pwms ∧
    (s.setEnc e x).cws = s.cws ∧ (s.setEnc e x).capLost = s.capLost ∧ (s.setEnc e x).caps = s.caps ∧ (s.setEnc e x).misBanks = s.misBanks ∧
    (s.setEnc e x).misUntil = s.misUntil ∧ (s.setEnc e x).ports = s.ports ∧ (s.setEnc e x).vis = s.vis ∧ (s.setEnc e x).links = s.links ∧
    (s.setEnc e x).spanTo = s.spanTo ∧ (s.setEnc e x).tanFixed = s.tanFixed ∧ (s.setEnc e x).tanGood = s.tanGood ∧ (s.setEnc e x).pcie = s.pcie ∧
    (s.setEnc e x).aer = s.aer ∧ (s.setEnc e x).perst = s.perst ∧ (s.setEnc e x).movers = s.movers ∧ (s.setEnc e x).movTurn = s.movTurn ∧
    (s.setEnc e x).jrn = s.jrn ∧ (s.setEnc e x).rpl = s.rpl ∧ (s.setEnc e x).trace = s.trace ∧ (s.setEnc e x).traceLost = s.traceLost ∧
    (s.setEnc e x).pels = s.pels ∧ (s.setEnc e x).govs = s.govs ∧ (s.setEnc e x).uvHold = s.uvHold ∧ (s.setEnc e x).railUntil = s.railUntil ∧
    (s.setEnc e x).mramWait = s.mramWait ∧ (s.setEnc e x).daus = s.daus ∧ (s.setEnc e x).benchBy = s.benchBy ∧ (s.setEnc e x).boundary = s.boundary ∧
    (s.setEnc e x).boot = s.boot ∧ (s.setEnc e x).erased = s.erased ∧ (s.setEnc e x).blow = s.blow ∧ (s.setEnc e x).resetWaits = s.resetWaits ∧
    (s.setEnc e x).repairs = s.repairs ∧ (s.setEnc e x).xing = s.xing ∧ (s.setEnc e x).evSrc = s.evSrc ∧ (s.setEnc e x).evGrp = s.evGrp ∧
    (s.setEnc e x).doms = s.doms ∧ (s.setEnc e x).elog = s.elog ∧ (s.setEnc e x).out = s.out ∧ (s.setEnc e x).free = s.free ∧
    (s.setEnc e x).pending = s.pending :=
  ⟨rfl, rfl, rfl, rfl, rfl, rfl, rfl, rfl, rfl, rfl, rfl, rfl, rfl, rfl, rfl, rfl, rfl, rfl, rfl, rfl, rfl, rfl, rfl, rfl, rfl, rfl, rfl, rfl, rfl, rfl, rfl, rfl, rfl, rfl, rfl, rfl, rfl, rfl, rfl, rfl, rfl, rfl, rfl, rfl, rfl, rfl, rfl, rfl, rfl, rfl, rfl, rfl, rfl, rfl, rfl, rfl, rfl, rfl, rfl, rfl, rfl, rfl, rfl, rfl, rfl, rfl, rfl⟩

@[simp] theorem State.setEnc_self (s : State) (e : Nat) (x : Encoder) : (s.setEnc e x).enc e = x := by simp [State.enc, State.setEnc, lookD]

theorem State.setEnc_ne (s : State) (e : Nat) (x : Encoder) {z : Nat} (h : e ≠ z) : (s.setEnc e x).enc z = s.enc z := by
  simp [State.enc, State.setEnc, lookD, look_put_ne _ _ h]

/-- setChan leaves every field but `chans`. -/
@[simp] theorem State.setChan_frame (s : State) (n : Nat) (x : Chan) :
    (s.setChan n x).tb = s.tb ∧ (s.setChan n x).regs = s.regs ∧ (s.setChan n x).mem = s.mem ∧ (s.setChan n x).bad = s.bad ∧
    (s.setChan n x).writeBacks = s.writeBacks ∧ (s.setChan n x).camWrites = s.camWrites ∧ (s.setChan n x).cogs = s.cogs ∧
    (s.setChan n x).hubHold = s.hubHold ∧ (s.setChan n x).queues = s.queues ∧ (s.setChan n x).outbox = s.outbox ∧
    (s.setChan n x).aligning = s.aligning ∧ (s.setChan n x).slewTicks = s.slewTicks ∧ (s.setChan n x).timeref = s.timeref ∧
    (s.setChan n x).cads = s.cads ∧ (s.setChan n x).axes = s.axes ∧ (s.setChan n x).tables = s.tables ∧ (s.setChan n x).shadow = s.shadow ∧
    (s.setChan n x).staging = s.staging ∧ (s.setChan n x).evals = s.evals ∧ (s.setChan n x).chnOrg = s.chnOrg ∧
    (s.setChan n x).servoWas = s.servoWas ∧ (s.setChan n x).dlActed = s.dlActed ∧ (s.setChan n x).rel = s.rel ∧ (s.setChan n x).pins = s.pins ∧
    (s.setChan n x).pwms = s.pwms ∧ (s.setChan n x).cws = s.cws ∧ (s.setChan n x).encs = s.encs ∧ (s.setChan n x).capLost = s.capLost ∧
    (s.setChan n x).caps = s.caps ∧ (s.setChan n x).misBanks = s.misBanks ∧ (s.setChan n x).misUntil = s.misUntil ∧ (s.setChan n x).ports = s.ports ∧
    (s.setChan n x).vis = s.vis ∧ (s.setChan n x).links = s.links ∧ (s.setChan n x).spanTo = s.spanTo ∧ (s.setChan n x).tanFixed = s.tanFixed ∧
    (s.setChan n x).tanGood = s.tanGood ∧ (s.setChan n x).pcie = s.pcie ∧ (s.setChan n x).aer = s.aer ∧ (s.setChan n x).perst = s.perst ∧
    (s.setChan n x).movers = s.movers ∧ (s.setChan n x).movTurn = s.movTurn ∧ (s.setChan n x).jrn = s.jrn ∧ (s.setChan n x).rpl = s.rpl ∧
    (s.setChan n x).trace = s.trace ∧ (s.setChan n x).traceLost = s.traceLost ∧ (s.setChan n x).pels = s.pels ∧ (s.setChan n x).govs = s.govs ∧
    (s.setChan n x).uvHold = s.uvHold ∧ (s.setChan n x).railUntil = s.railUntil ∧ (s.setChan n x).mramWait = s.mramWait ∧
    (s.setChan n x).daus = s.daus ∧ (s.setChan n x).benchBy = s.benchBy ∧ (s.setChan n x).boundary = s.boundary ∧ (s.setChan n x).boot = s.boot ∧
    (s.setChan n x).erased = s.erased ∧ (s.setChan n x).blow = s.blow ∧ (s.setChan n x).resetWaits = s.resetWaits ∧
    (s.setChan n x).repairs = s.repairs ∧ (s.setChan n x).xing = s.xing ∧ (s.setChan n x).evSrc = s.evSrc ∧ (s.setChan n x).evGrp = s.evGrp ∧
    (s.setChan n x).doms = s.doms ∧ (s.setChan n x).elog = s.elog ∧ (s.setChan n x).out = s.out ∧ (s.setChan n x).free = s.free ∧
    (s.setChan n x).pending = s.pending :=
  ⟨rfl, rfl, rfl, rfl, rfl, rfl, rfl, rfl, rfl, rfl, rfl, rfl, rfl, rfl, rfl, rfl, rfl, rfl, rfl, rfl, rfl, rfl, rfl, rfl, rfl, rfl, rfl, rfl, rfl, rfl, rfl, rfl, rfl, rfl, rfl, rfl, rfl, rfl, rfl, rfl, rfl, rfl, rfl, rfl, rfl, rfl, rfl, rfl, rfl, rfl, rfl, rfl, rfl, rfl, rfl, rfl, rfl, rfl, rfl, rfl, rfl, rfl, rfl, rfl, rfl, rfl, rfl⟩

@[simp] theorem State.setChan_self (s : State) (n : Nat) (x : Chan) : (s.setChan n x).chan n = x := by simp [State.chan, State.setChan, lookD]

theorem State.setChan_ne (s : State) (n : Nat) (x : Chan) {z : Nat} (h : n ≠ z) : (s.setChan n x).chan z = s.chan z := by
  simp [State.chan, State.setChan, lookD, look_put_ne _ _ h]

/-- setPort leaves every field but `ports`. -/
@[simp] theorem State.setPort_frame (s : State) (p : Nat) (x : ChainPort) :
    (s.setPort p x).tb = s.tb ∧ (s.setPort p x).regs = s.regs ∧ (s.setPort p x).mem = s.mem ∧ (s.setPort p x).bad = s.bad ∧
    (s.setPort p x).writeBacks = s.writeBacks ∧ (s.setPort p x).camWrites = s.camWrites ∧ (s.setPort p x).cogs = s.cogs ∧
    (s.setPort p x).chans = s.chans ∧ (s.setPort p x).hubHold = s.hubHold ∧ (s.setPort p x).queues = s.queues ∧ (s.setPort p x).outbox = s.outbox ∧
    (s.setPort p x).aligning = s.aligning ∧ (s.setPort p x).slewTicks = s.slewTicks ∧ (s.setPort p x).timeref = s.timeref ∧
    (s.setPort p x).cads = s.cads ∧ (s.setPort p x).axes = s.axes ∧ (s.setPort p x).tables = s.tables ∧ (s.setPort p x).shadow = s.shadow ∧
    (s.setPort p x).staging = s.staging ∧ (s.setPort p x).evals = s.evals ∧ (s.setPort p x).chnOrg = s.chnOrg ∧
    (s.setPort p x).servoWas = s.servoWas ∧ (s.setPort p x).dlActed = s.dlActed ∧ (s.setPort p x).rel = s.rel ∧ (s.setPort p x).pins = s.pins ∧
    (s.setPort p x).pwms = s.pwms ∧ (s.setPort p x).cws = s.cws ∧ (s.setPort p x).encs = s.encs ∧ (s.setPort p x).capLost = s.capLost ∧
    (s.setPort p x).caps = s.caps ∧ (s.setPort p x).misBanks = s.misBanks ∧ (s.setPort p x).misUntil = s.misUntil ∧ (s.setPort p x).vis = s.vis ∧
    (s.setPort p x).links = s.links ∧ (s.setPort p x).spanTo = s.spanTo ∧ (s.setPort p x).tanFixed = s.tanFixed ∧
    (s.setPort p x).tanGood = s.tanGood ∧ (s.setPort p x).pcie = s.pcie ∧ (s.setPort p x).aer = s.aer ∧ (s.setPort p x).perst = s.perst ∧
    (s.setPort p x).movers = s.movers ∧ (s.setPort p x).movTurn = s.movTurn ∧ (s.setPort p x).jrn = s.jrn ∧ (s.setPort p x).rpl = s.rpl ∧
    (s.setPort p x).trace = s.trace ∧ (s.setPort p x).traceLost = s.traceLost ∧ (s.setPort p x).pels = s.pels ∧ (s.setPort p x).govs = s.govs ∧
    (s.setPort p x).uvHold = s.uvHold ∧ (s.setPort p x).railUntil = s.railUntil ∧ (s.setPort p x).mramWait = s.mramWait ∧
    (s.setPort p x).daus = s.daus ∧ (s.setPort p x).benchBy = s.benchBy ∧ (s.setPort p x).boundary = s.boundary ∧ (s.setPort p x).boot = s.boot ∧
    (s.setPort p x).erased = s.erased ∧ (s.setPort p x).blow = s.blow ∧ (s.setPort p x).resetWaits = s.resetWaits ∧
    (s.setPort p x).repairs = s.repairs ∧ (s.setPort p x).xing = s.xing ∧ (s.setPort p x).evSrc = s.evSrc ∧ (s.setPort p x).evGrp = s.evGrp ∧
    (s.setPort p x).doms = s.doms ∧ (s.setPort p x).elog = s.elog ∧ (s.setPort p x).out = s.out ∧ (s.setPort p x).free = s.free ∧
    (s.setPort p x).pending = s.pending :=
  ⟨rfl, rfl, rfl, rfl, rfl, rfl, rfl, rfl, rfl, rfl, rfl, rfl, rfl, rfl, rfl, rfl, rfl, rfl, rfl, rfl, rfl, rfl, rfl, rfl, rfl, rfl, rfl, rfl, rfl, rfl, rfl, rfl, rfl, rfl, rfl, rfl, rfl, rfl, rfl, rfl, rfl, rfl, rfl, rfl, rfl, rfl, rfl, rfl, rfl, rfl, rfl, rfl, rfl, rfl, rfl, rfl, rfl, rfl, rfl, rfl, rfl, rfl, rfl, rfl, rfl, rfl, rfl⟩

@[simp] theorem State.setPort_self (s : State) (p : Nat) (x : ChainPort) : (s.setPort p x).port p = x := by simp [State.port, State.setPort, lookD]

theorem State.setPort_ne (s : State) (p : Nat) (x : ChainPort) {z : Nat} (h : p ≠ z) : (s.setPort p x).port z = s.port z := by
  simp [State.port, State.setPort, lookD, look_put_ne _ _ h]

/-- setLink leaves every field but `links`. -/
@[simp] theorem State.setLink_frame (s : State) (i : Nat) (x : LinkPort) :
    (s.setLink i x).tb = s.tb ∧ (s.setLink i x).regs = s.regs ∧ (s.setLink i x).mem = s.mem ∧ (s.setLink i x).bad = s.bad ∧
    (s.setLink i x).writeBacks = s.writeBacks ∧ (s.setLink i x).camWrites = s.camWrites ∧ (s.setLink i x).cogs = s.cogs ∧
    (s.setLink i x).chans = s.chans ∧ (s.setLink i x).hubHold = s.hubHold ∧ (s.setLink i x).queues = s.queues ∧ (s.setLink i x).outbox = s.outbox ∧
    (s.setLink i x).aligning = s.aligning ∧ (s.setLink i x).slewTicks = s.slewTicks ∧ (s.setLink i x).timeref = s.timeref ∧
    (s.setLink i x).cads = s.cads ∧ (s.setLink i x).axes = s.axes ∧ (s.setLink i x).tables = s.tables ∧ (s.setLink i x).shadow = s.shadow ∧
    (s.setLink i x).staging = s.staging ∧ (s.setLink i x).evals = s.evals ∧ (s.setLink i x).chnOrg = s.chnOrg ∧
    (s.setLink i x).servoWas = s.servoWas ∧ (s.setLink i x).dlActed = s.dlActed ∧ (s.setLink i x).rel = s.rel ∧ (s.setLink i x).pins = s.pins ∧
    (s.setLink i x).pwms = s.pwms ∧ (s.setLink i x).cws = s.cws ∧ (s.setLink i x).encs = s.encs ∧ (s.setLink i x).capLost = s.capLost ∧
    (s.setLink i x).caps = s.caps ∧ (s.setLink i x).misBanks = s.misBanks ∧ (s.setLink i x).misUntil = s.misUntil ∧ (s.setLink i x).ports = s.ports ∧
    (s.setLink i x).vis = s.vis ∧ (s.setLink i x).spanTo = s.spanTo ∧ (s.setLink i x).tanFixed = s.tanFixed ∧ (s.setLink i x).tanGood = s.tanGood ∧
    (s.setLink i x).pcie = s.pcie ∧ (s.setLink i x).aer = s.aer ∧ (s.setLink i x).perst = s.perst ∧ (s.setLink i x).movers = s.movers ∧
    (s.setLink i x).movTurn = s.movTurn ∧ (s.setLink i x).jrn = s.jrn ∧ (s.setLink i x).rpl = s.rpl ∧ (s.setLink i x).trace = s.trace ∧
    (s.setLink i x).traceLost = s.traceLost ∧ (s.setLink i x).pels = s.pels ∧ (s.setLink i x).govs = s.govs ∧ (s.setLink i x).uvHold = s.uvHold ∧
    (s.setLink i x).railUntil = s.railUntil ∧ (s.setLink i x).mramWait = s.mramWait ∧ (s.setLink i x).daus = s.daus ∧
    (s.setLink i x).benchBy = s.benchBy ∧ (s.setLink i x).boundary = s.boundary ∧ (s.setLink i x).boot = s.boot ∧ (s.setLink i x).erased = s.erased ∧
    (s.setLink i x).blow = s.blow ∧ (s.setLink i x).resetWaits = s.resetWaits ∧ (s.setLink i x).repairs = s.repairs ∧ (s.setLink i x).xing = s.xing ∧
    (s.setLink i x).evSrc = s.evSrc ∧ (s.setLink i x).evGrp = s.evGrp ∧ (s.setLink i x).doms = s.doms ∧ (s.setLink i x).elog = s.elog ∧
    (s.setLink i x).out = s.out ∧ (s.setLink i x).free = s.free ∧ (s.setLink i x).pending = s.pending :=
  ⟨rfl, rfl, rfl, rfl, rfl, rfl, rfl, rfl, rfl, rfl, rfl, rfl, rfl, rfl, rfl, rfl, rfl, rfl, rfl, rfl, rfl, rfl, rfl, rfl, rfl, rfl, rfl, rfl, rfl, rfl, rfl, rfl, rfl, rfl, rfl, rfl, rfl, rfl, rfl, rfl, rfl, rfl, rfl, rfl, rfl, rfl, rfl, rfl, rfl, rfl, rfl, rfl, rfl, rfl, rfl, rfl, rfl, rfl, rfl, rfl, rfl, rfl, rfl, rfl, rfl, rfl, rfl⟩

@[simp] theorem State.setLink_self (s : State) (i : Nat) (x : LinkPort) : (s.setLink i x).link i = x := by simp [State.link, State.setLink, lookD]

theorem State.setLink_ne (s : State) (i : Nat) (x : LinkPort) {z : Nat} (h : i ≠ z) : (s.setLink i x).link z = s.link z := by
  simp [State.link, State.setLink, lookD, look_put_ne _ _ h]

/-- setQueue leaves every field but `queues`. -/
@[simp] theorem State.setQueue_frame (s : State) (q : Nat) (x : Queue) :
    (s.setQueue q x).tb = s.tb ∧ (s.setQueue q x).regs = s.regs ∧ (s.setQueue q x).mem = s.mem ∧ (s.setQueue q x).bad = s.bad ∧
    (s.setQueue q x).writeBacks = s.writeBacks ∧ (s.setQueue q x).camWrites = s.camWrites ∧ (s.setQueue q x).cogs = s.cogs ∧
    (s.setQueue q x).chans = s.chans ∧ (s.setQueue q x).hubHold = s.hubHold ∧ (s.setQueue q x).outbox = s.outbox ∧
    (s.setQueue q x).aligning = s.aligning ∧ (s.setQueue q x).slewTicks = s.slewTicks ∧ (s.setQueue q x).timeref = s.timeref ∧
    (s.setQueue q x).cads = s.cads ∧ (s.setQueue q x).axes = s.axes ∧ (s.setQueue q x).tables = s.tables ∧ (s.setQueue q x).shadow = s.shadow ∧
    (s.setQueue q x).staging = s.staging ∧ (s.setQueue q x).evals = s.evals ∧ (s.setQueue q x).chnOrg = s.chnOrg ∧
    (s.setQueue q x).servoWas = s.servoWas ∧ (s.setQueue q x).dlActed = s.dlActed ∧ (s.setQueue q x).rel = s.rel ∧ (s.setQueue q x).pins = s.pins ∧
    (s.setQueue q x).pwms = s.pwms ∧ (s.setQueue q x).cws = s.cws ∧ (s.setQueue q x).encs = s.encs ∧ (s.setQueue q x).capLost = s.capLost ∧
    (s.setQueue q x).caps = s.caps ∧ (s.setQueue q x).misBanks = s.misBanks ∧ (s.setQueue q x).misUntil = s.misUntil ∧
    (s.setQueue q x).ports = s.ports ∧ (s.setQueue q x).vis = s.vis ∧ (s.setQueue q x).links = s.links ∧ (s.setQueue q x).spanTo = s.spanTo ∧
    (s.setQueue q x).tanFixed = s.tanFixed ∧ (s.setQueue q x).tanGood = s.tanGood ∧ (s.setQueue q x).pcie = s.pcie ∧ (s.setQueue q x).aer = s.aer ∧
    (s.setQueue q x).perst = s.perst ∧ (s.setQueue q x).movers = s.movers ∧ (s.setQueue q x).movTurn = s.movTurn ∧ (s.setQueue q x).jrn = s.jrn ∧
    (s.setQueue q x).rpl = s.rpl ∧ (s.setQueue q x).trace = s.trace ∧ (s.setQueue q x).traceLost = s.traceLost ∧ (s.setQueue q x).pels = s.pels ∧
    (s.setQueue q x).govs = s.govs ∧ (s.setQueue q x).uvHold = s.uvHold ∧ (s.setQueue q x).railUntil = s.railUntil ∧
    (s.setQueue q x).mramWait = s.mramWait ∧ (s.setQueue q x).daus = s.daus ∧ (s.setQueue q x).benchBy = s.benchBy ∧
    (s.setQueue q x).boundary = s.boundary ∧ (s.setQueue q x).boot = s.boot ∧ (s.setQueue q x).erased = s.erased ∧ (s.setQueue q x).blow = s.blow ∧
    (s.setQueue q x).resetWaits = s.resetWaits ∧ (s.setQueue q x).repairs = s.repairs ∧ (s.setQueue q x).xing = s.xing ∧
    (s.setQueue q x).evSrc = s.evSrc ∧ (s.setQueue q x).evGrp = s.evGrp ∧ (s.setQueue q x).doms = s.doms ∧ (s.setQueue q x).elog = s.elog ∧
    (s.setQueue q x).out = s.out ∧ (s.setQueue q x).free = s.free ∧ (s.setQueue q x).pending = s.pending :=
  ⟨rfl, rfl, rfl, rfl, rfl, rfl, rfl, rfl, rfl, rfl, rfl, rfl, rfl, rfl, rfl, rfl, rfl, rfl, rfl, rfl, rfl, rfl, rfl, rfl, rfl, rfl, rfl, rfl, rfl, rfl, rfl, rfl, rfl, rfl, rfl, rfl, rfl, rfl, rfl, rfl, rfl, rfl, rfl, rfl, rfl, rfl, rfl, rfl, rfl, rfl, rfl, rfl, rfl, rfl, rfl, rfl, rfl, rfl, rfl, rfl, rfl, rfl, rfl, rfl, rfl, rfl, rfl⟩

@[simp] theorem State.setQueue_self (s : State) (q : Nat) (x : Queue) : (s.setQueue q x).queue q = x := by simp [State.queue, State.setQueue, lookD]

theorem State.setQueue_ne (s : State) (q : Nat) (x : Queue) {z : Nat} (h : q ≠ z) : (s.setQueue q x).queue z = s.queue z := by
  simp [State.queue, State.setQueue, lookD, look_put_ne _ _ h]

/-- setCad leaves every field but `cads`. -/
@[simp] theorem State.setCad_frame (s : State) (n : Nat) (x : Cadence) :
    (s.setCad n x).tb = s.tb ∧ (s.setCad n x).regs = s.regs ∧ (s.setCad n x).mem = s.mem ∧ (s.setCad n x).bad = s.bad ∧
    (s.setCad n x).writeBacks = s.writeBacks ∧ (s.setCad n x).camWrites = s.camWrites ∧ (s.setCad n x).cogs = s.cogs ∧
    (s.setCad n x).chans = s.chans ∧ (s.setCad n x).hubHold = s.hubHold ∧ (s.setCad n x).queues = s.queues ∧ (s.setCad n x).outbox = s.outbox ∧
    (s.setCad n x).aligning = s.aligning ∧ (s.setCad n x).slewTicks = s.slewTicks ∧ (s.setCad n x).timeref = s.timeref ∧
    (s.setCad n x).axes = s.axes ∧ (s.setCad n x).tables = s.tables ∧ (s.setCad n x).shadow = s.shadow ∧ (s.setCad n x).staging = s.staging ∧
    (s.setCad n x).evals = s.evals ∧ (s.setCad n x).chnOrg = s.chnOrg ∧ (s.setCad n x).servoWas = s.servoWas ∧ (s.setCad n x).dlActed = s.dlActed ∧
    (s.setCad n x).rel = s.rel ∧ (s.setCad n x).pins = s.pins ∧ (s.setCad n x).pwms = s.pwms ∧ (s.setCad n x).cws = s.cws ∧
    (s.setCad n x).encs = s.encs ∧ (s.setCad n x).capLost = s.capLost ∧ (s.setCad n x).caps = s.caps ∧ (s.setCad n x).misBanks = s.misBanks ∧
    (s.setCad n x).misUntil = s.misUntil ∧ (s.setCad n x).ports = s.ports ∧ (s.setCad n x).vis = s.vis ∧ (s.setCad n x).links = s.links ∧
    (s.setCad n x).spanTo = s.spanTo ∧ (s.setCad n x).tanFixed = s.tanFixed ∧ (s.setCad n x).tanGood = s.tanGood ∧ (s.setCad n x).pcie = s.pcie ∧
    (s.setCad n x).aer = s.aer ∧ (s.setCad n x).perst = s.perst ∧ (s.setCad n x).movers = s.movers ∧ (s.setCad n x).movTurn = s.movTurn ∧
    (s.setCad n x).jrn = s.jrn ∧ (s.setCad n x).rpl = s.rpl ∧ (s.setCad n x).trace = s.trace ∧ (s.setCad n x).traceLost = s.traceLost ∧
    (s.setCad n x).pels = s.pels ∧ (s.setCad n x).govs = s.govs ∧ (s.setCad n x).uvHold = s.uvHold ∧ (s.setCad n x).railUntil = s.railUntil ∧
    (s.setCad n x).mramWait = s.mramWait ∧ (s.setCad n x).daus = s.daus ∧ (s.setCad n x).benchBy = s.benchBy ∧ (s.setCad n x).boundary = s.boundary ∧
    (s.setCad n x).boot = s.boot ∧ (s.setCad n x).erased = s.erased ∧ (s.setCad n x).blow = s.blow ∧ (s.setCad n x).resetWaits = s.resetWaits ∧
    (s.setCad n x).repairs = s.repairs ∧ (s.setCad n x).xing = s.xing ∧ (s.setCad n x).evSrc = s.evSrc ∧ (s.setCad n x).evGrp = s.evGrp ∧
    (s.setCad n x).doms = s.doms ∧ (s.setCad n x).elog = s.elog ∧ (s.setCad n x).out = s.out ∧ (s.setCad n x).free = s.free ∧
    (s.setCad n x).pending = s.pending :=
  ⟨rfl, rfl, rfl, rfl, rfl, rfl, rfl, rfl, rfl, rfl, rfl, rfl, rfl, rfl, rfl, rfl, rfl, rfl, rfl, rfl, rfl, rfl, rfl, rfl, rfl, rfl, rfl, rfl, rfl, rfl, rfl, rfl, rfl, rfl, rfl, rfl, rfl, rfl, rfl, rfl, rfl, rfl, rfl, rfl, rfl, rfl, rfl, rfl, rfl, rfl, rfl, rfl, rfl, rfl, rfl, rfl, rfl, rfl, rfl, rfl, rfl, rfl, rfl, rfl, rfl, rfl, rfl⟩

@[simp] theorem State.setCad_self (s : State) (n : Nat) (x : Cadence) : (s.setCad n x).cad n = x := by simp [State.cad, State.setCad, lookD]

theorem State.setCad_ne (s : State) (n : Nat) (x : Cadence) {z : Nat} (h : n ≠ z) : (s.setCad n x).cad z = s.cad z := by
  simp [State.cad, State.setCad, lookD, look_put_ne _ _ h]

/-- setAxis leaves every field but `axes`. -/
@[simp] theorem State.setAxis_frame (s : State) (a : Nat) (x : Axis) :
    (s.setAxis a x).tb = s.tb ∧ (s.setAxis a x).regs = s.regs ∧ (s.setAxis a x).mem = s.mem ∧ (s.setAxis a x).bad = s.bad ∧
    (s.setAxis a x).writeBacks = s.writeBacks ∧ (s.setAxis a x).camWrites = s.camWrites ∧ (s.setAxis a x).cogs = s.cogs ∧
    (s.setAxis a x).chans = s.chans ∧ (s.setAxis a x).hubHold = s.hubHold ∧ (s.setAxis a x).queues = s.queues ∧ (s.setAxis a x).outbox = s.outbox ∧
    (s.setAxis a x).aligning = s.aligning ∧ (s.setAxis a x).slewTicks = s.slewTicks ∧ (s.setAxis a x).timeref = s.timeref ∧
    (s.setAxis a x).cads = s.cads ∧ (s.setAxis a x).tables = s.tables ∧ (s.setAxis a x).shadow = s.shadow ∧ (s.setAxis a x).staging = s.staging ∧
    (s.setAxis a x).evals = s.evals ∧ (s.setAxis a x).chnOrg = s.chnOrg ∧ (s.setAxis a x).servoWas = s.servoWas ∧
    (s.setAxis a x).dlActed = s.dlActed ∧ (s.setAxis a x).rel = s.rel ∧ (s.setAxis a x).pins = s.pins ∧ (s.setAxis a x).pwms = s.pwms ∧
    (s.setAxis a x).cws = s.cws ∧ (s.setAxis a x).encs = s.encs ∧ (s.setAxis a x).capLost = s.capLost ∧ (s.setAxis a x).caps = s.caps ∧
    (s.setAxis a x).misBanks = s.misBanks ∧ (s.setAxis a x).misUntil = s.misUntil ∧ (s.setAxis a x).ports = s.ports ∧ (s.setAxis a x).vis = s.vis ∧
    (s.setAxis a x).links = s.links ∧ (s.setAxis a x).spanTo = s.spanTo ∧ (s.setAxis a x).tanFixed = s.tanFixed ∧
    (s.setAxis a x).tanGood = s.tanGood ∧ (s.setAxis a x).pcie = s.pcie ∧ (s.setAxis a x).aer = s.aer ∧ (s.setAxis a x).perst = s.perst ∧
    (s.setAxis a x).movers = s.movers ∧ (s.setAxis a x).movTurn = s.movTurn ∧ (s.setAxis a x).jrn = s.jrn ∧ (s.setAxis a x).rpl = s.rpl ∧
    (s.setAxis a x).trace = s.trace ∧ (s.setAxis a x).traceLost = s.traceLost ∧ (s.setAxis a x).pels = s.pels ∧ (s.setAxis a x).govs = s.govs ∧
    (s.setAxis a x).uvHold = s.uvHold ∧ (s.setAxis a x).railUntil = s.railUntil ∧ (s.setAxis a x).mramWait = s.mramWait ∧
    (s.setAxis a x).daus = s.daus ∧ (s.setAxis a x).benchBy = s.benchBy ∧ (s.setAxis a x).boundary = s.boundary ∧ (s.setAxis a x).boot = s.boot ∧
    (s.setAxis a x).erased = s.erased ∧ (s.setAxis a x).blow = s.blow ∧ (s.setAxis a x).resetWaits = s.resetWaits ∧
    (s.setAxis a x).repairs = s.repairs ∧ (s.setAxis a x).xing = s.xing ∧ (s.setAxis a x).evSrc = s.evSrc ∧ (s.setAxis a x).evGrp = s.evGrp ∧
    (s.setAxis a x).doms = s.doms ∧ (s.setAxis a x).elog = s.elog ∧ (s.setAxis a x).out = s.out ∧ (s.setAxis a x).free = s.free ∧
    (s.setAxis a x).pending = s.pending :=
  ⟨rfl, rfl, rfl, rfl, rfl, rfl, rfl, rfl, rfl, rfl, rfl, rfl, rfl, rfl, rfl, rfl, rfl, rfl, rfl, rfl, rfl, rfl, rfl, rfl, rfl, rfl, rfl, rfl, rfl, rfl, rfl, rfl, rfl, rfl, rfl, rfl, rfl, rfl, rfl, rfl, rfl, rfl, rfl, rfl, rfl, rfl, rfl, rfl, rfl, rfl, rfl, rfl, rfl, rfl, rfl, rfl, rfl, rfl, rfl, rfl, rfl, rfl, rfl, rfl, rfl, rfl, rfl⟩

@[simp] theorem State.setAxis_self (s : State) (a : Nat) (x : Axis) : (s.setAxis a x).axis a = x := by simp [State.axis, State.setAxis, lookD]

theorem State.setAxis_ne (s : State) (a : Nat) (x : Axis) {z : Nat} (h : a ≠ z) : (s.setAxis a x).axis z = s.axis z := by
  simp [State.axis, State.setAxis, lookD, look_put_ne _ _ h]

/-- setTable leaves every field but `tables`. -/
@[simp] theorem State.setTable_frame (s : State) (t : Nat) (x : Table) :
    (s.setTable t x).tb = s.tb ∧ (s.setTable t x).regs = s.regs ∧ (s.setTable t x).mem = s.mem ∧ (s.setTable t x).bad = s.bad ∧
    (s.setTable t x).writeBacks = s.writeBacks ∧ (s.setTable t x).camWrites = s.camWrites ∧ (s.setTable t x).cogs = s.cogs ∧
    (s.setTable t x).chans = s.chans ∧ (s.setTable t x).hubHold = s.hubHold ∧ (s.setTable t x).queues = s.queues ∧
    (s.setTable t x).outbox = s.outbox ∧ (s.setTable t x).aligning = s.aligning ∧ (s.setTable t x).slewTicks = s.slewTicks ∧
    (s.setTable t x).timeref = s.timeref ∧ (s.setTable t x).cads = s.cads ∧ (s.setTable t x).axes = s.axes ∧ (s.setTable t x).shadow = s.shadow ∧
    (s.setTable t x).staging = s.staging ∧ (s.setTable t x).evals = s.evals ∧ (s.setTable t x).chnOrg = s.chnOrg ∧
    (s.setTable t x).servoWas = s.servoWas ∧ (s.setTable t x).dlActed = s.dlActed ∧ (s.setTable t x).rel = s.rel ∧ (s.setTable t x).pins = s.pins ∧
    (s.setTable t x).pwms = s.pwms ∧ (s.setTable t x).cws = s.cws ∧ (s.setTable t x).encs = s.encs ∧ (s.setTable t x).capLost = s.capLost ∧
    (s.setTable t x).caps = s.caps ∧ (s.setTable t x).misBanks = s.misBanks ∧ (s.setTable t x).misUntil = s.misUntil ∧
    (s.setTable t x).ports = s.ports ∧ (s.setTable t x).vis = s.vis ∧ (s.setTable t x).links = s.links ∧ (s.setTable t x).spanTo = s.spanTo ∧
    (s.setTable t x).tanFixed = s.tanFixed ∧ (s.setTable t x).tanGood = s.tanGood ∧ (s.setTable t x).pcie = s.pcie ∧ (s.setTable t x).aer = s.aer ∧
    (s.setTable t x).perst = s.perst ∧ (s.setTable t x).movers = s.movers ∧ (s.setTable t x).movTurn = s.movTurn ∧ (s.setTable t x).jrn = s.jrn ∧
    (s.setTable t x).rpl = s.rpl ∧ (s.setTable t x).trace = s.trace ∧ (s.setTable t x).traceLost = s.traceLost ∧ (s.setTable t x).pels = s.pels ∧
    (s.setTable t x).govs = s.govs ∧ (s.setTable t x).uvHold = s.uvHold ∧ (s.setTable t x).railUntil = s.railUntil ∧
    (s.setTable t x).mramWait = s.mramWait ∧ (s.setTable t x).daus = s.daus ∧ (s.setTable t x).benchBy = s.benchBy ∧
    (s.setTable t x).boundary = s.boundary ∧ (s.setTable t x).boot = s.boot ∧ (s.setTable t x).erased = s.erased ∧ (s.setTable t x).blow = s.blow ∧
    (s.setTable t x).resetWaits = s.resetWaits ∧ (s.setTable t x).repairs = s.repairs ∧ (s.setTable t x).xing = s.xing ∧
    (s.setTable t x).evSrc = s.evSrc ∧ (s.setTable t x).evGrp = s.evGrp ∧ (s.setTable t x).doms = s.doms ∧ (s.setTable t x).elog = s.elog ∧
    (s.setTable t x).out = s.out ∧ (s.setTable t x).free = s.free ∧ (s.setTable t x).pending = s.pending :=
  ⟨rfl, rfl, rfl, rfl, rfl, rfl, rfl, rfl, rfl, rfl, rfl, rfl, rfl, rfl, rfl, rfl, rfl, rfl, rfl, rfl, rfl, rfl, rfl, rfl, rfl, rfl, rfl, rfl, rfl, rfl, rfl, rfl, rfl, rfl, rfl, rfl, rfl, rfl, rfl, rfl, rfl, rfl, rfl, rfl, rfl, rfl, rfl, rfl, rfl, rfl, rfl, rfl, rfl, rfl, rfl, rfl, rfl, rfl, rfl, rfl, rfl, rfl, rfl, rfl, rfl, rfl, rfl⟩

@[simp] theorem State.setTable_self (s : State) (t : Nat) (x : Table) : (s.setTable t x).table t = x := by simp [State.table, State.setTable, lookD]

theorem State.setTable_ne (s : State) (t : Nat) (x : Table) {z : Nat} (h : t ≠ z) : (s.setTable t x).table z = s.table z := by
  simp [State.table, State.setTable, lookD, look_put_ne _ _ h]

/-- setWin leaves every field but `cws`. -/
@[simp] theorem State.setWin_frame (s : State) (w : Nat) (x : Win) :
    (s.setWin w x).tb = s.tb ∧ (s.setWin w x).regs = s.regs ∧ (s.setWin w x).mem = s.mem ∧ (s.setWin w x).bad = s.bad ∧
    (s.setWin w x).writeBacks = s.writeBacks ∧ (s.setWin w x).camWrites = s.camWrites ∧ (s.setWin w x).cogs = s.cogs ∧
    (s.setWin w x).chans = s.chans ∧ (s.setWin w x).hubHold = s.hubHold ∧ (s.setWin w x).queues = s.queues ∧ (s.setWin w x).outbox = s.outbox ∧
    (s.setWin w x).aligning = s.aligning ∧ (s.setWin w x).slewTicks = s.slewTicks ∧ (s.setWin w x).timeref = s.timeref ∧
    (s.setWin w x).cads = s.cads ∧ (s.setWin w x).axes = s.axes ∧ (s.setWin w x).tables = s.tables ∧ (s.setWin w x).shadow = s.shadow ∧
    (s.setWin w x).staging = s.staging ∧ (s.setWin w x).evals = s.evals ∧ (s.setWin w x).chnOrg = s.chnOrg ∧ (s.setWin w x).servoWas = s.servoWas ∧
    (s.setWin w x).dlActed = s.dlActed ∧ (s.setWin w x).rel = s.rel ∧ (s.setWin w x).pins = s.pins ∧ (s.setWin w x).pwms = s.pwms ∧
    (s.setWin w x).encs = s.encs ∧ (s.setWin w x).capLost = s.capLost ∧ (s.setWin w x).caps = s.caps ∧ (s.setWin w x).misBanks = s.misBanks ∧
    (s.setWin w x).misUntil = s.misUntil ∧ (s.setWin w x).ports = s.ports ∧ (s.setWin w x).vis = s.vis ∧ (s.setWin w x).links = s.links ∧
    (s.setWin w x).spanTo = s.spanTo ∧ (s.setWin w x).tanFixed = s.tanFixed ∧ (s.setWin w x).tanGood = s.tanGood ∧ (s.setWin w x).pcie = s.pcie ∧
    (s.setWin w x).aer = s.aer ∧ (s.setWin w x).perst = s.perst ∧ (s.setWin w x).movers = s.movers ∧ (s.setWin w x).movTurn = s.movTurn ∧
    (s.setWin w x).jrn = s.jrn ∧ (s.setWin w x).rpl = s.rpl ∧ (s.setWin w x).trace = s.trace ∧ (s.setWin w x).traceLost = s.traceLost ∧
    (s.setWin w x).pels = s.pels ∧ (s.setWin w x).govs = s.govs ∧ (s.setWin w x).uvHold = s.uvHold ∧ (s.setWin w x).railUntil = s.railUntil ∧
    (s.setWin w x).mramWait = s.mramWait ∧ (s.setWin w x).daus = s.daus ∧ (s.setWin w x).benchBy = s.benchBy ∧ (s.setWin w x).boundary = s.boundary ∧
    (s.setWin w x).boot = s.boot ∧ (s.setWin w x).erased = s.erased ∧ (s.setWin w x).blow = s.blow ∧ (s.setWin w x).resetWaits = s.resetWaits ∧
    (s.setWin w x).repairs = s.repairs ∧ (s.setWin w x).xing = s.xing ∧ (s.setWin w x).evSrc = s.evSrc ∧ (s.setWin w x).evGrp = s.evGrp ∧
    (s.setWin w x).doms = s.doms ∧ (s.setWin w x).elog = s.elog ∧ (s.setWin w x).out = s.out ∧ (s.setWin w x).free = s.free ∧
    (s.setWin w x).pending = s.pending :=
  ⟨rfl, rfl, rfl, rfl, rfl, rfl, rfl, rfl, rfl, rfl, rfl, rfl, rfl, rfl, rfl, rfl, rfl, rfl, rfl, rfl, rfl, rfl, rfl, rfl, rfl, rfl, rfl, rfl, rfl, rfl, rfl, rfl, rfl, rfl, rfl, rfl, rfl, rfl, rfl, rfl, rfl, rfl, rfl, rfl, rfl, rfl, rfl, rfl, rfl, rfl, rfl, rfl, rfl, rfl, rfl, rfl, rfl, rfl, rfl, rfl, rfl, rfl, rfl, rfl, rfl, rfl, rfl⟩

@[simp] theorem State.setWin_self (s : State) (w : Nat) (x : Win) : (s.setWin w x).win w = x := by simp [State.win, State.setWin, lookD]

theorem State.setWin_ne (s : State) (w : Nat) (x : Win) {z : Nat} (h : w ≠ z) : (s.setWin w x).win z = s.win z := by
  simp [State.win, State.setWin, lookD, look_put_ne _ _ h]

/-- setLane leaves every field but `vis`. -/
@[simp] theorem State.setLane_frame (s : State) (n : Nat) (x : Vision) :
    (s.setLane n x).tb = s.tb ∧ (s.setLane n x).regs = s.regs ∧ (s.setLane n x).mem = s.mem ∧ (s.setLane n x).bad = s.bad ∧
    (s.setLane n x).writeBacks = s.writeBacks ∧ (s.setLane n x).camWrites = s.camWrites ∧ (s.setLane n x).cogs = s.cogs ∧
    (s.setLane n x).chans = s.chans ∧ (s.setLane n x).hubHold = s.hubHold ∧ (s.setLane n x).queues = s.queues ∧ (s.setLane n x).outbox = s.outbox ∧
    (s.setLane n x).aligning = s.aligning ∧ (s.setLane n x).slewTicks = s.slewTicks ∧ (s.setLane n x).timeref = s.timeref ∧
    (s.setLane n x).cads = s.cads ∧ (s.setLane n x).axes = s.axes ∧ (s.setLane n x).tables = s.tables ∧ (s.setLane n x).shadow = s.shadow ∧
    (s.setLane n x).staging = s.staging ∧ (s.setLane n x).evals = s.evals ∧ (s.setLane n x).chnOrg = s.chnOrg ∧
    (s.setLane n x).servoWas = s.servoWas ∧ (s.setLane n x).dlActed = s.dlActed ∧ (s.setLane n x).rel = s.rel ∧ (s.setLane n x).pins = s.pins ∧
    (s.setLane n x).pwms = s.pwms ∧ (s.setLane n x).cws = s.cws ∧ (s.setLane n x).encs = s.encs ∧ (s.setLane n x).capLost = s.capLost ∧
    (s.setLane n x).caps = s.caps ∧ (s.setLane n x).misBanks = s.misBanks ∧ (s.setLane n x).misUntil = s.misUntil ∧ (s.setLane n x).ports = s.ports ∧
    (s.setLane n x).links = s.links ∧ (s.setLane n x).spanTo = s.spanTo ∧ (s.setLane n x).tanFixed = s.tanFixed ∧
    (s.setLane n x).tanGood = s.tanGood ∧ (s.setLane n x).pcie = s.pcie ∧ (s.setLane n x).aer = s.aer ∧ (s.setLane n x).perst = s.perst ∧
    (s.setLane n x).movers = s.movers ∧ (s.setLane n x).movTurn = s.movTurn ∧ (s.setLane n x).jrn = s.jrn ∧ (s.setLane n x).rpl = s.rpl ∧
    (s.setLane n x).trace = s.trace ∧ (s.setLane n x).traceLost = s.traceLost ∧ (s.setLane n x).pels = s.pels ∧ (s.setLane n x).govs = s.govs ∧
    (s.setLane n x).uvHold = s.uvHold ∧ (s.setLane n x).railUntil = s.railUntil ∧ (s.setLane n x).mramWait = s.mramWait ∧
    (s.setLane n x).daus = s.daus ∧ (s.setLane n x).benchBy = s.benchBy ∧ (s.setLane n x).boundary = s.boundary ∧ (s.setLane n x).boot = s.boot ∧
    (s.setLane n x).erased = s.erased ∧ (s.setLane n x).blow = s.blow ∧ (s.setLane n x).resetWaits = s.resetWaits ∧
    (s.setLane n x).repairs = s.repairs ∧ (s.setLane n x).xing = s.xing ∧ (s.setLane n x).evSrc = s.evSrc ∧ (s.setLane n x).evGrp = s.evGrp ∧
    (s.setLane n x).doms = s.doms ∧ (s.setLane n x).elog = s.elog ∧ (s.setLane n x).out = s.out ∧ (s.setLane n x).free = s.free ∧
    (s.setLane n x).pending = s.pending :=
  ⟨rfl, rfl, rfl, rfl, rfl, rfl, rfl, rfl, rfl, rfl, rfl, rfl, rfl, rfl, rfl, rfl, rfl, rfl, rfl, rfl, rfl, rfl, rfl, rfl, rfl, rfl, rfl, rfl, rfl, rfl, rfl, rfl, rfl, rfl, rfl, rfl, rfl, rfl, rfl, rfl, rfl, rfl, rfl, rfl, rfl, rfl, rfl, rfl, rfl, rfl, rfl, rfl, rfl, rfl, rfl, rfl, rfl, rfl, rfl, rfl, rfl, rfl, rfl, rfl, rfl, rfl, rfl⟩

@[simp] theorem State.setLane_self (s : State) (n : Nat) (x : Vision) : (s.setLane n x).lane n = x := by simp [State.lane, State.setLane, lookD]

theorem State.setLane_ne (s : State) (n : Nat) (x : Vision) {z : Nat} (h : n ≠ z) : (s.setLane n x).lane z = s.lane z := by
  simp [State.lane, State.setLane, lookD, look_put_ne _ _ h]

/-- setMover leaves every field but `movers`. -/
@[simp] theorem State.setMover_frame (s : State) (c : Nat) (x : Mover) :
    (s.setMover c x).tb = s.tb ∧ (s.setMover c x).regs = s.regs ∧ (s.setMover c x).mem = s.mem ∧ (s.setMover c x).bad = s.bad ∧
    (s.setMover c x).writeBacks = s.writeBacks ∧ (s.setMover c x).camWrites = s.camWrites ∧ (s.setMover c x).cogs = s.cogs ∧
    (s.setMover c x).chans = s.chans ∧ (s.setMover c x).hubHold = s.hubHold ∧ (s.setMover c x).queues = s.queues ∧
    (s.setMover c x).outbox = s.outbox ∧ (s.setMover c x).aligning = s.aligning ∧ (s.setMover c x).slewTicks = s.slewTicks ∧
    (s.setMover c x).timeref = s.timeref ∧ (s.setMover c x).cads = s.cads ∧ (s.setMover c x).axes = s.axes ∧ (s.setMover c x).tables = s.tables ∧
    (s.setMover c x).shadow = s.shadow ∧ (s.setMover c x).staging = s.staging ∧ (s.setMover c x).evals = s.evals ∧
    (s.setMover c x).chnOrg = s.chnOrg ∧ (s.setMover c x).servoWas = s.servoWas ∧ (s.setMover c x).dlActed = s.dlActed ∧
    (s.setMover c x).rel = s.rel ∧ (s.setMover c x).pins = s.pins ∧ (s.setMover c x).pwms = s.pwms ∧ (s.setMover c x).cws = s.cws ∧
    (s.setMover c x).encs = s.encs ∧ (s.setMover c x).capLost = s.capLost ∧ (s.setMover c x).caps = s.caps ∧ (s.setMover c x).misBanks = s.misBanks ∧
    (s.setMover c x).misUntil = s.misUntil ∧ (s.setMover c x).ports = s.ports ∧ (s.setMover c x).vis = s.vis ∧ (s.setMover c x).links = s.links ∧
    (s.setMover c x).spanTo = s.spanTo ∧ (s.setMover c x).tanFixed = s.tanFixed ∧ (s.setMover c x).tanGood = s.tanGood ∧
    (s.setMover c x).pcie = s.pcie ∧ (s.setMover c x).aer = s.aer ∧ (s.setMover c x).perst = s.perst ∧ (s.setMover c x).movTurn = s.movTurn ∧
    (s.setMover c x).jrn = s.jrn ∧ (s.setMover c x).rpl = s.rpl ∧ (s.setMover c x).trace = s.trace ∧ (s.setMover c x).traceLost = s.traceLost ∧
    (s.setMover c x).pels = s.pels ∧ (s.setMover c x).govs = s.govs ∧ (s.setMover c x).uvHold = s.uvHold ∧ (s.setMover c x).railUntil = s.railUntil ∧
    (s.setMover c x).mramWait = s.mramWait ∧ (s.setMover c x).daus = s.daus ∧ (s.setMover c x).benchBy = s.benchBy ∧
    (s.setMover c x).boundary = s.boundary ∧ (s.setMover c x).boot = s.boot ∧ (s.setMover c x).erased = s.erased ∧ (s.setMover c x).blow = s.blow ∧
    (s.setMover c x).resetWaits = s.resetWaits ∧ (s.setMover c x).repairs = s.repairs ∧ (s.setMover c x).xing = s.xing ∧
    (s.setMover c x).evSrc = s.evSrc ∧ (s.setMover c x).evGrp = s.evGrp ∧ (s.setMover c x).doms = s.doms ∧ (s.setMover c x).elog = s.elog ∧
    (s.setMover c x).out = s.out ∧ (s.setMover c x).free = s.free ∧ (s.setMover c x).pending = s.pending :=
  ⟨rfl, rfl, rfl, rfl, rfl, rfl, rfl, rfl, rfl, rfl, rfl, rfl, rfl, rfl, rfl, rfl, rfl, rfl, rfl, rfl, rfl, rfl, rfl, rfl, rfl, rfl, rfl, rfl, rfl, rfl, rfl, rfl, rfl, rfl, rfl, rfl, rfl, rfl, rfl, rfl, rfl, rfl, rfl, rfl, rfl, rfl, rfl, rfl, rfl, rfl, rfl, rfl, rfl, rfl, rfl, rfl, rfl, rfl, rfl, rfl, rfl, rfl, rfl, rfl, rfl, rfl, rfl⟩

@[simp] theorem State.setMover_self (s : State) (c : Nat) (x : Mover) : (s.setMover c x).mover c = x := by simp [State.mover, State.setMover, lookD]

theorem State.setMover_ne (s : State) (c : Nat) (x : Mover) {z : Nat} (h : c ≠ z) : (s.setMover c x).mover z = s.mover z := by
  simp [State.mover, State.setMover, lookD, look_put_ne _ _ h]

/-- setGov leaves every field but `govs`. -/
@[simp] theorem State.setGov_frame (s : State) (q : Nat) (g : Gov) :
    (s.setGov q g).tb = s.tb ∧ (s.setGov q g).regs = s.regs ∧ (s.setGov q g).mem = s.mem ∧ (s.setGov q g).bad = s.bad ∧
    (s.setGov q g).writeBacks = s.writeBacks ∧ (s.setGov q g).camWrites = s.camWrites ∧ (s.setGov q g).cogs = s.cogs ∧
    (s.setGov q g).chans = s.chans ∧ (s.setGov q g).hubHold = s.hubHold ∧ (s.setGov q g).queues = s.queues ∧ (s.setGov q g).outbox = s.outbox ∧
    (s.setGov q g).aligning = s.aligning ∧ (s.setGov q g).slewTicks = s.slewTicks ∧ (s.setGov q g).timeref = s.timeref ∧
    (s.setGov q g).cads = s.cads ∧ (s.setGov q g).axes = s.axes ∧ (s.setGov q g).tables = s.tables ∧ (s.setGov q g).shadow = s.shadow ∧
    (s.setGov q g).staging = s.staging ∧ (s.setGov q g).evals = s.evals ∧ (s.setGov q g).chnOrg = s.chnOrg ∧ (s.setGov q g).servoWas = s.servoWas ∧
    (s.setGov q g).dlActed = s.dlActed ∧ (s.setGov q g).rel = s.rel ∧ (s.setGov q g).pins = s.pins ∧ (s.setGov q g).pwms = s.pwms ∧
    (s.setGov q g).cws = s.cws ∧ (s.setGov q g).encs = s.encs ∧ (s.setGov q g).capLost = s.capLost ∧ (s.setGov q g).caps = s.caps ∧
    (s.setGov q g).misBanks = s.misBanks ∧ (s.setGov q g).misUntil = s.misUntil ∧ (s.setGov q g).ports = s.ports ∧ (s.setGov q g).vis = s.vis ∧
    (s.setGov q g).links = s.links ∧ (s.setGov q g).spanTo = s.spanTo ∧ (s.setGov q g).tanFixed = s.tanFixed ∧ (s.setGov q g).tanGood = s.tanGood ∧
    (s.setGov q g).pcie = s.pcie ∧ (s.setGov q g).aer = s.aer ∧ (s.setGov q g).perst = s.perst ∧ (s.setGov q g).movers = s.movers ∧
    (s.setGov q g).movTurn = s.movTurn ∧ (s.setGov q g).jrn = s.jrn ∧ (s.setGov q g).rpl = s.rpl ∧ (s.setGov q g).trace = s.trace ∧
    (s.setGov q g).traceLost = s.traceLost ∧ (s.setGov q g).pels = s.pels ∧ (s.setGov q g).uvHold = s.uvHold ∧
    (s.setGov q g).railUntil = s.railUntil ∧ (s.setGov q g).mramWait = s.mramWait ∧ (s.setGov q g).daus = s.daus ∧
    (s.setGov q g).benchBy = s.benchBy ∧ (s.setGov q g).boundary = s.boundary ∧ (s.setGov q g).boot = s.boot ∧ (s.setGov q g).erased = s.erased ∧
    (s.setGov q g).blow = s.blow ∧ (s.setGov q g).resetWaits = s.resetWaits ∧ (s.setGov q g).repairs = s.repairs ∧ (s.setGov q g).xing = s.xing ∧
    (s.setGov q g).evSrc = s.evSrc ∧ (s.setGov q g).evGrp = s.evGrp ∧ (s.setGov q g).doms = s.doms ∧ (s.setGov q g).elog = s.elog ∧
    (s.setGov q g).out = s.out ∧ (s.setGov q g).free = s.free ∧ (s.setGov q g).pending = s.pending :=
  ⟨rfl, rfl, rfl, rfl, rfl, rfl, rfl, rfl, rfl, rfl, rfl, rfl, rfl, rfl, rfl, rfl, rfl, rfl, rfl, rfl, rfl, rfl, rfl, rfl, rfl, rfl, rfl, rfl, rfl, rfl, rfl, rfl, rfl, rfl, rfl, rfl, rfl, rfl, rfl, rfl, rfl, rfl, rfl, rfl, rfl, rfl, rfl, rfl, rfl, rfl, rfl, rfl, rfl, rfl, rfl, rfl, rfl, rfl, rfl, rfl, rfl, rfl, rfl, rfl, rfl, rfl, rfl⟩

@[simp] theorem State.setGov_self (s : State) (q : Nat) (g : Gov) : (s.setGov q g).gov q = g := by simp [State.gov, State.setGov, lookD]

theorem State.setGov_ne (s : State) (q : Nat) (g : Gov) {z : Nat} (h : q ≠ z) : (s.setGov q g).gov z = s.gov z := by
  simp [State.gov, State.setGov, lookD, look_put_ne _ _ h]

/-- setDau leaves every field but `daus`. -/
@[simp] theorem State.setDau_frame (s : State) (j : Nat) (x : Dau) :
    (s.setDau j x).tb = s.tb ∧ (s.setDau j x).regs = s.regs ∧ (s.setDau j x).mem = s.mem ∧ (s.setDau j x).bad = s.bad ∧
    (s.setDau j x).writeBacks = s.writeBacks ∧ (s.setDau j x).camWrites = s.camWrites ∧ (s.setDau j x).cogs = s.cogs ∧
    (s.setDau j x).chans = s.chans ∧ (s.setDau j x).hubHold = s.hubHold ∧ (s.setDau j x).queues = s.queues ∧ (s.setDau j x).outbox = s.outbox ∧
    (s.setDau j x).aligning = s.aligning ∧ (s.setDau j x).slewTicks = s.slewTicks ∧ (s.setDau j x).timeref = s.timeref ∧
    (s.setDau j x).cads = s.cads ∧ (s.setDau j x).axes = s.axes ∧ (s.setDau j x).tables = s.tables ∧ (s.setDau j x).shadow = s.shadow ∧
    (s.setDau j x).staging = s.staging ∧ (s.setDau j x).evals = s.evals ∧ (s.setDau j x).chnOrg = s.chnOrg ∧ (s.setDau j x).servoWas = s.servoWas ∧
    (s.setDau j x).dlActed = s.dlActed ∧ (s.setDau j x).rel = s.rel ∧ (s.setDau j x).pins = s.pins ∧ (s.setDau j x).pwms = s.pwms ∧
    (s.setDau j x).cws = s.cws ∧ (s.setDau j x).encs = s.encs ∧ (s.setDau j x).capLost = s.capLost ∧ (s.setDau j x).caps = s.caps ∧
    (s.setDau j x).misBanks = s.misBanks ∧ (s.setDau j x).misUntil = s.misUntil ∧ (s.setDau j x).ports = s.ports ∧ (s.setDau j x).vis = s.vis ∧
    (s.setDau j x).links = s.links ∧ (s.setDau j x).spanTo = s.spanTo ∧ (s.setDau j x).tanFixed = s.tanFixed ∧ (s.setDau j x).tanGood = s.tanGood ∧
    (s.setDau j x).pcie = s.pcie ∧ (s.setDau j x).aer = s.aer ∧ (s.setDau j x).perst = s.perst ∧ (s.setDau j x).movers = s.movers ∧
    (s.setDau j x).movTurn = s.movTurn ∧ (s.setDau j x).jrn = s.jrn ∧ (s.setDau j x).rpl = s.rpl ∧ (s.setDau j x).trace = s.trace ∧
    (s.setDau j x).traceLost = s.traceLost ∧ (s.setDau j x).pels = s.pels ∧ (s.setDau j x).govs = s.govs ∧ (s.setDau j x).uvHold = s.uvHold ∧
    (s.setDau j x).railUntil = s.railUntil ∧ (s.setDau j x).mramWait = s.mramWait ∧ (s.setDau j x).benchBy = s.benchBy ∧
    (s.setDau j x).boundary = s.boundary ∧ (s.setDau j x).boot = s.boot ∧ (s.setDau j x).erased = s.erased ∧ (s.setDau j x).blow = s.blow ∧
    (s.setDau j x).resetWaits = s.resetWaits ∧ (s.setDau j x).repairs = s.repairs ∧ (s.setDau j x).xing = s.xing ∧ (s.setDau j x).evSrc = s.evSrc ∧
    (s.setDau j x).evGrp = s.evGrp ∧ (s.setDau j x).doms = s.doms ∧ (s.setDau j x).elog = s.elog ∧ (s.setDau j x).out = s.out ∧
    (s.setDau j x).free = s.free ∧ (s.setDau j x).pending = s.pending :=
  ⟨rfl, rfl, rfl, rfl, rfl, rfl, rfl, rfl, rfl, rfl, rfl, rfl, rfl, rfl, rfl, rfl, rfl, rfl, rfl, rfl, rfl, rfl, rfl, rfl, rfl, rfl, rfl, rfl, rfl, rfl, rfl, rfl, rfl, rfl, rfl, rfl, rfl, rfl, rfl, rfl, rfl, rfl, rfl, rfl, rfl, rfl, rfl, rfl, rfl, rfl, rfl, rfl, rfl, rfl, rfl, rfl, rfl, rfl, rfl, rfl, rfl, rfl, rfl, rfl, rfl, rfl, rfl⟩

@[simp] theorem State.setDau_self (s : State) (j : Nat) (x : Dau) : (s.setDau j x).dau j = x := by simp [State.dau, State.setDau, lookD]

theorem State.setDau_ne (s : State) (j : Nat) (x : Dau) {z : Nat} (h : j ≠ z) : (s.setDau j x).dau z = s.dau z := by
  simp [State.dau, State.setDau, lookD, look_put_ne _ _ h]

/-! ### The register file -/

theorem State.reg_setReg (s : State) (a b : Nat) (v : Reg) : (s.setReg a v).reg b = if a = b then v else s.reg b := by
  simp only [State.reg, State.setReg, lookD, look_put]; split <;> rfl

@[simp] theorem State.reg_setReg_self (s : State) (a : Nat) (v : Reg) : (s.setReg a v).reg a = v := by simp [State.reg_setReg]

theorem State.reg_setReg_ne (s : State) {a b : Nat} (v : Reg) (h : a ≠ b) : (s.setReg a v).reg b = s.reg b := by simp [State.reg_setReg, h]

/-- A field written leaves every part of the state but the register file. -/
@[simp] theorem State.wr_frame (s : State) (p : Nat) (f : Fld) (v i : Nat) :
    (s.wr p f v i).tb = s.tb ∧ (s.wr p f v i).mem = s.mem ∧ (s.wr p f v i).bad = s.bad ∧ (s.wr p f v i).writeBacks = s.writeBacks ∧
    (s.wr p f v i).camWrites = s.camWrites ∧ (s.wr p f v i).cogs = s.cogs ∧ (s.wr p f v i).chans = s.chans ∧ (s.wr p f v i).hubHold = s.hubHold ∧
    (s.wr p f v i).queues = s.queues ∧ (s.wr p f v i).outbox = s.outbox ∧ (s.wr p f v i).aligning = s.aligning ∧
    (s.wr p f v i).slewTicks = s.slewTicks ∧ (s.wr p f v i).timeref = s.timeref ∧ (s.wr p f v i).cads = s.cads ∧ (s.wr p f v i).axes = s.axes ∧
    (s.wr p f v i).tables = s.tables ∧ (s.wr p f v i).shadow = s.shadow ∧ (s.wr p f v i).staging = s.staging ∧ (s.wr p f v i).evals = s.evals ∧
    (s.wr p f v i).chnOrg = s.chnOrg ∧ (s.wr p f v i).servoWas = s.servoWas ∧ (s.wr p f v i).dlActed = s.dlActed ∧ (s.wr p f v i).rel = s.rel ∧
    (s.wr p f v i).pins = s.pins ∧ (s.wr p f v i).pwms = s.pwms ∧ (s.wr p f v i).cws = s.cws ∧ (s.wr p f v i).encs = s.encs ∧
    (s.wr p f v i).capLost = s.capLost ∧ (s.wr p f v i).caps = s.caps ∧ (s.wr p f v i).misBanks = s.misBanks ∧ (s.wr p f v i).misUntil = s.misUntil ∧
    (s.wr p f v i).ports = s.ports ∧ (s.wr p f v i).vis = s.vis ∧ (s.wr p f v i).links = s.links ∧ (s.wr p f v i).spanTo = s.spanTo ∧
    (s.wr p f v i).tanFixed = s.tanFixed ∧ (s.wr p f v i).tanGood = s.tanGood ∧ (s.wr p f v i).pcie = s.pcie ∧ (s.wr p f v i).aer = s.aer ∧
    (s.wr p f v i).perst = s.perst ∧ (s.wr p f v i).movers = s.movers ∧ (s.wr p f v i).movTurn = s.movTurn ∧ (s.wr p f v i).jrn = s.jrn ∧
    (s.wr p f v i).rpl = s.rpl ∧ (s.wr p f v i).trace = s.trace ∧ (s.wr p f v i).traceLost = s.traceLost ∧ (s.wr p f v i).pels = s.pels ∧
    (s.wr p f v i).govs = s.govs ∧ (s.wr p f v i).uvHold = s.uvHold ∧ (s.wr p f v i).railUntil = s.railUntil ∧ (s.wr p f v i).mramWait = s.mramWait ∧
    (s.wr p f v i).daus = s.daus ∧ (s.wr p f v i).benchBy = s.benchBy ∧ (s.wr p f v i).boundary = s.boundary ∧ (s.wr p f v i).boot = s.boot ∧
    (s.wr p f v i).erased = s.erased ∧ (s.wr p f v i).blow = s.blow ∧ (s.wr p f v i).resetWaits = s.resetWaits ∧ (s.wr p f v i).repairs = s.repairs ∧
    (s.wr p f v i).xing = s.xing ∧ (s.wr p f v i).evSrc = s.evSrc ∧ (s.wr p f v i).evGrp = s.evGrp ∧ (s.wr p f v i).doms = s.doms ∧
    (s.wr p f v i).elog = s.elog ∧ (s.wr p f v i).out = s.out ∧ (s.wr p f v i).free = s.free ∧ (s.wr p f v i).pending = s.pending :=
  State.setReg_frame _ _ _

theorem State.reg_wr_ne (s : State) (p : Nat) (f : Fld) (v i : Nat) {b : Nat} (h : f.addr p i ≠ b) : (s.wr p f v i).reg b = s.reg b :=
  State.reg_setReg_ne _ _ h

/-- A field read after it was written. -/
theorem State.rd_wr_self (s : State) (p : Nat) (f : Fld) (v i : Nat) (h : f.lo + f.w ≤ 32) : (s.wr p f v i).rd p f i = v % 2 ^ f.w := by
  simp only [State.rd, State.wr, State.reg_setReg_self, BitVec.toNat_ofNat]
  rw [Nat.mod_eq_of_lt (setBits_lt (s.reg (f.addr p i)).isLt h), bits_setBits_self]

/-- A field read after a field of another word was written. -/
theorem State.rd_wr_ne (s : State) (p : Nat) (f : Fld) (v i : Nat) {q j : Nat} {g : Fld} (h : f.addr p i ≠ g.addr q j) :
    (s.wr p f v i).rd q g j = s.rd q g j := by
  simp only [State.rd, State.reg_wr_ne s p f v i h]

/-- A field read after another field of the same word was written. -/
theorem State.rd_wr_bits (s : State) (p : Nat) (f : Fld) (v i : Nat) {q j : Nat} {g : Fld} (h : f.lo + f.w ≤ 32)
    (hd : f.lo + f.w ≤ g.lo ∨ g.lo + g.w ≤ f.lo) : (s.wr p f v i).rd q g j = s.rd q g j := by
  by_cases he : f.addr p i = g.addr q j
  · simp only [State.rd, State.wr, ← he, State.reg_setReg_self, BitVec.toNat_ofNat]
    rw [Nat.mod_eq_of_lt (setBits_lt (s.reg (f.addr p i)).isLt h), bits_setBits_ne _ _ hd]
  · exact State.rd_wr_ne s p f v i he

theorem State.on_wr_ne (s : State) (p : Nat) (f : Fld) (v i : Nat) {q j : Nat} {g : Fld} (h : f.addr p i ≠ g.addr q j) :
    (s.wr p f v i).on q g j = s.on q g j := by simp only [State.on, State.rd_wr_ne s p f v i h]

theorem State.on_wr_bits (s : State) (p : Nat) (f : Fld) (v i : Nat) {q j : Nat} {g : Fld} (h : f.lo + f.w ≤ 32)
    (hd : f.lo + f.w ≤ g.lo ∨ g.lo + g.w ≤ f.lo) : (s.wr p f v i).on q g j = s.on q g j := by
  simp only [State.on, State.rd_wr_bits s p f v i h hd]

theorem State.on_wr_self (s : State) (p : Nat) (f : Fld) (v i : Nat) (h : f.lo + f.w ≤ 32) (hw : f.w = 1) :
    (s.wr p f v i).on p f i = decide (v % 2 = 1) := by simp [State.on, State.rd_wr_self s p f v i h, hw]

theorem State.rd_lt (s : State) (p : Nat) (f : Fld) (i : Nat) : s.rd p f i < 2 ^ f.w := bits_lt _ _ _

end Sys2Proof.Machine
end

