-- ==== Sys2Proof/Laws/Folds.lean ====
section
/-! SUPPORT. What folds and conditionals keep: the timebase, the queue of commands, and the bytes of the stores. -/

/-! The proofs of this file are elaborated one after another: as one text with the rest of the package, in parallel they would need more threads
than the memory holds. -/

set_option Elab.async false

namespace Sys2Proof.Machine

/-- A fold whose step keeps a part of the state keeps it. -/
theorem foldl_keeps {α γ : Type} (g : State → γ) (f : State → α → State) (h : ∀ t x, g (f t x) = g t) (l : List α) : ∀ s, g (l.foldl f s) = g s := by
  induction l with
  | nil => intro s; rfl
  | cons x l ih => intro s; rw [List.foldl_cons, ih, h]

@[simp] theorem foldl_tb {α : Type} (f : State → α → State) (h : ∀ t x, (f t x).tb = t.tb) (l : List α) (s : State) : (l.foldl f s).tb = s.tb :=
  foldl_keeps State.tb f h l s
@[simp] theorem foldl_pending {α : Type} (f : State → α → State) (h : ∀ t x, (f t x).pending = t.pending) (l : List α) (s : State) :
    (l.foldl f s).pending = s.pending := foldl_keeps State.pending f h l s
@[simp] theorem foldl_mem {α : Type} (f : State → α → State) (h : ∀ t x, (f t x).mem = t.mem) (l : List α) (s : State) : (l.foldl f s).mem = s.mem :=
  foldl_keeps State.mem f h l s
@[simp] theorem upTo_tb (n : Nat) (f : State → Nat → State) (h : ∀ t x, (f t x).tb = t.tb) (s : State) : (upTo n f s).tb = s.tb := foldl_tb f h _ s
@[simp] theorem upTo_pending (n : Nat) (f : State → Nat → State) (h : ∀ t x, (f t x).pending = t.pending) (s : State) :
    (upTo n f s).pending = s.pending := foldl_pending f h _ s
@[simp] theorem upTo_mem (n : Nat) (f : State → Nat → State) (h : ∀ t x, (f t x).mem = t.mem) (s : State) : (upTo n f s).mem = s.mem := foldl_mem f h _ s

@[simp] theorem ite_tb (c : Prop) [Decidable c] (a b : State) : (if c then a else b).tb = if c then a.tb else b.tb := apply_ite _ _ _ _
@[simp] theorem ite_pending (c : Prop) [Decidable c] (a b : State) : (if c then a else b).pending = if c then a.pending else b.pending := apply_ite _ _ _ _
@[simp] theorem ite_mem (c : Prop) [Decidable c] (a b : State) : (if c then a else b).mem = if c then a.mem else b.mem := apply_ite _ _ _ _

/-- A fold over a pair whose step keeps a part of the state keeps it. -/
theorem foldl_pair_keeps {α β γ : Type} (g : State → γ) (f : β × State → α → β × State) (h : ∀ q x, g (f q x).2 = g q.2) (l : List α) :
    ∀ q, g (l.foldl f q).2 = g q.2 := by
  induction l with
  | nil => intro q; rfl
  | cons x l ih => intro q; rw [List.foldl_cons, ih, h]

/-- The same for a state behind two other parts. -/
theorem foldl_pair2_keeps {α β δ γ : Type} (g : State → γ) (f : β × δ × State → α → β × δ × State) (h : ∀ q x, g (f q x).2.2 = g q.2.2) (l : List α) :
    ∀ q, g (l.foldl f q).2.2 = g q.2.2 := by
  induction l with
  | nil => intro q; rfl
  | cons x l ih => intro q; rw [List.foldl_cons, ih, h]

@[simp] theorem foldl_pair_tb {α β : Type} (f : β × State → α → β × State) (h : ∀ q x, (f q x).2.tb = q.2.tb) (l : List α) (q : β × State) :
    (l.foldl f q).2.tb = q.2.tb := foldl_pair_keeps State.tb f h l q
@[simp] theorem foldl_pair_pending {α β : Type} (f : β × State → α → β × State) (h : ∀ q x, (f q x).2.pending = q.2.pending) (l : List α)
    (q : β × State) : (l.foldl f q).2.pending = q.2.pending := foldl_pair_keeps State.pending f h l q
@[simp] theorem foldl_pair_mem {α β : Type} (f : β × State → α → β × State) (h : ∀ q x, (f q x).2.mem = q.2.mem) (l : List α) (q : β × State) :
    (l.foldl f q).2.mem = q.2.mem := foldl_pair_keeps State.mem f h l q

/-- What both branches keep. -/
theorem ite_keeps {γ : Type} (g : State → γ) {c : Prop} [Decidable c] {a b : State} {v : γ} (ha : g a = v) (hb : g b = v) : g (if c then a else b) = v := by
  split <;> assumption

/-- What an optional state keeps, if there is one, and its alternative keeps. -/
theorem getD_keeps {γ : Type} (g : State → γ) (o : Option State) (d : State) (v : γ) (h : ∀ z, o = some z → g z = v) (hd : g d = v) : g (o.getD d) = v := by
  cases o with
  | none => exact hd
  | some z => exact h z rfl

/-- A fold whose step keeps the canonical form of memory keeps it. -/
theorem foldl_ok {α : Type} (f : State → α → State) (h : ∀ t x, t.Ok → (f t x).Ok) (l : List α) : ∀ s : State, s.Ok → (l.foldl f s).Ok := by
  induction l with
  | nil => intro s hs; exact hs
  | cons x l ih => intro s hs; exact ih _ (h _ _ hs)

theorem upTo_ok (n : Nat) (f : State → Nat → State) (h : ∀ t x, t.Ok → (f t x).Ok) (s : State) (hs : s.Ok) : (upTo n f s).Ok := foldl_ok f h _ s hs

/-- A state with the stores of a state in canonical form. -/
theorem State.Ok.of_mem {s t : State} (hs : s.Ok) (h : t.mem = s.mem) : t.Ok := by
  unfold State.Ok at *; rw [h]; exact hs

end Sys2Proof.Machine
end

