-- ==== Sys2Proof/Laws/Ops.lean ====
section
/-! SUPPORT. What the operations of Machine/Ops.lean leave: the timebase, the queue of commands and, where they write none, the bytes of the stores. -/

/-! The proofs of this file are elaborated one after another: as one text with the rest of the package, in parallel they would need more threads
than the memory holds. -/

set_option Elab.async false

namespace Sys2Proof.Machine

@[simp] theorem State.wr_keeps (s : State) (p : Nat) (f : Fld) (v : Nat) (i : Nat) : (State.wr s p f v i).tb = s.tb ∧ (State.wr s p f v i).pending = s.pending ∧ (State.wr s p f v i).mem = s.mem := by
  simp [State.wr]

@[simp] theorem State.applyWrite_keeps (s : State) (a : Nat) (data : Nat) : (s.applyWrite a data).tb = s.tb ∧ (s.applyWrite a data).pending = s.pending ∧ (s.applyWrite a data).mem = s.mem := by
  simp [State.applyWrite]

@[simp] theorem State.bumpBy_keeps (s : State) (p : Nat) (f : Fld) (n : Nat) (i : optParam Nat 0) : (s.bumpBy p f n i).tb = s.tb ∧ (s.bumpBy p f n i).pending = s.pending ∧ (s.bumpBy p f n i).mem = s.mem := by
  simp [State.bumpBy]

@[simp] theorem State.bump_keeps (s : State) (p : Nat) (f : Fld) (i : optParam Nat 0) : (s.bump p f i).tb = s.tb ∧ (s.bump p f i).pending = s.pending ∧ (s.bump p f i).mem = s.mem := by
  simp [State.bump]

@[simp] theorem State.pgErr_keeps (s : State) (p : Nat) (wrote : optParam (Option (Nat × Nat)) none) : (s.pgErr p wrote).tb = s.tb ∧ (s.pgErr p wrote).pending = s.pending ∧ (s.pgErr p wrote).mem = s.mem := by
  unfold State.pgErr; dsimp only; refine ⟨?_, ?_, ?_⟩ <;> (repeat' split) <;> simp

@[simp] theorem State.capture_keeps (s : State) (p : Nat) (valid : Fld) (ovr : Fld) (i : optParam Nat 0) : (s.capture p valid ovr i).tb = s.tb ∧ (s.capture p valid ovr i).pending = s.pending ∧ (s.capture p valid ovr i).mem = s.mem := by
  simp [State.capture]

@[simp] theorem State.injTake_keeps (s : State) (p : Nat) (b : Nat) : (s.injTake p b).tb = s.tb ∧ (s.injTake p b).pending = s.pending ∧ (s.injTake p b).mem = s.mem := by
  simp [State.injTake]

@[simp] theorem State.freeDraw_keeps (s : State) (w : Nat) : (s.freeDraw w).2.tb = s.tb ∧ (s.freeDraw w).2.pending = s.pending ∧ (s.freeDraw w).2.mem = s.mem := by
  simp [State.freeDraw]

@[simp] theorem State.relocked_keeps (s : State) (d : Nat) : (State.relocked s d).tb = s.tb ∧ (State.relocked s d).pending = s.pending ∧ (State.relocked s d).mem = s.mem := by
  simp [State.relocked]

@[simp] theorem State.setPowerReq_keeps (s : State) (d : Nat) (v : Nat) : (s.setPowerReq d v).tb = s.tb ∧ (s.setPowerReq d v).pending = s.pending ∧ (s.setPowerReq d v).mem = s.mem := by
  simp [State.setPowerReq]

@[simp] theorem State.wakeOne_keeps (s : State) (d : Nat) : (s.wakeOne d).tb = s.tb ∧ (s.wakeOne d).pending = s.pending ∧ (s.wakeOne d).mem = s.mem := by
  unfold State.wakeOne; dsimp only; refine ⟨?_, ?_, ?_⟩ <;> (repeat' split) <;> simp

@[simp] theorem State.startWake_keeps (s : State) (d : Nat) : (s.startWake d).tb = s.tb ∧ (s.startWake d).pending = s.pending ∧ (s.startWake d).mem = s.mem := by
  simp [State.startWake]

@[simp] theorem State.beginEntry_keeps (s : State) (d : Nat) (t : DomSt) : (s.beginEntry d t).tb = s.tb ∧ (s.beginEntry d t).pending = s.pending ∧ (s.beginEntry d t).mem = s.mem := by
  simp [State.beginEntry]

@[simp] theorem State.breakIdle_keeps (s : State) (c : Nat) : (s.breakIdle c).tb = s.tb ∧ (s.breakIdle c).pending = s.pending ∧ (s.breakIdle c).mem = s.mem := by
  unfold State.breakIdle; dsimp only; refine ⟨?_, ?_, ?_⟩ <;> (repeat' split) <;> simp

@[simp] theorem State.setPba_keeps (s : State) (v : Nat) (b : Bool) : (s.setPba v b).tb = s.tb ∧ (s.setPba v b).pending = s.pending ∧ (s.setPba v b).mem = s.mem := by
  simp [State.setPba]

@[simp] theorem State.msixSend_keeps (s : State) (v : Nat) : (s.msixSend v).tb = s.tb ∧ (s.msixSend v).pending = s.pending ∧ (s.msixSend v).mem = s.mem := by
  simp [State.msixSend]

@[simp] theorem State.msixUnmask_keeps (s : State) (v : Nat) : (State.msixUnmask s v).tb = s.tb ∧ (State.msixUnmask s v).pending = s.pending ∧ (State.msixUnmask s v).mem = s.mem := by
  simp [State.msixUnmask]

@[simp] theorem State.msixRise_keeps (s : State) (s' : State) (srcs : List Nat) : (s.msixRise s' srcs).tb = s'.tb ∧ (s.msixRise s' srcs).pending = s'.pending ∧ (s.msixRise s' srcs).mem = s'.mem := by
  simp [State.msixRise]

@[simp] theorem State.fireGroup_keeps (s : State) (g : Nat) : (s.fireGroup g).tb = s.tb ∧ (s.fireGroup g).pending = s.pending ∧ (s.fireGroup g).mem = s.mem := by
  simp [State.fireGroup]

@[simp] theorem State.countRaise_keeps (s : State) (g : Nat) : (s.countRaise g).tb = s.tb ∧ (s.countRaise g).pending = s.pending ∧ (s.countRaise g).mem = s.mem := by
  simp [State.countRaise]

@[simp] theorem State.arrive_keeps (s : State) (n : Nat) : (s.arrive n).tb = s.tb ∧ (s.arrive n).pending = s.pending ∧ (s.arrive n).mem = s.mem := by
  unfold State.arrive; dsimp only; refine ⟨?_, ?_, ?_⟩ <;> (repeat' split) <;> simp

@[simp] theorem State.cross_keeps (s : State) (n : Nat) : (s.cross n).tb = s.tb ∧ (s.cross n).pending = s.pending ∧ (s.cross n).mem = s.mem := by
  simp [State.cross]

@[simp] theorem State.reportCrossing_keeps (s : State) (p : Nat) (b : Nat) (n : Nat) : (State.reportCrossing s p b n).tb = s.tb ∧ (State.reportCrossing s p b n).pending = s.pending ∧ (State.reportCrossing s p b n).mem = s.mem := by
  simp [State.reportCrossing]

@[simp] theorem State.raise_keeps (s : State) (n : Nat) : (s.raise n).tb = s.tb ∧ (s.raise n).pending = s.pending ∧ (s.raise n).mem = s.mem := by
  simp [State.raise]

@[simp] theorem State.levelSource_keeps (s : State) (n : Nat) (c : Bool) : (s.levelSource n c).tb = s.tb ∧ (s.levelSource n c).pending = s.pending ∧ (s.levelSource n c).mem = s.mem := by
  simp [State.levelSource]

@[simp] theorem State.pgEvt_keeps (s : State) (p : Nat) (b : Nat) : (s.pgEvt p b).tb = s.tb ∧ (s.pgEvt p b).pending = s.pending ∧ (s.pgEvt p b).mem = s.mem := by
  unfold State.pgEvt; dsimp only; refine ⟨?_, ?_, ?_⟩ <;> (repeat' split) <;> simp

@[simp] theorem State.logErr_keeps (s : State) (addr : Nat) (kind : Nat) : (s.logErr addr kind).tb = s.tb ∧ (s.logErr addr kind).pending = s.pending ∧ (s.logErr addr kind).mem = s.mem := by
  simp [State.logErr]

@[simp] theorem State.poisonedTlp_keeps (s : State) (addr : Nat) : (State.poisonedTlp s addr).tb = s.tb ∧ (State.poisonedTlp s addr).pending = s.pending ∧ (State.poisonedTlp s addr).mem = s.mem := by
  simp [State.poisonedTlp]

@[simp] theorem State.malformedTlp_keeps (s : State) : (State.malformedTlp s).tb = s.tb ∧ (State.malformedTlp s).pending = s.pending ∧ (State.malformedTlp s).mem = s.mem := by
  simp [State.malformedTlp]

theorem State.host_keeps {γ : Type} (g : State → γ) (s : State) (f : State → State) (hf : g (f s) = g s)
    (hu : g { s with aer := s.aer ||| 0x100000 } = g s) : g (s.host f) = g s := by
  unfold State.host; (repeat' split) <;> first | assumption | rfl

theorem State.hostAt_keeps {γ : Type} (g : State → γ) (s : State) (p : Nat) (f : State → State) (hf : g (f s) = g s) (hl : g (s.logErr p 1) = g s)
    (hu : g { s with aer := s.aer ||| 0x100000 } = g s) : g (s.hostAt p f) = g s := by
  refine State.host_keeps g s _ ?_ hu
  split <;> assumption

@[simp] theorem State.setWord_keeps (s : State) (a : Nat) (w : Word) : (s.setWord a w).tb = s.tb ∧ (s.setWord a w).pending = s.pending := by
  simp [State.setWord]

@[simp] theorem State.setBytes_keeps (bs : List Byte) : ∀ (s : State) (a : Nat), (s.setBytes a bs).tb = s.tb ∧ (s.setBytes a bs).pending = s.pending := by
  induction bs with
  | nil => intro s a; exact ⟨rfl, rfl⟩
  | cons b bs ih => intro s a; simp [State.setBytes, ih]

@[simp] theorem State.clearRange_keeps (s : State) (a : Nat) (n : Nat) : (s.clearRange a n).tb = s.tb ∧ (s.clearRange a n).pending = s.pending := by
  simp [State.clearRange]

@[simp] theorem State.eccRead_keeps (s : State) (u : EccUnit) (a : Nat) : (s.eccRead u a).2.2.tb = s.tb ∧ (s.eccRead u a).2.2.pending = s.pending ∧ (s.eccRead u a).2.2.mem = s.mem := by
  unfold State.eccRead; refine ⟨?_, ?_, ?_⟩ <;> (repeat' split) <;> simp

@[simp] theorem State.eccFix_keeps (s : State) (a : Nat) : (s.eccFix a).tb = s.tb ∧ (s.eccFix a).pending = s.pending ∧ (s.eccFix a).mem = s.mem := by
  simp [State.eccFix]

@[simp] theorem State.readLocal_keeps (s : State) (cog a : Nat) : (s.readLocal cog a).2.2.tb = s.tb ∧ (s.readLocal cog a).2.2.pending = s.pending ∧
    (s.readLocal cog a).2.2.mem = s.mem := by
  unfold State.readLocal
  generalize hr : s.eccRead (localEcc cog) (localBase cog + 2 * (a % 16384)) = r
  obtain ⟨h1, h2, h3⟩ : r.2.2.tb = s.tb ∧ r.2.2.pending = s.pending ∧ r.2.2.mem = s.mem := by rw [← hr]; simp
  obtain ⟨e, inj, t⟩ := r
  cases e <;> cases inj <;> simp_all

@[simp] theorem State.readShared_keeps (s : State) (c : Nat) (a : Nat) : (s.readShared c a).2.2.tb = s.tb ∧ (s.readShared c a).2.2.pending = s.pending ∧ (s.readShared c a).2.2.mem = s.mem := by
  unfold State.readShared; dsimp only; refine ⟨?_, ?_, ?_⟩ <;> (repeat' split) <;> simp

@[simp] theorem State.readProg_keeps (s : State) (c : Nat) (a : Nat) : (s.readProg c a).2.tb = s.tb ∧ (s.readProg c a).2.pending = s.pending ∧ (s.readProg c a).2.mem = s.mem := by
  unfold State.readProg; dsimp only; refine ⟨?_, ?_, ?_⟩ <;> (repeat' split) <;> simp

@[simp] theorem State.readCam_keeps (s : State) (a : Nat) : (s.readCam a).2.tb = s.tb ∧ (s.readCam a).2.pending = s.pending ∧ (s.readCam a).2.mem = s.mem := by
  unfold State.readCam; dsimp only; refine ⟨?_, ?_, ?_⟩ <;> (repeat' split) <;> simp

end Sys2Proof.Machine
end

