-- ==== Sys2Proof/Laws/Wire.lean ====
section
/-! SUPPORT. What the operations of Machine/Wire.lean leave: the timebase, the queue of commands and, where they write none, the bytes of the stores. -/

/-! The proofs of this file are elaborated one after another: as one text with the rest of the package, in parallel they would need more threads
than the memory holds. -/

set_option Elab.async false

namespace Sys2Proof.Machine

@[simp] theorem State.sendFrame_keeps (s : State) (p : Nat) (f : List Byte) : (s.sendFrame p f).tb = s.tb ∧ (s.sendFrame p f).pending = s.pending ∧ (s.sendFrame p f).mem = s.mem := by
  simp [State.sendFrame]

@[simp] theorem State.sendWake_keeps (s : State) (p : Nat) : (State.sendWake s p).tb = s.tb ∧ (State.sendWake s p).pending = s.pending ∧ (State.sendWake s p).mem = s.mem := by
  simp [State.sendWake]

@[simp] theorem State.brakeFrames_keeps (s : State) : (s.brakeFrames).tb = s.tb ∧ (s.brakeFrames).pending = s.pending ∧ (s.brakeFrames).mem = s.mem := by
  simp [State.brakeFrames]

end Sys2Proof.Machine
end

