-- ==== Sys2Proof/Laws/Pins.lean ====
section
/-! SUPPORT. What the operations of Machine/Pins.lean leave: the timebase, the queue of commands and, where they write none, the bytes of the stores. -/

/-! The proofs of this file are elaborated one after another: as one text with the rest of the package, in parallel they would need more threads
than the memory holds. -/

set_option Elab.async false

namespace Sys2Proof.Machine

@[simp] theorem State.showInputs_keeps (s : State) : (s.showInputs).tb = s.tb ∧ (s.showInputs).pending = s.pending ∧ (s.showInputs).mem = s.mem := by
  simp [State.showInputs]

@[simp] theorem State.showPin_keeps (s : State) (n : Nat) (time : Nat) : (s.showPin n time).tb = s.tb ∧ (s.showPin n time).pending = s.pending ∧ (s.showPin n time).mem = s.mem := by
  simp [State.showPin]

@[simp] theorem State.showPins_keeps (s : State) : (s.showPins).tb = s.tb ∧ (s.showPins).pending = s.pending ∧ (s.showPins).mem = s.mem := by
  simp [State.showPins]

@[simp] theorem State.pinsSafe_keeps (s : State) : (s.pinsSafe).tb = s.tb ∧ (s.pinsSafe).pending = s.pending ∧ (s.pinsSafe).mem = s.mem := by
  simp [State.pinsSafe]

@[simp] theorem State.safeEnd_keeps (s : State) : (State.safeEnd s).tb = s.tb ∧ (State.safeEnd s).pending = s.pending ∧ (State.safeEnd s).mem = s.mem := by
  simp [State.safeEnd]

@[simp] theorem State.safeClear_keeps (s : State) : (s.safeClear).tb = s.tb ∧ (s.safeClear).pending = s.pending ∧ (s.safeClear).mem = s.mem := by
  simp [State.safeClear]

@[simp] theorem State.safeReset_keeps (s : State) : (State.safeReset s).tb = s.tb ∧ (State.safeReset s).pending = s.pending ∧ (State.safeReset s).mem = s.mem := by
  simp [State.safeReset]

@[simp] theorem State.showBanks_keeps (s : State) : (s.showBanks).tb = s.tb ∧ (s.showBanks).pending = s.pending ∧ (s.showBanks).mem = s.mem := by
  simp [State.showBanks]

@[simp] theorem State.setMismatch_keeps (s : State) (b : Nat) (m : Bool) : (s.setMismatch b m).tb = s.tb ∧ (s.setMismatch b m).pending = s.pending ∧ (s.setMismatch b m).mem = s.mem := by
  simp [State.setMismatch]

@[simp] theorem State.injectMismatch_keeps (s : State) : (s.injectMismatch).tb = s.tb ∧ (s.injectMismatch).pending = s.pending ∧ (s.injectMismatch).mem = s.mem := by
  simp [State.injectMismatch]

end Sys2Proof.Machine
end

