-- ==== Sys2Proof/Laws/Mram.lean ====
section
/-! SUPPORT. What the operations of Machine/Mram.lean leave: the timebase, the queue of commands and, where they write none, the bytes of the stores. -/

/-! The proofs of this file are elaborated one after another: as one text with the rest of the package, in parallel they would need more threads
than the memory holds. -/

set_option Elab.async false

namespace Sys2Proof.Machine

@[simp] theorem State.camWear_keeps (s : State) (b : Nat) (n : Nat) : (s.camWear b n).tb = s.tb ∧ (s.camWear b n).pending = s.pending ∧ (s.camWear b n).mem = s.mem := by
  simp [State.camWear]

@[simp] theorem State.mramRead_keeps (s : State) (g : Nat) : (State.mramRead s g).2.tb = s.tb ∧ (State.mramRead s g).2.pending = s.pending ∧ (State.mramRead s g).2.mem = s.mem := by
  unfold State.mramRead; refine ⟨?_, ?_, ?_⟩ <;> (repeat' split) <;> simp

@[simp] theorem State.granuleWrite_keeps (s : State) (g : Nat) (xs : List (Nat × Byte)) : (State.granuleWrite s g xs).tb = s.tb ∧ (State.granuleWrite s g xs).pending = s.pending := by
  unfold State.granuleWrite; dsimp only; refine ⟨?_, ?_⟩ <;> (repeat' split) <;> simp

@[simp] theorem State.mramWrite_keeps (s : State) (xs : List (Nat × Byte)) : (State.mramWrite s xs).tb = s.tb ∧ (State.mramWrite s xs).pending = s.pending := by
  simp [State.mramWrite]

@[simp] theorem State.mramStore_keeps (s : State) (xs : List (Nat × Byte)) : (State.mramStore s xs).tb = s.tb ∧ (State.mramStore s xs).pending = s.pending := by
  simp [State.mramStore]

end Sys2Proof.Machine
end

