-- ==== Sys2Proof/Laws/Brake.lean ====
section
/-! SUPPORT. What the operations of Machine/Brake.lean leave: the timebase, the queue of commands and, where they write none, the bytes of the stores. -/

/-! The proofs of this file are elaborated one after another: as one text with the rest of the package, in parallel they would need more threads
than the memory holds. -/

set_option Elab.async false

namespace Sys2Proof.Machine

@[simp] theorem State.tracePut_keeps (s : State) (k : TracePacket) : (s.tracePut k).tb = s.tb ∧ (s.tracePut k).pending = s.pending ∧ (s.tracePut k).mem = s.mem := by
  simp [State.tracePut]

@[simp] theorem State.wdtRestart_keeps (s : State) (i : Nat) : (s.wdtRestart i).tb = s.tb ∧ (s.wdtRestart i).pending = s.pending ∧ (s.wdtRestart i).mem = s.mem := by
  simp [State.wdtRestart]

@[simp] theorem State.watchdogKick_keeps (s : State) (i : Nat) (src : Nat) : (State.watchdogKick s i src).tb = s.tb ∧ (State.watchdogKick s i src).pending = s.pending ∧ (State.watchdogKick s i src).mem = s.mem := by
  simp [State.watchdogKick]

@[simp] theorem State.endWait_keeps (s : State) (i : Nat) (k : Nat) : (State.endWait s i k).tb = s.tb ∧ (State.endWait s i k).pending = s.pending ∧ (State.endWait s i k).mem = s.mem := by
  unfold State.endWait; dsimp only; refine ⟨?_, ?_, ?_⟩ <;> (repeat' split) <;> simp

@[simp] theorem State.wakeCog_keeps (s : State) (i : Nat) (k : Nat) : (State.wakeCog s i k).tb = s.tb ∧ (State.wakeCog s i k).pending = s.pending ∧ (State.wakeCog s i k).mem = s.mem := by
  unfold State.wakeCog; dsimp only; refine ⟨?_, ?_, ?_⟩ <;> (repeat' split) <;> simp

@[simp] theorem State.requestHalt_keeps (s : State) (i : Nat) (r : HaltReq) : (s.requestHalt i r).tb = s.tb ∧ (s.requestHalt i r).pending = s.pending ∧ (s.requestHalt i r).mem = s.mem := by
  simp [State.requestHalt]

@[simp] theorem State.pelTrigger_keeps (s : State) (g : Nat) : (s.pelTrigger g).tb = s.tb ∧ (s.pelTrigger g).pending = s.pending ∧ (s.pelTrigger g).mem = s.mem := by
  simp [State.pelTrigger]

@[simp] theorem State.brakeMarks_keeps (s : State) : (State.brakeMarks s).tb = s.tb ∧ (State.brakeMarks s).pending = s.pending ∧ (State.brakeMarks s).mem = s.mem := by
  simp [State.brakeMarks]

@[simp] theorem State.brake_keeps (s : State) (k : BrakeCause) : (s.brake k).tb = s.tb ∧ (s.brake k).pending = s.pending ∧ (s.brake k).mem = s.mem := by
  simp [State.brake]

@[simp] theorem State.brakeIfHalt_keeps (s : State) : (s.brakeIfHalt).tb = s.tb ∧ (s.brakeIfHalt).pending = s.pending ∧ (s.brakeIfHalt).mem = s.mem := by
  simp [State.brakeIfHalt]

@[simp] theorem State.takeHalt_keeps (s : State) (i : Nat) (r : HaltReq) : (s.takeHalt i r).tb = s.tb ∧ (s.takeHalt i r).pending = s.pending ∧ (s.takeHalt i r).mem = s.mem := by
  simp [State.takeHalt]

@[simp] theorem State.takeDisable_keeps (s : State) (i : Nat) : (s.takeDisable i).tb = s.tb ∧ (s.takeDisable i).pending = s.pending ∧ (s.takeDisable i).mem = s.mem := by
  simp [State.takeDisable]

@[simp] theorem State.settleHalts_keeps (x0 : Nat) (x1 : State) : (State.settleHalts x0 x1).tb = x1.tb ∧ (State.settleHalts x0 x1).pending = x1.pending ∧ (State.settleHalts x0 x1).mem = x1.mem := by
  fun_induction State.settleHalts x0 x1 <;> simp_all

@[simp] theorem State.settle_keeps (s : State) : (s.settle).tb = s.tb ∧ (s.settle).pending = s.pending ∧ (s.settle).mem = s.mem := by
  simp [State.settle]

end Sys2Proof.Machine
end

