-- ==== Sys2Proof/Laws/CogMem.lean ====
section
/-! SUPPORT. What the operations of Machine/CogMem.lean leave: the timebase, the queue of commands and, where they write none, the bytes of the stores. -/

/-! The proofs of this file are elaborated one after another: as one text with the rest of the package, in parallel they would need more threads
than the memory holds. -/

set_option Elab.async false

namespace Sys2Proof.Machine

@[simp] theorem State.unmapped_keeps (s : State) (i : Nat) (a : Nat) (store : Bool) : (s.unmapped i a store).tb = s.tb ∧ (s.unmapped i a store).pending = s.pending ∧ (s.unmapped i a store).mem = s.mem := by
  simp [State.unmapped]

@[simp] theorem State.readData_keeps (s : State) (i : Nat) (a : Nat) : (s.readData i a).2.2.tb = s.tb ∧ (s.readData i a).2.2.pending = s.pending ∧ (s.readData i a).2.2.mem = s.mem := by
  unfold State.readData; dsimp only; refine ⟨?_, ?_, ?_⟩ <;> (repeat' split) <;> simp

@[simp] theorem State.readWords_keeps (s : State) (i a n : Nat) : (s.readWords i a n).2.2.tb = s.tb ∧ (s.readWords i a n).2.2.pending = s.pending ∧
    (s.readWords i a n).2.2.mem = s.mem := by
  induction n generalizing s a with
  | zero => exact ⟨rfl, rfl, rfl⟩
  | succ n ih => simp [State.readWords, ih]

@[simp] theorem State.dropReservations_keeps (s : State) (c : Nat) (a : Nat) (n : Nat) (by_ : Option Nat) : (s.dropReservations c a n by_).tb = s.tb ∧ (s.dropReservations c a n by_).pending = s.pending ∧ (s.dropReservations c a n by_).mem = s.mem := by
  simp [State.dropReservations]

@[simp] theorem State.writeData_keeps (s : State) (i : Nat) (a : Nat) (w : Word) : (s.writeData i a w).tb = s.tb ∧ (s.writeData i a w).pending = s.pending := by
  unfold State.writeData; dsimp only; refine ⟨?_, ?_⟩ <;> (repeat' split) <;> simp

@[simp] theorem State.writeWords_keeps (s : State) (i : Nat) (a : Nat) (ws : List Word) : (State.writeWords s i a ws).tb = s.tb ∧ (State.writeWords s i a ws).pending = s.pending := by
  simp [State.writeWords]

@[simp] theorem State.answerLoad_keeps (s : State) (i : Nat) : (s.answerLoad i).tb = s.tb ∧ (s.answerLoad i).pending = s.pending ∧ (s.answerLoad i).mem = s.mem := by
  unfold State.answerLoad; dsimp only; refine ⟨?_, ?_, ?_⟩ <;> (repeat' split) <;> simp

@[simp] theorem State.drainStore_keeps (s : State) (i : Nat) : (s.drainStore i).tb = s.tb ∧ (s.drainStore i).pending = s.pending := by
  unfold State.drainStore; dsimp only; refine ⟨?_, ?_⟩ <;> (repeat' split) <;> simp

@[simp] theorem State.drainAll_keeps (s : State) (i : Nat) : (s.drainAll i).tb = s.tb ∧ (s.drainAll i).pending = s.pending := by
  simp [State.drainAll]

@[simp] theorem State.pushStore_keeps (s : State) (i : Nat) (a : Nat) (ws : List Word) : (s.pushStore i a ws).tb = s.tb ∧ (s.pushStore i a ws).pending = s.pending ∧ (s.pushStore i a ws).mem = s.mem := by
  simp [State.pushStore]

@[simp] theorem State.startLoad_keeps (s : State) (i : Nat) (a : Nat) (w : Width) : (s.startLoad i a w).tb = s.tb ∧ (s.startLoad i a w).pending = s.pending ∧ (s.startLoad i a w).mem = s.mem := by
  unfold State.startLoad; dsimp only; refine ⟨?_, ?_, ?_⟩ <;> (repeat' split) <;> simp

@[simp] theorem State.readStack_keeps (s : State) (i a n : Nat) : (s.readStack i a n).2.2.tb = s.tb ∧ (s.readStack i a n).2.2.pending = s.pending ∧
    (s.readStack i a n).2.2.mem = s.mem := by
  induction n generalizing s a with
  | zero => exact ⟨rfl, rfl, rfl⟩
  | succ n ih =>
    simp only [State.readStack]
    split <;> simp [ih]

@[simp] theorem State.readProgram_keeps (s : State) (c : Nat) (a : Nat) (n : Nat) : (s.readProgram c a n).2.tb = s.tb ∧ (s.readProgram c a n).2.pending = s.pending ∧ (s.readProgram c a n).2.mem = s.mem := by
  simp [State.readProgram]

@[simp] theorem State.transfer_keeps (s : State) (i : Nat) (target : Nat) : (s.transfer i target).tb = s.tb ∧ (s.transfer i target).pending = s.pending ∧ (s.transfer i target).mem = s.mem := by
  simp [State.transfer]

@[simp] theorem State.keepBody_keeps (s : State) (i : Nat) : (State.keepBody s i).tb = s.tb ∧ (State.keepBody s i).pending = s.pending ∧ (State.keepBody s i).mem = s.mem := by
  unfold State.keepBody; dsimp only; refine ⟨?_, ?_, ?_⟩ <;> (repeat' split) <;> simp

@[simp] theorem State.readLine_keeps (s : State) (i : Nat) (a : Nat) : (State.readLine s i a).tb = s.tb ∧ (State.readLine s i a).pending = s.pending ∧ (State.readLine s i a).mem = s.mem := by
  simp [State.readLine]

@[simp] theorem State.fetchStall_keeps (s : State) (i : Nat) : (State.fetchStall s i).tb = s.tb ∧ (State.fetchStall s i).pending = s.pending ∧ (State.fetchStall s i).mem = s.mem := by
  simp [State.fetchStall]

@[simp] theorem State.fetchLine_keeps (s : State) (i : Nat) : (State.fetchLine s i).tb = s.tb ∧ (State.fetchLine s i).pending = s.pending ∧ (State.fetchLine s i).mem = s.mem := by
  unfold State.fetchLine; dsimp only; refine ⟨?_, ?_, ?_⟩ <;> (repeat' split) <;> simp

@[simp] theorem State.fetchAhead_keeps (s : State) (i : Nat) (a : Nat) : (State.fetchAhead s i a).tb = s.tb ∧ (State.fetchAhead s i a).pending = s.pending ∧ (State.fetchAhead s i a).mem = s.mem := by
  unfold State.fetchAhead; refine ⟨?_, ?_, ?_⟩ <;> (first | apply upTo_tb | apply upTo_pending | apply upTo_mem) <;> intro t x <;> (repeat' split) <;> simp

@[simp] theorem State.prefetch_keeps (s : State) (i : Nat) : (s.prefetch i).tb = s.tb ∧ (s.prefetch i).pending = s.pending ∧ (s.prefetch i).mem = s.mem := by
  unfold State.prefetch; dsimp only; refine ⟨?_, ?_, ?_⟩ <;> (repeat' split) <;> simp

end Sys2Proof.Machine
end

