-- ==== Sys2Proof/Laws/CogIssue.lean ====
section
/-! SUPPORT. What the operations of Machine/CogIssue.lean leave: the timebase, the queue of commands and, where they write none, the bytes of the stores. -/

/-! The proofs of this file are elaborated one after another: as one text with the rest of the package, in parallel they would need more threads
than the memory holds. -/

set_option Elab.async false

namespace Sys2Proof.Machine

@[simp] theorem State.stallCog_keeps (s : State) (i : Nat) (cause : Nat) : (s.stallCog i cause).tb = s.tb ∧ (s.stallCog i cause).pending = s.pending ∧ (s.stallCog i cause).mem = s.mem := by
  unfold State.stallCog; dsimp only; refine ⟨?_, ?_, ?_⟩ <;> (repeat' split) <;> simp

@[simp] theorem State.settleCog_keeps (s : State) (i : Nat) : (s.settleCog i).tb = s.tb ∧ (s.settleCog i).pending = s.pending := by
  simp [State.settleCog]

@[simp] theorem State.dropBegun_keeps (s : State) (i : Nat) : (State.dropBegun s i).tb = s.tb ∧ (State.dropBegun s i).pending = s.pending ∧ (State.dropBegun s i).mem = s.mem := by
  unfold State.dropBegun; dsimp only; refine ⟨?_, ?_, ?_⟩ <;> (repeat' split) <;> simp

@[simp] theorem State.chainNow_keeps (s : State) (i : Nat) : (State.chainNow s i).tb = s.tb ∧ (State.chainNow s i).pending = s.pending ∧ (State.chainNow s i).mem = s.mem := by
  unfold State.chainNow; dsimp only; refine ⟨?_, ?_, ?_⟩ <;> (repeat' split) <;> simp

@[simp] theorem State.returnFrom_keeps (s : State) (i : Nat) (pc : Nat) (target : Nat) (stacked : Word) (defer : Nat) : (State.returnFrom s i pc target stacked defer).tb = s.tb ∧ (State.returnFrom s i pc target stacked defer).pending = s.pending := by
  unfold State.returnFrom; dsimp only; refine ⟨?_, ?_⟩ <;> (repeat' split) <;> simp

@[simp] theorem State.goOn_keeps (s : State) (i : Nat) (k : Current) (back : Option Nat) (defer : Nat) : (State.goOn s i k back defer).tb = s.tb ∧ (State.goOn s i k back defer).pending = s.pending := by
  unfold State.goOn; dsimp only; refine ⟨?_, ?_⟩ <;> (repeat' split) <;> simp

theorem State.goOn_mem (s : State) (i : Nat) (k : Current) (b : Option Nat) (d : Nat) (h : k.exret = none) : (s.goOn i k b d).mem = s.mem := by
  unfold State.goOn
  rw [h]
  dsimp only
  (repeat' split) <;> simp_all

@[simp] theorem State.finishBundle_keeps (s : State) (i : Nat) : (State.finishBundle s i).tb = s.tb ∧ (State.finishBundle s i).pending = s.pending := by
  unfold State.finishBundle
  dsimp only
  split
  · exact ⟨rfl, rfl⟩
  · simp only [State.settle_keeps]
    generalize Cog.boundaryTrap _ _ = c
    refine ⟨?_, ?_⟩ <;> split <;> simp

theorem State.finishBundle_mem (s : State) (i : Nat) (h : ∀ k, (s.cog i).cur = some k → k.exret = none) : (s.finishBundle i).mem = s.mem := by
  unfold State.finishBundle
  dsimp only
  split
  · rfl
  · rename_i k hk
    simp only [State.settle_keeps]
    generalize Cog.boundaryTrap _ _ = c
    split <;> simp [State.goOn_mem _ _ _ _ _ (h k hk)]

@[simp] theorem State.tryFinish_keeps (s : State) (i : Nat) : (s.tryFinish i).tb = s.tb ∧ (s.tryFinish i).pending = s.pending := by
  unfold State.tryFinish; dsimp only; split
  · exact ⟨rfl, rfl⟩
  · refine ⟨?_, ?_⟩ <;> (repeat' split) <;> simp

theorem State.tryFinish_mem (s : State) (i : Nat) (h : ∀ k, (s.cog i).cur = some k → k.exret = none) : (s.tryFinish i).mem = s.mem := by
  unfold State.tryFinish
  dsimp only
  split
  · rfl
  · (repeat' split) <;> simp [State.finishBundle_mem s i h]

@[simp] theorem State.accepted_keeps (s : State) (i : Nat) (fw : optParam FlagWrite { }) : (s.accepted i fw).tb = s.tb ∧ (s.accepted i fw).pending = s.pending := by
  simp [State.accepted]

theorem State.accepted_mem (s : State) (i : Nat) (fw : FlagWrite) (h : ∀ k, (s.cog i).cur = some k → k.exret = none) : (s.accepted i fw).mem = s.mem := by
  unfold State.accepted
  rw [State.tryFinish_mem _ i]
  · simp
  · intro k hk
    simp at hk
    obtain ⟨k', h1, rfl⟩ := hk
    exact h k' h1

/-- A trigger's effect that keeps a part of the state keeps it, whether it acts or not. -/
theorem State.onTrigger_keeps {γ : Type} (g : State → γ) (s : State) (i : Nat) (t : Trigger) (f : Nat → Width → State → State)
    (h : ∀ v w, g (f v w s) = g s) : g (s.onTrigger i t f) = g s := by
  unfold State.onTrigger
  split
  · split
    · exact h _ _
    · rfl
  · rfl

@[simp] theorem State.trapCog_keeps (s : State) (i : Nat) (t : Trap) : (s.trapCog i t).tb = s.tb ∧ (s.trapCog i t).pending = s.pending ∧ (s.trapCog i t).mem = s.mem := by
  simp [State.trapCog]

/-! Only the entry of a tail-chain (R153), which a return alone can make, writes stored data as a bundle completes. -/

@[simp] theorem State.issueDecoded_keeps (s : State) (i : Nat) (b : Bundle) (c : Cog) (loadTrap : Option Trap) : (s.issueDecoded i b c loadTrap).tb = s.tb ∧ (s.issueDecoded i b c loadTrap).pending = s.pending := by
  refine ⟨?_, ?_⟩
  · unfold State.issueDecoded
    refine ite_keeps State.tb (by simp) (ite_keeps State.tb (by simp) (ite_keeps State.tb (by simp) (ite_keeps State.tb (by simp) ?_)))
    dsimp only
    split
    · simp
    refine ite_keeps State.tb (by simp) (ite_keeps State.tb (by simp) ?_)
    split
    · simp
    split
    · simp
    split
    · simp
    exact ite_keeps State.tb (by simp) (by simp)
  · unfold State.issueDecoded
    refine ite_keeps State.pending (by simp) (ite_keeps State.pending (by simp) (ite_keeps State.pending (by simp) (ite_keeps State.pending (by simp) ?_)))
    dsimp only
    split
    · simp
    refine ite_keeps State.pending (by simp) (ite_keeps State.pending (by simp) ?_)
    split
    · simp
    split
    · simp
    split
    · simp
    exact ite_keeps State.pending (by simp) (by simp)

@[simp] theorem State.answerDue_keeps (s : State) (i : Nat) : (State.answerDue s i).tb = s.tb ∧ (State.answerDue s i).pending = s.pending ∧ (State.answerDue s i).mem = s.mem := by
  unfold State.answerDue; dsimp only; refine ⟨?_, ?_, ?_⟩ <;> (repeat' split) <;> simp

@[simp] theorem State.issueFetched_keeps (s : State) (i : Nat) (used : List (Byte × Bool)) : (State.issueFetched s i used).tb = s.tb ∧ (State.issueFetched s i used).pending = s.pending := by
  unfold State.issueFetched; dsimp only; refine ⟨?_, ?_⟩ <;> (repeat' split) <;> simp

@[simp] theorem State.issue_keeps (s : State) (i : Nat) : (State.issue s i).tb = s.tb ∧ (State.issue s i).pending = s.pending := by
  unfold State.issue; dsimp only; refine ⟨?_, ?_⟩ <;> (repeat' split) <;> simp

@[simp] theorem State.longResult_keeps (s : State) (i : Nat) (u : LongUnit) : (s.longResult i u).tb = s.tb ∧ (s.longResult i u).pending = s.pending ∧ (s.longResult i u).mem = s.mem := by
  unfold State.longResult; dsimp only; refine ⟨?_, ?_, ?_⟩ <;> (repeat' split) <;> simp

@[simp] theorem State.captureTrap_keeps (s : State) (i : Nat) (t : Trap) : (s.captureTrap i t).tb = s.tb ∧ (s.captureTrap i t).pending = s.pending ∧ (s.captureTrap i t).mem = s.mem := by
  simp [State.captureTrap]

@[simp] theorem State.pushFrame_keeps (s : State) (i : Nat) (ret : Nat) : (s.pushFrame i ret).tb = s.tb ∧ (s.pushFrame i ret).pending = s.pending ∧ (s.pushFrame i ret).mem = s.mem := by
  simp [State.pushFrame]

@[simp] theorem State.enterVector_keeps (s : State) (i : Nat) (v : Nat) (ret : Nat) (level : Option Nat) : (s.enterVector i v ret level).tb = s.tb ∧ (s.enterVector i v ret level).pending = s.pending ∧ (s.enterVector i v ret level).mem = s.mem := by
  simp [State.enterVector]

@[simp] theorem State.lockUp_keeps (s : State) (i : Nat) (t : Trap) : (s.lockUp i t).tb = s.tb ∧ (s.lockUp i t).pending = s.pending ∧ (s.lockUp i t).mem = s.mem := by
  simp [State.lockUp]

@[simp] theorem State.tryEnter_keeps (s : State) (i : Nat) (v : Nat) (ret : Nat) (level : Option Nat) (trap : Option Trap) : (s.tryEnter i v ret level trap).tb = s.tb ∧ (s.tryEnter i v ret level trap).pending = s.pending ∧ (s.tryEnter i v ret level trap).mem = s.mem := by
  unfold State.tryEnter; dsimp only; refine ⟨?_, ?_, ?_⟩ <;> (repeat' split) <;> simp

@[simp] theorem State.enterTrap_keeps (s : State) (i : Nat) (t : Trap) : (State.enterTrap s i t).tb = s.tb ∧ (State.enterTrap s i t).pending = s.pending ∧ (State.enterTrap s i t).mem = s.mem := by
  simp [State.enterTrap]

@[simp] theorem State.exceptionEntry_keeps (s : State) (i : Nat) : (s.exceptionEntry i).tb = s.tb ∧ (s.exceptionEntry i).pending = s.pending := by
  unfold State.exceptionEntry; dsimp only; refine ⟨?_, ?_⟩ <;> (repeat' split) <;> simp

@[simp] theorem State.enterEvent_keeps (s : State) (i : Nat) (k : Nat) : (State.enterEvent s i k).tb = s.tb ∧ (State.enterEvent s i k).pending = s.pending := by
  unfold State.enterEvent; dsimp only; refine ⟨?_, ?_⟩ <;> (repeat' split) <;> simp

@[simp] theorem State.eventEntry_keeps (s : State) (i : Nat) : (s.eventEntry i).tb = s.tb ∧ (s.eventEntry i).pending = s.pending := by
  unfold State.eventEntry; dsimp only; refine ⟨?_, ?_⟩ <;> (repeat' split) <;> simp

end Sys2Proof.Machine
end

