-- ==== Sys2Proof/Laws/CogUnits.lean ====
section
/-! SUPPORT. What the operations of Machine/CogUnits.lean leave: the timebase, the queue of commands and, where they write none, the bytes of the stores. -/

/-! The proofs of this file are elaborated one after another: as one text with the rest of the package, in parallel they would need more threads
than the memory holds. -/

set_option Elab.async false

namespace Sys2Proof.Machine

@[simp] theorem State.yieldResult_keeps (s : State) (i : Nat) (p : Port) (r : Nat) (fw : FlagWrite) : (State.yieldResult s i p r fw).tb = s.tb ∧ (State.yieldResult s i p r fw).pending = s.pending := by
  simp [State.yieldResult]

@[simp] theorem State.aluOp_keeps (s : State) (i : Nat) (u : Bool) (op : AluOp) : (s.aluOp i u op).tb = s.tb ∧ (s.aluOp i u op).pending = s.pending := by
  unfold State.aluOp; refine ⟨State.onTrigger_keeps State.tb _ _ _ _ ?_, State.onTrigger_keeps State.pending _ _ _ _ ?_⟩ <;> (intro v w; dsimp only; (repeat' split) <;> simp_all)

@[simp] theorem State.shiftOp_keeps (s : State) (i : Nat) (t : Trigger) (op : ShiftOp) : (s.shiftOp i t op).tb = s.tb ∧ (s.shiftOp i t op).pending = s.pending := by
  unfold State.shiftOp; refine ⟨State.onTrigger_keeps State.tb _ _ _ _ ?_, State.onTrigger_keeps State.pending _ _ _ _ ?_⟩ <;> (intro v w; simp)

@[simp] theorem State.macOp_keeps (s : State) (i : Nat) (t : Trigger) (f : Int → Int → Int → Int) : (s.macOp i t f).tb = s.tb ∧ (s.macOp i t f).pending = s.pending := by
  unfold State.macOp
  refine ⟨State.onTrigger_keeps State.tb _ _ _ _ ?_, State.onTrigger_keeps State.pending _ _ _ _ ?_⟩ <;> intro v w <;> simp only [State.accepted_keeps] <;> rfl

@[simp] theorem State.longStart_keeps (s : State) (i : Nat) (u : LongUnit) (dests : List (Nat × Nat)) (fw : FlagWrite) : (State.longStart s i u dests fw).tb = s.tb ∧ (State.longStart s i u dests fw).pending = s.pending := by
  simp [State.longStart]

@[simp] theorem State.divOp_keeps (s : State) (i : Nat) (t : Trigger) (sgn : Bool) : (s.divOp i t sgn).tb = s.tb ∧ (s.divOp i t sgn).pending = s.pending := by
  unfold State.divOp; refine ⟨State.onTrigger_keeps State.tb _ _ _ _ ?_, State.onTrigger_keeps State.pending _ _ _ _ ?_⟩ <;> (intro v w; simp)

@[simp] theorem State.digOp_keeps (s : State) (i : Nat) (t : Trigger) (f : Nat → Nat → Nat → Nat × Bool) : (s.digOp i t f).tb = s.tb ∧ (s.digOp i t f).pending = s.pending := by
  unfold State.digOp; refine ⟨State.onTrigger_keeps State.tb _ _ _ _ ?_, State.onTrigger_keeps State.pending _ _ _ _ ?_⟩ <;> (intro v w; simp)

@[simp] theorem State.loadOp_keeps (s : State) (i : Nat) (t : Trigger) : (s.loadOp i t).tb = s.tb ∧ (s.loadOp i t).pending = s.pending := by
  unfold State.loadOp
  refine ⟨State.onTrigger_keeps State.tb _ _ _ _ ?_, State.onTrigger_keeps State.pending _ _ _ _ ?_⟩ <;> intro v w <;> split <;> simp

@[simp] theorem State.conditionalStore_keeps (s : State) (i : Nat) (a : Nat) (ws : List Word) (l : LockSeq) : (s.conditionalStore i a ws l).tb = s.tb ∧ (s.conditionalStore i a ws l).pending = s.pending := by
  simp [State.conditionalStore]

@[simp] theorem State.storeOp_keeps (s : State) (i : Nat) (t : Trigger) : (s.storeOp i t).tb = s.tb ∧ (s.storeOp i t).pending = s.pending := by
  unfold State.storeOp
  refine ⟨State.onTrigger_keeps State.tb _ _ _ _ ?_, State.onTrigger_keeps State.pending _ _ _ _ ?_⟩ <;> intro v w <;> dsimp only <;> (repeat' split) <;> simp

@[simp] theorem State.stackError_keeps (s : State) (i : Nat) (cause : Nat) (addr : Nat) : (State.stackError s i cause addr).tb = s.tb ∧ (State.stackError s i cause addr).pending = s.pending ∧ (State.stackError s i cause addr).mem = s.mem := by
  simp [State.stackError]

@[simp] theorem State.fenceOp_keeps (s : State) (i : Nat) (t : Trigger) (f : Current → Current) : (s.fenceOp i t f).tb = s.tb ∧ (s.fenceOp i t f).pending = s.pending := by
  unfold State.fenceOp; refine ⟨State.onTrigger_keeps State.tb _ _ _ _ ?_, State.onTrigger_keeps State.pending _ _ _ _ ?_⟩ <;> (intro v w; dsimp only; (repeat' split) <;> simp)

@[simp] theorem State.saveWords_keeps (s : State) (i : Nat) (a : Nat) (ws : List Nat) : (State.saveWords s i a ws).tb = s.tb ∧ (State.saveWords s i a ws).pending = s.pending := by
  simp [State.saveWords]

end Sys2Proof.Machine
end

