-- ==== Sys2Proof/Laws/Stores.lean ====
section
/-! SUPPORT. What the operations of Machine/Stores.lean leave: the timebase, the queue of commands and, where they write none, the bytes of the stores. -/

/-! The proofs of this file are elaborated one after another: as one text with the rest of the package, in parallel they would need more threads
than the memory holds. -/

set_option Elab.async false

namespace Sys2Proof.Machine

@[simp] theorem State.readVis_keeps (s : State) (n : Nat) (a : Nat) : (s.readVis n a).2.2.tb = s.tb ∧ (s.readVis n a).2.2.pending = s.pending ∧ (s.readVis n a).2.2.mem = s.mem := by
  unfold State.readVis; dsimp only; refine ⟨?_, ?_, ?_⟩ <;> (repeat' split) <;> simp

@[simp] theorem State.readWindowWord_keeps (s : State) (x1 : Window) : (s.readWindowWord x1).2.2.tb = s.tb ∧ (s.readWindowWord x1).2.2.pending = s.pending ∧ (s.readWindowWord x1).2.2.mem = s.mem := by
  unfold State.readWindowWord; refine ⟨?_, ?_, ?_⟩ <;> (repeat' split) <;> simp

@[simp] theorem State.hostWordCount_keeps (s : State) (w : Window) (part : Bool) : (s.hostWordCount w part).tb = s.tb ∧ (s.hostWordCount w part).pending = s.pending ∧ (s.hostWordCount w part).mem = s.mem := by
  unfold State.hostWordCount; refine ⟨?_, ?_, ?_⟩ <;> (repeat' split) <;> simp

@[simp] theorem State.writeContainer_keeps (s : State) (a : Nat) (lo : Option Byte) (hi : Option Byte) : (s.writeContainer a lo hi).tb = s.tb ∧ (s.writeContainer a lo hi).pending = s.pending := by
  unfold State.writeContainer; dsimp only; refine ⟨?_, ?_⟩ <;> (repeat' split) <;> simp

@[simp] theorem State.bar2Put_keeps (s : State) (xs : List (Nat × Byte)) : (s.bar2Put xs).tb = s.tb ∧ (s.bar2Put xs).pending = s.pending := by
  unfold State.bar2Put; dsimp only; refine ⟨?_, ?_⟩ <;> (repeat' split) <;> simp

@[simp] theorem State.bar2Get_keeps (s : State) (a len : Nat) : ((s.bar2Get a len).2.2).tb = s.tb ∧ ((s.bar2Get a len).2.2).pending = s.pending ∧ ((s.bar2Get a len).2.2).mem = s.mem := by
  refine ⟨?_, ?_, ?_⟩
  · unfold State.bar2Get
    dsimp only
    rw [foldl_pair_keeps State.tb _ (fun q x => ?_)] <;> (repeat' split) <;> simp
  · unfold State.bar2Get
    dsimp only
    rw [foldl_pair_keeps State.pending _ (fun q x => ?_)] <;> (repeat' split) <;> simp
  · unfold State.bar2Get
    dsimp only
    rw [foldl_pair_keeps State.mem _ (fun q x => ?_)] <;> (repeat' split) <;> simp

theorem State.scrubGranule_keeps (s : State) (g : Nat) (bank : Option Nat) (r : Ecc × State) : (s.scrubGranule g bank r).tb = r.2.tb ∧
    (s.scrubGranule g bank r).pending = r.2.pending ∧ (s.scrubGranule g bank r).mem = r.2.mem := by
  unfold State.scrubGranule
  dsimp only
  split
  · split <;> simp
  · exact ⟨rfl, rfl, rfl⟩

end Sys2Proof.Machine
end

