-- ==== Sys2Proof/Laws/Tap.lean ====
section
/-! SUPPORT. What the operations of Machine/Tap.lean leave: the timebase, the queue of commands and, where they write none, the bytes of the stores. -/

/-! The proofs of this file are elaborated one after another: as one text with the rest of the package, in parallel they would need more threads
than the memory holds. -/

set_option Elab.async false

namespace Sys2Proof.Machine

@[simp] theorem State.jrnDrop_keeps (s : State) (k : JRec) : (s.jrnDrop k).tb = s.tb ∧ (s.jrnDrop k).pending = s.pending ∧ (s.jrnDrop k).mem = s.mem := by
  simp [State.jrnDrop]

@[simp] theorem State.jrnTake_keeps (s : State) (k : JRec) : (State.jrnTake s k).tb = s.tb ∧ (State.jrnTake s k).pending = s.pending ∧ (State.jrnTake s k).mem = s.mem := by
  simp [State.jrnTake]

@[simp] theorem State.jrnGap_keeps (s : State) : (s.jrnGap).tb = s.tb ∧ (s.jrnGap).pending = s.pending ∧ (s.jrnGap).mem = s.mem := by
  simp [State.jrnGap]

@[simp] theorem State.jrnOffer_keeps (s : State) (k : JRec) : (State.jrnOffer s k).2.tb = s.tb ∧ (State.jrnOffer s k).2.pending = s.pending ∧ (State.jrnOffer s k).2.mem = s.mem := by
  unfold State.jrnOffer; dsimp only; refine ⟨?_, ?_, ?_⟩ <;> (repeat' split) <;> simp

@[simp] theorem State.jrnPut_keeps (s : State) (k : JRec) : (State.jrnPut s k).tb = s.tb ∧ (State.jrnPut s k).pending = s.pending ∧ (State.jrnPut s k).mem = s.mem := by
  simp [State.jrnPut]

@[simp] theorem State.jrnTap_keeps (s : State) (m : Msg) : (s.jrnTap m).tb = s.tb ∧ (s.jrnTap m).pending = s.pending ∧ (s.jrnTap m).mem = s.mem := by
  simp [State.jrnTap]

@[simp] theorem State.jrnBreak_keeps (s : State) (cause : Nat) (stamp : Nat) (detail : Nat) : (s.jrnBreak cause stamp detail).tb = s.tb ∧ (s.jrnBreak cause stamp detail).pending = s.pending ∧ (s.jrnBreak cause stamp detail).mem = s.mem := by
  simp [State.jrnBreak]

@[simp] theorem State.jrnHost_keeps (s : State) (addr : Nat) : (s.jrnHost addr).tb = s.tb ∧ (s.jrnHost addr).pending = s.pending ∧ (s.jrnHost addr).mem = s.mem := by
  simp [State.jrnHost]

@[simp] theorem State.groupOut_keeps (s : State) (i : Nat) (seq : Option Nat) (flits : List (Nat × Flit)) : (State.groupOut s i seq flits).tb = s.tb ∧ (State.groupOut s i seq flits).pending = s.pending ∧ (State.groupOut s i seq flits).mem = s.mem := by
  simp [State.groupOut]

theorem State.groupSend_keeps (s : State) (i : Nat) (fs : List (Nat × Flit)) (z : State) (h : s.groupSend i fs = some z) : z.tb = s.tb ∧ z.pending = s.pending ∧ z.mem = s.mem := by
  unfold State.groupSend at h
  simp only [] at h
  split at h
  · cases h
  · cases h; simp

theorem State.linkSend_keeps (s : State) (ch : Nat) (f : Flit) (z : State) (h : s.linkSend ch f = some z) : z.tb = s.tb ∧ z.pending = s.pending ∧ z.mem = s.mem := by
  unfold State.linkSend at h
  split at h
  · cases h
  · split at h
    · exact State.groupSend_keeps _ _ _ _ h
    · cases h

end Sys2Proof.Machine
end

