-- ==== Sys2Proof/Laws/Fabric.lean ====
section
/-! SUPPORT. What the operations of Machine/Fabric.lean leave: the timebase, the queue of commands and, where they write none, the bytes of the stores. -/

/-! The proofs of this file are elaborated one after another: as one text with the rest of the package, in parallel they would need more threads
than the memory holds. -/

set_option Elab.async false

namespace Sys2Proof.Machine

@[simp] theorem State.fabCapture_keeps (s : State) (ch : Nat) (sender : Nat) (cause : Nat) : (s.fabCapture ch sender cause).tb = s.tb ∧ (s.fabCapture ch sender cause).pending = s.pending ∧ (s.fabCapture ch sender cause).mem = s.mem := by
  simp [State.fabCapture]

@[simp] theorem State.fabErr_keeps (s : State) (ch : Nat) (sender : Nat) (cause : Nat) : (s.fabErr ch sender cause).tb = s.tb ∧ (s.fabErr ch sender cause).pending = s.pending ∧ (s.fabErr ch sender cause).mem = s.mem := by
  simp [State.fabErr]

@[simp] theorem State.reportStall_keeps (s : State) (ch : Nat) (sender : Nat) : (s.reportStall ch sender).tb = s.tb ∧ (s.reportStall ch sender).pending = s.pending ∧ (s.reportStall ch sender).mem = s.mem := by
  simp [State.reportStall]

@[simp] theorem State.refresh_keeps (s : State) (ch : Nat) : (s.refresh ch).tb = s.tb ∧ (s.refresh ch).pending = s.pending ∧ (s.refresh ch).mem = s.mem := by
  unfold State.refresh; dsimp only; refine ⟨?_, ?_, ?_⟩ <;> (repeat' split) <;> simp

theorem State.injectStall_keeps (s : State) (z : State) (h : s.injectStall = some z) : z.tb = s.tb ∧ z.pending = s.pending ∧ z.mem = s.mem := by
  obtain ⟨y, _, rfl⟩ := Option.map_eq_some_iff.mp h
  simp

@[simp] theorem State.setMember_keeps (s : State) (ch : Nat) (sender : Nat) (x : Member) : (s.setMember ch sender x).tb = s.tb ∧ (s.setMember ch sender x).pending = s.pending ∧ (s.setMember ch sender x).mem = s.mem := by
  simp [State.setMember]

@[simp] theorem State.noteSent_keeps (s : State) (ch : Nat) (sender : Nat) (stamp : Nat) : (s.noteSent ch sender stamp).tb = s.tb ∧ (s.noteSent ch sender stamp).pending = s.pending ∧ (s.noteSent ch sender stamp).mem = s.mem := by
  simp [State.noteSent]

theorem State.trySend_keeps (s : State) (ch sender stamp kind : Nat) (words : List Nat) (live : Bool) (z : State) (h : s.trySend ch sender stamp kind words live = some z) : z.tb = s.tb ∧ z.pending = s.pending ∧ z.mem = s.mem := by
  unfold State.trySend at h
  split at h
  · cases h
  · split at h
    · cases h; simp
    · split at h
      · cases h; simp
      · split at h
        · cases h
        · cases h; simp

@[simp] theorem State.sendToken_keeps (s : State) (ch : Nat) (sender : Nat) (stamp : Nat) (live : optParam Bool true) : (s.sendToken ch sender stamp live).tb = s.tb ∧ (s.sendToken ch sender stamp live).pending = s.pending ∧ (s.sendToken ch sender stamp live).mem = s.mem := by
  simp [State.sendToken]

@[simp] theorem State.captureLate_keeps (s : State) (m : Msg) : (s.captureLate m).tb = s.tb ∧ (s.captureLate m).pending = s.pending ∧ (s.captureLate m).mem = s.mem := by
  simp [State.captureLate]

theorem State.trySendMsg_keeps (s : State) (m : Msg) (z : State) (h : s.trySendMsg m = some z) : z.tb = s.tb ∧ z.pending = s.pending ∧ z.mem = s.mem := by
  unfold State.trySendMsg at h
  dsimp only at h
  split at h
  · obtain ⟨y, hy, rfl⟩ := Option.map_eq_some_iff.mp h
    have k := State.trySend_keeps _ _ _ _ _ _ _ _ hy
    exact k
  · exact State.trySend_keeps _ _ _ _ _ _ _ _ h

@[simp] theorem State.hwSend_keeps (s : State) (ch sender stamp kind : Nat) (words : List Nat) : (s.hwSend ch sender stamp kind words).tb = s.tb ∧ (s.hwSend ch sender stamp kind words).pending = s.pending ∧ (s.hwSend ch sender stamp kind words).mem = s.mem := by
  unfold State.hwSend
  dsimp only
  split
  · exact ⟨rfl, rfl, rfl⟩
  · refine ⟨?_, ?_, ?_⟩ <;> (refine getD_keeps _ _ _ _ (fun z h => ?_) rfl) <;> simp [State.trySendMsg_keeps _ _ _ h]

@[simp] theorem State.flushGo_keeps (ms : List Msg) : ∀ (stuck : List Nat) (s : State),
    (State.flushGo ms stuck s).tb = s.tb ∧ (State.flushGo ms stuck s).pending = s.pending ∧ (State.flushGo ms stuck s).mem = s.mem := by
  induction ms with
  | nil => intro stuck s; exact ⟨rfl, rfl, rfl⟩
  | cons m ms ih =>
    intro stuck s
    simp only [State.flushGo]
    split
    · simp [ih]
    · split
      · simp [ih]
      · split
        · rename_i t h
          simp [ih, State.trySendMsg_keeps _ _ _ h]
        · simp [ih]

@[simp] theorem State.flushOutbox_keeps (s : State) : (s.flushOutbox).tb = s.tb ∧ (s.flushOutbox).pending = s.pending ∧ (s.flushOutbox).mem = s.mem := by
  simp [State.flushOutbox]

@[simp] theorem State.unslot_keeps (s : State) (m : Msg) : (State.unslot s m).tb = s.tb ∧ (State.unslot s m).pending = s.pending ∧ (State.unslot s m).mem = s.mem := by
  simp [State.unslot]

@[simp] theorem State.restoreCredit_keeps (s : State) (m : Msg) : (State.restoreCredit s m).tb = s.tb ∧ (State.restoreCredit s m).pending = s.pending ∧ (State.restoreCredit s m).mem = s.mem := by
  simp [State.restoreCredit]

@[simp] theorem State.refuseMsg_keeps (s : State) (m : Msg) : (State.refuseMsg s m).tb = s.tb ∧ (State.refuseMsg s m).pending = s.pending ∧ (State.refuseMsg s m).mem = s.mem := by
  simp [State.refuseMsg]

@[simp] theorem State.refuseFlit_keeps (s : State) (f : Flit) : (State.refuseFlit s f).tb = s.tb ∧ (State.refuseFlit s f).pending = s.pending ∧ (State.refuseFlit s f).mem = s.mem := by
  unfold State.refuseFlit; refine ⟨?_, ?_, ?_⟩ <;> (repeat' split) <;> simp

@[simp] theorem State.emptyChan_keeps (s : State) (ch : Nat) : (State.emptyChan s ch).tb = s.tb ∧ (State.emptyChan s ch).pending = s.pending ∧ (State.emptyChan s ch).mem = s.mem := by
  simp [State.emptyChan]

@[simp] theorem State.flitArrives_keeps (s : State) : (State.flitArrives s).tb = s.tb ∧ (State.flitArrives s).pending = s.pending ∧ (State.flitArrives s).mem = s.mem := by
  simp [State.flitArrives]

@[simp] theorem State.freeSlot_keeps (s : State) (m : Msg) : (s.freeSlot m).tb = s.tb ∧ (s.freeSlot m).pending = s.pending ∧ (s.freeSlot m).mem = s.mem := by
  simp [State.freeSlot]

@[simp] theorem State.loseMsg_keeps (s : State) (m : Msg) : (s.loseMsg m).tb = s.tb ∧ (s.loseMsg m).pending = s.pending ∧ (s.loseMsg m).mem = s.mem := by
  simp [State.loseMsg]

@[simp] theorem State.deliver_keeps (s : State) (m : Msg) : (s.deliver m).tb = s.tb ∧ (s.deliver m).pending = s.pending ∧ (s.deliver m).mem = s.mem := by
  simp [State.deliver]

@[simp] theorem State.readSlot_keeps (s : State) (ch : Nat) : (s.readSlot ch).2.tb = s.tb ∧ (s.readSlot ch).2.pending = s.pending ∧ (s.readSlot ch).2.mem = s.mem := by
  unfold State.readSlot; dsimp only; refine ⟨?_, ?_, ?_⟩ <;> (repeat' split) <;> simp

@[simp] theorem State.takeMsg_keeps (s : State) (ch : Nat) : (s.takeMsg ch).2.tb = s.tb ∧ (s.takeMsg ch).2.pending = s.pending ∧ (s.takeMsg ch).2.mem = s.mem := by
  unfold State.takeMsg; dsimp only; refine ⟨?_, ?_, ?_⟩ <;> (repeat' split) <;> simp

@[simp] theorem State.occupy_keeps (s : State) (m : Msg) : (s.occupy m).tb = s.tb ∧ (s.occupy m).pending = s.pending ∧ (s.occupy m).mem = s.mem := by
  simp [State.occupy]

theorem State.reachSpoke_keeps (s : State) (m : Msg) (z : State) (h : s.reachSpoke m = some z) : z.tb = s.tb ∧ z.pending = s.pending ∧ z.mem = s.mem := by
  unfold State.reachSpoke at h
  split at h
  · cases h; simp
  · split at h
    · cases h; simp
    · split at h
      · cases h; simp
      · split at h
        · cases h
        · cases h; simp

@[simp] theorem State.messageArrival_keeps (s : State) (ch sender : Nat) : (s.messageArrival ch sender).tb = s.tb ∧ (s.messageArrival ch sender).pending = s.pending ∧ (s.messageArrival ch sender).mem = s.mem := by
  unfold State.messageArrival
  dsimp only
  split
  · split
    · exact ⟨rfl, rfl, rfl⟩
    · split
      · simp
      · split
        · simp
        · refine ⟨?_, ?_, ?_⟩ <;> (refine getD_keeps _ _ _ _ (fun z h => ?_) rfl) <;> (split at h) <;>
            (first | have k := State.linkSend_keeps _ _ _ _ h | have k := State.reachSpoke_keeps _ _ _ h) <;> simp [k]
  · exact ⟨rfl, rfl, rfl⟩

@[simp] theorem State.tokenArrival_keeps (s : State) (ch sender : Nat) : (s.tokenArrival ch sender).tb = s.tb ∧ (s.tokenArrival ch sender).pending = s.pending ∧ (s.tokenArrival ch sender).mem = s.mem := by
  unfold State.tokenArrival
  dsimp only
  split
  · split
    · exact ⟨rfl, rfl, rfl⟩
    · split
      · simp
      · split
        · refine ⟨?_, ?_, ?_⟩ <;> (refine getD_keeps _ _ _ _ (fun z h => ?_) rfl) <;> simp [State.linkSend_keeps _ _ _ _ h]
        · simp
  · exact ⟨rfl, rfl, rfl⟩

@[simp] theorem State.creditReturn_keeps (s : State) (ch sender : Nat) : (s.creditReturn ch sender).tb = s.tb ∧ (s.creditReturn ch sender).pending = s.pending ∧ (s.creditReturn ch sender).mem = s.mem := by
  unfold State.creditReturn
  dsimp only
  split
  · exact ⟨rfl, rfl, rfl⟩
  · split
    · exact ⟨rfl, rfl, rfl⟩
    · split
      · split
        · refine ⟨?_, ?_, ?_⟩ <;> (refine getD_keeps _ _ _ _ (fun z h => ?_) rfl) <;> simp [State.linkSend_keeps _ _ _ _ h]
        · exact ⟨rfl, rfl, rfl⟩
      · simp

@[simp] theorem State.horizonStall_keeps (s : State) (ch : Nat) : (s.horizonStall ch).tb = s.tb ∧ (s.horizonStall ch).pending = s.pending ∧ (s.horizonStall ch).mem = s.mem := by
  unfold State.horizonStall; dsimp only; refine ⟨?_, ?_, ?_⟩ <;> (repeat' split) <;> simp

@[simp] theorem State.badReceive_keeps (s : State) (i : Nat) : (s.badReceive i).tb = s.tb ∧ (s.badReceive i).pending = s.pending ∧ (s.badReceive i).mem = s.mem := by
  simp [State.badReceive]

@[simp] theorem State.receiveOp_keeps (s : State) (i : Nat) (t : Trigger) : (s.receiveOp i t).tb = s.tb ∧ (s.receiveOp i t).pending = s.pending := by
  unfold State.receiveOp; refine ⟨State.onTrigger_keeps State.tb _ _ _ _ ?_, State.onTrigger_keeps State.pending _ _ _ _ ?_⟩ <;> (intro v w; dsimp only; (repeat' split) <;> simp_all)

@[simp] theorem State.cogSend_keeps (s : State) (i : Nat) (words : List Nat) : (s.cogSend i words).tb = s.tb ∧ (s.cogSend i words).pending = s.pending := by
  unfold State.cogSend
  dsimp only
  split
  · simp
  · split
    · simp
    · split
      · rename_i h
        simp [State.trySend_keeps _ _ _ _ _ _ _ _ h]
      · simp

@[simp] theorem State.wakeReceivers_keeps (s : State) (ch : Nat) : (s.wakeReceivers ch).tb = s.tb ∧ (s.wakeReceivers ch).pending = s.pending := by
  refine ⟨?_, ?_⟩ <;> refine foldl_keeps _ _ (fun t x => ?_) _ _ <;> (repeat' split) <;> simp

@[simp] theorem State.chTryEnable_keeps (s : State) (ch : Nat) : (s.chTryEnable ch).tb = s.tb ∧ (s.chTryEnable ch).pending = s.pending ∧ (s.chTryEnable ch).mem = s.mem := by
  simp [State.chTryEnable]

@[simp] theorem State.dropHub_keeps (s : State) (ch : Nat) : (State.dropHub s ch).tb = s.tb ∧ (State.dropHub s ch).pending = s.pending ∧ (State.dropHub s ch).mem = s.mem := by
  simp [State.dropHub]

@[simp] theorem State.cutFeeds_keeps (s : State) (ch : Nat) : (State.cutFeeds s ch).tb = s.tb ∧ (State.cutFeeds s ch).pending = s.pending ∧ (State.cutFeeds s ch).mem = s.mem := by
  simp [State.cutFeeds]

@[simp] theorem State.writeChLo_keeps (s : State) (data : Nat) : (State.writeChLo s data).tb = s.tb ∧ (State.writeChLo s data).pending = s.pending := by
  simp [State.writeChLo]

@[simp] theorem State.chDrained_keeps (s : State) (ch : Nat) : (s.chDrained ch).tb = s.tb ∧ (s.chDrained ch).pending = s.pending ∧ (s.chDrained ch).mem = s.mem := by
  simp [State.chDrained]

@[simp] theorem State.writeChHi_keeps (s : State) (data : Nat) : (s.writeChHi data).tb = s.tb ∧ (s.writeChHi data).pending = s.pending ∧ (s.writeChHi data).mem = s.mem := by
  simp [State.writeChHi]

@[simp] theorem State.writeSetMbr_keeps (s : State) (data : Nat) : (s.writeSetMbr data).tb = s.tb ∧ (s.writeSetMbr data).pending = s.pending ∧ (s.writeSetMbr data).mem = s.mem := by
  simp [State.writeSetMbr]

@[simp] theorem State.fabCmd_keeps (s : State) (op : Nat) (ch : Nat) (sender : Nat) : (s.fabCmd op ch sender).tb = s.tb ∧ (s.fabCmd op ch sender).pending = s.pending ∧ (s.fabCmd op ch sender).mem = s.mem := by
  simp [State.fabCmd]

end Sys2Proof.Machine
end

