-- ==== Sys2Proof/Laws/Queues.lean ====
section
/-! SUPPORT. What the operations of Machine/Queues.lean leave: the timebase, the queue of commands and, where they write none, the bytes of the stores. -/

/-! The proofs of this file are elaborated one after another: as one text with the rest of the package, in parallel they would need more threads
than the memory holds. -/

set_option Elab.async false

namespace Sys2Proof.Machine

@[simp] theorem State.qLevel_keeps (s : State) (q : Nat) : (s.qLevel q).tb = s.tb ∧ (s.qLevel q).pending = s.pending ∧ (s.qLevel q).mem = s.mem := by
  simp [State.qLevel]

@[simp] theorem State.closeQuad_keeps (s : State) (q : Nat) (words : List Nat) (eop : Bool) (tmo : Bool) : (s.closeQuad q words eop tmo).tb = s.tb ∧ (s.closeQuad q words eop tmo).pending = s.pending ∧ (s.closeQuad q words eop tmo).mem = s.mem := by
  simp [State.closeQuad]

theorem State.qTryPush_keeps (s : State) (q w : Nat) (eop : Bool) (z : State) (h : s.qTryPush q w eop = some z) : z.tb = s.tb ∧ z.pending = s.pending ∧ z.mem = s.mem := by
  unfold State.qTryPush at h
  dsimp only at h
  split at h
  · cases h
  · cases h
    refine ⟨?_, ?_, ?_⟩ <;> split <;> simp

@[simp] theorem State.qPop_keeps (s : State) (q : Nat) : (s.qPop q).tb = s.tb ∧ (s.qPop q).pending = s.pending ∧ (s.qPop q).mem = s.mem := by
  simp [State.qPop]

@[simp] theorem State.qRead_keeps (s : State) (q : Nat) : (s.qRead q).2.tb = s.tb ∧ (s.qRead q).2.pending = s.pending ∧ (s.qRead q).2.mem = s.mem := by
  unfold State.qRead; dsimp only; refine ⟨?_, ?_, ?_⟩ <;> (repeat' split) <;> simp

@[simp] theorem State.qClose_keeps (s : State) (q : Nat) (tmo : Bool) : (s.qClose q tmo).tb = s.tb ∧ (s.qClose q tmo).pending = s.pending ∧ (s.qClose q tmo).mem = s.mem := by
  simp [State.qClose]

@[simp] theorem State.qDrop_keeps (s : State) (q : Nat) : (s.qDrop q).tb = s.tb ∧ (s.qDrop q).pending = s.pending ∧ (s.qDrop q).mem = s.mem := by
  simp [State.qDrop]

@[simp] theorem State.qNext_keeps (s : State) (q : Nat) : (s.qNext q).2.tb = s.tb ∧ (s.qNext q).2.pending = s.pending ∧ (s.qNext q).2.mem = s.mem := by
  unfold State.qNext; dsimp only; refine ⟨?_, ?_, ?_⟩ <;> (repeat' split) <;> simp

@[simp] theorem State.qTaken_keeps (s : State) (q : Nat) : (s.qTaken q).tb = s.tb ∧ (s.qTaken q).pending = s.pending ∧ (s.qTaken q).mem = s.mem := by
  unfold State.qTaken; dsimp only; refine ⟨?_, ?_, ?_⟩ <;> (repeat' split) <;> simp

@[simp] theorem State.queuePush_keeps (s : State) (q : Nat) : (s.queuePush q).tb = s.tb ∧ (s.queuePush q).pending = s.pending ∧ (s.queuePush q).mem = s.mem := by
  unfold State.queuePush
  dsimp only
  split
  · exact ⟨rfl, rfl, rfl⟩
  · split
    · simp
    · split
      · rename_i h
        simp [State.qTryPush_keeps _ _ _ _ _ h]
      · simp

@[simp] theorem State.queueResume_keeps (s : State) (q : Nat) : (s.queueResume q).tb = s.tb ∧ (s.queueResume q).pending = s.pending ∧ (s.queueResume q).mem = s.mem := by
  unfold State.queueResume
  dsimp only
  split
  · exact ⟨rfl, rfl, rfl⟩
  · split
    · simp
    · split
      · exact ⟨rfl, rfl, rfl⟩
      · split
        · rename_i h
          simp [State.qTryPush_keeps _ _ _ _ _ h]
        · exact ⟨rfl, rfl, rfl⟩

@[simp] theorem State.queueTimeout_keeps (s : State) (q : Nat) : (s.queueTimeout q).tb = s.tb ∧ (s.queueTimeout q).pending = s.pending ∧ (s.queueTimeout q).mem = s.mem := by
  simp [State.queueTimeout]

@[simp] theorem State.hostPush_keeps (s : State) (q w : Nat) (eop : Bool) : (s.hostPush q w eop).tb = s.tb ∧ (s.hostPush q w eop).pending = s.pending ∧ (s.hostPush q w eop).mem = s.mem := by
  unfold State.hostPush
  split
  · exact ⟨rfl, rfl, rfl⟩
  · refine ⟨?_, ?_, ?_⟩ <;> (refine getD_keeps _ _ _ _ (fun z h => ?_) ?_) <;> first | simp [State.qTryPush_keeps _ _ _ _ _ h] | simp

@[simp] theorem State.quadSend_keeps (s : State) (q : Nat) : (s.quadSend q).tb = s.tb ∧ (s.quadSend q).pending = s.pending ∧ (s.quadSend q).mem = s.mem := by
  unfold State.quadSend
  dsimp only
  split
  · exact ⟨rfl, rfl, rfl⟩
  · split
    · simp
    · split
      · simp
      · rename_i h
        have k := State.trySend_keeps _ _ _ _ _ _ _ _ h
        split <;> simp [k]

/-- A command message that reaches a queue keeps what its effect and the taking of a message keep. -/
theorem State.queueCmd_keeps {γ : Type} (g : State → γ) (s : State) (q w0 : Nat) (f : State → State) (hf : ∀ t, g (f t) = g t)
    (ht : ∀ ch, g (s.takeMsg ch).2 = g s) : g (s.queueCmd q w0 f) = g s := by
  unfold State.queueCmd
  dsimp only
  split
  · rfl
  · refine ite_keeps g (ite_keeps g ?_ (ht _)) rfl
    rw [hf, ht]

@[simp] theorem State.writeQcfg_keeps (s : State) (q : Nat) (data : Nat) : (State.writeQcfg s q data).tb = s.tb ∧ (State.writeQcfg s q data).pending = s.pending ∧ (State.writeQcfg s q data).mem = s.mem := by
  simp [State.writeQcfg]

@[simp] theorem State.writeQcmd_keeps (s : State) (q : Nat) (data : Nat) : (State.writeQcmd s q data).tb = s.tb ∧ (State.writeQcmd s q data).pending = s.pending ∧ (State.writeQcmd s q data).mem = s.mem := by
  simp [State.writeQcmd]

end Sys2Proof.Machine
end

