-- ==== Sys2Proof/Laws/Cadence.lean ====
section
/-! SUPPORT. What the operations of Machine/Cadence.lean leave: the timebase, the queue of commands and, where they write none, the bytes of the stores. -/

/-! The proofs of this file are elaborated one after another: as one text with the rest of the package, in parallel they would need more threads
than the memory holds. -/

set_option Elab.async false

namespace Sys2Proof.Machine

@[simp] theorem State.tbAdjGo_keeps (s : State) (ofs : Nat) : (s.tbAdjGo ofs).tb = s.tb ∧ (s.tbAdjGo ofs).pending = s.pending ∧ (s.tbAdjGo ofs).mem = s.mem := by
  unfold State.tbAdjGo; dsimp only; refine ⟨?_, ?_, ?_⟩ <;> (repeat' split) <;> simp

@[simp] theorem State.refAbsent_keeps (s : State) : (State.refAbsent s).tb = s.tb ∧ (State.refAbsent s).pending = s.pending ∧ (State.refAbsent s).mem = s.mem := by
  simp [State.refAbsent]

@[simp] theorem State.timerefLoss_keeps (s : State) : (s.timerefLoss).tb = s.tb ∧ (s.timerefLoss).pending = s.pending ∧ (s.timerefLoss).mem = s.mem := by
  simp [State.timerefLoss]

@[simp] theorem State.refBack_keeps (s : State) : (State.refBack s).tb = s.tb ∧ (State.refBack s).pending = s.pending ∧ (State.refBack s).mem = s.mem := by
  simp [State.refBack]

@[simp] theorem State.refInject_keeps (s : State) : (State.refInject s).tb = s.tb ∧ (State.refInject s).pending = s.pending ∧ (State.refInject s).mem = s.mem := by
  simp [State.refInject]

@[simp] theorem State.refInjectEnd_keeps (s : State) : (State.refInjectEnd s).tb = s.tb ∧ (State.refInjectEnd s).pending = s.pending ∧ (State.refInjectEnd s).mem = s.mem := by
  simp [State.refInjectEnd]

@[simp] theorem State.pllRelock_keeps (s : State) : (s.pllRelock).tb = s.tb ∧ (s.pllRelock).pending = s.pending ∧ (s.pllRelock).mem = s.mem := by
  simp [State.pllRelock]

@[simp] theorem State.slewEnd_keeps (s : State) : (s.slewEnd).tb = s.tb ∧ (s.slewEnd).pending = s.pending ∧ (s.slewEnd).mem = s.mem := by
  simp [State.slewEnd]

@[simp] theorem State.tbNowRead_keeps (s : State) : (s.tbNowRead).tb = s.tb ∧ (s.tbNowRead).pending = s.pending ∧ (s.tbNowRead).mem = s.mem := by
  simp [State.tbNowRead]

@[simp] theorem State.dlAct_keeps (s : State) (n : Nat) : (s.dlAct n).tb = s.tb ∧ (s.dlAct n).pending = s.pending ∧ (s.dlAct n).mem = s.mem := by
  simp [State.dlAct]

@[simp] theorem State.dlMiss_keeps (s : State) (n : Nat) (kind : Nat) : (s.dlMiss n kind).tb = s.tb ∧ (s.dlMiss n kind).pending = s.pending ∧ (s.dlMiss n kind).mem = s.mem := by
  simp [State.dlMiss]

@[simp] theorem State.dlCycle_keeps (s : State) (n : Nat) : (s.dlCycle n).tb = s.tb ∧ (s.dlCycle n).pending = s.pending ∧ (s.dlCycle n).mem = s.mem := by
  simp [State.dlCycle]

@[simp] theorem State.awr_keeps (s : State) (a : Nat) (f : Fld) (v : Nat) : (s.awr a f v).tb = s.tb ∧ (s.awr a f v).pending = s.pending ∧ (s.awr a f v).mem = s.mem := by
  simp [State.awr]

@[simp] theorem State.showCad_keeps (s : State) (n : Nat) : (s.showCad n).tb = s.tb ∧ (s.showCad n).pending = s.pending ∧ (s.showCad n).mem = s.mem := by
  unfold State.showCad; dsimp only; refine ⟨?_, ?_, ?_⟩ <;> simp

@[simp] theorem State.setCourse_keeps (s : State) (n : Nat) (c : Cadence) : (State.setCourse s n c).tb = s.tb ∧ (State.setCourse s n c).pending = s.pending ∧ (State.setCourse s n c).mem = s.mem := by
  simp [State.setCourse]

@[simp] theorem State.notice_keeps (s : State) (n : Nat) (x : Note) : (s.notice n x).tb = s.tb ∧ (s.notice n x).pending = s.pending ∧ (s.notice n x).mem = s.mem := by
  simp [State.notice]

@[simp] theorem State.commitTo_keeps (s : State) (n : Nat) (t : Nat) : (s.commitTo n t).tb = s.tb ∧ (s.commitTo n t).pending = s.pending ∧ (s.commitTo n t).mem = s.mem := by
  simp [State.commitTo]

@[simp] theorem State.readCamRange_keeps (s : State) (a : Nat) (n : Nat) : (s.readCamRange a n).2.tb = s.tb ∧ (s.readCamRange a n).2.pending = s.pending ∧ (s.readCamRange a n).2.mem = s.mem := by
  simp [State.readCamRange]

theorem joinRead_snd (q x : Bool × State) : (joinRead q x).2 = x.2 := rfl

@[simp] theorem State.readInterval_keeps (s : State) (t b k : Nat) : (s.readInterval t b k).2.tb = s.tb ∧ (s.readInterval t b k).2.pending = s.pending ∧
    (s.readInterval t b k).2.mem = s.mem := by
  have e : s.readInterval t b k = joinRead (s.readCamRange (b + (16 + 12 * (s.intervalOf t k).1)) 12)
      ((s.readCamRange (b + (16 + 12 * (s.intervalOf t k).1)) 12).2.readCamRange (b + (16 + 12 * (s.intervalOf t k).2)) 12) := rfl
  rw [e, joinRead_snd]
  refine ⟨?_, ?_, ?_⟩
  · rw [(State.readCamRange_keeps _ _ _).1, (State.readCamRange_keeps _ _ _).1]
  · rw [(State.readCamRange_keeps _ _ _).2.1, (State.readCamRange_keeps _ _ _).2.1]
  · rw [(State.readCamRange_keeps _ _ _).2.2, (State.readCamRange_keeps _ _ _).2.2]

@[simp] theorem State.interpolate_keeps (s : State) (t c x : Nat) : (s.interpolate t c x).2.2.2.tb = s.tb ∧ (s.interpolate t c x).2.2.2.pending = s.pending ∧ (s.interpolate t c x).2.2.2.mem = s.mem := by
  simp [State.interpolate]

@[simp] theorem State.passWrite_keeps (s : State) (g : Nat) (bs : List Byte) (bad : Bool) : (State.passWrite s g bs bad).tb = s.tb ∧ (State.passWrite s g bs bad).pending = s.pending := by
  unfold State.passWrite; dsimp only; refine ⟨?_, ?_⟩ <;> (repeat' split) <;> simp

@[simp] theorem State.mergeGranule_keeps (s : State) (t : Nat) (tgt : Nat) (fixed : List Shadow) (g : Nat) : (State.mergeGranule s t tgt fixed g).tb = s.tb ∧ (State.mergeGranule s t tgt fixed g).pending = s.pending := by
  simp [State.mergeGranule]

@[simp] theorem State.mergeLine_keeps (s : State) (t tgt : Nat) (fixed : List Shadow) (l : Nat) :
    (s.mergeLine t tgt fixed l).2.tb = s.tb ∧ (s.mergeLine t tgt fixed l).2.pending = s.pending := by
  refine ⟨?_, ?_⟩ <;> (simp only [State.mergeLine]; split <;> simp)

@[simp] theorem State.mergeGo_keeps (n : Nat) : ∀ (s : State) (t tgt : Nat) (fixed : List Shadow) (l : Nat),
    (s.mergeGo t tgt fixed n l).2.tb = s.tb ∧ (s.mergeGo t tgt fixed n l).2.pending = s.pending := by
  induction n with
  | zero => intro s t tgt fixed l; exact ⟨rfl, rfl⟩
  | succ n ih =>
    intro s t tgt fixed l
    simp only [State.mergeGo]
    refine ⟨?_, ?_⟩ <;> split <;> simp [ih]

@[simp] theorem State.commitPass_keeps (s : State) (t : Nat) : (s.commitPass t).tb = s.tb ∧ (s.commitPass t).pending = s.pending := by
  simp [State.commitPass]

@[simp] theorem State.settlePass_keeps (s : State) (t : Nat) (c : Nat) : (State.settlePass s t c).tb = s.tb ∧ (State.settlePass s t c).pending = s.pending := by
  unfold State.settlePass; dsimp only; refine ⟨?_, ?_⟩ <;> (repeat' split) <;> simp

@[simp] theorem State.freewheel_keeps (s : State) (a : Nat) : (State.freewheel s a).tb = s.tb ∧ (State.freewheel s a).pending = s.pending ∧ (State.freewheel s a).mem = s.mem := by
  simp [State.freewheel]

@[simp] theorem State.axisFault_keeps (s : State) (a : Nat) (cause : Nat) (t : Nat) : (s.axisFault a cause t).tb = s.tb ∧ (s.axisFault a cause t).pending = s.pending ∧ (s.axisFault a cause t).mem = s.mem := by
  simp [State.axisFault]

@[simp] theorem State.axisFree_keeps (s : State) (a : Nat) (f : Nat) : (State.axisFree s a f).tb = s.tb ∧ (State.axisFree s a f).pending = s.pending ∧ (State.axisFree s a f).mem = s.mem := by
  simp [State.axisFree]

@[simp] theorem State.applyFree_keeps (s : State) (a : Nat) (t : Nat) : (s.applyFree a t).tb = s.tb ∧ (s.applyFree a t).pending = s.pending ∧ (s.applyFree a t).mem = s.mem := by
  unfold State.applyFree; refine ⟨?_, ?_, ?_⟩ <;> (repeat' split) <;> simp

/-- An axis's answer from its table's. -/
def commandOf (x : Int × (Int × Int) × Bool × State) (y : Int) : Bool × Nat × (Int × Int) × State := (x.2.2.1, wrap (x.1 + y) 28, x.2.1, x.2.2.2)
theorem commandOf_state (x : Int × (Int × Int) × Bool × State) (y : Int) : (commandOf x y).2.2.2 = x.2.2.2 := rfl

@[simp] theorem State.command_keeps (s : State) (a c m : Nat) : (s.command a c m).2.2.2.tb = s.tb ∧ (s.command a c m).2.2.2.pending = s.pending ∧
    (s.command a c m).2.2.2.mem = s.mem := by
  have e : s.command a c m = commandOf (s.interpolate (s.ard a R.AX_BIND_TABLE) c (m % 2 ^ 28))
    (((s.interpolate (s.ard a R.AX_BIND_TABLE) c (m % 2 ^ 28)).2.2.2.ard a R.AX_BASEY_BASEY : Nat) : Int) := rfl
  rw [e, commandOf_state]
  exact State.interpolate_keeps _ _ _ _

@[simp] theorem State.setMaster_keeps (s : State) (a : Nat) (m : Nat) : (s.setMaster a m).tb = s.tb ∧ (s.setMaster a m).pending = s.pending ∧ (s.setMaster a m).mem = s.mem := by
  simp [State.setMaster]

@[simp] theorem State.coupleAt_keeps (s : State) (a : Nat) (n : Nat) (b : Nat) : (s.coupleAt a n b).tb = s.tb ∧ (s.coupleAt a n b).pending = s.pending ∧ (s.coupleAt a n b).mem = s.mem := by
  simp [State.coupleAt]

@[simp] theorem State.axisAtBoundary_keeps (s : State) (a : Nat) (n : Nat) (b : Nat) (k : Int) : (State.axisAtBoundary s a n b k).tb = s.tb ∧ (State.axisAtBoundary s a n b k).pending = s.pending ∧ (State.axisAtBoundary s a n b k).mem = s.mem := by
  unfold State.axisAtBoundary; dsimp only; refine ⟨?_, ?_, ?_⟩ <;> (repeat' split) <;> simp

@[simp] theorem State.evalAxis_keeps (s : State) (a : Nat) (c : Nat) : (s.evalAxis a c).tb = s.tb ∧ (s.evalAxis a c).pending = s.pending ∧ (s.evalAxis a c).mem = s.mem := by
  simp [State.evalAxis]

@[simp] theorem State.servoNote_keeps (s : State) (p : Nat) : (State.servoNote s p).tb = s.tb ∧ (State.servoNote s p).pending = s.pending ∧ (State.servoNote s p).mem = s.mem := by
  simp [State.servoNote]

@[simp] theorem State.showDemand_keeps (s : State) : (s.showDemand).tb = s.tb ∧ (s.showDemand).pending = s.pending ∧ (s.showDemand).mem = s.mem := by
  simp [State.showDemand]

@[simp] theorem State.notePast_keeps (u : State) (n : Nat) (at_ : Nat) (s : State) : (State.notePast u n at_ s).tb = u.tb ∧ (State.notePast u n at_ s).pending = u.pending ∧ (State.notePast u n at_ s).mem = u.mem := by
  simp [State.notePast]

@[simp] theorem State.camEvaluation_keeps (s : State) (p : Nat) (late : Bool) : (State.camEvaluation s p late).tb = s.tb ∧ (State.camEvaluation s p late).pending = s.pending := by
  unfold State.camEvaluation; dsimp only; refine ⟨?_, ?_⟩ <;> (repeat' split) <;> simp

@[simp] theorem State.flipAt_keeps (s : State) (t : Nat) (n : Nat) (b : Nat) (num : Nat) (next : Nat) : (s.flipAt t n b num next).tb = s.tb ∧ (s.flipAt t n b num next).pending = s.pending ∧ (s.flipAt t n b num next).mem = s.mem := by
  unfold State.flipAt; dsimp only; refine ⟨?_, ?_, ?_⟩ <;> (repeat' split) <;> simp

@[simp] theorem State.cycleEnds_keeps (s : State) (n : Nat) : (State.cycleEnds s n).tb = s.tb ∧ (State.cycleEnds s n).pending = s.pending ∧ (State.cycleEnds s n).mem = s.mem := by
  simp [State.cycleEnds]

@[simp] theorem State.noteBoundary_keeps (s : State) (n : Nat) (b : Nat) (k : Int) : (State.noteBoundary s n b k).tb = s.tb ∧ (State.noteBoundary s n b k).pending = s.pending ∧ (State.noteBoundary s n b k).mem = s.mem := by
  simp [State.noteBoundary]

@[simp] theorem State.passBoundary_keeps (s : State) (n : Nat) (b : Nat) (k : Int) : (State.passBoundary s n b k).tb = s.tb ∧ (State.passBoundary s n b k).pending = s.pending ∧ (State.passBoundary s n b k).mem = s.mem := by
  simp [State.passBoundary]

@[simp] theorem State.cadBoundary_keeps (s : State) (n : Nat) : (s.cadBoundary n).tb = s.tb ∧ (s.cadBoundary n).pending = s.pending ∧ (s.cadBoundary n).mem = s.mem := by
  unfold State.cadBoundary; refine ⟨?_, ?_, ?_⟩ <;> (repeat' split) <;> simp

@[simp] theorem State.recompute_keeps (s : State) (n : Nat) (t : Nat) : (s.recompute n t).tb = s.tb ∧ (s.recompute n t).pending = s.pending ∧ (s.recompute n t).mem = s.mem := by
  simp [State.recompute]

@[simp] theorem State.refuse_keeps (s : State) (n : Nat) (cause : Nat) (m : Msg) : (s.refuse n cause m).tb = s.tb ∧ (s.refuse n cause m).pending = s.pending ∧ (s.refuse n cause m).mem = s.mem := by
  simp [State.refuse]

@[simp] theorem State.lateRule_keeps (s : State) (n : Nat) (m : Msg) (t : Nat) : (s.lateRule n m t).2.tb = s.tb ∧ (s.lateRule n m t).2.pending = s.pending ∧ (s.lateRule n m t).2.mem = s.mem := by
  unfold State.lateRule; dsimp only; refine ⟨?_, ?_, ?_⟩ <;> (repeat' split) <;> simp

@[simp] theorem State.spanEmit_keeps (s : State) (n : Nat) (rate : Bool) (t : Nat) (v : Int) : (s.spanEmit n rate t v).tb = s.tb ∧ (s.spanEmit n rate t v).pending = s.pending ∧ (s.spanEmit n rate t v).mem = s.mem := by
  simp [State.spanEmit]

@[simp] theorem State.trimCmd_keeps (s : State) (n : Nat) (t : Nat) (req : Int) : (s.trimCmd n t req).tb = s.tb ∧ (s.trimCmd n t req).pending = s.pending ∧ (s.trimCmd n t req).mem = s.mem := by
  simp [State.trimCmd]

@[simp] theorem State.rateCmd_keeps (s : State) (n : Nat) (t : Nat) (r : Int) : (s.rateCmd n t r).tb = s.tb ∧ (s.rateCmd n t r).pending = s.pending ∧ (s.rateCmd n t r).mem = s.mem := by
  simp [State.rateCmd]

@[simp] theorem State.syncCmd_keeps (s : State) (n : Nat) (m : Msg) : (s.syncCmd n m).tb = s.tb ∧ (s.syncCmd n m).pending = s.pending ∧ (s.syncCmd n m).mem = s.mem := by
  unfold State.syncCmd; dsimp only; refine ⟨?_, ?_, ?_⟩ <;> (repeat' split) <;> simp

@[simp] theorem State.shadowRead_keeps (s : State) (t : Nat) (i : Nat) : (State.shadowRead s t i).tb = s.tb ∧ (State.shadowRead s t i).pending = s.pending ∧ (State.shadowRead s t i).mem = s.mem := by
  simp [State.shadowRead]

@[simp] theorem State.pointCmd_keeps (s : State) (n : Nat) (m : Msg) : (s.pointCmd n m).tb = s.tb ∧ (s.pointCmd n m).pending = s.pending ∧ (s.pointCmd n m).mem = s.mem := by
  unfold State.pointCmd; dsimp only; refine ⟨?_, ?_, ?_⟩ <;> (repeat' split) <;> simp

@[simp] theorem State.flipCmd_keeps (s : State) (n : Nat) (m : Msg) : (s.flipCmd n m).tb = s.tb ∧ (s.flipCmd n m).pending = s.pending ∧ (s.flipCmd n m).mem = s.mem := by
  unfold State.flipCmd; dsimp only; refine ⟨?_, ?_, ?_⟩ <;> (repeat' split) <;> simp

@[simp] theorem State.cadExec_keeps (s : State) (n : Nat) (op : Nat) (m : Msg) : (s.cadExec n op m).tb = s.tb ∧ (s.cadExec n op m).pending = s.pending ∧ (s.cadExec n op m).mem = s.mem := by
  unfold State.cadExec; dsimp only; refine ⟨?_, ?_, ?_⟩ <;> (repeat' split) <;> simp

@[simp] theorem State.cadCommand_keeps (s : State) (n : Nat) (op : Nat) : (s.cadCommand n op).tb = s.tb ∧ (s.cadCommand n op).pending = s.pending ∧ (s.cadCommand n op).mem = s.mem := by
  unfold State.cadCommand; dsimp only; refine ⟨?_, ?_, ?_⟩ <;> (repeat' split) <;> simp

@[simp] theorem State.diverge_keeps (s : State) (cause : Nat) (c : Nat) (hr : Nat) (hl : Nat) (mr : Nat) (ml : Nat) : (s.diverge cause c hr hl mr ml).tb = s.tb ∧ (s.diverge cause c hr hl mr ml).pending = s.pending ∧ (s.diverge cause c hr hl mr ml).mem = s.mem := by
  simp [State.diverge]

@[simp] theorem State.noteCompare_keeps (s : State) (rec : JRec) (own : JRec) : (s.noteCompare rec own).tb = s.tb ∧ (s.noteCompare rec own).pending = s.pending ∧ (s.noteCompare rec own).mem = s.mem := by
  simp [State.noteCompare]

@[simp] theorem State.ownNotice_keeps (s : State) (k : JRec) : (s.ownNotice k).tb = s.tb ∧ (s.ownNotice k).pending = s.pending ∧ (s.ownNotice k).mem = s.mem := by
  unfold State.ownNotice; dsimp only; refine ⟨?_, ?_, ?_⟩ <;> (repeat' split) <;> simp

@[simp] theorem State.sendNotice_keeps (s : State) (n : Nat) : (s.sendNotice n).tb = s.tb ∧ (s.sendNotice n).pending = s.pending ∧ (s.sendNotice n).mem = s.mem := by
  unfold State.sendNotice
  dsimp only
  split
  · exact ⟨rfl, rfl, rfl⟩
  · split
    · exact ⟨rfl, rfl, rfl⟩
    · split
      · simp
      · split
        · exact ⟨rfl, rfl, rfl⟩
        · split
          · exact ⟨rfl, rfl, rfl⟩
          · rename_i h
            have k := State.trySend_keeps _ _ _ _ _ _ _ _ h
            split <;> simp [k]

@[simp] theorem State.cadEnable_keeps (s : State) (n : Nat) : (s.cadEnable n).tb = s.tb ∧ (s.cadEnable n).pending = s.pending ∧ (s.cadEnable n).mem = s.mem := by
  simp [State.cadEnable]

@[simp] theorem State.startDue_keeps (s : State) : (State.startDue s).tb = s.tb ∧ (State.startDue s).pending = s.pending ∧ (State.startDue s).mem = s.mem := by
  simp [State.startDue]

@[simp] theorem State.dropAxes_keeps (s : State) (p : Nat → Bool) : (State.dropAxes s p).tb = s.tb ∧ (State.dropAxes s p).pending = s.pending ∧ (State.dropAxes s p).mem = s.mem := by
  simp [State.dropAxes]

@[simp] theorem State.cadDisable_keeps (s : State) (n : Nat) : (s.cadDisable n).tb = s.tb ∧ (s.cadDisable n).pending = s.pending ∧ (s.cadDisable n).mem = s.mem := by
  simp [State.cadDisable]

@[simp] theorem State.writeCadCtrl_keeps (s : State) (n : Nat) (data : Nat) : (s.writeCadCtrl n data).tb = s.tb ∧ (s.writeCadCtrl n data).pending = s.pending ∧ (s.writeCadCtrl n data).mem = s.mem := by
  simp [State.writeCadCtrl]

@[simp] theorem State.cadPosRead_keeps (s : State) (n : Nat) : (s.cadPosRead n).tb = s.tb ∧ (s.cadPosRead n).pending = s.pending ∧ (s.cadPosRead n).mem = s.mem := by
  simp [State.cadPosRead]

@[simp] theorem State.disableTable_keeps (s : State) (t : Nat) : (State.disableTable s t).tb = s.tb ∧ (State.disableTable s t).pending = s.pending ∧ (State.disableTable s t).mem = s.mem := by
  simp [State.disableTable]

@[simp] theorem State.writeTblA_keeps (s : State) (data : Nat) : (s.writeTblA data).tb = s.tb ∧ (s.writeTblA data).pending = s.pending ∧ (s.writeTblA data).mem = s.mem := by
  simp [State.writeTblA]

theorem State.copyValid_state (s : State) (t base : Nat) (r : Bool × State) : (s.copyValid t base r).2 = r.2 := rfl

@[simp] theorem State.copyValid_snd (s : State) (t base : Nat) (r : Bool × State) : (s.copyValid t base r).2 = r.2 := rfl

@[simp] theorem State.scanCopy_keeps (s : State) (t j : Nat) : (s.scanCopy t j).2.tb = s.tb ∧ (s.scanCopy t j).2.pending = s.pending ∧ (s.scanCopy t j).2.mem = s.mem := by
  have e : s.scanCopy t j = if (!s.domOn (56 + s.copyBank t j)) = true then (none, s)
    else s.copyValid t (s.copyBase t j) (s.readCamRange (s.copyBase t j) (16 + 12 * s.tblPoints t)) := rfl
  rw [e]
  by_cases h : (!s.domOn (56 + s.copyBank t j)) = true
  · rw [if_pos h]
    exact ⟨rfl, rfl, rfl⟩
  · rw [if_neg h, State.copyValid_state]
    exact State.readCamRange_keeps _ _ _

@[simp] theorem State.tableScan_keeps (s : State) (t : Nat) : (s.tableScan t).tb = s.tb ∧ (s.tableScan t).pending = s.pending ∧ (s.tableScan t).mem = s.mem := by
  unfold State.tableScan; dsimp only; refine ⟨?_, ?_, ?_⟩ <;> (repeat' split) <;> simp

@[simp] theorem State.rescan_keeps (s : State) (b : Nat) : (State.rescan s b).tb = s.tb ∧ (State.rescan s b).pending = s.pending ∧ (State.rescan s b).mem = s.mem := by
  simp [State.rescan]

@[simp] theorem State.writeTblField_keeps (s : State) (f : Fld) (data : Nat) : (s.writeTblField f data).tb = s.tb ∧ (s.writeTblField f data).pending = s.pending ∧ (s.writeTblField f data).mem = s.mem := by
  simp [State.writeTblField]

@[simp] theorem State.writeAxBind_keeps (s : State) (a : Nat) (data : Nat) : (s.writeAxBind a data).tb = s.tb ∧ (s.writeAxBind a data).pending = s.pending ∧ (s.writeAxBind a data).mem = s.mem := by
  simp [State.writeAxBind]

@[simp] theorem State.writeAxis_keeps (s : State) (a : Nat) (off : Nat) (data : Nat) : (s.writeAxis a off data).tb = s.tb ∧ (s.writeAxis a off data).pending = s.pending ∧ (s.writeAxis a off data).mem = s.mem := by
  simp [State.writeAxis]

@[simp] theorem State.writeCamPort_keeps (s : State) (p : Nat) (data : Nat) : (s.writeCamPort p data).tb = s.tb ∧ (s.writeCamPort p data).pending = s.pending ∧ (s.writeCamPort p data).mem = s.mem := by
  simp [State.writeCamPort]

end Sys2Proof.Machine
end

