-- ==== Sys2Proof/Laws/Chain.lean ====
section
/-! SUPPORT. What the operations of Machine/Chain.lean leave: the timebase, the queue of commands and, where they write none, the bytes of the stores. -/

/-! The proofs of this file are elaborated one after another: as one text with the rest of the package, in parallel they would need more threads
than the memory holds. -/

set_option Elab.async false

namespace Sys2Proof.Machine

@[simp] theorem State.chnCapture_keeps (s : State) (p : Nat) (cause : Nat) (n : Int) (badn : optParam Nat 127) : (s.chnCapture p cause n badn).tb = s.tb ∧ (s.chnCapture p cause n badn).pending = s.pending ∧ (s.chnCapture p cause n badn).mem = s.mem := by
  simp [State.chnCapture]

@[simp] theorem State.frameError_keeps (s : State) (p : Nat) (f : Fld) (cause : Nat) (badn : optParam Nat 127) : (s.frameError p f cause badn).tb = s.tb ∧ (s.frameError p f cause badn).pending = s.pending ∧ (s.frameError p f cause badn).mem = s.mem := by
  simp [State.frameError]

@[simp] theorem State.discardItems_keeps (s : State) (p : Nat) (l : Latch) : (State.discardItems s p l).tb = s.tb ∧ (State.discardItems s p l).pending = s.pending ∧ (State.discardItems s p l).mem = s.mem := by
  simp [State.discardItems]

@[simp] theorem State.chnFollow_keeps (s : State) : (State.chnFollow s).tb = s.tb ∧ (State.chnFollow s).pending = s.pending ∧ (State.chnFollow s).mem = s.mem := by
  unfold State.chnFollow; dsimp only; refine ⟨?_, ?_, ?_⟩ <;> (first | apply upTo_tb | apply upTo_pending | apply upTo_mem) <;> intro t x <;> (repeat' split) <;> simp

@[simp] theorem State.clearPort_keeps (s : State) (p : Nat) : (State.clearPort s p).tb = s.tb ∧ (State.clearPort s p).pending = s.pending ∧ (State.clearPort s p).mem = s.mem := by
  simp [State.clearPort]

@[simp] theorem State.dropPort_keeps (s : State) (p : Nat) : (State.dropPort s p).tb = s.tb ∧ (State.dropPort s p).pending = s.pending ∧ (State.dropPort s p).mem = s.mem := by
  simp [State.dropPort]

@[simp] theorem State.setPortState_keeps (s : State) (p : Nat) (v : Nat) (n : Int) : (s.setPortState p v n).tb = s.tb ∧ (s.setPortState p v n).pending = s.pending ∧ (s.setPortState p v n).mem = s.mem := by
  simp [State.setPortState]

@[simp] theorem State.portSettle_keeps (s : State) (p : Nat) : (s.portSettle p).tb = s.tb ∧ (s.portSettle p).pending = s.pending ∧ (s.portSettle p).mem = s.mem := by
  unfold State.portSettle; dsimp only; refine ⟨?_, ?_, ?_⟩ <;> (repeat' split) <;> simp

@[simp] theorem State.portRequest_keeps (s : State) (p : Nat) (v : Nat) : (s.portRequest p v).tb = s.tb ∧ (s.portRequest p v).pending = s.pending ∧ (s.portRequest p v).mem = s.mem := by
  simp [State.portRequest]

@[simp] theorem State.writeChnSetup_keeps (s : State) (p : Nat) (off : Nat) (data : Nat) : (s.writeChnSetup p off data).tb = s.tb ∧ (s.writeChnSetup p off data).pending = s.pending ∧ (s.writeChnSetup p off data).mem = s.mem := by
  simp [State.writeChnSetup]

theorem State.chainCommit_keeps (s : State) (p tick cas entry : Nat) (z : State) (h : s.chainCommit p tick cas entry = some z) : z.tb = s.tb ∧ z.pending = s.pending ∧ z.mem = s.mem := by
  unfold State.chainCommit at h
  dsimp only at h
  split at h
  · cases h
  · cases h; simp

@[simp] theorem State.commitDiscard_keeps (s : State) (p : Nat) (tick : Nat) (cas : Nat) (entry : Nat) : (State.commitDiscard s p tick cas entry).tb = s.tb ∧ (State.commitDiscard s p tick cas entry).pending = s.pending ∧ (State.commitDiscard s p tick cas entry).mem = s.mem := by
  simp [State.commitDiscard]

@[simp] theorem State.readImage_keeps (s : State) (cas a n : Nat) : (s.readImage cas a n).2.tb = s.tb ∧ (s.readImage cas a n).2.pending = s.pending ∧
    (s.readImage cas a n).2.mem = s.mem := by
  induction n with
  | zero => exact ⟨rfl, rfl, rfl⟩
  | succ n ih =>
    simp only [State.readImage]
    refine ⟨?_, ?_, ?_⟩ <;> split <;> simp [ih]

@[simp] theorem State.imageRead_keeps (s : State) (p : Nat) (upTo_ : Nat) : (s.imageRead p upTo_).tb = s.tb ∧ (s.imageRead p upTo_).pending = s.pending ∧ (s.imageRead p upTo_).mem = s.mem := by
  simp [State.imageRead]

@[simp] theorem State.sendPair_keeps (s : State) (p : Nat) (tx : Nat) (n : Int) (lim : Nat) (dir : Bool) (cmt : Bool) : (s.sendPair p tx n lim dir cmt).tb = s.tb ∧ (s.sendPair p tx n lim dir cmt).pending = s.pending ∧ (s.sendPair p tx n lim dir cmt).mem = s.mem := by
  simp [State.sendPair]

@[simp] theorem State.nodeFeedback_keeps (s : State) (p : Nat) (a : Nat) : (s.nodeFeedback p a).tb = s.tb ∧ (s.nodeFeedback p a).pending = s.pending ∧ (s.nodeFeedback p a).mem = s.mem := by
  unfold State.nodeFeedback; dsimp only; refine ⟨?_, ?_, ?_⟩ <;> (repeat' split) <;> simp

@[simp] theorem State.nodeMessages_keeps (s : State) (p : Nat) (a : Nat) : (s.nodeMessages p a).tb = s.tb ∧ (s.nodeMessages p a).pending = s.pending ∧ (s.nodeMessages p a).mem = s.mem := by
  simp [State.nodeMessages]

@[simp] theorem State.feed_keeps (s : State) (p : Nat) : (s.feed p).tb = s.tb ∧ (s.feed p).pending = s.pending ∧ (s.feed p).mem = s.mem := by
  simp [State.feed]

@[simp] theorem State.feedbackDeadline_keeps (s : State) (p : Nat) : (s.feedbackDeadline p).tb = s.tb ∧ (s.feedbackDeadline p).pending = s.pending ∧ (s.feedbackDeadline p).mem = s.mem := by
  simp [State.feedbackDeadline]

@[simp] theorem State.breakFound_keeps (s : State) (p : Nat) (j : Option Nat) : (s.breakFound p j).tb = s.tb ∧ (s.breakFound p j).pending = s.pending ∧ (s.breakFound p j).mem = s.mem := by
  simp [State.breakFound]

@[simp] theorem State.ringTimeout_keeps (s : State) (p : Nat) : (s.ringTimeout p).tb = s.tb ∧ (s.ringTimeout p).pending = s.pending ∧ (s.ringTimeout p).mem = s.mem := by
  simp [State.ringTimeout]

@[simp] theorem State.takeFrame_keeps (s : State) (p : Nat) (side : Bool) (f : List Byte) : (s.takeFrame p side f).tb = s.tb ∧ (s.takeFrame p side f).pending = s.pending ∧ (s.takeFrame p side f).mem = s.mem := by
  simp [State.takeFrame]

@[simp] theorem State.hear_keeps (s : State) (rx : Nat) : (State.hear s rx).tb = s.tb ∧ (State.hear s rx).pending = s.pending ∧ (State.hear s rx).mem = s.mem := by
  simp [State.hear]

@[simp] theorem State.loopRead_keeps (s : State) (p : Nat) (side : Bool) (loop : Nat) : (State.loopRead s p side loop).tb = s.tb ∧ (State.loopRead s p side loop).pending = s.pending ∧ (State.loopRead s p side loop).mem = s.mem := by
  simp [State.loopRead]

@[simp] theorem State.badFcrc_keeps (s : State) (p : Nat) (f : List Byte) : (State.badFcrc s p f).tb = s.tb ∧ (State.badFcrc s p f).pending = s.pending ∧ (State.badFcrc s p f).mem = s.mem := by
  simp [State.badFcrc]

@[simp] theorem State.cyclicReturn_keeps (s : State) (rx : Nat) (f : List Byte) (latn : Nat) : (s.cyclicReturn rx f latn).tb = s.tb ∧ (s.cyclicReturn rx f latn).pending = s.pending ∧ (s.cyclicReturn rx f latn).mem = s.mem := by
  simp [State.cyclicReturn]

@[simp] theorem State.ringMode_keeps (s : State) (p : Nat) : (s.ringMode p).tb = s.tb ∧ (s.ringMode p).pending = s.pending ∧ (s.ringMode p).mem = s.mem := by
  simp [State.ringMode]

@[simp] theorem State.cycleMisses_keeps (s : State) (p : Nat) (n : Int) (cmt : Bool) (stale : Bool) : (s.cycleMisses p n cmt stale).tb = s.tb ∧ (s.cycleMisses p n cmt stale).pending = s.pending ∧ (s.cycleMisses p n cmt stale).mem = s.mem := by
  simp [State.cycleMisses]

@[simp] theorem State.cycleBegin_keeps (s : State) (p : Nat) : (s.cycleBegin p).tb = s.tb ∧ (s.cycleBegin p).pending = s.pending ∧ (s.cycleBegin p).mem = s.mem := by
  simp [State.cycleBegin]

@[simp] theorem State.chainPush_keeps (s : State) (p q : Nat) (w : Nat × Bool) (first : Bool) : (s.chainPush p q w first).tb = s.tb ∧ (s.chainPush p q w first).pending = s.pending ∧ (s.chainPush p q w first).mem = s.mem := by
  unfold State.chainPush
  dsimp only
  split
  · simp
  · split
    · rename_i h
      simp only [Option.ite_none_right_eq_some] at h
      simp [State.qTryPush_keeps _ _ _ _ _ h.2]
    · split <;> simp

@[simp] theorem State.chainPacket_keeps (s : State) (p : Nat) (q : Nat) (ws : List Nat) : (s.chainPacket p q ws).tb = s.tb ∧ (s.chainPacket p q ws).pending = s.pending ∧ (s.chainPacket p q ws).mem = s.mem := by
  simp [State.chainPacket]

@[simp] theorem State.streamArea_keeps (s : State) (p : Nat) (i : Nat) (off : Nat) (f : List Byte) : (s.streamArea p i off f).tb = s.tb ∧ (s.streamArea p i off f).pending = s.pending ∧ (s.streamArea p i off f).mem = s.mem := by
  unfold State.streamArea; dsimp only; refine ⟨?_, ?_, ?_⟩ <;> (repeat' split) <;> simp

@[simp] theorem State.parEnd_keeps (s : State) (p : Nat) (result : Nat) : (s.parEnd p result).tb = s.tb ∧ (s.parEnd p result).pending = s.pending ∧ (s.parEnd p result).mem = s.mem := by
  simp [State.parEnd]

@[simp] theorem State.reply_keeps (s : State) (p : Nat) (f : List Byte) : (s.reply p f).tb = s.tb ∧ (s.reply p f).pending = s.pending ∧ (s.reply p f).mem = s.mem := by
  unfold State.reply; dsimp only; refine ⟨?_, ?_, ?_⟩ <;> (repeat' split) <;> simp

@[simp] theorem State.bulkReturn_keeps (s : State) (rx : Nat) (f : List Byte) : (s.bulkReturn rx f).tb = s.tb ∧ (s.bulkReturn rx f).pending = s.pending ∧ (s.bulkReturn rx f).mem = s.mem := by
  simp [State.bulkReturn]

@[simp] theorem State.parRequest_keeps (s : State) (p : Nat) (data : Nat) : (s.parRequest p data).tb = s.tb ∧ (s.parRequest p data).pending = s.pending ∧ (s.parRequest p data).mem = s.mem := by
  simp [State.parRequest]

@[simp] theorem State.parTimeout_keeps (s : State) (p : Nat) : (s.parTimeout p).tb = s.tb ∧ (s.parTimeout p).pending = s.pending ∧ (s.parTimeout p).mem = s.mem := by
  unfold State.parTimeout; refine ⟨?_, ?_, ?_⟩ <;> (repeat' split) <;> simp

@[simp] theorem State.chnCmdStart_keeps (s : State) (p : Nat) (op : Nat) : (State.chnCmdStart s p op).tb = s.tb ∧ (State.chnCmdStart s p op).pending = s.pending ∧ (State.chnCmdStart s p op).mem = s.mem := by
  simp [State.chnCmdStart]

@[simp] theorem State.chnCommand_keeps (s : State) (p : Nat) (data : Nat) : (s.chnCommand p data).tb = s.tb ∧ (s.chnCommand p data).pending = s.pending ∧ (s.chnCommand p data).mem = s.mem := by
  simp [State.chnCommand]

@[simp] theorem State.cmdEnd_keeps (s : State) (p : Nat) (ok : Bool) : (s.cmdEnd p ok).tb = s.tb ∧ (s.cmdEnd p ok).pending = s.pending ∧ (s.cmdEnd p ok).mem = s.mem := by
  simp [State.cmdEnd]

@[simp] theorem State.enumerated_keeps (s : State) (p : Nat) (f : List Byte) : (s.enumerated p f).tb = s.tb ∧ (s.enumerated p f).pending = s.pending ∧ (s.enumerated p f).mem = s.mem := by
  simp [State.enumerated]

@[simp] theorem State.measured_keeps (s : State) (p : Nat) (loops : List (List Byte × Nat)) : (s.measured p loops).tb = s.tb ∧ (s.measured p loops).pending = s.pending ∧ (s.measured p loops).mem = s.mem := by
  simp [State.measured]

@[simp] theorem State.chnCmdDone_keeps (s : State) (p : Nat) (headers : List (Bool × Nat)) (loops : List (List Byte × Nat)) : (State.chnCmdDone s p headers loops).tb = s.tb ∧ (State.chnCmdDone s p headers loops).pending = s.pending ∧ (State.chnCmdDone s p headers loops).mem = s.mem := by
  unfold State.chnCmdDone; dsimp only; refine ⟨?_, ?_, ?_⟩ <;> (repeat' split) <;> simp

end Sys2Proof.Machine
end

