-- ==== Sys2Proof/Laws/Release.lean ====
section
/-! SUPPORT. What the operations of Machine/Release.lean leave: the timebase, the queue of commands and, where they write none, the bytes of the stores. -/

/-! The proofs of this file are elaborated one after another: as one text with the rest of the package, in parallel they would need more threads
than the memory holds. -/

set_option Elab.async false

namespace Sys2Proof.Machine

@[simp] theorem State.slackSample_keeps (s : State) (i : Nat) (x : Int) (late : Bool) : (s.slackSample i x late).tb = s.tb ∧ (s.slackSample i x late).pending = s.pending ∧ (s.slackSample i x late).mem = s.mem := by
  simp [State.slackSample]

@[simp] theorem State.showRel_keeps (s : State) (c : Nat) : (s.showRel c).tb = s.tb ∧ (s.showRel c).pending = s.pending ∧ (s.showRel c).mem = s.mem := by
  simp [State.showRel]

@[simp] theorem State.relDiscard_keeps (s : State) (c : Nat) : (s.relDiscard c).tb = s.tb ∧ (s.relDiscard c).pending = s.pending ∧ (s.relDiscard c).mem = s.mem := by
  simp [State.relDiscard]

@[simp] theorem State.unplaceEdge_keeps (s : State) (n : Nat) (time : Nat) (before : Bool) : (State.unplaceEdge s n time before).tb = s.tb ∧ (State.unplaceEdge s n time before).pending = s.pending ∧ (State.unplaceEdge s n time before).mem = s.mem := by
  simp [State.unplaceEdge]

@[simp] theorem State.placeEdge_keeps (s : State) (c : Nat) (n : Nat) (time : Nat) (level : Nat) (pulse : Option Nat) : (State.placeEdge s c n time level pulse).tb = s.tb ∧ (State.placeEdge s c n time level pulse).pending = s.pending ∧ (State.placeEdge s c n time level pulse).mem = s.mem := by
  unfold State.placeEdge; dsimp only; refine ⟨?_, ?_, ?_⟩ <;> (repeat' split) <;> simp

@[simp] theorem State.relPinEdge_keeps (s : State) (c : Nat) (tick : Nat) (act : Nat) : (s.relPinEdge c tick act).tb = s.tb ∧ (s.relPinEdge c tick act).pending = s.pending ∧ (s.relPinEdge c tick act).mem = s.mem := by
  simp [State.relPinEdge]

@[simp] theorem State.pulseEnd_keeps (s : State) (n : Nat) : (s.pulseEnd n).tb = s.tb ∧ (s.pulseEnd n).pending = s.pending ∧ (s.pulseEnd n).mem = s.mem := by
  unfold State.pulseEnd; dsimp only; refine ⟨?_, ?_, ?_⟩ <;> (repeat' split) <;> simp

@[simp] theorem State.pwmSet_keeps (s : State) (j : Nat) (duty : Nat) (full : Bool) : (s.pwmSet j duty full).tb = s.tb ∧ (s.pwmSet j duty full).pending = s.pending ∧ (s.pwmSet j duty full).mem = s.mem := by
  simp [State.pwmSet]

@[simp] theorem State.relPwm_keeps (s : State) (tick : Nat) (act : Nat) : (s.relPwm tick act).tb = s.tb ∧ (s.relPwm tick act).pending = s.pending ∧ (s.relPwm tick act).mem = s.mem := by
  unfold State.relPwm; dsimp only; refine ⟨?_, ?_, ?_⟩ <;> (repeat' split) <;> simp

@[simp] theorem State.relMessage_keeps (s : State) (c : Nat) (entry : Nat) (tick : Nat) (e : RelEntry) : (s.relMessage c entry tick e).tb = s.tb ∧ (s.relMessage c entry tick e).pending = s.pending ∧ (s.relMessage c entry tick e).mem = s.mem := by
  simp [State.relMessage]

@[simp] theorem State.flushCaps_keeps (s : State) : (s.flushCaps).tb = s.tb ∧ (s.flushCaps).pending = s.pending ∧ (s.flushCaps).mem = s.mem := by
  simp [State.flushCaps]

@[simp] theorem State.capture118_keeps (s : State) (ch : Nat) (stamp : Nat) (c : CapMsg) : (s.capture118 ch stamp c).tb = s.tb ∧ (s.capture118 ch stamp c).pending = s.pending ∧ (s.capture118 ch stamp c).mem = s.mem := by
  simp [State.capture118]

@[simp] theorem State.winOpen_keeps (s : State) (w : Nat) (tick : Nat) (mark : Option Int) : (State.winOpen s w tick mark).tb = s.tb ∧ (State.winOpen s w tick mark).pending = s.pending ∧ (State.winOpen s w tick mark).mem = s.mem := by
  simp [State.winOpen]

@[simp] theorem State.winMiss_keeps (s : State) (w : Nat) (o : Opening) : (State.winMiss s w o).tb = s.tb ∧ (State.winMiss s w o).pending = s.pending ∧ (State.winMiss s w o).mem = s.mem := by
  simp [State.winMiss]

@[simp] theorem State.winJudge_keeps (s : State) (w : Nat) : (State.winJudge s w).tb = s.tb ∧ (State.winJudge s w).pending = s.pending ∧ (State.winJudge s w).mem = s.mem := by
  unfold State.winJudge; refine ⟨?_, ?_, ?_⟩ <;> (first | apply foldl_tb | apply foldl_pending | apply foldl_mem) <;> intro t x <;> simp

@[simp] theorem State.winClose_keeps (s : State) (w : Nat) (tick : Nat) (mark : Option Int) : (State.winClose s w tick mark).tb = s.tb ∧ (State.winClose s w tick mark).pending = s.pending ∧ (State.winClose s w tick mark).mem = s.mem := by
  simp [State.winClose]

@[simp] theorem State.winStrobe_keeps (s : State) (w : Nat) (tick : Nat) (opens : Bool) : (s.winStrobe w tick opens).tb = s.tb ∧ (s.winStrobe w tick opens).pending = s.pending ∧ (s.winStrobe w tick opens).mem = s.mem := by
  simp [State.winStrobe]

@[simp] theorem State.encLatch_keeps (s : State) (e : Nat) (tick : Nat) (zl : Bool) : (s.encLatch e tick zl).tb = s.tb ∧ (s.encLatch e tick zl).pending = s.pending ∧ (s.encLatch e tick zl).mem = s.mem := by
  simp [State.encLatch]

@[simp] theorem State.ssiShow_keeps (s : State) (e : Nat) (tick : Nat) : (State.ssiShow s e tick).tb = s.tb ∧ (State.ssiShow s e tick).pending = s.pending ∧ (State.ssiShow s e tick).mem = s.mem := by
  simp [State.ssiShow]

@[simp] theorem State.ssiStart_keeps (s : State) (e : Nat) (tick : Nat) : (s.ssiStart e tick).tb = s.tb ∧ (s.ssiStart e tick).pending = s.pending ∧ (s.ssiStart e tick).mem = s.mem := by
  simp [State.ssiStart]

@[simp] theorem State.relStrobe_keeps (s : State) (tick : Nat) (act : Nat) : (s.relStrobe tick act).tb = s.tb ∧ (s.relStrobe tick act).pending = s.pending ∧ (s.relStrobe tick act).mem = s.mem := by
  unfold State.relStrobe; dsimp only; refine ⟨?_, ?_, ?_⟩ <;> (repeat' split) <;> simp

@[simp] theorem State.relDigest_keeps (s : State) (c : Nat) (entry : Nat) (tick : Nat) (e : RelEntry) : (s.relDigest c entry tick e).tb = s.tb ∧ (s.relDigest c entry tick e).pending = s.pending ∧ (s.relDigest c entry tick e).mem = s.mem := by
  simp [State.relDigest]

@[simp] theorem State.relMisses_keeps (s : State) (e : RelEntry) : (s.relMisses e).tb = s.tb ∧ (s.relMisses e).pending = s.pending ∧ (s.relMisses e).mem = s.mem := by
  simp [State.relMisses]

@[simp] theorem State.freed_keeps (s : State) (k tick : Nat) (e : RelEntry) : (s.freed k tick e).tb = s.tb ∧ (s.freed k tick e).pending = s.pending ∧ (s.freed k tick e).mem = s.mem := by
  unfold State.freed
  dsimp only
  refine ⟨?_, ?_, ?_⟩ <;> (repeat' split) <;> simp

@[simp] theorem State.release_keeps (s : State) (k tick : Nat) (e : RelEntry) : (s.release k tick e).tb = s.tb ∧ (s.release k tick e).pending = s.pending ∧ (s.release k tick e).mem = s.mem := by
  unfold State.release
  dsimp only
  refine ⟨?_, ?_, ?_⟩ <;> split <;> (try refine getD_keeps _ _ _ _ (fun z h => (?_ : _ = _)) ?_) <;>
    first
    | simp
    | simp [State.chainCommit_keeps _ _ _ _ _ _ h]

@[simp] theorem State.releaseIf_keeps (s : State) (c : Nat) (entry : Nat) (kind : Nat → Bool) : (s.releaseIf c entry kind).tb = s.tb ∧ (s.releaseIf c entry kind).pending = s.pending ∧ (s.releaseIf c entry kind).mem = s.mem := by
  unfold State.releaseIf; refine ⟨?_, ?_, ?_⟩ <;> (repeat' split) <;> simp

@[simp] theorem State.releaseGo_keeps (x0 : Nat) (x1 : State) : (State.releaseGo x0 x1).tb = x1.tb ∧ (State.releaseGo x0 x1).pending = x1.pending ∧ (State.releaseGo x0 x1).mem = x1.mem := by
  fun_induction State.releaseGo x0 x1 <;> simp_all

@[simp] theorem State.releaseDue_keeps (s : State) : (s.releaseDue).tb = s.tb ∧ (s.releaseDue).pending = s.pending ∧ (s.releaseDue).mem = s.mem := by
  simp [State.releaseDue]

@[simp] theorem State.relRefuse_keeps (s : State) (c : Nat) (k : Nat) (entry : Nat) (cause : Nat) : (s.relRefuse c k entry cause).tb = s.tb ∧ (s.relRefuse c k entry cause).pending = s.pending ∧ (s.relRefuse c k entry cause).mem = s.mem := by
  simp [State.relRefuse]

@[simp] theorem State.tmArm_keeps (s : State) (i : Nat) (v : Nat) : (State.tmArm s i v).tb = s.tb ∧ (State.tmArm s i v).pending = s.pending := by
  unfold State.tmArm; dsimp only; refine ⟨?_, ?_⟩ <;> (repeat' split) <;> simp

@[simp] theorem State.disarm_keeps (s : State) (c : Nat) (entry : Nat) : (s.disarm c entry).2.tb = s.tb ∧ (s.disarm c entry).2.pending = s.pending ∧ (s.disarm c entry).2.mem = s.mem := by
  simp [State.disarm]

@[simp] theorem State.tmKill_keeps (s : State) (i : Nat) (v : Nat) : (State.tmKill s i v).tb = s.tb ∧ (State.tmKill s i v).pending = s.pending := by
  unfold State.tmKill; dsimp only; refine ⟨?_, ?_⟩ <;> (repeat' split) <;> simp

@[simp] theorem State.tmNow_keeps (s : State) (i : Nat) (v : Nat) : (State.tmNow s i v).tb = s.tb ∧ (State.tmNow s i v).pending = s.pending := by
  simp [State.tmNow]

@[simp] theorem State.writeRelIdx_keeps (s : State) (c : Nat) (data : Nat) : (s.writeRelIdx c data).tb = s.tb ∧ (s.writeRelIdx c data).pending = s.pending ∧ (s.writeRelIdx c data).mem = s.mem := by
  simp [State.writeRelIdx]

@[simp] theorem State.writeRelOwn_keeps (s : State) (c : Nat) (i : Nat) (data : Nat) : (s.writeRelOwn c i data).tb = s.tb ∧ (s.writeRelOwn c i data).pending = s.pending ∧ (s.writeRelOwn c i data).mem = s.mem := by
  simp [State.writeRelOwn]

end Sys2Proof.Machine
end

