-- ==== Sys2Proof/Laws/FieldIo.lean ====
section
/-! SUPPORT. What the operations of Machine/FieldIo.lean leave: the timebase, the queue of commands and, where they write none, the bytes of the stores. -/

/-! The proofs of this file are elaborated one after another: as one text with the rest of the package, in parallel they would need more threads
than the memory holds. -/

set_option Elab.async false

namespace Sys2Proof.Machine

@[simp] theorem State.setInput_keeps (s : State) (n : Nat) (level : Bool) : (s.setInput n level).tb = s.tb ∧ (s.setInput n level).pending = s.pending ∧ (s.setInput n level).mem = s.mem := by
  simp [State.setInput]

@[simp] theorem State.noteHit_keeps (s : State) (w : Nat) (t : Nat) : (State.noteHit s w t).tb = s.tb ∧ (State.noteHit s w t).pending = s.pending ∧ (State.noteHit s w t).mem = s.mem := by
  simp [State.noteHit]

@[simp] theorem State.windowEdge_keeps (s : State) (w : Nat) (n : Nat) (t : Nat) (rise : Bool) : (s.windowEdge w n t rise).tb = s.tb ∧ (s.windowEdge w n t rise).pending = s.pending ∧ (s.windowEdge w n t rise).mem = s.mem := by
  simp [State.windowEdge]

@[simp] theorem State.phaseOpen_keeps (s : State) (w : Nat) : (s.phaseOpen w).tb = s.tb ∧ (s.phaseOpen w).pending = s.pending ∧ (s.phaseOpen w).mem = s.mem := by
  unfold State.phaseOpen; refine ⟨?_, ?_, ?_⟩ <;> (repeat' split) <;> simp

@[simp] theorem State.phaseClose_keeps (s : State) (w : Nat) : (s.phaseClose w).tb = s.tb ∧ (s.phaseClose w).pending = s.pending ∧ (s.phaseClose w).mem = s.mem := by
  unfold State.phaseClose; refine ⟨?_, ?_, ?_⟩ <;> (repeat' split) <;> simp

@[simp] theorem State.windowsDue_keeps (s : State) (n : Nat) : (State.windowsDue s n).tb = s.tb ∧ (State.windowsDue s n).pending = s.pending ∧ (State.windowsDue s n).mem = s.mem := by
  simp [State.windowsDue]

@[simp] theorem State.pinEdge_keeps (s : State) (n : Nat) (rise : Bool) : (s.pinEdge n rise).tb = s.tb ∧ (s.pinEdge n rise).pending = s.pending ∧ (s.pinEdge n rise).mem = s.mem := by
  simp [State.pinEdge]

@[simp] theorem State.writeCwCtrl_keeps (s : State) (w : Nat) (data : Nat) : (s.writeCwCtrl w data).tb = s.tb ∧ (s.writeCwCtrl w data).pending = s.pending ∧ (s.writeCwCtrl w data).mem = s.mem := by
  simp [State.writeCwCtrl]

@[simp] theorem State.encTransition_keeps (s : State) (e : Nat) (a : Bool) (b : Bool) : (s.encTransition e a b).tb = s.tb ∧ (s.encTransition e a b).pending = s.pending ∧ (s.encTransition e a b).mem = s.mem := by
  simp [State.encTransition]

@[simp] theorem State.encPeriodic_keeps (s : State) (e : Nat) : (s.encPeriodic e).tb = s.tb ∧ (s.encPeriodic e).pending = s.pending ∧ (s.encPeriodic e).mem = s.mem := by
  simp [State.encPeriodic]

@[simp] theorem State.encZ_keeps (s : State) (e : Nat) : (s.encZ e).tb = s.tb ∧ (s.encZ e).pending = s.pending ∧ (s.encZ e).mem = s.mem := by
  simp [State.encZ]

@[simp] theorem State.ssiEnd_keeps (s : State) (e : Nat) (bits_ : Nat) : (s.ssiEnd e bits_).tb = s.tb ∧ (s.ssiEnd e bits_).pending = s.pending ∧ (s.ssiEnd e bits_).mem = s.mem := by
  unfold State.ssiEnd; dsimp only; refine ⟨?_, ?_, ?_⟩ <;> (repeat' split) <;> simp

@[simp] theorem State.encSample_keeps (s : State) (e : Nat) : (State.encSample s e).tb = s.tb ∧ (State.encSample s e).pending = s.pending ∧ (State.encSample s e).mem = s.mem := by
  simp [State.encSample]

@[simp] theorem State.writeEnc_keeps (s : State) (e : Nat) (off : Nat) (data : Nat) : (s.writeEnc e off data).tb = s.tb ∧ (s.writeEnc e off data).pending = s.pending ∧ (s.writeEnc e off data).mem = s.mem := by
  simp [State.writeEnc]

@[simp] theorem State.pwmPeriodStart_keeps (s : State) (j : Nat) : (s.pwmPeriodStart j).tb = s.tb ∧ (s.pwmPeriodStart j).pending = s.pending ∧ (s.pwmPeriodStart j).mem = s.mem := by
  unfold State.pwmPeriodStart; dsimp only; refine ⟨?_, ?_, ?_⟩ <;> (repeat' split) <;> simp

@[simp] theorem State.pwmFall_keeps (s : State) (j : Nat) : (s.pwmFall j).tb = s.tb ∧ (s.pwmFall j).pending = s.pending ∧ (s.pwmFall j).mem = s.mem := by
  unfold State.pwmFall; dsimp only; refine ⟨?_, ?_, ?_⟩ <;> (repeat' split) <;> simp

@[simp] theorem State.writePwm_keeps (s : State) (j : Nat) (off : Nat) (data : Nat) : (s.writePwm j off data).tb = s.tb ∧ (s.writePwm j off data).pending = s.pending ∧ (s.writePwm j off data).mem = s.mem := by
  simp [State.writePwm]

@[simp] theorem State.writeFioCfg_keeps (s : State) (n : Nat) (data : Nat) : (s.writeFioCfg n data).tb = s.tb ∧ (s.writeFioCfg n data).pending = s.pending ∧ (s.writeFioCfg n data).mem = s.mem := by
  simp [State.writeFioCfg]

end Sys2Proof.Machine
end

