-- ==== Sys2Proof/Laws/Events.lean ====
section
/-! SUPPORT. What the operations of Machine/Events.lean leave: the timebase, the queue of commands and, where they write none, the bytes of the stores. -/

/-! The proofs of this file are elaborated one after another: as one text with the rest of the package, in parallel they would need more threads
than the memory holds. -/

set_option Elab.async false

namespace Sys2Proof.Machine

@[simp] theorem State.eventRaise_keeps (s : State) (n : Nat) : (s.eventRaise n).tb = s.tb ∧ (s.eventRaise n).pending = s.pending ∧ (s.eventRaise n).mem = s.mem := by
  simp [State.eventRaise]

@[simp] theorem State.groupTime_keeps (s : State) (g : Nat) : (s.groupTime g).tb = s.tb ∧ (s.groupTime g).pending = s.pending ∧ (s.groupTime g).mem = s.mem := by
  simp [State.groupTime]

@[simp] theorem State.writeSrcCfg_keeps (s : State) (n : Nat) (data : Nat) : (s.writeSrcCfg n data).tb = s.tb ∧ (s.writeSrcCfg n data).pending = s.pending ∧ (s.writeSrcCfg n data).mem = s.mem := by
  simp [State.writeSrcCfg]

@[simp] theorem State.claim_keeps (s : State) (routed : Nat → Bool) (take : EvSource → EvSource) : (s.claim routed take).2.tb = s.tb ∧ (s.claim routed take).2.pending = s.pending ∧ (s.claim routed take).2.mem = s.mem := by
  unfold State.claim; dsimp only; refine ⟨?_, ?_, ?_⟩ <;> (repeat' split) <;> simp

@[simp] theorem State.evClaim_keeps (s : State) (i : Nat) : (State.evClaim s i).tb = s.tb ∧ (State.evClaim s i).pending = s.pending := by
  simp [State.evClaim]

@[simp] theorem State.finish_keeps (s : State) (n : Nat) : (s.finish n).tb = s.tb ∧ (s.finish n).pending = s.pending ∧ (s.finish n).mem = s.mem := by
  simp [State.finish]

@[simp] theorem State.hostClaim_keeps (s : State) (v : Nat) : (s.hostClaim v).2.tb = s.tb ∧ (s.hostClaim v).2.pending = s.pending ∧ (s.hostClaim v).2.mem = s.mem := by
  simp [State.hostClaim]

@[simp] theorem State.hostFinish_keeps (s : State) (n : Nat) : (State.hostFinish s n).tb = s.tb ∧ (State.hostFinish s n).pending = s.pending ∧ (State.hostFinish s n).mem = s.mem := by
  unfold State.hostFinish; dsimp only; refine ⟨?_, ?_, ?_⟩ <;> (repeat' split) <;> simp

@[simp] theorem State.writeMsix_keeps (s : State) (a : Nat) (data : Nat) : (s.writeMsix a data).tb = s.tb ∧ (s.writeMsix a data).pending = s.pending ∧ (s.writeMsix a data).mem = s.mem := by
  simp [State.writeMsix]

@[simp] theorem State.writeEvSw_keeps (s : State) (data : Nat) : (s.writeEvSw data).tb = s.tb ∧ (s.writeEvSw data).pending = s.pending ∧ (s.writeEvSw data).mem = s.mem := by
  simp [State.writeEvSw]

@[simp] theorem State.pendClear_keeps (s : State) (p : Nat) (data : Nat) : (s.pendClear p data).tb = s.tb ∧ (s.pendClear p data).pending = s.pending ∧ (s.pendClear p data).mem = s.mem := by
  simp [State.pendClear]

end Sys2Proof.Machine
end

