-- ==== Sys2Proof/Laws/Vision.lean ====
section
/-! SUPPORT. What the operations of Machine/Vision.lean leave: the timebase, the queue of commands and, where they write none, the bytes of the stores. -/

/-! The proofs of this file are elaborated one after another: as one text with the rest of the package, in parallel they would need more threads
than the memory holds. -/

set_option Elab.async false

namespace Sys2Proof.Machine

@[simp] theorem State.setLnState_keeps (s : State) (n : Nat) (v : Nat) : (s.setLnState n v).tb = s.tb ∧ (s.setLnState n v).pending = s.pending ∧ (s.setLnState n v).mem = s.mem := by
  simp [State.setLnState]

@[simp] theorem State.laneAlone_keeps (s : State) (m : Nat) : (State.laneAlone s m).tb = s.tb ∧ (State.laneAlone s m).pending = s.pending ∧ (State.laneAlone s m).mem = s.mem := by
  simp [State.laneAlone]

@[simp] theorem State.freeLanes_keeps (s : State) (ms : List Nat) : (State.freeLanes s ms).tb = s.tb ∧ (State.freeLanes s ms).pending = s.pending ∧ (State.freeLanes s ms).mem = s.mem := by
  simp [State.freeLanes]

@[simp] theorem State.lnFall_keeps (s : State) (n : Nat) : (s.lnFall n).tb = s.tb ∧ (s.lnFall n).pending = s.pending ∧ (s.lnFall n).mem = s.mem := by
  simp [State.lnFall]

@[simp] theorem State.writeVisLink_keeps (s : State) (n : Nat) (data : Nat) : (s.writeVisLink n data).tb = s.tb ∧ (s.writeVisLink n data).pending = s.pending ∧ (s.writeVisLink n data).mem = s.mem := by
  simp [State.writeVisLink]

@[simp] theorem State.signalBack_keeps (s : State) (n : Nat) : (State.signalBack s n).tb = s.tb ∧ (State.signalBack s n).pending = s.pending ∧ (State.signalBack s n).mem = s.mem := by
  simp [State.signalBack]

@[simp] theorem State.laneLock_keeps (s : State) (n : Nat) : (s.laneLock n).tb = s.tb ∧ (s.laneLock n).pending = s.pending ∧ (s.laneLock n).mem = s.mem := by
  simp [State.laneLock]

@[simp] theorem State.ctlEnd_keeps (s : State) (n : Nat) (result : Nat) (ack : Nat) : (s.ctlEnd n result ack).tb = s.tb ∧ (s.ctlEnd n result ack).pending = s.pending ∧ (s.ctlEnd n result ack).mem = s.mem := by
  simp [State.ctlEnd]

@[simp] theorem State.writeVisCtl_keeps (s : State) (n : Nat) (data : Nat) : (s.writeVisCtl n data).tb = s.tb ∧ (s.writeVisCtl n data).pending = s.pending ∧ (s.writeVisCtl n data).mem = s.mem := by
  simp [State.writeVisCtl]

@[simp] theorem State.ctlAck_keeps (s : State) (n : Nat) (err : Bool) (crcBad : Bool) (code : Nat) (data : List Byte) : (s.ctlAck n err crcBad code data).tb = s.tb ∧ (s.ctlAck n err crcBad code data).pending = s.pending ∧ (s.ctlAck n err crcBad code data).mem = s.mem := by
  simp [State.ctlAck]

@[simp] theorem State.beatLost_keeps (s : State) (n : Nat) : (s.beatLost n).tb = s.tb ∧ (s.beatLost n).pending = s.pending ∧ (s.beatLost n).mem = s.mem := by
  simp [State.beatLost]

@[simp] theorem State.setTrigs_keeps (s : State) (n : Nat) (l : List Trg) : (s.setTrigs n l).tb = s.tb ∧ (s.setTrigs n l).pending = s.pending ∧ (s.setTrigs n l).mem = s.mem := by
  simp [State.setTrigs]

@[simp] theorem State.lineTrigger_keeps (s : State) (n : Nat) : (s.lineTrigger n).tb = s.tb ∧ (s.lineTrigger n).pending = s.pending ∧ (s.lineTrigger n).mem = s.mem := by
  unfold State.lineTrigger; dsimp only; refine ⟨?_, ?_, ?_⟩ <;> (repeat' split) <;> simp

@[simp] theorem State.pushFindings_keeps (s : State) (m : Nat) (fs : List Finding) : (s.pushFindings m fs).tb = s.tb ∧ (s.pushFindings m fs).pending = s.pending ∧ (s.pushFindings m fs).mem = s.mem := by
  simp [State.pushFindings]

@[simp] theorem State.lostReport_keeps (s : State) (m : Nat) : (s.lostReport m).tb = s.tb ∧ (s.lostReport m).pending = s.pending ∧ (s.lostReport m).mem = s.mem := by
  unfold State.lostReport; dsimp only; refine ⟨?_, ?_, ?_⟩ <;> (repeat' split) <;> simp

@[simp] theorem State.lineLost_keeps (s : State) (m : Nat) (g : Trg) (phase : Nat) : (s.lineLost m g phase).tb = s.tb ∧ (s.lineLost m g phase).pending = s.pending ∧ (s.lineLost m g phase).mem = s.mem := by
  simp [State.lineLost]

@[simp] theorem State.receive_keeps (s : State) (m : Nat) (raw : List Nat) : ((s.receive m raw).2).tb = s.tb ∧ ((s.receive m raw).2).pending = s.pending ∧ ((s.receive m raw).2).mem = s.mem := by
  refine ⟨?_, ?_, ?_⟩
  · unfold State.receive
    dsimp only
    rw [foldl_pair_keeps State.tb _ (fun q x => ?_)]
    (repeat' split) <;> simp
  · unfold State.receive
    dsimp only
    rw [foldl_pair_keeps State.pending _ (fun q x => ?_)]
    (repeat' split) <;> simp
  · unfold State.receive
    dsimp only
    rw [foldl_pair_keeps State.mem _ (fun q x => ?_)]
    (repeat' split) <;> simp

@[simp] theorem State.correlate_keeps (s : State) (m c : Nat) (l : Line) : ((s.correlate m c l).2).tb = s.tb ∧ ((s.correlate m c l).2).pending = s.pending ∧ ((s.correlate m c l).2).mem = s.mem := by
  unfold State.correlate
  dsimp only
  have h : ∀ {γ : Type} (g : State → γ) (hg : ∀ t a, g (t.readVis m a).2.2 = g t) (l : List Nat), g (l.foldl (fun (q : List Nat × Bool × State) t =>
      if (q.2.2.readVis m (0x8000 + 256 * c + t)).1 = .uncorrectable then (q.1 ++ [0], true, (q.2.2.readVis m (0x8000 + 256 * c + t)).2.2)
      else (q.1 ++ [(q.2.2.readVis m (0x8000 + 256 * c + t)).2.1.toNat], q.2.1, (q.2.2.readVis m (0x8000 + 256 * c + t)).2.2)) ([], false, s)).2.2 = g s := by
    intro γ g hg l
    refine foldl_pair2_keeps g _ (fun q x => ?_) l _
    split <;> simp [hg]
  refine ⟨?_, ?_, ?_⟩ <;> (repeat' split) <;> first | rfl | (refine h _ (fun t a => ?_) _; simp)

@[simp] theorem State.collect_keeps (s : State) (key : Nat) (c : Collect) (l : Line) : (State.collect s key c l).2.tb = s.tb ∧ (State.collect s key c l).2.pending = s.pending ∧ (State.collect s key c l).2.mem = s.mem := by
  unfold State.collect; dsimp only; refine ⟨?_, ?_, ?_⟩ <;> (repeat' split) <;> simp

@[simp] theorem State.notePeak_keeps (s : State) (m : Nat) (l : Line) : (State.notePeak s m l).tb = s.tb ∧ (State.notePeak s m l).pending = s.pending ∧ (State.notePeak s m l).mem = s.mem := by
  simp [State.notePeak]

@[simp] theorem State.windowLine_keeps (s : State) (m : Nat) (key : Nat) (l : Line) : (s.windowLine m key l).2.tb = s.tb ∧ (s.windowLine m key l).2.pending = s.pending ∧ (s.windowLine m key l).2.mem = s.mem := by
  unfold State.windowLine; dsimp only; refine ⟨?_, ?_, ?_⟩ <;> (repeat' split) <;> simp

@[simp] theorem State.profile_keeps (s : State) (c : Collect) : (s.profile c).2.tb = s.tb ∧ (s.profile c).2.pending = s.pending ∧ (s.profile c).2.mem = s.mem := by
  unfold State.profile; dsimp only; refine ⟨?_, ?_, ?_⟩ <;> (repeat' split) <;> simp

@[simp] theorem State.statFinding_keeps (s : State) (w : Nat) (c : Collect) (l : Line) : (State.statFinding s w c l).2.tb = s.tb ∧ (State.statFinding s w c l).2.pending = s.pending ∧ (State.statFinding s w c l).2.mem = s.mem := by
  unfold State.statFinding; dsimp only; refine ⟨?_, ?_, ?_⟩ <;> (repeat' split) <;> simp

/-- A fold over sources keeps what each keeps. -/
theorem overSources_keeps {γ : Type} (g : State → γ) (n : Nat) (f : Nat → State → List Finding × State) (h : ∀ i t, g (f i t).2 = g t) (s : State) :
    g (overSources n f s).2 = g s := by
  unfold overSources
  rw [foldl_pair_keeps g _ (fun q x => ?_)]
  exact h _ _

@[simp] theorem State.lineFindings_keeps (s : State) (m : Nat) (l : Line) : ((s.lineFindings m l).2.2).tb = s.tb ∧ ((s.lineFindings m l).2.2).pending = s.pending ∧ ((s.lineFindings m l).2.2).mem = s.mem := by
  refine ⟨?_, ?_, ?_⟩
  · unfold State.lineFindings
    dsimp only
    rw [(State.notePeak_keeps _ _ _).1, foldl_pair2_keeps State.tb _ (fun q x => ?_), overSources_keeps State.tb _ _ (fun i t => ?_), foldl_pair_keeps State.tb _ (fun q x => ?_), overSources_keeps State.tb _ _ (fun i t => ?_),
      overSources_keeps State.tb _ _ (fun i t => ?_)] <;> (repeat' split) <;> simp
  · unfold State.lineFindings
    dsimp only
    rw [(State.notePeak_keeps _ _ _).2.1, foldl_pair2_keeps State.pending _ (fun q x => ?_), overSources_keeps State.pending _ _ (fun i t => ?_), foldl_pair_keeps State.pending _ (fun q x => ?_), overSources_keeps State.pending _ _ (fun i t => ?_),
      overSources_keeps State.pending _ _ (fun i t => ?_)] <;> (repeat' split) <;> simp
  · unfold State.lineFindings
    dsimp only
    rw [(State.notePeak_keeps _ _ _).2.2, foldl_pair2_keeps State.mem _ (fun q x => ?_), overSources_keeps State.mem _ _ (fun i t => ?_), foldl_pair_keeps State.mem _ (fun q x => ?_), overSources_keeps State.mem _ _ (fun i t => ?_),
      overSources_keeps State.mem _ _ (fun i t => ?_)] <;> (repeat' split) <;> simp

@[simp] theorem State.freezeEnd_keeps (s : State) (m : Nat) : (State.freezeEnd s m).tb = s.tb ∧ (State.freezeEnd s m).pending = s.pending ∧ (State.freezeEnd s m).mem = s.mem := by
  simp [State.freezeEnd]

@[simp] theorem State.freezeLost_keeps (s : State) (m : Nat) (hit : Bool) : (State.freezeLost s m hit).tb = s.tb ∧ (State.freezeLost s m hit).pending = s.pending ∧ (State.freezeLost s m hit).mem = s.mem := by
  simp [State.freezeLost]

@[simp] theorem State.forward_keeps (s : State) (m : Nat) (l : Line) (hit : Bool) : (s.forward m l hit).tb = s.tb ∧ (s.forward m l hit).pending = s.pending := by
  simp [State.forward]

@[simp] theorem State.writeVisFrz_keeps (s : State) (n : Nat) (data : Nat) : (s.writeVisFrz n data).tb = s.tb ∧ (s.writeVisFrz n data).pending = s.pending ∧ (s.writeVisFrz n data).mem = s.mem := by
  simp [State.writeVisFrz]

@[simp] theorem State.noteOld_keeps (s : State) (m : Nat) (a : Nat) : (State.noteOld s m a).tb = s.tb ∧ (State.noteOld s m a).pending = s.pending ∧ (State.noteOld s m a).mem = s.mem := by
  simp [State.noteOld]

/-- A change made over the registers as they stood keeps what it and the registers' change keep. -/
theorem State.atLineStart_keeps {γ : Type} (g : State → γ) (s : State) (m first : Nat) (f : State → State) (hr : ∀ t a v, g (State.setReg t a v) = g t)
    (hf : ∀ t, g (f t) = g t) : g (s.atLineStart m first f) = g s := by
  unfold State.atLineStart
  dsimp only
  rw [foldl_keeps g _ (fun t x => hr _ _ _), hf, foldl_keeps g _ (fun t x => hr _ _ _)]

@[simp] theorem State.dropOlds_keeps (s : State) (m : Nat) (first : Nat) : (State.dropOlds s m first).tb = s.tb ∧ (State.dropOlds s m first).pending = s.pending ∧ (State.dropOlds s m first).mem = s.mem := by
  simp [State.dropOlds]

@[simp] theorem State.pipeLine_keeps (s : State) (m : Nat) (g : Trg) (phase : Nat) (cyc : Int) (raw : Option (List Nat)) (part : Bool) : (s.pipeLine m g phase cyc raw part).tb = s.tb ∧ (s.pipeLine m g phase cyc raw part).pending = s.pending := by
  unfold State.pipeLine; dsimp only; refine ⟨?_, ?_⟩ <;> (repeat' split) <;> simp

@[simp] theorem State.linePair_keeps (s : State) (n : Nat) (first : Nat) (j : Nat) : (s.linePair n first j).2.tb = s.tb ∧ (s.linePair n first j).2.pending = s.pending ∧ (s.linePair n first j).2.mem = s.mem := by
  unfold State.linePair; dsimp only; refine ⟨?_, ?_, ?_⟩ <;> (repeat' split) <;> simp

@[simp] theorem State.memberCrc_keeps (s : State) (n : Nat) : (State.memberCrc s n).2.tb = s.tb ∧ (State.memberCrc s n).2.pending = s.pending ∧ (State.memberCrc s n).2.mem = s.mem := by
  unfold State.memberCrc; refine ⟨?_, ?_, ?_⟩ <;> (first | rw [foldl_pair_tb] | rw [foldl_pair_pending] | rw [foldl_pair_mem]) <;> intro q x <;> (repeat' split) <;> simp

@[simp] theorem State.lineChecks_keeps (s : State) (n : Nat) (raw : List Nat) (i : LineInfo) : (State.lineChecks s n raw i).2.2.tb = s.tb ∧ (State.lineChecks s n raw i).2.2.pending = s.pending ∧ (State.lineChecks s n raw i).2.2.mem = s.mem := by
  simp [State.lineChecks]

@[simp] theorem State.lineArrives_keeps (s : State) (n : Nat) (i : LineInfo) : (State.lineArrives s n i).tb = s.tb ∧ (State.lineArrives s n i).pending = s.pending ∧ (State.lineArrives s n i).mem = s.mem := by
  simp [State.lineArrives]

@[simp] theorem State.lineAt_keeps (s : State) (m : Nat) (k : Nat) (g : Trg) (phase : Nat) (cyc : Int) (raw : List Nat) (i : LineInfo) (unusable : Bool) (part : Bool) : (State.lineAt s m k g phase cyc raw i unusable part).tb = s.tb ∧ (State.lineAt s m k g phase cyc raw i unusable part).pending = s.pending := by
  simp [State.lineAt]

@[simp] theorem State.lineComplete_keeps (s : State) (n : Nat) (raw : List Nat) (i : LineInfo) : (s.lineComplete n raw i).tb = s.tb ∧ (s.lineComplete n raw i).pending = s.pending := by
  unfold State.lineComplete
  refine ⟨ite_keeps State.tb rfl ?_, ite_keeps State.pending rfl ?_⟩
  · dsimp only
    rw [foldl_keeps State.tb _ (fun t x => by simp), State.atLineStart_keeps State.tb _ _ _ _ (fun _ _ _ => rfl) (fun t => ?_)]
    · simp
    · rw [foldl_keeps State.tb _ (fun t x => ite_keeps State.tb rfl (State.atLineStart_keeps State.tb _ _ _ _ (fun _ _ _ => rfl) (fun u => by simp)))]
      simp
  · dsimp only
    rw [foldl_keeps State.pending _ (fun t x => by simp), State.atLineStart_keeps State.pending _ _ _ _ (fun _ _ _ => rfl) (fun t => ?_)]
    · simp
    · rw [foldl_keeps State.pending _
        (fun t x => ite_keeps State.pending rfl (State.atLineStart_keeps State.pending _ _ _ _ (fun _ _ _ => rfl) (fun u => by simp)))]
      simp

@[simp] theorem State.triggerAbandon_keeps (s : State) (n : Nat) : (s.triggerAbandon n).tb = s.tb ∧ (s.triggerAbandon n).pending = s.pending := by
  unfold State.triggerAbandon; dsimp only; refine ⟨?_, ?_⟩ <;> (repeat' split) <;> simp

@[simp] theorem State.lostTimer_keeps (s : State) (m : Nat) : (s.lostTimer m).tb = s.tb ∧ (s.lostTimer m).pending = s.pending ∧ (s.lostTimer m).mem = s.mem := by
  unfold State.lostTimer; refine ⟨?_, ?_, ?_⟩ <;> (repeat' split) <;> simp

@[simp] theorem State.findingSend_keeps (s : State) (m : Nat) : (s.findingSend m).tb = s.tb ∧ (s.findingSend m).pending = s.pending ∧ (s.findingSend m).mem = s.mem := by
  unfold State.findingSend
  dsimp only
  split
  · exact ⟨rfl, rfl, rfl⟩
  · split
    · exact ⟨rfl, rfl, rfl⟩
    · split
      · rename_i h
        simp [State.trySend_keeps _ _ _ _ _ _ _ _ h]
      · split <;> simp

@[simp] theorem State.laneResume_keeps (s : State) (n : Nat) : (State.laneResume s n).tb = s.tb ∧ (State.laneResume s n).pending = s.pending ∧ (State.laneResume s n).mem = s.mem := by
  simp [State.laneResume]

@[simp] theorem State.visReturn_keeps (s : State) (n : Nat) : (s.visReturn n).tb = s.tb ∧ (s.visReturn n).pending = s.pending ∧ (s.visReturn n).mem = s.mem := by
  simp [State.visReturn]

@[simp] theorem State.visSleep_keeps (s : State) (n : Nat) : (State.visSleep s n).tb = s.tb ∧ (State.visSleep s n).pending = s.pending ∧ (State.visSleep s n).mem = s.mem := by
  simp [State.visSleep]

@[simp] theorem State.writeStage_keeps (s : State) (m : Nat) (addr : Nat) (data : Nat) : (s.writeStage m addr data).tb = s.tb ∧ (s.writeStage m addr data).pending = s.pending ∧ (s.writeStage m addr data).mem = s.mem := by
  simp [State.writeStage]

@[simp] theorem State.writeVisTrg_keeps (s : State) (n : Nat) (data : Nat) : (s.writeVisTrg n data).tb = s.tb ∧ (s.writeVisTrg n data).pending = s.pending ∧ (s.writeVisTrg n data).mem = s.mem := by
  simp [State.writeVisTrg]

@[simp] theorem State.writeVisFwd_keeps (s : State) (n : Nat) (data : Nat) : (s.writeVisFwd n data).tb = s.tb ∧ (s.writeVisFwd n data).pending = s.pending ∧ (s.writeVisFwd n data).mem = s.mem := by
  simp [State.writeVisFwd]

@[simp] theorem State.writeVisHb_keeps (s : State) (n : Nat) (data : Nat) : (s.writeVisHb n data).tb = s.tb ∧ (s.writeVisHb n data).pending = s.pending ∧ (s.writeVisHb n data).mem = s.mem := by
  simp [State.writeVisHb]

@[simp] theorem State.writeVisStep_keeps (s : State) (n : Nat) (addr : Nat) (data : Nat) : (State.writeVisStep s n addr data).tb = s.tb ∧ (State.writeVisStep s n addr data).pending = s.pending ∧ (State.writeVisStep s n addr data).mem = s.mem := by
  simp [State.writeVisStep]

@[simp] theorem State.writeVisLost_keeps (s : State) (n : Nat) (data : Nat) : (State.writeVisLost s n data).tb = s.tb ∧ (State.writeVisLost s n data).pending = s.pending ∧ (State.writeVisLost s n data).mem = s.mem := by
  simp [State.writeVisLost]

end Sys2Proof.Machine
end

