-- ==== Sys2Proof/Laws/Links.lean ====
section
/-! SUPPORT. What the operations of Machine/Links.lean leave: the timebase, the queue of commands and, where they write none, the bytes of the stores. -/

/-! The proofs of this file are elaborated one after another: as one text with the rest of the package, in parallel they would need more threads
than the memory holds. -/

set_option Elab.async false

namespace Sys2Proof.Machine

@[simp] theorem State.wr42_keeps (s : State) (p : Nat) (lo : Fld) (hi : Fld) (v : Nat) : (s.wr42 p lo hi v).tb = s.tb ∧ (s.wr42 p lo hi v).pending = s.pending ∧ (s.wr42 p lo hi v).mem = s.mem := by
  simp [State.wr42]

@[simp] theorem State.snapEnd_keeps (s : State) : (s.snapEnd).tb = s.tb ∧ (s.snapEnd).pending = s.pending ∧ (s.snapEnd).mem = s.mem := by
  simp [State.snapEnd]

@[simp] theorem State.beginEpoch_keeps (s : State) : (s.beginEpoch).tb = s.tb ∧ (s.beginEpoch).pending = s.pending ∧ (s.beginEpoch).mem = s.mem := by
  simp [State.beginEpoch]

@[simp] theorem State.mailboxSend_keeps (s : State) (m data : Nat) : (s.mailboxSend m data).tb = s.tb ∧ (s.mailboxSend m data).pending = s.pending ∧ (s.mailboxSend m data).mem = s.mem := by
  unfold State.mailboxSend
  dsimp only
  split; · simp
  split; · simp
  split; · simp
  refine ⟨?_, ?_, ?_⟩ <;> (simp only [State.snapEnd_keeps]; refine getD_keeps _ _ _ _ (fun z h => ?_) ?_) <;>
    first
    | (have k := State.trySend_keeps _ _ _ _ _ _ _ _ h; (repeat' split at k) <;> simp [k])
    | ((repeat' split) <;> simp)

@[simp] theorem State.linkFlush_keeps (i n : Nat) : ∀ s : State, (s.linkFlush i n).tb = s.tb ∧ (s.linkFlush i n).pending = s.pending ∧
    (s.linkFlush i n).mem = s.mem := by
  induction n with
  | zero => intro s; exact ⟨rfl, rfl, rfl⟩
  | succ n ih =>
    intro s
    simp only [State.linkFlush]
    split
    · exact ⟨rfl, rfl, rfl⟩
    · split
      · rename_i h
        simp [ih, State.groupSend_keeps _ _ _ _ h]
      · exact ⟨rfl, rfl, rfl⟩

@[simp] theorem State.showAck_keeps (s : State) (i : Nat) : (s.showAck i).tb = s.tb ∧ (s.showAck i).pending = s.pending ∧ (s.showAck i).mem = s.mem := by
  simp [State.showAck]

@[simp] theorem State.takeAck_keeps (s : State) (i : Nat) (ack : Nat) (nak : Bool) : (s.takeAck i ack nak).tb = s.tb ∧ (s.takeAck i ack nak).pending = s.pending ∧ (s.takeAck i ack nak).mem = s.mem := by
  simp [State.takeAck]

@[simp] theorem State.flitIn_keeps (s : State) (f : TandemFlit) : (s.flitIn f).tb = s.tb ∧ (s.flitIn f).pending = s.pending ∧ (s.flitIn f).mem = s.mem := by
  unfold State.flitIn; dsimp only; refine ⟨?_, ?_, ?_⟩ <;> (repeat' split) <;> simp

@[simp] theorem State.groupReceive_keeps (s : State) (i : Nat) (header : Nat) (data : List Nat) : (State.groupReceive s i header data).tb = s.tb ∧ (State.groupReceive s i header data).pending = s.pending ∧ (State.groupReceive s i header data).mem = s.mem := by
  simp [State.groupReceive]

@[simp] theorem State.lockLost_keeps (s : State) : (s.lockLost).tb = s.tb ∧ (s.lockLost).pending = s.pending ∧ (s.lockLost).mem = s.mem := by
  simp [State.lockLost]

@[simp] theorem State.timeBlockSend_keeps (s : State) (i : Nat) : (s.timeBlockSend i).tb = s.tb ∧ (s.timeBlockSend i).pending = s.pending ∧ (s.timeBlockSend i).mem = s.mem := by
  simp [State.timeBlockSend]

@[simp] theorem State.takeError_keeps (s : State) (d2 : Int) : (s.takeError d2).tb = s.tb ∧ (s.takeError d2).pending = s.pending ∧ (s.takeError d2).mem = s.mem := by
  simp [State.takeError]

@[simp] theorem State.timeBlockReceive_keeps (s : State) (i : Nat) (block : Nat) (ofs : Option (BitVec 42)) : (State.timeBlockReceive s i block ofs).tb = s.tb ∧ (State.timeBlockReceive s i block ofs).pending = s.pending ∧ (State.timeBlockReceive s i block ofs).mem = s.mem := by
  unfold State.timeBlockReceive; dsimp only; (repeat' split) <;> simp

@[simp] theorem State.lockAcquire_keeps (s : State) : (s.lockAcquire).tb = s.tb ∧ (s.lockAcquire).pending = s.pending ∧ (s.lockAcquire).mem = s.mem := by
  unfold State.lockAcquire; refine ⟨?_, ?_, ?_⟩ <;> (repeat' split) <;> simp

@[simp] theorem State.timeBlockTimeout_keeps (s : State) : (s.timeBlockTimeout).tb = s.tb ∧ (s.timeBlockTimeout).pending = s.pending ∧ (s.timeBlockTimeout).mem = s.mem := by
  simp [State.timeBlockTimeout]

@[simp] theorem State.portDown_keeps (s : State) (i : Nat) (ack : Option (BitVec 8)) : (s.portDown i ack).tb = s.tb ∧ (s.portDown i ack).pending = s.pending ∧ (s.portDown i ack).mem = s.mem := by
  simp [State.portDown]

@[simp] theorem State.portUp_keeps (s : State) (i : Nat) (lat : Nat) (peerFollows : Bool) : (s.portUp i lat peerFollows).tb = s.tb ∧ (s.portUp i lat peerFollows).pending = s.pending ∧ (s.portUp i lat peerFollows).mem = s.mem := by
  simp [State.portUp]

@[simp] theorem State.writeTanCfg_keeps (s : State) (data : Nat) : (s.writeTanCfg data).tb = s.tb ∧ (s.writeTanCfg data).pending = s.pending ∧ (s.writeTanCfg data).mem = s.mem := by
  simp [State.writeTanCfg]

@[simp] theorem State.spanState_keeps (s : State) (n : Nat) : (s.spanState n).tb = s.tb ∧ (s.spanState n).pending = s.pending ∧ (s.spanState n).mem = s.mem := by
  simp [State.spanState]

@[simp] theorem State.spanMaskWrite_keeps (s : State) (data : Nat) (peer : Bool) : (s.spanMaskWrite data peer).tb = s.tb ∧ (s.spanMaskWrite data peer).pending = s.pending ∧ (s.spanMaskWrite data peer).mem = s.mem := by
  simp [State.spanMaskWrite]

@[simp] theorem State.spanLate_keeps (s : State) (n : Nat) (t : Nat) (op : Nat) : (s.spanLate n t op).2.tb = s.tb ∧ (s.spanLate n t op).2.pending = s.pending ∧ (s.spanLate n t op).2.mem = s.mem := by
  unfold State.spanLate; dsimp only; refine ⟨?_, ?_, ?_⟩ <;> (repeat' split) <;> simp

@[simp] theorem State.spanApply_keeps (s : State) (n : Nat) (t : Nat) (rate : Bool) (v : Int) : (s.spanApply n t rate v).tb = s.tb ∧ (s.spanApply n t rate v).pending = s.pending ∧ (s.spanApply n t rate v).mem = s.mem := by
  simp [State.spanApply]

@[simp] theorem State.spanStart_keeps (s : State) (n : Nat) (t : Nat) (a : Int) (rate : Int) (rampT : Int) (rampS : Nat) (rampLen : Nat) (kDone : Int) : (s.spanStart n t a rate rampT rampS rampLen kDone).tb = s.tb ∧ (s.spanStart n t a rate rampT rampS rampLen kDone).pending = s.pending ∧ (s.spanStart n t a rate rampT rampS rampLen kDone).mem = s.mem := by
  simp [State.spanStart]

@[simp] theorem State.spanRecord_keeps (s : State) (r : SpanRec) : (s.spanRecord r).tb = s.tb ∧ (s.spanRecord r).pending = s.pending ∧ (s.spanRecord r).mem = s.mem := by
  unfold State.spanRecord; dsimp only; refine ⟨?_, ?_, ?_⟩ <;> (repeat' split) <;> simp

end Sys2Proof.Machine
end

