-- ==== Sys2Proof/Laws/Movers.lean ====
section
/-! SUPPORT. What the operations of Machine/Movers.lean leave: the timebase, the queue of commands and, where they write none, the bytes of the stores. -/

/-! The proofs of this file are elaborated one after another: as one text with the rest of the package, in parallel they would need more threads
than the memory holds. -/

set_option Elab.async false

namespace Sys2Proof.Machine

@[simp] theorem State.mwr_keeps (s : State) (c : Nat) (f : Fld) (v : Nat) : (s.mwr c f v).tb = s.tb ∧ (s.mwr c f v).pending = s.pending ∧ (s.mwr c f v).mem = s.mem := by
  simp [State.mwr]

@[simp] theorem State.mvStopDone_keeps (s : State) (c : Nat) : (s.mvStopDone c).tb = s.tb ∧ (s.mvStopDone c).pending = s.pending ∧ (s.mvStopDone c).mem = s.mem := by
  simp [State.mvStopDone]

@[simp] theorem State.mvFail_keeps (s : State) (c : Nat) (cause : Nat) (ofs : Nat) : (s.mvFail c cause ofs).tb = s.tb ∧ (s.mvFail c cause ofs).pending = s.pending ∧ (s.mvFail c cause ofs).mem = s.mem := by
  simp [State.mvFail]

@[simp] theorem State.mvDone_keeps (s : State) (c : Nat) : (s.mvDone c).tb = s.tb ∧ (s.mvDone c).pending = s.pending ∧ (s.mvDone c).mem = s.mem := by
  simp [State.mvDone]

@[simp] theorem State.mvGo_keeps (s : State) (c : Nat) : (s.mvGo c).tb = s.tb ∧ (s.mvGo c).pending = s.pending ∧ (s.mvGo c).mem = s.mem := by
  simp [State.mvGo]

@[simp] theorem State.mvStopAsk_keeps (s : State) (c : Nat) : (s.mvStopAsk c).tb = s.tb ∧ (s.mvStopAsk c).pending = s.pending ∧ (s.mvStopAsk c).mem = s.mem := by
  simp [State.mvStopAsk]

@[simp] theorem State.mvClr_keeps (s : State) (c : Nat) : (s.mvClr c).tb = s.tb ∧ (s.mvClr c).pending = s.pending ∧ (s.mvClr c).mem = s.mem := by
  simp [State.mvClr]

@[simp] theorem State.writeMvCtrl_keeps (s : State) (c : Nat) (data : Nat) : (s.writeMvCtrl c data).tb = s.tb ∧ (s.writeMvCtrl c data).pending = s.pending ∧ (s.writeMvCtrl c data).mem = s.mem := by
  simp [State.writeMvCtrl]

@[simp] theorem State.writeMvCfg_keeps (s : State) (c : Nat) (data : Nat) : (s.writeMvCfg c data).tb = s.tb ∧ (s.writeMvCfg c data).pending = s.pending ∧ (s.writeMvCfg c data).mem = s.mem := by
  simp [State.writeMvCfg]

@[simp] theorem descQuads_keeps (s : State) (q n : Nat) : (descQuads s q n).2.2.2.2.tb = s.tb ∧ (descQuads s q n).2.2.2.2.pending = s.pending ∧
    (descQuads s q n).2.2.2.2.mem = s.mem := by
  induction n with
  | zero => exact ⟨rfl, rfl, rfl⟩
  | succ n ih =>
    simp only [descQuads]
    split
    · simp [ih]
    · split <;> simp [ih]

@[simp] theorem State.descRead_keeps (s : State) (c : Nat) : (s.descRead c).2.tb = s.tb ∧ (s.descRead c).2.pending = s.pending ∧ (s.descRead c).2.mem = s.mem := by
  unfold State.descRead; dsimp only; refine ⟨?_, ?_, ?_⟩ <;> (repeat' split) <;> simp

@[simp] theorem State.descFetch_keeps (s : State) (c : Nat) : (State.descFetch s c).tb = s.tb ∧ (State.descFetch s c).pending = s.pending ∧ (State.descFetch s c).mem = s.mem := by
  unfold State.descFetch; dsimp only; refine ⟨?_, ?_, ?_⟩ <;> (repeat' split) <;> simp

@[simp] theorem State.hostFault_keeps (s : State) : (s.hostFault).2.tb = s.tb ∧ (s.hostFault).2.pending = s.pending ∧ (s.hostFault).2.mem = s.mem := by
  unfold State.hostFault; refine ⟨?_, ?_, ?_⟩ <;> (repeat' split) <;> simp

@[simp] theorem State.sideRead_keeps (s : State) (x : Side) (o : Nat) (left : Nat) (host : List Byte) (bad : Bool) : (s.sideRead x o left host bad).2.2.tb = s.tb ∧ (s.sideRead x o left host bad).2.2.pending = s.pending ∧ (s.sideRead x o left host bad).2.2.mem = s.mem := by
  unfold State.sideRead; dsimp only; refine ⟨?_, ?_, ?_⟩ <;> (repeat' split) <;> simp

/-- What a fill of a side keeps, whether it fails (inl) or not. -/
theorem State.sideFill_keeps (x : Side) (len want : Nat) (bad : Bool) (fuel : Nat) : ∀ (s : State) (have_ : List Byte) (n : Nat) (host : List Byte),
    (∀ k o z, s.sideFill x len want bad fuel have_ n host = .inl (k, o, z) → z.tb = s.tb ∧ z.pending = s.pending ∧ z.mem = s.mem) ∧
    (∀ r h2 z, s.sideFill x len want bad fuel have_ n host = .inr (r, h2, z) → z.tb = s.tb ∧ z.pending = s.pending ∧ z.mem = s.mem) := by
  induction fuel with
  | zero =>
    intro s have_ n host
    exact ⟨fun k o z h => by simp [State.sideFill] at h, fun r h2 z h => by simp [State.sideFill] at h; simp [h]⟩
  | succ fuel ih =>
    intro s have_ n host
    simp only [State.sideFill]
    split
    · exact ⟨fun k o z h => (by cases h), fun r h2 z h => (by cases h; exact ⟨rfl, rfl, rfl⟩)⟩
    · split
      · exact ⟨fun k o z h => (by cases h; simp), fun r h2 z h => (by cases h)⟩
      · exact ⟨fun k o z h => (by cases h), fun r h2 z h => (by cases h; simp)⟩
      · split
        · exact ⟨fun k o z h => (by cases h), fun r h2 z h => (by cases h; simp)⟩
        · have k := ih (s.sideRead x n (len - n) host bad).2.2
          simp only [State.sideRead_keeps] at k
          exact k _ _ _

@[simp] theorem State.pushWords_keeps (q : Nat) (lastEop : Bool) (ws : List Nat) : ∀ s : State, (s.pushWords q lastEop ws).2.tb = s.tb ∧
    (s.pushWords q lastEop ws).2.pending = s.pending ∧ (s.pushWords q lastEop ws).2.mem = s.mem := by
  induction ws with
  | nil => intro s; exact ⟨rfl, rfl, rfl⟩
  | cons w ws ih =>
    intro s
    simp only [State.pushWords]
    split
    · exact ⟨rfl, rfl, rfl⟩
    · rename_i h
      simp [ih, State.qTryPush_keeps _ _ _ _ _ h]

theorem State.sideWrite_keeps (s : State) (x : Side) (o : Nat) (bs : List Byte) (last bad : Bool) (n : Nat) (z : State)
    (h : s.sideWrite x o bs last bad = .inr (n, z)) : z.tb = s.tb ∧ z.pending = s.pending := by
  unfold State.sideWrite at h
  dsimp only at h
  repeat' split at h
  all_goals cases h
  all_goals simp

@[simp] theorem State.mvFinish_keeps (s : State) (c : Nat) : (s.mvFinish c).tb = s.tb ∧ (s.mvFinish c).pending = s.pending ∧ (s.mvFinish c).mem = s.mem := by
  simp [State.mvFinish]

/-- What the fill of a descending copy keeps, whether it fails (inl) or not. -/
theorem State.fillDown_keeps (addr len want fuel : Nat) : ∀ (s : State) (have_ : List Byte) (n : Nat),
    (∀ k o z, s.fillDown addr len want fuel have_ n = .inl (k, o, z) → z.tb = s.tb ∧ z.pending = s.pending ∧ z.mem = s.mem) ∧
    (∀ bs m z, s.fillDown addr len want fuel have_ n = .inr (bs, m, z) → z.tb = s.tb ∧ z.pending = s.pending ∧ z.mem = s.mem) := by
  induction fuel with
  | zero => intro s have_ n; exact ⟨fun k o z h => by simp [State.fillDown] at h, fun bs m z h => by simp [State.fillDown] at h; simp [h]⟩
  | succ fuel ih =>
    intro s have_ n
    simp only [State.fillDown]
    split
    · exact ⟨fun k o z h => (by cases h), fun bs m z h => (by cases h; exact ⟨rfl, rfl, rfl⟩)⟩
    · split
      · exact ⟨fun k o z h => (by cases h; exact ⟨rfl, rfl, rfl⟩), fun bs m z h => (by cases h)⟩
      · split
        · exact ⟨fun k o z h => (by cases h; simp), fun bs m z h => (by cases h)⟩
        · have k := ih (s.bar2Get (addr + (len - n - stepDown addr (len - n))) (stepDown addr (len - n))).2.2
          simp only [State.bar2Get_keeps] at k
          exact k _ _

@[simp] theorem State.downDone_keeps (s : State) (c : Nat) (d : List Nat) (n o m : Nat) (left : List Byte) :
    (s.downDone c d n o m left).tb = s.tb ∧ (s.downDone c d n o m left).pending = s.pending ∧ (s.downDone c d n o m left).mem = s.mem := by
  simp [State.downDone]

@[simp] theorem State.downWrite_keeps (s : State) (c : Nat) (d : List Nat) (n o m : Nat) (bs : List Byte) :
    (s.downWrite c d n o m bs).tb = s.tb ∧ (s.downWrite c d n o m bs).pending = s.pending := by
  unfold State.downWrite
  cases hr : s.sideWrite (mvDst d) o (bs.drop (bs.length - n)) false false with
  | inl k => simp
  | inr r => simp [State.sideWrite_keeps _ _ _ _ _ _ _ _ hr]

@[simp] theorem State.beatDown_keeps (s : State) (c : Nat) (d : List Nat) : (s.beatDown c d).tb = s.tb ∧ (s.beatDown c d).pending = s.pending := by
  unfold State.beatDown
  dsimp only
  generalize hr : s.fillDown _ _ _ _ _ _ = r
  rcases r with ⟨k, o, t⟩ | ⟨bs, m, t⟩
  · simp [(State.fillDown_keeps _ _ _ _ _ _ _).1 _ _ _ hr]
  · simp [(State.fillDown_keeps _ _ _ _ _ _ _).2 _ _ _ hr]

@[simp] theorem State.beatWrite_keeps (s : State) (c : Nat) (d : List Nat) (want : Nat) (bad : Bool) : (s.beatWrite c d want bad).tb = s.tb ∧ (s.beatWrite c d want bad).pending = s.pending := by
  refine ⟨?_, ?_⟩
  · unfold State.beatWrite
    refine ite_keeps State.tb (by simp) ?_
    generalize hr : State.sideWrite _ _ _ _ _ _ = r
    rcases r with k | ⟨n, z⟩
    · simp only [State.mvFail_keeps]
      exact ite_keeps State.tb (by simp) rfl
    · have k := State.sideWrite_keeps _ _ _ _ _ _ _ _ hr
      exact ite_keeps State.tb (by simp [k]) (by simp [k])
  · unfold State.beatWrite
    refine ite_keeps State.pending (by simp) ?_
    generalize hr : State.sideWrite _ _ _ _ _ _ = r
    rcases r with k | ⟨n, z⟩
    · simp only [State.mvFail_keeps]
      exact ite_keeps State.pending (by simp) rfl
    · have k := State.sideWrite_keeps _ _ _ _ _ _ _ _ hr
      exact ite_keeps State.pending (by simp [k]) (by simp [k])

@[simp] theorem State.beatCompare_keeps (s : State) (c : Nat) (d : List Nat) : (s.beatCompare c d).tb = s.tb ∧ (s.beatCompare c d).pending = s.pending ∧ (s.beatCompare c d).mem = s.mem := by
  unfold State.beatCompare; dsimp only; refine ⟨?_, ?_, ?_⟩ <;> (repeat' split) <;> simp

theorem State.sourceFill_keeps (s : State) (c : Nat) (d : List Nat) (fin want : Nat) (host : List Byte) (bad : Bool) :
    (∀ k o z, s.sourceFill c d fin want host bad = .inl (k, o, z) → z.tb = s.tb ∧ z.pending = s.pending ∧ z.mem = s.mem) ∧
    (∀ r h2 z, s.sourceFill c d fin want host bad = .inr (r, h2, z) → z.tb = s.tb ∧ z.pending = s.pending ∧ z.mem = s.mem) := by
  unfold State.sourceFill
  split
  · exact State.sideFill_keeps _ _ _ _ _ _ _ _ _
  · exact ⟨fun _ _ _ e => (nomatch e), fun _ _ _ e => by injection e with e; injection e with _ e; injection e with _ e; rw [← e]; exact ⟨rfl, rfl, rfl⟩⟩

theorem State.beatSecond_keeps (s : State) (c : Nat) (d : List Nat) (tb : Nat) (p : List Instr) (r : (Nat × Nat × State) ⊕ (List Byte × Nat × Bool) × List Byte × State)
    (hl : ∀ k o z, r = .inl (k, o, z) → z.tb = tb ∧ z.pending = p) (hr : ∀ a b z, r = .inr (a, b, z) → z.tb = tb ∧ z.pending = p) :
    (s.beatSecond c d r).tb = tb ∧ (s.beatSecond c d r).pending = p := by
  rcases r with ⟨k, o, z⟩ | ⟨⟨a, n, e⟩, h, z⟩
  · have k := hl _ _ _ rfl
    simp [State.beatSecond, k]
  · have k := hr _ _ _ rfl
    simp [State.beatSecond, k]

theorem State.beatFirst_keeps (s : State) (c : Nat) (d : List Nat) (dstHost : List Byte) (bad : Bool) (tb : Nat) (p : List Instr)
    (r : (Nat × Nat × State) ⊕ (List Byte × Nat × Bool) × List Byte × State)
    (hl : ∀ k o z, r = .inl (k, o, z) → z.tb = tb ∧ z.pending = p) (hr : ∀ a b z, r = .inr (a, b, z) → z.tb = tb ∧ z.pending = p) :
    (s.beatFirst c d dstHost bad r).tb = tb ∧ (s.beatFirst c d dstHost bad r).pending = p := by
  rcases r with ⟨k, o, z⟩ | ⟨⟨a, n, e⟩, h, z⟩
  · have k := hl _ _ _ rfl
    simp [State.beatFirst, k]
  · have k := hr _ _ _ rfl
    simp only [State.beatFirst]
    split
    · refine State.beatSecond_keeps _ _ _ _ _ _ (fun _ _ _ e => ?_) (fun _ _ _ e => ?_)
      · simp [(State.sideFill_keeps _ _ _ _ _ _ _ _ _).1 _ _ _ e, k]
      · simp [(State.sideFill_keeps _ _ _ _ _ _ _ _ _).2 _ _ _ e, k]
    · split <;> simp [k]

@[simp] theorem State.beat_keeps (s : State) (c : Nat) (d : List Nat) (srcHost dstHost : List Byte) (bad : Bool) :
    (s.beat c d srcHost dstHost bad).tb = s.tb ∧ (s.beat c d srcHost dstHost bad).pending = s.pending := by
  unfold State.beat
  split
  · simp
  · refine State.beatFirst_keeps _ _ _ _ _ _ _ _ (fun _ _ _ e => ?_) (fun _ _ _ e => ?_)
    · exact ⟨((State.sourceFill_keeps _ _ _ _ _ _ _).1 _ _ _ e).1, ((State.sourceFill_keeps _ _ _ _ _ _ _).1 _ _ _ e).2.1⟩
    · exact ⟨((State.sourceFill_keeps _ _ _ _ _ _ _).2 _ _ _ e).1, ((State.sourceFill_keeps _ _ _ _ _ _ _).2 _ _ _ e).2.1⟩

@[simp] theorem State.noteTimeout_keeps (s : State) (c : Nat) (timeout : Bool) : (s.noteTimeout c timeout).tb = s.tb ∧ (s.noteTimeout c timeout).pending = s.pending ∧ (s.noteTimeout c timeout).mem = s.mem := by
  unfold State.noteTimeout; split <;> exact ⟨rfl, rfl, rfl⟩

@[simp] theorem State.moverBeat_keeps (s : State) (e : Nat) (srcHost dstHost : List Byte) (bad timeout : Bool) : (s.moverBeat e srcHost dstHost bad timeout).tb = s.tb ∧ (s.moverBeat e srcHost dstHost bad timeout).pending = s.pending := by
  unfold State.moverBeat; dsimp only; refine ⟨?_, ?_⟩ <;> (repeat' split) <;> simp

@[simp] theorem State.readBack_keeps (s : State) (c : Nat) (bad : Bool) : (s.readBack c bad).tb = s.tb ∧ (s.readBack c bad).pending = s.pending ∧ (s.readBack c bad).mem = s.mem := by
  simp [State.readBack]

end Sys2Proof.Machine
end

