-- ==== Sys2Proof/Laws/Journal.lean ====
section
/-! SUPPORT. What the operations of Machine/Journal.lean leave: the timebase, the queue of commands and, where they write none, the bytes of the stores. -/

/-! The proofs of this file are elaborated one after another: as one text with the rest of the package, in parallel they would need more threads
than the memory holds. -/

set_option Elab.async false

namespace Sys2Proof.Machine

@[simp] theorem State.putShared_keeps (s : State) (c : Nat) (w : Nat) (v : Nat) : (s.putShared c w v).tb = s.tb ∧ (s.putShared c w v).pending = s.pending := by
  simp [State.putShared]

@[simp] theorem State.recordWrite_keeps (s : State) : (s.recordWrite).tb = s.tb ∧ (s.recordWrite).pending = s.pending := by
  unfold State.recordWrite; dsimp only; refine ⟨?_, ?_⟩ <;> (repeat' split) <;> simp

@[simp] theorem State.jrnMark_keeps (s : State) (kind : Nat) (at_ : Nat) : (State.jrnMark s kind at_).tb = s.tb ∧ (State.jrnMark s kind at_).pending = s.pending ∧ (State.jrnMark s kind at_).mem = s.mem := by
  simp [State.jrnMark]

@[simp] theorem State.writeJrnCtrl_keeps (s : State) (data : Nat) : (s.writeJrnCtrl data).tb = s.tb ∧ (s.writeJrnCtrl data).pending = s.pending ∧ (s.writeJrnCtrl data).mem = s.mem := by
  simp [State.writeJrnCtrl]

@[simp] theorem State.jrnTrigger_keeps (s : State) (rise : Bool) (at_ : Nat) : (State.jrnTrigger s rise at_).tb = s.tb ∧ (State.jrnTrigger s rise at_).pending = s.pending ∧ (State.jrnTrigger s rise at_).mem = s.mem := by
  simp [State.jrnTrigger]

@[simp] theorem State.digestEnd_keeps (s : State) : (s.digestEnd).tb = s.tb ∧ (s.digestEnd).pending = s.pending ∧ (s.digestEnd).mem = s.mem := by
  unfold State.digestEnd; dsimp only; refine ⟨?_, ?_, ?_⟩ <;> (repeat' split) <;> simp

@[simp] theorem State.snapPut_keeps (s : State) (r : SnapRec) : (State.snapPut s r).tb = s.tb ∧ (State.snapPut s r).pending = s.pending ∧ (State.snapPut s r).mem = s.mem := by
  simp [State.snapPut]

@[simp] theorem State.snapshot_keeps (s : State) (n : Nat) : (s.snapshot n).tb = s.tb ∧ (s.snapshot n).pending = s.pending ∧ (s.snapshot n).mem = s.mem := by
  simp [State.snapshot]

@[simp] theorem State.rplGo_keeps (s : State) : (s.rplGo).tb = s.tb ∧ (s.rplGo).pending = s.pending ∧ (s.rplGo).mem = s.mem := by
  simp [State.rplGo]

@[simp] theorem State.writeJrnRpl_keeps (s : State) (data : Nat) : (s.writeJrnRpl data).tb = s.tb ∧ (s.writeJrnRpl data).pending = s.pending ∧ (s.writeJrnRpl data).mem = s.mem := by
  simp [State.writeJrnRpl]

@[simp] theorem State.install_keeps (s : State) (e : Nat) : (s.install e).tb = s.tb ∧ (s.install e).pending = s.pending ∧ (s.install e).mem = s.mem := by
  simp [State.install]

@[simp] theorem State.rplNext_keeps (s : State) : (s.rplNext).tb = s.tb ∧ (s.rplNext).pending = s.pending ∧ (s.rplNext).mem = s.mem := by
  simp [State.rplNext]

@[simp] theorem State.rplTokens_keeps (s : State) (f : Nat) : (s.rplTokens f).tb = s.tb ∧ (s.rplTokens f).pending = s.pending ∧ (s.rplTokens f).mem = s.mem := by
  simp [State.rplTokens]

@[simp] theorem State.replayRecord_keeps (s : State) (h p : Nat) : (s.replayRecord h p).tb = s.tb ∧ (s.replayRecord h p).pending = s.pending ∧ (s.replayRecord h p).mem = s.mem := by
  refine ⟨?_, ?_, ?_⟩
  · unfold State.replayRecord
    refine ite_keeps State.tb rfl (ite_keeps State.tb ?_ ?_)
    · dsimp only
      split <;> simp
    dsimp only
    refine ite_keeps State.tb (by simp) (ite_keeps State.tb ?_ (ite_keeps State.tb ?_ (ite_keeps State.tb (by simp) (ite_keeps State.tb (by simp) (ite_keeps State.tb ?_ (ite_keeps State.tb (by simp)
      (ite_keeps State.tb ?_ (ite_keeps State.tb ?_ (by simp)))))))))
    · (repeat' split) <;> simp
    · (repeat' split) <;> simp
    · simp only [State.rplNext_keeps]
      split <;> simp
    · split <;> simp
    · split
      · rename_i k
        simp [State.trySend_keeps _ _ _ _ _ _ _ _ k]
      · rfl
  · unfold State.replayRecord
    refine ite_keeps State.pending rfl (ite_keeps State.pending ?_ ?_)
    · dsimp only
      split <;> simp
    dsimp only
    refine ite_keeps State.pending (by simp) (ite_keeps State.pending ?_ (ite_keeps State.pending ?_ (ite_keeps State.pending (by simp) (ite_keeps State.pending (by simp) (ite_keeps State.pending ?_ (ite_keeps State.pending (by simp)
      (ite_keeps State.pending ?_ (ite_keeps State.pending ?_ (by simp)))))))))
    · (repeat' split) <;> simp
    · (repeat' split) <;> simp
    · simp only [State.rplNext_keeps]
      split <;> simp
    · split <;> simp
    · split
      · rename_i k
        simp [State.trySend_keeps _ _ _ _ _ _ _ _ k]
      · rfl
  · unfold State.replayRecord
    refine ite_keeps State.mem rfl (ite_keeps State.mem ?_ ?_)
    · dsimp only
      split <;> simp
    dsimp only
    refine ite_keeps State.mem (by simp) (ite_keeps State.mem ?_ (ite_keeps State.mem ?_ (ite_keeps State.mem (by simp) (ite_keeps State.mem (by simp) (ite_keeps State.mem ?_ (ite_keeps State.mem (by simp)
      (ite_keeps State.mem ?_ (ite_keeps State.mem ?_ (by simp)))))))))
    · (repeat' split) <;> simp
    · (repeat' split) <;> simp
    · simp only [State.rplNext_keeps]
      split <;> simp
    · split <;> simp
    · split
      · rename_i k
        simp [State.trySend_keeps _ _ _ _ _ _ _ _ k]
      · rfl

@[simp] theorem State.digestCompare_keeps (s : State) : (s.digestCompare).tb = s.tb ∧ (s.digestCompare).pending = s.pending ∧ (s.digestCompare).mem = s.mem := by
  unfold State.digestCompare; dsimp only; refine ⟨?_, ?_, ?_⟩ <;> (repeat' split) <;> simp

end Sys2Proof.Machine
end

