-- ==== Sys2Proof/Laws/CogClocked.lean ====
section
/-! SUPPORT. What the operations of Machine/CogClocked.lean leave: the timebase, the queue of commands and, where they write none, the bytes of the stores. -/

/-! The proofs of this file are elaborated one after another: as one text with the rest of the package, in parallel they would need more threads
than the memory holds. -/

set_option Elab.async false

namespace Sys2Proof.Machine

@[simp] theorem State.unspoken_keeps (s : State) (x : Nat) : (State.unspoken s x).tb = s.tb ∧ (State.unspoken s x).pending = s.pending ∧ (State.unspoken s x).mem = s.mem := by
  simp [State.unspoken]

@[simp] theorem State.cogStart_keeps (s : State) (i : Nat) : (State.cogStart s i).tb = s.tb ∧ (State.cogStart s i).pending = s.pending ∧ (State.cogStart s i).mem = s.mem := by
  unfold State.cogStart; dsimp only; refine ⟨?_, ?_, ?_⟩ <;> (repeat' split) <;> simp

@[simp] theorem State.enableNow_keeps (s : State) (p : Nat) : (s.enableNow p).tb = s.tb ∧ (s.enableNow p).pending = s.pending ∧ (s.enableNow p).mem = s.mem := by
  simp [State.enableNow]

@[simp] theorem State.pageEnable_keeps (s : State) (p : Nat) : (s.pageEnable p).tb = s.tb ∧ (s.pageEnable p).pending = s.pending ∧ (s.pageEnable p).mem = s.mem := by
  simp [State.pageEnable]

@[simp] theorem State.disableWait_keeps (s : State) (i : Nat) : (State.disableWait s i).tb = s.tb ∧ (State.disableWait s i).pending = s.pending ∧ (State.disableWait s i).mem = s.mem := by
  simp [State.disableWait]

@[simp] theorem State.pageDisable_keeps (s : State) (p : Nat) : (s.pageDisable p).tb = s.tb ∧ (s.pageDisable p).pending = s.pending ∧ (s.pageDisable p).mem = s.mem := by
  simp [State.pageDisable]

@[simp] theorem State.pendingStart_keeps (s : State) (i : Nat) : (s.pendingStart i).tb = s.tb ∧ (s.pendingStart i).pending = s.pending ∧ (s.pendingStart i).mem = s.mem := by
  simp [State.pendingStart]

@[simp] theorem State.drainDone_keeps (s : State) (p : Nat) : (s.drainDone p).tb = s.tb ∧ (s.drainDone p).pending = s.pending ∧ (s.drainDone p).mem = s.mem := by
  simp [State.drainDone]

@[simp] theorem State.newWait_keeps (s : State) (i : Nat) (v : Nat) : (State.newWait s i v).2.tb = s.tb ∧ (State.newWait s i v).2.pending = s.pending ∧ (State.newWait s i v).2.mem = s.mem := by
  simp [State.newWait]

@[simp] theorem State.enterWait_keeps (s : State) (i : Nat) (w : Waiting) : (State.enterWait s i w).tb = s.tb ∧ (State.enterWait s i w).pending = s.pending := by
  simp [State.enterWait]

@[simp] theorem State.waitOp_keeps (s : State) (i : Nat) : (State.waitOp s i).tb = s.tb ∧ (State.waitOp s i).pending = s.pending := by
  unfold State.waitOp; refine ⟨State.onTrigger_keeps State.tb _ _ _ _ ?_, State.onTrigger_keeps State.pending _ _ _ _ ?_⟩ <;> (intro v w; dsimp only; (repeat' split) <;> simp_all)

@[simp] theorem State.waitWake_keeps (s : State) (i : Nat) : (s.waitWake i).tb = s.tb ∧ (s.waitWake i).pending = s.pending ∧ (s.waitWake i).mem = s.mem := by
  unfold State.waitWake; refine ⟨?_, ?_, ?_⟩ <;> (repeat' split) <;> simp

@[simp] theorem State.stimOp_keeps (s : State) (i : Nat) : (State.stimOp s i).tb = s.tb ∧ (State.stimOp s i).pending = s.pending := by
  unfold State.stimOp; refine ⟨State.onTrigger_keeps State.tb _ _ _ _ ?_, State.onTrigger_keeps State.pending _ _ _ _ ?_⟩ <;> (intro v w; dsimp only; (repeat' split) <;> simp_all)

@[simp] theorem State.repairGo_keeps (s : State) (c : Nat) (data : Nat) : (s.repairGo c data).tb = s.tb ∧ (s.repairGo c data).pending = s.pending ∧ (s.repairGo c data).mem = s.mem := by
  simp [State.repairGo]

@[simp] theorem State.repairDone_keeps (s : State) (c : Nat) (k : Nat) : (s.repairDone c k).tb = s.tb ∧ (s.repairDone c k).pending = s.pending := by
  simp [State.repairDone]

@[simp] theorem State.repairsDue_keeps (s : State) : (s.repairsDue).tb = s.tb ∧ (s.repairsDue).pending = s.pending := by
  simp [State.repairsDue]

@[simp] theorem State.autoToken_keeps (s : State) (ch : Nat) (x : Nat) (arriving : Option Nat) : (State.autoToken s ch x arriving).tb = s.tb ∧ (State.autoToken s ch x arriving).pending = s.pending ∧ (State.autoToken s ch x arriving).mem = s.mem := by
  unfold State.autoToken; dsimp only; refine ⟨?_, ?_, ?_⟩ <;> (repeat' split) <;> simp

end Sys2Proof.Machine
end

