-- ==== Sys2Proof/Laws/Power.lean ====
section
/-! SUPPORT. What the operations of Machine/Power.lean leave: the timebase, the queue of commands and, where they write none, the bytes of the stores. -/

/-! The proofs of this file are elaborated one after another: as one text with the rest of the package, in parallel they would need more threads
than the memory holds. -/

set_option Elab.async false

namespace Sys2Proof.Machine

@[simp] theorem State.resetFields_keeps (s : State) (page : Nat → Bool) (keep : Nat → Fld → Bool) : (State.resetFields s page keep).tb = s.tb ∧ (State.resetFields s page keep).pending = s.pending ∧ (State.resetFields s page keep).mem = s.mem := by
  simp [State.resetFields]

@[simp] theorem State.retainRegs_keeps (s : State) (d : Nat) : (s.retainRegs d).tb = s.tb ∧ (s.retainRegs d).pending = s.pending ∧ (s.retainRegs d).mem = s.mem := by
  simp [State.retainRegs]

@[simp] theorem State.loseRegs_keeps (s : State) (d : Nat) : (s.loseRegs d).tb = s.tb ∧ (s.loseRegs d).pending = s.pending ∧ (s.loseRegs d).mem = s.mem := by
  simp [State.loseRegs]

@[simp] theorem State.dropRaises_keeps (s : State) (d : Nat) (mine : Nat → Bool) : (State.dropRaises s d mine).tb = s.tb ∧ (State.dropRaises s d mine).pending = s.pending ∧ (State.dropRaises s d mine).mem = s.mem := by
  simp [State.dropRaises]

@[simp] theorem State.dropArriving_keeps (s : State) : (State.dropArriving s).tb = s.tb ∧ (State.dropArriving s).pending = s.pending ∧ (State.dropArriving s).mem = s.mem := by
  simp [State.dropArriving]

@[simp] theorem State.dropCrossings_keeps (s : State) (d : Nat) : (s.dropCrossings d).tb = s.tb ∧ (s.dropCrossings d).pending = s.pending ∧ (s.dropCrossings d).mem = s.mem := by
  simp [State.dropCrossings]

@[simp] theorem State.resetCrossings_keeps (s : State) (p : Nat) : (State.resetCrossings s p).tb = s.tb ∧ (State.resetCrossings s p).pending = s.pending ∧ (State.resetCrossings s p).mem = s.mem := by
  simp [State.resetCrossings]

@[simp] theorem State.discardHeld_keeps (s : State) (c : Nat) : (s.discardHeld c).tb = s.tb ∧ (s.discardHeld c).pending = s.pending ∧ (s.discardHeld c).mem = s.mem := by
  simp [State.discardHeld]

@[simp] theorem State.condsFalse_keeps (s : State) (mine : Nat → Bool) : (State.condsFalse s mine).tb = s.tb ∧ (State.condsFalse s mine).pending = s.pending ∧ (State.condsFalse s mine).mem = s.mem := by
  simp [State.condsFalse]

@[simp] theorem State.dropEvents_keeps (s : State) : (State.dropEvents s).tb = s.tb ∧ (State.dropEvents s).pending = s.pending ∧ (State.dropEvents s).mem = s.mem := by
  simp [State.dropEvents]

@[simp] theorem State.dropFabric_keeps (s : State) : (s.dropFabric).tb = s.tb ∧ (s.dropFabric).pending = s.pending ∧ (s.dropFabric).mem = s.mem := by
  simp [State.dropFabric]

@[simp] theorem State.dropLive_keeps (s : State) (d : Nat) : (s.dropLive d).tb = s.tb ∧ (s.dropLive d).pending = s.pending := by
  simp [State.dropLive]

@[simp] theorem State.powerOff_keeps (s : State) (d : Nat) : (s.powerOff d).tb = s.tb ∧ (s.powerOff d).pending = s.pending := by
  simp [State.powerOff]

@[simp] theorem State.powerRetain_keeps (s : State) (d : Nat) : (State.powerRetain s d).tb = s.tb ∧ (State.powerRetain s d).pending = s.pending ∧ (State.powerRetain s d).mem = s.mem := by
  simp [State.powerRetain]

@[simp] theorem State.enterDomain_keeps (s : State) (d : Nat) (t : DomSt) : (s.enterDomain d t).tb = s.tb ∧ (s.enterDomain d t).pending = s.pending ∧ (s.enterDomain d t).mem = s.mem := by
  simp [State.enterDomain]

@[simp] theorem State.countRequest_keeps (s : State) (p : Nat) (off : Nat) (v : Nat) (data : Nat) : (s.countRequest p off v data).tb = s.tb ∧ (s.countRequest p off v data).pending = s.pending ∧ (s.countRequest p off v data).mem = s.mem := by
  simp [State.countRequest]

@[simp] theorem State.takeRequest_keeps (s : State) (d : Nat) (v : Nat) : (s.takeRequest d v).tb = s.tb ∧ (s.takeRequest d v).pending = s.pending ∧ (s.takeRequest d v).mem = s.mem := by
  unfold State.takeRequest; dsimp only; refine ⟨?_, ?_, ?_⟩ <;> (repeat' split) <;> simp

@[simp] theorem State.domainRequest_keeps (s : State) (d : Nat) (v : Nat) : (s.domainRequest d v).tb = s.tb ∧ (s.domainRequest d v).pending = s.pending ∧ (s.domainRequest d v).mem = s.mem := by
  unfold State.domainRequest; refine ⟨?_, ?_, ?_⟩ <;> (repeat' split) <;> simp

@[simp] theorem State.completeEntry_keeps (s : State) (d : Nat) (t : DomSt) : (s.completeEntry d t).tb = s.tb ∧ (s.completeEntry d t).pending = s.pending := by
  simp [State.completeEntry]

@[simp] theorem State.domainEntry_keeps (s : State) (d : Nat) : (State.domainEntry s d).tb = s.tb ∧ (State.domainEntry s d).pending = s.pending := by
  unfold State.domainEntry; dsimp only; refine ⟨?_, ?_⟩ <;> (repeat' split) <;> simp

@[simp] theorem State.wakeSet_keeps (s : State) (b : Nat) : (s.wakeSet b).tb = s.tb ∧ (s.wakeSet b).pending = s.pending ∧ (s.wakeSet b).mem = s.mem := by
  simp [State.wakeSet]

@[simp] theorem State.linkWake_keeps (s : State) (d : Nat) : (s.linkWake d).tb = s.tb ∧ (s.linkWake d).pending = s.pending ∧ (s.linkWake d).mem = s.mem := by
  simp [State.linkWake]

@[simp] theorem State.pcieWake_keeps (s : State) : (State.pcieWake s).tb = s.tb ∧ (State.pcieWake s).pending = s.pending ∧ (State.pcieWake s).mem = s.mem := by
  simp [State.pcieWake]

@[simp] theorem State.pcieLink_keeps (s : State) (speed : Nat) (width : Nat) (l1 : Bool) (conf : PcieConf) (aerClear : BitVec 32) : (State.pcieLink s speed width l1 conf aerClear).tb = s.tb ∧ (State.pcieLink s speed width l1 conf aerClear).pending = s.pending ∧ (State.pcieLink s speed width l1 conf aerClear).mem = s.mem := by
  simp [State.pcieLink]

@[simp] theorem State.confWritten_keeps (s : State) (conf : Option PcieConf) : (s.confWritten conf).tb = s.tb ∧ (s.confWritten conf).pending = s.pending ∧ (s.confWritten conf).mem = s.mem := by
  unfold State.confWritten; refine ⟨?_, ?_, ?_⟩ <;> (repeat' split) <;> simp

@[simp] theorem State.confWritten_none (s : State) : s.confWritten none = s := rfl

@[simp] theorem State.domainWake_keeps (s : State) (w : WakeSource) : (s.domainWake w).tb = s.tb ∧ (s.domainWake w).pending = s.pending ∧ (s.domainWake w).mem = s.mem := by
  unfold State.domainWake; dsimp only; refine ⟨?_, ?_, ?_⟩ <;> (repeat' split) <;> simp

@[simp] theorem State.pinWake_keeps (s : State) (n : Nat) : (s.pinWake n).tb = s.tb ∧ (s.pinWake n).pending = s.pending ∧ (s.pinWake n).mem = s.mem := by
  simp [State.pinWake]

@[simp] theorem State.wakeLevel_keeps (s : State) (n : Nat) (level : Bool) : (State.wakeLevel s n level).tb = s.tb ∧ (State.wakeLevel s n level).pending = s.pending ∧ (State.wakeLevel s n level).mem = s.mem := by
  simp [State.wakeLevel]

@[simp] theorem State.inputActs_keeps (s : State) (k : Nat) (level : Bool) (at_ : Nat) : (State.inputActs s k level at_).tb = s.tb ∧ (State.inputActs s k level at_).pending = s.pending ∧ (State.inputActs s k level at_).mem = s.mem := by
  simp [State.inputActs]

@[simp] theorem State.inputChange_keeps (s : State) (k : Nat) (level : Bool) : (State.inputChange s k level).tb = s.tb ∧ (State.inputChange s k level).pending = s.pending ∧ (State.inputChange s k level).mem = s.mem := by
  unfold State.inputChange; refine ⟨?_, ?_, ?_⟩ <;> (repeat' split) <;> simp

@[simp] theorem State.inputsDue_keeps (s : State) : (State.inputsDue s).tb = s.tb ∧ (State.inputsDue s).pending = s.pending ∧ (State.inputsDue s).mem = s.mem := by
  simp [State.inputsDue]

@[simp] theorem State.levelWakes_keeps (s : State) : (s.levelWakes).tb = s.tb ∧ (s.levelWakes).pending = s.pending ∧ (s.levelWakes).mem = s.mem := by
  simp [State.levelWakes]

@[simp] theorem State.powerAlarm_keeps (s : State) : (s.powerAlarm).tb = s.tb ∧ (s.powerAlarm).pending = s.pending ∧ (s.powerAlarm).mem = s.mem := by
  simp [State.powerAlarm]

@[simp] theorem State.showStale_keeps (s : State) (d : Nat) : (s.showStale d).tb = s.tb ∧ (s.showStale d).pending = s.pending ∧ (s.showStale d).mem = s.mem := by
  simp [State.showStale]

@[simp] theorem State.cogReturn_keeps (s : State) (i : Nat) : (State.cogReturn s i).tb = s.tb ∧ (State.cogReturn s i).pending = s.pending ∧ (State.cogReturn s i).mem = s.mem := by
  unfold State.cogReturn; dsimp only; refine ⟨?_, ?_, ?_⟩ <;> (repeat' split) <;> simp

@[simp] theorem State.forwardHeld_keeps (s : State) (c : Nat) : (s.forwardHeld c).tb = s.tb ∧ (s.forwardHeld c).pending = s.pending ∧ (s.forwardHeld c).mem = s.mem := by
  simp [State.forwardHeld]

@[simp] theorem State.forwardCads_keeps (s : State) : (s.forwardCads).tb = s.tb ∧ (s.forwardCads).pending = s.pending ∧ (s.forwardCads).mem = s.mem := by
  simp [State.forwardCads]

@[simp] theorem State.returnRet_keeps (s : State) (d : Nat) : (s.returnRet d).tb = s.tb ∧ (s.returnRet d).pending = s.pending ∧ (s.returnRet d).mem = s.mem := by
  simp [State.returnRet]

@[simp] theorem State.wakeGates_keeps (s : State) (c : Nat) : (s.wakeGates c).tb = s.tb ∧ (s.wakeGates c).pending = s.pending ∧ (s.wakeGates c).mem = s.mem := by
  simp [State.wakeGates]

@[simp] theorem State.showFail_keeps (s : State) (d : Nat) : (s.showFail d).tb = s.tb ∧ (s.showFail d).pending = s.pending ∧ (s.showFail d).mem = s.mem := by
  simp [State.showFail]

@[simp] theorem State.domainRestore_keeps (s : State) (d : Nat) : (s.domainRestore d).tb = s.tb ∧ (s.domainRestore d).pending = s.pending ∧ (s.domainRestore d).mem = s.mem := by
  simp [State.domainRestore]

@[simp] theorem State.restoreFail_keeps (s : State) (d : Nat) : (s.restoreFail d).tb = s.tb ∧ (s.restoreFail d).pending = s.pending := by
  simp [State.restoreFail]

@[simp] theorem State.trackIdle_keeps (s : State) (d : Nat) : (s.trackIdle d).tb = s.tb ∧ (s.trackIdle d).pending = s.pending ∧ (s.trackIdle d).mem = s.mem := by
  unfold State.trackIdle; dsimp only; refine ⟨?_, ?_, ?_⟩ <;> (repeat' split) <;> simp

@[simp] theorem State.idleRule_keeps (s : State) (d : Nat) : (s.idleRule d).tb = s.tb ∧ (s.idleRule d).pending = s.pending ∧ (s.idleRule d).mem = s.mem := by
  unfold State.idleRule; dsimp only; refine ⟨?_, ?_, ?_⟩ <;> (repeat' split) <;> simp

@[simp] theorem State.detach_keeps (s : State) : (s.detach).tb = s.tb ∧ (s.detach).pending = s.pending ∧ (s.detach).mem = s.mem := by
  refine ⟨?_, ?_, ?_⟩
  · unfold State.detach
    rw [foldl_keeps State.tb _ (fun t x => ?_)]
    (repeat' split) <;> simp
  · unfold State.detach
    rw [foldl_keeps State.pending _ (fun t x => ?_)]
    (repeat' split) <;> simp
  · unfold State.detach
    rw [foldl_keeps State.mem _ (fun t x => ?_)]
    (repeat' split) <;> simp

end Sys2Proof.Machine
end

