-- ==== Sys2Proof/Laws/Governor.lean ====
section
/-! SUPPORT. What the operations of Machine/Governor.lean leave: the timebase, the queue of commands and, where they write none, the bytes of the stores. -/

/-! The proofs of this file are elaborated one after another: as one text with the rest of the package, in parallel they would need more threads
than the memory holds. -/

set_option Elab.async false

namespace Sys2Proof.Machine

@[simp] theorem State.pmbTries_keeps (s : State) (nacks : Nat) (pecs : Nat) : (s.pmbTries nacks pecs).2.tb = s.tb ∧ (s.pmbTries nacks pecs).2.pending = s.pending ∧ (s.pmbTries nacks pecs).2.mem = s.mem := by
  unfold State.pmbTries; dsimp only; refine ⟨?_, ?_, ?_⟩ <;> (repeat' split) <;> simp

@[simp] theorem State.pmbSend_keeps (s : State) (addr : Nat) (cmd : Nat) (data : Option Nat) (nacks : Nat) (pecs : Nat) : (s.pmbSend addr cmd data nacks pecs).2.tb = s.tb ∧ (s.pmbSend addr cmd data nacks pecs).2.pending = s.pending ∧ (s.pmbSend addr cmd data nacks pecs).2.mem = s.mem := by
  simp [State.pmbSend]

@[simp] theorem State.pmbPage_keeps (s : State) (q : Nat) : (s.pmbPage q).tb = s.tb ∧ (s.pmbPage q).pending = s.pending ∧ (s.pmbPage q).mem = s.mem := by
  simp [State.pmbPage]

/-- What a change keeps, it keeps under what the command tells of the bus. -/
@[simp] theorem State.withBus_tb (s : State) (r : PmbReply) (f : State → State) (h : ∀ t, (f t).tb = t.tb) : (s.withBus r f).tb = s.tb := h _

@[simp] theorem State.withBus_pending (s : State) (r : PmbReply) (f : State → State) (h : ∀ t, (f t).pending = t.pending) : (s.withBus r f).pending = s.pending := h _

@[simp] theorem State.withBus_mem (s : State) (r : PmbReply) (f : State → State) (h : ∀ t, (f t).mem = t.mem) : (s.withBus r f).mem = s.mem := h _

@[simp] theorem State.pmbPut_keeps (s : State) (addr : Nat) (cmd : Nat) (data : Option Nat) : (State.pmbPut s addr cmd data).tb = s.tb ∧ (State.pmbPut s addr cmd data).pending = s.pending ∧ (State.pmbPut s addr cmd data).mem = s.mem := by
  simp [State.pmbPut]

@[simp] theorem State.pmbWrite_keeps (s : State) (q : Nat) (cmd : Nat) (data : Nat) : (s.pmbWrite q cmd data).tb = s.tb ∧ (s.pmbWrite q cmd data).pending = s.pending ∧ (s.pmbWrite q cmd data).mem = s.mem := by
  simp [State.pmbWrite]

@[simp] theorem State.pmbRead_keeps (s : State) (q : Nat) (cmd : Nat) (r : PmbReply) : (s.pmbRead q cmd r).2.tb = s.tb ∧ (s.pmbRead q cmd r).2.pending = s.pending ∧ (s.pmbRead q cmd r).2.mem = s.mem := by
  simp [State.pmbRead]

@[simp] theorem State.govCommand_keeps (s : State) (q : Nat) (v : Nat) : (State.govCommand s q v).tb = s.tb ∧ (State.govCommand s q v).pending = s.pending ∧ (State.govCommand s q v).mem = s.mem := by
  simp [State.govCommand]

@[simp] theorem State.govBegin_keeps (s : State) (q : Nat) (v : Nat) : (s.govBegin q v).tb = s.tb ∧ (s.govBegin q v).pending = s.pending ∧ (s.govBegin q v).mem = s.mem := by
  simp [State.govBegin]

@[simp] theorem State.govChange_keeps (s : State) (q : Nat) (v : Nat) : (s.govChange q v).tb = s.tb ∧ (s.govChange q v).pending = s.pending ∧ (s.govChange q v).mem = s.mem := by
  unfold State.govChange; dsimp only; refine ⟨?_, ?_, ?_⟩ <;> (repeat' split) <;> simp

@[simp] theorem State.govFault_keeps (s : State) (q : Nat) : (s.govFault q).tb = s.tb ∧ (s.govFault q).pending = s.pending ∧ (s.govFault q).mem = s.mem := by
  simp [State.govFault]

@[simp] theorem State.govSettle_keeps (s : State) (q : Nat) : (s.govSettle q).tb = s.tb ∧ (s.govSettle q).pending = s.pending := by
  unfold State.govSettle; dsimp only; refine ⟨?_, ?_⟩ <;> (repeat' split) <;> simp

@[simp] theorem State.measureVout_keeps (s : State) (q : Nat) (r : PmbReply) : (s.measureVout q r).2.tb = s.tb ∧ (s.measureVout q r).2.pending = s.pending ∧ (s.measureVout q r).2.mem = s.mem := by
  unfold State.measureVout; dsimp only; refine ⟨?_, ?_, ?_⟩ <;> (repeat' split) <;> simp

@[simp] theorem State.assistOff_keeps (s : State) (q : Nat) (m : Nat) : (State.assistOff s q m).tb = s.tb ∧ (State.assistOff s q m).pending = s.pending ∧ (State.assistOff s q m).mem = s.mem := by
  simp [State.assistOff]

@[simp] theorem State.readVout_keeps (s : State) (q : Nat) (r : PmbReply) : (s.readVout q r).tb = s.tb ∧ (s.readVout q r).pending = s.pending := by
  unfold State.readVout; dsimp only; refine ⟨?_, ?_⟩ <;> (repeat' split) <;> simp

@[simp] theorem State.meterReset_keeps (s : State) (i : Nat) : (s.meterReset i).tb = s.tb ∧ (s.meterReset i).pending = s.pending ∧ (s.meterReset i).mem = s.mem := by
  simp [State.meterReset]

@[simp] theorem State.govMeasure_keeps (s : State) (q : Nat) : (s.govMeasure q).2.2.2.tb = s.tb ∧ (s.govMeasure q).2.2.2.pending = s.pending ∧ (s.govMeasure q).2.2.2.mem = s.mem := by
  simp [State.govMeasure]

@[simp] theorem State.govTarget_keeps (s : State) (q : Nat) (g : Gov) (n : Bool) (v : Nat) : (s.govTarget q g n v).tb = s.tb ∧ (s.govTarget q g n v).pending = s.pending ∧ (s.govTarget q g n v).mem = s.mem := by
  simp [State.govTarget]

@[simp] theorem State.governorPeriod_keeps (s : State) (q : Nat) (iout : PmbReply) : (s.governorPeriod q iout).tb = s.tb ∧ (s.governorPeriod q iout).pending = s.pending ∧ (s.governorPeriod q iout).mem = s.mem := by
  unfold State.governorPeriod; dsimp only; refine ⟨?_, ?_, ?_⟩ <;> (repeat' split) <;> simp

@[simp] theorem State.govManual_keeps (s : State) (q : Nat) : (s.govManual q).tb = s.tb ∧ (s.govManual q).pending = s.pending ∧ (s.govManual q).mem = s.mem := by
  simp [State.govManual]

@[simp] theorem State.writeGovSet_keeps (s : State) (q : Nat) (data : Nat) : (s.writeGovSet q data).tb = s.tb ∧ (s.writeGovSet q data).pending = s.pending ∧ (s.writeGovSet q data).mem = s.mem := by
  simp [State.writeGovSet]

@[simp] theorem State.govStart_keeps (s : State) (q : Nat) (mode : PmbReply) : (s.govStart q mode).tb = s.tb ∧ (s.govStart q mode).pending = s.pending ∧ (s.govStart q mode).mem = s.mem := by
  unfold State.govStart; dsimp only; refine ⟨?_, ?_, ?_⟩ <;> (repeat' split) <;> simp

@[simp] theorem State.writeGovCtrl_keeps (s : State) (q : Nat) (data : Nat) (mode : PmbReply) : (s.writeGovCtrl q data mode).tb = s.tb ∧ (s.writeGovCtrl q data mode).pending = s.pending := by
  simp [State.writeGovCtrl]

@[simp] theorem State.pmbPageOf_keeps (s : State) (addr : Nat) : (State.pmbPageOf s addr).tb = s.tb ∧ (State.pmbPageOf s addr).pending = s.pending ∧ (State.pmbPageOf s addr).mem = s.mem := by
  unfold State.pmbPageOf; refine ⟨?_, ?_, ?_⟩ <;> (repeat' split) <;> simp

@[simp] theorem State.alertRead_keeps (s : State) (addr : Option (BitVec 7)) (status : PmbReply) : (State.alertRead s addr status).tb = s.tb ∧ (State.alertRead s addr status).pending = s.pending ∧ (State.alertRead s addr status).mem = s.mem := by
  unfold State.alertRead; dsimp only; refine ⟨?_, ?_, ?_⟩ <;> (repeat' split) <;> simp

@[simp] theorem State.pmbAlert_keeps (s : State) (addr : Option (BitVec 7)) (status : PmbReply) (low : Bool) : (State.pmbAlert s addr status low).tb = s.tb ∧ (State.pmbAlert s addr status low).pending = s.pending ∧ (State.pmbAlert s addr status low).mem = s.mem := by
  simp [State.pmbAlert]

@[simp] theorem State.uvReport_keeps (s : State) (q : Nat) : (s.uvReport q).tb = s.tb ∧ (s.uvReport q).pending = s.pending ∧ (s.uvReport q).mem = s.mem := by
  simp [State.uvReport]

@[simp] theorem State.uvInject_keeps (s : State) (q : Nat) : (s.uvInject q).tb = s.tb ∧ (s.uvInject q).pending = s.pending ∧ (s.uvInject q).mem = s.mem := by
  simp [State.uvInject]

end Sys2Proof.Machine
end

