-- ==== Sys2Proof/Laws/Resets.lean ====
section
/-! SUPPORT. What the operations of Machine/Resets.lean leave: the timebase, the queue of commands and, where they write none, the bytes of the stores. -/

/-! The proofs of this file are elaborated one after another: as one text with the rest of the package, in parallel they would need more threads
than the memory holds. -/

set_option Elab.async false

namespace Sys2Proof.Machine

@[simp] theorem State.softCad_keeps (s : State) (n : Nat) : (State.softCad s n).tb = s.tb ∧ (State.softCad s n).pending = s.pending ∧ (State.softCad s n).mem = s.mem := by
  simp [State.softCad]

@[simp] theorem State.softAxes_keeps (s : State) : (State.softAxes s).tb = s.tb ∧ (State.softAxes s).pending = s.pending ∧ (State.softAxes s).mem = s.mem := by
  simp [State.softAxes]

@[simp] theorem State.clearJrn_keeps (s : State) : (State.clearJrn s).tb = s.tb ∧ (State.clearJrn s).pending = s.pending ∧ (State.clearJrn s).mem = s.mem := by
  simp [State.clearJrn]

@[simp] theorem State.softLive_keeps (s : State) (p : Nat) : (s.softLive p).tb = s.tb ∧ (s.softLive p).pending = s.pending ∧ (s.softLive p).mem = s.mem := by
  unfold State.softLive; refine ⟨?_, ?_, ?_⟩ <;> (repeat' split) <;> simp

@[simp] theorem State.keepFields_keeps (t : State) (s : State) (l : List (Nat × Fld × Nat)) : (State.keepFields t s l).tb = t.tb ∧ (State.keepFields t s l).pending = t.pending ∧ (State.keepFields t s l).mem = t.mem := by
  simp [State.keepFields]

@[simp] theorem State.keepPins_keeps (t : State) (s : State) : (t.keepPins s).tb = t.tb ∧ (t.keepPins s).pending = t.pending ∧ (t.keepPins s).mem = t.mem := by
  simp [State.keepPins]

@[simp] theorem State.softReset_keeps (s : State) (p : Nat) : (s.softReset p).tb = s.tb ∧ (s.softReset p).pending = s.pending ∧ (s.softReset p).mem = s.mem := by
  simp [State.softReset]

@[simp] theorem State.pageRequest_keeps (s : State) (p : Nat) (data : Nat) : (s.pageRequest p data).tb = s.tb ∧ (s.pageRequest p data).pending = s.pending ∧ (s.pageRequest p data).mem = s.mem := by
  simp [State.pageRequest]

@[simp] theorem State.writePgCtrl_keeps (s : State) (p : Nat) (data : Nat) : (s.writePgCtrl p data).tb = s.tb ∧ (s.writePgCtrl p data).pending = s.pending ∧ (s.writePgCtrl p data).mem = s.mem := by
  simp [State.writePgCtrl]

@[simp] theorem State.setOtp_keeps (s : State) (w : Nat) (v : Nat) : (s.setOtp w v).tb = s.tb ∧ (s.setOtp w v).pending = s.pending ∧ (s.setOtp w v).mem = s.mem := by
  simp [State.setOtp]

@[simp] theorem State.installMap_keeps (s : State) : (s.installMap).tb = s.tb ∧ (s.installMap).pending = s.pending ∧ (s.installMap).mem = s.mem := by
  simp [State.installMap]

theorem State.afterReset_keeps (s : State) (cause : Nat) : (s.afterReset cause).tb = 0 ∧ (s.afterReset cause).pending = s.pending := by
  unfold State.afterReset
  dsimp only
  refine ⟨?_, ?_⟩ <;> simp
  rfl

@[simp] theorem State.deviceReset_keeps (s : State) (cause : Nat) : (s.deviceReset cause).tb = s.tb ∧ (s.deviceReset cause).pending = s.pending := by
  unfold State.deviceReset
  simp [State.afterReset_keeps]

@[simp] theorem State.requestReset_keeps (s : State) (cause : Nat) : (s.requestReset cause).tb = s.tb ∧ (s.requestReset cause).pending = s.pending := by
  unfold State.requestReset; refine ⟨?_, ?_⟩ <;> (repeat' split) <;> simp

@[simp] theorem State.mramCut_keeps (s : State) : (State.mramCut s).tb = s.tb ∧ (State.mramCut s).pending = s.pending := by
  simp [State.mramCut]

@[simp] theorem State.otpCut_keeps (s : State) : (State.otpCut s).tb = s.tb ∧ (State.otpCut s).pending = s.pending ∧ (State.otpCut s).mem = s.mem := by
  unfold State.otpCut; dsimp only; refine ⟨?_, ?_, ?_⟩ <;> (repeat' split) <;> simp

theorem State.powerOn_keeps (s : State) (timeref railsOk : Bool) : (s.powerOn timeref railsOk).tb = 0 ∧ (s.powerOn timeref railsOk).pending = s.pending := by
  unfold State.powerOn
  cases railsOk <;> simp [State.afterReset_keeps]

@[simp] theorem State.releaseHold_keeps (s : State) (out : Nat) : (State.releaseHold s out).tb = s.tb ∧ (State.releaseHold s out).pending = s.pending ∧ (State.releaseHold s out).mem = s.mem := by
  simp [State.releaseHold]

@[simp] theorem State.pcieReset_keeps (s : State) : (s.pcieReset).tb = s.tb ∧ (s.pcieReset).pending = s.pending ∧ (s.pcieReset).mem = s.mem := by
  simp [State.pcieReset]

end Sys2Proof.Machine
end

