-- ==== Sys2Proof/Laws/Health.lean ====
section
/-! SUPPORT. What the operations of Machine/Health.lean leave: the timebase, the queue of commands and, where they write none, the bytes of the stores. -/

/-! The proofs of this file are elaborated one after another: as one text with the rest of the package, in parallel they would need more threads
than the memory holds. -/

set_option Elab.async false

namespace Sys2Proof.Machine

@[simp] theorem State.tempConversion_keeps (s : State) (n : Nat) (v : BitVec 12) : (s.tempConversion n v).tb = s.tb ∧ (s.tempConversion n v).pending = s.pending ∧ (s.tempConversion n v).mem = s.mem := by
  simp [State.tempConversion]

@[simp] theorem State.mramWaited_keeps (s : State) : (State.mramWaited s).tb = s.tb ∧ (State.mramWaited s).pending = s.pending := by
  simp [State.mramWaited]

@[simp] theorem State.showRails_keeps (s : State) (low : Nat) (high : Nat) : (s.showRails low high).tb = s.tb ∧ (s.showRails low high).pending = s.pending := by
  simp [State.showRails]

@[simp] theorem State.railSample_keeps (s : State) (low : Nat) (high : Nat) : (s.railSample low high).tb = s.tb ∧ (s.railSample low high).pending = s.pending := by
  simp [State.railSample]

@[simp] theorem State.railInject_keeps (s : State) : (s.railInject).tb = s.tb ∧ (s.railInject).pending = s.pending := by
  simp [State.railInject]

@[simp] theorem State.srefLoss_keeps (s : State) : (s.srefLoss).tb = s.tb ∧ (s.srefLoss).pending = s.pending ∧ (s.srefLoss).mem = s.mem := by
  simp [State.srefLoss]

@[simp] theorem State.vector8_keeps (s : State) (i : Nat) : (State.vector8 s i).tb = s.tb ∧ (State.vector8 s i).pending = s.pending ∧ (State.vector8 s i).mem = s.mem := by
  simp [State.vector8]

@[simp] theorem State.wdtWarn_keeps (s : State) (i : Nat) : (s.wdtWarn i).tb = s.tb ∧ (s.wdtWarn i).pending = s.pending ∧ (s.wdtWarn i).mem = s.mem := by
  simp [State.wdtWarn]

@[simp] theorem State.wdtExpire_keeps (s : State) (i : Nat) : (s.wdtExpire i).tb = s.tb ∧ (s.wdtExpire i).pending = s.pending ∧ (s.wdtExpire i).mem = s.mem := by
  unfold State.wdtExpire; dsimp only; refine ⟨?_, ?_, ?_⟩ <;> (repeat' split) <;> simp

@[simp] theorem State.wdtReachWarn_keeps (s : State) (i : Nat) : (s.wdtReachWarn i).tb = s.tb ∧ (s.wdtReachWarn i).pending = s.pending ∧ (s.wdtReachWarn i).mem = s.mem := by
  simp [State.wdtReachWarn]

@[simp] theorem State.wdtReachZero_keeps (s : State) (i : Nat) : (s.wdtReachZero i).tb = s.tb ∧ (s.wdtReachZero i).pending = s.pending ∧ (s.wdtReachZero i).mem = s.mem := by
  simp [State.wdtReachZero]

@[simp] theorem State.wdtCount_keeps (s : State) (i : Nat) : (s.wdtCount i).tb = s.tb ∧ (s.wdtCount i).pending = s.pending ∧ (s.wdtCount i).mem = s.mem := by
  simp [State.wdtCount]

@[simp] theorem State.writeCogWdt_keeps (s : State) (i : Nat) (data : Nat) : (s.writeCogWdt i data).tb = s.tb ∧ (s.writeCogWdt i data).pending = s.pending ∧ (s.writeCogWdt i data).mem = s.mem := by
  simp [State.writeCogWdt]

@[simp] theorem State.writeCogWdtCnt_keeps (s : State) (i : Nat) (data : Nat) : (s.writeCogWdtCnt i data).tb = s.tb ∧ (s.writeCogWdtCnt i data).pending = s.pending ∧ (s.writeCogWdtCnt i data).mem = s.mem := by
  simp [State.writeCogWdtCnt]

@[simp] theorem State.brakeIn_keeps (s : State) : (s.brakeIn).tb = s.tb ∧ (s.brakeIn).pending = s.pending ∧ (s.brakeIn).mem = s.mem := by
  simp [State.brakeIn]

@[simp] theorem State.brakeInInject_keeps (s : State) : (State.brakeInInject s).tb = s.tb ∧ (State.brakeInInject s).pending = s.pending ∧ (State.brakeInInject s).mem = s.mem := by
  simp [State.brakeInInject]

@[simp] theorem State.brakeClear_keeps (s : State) : (s.brakeClear).tb = s.tb ∧ (s.brakeClear).pending = s.pending ∧ (s.brakeClear).mem = s.mem := by
  simp [State.brakeClear]

@[simp] theorem State.writeHltBrake_keeps (s : State) (data : Nat) : (s.writeHltBrake data).tb = s.tb ∧ (s.writeHltBrake data).pending = s.pending ∧ (s.writeHltBrake data).mem = s.mem := by
  simp [State.writeHltBrake]

@[simp] theorem State.writeHltTcfg_keeps (s : State) (data : Nat) : (s.writeHltTcfg data).tb = s.tb ∧ (s.writeHltTcfg data).pending = s.pending ∧ (s.writeHltTcfg data).mem = s.mem := by
  simp [State.writeHltTcfg]

end Sys2Proof.Machine
end

