-- ==== Sys2Proof/Laws/Debug.lean ====
section
/-! SUPPORT. What the operations of Machine/Debug.lean leave: the timebase, the queue of commands and, where they write none, the bytes of the stores. -/

/-! The proofs of this file are elaborated one after another: as one text with the rest of the package, in parallel they would need more threads
than the memory holds. -/

set_option Elab.async false

namespace Sys2Proof.Machine

@[simp] theorem State.resumeCog_keeps (s : State) (i : Nat) (step : Bool) : (State.resumeCog s i step).tb = s.tb ∧ (State.resumeCog s i step).pending = s.pending := by
  simp [State.resumeCog]

@[simp] theorem State.writeCogDbg_keeps (s : State) (i : Nat) (data : Nat) : (State.writeCogDbg s i data).tb = s.tb ∧ (State.writeCogDbg s i data).pending = s.pending := by
  simp [State.writeCogDbg]

@[simp] theorem State.dbgRead_keeps (s : State) (i : Nat) : (s.dbgRead i).2.tb = s.tb ∧ (s.dbgRead i).2.pending = s.pending ∧ (s.dbgRead i).2.mem = s.mem := by
  unfold State.dbgRead; refine ⟨?_, ?_, ?_⟩ <;> (repeat' split) <;> simp

@[simp] theorem State.dbgPlace_keeps (s : State) (i : Nat) (data : Nat) : (s.dbgPlace i data).2.tb = s.tb ∧ (s.dbgPlace i data).2.pending = s.pending ∧ (s.dbgPlace i data).2.mem = s.mem := by
  unfold State.dbgPlace; dsimp only; refine ⟨?_, ?_, ?_⟩ <;> (repeat' split) <;> simp

@[simp] theorem State.dbgHold_keeps (s : State) (i : Nat) (data : Nat) : (s.dbgHold i data).2.tb = s.tb ∧ (s.dbgHold i data).2.pending = s.pending ∧ (s.dbgHold i data).2.mem = s.mem := by
  unfold State.dbgHold; dsimp only; refine ⟨?_, ?_, ?_⟩ <;> (repeat' split) <;> simp

@[simp] theorem State.pelResume_keeps (s : State) (g : Nat) : (State.pelResume s g).tb = s.tb ∧ (State.pelResume s g).pending = s.pending := by
  simp [State.pelResume]

@[simp] theorem State.writePelCfg_keeps (s : State) (g : Nat) (data : Nat) : (State.writePelCfg s g data).tb = s.tb ∧ (State.writePelCfg s g data).pending = s.pending := by
  simp [State.writePelCfg]

@[simp] theorem State.setBench_keeps (s : State) (by_ : Option Nat) : (s.setBench by_).tb = s.tb ∧ (s.setBench by_).pending = s.pending ∧ (s.setBench by_).mem = s.mem := by
  simp [State.setBench]

@[simp] theorem State.writeBench_keeps (s : State) (j : Nat) (data : Nat) : (s.writeBench j data).tb = s.tb ∧ (s.writeBench j data).pending = s.pending ∧ (s.writeBench j data).mem = s.mem := by
  simp [State.writeBench]

@[simp] theorem State.tracePop_keeps (s : State) (data : Nat) : (s.tracePop data).tb = s.tb ∧ (s.tracePop data).pending = s.pending ∧ (s.tracePop data).mem = s.mem := by
  simp [State.tracePop]

end Sys2Proof.Machine
end

