-- ==== Sys2Proof/Laws/Boot.lean ====
section
/-! SUPPORT. What the operations of Machine/Boot.lean leave: the timebase, the queue of commands and, where they write none, the bytes of the stores. -/

/-! The proofs of this file are elaborated one after another: as one text with the rest of the package, in parallel they would need more threads
than the memory holds. -/

set_option Elab.async false

namespace Sys2Proof.Machine

@[simp] theorem State.bootRead_keeps (s : State) (c : Nat) (a : Nat) (n : Nat) : (State.bootRead s c a n).tb = s.tb ∧ (State.bootRead s c a n).pending = s.pending ∧ (State.bootRead s c a n).mem = s.mem := by
  simp [State.bootRead]

@[simp] theorem State.bootFail_keeps (s : State) (cause : Nat) : (s.bootFail cause).tb = s.tb ∧ (s.bootFail cause).pending = s.pending ∧ (s.bootFail cause).mem = s.mem := by
  simp [State.bootFail]

@[simp] theorem State.bootPass_keeps (s : State) (cause : Nat) : (s.bootPass cause).tb = s.tb ∧ (s.bootPass cause).pending = s.pending ∧ (s.bootPass cause).mem = s.mem := by
  simp [State.bootPass]

@[simp] theorem State.bootStart_keeps (s : State) : (s.bootStart).tb = s.tb ∧ (s.bootStart).pending = s.pending ∧ (s.bootStart).mem = s.mem := by
  simp [State.bootStart]

@[simp] theorem State.bootErase_keeps (s : State) : (s.bootErase).tb = s.tb ∧ (s.bootErase).pending = s.pending := by
  simp [State.bootErase]

@[simp] theorem State.bootCheck_keeps (s : State) : (s.bootCheck).tb = s.tb ∧ (s.bootCheck).pending = s.pending := by
  simp [State.bootCheck]

@[simp] theorem State.bootVerify_keeps (s : State) (cause : Nat) : (s.bootVerify cause).tb = s.tb ∧ (s.bootVerify cause).pending = s.pending ∧ (s.bootVerify cause).mem = s.mem := by
  simp [State.bootVerify]

@[simp] theorem State.bootStep_keeps (s : State) : (s.bootStep).tb = s.tb ∧ (s.bootStep).pending = s.pending := by
  unfold State.bootStep; refine ⟨?_, ?_⟩ <;> (repeat' split) <;> simp

@[simp] theorem State.bootGo_keeps (s : State) (data : Nat) : (s.bootGo data).tb = s.tb ∧ (s.bootGo data).pending = s.pending ∧ (s.bootGo data).mem = s.mem := by
  simp [State.bootGo]

@[simp] theorem State.writeOtpw_keeps (s : State) (data : Nat) : (s.writeOtpw data).tb = s.tb ∧ (s.writeOtpw data).pending = s.pending ∧ (s.writeOtpw data).mem = s.mem := by
  simp [State.writeOtpw]

@[simp] theorem State.otpDone_keeps (s : State) : (s.otpDone).tb = s.tb ∧ (s.otpDone).pending = s.pending := by
  unfold State.otpDone; dsimp only; refine ⟨?_, ?_⟩ <;> (repeat' split) <;> simp

@[simp] theorem State.writeElog_keeps (s : State) (data : Nat) : (s.writeElog data).tb = s.tb ∧ (s.writeElog data).pending = s.pending ∧ (s.writeElog data).mem = s.mem := by
  simp [State.writeElog]

theorem State.injectNow_keeps (s : State) (p b : Nat) (bus : PmbReply) (z : State) (h : s.injectNow p b bus = some z) : z.tb = s.tb ∧ z.pending = s.pending := by
  unfold State.injectNow at h
  dsimp only at h
  split at h <;> first | (cases h <;> simp; done) | (have k := State.injectStall_keeps s z h; exact ⟨k.1, k.2.1⟩)

@[simp] theorem State.writePgInj_keeps (s : State) (p data : Nat) (bus : PmbReply) : (s.writePgInj p data bus).tb = s.tb ∧ (s.writePgInj p data bus).pending = s.pending := by
  refine ⟨?_, ?_⟩
  · unfold State.writePgInj
    dsimp only
    unfold upTo
    rw [foldl_keeps State.tb _ (fun t b => ?_)]
    · simp
    · split
      · split
        · rename_i k
          simp [State.injectNow_keeps _ _ _ _ _ k]
        · rfl
      · rfl
  · unfold State.writePgInj
    dsimp only
    unfold upTo
    rw [foldl_keeps State.pending _ (fun t b => ?_)]
    · simp
    · split
      · split
        · rename_i k
          simp [State.injectNow_keeps _ _ _ _ _ k]
        · rfl
      · rfl

end Sys2Proof.Machine
end

