-- ==== Sys2Proof/Laws/Registers.lean ====
section
/-! SUPPORT. What the operations of Machine/Registers.lean leave: the timebase, the queue of commands and, where they write none, the bytes of the stores. -/

/-! The proofs of this file are elaborated one after another: as one text with the rest of the package, in parallel they would need more threads
than the memory holds. -/

set_option Elab.async false

namespace Sys2Proof.Machine

@[simp] theorem State.dropped_keeps (s : State) : (State.dropped s).2.tb = s.tb ∧ (State.dropped s).2.pending = s.pending ∧ (State.dropped s).2.mem = s.mem := by
  simp [State.dropped]

@[simp] theorem State.droppedErr_keeps (s : State) (p : Nat) (off : Nat) (data : Nat) : (s.droppedErr p off data).2.tb = s.tb ∧ (s.droppedErr p off data).2.pending = s.pending ∧ (s.droppedErr p off data).2.mem = s.mem := by
  simp [State.droppedErr]

@[simp] theorem State.writeHeader_keeps (s : State) (p : Nat) (off : Nat) (data : Nat) (bus : PmbReply) : (s.writeHeader p off data bus).tb = s.tb ∧ (s.writeHeader p off data bus).pending = s.pending := by
  simp [State.writeHeader]

@[simp] theorem State.writePwrDom_keeps (s : State) (d : Nat) (data : Nat) : (s.writePwrDom d data).tb = s.tb ∧ (s.writePwrDom d data).pending = s.pending ∧ (s.writePwrDom d data).mem = s.mem := by
  simp [State.writePwrDom]

@[simp] theorem State.writeFabCmd_keeps (s : State) (data : Nat) : (s.writeFabCmd data).tb = s.tb ∧ (s.writeFabCmd data).pending = s.pending ∧ (s.writeFabCmd data).mem = s.mem := by
  simp [State.writeFabCmd]

@[simp] theorem State.writeCadPlace_keeps (s : State) (n : Nat) (off : Nat) (data : Nat) : (s.writeCadPlace n off data).2.tb = s.tb ∧ (s.writeCadPlace n off data).2.pending = s.pending ∧ (s.writeCadPlace n off data).2.mem = s.mem := by
  unfold State.writeCadPlace; dsimp only; refine ⟨?_, ?_, ?_⟩ <;> (repeat' split) <;> simp

@[simp] theorem State.writeCad_keeps (s : State) (off : Nat) (data : Nat) : (s.writeCad off data).2.tb = s.tb ∧ (s.writeCad off data).2.pending = s.pending ∧ (s.writeCad off data).2.mem = s.mem := by
  unfold State.writeCad; dsimp only; refine ⟨?_, ?_, ?_⟩ <;> (repeat' split) <;> simp

@[simp] theorem State.writeStr_keeps (s : State) (p : Nat) (off : Nat) (data : Nat) : (s.writeStr p off data).tb = s.tb ∧ (s.writeStr p off data).pending = s.pending ∧ (s.writeStr p off data).mem = s.mem := by
  simp [State.writeStr]

@[simp] theorem State.writeVisPwr_keeps (s : State) (n : Nat) (data : Nat) : (s.writeVisPwr n data).tb = s.tb ∧ (s.writeVisPwr n data).pending = s.pending ∧ (s.writeVisPwr n data).mem = s.mem := by
  simp [State.writeVisPwr]

@[simp] theorem State.writeCogWord_keeps (s : State) (i : Nat) (off : Nat) (data : Nat) : (State.writeCogWord s i off data).2.tb = s.tb ∧ (State.writeCogWord s i off data).2.pending = s.pending := by
  unfold State.writeCogWord; dsimp only; refine ⟨?_, ?_⟩ <;> (repeat' split) <;> simp

@[simp] theorem State.writeFab_keeps (s : State) (off : Nat) (data : Nat) : (State.writeFab s off data).2.tb = s.tb ∧ (State.writeFab s off data).2.pending = s.pending := by
  unfold State.writeFab; dsimp only; refine ⟨?_, ?_⟩ <;> (repeat' split) <;> simp

@[simp] theorem State.writeTime_keeps (s : State) (p : Nat) (off : Nat) (data : Nat) : (s.writeTime p off data).2.tb = s.tb ∧ (s.writeTime p off data).2.pending = s.pending ∧ (s.writeTime p off data).2.mem = s.mem := by
  unfold State.writeTime; dsimp only; refine ⟨?_, ?_, ?_⟩ <;> (repeat' split) <;> simp

@[simp] theorem State.writeChn_keeps (s : State) (pg : Nat) (off : Nat) (data : Nat) : (s.writeChn pg off data).2.tb = s.tb ∧ (s.writeChn pg off data).2.pending = s.pending ∧ (s.writeChn pg off data).2.mem = s.mem := by
  unfold State.writeChn; dsimp only; refine ⟨?_, ?_, ?_⟩ <;> (repeat' split) <;> simp

@[simp] theorem State.writeVis_keeps (s : State) (pg : Nat) (off : Nat) (data : Nat) : (s.writeVis pg off data).2.tb = s.tb ∧ (s.writeVis pg off data).2.pending = s.pending ∧ (s.writeVis pg off data).2.mem = s.mem := by
  unfold State.writeVis; dsimp only; refine ⟨?_, ?_, ?_⟩ <;> (repeat' split) <;> simp

@[simp] theorem State.writeMve_keeps (s : State) (pg : Nat) (off : Nat) (data : Nat) : (s.writeMve pg off data).2.tb = s.tb ∧ (s.writeMve pg off data).2.pending = s.pending ∧ (s.writeMve pg off data).2.mem = s.mem := by
  unfold State.writeMve; dsimp only; refine ⟨?_, ?_, ?_⟩ <;> (repeat' split) <;> simp

@[simp] theorem State.writeQueue_keeps (s : State) (pg : Nat) (off : Nat) (data : Nat) : (s.writeQueue pg off data).tb = s.tb ∧ (s.writeQueue pg off data).pending = s.pending ∧ (s.writeQueue pg off data).mem = s.mem := by
  simp [State.writeQueue]

@[simp] theorem State.writeField_keeps (s : State) (pg : Nat) (off : Nat) (data : Nat) : (s.writeField pg off data).2.tb = s.tb ∧ (s.writeField pg off data).2.pending = s.pending ∧ (s.writeField pg off data).2.mem = s.mem := by
  unfold State.writeField; dsimp only; refine ⟨?_, ?_, ?_⟩ <;> (repeat' split) <;> simp

@[simp] theorem State.writeBlock_keeps (s : State) (p off data : Nat) (mode : PmbReply) (by_ : Option Nat) : ((s.writeBlock p off data mode by_).2).tb = s.tb ∧ ((s.writeBlock p off data mode by_).2).pending = s.pending := by
  unfold State.writeBlock
  dsimp only
  refine ⟨?_, ?_⟩ <;> (split <;> (repeat' split) <;> simp [State.dropped])

@[simp] theorem State.busWrite_keeps (s : State) (a data : Nat) (mode : PmbReply) (by_ : Option Nat) : ((s.busWrite a data mode by_).2).tb = s.tb ∧ ((s.busWrite a data mode by_).2).pending = s.pending := by
  unfold State.busWrite
  dsimp only
  refine ⟨?_, ?_⟩ <;> (repeat' split) <;> simp [State.dropped]

@[simp] theorem State.busRead_keeps (s : State) (a : Nat) (consume : Bool) : (s.busRead a consume).2.2.tb = s.tb ∧ (s.busRead a consume).2.2.pending = s.pending ∧ (s.busRead a consume).2.2.mem = s.mem := by
  unfold State.busRead; dsimp only; refine ⟨?_, ?_, ?_⟩ <;> (repeat' split) <;> simp

end Sys2Proof.Machine
end

