-- ==== Sys2Proof/Laws/Dau.lean ====
section
/-! SUPPORT. What the operations of Machine/Dau.lean leave: the timebase, the queue of commands and, where they write none, the bytes of the stores. -/

/-! The proofs of this file are elaborated one after another: as one text with the rest of the package, in parallel they would need more threads
than the memory holds. -/

set_option Elab.async false

namespace Sys2Proof.Machine

@[simp] theorem State.settleDau_keeps (s : State) (j : Nat) : (s.settleDau j).tb = s.tb ∧ (s.settleDau j).pending = s.pending ∧ (s.settleDau j).mem = s.mem := by
  simp [State.settleDau]

@[simp] theorem State.changeDau_keeps (s : State) (j : Nat) (x : Dau) : (s.changeDau j x).tb = s.tb ∧ (s.changeDau j x).pending = s.pending ∧ (s.changeDau j x).mem = s.mem := by
  simp [State.changeDau]

@[simp] theorem State.auReq_keeps (s : State) (j : Nat) : (s.auReq j).tb = s.tb ∧ (s.auReq j).pending = s.pending ∧ (s.auReq j).mem = s.mem := by
  simp [State.auReq]

@[simp] theorem State.nonceReady_keeps (s : State) (j : Nat) (words : List Nat) : (s.nonceReady j words).tb = s.tb ∧ (s.nonceReady j words).pending = s.pending ∧ (s.nonceReady j words).mem = s.mem := by
  simp [State.nonceReady]

@[simp] theorem State.auChk_keeps (s : State) (j : Nat) : (s.auChk j).tb = s.tb ∧ (s.auChk j).pending = s.pending ∧ (s.auChk j).mem = s.mem := by
  unfold State.auChk; dsimp only; refine ⟨?_, ?_, ?_⟩ <;> (repeat' split) <;> simp

@[simp] theorem State.auDone_keeps (s : State) (j : Nat) : (s.auDone j).tb = s.tb ∧ (s.auDone j).pending = s.pending ∧ (s.auDone j).mem = s.mem := by
  unfold State.auDone; dsimp only; refine ⟨?_, ?_, ?_⟩ <;> (repeat' split) <;> simp

@[simp] theorem State.auDrop_keeps (s : State) (j : Nat) : (s.auDrop j).tb = s.tb ∧ (s.auDrop j).pending = s.pending ∧ (s.auDrop j).mem = s.mem := by
  simp [State.auDrop]

@[simp] theorem State.writeAuCtrl_keeps (s : State) (j : Nat) (data : Nat) : (s.writeAuCtrl j data).tb = s.tb ∧ (s.writeAuCtrl j data).pending = s.pending ∧ (s.writeAuCtrl j data).mem = s.mem := by
  simp [State.writeAuCtrl]

@[simp] theorem State.writeDaCtrl_keeps (s : State) (j : Nat) (data : Nat) : (s.writeDaCtrl j data).2.tb = s.tb ∧ (s.writeDaCtrl j data).2.pending = s.pending ∧ (s.writeDaCtrl j data).2.mem = s.mem := by
  unfold State.writeDaCtrl; dsimp only; refine ⟨?_, ?_, ?_⟩ <;> (repeat' split) <;> simp

@[simp] theorem State.dauFetch_keeps (s : State) (j : Nat) : (s.dauFetch j).2.2.2.tb = s.tb ∧ (s.dauFetch j).2.2.2.pending = s.pending ∧ (s.dauFetch j).2.2.2.mem = s.mem := by
  unfold State.dauFetch; dsimp only; refine ⟨?_, ?_, ?_⟩ <;> (repeat' split) <;> simp

@[simp] theorem State.dauStore_keeps (s : State) (j : Nat) (data : Nat) (mode : PmbReply) : (s.dauStore j data mode).2.tb = s.tb ∧ (s.dauStore j data mode).2.pending = s.pending := by
  unfold State.dauStore; dsimp only; refine ⟨?_, ?_⟩ <;> (repeat' split) <;> simp

@[simp] theorem State.noteErr_keeps (s : State) (j : Nat) (err : Bool) : (s.noteErr j err).tb = s.tb ∧ (s.noteErr j err).pending = s.pending ∧ (s.noteErr j err).mem = s.mem := by
  simp [State.noteErr]

@[simp] theorem State.dauRead_keeps (s : State) (j : Nat) (a : Nat) : (s.dauRead j a).2.2.tb = s.tb ∧ (s.dauRead j a).2.2.pending = s.pending ∧ (s.dauRead j a).2.2.mem = s.mem := by
  unfold State.dauRead; dsimp only; refine ⟨?_, ?_, ?_⟩ <;> (repeat' split) <;> simp

@[simp] theorem State.dauWrite_keeps (s : State) (j : Nat) (a : Nat) (data : Nat) (mode : PmbReply) : (s.dauWrite j a data mode).2.tb = s.tb ∧ (s.dauWrite j a data mode).2.pending = s.pending := by
  unfold State.dauWrite; dsimp only; refine ⟨?_, ?_⟩ <;> (repeat' split) <;> simp

@[simp] theorem State.dauNext_keeps (s : State) (j : Nat) : (s.dauNext j).tb = s.tb ∧ (s.dauNext j).pending = s.pending ∧ (s.dauNext j).mem = s.mem := by
  simp [State.dauNext]

@[simp] theorem State.dauOp_keeps (s : State) (j : Nat) (op : Nat) (a : Nat) (data : Nat) (mode : PmbReply) : (s.dauOp j op a data mode).2.2.tb = s.tb ∧ (s.dauOp j op a data mode).2.2.pending = s.pending := by
  unfold State.dauOp; dsimp only; refine ⟨?_, ?_⟩ <;> (repeat' split) <;> simp

@[simp] theorem State.dauShow_keeps (s : State) (j : Nat) (read : Bool) (r : Bool × Nat) : (s.dauShow j read r).tb = s.tb ∧ (s.dauShow j read r).pending = s.pending ∧ (s.dauShow j read r).mem = s.mem := by
  simp [State.dauShow]

@[simp] theorem State.dauTransfer_keeps (s : State) (j : Nat) (op : Nat) (a : Nat) (data : Nat) (mode : PmbReply) : (s.dauTransfer j op a data mode).tb = s.tb ∧ (s.dauTransfer j op a data mode).pending = s.pending := by
  simp [State.dauTransfer]

@[simp] theorem State.twoWireWrite_keeps (s : State) (op : Nat) (a : Nat) (data : Nat) (parityOk : Bool) (mode : PmbReply) : (s.twoWireWrite op a data parityOk mode).tb = s.tb ∧ (s.twoWireWrite op a data parityOk mode).pending = s.pending := by
  simp [State.twoWireWrite]

@[simp] theorem State.tapSelect_keeps (s : State) (ir : Nat) : (s.tapSelect ir).tb = s.tb ∧ (s.tapSelect ir).pending = s.pending ∧ (s.tapSelect ir).mem = s.mem := by
  simp [State.tapSelect]

end Sys2Proof.Machine
end

