-- ==== Sys2Proof/Laws/Tick.lean ====
section
/-! SUPPORT. What the operations of Machine/Tick.lean leave: the timebase, the queue of commands and, where they write none, the bytes of the stores. -/

/-! The proofs of this file are elaborated one after another: as one text with the rest of the package, in parallel they would need more threads
than the memory holds. -/

set_option Elab.async false

namespace Sys2Proof.Machine

@[simp] theorem State.slewTick_keeps (s : State) : (s.slewTick).tb = s.tb ∧ (s.slewTick).pending = s.pending ∧ (s.slewTick).mem = s.mem := by
  simp [State.slewTick]

@[simp] theorem State.holdTimers_keeps (s : State) : (s.holdTimers).tb = s.tb ∧ (s.holdTimers).pending = s.pending ∧ (s.holdTimers).mem = s.mem := by
  simp [State.holdTimers]

@[simp] theorem State.endInjected_keeps (s : State) : (s.endInjected).tb = s.tb ∧ (s.endInjected).pending = s.pending := by
  simp [State.endInjected]

@[simp] theorem State.watchdogTick_keeps (s : State) : (s.watchdogTick).tb = s.tb ∧ (s.watchdogTick).pending = s.pending ∧ (s.watchdogTick).mem = s.mem := by
  simp [State.watchdogTick]

@[simp] theorem State.supplyTick_keeps (s : State) : (s.supplyTick).tb = s.tb ∧ (s.supplyTick).pending = s.pending := by
  simp [State.supplyTick]

@[simp] theorem State.idleTick_keeps (s : State) : (s.idleTick).tb = s.tb ∧ (s.idleTick).pending = s.pending ∧ (s.idleTick).mem = s.mem := by
  simp [State.idleTick]

@[simp] theorem State.fieldTick_keeps (s : State) : (State.fieldTick s).tb = s.tb ∧ (State.fieldTick s).pending = s.pending ∧ (State.fieldTick s).mem = s.mem := by
  simp [State.fieldTick]

end Sys2Proof.Machine
end

