-- ==== Sys2Proof/Laws/Canonical.lean ====
section
/-! SUPPORT. Every operation that writes a byte of a store keeps the canonical form of the memory: keys strictly rising, no zero byte listed. -/

/-! The proofs of this file are elaborated one after another: as one text with the rest of the package, in parallel they would need more threads
than the memory holds. -/

set_option Elab.async false

namespace Sys2Proof.Machine

/-- A fold whose step keeps the canonical form keeps it. -/
theorem foldl_wf {α : Type} (f : State → α → State) (h : ∀ t x, Memory.wf t.mem = true → Memory.wf (f t x).mem = true) (l : List α) :
    ∀ s : State, Memory.wf s.mem = true → Memory.wf (l.foldl f s).mem = true := by
  induction l with
  | nil => intro s hs; exact hs
  | cons x l ih => intro s hs; exact ih _ (h _ _ hs)
theorem foldl_wf_at {α : Type} (f : State → α → State) (h : ∀ t x, Memory.wf t.mem = true → Memory.wf (f t x).mem = true) (l : List α) (s : State)
    (hs : Memory.wf s.mem = true) : Memory.wf (l.foldl f s).mem = true := foldl_wf f h l s hs
/-- Both branches in canonical form. -/
theorem ite_wf {c : Prop} [Decidable c] {u v : State} (hu : Memory.wf u.mem = true) (hv : Memory.wf v.mem = true) : Memory.wf (if c then u else v).mem = true := by
  split <;> assumption
/-- A trigger's effect that keeps the canonical form. -/
theorem State.onTrigger_wf (s : State) (i : Nat) (t : Trigger) (f : Nat → Width → State → State) (hs : Memory.wf s.mem = true)
    (h : ∀ v w, Memory.wf (f v w s).mem = true) : Memory.wf (s.onTrigger i t f).mem = true := by
  unfold State.onTrigger
  split
  · split
    · exact h _ _
    · exact hs
  · exact hs

@[simp] theorem State.setByte_wf (s : State) (a : Nat) (b : Byte) (h : Memory.wf s.mem = true) : Memory.wf (s.setByte a b).mem = true := by
  exact wf_memPut _ _ _ h

@[simp] theorem State.setWord_wf (s : State) (a : Nat) (w : Word) (h : Memory.wf s.mem = true) : Memory.wf (s.setWord a w).mem = true := by
  simp [State.setWord, h]

@[simp] theorem State.setBytes_wf (bs : List Byte) : ∀ (s : State) (a : Nat), Memory.wf s.mem = true → Memory.wf (s.setBytes a bs).mem = true := by
  induction bs with
  | nil => intro s a h; exact h
  | cons b bs ih => intro s a h; exact ih _ _ (State.setByte_wf _ _ _ h)

@[simp] theorem State.clearRange_wf (s : State) (a n : Nat) (h : Memory.wf s.mem = true) : Memory.wf (s.clearRange a n).mem = true := by
  exact wf_filter _ _ h

@[simp] theorem State.granuleWrite_wf (s : State) (g : Nat) (xs : List (Nat × Byte)) (h : Memory.wf s.mem = true) : Memory.wf (s.granuleWrite g xs).mem = true := by
  unfold State.granuleWrite
  have h0 : Memory.wf (if 16 ≤ xs.length then ((.good, s) : Ecc × State) else s.mramRead g).2.mem = true := by split <;> simp [h]
  revert h0
  generalize (if 16 ≤ xs.length then ((.good, s) : Ecc × State) else s.mramRead g) = r
  intro h0
  refine ite_wf h0 ?_
  have h1 := foldl_wf_at (fun (t : State) (x : Nat × Byte) => t.setByte x.1 x.2) (fun t x ht => State.setByte_wf t _ _ ht) xs r.2 h0
  dsimp only
  (repeat' split) <;> simp [h1]

@[simp] theorem State.mramWrite_wf (s : State) (xs : List (Nat × Byte)) (h : Memory.wf s.mem = true) : Memory.wf ((State.mramWrite s xs)).mem = true := by
  unfold State.mramWrite
  refine foldl_wf_at _ (fun t x ht => ?_) _ _ (by simp [h])
  simp [ht]

@[simp] theorem State.mramStore_wf (s : State) (xs : List (Nat × Byte)) (h : Memory.wf s.mem = true) : Memory.wf (s.mramStore xs).mem = true := by
  unfold State.mramStore; (repeat' split) <;> simp [h]

@[simp] theorem State.writeData_wf (s : State) (i : Nat) (a : Nat) (w : Word) (h : Memory.wf s.mem = true) : Memory.wf (s.writeData i a w).mem = true := by
  unfold State.writeData; dsimp only; (repeat' split) <;> simp [h]

@[simp] theorem State.writeWords_wf (s : State) (i a : Nat) (ws : List Word) (h : Memory.wf s.mem = true) : Memory.wf (s.writeWords i a ws).mem = true := by
  unfold State.writeWords
  exact ite_wf (by simp [h]) (foldl_wf_at _ (fun t x ht => by simp [ht]) _ _ h)

@[simp] theorem State.drainStore_wf (s : State) (i : Nat) (h : Memory.wf s.mem = true) : Memory.wf (s.drainStore i).mem = true := by
  unfold State.drainStore; dsimp only; (repeat' split) <;> simp [h]

@[simp] theorem State.drainAll_wf (s : State) (i : Nat) (h : Memory.wf s.mem = true) : Memory.wf (s.drainAll i).mem = true := by
  unfold State.drainAll upTo
  refine foldl_wf_at _ (fun t x ht => ?_) _ _ ?_
  · simp [ht]
  · exact h

@[simp] theorem State.settleCog_wf (s : State) (i : Nat) (h : Memory.wf s.mem = true) : Memory.wf (s.settleCog i).mem = true := by
  simp [State.settleCog, h]

@[simp] theorem State.returnFrom_wf (s : State) (i : Nat) (pc : Nat) (target : Nat) (stacked : Word) (defer : Nat) (h : Memory.wf s.mem = true) : Memory.wf ((State.returnFrom s i pc target stacked defer)).mem = true := by
  unfold State.returnFrom; dsimp only; (repeat' split) <;> simp [h]

@[simp] theorem State.goOn_wf (s : State) (i : Nat) (k : Current) (back : Option Nat) (d : Nat) (h : Memory.wf s.mem = true) : Memory.wf (s.goOn i k back d).mem = true := by
  unfold State.goOn
  split
  · simp [h]
  · simp [h]
  · split <;> simp [h]
  · exact h

@[simp] theorem State.finishBundle_wf (s : State) (i : Nat) (h : Memory.wf s.mem = true) : Memory.wf (s.finishBundle i).mem = true := by
  unfold State.finishBundle
  dsimp only
  split
  · exact h
  · rw [(State.settle_keeps _).2.2]
    generalize Cog.boundaryTrap _ _ = c
    refine ite_wf ?_ ?_ <;> simp [h]

@[simp] theorem State.tryFinish_wf (s : State) (i : Nat) (h : Memory.wf s.mem = true) : Memory.wf (s.tryFinish i).mem = true := by
  unfold State.tryFinish
  dsimp only
  split
  · exact h
  · exact ite_wf h (ite_wf (by simp [h]) (by simp [h]))

@[simp] theorem State.accepted_wf (s : State) (i : Nat) (fw : FlagWrite) (h : Memory.wf s.mem = true) : Memory.wf ((State.accepted s i fw)).mem = true := by
  simp [State.accepted, h]

@[simp] theorem State.issueDecoded_wf (s : State) (i : Nat) (b : Bundle) (c : Cog) (loadTrap : Option Trap) (h : Memory.wf s.mem = true) :
    Memory.wf (s.issueDecoded i b c loadTrap).mem = true := by
  unfold State.issueDecoded
  refine ite_wf (by simp [h]) (ite_wf (by simp [h]) (ite_wf (by simp [h]) (ite_wf (by simp [h]) ?_)))
  dsimp only
  split
  · simp [h]
  refine ite_wf (by simp [h]) (ite_wf (by simp [h]) ?_)
  split
  · simp [h]
  split
  · simp [h]
  split
  · simp [h]
  exact ite_wf (by simp [h]) (by simp [h])

@[simp] theorem State.issueFetched_wf (s : State) (i : Nat) (used : List (Byte × Bool)) (h : Memory.wf s.mem = true) : Memory.wf ((State.issueFetched s i used)).mem = true := by
  unfold State.issueFetched; dsimp only; (repeat' split) <;> simp [h]

@[simp] theorem State.issue_wf (s : State) (i : Nat) (h : Memory.wf s.mem = true) : Memory.wf ((State.issue s i)).mem = true := by
  unfold State.issue; dsimp only; (repeat' split) <;> simp [h]

@[simp] theorem State.exceptionEntry_wf (s : State) (i : Nat) (h : Memory.wf s.mem = true) : Memory.wf (s.exceptionEntry i).mem = true := by
  unfold State.exceptionEntry; dsimp only; (repeat' split) <;> simp [h]

@[simp] theorem State.enterEvent_wf (s : State) (i : Nat) (k : Nat) (h : Memory.wf s.mem = true) : Memory.wf ((State.enterEvent s i k)).mem = true := by
  unfold State.enterEvent; dsimp only; (repeat' split) <;> simp [h]

@[simp] theorem State.eventEntry_wf (s : State) (i : Nat) (h : Memory.wf s.mem = true) : Memory.wf (s.eventEntry i).mem = true := by
  unfold State.eventEntry; dsimp only; (repeat' split) <;> simp [h]

@[simp] theorem State.yieldResult_wf (s : State) (i : Nat) (p : Port) (r : Nat) (fw : FlagWrite) (h : Memory.wf s.mem = true) : Memory.wf ((State.yieldResult s i p r fw)).mem = true := by
  simp [State.yieldResult, h]

@[simp] theorem State.aluOp_wf (s : State) (i : Nat) (u : Bool) (op : AluOp) (h : Memory.wf s.mem = true) : Memory.wf ((State.aluOp s i u op)).mem = true := by
  unfold State.aluOp
  refine State.onTrigger_wf _ _ _ _ h (fun v w => ?_)
  dsimp only
  (repeat' split) <;> simp [h]

@[simp] theorem State.shiftOp_wf (s : State) (i : Nat) (t : Trigger) (op : ShiftOp) (h : Memory.wf s.mem = true) : Memory.wf ((State.shiftOp s i t op)).mem = true := by
  unfold State.shiftOp
  refine State.onTrigger_wf _ _ _ _ h (fun v w => ?_)
  dsimp only
  simp [h]

@[simp] theorem State.macOp_wf (s : State) (i : Nat) (t : Trigger) (f : Int → Int → Int → Int) (h : Memory.wf s.mem = true) : Memory.wf ((State.macOp s i t f)).mem = true := by
  unfold State.macOp
  refine State.onTrigger_wf _ _ _ _ h (fun v w => ?_)
  dsimp only
  simp [h]

@[simp] theorem State.longStart_wf (s : State) (i : Nat) (u : LongUnit) (dests : List (Nat × Nat)) (fw : FlagWrite) (h : Memory.wf s.mem = true) : Memory.wf ((State.longStart s i u dests fw)).mem = true := by
  simp [State.longStart, h]

@[simp] theorem State.divOp_wf (s : State) (i : Nat) (t : Trigger) (sgn : Bool) (h : Memory.wf s.mem = true) : Memory.wf ((State.divOp s i t sgn)).mem = true := by
  unfold State.divOp
  refine State.onTrigger_wf _ _ _ _ h (fun v w => ?_)
  dsimp only
  simp [h]

@[simp] theorem State.digOp_wf (s : State) (i : Nat) (t : Trigger) (f : Nat → Nat → Nat → Nat × Bool) (h : Memory.wf s.mem = true) : Memory.wf ((State.digOp s i t f)).mem = true := by
  unfold State.digOp
  refine State.onTrigger_wf _ _ _ _ h (fun v w => ?_)
  dsimp only
  simp [h]

@[simp] theorem State.loadOp_wf (s : State) (i : Nat) (t : Trigger) (h : Memory.wf s.mem = true) : Memory.wf ((State.loadOp s i t)).mem = true := by
  unfold State.loadOp
  refine State.onTrigger_wf _ _ _ _ h (fun v w => ?_)
  (repeat' split) <;> simp [h]

@[simp] theorem State.conditionalStore_wf (s : State) (i : Nat) (a : Nat) (ws : List Word) (l : LockSeq) (h : Memory.wf s.mem = true) : Memory.wf (s.conditionalStore i a ws l).mem = true := by
  unfold State.conditionalStore; dsimp only; (repeat' split) <;> simp [h]

@[simp] theorem State.storeOp_wf (s : State) (i : Nat) (t : Trigger) (h : Memory.wf s.mem = true) : Memory.wf (s.storeOp i t).mem = true := by
  unfold State.storeOp
  refine State.onTrigger_wf _ _ _ _ h (fun v w => ?_)
  dsimp only
  (repeat' split) <;> simp [h]

@[simp] theorem State.fenceOp_wf (s : State) (i : Nat) (t : Trigger) (f : Current → Current) (h : Memory.wf s.mem = true) : Memory.wf ((State.fenceOp s i t f)).mem = true := by
  unfold State.fenceOp
  refine State.onTrigger_wf _ _ _ _ h (fun v w => ?_)
  dsimp only
  (repeat' split) <;> simp [h]

@[simp] theorem State.saveWords_wf (s : State) (i : Nat) (a : Nat) (ws : List Nat) (h : Memory.wf s.mem = true) : Memory.wf ((State.saveWords s i a ws)).mem = true := by
  unfold State.saveWords
  refine foldl_wf_at _ (fun t x ht => ?_) _ _ (by simp [h])
  (repeat' split) <;> simp [ht]

@[simp] theorem State.writeContainer_wf (s : State) (a : Nat) (lo : Option Byte) (hi : Option Byte) (h : Memory.wf s.mem = true) : Memory.wf (s.writeContainer a lo hi).mem = true := by
  unfold State.writeContainer; dsimp only; (repeat' split) <;> simp [h]

@[simp] theorem State.bar2Put_wf (s : State) (xs : List (Nat × Byte)) (h : Memory.wf s.mem = true) : Memory.wf (s.bar2Put xs).mem = true := by
  unfold State.bar2Put
  dsimp only
  refine foldl_wf_at _ (fun t x ht => ?_) _ _ (State.mramStore_wf _ _ ?_)
  · simp [ht]
  · (repeat' split) <;> simp [h]

@[simp] theorem State.receiveOp_wf (s : State) (i : Nat) (t : Trigger) (h : Memory.wf s.mem = true) : Memory.wf ((State.receiveOp s i t)).mem = true := by
  unfold State.receiveOp
  refine State.onTrigger_wf _ _ _ _ h (fun v w => ?_)
  dsimp only
  (repeat' split) <;> simp [h]

@[simp] theorem State.cogSend_wf (s : State) (i : Nat) (words : List Nat) (h : Memory.wf s.mem = true) : Memory.wf (s.cogSend i words).mem = true := by
  unfold State.cogSend
  refine ite_wf (by simp [h]) ?_
  split
  · simp [h]
  · split
    · rename_i e
      simp [State.trySend_keeps _ _ _ _ _ _ _ _ e, h]
    · simp [h]

@[simp] theorem State.wakeReceivers_wf (s : State) (ch : Nat) (h : Memory.wf s.mem = true) : Memory.wf (s.wakeReceivers ch).mem = true := by
  unfold State.wakeReceivers
  refine foldl_wf_at _ (fun t x ht => ?_) _ _ h
  (repeat' split) <;> simp [ht]

@[simp] theorem State.writeChLo_wf (s : State) (data : Nat) (h : Memory.wf s.mem = true) : Memory.wf ((State.writeChLo s data)).mem = true := by
  unfold State.writeChLo; dsimp only; (repeat' split) <;> simp [h]

@[simp] theorem State.passWrite_wf (s : State) (g : Nat) (bs : List Byte) (bad : Bool) (h : Memory.wf s.mem = true) : Memory.wf ((State.passWrite s g bs bad)).mem = true := by
  unfold State.passWrite; dsimp only; (repeat' split) <;> simp [h]

@[simp] theorem State.mergeGranule_wf (s : State) (t : Nat) (tgt : Nat) (fixed : List Shadow) (g : Nat) (h : Memory.wf s.mem = true) : Memory.wf ((State.mergeGranule s t tgt fixed g)).mem = true := by
  unfold State.mergeGranule; dsimp only; (repeat' split) <;> simp [h]

@[simp] theorem State.mergeLine_wf (s : State) (t : Nat) (tgt : Nat) (fixed : List Shadow) (l : Nat) (h : Memory.wf s.mem = true) : Memory.wf ((State.mergeLine s t tgt fixed l).2).mem = true := by
  unfold State.mergeLine; dsimp only; (repeat' split) <;> simp [h]

@[simp] theorem State.mergeGo_wf (t tgt : Nat) (fixed : List Shadow) (n : Nat) : ∀ (s : State) (l : Nat), Memory.wf s.mem = true →
    Memory.wf (s.mergeGo t tgt fixed n l).2.mem = true := by
  induction n with
  | zero => intro s l h; exact h
  | succ n ih =>
    intro s l h
    simp only [State.mergeGo]
    split
    · exact ih _ _ (by simp [h])
    · simp [h]

@[simp] theorem State.commitPass_wf (s : State) (t : Nat) (h : Memory.wf s.mem = true) : Memory.wf (s.commitPass t).mem = true := by
  unfold State.commitPass; dsimp only; (repeat' split) <;> simp [h]

@[simp] theorem State.settlePass_wf (s : State) (t : Nat) (c : Nat) (h : Memory.wf s.mem = true) : Memory.wf ((State.settlePass s t c)).mem = true := by
  unfold State.settlePass; dsimp only; (repeat' split) <;> simp [h]

@[simp] theorem State.camEvaluation_wf (s : State) (p : Nat) (late : Bool) (h : Memory.wf s.mem = true) : Memory.wf (s.camEvaluation p late).mem = true := by
  have hs : ∀ (ts : List Nat) (c : Nat) (u : State), Memory.wf u.mem = true → Memory.wf (ts.foldl (fun (t : State) x => t.settlePass x c) u).mem = true :=
    fun ts c u hu => foldl_wf_at _ (fun t x ht => by simp [ht]) _ _ hu
  unfold State.camEvaluation
  dsimp only
  (repeat' split) <;> simp [h, hs]

@[simp] theorem State.tmArm_wf (s : State) (i : Nat) (v : Nat) (h : Memory.wf s.mem = true) : Memory.wf ((State.tmArm s i v)).mem = true := by
  unfold State.tmArm; dsimp only; (repeat' split) <;> simp [h]

@[simp] theorem State.tmKill_wf (s : State) (i : Nat) (v : Nat) (h : Memory.wf s.mem = true) : Memory.wf ((State.tmKill s i v)).mem = true := by
  unfold State.tmKill; dsimp only; (repeat' split) <;> simp [h]

@[simp] theorem State.tmNow_wf (s : State) (i : Nat) (v : Nat) (h : Memory.wf s.mem = true) : Memory.wf ((State.tmNow s i v)).mem = true := by
  simp [State.tmNow, h]

@[simp] theorem State.evClaim_wf (s : State) (i : Nat) (h : Memory.wf s.mem = true) : Memory.wf ((State.evClaim s i)).mem = true := by
  simp [State.evClaim, h]

@[simp] theorem State.forward_wf (s : State) (m : Nat) (l : Line) (hit : Bool) (h : Memory.wf s.mem = true) : Memory.wf (s.forward m l hit).mem = true := by
  unfold State.forward
  refine ite_wf h ?_
  extract_lets x n dec mark s1 own a b px vs st fl words wp size s2 y s3 s4
  have h1 : Memory.wf s1.mem = true := by simp [s1, h]
  have h2 : Memory.wf s2.mem = true := by
    refine foldl_wf_at _ (fun t x ht => ?_) _ _ h1
    rw [State.eccFix_keeps _ _ |>.2.2]
    exact State.setWord_wf _ _ _ ht
  have h3 : Memory.wf s3.mem = true := ite_wf h2 (by simp [h2])
  have h4 : Memory.wf s4.mem = true := by
    refine ite_wf h1 ?_
    rw [(State.pgEvt_keeps _ _ _).2.2]
    simp [h3]
  refine ite_wf ?_ h4
  rw [(State.pgEvt_keeps _ _ _).2.2]
  simp [h4]

/-- A change made over the registers as they stood keeps the canonical form that it keeps. -/
theorem State.atLineStart_wf (s : State) (m first : Nat) (f : State → State) (h : Memory.wf s.mem = true)
    (hf : ∀ t : State, Memory.wf t.mem = true → Memory.wf (f t).mem = true) : Memory.wf (s.atLineStart m first f).mem = true := by
  unfold State.atLineStart
  refine foldl_wf_at _ (fun t x ht => ?_) _ _ (hf _ (foldl_wf_at _ (fun t x ht => ?_) _ _ h)) <;> exact ht

@[simp] theorem State.pipeLine_wf (s : State) (m : Nat) (g : Trg) (phase : Nat) (cyc : Int) (raw : Option (List Nat)) (part : Bool) (h : Memory.wf s.mem = true) : Memory.wf (s.pipeLine m g phase cyc raw part).mem = true := by
  unfold State.pipeLine; dsimp only; (repeat' split) <;> simp [h]

@[simp] theorem State.lineAt_wf (s : State) (m : Nat) (k : Nat) (g : Trg) (phase : Nat) (cyc : Int) (raw : List Nat) (i : LineInfo) (unusable : Bool) (part : Bool) (h : Memory.wf s.mem = true) : Memory.wf ((State.lineAt s m k g phase cyc raw i unusable part)).mem = true := by
  unfold State.lineAt; dsimp only; (repeat' split) <;> simp [h]

@[simp] theorem State.lineComplete_wf (s : State) (n : Nat) (raw : List Nat) (i : LineInfo) (h : Memory.wf s.mem = true) :
    Memory.wf (s.lineComplete n raw i).mem = true := by
  unfold State.lineComplete
  refine ite_wf h ?_
  dsimp only
  refine foldl_wf_at _ (fun t x ht => by simp [ht]) _ _ (State.atLineStart_wf _ _ _ _ (by simp [h]) (fun t ht => ?_))
  refine foldl_wf_at _ (fun t x ht => ite_wf ht (State.atLineStart_wf _ _ _ _ ht (fun u hu => by simp [hu]))) _ _ (by simp [ht])

@[simp] theorem State.triggerAbandon_wf (s : State) (n : Nat) (h : Memory.wf s.mem = true) : Memory.wf (s.triggerAbandon n).mem = true := by
  unfold State.triggerAbandon
  dsimp only
  split
  · split
    · exact foldl_wf_at _ (fun t x ht => ite_wf (by simp [ht]) ht) _ _ (by simp [h])
    · exact h
  · exact h

theorem State.sideWrite_wf (s : State) (x : Side) (o : Nat) (bs : List Byte) (last bad : Bool) (n : Nat) (z : State)
    (e : s.sideWrite x o bs last bad = .inr (n, z)) (h : Memory.wf s.mem = true) : Memory.wf z.mem = true := by
  unfold State.sideWrite at e
  dsimp only at e
  repeat' split at e
  all_goals cases e
  all_goals simp [h]

@[simp] theorem State.downWrite_wf (s : State) (c : Nat) (d : List Nat) (n o m : Nat) (bs : List Byte) (h : Memory.wf s.mem = true) :
    Memory.wf (s.downWrite c d n o m bs).mem = true := by
  unfold State.downWrite
  cases hr : s.sideWrite (mvDst d) o (bs.drop (bs.length - n)) false false with
  | inl k => simp [h]
  | inr r => simpa using State.sideWrite_wf _ _ _ _ _ _ _ _ hr h

@[simp] theorem State.beatDown_wf (s : State) (c : Nat) (d : List Nat) (h : Memory.wf s.mem = true) : Memory.wf (s.beatDown c d).mem = true := by
  unfold State.beatDown
  dsimp only
  generalize hr : s.fillDown _ _ _ _ _ _ = r
  rcases r with ⟨k, o, t⟩ | ⟨bs, m, t⟩
  · simp [(State.fillDown_keeps _ _ _ _ _ _ _).1 _ _ _ hr, h]
  · simp [(State.fillDown_keeps _ _ _ _ _ _ _).2 _ _ _ hr, h]

@[simp] theorem State.beatWrite_wf (s : State) (c : Nat) (d : List Nat) (want : Nat) (bad : Bool) (h : Memory.wf s.mem = true) :
    Memory.wf (s.beatWrite c d want bad).mem = true := by
  unfold State.beatWrite
  refine ite_wf (by simp [h]) ?_
  generalize hr : State.sideWrite _ _ _ _ _ _ = r
  rcases r with k | ⟨n, z⟩
  · rw [(State.mvFail_keeps _ _ _ _).2.2]
    exact ite_wf (by simp [h]) h
  · have k := State.sideWrite_wf _ _ _ _ _ _ _ _ hr h
    exact ite_wf (by simp [k]) (by simp [k])

theorem State.beatFirst_wf (s : State) (c : Nat) (d : List Nat) (dstHost : List Byte) (bad : Bool)
    (r : (Nat × Nat × State) ⊕ (List Byte × Nat × Bool) × List Byte × State)
    (hl : ∀ k o z, r = .inl (k, o, z) → Memory.wf z.mem = true) (hr : ∀ a b z, r = .inr (a, b, z) → Memory.wf z.mem = true) :
    Memory.wf (s.beatFirst c d dstHost bad r).mem = true := by
  rcases r with ⟨k, o, z⟩ | ⟨⟨a, n, e⟩, h, z⟩
  · have k := hl _ _ _ rfl
    simp [State.beatFirst, k]
  · have k := hr _ _ _ rfl
    simp only [State.beatFirst]
    split
    · generalize hf : State.sideFill _ _ _ _ _ _ _ _ _ = r2
      rcases r2 with ⟨k2, o2, z2⟩ | ⟨⟨a2, n2, e2⟩, h2, z2⟩
      · simp [State.beatSecond, (State.sideFill_keeps _ _ _ _ _ _ _ _ _).1 _ _ _ hf, k]
      · simp [State.beatSecond, (State.sideFill_keeps _ _ _ _ _ _ _ _ _).2 _ _ _ hf, k]
    · exact ite_wf (by simp [k]) (by simp [k])

@[simp] theorem State.beat_wf (s : State) (c : Nat) (d : List Nat) (srcHost dstHost : List Byte) (bad : Bool) (h : Memory.wf s.mem = true) :
    Memory.wf (s.beat c d srcHost dstHost bad).mem = true := by
  unfold State.beat
  split
  · simp [h]
  · refine State.beatFirst_wf _ _ _ _ _ _ (fun _ _ _ e => ?_) (fun _ _ _ e => ?_)
    · rw [((State.sourceFill_keeps _ _ _ _ _ _ _).1 _ _ _ e).2.2]; exact h
    · rw [((State.sourceFill_keeps _ _ _ _ _ _ _).2 _ _ _ e).2.2]; exact h

@[simp] theorem State.moverBeat_wf (s : State) (e : Nat) (srcHost : List Byte) (dstHost : List Byte) (bad : Bool) (timeout : Bool) (h : Memory.wf s.mem = true) : Memory.wf ((State.moverBeat s e srcHost dstHost bad timeout)).mem = true := by
  unfold State.moverBeat; dsimp only; (repeat' split) <;> simp [h]

@[simp] theorem State.putShared_wf (s : State) (c w v : Nat) (h : Memory.wf s.mem = true) : Memory.wf (s.putShared c w v).mem = true := by
  unfold State.putShared upTo
  exact foldl_wf_at _ (fun t x ht => by simp [ht]) _ _ h

@[simp] theorem State.recordWrite_wf (s : State) (h : Memory.wf s.mem = true) : Memory.wf s.recordWrite.mem = true := by
  unfold State.recordWrite
  dsimp only
  (repeat' split) <;> simp [h]

@[simp] theorem State.enterWait_wf (s : State) (i : Nat) (w : Waiting) (h : Memory.wf s.mem = true) : Memory.wf ((State.enterWait s i w)).mem = true := by
  simp [State.enterWait, h]

@[simp] theorem State.waitOp_wf (s : State) (i : Nat) (h : Memory.wf s.mem = true) : Memory.wf ((State.waitOp s i)).mem = true := by
  unfold State.waitOp
  refine State.onTrigger_wf _ _ _ _ h (fun v w => ?_)
  dsimp only
  (repeat' split) <;> simp [h]

@[simp] theorem State.stimOp_wf (s : State) (i : Nat) (h : Memory.wf s.mem = true) : Memory.wf ((State.stimOp s i)).mem = true := by
  unfold State.stimOp
  refine State.onTrigger_wf _ _ _ _ h (fun v w => ?_)
  dsimp only
  (repeat' split) <;> simp [h]

@[simp] theorem State.repairDone_wf (s : State) (c k : Nat) (h : Memory.wf s.mem = true) : Memory.wf (s.repairDone c k).mem = true := by
  unfold State.repairDone
  simp [h]

@[simp] theorem State.repairsDue_wf (s : State) (h : Memory.wf s.mem = true) : Memory.wf s.repairsDue.mem = true := by
  unfold State.repairsDue
  exact foldl_wf_at _ (fun t x ht => ite_wf (by simp [ht]) ht) _ _ h

@[simp] theorem State.dropLive_wf (s : State) (d : Nat) (h : Memory.wf s.mem = true) : Memory.wf (s.dropLive d).mem = true := by
  unfold State.dropLive
  dsimp only
  (repeat' split) <;> simp [h]

@[simp] theorem State.powerOff_wf (s : State) (d : Nat) (h : Memory.wf s.mem = true) : Memory.wf (s.powerOff d).mem = true := by
  simp [State.powerOff, h]

@[simp] theorem State.completeEntry_wf (s : State) (d : Nat) (r : DomSt) (h : Memory.wf s.mem = true) : Memory.wf (s.completeEntry d r).mem = true := by
  have lose : ∀ (u : State) (k : Nat), Memory.wf u.mem = true → Memory.wf (if r = .off then u.powerOff k else u.retainRegs k).mem = true :=
    fun u k hu => ite_wf (by simp [hu]) (by simp [hu])
  unfold State.completeEntry
  extract_lets x lose gates s1 s2 s3
  have h1 : Memory.wf s1.mem = true := foldl_wf_at _ (fun t x ht => ite_wf (by simp [ht]) (by simp [ht])) _ _ h
  have h2 : Memory.wf s2.mem = true := ite_wf (by simp [h1]) h1
  have h3 : Memory.wf s3.mem = true := ite_wf (by simp [h2]) (by simp [h2])
  exact ite_wf (by simp [h3]) h3

@[simp] theorem State.domainEntry_wf (s : State) (d : Nat) (h : Memory.wf s.mem = true) : Memory.wf ((State.domainEntry s d)).mem = true := by
  unfold State.domainEntry; dsimp only; (repeat' split) <;> simp [h]

@[simp] theorem State.restoreFail_wf (s : State) (d : Nat) (h : Memory.wf s.mem = true) : Memory.wf (s.restoreFail d).mem = true := by
  unfold State.restoreFail; dsimp only; (repeat' split) <;> simp [h]

@[simp] theorem State.govSettle_wf (s : State) (q : Nat) (h : Memory.wf s.mem = true) : Memory.wf (s.govSettle q).mem = true := by
  unfold State.govSettle
  refine ite_wf h (ite_wf (ite_wf (by simp [h]) h) (ite_wf h ?_))
  split
  · simp [h]
  · exact ite_wf (foldl_wf_at _ (fun t x ht => ite_wf (by simp [ht]) ht) _ _ (by simp [h])) h

@[simp] theorem State.readVout_wf (s : State) (q : Nat) (r : PmbReply) (h : Memory.wf s.mem = true) : Memory.wf (s.readVout q r).mem = true := by
  unfold State.readVout; dsimp only; (repeat' split) <;> simp [h]

@[simp] theorem State.writeGovCtrl_wf (s : State) (q : Nat) (data : Nat) (mode : PmbReply) (h : Memory.wf s.mem = true) : Memory.wf (s.writeGovCtrl q data mode).mem = true := by
  simp [State.writeGovCtrl, h]

@[simp] theorem State.afterReset_wf (s : State) (cause : Nat) (h : Memory.wf s.mem = true) : Memory.wf (s.afterReset cause).mem = true := by
  unfold State.afterReset
  simp
  exact wf_filter _ _ h

@[simp] theorem State.deviceReset_wf (s : State) (cause : Nat) (h : Memory.wf s.mem = true) : Memory.wf (s.deviceReset cause).mem = true := by
  simp [State.deviceReset, h]

@[simp] theorem State.requestReset_wf (s : State) (cause : Nat) (h : Memory.wf s.mem = true) : Memory.wf (s.requestReset cause).mem = true := by
  unfold State.requestReset; (repeat' split) <;> simp [h]

@[simp] theorem State.mramCut_wf (s : State) (h : Memory.wf s.mem = true) : Memory.wf s.mramCut.mem = true := by
  unfold State.mramCut
  exact foldl_wf_at _ (fun t x ht => ite_wf (by simp [ht]) (by simp [ht])) _ _ h

@[simp] theorem State.powerOn_wf (s : State) (timeref railsOk : Bool) (h : Memory.wf s.mem = true) : Memory.wf (s.powerOn timeref railsOk).mem = true := by
  cases railsOk <;> simp [State.powerOn, h]

@[simp] theorem State.mramWaited_wf (s : State) (h : Memory.wf s.mem = true) : Memory.wf ((State.mramWaited s)).mem = true := by
  unfold State.mramWaited; dsimp only; (repeat' split) <;> simp [h]

@[simp] theorem State.showRails_wf (s : State) (low : Nat) (high : Nat) (h : Memory.wf s.mem = true) : Memory.wf (s.showRails low high).mem = true := by
  unfold State.showRails; dsimp only; (repeat' split) <;> simp [h]

@[simp] theorem State.railSample_wf (s : State) (low : Nat) (high : Nat) (h : Memory.wf s.mem = true) : Memory.wf ((State.railSample s low high)).mem = true := by
  unfold State.railSample; dsimp only; (repeat' split) <;> simp [h]

@[simp] theorem State.railInject_wf (s : State) (h : Memory.wf s.mem = true) : Memory.wf (s.railInject).mem = true := by
  simp [State.railInject, h]

@[simp] theorem State.resumeCog_wf (s : State) (i : Nat) (step : Bool) (h : Memory.wf s.mem = true) : Memory.wf ((State.resumeCog s i step)).mem = true := by
  unfold State.resumeCog; dsimp only; (repeat' split) <;> simp [h]

@[simp] theorem State.writeCogDbg_wf (s : State) (i : Nat) (data : Nat) (h : Memory.wf s.mem = true) : Memory.wf ((State.writeCogDbg s i data)).mem = true := by
  unfold State.writeCogDbg; dsimp only; (repeat' split) <;> simp [h]

@[simp] theorem State.pelResume_wf (s : State) (g : Nat) (h : Memory.wf s.mem = true) : Memory.wf ((State.pelResume s g)).mem = true := by
  unfold State.pelResume
  refine foldl_wf_at _ (fun t x ht => ?_) _ _ (by simp [h])
  simp [ht]

@[simp] theorem State.writePelCfg_wf (s : State) (g : Nat) (data : Nat) (h : Memory.wf s.mem = true) : Memory.wf ((State.writePelCfg s g data)).mem = true := by
  unfold State.writePelCfg; dsimp only; (repeat' split) <;> simp [h]

@[simp] theorem State.bootErase_wf (s : State) (h : Memory.wf s.mem = true) : Memory.wf (s.bootErase).mem = true := by
  unfold State.bootErase; dsimp only; (repeat' split) <;> simp [h]

@[simp] theorem State.bootCheck_wf (s : State) (h : Memory.wf s.mem = true) : Memory.wf (s.bootCheck).mem = true := by
  simp [State.bootCheck, h]

@[simp] theorem State.bootStep_wf (s : State) (h : Memory.wf s.mem = true) : Memory.wf (s.bootStep).mem = true := by
  unfold State.bootStep; (repeat' split) <;> simp [h]

@[simp] theorem State.otpDone_wf (s : State) (h : Memory.wf s.mem = true) : Memory.wf (s.otpDone).mem = true := by
  unfold State.otpDone; dsimp only; (repeat' split) <;> simp [h]

theorem State.injectNow_wf (s : State) (p b : Nat) (bus : PmbReply) (z : State) (hz : s.injectNow p b bus = some z) (h : Memory.wf s.mem = true) : Memory.wf z.mem = true := by
  unfold State.injectNow at hz
  dsimp only at hz
  split at hz <;> first | (cases hz <;> simp [h]; done) | (rw [(State.injectStall_keeps s z hz).2.2]; exact h)

@[simp] theorem State.writePgInj_wf (s : State) (p data : Nat) (bus : PmbReply) (h : Memory.wf s.mem = true) : Memory.wf (s.writePgInj p data bus).mem = true := by
  unfold State.writePgInj upTo
  dsimp only
  refine foldl_wf_at _ (fun t b ht => ite_wf ?_ ht) _ _ (by simp [h])
  split
  · rename_i k
    simp [State.injectNow_wf _ _ _ _ _ k ht]
  · exact ht

@[simp] theorem State.writeHeader_wf (s : State) (p : Nat) (off : Nat) (data : Nat) (bus : PmbReply) (h : Memory.wf s.mem = true) : Memory.wf (s.writeHeader p off data bus).mem = true := by
  unfold State.writeHeader; (repeat' split) <;> simp [h]

@[simp] theorem State.writeCogWord_wf (s : State) (i : Nat) (off : Nat) (data : Nat) (h : Memory.wf s.mem = true) : Memory.wf ((State.writeCogWord s i off data).2).mem = true := by
  unfold State.writeCogWord; dsimp only; (repeat' split) <;> simp [h]

@[simp] theorem State.writeFab_wf (s : State) (off : Nat) (data : Nat) (h : Memory.wf s.mem = true) : Memory.wf ((State.writeFab s off data).2).mem = true := by
  unfold State.writeFab; dsimp only; (repeat' split) <;> simp [h]

/-- What a change keeps canonical, it keeps so under what the command tells of the bus. -/
@[simp] theorem State.withBus_wf (s : State) (r : PmbReply) (f : State → State) (hf : ∀ t, Memory.wf t.mem = true → Memory.wf (f t).mem = true)
    (h : Memory.wf s.mem = true) : Memory.wf (s.withBus r f).mem = true := hf _ h

@[simp] theorem State.writeBlock_wf (s : State) (p off data : Nat) (mode : PmbReply) (by_ : Option Nat) (h : Memory.wf s.mem = true) :
    Memory.wf (s.writeBlock p off data mode by_).2.mem = true := by
  have hg : Memory.wf (s.withBus mode fun s => s.writeGovCtrl (p - 0x012) data mode).mem = true := State.withBus_wf _ _ _ (fun t ht => by simp [ht]) h
  unfold State.writeBlock
  dsimp only
  split <;> (repeat' split) <;> simp [State.dropped, h, hg]

@[simp] theorem State.busWrite_wf (s : State) (a data : Nat) (mode : PmbReply) (by_ : Option Nat) (h : Memory.wf s.mem = true) :
    Memory.wf (s.busWrite a data mode by_).2.mem = true := by
  unfold State.busWrite
  dsimp only
  (repeat' split) <;> simp [State.dropped, h]

@[simp] theorem State.dauStore_wf (s : State) (j : Nat) (data : Nat) (mode : PmbReply) (h : Memory.wf s.mem = true) : Memory.wf (s.dauStore j data mode).2.mem = true := by
  unfold State.dauStore; dsimp only; (repeat' split) <;> simp [h]

@[simp] theorem State.dauWrite_wf (s : State) (j : Nat) (a : Nat) (data : Nat) (mode : PmbReply) (h : Memory.wf s.mem = true) : Memory.wf (s.dauWrite j a data mode).2.mem = true := by
  unfold State.dauWrite; dsimp only; (repeat' split) <;> simp [h]

@[simp] theorem State.dauOp_wf (s : State) (j : Nat) (op : Nat) (a : Nat) (data : Nat) (mode : PmbReply) (h : Memory.wf s.mem = true) : Memory.wf (s.dauOp j op a data mode).2.2.mem = true := by
  unfold State.dauOp; dsimp only; (repeat' split) <;> simp [h]

@[simp] theorem State.dauTransfer_wf (s : State) (j : Nat) (op : Nat) (a : Nat) (data : Nat) (mode : PmbReply) (h : Memory.wf s.mem = true) : Memory.wf (s.dauTransfer j op a data mode).mem = true := by
  simp [State.dauTransfer, h]

@[simp] theorem State.twoWireWrite_wf (s : State) (op : Nat) (a : Nat) (data : Nat) (parityOk : Bool) (mode : PmbReply) (h : Memory.wf s.mem = true) : Memory.wf (s.twoWireWrite op a data parityOk mode).mem = true := by
  unfold State.twoWireWrite; (repeat' split) <;> simp [h]

@[simp] theorem State.endInjected_wf (s : State) (h : Memory.wf s.mem = true) : Memory.wf (s.endInjected).mem = true := by
  unfold State.endInjected; dsimp only; (repeat' split) <;> simp [h]

@[simp] theorem State.supplyTick_wf (s : State) (h : Memory.wf s.mem = true) : Memory.wf s.supplyTick.mem = true := by
  unfold State.supplyTick
  exact foldl_wf_at _ (fun t q ht => by simp [ht]) _ _ h

@[simp] theorem State.tick_wf (s : State) (h : Memory.wf s.mem = true) : Memory.wf s.tick.mem = true := by
  have h0 : Memory.wf ({ s with tb := (s.tb + 1) % 2 ^ 64 } : State).mem = true := h
  unfold State.tick
  refine ite_wf h ?_
  simp only [State.flushOutbox_keeps, State.flushCaps_keeps, State.fieldTick_keeps, State.settle_keeps]
  refine State.repairsDue_wf _ ?_
  simp only [State.idleTick_keeps]
  refine State.supplyTick_wf _ ?_
  simp only [State.watchdogTick_keeps]
  refine State.endInjected_wf _ ?_
  simp only [State.holdTimers_keeps, State.slewTick_keeps, State.startDue_keeps, State.inputsDue_keeps]
  exact h

end Sys2Proof.Machine
end

