-- ==== Sys2Proof/WellFormed.lean ====
section
/-! DEFINITION. Which commands are well formed. Operands that are numbers carry their range in their type; what is checked here is
the shape of the operands that are lists, and of a regulator's answer. -/

namespace Sys2Proof

/-- A host access moves 1 to 4,096 bytes and stays inside the 512 MiB of BAR2 (R363, R528). -/
def hostSpan (addr len : Nat) : Bool := decide (1 ≤ len ∧ len ≤ 4096 ∧ addr + len ≤ 0x20000000)

/-- A transaction is tried at most three times (R454). -/
def PmbReply.tried (r : PmbReply) : Bool := decide (r.nacks.val + r.pecs.val ≤ 3)

/-- A frame of the chain: a header and a tail at least, in blocks whose remainder is 1 (R331 to R333). -/
def chainFrame (f : List Byte) : Bool := decide (40 ≤ f.length ∧ f.length % 8 = 0)

/-- What the function supports (R363): Max Payload Size up to 256 bytes and Max Read Request Size up to 512, in the powers of two that PCI Express encodes. -/
def PcieConf.fits (c : PcieConf) : Bool := (c.maxPayload = 128 || c.maxPayload = 256) && [128, 256, 512].contains c.maxRead

/-- The rates and widths that the link negotiates (R363, R379). -/
def linkFits (speed : BitVec 2) (width : BitVec 3) : Bool := decide (1 ≤ speed.toNat) && [1, 2, 4].contains width.toNat

/-- A pin has one boundary cell. -/
def oneCell (cells : List (Fin 96 × Bool)) : Bool := decide (cells.map (·.1)).Nodup

/-- Whether a command's operands have a shape that the device can be given. -/
def Instr.wellFormed : Instr → Bool
  | .bar2Write a bytes _ => hostSpan a.toNat bytes.length
  | .bar2Read a len => hostSpan a.toNat len
  | .cyclicFrameReturn _ f _ | .bulkFrameReturn _ f => chainFrame f
  | .chnCmdDone _ _ loops => loops.all fun x => chainFrame x.1
  | .groupReceive _ _ _ _ _ data => decide (data.length = 7)
  | .pcieLinkUp speed width _ conf _ => linkFits speed width && conf.fits
  | .descriptorFetch _ conf | .domainEntry _ conf => conf.all PcieConf.fits
  | .controlAck _ _ _ _ data => decide (data.length ≤ 64)
  | .moverBeat _ src dst _ => decide (src.length ≤ 64 ∧ dst.length ≤ 64)
  | .governorPeriod _ r | .readVout _ r | .pmbusAlert _ r _ | .twoWireWrite _ _ _ r | .twoWireWriteIncrement _ _ _ r | .daDataAccess _ _ r
  | .dau _ _ _ r | .registerWrite _ _ _ _ r => r.tried
  | .extest cells | .samplePreload cells => oneCell cells
  | .nonceReady _ words => decide (words.length = 8)
  | _ => true

end Sys2Proof
end

