-- ==== Sys2Proof/Tests/Slice0.lean ====
section
/-! SUPPORT. The model's own tests: ill-formed commands that WellFormed refuses, and for every
obligation with premises a state that meets them, with what the command leaves there. -/

/-! The proofs of this file are elaborated one after another (as in Laws/). -/

set_option Elab.async false

namespace Sys2Proof.Tests
open Sys2Proof Sys2Proof.Machine

/-- The state that a command leaves. -/
def after (c : Instr) (s : State) : State := match exec c s with | .next t => t | .fault _ => s | .refused _ => s

/-- The device after boot with the given domains on, besides 0 to 3. -/
def device (ds : List Nat) : State := { State.reset with doms := ds.map fun d => (d, { st := .on }), boot := .done, pcie := { memory := true } }
/-- The same with cog 0 of cassette 0. -/
def cogAt (c : Cog) : State := { device [8, 64] with cogs := [(0, c)] }
/-- Cog 0 presents one trigger with a moved value. -/
def presents (t : Trigger) (v : Nat) (w : Width := .word) (c : Cog := {}) : State :=
  cogAt { c with run := .issuing, todo := [⟨t, BitVec.ofNat 42 v, w⟩], cur := some { pc := 0, next := 6 } }
/-- Registers of the device, set one after another. -/
def withRegs (s : State) (xs : List (Nat × Fld × Nat × Nat)) : State := xs.foldl (fun t (p, f, v, i) => t.wr p f v i) s
/-- Whether a command answers exactly a state. -/
def gives (c : Instr) (s t : State) : Bool := match exec c s with | .next u => decide (u = t) | _ => false

/-! ### Well-formed commands: an ill-formed one for each check -/

theorem test_wellFormed_spans : (Instr.bar2Read 0 0).wellFormed = false ∧ (Instr.bar2Read 0x1FFFFFFF 2).wellFormed = false ∧
    (Instr.bar2Read 0 4096).wellFormed = true ∧ (Instr.bar2Write 0 [] false).wellFormed = false ∧ (Instr.bar2Write 0 [(true, 1)] false).wellFormed = true := by
  decide +kernel
theorem test_wellFormed_frames : (Instr.cyclicFrameReturn 0 (List.replicate 39 0) 0).wellFormed = false ∧ (Instr.bulkFrameReturn 0 (List.replicate 41 0)).wellFormed = false ∧
    (Instr.bulkFrameReturn 0 (List.replicate 40 0)).wellFormed = true ∧ (Instr.chnCmdDone 0 [] [([0], 5)]).wellFormed = false := by
  decide +kernel
theorem test_wellFormed_groups : (Instr.groupReceive 0 0x5A 0 0 0 [0]).wellFormed = false ∧ (Instr.groupReceive 0 0x5A 0 0 0 (List.replicate 7 0)).wellFormed = true ∧
    (Instr.domainEntry 2 (some { maxPayload := 512 })).wellFormed = false ∧ (Instr.descriptorFetch 9 (some { maxPayload := 512 })).wellFormed = false ∧ (Instr.domainEntry 2 (some {})).wellFormed = true := by
  decide +kernel
theorem test_wellFormed_link : (Instr.pcieLinkUp 0 1 false {} 0).wellFormed = false ∧ (Instr.pcieLinkUp 3 3 false {} 0).wellFormed = false ∧
    (Instr.pcieLinkUp 3 4 false { maxPayload := 512 } 0).wellFormed = false ∧ (Instr.pcieLinkUp 3 4 false { maxPayload := 256 } 0).wellFormed = true := by
  decide +kernel
theorem test_wellFormed_lists : (Instr.controlAck 0 false false 0 (List.replicate 65 0)).wellFormed = false ∧ (Instr.moverBeat 0 (List.replicate 65 0) [] false).wellFormed = false ∧
    (Instr.readVout 0 { nacks := 3, pecs := 1, value := 0 }).wellFormed = false ∧ (Instr.extest [(0, true), (0, false)]).wellFormed = false ∧ (Instr.nonceReady 0 [0]).wellFormed = false ∧
    (Instr.nonceReady 0 (List.replicate 8 0)).wellFormed = true := by
  decide +kernel

/-! ### The step, the invariant, and the statements of one rule -/

/-- An empty queue lets one nanosecond pass; a command at the front leaves the queue's rest. -/
theorem test_step : (match step { device [] with pending := [.watchdogKick 0, .pcieLinkDown] } with | .next t => t.pending | _ => []) = [.pcieLinkDown] ∧
    (match step State.reset with | .next t => t.tb | _ => 7) = 1 := by
  decide +kernel

/-- States that meet the premises of EveryStepKeepsMemoryCanonical, with a store that changes memory. -/
theorem witness_EveryStepKeepsMemoryCanonical : Memory.wf (device [8]).mem = true ∧
    Memory.wf (after (.bar2Write 0x1000000 [(true, 1), (true, 2)] false) (device [8])).mem = true ∧
    (after (.bar2Write 0x1000000 [(true, 1), (true, 2)] false) (device [8])).mem = [(0x1000000, 1), (0x1000001, 2)] := by
  decide +kernel

theorem witness_DigitConversionDelivers :
    (let s := presents .digCvt (2 ^ 42 - 1234567) .triple { port := [(Port.digd.key, 5)] }
     s.presented 0 = some ⟨.digCvt, BitVec.ofNat 42 (2 ^ 42 - 1234567), .triple⟩ ∧
     ((after (.digCvt 0) s).cog 0).long.map (·.dests) = [[(4, BitVec.ofNat 14 (0x999 + 8192)), (5, BitVec.ofNat 14 (0x999 + 8192))]] ∧
     (let t := after (.longLatencyResult 0 .dig) (after (.digCvt 0) s)
      (t.cog 0).gWord 4 = 0x999 + 8192 ∧ (t.cog 0).gWord 5 = 0x999 + 8192 ∧ bit (t.cog 0).flags.toNat flagV = true)) ∧
    (let s := cogAt { run := .issuing, long := [⟨.dig, [(0, 3), (1, 4)], 0x3FFF, 8, false⟩] }
     s.cogRuns 0 = true ∧ (s.cog 0).long.find? (fun x => decide (x.unit = .dig)) = some ⟨.dig, [(0, 3), (1, 4)], 0x3FFF, 8, false⟩ ∧
     bit (0x3FFF : Word).toNat flagV = true ∧ ((after (.longLatencyResult 0 .dig) s).cog 0).gWord 1 = 4) := by
  decide +kernel

theorem witness_UnmappedAccessesAreCountedAndReadZero :
    (let l : Load := { addr := 0x5000, w := .word, delay := 1 }
     let s := cogAt { run := .issuing, loads := [l] }
     s.domOn 64 = true ∧ (s.cog 0).loads.findIdx? (·.answer.isNone) = some 0 ∧ (s.cog 0).loadWaits l = false ∧ spaceOf l.addr = .unmapped ∧
     ((after (.loadAnswer 0) s).cog 0).loads = [{ l with answer := some (.value 0) }] ∧ (after (.loadAnswer 0) s).rd (cogPage 0) R.COG_UNMAP_ADDR = 0x5000 ∧
     (after (.loadAnswer 0) s).rd (cogPage 0) R.PG_ERR_CNT_CNT = 1) ∧
    (let s := presents .stL 16 .word { port := [(Port.stb.key, 0x4FF0)] }
     s.presented 0 = some ⟨.stL, 16, .word⟩ ∧ (s.cog 0).sbuf.length < 4 ∧ spaceOf 0x5000 = .unmapped ∧
     ((after (.stL 0) s).cog 0).sbuf = [] ∧ (after (.stL 0) s).on (cogPage 0) R.COG_UNMAP_STORE = true ∧ (after (.stL 0) s).rd (cogPage 0) R.COG_UNMAP_ADDR = 0x5000) := by
  decide +kernel

theorem witness_DeadBar2AccessesReadZeroAndAreLogged :
    (let s := device []
     s.hostReaches = true ∧ (windowOf 0x1000000).dom = some 8 ∧ (s.dom 8).st = .off ∧ (windowOf 0x1FFFFFFE).dom = none ∧ s.elog.length < 16 ∧
     (after (.bar2Read 0x1000000 4) s).out.head? = some (.completion 0x1000000 [0, 0, 0, 0] false) ∧
     (after (.bar2Read 0x1FFFFFFE 2) s).elog = [⟨0x1FFFFFFE, 2, 0⟩] ∧
     (after (.bar2Write 0x1000000 [(false, 1), (true, 2)] false) s).elog = [⟨0x1000001, 2, 0⟩] ∧ (after (.bar2Write 0x1000000 [(false, 1), (true, 2)] false) s).mem = []) := by
  decide +kernel

theorem witness_MoversFollowTheFabricDomain :
    (let s := fun (go : DomSt) => { device [] with doms := [(3, { st := .on, going := some go })], movers := [(7, { go := true, wrote := 3 })] }
     (({ device [] with doms := [(3, { st := .ret })] } : State).dom 3).st = .ret ∧
     ((s .ret).dom 3).going = some .ret ∧ ((s .ret).dom 3).latched = false ∧ (after (.domainEntry 3) (s .ret)).movers = [(7, { go := true, wrote := 3 })] ∧
     ((s .off).dom 3).going = some .off ∧ (after (.domainEntry 3) (s .off)).movers = [] ∧ ((after (.domainEntry 3) (s .off)).dom 3).st = .off) ∧
    (let s := { device [] with doms := [(3, { st := .off, going := some .on })] }
     (s.dom 3).going = some .on ∧ (s.dom 3).st = .off ∧ s.railOn 3 = true ∧ s.startsAt 3 ≤ s.tb ∧ ((after (.domainRestore 3) s).dom 3).st = .on ∧ (after (.domainRestore 3) s).mrd 5 R.MV_CFG_EN = 0) := by
  decide +kernel

/-- The premise of OnlyPowerMovesTheTimebase and of StepTakesTheFrontCommand: reset's queue is empty. -/
theorem witness_OnlyPowerMovesTheTimebase : State.reset.pending = [] ∧ Instr.perst ≠ .powerOnReset true 0 ∧ Instr.perst ≠ .powerLoss true 7 ∧
    (match step { State.reset with boot := .held, tb := 5 } with | .next t => t.tb | _ => 7) = 5 := by
  decide +kernel

theorem witness_AluTriggersDeliverExactSums :
    (∀ op ∈ [AluOp.add, .adc, .sub, .and, .or, .xor, .lim], ∀ u ∈ [false, true],
      let s := presents (.alu u op) 3 .long { port := [(Port.alu0o.key, 5), (Port.alu1o.key, 5)], flags := 1 }
      let c := s.cog 0
      let r := aluCompute op 28 (c.get (if u then .alu1o else .alu0o)) 3 (bit c.flags.toNat flagC) (bit c.flags.toNat flagSAT)
      s.presented 0 = some ⟨.alu u op, 3, .long⟩ ∧ after (aluCommand op 0 u) s = (s.setCog 0 (c.set (if u then .alu1r else .alu0r) (sext r.1 .long))).accepted 0 r.2) ∧
    ((aluCompute .add 14 0x3FFF 1 true false).1 = 0 ∧ bit (aluCompute .add 14 0x3FFF 1 true false).2.val flagC = true ∧
     bit (aluCompute .sub 14 0x2000 1 true false).2.val flagV = true ∧ (aluCompute .add 14 0x1FFF 1 true true).1 = 0x1FFF) := by
  decide +kernel

theorem witness_ShiftTriggersDeliver :
    (let s := fun t k => presents t k .word { port := [(Port.sho.key, 0x2001)] }
     let c := (s .sar 3).cog 0
     (s .shl 1).presented 0 = some ⟨.shl, 1, .word⟩ ∧ (s .shr 14).presented 0 = some ⟨.shr, 14, .word⟩ ∧ (s .sar 3).presented 0 = some ⟨.sar, 3, .word⟩ ∧ c.get .sho = 0x2001 ∧
     ((after (.shShl 0) (s .shl 1)).cog 0).get .shr = 2 ∧ ((after (.shShr 0) (s .shr 14)).cog 0).get .shr = 0 ∧
     ((after (.shSar 0) (s .sar 3)).cog 0).get .shr = sext 0x3C00 .word) ∧
    (shiftCompute .shl 14 0x2001 1).1 = 2 ∧ (shiftCompute .shr 14 0x2001 99).1 = 0 ∧ signed (shiftCompute .sar 14 0x2001 99).1 14 = -1 := by
  decide +kernel

theorem witness_MacTriggersAccumulate :
    (let s := fun t v => presents t v .word { port := [(Port.maco.key, 0x3FFE)], acc := 10 }
     (∀ t ∈ [Trigger.macMul, .macMac, .macMsu, .macLd], (s t 3).presented 0 = some ⟨t, 3, .word⟩) ∧
     ((after (.macMul 0) (s .macMul 3)).cog 0).acc = BitVec.ofInt 42 (-6) ∧ ((after (.macMac 0) (s .macMac 3)).cog 0).acc = 4 ∧
     ((after (.macMsu 0) (s .macMsu 3)).cog 0).acc = 16 ∧ ((after (.macLd 0) (s .macLd 0x2000)).cog 0).acc = BitVec.ofInt 42 (-8192)) ∧
    ((after (.macMul 0) (presents .macMul 3 .word { port := [(Port.maco.key, 0x3FFE), (Port.macm.key, 2)] })).cog 0).acc = 3 * 0x3FFE := by
  decide +kernel

theorem witness_LongUnitsScoreboardAndWrite :
    (let s := fun t v => presents t v .word { port := [(Port.divo.key, 100), (Port.divd.key, 2), (Port.digo.key, 0x199), (Port.macd.key, 7)], acc := 5 }
     (∀ t ∈ [Trigger.macRd, .divS, .divU, .digAdd, .digSub, .digAdj, .digCvt], (s t 7).presented 0 = some ⟨t, 7, .word⟩) ∧
     ((after (.divU 0) (s .divU 7)).cog 0).long.map (·.dests) = [[(2, 14), (3, 2)]] ∧ ((after (.divU 0) (s .divU 7)).cog 0).sb = 0xC ∧
     ((after (.divS 0) (s .divS 7)).cog 0).gWord 2 = 0 ∧
     ((after (.digAdd 0) (s .digAdd 1)).cog 0).long.map (·.dests) = [[(0, 0x200)]] ∧
     ((after (.digSub 0) (s .digSub 0x1000)).cog 0).sb = 1 ∧ ((after (.digAdj 0) (s .digAdj 7)).cog 0).sb = 1 ∧
     ((after (.digCvt 0) (s .digCvt 99)).cog 0).long.map (·.dests) = [[(0, 0x99), (1, 0)]] ∧
     ((after (.macRd 0) (s .macRd 0)).cog 0).long.map (·.dests) = [[(7, 5)]]) ∧
    (let o : LongOp := ⟨.div, [(2, 14), (3, 2)], 0, 0, false⟩
     let s := cogAt { run := .issuing, long := [o], sb := 0xC }
     s.cogRuns 0 = true ∧ (s.cog 0).long.find? (fun x => decide (x.unit = .div)) = some o ∧
     ((after (.longLatencyResult 0 .div) s).cog 0).gWord 3 = 2 ∧ ((after (.longLatencyResult 0 .div) s).cog 0).sb = 0) ∧
    (let s := cogAt { run := .issuing, long := [⟨.div, [(2, 14)], 4, 4, true⟩], sb := 4, cur := some { pc := 0, next := 6 }, todo := [⟨.fence, 0, .word⟩] }
     ((after (.longLatencyResult 0 .div) s).cog 0).flags = 0 ∧ ((after (.longLatencyResult 0 .div) s).cog 0).cur.map (fun k => (k.lmask, k.lval)) = some (4, 4)) := by
  decide +kernel

theorem witness_SimpleTriggersActAtOnce :
    (let s := fun t v => presents t v .word { loops := [⟨1, 2, 3⟩], pc := 0x40, ag0 := { len := 0 } }
     (∀ t ∈ [Trigger.agSet true, .agIdx false, .ldSet, .chSel, .br, .fence, .fsync, .lock, .lpExit], (s t 9).presented 0 = some ⟨t, 9, .word⟩ ∧ ((s t 9).cog 0).sbuf = []) ∧
     ((after (.agSet 0 true) (s (.agSet true) 9)).cog 0).ag1 = Ag.load 9 .word ∧ ((after (.agIdx 0 false) (s (.agIdx false) 9)).cog 0).ag0.idx = 9 ∧
     ((after (.ldSet 0) (s .ldSet 0x3FFF)).cog 0).get .ldr = sext 0x3FFF .word ∧ ((after (.chSel 0) (s .chSel 0x1009)).cog 0).sel = 9 ∧
     ((after (.br 0) (s .br 0x3FFF)).cog 0).cur = none ∧ ((after (.br 0) (s .br 0x3FFF)).cog 0).pc = 0x3F ∧
     ((after (.fence 0) (s .fence 0)).cog 0).cur = none ∧ ((after (.fence 0) (presents .fence 0 .word { sbuf := [⟨0, [7]⟩] })).cog 0).stall.map (·.1) = some 7 ∧ ((after (.fsync 0) (s .fsync 0)).cog 0).lines = [] ∧
     ((after (.lock 0) (s .lock 17)).cog 0).lock = some { limit := 16, done := 0, start := 0x40 } ∧ ((s .lock 17).cog 0).lock = none ∧ ((after (.lpExit 0) (s .lpExit 0)).cog 0).loops = []) := by
  decide +kernel

theorem witness_LoadTriggersStartALoad :
    (let s := fun t => presents t 2 .word { port := [(Port.ldo.key, 0x10)], sbuf := [⟨0x12, [7]⟩] }
     (∀ t ∈ [Trigger.ldW, .ldL, .ldT, .ldAg false, .ldAg true], (s t).presented 0 = some ⟨t, 2, .word⟩ ∧ ((s t).cog 0).lock = none) ∧
     ((s .ldW).cog 0).checkBuffer 0x12 1 = some (0, some 7) ∧ ((after (.ldW 0) (s .ldW)).cog 0).loads.map (·.answer) = [some (.value 7)] ∧
     ((presents .ldL 2 .word).cog 0).checkBuffer 2 2 = none ∧ ((after (.ldL 0) (presents .ldL 2 .word)).cog 0).loads.map (fun l => (l.addr, l.w)) = [(2, .long)] ∧
     ((after (.ldT 0) (presents .ldT 0x3FFE .word { port := [(Port.ldo.key, 5)] })).cog 0).loads.map (fun l => (l.addr, l.w)) = [(3, .triple)] ∧
     ((s (.ldAg true)).cog 0).checkBuffer 0 1 = none ∧ ((after (.ldAg 0 true) (s (.ldAg true))).cog 0).loads.length = 1) := by
  decide +kernel

theorem witness_StoreTriggersEnterTheBuffer :
    (let s := fun t n => presents t 2 .word { port := [(Port.stb.key, 0x10), (Port.sto.key, 0x1234567)], sbuf := List.replicate n ⟨0, [7]⟩ }
     (∀ t ∈ [Trigger.stW, .stL, .stT, .stAg false, .stAg true], (s t 3).presented 0 = some ⟨t, 2, .word⟩ ∧ ((s t 3).cog 0).lock = none) ∧
     spaceOf 0x12 ≠ .unmapped ∧ spaceOf 0x12 ≠ .prog ∧ spaceOf 0x1000012 = .prog ∧
     ((after (.stW 0) (presents .stW 2 .word { port := [(Port.stb.key, 0x1000010), (Port.sto.key, 5)] })).cog 0).sbuf = [⟨0x1000012, [5]⟩] ∧ (s .stW 4).presented 0 = some ⟨.stW, 2, .word⟩ ∧ ((after (.stW 0) (s .stW 4)).cog 0).stall.map (·.1) = some 3 ∧
     ((after (.stT 0) (s .stT 3)).cog 0).sbuf.getLast? = some ⟨0x12, [0x0567, 0x048D, 0]⟩ ∧
     ((after (.stAg 0 false) (s (.stAg false) 0)).cog 0).sbuf = [⟨0, [0x0567]⟩] ∧
     spaceOf 0x5000 = .unmapped ∧ ((after (.stL 0) (presents .stL 0 .word { port := [(Port.stb.key, 0x5000)] })).cog 0).sbuf = []) := by
  decide +kernel

theorem witness_DrainStoresExactlyTheEntry :
    (let s := fun a => cogAt { run := .issuing, sbuf := [⟨a, [0x1234, 0x0567]⟩] }
     (∀ a ∈ [0, 0x3FFE, 0x100000, 0x13FFFE, 0x1000000, 0x107FFFE], (s a).drainReady 0 = true ∧ (s a).domOn 64 = true ∧ Memory.wf (s a).mem = true ∧
       ((after (.storeBufferDrain 0) (s a)).cog 0).sbuf = []) ∧
     (after (.storeBufferDrain 0) (s 0x3FFE)).word (localBase 0 + 2 * 0x3FFF) = 0x0567 ∧
     (after (.storeBufferDrain 0) (s 0x13FFFE)).word (sharedBase 0 + 2 * 0x3FFFE) = 0x1234 ∧
     (after (.storeBufferDrain 0) (s 0x1000000)).byte (progBase 0 + 1) = 0x67) ∧
    (let l : Load := { addr := 3, w := .word, delay := 3 }
     let s := { cogAt { run := .issuing, loads := [l] } with mem := [(localBase 0 + 6, 9)] }
     (s.cog 0).loads.findIdx? (·.answer.isNone) = some 0 ∧ (s.cog 0).loadWaits l = false ∧
     ((after (.loadAnswer 0) s).cog 0).loads.map (·.answer) = [some (.value 9)]) := by
  decide +kernel

/-- A send channel: loose or ordered channel 5, enabled, for receiver `rcv`; member 0 of set 0 is sender 3. -/
def fabric (ord : Nat) (rcv : Nat) (s : State) : State :=
  withRegs s [(chanPage 5, R.FAB_CH_LO_EN, 1, 0), (chanPage 5, R.FAB_CH_LO_ORD, ord, 0), (chanPage 5, R.FAB_CH_LO_RCV, rcv, 0),
    (setPage 0 0, R.FAB_SET_MBR_VALID, 1, 0), (setPage 0 0, R.FAB_SET_MBR_SENDER, 0, 0)]

theorem witness_CallAndReturnKeepTheFrame :
    (let s := presents .call 0x100 .long { port := [(Port.sp.key, 1)] }
     s.presented 0 = some ⟨.call, 0x100, .long⟩ ∧ (s.cog 0).sbuf.length ≤ 2 ∧ (s.cog 0).get .sp = 1 ∧ ((after (.call 0) s).cog 0).get .sp = 0x3FFF ∧
     ((after (.call 0) s).cog 0).sbuf = [⟨0x3FFF, [6]⟩, ⟨0, [0]⟩] ∧ ((after (.call 0) s).cog 0).pc = 0x100) ∧
    (let s := fun (hi : Nat) => { presents .ret 0 .word { port := [(Port.sp.key, 0x10)] } with
       mem := [(0x20, 0x34), (0x22, 1)] ++ (if hi = 0 then [] else [(0x23, 0x20)]) ++ [(0x24, 3)] }
     (s 0).presented 0 = some ⟨.ret, 0, .word⟩ ∧ (s 0).readStack 0 0x10 2 = ([0x34, 1], none, s 0) ∧ bit 1 13 = false ∧
     ((after (.ret 0) (s 0)).cog 0).get .sp = 0x12 ∧ ((after (.ret 0) (s 0)).cog 0).pc = 0x4034 ∧
     (s 1).readStack 0 0x10 2 = ([0x34, 0x2001], none, s 1) ∧ (s 1).readStack 0 0x12 1 = ([3], none, s 1) ∧ (s 1).presentedClass 0 = none ∧
     ((after (.ret 0) (s 1)).cog 0).get .sp = 0x13 ∧ ((after (.ret 0) (s 1)).cog 0).flags = 3) ∧
    (let s := cogAt { run := .issuing, port := [(Port.sp.key, 0x10)] }
     s.presentedClass 0 = none ∧ (((s.returnFrom 0 3 0x77 0 0).cog 0).pc, ((s.returnFrom 0 3 0x77 0 0).cog 0).get .sp) = (0x77, 0x13)) := by
  decide +kernel

theorem witness_LoopTriggersKeepTheLevels :
    (let s := fun t n => presents t 9 .word { port := [(Port.lpc.key, n)], loops := [⟨1, 2, 3⟩] }
     (∀ t ∈ [Trigger.lpLoop, .lpSave, .lpRest], (s t 2).presented 0 = some ⟨t, 9, .word⟩) ∧ ((s .lpLoop 2).cog 0).get .lpc = 2 ∧
     ((after (.lpLoop 0) (s .lpLoop 2)).cog 0).loops = [⟨1, 2, 3⟩, ⟨6, 15, 2⟩] ∧
     ((s .lpLoop 0).cog 0).get .lpc = 0 ∧ ((after (.lpLoop 0) (s .lpLoop 0)).cog 0).pc = 16 ∧
     ((s .lpSave 0).cog 0).sbuf = [] ∧ ((s .lpSave 0).cog 0).loads = [] ∧ ((s .lpSave 0).cog 0).cur.map (·.saved) = some 0 ∧ Memory.wf (s .lpSave 0).mem = true ∧
     (after (.lpSave 0) (s .lpSave 0)).mem = [(18, 1), (20, 1), (24, 2), (28, 3)] ∧ ((after (.lpSave 0) (s .lpSave 0)).cog 0).sbuf = (List.range 4).map (fun j => ⟨30 + j, [0]⟩) ∧
     (s .lpRest 0).readStack 0 9 25 = (List.replicate 25 0, none, s .lpRest 0) ∧ ((after (.lpRest 0) (s .lpRest 0)).cog 0).loops = []) ∧
    (let ls : List Loop := [⟨0x7FFFF, 3, 2 ^ 28 - 1⟩, ⟨1, 2, 3⟩]
     ls.length ≤ 4 ∧ (∀ l ∈ ls, l.start < 0x80000 ∧ l.last < 0x80000 ∧ l.count < 2 ^ 28) ∧ wordsLoops (loopWords ls) = ls) := by
  decide +kernel

theorem witness_ChannelTriggersSendAndReceive :
    (let s := fun t ord => fabric ord 0 (presents t 0x3001 .long { port := [(Port.cho.key, 0x4005), (Port.chs.key, 77)], sel := 5 })
     (∀ t ∈ [Trigger.chSend, .chSend4, .chHzn, .chRecv, .chTry], (s t 1).presented 0 = some ⟨t, 0x3001, .long⟩) ∧
     (s .chSend 1).cogSender 0 = some 0 ∧ (s .chSend 1).domOn 3 = true ∧ (s .chSend 1).sendFails 5 0 77 = none ∧ (s .chSend 1).freeCredits 5 0 = 16 ∧ (s .chSend 1).chOrd 5 = true ∧
     ((s .chSend 1).cog 0).sbuf = [] ∧
     ((after (.chSend 0) (s .chSend 1)).chan 5).flight = [.msg ⟨5, 0, 77, 0, [0x3001, 0]⟩] ∧ ((after (.chSend 0) (s .chSend 1)).chan 5).used = [(0, 1)] ∧
     (s .chSend4 0).sendFails 5 0 77 = none ∧ ((after (.chSend4 0) (s .chSend4 0)).chan 5).flight.length = 1 ∧ ((after (.chSend4 0) (s .chSend4 0)).chan 5).used = [(0x400, 1)] ∧
     ((after (.chHzn 0) (s .chHzn 1)).chan 5).flight = [.token 0 77]) ∧
    (let m : Msg := ⟨5, 0, 77, 0, [9, 8]⟩
     let s := fun t ch (hs : List Msg) => { fabric 0 0 (presents t ch) with chans := [(5, { held := hs })] }
     (s .chRecv 5 [m]).canReceive 0 5 = true ∧ (s .chRecv 5 [m]).deliverable 5 = some m ∧ (s .chRecv 5 [m]).injArmed 0x0A0 3 = false ∧ (s .chRecv 5 [m]).injArmed 0x0A0 2 = false ∧
     ((after (.chRecv 0) (s .chRecv 5 [m])).cog 0).get .chr1 = 8 ∧ ((after (.chTry 0) (s .chTry 5 [m])).cog 0).get .chrs = 77 ∧
     ((after (.chTry 0) (s .chTry 5 [m])).chan 5).held = [] ∧
     (s .chTry 5 []).deliverable 5 = none ∧ bit ((after (.chTry 0) (s .chTry 5 [])).cog 0).flags.toNat flagZ = true ∧
     (s .chTry 6 []).canReceive 0 6 = false ∧ (after (.chTry 0) (s .chTry 6 [])).on (cogPage 0) R.COG_STORE_BADRX = true ∧
     (after (.chRecv 0) (s .chRecv 6 [])).on (cogPage 0) R.COG_STORE_BADRX = true) := by
  decide +kernel

theorem witness_TimeTriggersSampleArmAndKill :
    (let s := fun t v => { presents t v .word { port := [(Port.tms.key, 90), (Port.tmo.key, 2 ^ 39 + 7)], sample := 2 ^ 43, sampleStat := 5 } with tb := 2 ^ 42 + 100 }
     (s .tmNow 0).presented 0 = some ⟨.tmNow, 0, .word⟩ ∧ ((after (.tmNow 0) (s .tmNow 0)).cog 0).get .tmr = 100 ∧ ((after (.tmNow 0) (s .tmNow 1)).cog 0).get .tmr = 2 ∧ ((after (.tmNow 0) (s .tmNow 2)).cog 0).get .tmr = 5 ∧
     (s .tmArm 3).presented 0 = some ⟨.tmArm, 3, .word⟩ ∧ (s .tmArm 3).relNext = none ∧ (s .tmArm 3).logicalOf 0 = some 0 ∧ (s .tmArm 3).relOwner 0 3 = 0 ∧
     (s .tmArm 3).armRefuse 0 0 3 (2 ^ 39 + 7) = 0 ∧ actPh (2 ^ 39 + 7) = false ∧ (s .tmArm 3).injArmed (relPage 0) 0 = false ∧
     look (after (.tmArm 0) (s .tmArm 3)).rel 3 = some ⟨90, 2 ^ 39 + 7, 0, 2 ^ 42 + 100, true⟩ ∧ ((after (.tmArm 0) (s .tmArm 3)).cog 0).get .tmr = 2 ^ 42 - 10 ∧
     (after (.tmKill 0) { s .tmKill 3 with rel := [(3, ⟨2 ^ 41, 2 ^ 39 + 7, 0, 0, false⟩)] }).rel = [] ∧
     bit ((after (.tmKill 0) (s .tmKill 3)).cog 0).flags.toNat flagZ = true ∧
     (let t := (s .tmArm 3).setReg (R.REL_OWN_OWN0.addr (relPage 0) 0) 0xFFFFFFFF
      t.relNext = none ∧ t.logicalOf 0 = some 0 ∧ t.relOwner 0 3 = 15 ∧ (after (.tmArm 0) t).rel = [] ∧ ((after (.tmArm 0) t).cog 0).get .tmr = 2 ^ 42 - 134217728)) := by
  decide +kernel

theorem witness_EventWaitAndTraceTriggers :
    (let s := fun t v pwo => presents t v .word { port := [(Port.pwo.key, pwo), (Port.tms.key, 0)] }
     let r := fun (x : State) n => decide (x.rd (srcPage n) R.EV_SRC_CFG_CAS = 0) && bit (x.rd (srcPage n) R.EV_SRC_CFG_MASK) 0
     let t := { (s .evClaim 0 0).wr (srcPage 7) R.EV_SRC_CFG_MASK 1 with evSrc := [(7, { st := .pending })] }
     t.presented 0 = some ⟨.evClaim, 0, .word⟩ ∧ t.domOn 2 = true ∧ t.injArmed 0x040 1 = false ∧ t.bestOf (r t) = some 7 ∧
     ((after (.evClaim 0) t).cog 0).get .evr = 7 ∧ ((after (.evClaim 0) t).src 7).st = .claimed ∧
     (s .evClaim 0 0).bestOf (r (s .evClaim 0 0)) = none ∧ ((after (.evClaim 0) (s .evClaim 0 0)).cog 0).get .evr = 1023 ∧
     (let f := { s .evFin 7 0 with evSrc := [(7, { st := .claimed })] }
      (f.src 7).st = .claimed ∧ f.on (srcPage 7) R.EV_SRC_CFG_EN = false ∧ ((after (.evFin 0) f).src 7).st = .idle) ∧
     (s .pwWait 0 16).presented 0 = some ⟨.pwWait, 0, .word⟩ ∧ ((after (.pwWait 0) (s .pwWait 0 16)).cog 0).get .pwr = 20 ∧
     ((after (.pwWait 0) (s .pwWait 0 0)).cog 0).wait = some ⟨0, false, false, false, 0, 0, 0, false⟩ ∧ ((after (.pwWait 0) (s .pwWait 0 1)).dom 64).going = some .ret ∧
     ((after (.pwWait 0) (s .pwWait 0 2)).dom 64).going = some .off ∧ bit 0 3 = false ∧
     (s .dbgStim 5 0).on 0x032 R.TRC_CTRL_EN = false ∧ (after (.dbgStim 0) (s .dbgStim 5 0)).rd 0x032 R.TRC_STAT_DROP = 1 ∧
     (let d := withRegs (s .dbgStim 5 0) [(0x032, R.TRC_CTRL_EN, 1, 0), (0x032, R.TRC_MASK_PORTS, 1, 0)]
      d.on 0x032 R.TRC_CTRL_EN = true ∧ bit (d.rd 0x032 R.TRC_MASK_PORTS) 0 = true ∧ d.injArmed 0x032 0 = false ∧
      (after (.dbgStim 0) d).trace = [⟨0, 0, 0, 0, 0, 5⟩])) := by
  decide +kernel

theorem witness_BundlesIssueAndComplete :
    (let s := cogAt { run := .issuing, todo := [⟨.ldSet, 1, .word⟩, ⟨.chSel, 2, .word⟩], cur := some { pc := 0, next := 6 } }
     (s.cog 0).todo.length = 2 ∧ ((s.accepted 0 ⟨1, 1⟩).cog 0).todo.length = 1 ∧ ((s.accepted 0 ⟨1, 1⟩).cog 0).cur.map (·.fval) = some 1 ∧
     (let t := presents .ldSet 1
      ((t.accepted 0 ⟨1, 1⟩).cog 0).flags = 1 ∧ ((t.accepted 0 ⟨1, 1⟩).cog 0).pc = 6 ∧ ((t.accepted 0 ⟨1, 1⟩).cog 0).cur = none)) ∧
    (let s := fun (e : Option (Nat × Word)) f => cogAt { run := .issuing, todo := [⟨.ldSet, 1, .word⟩], cur := some { pc := 0, next := 6, fence := f, exret := e }, sbuf := (if f then [⟨0, [7]⟩] else []), port := [(Port.sp.key, 0x10)] }
     (((s none true).accepted 0).cog 0).stall = some (7, 0) ∧ bit (0x8 : Word).toNat flagVT = false ∧ (s (some (9, 8)) false).presentedClass 0 = none ∧
     (((s (some (9, 8)) false).accepted 0 ⟨1, 1⟩).cog 0).flags = 9 ∧ (((s (some (9, 8)) false).accepted 0 ⟨1, 1⟩).cog 0).pc = 9 ∧
     (((s (some (9, 8)) false).accepted 0 ⟨1, 1⟩).cog 0).get .sp = 0x13) ∧
    (let s := cogAt { run := .issuing, g := [(1, 9)], lines := [⟨0, [2, 1, 2, 0x65, 0x21], []⟩] }
     s.cogRuns 0 = true ∧ (s.cog 0).fetchBytes 0 19 = [(2, false), (1, false), (2, false), (0x65, false), (0x21, false)] ∧ bundleLength 2 = 5 ∧
     (match decodeBundle [2, 1, 2, 0x65, 0x21] with | .ok b => decide (b.pred = none) && b.moves.all (fun m => !m.guarded) && decide ((s.offlinePort 0 0 b.moves) = none) | .error _ => false) = true ∧
     (s.cog 0).misaligned [⟨.alu false .add, 5, .word⟩] = none ∧ s.stackTrap 0 (s.cog 0) ⟨.alu false .add, 5, .word⟩ = none ∧
     ((after (.bundle 0) s).cog 0).todo = [⟨.alu false .add, 5, .word⟩] ∧ ((after (.bundle 0) s).cog 0).gWord 2 = 9 ∧
     ((after (.bundle 0) s).cog 0).cur.map (·.next) = some 5) ∧
    (let s := fun m => { cogAt { run := .issuing, miss := m, pc := 0x24 } with mem := [(0x2000044, 3)] }
     (s true).cogRuns 0 = true ∧ ((s true).cog 0).miss = true ∧ ((after (.lineFetch 0) (s true)).cog 0).inUse.map (·.addr) = some 0x24 ∧
     (s false).keptLoop 0 = none ∧ ((s false).cog 0).endMark = none ∧ ((s false).cog 0).coming = none ∧ ((s false).cog 0).lines = [] ∧ ((after (.prefetch 0) (s false)).cog 0).lines.map (fun f => (f.addr, f.bytes.getD 4 0)) = [(0x40, 3)]) := by
  decide +kernel

theorem witness_EntriesAndLockTimeouts :
    (let s := cogAt { run := .issuing, port := [(Port.sp.key, 0x100)], flags := 0x240, pc := 0x54321, trap := some { vec := 7, cause := 2, info := 5, pc := 0x54321, ret := 0x54321 } }
     let t := after (.exceptionEntry 0) s
     s.cogRuns 0 = true ∧ s.on (cogPage 0) R.COG_STK_EN = false ∧ s.on 0x032 R.TRC_CTRL_TRAPS = false ∧
     t.rd (cogPage 0) R.COG_TRAP_VEC = 7 ∧ t.rd (cogPage 0) R.COG_TRAP_PC_PC = 0x54321 ∧ t.rd (cogPage 0) R.COG_TRAP_INFO_INFO = 5 ∧ (t.cog 0).get .sp = 0xFD ∧
     (t.cog 0).sbuf = [⟨0xFD, [0x0321]⟩, ⟨0xFE, [0x2015]⟩, ⟨0xFF, [0x240]⟩] ∧ (t.cog 0).pc = 0xE0 ∧ (t.cog 0).trap = none) ∧
    (let s := { (cogAt { run := .issuing, port := [(Port.sp.key, 2)], pc := 3 }).wr (srcPage 7) R.EV_SRC_CFG_MASK 1 with evSrc := [(7, { st := .pending })] }
     let t := after (.eventEntry 0) s
     s.presentedClass 0 = some 0 ∧ (s.cog 0).asyncReady = true ∧ levelOf (s.cog 0).flags < 1 ∧ (t.cog 0).get .sp = 0x3FFF ∧ levelOf (t.cog 0).flags = 1 ∧
     (t.cog 0).pc = 0x200 ∧ (t.cog 0).entering = some 0) ∧
    (let s := { cogAt { run := .issuing, lock := some { limit := 1, done := 1, start := 9 }, pc := 12 } with tb := 4001 }
     (s.cog 0).atBoundary = true ∧ ((after (.lockLimitTimeout 0) s).cog 0).trap.map (fun t => (t.vec, t.cause, t.info)) = some (10, 1, 9)) ∧
    (let s := { presents .chRecv 5 .word { lock := some { limit := 4, done := 0, start := 9 }, stall := some (6, 0) } with tb := 4001 }
     0 + 4000 < s.tb ∧ (s.cog 0).todo ≠ [] ∧ (s.cog 0).sequence = some { limit := 4, done := 0, start := 9 } ∧ ((after (.lockStallTimeout 0) s).cog 0).lock.map (·.late) = some true) := by
  decide +kernel

theorem witness_WaitsEndAndCogsStop :
    (let w : Waiting := ⟨0, false, false, true, 0, 0, 0, false⟩
     let s := cogAt { run := .issuing, wait := some w }
     (s.cog 0).wait = some w ∧ s.domOn 64 = true ∧ (s.dom 64).emu = none ∧ (s.dom 8).idleSince = none ∧ s.waitCauses 0 w = 4 ∧
     ((after (.waitWake 0) s).cog 0).get .pwr = 4 ∧ ((after (.pwrKick 0) s).cog 0).get .pwr = 12 ∧ s.pageOn (cogPage 0) = true ∧ ((after (.cogKick 0) s).cog 0).wait = none ∧ w.mode ≠ 2) ∧
    (let s := fun r => (cogAt { run := r, todo := [⟨.ldSet, 1, .word⟩], cur := some { pc := 0, next := 6 } }).wr (cogPage 0) R.PG_CTRL_EN 1
     (∀ r ∈ [Run.halted, .issuing], (s r).pageOn (cogPage 0) = true ∧ (s r).on (cogPage 0) R.PG_CTRL_EN = true ∧
       (after (.cogDisable 0) (s r)).on (cogPage 0) R.PG_CTRL_EN = false) ∧ ((s .halted).cog 0).lockup = false ∧
     (after (.cogDisable 0) (s .issuing)).on (cogPage 0) R.PG_STAT_BUSY = true) ∧
    (let s := fun f => (device [8]).wr (casPage 0) R.CAS_MAP_SPARE_FOR f
     (s 3).pageOn (casPage 0) = true ∧ (s 3).on (casPage 0) R.CAS_MAP_BUSY = false ∧ (s 3).rd (casPage 0) R.CAS_MAP_SPARE_FOR = 3 ∧
     (after (.repairGo 0 5) (s 3)).rd (casPage 0) R.CAS_MAP_REJECT_CAUSE = 1 ∧ (after (.repairGo 0 5) (s 3)).on (casPage 0) R.CAS_MAP_REJECT = true ∧
     ((s 3).wr (casPage 0) R.CAS_MAP_BUSY 1).on (casPage 0) R.CAS_MAP_BUSY = true ∧ after (.repairGo 0 5) ((s 3).wr (casPage 0) R.CAS_MAP_BUSY 1) = (s 3).wr (casPage 0) R.CAS_MAP_BUSY 1 ∧
     (s 31).repairRefuse 0 5 = 0 ∧ (after (.repairGo 0 5) (s 31)).on (casPage 0) R.CAS_MAP_BUSY = true ∧ (after (.repairGo 0 5) (s 31)).repairs = [(0, (5, 0))]) := by
  decide +kernel
def full (t : Trigger) (n : Nat) : State := presents t 2 .word { sbuf := List.replicate n ⟨0, [7]⟩, port := [(Port.sp.key, 0x10)] }

/-- A stack whose word at byte address `a` is uncorrectable, below a frame with bit 13 in its second word. -/
def badStack (a : Nat) (t : Trigger) : State :=
  { presents t 0 .word { port := [(Port.sp.key, 0x10)] } with mem := [(0x20, 0x34), (0x23, 0x20), (0x24, 3)], bad := [(a, .uncorrectable)] }
/-- A full store buffer holds call and lp.t.save; an uncorrectable word traps ctl.t.ret and lp.t.rest. -/
theorem witness_stackTriggersStallAndTrap :
    gives (.call 0) (full .call 3) ((full .call 3).stallCog 0 3) = true ∧
    (let traps := fun (e : Instr) s => ((after e s).cog 0).trap.map fun t => (t.vec, t.cause, t.info)
     ((badStack 0x20 .ret).readStack 0 0x10 2).2.1 = some (1, 0x10) ∧ traps (.ret 0) (badStack 0x20 .ret) = some (3, 1, 0x10) ∧
     ((badStack 0x24 .ret).readStack 0 0x10 2).2.1 = none ∧ ((badStack 0x24 .ret).readStack 0 0x12 1).2.1 = some (1, 0x12) ∧
     traps (.ret 0) (badStack 0x24 .ret) = some (3, 1, 0x12) ∧
     ((badStack 0x30 .lpRest).readStack 0 0 25).2.1 = some (1, 0x18) ∧ traps (.lpRest 0) (badStack 0x30 .lpRest) = some (3, 1, 0x18)) ∧
    (let s := full .lpSave 2
     let u := s.saveWords 0 2 (loopWords (s.cog 0).loops)
     ((u.cog 0).cur.map (·.saved)) = some 25 ∧ gives (.lpSave 0) s (u.accepted 0) = true) := by
  decide +kernel

/-- A send waits for the store buffer and for credits, fails on a wrong channel; a token of no use is only accepted; ch.t.recv waits for a message. -/
theorem witness_channelTriggersWaitAndFail :
    (let s := fun t ord sb us (cs : Nat) => { fabric ord 0 (presents t 0x3001 .long { port := [(Port.chs.key, 77)], sel := cs, sbuf := sb }) with chans := [(5, { used := us })] }
     (∀ t ∈ [Trigger.chSend, .chSend4, .chHzn], gives (match t with | .chSend => .chSend 0 | .chSend4 => .chSend4 0 | _ => .chHzn 0) (s t 1 [⟨0, [7]⟩] [] 5)
       ((s t 1 [⟨0, [7]⟩] [] 5).stallCog 0 7) = true) ∧
     (s .chSend 1 [] [(0, 16)] 5).freeCredits 5 0 = 0 ∧ (s .chSend 1 [] [(0, 16)] 5).sendFails 5 0 77 = none ∧
     gives (.chSend 0) (s .chSend 1 [] [(0, 16)] 5) ((s .chSend 1 [] [(0, 16)] 5).stallCog 0 6) = true ∧
     (∃ n, (s .chSend 1 [] [] 6).sendFails 6 0 77 = some n ∧ gives (.chSend 0) (s .chSend 1 [] [] 6) (((s .chSend 1 [] [] 6).fabErr 6 0 n).accepted 0) = true) ∧
     gives (.chHzn 0) (s .chHzn 0 [] [] 5) ((s .chHzn 0 [] [] 5).accepted 0) = true) ∧
    (let s := fabric 0 0 (presents .chRecv 5)
     (s.takeMsg 5).1 = none ∧ gives (.chRecv 0) s ((s.takeMsg 5).2.stallCog 0 6) = true ∧ s.canReceive 0 5 = true) := by
  decide +kernel

/-- A claim under injection and without a controller; a finish of a source that is not claimed, of one to be raised anew, and without a controller. -/
theorem witness_eventTriggersAtTheirEdges :
    (let s := (presents .evClaim 0).wr 0x040 R.PG_INJ_INJ 2
     s.injArmed 0x040 1 = true ∧ gives (.evClaim 0) s (((s.injTake 0x040 1).setCog 0 ((s.cog 0).set .evr 1023)).accepted 0 ⟨1, 1⟩) = true) ∧
    (let off := fun (t : Trigger) => { presents t 7 with doms := [(2, { st := .off }), (8, { st := .on }), (64, { st := .on })] }
     (off .evClaim).domOn 2 = false ∧ gives (.evClaim 0) (off .evClaim) (((off .evClaim).setCog 0 (((off .evClaim).cog 0).set .evr 1023)).accepted 0 ⟨1, 1⟩) = true ∧
     gives (.evFin 0) (off .evFin) (((off .evFin).watchdogKick 0 2).accepted 0) = true) ∧
    (let s := presents .evFin 7
     (s.src 7).st = .idle ∧ gives (.evFin 0) s (((s.bump 0x040 R.EV_ERR_BADFIN).watchdogKick 0 2).accepted 0) = true) ∧
    (let x : EvSource := { st := .claimed, rep := true }
     let s := { (presents .evFin 7).wr (srcPage 7) R.EV_SRC_CFG_EN 1 with evSrc := [(7, x)] }
     isLevelSource 7 = false ∧ s.on (srcPage 7) R.EV_SRC_CFG_EN = true ∧
     gives (.evFin 0) s ((((s.setSrc 7 { x with st := .idle, rep := false, vec := none }).arrive 7).watchdogKick 0 2).accepted 0) = true) := by
  decide +kernel

/-- A WAIT behind a load in flight and with a cause that holds; the stimulus packets of a full and of a masked trace. -/
theorem witness_waitAndTraceAtTheirEdges :
    (let l : Load := { addr := 3, w := .word, delay := 3 }
     let k0 : Current := { pc := 0, next := 6 }
     let s := presents .pwWait 0 .word { loads := [l] }
     let w : Waiting := { mode := 0, wev := false, wch := false, wtm := false, chan := 0, stamp := 0 }
     let s1 := s.setCog 0 { s.cog 0 with cur := some { k0 with wait := some { w with cause := s.waitCauses 0 w } } }
     gives (.pwWait 0) s (s1.stallCog 0 2) = true) ∧
    (let s := presents .pwWait 0 .word { port := [(Port.pwo.key, 16)] }
     let w0 : Waiting := { mode := 0, wev := false, wch := false, wtm := true, chan := 0, stamp := 0 }
     let w := { w0 with cause := s.waitCauses 0 w0 }
     let s1 := s.setCog 0 { s.cog 0 with cur := some { pc := 0, next := 6, wait := some w } }
     let u := (s1.bump (cogPage 0) R.COG_PWR_WAITS).wr (cogPage 0) R.COG_PWR_MODE 0
     w.cause = 4 ∧ gives (.pwWait 0) s ((u.setCog 0 ((u.cog 0).set .pwr (16 + (4 ||| u.waitCauses 0 w)))).accepted 0) = true) ∧
    (let s := fun m inj lost => { withRegs (presents .dbgStim 5) [(0x032, R.TRC_CTRL_EN, 1, 0), (0x032, R.TRC_MASK_PORTS, m, 0), (0x032, R.PG_INJ_INJ, inj, 0)] with traceLost := lost }
     gives (.dbgStim 0) (s 2 0 0) ((s 2 0 0).accepted 0) = true ∧ (after (.dbgStim 0) (s 1 1 0)).traceLost = 1 ∧
     (after (.dbgStim 0) (s 1 0 3)).trace = [{ stamp := 0, type := 7, value := 3 }, ⟨0, 0, 0, 0, 0, 5⟩] ∧ (after (.dbgStim 0) (s 1 0 3)).traceLost = 0) := by
  decide +kernel

/-- The ends of a bundle: a transfer, a loop-back, the last iteration, and the plain order with the port that step 7 writes. -/
theorem witness_acceptedTriggerTakesEachPath :
    (let s := fun (k : Current) ls => cogAt { run := .issuing, todo := [⟨.ldSet, 1, .word⟩], cur := some { k with results := [(.alu0r, 9)] }, loops := ls }
     let ends := fun (k : Current) ls => let c := ((s k ls).accepted 0 ⟨1, 1⟩).cog 0; (c.pc, c.loops, c.cur.isNone, c.get .alu0r, c.flags)
     ends { pc := 0, next := 6, target := some 0x99 } [⟨1, 0, 2⟩] = (0x99, [⟨1, 0, 2⟩], true, 9, 1) ∧
     ends { pc := 0x20, next := 0x26 } [⟨5, 0x20, 2⟩] = (5, [⟨5, 0x20, 1⟩], true, 9, 1) ∧
     ends { pc := 0x20, next := 0x26 } [⟨5, 0x20, 1⟩] = (0x26, [], true, 9, 1) ∧
     ends { pc := 0x20, next := 0x26, skip := some 0x40 } [] = (0x40, [], true, 9, 1)) := by
  decide +kernel

/-- LINE_FETCH for a bundle whose line is not held reads that line; with all held it goes on to the issue. Vector 8 and 9 requests; an event that is replaced. -/
theorem witness_fetchAndRequestEntries :
    (let s := cogAt { run := .issuing, pc := 0x24 }
     s.cogRuns 0 = true ∧ (s.cog 0).lacks 0x24 = some 0x20 ∧ (s.cog 0).atBoundary = true ∧ gives (.lineFetch 0) s (((s.fetchStall 0).readLine 0 0x20).issue 0) = true ∧
     (let t := { s with cogs := [(0, { s.cog 0 with lines := [⟨0x20, List.replicate 32 0, []⟩] })] }
      (t.cog 0).lacks 0x24 = none ∧ gives (.lineFetch 0) t (t.issue 0) = true)) ∧
    (let s := fun m9 w8 => cogAt { run := .issuing, port := [(Port.sp.key, 0x100)], pc := 3, mon9 := m9, warn8 := w8 }
     ((s true true).cog 0).asyncReady = true ∧ (s true true).belowLo 0 0xFD = false ∧
     ((after (.exceptionEntry 0) (s true true)).cog 0).pc = 0x120 ∧ ((after (.exceptionEntry 0) (s true true)).cog 0).warn8 = true ∧
     ((after (.exceptionEntry 0) (s false true)).cog 0).pc = 0x100 ∧ ((after (.exceptionEntry 0) (s false true)).cog 0).sbuf.length = 3) ∧
    (let s := { (cogAt { run := .issuing, pc := 0x200, entering := some 1 }).wr (srcPage 7) R.EV_SRC_CFG_MASK 1 with evSrc := [(7, { st := .pending })] }
     s.presentedClass 0 = some 0 ∧ (s.cog 0).asyncReady = true ∧ ((after (.eventEntry 0) s).cog 0).sbuf = [] ∧ ((after (.eventEntry 0) s).cog 0).entering = some 0) := by
  decide +kernel

/-- Channel 5 enabled, loose (0) or ordered (1), with a receiver and flits; member 0 of set 0 is sender 0x110. -/
def channel (ord rcv : Nat) (c : Chan) : State :=
  { withRegs (device [8, 64]) [(chanPage 5, R.FAB_CH_LO_EN, 1, 0), (chanPage 5, R.FAB_CH_LO_ORD, ord, 0), (chanPage 5, R.FAB_CH_LO_RCV, rcv, 0),
      (setPage 0 0, R.FAB_SET_MBR_VALID, 1, 0), (setPage 0 0, R.FAB_SET_MBR_SENDER, 0x110, 0), (0x0A0, R.FAB_CH_IDX_IDX, 5, 0)] with chans := [(5, c)] }
/-- Queue 3, enabled with 4 quads. -/
def queued (x : Queue) : State :=
  { withRegs (device []) [(qPage 3, R.QCFG_EN, 1, 3), (qPage 3, R.QCFG_SIZE, 2, 3)] with queues := [(3, x)] }

theorem witness_HostWritesOfStoresLandWhereTheyAim :
    (let s := device [8, 64]
     let w := fun (a : BitVec 29) => after (.bar2Write a [(true, 0x34), (true, 0xFF)] false) s
     Memory.wf s.mem = true ∧ s.windowOn (windowOf 0x7FFE) = true ∧ s.windowOn (windowOf 0x107FFFE) = true ∧ (w 0).word 0 = 0x3F34 ∧ (w 0x7FFE).word 0x7FFE = 0x3F34 ∧
     (w 0x7FFE).byte 0x8000 = 0 ∧ (w 0x1000000).word 0x1000000 = 0x3F34 ∧ (w 0x107FFFE).word 0x107FFFE = 0x3F34) ∧
    (let s := device []
     (after (.bar2Write 0x10 [(true, 1)] true) s).elog = [⟨0x10, 4, 0⟩] ∧ (after (.bar2Write 0x10 [(true, 1)] true) s).mem = []) ∧
    (let s := { device [8, 64] with mem := [(0x7FFF, 7)] }
     s.windowOn (windowOf 0x7FFF) = true ∧ s.windowOn (windowOf 0x8000) = false ∧ (after (.bar2Read 0x7FFF 2) s).out = [.completion 0x7FFF [7, 0] false]) := by
  decide +kernel

theorem witness_ScrubsAndWriteBacksCorrect :
    (let s := { device [] with writeBacks := [4, 6], bad := [(6, .one)] }
     (6 : BitVec 29).toNat ∈ s.writeBacks ∧ look s.bad 6 = some .one ∧ (after (.correctedWriteBack 6) s).bad = [] ∧ (after (.correctedWriteBack 6) s).writeBacks = [4]) ∧
    (let s := { withRegs (device [8, 64, 56]) [(casPage 0, R.CAS_SCRUB_LM_EN, 1, 0), (casPage 0, R.CAS_SCRUB_PM_PERIOD, 3, 0), (0x07F, R.CAM_SCRUB_PERIOD, 3, 0)] with bad := [(6, .one)] }
     s.domOn 64 = true ∧ s.domOn 8 = true ∧ s.domOn 56 = true ∧ s.on (casPage 0) R.CAS_SCRUB_LM_EN = true ∧ s.injArmed (cogPage 0) 0 = false ∧ s.injArmed (cogPage 0) 1 = false ∧
     look s.bad (localBase 0 + 2 * 3) = some .one ∧ look s.bad (localBase 0 + 2 * 4) = none ∧
     (after (.sramScrub (.loc 0) 3) s).rd (cogPage 0) R.COG_LM_ERR_CE = 1 ∧ (after (.sramScrub (.loc 0) 3) s).writeBacks = [6] ∧ (after (.sramScrub (.loc 0) 4) s).writeBacks = [] ∧
     s.rd (casPage 0) R.CAS_SCRUB_PM_PERIOD ≠ 0 ∧ (after (.mramScrub (.prog 0) 5 true) s).on (casPage 0) R.CAS_SCRUB_PM_DONE = true ∧
     s.rd 0x07F R.CAM_SCRUB_PERIOD ≠ 0 ∧ (after (.mramScrub (.cam 0) 5 true) s).on 0x07F R.CAM_SCRUB_DONE = true) := by
  decide +kernel

theorem witness_FabricMovesMessagesAndCredits :
    (let m : Msg := ⟨5, 0x110, 77, 0, [1]⟩
     let s := fun o => channel o (if o = 0 then 0x200 else 0x140) { flight := [.token 3 1, .msg m] }
     (∀ o ∈ [0, 1], ((s o).chan 5).firstOf 0x110 = some (.msg m) ∧ (s o).domOn 3 = true ∧ (s o).on (chanPage 5) R.FAB_CH_LO_TAN = false ∧ (s o).chEn 5 = true ∧
       (s o).chOrd 5 = decide (o = 1) ∧ (s o).rcvCas 5 = none ∧ (s o).rd (chanPage 5) R.FAB_CH_LO_RCV < 0x300 ∧ (s o).injArmed 0x0A0 0 = false ∧ (s o).injArmed 0x0A0 1 = false ∧ (s o).injArmed 0x0A0 4 = false) ∧
     ((after (.messageArrival 5 0x110) (s 0)).chan 5) = { flight := [.token 3 1], held := [m] } ∧
     ((after (.messageArrival 5 0x110) (s 1)).chan 5).held = [m] ∧ ((after (.messageArrival 5 0x110) (s 1)).member 5 0x110).horizon = some 77) ∧
    (let s := channel 1 0x140 { flight := [.token 0x110 9], used := [(0x110, 3)], back := [(0x110, 2)] }
     (s.chan 5).firstOf 0x110 = some (.token 0x110 9) ∧ ((after (.horizonTokenArrival 5 0x110) s).member 5 0x110).horizon = some 9 ∧
     s.creditKey 5 0x110 = 0x110 ∧ ((after (.creditReturn 5 0x110) s).chan 5).used = [(0x110, 1)] ∧ ((after (.creditReturn 5 0x110) s).chan 5).back = [(0x110, 0)]) ∧
    (let s := { channel 1 0x140 {} with tb := 500 }
     s.isMember 5 0x110 = true ∧ s.horizonOf 5 0x110 none = some 500 ∧ s.tokensOn 0x110 = true ∧ 0x110 ∈ s.setSenders (s.rd (chanPage 5) R.FAB_CH_LO_SET) ∧ (s.member 5 0x110).lastSent = none ∧ s.replayDiscards 0x110 = false ∧
     ((after (.automaticToken 5 0x110 none) s).chan 5).flight = [.token 0x110 500]) ∧
    (let c : Cog := { run := .issuing, todo := [⟨.chRecv, 5, .word⟩], cur := some { pc := 0, next := 6 }, stall := some (6, 0) }
     let s := { channel 0 0 { held := [⟨5, 0x110, 77, 0, [9]⟩] } with cogs := [(0, c)] }
     (s.deliverable 5).isSome = true ∧ (s.presented 0).map (·.op) = some .chRecv ∧ ((after (.mergeDeliverable 5) s).cog 0).get .chr0 = 9) := by
  decide +kernel

theorem witness_ChannelsOpenCloseStallAndTakeCommands :
    (let s := (channel 0 0x200 {}).wr (chanPage 5) R.FAB_CH_LO_EN 0
     s.recording = false ∧ s.rd 0x0A0 R.FAB_CH_IDX_IDX = 5 ∧ s.chEn 5 = false ∧ (s.chan 5).draining = false ∧
     (after (.channelEnable (BitVec.ofNat 32 (2 * (s.reg (R.FAB_CH_LO_EN.addr (chanPage 5) 0)).toNat / 2))) s).chEn 5 = true ∧
     (after (.channelEnable 0xA80) s).chEn 5 = false ∧ (after (.channelEnable 0xA80) s).rd (chanPage 5) R.FAB_CH_STAT_REFUSE ≠ 0) ∧
    (let s := channel 0 0x200 { flight := [.token 1 1], held := [⟨5, 0x110, 77, 0, [9]⟩] }
     s.chEn 5 = true ∧ s.chDiffers 5 (s.reg (R.FAB_CH_LO_EN.addr (chanPage 5) 0)).toNat = false ∧
     (after (.channelDisable (s.reg (R.FAB_CH_LO_EN.addr (chanPage 5) 0))) s).chan 5 = { flight := [.token 1 1], draining := true }) ∧
    (let s := channel 0 0x200 { draining := true }
     (s.chan 5).draining = true ∧ (s.chan 5).pendEn = false ∧ ((after (.channelDrainDone 5) s).chan 5).draining = false) ∧
    (let s := fun o => channel o 0x140 {}
     bit 0x8123 18 = false ∧ (∀ o ∈ [0, 1], ((s o).knownChans.any fun ch => (s o).chEn ch && (s o).chOrd ch && decide ((s o).rd (chanPage ch) R.FAB_CH_LO_SET = 0)) = decide (o = 1)) ∧
     (after (.setMemberWrite 0x8123) (s 0)).rd (setPage 0 0) R.FAB_SET_MBR_SENDER = 0x123 ∧ (after (.setMemberWrite 0x8123) (s 1)).on (setPage 0 0) R.FAB_SET_MBR_REJECT = true ∧
     (after (.setMemberWrite 0x8123) (s 1)).rd (setPage 0 0) R.FAB_SET_MBR_SENDER = 0x110) ∧
    (let m : Msg := ⟨5, 0x111, 77, 0, [9]⟩
     let s := { (channel 1 0x140 { held := [m], blocked := some (77, 0x111, 0) }).wr 0x0A0 R.FAB_HZN_DEAD 1 with tb := 1001 }
     leastMsg (s.chan 5).held = some m ∧ s.rd 0x0A0 R.FAB_HZN_DEAD ≠ 0 ∧ 0 + s.rd 0x0A0 R.FAB_HZN_DEAD * 1000 < s.tb ∧ (s.activeMembers 5).find? (s.blocks 5 m) = some 0x110 ∧
     (after (.horizonStall 5) s).rd 0x0A0 R.FAB_STALL_SENDER = 0x110 ∧ (after (.horizonStall 5) s).rd 0x0A0 R.FAB_STALL_CHAN = 5) ∧
    (let s := fun e => (channel 1 0x140 { held := [⟨5, 0x110, 77, 0, [9]⟩], lastDelivered := some 70 }).wr (chanPage 5) R.FAB_CH_LO_EN e
     (s 1).chEn 5 = true ∧ (s 1).chOrd 5 = true ∧ 0x110 ∈ (s 1).setSenders ((s 1).rd (chanPage 5) R.FAB_CH_LO_SET) ∧ (s 1).injArmed 0x0A0 4 = false ∧ (s 1).recording = false ∧ (s 1).hubHold = [] ∧
     (after (.fabCmdRetire 5 0x110) (s 1)).member 5 0x110 = { retired := true } ∧
     (after (.fabCmdRestore 5 0x110) (s 1)).member 5 0x110 = { horizon := some 70 } ∧
     ((after (.fabCmdFlush 5 0x110) (s 1)).chan 5).back = [(0x110, 1)] ∧ ((after (.fabCmdFlush 5 0x110) (s 1)).chan 5).held = [] ∧
     (s 0).chEn 5 = false ∧ (∀ e ∈ [Instr.fabCmdRetire 5 3, .fabCmdRestore 5 3, .fabCmdFlush 5 3], (after e (s 0)).on 0x0A0 R.FAB_CMD_REJECT = true)) := by
  decide +kernel

theorem witness_QueuesPushInOrder :
    (let d : Quad := ⟨[1, 0, 0, 0], 1, false, false, false, false⟩
     let s := fun k n x => (queued { x with opened := [7], quads := List.replicate n d }).wr (qPage 3) R.QSRC_KIND k 3
     let b : Queue := { buffer := [(9, true, false), (8, true, false)] }
     (s 0 3 {}).qOn 3 = true ∧ (s 0 3 {}).qCap 3 = 4 ∧ (s 0 0 {}).qrd 3 R.QSRC_KIND = 0 ∧ (s 2 0 {}).qrd 3 R.QSRC_KIND = 2 ∧
     ((after (.qpush 3 9 false) (s 0 4 {})).queue 3).opened = [7, 9] ∧
     ((after (.qpush 3 9 true) (s 0 3 {})).queue 3).quads.getLast? = some ⟨[7, 9, 0, 0], 2, true, false, false, false⟩ ∧
     (after (.qpush 3 9 true) (s 0 4 {})).rd (qPage 3) R.QCNT_HDROP 3 = 1 ∧
     ((after (.queuePush 3) (s 2 0 { buffer := [(9, false, false)] })).queue 3).opened = [7, 9] ∧
     ((after (.queuePush 3) (s 2 3 b)).queue 3).buffer = [(8, true, false)] ∧ ((after (.queuePush 3) (s 2 4 b)).queue 3).waiting = some (9, true) ∧
     ((after (.queuePushResume 3) (s 2 3 { b with waiting := some (9, true) })).queue 3).waiting = none ∧
     (let u := { (s 0 1 {}).wr (qPage 3) R.QTMO_NS 50 3 with tb := 50 }
      u.frozen (qPage 3) = false ∧ u.qrd 3 R.QTMO_NS ≠ 0 ∧ 0 + u.qrd 3 R.QTMO_NS ≤ u.tb ∧
      ((after (.queueTimeout 3) u).queue 3).quads.getLast? = some ⟨[7, 0, 0, 0], 1, false, true, false, false⟩)) := by
  decide +kernel

theorem witness_QueuesPopDropFlushSendAndEnable :
    (let d : Nat → Bool → Quad := fun w e => ⟨[w, 0, 0, 0], 1, e, false, false, false⟩
     let s := queued { quads := [d 1 false, d 2 true, d 3 false], opened := [7] }
     let c := fun (w : Nat) => { withRegs s [(chanPage 5, R.FAB_CH_LO_EN, 1, 0), (chanPage 5, R.FAB_CH_LO_RCV, 0x303, 0)] with chans := [(5, { held := [⟨5, 0, 0, 0, [w]⟩] })] }
     s.pageOn (qPage 3) = true ∧ s.qrd 3 R.QCFG_EN = 1 ∧ ((after (.qcmdPop 3) s).queue 3).quads = [d 2 true, d 3 false] ∧
     ((after (.qcmdDrop 3) s).queue 3).quads = [d 3 false] ∧ ((after (.qcmdDrop 3) (queued { quads := [d 1 false], opened := [7] })).queue 3).dropping = true ∧
     (s.queue 3).quads.length < s.qCap 3 ∧ ((after (.qcmdFlush 3) s).queue 3).quads.getLast? = some (d 7 false) ∧
     (∀ w ∈ [1, 2], (c w).feeders 0x303 = [5] ∧ (c w).deliverable 5 = some ⟨5, 0, 0, 0, [w]⟩) ∧
     ((after (.queueCmdDrop 3) (c 1)).queue 3).quads = [d 3 false] ∧ ((after (.queueCmdDrop 3) (c 1)).chan 5).held = [] ∧
     ((after (.queueCmdFlush 3) (c 2)).queue 3).opened = [] ∧
     (let u := withRegs s [(qPage 3, R.QDST_KIND, 1, 3), (qPage 3, R.QDST_ID, 5, 3), (chanPage 5, R.FAB_CH_LO_EN, 1, 0)]
      u.qrd 3 R.QDST_KIND = 1 ∧ u.injArmed 0x0A1 0 = false ∧ u.injArmed 0x0A1 1 = false ∧ u.chEn 5 = true ∧ u.freeCredits 5 0x11B ≠ 0 ∧
      ((after (.queueQuadSend 3) u).chan 5).flight = [.msg ⟨5, 0x11B, 0, 0x10, [1]⟩] ∧ ((after (.queueQuadSend 3) u).queue 3).quads = [d 2 true, d 3 false])) ∧
    (let s := (queued { quads := [⟨[1, 0, 0, 0], 1, false, false, false, false⟩] }).wr (qPage 3) R.QCFG_EN 0 3
     s.pageOn (qPage 3) = true ∧ s.qrd 3 R.QCFG_EN = 0 ∧ (∀ r < 256, s.qrd r R.QCFG_EN = 0) ∧
     (after (.queueEnable 3 0x20040) s).qrd 3 R.QCFG_EN = 1 ∧ (after (.queueEnable 3 0x20040) s).qrd 3 R.QCFG_BASE = 0x40 ∧ ((after (.queueEnable 3 0x20040) s).queue 3).quads = [] ∧
     (after (.queueEnable 3 0x10040) s).qrd 3 R.QCFG_EN = 0) := by
  decide +kernel
/-- Host accesses that do not reach, a malformed write, scrubs that are off, and the words that the others count, correct and mark. -/
theorem witness_accessesAndScrubsAtTheirEdges :
    (let s := fun m => { device [8] with pcie := { memory := m } }
     (s false).hostReaches = false ∧ gives (.bar2Read 0 2) (s false) { s false with aer := 0x100000 } = true ∧
     gives (.bar2Write 0 [(true, 1)] false) { s true with perst := true } { s true with perst := true } = true ∧
     gives (.bar2Write 0 [(true, 1)] false true) (s true) { s true with aer := 0x40000 } = true) ∧
    (let a := sharedBase 0 + 16
     let s := { withRegs (device [8, 64, 56]) [(casPage 0, R.CAS_SCRUB_LM_EN, 0, 0), (casPage 0, R.CAS_SCRUB_SD_EN, 1, 0), (casPage 0, R.CAS_SCRUB_PM_PERIOD, 3, 0), (0x07F, R.CAM_SCRUB_PERIOD, 3, 0)] with
       bad := [(a, .two), (a + 2, .uncorrectable), (progBase 0 + 32, .one), (camBase 0 + 48, .one)] }
     s.on (casPage 0) R.CAS_SCRUB_LM_EN = false ∧ gives (.sramScrub (.loc 0) 3) s s = true ∧ gives (.correctedWriteBack 6) s s = true ∧
     gives (.mramScrub (.prog 1) 0 true) s s = true ∧ gives (.sramScrub (.shared 1) 0) s s = true ∧ gives (.mramScrub (.cam 1) 0 true) s s = true ∧
     (after (.sramScrub (.shared 0) 9) s).writeBacks = [a] ∧ (after (.sramScrub (.shared 0) 9) s).rd (casPage 0) R.CAS_SD_ERR_CE = 1 ∧
     (after (.sramScrub (.shared 0) 9) s).rd (casPage 0) R.CAS_SD_ERR_UE = 1 ∧ s.mramWritable = true ∧
     look (after (.mramScrub (.prog 0) 1 false) s).bad (progBase 0 + 32) = none ∧ (after (.mramScrub (.prog 0) 1 false) s).rd (casPage 0) R.CAS_PM_ERR_CE = 1 ∧
     (after (.mramScrub (.cam 0) 1 false) s).camWrites = [(0, 1)] ∧ (after (.mramScrub (.cam 0) 1 false) s).rd 0x07F R.CAM_ERR_CE = 1) := by
  decide +kernel

/-- Arrivals on a disabled channel, under injection, for a cassette that is off or changes; credits that none waits for. -/
theorem witness_arrivalsAtTheirEdges :
    (let m : Msg := ⟨5, 0x200, 77, 0, [1]⟩
     let s := fun en rcv inj => withRegs (channel 0 rcv { flight := [.msg m] }) [(chanPage 5, R.FAB_CH_LO_EN, en, 0), (0x0A0, R.PG_INJ_INJ, inj, 0)]
     let t := fun (x : State) => x.setChan 5 { x.chan 5 with flight := [] }
     ((s 0 0 0).chan 5).firstOf 0x200 = some (.msg m) ∧ ((s 1 0 0).chan 5).firstOf 0x200 = some (.msg m) ∧ (s 0 0 0).domOn 3 = true ∧ (s 1 0 0).domOn 3 = true ∧
     gives (.messageArrival 5 0x200) (s 0 0 0) ((t (s 0 0 0)).restoreCredit m) = true ∧
     gives (.messageArrival 5 0x200) (s 1 0 2) (((t (s 1 0 2)).injTake 0x0A0 1).loseMsg m) = true ∧
     (s 1 16 0).rcvCas 5 = some 1 ∧ (s 1 16 0).domOn 9 = false ∧ gives (.messageArrival 5 0x200) (s 1 16 0) (((t (s 1 16 0)).restoreCredit m).fabErr 5 0x200 3) = true ∧
     (let r := { s 1 16 0 with doms := [(8, { st := .on }), (9, { st := .ret }), (64, { st := .on })] }
      (after (.messageArrival 5 0x200) r).hubHold = [m] ∧ ((after (.messageArrival 5 0x200) r).chan 5).flight = []) ∧
     gives (.messageArrival 5 0x201) (s 1 0 0) (s 1 0 0) = true ∧ gives (.horizonTokenArrival 5 0x200) (s 1 0 0) (s 1 0 0) = true ∧
     gives (.creditReturn 5 0x200) (s 1 0 0) (s 1 0 0) = true ∧ gives (.automaticToken 5 0x200 none) (s 1 0 0) (s 1 0 0) = true ∧
     gives (.mergeDeliverable 5) (s 1 0 0) (s 1 0 0) = true) ∧
    (let s := (channel 1 0x140 { flight := [.token 0x110 9] }).wr (chanPage 5) R.FAB_CH_LO_EN 0
     gives (.horizonTokenArrival 5 0x110) s (s.setChan 5 {}) = true) := by
  decide +kernel

/-- Enables and disables of a channel that is enabled, drains, or is not; no stall to report; an enabled channel's drain end. -/
theorem witness_channelTableAtItsEdges :
    (let lo := fun (s : State) => s.reg (R.FAB_CH_LO_EN.addr (chanPage 5) 0)
     let s := channel 0 0x200 {}
     let d := (channel 0 0x200 { draining := true }).wr (chanPage 5) R.FAB_CH_LO_EN 0
     s.chDiffers 5 (lo s).toNat = false ∧ gives (.channelEnable (lo s)) s s = true ∧ s.chDiffers 5 0 = true ∧
     gives (.channelEnable 0) s (s.wr (chanPage 5) R.FAB_CH_STAT_REFUSE 3) = true ∧
     (d.chan 5).draining = true ∧ ((after (.channelEnable (lo d)) d).chan 5).pendEn = true ∧ ((after (.channelDisable (lo d)) d).chan 5).pendEn = false ∧
     gives (.channelDrainDone 5) s s = true ∧ gives (.horizonStall 5) s s = true ∧
     (let p := (channel 0 0x200 { draining := true, pendEn := true }).wr (chanPage 5) R.FAB_CH_LO_EN 0
      p.chRefuse 5 = 0 ∧ gives (.channelDrainDone 5) p ((p.emptyChan 5).wr (chanPage 5) R.FAB_CH_LO_EN 1).brakeIfHalt = true)) ∧
    (let m : Msg := ⟨5, 0x200, 77, 0, [1]⟩
     let s := channel 0 0x140 { held := [m], back := [(0x110, 1), (0x200, 2)] }
     ((after (.channelDisable (s.reg (R.FAB_CH_LO_EN.addr (chanPage 5) 0))) s).chan 5).draining = true ∧ (s.emptyChan 5).chan 5 = { back := [(0x200, 3)] }) := by
  decide +kernel

/-- A message source of a queue, a push that waits, a drop, a full flush and timeout, and a quad that finds no channel or no credit. -/
theorem witness_queuesAtTheirEdges :
    (let d : Quad := ⟨[1, 0, 0, 0], 1, false, false, false, false⟩
     let m : Msg := ⟨5, 0x110, 0, 0, [9, 8]⟩
     let s := fun n (x : Queue) => withRegs { queued { x with quads := List.replicate n d } with chans := [(5, { held := [m] })] }
       [(qPage 3, R.QSRC_KIND, 1, 3), (chanPage 5, R.FAB_CH_LO_EN, 1, 0), (chanPage 5, R.FAB_CH_LO_RCV, 0x203, 0)]
     (s 0 {}).feeders 0x203 = [5] ∧ (s 0 {}).qOn 3 = true ∧
     ((after (.queuePush 3) (s 0 {})).queue 3).part = some (5, 1) ∧ ((after (.queuePush 3) (s 0 {})).queue 3).opened = [9] ∧ ((after (.queuePush 3) (s 0 {})).chan 5).held = [m] ∧
     (let e := s 0 { part := some (5, 1), opened := [9] }
      ((after (.queuePush 3) e).queue 3).quads = [⟨[9, 8, 0, 0], 2, true, false, false, false⟩] ∧ ((after (.queuePush 3) e).chan 5).held = []) ∧
     ((after (.queuePush 3) (s 4 { part := some (5, 1) })).queue 3).waiting = some (8, true)) ∧
    (let d : Quad := ⟨[1, 0, 0, 0], 1, false, false, false, false⟩
     let f := fun (x : Queue) => queued { x with quads := List.replicate 4 d }
     ((after (.qcmdFlush 3) (f { opened := [7] })).queue 3).closeWait = some false ∧ gives (.qcmdFlush 3) (f {}) (f {}) = true ∧ gives (.qcmdPop 3) (queued {}) (queued {}) = true ∧
     (let u := { (f { opened := [7] }).wr (qPage 3) R.QTMO_NS 50 3 with tb := 50 }
      ((after (.queueTimeout 3) u).queue 3).closeWait = some true) ∧
     (after (.qpush 3 9 true) (f { closeWait := some false })).rd (qPage 3) R.QCNT_HDROP 3 = 1 ∧ ((after (.qpush 3 9 true) (f { dropping := true })).queue 3).dropping = false) ∧
    (let s := fun en us => { withRegs (queued { quads := [⟨[1, 0, 0, 0], 1, false, false, false, false⟩] })
       [(qPage 3, R.QDST_KIND, 1, 3), (qPage 3, R.QDST_ID, 5, 3), (chanPage 5, R.FAB_CH_LO_EN, en, 0)] with chans := [(5, { used := us })] }
     (∃ n, (s 0 []).sendFails 5 0x11B 0 = some n ∧ gives (.queueQuadSend 3) (s 0 []) ((s 0 []).fabErr 5 0x11B n) = true) ∧
     (s 1 [(0x400, 16)]).freeCredits 5 0x11B = 0 ∧ gives (.queueQuadSend 3) (s 1 [(0x400, 16)]) (s 1 [(0x400, 16)]) = true) := by
  decide +kernel

/-- Cadence 0, enabled at tick 1 from position 0 with a rate, at a time; its command input carries a message of OP and ARG on channel 5. -/
def cadence (en tb : Nat) (rate : Int) : State :=
  { withRegs (device []) [(0x072, R.CAD_CTRL_EN, en, 0), (0x072, R.CAD_TRIM_MAX, 0x1000, 0), (0x072, R.CAD_SLEW_TICKS, 100, 0)] with
    tb := tb, cads := [(0, { segs := if en = 1 then [⟨1, 0, rate, 0, 0, 1, 1, none⟩] else [], enabledAt := 1 })] }
def commandMsg (op arg stamp : Nat) (ws : List Nat) : Msg := ⟨5, 3, stamp, 0, (op + 16 * arg) :: ws⟩
def commands (s : State) (m : Msg) : State :=
  { withRegs s [(chanPage 5, R.FAB_CH_LO_EN, 1, 0), (chanPage 5, R.FAB_CH_LO_ORD, 1, 0), (chanPage 5, R.FAB_CH_LO_RCV, 0x140, 0),
      (setPage 0 0, R.FAB_SET_MBR_VALID, 1, 0), (setPage 0 0, R.FAB_SET_MBR_SENDER, m.sender, 0)] with chans := [(5, { held := [m] })] }
/-- Whether a command is ready at cadence 0. -/
def readyAt (s : State) (m : Msg) : Bool :=
  s.domOn 3 && decide ((s.knownChans.filter fun k => s.chOrd k && !s.on (chanPage k) R.FAB_CH_LO_TAN && s.rd (chanPage k) R.FAB_CH_LO_RCV = 0x140) = [5]) &&
  decide (s.deliverable 5 = some m) && !s.injArmed 0x0A0 3 && !s.injArmed 0x0A0 2

theorem witness_TimebaseCommandsActOnTheirRegisters :
    (let s := { device [] with tb := 2 ^ 33 + 5000 }
     s.on 0x070 R.TB_STAT_HOLD = false ∧ (after .timerefLoss s).on 0x070 R.TB_STAT_HOLD = true ∧ (after .timerefLoss s).on 0x070 R.TB_STAT_HOLD_SEEN = true ∧
     (after .timerefLoss s).rd 0x070 R.TB_HOLD_IN_STAMP = (2 ^ 33 + 5000) / 1024 ∧
     (let h := s.wr 0x070 R.TB_STAT_HOLD 1
      let b := { h with timeref := { back := some 7 } }
      s.timeref.injUntil = none ∧ (after (.pllRelock false) h).timeref.back = some (2 ^ 33 + 5000) ∧ (after (.pllRelock false) h).on 0x070 R.TB_STAT_HOLD = true ∧
      b.on 0x070 R.TB_STAT_HOLD = true ∧ b.mayRelock = true ∧ (after (.pllRelock true) b).on 0x070 R.TB_STAT_HOLD = false ∧ (after (.pllRelock true) b).aligning = true) ∧
     s.rd 0x070 R.TB_ADJ_REM_REM = 0 ∧ (after .slewEnd { s.wr 0x070 R.TB_STAT_SLEW 1 with aligning := true }).on 0x070 R.TB_STAT_SLEW = false ∧
     s.on 0x124 R.TAN_CFG_EN = false ∧ s.domOn 1 = true ∧ (after (.tbAdjGo 0x8000000) s).rd 0x070 R.TB_ADJ_REM_REM = 0x8000000 ∧ (after (.tbAdjGo 0x8000000) s).on 0x070 R.TB_STAT_SLEW = true ∧
     (after .tbNowRead s).rd 0x070 R.TB_NOW_HI_NOW = 2 ∧ (after .tbNowRead s).rd 0x070 R.TB_NOW_LO_NOW = 5000) := by
  decide +kernel

theorem witness_CadencesRunTrimAndChangeRate :
    (let s := fun en => { withRegs (cadence en 1001 (2 ^ 21)) [(0x072, R.CAD_POS_LO_VALUE, 7, 0), (0x072, R.CAD_POS_HI_VALUE, 1, 0), (0x072, R.CAD_RATE_LO_VALUE, 2 ^ 21, 0)] with spanTo := 0 }
     (s 0).recording = false ∧ (s 0).cadEn 0 = false ∧ (s 1).cadEn 0 = true ∧
     ((after (.cadenceEnable 0 0) (s 0)).cad 0).segs = [⟨1002, (2 ^ 32 + 7) * 2 ^ 20, 2 ^ 21, 0, 0, 1002, 1, none⟩] ∧ ((after (.cadenceEnable 0 0) (s 0)).cad 0).cyc = 16 ∧
     (after (.cadenceDisable 0 0) (s 1)).rd 0x072 R.CAD_POS_LO_VALUE = 2000 ∧ (after (.cadenceDisable 0 0) (s 1)).cadEn 0 = false ∧
     (after (.cadPosRead 0) (s 1)).rd 0x072 R.CAD_POS_LO_VALUE = 2000 ∧ (after (.cadPosRead 0) (s 1)).rd 0x072 R.CAD_POS_HI_VALUE = 0) ∧
    (let g : Seg := ⟨10, 5, -(2 ^ 21), 0, 0, 10, 1, none⟩
     g.pos 20 = -20) ∧
    (let m := commandMsg 1 0 2000 [0x3FFE, 0x3FFF, 0]
     let s := commands (cadence 1 1001 (2 ^ 21)) m
     let u := s.deliver m
     readyAt s m = true ∧ m.cadOp = 1 ∧ u.absStamp m.stamp = 2000 ∧ u.spanned 0 = false ∧ u.cmt 0 < 2000 ∧ (u.cad 0).bnds = [] ∧ bit u.spanTo 0 = false ∧ (u.cad 0).vars.rate ≠ 0 ∧ m.value 1 2 = -2 ∧
     (after (.trim 0) s).cads = (u.setCourse 0 (({ u.cad 0 with used := 2, usedCyc := 0 } : Cadence).restart 2000 ((u.cad 0).remainder 2000 + (-2)) (u.cad 0).vars.rate 100 false)).cads) ∧
    (let m := commandMsg 2 0 2000 [5, 0, 0]
     let s := fun en => commands (cadence en 1001 (2 ^ 21)) m
     readyAt (s 1) m = true ∧ m.cadOp = 2 ∧ ((after (.rate 0) (s 1)).cad 0).segs.map (·.rate) = [5, 2 ^ 21] ∧
     readyAt (s 0) m = true ∧ ((s 0).deliver m).cadEn 0 = false ∧ (after (.rate 0) (s 0)).rd 0x072 R.CAD_CNT_REFUSED = 1) := by
  decide +kernel

theorem witness_PointFlipAndAxisCommandsAreKept :
    (let s := fun op arg ws => commands (withRegs { cadence 1 1001 (2 ^ 21) with cads := [(0, { segs := [⟨1, 0, 2 ^ 21, 0, 0, 1, 1, none⟩], enabledAt := 1, ptrs := [(3, (2, 1))] })] }
       [(tablePage 2, R.CAM_TBL_A_EN, 1, 0), (tablePage 2, R.CAM_TBL_B_POINTS, 4, 0), (0x1000, R.AX_BIND_EN, 1, 7), (0x1000, R.AX_STATE_STATE, (if op = 10 then 2 else 1), 7)])
       (commandMsg op arg 2000 ws)
     let m := commandMsg 3 2 2000 [9]
     readyAt (s 3 2 [9]) m = true ∧ m.cadOp = 3 ∧ ((s 3 2 [9]).deliver m).tableRefuse 0 2 = none ∧ ((s 3 2 [9]).deliver m).cmt 0 < 2000 ∧ ((s 3 2 [9]).deliver m).injArmed 0x072 0 = false ∧
     ((after (.ptSel 0) (s 3 2 [9])).cad 0).ptrs = [(3, (2, 9))] ∧
     (∀ op ∈ [4, 5, 6], readyAt (s op 0 [7, 0, 0]) (commandMsg op 0 2000 [7, 0, 0]) = true) ∧
     ((s 4 0 [7, 0, 0]).deliver (commandMsg 4 0 2000 [7, 0, 0])).tblPoints 2 = 4 ∧
     (after (.ptM 0) (s 4 0 [7, 0, 0])).shadow = [⟨2, 1, false, 7, 0, 0⟩] ∧ (after (.ptY 0) (s 5 0 [7, 0, 0])).shadow = [⟨2, 1, false, 0, 7, 0⟩] ∧
     (after (.ptK 0) (s 6 0 [7, 0, 0])).shadow = [⟨2, 1, false, 0, 0, 7⟩] ∧
     readyAt (s 7 2 [5]) (commandMsg 7 2 2000 [5]) = true ∧ ((after (.flip 0) (s 7 2 [5])).table 2).flip = some (5, 2000) ∧ (after (.flip 0) (s 7 2 [5])).on (tablePage 2) R.CAM_TBL_STAT_ARMED = true ∧
     readyAt (s 8 7 [3]) (commandMsg 8 7 2000 [3]) = true ∧ ((s 8 7 [3]).deliver (commandMsg 8 7 2000 [3])).axisRefuse 0 (commandMsg 8 7 2000 [3]) = none ∧
     ((after (.couple 0) (s 8 7 [3])).axis 7).couple = [(3, 2000)] ∧ ((after (.free 0) (s 9 7 [3])).axis 7).free = some 2000 ∧
     ((s 10 7 [1, 0, 5]).deliver (commandMsg 10 7 2000 [1, 0, 5])).axisRefuse 0 (commandMsg 10 7 2000 [1, 0, 5]) = none ∧
     ((after (.shift 0) (s 10 7 [1, 0, 5])).axis 7).shiftAt = some (1, 5, 2000)) := by
  decide +kernel

theorem witness_PointFlipAndAxisCommandsAreKept_sync :
    (let m : Msg := ⟨5, 0x118, 2000, 3, [96]⟩
     let s := commands (withRegs { cadence 1 1001 (2 ^ 41) with cads := [(0, { segs := [⟨1, (2 ^ 28 - 2 ^ 20) * 2 ^ 20, 2 ^ 40, 0, 0, 1, 1, none⟩], enabledAt := 1, bnds := [(1990, 1)], cyc := 1 })] }
       [(0x072, R.CAD_CTRL_SYNC_EN, 1, 0), (0x072, R.CAD_SYNCW_WIN, 1, 0), (0x072, R.CAD_SYNCW_DLY, 10, 0)]) m
     let u := s.deliver m
     let c := u.cad 0
     readyAt s m = true ∧ m.cadOp = 16 ∧ u.on 0x072 R.CAD_CTRL_SYNC_EN = true ∧ u.cmt 0 < 2000 ∧ c.enabledAt ≤ 2010 ∧
     nearest 2000 ((c.bnds.map (·.1)) ++ (c.upToStamp 2010).ahead 2000 8192 c.latest.1 c.latest.2) = some 1997 ∧
     (after (.syncEdge 0) s).cads = (u.trimCmd 0 2010 (-3 * 2 ^ 20)).cads) := by
  decide +kernel

theorem witness_BoundariesNoticesAndEvaluations :
    (let s := fun tb => { cadence 1 tb (2 ^ 41) with cads := [(0, { segs := [⟨1, (2 ^ 28 - 2 ^ 20) * 2 ^ 20, 2 ^ 39, 0, 0, 1, 1, none⟩], enabledAt := 1 })] }
     ((s 3).cad 0).nextBoundary = some (3, 1) ∧ (s 3).on 0x021 R.DL_CFG_EN 0 = false ∧ (s 3).cadEn 0 = true ∧
     ((after (.cadenceBoundary 0) (s 3)).cad 0).bnds = [(3, 1)] ∧ (after (.cadenceBoundary 0) (s 3)).rd 0x072 R.CAD_STAT_CYCLE = 1 ∧
     ((after (.cadenceBoundary 0) (s 2)).cad 0).bnds = []) ∧
    (let s := fun (en : Nat) => withRegs { device [] with tb := 9, cads := [(0, { notes := [{ stamp := 9, type := 4, w1 := 2 }] })] }
       [(0x072, R.CAD_CTRL_NOTE_EN, en, 0), (0x072, R.CAD_CTRL_NOTE_CHAN, 5, 0), (chanPage 5, R.FAB_CH_LO_EN, 1, 0)]
     (s 0).cadEn 0 = false ∧ (s 0).on 0x072 R.CAD_CTRL_NOTE_EN = false ∧ ((after (.notice 0) (s 0)).cad 0).notes = [] ∧ (s 1).on 0x072 R.CAD_CTRL_NOTE_EN = true ∧
     (s 1).rpl.going = false ∧ (s 1).noticeWaits 0 9 = false ∧ (s 1).sendFails 5 0x11A 9 = none ∧ (s 1).freeCredits 5 0x11A ≠ 0 ∧ ((after (.notice 0) (s 1)).chan 5).flight.length = 1 ∧ ((after (.notice 0) (s 1)).cad 0).notes = []) := by
  decide +kernel

theorem witness_BoundariesNoticesAndEvaluations_evaluation :
    (let s := withRegs { device [] with tb := 200000, chnOrg := [(0, 100000)] } [(0x071, R.CAM_PORT_RATE, 3, 0), (0x1000, R.AX_BIND_EN, 1, 7), (0x1000, R.AX_POS_POS, 5, 7), (0x1000, R.AX_STATE_STATE, 1, 7)]
     ∃ c ∈ (s.servoStamp 0 (s.tb + s.rd 0x071 R.CAM_PORT_LEAD)).toList, 0 ≤ c ∧ lookD s.evals 0 (-1) < c ∧ s.enabledAxes = [7] ∧ s.rd 0x1000 R.AX_BIND_PORT 7 = 0 ∧ s.rd 0x1000 R.AX_STATE_STATE 7 < 2 ∧
       s.injArmed 0x071 1 = false ∧ (s.axis 7).free = none ∧ s.comingTo (s.rd 0x1000 R.AX_BIND_CAD 7) c.toNat = [] ∧ look (after (.camEvaluation 0 false) s).staging 0 = some ⟨5, 0, false, c⟩) := by
  decide +kernel

/-- Table 2 with two points in copy 0, coupled axis 7 on cadence 0 with gear 1. -/
def coupled : State :=
  { withRegs (device [56, 57]) [(0x072, R.CAD_CTRL_EN, 1, 0), (tablePage 2, R.CAM_TBL_A_EN, 1, 0), (tablePage 2, R.CAM_TBL_B_POINTS, 2, 0), (0x1000, R.AX_BIND_EN, 1, 7),
      (0x1000, R.AX_BIND_TABLE, 2, 7), (0x1000, R.AX_STATE_STATE, 2, 7), (0x1000, R.AX_GCUR_G, 0x10000, 7), (0x1000, R.AX_BASEY_BASEY, 100, 7), (0x020, R.HLT_BRAKE_ACTIVE, 0, 0)] with
    mem := [(0x4000000 + 20, 50), (0x4000000 + 31, 8), (0x4000000 + 32, 70)], cads := [(0, { segs := [⟨1, 0, 2 ^ 45, 0, 0, 1, 1, none⟩], enabledAt := 1 })] }

theorem witness_CoupledAxesFollowTheirMaster :
    (let s := coupled
     let t := s.evalAxis 7 5
     s.rd 0x1000 R.AX_STATE_STATE 7 = 2 ∧ s.on 0x020 R.HLT_BRAKE_ACTIVE = false ∧ s.axisLost 7 5 = false ∧ s.comingTo 0 5 = [] ∧ (s.axis 7).free = none ∧ (s.axis 7).shift = none ∧ s.bad = [] ∧ s.injArmed 0x07F 0 = false ∧ s.injArmed 0x07F 1 = false ∧
     t.rd 0x1000 R.AX_MST_LO_M 7 = 4 * 2 ^ 25 ∧ (t.axis 7).posC = 4 * 2 ^ 25 ∧ t.rd 0x1000 R.AX_POS_POS 7 = 170) ∧
    (let s := coupled
     s.tblPoints 2 = 2 ∧ (s.pointAt (s.baseAt 2 5) 0).1 < (s.pointAt (s.baseAt 2 5) 1).1 ∧ (s.interpolate 2 5 (s.pointAt (s.baseAt 2 5) 0).1).1 = 50 ∧
     (s.interpolate 2 5 (s.pointAt (s.baseAt 2 5) 1).1).1 = 70) := by
  decide +kernel

theorem witness_TablesAndAxesAreEnabledAfterTheirChecks :
    (let s := fun en pts => withRegs (device [56, 57]) [(0x071, R.CAM_TBL_IDX_IDX, 2, 0), (tablePage 2, R.CAM_TBL_B_POINTS, pts, 0), (tablePage 2, R.CAM_TBL_A_EN, en, 0)]
     (s 0 2).recording = false ∧ (s 0 2).tblBusy 2 = false ∧ ((after (.tableEnable 0) (s 0 2)).table 2).scan = true ∧ (after (.tableEnable 0) (s 0 1)).rd (tablePage 2) R.CAM_TBL_STAT_REFUSE = 4 ∧
     (s 1 2).tblBusy 2 = true ∧ (after (.tableEnable 0) (s 1 2)).rd (tablePage 2) R.CAM_TBL_STAT_REFUSE = 5 ∧ (after (.tableDisable 0) (s 1 2)).tblEn 2 = false) ∧
    (let s := fun r => withRegs (device []) [(0x071, R.CAM_PORT_RATE, r, 0)]
     (s 3).on 0x1000 R.AX_BIND_EN 7 = false ∧ (s 3).rd 0x1000 R.AX_STATE_STATE 7 = 0 ∧ ((s 3).wr 0x1000 R.AX_BIND_EN 1 7).demand = 32000 ∧
     ((s 3).wr 0x1000 R.AX_BIND_EN 1 7).demand ≤ 32000000 ∧
     (after (.axisEnable 7 0) (s 3)).rd 0x1000 R.AX_STATE_STATE 7 = 1) ∧
    (let s := fun (mem : List Host.Cell) => { withRegs (device [56, 57]) [(tablePage 2, R.CAM_TBL_B_POINTS, 2, 0)] with tables := [(2, { scan := true })], mem := mem }
     let good := (s []).setBytes 0x4000000 (leBytes 4 3 ++ leBytes 2 2 ++ leBytes 2 2 ++ leBytes 4 (crc32c (pointBytes 0 1 0 ++ pointBytes 9 1 0)) ++ leBytes 4 0 ++ pointBytes 0 1 0 ++ pointBytes 9 1 0)
     (good.scanCopy 2 0).1 = some 3 ∧ (good.scanCopy 2 1).1 = none ∧ good.ordered (good.copyBase 2 0) 2 = true ∧ (after (.camTableScan 2) good).tblEn 2 = true ∧
     ((s []).scanCopy 2 0).1 = none ∧ (after (.camTableScan 2) (s [])).rd (tablePage 2) R.CAM_TBL_STAT_REFUSE = 2) := by
  decide +kernel

/-- Table 2 with two points, point 1 at master 9 of copy 0, and a point that moves it to 8 fixed for a running pass. -/
def committing : State :=
  { (withRegs (device [56, 57]) [(tablePage 2, R.CAM_TBL_B_POINTS, 2, 0), (tablePage 2, R.CAM_TBL_A_EN, 1, 0)]).setBytes 0x400001C (pointBytes 9 1 0) with
    tables := [(2, { pass := .running, gen := true })], shadow := [⟨2, 1, false, 8, 7, 0⟩] }

theorem witness_TablesAndAxesAreEnabledAfterTheirChecks_pass : (committing.table 2).pass = .running ∧ committing.mramWritable = true ∧ (committing.mergeGo 2 (committing.copyBase 2 1) (committing.fixedFor 2) (regionBytes 2 / 32) 0).2.injArmed 0x071 0 = false ∧
    (committing.mergeGo 2 (committing.copyBase 2 1) (committing.fixedFor 2) (regionBytes 2 / 32) 0).1 = true ∧ committing.targetCopy 2 = 1 ∧
    ((after (.commitPass 2) committing).table 2).pass = .complete ∧ (after (.commitPass 2) committing).byte 0x4200000 = 1 ∧ (after (.commitPass 2) committing).byte (0x4200000 + 28) = 8 := by
  decide +kernel
/-- The reference lost in holdover, edges back, a relock too early and out of holdover, a follower's adjustment, the slew's end. -/
theorem witness_timebaseAtItsEdges :
    (let s := fun h (r : TimeRef) => { (device []).wr 0x070 R.TB_STAT_HOLD h with tb := 2000000, timeref := r }
     let back := ({ s 0 {} with timeref := { back := some 2000000 } } : State).wr 0x070 R.TB_STAT_REF_OK 1
     gives .timerefLoss (s 1 {}) (({ s 1 {} with timeref := { gone := true } } : State).wr 0x070 R.TB_STAT_REF_OK 0) = true ∧
     gives (.pllRelock false) (s 0 { gone := true }) back = true ∧ gives (.pllRelock true) (s 1 { back := some 1000001 }) (s 1 { back := some 1000001 }) = true ∧
     gives (.pllRelock true) (s 1 { injUntil := some 9 }) (s 1 { injUntil := some 9 }) = true ∧ gives (.pllRelock true) (s 0 {}) back = true ∧
     (after (.pllRelock true) (s 1 { back := some 1000000 })).on 0x070 R.TB_STAT_SLEW = true ∧
     (let f := withRegs (device []) [(0x124, R.TAN_CFG_EN, 1, 0), (0x124, R.TAN_CFG_ROLE, 1, 0)]
      f.on 0x124 R.TAN_CFG_ROLE = true ∧ gives (.tbAdjGo 9) f (f.pgErr 0x070 (some (0x4C, 0x80000009))) = true) ∧
     (let a := { withRegs (device []) [(0x070, R.TB_ADJ_REM_REM, 5, 0), (0x070, R.TB_STAT_SLEW, 1, 0)] with aligning := true }
      gives .slewEnd a { a with aligning := false } = true)) := by
  decide +kernel

/-- A second enable, a disable of a stopped cadence, a read without FABRIC; a trim that clips, in a spanned cadence, and unknown operations. -/
theorem witness_cadenceCommandsAtTheirEdges :
    (let s := cadence 1 1001 (2 ^ 21)
     (after (.cadenceEnable 0 0x80) s).cads = s.cads ∧ (after (.cadenceEnable 0 0) s).cadEn 0 = true ∧ (after (.cadenceDisable 0 0) (cadence 0 5 0)).cads = (cadence 0 5 0).cads ∧
     (let off := { s with doms := [(3, { st := .off })] }
      off.domOn 3 = false ∧ gives (.cadPosRead 0) off { off with out := [.regRead (R.CAD_POS_LO_VALUE.addr 0x072 0) 0] } = true ∧ gives (.trim 0) off off = true)) ∧
    (let m := commandMsg 1 0 2000 [0x2000, 0, 0]
     let s := commands (cadence 1 1001 (2 ^ 21)) m
     m.value 1 2 = 8192 ∧ readyAt s m = true ∧ ((after (.trim 0) s).rd 0x072 R.CAD_CNT_CLIP = 1) ∧ ((after (.trim 0) s).cad 0).used = 0x1000) ∧
    (let m := commandMsg 11 0 2000 [0, 0, 0]
     let s := commands (cadence 1 1001 (2 ^ 21)) m
     let u := s.deliver m
     readyAt s m = true ∧ m.cadOp = 11 ∧ gives (.trim 0) s ((u.refuse 0 1 m).notePast 0 (u.cmdEffect 0 m) u) = true) ∧
    (let m := commandMsg 2 0 2000 [5, 0, 0]
     let s := (commands (cadence 1 1001 (2 ^ 21)) m)
     let p := withRegs s [(0x124, R.TAN_CFG_EN, 1, 0), (0x124, R.TAN_CFG_ROLE, 1, 0), (0x124, R.TAN_SPAN_MASK, 1, 0)]
     let u := p.deliver m
     u.spanned 0 = true ∧ gives (.rate 0) p ((u.refuse 0 1 m).notePast 0 (u.cmdEffect 0 m) u) = true) := by
  decide +kernel

/-- Points, flips and axis commands that are refused or replaced, and a FREE whose time has come. -/
theorem witness_pointAndAxisCommandsAtTheirEdges :
    (let s := fun (en pts st : Nat) (ptr : Sparse (Nat × Nat)) m => commands (withRegs { cadence 1 1001 (2 ^ 21) with cads := [(0, { segs := [⟨1, 0, 2 ^ 21, 0, 0, 1, 1, none⟩], enabledAt := 1, ptrs := ptr })] }
       [(tablePage 2, R.CAM_TBL_A_EN, en, 0), (tablePage 2, R.CAM_TBL_B_POINTS, pts, 0), (0x1000, R.AX_BIND_EN, 1, 7), (0x1000, R.AX_STATE_STATE, st, 7)]) m
     let refusedAs := fun (e : Instr) (x : State) m k => let u := x.deliver m; gives e x ((u.refuse 0 k m).notePast 0 (u.cmdEffect 0 m) u)
     let y := commandMsg 5 0 2000 [7, 0, 1]
     let f := commandMsg 7 2 2000 [5]
     ((s 0 4 1 [] f).deliver f).tableRefuse 0 2 = some 2 ∧ refusedAs (.flip 0) (s 0 4 1 [] f) f 2 = true ∧
     refusedAs (.ptY 0) (s 1 4 1 [] y) y 4 = true ∧ refusedAs (.ptY 0) (s 1 4 1 [(3, (2, 4))] y) y 4 = true ∧
     (after (.ptY 0) (s 1 4 1 [(3, (2, 3))] y)).shadow = [⟨2, 3, false, 0, 7, 0⟩] ∧ ((after (.ptY 0) (s 1 4 1 [(3, (2, 3))] y)).cad 0).ptrs = [(3, (2, 4))] ∧
     (let i := (s 1 4 1 [(3, (2, 3))] y).wr 0x07F R.PG_INJ_INJ 4
      (after (.ptY 0) i).rd 0x07F R.CAM_BUF_REFUSED = 1 ∧ (after (.ptY 0) i).shadow = []) ∧
     (let a := { s 1 4 1 [] f with tables := [(2, { flip := some (5, 9) })] }
      refusedAs (.flip 0) a f 6 = true) ∧
     (let c := commandMsg 8 7 2000 [3]
      (∃ k, ((s 1 4 2 [] c).deliver c).axisRefuse 0 c = some k ∧ refusedAs (.couple 0) (s 1 4 2 [] c) c k = true)) ∧
     (let c := commandMsg 9 7 1000 [3]
      let x := s 1 4 2 [] c
      ((x.deliver c).lateRule 0 c 1000).1 = 1000 ∧ (x.deliver c).axisRefuse 0 c = none ∧ (after (.free 0) x).rd 0x1000 R.AX_STATE_STATE 7 = 1) ∧
     (let e : Msg := ⟨5, 0x118, 2000, 3, [96]⟩
      let x := s 1 4 1 [] e
      e.cadOp = 16 ∧ refusedAs (.syncEdge 0) x e 1 = true ∧
      (let w := x.wr 0x072 R.CAD_CTRL_SYNC_EN 1
       (after (.syncEdge 0) w).rd 0x072 R.CAD_CNT_SYNCREJ = 1))) := by
  decide +kernel

/-- A flip at its boundary with the pass complete, ended and running; notices that wait; evaluations that are late or not due; a braked axis. -/
theorem witness_boundariesAndEvaluationsAtTheirEdges :
    (let s := fun p => { cadence 1 3 (2 ^ 41) with
       cads := [(0, { segs := [⟨1, (2 ^ 28 - 2 ^ 20) * 2 ^ 20, 2 ^ 39, 0, 0, 1, 1, none⟩], enabledAt := 1 })], tables := [(2, { flip := some (1, 0), pass := p, target := 1 })] }
     let t := fun p => after (.cadenceBoundary 0) ((s p).wr (tablePage 2) R.CAM_TBL_A_EN 1)
     ((s .complete).wr (tablePage 2) R.CAM_TBL_A_EN 1).flipsAt 0 3 1 = [2] ∧ (t .complete).rd (tablePage 2) R.CAM_TBL_STAT_LIVE = 1 ∧ ((t .complete).table 2).flip = none ∧
     ((t .complete).cad 0).notes.map (·.type) = [4] ∧ ((t (.ended 2)).cad 0).notes.map (fun x => (x.type, x.detail)) = [(5, 2)] ∧ (t (.ended 2)).rd (tablePage 2) R.CAM_TBL_STAT_LIVE = 0 ∧
     gives (.cadenceBoundary 0) (cadence 0 3 0) (cadence 0 3 0) = true) ∧
    (let s := { device [] with tb := 9, cads := [(0, { notes := [{ stamp := 10, type := 4, w1 := 2 }] })] }
     gives (.notice 0) s s = true ∧ gives (.notice 0) (device []) (device []) = true) ∧
    (let s := withRegs { device [] with tb := 200000, chnOrg := [(0, 100000)] } [(0x071, R.CAM_PORT_RATE, 3, 0), (0x1000, R.AX_BIND_EN, 1, 7), (0x1000, R.AX_STATE_STATE, 1, 7)]
     (after (.camEvaluation 0 true) s).rd 0x071 R.CAM_FAULT_LATE = 1 ∧ gives (.camEvaluation 1 false) (s.wr 0x071 R.CAM_PORT_RATE 0 1) (s.wr 0x071 R.CAM_PORT_RATE 0 1) = true) ∧
    (let t := (coupled.wr 0x020 R.HLT_BRAKE_ACTIVE 1).evalAxis 7 5
     t.rd 0x1000 R.AX_STATE_CAUSE 7 = 3 ∧ t.rd 0x1000 R.AX_STATE_STATE 7 = 1 ∧ t.on 0x1000 R.AX_STATE_FAULT 7 = true) := by
  decide +kernel

/-- An axis that would overload its port, a table whose points do not rise, and passes that have nothing to do or fail. -/
theorem witness_tablesAndAxesAtTheirEdges :
    (let s := (withRegs (device []) [(0x071, R.CAM_PORT_RATE, 3, 0)]).wr 0x1000 R.AX_BIND_EN 1 7
     s.on 0x1000 R.AX_BIND_EN 7 = true ∧ gives (.axisEnable 7 0) s (s.applyWrite (R.AX_BIND_EN.addr 0x1000 7) 0x80000000).showDemand = true) ∧
    (let good : Nat → Nat → State := fun a b => (withRegs (device [56, 57]) [(tablePage 2, R.CAM_TBL_B_POINTS, 2, 0)]).setBytes 0x4000000
       (leBytes 4 3 ++ leBytes 2 2 ++ leBytes 2 2 ++ leBytes 4 (crc32c (pointBytes a 1 0 ++ pointBytes b 1 0)) ++ leBytes 4 0 ++ pointBytes a 1 0 ++ pointBytes b 1 0)
     let s : State := { good 9 0 with tables := [(2, { scan := true })] }
     (s.scanCopy 2 0).1 = some 3 ∧ s.ordered (s.copyBase 2 0) 2 = false ∧ (after (.camTableScan 2) s).rd (tablePage 2) R.CAM_TBL_STAT_REFUSE = 3 ∧
     gives (.camTableScan 3) s s = true ∧ gives (.commitPass 2) s s = true) ∧
    (let bad := { committing with bad := [(0x4000000, .uncorrectable)] }
     let inj := committing.wr 0x071 R.PG_INJ_INJ 1
     ((after (.commitPass 2) bad).table 2).pass = .ended 3 ∧ (after (.commitPass 2) bad).rd 0x07F R.CAM_COMMIT_ABORT = 1 ∧
     ((after (.commitPass 2) inj).table 2).pass = .ended 2 ∧ (after (.commitPass 2) inj).rd 0x071 R.CAM_FAULT_ORDER = 1) := by
  decide +kernel

/-- Entry 3 of bank 0 armed for tick 90 with an action, at tick 100. -/
def armed (act : Nat) (s : State := device [8]) : State := { s with tb := 100, rel := [(3, ⟨90, act, 0, 0, false⟩)] }

theorem witness_ReleasesActAndDriveTheirPins :
    (let e := fun act => (⟨90, act, 0, 0, false⟩ : RelEntry)
     let t := fun k => k * 2 ^ 39
     let pin := fun f => (device [8]).wr 0x080 R.FIO_CFG_FUNC f 5
     (∀ k ∈ [0, 1, 2, 3, 4], (armed (t k)).relNext = some (90, relKey 0 3, e (t k)) ∧ actType (t k) = k ∧ actPh (t k) = false) ∧ (armed 0).domOn 8 = true ∧
     (armed 0).recording = false ∧ (armed 0).injArmed (relPage 0) 1 = false ∧
     (after (.releaseMarker 0 3) (armed 0)).rel = [] ∧ (after (.releaseMarker 0 4) (armed 0)).rel = [(3, e 0)] ∧
     (pin 1).pinSafe 5 = false ∧ ((after (.releasePinEdge 0 3) (armed (t 1 + 5 + 2 ^ 8) (pin 1))).pin 5).level = true ∧
     ((after (.releasePinEdge 0 3) (armed (t 1 + 5 + 3 * 2 ^ 8 + 7 * 2 ^ 12) (pin 1))).pin 5).pulse = some (360 + 28) ∧
     (after (.releasePinEdge 0 3) (armed (t 1 + 5) (pin 0))).rd (relPage 0) R.REL_CNT_DISCARD = 1 ∧
     ((after (.releasePwmDutyLoad 0 3) (armed (t 2 + 4 + 9 * 2 ^ 16))).pwm 4).pend = some (9, false, 90) ∧
     (let r := (device [8, 40]).wr (chnPage 0) R.CHN_STAT_STATE chRun
      (({ armed (t 3) r with rel := [] } : State).chainCommit 0 90 0 3).isSome = true ∧ ((after (.releaseChainCommit 0 3) (armed (t 3) r)).port 0).latches.length = 1) ∧
     (let ch := (device [8]).wr (chanPage 5) R.FAB_CH_LO_EN 1
      ((after (.releaseMessage 0 3) (armed (t 4 + 5 + 77 * 2 ^ 12) ch)).chan 5).flight = [.msg ⟨5, 0x120, 100, 6, [77, 3]⟩])) := by
  decide +kernel

theorem witness_ReleasesActAndDriveTheirPins_edges :
    (let s := fun l => ({ device [8] with pins := [(5, { driven := true, level := true, last := l })] } : State)
     let t := fun l => ((s (some (l, false, 2))).placeEdge 0 5 100 2 none)
     ((t 96).pin 5).level = false ∧ ((t 96).pin 5).last = some (100, true, 0) ∧ (t 96).rd (relPage 0) R.REL_CNT_COLLIDE = 0 ∧
     ((t 97).pin 5).level = true ∧ (t 97).rd (relPage 0) R.REL_CNT_COLLIDE = 1 ∧ ((t 100).pin 5).last = some (100, false, 0) ∧
     (t 103).pin 5 = (s (some (103, false, 2))).pin 5 ∧ (t 103).rd (relPage 2) R.REL_CNT_COLLIDE = 1 ∧ (t 104).rd (relPage 2) R.REL_CNT_COLLIDE = 0 ∧
     ((t 104).pin 5).last = some (100, true, 0)) ∧
    (let s := { device [8] with tb := 100, pins := [(5, { driven := true, level := true, pulse := some 400 })] }
     (s.pin 5).pulse = some 400 ∧ s.domOn 3 = true ∧ ((after (.pulseEnd 5) s).pin 5).level = false ∧ ((after (.pulseEnd 5) s).pin 5).last = some (400, true, 0)) := by
  decide +kernel

theorem witness_StrobesReachWindowsAndEncoders :
    (let a := fun op => 5 * 2 ^ 39 + op * 2 ^ 5 + 2
     let w := fun o => withRegs (device [8]) [(0x081, R.CW_CTRL_EN, 1, 2), (0x081, R.CW_STAT_OPEN, o, 2), (0x082, R.ENC_CFG_MODE, 1, 2), (0x082, R.ENC_CNT_COUNT, 9, 2), (0x082, R.ENC_CHAN_CHAN, 5, 2)]
     (∀ op ∈ [0, 1, 2, 3], (armed (a op)).relNext = some (90, relKey 0 3, ⟨90, a op, 0, 0, false⟩) ∧ actType (a op) = 5 ∧ bits (a op) 5 3 = op) ∧
     (w 0).on 0x081 R.CW_CTRL_MODE 2 = false ∧ (w 1).on 0x081 R.CW_CTRL_MISS 2 = false ∧
     (after (.strobeOpenWindow 0 3) (armed (a 0) (w 0))).on 0x081 R.CW_STAT_OPEN 2 = true ∧ ((after (.strobeOpenWindow 0 3) (armed (a 0) (w 0))).win 2).opened = 90 ∧
     (after (.strobeCloseWindow 0 3) (armed (a 1) (w 1))).on 0x081 R.CW_STAT_OPEN 2 = false ∧ ((after (.strobeCloseWindow 0 3) (armed (a 1) (w 1))).win 2).past.map (·.close) = [90] ∧ ((w 1).win 2).past = [] ∧
     (after (.strobeLatchEncoder 0 3) (armed (a 2) (w 0))).out = (((armed (a 2) (w 0)).capture118 5 90 { src := 2, type := 2, val := 9 })).out ∧
     ((after (.strobeStartSsi 0 3) (armed (a 3) ((w 0).wr 0x082 R.ENC_CFG_MODE 2 2))).enc 2).frame.map (·.1) = some 90 ∧ ((w 0).enc 2).pauseEnd ≤ 90 ∧ 96 ≤ ((w 0).wr 0x082 R.ENC_CFG_PIN_A 127 2).rd 0x082 R.ENC_CFG_PIN_A 2) ∧
    (let s := { device [8] with rel := [(3, ⟨90, 0, 0, 0, false⟩), (4, ⟨95, 0, 0, 0, false⟩)] }
     s.relNext = none ∧ risingFrom 0 s.rel = true ∧ (after (.relKill 0 3) s).rel = [(4, ⟨95, 0, 0, 0, false⟩)] ∧ (after (.relKill 0 3) s).rd (relPage 0) R.REL_IDX_ENTRY = 3) := by
  decide +kernel

theorem witness_CapturesWindowsAndBanks :
    (let s := fun g => { withRegs (device []) [(0x080, R.FIO_CAP_EDGE, g, 5), (0x080, R.FIO_CAP_CHAN, 7, 5), (0x080, R.FIO_CFG_FILT, 2, 5), (chanPage 7, R.FAB_CH_LO_EN, 1, 0)] with tb := 100 }
     ((s 0).pin 5).inp ≠ true ∧ edgeSelects ((s 0).capEdge 5) true = false ∧ (s 0).windowsOn 5 = [] ∧ (after (.pinEdgeCapture 5 true) (s 0)).rd 0x080 R.FIO_IN_IN = 32 ∧
     edgeSelects ((s 1).capEdge 5) true = true ∧ (s 1).filterNs 5 = 8 ∧ ((s 1).pin 5).cap = none ∧ ((after (.pinEdgeCapture 5 true) (s 1)).pin 5).cap = some 92 ∧
     ((after (.pinEdgeCapture 5 true) (s 1)).chan 7).flight.length = 1) ∧
    (let s := fun o => { withRegs (device []) [(0x072, R.CAD_CTRL_EN, 1, 0), (0x081, R.CW_CTRL_EN, 1, 2), (0x081, R.CW_CTRL_MODE, 1, 2), (0x081, R.CW_STAT_OPEN, o, 2), (0x081, R.CW_OPEN_PHASE, 50, 2), (0x081, R.CW_CLOSE_PHASE, 60, 2)] with
       tb := 100, cads := [(0, { segs := [⟨1, 0, 2 ^ 20, 0, 0, 1, 1, none⟩], enabledAt := 1 })] }
     (s 0).winEdge 2 ((s 0).rd 0x081 R.CW_OPEN_PHASE 2) true = some (51, 50) ∧ (s 1).winEdge 2 ((s 1).rd 0x081 R.CW_CLOSE_PHASE 2) false = some (61, 60) ∧ ((s 1).win 2).past = [] ∧ ((after (.phaseWindowOpen 2) (s 0)).win 2).mark = some 50 ∧ (s 1).on 0x081 R.CW_CTRL_MISS 2 = false ∧
     (after (.phaseWindowOpen 2) (s 0)).on 0x081 R.CW_STAT_OPEN 2 = true ∧ ((after (.phaseWindowClose 2) (s 1)).win 2).past.map (·.close) = [61]) ∧
    (let s := { (device []).wr 0x080 R.FIO_BANK_MISMATCH 4 with misBanks := 4 }
     s.misUntil = none ∧ (after (.bankMismatch 0) s).rd 0x080 R.FIO_BANK_MISMATCH = 5 ∧ (after (.bankMismatchEnd 2) s).misBanks = 0) ∧
    (let s := fun b => withRegs (device []) [(0x080, R.FIO_SAFE_ACTIVE, 1, 0), (0x020, R.HLT_BRAKE_ACTIVE, b, 0)]
     (s 0).on 0x080 R.FIO_SAFE_ACTIVE = true ∧ (after .fioSafeClr (s 0)).on 0x080 R.FIO_SAFE_ACTIVE = false ∧ (after .fioSafeClr (s 1)).on 0x080 R.FIO_SAFE_ACTIVE = true) := by
  decide +kernel

theorem witness_EncodersAndPwmRun :
    (let s := { withRegs (device []) [(0x082, R.ENC_CFG_MODE, 1, 2), (0x080, R.FIO_CFG_FUNC, 3, 5), (0x080, R.FIO_CFG_FUNC, 3, 6), (0x082, R.ENC_CFG_PIN_A, 5, 2), (0x082, R.ENC_CFG_PIN_B, 6, 2),
       (0x082, R.ENC_CFG_PIN_Z, 6, 2), (0x082, R.ENC_CFG_ZLATCH, 1, 2), (0x082, R.ENC_PER_PERIOD, 1000, 2), (0x082, R.ENC_OFS_OFS, 30, 2)] with tb := 2500 }
     s.encPin (s.rd 0x082 R.ENC_CFG_PIN_A 2) = true ∧ s.encPin (s.rd 0x082 R.ENC_CFG_PIN_B 2) = true ∧ s.injArmed 0x082 0 = false ∧
     (after (.encoderTransition 2 true true) s).rd 0x082 R.ENC_STAT_QERR 2 = 1 ∧
     true ≠ (s.enc 2).a ∧ false = (s.enc 2).b ∧ ((after (.encoderTransition 2 true false) s).enc 2).a = true ∧
     (after (.encoderZLatch 2) s).on 0x082 R.ENC_STAT_ZSEEN 2 = true ∧ s.rd 0x082 R.ENC_PER_PERIOD 2 ≠ 0 ∧ (s.enc 2).lastPer = none ∧
     ((after (.encoderPeriodicLatch 2) s).enc 2).lastPer = some 2030) ∧
    (let s := { withRegs (device []) [(0x082, R.ENC_CFG_MODE, 2, 2), (0x082, R.ENC_SSI_BITS, 4, 2), (0x082, R.ENC_SSI_GRAY, 1, 2), (0x082, R.ENC_SSI_HALF, 5, 2), (chanPage 0, R.FAB_CH_LO_EN, 1, 0)] with
       tb := 500, encs := [(2, { frame := some (100, false) })] }
     (s.enc 2).frame = some (100, false) ∧ s.injArmed 0x082 1 = false ∧ s.on 0x082 R.ENC_SSI_PAR 2 = false ∧ 100 + 2 * s.ssiBits 2 * s.ssiHalf 2 = 500 ∧
     ((after (.ssiFrameEnd 2 6) s).enc 2).frame = none ∧ ((after (.ssiFrameEnd 2 6) s).chan 0).flight.map (fun f => match f with | .msg m => m.words.drop 2 | _ => []) = [[4, 0]]) ∧
    (let s := fun x => { withRegs (device []) [(0x083, R.PWM_CFG_EN, 1, 2), (0x083, R.PWM_PER_PERIOD, 100, 2), (0x083, R.PWM_DUTY_DUTY, 32768, 2), (0x083, R.PWM_ORG_ORG, 130, 2)] with tb := 500, pwms := [(2, x)] }
     (s {}).on 0x083 R.PWM_CFG_EN 2 = true ∧ ((s {}).pwm 2).held = false ∧ (s {}).rd 0x083 R.PWM_DUTY_DUTY 2 ≠ 0 ∧ (s {}).on 0x083 R.PWM_DUTY_FULL 2 = false ∧
     (after (.pwmPeriodStart 2) (s {})).pwm 2 = { start := some 430, high := true, fall := some 1920 } ∧
     ((after (.pwmFall 2) (s { high := true, fall := some 2000, start := some 430 })).pwm 2).high = false) := by
  decide +kernel

theorem witness_EventsArePresentedClaimedAndFinished :
    (let s := fun x => { withRegs (device []) [(srcPage 5, R.EV_SRC_CFG_EN, 1, 0), (grpPage 0, R.EV_GRP_NS_NS, 50, 0), (0x040, R.EV_SRC_IDX_IDX, 5, 0)] with tb := 60, xing := [(5, 2)], evSrc := [(5, x)], evGrp := [(0, { held := 1, first := 10 })] }
     0 < (s {}).crossing 5 ∧ isReservedSource 5 = false ∧ (s {}).on (srcPage 5) R.EV_SRC_CFG_EN = true ∧ (s {}).rd (grpPage 0) R.EV_GRP_CFG_COUNT ≤ 1 ∧
     ((after (.eventRaise 5) (s {})).src 5).st = .pending ∧ (after (.eventRaise 5) (s {})).crossing 5 = 1 ∧ (after (.eventRaise 5) (s {})).grp 0 = {} ∧
     (s {}).frozen 0x040 = false ∧ ((after (.groupTimeLimit 0) (s { st := .held })).src 5).st = .pending ∧ (after (.groupTimeLimit 0) (s { st := .held })).grp 0 = {} ∧
     isLevelSource 5 = false ∧ bit 0x80000000 R.EV_SRC_CFG_HOST.lo = false ∧
     (after (.eventSourceConfig 0) (s {})).on (srcPage 5) R.EV_SRC_CFG_EN = false) ∧
    (let s := fun h x => { withRegs (device []) [(srcPage 5, R.EV_SRC_CFG_HOST, h, 0), (srcPage 5, R.EV_SRC_CFG_VEC, 3, 0)] with evSrc := [(5, { st := x })] }
     let r := fun (x : State) n => x.on (srcPage n) R.EV_SRC_CFG_HOST && x.rd (srcPage n) R.EV_SRC_CFG_VEC = (3 : Nat)
     (s 1 .pending).bestOf (r (s 1 .pending)) = some 5 ∧ ((after (.evHclaim 3) (s 1 .pending)).src 5).st = .claimed ∧ (after (.evHclaim 3) (s 1 .pending)).out = [.regRead 0x4010C 5] ∧
     (s 0 .pending).bestOf (r (s 0 .pending)) = none ∧ (after (.evHclaim 3) (s 0 .pending)).out = [.regRead 0x4010C 1023] ∧
     (s 1 .claimed).vecAsserted 3 = false ∧ ((after (.evHfin 5) (s 1 .claimed)).src 5).st = .idle ∧ (after (.evHfin 5) (s 1 .idle)).rd 0x040 R.EV_ERR_BADFIN = 1) ∧
    (let s := device []
     (after (.evSw 0x8001) s).crossing 655 = 1 ∧ (after (.evSw 0x8001) s).crossing 640 = 1 ∧ (after (.evSw 0x8001) s).crossing 641 = 0) ∧
    (let s := (device []).wr 0x040 R.PG_EVT_PEND_PEND 6
     (pageKind 0x040).hasHeader = true ∧ s.pageOn 0x040 = true ∧ (after (.pgEvtPendClear 0x040 2) s).rd 0x040 R.PG_EVT_PEND_PEND = 4) := by
  decide +kernel

theorem witness_ReleasesActAndDriveTheirPins_forms :
    (let t := fun k => k * 2 ^ 39
     let x := { armed (t 1) with tb := 60 }
     gives (.releaseMarker 0 4) (armed 0) (armed 0) ∧ gives (.releaseMarker 0 3) (armed (t 1)) (armed (t 1)) ∧ gives (.releaseMessage 0 3) x x ∧ x.relNext = none ∧
     (({ armed 0 with doms := [] } : State).domOn 8 = false ∧ gives (.releaseMarker 0 3) { armed 0 with doms := [] } { armed 0 with doms := [] })) ∧
    (let n := 2 * 2 ^ 39 + 4 + 2 ^ 5 + 32768 * 2 ^ 16
     let d := fun x p => armed n { (device [8]).wr 0x083 R.PWM_PER_PERIOD p 4 with pwms := [(4, x)] }
     (after (.releasePwmDutyLoad 0 3) (d {} 100)).rd 0x083 R.PWM_DUTY_DUTY 4 = 32768 ∧
     ((after (.releasePwmDutyLoad 0 3) (d { start := some 80, high := true, fall := some 900 } 100)).pwm 4).fall = some 520 ∧
     ((after (.releasePwmDutyLoad 0 3) (d { start := some 10, high := true, fall := some 900 } 100)).pwm 4) = { start := some 10 } ∧
     ((after (.releasePwmDutyLoad 0 3) (armed (n + 2 ^ 6) (d { start := some 10, high := true, fall := some 900 } 100))).pwm 4).fall = none) ∧
    (let c := armed (3 * 2 ^ 39) (device [8, 40])
     ({ c with rel := [] } : State).chainCommit 0 90 0 3 = none ∧ (after (.releaseChainCommit 0 3) c).rd (relPage 0) R.REL_CNT_DISCARD = 1) ∧
    (let ch := (device [8]).wr (chanPage 5) R.FAB_CH_LO_EN 1
     let m := fun e => { armed 0 ch with rel := [(3, e)] }
     let a := 4 * 2 ^ 39 + 5 + 77 * 2 ^ 12
     ((after (.releaseMessage 0 3) (m ⟨90, a, 0, 0, true⟩)).chan 5).flight = [.msg ⟨5, 0x120, 100, 7, [77, 3]⟩] ∧
     ((after (.releaseMessage 0 3) (m ⟨91, a, 0, 0, false⟩)).chan 5).flight = [.msg ⟨5, 0x120, 100, 6, [77, 3]⟩]) := by
  decide +kernel

theorem witness_StrobesReachWindowsAndEncoders_forms :
    (let a := fun op => 5 * 2 ^ 39 + op * 2 ^ 5 + 2
     let w := fun m o => armed (a 0) (withRegs (device [8]) [(0x081, R.CW_CTRL_EN, 1, 2), (0x081, R.CW_CTRL_MODE, m, 2), (0x081, R.CW_CTRL_MISS, 1, 2), (0x081, R.CW_STAT_OPEN, o, 2)])
     let cl := { w 0 1 with rel := [(3, ⟨90, a 1, 0, 0, false⟩)] }
     gives (.strobeOpenWindow 0 3) (w 1 0) ((w 1 0).freed (relKey 0 3) 90 ⟨90, a 0, 0, 0, false⟩) ∧
     gives (.strobeOpenWindow 0 3) (w 0 1) ((w 0 1).freed (relKey 0 3) 90 ⟨90, a 0, 0, 0, false⟩) ∧ gives (.strobeCloseWindow 0 3) (w 0 1) (w 0 1) ∧
     (after (.strobeCloseWindow 0 3) cl).rd 0x081 R.CW_STAT_MISSES 2 = 1 ∧ (after (.strobeCloseWindow 0 3) (cl.wr 0x081 R.CW_STAT_HIT 1 2)).rd 0x081 R.CW_STAT_MISSES 2 = 0 ∧
     ((after (.strobeCloseWindow 0 3) (withRegs cl [(0x080, R.FIO_CFG_FILT, 5, 0)])).win 2).past.map (·.miss) = [true]) ∧
    (let s := fun x => armed (5 * 2 ^ 39 + 3 * 2 ^ 5 + 2) { withRegs (device [8]) [(0x082, R.ENC_CFG_MODE, 2, 2)] with encs := [(2, x)] }
     (after (.strobeStartSsi 0 3) (s { pauseEnd := 91 })).rd 0x082 R.ENC_STAT_SSIERR 2 = 1 ∧ (after (.strobeStartSsi 0 3) (s { pauseEnd := 90 })).rd 0x082 R.ENC_STAT_SSIERR 2 = 0 ∧
     (after (.strobeStartSsi 0 3) (s { frame := some (50, false) })).rd 0x082 R.ENC_STAT_SSIERR 2 = 1) ∧
    (let s := { device [8] with rel := [(3, ⟨90, 0, 0, 0, false⟩), (4, ⟨95, 0, 0, 0, false⟩)], tb := 92 }
     (after (.relKill 0 4) s).rel = []) := by
  decide +kernel

theorem witness_CapturesWindowsAndBanks_forms :
    (let s := fun d e g x => { withRegs (device []) [(0x080, R.FIO_CAP_EDGE, d, 5), (0x081, R.CW_CTRL_EN, 1, 2), (0x081, R.CW_CTRL_PIN, 5, 2), (0x081, R.CW_CTRL_EDGE, e, 2),
       (0x081, R.CW_CTRL_FIRST, 1, 2), (0x081, R.CW_STAT_OPEN, g, 2), (0x081, R.CW_CTRL_CHAN, 7, 2), (chanPage 7, R.FAB_CH_LO_EN, 1, 0), (chanPage 0, R.FAB_CH_LO_EN, 1, 0)] with
       tb := 100, pins := [(5, { cap := x })], cws := [(2, { opened := 60 })] }
     let r := fun (x : State) => after (.pinEdgeCapture 5 true) x
     let n := fun (x : State) k => ((r x).chan k).flight.length
     let out := fun x => (r x).rd 0x081 R.CW_STAT_OUTSIDE 2
     gives (.pinEdgeCapture 5 false) (s 1 1 1 none) (s 1 1 1 none) ∧ (s 1 1 1 none).windowsOn 5 = [2] ∧
     (r (s 1 1 1 (some 93))).rd 0x081 R.CAP_ERR_LOST = 1 ∧ (r (s 1 1 1 (some 92))).rd 0x081 R.CAP_ERR_LOST = 0 ∧
     n (s 1 1 1 none) 7 = 1 ∧ n (s 1 1 1 none) 0 = 1 ∧ (r (s 1 1 1 none)).on 0x081 R.CW_STAT_HIT 2 = true ∧ out (s 1 1 1 none) = 0 ∧
     n (s 0 1 0 none) 7 = 0 ∧ out (s 0 1 0 none) = 1 ∧ out (s 0 0 0 none) = 1 ∧ out (s 0 0 1 none) = 0 ∧ n (s 1 0 1 none) 0 = 1 ∧ n (s 1 0 1 none) 7 = 0 ∧
     (let h := ({ s 0 1 1 none with cws := [(2, { opened := 60 })] } : State).wr 0x081 R.CW_STAT_HIT 1 2
      (r h).rd 0x081 R.CW_STAT_EXTRA 2 = 1 ∧ n h 7 = 0)) ∧
    (gives (.phaseWindowOpen 2) (device []) (device []) ∧ gives (.phaseWindowClose 2) (device []) (device [])) ∧
    (let s := { device [] with misUntil := some 5 }
     (after (.bankMismatchEnd 0) s).rd 0x080 R.FIO_BANK_MISMATCH = 1) ∧
    (let s := { withRegs (device []) [(0x080, R.FIO_SAFE_ACTIVE, 1, 0), (0x020, R.HLT_BRAKE_ACTIVE, 0, 0)] with tb := 70, pins := [(5, { safe := true, driven := true, pulse := some 9 })], pwms := [(3, { held := true })] }
     let t := after .fioSafeClr s
     (t.pin 5).safe = false ∧ (t.pin 5).driven = false ∧ (t.pin 5).pulse = none ∧ (t.pwm 3).wait = true ∧ (t.pwm 3).start = some 70 ∧ gives .fioSafeClr (device []) (device [])) := by
  decide +kernel

theorem witness_EncodersAndPwmRun_forms :
    (let s := { withRegs (device []) [(0x082, R.ENC_CFG_MODE, 1, 0), (0x080, R.FIO_CFG_FUNC, 3, 5), (0x080, R.FIO_CFG_FUNC, 3, 6), (0x082, R.ENC_CFG_PIN_A, 5, 0), (0x082, R.ENC_CFG_PIN_B, 6, 0),
       (0x082, R.ENC_CFG_PIN_Z, 9, 0), (0x082, R.ENC_PER_PERIOD, 1000, 0)] with tb := 2500, encs := [(0, { lastPer := some 2000 })] }
     gives (.encoderTransition 0 false false) s s ∧ gives (.encoderZLatch 0) s s ∧ gives (.encoderPeriodicLatch 0) s s ∧ gives (.ssiFrameEnd 0 6) s s ∧
     (after (.encoderTransition 0 true false) (s.wr 0x082 R.PG_INJ_INJ 1)).rd 0x082 R.ENC_STAT_QERR 0 = 1 ∧
     gives (.encoderTransition 0 true false) (s.wr 0x082 R.ENC_CFG_MODE 0 0) ((s.wr 0x082 R.ENC_CFG_MODE 0 0).setEnc 0 { lastPer := some 2000, a := true }) ∧
     (let p := fun x => { s.wr 0x082 R.ENC_CFG_MODE 2 0 with encs := [(0, x)] }
      ((after (.encoderPeriodicLatch 0) (p {})).enc 0).frame = some (2000, true) ∧ (after (.encoderPeriodicLatch 0) (p { pauseEnd := 2001 })).rd 0x082 R.ENC_STAT_SSIERR 0 = 1)) ∧
    (let s := fun l p => { withRegs (device []) [(0x082, R.ENC_CFG_MODE, 2, 2), (0x082, R.ENC_SSI_BITS, 4, 2), (0x082, R.ENC_SSI_PAR, p, 2), (0x082, R.ENC_SSI_HALF, 5, 2), (chanPage 0, R.FAB_CH_LO_EN, 1, 0)] with
       tb := 1500, encs := [(2, { frame := some (100, l) })] }
     let e := fun l p d => (after (.ssiFrameEnd 2 d) (s l p)).rd 0x082 R.ENC_STAT_SSIERR 2
     e true 0 6 = 1 ∧ e false 1 7 = 1 ∧ e false 1 6 = 0 ∧ e false 0 7 = 0) ∧
    (let s := fun (x : Pwm) => { withRegs (device []) [(0x083, R.PWM_CFG_EN, 1, 2), (0x083, R.PWM_PER_PERIOD, 100, 2), (0x083, R.PWM_ORG_ORG, 130, 2)] with tb := 500, pwms := [(2, x)] }
     let w := fun (x : Pwm) => gives (.pwmPeriodStart 2) (s x) (s x)
     let f := fun (x : Pwm) => gives (.pwmFall 2) (s x) (s x)
     w { start := some 430 } ∧ w { held := true } ∧ gives (.pwmPeriodStart 3) (s {}) (s {}) ∧ f { fall := some 2001, high := true } ∧ f { fall := some 1900 } ∧
     (after (.pwmPeriodStart 2) (s { pend := some (16384, false, 430) })).pwm 2 = { start := some 430, high := true, fall := some 1820 } ∧
     ((after (.pwmPeriodStart 2) (s { pend := some (16384, false, 431) })).pwm 2).pend.isSome = true ∧ ((after (.pwmPeriodStart 2) (s { pend := some (0, true, 430) })).pwm 2).high = true) := by
  decide +kernel

theorem witness_EventsArePresentedClaimedAndFinished_forms :
    (let s := fun g x => { withRegs (device []) [(srcPage 5, R.EV_SRC_CFG_EN, 1, 0), (srcPage 5, R.EV_SRC_CFG_VEC, 3, 0), (grpPage 0, R.EV_GRP_CFG_COUNT, g, 0), (0x040, R.EV_SRC_IDX_IDX, 5, 0)] with
       tb := 60, xing := [(5, 1)], evSrc := [(5, x)] }
     let st := fun g x => ((after (.eventRaise 5) (s g { st := x })).src 5).st
     st 0 .idle = .pending ∧ st 1 .idle = .pending ∧ st 2 .idle = .held ∧ st 2 .held = .held ∧ (after (.eventRaise 5) (s 2 { st := .held })).grp 0 = { held := 1, first := 60 } ∧
     ((after (.eventRaise 5) (s 0 { st := .claimed })).src 5).rep = true ∧ gives (.eventRaise 6) (s 0 {}) (s 0 {}) ∧
     ((after (.eventRaise 5) ((s 0 {}).wr (srcPage 5) R.EV_SRC_CFG_EN 0)).src 5).st = .idle ∧ gives (.groupTimeLimit 0) (s 2 {}) (s 2 {}) ∧
     ((after (.eventSourceConfig 0) (s 0 { st := .pending })).src 5).st = .idle ∧ ((after (.eventSourceConfig 0) (s 0 { st := .claimed })).src 5).st = .claimed ∧
     gives (.eventSourceConfig 0x80000000) ((s 0 {}).wr 0x040 R.EV_SRC_IDX_IDX 1023) ((s 0 {}).wr 0x040 R.EV_SRC_IDX_IDX 1023) ∧
     ((after (.evHfin 5) (s 0 { st := .claimed, rep := true })).src 5).st = .pending) ∧
    (let s := fun e => { withRegs (device []) [(srcPage 5, R.EV_SRC_CFG_HOST, 1, 0), (0x040, R.PG_INJ_INJ, e, 0)] with evSrc := [(5, { st := .pending })] }
     (after (.evHclaim 0) (s 2)).out = [.regRead 0x40100 1023] ∧ ((after (.evHclaim 0) (s 2)).src 5).st = .pending ∧
     (after (.evHclaim 0) { s 0 with doms := [(2, { st := .off })] }).out = [.regRead 0x40100 0]) ∧
    (let s := { device [] with xing := [(640, 255)] }
     (after (.evSw 1) s).crossing 640 = 255 ∧ (after (.evSw 1) s).on (xingPage 2) R.XING_STAT_OVF = true ∧ (after (.evSw 1) s).rd 0x040 R.EV_ERR_OVF = 1 ∧
     gives (.evSw 1) ((device []).wr 0x040 R.PG_CTRL_SRST 1) ((device []).wr 0x040 R.PG_CTRL_SRST 1) ∧ (pageKind 0x041).hasHeader = false ∧
     gives (.pgEvtPendClear 0x041 2) (device []) (device [])) := by
  decide +kernel

/-- Lane 0 of vision, on and enabled, in a link state, with live state, at a time. -/
def vision (st tb : Nat) (x : Vision := {}) (more : List (Nat × Fld × Nat × Nat) := []) : State :=
  { withRegs (device [24]) ([(visPage 0, R.PG_CTRL_EN, 1, 0), (visPage 0, R.VIS_LINK_EN, 1, 0), (visPage 0, R.VIS_LINK_STATE, st, 0), (visPage 0, R.VIS_FMT_LINE_W, 4, 0), (visPage 0, R.VIS_STRIPE_LEN, 4, 0)] ++ more) with
    tb := tb, vis := [(0, x)] }

theorem witness_LanesChangeStateAndReport :
    (let p := visPage 0
     let s := vision 2 1000000
     s.pageOn p = true ∧ s.visMaster 0 = 0 ∧ (s.wr p R.VIS_LINK_EN 0).on p R.VIS_LINK_EN = false ∧ (after (.laneEnable 0 0x100) (s.wr p R.VIS_LINK_EN 0)).lnState 0 = 1 ∧
     (after (.laneEnable 0 0) s).lnState 0 = 0 ∧ (after (.laneRateWrite 0 0x103) (vision 3 7)).lnState 0 = 2 ∧ ((after (.laneRateWrite 0 0x103) (vision 3 7)).lane 0).relock = 7 ∧
     s.tiles 0 = true ∧ (vision 2 7 {} [(p, R.VIS_LINK_RATE, 3, 0)]).rd p R.VIS_LINK_RATE = 3 ∧ (vision 2 7 {} [(p, R.VIS_LINK_RATE, 3, 0)]).tiles 0 = true ∧
     (after (.laneLock 0) (vision 2 7 {} [(p, R.VIS_LINK_RATE, 3, 0)])).lnState 0 = 3 ∧ s.rd p R.VIS_LINK_RATE = 0 ∧ (after (.laneLock 0) s).lnState 0 = 1 ∧
     (s.lane 0).relock + 1000000 ≤ s.tb ∧ (after (.relockTimeout 0) s).lnState 0 = 1 ∧ (after (.lossOfSignal 0 true) (vision 3 7)).on p R.VIS_LINK_LOS = true ∧
     (after (.lossOfSignal 0 true) (vision 3 7)).lnState 0 = 1) ∧
    (let p := visPage 0
     let s := fun b => vision 3 2000000 {} [(p, R.VIS_CTL_STAT_BUSY, b, 0), (p, R.VIS_HB_TMO, 2, 0), (p, R.VIS_CTL_CMD_TMO, 1, 0)]
     (s 0).on p R.VIS_CTL_STAT_BUSY = false ∧ (after (.controlCommandGo 0 4) (s 0)).out = [.visControl 0 0 4 none] ∧ (after (.controlCommandGo 0 4) (s 0)).on p R.VIS_CTL_STAT_BUSY = true ∧
     (s 1).on p R.VIS_CTL_STAT_BUSY = true ∧ (after (.controlAck 0 true false 0x44 [1, 2]) (s 1)).rd p R.VIS_CTL_STAT_RESULT = 1 ∧ (after (.controlAck 0 true false 0x44 [1, 2]) (s 1)).rd p R.VIS_CTL_STAT_ACK = 0x44 ∧
     ((s 1).lane 0).ctl + 1000000 * max 1 ((s 1).rd p R.VIS_CTL_CMD_TMO) ≤ (s 1).tb ∧ (after (.controlTimeout 0) (s 1)).rd p R.VIS_CTL_STAT_RESULT = 2 ∧
     ((after (.heartbeatPacket 0) (s 0)).lane 0).beat = 2000000 ∧ (s 0).rd p R.VIS_HB_TMO ≠ 0 ∧ ((s 0).lane 0).beat + 1000000 * (s 0).rd p R.VIS_HB_TMO ≤ (s 0).tb ∧
     (after (.heartbeatLost 0) (s 0)).on p R.VIS_HB_LOST = true ∧ (after (.heartbeatLost 0) (s 0)).rd p R.VIS_HB_CNT = 1 ∧ (after (.eventPacket 0) (s 0)).out = [.visEventAck 0]) := by
  decide +kernel

theorem witness_TriggersPairWithLines :
    (let p := visPage 0
     let g : Trg := ⟨90, none, false⟩
     let s := fun x => vision 3 100000 x [(p, R.VIS_TRG_MODE, 2, 0), (p, R.VIS_TRG_STEP_STEP, 50, 0), (p, R.VIS_TRG_TMO, 20, 0)]
     (s {}).blockOn p = true ∧ (s {}).lnState 0 = 3 ∧ (s {}).visMaster 0 = 0 ∧ (s { seek := 101 }).nextFiring 0 101 = some 150 ∧
     ((after (.lineTrigger 0) (s { seek := 101 })).lane 0).packet = some 150 ∧ ((after (.lineTrigger 0) (s { seek := 101 })).lane 0).trigs = [⟨150, none, false⟩] ∧
     (after (.lineTrigger 0) (s { seek := 101 })).liveField (fwdPage 0) R.VIS_STAT_TRG_OUT 0 = some 1 ∧
     (s {}).visLanes 0 = 1 ∧ (s {}).on p R.VIS_FMT_AREA = false ∧ (s {}).rd p R.VIS_FMT_PFMT < 5 ∧ (s {}).injArmed p 0 = false ∧ (s {}).injArmed p 2 = false ∧ (s {}).injArmed (fwdPage 0) 2 = false ∧
     (s {}).lineWidth 0 = 4 ∧ ((after (.lineComplete 0 [1, 2, 3, 4] 90 0 0 true 0 true [6, 0] 2) (s { trigs := [g, g] })).lane 0).trigs = [g] ∧
     ((after (.lineComplete 0 [1, 2, 3, 4] 90 0 0 true 0 true [6, 0] 2) (s { trigs := [g, g] })).lane 0).seq = 1 ∧ ((s {}).lane 0).olds = [] ∧ ((s {}).lane 0).fifo.length < 256 ∧
     ((after (.lineComplete 0 [1, 2, 3, 4] 90 0 0 true 0 true [6, 0] 2) (s { trigs := [g, g] })).lane 0).strays = 2 ∧
     (after (.lineComplete 0 [1, 2, 3, 4] 90 0 0 true 0 true [6, 0] 2) (s { trigs := [g, g] })).rd (fwdPage 0) R.VIS_CNT_LINK_CODE = 6 ∧
     90 + 1000 * max 1 ((s {}).rd p R.VIS_TRG_TMO) ≤ (s {}).tb ∧ ((after (.triggerAbandon 0) (s { trigs := [g, g] })).lane 0).trigs = [g]) := by
  decide +kernel

theorem witness_FindingsLeaveAndPipelinesSleep :
    (let p := visPage 0
     let g : Trg := ⟨90, none, true⟩
     let f : Finding := ⟨5, 9, [1, 2], 9⟩
     let s := fun x => vision 3 1000000 x [(p, R.VIS_PWR_IDLE, 2, 0), (chanPage 5, R.FAB_CH_LO_EN, 1, 0), (fwdPage 0, R.VIS_FWD_FRZ_FROZEN, 1, 0), (0x010, R.PWR_DOM_REQ, 2, 24)]
     (s {}).domOn 24 = true ∧ ((after (.lostReport 0) (s { run := some ⟨g, 3, 7, 0⟩, after := [f], fifo := [f] })).lane 0).fifo.map (·.words) = [[1, 2], [8197, 7, 3, 0], [1, 2]] ∧
     (s {}).sendFails 5 0x100 9 = none ∧ (s {}).freeCredits 5 0x100 ≠ 0 ∧ (s {}).rpl.going = false ∧
     (((after (.findingSend 0) (s { fifo := [f] })).chan 5).flight.map fun x => match x with | .msg m => (m.kind, m.sender, m.words) | _ => (0, 0, [])) = [(1, 0x100, [1, 2])] ∧
     ((s {}).dom 24).emu = none ∧ (s {}).heldAwake 24 = false ∧ (s {}).rd p R.VIS_PWR_IDLE ≠ 0 ∧ ((s {}).lane 0).active + 1000 * (s {}).rd p R.VIS_PWR_IDLE ≤ (s {}).tb ∧
     (s {}).on 0x030 R.DBG_STAT_ATTACH = false ∧
     ((after (.visionIdleRetention 0) (s {})).dom 24).going = some .ret ∧ (after (.visionIdleRetention 0) (s {})).lnState 0 = 3 ∧
     (let u := after (.visionIdleRetention 0) (s {})
      (u.dom 24).latched = false ∧ ((after (.domainEntry 24) u).dom 24).st = .ret ∧ (after (.domainEntry 24) u).lnState 0 = 4) ∧
     (after (.freezeArm 0 0) (s {})).on (fwdPage 0) R.VIS_FWD_FRZ_FROZEN = false ∧
     (let u := { s {} with doms := [(24, { st := .ret })] }
      (u.dom 24).st = .ret ∧ (u.dom 24).going = none ∧ u.domOn 3 = true ∧ (u.dom 3).emu = none ∧ ((after (.visWake 0) u).dom 24).going = some .on ∧ (after (.visWake 0) u).powerReq 24 = 3)) := by
  decide +kernel

theorem witness_LanesChangeStateAndReport_forms :
    (let p := visPage 0
     let off : State := { vision 3 7 with doms := [(24, { st := .on }), (25, { st := .on })] }
     let two : State := { withRegs (vision 3 7) [(p, R.VIS_LINK_LANES, 1, 0), (visPage 1, R.PG_CTRL_EN, 1, 0), (visPage 1, R.VIS_LINK_STATE, 3, 0)] with doms := [(24, { st := .on }), (25, { st := .on })] }
     let en := fun l => (after (.laneEnable 0 (0x103 + BitVec.ofNat 32 (16 * l))) two)
     (off : State).visMaster 1 = 1 ∧ two.visMaster 1 = 0 ∧ two.visGroup 0 = [0, 1] ∧ (en 1).lnState 0 = 2 ∧ (en 1).lnState 1 = 2 ∧ (en 1).on (visPage 1) R.VIS_LINK_MEMBER = true ∧
     (en 0).lnState 1 = 0 ∧ (en 0).on (visPage 1) R.VIS_LINK_MEMBER = false ∧ (after (.laneLock 1) two).lnState 1 = 3 ∧
     (after (.laneEnable 0 0x103) (vision 2 7)).lnState 0 = 2 ∧ gives (.relockTimeout 0) (vision 2 999999) (vision 2 999999) ∧
     (let r := vision 2 7 {} [(p, R.VIS_LINK_RATE, 3, 0), (p, R.VIS_STRIPE_LEN, 3, 0)]
      r.tiles 0 = false ∧ (after (.laneLock 0) r).lnState 0 = 2 ∧ (after (.laneLock 0) r).on p R.VIS_LINK_STRIPE_ERR = true) ∧
     (after (.lossOfSignal 0 false) (vision 3 7)).on p R.VIS_LINK_LOS = false ∧ (after (.lossOfSignal 0 true) (vision 1 7)).lnState 0 = 1 ∧ (after (.lossOfSignal 1 true) two).lnState 0 = 1) ∧
    (let p := visPage 0
     let s := fun st (c : Nat) => vision st 2000000 { ctlCmd := c, ctl := 1500000, beat := 1500000 } [(p, R.VIS_CTL_STAT_BUSY, b2n (0 < c), 0), (p, R.VIS_CTL_CMD_TMO, 1, 0), (p, R.VIS_HB_TMO, 2, 0)]
     let ack := fun c e b => after (.controlAck 0 e b 0 [7, 8, 9]) (s 3 c)
     (after (.controlCommandGo 0 0x1104) (s 2 0)).rd p R.VIS_CTL_STAT_RESULT = 4 ∧ (after (.controlCommandGo 0 0x1104) (s 3 0x1104)).out = [] ∧ gives (.controlAck 0 false false 0 []) (s 3 0) (s 3 0) ∧
     (ack 0x1003 false false).rd p R.VIS_CTL_STAT_RESULT = 0 ∧ (ack 0x1003 false false).rd p R.VIS_CTL_DATA_BYTES = 0x090807 ∧ (ack 0x1001 false false).rd p R.VIS_CTL_DATA_BYTES = 7 ∧
     (ack 0x1003 false true).rd p R.VIS_CTL_STAT_RESULT = 3 ∧ (ack 0x1003 false true).rd p R.VIS_CTL_DATA_BYTES = 0 ∧
     gives (.controlTimeout 0) (s 3 0x1003) (s 3 0x1003) ∧ gives (.heartbeatLost 0) (s 3 0) (s 3 0) ∧ gives (.eventPacket 0) (s 2 0) (s 2 0)) := by
  decide +kernel

theorem witness_TriggersPairWithLines_forms :
    (let p := visPage 0
     let s := fun st x => vision st 100000 x [(p, R.VIS_TRG_MODE, 2, 0), (p, R.VIS_TRG_STEP_STEP, 50, 0), (p, R.VIS_TRG_TMO, 20, 0)]
     let skip := fun st x => (after (.lineTrigger 0) (s st x)).rd (fwdPage 0) R.VIS_CNT_TRG_SKIP
     let far := s 3 { seek := 100001 }
     far.nextFiring 0 100001 = some 100050 ∧ gives (.lineTrigger 0) far far ∧ skip 3 { seek := 4001, packet := some 51 } = 1 ∧ skip 3 { seek := 4001, packet := some 50 } = 0 ∧ skip 1 { seek := 101 } = 1 ∧
     skip 3 { seek := 101, trigs := List.replicate 64 ⟨9, none, false⟩ } = 1 ∧
     (let o := { s 3 { seek := 101 } with doms := [(24, { st := .off })] }
      (after (.lineTrigger 0) o).rd (fwdPage 0) R.VIS_CNT_TRG_SKIP = 0 ∧ ((after (.lineTrigger 0) o).lane 0).seek = 150) ∧
     (let o := { s 3 { seek := 101 } with doms := [(24, { st := .ret })] }
      (after (.lineTrigger 0) o).rd (fwdPage 0) R.VIS_CNT_TRG_SKIP = 1 ∧ ((after (.lineTrigger 0) o).dom 24).going = some .on)) ∧
    (let p := visPage 0
     let g : Trg := ⟨90, none, false⟩
     let s := fun st x => vision st 100000 x [(p, R.VIS_TRG_MODE, 2, 0), (p, R.VIS_TRG_TMO, 20, 0)]
     let line := fun st x c o => after (.lineComplete 0 [1, 2, 3, 4] 90 0 c o 0 true [] 0) (s st x)
     gives (.lineComplete 0 [1, 2, 3, 4] 90 0 0 true 0 true [] 0) (s 1 { trigs := [g] }) (s 1 { trigs := [g] }) ∧ (line 3 {} 0 true).rd (fwdPage 0) R.VIS_CNT_LINE_ORPHAN = 1 ∧
     ((line 3 { trigs := [g] } 1 true).lane 0).seq = 0 ∧ (line 3 { trigs := [g] } 1 true).rd (fwdPage 0) R.VIS_CNT_LINE_LOST = 1 ∧ (line 3 { trigs := [g] } 1 true).rd (fwdPage 0) R.VIS_CNT_LINK_CRC = 1 ∧
     (line 3 { trigs := [g] } 0 false).rd (fwdPage 0) R.VIS_CNT_LINE_LOST = 1 ∧ ((line 3 { trigs := [g] } 0 false).lane 0).trigs = [] ∧
     gives (.triggerAbandon 0) (s 3 { trigs := [⟨80001, none, false⟩] }) (s 3 { trigs := [⟨80001, none, false⟩] }) ∧ gives (.triggerAbandon 0) (s 3 {}) (s 3 {}) ∧
     ((after (.triggerAbandon 0) (s 3 { trigs := [⟨80000, none, false⟩] })).lane 0).trigs = []) := by
  decide +kernel

theorem witness_FindingsLeaveAndPipelinesSleep_forms :
    (let p := visPage 0
     let g : Trg := ⟨90, none, true⟩
     let f : Finding := ⟨5, 9, [1, 2], 9⟩
     let s := fun x ch => vision 3 1000000 x [(p, R.VIS_PWR_IDLE, 2, 0), (chanPage 5, R.FAB_CH_LO_EN, ch, 0), (0x010, R.PWR_DOM_REQ, 2, 24)]
     let full := (s { fifo := [f] } 1).setChan 5 { (s { fifo := [f] } 1).chan 5 with used := [((s {} 1).creditKey 5 0x100, 16)] }
     gives (.lostReport 0) (s { run := some ⟨g, 3, 7, 1⟩ } 1) (s { run := some ⟨g, 3, 7, 1⟩ } 1) ∧ gives (.findingSend 0) (s {} 1) (s {} 1) ∧
     full.freeCredits 5 0x100 = 0 ∧ (after (.findingSend 0) full).rd (fwdPage 0) R.VIS_CNT_TRG_CRWAIT = 1 ∧ ((after (.findingSend 0) full).lane 0).waited = true ∧
     gives (.visionIdleRetention 0) (s { active := 998001 } 1) (s { active := 998001 } 1) ∧
     (let d := (s {} 1).wr 0x030 R.DBG_STAT_ATTACH 1
     ((after (.visionIdleRetention 0) d).dom 24).emu = some .ret ∧ ((after (.visionIdleRetention 0) d).dom 24).st = .on ∧ (after (.visionIdleRetention 0) d).lnState 0 = 4) ∧
     (let o := { s {} 1 with doms := [(24, { st := .off })] }
     (after (.visWake 0) o).elog = [⟨p, 1, 1000000⟩])) := by
  decide +kernel

/-- Chain port 0 with one node in a state, at a time. -/
def chain (st tb : Nat) (x : ChainPort := {}) (more : List (Nat × Fld × Nat × Nat) := []) : State :=
  { withRegs (device [8, 40, 41]) ([(chnPage 0, R.CHN_STAT_STATE, st, 0), (chnPage 0, R.CHN_STAT_NODES, 1, 0), (0x020, R.HLT_BRAKE_ACTIVE, 0, 0)] ++ more) with
    tb := tb, ports := [(0, x)] }
def frameOf (s : State) (ty : Nat) (n : Int) : List Byte := (s.header 0 ty n 1 false false false).frame (zeros 64)

theorem witness_ChainPortsTakeTheirRequests :
    (let s := chain 1 100
     s.domOn 40 = true ∧ s.chnLead 0 = none ∧ s.portRefuse 0 2 = 0 ∧ s.portRefuse 0 4 = 1 ∧ (after (.portRequest 0 2) s).port 0 = { req := some (2, 100) } ∧
     (after (.portRequest 0 2) s).rd (chnPage 0) R.CHN_CTRL_REQ = 2 ∧ (after (.portRequest 0 4) s).rd (chnPage 0) R.CHN_STAT_REFUSE = 1 ∧
     (after (.portRequest 0 4) s).rd (chnPage 0) R.CHN_CTRL_REQ = 1) ∧
    (let s := fun tb => chain 1 tb { req := some (2, 100) }
     (s 0).cycleAt 0 (100 + 999) + 1 = 1 ∧ (s 0).cogs = [] ∧ (s 0).chnRed 0 = false ∧ (s 0).cycleStart 0 1 = (s 0).cycHalf 0 / 2 ∧
     (after (.portStateChange 0) (s ((s 0).cycHalf 0 / 2))).chnState 0 = 2 ∧ (after (.portStateChange 0) (s ((s 0).cycHalf 0 / 2 - 1))).chnState 0 = 1) ∧
    (let s := chain 4 100
     (s.portSettle 0).regs = s.regs ∧ s.chnState 0 = 4 ∧ s.chnLead 0 = none ∧ (s.chainCommit 0 90 1 2).map (fun t => (t.port 0).latches.map fun l => (l.tick, l.cas, l.entry, l.areas.length)) = some [(90, 1, 2, 1)]) := by
  decide +kernel

theorem witness_ChainCyclesSendAndFeedBack :
    (let x : ChainPort := { cycle := 4, bulk := [false] }
     let s := fun st tb x => chain st tb x
     let at5 := ((s 3 0 x).cycleStart 0 5).toNat
     let sent := after (.chainCycleStart 0) (s 3 at5 x)
     (s 2 at5 x).chnState 0 < 3 ∧ (s 3 at5 x).chnLead 0 = none ∧ x.bulk ≠ [] ∧ (s 3 at5 x).servoCycle 0 5 = false ∧ (s 3 at5 x).mayStart 0 5 = true ∧ (after (.chainCycleStart 0) (s 2 at5 x)).rd (chnPage 0) R.CHN_CNT_CYCLE = 5 ∧
     (s 3 at5 x).cycleStart 0 (x.cycle + 1) ≤ (at5 : Int) ∧ (s 3 at5 x).on (chnPage 0) R.CHN_STAT_SPLIT = false ∧ (s 3 at5 x).on (chnPage 0) R.CHN_IMG_EN = false ∧
     (s 3 at5 x).rd 0x071 R.CAM_PORT_RATE = 0 ∧ (sent.port 0).cycle = 5 ∧ (sent.port 0).fed = false ∧ sent.out.length = 2 ∧ (sent.port 0).sent = 1 ∧
     (let f := frameOf (s 3 0 x) 0 5
      let y : ChainPort := { cycle := 5, fed := false, sent := 1, bulk := [] }
      hcrcGood f = true ∧ fcrcGood f = true ∧ frameType f = 0 ∧ frameCycle f = wrap 5 32 ∧ (s 3 at5 y).chnNodes 0 ≤ frameLoop f + 1 ∧ (s 3 at5 y).chnRed 0 = false ∧ y.sent ≤ y.got.length + 1 + y.bad ∧
      (s 3 at5 y).injArmed (chnPage 0) 0 = false ∧ (s 3 at5 y).injArmed (chnPage 0) 1 = false ∧ (s 3 at5 y).injArmed (chnPage 0) 2 = false ∧
      ((after (.cyclicFrameReturn 0 f 0) (s 3 at5 y)).port 0).fed = true ∧
      (let d := ((s 3 0 y).cycleStart 0 5 + (s 3 0 y).deadlineNs 0).toNat
       (s 3 0 y).cycleStart 0 5 + (s 3 0 y).deadlineNs 0 ≤ (d : Int) ∧ ((after (.feedbackDeadline 0) (s 3 d y)).port 0).fed = true ∧ (after (.feedbackDeadline 0) (s 3 d y)).rd (chnPage 0) R.CHN_ERR0_FLOST = 1) ∧
      (let g := frameOf (s 3 0 x) 1 5
       frameType g = 1 ∧ hcrcGood g = true ∧ fcrcGood g = true ∧ (s 3 at5 y).streams 0 = [] ∧ y.par = none ∧ (after (.bulkFrameReturn 0 g) (s 3 at5 y)).port 0 = { y with heard := at5, bulk := [false] }))) := by
  decide +kernel

theorem witness_ChainCyclesSendAndFeedBack_break :
    (let s := chain 3 50000 { cycle := 1, fed := false, sent := 1 } [(chnPage 0, R.CHN_RED_EN, 1, 0), (chnPage 0, R.CHN_RED_PARTNER, 1, 0)]
     s.chnLead 0 = none ∧ s.chnRed 0 = true ∧ s.on (chnPage 0) R.CHN_STAT_SPLIT = false ∧
     10 * (s.cycleStart 0 1 + 32 + s.rd (chnPage 0) R.CHN_LATN_LATN + 200) + s.cyclicTime 0 ≤ 10 * (s.tb : Int) ∧
     ((after (.ringBreakTimeout 0) s).port 0).broken = true ∧ (after (.ringBreakTimeout 0) s).rd (chnPage 0) R.CHN_ERR0_BREAK = 1 ∧
     s.mayStart 0 1 = true ∧ (after (.ringBreakTimeout 0) s).out.length = 1 ∧
     ({ s with tb := 156250 } : State).mayStart 0 1 = false ∧ (after (.ringBreakTimeout 0) { s with tb := 156250 }).out = []) := by
  decide +kernel

theorem witness_ChainParametersImagesAndStartUp :
    (let g := chnPage 0
     let q := parPage 0
     let s := fun st => chain st 100 { tag := 255 }
     ((s 3).port 0).par = none ∧ (after (.parameterRequest 0 0) (s 3)).liveField q R.CHN_PAR_CMD_BUSY 0 = some 1 ∧ ((after (.parameterRequest 0 0) (s 3)).port 0).tag = 0 ∧
     (after (.parameterRequest 0 0) (s 2)).rd q R.CHN_PAR_CMD_RESULT = 2 ∧
     (let t := chain 3 1000000 { par := some 0 } [(q, R.CHN_PAR_CMD_TMO, 2, 0)]
      0 + ((max 1 (t.rd q R.CHN_PAR_CMD_TMO) : Nat) : Int) ≤ t.cycleAt 0 t.tb ∧ (after (.parameterTimeout 0) t).rd q R.CHN_PAR_CMD_RESULT = 1) ∧
     (let i := chain 4 ((s 4).cycHalf 0 / 2 - 1) {} [(g, R.CHN_IMG_EN, 1, 0)]
      i.on g R.CHN_IMG_EN = true ∧ i.chnState 0 = 4 ∧ i.injArmed g 3 = false ∧ i.cycleAt 0 i.tb + 1 = 1 ∧ i.cycleStart 0 1 - (max 500 (i.rd g R.CHN_TIME_IMG) : Nat) ≤ (i.tb : Int) ∧
      (i.readImage (i.rd g R.CHN_IMG_CAS) (512 * i.rd g R.CHN_IMG_BASE + 512) 1).1 = [0] ∧
      (i.readImage (i.rd g R.CHN_IMG_CAS) (512 * i.rd g R.CHN_IMG_BASE + 512) 1).2.injArmed g 3 = false ∧ (i.readImage (i.rd g R.CHN_IMG_CAS) (512 * i.rd g R.CHN_IMG_BASE + 512) 1).2.chnNodes 0 = i.chnNodes 0 ∧ ((after (.imageRead 0 3) i).port 0).stale = [0] ∧ ((after (.imageRead 0 3) i).port 0).imgFor = some 1) ∧
     (s 2).on g R.CHN_CMD_BUSY = false ∧ (s 2).chnRed 0 = false ∧ (s 2).chnLead 0 = none ∧ (after (.chnWake 0) (s 2)).out.length = 1 ∧ ((after (.chnWake 0) (s 2)).port 0).cmdAt = 100 ∧ (after (.chnEnumerate 0) (s 2)).rd g R.CHN_CMD_OP = 2 ∧
     (after (.chnMeasure 0) (s 2)).on g R.CHN_CMD_BUSY = true ∧ (∀ e ∈ [Instr.chnWake 0, .chnEnumerate 0, .chnMeasure 0], (after e (s 1)).on g R.CHN_CMD_FAIL = true) ∧
     ((after (.chnRejoin 0) (chain 3 100 {} [(g, R.CHN_STAT_SPLIT, 1, 0)])).port 0).rejoin = true ∧
     (let b := fun op tb => chain 2 tb { cmdOp := op } [(g, R.CHN_CMD_BUSY, 1, 0), (g, R.CHN_CMD_OP, op, 0)]
      (b 1 100).on g R.CHN_CMD_BUSY = true ∧ (b 1 100).rd g R.CHN_CMD_OP = 1 ∧ (b 1 100).closingRx 0 = 0 ∧
      ((((b 1 100).port 0).lock.see [(true, 200000)]).heldFor 1000000) = true ∧ (after (.chnCmdDone 0 [(true, 200000)] []) (b 1 100)).on g R.CHN_CMD_DONE = true ∧
      (after (.chnCmdDone 0 [(true, 200000)] []) (b 1 100)).on g R.CHN_CMD_FAIL = false ∧
      (after (.chnCmdDone 0 [(true, 100000)] []) (b 1 100)).on g R.CHN_CMD_BUSY = true ∧ (after (.chnCmdDone 0 [(true, 100000)] []) (b 1 100000001)).on g R.CHN_CMD_FAIL = true ∧
      (after (.chnCmdDone 0 [] []) (b 2 1000001)).on g R.CHN_CMD_FAIL = true ∧ (after (.chnCmdDone 0 [] []) (b 3 1000000)).on g R.CHN_CMD_BUSY = true)) := by
  decide +kernel

theorem witness_ChainPortsTakeTheirRequests_forms :
    (let s := chain 1 100
     let closing := (s.wr (chnPage 1) R.CHN_RED_PARTNER 0).wr (chnPage 0) R.CHN_RED_PARTNER 1 |>.wr (chnPage 0) R.CHN_RED_EN 1
     gives (.portRequest 0 5) s s ∧ closing.chnLead 1 = some 0 ∧ gives (.portRequest 1 2) closing closing ∧
     gives (.portStateChange 0) s s ∧ gives (.portStateChange 2) s s ∧ (closing.chainCommit 1 90 1 2).isNone = true ∧ ((chain 3 100).chainCommit 0 90 1 2).isNone = true) ∧
    (let s := fun st x tb b => chain st tb x [(0x020, R.HLT_BRAKE_ACTIVE, b2n b, 0), (0x020, R.HLT_BRK_T_LO_STAMP, 50, 0)]
     let at1 := (((s 4 {} 0 true).cycleStart 0 1)).toNat
     (s 4 {} at1 true).brakeTime = 50 ∧ (after (.portStateChange 0) (s 4 {} at1 true)).chnState 0 = 3 ∧ gives (.portStateChange 0) (s 4 {} (at1 - 1) true) (s 4 {} (at1 - 1) true) ∧
     (after (.portStateChange 0) (s 3 { req := some (4, 60) } at1 true)).chnState 0 = 3 ∧ ((after (.portStateChange 0) (s 3 { req := some (4, 60) } at1 true)).port 0).req = none ∧
     (after (.portStateChange 0) (s 3 { req := some (4, 60) } at1 false)).chnState 0 = 4 ∧ (after (.portStateChange 0) (s 4 { req := some (1, 60) } at1 true)).chnState 0 = 1) := by
  decide +kernel

theorem witness_ChainCyclesSendAndFeedBack_forms :
    (let y : ChainPort := { cycle := 5, fed := false, sent := 1, bulk := [] }
     let z := chain 3 0 y
     let s := fun (x : ChainPort) b => { z with tb := (z.cycleStart 0 5).toNat, ports := [(0, x)], regs := (z.wr (chnPage 0) R.PG_INJ_INJ b).regs }
     let f := frameOf z 0 5
     let badF := f.dropLast ++ [(f.getLast?.getD 0) ^^^ 1]
     let badH := f.set 1 ((f.getD 1 0) ^^^ 1)
     let c := fun x b g => after (.cyclicFrameReturn 0 g 9) (s x b)
     let e := fun t r => (t : State).rd (chnPage 0) r
     hcrcGood badF = true ∧ fcrcGood badF = false ∧ hcrcGood badH = false ∧
     e (c y 0 badH) R.CHN_ERR1_BADHDR = 1 ∧ e (c y 0 badF) R.CHN_ERR0_FCRC = 1 ∧ ((c y 0 badF).port 0).bad = 1 ∧ ((c y 0 badF).port 0).fed = false ∧
     e (c { y with fed := true } 0 f) R.CHN_ERR0_LATEFRM = 1 ∧ e (c y 0 (frameOf z 0 4)) R.CHN_ERR0_LATEFRM = 1 ∧ e (c y 0 f) R.CHN_LATN_LATN = 9 ∧
     ((c y 2 f).port 0).fed = false ∧ e (c y 2 f) R.CHN_ERR0_FLOST = 0 ∧ e (c y 1 f) R.CHN_ERR0_FCRC = 1 ∧
     (let d := { s y 0 with tb := (z.cycleStart 0 5 + z.deadlineNs 0).toNat + 1 }
      e (after (.cyclicFrameReturn 0 f 0) d) R.CHN_ERR0_LATEFRM = 1) ∧
     (let u := { s y 0 with regs := (z.wr (chnPage 0) R.CHN_STAT_STATE 2).regs }
      gives (.cyclicFrameReturn 0 f 9) u (u.hear 0)) ∧
     gives (.cyclicFrameReturn 3 f 9) (s y 0) (s y 0) ∧ gives (.feedbackDeadline 0) (s y 0) (s y 0) ∧ gives (.ringBreakTimeout 0) (s y 0) (s y 0)) ∧
    (let y : ChainPort := { cycle := 5, fed := true, sent := 1, bulk := [] }
     let z := chain 3 0 y
     let s := { z with tb := (z.cycleStart 0 5).toNat }
     let f := frameOf z 1 5
     let badF := f.dropLast ++ [(f.getLast?.getD 0) ^^^ 1]
     let badH := f.set 1 ((f.getD 1 0) ^^^ 1)
     let r := fun s g => after (.bulkFrameReturn 0 g) s
     (r s badH).rd (chnPage 0) R.CHN_ERR1_BADHDR = 1 ∧ (r s badF).rd (chnPage 0) R.CHN_ERR0_FCRC = 1 ∧ gives (.bulkFrameReturn 0 (frameOf z 0 5)) s (s.hear 0) ∧
     (r s (frameOf z 1 4)).rd (chnPage 0) R.CHN_ERR0_LATEFRM = 1 ∧ ((r s f).port 0).bulk = [false] ∧
     gives (.chainCycleStart 0) { s with tb := (z.cycleStart 0 6).toNat - 1 } { s with tb := (z.cycleStart 0 6).toNat - 1 } ∧ gives (.chainCycleStart 3) s s) := by
  decide +kernel

theorem witness_ChainParametersImagesAndStartUp_forms :
    (let g := chnPage 0
     let q := parPage 0
     let s := fun st more => chain st 100 {} more
     let busy := s 2 [(g, R.CHN_CMD_BUSY, 1, 0)]
     let red := s 2 [(g, R.CHN_RED_EN, 1, 0), (g, R.CHN_RED_PARTNER, 1, 0)]
     (after (.chnEnumerate 0) busy).rd g R.CHN_CMD_OP = 2 ∧ (after (.chnEnumerate 0) busy).out = [] ∧ (after (.chnWake 0) red).out.length = 2 ∧ (after (.chnMeasure 0) red).out.length = 2 ∧
     (after (.chnEnumerate 0) red).out.length = 1 ∧ ((after (.chnRejoin 0) (s 3 [])).port 0).rejoin = false ∧
     gives (.parameterTimeout 0) (s 3 []) (s 3 []) ∧ gives (.imageRead 0 3) (s 3 []) (s 3 []) ∧
     (let o := { s 3 [] with ports := [(0, { par := some 7 })] }
      (after (.parameterRequest 0 0) o).port 0 = { par := some 7 })) ∧
    (let g := chnPage 0
     let b := fun op tb => chain 2 tb { cmdOp := op, cmdAt := 100 } [(g, R.CHN_CMD_BUSY, 1, 0)]
     let z := chain 2 0
     let loop := fun ty => (frameOf z ty 1, 40)
     let d := fun op tb ls => after (.chnCmdDone 0 [] ls) (b op tb)
     (d 1 100000100 []).on g R.CHN_CMD_BUSY = true ∧ (d 1 100000101 []).on g R.CHN_CMD_FAIL = true ∧ (d 1 100000101 []).on g R.CHN_CMD_BUSY = false ∧
     (d 2 1000100 []).on g R.CHN_CMD_BUSY = true ∧ (d 2 1000100 [loop 2]).on g R.CHN_CMD_BUSY = false ∧ (d 2 1000100 [loop 2]).on g R.CHN_CMD_FAIL = false ∧
     (d 2 1000100 [loop 2]).chnNodes 0 = frameProc (loop 2).1 ∧ (d 3 1000100 [loop 2]).on g R.CHN_CMD_BUSY = true ∧ (d 3 1000100 [loop 3]).on g R.CHN_CMD_BUSY = false ∧
     (d 4 5 []).on g R.CHN_CMD_DONE = true ∧ (d 4 5 []).on g R.CHN_CMD_FAIL = false ∧ (after (.chnCmdDone 0 [] []) (z.wr g R.CHN_CMD_BUSY 0)).on g R.CHN_CMD_DONE = false) := by
  decide +kernel

/-- A device whose tandem ports of a mask are up, locked or not, with the ports' states. -/
def tandem (up lock role : Nat) (l : List (Nat × LinkPort)) (more : List (Nat × Fld × Nat × Nat) := []) : State :=
  { withRegs (device [48, 49, 50]) ([(0x124, R.TAN_CFG_EN, 1, 0), (0x124, R.TAN_CFG_PORTS, 3, 0), (0x124, R.TAN_CFG_ROLE, role, 0), (0x124, R.TAN_STAT_UP, up, 0),
      (0x124, R.TAN_STAT_LOCK, lock, 0)] ++ more) with tb := 2000000, links := l }

theorem witness_MailboxesAndTandemLinksCarryMessages_mailboxes :
    (let s := fun en => withRegs (device [47, 48]) [(chanPage 5, R.FAB_CH_LO_EN, 1, 0), (chanPage 5, R.FAB_CH_LO_ORD, 1, 0), (chanPage 5, R.FAB_CH_LO_CRED, 2, 0),
       (setPage 0 0, R.FAB_SET_MBR_VALID, 1, 0), (setPage 0 0, R.FAB_SET_MBR_SENDER, 0x119, 0), (0x120, R.MBX_CH_CHAN, 5, 3), (0x120, R.MBX_CH_EN, en, 3),
       (0x120, R.MBX_W01_W0, 11, 3), (0x120, R.MBX_W01_W1, 12, 3)]
     (s 1).domOn 2 = true ∧ (s 1).injArmed 0x120 0 = false ∧ (s 1).on 0x120 R.MBX_CH_EN 3 = true ∧ (s 1).rpl.going = false ∧ (s 1).recording = false ∧ (s 1).chEn 5 = true ∧
     (s 1).freeCredits 5 0x119 ≠ 0 ∧ (s 1).sendFails 5 0x119 (s 1).now = none ∧ (s 1).chOrd 5 = true ∧
     ((after (.mailboxSend 3 2) (s 1)).chan 5).flight = [.msg ⟨5, 0x119, 0, 4, [11, 12]⟩] ∧
     (s 0).on 0x120 R.MBX_CH_EN 3 = false ∧ (after (.mailboxSend 3 0x5000004) (s 0)).rd 0x120 R.MBX_SEND_REFUSED 3 = 6) := by
  decide +kernel

/-- The header and the data blocks of a group of flits, the flit types given, with the rest idle. -/
def groupData (d : List Nat) : List Nat := (d ++ List.replicate 7 0).take 7
def groupBits (types : List Nat) (seq ack : Nat) (nak : Bool) (d : List Nat) : BitVec 64 := BitVec.ofNat 64 (groupHeader types seq ack nak (groupData d))
/-- The arrival of a group, from its header. -/
def arrives (h : BitVec 64) (d : List Nat) : Instr :=
  .groupReceive 1 (h.extractLsb' 0 22) (h.extractLsb' 22 8) (h.extractLsb' 30 8) (h.extractLsb' 38 26) ((groupData d).map fun x => BitVec.ofNat 64 x)
def receives (types : List Nat) (seq ack : Nat) (nak : Bool) (d : List Nat) : Instr :=
  arrives (groupBits types seq ack nak d) d
/-- The blocks of one message of sender 2, stamped 100, on channel 7. -/
def oneMsg : List Nat := ((Flit.msg ⟨7, 2, 100, 4, [9]⟩).blocks 0 7).map (·.2)

theorem witness_MailboxesAndTandemLinksCarryMessages_groups :
    (let s := tandem 3 1 0 [(1, { expect := 255 })]
     let h := (groupBits [1, 0] 255 9 false oneMsg).toNat
     bit (s.rd 0x124 R.TAN_STAT_UP) 1 = true ∧ s.domOn 3 = true ∧ s.injArmed 0x126 0 = false ∧ s.on 0x124 R.TAN_STAT_LOCK = true ∧ s.rpl.going = false ∧ s.recording = false ∧
     s.on (chanPage 7) R.FAB_CH_LO_TAN = false ∧ bits h 0 8 = 0x5A ∧ groupGood h (groupData oneMsg) = true ∧ groupIdle h = false ∧ groupTypes h = [1, 0, 0, 0, 0, 0, 0] ∧
     bits h 22 8 = (s.link 1).expect ∧ (s.link 1).unacked = [] ∧ (s.link 1).queued = [] ∧ (s.link 1).half = none ∧ bits (oneMsg.getD 0 0) 54 10 = 2 ∧
     groupGood (h ^^^ 2 ^ 50) (groupData oneMsg) = false ∧
     (let bad := arrives (BitVec.ofNat 64 (h ^^^ 2 ^ 50)) oneMsg
      (after bad s).rd 0x126 R.TANP_STAT_CRCERR = 1 ∧ ((after bad s).link 1).nak = true) ∧
     (let t := after (receives [1, 0] 255 9 false oneMsg) s
      (t.chan 7).flight = [.msg ⟨7, 0x202, 100, 4, [9]⟩] ∧ (t.link 1).expect = 0 ∧ (t.link 1).lastGood = 255) ∧
     (after (receives [1, 0] 254 9 false oneMsg) s).chans = [] ∧ ((after (receives [1, 0] 254 9 false oneMsg) s).link 1).nak = true) := by
  decide +kernel

theorem witness_MailboxesAndTandemLinksCarryMessages_idle :
    (let fl : List (Nat × Flit) := [(7, .token 0x110 5)]
     let s := tandem 3 1 0 [(1, { unacked := [(9, fl)] })]
     groupIdle (groupBits [] 3 9 false []).toNat = true ∧ groupGood (groupBits [] 3 9 false []).toNat (groupData []) = true ∧
     ((after (receives [] 3 9 false []) s).link 1).unacked = [] ∧ ((after (receives [] 3 8 true []) s).link 1).unacked = [(9, fl)] ∧
     (after (receives [] 3 8 true []) s).out.length = 1 ∧ (after (receives [] 3 8 true []) s).rd 0x126 R.TANP_STAT_RETRY = 1) := by
  decide +kernel

theorem witness_MailboxesAndTandemLinksCarryMessages_time :
    (let s := tandem 3 0 0 [(1, { index := 7, sent := [(2, 1999000)] })]
     let b := timeWord 0xA5 5 100 3 2
     b.toNat = 0xA5 + 5 * 2 ^ 8 + 100 * 2 ^ 50 + 3 * 2 ^ 58 + 2 * 2 ^ 61 ∧ (after (.timeBlockSend 1) s).out.length = 1 ∧ ((after (.timeBlockSend 1) s).link 1).index = 0 ∧
     look ((after (.timeBlockSend 1) s).link 1).sent 7 = some 2000000 ∧
     s.on 0x124 R.TAN_CFG_EN = true ∧ s.on 0x124 R.TAN_CFG_ROLE = false ∧ s.tanFixed = false ∧ look (s.link 1).sent (bits b.toNat 61 3) = some 1999000 ∧
     1999000 + 4 * bits b.toNat 50 8 ≤ s.tb ∧ s.tb ≤ 1999000 + 4 * bits b.toNat 50 8 + 100000 ∧
     (after (.timeBlockReceive 1 5 100 3 2 none) s).rd 0x126 R.TANP_LAT_LAT = 300 ∧ ((after (.timeBlockReceive 1 5 100 3 2 none) s).link 1).peer = some (3, 2000000)) ∧
    (let s := { tandem 3 0 0 [] with tanGood := some 1000000 }
     s.on 0x124 R.TAN_STAT_ROLE_ERR = false ∧ s.rd 0x124 R.TAN_STAT_UP ≠ 0 ∧ (after .lockAcquire s).on 0x124 R.TAN_STAT_LOCK = true) ∧
    (let s := fun h => tandem 3 1 0 [(0, { heard := h })]
     (∀ i, i < 2 → ((s 1990000).link i).heard + 10000 ≤ (s 1990000).tb) ∧ (after .timeBlockTimeout (s 1990000)).on 0x124 R.TAN_STAT_LOCK = false ∧
     (after .timeBlockTimeout (s 1990000)).on 0x124 R.TAN_STAT_LOCK_LOST = true ∧ (after .timeBlockTimeout (s 1990001)).on 0x124 R.TAN_STAT_LOCK = true) := by
  decide +kernel

theorem witness_MailboxesAndTandemLinksCarryMessages_ports :
    (let f : Flit := .token 0x110 9
     let s := tandem 3 1 0 [(0, { unacked := [(4, [(5, f)])] }), (1, { seq := 2, unacked := [(1, [(6, f)])] })]
     (s.link 1).queued = [] ∧ ((after (.tandemPortDown 0 none) s).link 1).unacked.flatMap (·.2) = [(6, f), (5, f)] ∧ (after (.tandemPortDown 0 none) s).rd 0x124 R.TAN_STAT_UP = 2) ∧
    (let s := tandem 1 0 0 []
     s.blockOn 0x126 = true ∧ bit (s.rd 0x124 R.TAN_CFG_PORTS) 1 = true ∧ bit (s.rd 0x124 R.TAN_STAT_UP) 1 = false ∧ (s.link 1).downUntil ≤ s.tb ∧
     (after (.tandemPortUp 1 40 true) s).rd 0x124 R.TAN_STAT_UP = 3 ∧ (after (.tandemPortUp 1 40 true) s).rd 0x126 R.TANP_LAT_LAT = 40) ∧
    (let s := { tandem 1 0 0 [] with spanTo := 1 }
     (after (.spanMaskWrite 0x8001 true) s).spanTo = 0x8001 ∧ (after (.spanMaskWrite 0x8001 true) s).out.length = 1 ∧
     s.domOn 48 = true ∧ s.recording = false ∧ (after (.spanMaskWrite 0x8001 false) s).rd 0x124 R.TAN_SPAN_MASK = 0x8001) ∧
    (let s := tandem 1 1 1 [] [(0x124, R.TAN_SPAN_MASK, 0x8000, 0), (0x072, R.CAD_CTRL_EN, 1, 15)]
     let s := { s with cads := [(15, { segs := [⟨1, 0, 2 ^ 21, 0, 0, 1, 1, none⟩], enabledAt := 1 })] }
     s.domOn 3 = true ∧ s.spanned 15 = true ∧ s.on 0x124 R.TAN_STAT_LOCK = true ∧ s.on 0x124 R.TAN_STAT_SPAN_LOST = false ∧ s.cmt 15 < s.absStamp (s.translate 3000000) ∧
     ((after (.spanRecord (.state 15 3000000 7 (2 ^ 21) 0 3000000 1 0)) s).cad 15).segs = [⟨3000000, 7, 2 ^ 21, 0, 0, 3000000, 1, none⟩] ∧
     ((after (.spanRecord (.trim 15 3000000 4)) s).cad 15).segs ≠ (s.cad 15).segs ∧ ((after (.spanRecord (.rate 15 3000000 4)) s).cad 15).segs ≠ (s.cad 15).segs) := by
  decide +kernel

/-- A descriptor: the words of a mode, two sides in BAR2 and a length. -/
def copyOf (w0 src dst len : Nat) : List Nat :=
  [w0, src % 2 ^ 14, src / 2 ^ 14, 0, dst % 2 ^ 14, dst / 2 ^ 14, 0, len, 0, 0, 0, 0, 0x2A, 0, 0, 0]
/-- Mover channel 17 in a state, with its live state. -/
def mover (en st : Nat) (x : Mover) (more : List (Nat × Fld × Nat × Nat) := []) : State :=
  { withRegs (device [8, 64, 65]) ([(0x052, R.MV_CFG_EN, en, 1), (0x052, R.MV_STAT_STATE, st, 1)] ++ more) with movers := [(17, x)] }

theorem witness_MoversFetchMoveStopAndFinish :
    (let c : Fin 64 := 17
     (mover 0 0 {}).domOn 3 = true ∧ (after (.mvEnable c 0x102) (mover 0 0 {})).mrd 17 R.MV_CFG_EN = 1 ∧ (after (.mvEnable c 0x102) (mover 0 0 {})).mrd 17 R.MV_CFG_DSRC = 2 ∧
     (after (.mvEnable c 0) (mover 1 0 {})).mrd 17 R.MV_CFG_EN = 0 ∧ (mover 1 3 {}).mrd 17 R.MV_CFG_DSRC = 0 ∧ (after (.mvGo c) (mover 1 3 {})).mover 17 = { go := true } ∧
     (after (.mvGo c) (mover 0 3 {})).mrd 17 R.MV_STAT_STATE = 3 ∧ (after (.mvStop c) (mover 1 1 {})).mrd 17 R.MV_STAT_STATE = mvStopped ∧
     (after (.mvStop c) (mover 1 1 { desc := some [] })).mrd 17 R.MV_STAT_STATE = mvStopping ∧ (after (.mvClr c) (mover 1 4 {})).mrd 17 R.MV_STAT_STATE = mvIdle ∧
     (after (.mvClr c) (mover 1 1 {})).mrd 17 R.MV_STAT_STATE = 1) ∧
    (let s := fun w => mover 1 1 { go := true } [(0x052, R.MV_D3_WB, 8, 1), (0x052, R.MV_D0_WA, w, 1)]
     (s 1).blockOn 0x052 = true ∧ (s 1).mvCheck 17 ((s 1).mvRegWords 17) = 0 ∧ mvLen ((s 1).mvRegWords 17) = 8 ∧
     (after (.descriptorFetch 17) (s 1)).mrd 17 R.MV_REM_REM = 8 ∧ (s 4).mvCheck 17 ((s 4).mvRegWords 17) = 1 ∧ (s 4).injArmed 0x050 0 = false ∧
     (after (.descriptorFetch 17) (s 4)).mrd 17 R.MV_STAT_CAUSE = 1 ∧ (after (.descriptorFetch 17) (s 4)).rd 0x050 R.MV_CAP_CH = 17) ∧
    (let s := mover 1 1 { back := true, desc := some (copyOf 16 0x100 0x7FF0 16), lastAt := 0, lastN := 16 }
     s.allLive 0x7FF0 16 = true ∧ s.bad = [] ∧ s.mrd 17 R.MV_CFG_DSRC = 0 ∧ (after (.readBack 17 false) s).mover 17 = {} ∧ (after (.readBack 17 false) s).mrd 17 R.MV_STAT_DONE = 1 ∧
     (after (.readBack 17 false) s).mrd 17 R.MV_TAG_TAG = 0x2A) ∧
    (let d := copyOf 0 0x100 0x1000008 20
     let s := { mover 1 1 { desc := some d } with mem := [(0x100, 5), (0x106, 6), (0x107, 7), (0x108, 8)] }
     Memory.wf s.mem = true ∧ s.blockOn 0x052 = true ∧ s.frozen 0x052 = false ∧ s.boot = .done ∧ s.mvChoose 1 (fun k => s.canMove k [] [] false) = some 17 ∧ mvMode d = 0 ∧
     (mvSrc d).addr = 0x100 ∧ (mvDst d).addr = 0x1000008 ∧ descends d = false ∧ mvLen d = 20 ∧ s.windowOn (windowOf 0x100) = true ∧ s.windowOn (windowOf 0x1000008) = true ∧
     s.windowOn (windowOf 0x113) = true ∧ s.windowOn (windowOf 0x100001B) = true ∧
     (let t := after (.moverBeat 1 [] [] false) s
      t.word 0x1000008 = 5 ∧ t.word 0x100000E = 0x706 ∧ t.byte 0x1000010 = 0 ∧ (t.mover 17).wrote = 8 ∧ t.mrd 17 R.MV_REM_REM = 12)) := by
  decide +kernel

theorem witness_MailboxesAndTandemLinksCarryMessages_mailboxes_forms :
    (let s := fun en i ch => withRegs (device [47, 48]) [(chanPage 5, R.FAB_CH_LO_EN, ch, 0), (chanPage 5, R.FAB_CH_LO_ORD, 1, 0),
       (0x120, R.MBX_CH_CHAN, 5, 3), (0x120, R.MBX_CH_EN, en, 3), (0x120, R.PG_INJ_INJ, i, 0)]
     let r := fun x l => (after (.mailboxSend 3 (0x5000000 + l)) x).rd 0x120 R.MBX_SEND_REFUSED 3
     r (s 1 0 1) 0 = 5 ∧ r (s 1 0 1) 5 = 5 ∧ r (s 1 1 1) 1 = 6 ∧ r (s 0 0 1) 1 = 6 ∧ r (s 1 0 0) 1 = 6 ∧ (s 1 0 1).sendFails 5 0x119 (s 1 0 1).now ≠ none ∧ r (s 1 0 1) 1 = 5 ∧
     (after (.mailboxSend 3 1) (s 1 0 1)).chans = []) := by
  decide +kernel

theorem witness_MailboxesAndTandemLinksCarryMessages_groups_forms :
    (let s := fun up lock => tandem up lock 0 [(1, { expect := 255 })]
     let m := receives [1, 0] 255 9 false oneMsg
     let h := (groupBits [1, 0] 255 9 false oneMsg).toNat
     gives m (s 1 1) (s 1 1) ∧ gives m { s 3 1 with doms := [(3, { st := .off })] } { s 3 1 with doms := [(3, { st := .off })] } ∧
     gives (arrives (BitVec.ofNat 64 (h ^^^ 1)) oneMsg) (s 3 1) (s 3 1) ∧ (after m (s 3 0)).chans = [] ∧ ((after m (s 3 0)).link 1).nak = true ∧
     (after m ((s 3 1).wr 0x126 R.PG_INJ_INJ 1)).rd 0x126 R.TANP_STAT_CRCERR = 1) := by
  decide +kernel

theorem witness_MailboxesAndTandemLinksCarryMessages_time_forms :
    (let s := fun role i => tandem 3 0 role [(1, { index := 7, sent := [(2, 1999000)] })] [(0x124, R.PG_INJ_INJ, i, 0)]
     let b := fun ofs peer h kind => Instr.timeBlockReceive 1 peer h 3 2 ofs kind
     let fix := fun role i => { s role i with tanFixed := true }
     gives (.timeBlockSend 1) (tandem 1 0 0 []) (tandem 1 0 0 []) ∧ gives (b none 5 100 0xA4) (s 0 0) (s 0 0) ∧ gives (.timeBlockReceive 1 5 100 3 1 none) (s 0 0) ((s 0 0).setLink 1 { (s 0 0).link 1 with peer := some (3, 2000000), heard := 2000000 }) ∧
     (after (b (some 77) 1999777 100 0xA5) (s 1 0)).tanFixed = true ∧ (after (b (some 77) 1999777 100 0xA5) (s 1 0)).rd 0x124 R.TAN_OFS_LO_OFS = 77 ∧ (after (b (some 77) 1999777 100 0xA5) (s 0 0)).rd 0x124 R.TAN_OFS_LO_OFS = 77 ∧ (after (b (some 78) 1999777 100 0xA5) (s 1 0)).rd 0x124 R.TAN_OFS_LO_OFS = 77 ∧
     (after (b none 5 100 0xA5) (s 1 0)).tanFixed = true ∧ (after (b none 5 100 0xA5) (s 1 0)).out.length = 1 ∧
     (after (b none 5 100 0xA5) (fix 0 1)).rd 0x124 R.TAN_TERR_ERR = 60 ∧
     (after (b none 1999702 100 0xA5) (fix 1 0)).rd 0x124 R.TAN_TERR_ERR = 2 ∧ (after (b none 1999702 100 0xA5) (fix 1 0)).tanGood = some 2000000 ∧
     (after (b none 1999702 100 0xA5) (fix 1 0)).rd 0x070 R.TB_ADJ_REM_REM = 2 ∧ (after (b none 1999702 100 0xA5) (fix 0 0)).rd 0x070 R.TB_ADJ_REM_REM = 0 ∧
     (after (b none 1999705 100 0xA5) (fix 1 0)).tanGood = some 2000000 ∧ (after (b none 1999706 100 0xA5) (fix 1 0)).tanGood = none) ∧
    (let s := { tandem 3 0 0 [] with tanGood := some 1000001 }
     gives .lockAcquire s s ∧ gives .timeBlockTimeout (tandem 3 1 0 [(1, { heard := 1990001 })]) (tandem 3 1 0 [(1, { heard := 1990001 })])) := by
  decide +kernel

theorem witness_MailboxesAndTandemLinksCarryMessages_ports_forms :
    (let f : Flit := .token 0x110 9
     let s := fun r => { tandem 1 1 r [(0, { unacked := [(4, [(5, f)])], queued := [(7, f)] })] [(0x124, R.TAN_SPAN_MASK, 6, 0)] with spanTo := 6 }
     let d := fun r => after (.tandemPortDown 0 none) (s r)
     gives (.tandemPortDown 1 none) (s 0) (s 0) ∧ ((d 0).link 0).queued = [(5, f), (7, f)] ∧ (d 0).spanTo = 0 ∧ (d 0).on 0x124 R.TAN_STAT_SPAN_LOST = false ∧ (d 1).on 0x124 R.TAN_STAT_SPAN_LOST = true ∧ (d 1).spanHeld = 6 ∧
     ((after (.tandemPortDown 0 (some 4)) (s 0)).link 0).queued = [(7, f)] ∧ gives (.tandemPortUp 0 40 true) (s 0) (s 0)) ∧
    (let f : Flit := .token 0x110 9
     let s := tandem 0 0 0 [(0, { queued := [(7, f)] })]
     let u := after (.tandemPortUp 1 40 true) s
     (u.link 0).queued = [] ∧ (u.link 1).unacked.flatMap (·.2) ++ (u.link 1).queued = [(7, f)] ∧ (after (.tandemPortUp 1 40 false) s).on 0x124 R.TAN_STAT_ROLE_ERR = true ∧ (after (.tandemPortUp 1 40 true) s).on 0x124 R.TAN_STAT_ROLE_ERR = false ∧
     gives (.spanMaskWrite 1 true) s s) ∧
    (let s := tandem 1 1 1 [] [(0x124, R.TAN_SPAN_MASK, 0x8000, 0), (0x072, R.CAD_CTRL_EN, 1, 15)]
     let s := fun h => { s with cads := [(15, { segs := [⟨1, 0, 2 ^ 21, 0, 0, 1, 1, none⟩], enabledAt := 1, cmt := 3000005 })], spanHeld := h }
     gives (.spanRecord (.trim 14 3000000 4)) (s 0) (s 0) ∧ gives (.spanRecord (.trim 15 3000000 4)) (s 0x8000) (s 0x8000) ∧
     (let t := after (.spanRecord (.state 15 3000000 7 (2 ^ 21) 0 3000000 1 0)) (s 0)
      bit (t.rd 0x124 R.TAN_SPAN_DIVERGE) 15 = true ∧ (t.cad 15).segs = [⟨3000006, 7, 2 ^ 21, 0, 0, 3000000, 1, none⟩]) ∧
     (let w := (s 0xC000).wr 0x124 R.TAN_SPAN_MASK 0xC000
      (after (.spanMaskWrite 0x4000 false) w).spanHeld = 0x4000)) := by
  decide +kernel

theorem witness_MoversFetchMoveStopAndFinish_forms :
    (let c : Fin 64 := 17
     let m := fun en st x => mover en st x
     let en := fun d x => after (.mvEnable c d) x
     (en 0x103 (m 0 0 {})).mrd 17 R.MV_CFG_EN = 0 ∧ (en 0x103 (mover 0 0 {} [(0x052, R.MV_STAT_EN_PENDING, 1, 1)])).mrd 17 R.MV_STAT_EN_PENDING = 0 ∧
     (en 0x101 (m 0 2 { stop := true, desc := some [] })).mrd 17 R.MV_STAT_EN_PENDING = 1 ∧ (en 0x101 (m 0 2 { stop := true, desc := some [] })).mrd 17 R.MV_CFG_EN = 0 ∧
     (en 0x102 (m 1 0 {})).mrd 17 R.MV_CFG_DSRC = 0 ∧ (en 0 (m 1 1 { desc := some [] })).mrd 17 R.MV_STAT_STATE = mvStopping ∧ (en 0 (m 1 1 { desc := some [] })).mover 17 = { desc := some [], stop := true } ∧
     (en 0 (m 1 4 {})).mrd 17 R.MV_STAT_STATE = 4 ∧ gives (.mvGo c) (m 1 1 {}) (m 1 1 {}) ∧ gives (.mvStop c) (m 1 4 {}) (m 1 4 {}) ∧ gives (.mvStop c) (m 1 3 {}) (m 1 3 {}) ∧
     (after (.mvGo c) (mover 1 3 {} [(0x052, R.MV_CFG_DSRC, 2, 1)])).mrd 17 R.MV_STAT_STATE = mvIdle ∧ (after (.mvStop c) (mover 0 1 {} [(0x052, R.MV_STAT_EN_PENDING, 1, 1)])).mrd 17 R.MV_CFG_EN = 1 ∧
     gives (.descriptorFetch 17) (m 1 1 {}) (m 1 1 {}) ∧ gives (.readBack 17 true) (m 1 1 {}) (m 1 1 {}) ∧ gives (.moverBeat 1 [] [] false) (m 1 1 {}) (m 1 1 {})) ∧
    (let s := fun a l => { mover 1 1 { go := true } [(0x052, R.MV_CFG_DSRC, 1, 1), (0x052, R.MV_NEXT_ADDR, a, 1)] with mem := [(0x10E, l), (0x118, 0x2A)] }
     (after (.descriptorFetch 17) (s 0x100 0)).mrd 17 R.MV_STAT_DONE = 1 ∧ (after (.descriptorFetch 17) (s 0x100 0)).mrd 17 R.MV_TAG_TAG = 0x2A ∧
     (after (.descriptorFetch 17) (s 0x7000000 0)).mrd 17 R.MV_STAT_CAUSE = 7) ∧
    (let s := fun x dst => mover 1 1 { back := true, desc := some (copyOf 16 0x100 dst 16), lastAt := 0, lastN := 16, stop := x }
     let host := { s false 0x100 with movers := [(17, { back := true, desc := some ((copyOf 16 0x100 0x100 16).set 6 0x800), lastAt := 0, lastN := 16 })] }
     (after (.readBack 17 false) (s true 0x7FF0)).mrd 17 R.MV_STAT_STATE = mvStopped ∧ (after (.readBack 17 false) (s false 0x7000000)).mrd 17 R.MV_STAT_CAUSE = 7 ∧
     (mvDst (((host).mover 17).desc.getD [])).space = 1 ∧ (after (.readBack 17 false true) host).mrd 17 R.MV_STAT_CAUSE = 8 ∧ (after (.readBack 17 false true) host).aer = 0x4000 ∧
     (after (.readBack 17 true) host).mrd 17 R.MV_STAT_CAUSE = 8 ∧ (after (.readBack 17 false) host).mrd 17 R.MV_STAT_DONE = 1) := by
  decide +kernel

/-- A journal with its FIFO and other live state, recording or not, and registers. -/
def journal (en : Nat) (j : Journal) (more : List (Nat × Fld × Nat × Nat) := []) : State :=
  { withRegs (device [4, 8, 40]) ([(0x060, R.JRN_CTRL_EN, en, 0)] ++ more) with tb := 2000, jrn := j }

theorem witness_JournalRecordsWritesAndFreezes :
    (let s := fun k => journal 0 {} [(0x060, R.JRN_SIZE_K, k, 0)]
     (s 16).domOn 4 = true ∧ (s 16).on 0x060 R.JRN_CTRL_EN = false ∧ (s 16).jrn.lost = 0 ∧ ((s 16).applyWrite (R.JRN_CTRL_EN.addr 0x060 0) 0).jrnRefuses = false ∧
     ((s 15).applyWrite (R.JRN_CTRL_EN.addr 0x060 0) 0).jrnRefuses = true ∧ (after (.journalEnable 0) (s 16)).on 0x060 R.JRN_CTRL_EN = true ∧
     (after (.journalEnable 0) (s 15)).on 0x060 R.JRN_STAT_REFUSE = true) ∧
    (let s := journal 1 { since := 5 } [(0x060, R.JRN_CTRL_POST, 3, 0)]
     let t := s.wr 0x060 R.JRN_CTRL_TRIG_EN 1
     let m := fun k => (⟨k, 0x1F7, 2000, 1⟩ : JRec)
     (∀ r ∈ [s, t], r.recording = true ∧ r.injArmed 0x060 0 = false ∧ r.jrn.lost = 0 ∧ r.jrn.post = none ∧ r.jrn.fifo.length + 10 ≤ 4096) ∧
     (after (.journalMark 3) s).jrn.fifo = [m 2] ∧ (after (.journalMark 3) s).jrn.since = 6 ∧
     (after (.journalDisable 3) s).jrn.fifo = [⟨0, 0x1F9, 2000, 5⟩] ∧ (after (.journalDisable 3) s).jrn.since = 6 ∧
     s.on 0x063 R.JRN_TRIG_CFG_EDGE = false ∧ (after (.jrnTrigEdge false) s).jrn = s.jrn ∧ (after (.jrnTrigEdge true) s).jrn.fifo = [m 1] ∧
     (after (.jrnTrigEdge true) t).jrn.post = some 3) ∧
    (let c := 500
     let s := journal 1 { since := 5, digFrom := some c }
     let s := { s with tb := s.digStart (c + 1) }
     s.jrn.digFrom = some c ∧ s.recording = true ∧ s.commitWaits (s.digStart (c + 1)) = false ∧ s.jrn.items = [] ∧ s.jrn.recFrom ≤ c ∧ s.rpl.going = false ∧
     (after .digestIntervalEnd s).jrn.fifo.length = 2 ∧ (after .digestIntervalEnd s).jrn.digFrom = some s.tb) ∧
    (let s := { journal 1 { snapDue := [15], snapE := 1999 } [(0x061, R.JRN_EPOCH_SNAP_BUSY, 1, 0)] with cads := [(15, { segs := [⟨1, 0, 2 ^ 21, 0, 0, 1, 1, none⟩], enabledAt := 1, cmt := 2000 })] }
     let s := s.wr 0x072 R.CAD_CTRL_EN 1 15
     s.recording = true ∧ s.jrn.snapE ≤ s.cmt 15 ∧ s.cadAxes 15 = [] ∧ s.cadTables 15 = [] ∧ s.shadow = [] ∧ (s.cad 15).ptrs = [] ∧
     (after (.snapshot 15) s).jrn.fifo.length = 10 ∧ (after (.snapshot 15) s).jrn.snapDue = [] ∧
     (let l := { s with jrn := { s.jrn with snapE := s.cmt 15 + 1 } }
      l.cmt 15 < l.jrn.snapE ∧ l.tb < l.jrn.snapE + 1000000 ∧ (after (.snapshot 15) l).jrn = l.jrn)) ∧
    (let k : JRec := ⟨5, 0x110, 77, 0x123456789⟩
     let s := fun d => journal 1 { fifo := [k] } [(0x060, R.JRN_CTRL_DEST, d, 0), (0x060, R.JRN_SIZE_K, if d = 1 then 4 else 16, 0), (0x060, R.JRN_WP_WP, 2 ^ 32 - 1, 0), (0x060, R.JRN_CTRL_WRAP, 1, 0), (0x060, R.JRN_SIZE_SBASE, 7, 0)]
     (∀ d ∈ [0, 1], (s d).blockOn 0x060 = true ∧ (s d).jrn.fifo = [k] ∧ (s d).ringFull = false ∧ (s d).mem = [] ∧ (s d).perst = false ∧ (after .journalRecordWrite (s d)).jrn.fifo = [] ∧
       (after .journalRecordWrite (s d)).rd 0x060 R.JRN_WP_WP = 0) ∧
     (after .journalRecordWrite (s 0)).out.length = 1 ∧
     (after .journalRecordWrite (s 1)).word (sharedBase 0 + 2 * (7 + 10 * 15)) = BitVec.ofNat 14 (5 + 77 * 2 ^ 12)) := by
  decide +kernel

theorem witness_ReplayReadsInjectsAndCompares :
    (let s := fun k st => journal 0 {} [(0x060, R.JRN_SIZE_K, k, 0), (chnPage 7, R.CHN_STAT_STATE, st, 0)]
     (s 16 1).domOn 4 = true ∧ (s 16 1).on 0x062 R.JRN_RPL_EN = false ∧ (∀ p, p < 8 → (s 16 1).chnState p ≤ chSilent) ∧
     (after (.replayEnable 0) (s 16 1)).on 0x062 R.JRN_RPL_EN = true ∧ (after (.replayEnable 0) (s 15 1)).on 0x062 R.JRN_RPL_EN = false ∧
     chSilent < (s 16 2).chnState 7 ∧ (after (.replayEnable 0) (s 16 2)).on 0x062 R.JRN_RPL_EN = false) ∧
    (let s := journal 0 {} [(0x062, R.JRN_RPL_EN, 1, 0)]
     (after (.replayGo 1) s).rpl.going = true ∧ (after (.replayGo 1) s).rd 0x062 R.JRN_RPL_STAT_STATE = 1) ∧
    (let s := fun e => { journal 0 {} [(0x062, R.JRN_RPL_EN, 1, 0), (0x062, R.JRN_RPL_STAT_STATE, 1, 0), (0x062, R.JRN_RPL_END_END, e, 0), (0x060, R.JRN_SIZE_K, 16, 0),
        (chanPage 5, R.FAB_CH_LO_EN, 1, 0), (chanPage 5, R.FAB_CH_LO_ORD, 1, 0), (chanPage 5, R.FAB_CH_LO_CRED, 2, 0), (setPage 0 0, R.FAB_SET_MBR_VALID, 1, 0),
        (setPage 0 0, R.FAB_SET_MBR_SENDER, 0x119, 0)] with rpl := { going := true } }
     let w := fun (c x t : Nat) => BitVec.ofNat 64 (c + t * 2 ^ 12 + x * 2 ^ 54)
     (s 0).rplRuns = true ∧ (s 0).perst = false ∧ (s 1).rplRuns = true ∧ (after (.replayRecord 0 0) (s 0)).rd 0x062 R.JRN_RPL_STAT_STATE = 4 ∧ (after (.replayRecord 0 0) (s 0)).rd 0x062 R.JRN_DIV_CAUSE = 3 ∧
     (after (.replayRecord (w 0 0x1F0 77) 1) (s 1)).rpl.e = some 77 ∧ (after (.replayRecord (w 0 0x1F0 77) 1) (s 1)).rd 0x062 R.JRN_RPL_RD_RD = 1 ∧
     (after (.replayRecord (w 1 0x1F1 3) 9) (s 1)).rpl.snaps = [⟨1, 0x1F1, 3, 9⟩] ∧
     (s 1).sendFails 5 0x119 ((s 1).rplLocal 77) = none ∧ (s 1).freeCredits 5 0x119 ≠ 0 ∧ (s 1).chOrd 5 = true ∧ (s 1).recording = false ∧
     ((after (.replayRecord (w 5 0x119 77) (BitVec.ofNat 64 (9 + 2 ^ 56 + 4 * 2 ^ 59))) (s 1)).chan 5).flight = [.msg ⟨5, 0x119, 77, 4, [9]⟩]) ∧
    (let s := fun o => { journal 0 {} [(0x062, R.JRN_RPL_EN, 1, 0), (0x062, R.JRN_RPL_STAT_STATE, 2, 0), (0x062, R.JRN_RPL_STOP_ON_DIV, 1, 0)] with
        rpl := { going := true, recDig := [⟨0, 0x1F2, 77, 2 ^ 63 + 1⟩], ownDig := [⟨0, 0x1F2, 77, o⟩] } }
     (s 0).injArmed 0x062 0 = false ∧ (after .replayDigestCompare (s (2 ^ 63 + 1))).rpl.ownDig = [] ∧ (after .replayDigestCompare (s (2 ^ 63 + 1))).on 0x062 R.JRN_DIV_VALID = false ∧
     (after .replayDigestCompare (s 1)).rd 0x062 R.JRN_DIV_CAUSE = 1 ∧ (after .replayDigestCompare (s 1)).rd 0x062 R.JRN_RPL_STAT_STATE = 3 ∧
     (after .replayDigestCompare (s 1)).rd 0x062 R.JRN_DIV_HR_HI_HASH = 2 ^ 31) := by
  decide +kernel

theorem witness_JournalRecordsWritesAndFreezes_forms :
    (let k : JRec := ⟨5, 0x110, 77, 1⟩
     let s := fun en j i => journal en j [(0x060, R.PG_INJ_INJ, i, 0)]
     (s 0 {} 0).jrnPut k = s 0 {} 0 ∧ (s 1 { post := some 0 } 0).jrnPut k = s 1 { post := some 0 } 0 ∧ (s 1 { lost := 0 } 0).jrnGap = s 1 { lost := 0 } 0 ∧
     ((s 1 {} 1).jrnPut k).jrn.lost = 1 ∧ ((s 1 {} 1).jrnPut k).rd 0x063 R.JRN_LOST_LOST = 1 ∧ ((s 1 {} 1).jrnPut k).jrn.fifo = [] ∧
     ((s 1 {} 1).jrnPut { k with sender := 0x1F1 }).on 0x061 R.JRN_EPOCH_BAD = true ∧ ((s 1 { post := some 1 } 0).jrnPut k).on 0x060 R.JRN_STAT_FROZEN = true ∧
     ((s 1 { post := some 2 } 0).jrnPut k).on 0x060 R.JRN_STAT_FROZEN = false ∧ ((s 1 { lost := 3 } 0).jrnPut k).jrn.fifo = [⟨0, 0x1F8, 2000, 3⟩, k] ∧
     ((s 1 { lost := 3 } 0).jrnPut k).on 0x060 R.JRN_STAT_GAP = true ∧ ((s 1 { post := some 0 } 0).jrnPut { k with sender := 0x1F1 }).jrn.fifo.length = 1) ∧
    (let s := fun en more => journal en { lost := 4 } ([(0x060, R.JRN_SIZE_K, 16, 0)] ++ more)
     let e := fun x d => after (.journalEnable d) x
     (e (s 0 []) 1).jrn.fifo = [⟨0, 0x1F8, 2000, 4⟩] ∧ (e (s 0 []) 1).jrn.since = 1 ∧ (e (s 1 [(0x060, R.JRN_CTRL_CAS, 2, 0)]) 0x501).rd 0x060 R.JRN_CTRL_CAS = 2 ∧
     (e (journal 0 {} [(0x060, R.JRN_SIZE_K, 16, 0)]) 3).jrn.fifo = [⟨2, 0x1F7, 2000, 1⟩] ∧ (after (.journalDisable 0x500) (s 0 [])).rd 0x060 R.JRN_CTRL_CAS = 5 ∧
     (after (.journalDisable 0) (s 1 [])).on 0x060 R.JRN_CTRL_EN = false ∧ (after (.journalMark 2) (s 1 [])).on 0x060 R.JRN_CTRL_EN = false) ∧
    (let s := fun x => { journal 1 {} [(0x063, R.JRN_TRIG_CFG_FILT, 3, 0)] with inputs := x }
     (s []).inputFilter 4 ≠ 0 ∧ gives (.jrnTrigEdge true) (s []) (s [(4, (true, 2000))]) ∧ gives (.jrnTrigEdge true) (s [(4, (true, 1990))]) (s [(4, (true, 1990))]) ∧
     gives (.jrnTrigEdge false) (s [(4, (true, 1990))]) (s []) ∧
     (let z := journal 1 {} [(0x060, R.JRN_CTRL_TRIG_EN, 1, 0), (0x060, R.JRN_CTRL_POST, 0, 0)]
      (after (.jrnTrigEdge true) z).on 0x060 R.JRN_STAT_FROZEN = true)) ∧
    (gives .digestIntervalEnd (journal 1 {}) (journal 1 {}) ∧ gives (.snapshot 3) (journal 1 {}) (journal 1 {}) ∧ gives .journalRecordWrite (journal 1 {}) (journal 1 {})) ∧
    (let c := 500
     let s := journal 1 { digFrom := some c }
     let at_ := fun t => { s with tb := t }
     gives .digestIntervalEnd (at_ (s.digStart (c + 1) - 1)) (at_ (s.digStart (c + 1) - 1))) ∧
    (let s := journal 1 { snapDue := [15, 9], snapE := 1000 } [(0x061, R.JRN_EPOCH_SNAP_BUSY, 1, 0)]
     let l := { s with tb := 1001000 }
     gives (.snapshot 15) s s ∧ (after (.snapshot 15) l).jrn.snapDue = [9] ∧ ((after (.snapshot 15) l).jrn.fifo.getLast?.map (·.sender)) = some 0x1F6) := by
  decide +kernel

theorem witness_ReplayReadsInjectsAndCompares_forms :
    (let s := fun en g => { journal 0 {} [(0x062, R.JRN_RPL_EN, en, 0), (0x060, R.JRN_SIZE_K, 16, 0)] with rpl := { going := g } }
     (after (.replayEnable 3) (s 0 false)).rpl.going = true ∧ (after (.replayEnable 5) (s 1 true)).on 0x062 R.JRN_RPL_STOP_ON_DIV = true ∧ (after (.replayGo 0) (s 1 true)).rpl = {} ∧
     (after (.replayGo 0) (s 1 true)).on 0x062 R.JRN_RPL_EN = false ∧ gives (.replayGo 4) (s 0 false) (s 0 false) ∧ (s 1 true).rplGo = s 1 true ∧ (s 0 false).rplGo = s 0 false) ∧
    (let s := fun e rd => { journal 0 {} [(0x062, R.JRN_RPL_EN, 1, 0), (0x062, R.JRN_RPL_STAT_STATE, 1, 0), (0x062, R.JRN_RPL_END_END, 9, 0), (0x062, R.JRN_RPL_RD_RD, rd, 0), (0x060, R.JRN_SIZE_K, 16, 0)] with
        rpl := { going := true, e := e } }
     let w := fun (c x t : Nat) => BitVec.ofNat 64 (c + t * 2 ^ 12 + x * 2 ^ 54)
     let r := fun e c x t => after (.replayRecord (w c x t) 0) (s e 0)
     gives (.replayRecord 0 0) { s none 0 with perst := true } { s none 0 with perst := true } ∧ gives (.replayRecord 0 0) (journal 0 {}) (journal 0 {}) ∧ (after (.replayRecord 0 0) (s none 9)).rd 0x062 R.JRN_RPL_STAT_STATE = 4 ∧
     (r (some 100) 6 0x1F1 0).rd 0x062 R.JRN_DIV_CAUSE = 5 ∧ (r (some 100) 0 0x1F2 99).rpl.recDig = [] ∧ (r (some 100) 0 0x1F2 100).rpl.recDig.map (·.stamp) = [100] ∧ (r none 0 0x1F2 100).rpl.recDig = [] ∧
     (r none 3 0x1F6 55).on 0x062 R.JRN_RPL_STAT_BREAK_SEEN = true ∧ (r none 3 0x1F6 55).rd 0x062 R.JRN_DIV_C_LO_C = 55 ∧ (r none 0 0x1F8 55).rd 0x062 R.JRN_DIV_CAUSE = 4 ∧
     (r none 0 0x11A 55).rpl.recNote.length = 1 ∧ (r none 0 0x1F7 55).rd 0x062 R.JRN_RPL_RD_RD = 1 ∧ (r none 0 0x1F7 55).rpl = (s none 0).rpl ∧ (r none 5 0x119 55).rd 0x062 R.JRN_RPL_RD_RD = 1 ∧
     (let full := (withRegs (s none 0) [(chanPage 5, R.FAB_CH_LO_EN, 1, 0), (chanPage 5, R.FAB_CH_LO_CRED, 2, 0)]).setChan 5 { used := [((s none 0).creditKey 5 0x119, 2)] }
      full.freeCredits 5 0x119 = 0 ∧ (after (.replayRecord (w 5 0x119 55) 0) full).rd 0x062 R.JRN_RPL_RD_RD = 0) ∧
     (let t := after (.replayRecord (w 6 0x1F1 0) 0) { s (some 5000) 0 with tb := 100 }
      t.rd 0x062 R.JRN_RPL_STAT_STATE = 2)) ∧
    (let s := fun (o : List JRec) g st => { journal 0 {} [(0x062, R.JRN_RPL_EN, 1, 0), (0x062, R.JRN_RPL_STAT_STATE, st, 0), (0x062, R.JRN_DIV_VALID, 1, 0)] with
        rpl := { going := g, recDig := [⟨0, 0x1F2, 77, 5⟩], ownDig := o } }
     gives .replayDigestCompare (s [] true 2) (s [] true 2) ∧ gives .replayDigestCompare (s [⟨0, 0x1F2, 77, 6⟩] false 2) (s [⟨0, 0x1F2, 77, 6⟩] false 2) ∧ gives .replayDigestCompare (s [⟨0, 0x1F2, 77, 6⟩] true 3) (s [⟨0, 0x1F2, 77, 6⟩] true 3) ∧
     (after .replayDigestCompare (s [⟨0, 0x1F2, 77, 6⟩] true 2)).rd 0x062 R.JRN_DIV_DIVCNT = 1 ∧
     (after .replayDigestCompare ((s [⟨0, 0x1F2, 77, 5⟩] true 2).wr 0x062 R.PG_INJ_INJ 1)).rd 0x062 R.JRN_DIV_DIVCNT = 1) := by
  decide +kernel

/-- A domain in a state, at a time, with registers. -/
def domain (d : Nat) (x : Dom) (more : List (Nat × Fld × Nat × Nat) := []) (ds : List Nat := [8]) : State :=
  { withRegs ({ device ds with doms := put (device ds).doms d x }) ([(0x010, R.PWR_CTRL_MODE, 0, 0)] ++ more) with tb := 50000 }

theorem witness_DomainsEnterWakeAndReturn :
    (let s := domain 24 { st := .ret }
     isDomain 24 = true ∧ (s.dom 24).going = none ∧ (∀ k ∈ domNeeds 24, s.domOn k = true ∧ (s.dom k).emu = none) ∧
     ((after (.domainRequest 24 3) s).dom 24).going = some .on ∧ (after (.domainRequest 24 3) s).powerReq 24 = 3) ∧
    (let s := domain 40 { st := .on }
     let h := s.wr (chnPage 0) R.CHN_STAT_STATE 2
     (h.setPowerReq 40 1).powerWaits 40 = true ∧ ((after (.domainRequest 40 1) h).dom 40) = { st := .on, hold := true } ∧
     (s.setPowerReq 40 0).powerWaits 40 = false ∧ s.on 0x030 R.DBG_STAT_ATTACH = false ∧ ((after (.domainRequest 40 0) s).dom 40).going = some .off ∧
     ((after (.domainRequest 40 1) s).dom 40).going = some .ret) ∧
    (let s := fun st => domain 64 { st := st, going := some .on }
     (∀ st ∈ [DomSt.ret, .off], (domNeeds 64).all (s st).domOn = true ∧ (s st).railOn 64 = true ∧ ((after (.domainRestore 64) (s st)).dom 64).st = .on ∧
       ((after (.domainRestore 64) (s st)).dom 64).going = none) ∧
     (s .off).on 0x300 R.PG_STAT_EN_PENDING = false ∧ (after (.domainEntry 64) (s .off)).dom 64 = (s .off).dom 64 ∧ (after (.domainRestore 64) (s .off)).on 0x300 R.PG_STAT_STALE = true ∧
     (after (.domainRestore 64) (s .ret)).on 0x300 R.PG_STAT_STALE = false) ∧
    (let s := domain 24 { st := .off, going := some .on }
     ((after (.restoreFail 24) s).dom 24).st = .off ∧ (after (.restoreFail 24) s).on 0x010 R.PWR_DOM_FAIL 24 = true) ∧
    (let s := fun t => { domain 335 { st := .on, going := some t } with mem := [(localBase 271, 1), (localBase 271 + 0x7FFF, 2), (localBase 271 + 0x8000, 3)], cogs := [(271, { pc := 5 })] }
     (∀ t ∈ [DomSt.off, .ret], ((s t).dom 335).latched = false ∧ ((after (.domainEntry 335) (s t)).dom 335).st = t) ∧
     (after (.domainEntry 335) (s .off)).cog 271 = {} ∧ (after (.domainEntry 335) (s .off)).mem = [(localBase 271 + 0x8000, 3)] ∧
     (after (.domainEntry 335) (s .ret)).mem.length = 3 ∧ ((after (.domainEntry 335) (s .ret)).cog 271).pc = 5) := by
  decide +kernel

theorem witness_DomainsEnterWakeAndReturn_wakes :
    (let s := fun d => domain d { st := .ret }
     let wakes := fun (w : WakeSource) (d : Nat) => decide ((s d).on 0x010 R.PWR_CTRL_MODE = false ∧ ((s d).dom d).going = none ∧ ((after (.domainWake w) (s d)).dom d).going = some .on)
     wakes (.vision 15) 39 = true ∧ wakes (.chain 7) 47 = true ∧ wakes .pcie 2 = true ∧ wakes (.tandem 0) 48 = true ∧ wakes (.tandem 1) 49 = true) ∧
    (let m : Msg := ⟨5, 0x110, 77, 0, [1]⟩
     let s := { domain 9 { st := .ret } [(chanPage 5, R.FAB_CH_LO_RCV, 0x11, 0)] with hubHold := [m] }
     s.rcvCas 5 = some 1 ∧ ((after (.domainWake (.message 1)) s).dom 9).going = some .on) ∧
    (let s := domain 24 { st := .ret } [(0x010, R.PWR_WAKE_POL, 1, 3), (0x010, R.PWR_DOM_WSET, 8, 24), (0x010, R.PWR_WAKE_EDGE, 0, 3)]
     b2n true = s.rd 0x010 R.PWR_WAKE_POL 3 ∧ s.on 0x010 R.PWR_WAKE_EDGE 3 = false ∧ bit (s.rd 0x010 R.PWR_DOM_WSET 24) 3 = true ∧
     bit ((after (.wakePin 3 true) s).rd 0x010 R.PWR_WSTAT_PIN) 3 = true ∧ ((after (.wakePin 3 true) s).dom 24).going = some .on ∧ (after (.wakePin 3 false) s).doms = s.doms) ∧
    (let s := fun a => domain 24 { st := .ret } [(0x010, R.PWR_ALARM_LO_STAMP, a, 0), (0x010, R.PWR_ALARM_HI_EN, 1, 0), (0x010, R.PWR_DOM_WSET, 32, 24)]
     0 ≤ stampDiff (s 50000).now 50000 ∧ stampDiff (s 50001).now 50001 < 0 ∧ ((after .pwrAlarm (s 50000)).dom 24).going = some .on ∧ ((after .pwrAlarm (s 50001)).dom 24).going = none ∧
     (after .pwrAlarm (s 50000)).on 0x010 R.PWR_WSTAT_ALARM = true) ∧
    (let s := domain 48 { st := .on, idleSince := some 49000 } [(0x010, R.PWR_DOM_IDLE_AUTO, 1, 48), (0x010, R.PWR_IDLE_US, 1, 0)]
     (s.dom 48).idleSince = some 49000 ∧ s.on 0x010 R.PWR_DOM_IDLE_AUTO 48 = true ∧ s.idleNow 48 = true ∧ s.powerWaits 48 = false ∧ s.rd 0x010 R.PWR_IDLE_US = 1 ∧
     s.on 0x030 R.DBG_STAT_ATTACH = false ∧ ((after (.idleRule 48) s).dom 48).going = some .ret) ∧
    (let s := domain 40 { st := .on } [(chnPage 0, R.CHN_PWR_IDLE, 50, 0)]
     s.chnIdle 0 = true ∧ (s.dom 40).emu = none ∧ s.heldAwake 40 = false ∧ ((after (.chainIdleRetention 0) s).dom 40).going = some .ret) := by
  decide +kernel

theorem witness_DomainsEnterWakeAndReturn_forms :
    (let s := fun x => domain 24 x
     let req := fun v x => ((after (.domainRequest 24 v) (s x)).dom 24)
     isDomain 7 = false ∧ gives (.domainRequest 7 3) (s {}) (s {}) ∧ gives (.domainRequest 1 0) (s {}) ((s {}).setPowerReq 1 0) ∧
     req 2 { st := .on, hold := true } = { st := .on } ∧ req 3 { st := .ret, going := some .off } = { st := .ret, going := some .off, latched := true } ∧
     req 3 { st := .ret, going := some .on } = { st := .ret, going := some .on } ∧ (req 3 { st := .off }).going = some .on ∧ req 0 { st := .on, going := some .ret } = { st := .on, going := some .ret, hold := true } ∧
     req 0 { st := .off, hold := true } = { st := .off } ∧ req 1 { st := .on, emu := some .ret, hold := true } = { st := .on, emu := some .ret } ∧ (req 0 { st := .ret }).going = some .off ∧
     (let a := (s { st := .on }).wr 0x030 R.DBG_STAT_ATTACH 1
      ((after (.domainRequest 24 1) a).dom 24).emu = some .ret ∧ ((after (.domainRequest 24 1) a).dom 24).going = none) ∧
     (let m := domain 2 { st := .on }
      (m.setPowerReq 2 0).powerWaits 2 = true ∧ (after (.domainRequest 2 0) m).dom 2 = { st := .on, hold := true } ∧ reqTarget 2 0 = .ret)) ∧
    (let s := fun x v => (domain 24 x).setPowerReq 24 v
     let en := fun x v => (after (.domainEntry 24) (s x v)).dom 24
     gives (.domainEntry 24) (s { st := .on } 0) (s { st := .on } 0) ∧ (s { st := .on, hold := true } 1).powerWaits 24 = false ∧ (en { st := .on, hold := true } 1).going = some .ret ∧
     en { st := .on, hold := true } 3 = { st := .on } ∧ en { st := .off, hold := true } 0 = { st := .off } ∧ (en { st := .on, going := some .ret, latched := true } 1).going = some .on ∧
     (after (.domainEntry 24) (s { st := .on, going := some .ret, latched := true } 1)).on 0x010 R.PWR_WSTAT_REPLAY = true ∧
     (after (.domainEntry 24) (s { st := .on, going := some .ret } 1)).rd 0x010 R.PWR_DOM_ENTRIES 24 = 1) ∧
    (let s := fun t w k => { domain 24 { st := .ret, going := some .on, wokeAt := w } with doms := put (put (domain 24 {}).doms 24 { st := t, going := some .on, wokeAt := w }) 3 { st := k } }
     gives (.domainRestore 24) (s .ret 0 .off) (s .ret 0 .off) ∧ gives (.domainRestore 24) (s .ret 50001 .on) (s .ret 50001 .on) ∧ ((after (.domainRestore 24) (s .ret 0 .on)).dom 24).onAt = 50000 ∧
     gives (.restoreFail 24) (domain 24 { st := .ret }) (domain 24 { st := .ret }) ∧ gives (.restoreFail 24) (domain 24 { st := .on, going := some .on, emu := some .ret }) (domain 24 { st := .on, going := some .on, emu := some .ret })) := by
  decide +kernel

theorem witness_DomainsEnterWakeAndReturn_wakes_forms :
    (let s := fun d => domain d { st := .on }
     (let stays := fun w d => gives (.domainWake w) (s d) (s d)
      stays (.vision 15) 39 ∧ stays (.chain 7) 47 ∧ stays (.tandem 0) 48 ∧ stays (.tandem 1) 49 ∧ stays (.message 1) 9) ∧
     ((after (.domainWake .pcie) (s 2)).dom 2).st = .on ∧
     (let m := domain 40 { st := .ret } [(0x010, R.PWR_CTRL_MODE, 1, 0), (0x010, R.PWR_DOM_WSET, 16, 24)]
      let m := { m with doms := put m.doms 24 { st := .ret } }
      (after (.domainWake (.chain 0)) m).on 0x010 R.PWR_WSTAT_LINK = true ∧ ((after (.domainWake (.chain 0)) m).dom 24).going = some .on)) ∧
    (let s := fun x l e => { domain 24 { st := .ret } [(0x010, R.PWR_WAKE_POL, 1, 3), (0x010, R.PWR_DOM_WSET, 8, 24), (0x010, R.PWR_WAKE_EDGE, e, 3), (0x010, R.PWR_WAKE_LVL, l, 3)] with inputs := x }
     let f := fun x l => (s x l 0).wr 0x010 R.PWR_WAKE_FILT 4 3
     let woken := fun (t : State) => decide ((t.dom 24).going = some .on)
     woken (after (.wakePin 3 true) (s [] 1 0)) = true ∧ woken (after (.wakePin 3 true) (s [] 1 1)) = false ∧ woken (after (.wakePin 3 true) (s [] 0 1)) = true ∧
     gives (.wakePin 3 true) (f [] 1) (f [] 1) ∧ gives (.wakePin 3 true) (f [] 0) { f [] 0 with inputs := [(3, (true, 50000))] } ∧
     gives (.wakePin 3 true) (f [(3, (true, 49999))] 0) (f [(3, (true, 49999))] 0) ∧ gives (.wakePin 3 false) (f [(3, (true, 49999))] 0) (f [] 0)) ∧
    (gives .pwrAlarm (domain 24 {}) (domain 24 {}) ∧ gives (.idleRule 24) (domain 24 { st := .on }) (domain 24 { st := .on }) ∧ gives (.chainIdleRetention 0) (domain 40 { st := .on }) (domain 40 { st := .on }) ∧
     (let s := fun b => domain 48 { st := .on, idleSince := some b } [(0x010, R.PWR_DOM_IDLE_AUTO, 1, 48), (0x010, R.PWR_IDLE_US, 1, 0)]
      gives (.idleRule 48) (s 49001) (s 49001)) ∧
     (let s := domain 40 { st := .on } [(chnPage 0, R.CHN_PWR_IDLE, 50, 0), (0x030, R.DBG_STAT_ATTACH, 1, 0)]
      s.chnIdle 0 = true ∧ ((after (.chainIdleRetention 0) s).dom 40).emu = some .ret ∧ (after (.chainIdleRetention 0) s).regs = s.regs)) := by
  decide +kernel

/-- The governor of quadrant 3 with its live state, and registers. -/
def governor (g : Gov) (more : List (Nat × Fld × Nat × Nat) := []) (mode : Nat := 1) : State :=
  { withRegs (device [8, 64]) ([(govPage 0, R.GOV_CTRL_EN, 1, 0), (govPage 0, R.GOV_CTRL_MODE, mode, 0), (govPage 0, R.GOV_V_RAIL_OFF, 0, 0), (govPage 0, R.GOV_V_VOUT, 700, 0),
      (0x011, R.PMB_Q_ADDR, 0x40, 0), (0x011, R.PMB_Q_PAGED, 0, 0), (0x011, R.PMB_Q_EXP, 0x16, 0)] ++ more) with govs := [(0, g)] }

theorem witness_GovernorsMeasureChangeAndConfirm :
    (let p := govPage 0
     let s := governor {}
     s.domOn 2 = true ∧ s.injArmed 0x011 0 = false ∧ s.on p R.GOV_CTRL_FAULT = false ∧ s.on p R.GOV_V_RAIL_OFF = false ∧ s.on 0x011 R.PMB_Q_PAGED 0 = false ∧
     (after (.govSetWrite 0 600) s).on p R.GOV_V_CHANGING = true ∧ (after (.govSetWrite 0 600) s).on p R.GOV_V_ASSIST = true ∧ (after (.govSetWrite 0 600) s).out.length = 1 ∧
     ((after (.govSetWrite 0 600) s).gov 0).target = some 600) ∧
    (let p := govPage 0
     let s := fun m => governor { target := some 700, missed := m }
     let r : PmbReply := { nacks := 0, pecs := 0, value := 717 }
     let far : PmbReply := { nacks := 0, pecs := 0, value := 800 }
     s false = (s false).govSettle 0 ∧ s true = (s true).govSettle 0 ∧ nearMv ((s false).voutMv 0 717) 700 = true ∧ nearMv ((s false).voutMv 0 800) 700 = false ∧
     (after (.readVout 0 r) (s false)).rd p R.GOV_V_VOUT = 700 ∧ ((after (.readVout 0 r) (s false)).gov 0).target = none ∧ ((after (.readVout 0 far) (s false)).gov 0).missed = true ∧
     (after (.readVout 0 far) (s true)).on p R.GOV_CTRL_FAULT = true) ∧
    (let p := govPage 0
     let s := fun n => { governor { v := 700 } [(p, R.GOV_LIM_VMIN, 600, 0), (p, R.GOV_LIM_VMAX, 800, 0), (p, R.GOV_STEP_UP, 10, 0), (p, R.GOV_STEP_QUIET, 0, 0)] 0 with
        cogs := if n = 1 then [(0, { samples := 1, lates := 1 })] else [] }
     let s := fun n => (upTo 68 (fun (t : State) i => if i = 0 then t else t.wr (cogPage i) R.COG_SLACK_EXCL 1) { s n with tb := 2000000 })
     let r : PmbReply := { nacks := 0, pecs := 0, value := 5 }
     (s 1).injArmed p 1 = false ∧ (s 1).govMeters 0 = [0] ∧ (after (.governorPeriod 0 r) (s 1)).rd p R.GOV_SLK_NONE = 0 ∧ ((after (.governorPeriod 0 r) (s 1)).gov 0).v = 720 ∧
     ((after (.governorPeriod 0 r) (s 1)).cog 0).samples = 0 ∧ (s 0).rd p R.GOV_STEP_QUIET = 0 ∧ ((after (.governorPeriod 0 r) (s 0)).gov 0).v = 700 ∧
     (after (.governorPeriod 0 r) (s 0)).on p R.GOV_SLK_NONE = true) ∧
    (let s := governor {}
     let r : PmbReply := { nacks := 0, pecs := 0, value := 0x8040 }
     (after (.pmbusAlert (some 0x40) r true) s).rd 0x011 R.PMB_ALERT_STATUS = 0x8040 ∧ (after (.pmbusAlert (some 0x40) r true) s).out.head? = some (.pmbus 0x40 0x03 none) ∧
     (after (.pmbusAlert none r false) s).rd 0x011 R.PMB_ERR_FAIL = 1 ∧ s.cogRuns 0 = true ∧ (after (.vcogUndervoltage 0) s).cogRuns 0 = false ∧
     (after (.vcogRecover 0) (after (.vcogUndervoltage 0) s)).cogRuns 0 = true ∧
     (let e := withRegs s [(0x020, R.PG_EVT_EN_EN, 128, 0)]
      bit (e.rd 0x020 R.PG_EVT_PEND_PEND) 7 = false ∧ e.crossing 23 = 0 ∧ (after (.vcogOvervoltage 3) e).crossing 23 = 1)) := by
  decide +kernel

theorem witness_HealthWatchesTemperatureRailsWatchdogsAndBrake :
    (let s := withRegs (device []) [(0x020, R.HLT_TCFG_WARN, 90, 0), (0x020, R.HLT_TCFG_CRIT, 100, 0), (0x020, R.HLT_TCFG_CRIT_BRAKE, 1, 0), (0x020, R.HLT_BRAKE_ACTIVE, 0, 0), (0x020, R.HLT_BRAKE_CAUSES, 0, 0)]
     s.domOn 2 = true ∧ s.injArmed 0x020 1 = false ∧ s.injArmed 0x020 2 = false ∧
     (after (.tempConversion 4 400) s).on 0x020 R.HLT_TEMP_CRIT 4 = true ∧ (after (.tempConversion 4 400) s).rd 0x020 R.HLT_BRAKE_CAUSES = 64 ∧
     (after (.tempConversion 4 399) s).on 0x020 R.HLT_TEMP_CRIT 4 = false ∧ (after (.tempConversion 4 399) s).on 0x020 R.HLT_TEMP_WARN 4 = true ∧
     (after (.tempConversion 4 (-40)) s).rd 0x020 R.HLT_TEMP_T 4 = 4056 ∧
     s.railUntil = none ∧ s.mramWait = [] ∧ (after (.railSample 3 32) s).rd 0x020 R.HLT_RAIL_LOW = 3 ∧ (after (.railSample 3 32) s).rd 0x020 R.HLT_RAIL_HIGH = 32) ∧
    (let s := withRegs (device [24, 48, 49]) [(0x124, R.TAN_STAT_UP, 3, 0), (visPage 0, R.VIS_LINK_STATE, lnUp, 0)]
     s.links = [] ∧ s.domOn 24 = true ∧ s.lnState 0 = lnUp ∧ s.lnState 1 ≠ lnUp ∧ (∀ m, m < 16 → s.lnState m = lnUp → 1 ∉ s.visGroup m) ∧ (after .srefLoss s).lnState 1 = s.lnState 1 ∧ (after .srefLoss s).rd 0x124 R.TAN_STAT_UP = 0 ∧ (after .srefLoss s).lnState 0 = lnDiscovery) ∧
    (let p := cogPage 0
     let s := fun a n => withRegs (cogAt { pc := 77 }) [(p, R.COG_WDT_RELOAD, 9, 0), (p, R.COG_WDT_WARN, 3, 0), (p, R.COG_WDT_ACTION, a, 0), (p, R.COG_WDT_CNT_COUNT, n, 0), (0x020, R.HLT_BRAKE_ACTIVE, 0, 0)]
     (s 0 3).domOn 64 = true ∧ (s 0 3).wdtHeld 0 = false ∧ ((after (.watchdogWarning 0) (s 0 3)).cog 0).warn8 = true ∧ ((after (.watchdogWarning 0) (s 0 4)).cog 0).warn8 = false ∧
     (after (.watchdogExpiry 0) (s 0 0)).rd p R.COG_WDT_CNT_COUNT = 9 ∧ (after (.watchdogExpiry 0) (s 0 0)).rd 0x020 R.HLT_WDT_CAP_PC = 77 ∧
     (after (.watchdogExpiry 0) (s 2 0)).on 0x020 R.HLT_BRAKE_ACTIVE = true ∧ (after (.watchdogExpiry 0) (s 0 1)).rd p R.COG_WDT_CNT_COUNT = 1 ∧
     (after (.watchdogKick 0) (s 0 1)).rd p R.COG_WDT_CNT_COUNT = 9) ∧
    (let s := fun a => { withRegs (device []) [(0x020, R.HLT_BRAKE_ACTIVE, a, 0), (0x020, R.HLT_BRAKE_CAUSES, 0, 0), (0x020, R.HLT_BRKIN_LVL, 1, 0)] with tb := 2 ^ 32 + 9 }
     (after .brakeIn (s 0)).rd 0x020 R.HLT_BRAKE_CAUSES = 2 ∧ (after .brakeIn (s 0)).rd 0x020 R.HLT_BRK_T_LO_STAMP = 9 ∧ (after .brakeIn (s 0)).rd 0x020 R.HLT_BRK_T_HI_STAMP = 1 ∧
     (after .brakeInRelease (after .brakeIn (s 0))).rd 0x020 R.HLT_BRKIN_LVL = 1 ∧ (after .hltBrakeSet (s 0)).rd 0x020 R.HLT_BRAKE_CAUSES = 4 ∧
     (s 1).brakePresent = 0 ∧ (s 1).on 0x020 R.HLT_BRAKE_ACTIVE = true ∧ (after .hltBrakeClr (s 1)).on 0x020 R.HLT_BRAKE_ACTIVE = false ∧
     (after .brakeIn (s 0)).brakePresent ≠ 0 ∧ (after .hltBrakeClr (after .brakeIn (s 0))).on 0x020 R.HLT_BRAKE_CLR_REJ = true) := by
  decide +kernel

theorem witness_GovernorsMeasureChangeAndConfirm_forms :
    (let p := govPage 0
     let w := fun s d => after (.govSetWrite 0 d) s
     (w (governor {} [] 0) 600).rd p R.GOV_SET_MV = 600 ∧ ((w (governor {} [] 0) 600).gov 0) = {} ∧ ((w (governor {} [(p, R.GOV_CTRL_FAULT, 1, 0)]) 600).gov 0) = { v := 600 } ∧
     ((w (governor { target := some 700 }) 600).gov 0) = { v := 600, target := some 700, want := some 600 } ∧ ((w (governor { target := some 600 }) 600).gov 0) = { v := 600, target := some 600 } ∧
     (w (governor {} [(0x011, R.PMB_Q_PAGED, 1, 0)]) 690).out.length = 2 ∧ (w (governor {} []) 690).on p R.GOV_V_ASSIST = false ∧
     ((w (governor {} [(p, R.GOV_CFG_SETTLE, 3, 0), (p, R.GOV_CFG_SLEW, 10, 0)]) 690).gov 0).readAt = 1000 + 3000) ∧
    (let p := govPage 0
     let s := fun x more => governor x more
     let r := fun n v => ({ nacks := n, pecs := 0, value := v } : PmbReply)
     let rd := fun x more n v => after (.readVout 0 (r n v)) (s x more)
     gives (.readVout 0 (r 0 717)) (s {} []) (s {} []) ∧ gives (.readVout 0 (r 0 717)) (s { target := some 700, readAt := 5 } []) (s { target := some 700, readAt := 5 } []) ∧
     ((rd { target := some 700 } [] 3 717).gov 0).missed = true ∧ ((rd { target := some 700, want := some 690 } [] 0 717).gov 0).target = some 690 ∧
     (rd { target := some 700 } [(p, R.GOV_V_ASSIST, 1, 0)] 0 717).on p R.GOV_V_ASSIST = false ∧ (rd { target := some 660 } [(p, R.GOV_V_ASSIST, 1, 0)] 0 676).on p R.GOV_V_ASSIST = true ∧
     (let t := s { target := some 700, turnOn := some 0 } [(p, R.GOV_V_RAIL_OFF, 1, 0)]
      let u := t.govSettle 0
      (u.gov 0).turnOn.isSome = true ∧ (after (.readVout 0 (r 0 922)) t).on p R.GOV_V_RAIL_OFF = false ∧ (after (.readVout 0 (r 0 700)) t).on p R.GOV_V_RAIL_OFF = true)) ∧
    (let p := govPage 0
     let r : PmbReply := { nacks := 0, pecs := 0, value := 5 }
     let s : State := { governor {} with tb := 9999 }
     s.govPeriodTime 0 = 1000 * max 10 (s.rd p R.GOV_PER_US) ∧ gives (.governorPeriod 0 r) (s.wr p R.GOV_PER_US 1) (s.wr p R.GOV_PER_US 1) ∧
     ((after (.governorPeriod 0 r) { s.wr p R.GOV_PER_US 1 with tb := 10001 }).gov 0).since = 10000 ∧ (after (.governorPeriod 0 r) { s.wr p R.GOV_PER_US 1 with tb := 10001 }).rd p R.GOV_TEL_IOUT = 5) ∧
    (let s := governor {}
     let r := fun (n : Fin 4) => ({ nacks := n, pecs := 0, value := 0x8040 } : PmbReply)
     (after (.pmbusAlert (some 0x40) (r 3) true) s).rd 0x011 R.PMB_ALERT_STATUS = 0 ∧ (after (.pmbusAlert (some 0x40) (r 0) true) s).on 0x011 R.PMB_STAT_ALERT = true ∧
     gives (.vcogOvervoltage 3) s s) := by
  decide +kernel

theorem witness_HealthWatchesTemperatureRailsWatchdogsAndBrake_forms :
    (let s := withRegs (device []) [(0x020, R.HLT_TCFG_WARN, 90, 0), (0x020, R.HLT_TCFG_CRIT, 100, 0), (0x020, R.HLT_TEMP_CRIT, 1, 4), (0x020, R.HLT_TEMP_WARN, 1, 4), (0x020, R.HLT_BRAKE_ACTIVE, 0, 0)]
     (after (.tempConversion 4 381) s).on 0x020 R.HLT_TEMP_CRIT 4 = true ∧ (after (.tempConversion 4 380) s).on 0x020 R.HLT_TEMP_CRIT 4 = false ∧ (after (.tempConversion 4 341) s).on 0x020 R.HLT_TEMP_WARN 4 = true ∧
     (after (.tempConversion 4 340) s).on 0x020 R.HLT_TEMP_WARN 4 = false ∧ (after (.tempConversion 0 0) (s.wr 0x020 R.PG_INJ_INJ 6)).on 0x020 R.HLT_TEMP_CRIT 0 = true ∧
     (let o := { s with doms := [(2, { st := .ret })] }
      gives (.tempConversion 4 400) o o)) ∧
    (let h := { (device []) with boot := .held }
     let m := { device [] with railUntil := some 9, mramWait := [(0x800000, 1)], vmramLow := true }
     (after (.railSample 0x20 0) h).boot = .held ∧ (after (.railSample 0x1C 0) h).boot = .start ∧ (after (.railSample 0 0x01) h).boot = .held ∧
     (after (.railSample 4 0) m).rd 0x020 R.HLT_RAIL_LOW = 5 ∧ (after (.railSample 16 0) m).mramWait.length = 1 ∧ (after (.railSample 16 0) m).mem = [] ∧ (after (.railSample 4 0) m).mramWait = []) ∧
    (let p := cogPage 0
     let s := fun c a n => withRegs (cogAt c) [(p, R.COG_WDT_RELOAD, 9, 0), (p, R.COG_WDT_WARN, 3, 0), (p, R.COG_WDT_ACTION, a, 0), (p, R.COG_WDT_CNT_COUNT, n, 0), (0x020, R.HLT_BRAKE_ACTIVE, 0, 0)]
     gives (.watchdogWarning 0) (s {} 0 4) (s {} 0 4) ∧ gives (.watchdogWarning 0) (s { warned := true } 0 3) (s { warned := true } 0 3) ∧ gives (.watchdogExpiry 0) (s {} 0 1) (s {} 0 1) ∧
     gives (.watchdogExpiry 0) ((s {} 0 0).wr p R.COG_WDT_RELOAD 0) ((s {} 0 0).wr p R.COG_WDT_RELOAD 0) ∧ (after (.watchdogExpiry 0) (s { run := .issuing } 1 0)).on p R.COG_WDT_CNT_EXP = true ∧
     ((after (.watchdogExpiry 0) (s { run := .issuing } 1 0)).cog 0).run = .halted ∧ (after (.watchdogExpiry 0) (s { pc := 5 } 3 0)).on p R.PG_CTRL_SRST = true ∧ (after (.watchdogExpiry 0) (s { pc := 5 } 3 0)).on p R.PG_CTRL_EN = false) ∧
    (let s := withRegs (device []) [(0x020, R.HLT_BRAKE_ACTIVE, 0, 0), (0x020, R.HLT_BRAKE_CAUSES, 0, 0)]
     gives .hltBrakeClr s (s.applyWrite (R.HLT_BRAKE_ACTIVE.addr 0x020 0) 4) ∧ (after .hltBrakeClr s).on 0x020 R.HLT_BRAKE_ACTIVE = false) := by
  decide +kernel

theorem witness_DebugHaltsStepsAndReadsCogs :
    (let s := fun (c : Cog) => withRegs (cogAt c) [(cogPage 0, R.COG_DBG_PORT_CODE, 4, 0), (cogPage 0, R.COG_DBG_PORT_WIDTH, 2, 0), (cogPage 0, R.COG_DBG_PEL, 0, 0)]
     let run := s { run := .issuing, g := [(4, 7)], pc := 33 }
     let hlt := s { run := .halted, g := [(4, 7), (6, 9)], pc := 33, dbgHi := 1023 }
     (∀ t ∈ [run, hlt], t.domOn 64 = true ∧ t.anyRun = false ∧ t.on 0x032 R.TRC_CTRL_EN = false ∧ ∀ g, g < 8 → t.on 0x031 R.PEL_CFG_TRIG_ANY g = false) ∧
     (run.cogs.all fun x => x.2.haltReq = none && !x.2.disabling) = true ∧ (hlt.cog 0).cur = none ∧ (hlt.cog 0).lockup = false ∧
     ((after (.cogHalt 0 0) run).cog 0).run = .halted ∧ ((after (.cogHalt 0 0) run).cog 0).haltInfo = ⟨1, 0⟩ ∧ ((after (.cogHalt 0 0) run).cog 0).pc = 33 ∧
     ((after (.cogResume 0 0) hlt).cog 0).run = .issuing ∧ ((after (.cogResume 0 0) hlt).cog 0).stepOne = false ∧ ((after (.cogStep 0 0) hlt).cog 0).stepOne = true ∧
     (let d := withRegs hlt [(cogPage 0, R.COG_DBG_PORT_DST, 1, 0)]
      d.on (cogPage 0) R.COG_DBG_PORT_DST = true ∧ dstOf 4 = some (.g 4) ∧ d.dbgWidth 0 = some .triple ∧ 4 % Width.triple.align = 0 ∧
      ((after (.dbgValWrite 0 5) d).cog 0).gWord 4 = 5 ∧ ((after (.dbgValWrite 0 5) d).cog 0).gWord 6 = 0x3FF0) ∧
     ((after (.dbgValHiWrite 0 0xFFF) hlt).cog 0).dbgHi = 0x3FF ∧ after (.dbgValWrite 0 5) run = run ∧ after (.dbgValHiWrite 0 5) run = run ∧
     (after (.dbgValRead 0) run).out = [.regRead (cogPage 0 * 4096 + 0xBC) 0] ∧ hlt.dbgSource 0 = some (7 + 9 * 2 ^ 28) ∧
     (after (.dbgValRead 0) hlt).rd (cogPage 0) R.COG_DBG_VAL_HI_VALUE = 9 * 2 ^ 28 / 2 ^ 32) ∧
    (let s := fun (c : Cog) => { withRegs (cogAt c) [(cogPage 0, R.COG_DBG_PEL, 128, 0)] with trace := [{ stamp := 1, type := 5 }] }
     (s {}).domOn 2 = true ∧ ((s {}).pel 7).triggered = false ∧ (s {}).pelMembers 7 = [0] ∧ ((s { run := .halted }).cog 0).cur = none ∧ risingFrom 0 (s {}).pels = true ∧ ((after (.pelotonGo 7 0) (s { run := .issuing })).pel 7).triggered = true ∧
     ((after (.pelotonGo 7 0) (s { run := .issuing })).cog 0).run = .halted ∧ ((after (.pelotonResume 7 0) (s { run := .halted })).cog 0).run = .issuing ∧
     (after (.trcPop 1) (s {})).trace = [] ∧ after (.trcPop 2) (s {}) = s {}) := by
  decide +kernel

/-- Both debug access units with a level, and one of them as given. -/
def debugger (j level : Nat) (x : Dau) : State :=
  { device [8, 64] with daus := [(0, { granted := some level, ir := if j = 0 then x.ir else 1 }), (1, { granted := some level })].map fun u => if u.1 = j then (j, { x with granted := some level }) else u }

theorem witness_DebugPortsTransferByTheirLevel_twoWire :
    (let r : PmbReply := { nacks := 0, pecs := 0, value := 0 }
     let s := fun l => debugger 1 l { addr := 0xFFFFFFFC }
     (after (.twoWireRead 0) (s 0)).out = [.twoWire 1 (some 0x48530100)] ∧ (s 0).dauLevel 1 < 1 ∧
     (∀ a ∈ [(1 : Fin 16), 3, 4], ((after (.twoWireRead a) (s 0)).dau 1).err = true ∧ ((after (.twoWireReadIncrement a) (s 0)).dau 1).addr = 0xFFFFFFFC ∧
       (after (.twoWireWrite a 5 true r) (s 0)).out = [.twoWire 0 none] ∧ (after (.twoWireWriteIncrement a 5 true r) (s 0)).out = [.twoWire 0 none]) ∧
     1 ≤ (s 1).dauLevel 1 ∧ ((after (.twoWireWrite 3 0x30007 true r) (s 1)).dau 1).addr = 0x30004 ∧ ((after (.twoWireWriteIncrement 3 0x30007 true r) (s 1)).dau 1).addr = 0x30008 ∧
     ((after (.twoWireReadIncrement 3) (s 1)).dau 1).addr = 0 ∧ ((after (.twoWireWrite 3 8 false r) (s 1)).dau 1) = { (s 1).dau 1 with err := true } ∧ after .lineReset (s 1) = s 1) := by
  decide +kernel

theorem witness_DebugPortsTransferByTheirLevel_data :
    (let r : PmbReply := { nacks := 0, pecs := 0, value := 0 }
     let s := fun j => debugger j 1 { addr := 0x200044 }
     (s 0).dauLevel 0 = 1 ∧ (s 1).dauLevel 1 = 1 ∧ pageKind (pageBase 0x200044 / 4096) = .cas ∧ (s 0).pageOn (pageBase 0x200044 / 4096) = true ∧ registerPlace 0x200044 = true ∧
     ((after (.daDataAccess 0 none r) (s 0)).dau 0).err = false ∧ ((after (.daDataAccess 0 (some 5) r) (s 0)).dau 0).err = true ∧
     ((after (.daDataAccess 1 (some 5) r) (s 1)).dau 1).err = true ∧
     (after (.daDataAccess 1 none r) (s 1)).out = [.twoWire 1 (some ((s 1).shown 0x200044))] ∧ ((after (.daDataAccess 0 none r) (s 0)).dau 0).lastData = (s 0).shown 0x200044 ∧
     (let u := debugger 1 2 { addr := 0x8000, space := true }
      u.windowOn (windowOf 0x8000) = false ∧ Memory.wf u.mem = true ∧ u.boot = .done ∧ 2 ≤ u.dauLevel 1 ∧ ((after (.daDataAccess 1 (some 5) r) u).dau 1).err = true)) := by
  decide +kernel

theorem witness_DebugPortsTransferByTheirLevel_tap :
    (let r : PmbReply := { nacks := 0, pecs := 0, value := 0 }
     let s := fun l => debugger 0 l { ir := 8, lastAck := 1, lastData := 5 }
     ((s 0).dau 0).ir ≠ 0 ∧ (s 0).dauLevel 0 < 3 ∧ (after .idcode (s 0)).out = [.tdo ((s 0).otp 5)] ∧ ((after .bypass (s 0)).dau 0).ir = 0x1F ∧ ((after .trst (s 0)).dau 0).ir = 1 ∧
     ((after (.extest [(5, true)]) (s 0)).dau 0).ir = 0x1F ∧ (after (.samplePreload [(5, true)]) (s 0)).boundary = [(5, true)] ∧
     (after (.dau 0 0 0 r) (s 0)).out = [.tdo 21] ∧ ((after (.dau 0 0 0 r) (s 0)).dau 0).lastData = 0x48530100 ∧
     (s 3).dauLevel 0 = 3 ∧ ((after (.extest [(5, true)]) (s 3)).dau 0).ir = 0) ∧
    (let s := fun l => debugger 1 l {}
     (s 2).benchBy = none ∧ (after (.attachWrite 1 true) (s 2)).on 0x030 R.DBG_STAT_ATTACH = true ∧ ((after (.benchWrite 1 true) (s 1)).dau 1).err = true ∧ (after (.benchWrite 1 true) (s 1)).out = [.twoWire 0 none] ∧
     (s 3).domOn 2 = true ∧ (∀ p, p < 8 → (s 3).chnState p ≤ chSilent) ∧ (after (.benchWrite 1 true) (s 3)).on 0x030 R.DBG_BENCH_EN = true ∧
     (after (.benchWrite 1 true) (s 3)).benchBy = some 1) := by
  decide +kernel

theorem witness_DebugHaltsStepsAndReadsCogs_forms :
    (let s := fun (c : Cog) d => withRegs (cogAt c) [(cogPage 0, R.COG_DBG_PORT_CODE, 4, 0), (cogPage 0, R.COG_DBG_PORT_DST, d, 0), (0x020, R.HLT_BRAKE_ACTIVE, 1, 0)]
     let h := fun (c : Cog) d => ((after (.cogHalt 0 d) (s c 0)).cog 0)
     let busy : Cog := { run := .issuing, cur := some { pc := 0, next := 6 } }
     (h { run := .issuing } 8).mon9 = true ∧ (h { run := .issuing } 8).run = .issuing ∧ busy.haltReady 0 = false ∧ (h busy 0).haltReq = some ⟨1, 0⟩ ∧ (h busy 0).run = .issuing ∧
     (h { run := .halted, pc := 4 } 0).pc = 4 ∧ gives (.cogResume 0 0) (s {} 0) ((s {} 0).applyWrite (R.COG_DBG_HALT.addr (cogPage 0) 0) 2) ∧
     ((after (.cogResume 0 0) (s { run := .halted, lockup := true } 0)).cog 0).run = .halted ∧
     ((after (.cogResume 0 0) (s { run := .halted, pc := 9, haltInfo := ⟨3, 1⟩ } 0)).cog 0).brkSkip = some 9 ∧ ((after (.cogResume 0 0) (s { run := .halted, pc := 9 } 0)).cog 0).brkSkip = none ∧
     ((after (.cogStep 0 0) (s { run := .halted, pc := 9 } 0)).cog 0).brkSkip = some 9 ∧
     gives (.dbgValWrite 0 5) (s { run := .halted } 0) (s { run := .halted } 0) ∧ gives (.dbgValWrite 0 5) ((s { run := .halted } 1).wr (cogPage 0) R.COG_DBG_PORT_CODE 5 |>.wr (cogPage 0) R.COG_DBG_PORT_WIDTH 1) ((s { run := .halted } 1).wr (cogPage 0) R.COG_DBG_PORT_CODE 5 |>.wr (cogPage 0) R.COG_DBG_PORT_WIDTH 1)) ∧
    (let s := fun x => { withRegs (cogAt { run := .halted, lockup := true }) [(cogPage 0, R.COG_DBG_PEL, 128, 0), (0x031, R.PEL_T_STAMP, 77, 7)] with tb := 90, pels := [(7, { triggered := x })] }
     (after (.pelotonGo 7 0) (s false)).rd 0x031 R.PEL_T_STAMP 7 = 90 ∧ (after (.pelotonGo 7 0) (s true)).rd 0x031 R.PEL_T_STAMP 7 = 77 ∧ ((after (.pelotonResume 7 0) (s true)).pel 7).triggered = false ∧
     ((after (.pelotonResume 7 0) (s true)).cog 0).run = .halted) := by
  decide +kernel

theorem witness_DebugPortsTransferByTheirLevel_forms :
    (let r : PmbReply := { nacks := 0, pecs := 0, value := 0 }
     let s := fun l => debugger 1 l { addr := 0x200044 }
     let o := fun e l => (after e (s l)).out
     o (.twoWireWrite 3 8 false r) 0 = [.twoWire 0 none] ∧ o (.twoWireWrite 3 8 false r) 1 = [.twoWire 1 none] ∧ o (.twoWireWriteIncrement 5 8 false r) 3 = [.twoWire 0 none] ∧
     o (.twoWireRead 5) 3 = [.twoWire 0 none] ∧ o (.twoWireRead 15) 0 = [.twoWire 1 (some (s 0).lifecycle)] ∧ o (.twoWireRead 2) 3 = [.twoWire 1 (some 3)] ∧
     ((after (.twoWireReadIncrement 0) (s 0)).dau 1).addr = 0x200048 ∧ ((after (.twoWireReadIncrement 3) (s 0)).dau 1).addr = 0x200044) ∧
    (let r : PmbReply := { nacks := 0, pecs := 0, value := 0 }
     let d := fun j l x => debugger j l x
     (after (.daDataAccess 1 (some 5) r) (d 1 2 { addr := 0x30044 })).out = [.twoWire 0 none] ∧ ((after (.daDataAccess 1 (some 1) r) (d 1 3 { addr := 0x30044 })).dau 1).err = false ∧
     ((after (.daDataAccess 0 (some 5) r) (d 0 1 { addr := 0x1FC })).dau 0).lastAck = 0 ∧ ((after (.daDataAccess 0 (some 5) r) (d 0 2 { addr := 0x041044 })).dau 0).err = true ∧
     (after (.daDataAccess 1 (some 0x01020304) r) { d 1 2 { addr := 0x1000100, space := true } with mem := [] }).word 0x1000100 = 0x304 ∧
     (after (.daDataAccess 1 none r) { d 1 2 { addr := 0x100, space := true, attach := true } with mem := [(0x101, 7)] }).out = [.twoWire 1 (some 0x700)] ∧
     ((after (.dau 4 0 0 r) (d 0 3 {})).dau 0).lastAck = 0 ∧ ((after (.dau 4 0 0 r) (d 0 3 {})).dau 0).err = true) ∧
    (let s := fun l => debugger 1 l {}
     let run := (s 3).wr (chnPage 2) R.CHN_STAT_STATE 4
     (after (.attachWrite 1 true) (s 1)).on 0x030 R.DBG_STAT_ATTACH = false ∧ ((after (.attachWrite 1 true) (s 1)).dau 1).err = true ∧
     ((after (.attachWrite 1 false) ((s 2).setDau 1 { granted := some 2, attach := true })).dau 1).attach = false ∧
     (after (.benchWrite 1 true) run).on 0x030 R.DBG_BENCH_EN = false ∧ (after (.benchWrite 1 true) run).on 0x030 R.DBG_BENCH_REFUSE = true ∧
     (after (.benchWrite 1 false) ((s 3).wr 0x030 R.DBG_BENCH_EN 1)).on 0x030 R.DBG_BENCH_EN = false ∧ (after (.benchWrite 1 false) (s 3)).on 0x030 R.DBG_BENCH_EN = false ∧
     ((after (.benchWrite 1 true) { s 3 with doms := [(2, { st := .ret })] }).dau 1).err = true) := by
  decide +kernel

/-- A unit that has drawn the nonce 1 to 8 and been given a key, a signature, a level and a slot. -/
def challenged (x : Dau) (slot : Nat) (lvl : Nat) : State :=
  let words : Nat → List Nat := fun v => (List.range 8).map fun i => v / 2 ^ (32 * (7 - i)) % 2 ^ 32
  let resp : List Nat := (words 0xd5552f6a7979523f992dc286a215dfda88e466c73aa5ca41346be6cae4bae450 ++ words 0x38d53aa1f36f0171e26774dc34a803604ceca217d619ce33c43f9eb9e4f24f74) ++
    (words 0x7cf27b188d034f7e8a52380304b51ac3c08969e277f21b35a60b48fc47669978 ++ words 0xe5ec9f0d754dac227a1dc183da8aa30695b87d5930de87a23af0d28e4d9a2ed)
  let s := { device [] with tb := 100, daus := [(1, { x with nonce := some [1, 2, 3, 4, 5, 6, 7, 8], checking := true, level := 2, resp := resp.zipIdx.map fun w => (w.2, w.1) })] }
  ((words slot).zipIdx.foldl (fun (t : State) w => t.setOtp (42 + w.2) w.1) s).setOtp 58 lvl
def slotOf : Nat := 0xe78a994add6e24b1eab38dd25951df60d31a589ca865b57976bb073ae8364df6

/-- The signature of this key verifies, its slot and the level allowed are right: no cause. Signed outside the model, by the curve's own formulas. -/
theorem witness_ChallengesGrantAndDropLevels_passed :
    (let s := challenged {} slotOf 3
     s.auCause (s.dau 1) [1, 2, 3, 4, 5, 6, 7, 8] = 0) := by
  decide +kernel

theorem witness_ChallengesGrantAndDropLevels :
    (let s := fun x => { device [] with tb := 100, daus := [(1, x)] }
     (s { lockUntil := 100 }).tb = 100 ∧ ((after (.auReq 1 0x60) (s { lockUntil := 100 })).dau 1).drawing = true ∧ ((after (.auReq 1 0x60) (s { lockUntil := 100 })).dau 1).level = 2 ∧
     ((after (.auReq 1 0) (s { lockUntil := 101 })).dau 1).cause = 5 ∧ ((after (.auChk 1 0) (s { nonce := some [1] })).dau 1).checking = true ∧ ((after (.auChk 1 0) (s {})).dau 1).cause = 1 ∧
     ((after (.nonceReady 1 [1, 2, 3, 4, 5, 6, 7, 8]) (s { drawing := true })).dau 1).nonce = some [1, 2, 3, 4, 5, 6, 7, 8] ∧
     (s {}).dauLevel 1 = 3 ∧ (after (.auDrop 1 0) (s {})).dauLevel 1 = 0) ∧
    (let s := challenged {} 1 3
     let t := challenged {} slotOf 1
     (s.dau 1).checking = true ∧ (s.dau 1).nonce = some [1, 2, 3, 4, 5, 6, 7, 8] ∧ s.auCause (s.dau 1) [1, 2, 3, 4, 5, 6, 7, 8] = 2 ∧ t.auCause (t.dau 1) [1, 2, 3, 4, 5, 6, 7, 8] = 3 ∧
     ((after (.authCheckDone 1) t).dau 1).cause = 3 ∧ ((after (.authCheckDone 1) t).dau 1).lockUntil = 1000000100) := by
  decide +kernel

theorem witness_ResetsKeepWhatTheyKeep :
    (let s := { (device [8, 64]).setOtp 20 77 with tb := 9, mem := [(5, 1), (0x2000000, 2), (0x27FFFFF, 3), (0x2800000, 4), (0x4000000, 5)], cogs := [(0, { pc := 5 })], pending := [.perst] }
     s.mramWait = [] ∧ s.blow = none ∧ (after (.powerLoss true) s).mem = [(0x2000000, 2), (0x27FFFFF, 3), (0x4000000, 5)] ∧ (after (.powerOnReset true) s).tb = 0 ∧ (after (.powerOnReset true) s).on 0x070 R.TB_STAT_HOLD = false ∧
     (after (.powerOnReset false) s).on 0x070 R.TB_STAT_HOLD = true ∧ (after (.powerOnReset false) s).on 0x070 R.TB_STAT_REF_OK = false ∧ (after (.powerOnReset true) s).otp 20 = 77 ∧
     (after (.powerOnReset true) s).pending = [.perst] ∧
     s.domOn 2 = true ∧ bit 0x1D5 8 = true ∧ 0x1D5 % 256 = 0xD5 ∧ (after (.deviceReset 0x1D5) s).tb = 9 ∧ (after (.deviceReset 0x1D5) s).cogs = [] ∧
     (after (.deviceReset 0x1D5) s).rd 0x000 R.SYS_RST_CAUSE = 2 ∧ (after (.deviceReset 0x1D5) { s with blow := some (1, 1) }).resetWaits = some 2 ∧
     (after (.deviceReset 0xD5) s).cogs = s.cogs ∧ (after (.deviceReset 0x1D4) s).cogs = s.cogs) ∧
    (let s := fun b => (withRegs (device [8, 64]) [(0x120, R.PCIE_STAT_SPEED, 2, 0), (0x120, R.PCIE_STAT_LINKDN, 3, 0)]).setOtp 7 b
     bit ((s 4).otp 7) 2 = true ∧ (s 4).blow = none ∧ (after .perst (s 4)).rd 0x000 R.SYS_RST_CAUSE = 3 ∧ bit ((s 0).otp 7) 2 = false ∧
     (after .perst (s 0)).msixWord 63 3 = 1 ∧ (after .perst (s 0)).rd 0x120 R.PCIE_STAT_SPEED = 0 ∧ (after .perst (s 0)).perst = true ∧ (after .pcieLinkDown (s 0)).rd 0x120 R.PCIE_STAT_LINKDN = 4 ∧
     (let u := fun l1 k => after (.pcieLinkUp 3 2 l1 k 0) (after .perst (s 0))
      (u true {}).rd 0x120 R.PCIE_STAT_WIDTH = 2 ∧ (u true {}).perst = false ∧ (u true {}).on 0x120 R.PCIE_STAT_L1 = false ∧
      (u true { aspmL1 := true }).on 0x120 R.PCIE_STAT_L1 = true ∧ (u false { d3hot := true }).on 0x120 R.PCIE_STAT_L1 = true ∧ (u false { aspmL1 := true }).on 0x120 R.PCIE_STAT_L1 = false ∧
      (let k : PcieConf := { d3hot := true }
       let v := after (.domainEntry 9 (some k)) (u true { aspmL1 := true })
       (s 0).perst = false ∧ (u true {}).perst = false ∧ v.pcie = k ∧ v.on 0x120 R.PCIE_STAT_L1 = true ∧ v.rd 0x120 R.PCIE_STAT_WIDTH = 2 ∧
       (after (.descriptorFetch 9 (some k)) (u true {})).pcie = k ∧ (after (.descriptorFetch 9 (some k)) (after .perst (s 0))).pcie = {}))) := by
  decide +kernel

theorem witness_ChallengesGrantAndDropLevels_forms :
    (let s := fun x => { device [] with tb := 100, daus := [(1, x)] }
     (∀ e ∈ [Instr.auReq 1 0x61, .auChk 1 0x61], (after e (s { drawing := true })).dau 1 = { drawing := true } ∧ ((after e (s { checking := true, nonce := some [1] })).dau 1).level = 0 ∧
       ((after e (s { checking := true, nonce := some [1] })).dau 1).nonce = some [1]) ∧
     gives (.nonceReady 1 [1]) (s {}) (s {}) ∧ gives (.authCheckDone 1) (s {}) (s {}) ∧ ((after (.auDrop 1 0) (s { granted := some 3, attach := true })).dau 1).attach = false) := by
  decide +kernel

theorem witness_ResetsKeepWhatTheyKeep_forms :
    (let s := { device [8, 64] with tb := 9, mem := [(0x2000000, 2)], mramWait := [(0x2000000, 7), (0x2000001, 8)], blow := some (20, 6) }
     let p := after (.powerOnReset true 0) s
     p.byte 0x2000000 = 7 ∧ p.byte 0x2000001 = 8 ∧ p.boot = .start ∧ (after (.powerOnReset true 4) s).boot = .held ∧ (after (.powerOnReset true 4) s).domOn 2 = false ∧ p.otp 21 = s.otp 21 ∧
     gives (.deviceReset 0x1D5) s { s with resetWaits := some 2 } ∧ gives .perst (s.setOtp 7 4) { s.setOtp 7 4 with resetWaits := some 3 } ∧ lifecycleCuts 0 1 ≠ []) ∧
    (let s := device []
     gives (.pcieLinkUp 3 2 true {} 0) { s with boot := .start } { s with boot := .start } ∧ gives (.pcieLinkUp 3 2 true {} 0) { s with boot := .held } { s with boot := .held } ∧
     (after (.pcieLinkUp 3 2 true {} 0x1000) { s with aer := 0x101000 }).aer = 0x100000) := by
  decide +kernel

theorem witness_RegisterAndPageWritesAct_writes :
    (let s := withRegs (device []) [(0x120, R.MBX_CH_CHAN, 3, 0)]
     let r : PmbReply := { nacks := 0, pecs := 0, value := 0 }
     registerPlace 0x5040 = false ∧ (after (.registerWrite 0x5040 5 15 false r) s).elog = [] ∧ registerPlace 0x120080 = true ∧ s.domOn 2 = true ∧
     (after (.registerWrite 0x120080 5 15 true r) s).elog = [⟨0x120080, 4, 0⟩] ∧ (after (.registerWrite 0x120080 5 15 true r) s).aer = 0x1000 ∧ (after (.registerWrite 0x120080 5 1 false r) s).elog = [⟨0x120080, 3, 0⟩] ∧
     (after (.registerWrite 0x12000C 5 15 false r) s) = s ∧ s.pageOn 0x0C0 = false ∧ registerPlace 0xC0040 = true ∧ pageKind 0x0C0 ≠ .vis ∧
     (after (.registerWrite 0xC0040 5 15 false r) s).elog = [⟨0x0C0, 1, 0⟩] ∧
     (after (.registerWrite 0x120170 0x80000FFF 15 false r) s).rd 0x120 R.MBX_CH_CHAN 15 = 0xFFF ∧ (after (.registerWrite 0x120080 0x7FFFF001 15 false r) s).rd 0x120 R.MBX_CH_CHAN 0 = 1 ∧
     (after (.registerWrite 0x120080 0x7FFFF001 15 false r) s).on 0x120 R.MBX_CH_EN 0 = false) := by
  decide +kernel

theorem witness_RegisterAndPageWritesAct_pages :
    (let s := withRegs (device []) [(0x120, R.MBX_SEND_REFUSED, 3, 15), (0x120, R.MBX_CH_CHAN, 3, 15), (0x120, R.MBX_LAST_LO_STAMP, 3, 0), (0x120, R.PG_STAT_STALE, 1, 0)]
     let b := withRegs s [(0x120, R.PG_STAT_BUSY, 1, 0), (0x120, R.PG_CTRL_SRST, 1, 0), (0x120, R.PG_STAT_EN_PENDING, 1, 0)]
     (pageKind 0x120).hasHeader = true ∧ s.pageOn 0x120 = true ∧ pageKind 0x120 ≠ .cog ∧ homePage (pageDom 0x120) ≠ some 0x120 ∧ s.on 0x120 R.PG_STAT_BUSY = false ∧
     s.on 0x120 R.PG_CTRL_SRST = false ∧ b.on 0x120 R.PG_STAT_BUSY = true ∧
     (after (.pageSoftReset 0x120 1) s).rd 0x120 R.MBX_SEND_REFUSED 15 = 0 ∧ (after (.pageSoftReset 0x120 1) s).rd 0x120 R.MBX_CH_CHAN 15 = 3 ∧
     (after (.pageSoftReset 0x120 1) s).rd 0x120 R.MBX_LAST_LO_STAMP = 0 ∧ (after (.pageSoftReset 0x120 1) s).on 0x120 R.PG_STAT_EN_PENDING = true ∧
     (after (.pageSoftReset 0x120 0) s).on 0x120 R.PG_CTRL_EN = false ∧ (after (.pgCtrlEnable 0x120 2) s).on 0x120 R.PG_CTRL_EN = true ∧
     (after (.pgCtrlEnable 0x120 2) s).on 0x120 R.PG_STAT_STALE = false ∧ (after (.pgCtrlEnable 0x120 2) s).on 0x120 R.PG_CTRL_FRZ = true ∧
     (after (.pageDrainDone 0x120) b).on 0x120 R.PG_STAT_BUSY = false ∧ (after (.pageDrainDone 0x120) b).on 0x120 R.PG_CTRL_EN = true) ∧
    (let s := device []
     s.elog.length < 16 ∧ (after (.pgInjWrite 0x000 1) s).elog = [⟨0, 7, 0⟩] ∧ (after (.pgInjWrite 0x120 3) s).rd 0x120 R.PG_INJ_INJ = 1) := by
  decide +kernel

/-- The link page has no injection that acts at once. -/
theorem witness_RegisterAndPageWritesAct_injection : (pageKind 0x120).hasHeader = true ∧ (device []).pageOn 0x120 = true ∧ ∀ t b, State.injectNow t 0x120 b = none :=
  ⟨by decide +kernel, by decide +kernel, fun _ _ => rfl⟩

/-- The stores hold a boot record with one region of 32 zero bytes, a key and a signature; signed outside the model, by the curve's own formulas. -/
def recorded (m r s : Nat) : State :=
  let bytes : List Byte := leBytes 4 m ++ ([1, 0, 1, 0] ++ leBytes 4 5) ++ zeros 40 ++ [32] ++ zeros 123 ++ Crypto.beBytes 32 Crypto.base.1 ++ Crypto.beBytes 32 Crypto.base.2 ++
    (Crypto.beBytes 32 r ++ Crypto.beBytes 32 s)
  { device [8] with boot := .verify 0, mem := (bytes.zipIdx.map fun b => (bootRecord + b.2, b.1)).filter fun c => c.2 ≠ 0 }

theorem witness_BootOtpAndErrorLogAct_verified :
    (recorded 0x42525348 0x7cf27b188d034f7e8a52380304b51ac3c08969e277f21b35a60b48fc47669978
      0x2433477bc509adc75a98a959c069229fafa121bc44cd1132bf0ad466a09dd06b).bootSigned = true := by
  decide +kernel

theorem witness_BootOtpAndErrorLogAct :
    (let s := fun b w => { (device []).setOtp 7 w with boot := b }
     (after .boot (s .start 0)).boot = .check ∧ (after .boot (s .start 1)).boot = .host ∧ after .boot (s .host 0) = s .host 0 ∧ after .boot (s .done 0) = s .done 0 ∧
     (s .host 0).domOn 2 = true ∧ (after .sysBootGo (s .host 0)).boot = .check ∧ after .sysBootGo (s .check 0) = s .check 0) ∧
    (let s := fun b r w => { (recorded 0x42525349 r 0).setOtp 7 w with boot := b }
     let c := s .check 0 8
     let v := s (.verify 0) 0 10
     (c.dom 8).going = none ∧ c.lifecycle < 2 ∧ c.bootLax = false ∧ leNat (c.bytes bootRecord 4) ≠ 0x42525348 ∧ (after .boot c).rd 0x000 R.SYS_BOOT_CAUSE = 1 ∧ (after .boot c).boot = .done ∧
     v.bootSigned = false ∧ v.bootLax = false ∧ (v.doms.all fun d => d.2.going = none) = true ∧ v.bootCogs = [] ∧ (after .boot v).rd 0x000 R.SYS_BOOT_CAUSE = 5 ∧ (after .boot v).boot = .host) ∧
    (let s := fun b => { withRegs (device []) [(0x000, R.SYS_OTPD_DATA, 6, 0)] with blow := b }
     (s none).otpAllowed 20 6 = true ∧ (s none).otpAllowed 3 6 = false ∧ (after (.otpBlow 20) (s none)).blow = some (20, 6) ∧ (after (.otpBlow 3) (s none)).on 0x000 R.SYS_OTPW_REJECT = true ∧
     (after (.otpBlow 20) (s (some (8, 1)))).blow = some (8, 1) ∧ after .otpBlowDone (s none) = s none ∧
     (after .otpBlowDone ((s (some (20, 6))).setOtp 20 3)).otp 20 = 7 ∧ (s (some (20, 6))).resetWaits = none) ∧
    (let s := { device [] with elog := [⟨1, 2, 3⟩, ⟨4, 5, 6⟩] }
     (after .elogPop s).elog = [⟨4, 5, 6⟩]) := by
  decide +kernel

theorem witness_RegisterAndPageWritesAct_host :
    (let s := device []
     let r : PmbReply := { nacks := 0, pecs := 0, value := 0 }
     let in_ := { s with perst := true }
     let out := { s with pcie := {} }
     (∀ e ∈ [Instr.registerWrite 0x120080 5 15 false r, .pageSoftReset 0x120 1, .pgCtrlEnable 0x120 0, .deviceReset 0x1D5, .otpBlow 0, .sysBootGo, .elogPop, .pgInjWrite 0x120 1],
       gives e in_ in_ ∧ gives e out { out with aer := 0x100000 }) ∧
     gives (.registerWrite 0x120080 5 15 false r true) s { s with aer := 0x40000 }) := by
  decide +kernel

theorem witness_RegisterAndPageWritesAct_forms :
    (let s := device [8, 64]
     let busy := s.wr 0x120 R.PG_STAT_BUSY 1
     let cog := fun c => { withRegs s [(0x300, R.PG_STAT_BUSY, 1, 0), (0x300, R.PG_CTRL_EN, 0, 0)] with cogs := [(0, c)] }
     (after (.pgCtrlEnable 0x120 4) s).on 0x120 R.PG_CTRL_SRST = true ∧ (after (.pgCtrlEnable 0x120 4) s).on 0x120 R.PG_STAT_EN_PENDING = true ∧ (after (.pgCtrlEnable 0x120 4) s).on 0x120 R.PG_CTRL_EN = false ∧
     (after (.pgCtrlEnable 0x120 0) busy).on 0x120 R.PG_STAT_EN_PENDING = true ∧ ((after (.pageSoftReset 0x300 0) { s with cogs := [(0, { run := .issuing, pc := 9 })] }).cog 0).run = .held ∧
     gives (.pageDrainDone 0x120) s s ∧ gives (.pageDrainDone 0x300) (cog { disabling := true, run := .issuing }) (cog { disabling := true, run := .issuing }) ∧
     (after (.pageDrainDone 0x300) (cog { disabling := true })).on 0x300 R.PG_STAT_BUSY = false ∧
     (let off := device []
      (after (.pgCtrlEnable 0x0C0 2) off).on 0x0C0 R.PG_CTRL_FRZ = true ∧ (after (.pgCtrlEnable 0x0C0 6) off).on 0x0C0 R.PG_CTRL_SRST = false ∧ gives (.pgInjWrite 0x0C0 1) off (off.logErr 0x0C0 1)) ∧
     gives (.pageSoftReset 0x041 1) s s ∧ gives (.pgCtrlEnable 0x041 1) s s ∧ gives (.pgInjWrite 0x041 1) s s) := by
  decide +kernel

theorem witness_BootOtpAndErrorLogAct_forms :
    (let s := fun b l w => { ((device [8]).setOtp 7 w).wr 0x000 R.SYS_LC_STATE l with boot := b }
     gives .boot (s .held 0 0) (s .held 0 0) ∧ (s .check 0 0).lifecycle < 2 ∧
     (let dead := s .check 3 0
      let ret := { s .check 2 0 with mem := [(0x2000000, 1), (0x5000000, 2)] }
      dead.lifecycle = 3 ∧ (after .boot dead).rd 0x000 R.SYS_BOOT_CAUSE = 6 ∧ ret.lifecycle = 2 ∧ (after .boot ret).mem = [(0x5000000, 2)] ∧ (after .boot ret).boot = .verify 0 ∧
      (after .boot { ret with erased := true }).mem = ret.mem) ∧
     (let c := { s .check 0 0 with doms := [(8, { st := .ret, going := some .on })] }
      c.changing 8 = true ∧ gives .boot c c) ∧
     (let lax := s (.verify 5) 0 0
      lax.bootLax = true ∧ lax.bootCogs = [] ∧ (after .boot lax).rd 0x000 R.SYS_BOOT_WARN = 1 ∧ (after .boot lax).rd 0x000 R.SYS_BOOT_STATE = 3) ∧
     (let b := { s .done 0 0 with blow := some (20, 6), resetWaits := some 3 }
      (after .otpBlowDone b).rd 0x000 R.SYS_RST_CAUSE = 3 ∧ (after .otpBlowDone b).resetWaits = none)) := by
  decide +kernel

end Sys2Proof.Tests
end

section
/-! PROOFS. The memory stays canonical through every command (R6, R7, R168). -/

namespace Sys2Proof.Machine

/-! ### The forms that a command's meaning takes -/

theorem State.Ok.of_keeps {s t : State} (hs : s.Ok) (k : t.tb = s.tb ∧ t.pending = s.pending ∧ t.mem = s.mem) : t.Ok := hs.of_mem k.2.2

theorem State.Ok.ite {c : Prop} [Decidable c] {u v : State} (hu : u.Ok) (hv : v.Ok) : (if c then u else v).Ok := ite_wf hu hv

theorem State.Ok.host {s : State} {f : State → State} (hs : s.Ok) (hf : (f s).Ok) : (s.host f).Ok := .ite hf (.ite hs hs)

theorem State.Ok.hostAt {s : State} {p : Nat} {f : State → State} (hs : s.Ok) (hf : (f s).Ok) : (s.hostAt p f).Ok :=
  hs.host (.ite hf (hs.of_keeps (State.logErr_keeps ..)))

theorem State.Ok.onTrigger {s : State} {i : Nat} {t : Trigger} {f : Nat → Width → State → State} (hs : s.Ok) (hf : ∀ v w, (f v w s).Ok) :
    (s.onTrigger i t f).Ok := State.onTrigger_wf _ _ _ _ hs hf

theorem State.Ok.withBus {s : State} {r : PmbReply} {f : State → State} (hs : s.Ok) (hf : ∀ t : State, t.Ok → (f t).Ok) : (s.withBus r f).Ok :=
  State.withBus_wf _ _ _ hf hs

/-- A trigger that only writes its cog: a store of the cog's own may still drain when its bundle completes. -/
theorem State.Ok.setCog_accepted {s : State} (hs : s.Ok) (i : Nat) (c : Cog) : ((s.setCog i c).accepted i).Ok :=
  State.accepted_wf _ _ _ (hs.of_mem (by simp))

theorem State.Ok.stackError {s : State} (hs : s.Ok) (i k a : Nat) : (s.stackError i k a).Ok := hs.of_keeps (State.stackError_keeps ..)

theorem State.Ok.stallCog {s : State} (hs : s.Ok) (i k : Nat) : (s.stallCog i k).Ok := hs.of_keeps (State.stallCog_keeps ..)

theorem State.Ok.readStack {s : State} (hs : s.Ok) (i a n : Nat) : (s.readStack i a n).2.2.Ok := hs.of_keeps (State.readStack_keeps ..)

theorem State.Ok.queueCmd {s : State} (hs : s.Ok) (q w0 : Nat) {f : State → State} (hf : ∀ t, (f t).mem = t.mem) : (s.queueCmd q w0 f).Ok :=
  hs.of_mem (State.queueCmd_keeps State.mem s q w0 f hf fun ch => (State.takeMsg_keeps s ch).2.2)

/-! ### The commands whose arm decides between more than one change -/

theorem execRet_ok (i : CogId) {s : State} (hs : s.Ok) : ∃ t, execRet i s = .next t ∧ t.Ok := by
  refine ⟨_, rfl, hs.onTrigger fun v w => ?_⟩
  dsimp only
  have h1 := hs.readStack i ((s.cog i).get Port.sp) 2
  have h2 : (if bit ((s.readStack i ((s.cog i).get Port.sp) 2).1.getD 1 0) 13 then
      (s.readStack i ((s.cog i).get Port.sp) 2).2.2.readStack i ((s.cog i).get Port.sp + 2) 1
      else ([], none, (s.readStack i ((s.cog i).get Port.sp) 2).2.2)).2.2.Ok := by
    split
    · exact h1.readStack ..
    · exact h1
  split
  · exact h2.stackError ..
  · exact .ite (h2.setCog_accepted ..) (h2.setCog_accepted ..)

theorem execLpRest_ok (i : CogId) {s : State} (hs : s.Ok) : ∃ t, execLpRest i s = .next t ∧ t.Ok := by
  refine ⟨_, rfl, hs.onTrigger fun v w => ?_⟩
  dsimp only
  split
  · exact (hs.readStack ..).stackError ..
  · exact (hs.readStack ..).setCog_accepted ..

theorem execChHzn_ok (i : CogId) {s : State} (hs : s.Ok) : ∃ t, execChHzn i s = .next t ∧ t.Ok := by
  refine ⟨_, rfl, hs.onTrigger fun v w => .ite (hs.stallCog ..) ?_⟩
  split
  · exact State.accepted_wf _ _ _ (hs.of_keeps (State.sendToken_keeps ..))
  · exact State.accepted_wf _ _ _ hs

theorem execLockLimitTimeout_ok (i : CogId) {s : State} (hs : s.Ok) : ∃ t, execLockLimitTimeout i s = .next t ∧ t.Ok := by
  refine ⟨_, rfl, ?_⟩
  dsimp only
  split
  · exact .ite (hs.of_mem (by simp)) hs
  · exact hs

theorem execLockStallTimeout_ok (i : CogId) {s : State} (hs : s.Ok) : ∃ t, execLockStallTimeout i s = .next t ∧ t.Ok := by
  refine ⟨_, rfl, ?_⟩
  dsimp only
  split
  · exact .ite (hs.of_mem (by simp)) hs
  · exact hs

theorem execSramScrub_ok (x : SramId) (w : BitVec 18) {s : State} (hs : s.Ok) : ∃ t, execSramScrub x w s = .next t ∧ t.Ok := by
  cases x with
  | loc i => exact ⟨_, rfl, .ite (hs.of_keeps (State.readLocal_keeps ..)) hs⟩
  | shared c => exact ⟨_, rfl, .ite (upTo_ok _ _ (fun t k ht => ht.of_keeps (State.readShared_keeps ..)) _ hs) hs⟩

theorem execMramScrub_ok (y : MramId) (line : BitVec 16) (last : Bool) {s : State} (hs : s.Ok) : ∃ t, execMramScrub y line last s = .next t ∧ t.Ok := by
  cases y <;> exact ⟨_, rfl, .ite (hs.of_mem (by simp [State.scrubGranule_keeps])) hs⟩

theorem execLossOfSignal_ok (n : Fin 16) (los : Bool) {s : State} (hs : s.Ok) : ∃ t, execLossOfSignal n los s = .next t ∧ t.Ok :=
  have h1 : (if los && s.pageOn (visPage n) then s.wr (visPage n) R.VIS_LINK_LOS 1 else s).Ok := .ite (hs.of_mem (by simp)) hs
  ⟨_, rfl, .ite (h1.of_mem (by simp)) h1⟩

theorem execVisionIdleRetention_ok (n : Fin 16) {s : State} (hs : s.Ok) : ∃ t, execVisionIdleRetention n s = .next t ∧ t.Ok :=
  ⟨_, rfl, .ite (.ite (hs.of_mem (by simp)) (hs.of_mem (by simp))) hs⟩

theorem execEvHclaim_ok (v : Fin 64) {s : State} (hs : s.Ok) : ∃ t, execEvHclaim v s = .next t ∧ t.Ok := by
  refine ⟨_, rfl, hs.host (hs.of_mem ?_)⟩
  dsimp only
  split
  · exact (State.hostClaim_keeps ..).2.2
  · rfl

theorem execDbgValRead_ok (i : CogId) {s : State} (hs : s.Ok) : ∃ t, execDbgValRead i s = .next t ∧ t.Ok :=
  ⟨_, rfl, hs.host (.ite (hs.of_mem (State.dbgRead_keeps s i).2.2) hs)⟩

/-! ### Every command, and the step -/

/-- Every command answers, and the memory of what it answers is canonical. -/
theorem exec_ok (c : Instr) {s : State} (hs : s.Ok) : ∃ t, exec c s = .next t ∧ t.Ok := by
  cases c with
  | bundle _ => exact ⟨_, rfl, State.issue_wf _ _ hs⟩
  | aluAdd _ _ | aluAdc _ _ | aluSub _ _ | aluAnd _ _ | aluOr _ _ | aluXor _ _ | aluLim _ _ => exact ⟨_, rfl, State.aluOp_wf _ _ _ _ hs⟩
  | shShl _ | shShr _ | shSar _ => exact ⟨_, rfl, State.shiftOp_wf _ _ _ _ hs⟩
  | macMul _ | macMac _ | macMsu _ | macLd _ => exact ⟨_, rfl, State.macOp_wf _ _ _ _ hs⟩
  | macRd _ | digCvt _ => exact ⟨_, rfl, hs.onTrigger fun _ _ => State.longStart_wf _ _ _ _ _ hs⟩
  | divS _ | divU _ => exact ⟨_, rfl, State.divOp_wf _ _ _ _ hs⟩
  | digAdd _ | digSub _ | digAdj _ => exact ⟨_, rfl, State.digOp_wf _ _ _ _ hs⟩
  | longLatencyResult _ _ | loadAnswer _ | prefetch _ | portStateChange _ | bankMismatch _ | bankMismatchEnd _ | relockTimeout _ | controlTimeout _
  | heartbeatPacket _ | eventPacket _ | chainIdleRetention _ | heartbeatLost _ => exact ⟨_, rfl, .ite (hs.of_mem (by simp)) hs⟩
  | agSet _ _ | agIdx _ _ | ldSet _ | br _ | lock _ | lpExit _ | chSel _ => exact ⟨_, rfl, hs.onTrigger fun _ _ => hs.setCog_accepted ..⟩
  | ldW _ | ldL _ | ldT _ | ldAg _ _ => exact ⟨_, rfl, State.loadOp_wf _ _ _ hs⟩
  | stW _ | stL _ | stT _ | stAg _ _ => exact ⟨_, rfl, State.storeOp_wf _ _ _ hs⟩
  | storeBufferDrain _ => exact ⟨_, rfl, .ite (State.tryFinish_wf _ _ (State.drainStore_wf _ _ hs)) hs⟩
  | call _ => exact ⟨_, rfl, hs.onTrigger fun _ _ => .ite (hs.stallCog ..) (hs.setCog_accepted ..)⟩
  | ret _ => exact execRet_ok _ hs
  | fence _ | fsync _ => exact ⟨_, rfl, State.fenceOp_wf _ _ _ _ hs⟩
  | lpLoop _ => exact ⟨_, rfl, hs.onTrigger fun _ _ => .ite (hs.setCog_accepted ..) (hs.setCog_accepted ..)⟩
  | lpSave i =>
    have h (a ws) : (s.saveWords i a ws).Ok := State.saveWords_wf _ _ _ _ hs
    exact ⟨_, rfl, hs.onTrigger fun _ _ => .ite ((h _ _).stallCog ..) (State.accepted_wf _ _ _ (h _ _))⟩
  | lpRest _ => exact execLpRest_ok _ hs
  | chSend _ | chSend4 _ => exact ⟨_, rfl, hs.onTrigger fun _ _ => State.cogSend_wf _ _ _ hs⟩
  | chHzn _ => exact execChHzn_ok _ hs
  | chRecv _ | chTry _ => exact ⟨_, rfl, State.receiveOp_wf _ _ _ hs⟩
  | tmNow _ => exact ⟨_, rfl, hs.onTrigger fun _ _ => State.tmNow_wf _ _ _ hs⟩
  | tmArm _ => exact ⟨_, rfl, hs.onTrigger fun _ _ => State.tmArm_wf _ _ _ hs⟩
  | tmKill _ => exact ⟨_, rfl, hs.onTrigger fun _ _ => State.tmKill_wf _ _ _ hs⟩
  | evClaim _ => exact ⟨_, rfl, hs.onTrigger fun _ _ => State.evClaim_wf _ _ hs⟩
  | evFin _ => exact ⟨_, rfl, hs.onTrigger fun _ _ => State.accepted_wf _ _ _ (hs.of_mem (by simp))⟩
  | pwWait _ => exact ⟨_, rfl, State.waitOp_wf _ _ hs⟩
  | dbgStim _ => exact ⟨_, rfl, State.stimOp_wf _ _ hs⟩
  | lineFetch _ => exact ⟨_, rfl, .ite (State.issue_wf _ _ (hs.of_keeps (State.fetchLine_keeps ..))) hs⟩
  | exceptionEntry _ => exact ⟨_, rfl, State.exceptionEntry_wf _ _ hs⟩
  | eventEntry _ => exact ⟨_, rfl, State.eventEntry_wf _ _ hs⟩
  | lockLimitTimeout _ => exact execLockLimitTimeout_ok _ hs
  | lockStallTimeout _ => exact execLockStallTimeout_ok _ hs
  | waitWake _ => exact ⟨_, rfl, hs.of_keeps (State.waitWake_keeps ..)⟩
  | cogKick _ => exact ⟨_, rfl, hs.hostAt (hs.of_keeps (State.wakeCog_keeps ..))⟩
  | cogDisable _ => exact ⟨_, rfl, hs.host (hs.of_keeps (State.pageDisable_keeps ..))⟩
  | repairGo _ _ => exact ⟨_, rfl, hs.hostAt (hs.of_keeps (State.repairGo_keeps ..))⟩
  | bar2Write _ _ _ _ =>
    exact ⟨_, rfl, hs.host (.ite (hs.of_keeps (State.malformedTlp_keeps ..)) (.ite (hs.of_keeps (State.poisonedTlp_keeps ..)) (State.bar2Put_wf _ _ hs)))⟩
  | bar2Read _ _ => exact ⟨_, rfl, hs.host (hs.of_mem (State.bar2Get_keeps ..).2.2)⟩
  | correctedWriteBack _ => exact ⟨_, rfl, .ite (.ite hs hs) hs⟩
  | sramScrub _ _ => exact execSramScrub_ok _ _ hs
  | mramScrub _ _ _ => exact execMramScrub_ok _ _ _ hs
  | commitPass _ => exact ⟨_, rfl, State.commitPass_wf _ _ hs⟩
  | camTableScan _ => exact ⟨_, rfl, hs.of_keeps (State.tableScan_keeps ..)⟩
  | messageArrival _ _ => exact ⟨_, rfl, hs.of_keeps (State.messageArrival_keeps ..)⟩
  | mergeDeliverable _ => exact ⟨_, rfl, .ite (State.wakeReceivers_wf _ _ hs) hs⟩
  | creditReturn _ _ => exact ⟨_, rfl, hs.of_keeps (State.creditReturn_keeps ..)⟩
  | horizonTokenArrival _ _ => exact ⟨_, rfl, hs.of_keeps (State.tokenArrival_keeps ..)⟩
  | automaticToken _ _ _ => exact ⟨_, rfl, hs.of_keeps (State.autoToken_keeps ..)⟩
  | horizonStall _ => exact ⟨_, rfl, hs.of_keeps (State.horizonStall_keeps ..)⟩
  | fabCmdRetire _ _ | fabCmdRestore _ _ | fabCmdFlush _ _ => exact ⟨_, rfl, hs.hostAt (hs.of_keeps (State.fabCmd_keeps ..))⟩
  | channelEnable _ | channelDisable _ => exact ⟨_, rfl, hs.hostAt (State.writeChLo_wf _ _ hs)⟩
  | channelDrainDone _ => exact ⟨_, rfl, hs.of_keeps (State.chDrained_keeps ..)⟩
  | setMemberWrite _ => exact ⟨_, rfl, hs.hostAt (hs.of_keeps (State.writeSetMbr_keeps ..))⟩
  | queuePush _ => exact ⟨_, rfl, hs.of_keeps (State.queuePush_keeps ..)⟩
  | queuePushResume _ => exact ⟨_, rfl, hs.of_keeps (State.queueResume_keeps ..)⟩
  | queueTimeout _ => exact ⟨_, rfl, hs.of_keeps (State.queueTimeout_keeps ..)⟩
  | qcmdPop _ | qcmdDrop _ | qcmdFlush _ => exact ⟨_, rfl, hs.hostAt (hs.of_keeps (State.writeQcmd_keeps ..))⟩
  | qpush _ _ _ => exact ⟨_, rfl, hs.hostAt (hs.of_keeps (State.hostPush_keeps ..))⟩
  | queueQuadSend _ => exact ⟨_, rfl, hs.of_keeps (State.quadSend_keeps ..)⟩
  | queueCmdDrop _ | queueCmdFlush _ => exact ⟨_, rfl, hs.queueCmd _ _ fun t => by split <;> simp⟩
  | queueEnable _ _ => exact ⟨_, rfl, hs.hostAt (hs.of_keeps (State.writeQcfg_keeps ..))⟩
  | timerefLoss => exact ⟨_, rfl, hs.of_keeps (State.timerefLoss_keeps ..)⟩
  | pllRelock _ => exact ⟨_, rfl, .ite (hs.of_keeps (State.pllRelock_keeps ..)) (hs.of_keeps (State.refBack_keeps ..))⟩
  | slewEnd => exact ⟨_, rfl, hs.of_keeps (State.slewEnd_keeps ..)⟩
  | tbAdjGo _ => exact ⟨_, rfl, hs.hostAt (hs.of_keeps (State.tbAdjGo_keeps ..))⟩
  | tbNowRead => exact ⟨_, rfl, hs.host (hs.of_keeps (State.tbNowRead_keeps ..))⟩
  | cadenceEnable _ _ | cadenceDisable _ _ => exact ⟨_, rfl, hs.hostAt (hs.of_keeps (State.writeCadCtrl_keeps ..))⟩
  | cadPosRead _ => exact ⟨_, rfl, hs.host (.ite (hs.of_keeps (State.cadPosRead_keeps ..)) hs)⟩
  | trim _ | rate _ | ptSel _ | ptM _ | ptY _ | ptK _ | flip _ | couple _ | free _ | shift _ | syncEdge _ =>
    exact ⟨_, rfl, hs.of_keeps (State.cadCommand_keeps ..)⟩
  | cadenceBoundary _ => exact ⟨_, rfl, hs.of_keeps (State.cadBoundary_keeps ..)⟩
  | notice _ => exact ⟨_, rfl, hs.of_keeps (State.sendNotice_keeps ..)⟩
  | camEvaluation _ _ => exact ⟨_, rfl, State.camEvaluation_wf _ _ _ hs⟩
  | tableEnable _ | tableDisable _ => exact ⟨_, rfl, hs.hostAt (hs.of_keeps (State.writeTblA_keeps ..))⟩
  | axisEnable _ _ => exact ⟨_, rfl, hs.hostAt (hs.of_keeps (State.writeAxBind_keeps ..))⟩
  | releaseMarker _ _ | releasePinEdge _ _ | releasePwmDutyLoad _ _ | releaseChainCommit _ _ | releaseMessage _ _ | strobeOpenWindow _ _
  | strobeCloseWindow _ _ | strobeLatchEncoder _ _ | strobeStartSsi _ _ => exact ⟨_, rfl, hs.of_keeps (State.releaseIf_keeps ..)⟩
  | pulseEnd _ => exact ⟨_, rfl, hs.of_keeps (State.pulseEnd_keeps ..)⟩
  | relKill _ _ => exact ⟨_, rfl, hs.hostAt (hs.of_keeps (State.writeRelIdx_keeps ..))⟩
  | fioSafeClr => exact ⟨_, rfl, hs.hostAt (hs.of_keeps (State.safeClear_keeps ..))⟩
  | pinEdgeCapture _ _ => exact ⟨_, rfl, hs.of_keeps (State.pinEdge_keeps ..)⟩
  | phaseWindowOpen _ => exact ⟨_, rfl, hs.of_keeps (State.phaseOpen_keeps ..)⟩
  | phaseWindowClose _ => exact ⟨_, rfl, hs.of_keeps (State.phaseClose_keeps ..)⟩
  | encoderTransition _ _ _ => exact ⟨_, rfl, hs.of_keeps (State.encTransition_keeps ..)⟩
  | encoderPeriodicLatch _ => exact ⟨_, rfl, hs.of_keeps (State.encPeriodic_keeps ..)⟩
  | encoderZLatch _ => exact ⟨_, rfl, hs.of_keeps (State.encZ_keeps ..)⟩
  | ssiFrameEnd _ _ => exact ⟨_, rfl, hs.of_keeps (State.ssiEnd_keeps ..)⟩
  | pwmPeriodStart _ => exact ⟨_, rfl, hs.of_keeps (State.pwmPeriodStart_keeps ..)⟩
  | pwmFall _ => exact ⟨_, rfl, hs.of_keeps (State.pwmFall_keeps ..)⟩
  | laneEnable _ _ | laneRateWrite _ _ => exact ⟨_, rfl, hs.hostAt (hs.of_keeps (State.writeVisLink_keeps ..))⟩
  | laneLock _ => exact ⟨_, rfl, hs.of_keeps (State.laneLock_keeps ..)⟩
  | lossOfSignal _ _ => exact execLossOfSignal_ok _ _ hs
  | controlCommandGo _ _ => exact ⟨_, rfl, hs.hostAt (hs.of_keeps (State.writeVisCtl_keeps ..))⟩
  | controlAck _ _ _ _ _ => exact ⟨_, rfl, hs.of_keeps (State.ctlAck_keeps ..)⟩
  | lineTrigger _ => exact ⟨_, rfl, hs.of_keeps (State.lineTrigger_keeps ..)⟩
  | lineComplete _ _ _ _ _ _ _ _ _ _ => exact ⟨_, rfl, State.lineComplete_wf _ _ _ _ hs⟩
  | triggerAbandon _ => exact ⟨_, rfl, State.triggerAbandon_wf _ _ hs⟩
  | lostReport _ => exact ⟨_, rfl, hs.of_keeps (State.lostTimer_keeps ..)⟩
  | findingSend _ => exact ⟨_, rfl, hs.of_keeps (State.findingSend_keeps ..)⟩
  | visionIdleRetention _ => exact execVisionIdleRetention_ok _ hs
  | visWake _ => exact ⟨_, rfl, hs.host (.ite (hs.of_keeps (State.logErr_keeps ..)) (hs.of_keeps (State.startWake_keeps ..)))⟩
  | freezeArm _ _ => exact ⟨_, rfl, hs.hostAt (hs.of_keeps (State.writeVisFrz_keeps ..))⟩
  | imageRead _ _ => exact ⟨_, rfl, hs.of_keeps (State.imageRead_keeps ..)⟩
  | chainCycleStart _ => exact ⟨_, rfl, hs.of_keeps (State.cycleBegin_keeps ..)⟩
  | cyclicFrameReturn _ _ _ => exact ⟨_, rfl, hs.of_keeps (State.cyclicReturn_keeps ..)⟩
  | ringBreakTimeout _ => exact ⟨_, rfl, hs.of_keeps (State.ringTimeout_keeps ..)⟩
  | feedbackDeadline _ => exact ⟨_, rfl, hs.of_keeps (State.feedbackDeadline_keeps ..)⟩
  | bulkFrameReturn _ _ => exact ⟨_, rfl, hs.of_keeps (State.bulkReturn_keeps ..)⟩
  | parameterRequest _ _ => exact ⟨_, rfl, hs.hostAt (hs.of_keeps (State.parRequest_keeps ..))⟩
  | parameterTimeout _ => exact ⟨_, rfl, hs.of_keeps (State.parTimeout_keeps ..)⟩
  | portRequest _ _ => exact ⟨_, rfl, hs.hostAt (hs.of_keeps (State.portRequest_keeps ..))⟩
  | chnWake _ | chnEnumerate _ | chnMeasure _ | chnRejoin _ => exact ⟨_, rfl, hs.hostAt (hs.of_keeps (State.chnCommand_keeps ..))⟩
  | chnCmdDone _ _ _ => exact ⟨_, rfl, hs.of_keeps (State.chnCmdDone_keeps ..)⟩
  | mailboxSend _ _ => exact ⟨_, rfl, hs.hostAt (hs.of_keeps (State.mailboxSend_keeps ..))⟩
  | groupReceive _ _ _ _ _ _ => exact ⟨_, rfl, hs.of_keeps (State.groupReceive_keeps ..)⟩
  | timeBlockSend _ => exact ⟨_, rfl, hs.of_keeps (State.timeBlockSend_keeps ..)⟩
  | timeBlockReceive _ _ _ _ _ _ _ => exact ⟨_, rfl, hs.of_keeps (State.timeBlockReceive_keeps ..)⟩
  | lockAcquire => exact ⟨_, rfl, hs.of_keeps (State.lockAcquire_keeps ..)⟩
  | timeBlockTimeout => exact ⟨_, rfl, hs.of_keeps (State.timeBlockTimeout_keeps ..)⟩
  | tandemPortDown _ _ => exact ⟨_, rfl, hs.of_keeps (State.portDown_keeps ..)⟩
  | tandemPortUp _ _ _ => exact ⟨_, rfl, hs.of_keeps (State.portUp_keeps ..)⟩
  | spanMaskWrite _ _ =>
    have h (d m) : (s.spanMaskWrite d m).Ok := hs.of_keeps (State.spanMaskWrite_keeps ..)
    exact ⟨_, rfl, .ite (h _ _) (hs.hostAt (h _ _))⟩
  | spanRecord _ => exact ⟨_, rfl, hs.of_keeps (State.spanRecord_keeps ..)⟩
  | mvGo _ | mvStop _ | mvClr _ => exact ⟨_, rfl, hs.hostAt (hs.of_keeps (State.writeMvCtrl_keeps ..))⟩
  | mvEnable _ _ => exact ⟨_, rfl, hs.hostAt (hs.of_keeps (State.writeMvCfg_keeps ..))⟩
  | descriptorFetch _ _ | readBack _ _ _ => exact ⟨_, rfl, hs.of_mem (by simp)⟩
  | moverBeat _ _ _ _ _ => exact ⟨_, rfl, State.moverBeat_wf _ _ _ _ _ _ hs⟩
  | eventRaise _ => exact ⟨_, rfl, hs.of_keeps (State.eventRaise_keeps ..)⟩
  | groupTimeLimit _ => exact ⟨_, rfl, hs.of_keeps (State.groupTime_keeps ..)⟩
  | eventSourceConfig _ => exact ⟨_, rfl, hs.hostAt (hs.of_keeps (State.writeSrcCfg_keeps ..))⟩
  | evHclaim _ => exact execEvHclaim_ok _ hs
  | evHfin _ => exact ⟨_, rfl, hs.hostAt (hs.of_keeps (State.hostFinish_keeps ..))⟩
  | evSw _ => exact ⟨_, rfl, hs.hostAt (hs.of_keeps (State.writeEvSw_keeps ..))⟩
  | pgEvtPendClear _ _ => exact ⟨_, rfl, .ite (hs.hostAt (hs.of_keeps (State.pendClear_keeps ..))) hs⟩
  | journalRecordWrite => exact ⟨_, rfl, State.recordWrite_wf _ hs⟩
  | digestIntervalEnd => exact ⟨_, rfl, hs.of_keeps (State.digestEnd_keeps ..)⟩
  | journalEnable _ | journalDisable _ | journalMark _ => exact ⟨_, rfl, hs.hostAt (hs.of_keeps (State.writeJrnCtrl_keeps ..))⟩
  | jrnTrigEdge _ | wakePin _ _ => exact ⟨_, rfl, hs.of_keeps (State.inputChange_keeps ..)⟩
  | snapshot _ => exact ⟨_, rfl, hs.of_keeps (State.snapshot_keeps ..)⟩
  | replayEnable _ | replayGo _ => exact ⟨_, rfl, hs.hostAt (hs.of_keeps (State.writeJrnRpl_keeps ..))⟩
  | replayRecord _ _ => exact ⟨_, rfl, hs.of_keeps (State.replayRecord_keeps ..)⟩
  | replayDigestCompare => exact ⟨_, rfl, hs.of_keeps (State.digestCompare_keeps ..)⟩
  | domainRequest _ _ => exact ⟨_, rfl, hs.host (hs.of_keeps (State.domainRequest_keeps ..))⟩
  | domainEntry _ _ => exact ⟨_, rfl, State.domainEntry_wf _ _ (hs.of_mem (by simp))⟩
  | domainWake _ => exact ⟨_, rfl, hs.of_keeps (State.domainWake_keeps ..)⟩
  | domainRestore _ => exact ⟨_, rfl, hs.of_keeps (State.domainRestore_keeps ..)⟩
  | restoreFail _ => exact ⟨_, rfl, State.restoreFail_wf _ _ hs⟩
  | pwrAlarm => exact ⟨_, rfl, hs.of_keeps (State.powerAlarm_keeps ..)⟩
  | idleRule _ => exact ⟨_, rfl, hs.of_keeps (State.idleRule_keeps ..)⟩
  | pwrKick _ => exact ⟨_, rfl, hs.host (hs.of_keeps (State.wakeCog_keeps ..))⟩
  | governorPeriod _ _ => exact ⟨_, rfl, hs.withBus fun t ht => ht.of_keeps (State.governorPeriod_keeps ..)⟩
  | readVout _ _ => exact ⟨_, rfl, hs.withBus fun t ht => State.readVout_wf _ _ _ ht⟩
  | govSetWrite _ _ _ => exact ⟨_, rfl, hs.hostAt (hs.withBus fun t ht => ht.of_keeps (State.writeGovSet_keeps ..))⟩
  | pmbusAlert _ _ _ => exact ⟨_, rfl, hs.of_keeps (State.pmbAlert_keeps ..)⟩
  | vcogUndervoltage _ | vcogRecover _ => exact ⟨_, rfl, hs.of_mem (by simp)⟩
  | tempConversion _ _ => exact ⟨_, rfl, hs.of_keeps (State.tempConversion_keeps ..)⟩
  | railSample _ _ => exact ⟨_, rfl, State.railSample_wf _ _ _ hs⟩
  | srefLoss => exact ⟨_, rfl, hs.of_keeps (State.srefLoss_keeps ..)⟩
  | watchdogWarning _ => exact ⟨_, rfl, hs.of_keeps (State.wdtReachWarn_keeps ..)⟩
  | watchdogExpiry _ => exact ⟨_, rfl, hs.of_keeps (State.wdtReachZero_keeps ..)⟩
  | watchdogKick _ => exact ⟨_, rfl, hs.hostAt (hs.of_keeps (State.wdtRestart_keeps ..))⟩
  | brakeIn => exact ⟨_, rfl, hs.of_keeps (State.brakeIn_keeps ..)⟩
  | hltBrakeSet | hltBrakeClr => exact ⟨_, rfl, hs.hostAt (hs.of_keeps (State.writeHltBrake_keeps ..))⟩
  | twoWireRead _ | twoWireReadIncrement _ | auReq _ _ | auChk _ _ | auDrop _ _ | attachWrite _ _ =>
    exact ⟨_, rfl, State.dauTransfer_wf _ _ _ _ _ _ hs⟩
  | twoWireWrite _ _ _ _ | twoWireWriteIncrement _ _ _ _ => exact ⟨_, rfl, State.twoWireWrite_wf _ _ _ _ _ _ hs⟩
  | lineReset => exact ⟨_, rfl, hs⟩
  | daDataAccess _ data _ => cases data <;> exact ⟨_, rfl, State.dauTransfer_wf _ _ _ _ _ _ hs⟩
  | idcode | samplePreload _ => exact ⟨_, rfl, hs.of_keeps (State.tapSelect_keeps ..)⟩
  | bypass | trst => exact ⟨_, rfl, hs.of_keeps (State.tapSelect_keeps ..)⟩
  | extest _ => exact ⟨_, rfl, .ite (hs.of_mem (by simp)) (hs.of_keeps (State.tapSelect_keeps ..))⟩
  | dau _ _ _ _ => exact ⟨_, rfl, State.dauTransfer_wf _ _ _ _ _ _ (hs.of_keeps (State.tapSelect_keeps ..))⟩
  | nonceReady _ _ => exact ⟨_, rfl, hs.of_keeps (State.nonceReady_keeps ..)⟩
  | authCheckDone _ => exact ⟨_, rfl, hs.of_keeps (State.auDone_keeps ..)⟩
  | cogHalt _ _ | cogResume _ _ | cogStep _ _ => exact ⟨_, rfl, hs.hostAt (State.writeCogDbg_wf _ _ _ hs)⟩
  | dbgValWrite _ _ | dbgValHiWrite _ _ => exact ⟨_, rfl, hs.hostAt (hs.of_mem (by simp))⟩
  | dbgValRead _ => exact execDbgValRead_ok _ hs
  | pelotonGo _ _ | pelotonResume _ _ => exact ⟨_, rfl, hs.hostAt (State.writePelCfg_wf _ _ _ hs)⟩
  | benchWrite port en =>
    have h : (s.busWrite 0x30044 (b2n en) noReply (some port)).2.Ok := State.busWrite_wf _ _ _ _ _ hs
    exact ⟨_, rfl, .ite (hs.of_mem (by simp)) (h.of_mem (by simp))⟩
  | trcPop _ => exact ⟨_, rfl, hs.hostAt (hs.of_keeps (State.tracePop_keeps ..))⟩
  | powerOnReset _ _ => exact ⟨_, rfl, State.powerOn_wf _ _ _ (State.mramWrite_wf _ _ hs)⟩
  | deviceReset _ => exact ⟨_, rfl, hs.hostAt (.ite (State.requestReset_wf _ _ hs) hs)⟩
  | perst => exact ⟨_, rfl, .ite (State.requestReset_wf _ _ hs) (hs.of_keeps (State.pcieReset_keeps ..))⟩
  | pageSoftReset _ _ | pgCtrlEnable _ _ => exact ⟨_, rfl, hs.host (.ite (hs.of_keeps (State.writePgCtrl_keeps ..)) hs)⟩
  | boot => exact ⟨_, rfl, State.bootStep_wf _ hs⟩
  | sysBootGo => exact ⟨_, rfl, hs.hostAt (hs.of_keeps (State.bootGo_keeps ..))⟩
  | otpBlow _ => exact ⟨_, rfl, hs.hostAt (hs.of_keeps (State.writeOtpw_keeps ..))⟩
  | otpBlowDone => exact ⟨_, rfl, State.otpDone_wf _ hs⟩
  | elogPop => exact ⟨_, rfl, hs.hostAt (hs.of_keeps (State.writeElog_keeps ..))⟩
  | pgInjWrite _ _ _ => exact ⟨_, rfl, .ite (hs.hostAt (State.writePgInj_wf _ _ _ _ hs)) hs⟩
  | registerWrite _ _ _ _ _ _ =>
    exact ⟨_, rfl, hs.host (.ite (hs.of_keeps (State.malformedTlp_keeps ..)) (.ite hs (.ite (hs.of_keeps (State.poisonedTlp_keeps ..))
      (.ite (hs.of_keeps (State.logErr_keeps ..)) (State.busWrite_wf _ _ _ _ _ hs)))))⟩
  | pageDrainDone _ => exact ⟨_, rfl, hs.of_keeps (State.drainDone_keeps ..)⟩
  | vcogOvervoltage _ => exact ⟨_, rfl, hs.of_keeps (State.pgEvt_keeps ..)⟩
  | brakeInRelease => exact ⟨_, rfl, hs.of_mem (State.wr_frame ..).2.1⟩
  | powerLoss _ _ => exact ⟨_, rfl, State.powerOn_wf _ _ _ (State.mramCut_wf _ hs)⟩
  | pcieLinkDown => exact ⟨_, rfl, hs.of_mem (by simp)⟩
  | pcieLinkUp _ _ _ _ _ => exact ⟨_, rfl, .ite hs (hs.of_mem (by simp))⟩

/-- Settles O3: one case for each command, each by the law of the operation that it calls; an empty queue by the tick's. -/
theorem everyStepKeepsMemoryCanonical : Obligations.EveryStepKeepsMemoryCanonical := by
  intro s t hs ht
  unfold step at ht
  split at ht
  · cases ht
    exact State.tick_wf s hs
  · next c rest hp =>
    obtain ⟨u, hu, hok⟩ := exec_ok c (s := { s with pending := rest }) hs
    rw [hu] at ht
    cases ht
    exact hok

end Sys2Proof.Machine
end

section
/-! PROOFS. Host accesses to the stores through BAR2 (R7, R168, R169, R173, R363, R364). -/

namespace Sys2Proof.Machine

/-! ### What a report of an event or of an error leaves -/

section
variable {γ : Type} {g : State → γ} (hr : ∀ (t : State) (a : Nat) (v : Reg), g (t.setReg a v) = g t) (hx : ∀ (t : State) (x : Sparse Nat), g { t with xing := x } = g t)
include hr hx

omit hr in
/-- A report moves nothing but registers and the raises on their way, so it keeps every part of the state that these do not show. -/
theorem State.cross_part (s : State) (n : Nat) : g (s.cross n) = g s := ite_keeps g rfl (hx ..)

theorem State.reportCrossing_part (s : State) (p b n : Nat) : g (s.reportCrossing p b n) = g s :=
  ite_keeps g (ite_keeps g ((State.cross_part hx ..).trans (hr ..)) (hr ..)) rfl

theorem State.raise_part (s : State) (n : Nat) : g (s.raise n) = g s := by
  refine ite_keeps g rfl (ite_keeps g ?_ (State.cross_part hx ..))
  rw [State.reportCrossing_part hr hx, State.reportCrossing_part hr hx]
  exact (hr ..).trans ((hr ..).trans (hr ..))

theorem State.pgEvt_part (s : State) (p b : Nat) : g (s.pgEvt p b) = g s := by
  refine ite_keeps g ?_ rfl
  dsimp only
  split
  · exact (State.raise_part hr hx ..).trans (hr ..)
  · exact hr ..

theorem State.logErr_part (he : ∀ (t : State) (l : List ElogEntry), g { t with elog := l } = g t) (s : State) (a k : Nat) : g (s.logErr a k) = g s :=
  ite_keeps g ((State.pgEvt_part hr hx ..).trans (he ..)) (hr ..)
end

/-- The error log takes the entry while it has room (R514). -/
theorem State.logErr_elog (s : State) (a k : Nat) (h : s.elog.length < 16) : (s.logErr a k).elog = s.elog ++ [⟨a, k, s.now⟩] := by
  unfold State.logErr
  rw [if_pos h, State.pgEvt_part (g := State.elog) (fun _ _ _ => rfl) fun _ _ => rfl]

theorem State.windowOn_logErr (s : State) (a k : Nat) (w : Window) : (s.logErr a k).windowOn w = s.windowOn w :=
  State.logErr_part (g := fun t => t.windowOn w) (fun _ _ _ => rfl) (fun _ _ => rfl) (fun _ _ => rfl) s a k

/-! ### Bytes and words -/

theorem State.byte_of_mem {s t : State} (h : t.mem = s.mem) (x : Nat) : t.byte x = s.byte x := congrArg (lookD · x 0) h

theorem State.byte_setByte {s : State} (hs : s.Ok) (a x : Nat) (b : Byte) : (s.setByte a b).byte x = if a = x then b else s.byte x :=
  lookD_memPut s.mem a x b hs

theorem State.byte_setWord {s : State} (hs : s.Ok) (a x : Nat) (w : Word) :
    (s.setWord a w).byte x = if a + 1 = x then BitVec.ofNat 8 (w.toNat / 256) else if a = x then BitVec.ofNat 8 w.toNat else s.byte x := by
  unfold State.setWord
  rw [State.byte_setByte (State.setByte_wf _ _ _ hs), State.byte_setByte hs]

/-- A word read back where it was written. -/
theorem State.word_setWord {s : State} (hs : s.Ok) (a : Nat) (w : Word) : (s.setWord a w).word a = w := by
  unfold State.word
  rw [State.byte_setWord hs, State.byte_setWord hs, if_neg (by omega), if_pos rfl, if_pos rfl]
  apply BitVec.eq_of_toNat_eq
  simp only [BitVec.toNat_ofNat]
  omega

theorem State.byte_logErr (s : State) (a k x : Nat) : (s.logErr a k).byte x = s.byte x := State.byte_of_mem (State.logErr_keeps ..).2.2 x

/-! ### One container of a local or shared store -/

/-- The addresses of the local and shared stores (R168). -/
def sramAddr (a : Nat) : Prop := a < 0x880000 ∨ (0x1000000 ≤ a ∧ a < 0x1800000)

/-- Both bytes of a container lie in one store (R7). -/
theorem windowOf_container {a : Nat} (ha : a % 2 = 0) (h : sramAddr a) :
    (∃ i o, windowOf a = .loc i o ∧ windowOf (a + 1) = .loc i (o + 1)) ∨ (∃ c o, windowOf a = .shared c o ∧ windowOf (a + 1) = .shared c (o + 1)) := by
  unfold windowOf
  rcases h with h | h
  · refine .inl ⟨a / 0x8000, a % 0x8000, if_pos h, ?_⟩
    rw [if_pos (by omega), Window.loc.injEq]
    omega
  · refine .inr ⟨(a - 0x1000000) / 0x80000, a % 0x80000, ?_, ?_⟩
    · rw [if_neg (by omega), if_pos h]
    · rw [if_neg (by omega), if_pos (by omega), Window.shared.injEq]
      omega

/-- The boot engine guards places in the MRAMs only (R505, R508). -/
theorem State.bootGuards_below (s : State) {a : Nat} (h : a < 0x2000000) : s.bootGuards a = false := by
  have hrec : ¬ (bootRecord ≤ a ∧ a < bootRecord + 304) := by unfold bootRecord; omega
  have hareas (r : Nat × Nat × Nat) : decide (progBase r.1 + r.2.1 ≤ a ∧ a < progBase r.1 + r.2.1 + r.2.2) = false :=
    decide_eq_false (by unfold progBase; omega)
  unfold State.bootGuards
  simp only [hrec, hareas, decide_false, Bool.false_or, List.any_eq_false.2 fun _ _ => Bool.false_ne_true, Bool.and_false]

theorem containersOf_pair {a : Nat} (ha : a % 2 = 0) (lo hi : Byte) : containersOf [(a, lo), (a + 1, hi)] = [a] := by
  have h1 : a / 2 * 2 = a := by omega
  have h2 : (a + 1) / 2 * 2 = a := by omega
  simp [containersOf, h1, h2, sortNat, sortBy, insertBy]

theorem byteFor_pair (a : Nat) (lo hi : Byte) : byteFor [(a, lo), (a + 1, hi)] a = some lo ∧ byteFor [(a, lo), (a + 1, hi)] (a + 1) = some hi := by
  simp [byteFor]

/-- Both bytes of a container of a local or shared store that is on are one write of the container (R169). -/
theorem State.bar2Put_container (s : State) {a : Nat} (ha : a % 2 = 0) (h : sramAddr a) (hon : s.windowOn (windowOf a) = true) (lo hi : Byte) :
    s.bar2Put [(a, lo), (a + 1, hi)] = s.writeContainer a (some lo) (some hi) := by
  have hg : s.bootGuards a = false ∧ s.bootGuards (a + 1) = false := by
    unfold sramAddr at h
    exact ⟨s.bootGuards_below (by omega), s.bootGuards_below (by omega)⟩
  unfold State.bar2Put
  rcases windowOf_container ha h with ⟨i, o, e, e1⟩ | ⟨c, o, e, e1⟩ <;> rw [e] at hon
  · have hon1 : s.windowOn (.loc i (o + 1)) = true := hon
    simp [hg, hon, hon1, e, e1, State.mramStore, State.mramWrite, containersOf_pair ha, byteFor_pair]
  · have hon1 : s.windowOn (.shared c (o + 1)) = true := hon
    simp [hg, hon, hon1, e, e1, State.mramStore, State.mramWrite, containersOf_pair ha, byteFor_pair]

theorem State.pgErr_out (s : State) (p : Nat) : (s.pgErr p).out = s.out := by
  unfold State.pgErr
  dsimp only
  split <;> rfl

theorem State.hostWordCount_out (s : State) (w : Window) : (s.hostWordCount w false).out = s.out := by
  cases w with
  | vis n o => exact s.pgErr_out _
  | _ => rfl

theorem State.setWord_mem {s t : State} (h : t.mem = s.mem) (a : Nat) (w : Word) : (t.setWord a w).mem = (s.setWord a w).mem := by
  simp only [State.setWord, State.setByte, h]

/-- A full write of a container of a local or shared store sets its word, the two high bits dropped (R7). -/
theorem State.writeContainer_full (s : State) {a : Nat} (ha : a % 2 = 0) (h : sramAddr a) (lo hi : Byte) :
    (s.writeContainer a (some lo) (some hi)).mem = (s.setWord a (BitVec.ofNat 14 (lo.toNat + 256 * (hi.toNat % 64)))).mem ∧
      (s.writeContainer a (some lo) (some hi)).tb = s.tb ∧ (s.writeContainer a (some lo) (some hi)).out = s.out := by
  have hcount (w : Window) : let u := if 64 ≤ hi.toNat then s.hostWordCount w false else s
      u.mem = s.mem ∧ u.tb = s.tb ∧ u.out = s.out := by
    dsimp only
    split
    · exact ⟨(State.hostWordCount_keeps ..).2.2, (State.hostWordCount_keeps ..).1, s.hostWordCount_out w⟩
    · exact ⟨rfl, rfl, rfl⟩
  unfold State.writeContainer
  rcases windowOf_container ha h with ⟨i, o, e, -⟩ | ⟨c, o, e, -⟩ <;> rw [e]
  · obtain ⟨hmem, htb, hout⟩ := hcount (.loc i o)
    exact ⟨State.setWord_mem hmem .., htb, hout⟩
  · obtain ⟨hmem, htb, hout⟩ := hcount (.shared c o)
    exact ⟨State.setWord_mem hmem .., htb, hout⟩

/-! ### The commands -/

theorem State.host_reached {s : State} (h : s.hostReaches = true) (f : State → State) : s.host f = f s := if_pos h

theorem bar2Write_lands {s : State} (hs : s.Ok) (hr : s.hostReaches = true) (a : BitVec 29) (ha : a.toNat % 2 = 0) (h : sramAddr a.toNat)
    (hon : s.windowOn (windowOf a.toNat) = true) (lo hi : Byte) :
    ∃ t, exec (.bar2Write a [(true, lo), (true, hi)] false) s = .next t ∧ t.word a.toNat = BitVec.ofNat 14 (lo.toNat + 256 * (hi.toNat % 64)) ∧
      (∀ x, x ≠ a.toNat → x ≠ a.toNat + 1 → t.byte x = s.byte x) ∧ t.tb = s.tb ∧ t.out = s.out := by
  obtain ⟨hmem, htb, hout⟩ := s.writeContainer_full ha h lo hi
  have hrun : exec (.bar2Write a [(true, lo), (true, hi)] false) s = .next (s.writeContainer a.toNat (some lo) (some hi)) :=
    congrArg Host.Outcome.next ((s.host_reached hr _).trans (s.bar2Put_container ha h hon lo hi))
  refine ⟨_, hrun, ?_, fun x h0 h1 => ?_, htb, hout⟩
  · unfold State.word
    rw [State.byte_of_mem hmem, State.byte_of_mem hmem]
    exact State.word_setWord hs ..
  · rw [State.byte_of_mem hmem, State.byte_setWord hs, if_neg (Ne.symm h1), if_neg (Ne.symm h0)]

theorem bar2Write_poisoned {s : State} (hr : s.hostReaches = true) (a : BitVec 29) (bytes : List (Bool × Byte)) :
    ∃ t, exec (.bar2Write a bytes true) s = .next t ∧ (∀ x, t.byte x = s.byte x) ∧ (s.elog.length < 16 → t.elog = s.elog ++ [⟨a.toNat, 4, s.now⟩]) :=
  ⟨s.poisonedTlp a.toNat, congrArg Host.Outcome.next (s.host_reached hr _), State.byte_of_mem (State.poisonedTlp_keeps ..).2.2,
    fun h => State.logErr_elog _ _ _ h⟩

/-- What BAR2_READ returns of an address whose store is on (R170, R307). -/
theorem State.bar2Get_getElem (s : State) (a n k : Nat) (hk : k < n) (hon : s.windowOn (windowOf (a + k)) = true)
    (hv : ∀ v o, windowOf (a + k) = .vis v o → o / 2 < 0x8400 ∨ 0x20000 ≤ o / 2) : (s.bar2Get a n).1[k]? = some (s.byte (a + k)) := by
  unfold State.bar2Get
  simp only [List.getElem?_map, List.getElem?_range hk, Option.map_some]
  split <;> simp only [State.windowOn_logErr, State.byte_logErr, hon, Bool.not_true, Bool.false_eq_true, if_false]
  all_goals
    split
    · next v o hw => rw [if_neg (by have := hv v o hw; omega)]
    · rfl

theorem State.bar2Get_length (s : State) (a n : Nat) : (s.bar2Get a n).1.length = n := by simp [State.bar2Get]

/-- Settles O25: a container's write is one write of its word; a read changes no byte. -/
theorem hostWritesOfStoresLandWhereTheyAim : Obligations.HostWritesOfStoresLandWhereTheyAim := by
  refine ⟨fun a lo hi s hs hr ha h hon => bar2Write_lands hs hr a ha h hon lo hi, fun a bytes s hr => bar2Write_poisoned hr a bytes, ?_, ?_, ?_⟩
  · intro a bytes p s hr
    exact congrArg Host.Outcome.next (s.host_reached hr _)
  · intro a n s hr
    exact ⟨_, _, _, congrArg Host.Outcome.next (s.host_reached hr _), s.bar2Get_length a.toNat n, rfl,
      State.byte_of_mem (State.bar2Get_keeps s a.toNat n).2.2, fun k hk hon hv => s.bar2Get_getElem _ _ _ hk hon hv⟩
  · intro a bytes p m n s hr
    have hhost (f : State → State) : s.host f = if s.perst then s else { s with aer := s.aer ||| 0x100000 } :=
      if_neg (by simp [hr])
    exact ⟨congrArg Host.Outcome.next (hhost _), congrArg Host.Outcome.next (hhost _)⟩

end Sys2Proof.Machine
end

section
/-! PROOFS. Injection, and what a report of the rails writes (R473, R477). -/

namespace Sys2Proof.Machine

/-- A device that takes host accesses, whose VMRAM lies in its window, and in which one byte of a program MRAM still waits to be written. -/
def bytesStillWait : State := { State.reset with pcie := { memory := true }, mramWait := [(0x2000000, 1)] }

/-- The injection of a rail report on page 0x020, bit 3, writes the byte that waits. -/
theorem railInjection_writes_waiting :
    ∃ t, exec (.pgInjWrite 0x020 8) bytesStillWait = .next t ∧ t.byte 0x2000000 = 1 := by
  refine ⟨_, rfl, ?_⟩
  decide +kernel

/-- Refutes O59: its clause that PG_INJ_WRITE changes no stored byte holds of every state, also of one with VMRAM in its window and MRAM bytes that still
wait; there the report that bit 3 of page 0x020 injects writes them. The model lets bytes wait only while VMRAM is low, and RAIL_SAMPLE writes them as it
returns: what the statement lacks is that hypothesis. -/
theorem not_registerAndPageWritesAct : ¬ Obligations.RegisterAndPageWritesAct := by
  intro h
  obtain ⟨-, -, -, -, -, hinj, -⟩ := h
  obtain ⟨-, hkeeps, -⟩ := hinj 0x020 8 noReply bytesStillWait (by decide +kernel) (by decide +kernel)
  obtain ⟨t, ht, hmem, -⟩ := hkeeps (by decide +kernel)
  obtain ⟨u, hu, hbyte⟩ := railInjection_writes_waiting
  obtain rfl : t = u := Host.Outcome.next.inj (ht.symm.trans hu)
  have hold : t.byte 0x2000000 = 0 := State.byte_of_mem hmem _
  exact absurd (hbyte.symm.trans hold) (by decide)

end Sys2Proof.Machine
end

section
/-! PROOFS. Rules of the operations on a cog: writes of the same cog, what a cog's write leaves to be read, and the trigger that a unit takes (log entry 2). -/

namespace Sys2Proof.Machine

/-! ### A cog written -/

theorem put_put {α : Type} (m : Sparse α) (a : Nat) (v w : α) : put (put m a v) a w = put m a w := by
  induction m with
  | nil => simp [put]
  | cons x m ih =>
    obtain ⟨k, u⟩ := x
    by_cases hlt : a < k
    · simp [put, hlt]
    · by_cases heq : a = k
      · subst heq; simp [put]
      · simp [put, hlt, heq, ih]

/-- Of two writes of one cog the later stands. -/
@[simp] theorem State.setCog_setCog (s : State) (i : Nat) (c d : Cog) : (s.setCog i c).setCog i d = s.setCog i d := by
  simp only [State.setCog, put_put]

@[simp] theorem State.rd_setCog (s : State) (i : Nat) (c : Cog) (p : Nat) (f : Fld) (j : Nat) : (s.setCog i c).rd p f j = s.rd p f j := by
  simp only [State.rd, State.reg, State.setCog_frame]
@[simp] theorem State.on_setCog (s : State) (i : Nat) (c : Cog) (p : Nat) (f : Fld) (j : Nat) : (s.setCog i c).on p f j = s.on p f j := by
  simp only [State.on, State.rd_setCog]
@[simp] theorem State.domOn_setCog (s : State) (i : Nat) (c : Cog) (d : Nat) : (s.setCog i c).domOn d = s.domOn d := by
  simp only [State.domOn, State.dom, State.setCog_frame]

/-- A cog is read from the list of cogs only. -/
theorem State.cog_of_cogs {s t : State} (h : t.cogs = s.cogs) (j : Nat) : t.cog j = s.cog j := congrArg (lookD · j ({} : Cog)) h

/-- A port written leaves the rest of the cog. -/
@[simp] theorem Cog.get_set_self (c : Cog) (p : Port) (v : Nat) : (c.set p v).get p = v % 2 ^ 42 := by
  simp [Cog.get, Cog.set, lookD]

/-! ### Triggers -/

/-- The unit of the trigger at the head acts on the moved value. -/
theorem State.onTrigger_presented {s : State} {i : Nat} {p : Presented} (h : s.presented i = some p) {t : Trigger} (ht : p.op = t) (f : Nat → Width → State → State) :
    s.onTrigger i t f = f p.val.toNat p.w s := by
  simp [State.onTrigger, h, ht]

/-- What a trigger with the moved value of the head accesses. -/
theorem Cog.access_presented (c : Cog) (p : Presented) {t : Trigger} (ht : p.op = t) : c.access ⟨t, BitVec.ofNat 42 p.val.toNat, p.w⟩ = c.access p := by
  subst ht; simp

/-- Outside a locked sequence none goes on. -/
theorem Cog.sequence_none {c : Cog} (h : c.lock = none) : c.sequence = none := by
  unfold Cog.sequence
  split
  · split
    · rfl
    · exact h
  · exact h

/-- What an access does to its cog: it steps a generator at most. -/
@[simp] theorem Cog.setAg_frame (c : Cog) (u : Bool) (x : Ag) :
    (c.setAg u x).port = c.port ∧ (c.setAg u x).lock = c.lock ∧ (c.setAg u x).cur = c.cur ∧ (c.setAg u x).sbuf = c.sbuf ∧ (c.setAg u x).loads = c.loads := by
  cases u <;> exact ⟨rfl, rfl, rfl, rfl, rfl⟩

end Sys2Proof.Machine
end

section
/-! PROOFS. Accesses to unmapped addresses (R53). -/

namespace Sys2Proof.Machine

/-- A count of an error leaves the fields of other words (R529). -/
theorem State.pgErr_cogs (s : State) (p : Nat) : (s.pgErr p).cogs = s.cogs := by
  unfold State.pgErr
  dsimp only
  split <;> rfl

theorem State.rd_pgErr_ne (s : State) (p : Nat) {q j : Nat} {g : Fld} (h0 : R.PG_ERR_CNT_CNT.addr p 0 ≠ g.addr q j)
    (h1 : R.PG_ERR_CAP0_VALID.addr p 0 ≠ g.addr q j) (h2 : R.PG_ERR_CAP1_DATA.addr p 0 ≠ g.addr q j) : (s.pgErr p).rd q g j = s.rd q g j := by
  have hovr : R.PG_ERR_CAP0_OVR.addr p 0 ≠ g.addr q j := h1
  have hofs : R.PG_ERR_CAP0_OFS.addr p 0 ≠ g.addr q j := h1
  unfold State.pgErr
  dsimp only
  rw [State.rd_wr_ne _ _ _ _ _ h2, State.rd_wr_ne _ _ _ _ _ hofs, State.rd_wr_ne _ _ _ _ _ h1]
  split
  · rw [State.rd_wr_ne _ _ _ _ _ hovr]
    exact State.rd_wr_ne _ _ _ _ _ h0
  · exact State.rd_wr_ne _ _ _ _ _ h0

theorem State.rd_pgErr_count (s : State) (p : Nat) : (s.pgErr p).rd p R.PG_ERR_CNT_CNT = min (s.rd p R.PG_ERR_CNT_CNT + 1) 65535 := by
  have hbump : (s.bump p R.PG_ERR_CNT_CNT).rd p R.PG_ERR_CNT_CNT = min (s.rd p R.PG_ERR_CNT_CNT + 1) 65535 := by
    refine (State.rd_wr_self _ _ _ _ _ (by decide)).trans (Nat.mod_eq_of_lt ?_)
    exact Nat.lt_of_le_of_lt (Nat.min_le_right ..) (by decide)
  have hne (f : Fld) (h : f.off ≠ 0x20) (hs : f.stride = 0) : f.addr p 0 ≠ R.PG_ERR_CNT_CNT.addr p 0 := by
    simp only [Fld.addr, R.PG_ERR_CNT_CNT]
    omega
  unfold State.pgErr
  dsimp only
  rw [State.rd_wr_ne _ _ _ _ _ (hne _ (by decide) rfl), State.rd_wr_ne _ _ _ _ _ (hne _ (by decide) rfl), State.rd_wr_ne _ _ _ _ _ (hne _ (by decide) rfl)]
  split
  · rw [State.rd_wr_ne _ _ _ _ _ (hne _ (by decide) rfl), hbump]
  · exact hbump

/-- The registers of a cog's page in which an access to an unmapped address is recorded are four words. -/
theorem cogPage_addr_ne (i : Nat) {f g : Fld} (h : f.off ≠ g.off) (hf : f.stride = 0) (hg : g.stride = 0) :
    f.addr (cogPage i) 0 ≠ g.addr (cogPage i) 0 := by
  simp only [Fld.addr, hf, hg]
  omega

theorem State.unmapped_cogs (s : State) (i a : Nat) (store : Bool) : (s.unmapped i a store).cogs = s.cogs := by
  simp [State.unmapped, State.pgErr_cogs]

/-- What an access to an unmapped address leaves in the registers of its cog's page (R53). -/
theorem State.unmapped_records (s : State) (i a : Nat) (store : Bool) :
    (s.unmapped i a store).on (cogPage i) R.COG_STORE_UNMAPPED = true ∧
    (s.unmapped i a store).rd (cogPage i) R.PG_ERR_CNT_CNT = min (s.rd (cogPage i) R.PG_ERR_CNT_CNT + 1) 65535 ∧
    (s.unmapped i a store).rd (cogPage i) R.COG_UNMAP_ADDR = a % 2 ^ 28 ∧ (s.unmapped i a store).on (cogPage i) R.COG_UNMAP_STORE = store := by
  have hne {f g : Fld} (h : f.off ≠ g.off) (hf : f.stride = 0) (hg : g.stride = 0) := cogPage_addr_ne i h hf hg
  unfold State.unmapped
  dsimp only
  refine ⟨?_, ?_, ?_, ?_⟩
  · rw [State.on_wr_ne _ _ _ _ _ (hne (by decide) rfl rfl), State.on_wr_ne _ _ _ _ _ (hne (by decide) rfl rfl)]
    unfold State.on
    rw [State.rd_pgErr_ne _ _ (hne (by decide) rfl rfl) (hne (by decide) rfl rfl) (hne (by decide) rfl rfl), State.rd_wr_self _ _ _ _ _ (by decide)]
    rfl
  · rw [State.rd_wr_ne _ _ _ _ _ (hne (by decide) rfl rfl), State.rd_wr_ne _ _ _ _ _ (hne (by decide) rfl rfl), State.rd_pgErr_count,
      State.rd_wr_ne _ _ _ _ _ (hne (by decide) rfl rfl)]
  · rw [State.rd_wr_bits _ _ _ _ _ (by decide) (by decide), State.rd_wr_self _ _ _ _ _ (by decide)]
    rfl
  · rw [State.on_wr_self _ _ _ _ _ (by decide) rfl]
    cases store <;> rfl

/-! ### The commands -/

/-- A load as it stands with what its store or the store buffer gave for it: the words, or the cause of an error (R49). -/
def Load.answered (l : Load) (vs : List Nat) (e : Option Nat) : Load :=
  { l with answer := some (match e with
    | some cause => .uncorrectable cause
    | none => .value (BitVec.ofNat 42 (sext (joinWords vs) l.w))) }

/-- The oldest load without an answer reads its words, unless none maps its address (R49, R53). -/
theorem State.answerLoad_eq {s : State} {i k : Nat} {l : Load} (hk : (s.cog i).loads.findIdx? (·.answer.isNone) = some k)
    (hl : (s.cog i).loads[k]? = some l) (hw : (s.cog i).loadWaits l = false) :
    s.answerLoad i =
      let r := if spaceOf l.addr = .unmapped then ([], none, s.unmapped i l.addr false) else s.readWords i l.addr l.w.words
      r.2.2.setCog i { r.2.2.cog i with loads := (r.2.2.cog i).loads.set k (l.answered r.1 r.2.1) } := by
  unfold State.answerLoad
  dsimp only
  rw [hk]
  dsimp only
  rw [hl]
  dsimp only
  rw [hw, if_neg Bool.false_ne_true]
  rfl

/-- The oldest load without an answer, from an unmapped address, is answered 0 (R53). -/
theorem State.answerLoad_unmapped {s : State} {i k : Nat} {l : Load} (hk : (s.cog i).loads.findIdx? (·.answer.isNone) = some k)
    (hl : (s.cog i).loads[k]? = some l) (hw : (s.cog i).loadWaits l = false) (ha : spaceOf l.addr = .unmapped) :
    s.answerLoad i = (s.unmapped i l.addr false).setCog i
      { s.cog i with loads := (s.cog i).loads.set k { l with answer := some (.value 0) } } := by
  have hzero : l.answered [] none = { l with answer := some (.value 0) } := by
    unfold Load.answered
    cases l.w <;> rfl
  rw [State.answerLoad_eq hk hl hw, if_pos ha]
  dsimp only
  rw [State.cog_of_cogs (State.unmapped_cogs ..), hzero]

/-- A store trigger outside a locked sequence, with a free entry, to an unmapped address: nothing enters the buffer (R53). -/
theorem State.storeOp_unmapped {s : State} {i a : Nat} {t : Trigger} {p : Presented} {w : Width} {c : Cog} (h : s.presented i = some p) (ht : p.op = t)
    (hlock : c.lock = none) (hroom : c.sbuf.length < 4) (hacc : (s.cog i).access p = (some (true, a, w), c)) (ha : spaceOf a = .unmapped) :
    s.storeOp i t = ((s.setCog i c).unmapped i a true).accepted i := by
  unfold State.storeOp
  rw [State.onTrigger_presented h ht, Cog.access_presented _ _ ht, hacc]
  dsimp only
  rw [Cog.sequence_none hlock, ha]
  dsimp only
  rw [if_neg (Nat.not_le.2 hroom), State.pushStore, if_pos ha]

/-- What a store trigger with an offset accesses (R47, R54). -/
theorem Cog.access_store {c : Cog} {p : Presented} {t : Trigger} {w : Width} (h : (t, w) ∈ [(Trigger.stW, Width.word), (.stL, .long), (.stT, .triple)])
    (ht : p.op = t) : c.access p = (some (true, offsetAddr (c.get .stb) p.val.toNat, w), c) := by
  unfold Cog.access
  simp only [List.mem_cons, Prod.mk.injEq, List.not_mem_nil, or_false] at h
  rw [ht]
  rcases h with ⟨rfl, rfl⟩ | ⟨rfl, rfl⟩ | ⟨rfl, rfl⟩ <;> rfl

/-- Settles O6: both accesses are recorded by the one operation that changes the registers of the cog's page only. -/
theorem unmappedAccessesAreCountedAndReadZero : Obligations.UnmappedAccessesAreCountedAndReadZero := by
  refine ⟨?_, ?_⟩
  · intro i s k l hon hk hl hw ha
    have hrun : exec (.loadAnswer i) s = .next (s.answerLoad i).settle := congrArg Host.Outcome.next (if_pos hon)
    rw [State.answerLoad_unmapped hk hl hw ha] at hrun
    refine ⟨_, hrun, ?_⟩
    obtain ⟨hflag, hcount, haddr, hstore⟩ := s.unmapped_records i l.addr false
    simp only [State.setCog_self, State.on_setCog, State.rd_setCog, State.setCog_frame, State.unmapped_keeps]
    exact ⟨trivial, hflag, hcount, haddr, hstore, trivial, trivial, trivial, trivial⟩
  · intro i s p hp hlock hroom a ha x hx ht
    have hop {t : Trigger} (w : Width) (hm : (t, w) ∈ [(Trigger.stW, Width.word), (.stL, .long), (.stT, .triple)]) (ht : p.op = t) :
        s.storeOp i t = ((s.setCog i (s.cog i)).unmapped i a true).accepted i := State.storeOp_unmapped hp ht hlock hroom (Cog.access_store hm ht) ha
    have hrun : exec x.1 s = .next (((s.setCog i (s.cog i)).unmapped i a true).accepted i) := by
      simp only [List.mem_cons, List.not_mem_nil, or_false] at hx
      rcases hx with rfl | rfl | rfl
      · exact congrArg Host.Outcome.next (hop .word (by simp) ht)
      · exact congrArg Host.Outcome.next (hop .long (by simp) ht)
      · exact congrArg Host.Outcome.next (hop .triple (by simp) ht)
    refine ⟨_, hrun, ?_⟩
    obtain ⟨hflag, hcount, haddr, hstore⟩ := (s.setCog i (s.cog i)).unmapped_records i a true
    simp only [State.rd_setCog] at hcount
    simp only [State.cog_of_cogs (State.unmapped_cogs ..), State.setCog_self, State.setCog_frame, State.unmapped_keeps]
    exact ⟨trivial, hflag, hcount, haddr, hstore, trivial, trivial, trivial, trivial⟩

end Sys2Proof.Machine
end

section
/-! PROOFS. Loads and stores as their triggers start them (R47, R48, R52, R56, R57, R106). -/

namespace Sys2Proof.Machine

/-! ### What a trigger accesses -/

/-- What a load trigger with an offset accesses (R47, R54). -/
theorem Cog.access_load {c : Cog} {p : Presented} {t : Trigger} {w : Width} (h : (t, w) ∈ [(Trigger.ldW, Width.word), (.ldL, .long), (.ldT, .triple)])
    (ht : p.op = t) : c.access p = (some (false, offsetAddr (c.get .ldo) p.val.toNat, w), c) := by
  unfold Cog.access
  simp only [List.mem_cons, Prod.mk.injEq, List.not_mem_nil, or_false] at h
  rw [ht]
  rcases h with ⟨rfl, rfl⟩ | ⟨rfl, rfl⟩ | ⟨rfl, rfl⟩ <;> rfl

/-- The cog after an access of generator `u`, which steps (R106). -/
def Cog.stepAg (c : Cog) (u : Bool) : Cog := c.setAg u ((c.ag u).step (c.get (if u then .ag1s else .ag0s)))

/-- The address that generator `u` gives (R106). -/
def Cog.agAddr (c : Cog) (u : Bool) : Nat := (c.ag u).addr (c.get (if u then .ag1b else .ag0b) % 2 ^ 28)

theorem Cog.access_ldAg {c : Cog} {p : Presented} {u : Bool} (ht : p.op = .ldAg u) :
    c.access p = (some (false, c.agAddr u, (c.ag u).width), c.stepAg u) := by
  unfold Cog.access
  rw [ht]
  rfl

theorem Cog.access_stAg {c : Cog} {p : Presented} {u : Bool} (ht : p.op = .stAg u) :
    c.access p = (some (true, c.agAddr u, (c.ag u).width), c.stepAg u) := by
  unfold Cog.access
  rw [ht]
  rfl

@[simp] theorem Cog.stepAg_frame (c : Cog) (u : Bool) :
    (c.stepAg u).port = c.port ∧ (c.stepAg u).lock = c.lock ∧ (c.stepAg u).cur = c.cur ∧ (c.stepAg u).sbuf = c.sbuf ∧ (c.stepAg u).loads = c.loads :=
  Cog.setAg_frame ..

/-! ### Loads -/

theorem Cog.checkBuffer_of_sbuf {c d : Cog} (h : d.sbuf = c.sbuf) (a n : Nat) : d.checkBuffer a n = c.checkBuffer a n := by
  unfold Cog.checkBuffer
  rw [h]

/-- A load outside a locked sequence starts: on its own, answered by the store that holds it whole, or behind the stores that hold a part of it (R56). -/
theorem State.startLoad_forms {s : State} {i : Nat} (h : (s.cog i).lock = none) (a : Nat) (w : Width) :
    ((s.cog i).checkBuffer a w.words = none →
      s.startLoad i a w = s.setCog i { s.cog i with loads := (s.cog i).loads ++ [{ addr := a, w := w, delay := 3 }] }) ∧
    (∀ k v, (s.cog i).checkBuffer a w.words = some (k, some v) →
      s.startLoad i a w = s.setCog i { s.cog i with loads := (s.cog i).loads ++
        [{ addr := a, w := w, delay := 3, answer := some (.value (BitVec.ofNat 42 (sext v w))) }] }) ∧
    (∀ k, (s.cog i).checkBuffer a w.words = some (k, none) →
      s.startLoad i a w = (s.setCog i { s.cog i with loads := (s.cog i).loads ++ [{ addr := a, w := w, delay := 3, behind := k + 1 }] }).bump
        (cogPage i) R.COG_STORE_PARTIAL) := by
  unfold State.startLoad
  dsimp only
  rw [Cog.sequence_none h]
  refine ⟨fun hc => ?_, fun k v hc => ?_, fun k hc => ?_⟩ <;> rw [hc] <;> rfl

/-- A load trigger at the head, with what it accesses. -/
theorem State.loadOp_presented {s : State} {i a : Nat} {t : Trigger} {p : Presented} {st : Bool} {w : Width} {c : Cog} (h : s.presented i = some p)
    (ht : p.op = t) (hacc : (s.cog i).access p = (some (st, a, w), c)) : s.loadOp i t = ((s.setCog i c).startLoad i a w).accepted i := by
  unfold State.loadOp
  rw [State.onTrigger_presented h ht, Cog.access_presented _ _ ht, hacc]

/-- The three forms of a load that a trigger outside a locked sequence starts (R48, R56); `c` is the cog after the access. -/
theorem load_starts {e : Instr} {s : State} {i a : Nat} {t : Trigger} {p : Presented} {st : Bool} {w : Width} {c : Cog}
    (he : exec e s = .next (s.loadOp i t)) (h : s.presented i = some p) (ht : p.op = t) (hacc : (s.cog i).access p = (some (st, a, w), c))
    (hlock : c.lock = none) (hbuf : c.sbuf = (s.cog i).sbuf) (hloads : c.loads = (s.cog i).loads) :
    ((s.cog i).checkBuffer a w.words = none →
      exec e s = .next ((s.setCog i { c with loads := (s.cog i).loads ++ [{ addr := a, w := w, delay := 3 }] }).accepted i)) ∧
    (∀ k v, (s.cog i).checkBuffer a w.words = some (k, some v) →
      exec e s = .next ((s.setCog i { c with loads := (s.cog i).loads ++
        [{ addr := a, w := w, delay := 3, answer := some (.value (BitVec.ofNat 42 (sext v w))) }] }).accepted i)) ∧
    (∀ k, (s.cog i).checkBuffer a w.words = some (k, none) →
      exec e s = .next (((s.setCog i { c with loads := (s.cog i).loads ++ [{ addr := a, w := w, delay := 3, behind := k + 1 }] }).bump
        (cogPage i) R.COG_STORE_PARTIAL).accepted i)) := by
  obtain ⟨hfree, hwhole, hpart⟩ := State.startLoad_forms (s := s.setCog i c) (i := i) (by rw [State.setCog_self]; exact hlock) a w
  rw [State.setCog_self, Cog.checkBuffer_of_sbuf hbuf, hloads] at hfree hwhole hpart
  rw [he, State.loadOp_presented h ht hacc]
  refine ⟨fun hc => ?_, fun k v hc => ?_, fun k hc => ?_⟩
  · rw [hfree hc, State.setCog_setCog]
  · rw [hwhole k v hc, State.setCog_setCog]
  · rw [hpart k hc, State.setCog_setCog]

/-- Settles O14: each trigger's access, and the three forms of the load that it starts. -/
theorem loadTriggersStartALoad : Obligations.LoadTriggersStartALoad := by
  intro i u s p hp hlock
  refine ⟨fun ht => ?_, fun ht => ?_, fun ht => ?_, fun ht => ?_⟩
  · exact load_starts rfl hp ht (Cog.access_load (w := .word) (by simp) ht) hlock rfl rfl
  · exact load_starts rfl hp ht (Cog.access_load (w := .long) (by simp) ht) hlock rfl rfl
  · exact load_starts rfl hp ht (Cog.access_load (w := .triple) (by simp) ht) hlock rfl rfl
  · obtain ⟨-, hl, -, hbuf, hloads⟩ := (s.cog i).stepAg_frame u
    exact load_starts rfl hp ht (Cog.access_ldAg ht) (hl.trans hlock) hbuf hloads

/-! ### Stores -/

/-- A store trigger at the head, outside a locked sequence, with what it accesses (R56, R57). -/
theorem State.storeOp_presented {s : State} {i a : Nat} {t : Trigger} {p : Presented} {st : Bool} {w : Width} {c : Cog} (h : s.presented i = some p)
    (ht : p.op = t) (hacc : (s.cog i).access p = (some (st, a, w), c)) (hlock : c.lock = none) :
    s.storeOp i t =
      if 4 ≤ c.sbuf.length then s.stallCog i 3
      else
        let u := (s.setCog i c).pushStore i a ((wordsOf w.words (c.get .sto)).map (BitVec.ofNat 14))
        (if spaceOf a = .prog then u.fetchAhead i ((c.cur.map (·.next)).getD 0) else u).accepted i := by
  unfold State.storeOp
  rw [State.onTrigger_presented h ht, Cog.access_presented _ _ ht, hacc]
  dsimp only
  rw [Cog.sequence_none hlock]
  cases spaceOf a <;> rfl

/-- What a store trigger outside a locked sequence does (R53, R56, R57, R73); `c` is the cog after the access. -/
theorem store_enters {e : Instr} {s : State} {i a : Nat} {t : Trigger} {p : Presented} {st : Bool} {w : Width} {c : Cog}
    (he : exec e s = .next (s.storeOp i t)) (h : s.presented i = some p) (ht : p.op = t) (hacc : (s.cog i).access p = (some (st, a, w), c))
    (hlock : c.lock = none) (hbuf : c.sbuf = (s.cog i).sbuf) (hport : c.port = (s.cog i).port) (hcur : c.cur = (s.cog i).cur) :
    let ws : List Word := (wordsOf w.words ((s.cog i).get .sto)).map (BitVec.ofNat 14)
    (4 ≤ (s.cog i).sbuf.length → exec e s = .next (s.stallCog i 3)) ∧
    ((s.cog i).sbuf.length < 4 → spaceOf a ≠ .unmapped → spaceOf a ≠ .prog →
      exec e s = .next ((s.setCog i { c with sbuf := (s.cog i).sbuf ++ [⟨a, ws⟩] }).accepted i)) ∧
    ((s.cog i).sbuf.length < 4 → spaceOf a = .prog →
      exec e s = .next (((s.setCog i { c with sbuf := (s.cog i).sbuf ++ [⟨a, ws⟩] }).fetchAhead i (((s.cog i).cur.map (·.next)).getD 0)).accepted i)) ∧
    ((s.cog i).sbuf.length < 4 → spaceOf a = .unmapped → exec e s = .next (((s.setCog i c).unmapped i a true).accepted i)) := by
  intro ws
  have hws : c.get .sto = (s.cog i).get .sto := congrArg (fun m => (lookD m Port.sto.key 0).toNat) hport
  have hpush : spaceOf a ≠ .unmapped → (s.setCog i c).pushStore i a ws = s.setCog i { c with sbuf := (s.cog i).sbuf ++ [⟨a, ws⟩] } := by
    intro ha
    rw [State.pushStore, if_neg ha, State.setCog_self, State.setCog_setCog, hbuf]
  have hrun := State.storeOp_presented h ht hacc hlock
  rw [hbuf, hws, hcur] at hrun
  dsimp only at hrun
  rw [he, hrun]
  refine ⟨fun hfull => ?_, fun hroom hmap hprog => ?_, fun hroom hprog => ?_, fun hroom hun => ?_⟩
  · rw [if_pos hfull]
  · rw [if_neg (Nat.not_le.2 hroom), if_neg hprog, hpush hmap]
  · rw [if_neg (Nat.not_le.2 hroom), if_pos hprog, hpush (by rw [hprog]; decide)]
  · rw [if_neg (Nat.not_le.2 hroom), if_neg (by rw [hun]; decide), State.pushStore, if_pos hun]

/-- Settles O15: each trigger's access, and what the store buffer makes of it. -/
theorem storeTriggersEnterTheBuffer : Obligations.StoreTriggersEnterTheBuffer := by
  intro i u s p hp hlock
  refine ⟨fun ht => ?_, fun ht => ?_, fun ht => ?_, fun ht => ?_⟩
  · exact store_enters rfl hp ht (Cog.access_store (w := .word) (by simp) ht) hlock rfl rfl rfl
  · exact store_enters rfl hp ht (Cog.access_store (w := .long) (by simp) ht) hlock rfl rfl rfl
  · exact store_enters rfl hp ht (Cog.access_store (w := .triple) (by simp) ht) hlock rfl rfl rfl
  · obtain ⟨hport, hl, hcur, hbuf, -⟩ := (s.cog i).stepAg_frame u
    exact store_enters rfl hp ht (Cog.access_stAg ht) (hl.trans hlock) hbuf hport hcur

end Sys2Proof.Machine
end

section
/-! PROOFS. What reads and writes of the stores leave of the cogs (R49, R55, R173, R176). -/

namespace Sys2Proof.Machine

/-! ### Register operations leave the cogs -/

@[simp] theorem State.bump_cogs (s : State) (p : Nat) (f : Fld) (i : Nat) : (s.bump p f i).cogs = s.cogs := by
  simp [State.bump, State.bumpBy]

@[simp] theorem State.injTake_cogs (s : State) (p b : Nat) : (s.injTake p b).cogs = s.cogs := by
  simp [State.injTake]

@[simp] theorem State.capture_cogs (s : State) (p : Nat) (valid ovr : Fld) (i : Nat) : (s.capture p valid ovr i).cogs = s.cogs := by
  unfold State.capture
  split <;> simp

@[simp] theorem State.eccRead_cogs (s : State) (u : EccUnit) (a : Nat) : (s.eccRead u a).2.2.cogs = s.cogs := by
  unfold State.eccRead
  (repeat' split) <;> simp

@[simp] theorem State.readLocal_cogs (s : State) (i a : Nat) : (s.readLocal i a).2.2.cogs = s.cogs := by
  unfold State.readLocal
  generalize hr : s.eccRead (localEcc i) (localBase i + 2 * (a % 16384)) = r
  have hcogs : r.2.2.cogs = s.cogs := by rw [← hr]; simp
  obtain ⟨e, inj, t⟩ := r
  cases e <;> cases inj <;> simp_all

@[simp] theorem State.readShared_cogs (s : State) (c a : Nat) : (s.readShared c a).2.2.cogs = s.cogs := by
  unfold State.readShared
  dsimp only
  (repeat' split) <;> simp

@[simp] theorem State.readProg_cogs (s : State) (c a : Nat) : (s.readProg c a).2.cogs = s.cogs := by
  unfold State.readProg
  dsimp only
  split <;> simp

@[simp] theorem State.readData_cogs (s : State) (i a : Nat) : (s.readData i a).2.2.cogs = s.cogs := by
  unfold State.readData
  dsimp only
  (repeat' split) <;> simp [State.unmapped_cogs]

@[simp] theorem State.readWords_cogs (s : State) (i a n : Nat) : (s.readWords i a n).2.2.cogs = s.cogs := by
  induction n generalizing s a with
  | zero => rfl
  | succ n ih => exact (ih ..).trans (State.readData_cogs ..)

/-! ### Writes of an MRAM -/

/-- The bytes of a list written one after another, each address once. -/
theorem State.byte_foldl_setByte (xs : List (Nat × Byte)) {s : State} (hs : s.Ok) (hx : (xs.map (·.1)).Nodup) :
    let t := xs.foldl (fun (t : State) x => t.setByte x.1 x.2) s
    (∀ x ∈ xs, t.byte x.1 = x.2) ∧ ∀ a, a ∉ xs.map (·.1) → t.byte a = s.byte a := by
  induction xs generalizing s with
  | nil => exact ⟨fun x hx => absurd hx List.not_mem_nil, fun a _ => rfl⟩
  | cons x xs ih =>
    obtain ⟨hnew, hx⟩ := List.nodup_cons.1 hx
    obtain ⟨hin, hout⟩ := ih (s := s.setByte x.1 x.2) (State.setByte_wf _ _ _ hs) hx
    refine ⟨fun y hy => ?_, fun a ha => ?_⟩
    · rcases List.mem_cons.1 hy with rfl | hy
      · exact (hout _ hnew).trans ((State.byte_setByte hs ..).trans (if_pos rfl))
      · exact hin y hy
    · simp only [List.map_cons, List.mem_cons, not_or] at ha
      exact (hout a ha.2).trans ((State.byte_setByte hs ..).trans (if_neg (Ne.symm ha.1)))

/-- A write of bytes of one granule puts them there, and leaves every other byte (R176). -/
theorem State.byte_granuleWrite {s : State} (hs : s.Ok) (g : Nat) {xs : List (Nat × Byte)} (hx : (xs.map (·.1)).Nodup) :
    (∀ x ∈ xs, (s.granuleWrite g xs).byte x.1 = x.2) ∧ ∀ a, a ∉ xs.map (·.1) → (s.granuleWrite g xs).byte a = s.byte a := by
  have hread : (if 16 ≤ xs.length then ((.good, s) : Ecc × State) else s.mramRead g).2.mem = s.mem := by split <;> simp
  unfold State.granuleWrite
  generalize (if 16 ≤ xs.length then ((.good, s) : Ecc × State) else s.mramRead g) = r at hread ⊢
  obtain ⟨hin, hout⟩ := State.byte_foldl_setByte xs (hs.of_mem hread) hx
  dsimp only
  split
  · next hsame =>
    simp only [Bool.and_eq_true, List.all_eq_true, decide_eq_true_eq] at hsame
    exact ⟨hsame.1, fun a _ => State.byte_of_mem hread a⟩
  · have hkeeps : ∀ u : State, u.mem = (xs.foldl (fun (t : State) x => t.setByte x.1 x.2) r.2).mem →
        (∀ x ∈ xs, u.byte x.1 = x.2) ∧ ∀ a, a ∉ xs.map (·.1) → u.byte a = s.byte a := fun u hu =>
      ⟨fun x hx => (State.byte_of_mem hu _).trans (hin x hx), fun a ha => (State.byte_of_mem hu a).trans ((hout a ha).trans (State.byte_of_mem hread a))⟩
    refine hkeeps _ ?_
    (repeat' split) <;> simp

/-- A write of bytes of an MRAM, granule by granule (R176). -/
theorem State.byte_mramWrite {s : State} (hs : s.Ok) {xs : List (Nat × Byte)} (hx : (xs.map (·.1)).Nodup) :
    (∀ x ∈ xs, (s.mramWrite xs).byte x.1 = x.2) ∧ ∀ a, a ∉ xs.map (·.1) → (s.mramWrite xs).byte a = s.byte a := by
  have hgranules : ∀ (gs : List Nat) (t : State), t.Ok →
      let u := gs.foldl (fun (t : State) g => t.granuleWrite g (xs.filter fun x => x.1 / 16 * 16 = g)) t
      (∀ x ∈ xs, x.1 / 16 * 16 ∈ gs → u.byte x.1 = x.2) ∧ ∀ a, a ∉ xs.map (·.1) ∨ a / 16 * 16 ∉ gs → u.byte a = t.byte a := by
    intro gs
    induction gs with
    | nil => exact fun t _ => ⟨fun x _ h => absurd h List.not_mem_nil, fun a _ => rfl⟩
    | cons g gs ih =>
      intro t ht
      obtain ⟨hin, hout⟩ := State.byte_granuleWrite ht g (hx.sublist (List.Sublist.map _ (List.filter_sublist (p := fun x => decide (x.1 / 16 * 16 = g)))))
      obtain ⟨ihin, ihout⟩ := ih (t.granuleWrite g (xs.filter fun x => x.1 / 16 * 16 = g)) (State.granuleWrite_wf _ _ _ ht)
      refine ⟨fun x hxs hg => ?_, fun a ha => ?_⟩
      · by_cases hrest : x.1 / 16 * 16 ∈ gs
        · exact ihin x hxs hrest
        · have hhere : x.1 / 16 * 16 = g := (List.mem_cons.1 hg).resolve_right hrest
          exact (ihout _ (.inr hrest)).trans (hin x (List.mem_filter.2 ⟨hxs, decide_eq_true hhere⟩))
      · refine (ihout a (ha.imp_right fun h hgs => h (List.mem_cons_of_mem _ hgs))).trans (hout a fun hmem => ?_)
        obtain ⟨x, hxf, rfl⟩ := List.mem_map.1 hmem
        obtain ⟨hxs, hg⟩ := List.mem_filter.1 hxf
        rcases ha with ha | ha
        · exact ha (List.mem_map_of_mem hxs)
        · exact ha (List.mem_cons.2 (.inl (of_decide_eq_true hg)))
  obtain ⟨hin, hout⟩ := hgranules ((xs.map fun x => x.1 / 16 * 16).dedup) s hs
  exact ⟨fun x hxs => hin x hxs (List.mem_dedup.2 (List.mem_map_of_mem hxs)), fun a ha => hout a (.inl ha)⟩

/-! ### The store of an entry -/

@[simp] theorem State.readCam_cogs (s : State) (a : Nat) : (s.readCam a).2.cogs = s.cogs := by
  have hevt (t : State) (p b : Nat) : (t.pgEvt p b).cogs = t.cogs := State.pgEvt_part (g := State.cogs) (fun _ _ _ => rfl) (fun _ _ => rfl) t p b
  unfold State.readCam
  dsimp only
  (repeat' split) <;> simp [hevt]

@[simp] theorem State.mramRead_cogs (s : State) (g : Nat) : (s.mramRead g).2.cogs = s.cogs := by
  unfold State.mramRead
  split <;> simp

@[simp] theorem State.granuleWrite_cogs (s : State) (g : Nat) (xs : List (Nat × Byte)) : (s.granuleWrite g xs).cogs = s.cogs := by
  have hread : (if 16 ≤ xs.length then ((.good, s) : Ecc × State) else s.mramRead g).2.cogs = s.cogs := by split <;> simp
  have hwrite (t : State) : (xs.foldl (fun (t : State) x => t.setByte x.1 x.2) t).cogs = t.cogs :=
    foldl_keeps State.cogs (fun (t : State) x => t.setByte x.1 x.2) (fun _ _ => rfl) xs t
  unfold State.granuleWrite
  generalize (if 16 ≤ xs.length then ((.good, s) : Ecc × State) else s.mramRead g) = r at hread ⊢
  dsimp only
  (repeat' split) <;> simp [hread, hwrite, State.eccFix, State.camWear]

@[simp] theorem State.mramWrite_cogs (s : State) (xs : List (Nat × Byte)) : (s.mramWrite xs).cogs = s.cogs :=
  foldl_keeps State.cogs _ (fun _ _ => State.granuleWrite_cogs ..) _ s

theorem look_map_values {α : Type} (f : Nat × α → Nat × α) (hf : ∀ x, (f x).1 = x.1) (m : Sparse α) (a : Nat) :
    look (m.map f) a = (look m a).map fun v => (f (a, v)).2 := by
  induction m with
  | nil => rfl
  | cons x m ih =>
    obtain ⟨k, v⟩ := x
    have hk : f (k, v) = (k, (f (k, v)).2) := Prod.ext (hf (k, v)) rfl
    rw [List.map_cons, hk, look_cons, look_cons, ih]
    split
    · next h => subst h; rfl
    · rfl

/-- A cog's own store loses none of its reservations (R159). -/
theorem State.cog_dropReservations_self (s : State) (c a n i : Nat) : (s.dropReservations c a n (some i)).cog i = s.cog i := by
  unfold State.dropReservations State.cog
  dsimp only [lookD]
  rw [look_map_values _ (fun x => by (repeat' split) <;> rfl)]
  simp

theorem State.writeData_cog (s : State) (i a : Nat) (w : Word) : (s.writeData i a w).cog i = s.cog i := by
  unfold State.writeData
  split
  · exact State.cog_of_cogs (by simp [State.setWord, State.eccFix]) i
  · exact (State.cog_dropReservations_self ..).trans (State.cog_of_cogs (by simp [State.setWord, State.eccFix]) i)
  · rfl

theorem State.writeData_regs (s : State) (i a : Nat) (w : Word) : (s.writeData i a w).regs = s.regs := by
  unfold State.writeData
  split <;> simp [State.setWord, State.eccFix, State.dropReservations]

/-- A store of a cog changes nothing of the cog itself. -/
theorem State.writeWords_cog (s : State) (i a : Nat) (ws : List Word) : (s.writeWords i a ws).cog i = s.cog i := by
  unfold State.writeWords
  split
  · exact State.cog_of_cogs (State.mramWrite_cogs ..) i
  · exact foldl_keeps (State.cog · i) _ (fun _ _ => State.writeData_cog ..) _ s

theorem State.writeWords_regs (s : State) (i : Nat) {a : Nat} (ws : List Word) (ha : spaceOf a ≠ .prog) : (s.writeWords i a ws).regs = s.regs := by
  unfold State.writeWords
  rw [if_neg ha]
  exact foldl_keeps State.regs _ (fun _ _ => State.writeData_regs ..) _ s

/-! ### The words that a store writes -/

/-- The container of a mapped data address outside the program window (R7, R52, R168). -/
def containerOf (i a : Nat) : Nat := if a < 0x4000 then localBase i + 2 * a else sharedBase (casOf i) + 2 * (a - 0x100000)

theorem State.writeData_mem (s : State) (i a : Nat) (w : Word) (ha : spaceOf a = .loc ∨ spaceOf a = .shared) :
    (s.writeData i a w).mem = (s.setWord (containerOf i a) w).mem := by
  have hlow : spaceOf a = .loc → a < 0x4000 := fun h => by
    unfold spaceOf at h
    by_contra hn
    rw [if_neg hn] at h
    split at h
    · cases h
    · split at h <;> cases h
  have hhigh : spaceOf a = .shared → ¬ a < 0x4000 := fun h hn => by
    rw [spaceOf, if_pos hn] at h
    cases h
  unfold State.writeData containerOf
  rcases ha with h | h
  · rw [h, if_pos (hlow h)]
    simp
  · rw [h, if_neg (hhigh h)]
    simp

/-- Words written to consecutive data addresses stand in consecutive containers, and no other byte changes (R55). -/
theorem State.foldl_writeData (i a b : Nat) (ws : List Word) : ∀ (s : State) (n : Nat), s.Ok →
    (∀ k, n ≤ k → k < n + ws.length → (spaceOf (a + k) = .loc ∨ spaceOf (a + k) = .shared) ∧ containerOf i (a + k) = b + 2 * k) →
    let t := (ws.zipIdx n).foldl (fun (t : State) (w, k) => t.writeData i (a + k) w) s
    (∀ k w, ws[k]? = some w → t.word (b + 2 * (n + k)) = w) ∧ ∀ x, x < b + 2 * n ∨ b + 2 * (n + ws.length) ≤ x → t.byte x = s.byte x := by
  induction ws with
  | nil => exact fun s n _ _ => ⟨fun k w h => by simp at h, fun x _ => rfl⟩
  | cons w ws ih =>
    intro s n hs hput
    obtain ⟨hspace, hat⟩ := hput n (Nat.le_refl n) (by simp)
    have hfirst : (s.writeData i (a + n) w).mem = (s.setWord (b + 2 * n) w).mem := by rw [← hat]; exact s.writeData_mem i _ w hspace
    obtain ⟨hwords, hrest⟩ := ih (s.writeData i (a + n) w) (n + 1) (State.writeData_wf _ _ _ _ hs)
      fun k hk hl => hput k (by omega) (by simp only [List.length_cons]; omega)
    refine ⟨fun k v hv => ?_, fun x hx => ?_⟩
    · cases k with
      | zero =>
        obtain rfl : w = v := by simpa using hv
        have hlo := hrest (b + 2 * n) (by omega)
        have hhi := hrest (b + 2 * n + 1) (by omega)
        rw [State.byte_of_mem hfirst] at hlo hhi
        exact (congrArg₂ (fun (x y : Byte) => BitVec.ofNat 14 (x.toNat + 256 * y.toNat)) hlo hhi).trans (State.word_setWord hs _ w)
      | succ k =>
        have hnext := hwords k v (by simpa using hv)
        rwa [Nat.add_right_comm, Nat.add_assoc n k 1] at hnext
    · simp only [List.length_cons] at hx
      rw [List.zipIdx_cons, List.foldl_cons, hrest x (by omega), State.byte_of_mem hfirst, State.byte_setWord hs, if_neg (by omega), if_neg (by omega)]

/-- The words of an access to the cog's local store, or to the shared store of its cassette. -/
theorem State.writeWords_words {s : State} (hs : s.Ok) (i a b : Nat) (ws : List Word) (hprog : spaceOf a ≠ .prog)
    (hput : ∀ k, k < ws.length → (spaceOf (a + k) = .loc ∨ spaceOf (a + k) = .shared) ∧ containerOf i (a + k) = b + 2 * k) :
    (∀ k w, ws[k]? = some w → (s.writeWords i a ws).word (b + 2 * k) = w) ∧
    ∀ x, x < b ∨ b + 2 * ws.length ≤ x → (s.writeWords i a ws).byte x = s.byte x := by
  unfold State.writeWords
  rw [if_neg hprog]
  obtain ⟨hwords, hrest⟩ := State.foldl_writeData i a b ws s 0 hs fun k _ hk => hput k (by omega)
  exact ⟨fun k w hw => by simpa using hwords k w hw, fun x hx => hrest x (by omega)⟩

/-- The low bytes of an access through the program window (R55). -/
theorem State.writeWords_bytes {s : State} (hs : s.Ok) (i a : Nat) (ws : List Word) (hprog : ws ≠ [] → spaceOf a = .prog) :
    let b := progBase (casOf i) + (a - 0x1000000)
    (∀ k w, ws[k]? = some w → (s.writeWords i a ws).byte (b + k) = BitVec.ofNat 8 w.toNat) ∧
    ∀ x, x < b ∨ b + ws.length ≤ x → (s.writeWords i a ws).byte x = s.byte x := by
  intro b
  by_cases hnil : ws = []
  · subst hnil
    refine ⟨fun k w h => by simp at h, fun x _ => ?_⟩
    unfold State.writeWords
    split
    · rfl
    · rfl
  · have hkeys : (ws.zipIdx.map fun (w, k) => (b + k, BitVec.ofNat 8 w.toNat)).map (·.1) = (List.range' 0 ws.length).map (b + ·) := by
      rw [← List.zipIdx_map_snd 0 ws, List.map_map, List.map_map]
      rfl
    obtain ⟨hin, hout⟩ := State.byte_mramWrite hs (xs := ws.zipIdx.map fun (w, k) => (b + k, BitVec.ofNat 8 w.toNat))
      (by rw [hkeys]; exact (List.nodup_range' ..).map fun _ _ h => Nat.add_left_cancel h)
    unfold State.writeWords
    rw [if_pos (hprog hnil)]
    refine ⟨fun k w hw => ?_, fun x hx => hout x ?_⟩
    · exact hin (b + k, BitVec.ofNat 8 w.toNat) (List.mem_map.2 ⟨(w, k), List.mem_zipIdx_iff_getElem?.2 hw, rfl⟩)
    · rw [hkeys]
      simp only [List.mem_map, List.mem_range'_1, not_exists, not_and]
      omega

/-! ### The commands -/

/-- What leaves the buffer, and what is written (R57, R59). -/
theorem State.drainStore_eq {s : State} {i : Nat} {e : SbEntry} {es : List SbEntry} (h : (s.cog i).sbuf = e :: es) (hr : s.drainReady i = true) :
    s.drainStore i = (s.setCog i { s.cog i with sbuf := es, loads := (s.cog i).loads.map fun l => { l with behind := l.behind - 1 } }).writeWords
      i e.addr e.data := by
  unfold State.drainStore
  rw [h]
  exact if_pos hr

theorem State.Ok.setCog {s : State} (hs : s.Ok) (i : Nat) (c : Cog) : (s.setCog i c).Ok := hs.of_mem (by simp)

theorem spaceOf_loc {a : Nat} (h : a < 0x4000) : spaceOf a = .loc := if_pos h

theorem spaceOf_shared {a : Nat} (h : 0x100000 ≤ a) (h' : a < 0x140000) : spaceOf a = .shared := by
  rw [spaceOf, if_neg (by omega), if_pos ⟨h, h'⟩]

theorem spaceOf_prog_iff {a : Nat} : spaceOf a = .prog ↔ 0x1000000 ≤ a ∧ a < 0x1080000 := by
  unfold spaceOf
  split_ifs with hloc hshared hprog
  · exact iff_of_false (by decide) (by omega)
  · exact iff_of_false (by decide) (by omega)
  · exact iff_of_true rfl hprog
  · exact iff_of_false (by decide) hprog

/-- LOAD_ANSWER gives the oldest load without an answer its answer, and changes no byte (R49). -/
theorem State.answerLoad_answers {s : State} {i k : Nat} {l : Load} (hk : (s.cog i).loads.findIdx? (·.answer.isNone) = some k)
    (hl : (s.cog i).loads[k]? = some l) (hw : (s.cog i).loadWaits l = false) :
    ∃ vs e, ((s.answerLoad i).cog i).loads = (s.cog i).loads.set k (l.answered vs e) := by
  have hcogs : (if spaceOf l.addr = .unmapped then (([], none, s.unmapped i l.addr false) : List Nat × Option Nat × State)
      else s.readWords i l.addr l.w.words).2.2.cogs = s.cogs := by
    split
    · exact State.unmapped_cogs ..
    · exact State.readWords_cogs ..
  rw [State.answerLoad_eq hk hl hw]
  dsimp only
  rw [State.setCog_self, State.cog_of_cogs hcogs]
  exact ⟨_, _, rfl⟩

/-- Settles O16: a drained entry is one write of its words, and an answer writes none. -/
theorem drainStoresExactlyTheEntry : Obligations.DrainStoresExactlyTheEntry := by
  refine ⟨?_, ?_⟩
  · intro i s e es hs hon hbuf hready
    have hok := hs.setCog i { s.cog i with sbuf := es, loads := (s.cog i).loads.map fun l => { l with behind := l.behind - 1 } }
    refine ⟨s.drainStore i, congrArg Host.Outcome.next (if_pos hon), ?_, (State.drainStore_keeps ..).2, ?_⟩
    · rw [State.drainStore_eq hbuf hready, State.writeWords_cog, State.setCog_self]
    · rw [State.drainStore_eq hbuf hready]
      refine ⟨fun hprog => (State.writeWords_regs _ _ _ hprog).trans (State.setCog_frame ..).2.1, fun hloc => ?_, fun hlo hhi => ?_, fun hlo hhi => ?_⟩
      · obtain ⟨hwords, hrest⟩ := State.writeWords_words hok i e.addr (localBase i + 2 * e.addr) e.data
          (fun h => by have := spaceOf_prog_iff.1 h; omega)
          fun k hk => ⟨.inl (spaceOf_loc (by omega)), by rw [containerOf, if_pos (by omega)]; omega⟩
        refine ⟨fun k w hw => ?_, fun a ha => hrest a (by omega)⟩
        rw [Nat.mul_add, ← Nat.add_assoc]
        exact hwords k w hw
      · exact State.writeWords_words hok i e.addr _ e.data (fun h => by have := spaceOf_prog_iff.1 h; omega)
          fun k hk => ⟨.inr (spaceOf_shared (by omega) (by omega)), by rw [containerOf, if_neg (by omega)]; omega⟩
      · exact State.writeWords_bytes hok i e.addr e.data fun hne => spaceOf_prog_iff.2 ⟨hlo, by have := List.length_pos_iff.2 hne; omega⟩
  · intro i s k l hon hk hl hw
    obtain ⟨vs, e, hloads⟩ := State.answerLoad_answers hk hl hw
    refine ⟨(s.answerLoad i).settle, s.answerLoad i, congrArg Host.Outcome.next (if_pos hon), rfl, ⟨_, hloads, rfl, rfl, rfl, rfl⟩, fun a => ?_, ?_⟩
    · exact State.byte_of_mem (by simp) a
    · simp

end Sys2Proof.Machine
end

section
/-! PROOFS. Calls and returns (R80, R81, R152). -/

namespace Sys2Proof.Machine

/-- The command of a trigger at the head acts on the moved value. -/
theorem exec_presented {e : Instr} {s : State} {i : Nat} {t : Trigger} {f : Nat → Width → State → State} {p : Presented}
    (he : exec e s = .next (s.onTrigger i t f)) (hp : s.presented i = some p) (ht : p.op = t) : exec e s = .next (f p.val.toNat p.w s) := by
  rw [he, State.onTrigger_presented hp ht]

/-! ### Calls and returns -/

/-- RET at the head, by the words read: the frame's first two, and for a frame of an exception the third (R81, R152). -/
theorem exec_ret {i : CogId} {s : State} {p : Presented} {lo hi : Nat} {e e' : Option (Nat × Nat)} {u t : State} {fs : List Nat}
    (hp : s.presented i = some p) (ht : p.op = .ret) (h1 : s.readStack i ((s.cog i).get .sp) 2 = ([lo, hi], e, u))
    (h2 : (if bit hi 13 then u.readStack i ((s.cog i).get .sp + 2) 1 else ([], none, u)) = (fs, e', t)) :
    exec (.ret i) s = .next (match e <|> e' with
      | some (k, a) => t.stackError i k a
      | none =>
        if bit hi 13 then (t.setCog i { t.cog i with cur := (t.cog i).cur.map fun k =>
          { k with exret := some (lo + hi % 32 * 2 ^ 14, BitVec.ofNat 14 (fs.getD 0 0)) } }).accepted i
        else (t.setCog i (((t.cog i).set .sp (((s.cog i).get .sp + 2) % 16384)).aim (lo + hi % 32 * 2 ^ 14))).accepted i) := by
  have h3 : (if bit ([lo, hi].getD 1 0) 13 then u.readStack i ((s.cog i).get .sp + 2) 1 else ([], none, u)) = (fs, e', t) := h2
  refine (exec_presented rfl hp ht).trans ?_
  dsimp only
  rw [h1]
  dsimp only
  rw [h3]
  cases e <;> cases e' <;> rfl

/-- An exception return that no event above the stacked level, or a boundary held back, follows (R152, R153). -/
theorem State.returnFrom_unstacks (t : State) (i pc target : Nat) (f : Word) (d : Nat)
    (h : (t.cog i).mayChain d = false ∨ ∀ k, t.presentedClass i = some k → k + 1 ≤ levelOf f) :
    t.returnFrom i pc target f d = (t.setCog i (t.cog i).unstack).transfer i target := by
  have hnone : (if (t.cog i).mayChain d then t.chainClass i (levelOf f) else none) = none := by
    rcases h with h | h
    · rw [h]
      rfl
    · have hchain : t.chainClass i (levelOf f) = none := by
        unfold State.chainClass
        split
        · next k hk => exact if_neg (Nat.not_lt.2 (h k hk))
        · rfl
      rw [hchain, ite_self]
  unfold State.returnFrom
  rw [hnone]

/-- Settles O17: a call enters its two words, and a return reads its frame back. -/
theorem callAndReturnKeepTheFrame : Obligations.CallAndReturnKeepTheFrame := by
  intro i s p hp
  refine ⟨fun ht hroom => ?_, fun ht hfull => ?_, fun ht lo hi u h1 => ⟨fun hcall => ?_, fun hexc f t h2 => ?_, fun hexc f k a t h2 => ?_⟩,
    fun ht lo hi k a u h1 => ?_, fun t pc target f d h => State.returnFrom_unstacks t i pc target f d h⟩
  · exact (exec_presented rfl hp ht).trans (congrArg Host.Outcome.next (if_neg (Nat.not_lt.2 hroom)))
  · exact (exec_presented rfl hp ht).trans (congrArg Host.Outcome.next (if_pos hfull))
  · exact (exec_ret hp ht h1 (if_neg (by simp [hcall]))).trans (congrArg Host.Outcome.next (if_neg (by simp [hcall])))
  · exact (exec_ret hp ht h1 ((if_pos hexc).trans h2)).trans (congrArg Host.Outcome.next (if_pos hexc))
  · exact exec_ret hp ht h1 ((if_pos hexc).trans h2)
  · by_cases hexc : bit hi 13 = true
    · rw [if_pos hexc]
      exact exec_ret hp ht h1 (if_pos hexc)
    · rw [if_neg hexc]
      exact exec_ret hp ht h1 (if_neg hexc)

end Sys2Proof.Machine
end

section
/-! PROOFS. The triggers of hardware loops (R75, R79). -/

namespace Sys2Proof.Machine

/-! ### Loop states as words -/

theorem loopWords_length (ls : List Loop) : (loopWords ls).length = 25 := by
  rcases ls with _ | ⟨a, _ | ⟨b, _ | ⟨c, _ | ⟨d, ls⟩⟩⟩⟩ <;> rfl

/-- A level whose addresses have 19 bits is put together again from its words. -/
theorem Loop.of_words (l : Loop) (h : l.start < 0x80000 ∧ l.last < 0x80000) :
    Loop.mk (l.start % 2 ^ 14 + l.start / 2 ^ 14 % 32 * 2 ^ 14) (l.last % 2 ^ 14 + l.last / 2 ^ 14 % 32 * 2 ^ 14)
      (l.count % 2 ^ 14 + l.count / 2 ^ 14 * 2 ^ 14) = l := by
  obtain ⟨start, last, count⟩ := l
  obtain ⟨hstart, hlast⟩ := h
  dsimp only at hstart hlast ⊢
  rw [Loop.mk.injEq]
  omega

/-- The words of a loop state of at most four levels install it (R79). -/
theorem wordsLoops_loopWords (ls : List Loop) (hlen : ls.length ≤ 4) (h : ∀ l ∈ ls, l.start < 0x80000 ∧ l.last < 0x80000) :
    wordsLoops (loopWords ls) = ls := by
  have hlevels : ls.map (fun l => Loop.mk (l.start % 2 ^ 14 + l.start / 2 ^ 14 % 32 * 2 ^ 14) (l.last % 2 ^ 14 + l.last / 2 ^ 14 % 32 * 2 ^ 14)
      (l.count % 2 ^ 14 + l.count / 2 ^ 14 * 2 ^ 14)) = ls :=
    (List.map_congr_left fun l hl => l.of_words (h l hl)).trans ls.map_id'
  refine Eq.trans ?_ hlevels
  match ls, hlen with
  | [], _ => rfl
  | [_], _ => rfl
  | [_, _], _ => rfl
  | [_, _, _], _ => rfl
  | [_, _, _, _], _ => rfl
  | _ :: _ :: _ :: _ :: _ :: _, hlen => exact absurd hlen (by simp)

theorem loopWords_lt (ls : List Loop) (hlen : ls.length ≤ 4) (h : ∀ l ∈ ls, l.start < 0x80000 ∧ l.last < 0x80000 ∧ l.count < 2 ^ 28) :
    ∀ x ∈ loopWords ls, x < 2 ^ 14 := by
  intro x hx
  unfold loopWords at hx
  rcases List.mem_cons.1 hx with rfl | hx
  · omega
  · obtain ⟨k, -, hk⟩ := List.mem_flatMap.1 hx
    split at hk
    · next l hl =>
      obtain ⟨hstart, hlast, hcount⟩ := h l (List.mem_of_getElem? hl)
      simp only [List.mem_cons, List.not_mem_nil, or_false] at hk
      omega
    · simp only [List.mem_cons, List.not_mem_nil, or_false] at hk
      omega

/-! ### LP_SAVE -/

/-- The store buffer entry of word `k` of a saved loop state (R79). -/
def savedEntry (v : Nat) (ls : List Loop) (k : Nat) : SbEntry := ⟨(v + k) % 16384, [BitVec.ofNat 14 ((loopWords ls).getD k 0)]⟩

/-- What stands after `n` words of the loop state of `s` have entered the store buffer, which was empty, and the first `m` of them have reached the local
store. -/
structure LoopSaved (s : State) (i v m n : Nat) (t : State) : Prop where
  ok    : t.Ok
  loops : (t.cog i).loops = (s.cog i).loops
  loads : (t.cog i).loads = []
  saved : (t.cog i).cur.map (·.saved) = some n
  regs  : t.regs = s.regs
  cogs  : ∀ j, j ≠ i → t.cog j = s.cog j
  sbuf  : (t.cog i).sbuf = (List.range' m (n - m)).map (savedEntry v (s.cog i).loops)
  words : ∀ k, k < m → t.word (localBase i + 2 * ((v + k) % 16384)) = BitVec.ofNat 14 ((loopWords (s.cog i).loops).getD k 0)
  bytes : ∀ a, (∀ k, k < m → a ≠ localBase i + 2 * ((v + k) % 16384) ∧ a ≠ localBase i + 2 * ((v + k) % 16384) + 1) → t.byte a = s.byte a

theorem LoopSaved.start {s : State} {i : Nat} (v : Nat) (hs : s.Ok) (hbuf : (s.cog i).sbuf = []) (hloads : (s.cog i).loads = [])
    (hcur : (s.cog i).cur.map (·.saved) = some 0) : LoopSaved s i v 0 0 s :=
  ⟨hs, rfl, hloads, hcur, rfl, fun _ _ => rfl, hbuf, fun k hk => absurd hk (Nat.not_lt_zero k), fun _ _ => rfl⟩

theorem LoopSaved.held {s t : State} {i v m n : Nat} (h : LoopSaved s i v m n t) : (t.cog i).sbuf.length = n - m := by
  rw [h.sbuf, List.length_map, List.length_range']

/-- A word enters while an entry is free. -/
theorem State.saveWords_room {t : State} {i n : Nat} (v x : Nat) (hroom : (t.cog i).sbuf.length < 4) (hsaved : (t.cog i).cur.map (·.saved) = some n) :
    t.saveWords i v [x] = t.setCog i { t.cog i with
      sbuf := (t.cog i).sbuf ++ [⟨(v + n) % 16384, [BitVec.ofNat 14 x]⟩], cur := (t.cog i).cur.map fun k => { k with saved := n + 1 } } := by
  unfold State.saveWords
  dsimp only [List.foldl_cons, List.foldl_nil]
  rw [if_neg (Nat.not_le.2 hroom), if_neg (Nat.not_le.2 hroom), hsaved]
  rfl

/-- With four entries held the oldest leaves first. -/
theorem State.saveWords_full {t : State} {i : Nat} (v x : Nat) (hfull : 4 ≤ (t.cog i).sbuf.length) (hroom : ((t.drainStore i).cog i).sbuf.length < 4) :
    t.saveWords i v [x] = (t.drainStore i).saveWords i v [x] := by
  unfold State.saveWords
  dsimp only [List.foldl_cons, List.foldl_nil]
  rw [if_pos hfull, if_neg (Nat.not_le.2 hroom), if_neg (Nat.not_le.2 hroom), if_neg (Nat.not_le.2 hroom)]

theorem State.saveWords_append (s : State) (i v : Nat) (xs ys : List Nat) : s.saveWords i v (xs ++ ys) = (s.saveWords i v xs).saveWords i v ys :=
  List.foldl_append

theorem LoopSaved.enter {s t : State} {i v m n : Nat} (h : LoopSaved s i v m n t) (hm : m ≤ n) (hroom : n - m < 4) :
    LoopSaved s i v m (n + 1) (t.saveWords i v [(loopWords (s.cog i).loops).getD n 0]) := by
  rw [State.saveWords_room v _ (h.held ▸ hroom) h.saved]
  constructor
  case ok => exact h.ok.setCog ..
  case loops => rw [State.setCog_self]; exact h.loops
  case loads => rw [State.setCog_self]; exact h.loads
  case saved =>
    have hsaved := h.saved
    rw [State.setCog_self]
    cases hcur : (t.cog i).cur with
    | none => simp [hcur] at hsaved
    | some k => rfl
  case regs => exact h.regs
  case cogs => exact fun j hj => (State.setCog_ne _ _ _ (Ne.symm hj)).trans (h.cogs j hj)
  case sbuf =>
    have hlast : List.range' m (n + 1 - m) = List.range' m (n - m) ++ [n] := by
      rw [show n + 1 - m = n - m + 1 by omega, List.range'_concat, Nat.one_mul, Nat.add_sub_cancel' hm]
    rw [State.setCog_self, hlast, List.map_append, ← h.sbuf]
    rfl
  case words => exact h.words
  case bytes => exact h.bytes

/-- The oldest entry, of one word in the local store, leaves. -/
theorem State.drainStore_local {t : State} {i a : Nat} {w : Word} {es : List SbEntry} (h : (t.cog i).sbuf = ⟨a, [w]⟩ :: es)
    (hloads : (t.cog i).loads = []) (ha : a < 0x4000) :
    t.drainStore i = ((t.setCog i { t.cog i with sbuf := es }).setWord (localBase i + 2 * a) w).eccFix (localBase i + 2 * a) := by
  have hready : t.drainReady i = true := by
    unfold State.drainReady
    rw [h]
    simp [spaceOf_loc ha, Cog.readsFirst, hloads]
  have hstay : (t.cog i).loads.map (fun l => { l with behind := l.behind - 1 }) = (t.cog i).loads := by rw [hloads]; rfl
  rw [State.drainStore_eq h hready, hstay]
  simp [State.writeWords, State.writeData, spaceOf_loc ha]

theorem LoopSaved.drain {s t : State} {i v m n : Nat} (h : LoopSaved s i v m n t) (hm : m < n) (hspan : n ≤ 16384) :
    LoopSaved s i v (m + 1) n (t.drainStore i) := by
  have hsbuf : (t.cog i).sbuf = savedEntry v (s.cog i).loops m :: (List.range' (m + 1) (n - (m + 1))).map (savedEntry v (s.cog i).loops) := by
    rw [h.sbuf, show n - m = n - (m + 1) + 1 by omega, List.range'_succ, List.map_cons]
  have hdrain := State.drainStore_local hsbuf h.loads (Nat.mod_lt _ (by decide))
  generalize hc : ({ t.cog i with sbuf := (List.range' (m + 1) (n - (m + 1))).map (savedEntry v (s.cog i).loops) } : Cog) = c at hdrain
  generalize hb : localBase i + 2 * ((v + m) % 16384) = b at hdrain
  have hcogs : (t.drainStore i).cogs = (t.setCog i c).cogs := by rw [hdrain]; rfl
  have hcog : (t.drainStore i).cog i = c := (State.cog_of_cogs hcogs i).trans (State.setCog_self ..)
  have hmem : (t.drainStore i).mem = (t.setWord b (BitVec.ofNat 14 ((loopWords (s.cog i).loops).getD m 0))).mem := by rw [hdrain]; rfl
  constructor
  case ok => exact State.drainStore_wf _ _ h.ok
  case loops => rw [hcog, ← hc]; exact h.loops
  case loads => rw [hcog, ← hc]; exact h.loads
  case saved => rw [hcog, ← hc]; exact h.saved
  case regs => rw [hdrain]; exact h.regs
  case cogs => exact fun j hj => (State.cog_of_cogs hcogs j).trans ((State.setCog_ne _ _ _ (Ne.symm hj)).trans (h.cogs j hj))
  case sbuf => rw [hcog, ← hc]
  case words =>
    intro k hk
    unfold State.word
    rw [State.byte_of_mem hmem, State.byte_of_mem hmem]
    by_cases hkm : k = m
    · subst hkm
      rw [hb]
      exact State.word_setWord h.ok _ _
    · have hold := h.words k (by omega)
      unfold State.word at hold
      rw [State.byte_setWord h.ok, State.byte_setWord h.ok, if_neg (by omega), if_neg (by omega), if_neg (by omega), if_neg (by omega)]
      exact hold
  case bytes =>
    intro a ha
    obtain ⟨hlo, hhi⟩ := ha m (Nat.lt_succ_self m)
    rw [State.byte_of_mem hmem, State.byte_setWord h.ok, if_neg (by omega), if_neg (by omega)]
    exact h.bytes a fun k hk => ha k (by omega)

/-- The first `n` words of a loop state saved with an empty store buffer. -/
theorem LoopSaved.take {s : State} {i v : Nat} (h : LoopSaved s i v 0 0 s) :
    ∀ n, n ≤ 25 → LoopSaved s i v (n - 4) n (s.saveWords i v ((loopWords (s.cog i).loops).take n))
  | 0, _ => h
  | n + 1, hn => by
    have ih := h.take n (by omega)
    have hword : (loopWords (s.cog i).loops).take (n + 1) = (loopWords (s.cog i).loops).take n ++ [(loopWords (s.cog i).loops).getD n 0] := by
      have hlt : n < (loopWords (s.cog i).loops).length := by rw [loopWords_length]; omega
      rw [List.take_succ_eq_append_getElem hlt, List.getD_eq_getElem _ _ hlt]
    rw [hword, State.saveWords_append]
    generalize s.saveWords i v ((loopWords (s.cog i).loops).take n) = t at ih ⊢
    by_cases hroom : n < 4
    · rw [show n + 1 - 4 = n - 4 by omega]
      exact ih.enter (by omega) (by omega)
    · have hdrained := ih.drain (by omega) (by omega)
      rw [State.saveWords_full v _ (by rw [ih.held]; omega) (by rw [hdrained.held]; omega), show n + 1 - 4 = n - 4 + 1 by omega]
      exact hdrained.enter (by omega) (by omega)

/-! ### The commands -/

/-- LP_SAVE with an empty store buffer: 21 words in the local store, the last four held (R79). -/
theorem exec_lpSave {i : CogId} {s : State} {p : Presented} (hp : s.presented i = some p) (ht : p.op = .lpSave) (hs : s.Ok)
    (hbuf : (s.cog i).sbuf = []) (hloads : (s.cog i).loads = []) (hcur : (s.cog i).cur.map (·.saved) = some 0) :
    ∃ u, exec (.lpSave i) s = .next (u.accepted i) ∧ LoopSaved s i p.val.toNat 21 25 u := by
  have hall := (LoopSaved.start p.val.toNat hs hbuf hloads hcur).take 25 (Nat.le_refl 25)
  rw [List.take_of_length_le (by rw [loopWords_length])] at hall
  refine ⟨_, (exec_presented rfl hp ht).trans ?_, hall⟩
  simp only [hcur, Option.getD_some, List.drop_zero]
  exact congrArg Host.Outcome.next (if_neg (by simp [hall.saved]))

/-- Settles O18: a level enters or its body is skipped, the words of a loop state enter one after another, and they install it again. -/
theorem loopTriggersKeepTheLevels : Obligations.LoopTriggersKeepTheLevels := by
  refine ⟨fun i s p hp => ⟨fun ht hn => ?_, fun ht hn => ?_, fun ht hs hbuf hloads hzero hsome => ?_, fun ht => ?_, fun ht ws u h => ?_, fun ht ws k a u h => ?_⟩,
    fun ls hlen h => ⟨?_, loopWords_length ls, loopWords_lt ls hlen h⟩⟩
  · exact (exec_presented rfl hp ht).trans (congrArg Host.Outcome.next (if_neg hn))
  · exact (exec_presented rfl hp ht).trans (congrArg Host.Outcome.next (if_pos hn))
  · obtain ⟨k, hk⟩ := Option.isSome_iff_exists.1 hsome
    obtain ⟨u, hrun, hu⟩ := exec_lpSave hp ht hs hbuf hloads (by rw [hk, Option.map_some, hzero k hk])
    exact ⟨u, hrun, hu.loops, hu.regs, hu.cogs, hu.sbuf, hu.words, hu.bytes⟩
  · intro done u
    exact (exec_presented rfl hp ht).trans rfl
  · refine (exec_presented rfl hp ht).trans ?_
    dsimp only
    rw [h]
  · refine (exec_presented rfl hp ht).trans ?_
    dsimp only
    rw [h]
    rfl
  · exact wordsLoops_loopWords ls hlen fun l hl => ⟨(h l hl).1, (h l hl).2.1⟩

end Sys2Proof.Machine
end

section
/-! PROOFS. What fetching does to a cog: the line buffer, transfers, LINE_FETCH and PREFETCH (R65 to R68, R78). -/

namespace Sys2Proof.Machine

/-! ### A cog apart from its fetch state -/

/-- A cog without its fetch state: where it executes, the line buffer, the target cache and what it waits for. -/
def Cog.withoutFetch (c : Cog) : Cog :=
  { c with pc := 0, lines := [], tcache := [], inUse := none, coming := none, miss := false, fetchWait := false, endMark := none }

@[simp] theorem Cog.transferTo_withoutFetch (c : Cog) (a : Nat) : (c.transferTo a).1.withoutFetch = c.withoutFetch := by
  unfold Cog.transferTo
  dsimp only
  (repeat' split) <;> rfl

@[simp] theorem Cog.transferTo_pc (c : Cog) (a : Nat) : (c.transferTo a).1.pc = a := by
  unfold Cog.transferTo
  dsimp only
  (repeat' split) <;> rfl

/-- A line that was read ahead is kept or enters the line buffer. -/
theorem Cog.place_forms (c : Cog) : ∃ ls f, c.place = { c with lines := ls, coming := f } := by
  unfold Cog.place
  split
  · next f _ =>
    split
    · exact ⟨addLine c.lines c.pc f, none, rfl⟩
    · exact ⟨c.lines, c.coming, rfl⟩
  · exact ⟨c.lines, c.coming, rfl⟩

theorem State.keepBody_forms (s : State) (i : Nat) : ∃ ls f, s.keepBody i = s.setCog i { s.cog i with lines := ls, coming := f } := by
  unfold State.keepBody
  split
  · exact ⟨_, none, rfl⟩
  · obtain ⟨ls, f, h⟩ := (s.cog i).place_forms
    exact ⟨ls, f, by rw [h]⟩

theorem State.transfer_cogs (s : State) (i a : Nat) : (s.transfer i a).cogs = (s.setCog i ((s.cog i).transferTo (a % 0x80000)).1).cogs := by
  unfold State.transfer
  dsimp only
  split
  · exact State.bump_cogs ..
  · rfl

@[simp] theorem State.readProgram_cogs (s : State) (c a n : Nat) : (s.readProgram c a n).2.cogs = s.cogs := by
  unfold State.readProgram
  refine foldl_pair_keeps State.cogs _ ?_ _ _
  exact fun q g => State.readProg_cogs q.2 c g

/-! ### Reads of lines -/

theorem State.readProgram_addr (s : State) (c a n : Nat) : (s.readProgram c a n).1.addr = a % 0x80000 := rfl

theorem State.readProgram_length (s : State) (c a n : Nat) : (s.readProgram c a n).1.bytes.length = n := by
  unfold State.readProgram
  rw [List.length_map, List.length_range]

theorem Fetched.slice_length {f : Fetched} {a n : Nat} (h : (a + 0x80000 - f.addr) % 0x80000 + n ≤ f.bytes.length) : (f.slice a n).bytes.length = n := by
  unfold Fetched.slice
  rw [List.length_take, List.length_drop]
  omega

/-- The 32 bytes from a target, of the read of its line and of what follows it to the target's own 32 bytes (R67). -/
theorem State.readProgram_target (s : State) (c a : Nat) : (((s.readProgram c (lineOf a) (32 + a % 32)).1).slice a 32).bytes.length = 32 := by
  refine Fetched.slice_length ?_
  rw [State.readProgram_addr, State.readProgram_length, lineOf]
  omega

/-- LINE_FETCH after a missed transfer (R67 step 4). -/
theorem State.fetchLine_miss {s : State} {i : Nat} (h : (s.cog i).miss = true) :
    ∃ f ls x, ((s.fetchLine i).cog i) = { s.cog i with
        miss := false, inUse := some f, tcache := (f :: (s.cog i).tcache).take 32, lines := ls, coming := x } ∧
      f.addr = (s.cog i).pc % 0x80000 ∧ f.bytes.length = 32 := by
  unfold State.fetchLine
  rw [if_pos h]
  have hlength := s.readProgram_target (casOf i) (s.cog i).pc
  have hcog : (s.readProgram (casOf i) (lineOf (s.cog i).pc) (32 + (s.cog i).pc % 32)).2.cog i = s.cog i := State.cog_of_cogs (State.readProgram_cogs ..) i
  dsimp only
  rw [hcog]
  generalize s.readProgram (casOf i) (lineOf (s.cog i).pc) (32 + (s.cog i).pc % 32) = r at hlength ⊢
  generalize hd : ({ s.cog i with
    miss := false, inUse := some (r.1.slice (s.cog i).pc 32), tcache := (r.1.slice (s.cog i).pc 32 :: (s.cog i).tcache).take 32,
    lines := addLine (s.cog i).lines (s.cog i).pc (r.1.slice (lineOf (s.cog i).pc) 32) } : Cog) = d
  obtain ⟨ls, x, hkeep⟩ := (r.2.setCog i d).keepBody_forms i
  refine ⟨r.1.slice (s.cog i).pc 32, ls, x, ?_, rfl, hlength⟩
  rw [hkeep, State.setCog_self, State.setCog_self, ← hd]

/-- LINE_FETCH on a cog that runs and issues (R67). -/
theorem exec_lineFetch {i : CogId} {s : State} (hrun : s.cogRuns i = true) (hissuing : (s.cog i).run = .issuing) :
    exec (.lineFetch i) s = .next ((s.fetchLine i).issue i) :=
  congrArg Host.Outcome.next (if_pos (by rw [hrun, hissuing]; rfl))

theorem exec_prefetch {i : CogId} {s : State} (hrun : s.cogRuns i = true) (hissuing : (s.cog i).run = .issuing) :
    exec (.prefetch i) s = .next (s.prefetch i) :=
  congrArg Host.Outcome.next (if_pos (by rw [hrun, hissuing]; rfl))

/-- LINE_FETCH in the three situations of a cog (R67, R68). -/
theorem lineFetch_forms (i : CogId) (s : State) (hrun : s.cogRuns i = true) (hissuing : (s.cog i).run = .issuing) :
    ((s.cog i).miss = true →
      ∃ (u : State), exec (.lineFetch i) s = .next (u.issue i) ∧ (u.cog i).miss = false ∧ (u.cog i).pc = (s.cog i).pc ∧
        (∃ f, (u.cog i).inUse = some f ∧ f.addr = (s.cog i).pc % 0x80000 ∧ f.bytes.length = 32 ∧ (u.cog i).tcache = (f :: (s.cog i).tcache).take 32) ∧
        u.mem = s.mem) ∧
    (∀ a, (s.cog i).miss = false → (s.cog i).lacks (s.cog i).pc = some a → (s.cog i).atBoundary = true →
      exec (.lineFetch i) s = .next (((s.fetchStall i).readLine i a).issue i)) ∧
    ((s.cog i).miss = false → (s.cog i).lacks (s.cog i).pc = none ∨ (s.cog i).atBoundary = false → exec (.lineFetch i) s = .next (s.issue i)) := by
  rw [exec_lineFetch hrun hissuing]
  refine ⟨fun hmiss => ?_, fun a hmiss hlacks hbound => ?_, fun hmiss hwhole => ?_⟩
  · obtain ⟨f, ls, x, hcog, haddr, hlength⟩ := State.fetchLine_miss hmiss
    obtain ⟨-, -, hmem⟩ := s.fetchLine_keeps i
    refine ⟨s.fetchLine i, rfl, ?_⟩
    rw [hcog]
    exact ⟨rfl, rfl, ⟨f, rfl, haddr, hlength, rfl⟩, hmem⟩
  · have hfetch : s.fetchLine i = (s.fetchStall i).readLine i a := by
      unfold State.fetchLine
      simp only [hmiss, hlacks, hbound, Bool.false_eq_true, if_false, if_true]
    rw [hfetch]
  · have hfetch : s.fetchLine i = s := by
      unfold State.fetchLine
      rcases hwhole with h | h
      · simp only [hmiss, h, Bool.false_eq_true, if_false]
      · simp only [hmiss, h, Bool.false_eq_true, if_false]
        split <;> rfl
    rw [hfetch]

/-! ### PREFETCH -/

/-- The line after the one being issued comes first. -/
theorem State.prefetchLine_next {s : State} {i : Nat} (hlines : (s.cog i).lines = []) (hmark : (s.cog i).endMark = none) :
    s.prefetchLine i = some (lineOf ((s.cog i).pc + 32)) := by
  unfold State.prefetchLine
  dsimp only
  rw [show (List.range 3) = [0, 1, 2] from rfl, List.map_cons, List.cons_append, List.find?_cons_of_pos]
  rw [hlines, Cog.beforeMark, hmark]
  rfl

/-- A line read ahead enters an empty line buffer at once (R78). -/
theorem Cog.place_empty {c : Cog} {f : Fetched} (hlines : c.lines = []) (hcoming : c.coming = some f) : c.place = { c with lines := [f], coming := none } := by
  unfold Cog.place
  rw [hcoming]
  dsimp only
  rw [hlines]
  rfl

theorem prefetch_next (i : CogId) (s : State) (hrun : s.cogRuns i = true) (hissuing : (s.cog i).run = .issuing) (hmiss : (s.cog i).miss = false)
    (hmark : (s.cog i).endMark = none) (hkept : s.keptLoop i = none) (hlines : (s.cog i).lines = []) (hcoming : (s.cog i).coming = none) :
    ∃ (t : State) (f : _), exec (.prefetch i) s = .next t ∧ (t.cog i).lines = [f] ∧ f.addr = ((s.cog i).pc + 32) % 0x80000 / 32 * 32 ∧ f.bytes.length = 32 ∧
      (t.cog i).pc = (s.cog i).pc ∧ t.mem = s.mem := by
  generalize hr : s.readProgram (casOf i) (lineOf ((s.cog i).pc + 32)) 32 = r
  have hcog : r.2.cog i = s.cog i := by rw [← hr]; exact State.cog_of_cogs (State.readProgram_cogs ..) i
  have hrun : exec (.prefetch i) s = .next (r.2.setCog i { s.cog i with lines := [r.1], coming := none }) := by
    have hopen : ¬ ((s.cog i).miss || (s.cog i).coming.isSome || (s.keptLoop i).isSome) = true := by simp [hmiss, hcoming, hkept]
    rw [exec_prefetch hrun hissuing]
    unfold State.prefetch
    rw [if_neg hopen, State.prefetchLine_next hlines hmark]
    dsimp only
    rw [hr, hcog, Cog.place_empty (c := { s.cog i with coming := some r.1 }) hlines rfl]
  refine ⟨_, r.1, hrun, ?_⟩
  rw [State.setCog_self]
  refine ⟨rfl, ?_, ?_, rfl, ?_⟩
  · rw [← hr, State.readProgram_addr, lineOf]
    omega
  · rw [← hr]
    exact State.readProgram_length ..
  · obtain ⟨-, -, hmem⟩ := s.readProgram_keeps (casOf i) (lineOf ((s.cog i).pc + 32)) 32
    rw [hr] at hmem
    exact hmem

end Sys2Proof.Machine
end

section
/-! PROOFS. The completion of a bundle at a boundary where nothing else is to happen (R37 step 7, R46, R76, R77, R152). -/

namespace Sys2Proof.Machine

/-! ### No halt, no trap -/

/-- No cog is to halt or to stop. -/
def State.NoHalts (s : State) : Prop := ∀ q ∈ s.cogs, q.2.haltReq = none ∧ q.2.disabling = false

theorem State.NoHalts.settle {s : State} (h : s.NoHalts) : s.settle = s := by
  unfold State.settle
  rw [State.settleHalts.eq_def]
  dsimp only
  split
  · next q hq =>
    obtain ⟨hreq, hdis⟩ := h _ (List.mem_of_find?_eq_some hq)
    have htrue := List.find?_some hq
    dsimp only at hreq hdis htrue
    simp [hreq, hdis] at htrue
  · rfl

theorem State.NoHalts.setCog {s : State} (h : s.NoHalts) (i : Nat) {c : Cog} (hreq : c.haltReq = none) (hdis : c.disabling = false) : (s.setCog i c).NoHalts := by
  intro q hq
  rcases mem_put _ _ _ _ hq with rfl | hold
  · exact ⟨hreq, hdis⟩
  · exact h q hold

/-- A cog that raises no trap at a boundary, steps nothing and is not to halt. -/
structure Cog.Quiet (c : Cog) : Prop where
  trap      : c.trap = none
  trap3     : c.trap3 = none
  trap4     : c.trap4 = false
  trap5     : c.trap5 = false
  lock      : c.lock = none
  stepOne   : c.stepOne = false
  haltReq   : c.haltReq = none
  disabling : c.disabling = false

theorem Cog.Quiet.of_withoutFetch {c d : Cog} (h : c.Quiet) (e : d.withoutFetch = c.withoutFetch) : d.Quiet :=
  ⟨(congrArg Cog.trap e).trans h.trap, (congrArg Cog.trap3 e).trans h.trap3, (congrArg Cog.trap4 e).trans h.trap4, (congrArg Cog.trap5 e).trans h.trap5,
    (congrArg Cog.lock e).trans h.lock, (congrArg Cog.stepOne e).trans h.stepOne, (congrArg Cog.haltReq e).trans h.haltReq,
    (congrArg Cog.disabling e).trans h.disabling⟩

theorem Cog.Quiet.clear_eq {c : Cog} (h : c.Quiet) : ({ c with trap3 := none, trap4 := false, trap5 := false, lock := none } : Cog) = c := by
  obtain ⟨-, h3, h4, h5, hlock, -, -, -⟩ := h
  cases c
  dsimp only at h3 h4 h5 hlock
  subst h3 h4 h5 hlock
  rfl

theorem Cog.Quiet.stepped_eq {c : Cog} (h : c.Quiet) : ({ c with stepOne := false } : Cog) = c := by
  have hstep := h.stepOne
  cases c
  dsimp only at hstep
  subst hstep
  rfl

theorem Cog.Quiet.boundaryTrap {c : Cog} (h : c.Quiet) (a : Nat) : c.boundaryTrap a = c := by
  unfold Cog.boundaryTrap
  rw [h.trap3, h.trap4, h.trap5, h.lock]
  exact h.clear_eq

/-! ### What one cog's completion leaves of the machine -/

/-- `t` is `s` but for the fetch state of cog `i`, which otherwise is `c`, and for registers; no cog is to halt. -/
structure State.Stands (s : State) (i : Nat) (c : Cog) (t : State) : Prop where
  cog    : (t.cog i).withoutFetch = c.withoutFetch
  others : ∀ j, j ≠ i → t.cog j = s.cog j
  mem    : t.mem = s.mem
  halts  : t.NoHalts

theorem State.Stands.of_cogs {s t u : State} {i : Nat} {c : Cog} (h : s.Stands i c t) (hcogs : u.cogs = t.cogs) (hmem : u.mem = t.mem) : s.Stands i c u where
  cog    := by rw [State.cog_of_cogs hcogs]; exact h.cog
  others := fun j hj => (State.cog_of_cogs hcogs j).trans (h.others j hj)
  mem    := hmem.trans h.mem
  halts  := fun q hq => h.halts q (hcogs ▸ hq)

theorem State.Stands.setCog {s t : State} {i : Nat} {c d e : Cog} (h : s.Stands i c t) (hquiet : d.Quiet) (he : e.withoutFetch = d.withoutFetch) :
    s.Stands i d (t.setCog i e) where
  cog    := by rw [State.setCog_self]; exact he
  others := fun j hj => (State.setCog_ne _ _ _ (Ne.symm hj)).trans (h.others j hj)
  mem    := h.mem
  halts  := h.halts.setCog i (hquiet.of_withoutFetch he).haltReq (hquiet.of_withoutFetch he).disabling

theorem State.Stands.transfer {s t : State} {i : Nat} {c : Cog} (h : s.Stands i c t) (hquiet : c.Quiet) (a : Nat) :
    s.Stands i c (t.transfer i a) ∧ ((t.transfer i a).cog i).pc = a % 0x80000 := by
  have hcogs := t.transfer_cogs i a
  obtain ⟨-, -, hmem⟩ := t.transfer_keeps i a
  refine ⟨(h.setCog hquiet ((Cog.transferTo_withoutFetch ..).trans h.cog)).of_cogs hcogs hmem, ?_⟩
  rw [State.cog_of_cogs hcogs, State.setCog_self, Cog.transferTo_pc]

theorem State.Stands.keepBody {s t : State} {i : Nat} {c : Cog} (h : s.Stands i c t) (hquiet : c.Quiet) :
    s.Stands i c (t.keepBody i) ∧ ((t.keepBody i).cog i).pc = (t.cog i).pc := by
  obtain ⟨ls, f, hkeep⟩ := t.keepBody_forms i
  rw [hkeep]
  refine ⟨h.setCog hquiet h.cog, ?_⟩
  rw [State.setCog_self]

/-! ### The steps of a completion -/

/-- The loop levels after the bundle, innermost first, and the body start to go back to (R76, R77). -/
def Cog.loopsAfter (c : Cog) (k : Current) : List Loop × Option Nat :=
  if k.target.isSome || k.exret.isSome then (c.loops.reverse, none) else loopDecide k.pc c.loops.reverse

/-- The results of the single-bundle units in their ports. -/
def Cog.written (c : Cog) (k : Current) : Cog := k.results.foldl (fun (x : Cog) r => x.set r.1 r.2.toNat) c

def Cog.flagsAfter (c : Cog) (k : Current) : Word :=
  applyFlags (applyFlags (match k.exret with | some (_, fl) => fl | none => c.flags) ⟨k.fmask.toNat, k.fval.toNat⟩) ⟨k.lmask.toNat, k.lval.toNat⟩

/-- A cog as its bundle completes, before execution goes on. -/
def Cog.completed (c : Cog) (k : Current) : Cog :=
  let w := c.written k
  let d : Cog := { w with
    flags := c.flagsAfter k, trap5 := w.trap5 || (k.ovf && bit w.flags.toNat flagVT), cur := none, stall := none, lock := w.lockAfter k,
    loops := (c.loopsAfter k).1.reverse, loads := w.loads.map fun l => { l with delay := l.delay - 1 },
    long := w.long.map fun o => { o with fresh := false }, defer := if k.defers then 2 else c.defer - 1, pc := (k.skip.getD k.next) % 0x80000 }
  if k.fsync then { d with lines := [], tcache := [], inUse := none, coming := none } else d

/-- A late lock sequence whose trap waits ends with it. -/
def Cog.unlockLate (c : Cog) : Cog := if c.trap.isSome && (match c.lock with | some l => l.late | none => false) then { c with lock := none } else c

theorem Cog.Quiet.unlockLate {c : Cog} (h : c.Quiet) : c.unlockLate = c := if_neg (by simp [h.trap])

/-- The boundary after a bundle at `pc`: its traps, the end of a step, and the halts. -/
def State.closeBundle (s : State) (i pc : Nat) : State :=
  let c := ((s.cog i).boundaryTrap pc).unlockLate
  let s := s.setCog i { c with stepOne := false }
  let s := if c.stepOne then s.requestHalt i ⟨2, 0⟩ else s
  s.settle

theorem State.finishBundle_eq {s : State} {i : Nat} {k : Current} (h : (s.cog i).cur = some k) :
    s.finishBundle i = (((s.setCog i ((s.cog i).completed k)).goOn i k ((s.cog i).loopsAfter k).2
      (if k.defers then 2 else (s.cog i).defer - 1)).keepBody i).closeBundle i k.pc := by
  unfold State.finishBundle
  dsimp only
  rw [h]
  rfl

/-- At a quiet boundary nothing but the step's mark is written. -/
theorem State.Stands.closeBundle {s t : State} {i : Nat} {c : Cog} (h : s.Stands i c t) (hquiet : c.Quiet) (pc : Nat) :
    s.Stands i c (t.closeBundle i pc) ∧ ((t.closeBundle i pc).cog i).pc = (t.cog i).pc := by
  have hq := hquiet.of_withoutFetch h.cog
  have hset : s.Stands i c (t.setCog i (t.cog i)) := h.setCog hquiet h.cog
  have hclose : t.closeBundle i pc = t.setCog i (t.cog i) := by
    unfold State.closeBundle
    rw [hq.boundaryTrap, hq.unlockLate]
    dsimp only
    rw [hq.stepped_eq, if_neg (by simp [hq.stepOne])]
    exact hset.halts.settle
  rw [hclose]
  refine ⟨hset, ?_⟩
  rw [State.setCog_self]

/-! ### Where execution goes on -/

theorem State.Stands.goOn {s t : State} {i : Nat} {c : Cog} {k : Current} (h : s.Stands i c t) (hquiet : c.Quiet) (hret : k.exret = none)
    (back : Option Nat) (defer : Nat) :
    s.Stands i c (t.goOn i k back defer) ∧
      ((t.goOn i k back defer).cog i).pc % 0x80000 = ((k.target <|> back).getD (t.cog i).pc) % 0x80000 := by
  unfold State.goOn
  rw [hret]
  cases k.target with
  | some a =>
    obtain ⟨hgo, hpc⟩ := h.transfer hquiet a
    exact ⟨hgo, by rw [hpc, Nat.mod_mod]; rfl⟩
  | none =>
    cases back with
    | none => exact ⟨h, rfl⟩
    | some b =>
      dsimp only
      split
      · refine ⟨h.setCog hquiet h.cog, ?_⟩
        rw [State.setCog_self]
        rfl
      · obtain ⟨hgo, hpc⟩ := h.transfer hquiet b
        exact ⟨hgo, by rw [hpc, Nat.mod_mod]; rfl⟩

theorem State.setCog_presentedClass (s : State) (i : Nat) (c : Cog) (j : Nat) : (s.setCog i c).presentedClass j = s.presentedClass j := by
  unfold State.presentedClass State.logicalOf
  simp only [State.rd_setCog, State.domOn_setCog, State.setCog_frame]

/-- An exception return that no event above the stacked level follows. -/
theorem State.Stands.returnFrom {s t : State} {i : Nat} {c : Cog} (h : s.Stands i c t) (hquiet : c.Quiet) {f : Word}
    (hclass : ∀ n, t.presentedClass i = some n → n + 1 ≤ levelOf f) (pc target defer : Nat) :
    s.Stands i c.unstack (t.returnFrom i pc target f defer) ∧ ((t.returnFrom i pc target f defer).cog i).pc = target % 0x80000 := by
  have hunstack : (t.cog i).unstack.withoutFetch = c.unstack.withoutFetch := by
    have hport := congrArg Cog.port h.cog
    change (t.cog i).port = c.port at hport
    unfold Cog.unstack Cog.set Cog.get
    rw [hport]
    exact congrArg (fun d : Cog => { d with port := put c.port Port.sp.key (BitVec.ofNat 42 (((lookD c.port Port.sp.key 0).toNat + 3) % 16384)) }) h.cog
  have hq : c.unstack.Quiet := ⟨hquiet.trap, hquiet.trap3, hquiet.trap4, hquiet.trap5, hquiet.lock, hquiet.stepOne, hquiet.haltReq, hquiet.disabling⟩
  rw [State.returnFrom_unstacks t i pc target f defer (.inr hclass)]
  exact (h.setCog hq hunstack).transfer hq target

/-! ### The loop decision -/

theorem loopDecide_stays {pc : Nat} {ls : List Loop} (h : ∀ m, ls.getLast? = some m → m.last ≠ pc) : loopDecide pc ls.reverse = (ls.reverse, none) := by
  rcases List.eq_nil_or_concat ls with rfl | ⟨init, l, rfl⟩
  · rfl
  · rw [List.concat_eq_append, List.reverse_append]
    exact if_pos (h l (by simp))

theorem loopDecide_again {ls : List Loop} {l : Loop} (h : 1 < l.count) :
    loopDecide l.last (ls ++ [l]).reverse = ((ls ++ [{ l with count := l.count - 1 }]).reverse, some l.start) := by
  rw [List.reverse_append, List.reverse_append]
  exact (if_neg (not_not.2 rfl)).trans (if_pos h)

theorem loopDecide_ends {ls : List Loop} {l : Loop} (h : l.count ≤ 1) : loopDecide l.last (ls ++ [l]).reverse = loopDecide l.last ls.reverse := by
  rw [List.reverse_append]
  exact (if_neg (not_not.2 rfl)).trans (if_neg (Nat.not_lt.2 h))

/-! ### The flags -/

theorem b2n_bit (v i : Nat) : b2n (bit v i) = v / 2 ^ i % 2 := by
  unfold b2n bit
  have hlt : v / 2 ^ i % 2 < 2 := Nat.mod_lt _ Nat.two_pos
  simp only [decide_eq_true_eq]
  split_ifs <;> omega

/-- A number's low bits put together again. -/
theorem sum_bits_range (v n : Nat) : ((List.range n).map fun i => b2n (bit v i) * 2 ^ i).sum = v % 2 ^ n := by
  induction n with
  | zero => simp [Nat.mod_one]
  | succ n ih => rw [List.range_succ, List.map_append, List.sum_append, ih, Nat.mod_pow_succ, List.map_singleton, List.sum_singleton, b2n_bit, Nat.mul_comm]

theorem applyFlags_nothing (f : Word) (v : Nat) : applyFlags f ⟨0, v⟩ = f := by
  have hbit : ∀ b, bit 0 b = false := fun b => by rw [bit_testBit, Nat.zero_testBit]
  unfold applyFlags
  simp only [hbit, Bool.false_eq_true, if_false]
  rw [sum_bits_range, Nat.mod_eq_of_lt f.isLt, BitVec.ofNat_toNat, BitVec.setWidth_eq]

end Sys2Proof.Machine
end

section
/-! PROOFS. The trigger that a unit accepts, and the bundle that ends with it (R37 step 7, R46, R60, R76, R152). -/

namespace Sys2Proof.Machine

/-! ### The last trigger, and those before it -/

/-- The bundle in progress with a unit's flags over those of lower slots (R46). -/
def Current.joined (k : Current) (fw : FlagWrite) : Current :=
  { k with
    fmask := (joinFlags k.fmask.toNat k.fval.toNat fw.mask fw.val).1, fval := (joinFlags k.fmask.toNat k.fval.toNat fw.mask fw.val).2,
    ovf := k.ovf || (bit fw.mask flagV && bit fw.val flagV) }

/-- A cog whose trigger at the head was accepted, with what follows it. -/
def Cog.tookTrigger (c : Cog) (ps : List Presented) (k : Current) : Cog := { c with todo := ps, cur := some k, stall := none }

section Accepted
variable {s : State} {i : Nat} {p : Presented} {ps : List Presented} {k : Current} {fw : FlagWrite}

theorem State.accepted_eq (htodo : (s.cog i).todo = p :: ps) (hcur : (s.cog i).cur = some k) :
    s.accepted i fw = (s.setCog i ((s.cog i).tookTrigger ps (k.joined fw))).tryFinish i := by
  unfold State.accepted
  dsimp only
  rw [htodo, hcur]
  rfl

theorem State.accepted_more (htodo : (s.cog i).todo = p :: ps) (hcur : (s.cog i).cur = some k) (hmore : ps ≠ []) :
    s.accepted i fw = s.setCog i ((s.cog i).tookTrigger ps (k.joined fw)) := by
  rw [State.accepted_eq htodo hcur]
  unfold State.tryFinish
  rw [State.setCog_self]
  exact if_pos (.inr (by simpa [Cog.tookTrigger] using hmore))

theorem State.accepted_fence (htodo : (s.cog i).todo = [p]) (hcur : (s.cog i).cur = some k) (hrun : (s.cog i).run = .issuing) (hfence : k.fence = true)
    (hbuf : (s.cog i).sbuf ≠ []) :
    s.accepted i fw = s.setCog i { s.cog i with todo := [], cur := some (k.joined fw), stall := some (7, s.tb) } := by
  rw [State.accepted_eq htodo hcur]
  unfold State.tryFinish
  rw [State.setCog_self]
  refine (if_neg (by simp [Cog.tookTrigger, hrun])).trans ((if_pos (by simp [Cog.tookTrigger, Current.joined, hfence, hbuf])).trans ?_)
  unfold State.stallCog
  rw [State.setCog_self]
  exact State.setCog_setCog ..

theorem State.accepted_last (htodo : (s.cog i).todo = [p]) (hcur : (s.cog i).cur = some k) (hrun : (s.cog i).run = .issuing)
    (hfence : k.fence = false ∨ (s.cog i).sbuf = []) :
    s.accepted i fw = (s.setCog i ((s.cog i).tookTrigger [] (k.joined fw))).finishBundle i := by
  rw [State.accepted_eq htodo hcur]
  unfold State.tryFinish
  rw [State.setCog_self]
  refine (if_neg (by simp [Cog.tookTrigger, hrun])).trans (if_neg ?_)
  rcases hfence with h | h <;> simp [Cog.tookTrigger, Current.joined, h]

end Accepted

/-! ### The completed cog -/

/-- The results are written into ports, and nothing else. -/
theorem Cog.written_eq (c : Cog) (k : Current) : c.written k = { c with port := (c.written k).port } := by
  unfold Cog.written
  generalize k.results = rs
  induction rs generalizing c with
  | nil => rfl
  | cons r rs ih => exact ih (c.set r.1 r.2.toNat)

theorem Cog.completed_withoutFetch (c : Cog) (k : Current) :
    (c.completed k).withoutFetch = ({ c with
      port := (c.written k).port, flags := c.flagsAfter k, trap5 := c.trap5 || (k.ovf && bit c.flags.toNat flagVT), cur := none, stall := none,
      lock := c.lockAfter k, loops := (c.loopsAfter k).1.reverse, loads := c.loads.map fun l => { l with delay := l.delay - 1 },
      long := c.long.map fun o => { o with fresh := false }, defer := if k.defers then 2 else c.defer - 1 } : Cog).withoutFetch := by
  unfold Cog.completed
  rw [c.written_eq k]
  dsimp only
  split <;> rfl

theorem Cog.completed_pc (c : Cog) (k : Current) : (c.completed k).pc = (k.skip.getD k.next) % 0x80000 := by
  unfold Cog.completed
  dsimp only
  split <;> rfl

/-- A boundary at which nothing is to happen but the completion of the bundle `k` of cog `i`. -/
structure State.Calm (s : State) (i : Nat) (k : Current) : Prop where
  run       : (s.cog i).run = .issuing
  lock      : (s.cog i).lock = none
  trap      : (s.cog i).trap = none
  trap3     : (s.cog i).trap3 = none
  trap4     : (s.cog i).trap4 = false
  trap5     : (s.cog i).trap5 = false
  noVT      : bit (s.cog i).flags.toNat flagVT = false
  stepOne   : (s.cog i).stepOne = false
  defers    : k.defers = false
  lmask     : k.lmask = 0
  halts     : s.NoHalts
  haltReq   : (s.cog i).haltReq = none
  disabling : (s.cog i).disabling = false
  fence     : k.fence = false ∨ (s.cog i).sbuf = []

theorem Cog.lockAfter_none {c : Cog} (h : c.lock = none) (k : Current) : c.lockAfter k = none := by
  unfold Cog.lockAfter
  rw [h]
  (repeat' split) <;> rfl

section Calm
variable {s : State} {i : Nat} {p : Presented} {k : Current}

theorem State.Calm.completed_quiet (h : s.Calm i k) (fw : FlagWrite) : (((s.cog i).tookTrigger [] (k.joined fw)).completed (k.joined fw)).Quiet := by
  refine Cog.Quiet.of_withoutFetch ?_ (Cog.completed_withoutFetch ..)
  refine ⟨h.trap, h.trap3, h.trap4, ?_, Cog.lockAfter_none h.lock _, h.stepOne, h.haltReq, h.disabling⟩
  exact Bool.or_eq_false_iff.2 ⟨h.trap5, Bool.and_eq_false_iff.2 (.inr h.noVT)⟩

/-- The last trigger accepted: the completed cog goes on, and at the quiet boundary nothing follows. -/
theorem State.Calm.accepted (h : s.Calm i k) (htodo : (s.cog i).todo = [p]) (hcur : (s.cog i).cur = some k) (fw : FlagWrite) {d : Cog} {P : Nat → Prop}
    (hquiet : d.Quiet)
    (hgo : ∀ t, s.Stands i (((s.cog i).tookTrigger [] (k.joined fw)).completed (k.joined fw)) t → t.presentedClass i = s.presentedClass i →
      (t.cog i).pc = (k.skip.getD k.next) % 0x80000 →
      s.Stands i d (t.goOn i (k.joined fw) ((s.cog i).loopsAfter k).2 ((s.cog i).defer - 1)) ∧
        P ((t.goOn i (k.joined fw) ((s.cog i).loopsAfter k).2 ((s.cog i).defer - 1)).cog i).pc) :
    s.Stands i d (s.accepted i fw) ∧ P ((s.accepted i fw).cog i).pc := by
  generalize hc : (s.cog i).tookTrigger [] (k.joined fw) = c at hgo
  have hfinish := State.finishBundle_eq (s := s.setCog i c) (i := i) (k := k.joined fw) (by rw [State.setCog_self, ← hc]; rfl)
  rw [State.setCog_self, State.setCog_setCog, if_neg (by simp [Current.joined, h.defers])] at hfinish
  have hstart : s.Stands i (c.completed (k.joined fw)) (s.setCog i (c.completed (k.joined fw))) := by
    have hq : (c.completed (k.joined fw)).Quiet := hc ▸ h.completed_quiet fw
    exact (⟨rfl, fun _ _ => rfl, rfl, h.halts⟩ : s.Stands i (s.cog i) s).setCog hq rfl
  obtain ⟨hon, hpc⟩ := hgo _ hstart (State.setCog_presentedClass ..) (by rw [State.setCog_self, Cog.completed_pc]; rfl)
  obtain ⟨hkeep, hkeepPc⟩ := hon.keepBody hquiet
  obtain ⟨hclose, hclosePc⟩ := hkeep.closeBundle hquiet (k.joined fw).pc
  rw [State.accepted_last htodo hcur h.run h.fence, hc, hfinish]
  have hloops : c.loopsAfter (k.joined fw) = (s.cog i).loopsAfter k := by rw [← hc]; rfl
  have hdefer : c.defer = (s.cog i).defer := by rw [← hc]; rfl
  rw [hloops, hdefer]
  exact ⟨hclose, by rw [hclosePc, hkeepPc]; exact hpc⟩

/-- The bundle of cog `i` ends with the last trigger, whose unit writes the flags `fw`: execution goes on at `pc` with the levels `loops`. -/
def State.BundleEnds (s : State) (i : Nat) (k : Current) (fw : FlagWrite) (pc : Nat) (loops : List Loop) : Prop :=
  ∃ t, s.accepted i fw = t ∧ (t.cog i).todo = [] ∧ (t.cog i).cur = none ∧ (t.cog i).pc % 0x80000 = pc % 0x80000 ∧ (t.cog i).loops = loops ∧
    (t.cog i).flags = applyFlags (s.cog i).flags ⟨(k.joined fw).fmask.toNat, (k.joined fw).fval.toNat⟩ ∧ (t.cog i).g = (s.cog i).g ∧
    (t.cog i).port = ((s.cog i).written k).port ∧ (t.cog i).acc = (s.cog i).acc ∧ (t.cog i).defer = (s.cog i).defer - 1 ∧ t.mem = s.mem ∧
    ∀ j, j ≠ i → t.cog j = s.cog j

/-- The results are the same in whatever state of its triggers the cog is. -/
theorem Cog.written_tookTrigger (c : Cog) (ps : List Presented) (k : Current) (fw : FlagWrite) :
    ((c.tookTrigger ps (k.joined fw)).written (k.joined fw)).port = (c.written k).port := by
  rw [Cog.written, show (k.joined fw).results = k.results from rfl, Cog.written]
  generalize k.results = rs
  induction rs generalizing c with
  | nil => rfl
  | cons r rs ih => exact ih (c.set r.1 r.2.toNat)

theorem Cog.flagsAfter_calm (h : s.Calm i k) (fw : FlagWrite) (ps : List Presented) :
    ((s.cog i).tookTrigger ps (k.joined fw)).flagsAfter (k.joined fw) =
      applyFlags (match k.exret with | some (_, fl) => fl | none => (s.cog i).flags) ⟨(k.joined fw).fmask.toNat, (k.joined fw).fval.toNat⟩ := by
  have hmask : (k.joined fw).lmask.toNat = 0 := congrArg BitVec.toNat h.lmask
  unfold Cog.flagsAfter
  rw [hmask, applyFlags_nothing]
  rfl

theorem Cog.fields_of_withoutFetch {c d : Cog} (e : d.withoutFetch = c.withoutFetch) :
    d.todo = c.todo ∧ d.cur = c.cur ∧ d.loops = c.loops ∧ d.flags = c.flags ∧ d.g = c.g ∧ d.port = c.port ∧ d.acc = c.acc ∧ d.defer = c.defer :=
  ⟨(congrArg Cog.todo e :), (congrArg Cog.cur e :), (congrArg Cog.loops e :), (congrArg Cog.flags e :), (congrArg Cog.g e :), (congrArg Cog.port e :),
    (congrArg Cog.acc e :), (congrArg Cog.defer e :)⟩

/-- What the completion of a bundle makes of the cog's fields. -/
theorem State.Calm.completed_fields (h : s.Calm i k) (fw : FlagWrite) {d : Cog} (hd : ((s.cog i).tookTrigger [] (k.joined fw)).completed (k.joined fw) = d) :
    d.todo = [] ∧ d.cur = none ∧ d.loops = ((s.cog i).loopsAfter k).1.reverse ∧
      d.flags = applyFlags (match k.exret with | some (_, fl) => fl | none => (s.cog i).flags) ⟨(k.joined fw).fmask.toNat, (k.joined fw).fval.toNat⟩ ∧
      d.g = (s.cog i).g ∧ d.port = ((s.cog i).written k).port ∧ d.acc = (s.cog i).acc ∧ d.defer = (s.cog i).defer - 1 := by
  obtain ⟨htodo, hcur, hloops, hflags, hg, hport, hacc, hdefer⟩ := Cog.fields_of_withoutFetch
    (Cog.completed_withoutFetch ((s.cog i).tookTrigger [] (k.joined fw)) (k.joined fw))
  rw [hd] at htodo hcur hloops hflags hg hport hacc hdefer
  exact ⟨htodo, hcur, hloops, hflags.trans (Cog.flagsAfter_calm h fw []), hg, hport.trans (Cog.written_tookTrigger ..), hacc,
    hdefer.trans (if_neg (by simp [Current.joined, h.defers]))⟩

/-- A bundle that is no exception return goes on at its target, where a loop goes back to, or in order. -/
theorem State.Calm.ends (h : s.Calm i k) (htodo : (s.cog i).todo = [p]) (hcur : (s.cog i).cur = some k) (hret : k.exret = none) (fw : FlagWrite)
    {loops : List Loop} {back : Option Nat} (hloops : (s.cog i).loopsAfter k = (loops.reverse, back)) :
    s.BundleEnds i k fw ((k.target <|> back).getD (k.skip.getD k.next)) loops := by
  have hquiet := h.completed_quiet fw
  obtain ⟨hstands, hpc⟩ := h.accepted htodo hcur fw (P := fun pc => pc % 0x80000 = ((k.target <|> back).getD (k.skip.getD k.next)) % 0x80000) hquiet
    (fun t ht _ hpc => by
      rw [hloops]
      obtain ⟨hon, hnext⟩ := ht.goOn (k := k.joined fw) hquiet hret back ((s.cog i).defer - 1)
      refine ⟨hon, hnext.trans ?_⟩
      rw [hpc]
      change ((k.target <|> back).getD _) % _ = _
      cases (k.target <|> back) with
      | none => exact Nat.mod_mod ..
      | some a => rfl)
  obtain ⟨htodo', hcur', hloops', hflags, hg, hport, hacc, hdefer⟩ := h.completed_fields fw rfl
  obtain ⟨etodo, ecur, eloops, eflags, eg, eport, eacc, edefer⟩ := Cog.fields_of_withoutFetch hstands.cog
  rw [hloops, List.reverse_reverse] at hloops'
  rw [hret] at hflags
  exact ⟨_, rfl, etodo.trans htodo', ecur.trans hcur', hpc, eloops.trans hloops', eflags.trans hflags, eg.trans hg, eport.trans hport, eacc.trans hacc,
    edefer.trans hdefer, hstands.mem, hstands.others⟩

/-- An exception return with no event above the stacked level installs the stacked flags under those of its bundle (R152). -/
theorem State.Calm.returns (h : s.Calm i k) (htodo : (s.cog i).todo = [p]) (hcur : (s.cog i).cur = some k) (fw : FlagWrite) {target : Nat} {f : Word}
    (hret : k.exret = some (target, f)) (hclass : ∀ n, s.presentedClass i = some n → n + 1 ≤ levelOf f) :
    ∃ t, s.accepted i fw = t ∧ (t.cog i).todo = [] ∧ (t.cog i).cur = none ∧ (t.cog i).pc = target % 0x80000 ∧
      (t.cog i).get .sp = (((s.cog i).written k).get .sp + 3) % 16384 ∧
      (t.cog i).flags = applyFlags f ⟨(k.joined fw).fmask.toNat, (k.joined fw).fval.toNat⟩ ∧ (t.cog i).g = (s.cog i).g ∧
      (t.cog i).acc = (s.cog i).acc ∧ t.mem = s.mem ∧ ∀ j, j ≠ i → t.cog j = s.cog j := by
  generalize hd : ((s.cog i).tookTrigger [] (k.joined fw)).completed (k.joined fw) = d
  have hquiet : d.Quiet := hd ▸ h.completed_quiet fw
  have hq : d.unstack.Quiet := ⟨hquiet.trap, hquiet.trap3, hquiet.trap4, hquiet.trap5, hquiet.lock, hquiet.stepOne, hquiet.haltReq, hquiet.disabling⟩
  obtain ⟨hstands, hpc⟩ := h.accepted htodo hcur fw (P := fun pc => pc = target % 0x80000) hq
    (fun t ht hpresented _ => by
      unfold State.goOn
      rw [show (k.joined fw).exret = some (target, f) from hret]
      exact (hd ▸ ht).returnFrom hquiet (hpresented ▸ hclass) _ _ _)
  obtain ⟨htodo', hcur', -, hflags, hg, hport, hacc, -⟩ := h.completed_fields fw hd
  obtain ⟨etodo, ecur, -, eflags, eg, eport, eacc, -⟩ := Cog.fields_of_withoutFetch hstands.cog
  have hsp : ((s.accepted i fw).cog i).get .sp = (((s.cog i).written k).get .sp + 3) % 16384 := by
    have hget : d.get .sp = ((s.cog i).written k).get .sp := by rw [Cog.get, hport, Cog.get]
    have hunstack : ((s.accepted i fw).cog i).get .sp = d.unstack.get .sp := by rw [Cog.get, eport, Cog.get]
    rw [hunstack, Cog.unstack, Cog.get_set_self, hget, Nat.mod_eq_of_lt (by omega)]
  rw [hret] at hflags
  exact ⟨_, rfl, etodo.trans htodo', ecur.trans hcur', hpc, hsp, eflags.trans hflags, eg.trans hg, eacc.trans hacc, hstands.mem, hstands.others⟩

end Calm

end Sys2Proof.Machine
end

section
/-! PROOFS. The issue of a bundle (R37 steps 1 to 6, R43), and the bundle as a whole. -/

namespace Sys2Proof.Machine

/-! ### The moves of a bundle -/

/-- The moves that a bundle's predicate leaves enabled. -/
def Bundle.live (b : Bundle) (c : Cog) : List Move := b.moves.filter fun m => !m.guarded || condHolds (b.pred.getD 0) c.flags

/-- A cog after one move of a value: triggers are presented, not written. -/
def Cog.moved (b : Bundle) (y : Cog) (m : Move) (v : Nat) : Cog :=
  match m.dst with
  | .g n => y.setGroup n b.width v
  | .port p => y.writePort p b.width v
  | .trig _ => y

/-- A cog after a bundle's enabled moves, each of the value read before any of them. -/
def Cog.moves (c : Cog) (b : Bundle) : Cog := (b.live c).foldl (fun y m => y.moved b m (c.readSrc b.width b.limm m)) c

/-- The trigger that a move of a value presents. -/
def Move.presents (m : Move) (w : Width) (v : Nat) : Option Presented :=
  match m.dst with
  | .trig t => some ⟨t, BitVec.ofNat 42 v, w⟩
  | _ => none

/-- The triggers that a bundle presents, in slot order. -/
def Cog.triggers (c : Cog) (b : Bundle) : List Presented := (b.live c).filterMap fun m => m.presents b.width (c.readSrc b.width b.limm m)

/-- A cog without what moves write. -/
def Cog.withoutMoves (c : Cog) : Cog := { c with g := [], port := [], flags := 0 }

theorem foldl_same {α β γ : Type} (F : β → γ) {f : β → α → β} (h : ∀ y a, F (f y a) = F y) (l : List α) (y : β) : F (l.foldl f y) = F y := by
  induction l generalizing y with
  | nil => rfl
  | cons a l ih => exact (ih _).trans (h y a)

theorem Cog.setGroup_withoutMoves (c : Cog) (n : Nat) (w : Width) (v : Nat) : (c.setGroup n w v).withoutMoves = c.withoutMoves := by
  unfold Cog.setGroup upTo
  exact foldl_same Cog.withoutMoves (by intro y k; rfl) _ _

theorem Cog.writePort_withoutMoves (c : Cog) (p : Port) (w : Width) (v : Nat) : (c.writePort p w v).withoutMoves = c.withoutMoves := by
  cases p <;> rfl

theorem Cog.moved_withoutMoves (b : Bundle) (y : Cog) (m : Move) (v : Nat) : (y.moved b m v).withoutMoves = y.withoutMoves := by
  unfold Cog.moved
  cases m.dst with
  | g n => exact y.setGroup_withoutMoves ..
  | port p => exact y.writePort_withoutMoves ..
  | trig t => rfl

theorem Cog.moves_withoutMoves (c : Cog) (b : Bundle) : (c.moves b).withoutMoves = c.withoutMoves :=
  foldl_same Cog.withoutMoves (fun y _ => y.moved_withoutMoves ..) _ _

/-! ### A cog whose bundle was decoded -/

/-- A cog with another mark of R121. -/
def Cog.marked (c : Cog) (e : Option Nat) : Cog := { c with endMark := e }

theorem Cog.readSrc_marked (c : Cog) (e : Option Nat) (w : Width) (l : Option (Nat × Nat)) (m : Move) : (c.marked e).readSrc w l m = c.readSrc w l m := by
  unfold Cog.readSrc
  cases m.src with
  | port p => cases p <;> rfl
  | _ => rfl

theorem Cog.setGroup_marked (c : Cog) (e : Option Nat) (n : Nat) (w : Width) (v : Nat) : (c.marked e).setGroup n w v = (c.setGroup n w v).marked e := by
  unfold Cog.setGroup upTo
  exact List.foldl_hom (Cog.marked · e) fun _ _ => rfl

theorem Cog.writePort_marked (c : Cog) (e : Option Nat) (p : Port) (w : Width) (v : Nat) : (c.marked e).writePort p w v = (c.writePort p w v).marked e := by
  cases p <;> rfl

theorem Cog.moved_marked (b : Bundle) (y : Cog) (e : Option Nat) (m : Move) (v : Nat) : (y.marked e).moved b m v = (y.moved b m v).marked e := by
  unfold Cog.moved
  cases m.dst with
  | g n => exact y.setGroup_marked ..
  | port p => exact y.writePort_marked ..
  | trig t => rfl

theorem Cog.moves_marked (c : Cog) (b : Bundle) (e : Option Nat) : (c.marked e).moves b = (c.moves b).marked e := by
  unfold Cog.moves
  simp only [Cog.readSrc_marked]
  exact List.foldl_hom (Cog.marked · e) fun y _ => Cog.moved_marked ..

theorem Cog.triggers_marked (c : Cog) (b : Bundle) (e : Option Nat) : (c.marked e).triggers b = c.triggers b := by
  unfold Cog.triggers
  simp only [Cog.readSrc_marked]
  rfl

theorem Cog.access_marked (c : Cog) (e : Option Nat) (p : Presented) : (c.marked e).access p = ((c.access p).1, (c.access p).2.marked e) := by
  unfold Cog.access
  cases p.op with
  | ldAg u => cases u <;> rfl
  | stAg u => cases u <;> rfl
  | agSet u => cases u <;> rfl
  | agIdx u => cases u <;> rfl
  | _ => rfl

theorem Cog.misaligned_marked (c : Cog) (e : Option Nat) (ps : List Presented) : (c.marked e).misaligned ps = c.misaligned ps := by
  induction ps generalizing c with
  | nil => rfl
  | cons p ps ih =>
    unfold Cog.misaligned
    rw [Cog.access_marked]
    rcases c.access p with ⟨_ | ⟨store, a, w⟩, d⟩
    · exact ih d
    · dsimp only
      rw [ih]

theorem State.setCog_stackTrap (s : State) (i : Nat) (c d : Cog) (e : Option Nat) (hbuf : c.sbuf = (s.cog i).sbuf) (p : Presented) :
    (s.setCog i c).stackTrap i (d.marked e) p = s.stackTrap i d p := by
  have hpeek : ∀ a, (s.setCog i c).peekLocal i a = s.peekLocal i a := by
    intro a
    unfold State.peekLocal
    rw [State.setCog_self, Cog.checkBuffer_of_sbuf hbuf]
    rfl
  unfold State.stackTrap State.aboveHi State.belowLo
  simp only [hpeek, State.rd_setCog, State.on_setCog]
  rfl

theorem State.setCog_offlinePort (s : State) (i : Nat) (c : Cog) (k : Nat) (ms : List Move) : (s.setCog i c).offlinePort i k ms = s.offlinePort i k ms := by
  have hoff : (s.setCog i c).unitOffline i = s.unitOffline i := by
    funext u
    unfold State.unitOffline
    simp only [State.domOn_setCog]
  induction ms generalizing k with
  | nil => rfl
  | cons m ms ih => simp only [State.offlinePort, hoff, ih]

/-! ### Steps 3 to 6 of R37 -/

theorem Cog.scored_none {c : Cog} (h : c.sb = 0) (rs : List Nat) : c.scored rs = false := by
  unfold Cog.scored
  rw [h]
  exact List.any_eq_false.2 fun r _ => by simp [bit_testBit]

/-- A cog whose bundle at `pc` has issued: the triggers wait for their units (R37 step 6). -/
def Cog.issued (c : Cog) (pc : Nat) (b : Bundle) (ps : List Presented) : Cog :=
  { c with
    todo := ps, cur := some { pc := pc, next := (pc + b.len) % 0x80000, defers := ps.any fun p => p.op.defers },
    stall := none, entering := none, brkSkip := c.brkSkip.filter (· ≠ pc), fetchWait := false, endMark := c.issuedMark b }

/-- A cog at a bundle that no conflict delays, and whose enabled moves meet no offline port, no misaligned access and no stack limit. -/
structure State.MovesPass (s : State) (i : Nat) (c : Cog) (b : Bundle) : Prop where
  sb      : c.sb = 0
  long    : c.long = []
  lock    : c.lock = none
  online  : ∀ m ∈ b.live c, s.offlinePort i 0 [m] = none
  aligned : (c.moves b).misaligned (c.triggers b) = none
  stack   : ∀ p ∈ c.triggers b, s.stackTrap i (c.moves b) p = none

theorem State.MovesPass.marked {s : State} {i : Nat} {b : Bundle} (h : s.MovesPass i (s.cog i) b) (e : Option Nat) :
    (s.setCog i ((s.cog i).marked e)).MovesPass i ((s.cog i).marked e) b where
  sb      := h.sb
  long    := h.long
  lock    := h.lock
  online  := fun m hm => (State.setCog_offlinePort ..).trans (h.online m hm)
  aligned := by
    rw [Cog.moves_marked, Cog.triggers_marked, Cog.misaligned_marked]
    exact h.aligned
  stack   := fun p hp => by
    rw [Cog.moves_marked]
    rw [Cog.triggers_marked] at hp
    exact (State.setCog_stackTrap s i ((s.cog i).marked e) _ _ rfl p).trans (h.stack p hp)

theorem State.MovesPass.issueDecoded {s : State} {i : Nat} {b : Bundle} {c : Cog} (h : s.MovesPass i c b) :
    s.issueDecoded i b c none = if c.triggers b = [] then (s.setCog i ((c.moves b).issued c.pc b (c.triggers b))).finishBundle i
      else s.setCog i ((c.moves b).issued c.pc b (c.triggers b)) := by
  obtain ⟨hsb, hlong, hlock, hoff, hmis, hstk⟩ := h
  have hmoves := c.moves_withoutMoves b
  have hsb' : (c.moves b).sb = 0 := (congrArg Cog.sb hmoves :).trans hsb
  have hlong' : (c.moves b).long = [] := (congrArg Cog.long hmoves :).trans hlong
  have hpend : c.flagsPending = false := by rw [Cog.flagsPending, hlong]; rfl
  have hbusy : ∀ ps : List Presented, ps.any (fun p => (c.moves b).scored ((c.moves b).longDests p.op p.w)) = false :=
    fun ps => List.any_eq_false.2 fun p _ => by simp [Cog.scored_none hsb']
  have honline : ((b.live c).filterMap fun m => (s.offlinePort i 0 [m]).map fun x => (x.1, x.2.1, b.moves.idxOf m)) = [] :=
    List.filterMap_eq_nil_iff.2 fun m hm => by rw [hoff m hm]; rfl
  have hstack : (c.triggers b).findSome? (fun p => s.stackTrap i (c.moves b) p) = none := List.findSome?_eq_none_iff.2 hstk
  have hfree : ∀ ps : List Presented, (ps.any fun p => match p.op.busyUnit with
      | some u => (c.moves b).long.any fun o => decide (o.unit = u)
      | none => false) = false := by
    refine fun ps => List.any_eq_false.2 fun p _ => ?_
    rw [hlong']
    cases p.op.busyUnit <;> exact Bool.false_ne_true
  unfold State.issueDecoded
  dsimp only
  rw [List.foldl_map, List.filterMap_map]
  refine (if_neg (by simp [hpend])).trans ((if_neg (by simp [hpend, Cog.scored_none hsb])).trans ?_)
  refine (if_neg (ne_true_of_eq_false (hbusy _))).trans ((if_neg (ne_true_of_eq_false (hfree _))).trans ?_)
  split
  · next h => exact absurd (h.symm.trans (congrArg List.head? honline)) (Option.some_ne_none _)
  refine (if_neg (by simp [hlock])).trans ((if_neg (by simp [hlock])).trans ?_)
  split
  · next h => exact absurd (h.symm.trans hmis) (Option.some_ne_none _)
  split
  · next h => exact absurd (h.symm.trans hstack) (Option.some_ne_none _)
  simp only [List.isEmpty_iff]
  rfl

/-! ### Steps 1 and 2 of R37 -/

/-- The fetch state of a cog holds the whole of its next bundle, `x` its first byte, with no error. -/
structure Cog.HoldsBundle (c : Cog) (b : Bundle) (x : Byte × Bool) (bs : List (Byte × Bool)) : Prop where
  bytes   : c.fetchBytes c.pc 19 = x :: bs
  whole   : bundleLength x.1.toNat ≤ bs.length + 1
  good    : ∀ y ∈ (x :: bs).take (bundleLength x.1.toNat), y.2 = false
  decodes : decodeBundle (((x :: bs).take (bundleLength x.1.toNat)).map (·.1)) = .ok b

theorem State.issueFetched_decodes {s : State} {i : Nat} {used : List (Byte × Bool)} {b : Bundle} (hgood : ∀ y ∈ used, y.2 = false)
    (hdecode : decodeBundle (used.map (·.1)) = .ok b) (hdue : (s.cog i).dueLoad = none) :
    s.issueFetched i used =
      (s.setCog i ((s.cog i).marked ((s.cog i).decodedMark b))).issueDecoded i b ((s.cog i).marked ((s.cog i).decodedMark b)) none := by
  have hanswer : (s.setCog i ((s.cog i).marked ((s.cog i).decodedMark b))).answerDue i = s.setCog i ((s.cog i).marked ((s.cog i).decodedMark b)) := by
    unfold State.answerDue
    rw [State.setCog_self]
    dsimp only
    rw [show ((s.cog i).marked ((s.cog i).decodedMark b)).dueLoad = none from hdue]
  unfold State.issueFetched
  rw [List.findIdx?_eq_none_iff.2 hgood]
  dsimp only
  rw [hdecode]
  dsimp only
  rw [show ({ s.cog i with endMark := (s.cog i).decodedMark b } : Cog) = (s.cog i).marked ((s.cog i).decodedMark b) from rfl, hanswer, State.setCog_self,
    show ((s.cog i).marked ((s.cog i).decodedMark b)).dueLoad = none from hdue]

/-- A cog at a boundary whose fetch state holds the whole of the next bundle issues it. -/
theorem State.issue_fetched {s : State} {i : Nat} {b : Bundle} {x : Byte × Bool} {bs : List (Byte × Bool)} (hruns : s.cogRuns i = true)
    (hmay : (s.cog i).mayIssue = true) (hbreak : s.breakpoint i = none) (hmiss : (s.cog i).miss = false) (h : (s.cog i).HoldsBundle b x bs) :
    s.issue i = s.issueFetched i ((x :: bs).take (bundleLength x.1.toNat)) := by
  have hlacks : (s.cog i).lacks (s.cog i).pc = none := by
    unfold Cog.lacks
    rw [h.bytes]
    exact if_neg (Nat.not_lt.2 h.whole)
  unfold State.issue
  rw [if_neg (by simp [hruns, hmay]), hbreak]
  dsimp only
  rw [if_neg (by simp [hmay]), if_neg (by simp [hmiss]), hlacks, h.bytes]

theorem Cog.dueLoad_none {c : Cog} (h : ∀ l, c.loads.head? = some l → l.delay ≠ 0) : c.dueLoad = none := by
  unfold Cog.dueLoad
  cases hl : c.loads with
  | nil => rfl
  | cons l ls => exact if_neg (h l (by rw [hl]; rfl))

theorem State.breakpoint_none {s : State} {i : Nat} (h : ∀ k, k < 4 → bit (s.rd (cogPage i) R.COG_DBG_BRKEN) k = false) : s.breakpoint i = none := by
  unfold State.breakpoint
  exact List.find?_eq_none.2 fun k hk => by simp [h k (List.mem_range.1 hk)]

/-- BUNDLE on a cog at a boundary whose next bundle meets no error and no conflict. -/
theorem State.issue_bundle {s : State} {i : Nat} {b : Bundle} {x : Byte × Bool} {bs : List (Byte × Bool)} (hruns : s.cogRuns i = true)
    (hmay : (s.cog i).mayIssue = true) (hbreak : s.breakpoint i = none) (hmiss : (s.cog i).miss = false) (hheld : (s.cog i).HoldsBundle b x bs)
    (hdue : (s.cog i).dueLoad = none) (hpass : s.MovesPass i (s.cog i) b) :
    s.issue i =
      let u := s.setCog i ((((s.cog i).moves b).marked ((s.cog i).decodedMark b)).issued (s.cog i).pc b ((s.cog i).triggers b))
      if (s.cog i).triggers b = [] then u.finishBundle i else u := by
  rw [State.issue_fetched hruns hmay hbreak hmiss hheld, State.issueFetched_decodes hheld.good hheld.decodes hdue, (hpass.marked _).issueDecoded,
    Cog.moves_marked, Cog.triggers_marked, State.setCog_setCog]
  rfl

/-- The mark of R121 once a bundle has been decoded and issued. -/
theorem Cog.issued_marked (c : Cog) (b : Bundle) (ps : List Presented) :
    ((c.moves b).marked (c.decodedMark b)).issued c.pc b ps = { c.moves b with
      todo := ps, cur := some { pc := c.pc, next := (c.pc + b.len) % 0x80000, defers := ps.any fun p => p.op.defers },
      stall := none, entering := none, brkSkip := c.brkSkip.filter (· ≠ c.pc), fetchWait := false,
      endMark := if b.endMark then some ((c.pc + b.len - 1) % 0x80000)
        else c.endMark.filter fun e => !decide (0 < (c.pc + 0x80000 - e) % 0x80000 ∧ (c.pc + 0x80000 - e) % 0x80000 < 0x40000) } := by
  have hmoves := c.moves_withoutMoves b
  have hbrk : (c.moves b).brkSkip = c.brkSkip := (congrArg Cog.brkSkip hmoves :)
  have hpc : (c.moves b).pc = c.pc := (congrArg Cog.pc hmoves :)
  have hmark : ((c.moves b).marked (c.decodedMark b)).issuedMark b = if b.endMark then some ((c.pc + b.len - 1) % 0x80000)
      else c.endMark.filter fun e => !decide (0 < (c.pc + 0x80000 - e) % 0x80000 ∧ (c.pc + 0x80000 - e) % 0x80000 < 0x40000) := by
    unfold Cog.issuedMark Cog.marked Cog.decodedMark
    rw [hpc]
    by_cases he : b.endMark = true
    · rw [if_pos he, if_pos he, if_pos he]
    · rw [if_neg he, if_neg he, if_neg he]
  unfold Cog.issued
  rw [hmark, show ((c.moves b).marked (c.decodedMark b)).brkSkip = c.brkSkip from hbrk]
  rfl

/-- The levels after the last bundle of the innermost one (R76, R77). -/
theorem Cog.loopsAfter_loop {c : Cog} {k : Current} (hret : k.exret = none) (htarget : k.target = none) :
    c.loopsAfter k = loopDecide k.pc c.loops.reverse := if_neg (by simp [hret, htarget])

/-- Settles O22: a bundle issues with its moves made from what was read before them, the fetch feeds it, and it completes with its last trigger. -/
theorem bundlesIssueAndComplete : Obligations.BundlesIssueAndComplete := by
  refine ⟨⟨?_, lineFetch_forms, prefetch_next⟩, fun i s p ps k fw htodo hcur => ?_⟩
  · intro i s b x bs c hruns hrun hwait htrap hbegun hcur htodo hlock hmiss hhalt hdis hbrk hbytes hwhole hgood hdecode
      hdue hsb hlong live c1 trigs ahead hoff hmis hstk u
    have hmay : c.mayIssue = true := by
      unfold Cog.mayIssue Cog.atBoundary
      rw [hrun, hwait, htrap, hbegun, hcur, htodo, hlock, hhalt, hdis]
      rfl
    refine (congrArg Host.Outcome.next (State.issue_bundle hruns hmay (State.breakpoint_none hbrk) hmiss ⟨hbytes, hwhole, hgood, hdecode⟩
      (Cog.dueLoad_none hdue) ⟨hsb, hlong, hlock, hoff, hmis, hstk⟩)).trans ?_
    rw [Cog.issued_marked]
    rfl
  · intro c k' written calm ends order
    have hcalm : calm → s.Calm i k := by
      rintro ⟨hrun, -, hlock, htrap, htrap3, htrap4, htrap5, -, hnoVT, hstep, hdefers, -, hlmask, hhalts, hreq, hdis, hfence⟩
      exact ⟨hrun, hlock, htrap, htrap3, htrap4, htrap5, hnoVT, hstep, hdefers, hlmask, fun q hq => hhalts q.1 q.2 hq, hreq, hdis, hfence⟩
    refine ⟨fun hps => State.accepted_more htodo hcur hps, fun hps => ?_, fun a hps hc hret htarget => ?_, fun ls l hps hc hret htarget hls hlast hcount => ?_,
      fun ls l hps hc hret htarget hls hlast hcount houter => ?_, fun hps hc hret htarget hinner => ?_, fun target f hps hc hret hclass => ?_⟩
    all_goals subst hps
    · exact State.accepted_fence htodo hcur
    · have hends := (hcalm hc).ends htodo hcur hret fw (loops := c.loops) (back := none) (if_pos (by simp [htarget]))
      rw [htarget] at hends
      exact hends
    · have hloops : c.loopsAfter k = ((ls ++ [{ l with count := l.count - 1 }]).reverse, some l.start) := by
        rw [Cog.loopsAfter_loop hret htarget, hls, ← hlast, loopDecide_again hcount]
      have hends := (hcalm hc).ends htodo hcur hret fw hloops
      rw [htarget] at hends
      exact hends
    · have hloops : c.loopsAfter k = (ls.reverse, none) := by
        rw [Cog.loopsAfter_loop hret htarget, hls, ← hlast, loopDecide_ends hcount, loopDecide_stays fun m hm => hlast ▸ houter m hm]
      have hends := (hcalm hc).ends htodo hcur hret fw hloops
      rw [htarget] at hends
      exact hends
    · have hloops : c.loopsAfter k = (c.loops.reverse, none) := by
        rw [Cog.loopsAfter_loop hret htarget, loopDecide_stays hinner]
      have hends := (hcalm hc).ends htodo hcur hret fw hloops
      rw [htarget] at hends
      exact hends
    · exact (hcalm hc).returns htodo hcur fw hret hclass

end Sys2Proof.Machine
end

section
/-! PROOFS. Numbers as the function units take and give them: two's complement at a width, top bits, and flag writes (R5, R91, R141). -/

namespace Sys2Proof.Machine

/-! ### Two's complement -/

theorem two_pow_pred {n : Nat} (hn : 0 < n) : 2 ^ n = 2 * 2 ^ (n - 1) := by
  rw [← Nat.pow_succ', Nat.succ_eq_add_one, Nat.sub_add_cancel hn]

theorem bits_zero (v w : Nat) : bits v 0 w = v % 2 ^ w := by rw [bits, Nat.pow_zero, Nat.div_one]

theorem wrap_cast (x : Int) (n : Nat) : (wrap x n : Int) = x % (2 ^ n : Nat) :=
  Int.toNat_of_nonneg (Int.emod_nonneg _ (Int.natCast_ne_zero.2 (Nat.two_pow_pos n).ne'))

theorem wrap_lt (x : Int) (n : Nat) : wrap x n < 2 ^ n := by
  have h := Int.emod_lt_of_pos x (Int.natCast_pos.2 (Nat.two_pow_pos n))
  have hcast := wrap_cast x n
  omega

theorem inSigned_iff {x : Int} {n : Nat} : inSigned x n = true ↔ -(2 ^ (n - 1) : Nat) ≤ x ∧ x < (2 ^ (n - 1) : Nat) := decide_eq_true_iff

/-- A number read as two's complement lies in the range of its width. -/
theorem inSigned_signed {n : Nat} (hn : 0 < n) (v : Nat) : inSigned (signed v n) n = true := by
  have hpow := two_pow_pred hn
  have hlt := Nat.mod_lt v (Nat.two_pow_pos n)
  rw [inSigned_iff, signed]
  generalize v % 2 ^ n = u at *
  generalize 2 ^ (n - 1) = m at *
  split <;> omega

/-- An integer within the range of a width is read back from its low bits. -/
theorem signed_wrap {x : Int} {n : Nat} (hn : 0 < n) (h : inSigned x n = true) : signed (wrap x n) n = x := by
  have hpow := two_pow_pred hn
  have hcast := wrap_cast x n
  obtain ⟨hlo, hhi⟩ := inSigned_iff.1 h
  rw [signed, Nat.mod_eq_of_lt (wrap_lt x n)]
  generalize wrap x n = u at *
  rw [hpow] at *
  generalize 2 ^ (n - 1) = m at *
  rcases Int.lt_or_le x 0 with hneg | hpos
  · have hx : x % ((2 * m : Nat) : Int) = x + (2 * m : Nat) := by
      rw [← Int.add_emod_right, Int.emod_eq_of_lt (by omega) (by omega)]
    rw [hx] at hcast
    rw [if_neg (by omega)]
    omega
  · rw [Int.emod_eq_of_lt hpos (by omega)] at hcast
    rw [if_pos (by omega)]
    exact hcast

theorem inSigned_clampSigned (x : Int) (n : Nat) : inSigned (clampSigned x n) n = true := by
  have hpos := Nat.two_pow_pos (n - 1)
  rw [inSigned_iff, clampSigned]
  omega

/-- The sign of a number within the range of its width is its top bit. -/
theorem bit_top {r n : Nat} (hn : 0 < n) (h : r < 2 ^ n) : bit r (n - 1) = decide (2 ^ (n - 1) ≤ r) := by
  rw [two_pow_pred hn] at h
  have hpos := Nat.two_pow_pos (n - 1)
  unfold bit
  refine decide_eq_decide.2 ?_
  rcases Nat.lt_or_ge r (2 ^ (n - 1)) with hlo | hhi
  · rw [Nat.div_eq_of_lt hlo]
    omega
  · rw [Nat.div_eq_of_lt_le (k := 1) (by omega) (by omega)]
    omega

theorem signed_eq_toInt (x : BitVec 42) : signed x.toNat 42 = x.toInt := by
  have hlt := x.isLt
  rw [BitVec.toInt_eq_toNat_cond, signed]
  omega

theorem ofNat_wrap (x : Int) : BitVec.ofNat 42 (wrap x 42) = BitVec.ofInt 42 x := by
  refine BitVec.eq_of_toNat_eq ?_
  rw [BitVec.toNat_ofNat, BitVec.toNat_ofInt, Nat.mod_eq_of_lt (wrap_lt x 42)]
  rfl

/-! ### Flag writes -/

@[simp] theorem FlagWrite.put_mask (f : FlagWrite) (i : Nat) (b : Bool) : (f.put i b).mask = setBits f.mask i 1 1 := rfl

@[simp] theorem FlagWrite.bit_put (f : FlagWrite) (i j : Nat) (b : Bool) : bit (f.put i b).val j = if j = i then b else bit f.val j := by
  rw [FlagWrite.put, bit_setBits]
  by_cases h : j = i
  · subst h
    rw [if_pos ⟨le_rfl, Nat.lt_succ_self j⟩, if_pos rfl, Nat.sub_self]
    cases b <;> rfl
  · rw [if_neg (by omega), if_neg h]

/-- Z and N as a delivered result shows them (R91). -/
theorem resultFlags_bits {r n : Nat} (hn : 0 < n) (h : r < 2 ^ n) :
    bit (resultFlags r n).val flagZ = decide (r = 0) ∧ bit (resultFlags r n).val flagN = decide (2 ^ (n - 1) ≤ r) ∧ (resultFlags r n).mask = 3 := by
  refine ⟨?_, ?_, show setBits (setBits 0 0 1 1) 1 1 1 = 3 by decide⟩
  · rw [resultFlags, FlagWrite.bit_put, FlagWrite.bit_put, Nat.mod_eq_of_lt h]
    rfl
  · rw [resultFlags, FlagWrite.bit_put, if_pos rfl, bit_top hn h]

end Sys2Proof.Machine
end

section
/-! PROOFS. The units that give their result to the bundle, and the accumulator (R88, R91, R92, R94 to R97). -/

namespace Sys2Proof.Machine

theorem Width.bits_pos (w : Width) : 0 < w.bits := by cases w <;> decide

/-! ### ALU -/

/-- What an addition or a subtraction with the exact result `x` delivers (R91, R92). -/
def arithResult (x : Int) (n : Nat) (carry sat : Bool) : Nat × FlagWrite :=
  (deliver x n sat, ((resultFlags (deliver x n sat) n).put flagC carry).put flagV (!inSigned x n))

theorem aluCompute_arith (n o v : Nat) (c sat : Bool) :
    aluCompute .add n o v c sat = arithResult (signed o n + signed v n) n (decide (2 ^ n ≤ o % 2 ^ n + v % 2 ^ n)) sat ∧
    aluCompute .adc n o v c sat = arithResult (signed o n + signed v n + b2n c) n (decide (2 ^ n ≤ o % 2 ^ n + v % 2 ^ n + b2n c)) sat ∧
    aluCompute .sub n o v c sat = arithResult (signed o n - signed v n) n (decide (o % 2 ^ n < v % 2 ^ n)) sat := ⟨rfl, rfl, rfl⟩

/-- Outside saturate mode the result is exact modulo 2^n, and the flags are those of R91. -/
theorem arithResult_exact {n : Nat} (hn : 0 < n) (x : Int) (carry : Bool) :
    let a := arithResult x n carry false
    (a.1 : Int) = x % (2 ^ n : Nat) ∧ bit a.2.val flagC = carry ∧ bit a.2.val flagZ = decide (a.1 = 0) ∧ bit a.2.val flagN = decide (2 ^ (n - 1) ≤ a.1) ∧
      bit a.2.val flagV = decide (x < -(2 ^ (n - 1) : Nat) ∨ (2 ^ (n - 1) : Nat) ≤ x) ∧ a.2.mask = 0xF := by
  obtain ⟨hz, hneg, hmask⟩ := resultFlags_bits hn (wrap_lt x n)
  have hv : (!inSigned x n) = decide (x < -(2 ^ (n - 1) : Nat) ∨ (2 ^ (n - 1) : Nat) ≤ x) := by
    rw [inSigned, ← decide_not]
    exact decide_eq_decide.2 (by omega)
  refine ⟨wrap_cast x n, ?_, ?_, ?_, ?_, show setBits (setBits (setBits (setBits 0 0 1 1) 1 1 1) 2 1 1) 3 1 1 = 0xF by decide⟩
  · exact (FlagWrite.bit_put ..).trans ((if_neg (by decide)).trans ((FlagWrite.bit_put ..).trans (if_pos rfl)))
  · exact (FlagWrite.bit_put ..).trans ((if_neg (by decide)).trans ((FlagWrite.bit_put ..).trans ((if_neg (by decide)).trans hz)))
  · exact (FlagWrite.bit_put ..).trans ((if_neg (by decide)).trans ((FlagWrite.bit_put ..).trans ((if_neg (by decide)).trans hneg)))
  · exact (FlagWrite.bit_put ..).trans ((if_pos rfl).trans hv)

/-- In saturate mode the result is the nearest value that the width holds (R92). -/
theorem arithResult_saturates {n : Nat} (hn : 0 < n) (x : Int) (carry : Bool) : signed (arithResult x n carry true).1 n = clampSigned x n :=
  signed_wrap hn (inSigned_clampSigned x n)

theorem exec_aluCommand (op : AluOp) (i : CogId) (u : Bool) (s : State) : exec (aluCommand op i u) s = .next (s.aluOp i u op) := by
  cases op <;> rfl

/-- An ALU trigger at the head gives its result and its flags to the bundle (R37, R88). -/
theorem State.aluOp_presented {s : State} {i : Nat} {p : Presented} (hp : s.presented i = some p) {u : Bool} {op : AluOp} (ht : p.op = .alu u op) :
    s.aluOp i u op =
      let r := aluCompute op p.w.bits ((s.cog i).get (if u then .alu1o else .alu0o)) p.val.toNat (bit (s.cog i).flags.toNat flagC)
        (bit (s.cog i).flags.toNat flagSAT)
      s.yieldResult i (if u then .alu1r else .alu0r) (sext r.1 p.w) r.2 :=
  State.onTrigger_presented hp ht _

/-- Settles O9: a trigger gives its result to the bundle; additions and subtractions share one form, exact or clamped. -/
theorem aluTriggersDeliverExactSums : Obligations.AluTriggersDeliverExactSums := by
  refine ⟨fun i u op s p hp ht => (exec_aluCommand ..).trans (congrArg Host.Outcome.next (State.aluOp_presented hp ht)), fun w o v c ho hv => ?_⟩
  have hn := w.bits_pos
  obtain ⟨hadd, hadc, hsub⟩ := aluCompute_arith w.bits o v c false
  obtain ⟨haddS, hadcS, hsubS⟩ := aluCompute_arith w.bits o v c true
  rw [Nat.mod_eq_of_lt ho, Nat.mod_eq_of_lt hv] at hadd hadc hsub
  dsimp only
  rw [hadd, hadc, hsub, haddS, hadcS, hsubS]
  exact ⟨arithResult_exact hn .., arithResult_exact hn .., arithResult_exact hn .., arithResult_saturates hn .., arithResult_saturates hn ..,
    arithResult_saturates hn ..⟩

/-! ### Shifts -/

theorem shl_result (n o k : Nat) : (shiftCompute .shl n o k).1 = o * 2 ^ k % 2 ^ n := by
  refine (show (shiftCompute .shl n o k).1 = if n ≤ k then 0 else o % 2 ^ n * 2 ^ k % 2 ^ n from rfl).trans ?_
  split
  · next h => exact (Nat.mod_eq_zero_of_dvd (Dvd.dvd.mul_left (Nat.pow_dvd_pow 2 h) o)).symm
  · rw [Nat.mod_mul_mod]

theorem shr_result (n o k : Nat) : (shiftCompute .shr n o k).1 = o % 2 ^ n / 2 ^ k := by
  refine (show (shiftCompute .shr n o k).1 = if n ≤ k then 0 else o % 2 ^ n / 2 ^ k from rfl).trans ?_
  split
  · next h => exact (Nat.div_eq_of_lt ((Nat.mod_lt o (Nat.two_pow_pos n)).trans_le (Nat.pow_le_pow_right Nat.two_pos h))).symm
  · rfl

/-- A value of a width divided by a power of two stays within the width. -/
theorem inSigned_div {x : Int} {n : Nat} (h : inSigned x n = true) (k : Nat) : inSigned (x / (2 ^ k : Nat)) n = true := by
  obtain ⟨hlo, hhi⟩ := inSigned_iff.1 h
  have hd : (0 : Int) < (2 ^ k : Nat) := Int.natCast_pos.2 (Nat.two_pow_pos k)
  refine inSigned_iff.2 ⟨(Int.le_ediv_iff_mul_le hd).2 ?_, (Int.ediv_lt_iff_lt_mul hd).2 ?_⟩ <;> nlinarith

/-- Shifts by the width and by more leave the sign alone. -/
theorem div_two_pow_min {x : Int} {n : Nat} (h : inSigned x n = true) (k : Nat) : x / (2 ^ min k n : Nat) = x / (2 ^ k : Nat) := by
  rcases Nat.le_total k n with hk | hk
  · rw [Nat.min_eq_left hk]
  · have hle : 2 ^ (n - 1) ≤ 2 ^ n := Nat.pow_le_pow_right Nat.two_pos (Nat.sub_le n 1)
    have hle' : 2 ^ n ≤ 2 ^ k := Nat.pow_le_pow_right Nat.two_pos hk
    have hsign (m : Nat) (hm : 2 ^ (n - 1) ≤ m) : x / (m : Int) = if x < 0 then -1 else 0 := by
      obtain ⟨hlo, hhi⟩ := inSigned_iff.1 h
      split
      · exact Int.ediv_eq_neg_one_of_neg_of_le (by omega) (by omega)
      · exact Int.ediv_eq_zero_of_lt (by omega) (by omega)
    rw [Nat.min_eq_right hk, hsign _ hle, hsign _ (hle.trans hle')]

theorem sar_result {n : Nat} (hn : 0 < n) (o k : Nat) : signed (shiftCompute .sar n o k).1 n = signed o n / (2 ^ k : Nat) := by
  have hin := inSigned_signed hn o
  exact (signed_wrap hn (inSigned_div hin (min k n))).trans (div_two_pow_min hin k)

/-- A shift trigger at the head gives its result and its flags to the bundle (R37, R88). -/
theorem State.shiftOp_presented {s : State} {i : Nat} {p : Presented} (hp : s.presented i = some p) {t : Trigger} (ht : p.op = t) {op : ShiftOp} :
    s.shiftOp i t op =
      let r := shiftCompute op p.w.bits ((s.cog i).get .sho) (shiftCount p.w p.val.toNat)
      s.yieldResult i .shr (sext r.1 p.w) r.2 :=
  State.onTrigger_presented hp ht _

/-- Settles O10: the trigger gives its result to the bundle; each shift is arithmetic by the power of two. -/
theorem shiftTriggersDeliver : Obligations.ShiftTriggersDeliver := by
  refine ⟨fun i op s p hp ht => ?_, fun w o k => ⟨shl_result .., shr_result .., sar_result w.bits_pos ..⟩⟩
  cases op <;> exact congrArg Host.Outcome.next (State.shiftOp_presented hp ht)

/-! ### The accumulator -/

theorem macProduct_eq (o v : Nat) (uns : Bool) :
    macProduct o v uns = if uns then ((o % 2 ^ 14 * (v % 2 ^ 14) : Nat) : Int) else signed o 14 * signed v 14 := by
  rw [Nat.cast_mul]
  rfl

/-- A trigger at the head that changes the accumulator (R97). -/
theorem State.macOp_presented {s : State} {i : Nat} {p : Presented} (hp : s.presented i = some p) {t : Trigger} (ht : p.op = t)
    (f : Int → Int → Int → Int) :
    s.macOp i t f = (s.setCog i { s.cog i with
      acc := BitVec.ofInt 42 (f (s.cog i).acc.toInt (macProduct ((s.cog i).get .maco) p.val.toNat (bit ((s.cog i).get .macm) 1))
        (signed p.val.toNat p.w.bits)) }).accepted i := by
  refine (State.onTrigger_presented hp ht _).trans ?_
  dsimp only
  rw [signed_eq_toInt, ofNat_wrap]

/-- Settles O11: the four triggers differ in what they make of the accumulator, the product and the moved value. -/
theorem macTriggersAccumulate : Obligations.MacTriggersAccumulate := by
  intro i s p hp
  dsimp only
  rw [← macProduct_eq]
  exact ⟨fun ht => congrArg Host.Outcome.next (State.macOp_presented hp ht _), fun ht => congrArg Host.Outcome.next (State.macOp_presented hp ht _),
    fun ht => congrArg Host.Outcome.next (State.macOp_presented hp ht _), fun ht => congrArg Host.Outcome.next (State.macOp_presented hp ht _)⟩

end Sys2Proof.Machine
end

section
/-! PROOFS. The long-latency units: what an operation starts, and what its result writes (R44 to R46, R93, R98, R99, R103, R104). -/

namespace Sys2Proof.Machine

/-! ### Sparse maps and flags -/

theorem look_append {α : Type} (m n : Sparse α) (a : Nat) : look (m ++ n) a = (look m a).or (look n a) := by
  induction m with
  | nil => rfl
  | cons x m ih =>
    rw [List.cons_append, look_cons, look_cons, ih]
    split <;> rfl

/-- The bits of a number that is given by its bits. -/
theorem bit_sum_range (g : Nat → Bool) (n : Nat) :
    ((List.range n).map fun i => b2n (g i) * 2 ^ i).sum < 2 ^ n ∧ ∀ j, j < n → bit ((List.range n).map fun i => b2n (g i) * 2 ^ i).sum j = g j := by
  induction n with
  | zero => exact ⟨Nat.one_pos, fun j hj => absurd hj (Nat.not_lt_zero j)⟩
  | succ n ih =>
    obtain ⟨hlt, hbits⟩ := ih
    have hb : b2n (g n) < 2 := by cases g n <;> decide
    rw [List.range_succ, List.map_append, List.sum_append, List.map_singleton, List.sum_singleton, Nat.add_comm, Nat.mul_comm]
    refine ⟨?_, fun j hj => ?_⟩
    · rw [Nat.pow_succ]
      have hmul : 2 ^ n * b2n (g n) ≤ 2 ^ n * 1 := Nat.mul_le_mul_left _ (by omega)
      omega
    · rw [bit_testBit, Nat.testBit_two_pow_mul_add _ hlt]
      split
      · next h => exact (bit_testBit ..).symm.trans (hbits j h)
      · obtain rfl : j = n := by omega
        rw [Nat.sub_self]
        cases g j <;> rfl

/-- A flag after a flag write: the value written where the mask names it. -/
theorem bit_applyFlags (fl : Word) (f : FlagWrite) {j : Nat} (hj : j < 14) :
    bit (applyFlags fl f).toNat j = if bit f.mask j then bit f.val j else bit fl.toNat j := by
  obtain ⟨hlt, hbits⟩ := bit_sum_range (fun i => if bit f.mask i then bit f.val i else bit fl.toNat i) 14
  rw [applyFlags, BitVec.toNat_ofNat, Nat.mod_eq_of_lt hlt]
  exact hbits j hj

/-! ### What a trigger starts -/

/-- A division at the head starts an operation with its quotient and its remainder (R99). -/
theorem State.divOp_presented {s : State} {i : Nat} {p : Presented} (hp : s.presented i = some p) {t : Trigger} (ht : p.op = t) (sgn : Bool) :
    s.divOp i t sgn =
      let r := divCompute sgn p.w.bits ((s.cog i).get .divo) p.val.toNat (bit (s.cog i).flags.toNat flagSAT)
      s.longStart i .div (((s.cog i).longDests p.op p.w).zip (wordsOf p.w.words r.1 ++ wordsOf p.w.words r.2.1)) r.2.2 := by
  rw [ht]
  exact State.onTrigger_presented hp ht _

/-- A digit operation at the head starts an operation with its one word (R103). -/
theorem State.digOp_presented {s : State} {i : Nat} {p : Presented} (hp : s.presented i = some p) {t : Trigger} (ht : p.op = t)
    (f : Nat → Nat → Nat → Nat × Bool) :
    s.digOp i t f =
      let r := f ((s.cog i).get .digo % 2 ^ 14) (p.val.toNat % 2 ^ 14) (b2n (bit (s.cog i).flags.toNat flagD))
      s.longStart i .dig (((s.cog i).longDests p.op p.w).zip [r.1]) (digFlags r.1 r.2) := by
  rw [ht]
  exact State.onTrigger_presented hp ht _

theorem exec_macRd {i : CogId} {s : State} {p : Presented} (hp : s.presented i = some p) (ht : p.op = .macRd) :
    exec (.macRd i) s =
      let r := macRead (s.cog i).acc.toNat (p.val.toNat % 64) p.w.bits (bit ((s.cog i).get .macm) 0) (bit (s.cog i).flags.toNat flagSAT)
      .next (s.longStart i .mac (((s.cog i).longDests p.op p.w).zip (wordsOf p.w.words r.1)) r.2) := by
  rw [ht, show p.val.toNat % 64 = bits p.val.toNat 0 6 from (bits_zero _ 6).symm]
  exact congrArg Host.Outcome.next (State.onTrigger_presented hp ht _)

theorem exec_digCvt {i : CogId} {s : State} {p : Presented} (hp : s.presented i = some p) (ht : p.op = .digCvt) :
    exec (.digCvt i) s =
      let r := digConvert p.val.toNat p.w.bits
      .next (s.longStart i .dig (((s.cog i).longDests p.op p.w).zip [r.1, r.2.1]) r.2.2) := by
  rw [ht]
  exact congrArg Host.Outcome.next (State.onTrigger_presented hp ht _)

/-! ### What a result writes -/

/-- One word of a result: into its register, whose scoreboard bit clears (R44). -/
def Cog.landWord (c : Cog) (d : Nat × Word) : Cog := { c.setG d.1 d.2.toNat with sb := BitVec.ofNat 32 (setBits c.sb.toNat d.1 1 0) }

/-- The words of a result, one after another. -/
def Cog.landWords (c : Cog) (ds : List (Nat × Word)) : Cog := ds.foldl Cog.landWord c

theorem Cog.landWords_frame (c : Cog) (ds : List (Nat × Word)) : c.landWords ds = { c with g := (c.landWords ds).g, sb := (c.landWords ds).sb } := by
  induction ds generalizing c with
  | nil => rfl
  | cons d ds ih => exact ih (c.landWord d)

theorem Cog.gWord_landWord (c : Cog) (d : Nat × Word) (r : Nat) : (c.landWord d).gWord r = if d.1 = r then d.2.toNat else c.gWord r := by
  have hword : (BitVec.ofNat 14 d.2.toNat).toNat = d.2.toNat := by rw [BitVec.ofNat_toNat, BitVec.setWidth_eq]
  change ((look (put c.g d.1 (BitVec.ofNat 14 d.2.toNat)) r).getD 0).toNat = _
  rw [look_put]
  split
  · exact hword
  · rfl

theorem Cog.sb_landWord (c : Cog) (d : Nat × Word) (r : Nat) : bit (c.landWord d).sb.toNat r = (decide (d.1 ≠ r) && bit c.sb.toNat r) := by
  have hsb : (setBits c.sb.toNat d.1 1 0 % 2 ^ 32).testBit r = (decide (r < 32) && (setBits c.sb.toNat d.1 1 0).testBit r) := Nat.testBit_mod_two_pow ..
  have hhigh : ¬ r < 32 → c.sb.toNat.testBit r = false := fun h => Nat.testBit_lt_two_pow (c.sb.isLt.trans_le (Nat.pow_le_pow_right Nat.two_pos (Nat.not_lt.1 h)))
  rw [bit_testBit, bit_testBit, Cog.landWord, BitVec.toNat_ofNat, hsb, setBits_testBit]
  by_cases hr : r < 32
  · by_cases he : d.1 = r
    · rw [if_pos (by omega)]
      simp [he]
    · rw [if_neg (by omega)]
      simp [hr, he]
  · simp [hr, hhigh hr]

/-- A register holds the last word that the result gives it; a register that it does not name keeps its own, and its scoreboard bit. -/
theorem Cog.landWords_at (c : Cog) (ds : List (Nat × Word)) (r : Nat) :
    (c.landWords ds).gWord r = ((look ds.reverse r).map (·.toNat)).getD (c.gWord r) ∧
      bit (c.landWords ds).sb.toNat r = ((look ds.reverse r).isNone && bit c.sb.toNat r) := by
  induction ds generalizing c with
  | nil => exact ⟨rfl, rfl⟩
  | cons d ds ih =>
    obtain ⟨hg, hsb⟩ := ih (c.landWord d)
    rw [c.gWord_landWord] at hg
    rw [c.sb_landWord] at hsb
    rw [List.reverse_cons, look_append, look_cons, look_nil]
    refine ⟨hg.trans ?_, hsb.trans ?_⟩
    · cases look ds.reverse r with
      | some v => rfl
      | none => split <;> rfl
    · cases look ds.reverse r with
      | some v => rfl
      | none => by_cases h : d.1 = r <;> simp [h]

/-- What a result writes besides its registers: its operation is gone, and its flags stand in the cog or, within the bundle that triggered it, in
the bundle. -/
theorem Cog.longWrite_fields (c : Cog) (o : LongOp) :
    (c.longWrite o).g = (c.landWords o.dests).g ∧ (c.longWrite o).sb = (c.landWords o.dests).sb ∧ (c.longWrite o).long = c.long.erase o ∧
    (c.longWrite o).flags = (if o.fresh && c.cur.isSome then c.flags else applyFlags c.flags ⟨o.fmask.toNat, o.fval.toNat⟩) ∧
    (c.longWrite o).cur = (if o.fresh then c.cur.map fun k =>
      let j := joinFlags k.lmask.toNat k.lval.toNat o.fmask.toNat o.fval.toNat
      { k with lmask := j.1, lval := j.2 } else c.cur) ∧
    (c.longWrite o).acc = c.acc ∧ (c.longWrite o).port = c.port := by
  have hwords : o.dests.foldl (fun (x : Cog) (r, v) => { x.setG r v.toNat with sb := BitVec.ofNat 32 (setBits x.sb.toNat r 1 0) }) c = c.landWords o.dests := rfl
  unfold Cog.longWrite
  rw [hwords, c.landWords_frame]
  cases o.fresh <;> cases c.cur <;> exact ⟨rfl, rfl, rfl, rfl, rfl, rfl, rfl⟩

theorem Cog.boundaryTrap_forms (c : Cog) (a : Nat) : ∃ t, c.boundaryTrap a = { c with trap := t, trap3 := none, trap4 := false, trap5 := false } := by
  have hraise (ts : List Trap) (d : Cog) : ∃ t, ts.foldl Cog.raiseTrap d = { d with trap := t } := by
    induction ts generalizing d with
    | nil => exact ⟨d.trap, rfl⟩
    | cons t ts ih =>
      obtain ⟨u, hu⟩ := ih (d.raiseTrap t)
      exact ⟨u, hu⟩
  exact hraise _ _

/-- A result of an operation of the unit, on a cog whose gate is on (R44); `d` differs from the cog as its result leaves it by traps. -/
theorem exec_longLatencyResult {i : CogId} {u : LongUnit} {s : State} {o : LongOp} (hon : s.domOn (64 + i) = true)
    (ho : (s.cog i).long.find? (fun x => decide (x.unit = u)) = some o) :
    ∃ d : Cog, exec (.longLatencyResult i u) s = .next (s.setCog i d) ∧ d.g = ((s.cog i).longWrite o).g ∧ d.sb = ((s.cog i).longWrite o).sb ∧
      d.long = ((s.cog i).longWrite o).long ∧ d.flags = ((s.cog i).longWrite o).flags ∧ d.cur = ((s.cog i).longWrite o).cur ∧
      d.acc = ((s.cog i).longWrite o).acc ∧ d.port = ((s.cog i).longWrite o).port := by
  have hrun : exec (.longLatencyResult i u) s = .next (s.longResult i u) := congrArg Host.Outcome.next (if_pos hon)
  rw [hrun]
  unfold State.longResult
  dsimp only
  rw [ho]
  dsimp only
  generalize (s.cog i).longWrite o = c
  split
  · obtain ⟨t, ht⟩ := c.boundaryTrap_forms c.pc
    rw [ht]
    exact ⟨_, rfl, rfl, rfl, rfl, rfl, rfl, rfl, rfl⟩
  · exact ⟨c, rfl, rfl, rfl, rfl, rfl, rfl, rfl, rfl⟩

/-- What LONG_LATENCY_RESULT leaves in the registers, the flags and the bundle (R44, R46). -/
theorem longLatencyResult_writes {i : CogId} {u : LongUnit} {s : State} {o : LongOp} (hon : s.domOn (64 + i) = true)
    (ho : (s.cog i).long.find? (fun x => decide (x.unit = u)) = some o) :
    ∃ t, exec (.longLatencyResult i u) s = .next t ∧
      (t.cog i).long = (s.cog i).long.erase o ∧
      (∀ r, (t.cog i).gWord r = ((look o.dests.reverse r).map (·.toNat)).getD ((s.cog i).gWord r) ∧
        bit (t.cog i).sb.toNat r = ((look o.dests.reverse r).isNone && bit (s.cog i).sb.toNat r)) ∧
      (t.cog i).flags = (if o.fresh && (s.cog i).cur.isSome then (s.cog i).flags else applyFlags (s.cog i).flags ⟨o.fmask.toNat, o.fval.toNat⟩) ∧
      (t.cog i).cur = (if o.fresh then (s.cog i).cur.map fun k =>
        let j := joinFlags k.lmask.toNat k.lval.toNat o.fmask.toNat o.fval.toNat
        { k with lmask := j.1, lval := j.2 } else (s.cog i).cur) ∧
      (t.cog i).acc = (s.cog i).acc ∧ (t.cog i).port = (s.cog i).port ∧
      (∀ j, j ≠ i.val → t.cog j = s.cog j) ∧ t.mem = s.mem ∧ t.regs = s.regs ∧ t.pending = s.pending := by
  obtain ⟨d, hrun, hg, hsb, hlong, hflags, hcur, hacc, hport⟩ := exec_longLatencyResult hon ho
  obtain ⟨wg, wsb, wlong, wflags, wcur, wacc, wport⟩ := (s.cog i).longWrite_fields o
  refine ⟨_, hrun, ?_⟩
  rw [State.setCog_self]
  refine ⟨hlong.trans wlong, fun r => ?_, hflags.trans wflags, hcur.trans wcur, hacc.trans wacc, hport.trans wport,
    fun j hj => State.setCog_ne _ _ _ (Ne.symm hj), rfl, rfl, rfl⟩
  obtain ⟨hword, hscore⟩ := (s.cog i).landWords_at o.dests r
  rw [Cog.gWord, hg.trans wg, hsb.trans wsb]
  exact ⟨hword, hscore⟩

/-- Settles O12: each trigger starts its operation, and a result lands word by word. -/
theorem longUnitsScoreboardAndWrite : Obligations.LongUnitsScoreboardAndWrite := by
  refine ⟨fun i s p hp => ?_, fun i u s o hon ho => ?_⟩
  · exact ⟨exec_macRd hp, fun ht => congrArg Host.Outcome.next (State.divOp_presented hp ht true),
      fun ht => congrArg Host.Outcome.next (State.divOp_presented hp ht false), fun ht => congrArg Host.Outcome.next (State.digOp_presented hp ht _),
      fun ht => congrArg Host.Outcome.next (State.digOp_presented hp ht _), fun ht => congrArg Host.Outcome.next (State.digOp_presented hp ht _),
      exec_digCvt hp⟩
  · obtain ⟨t, hrun, hlong, hwords, hflags, hcur, hrest⟩ := longLatencyResult_writes hon ho
    refine ⟨t, hrun, hlong, fun r v hr => ?_, fun r hr => ?_, hflags, fun hfresh => ?_, hrest⟩
    · obtain ⟨hword, hscore⟩ := hwords r
      rw [hr] at hword hscore
      exact ⟨hword, fun _ => hscore⟩
    · obtain ⟨hword, hscore⟩ := hwords r
      rw [hr] at hword hscore
      exact ⟨hword, hscore⟩
    · exact hcur.trans (if_pos (Bool.and_eq_true_iff.1 hfresh).1)

/-! ### Decimal digits -/

/-- The digit words of a moved value, and its flags (R104). -/
theorem digConvert_words (v n : Nat) :
    let word := fun (m : Nat) (neg : Bool) => m % 10 + 16 * (m / 10 % 10) + 256 * (m / 100 % 10) + 8192 * b2n neg
    let m := min (signed v n).natAbs 999999
    (digConvert v n).1 = word m (decide (signed v n < 0)) ∧ (digConvert v n).2.1 = word (m / 1000) (decide (signed v n < 0)) := by
  dsimp only [digConvert]
  omega

theorem digConvert_flags (v n : Nat) :
    let fw := (digConvert v n).2.2
    bit fw.mask flagV = true ∧ bit fw.val flagV = decide (999999 < (signed v n).natAbs) ∧ fw.mask < 2 ^ 14 ∧ fw.val < 2 ^ 14 := by
  have hmask : (digConvert v n).2.2.mask = setBits (setBits (setBits (setBits 0 0 1 1) 1 1 1) 3 1 1) 5 1 1 := rfl
  dsimp only
  rw [hmask]
  refine ⟨by decide, ?_, by decide, ?_⟩
  · exact (FlagWrite.bit_put ..).trans ((if_neg (by decide)).trans ((FlagWrite.bit_put ..).trans (if_pos rfl)))
  · exact setBits_lt (setBits_lt (setBits_lt (setBits_lt (Nat.two_pow_pos 14) (by decide)) (by decide)) (by decide)) (by decide)

/-- Settles O5: the trigger starts an operation with the two digit words, and its result leaves them in their registers. -/
theorem digitConversionDelivers : Obligations.DigitConversionDelivers := by
  refine ⟨fun i s p hp ht => ?_, fun i s o d a b hon ho hfresh hdests _ hmask => ?_⟩
  · obtain ⟨hlo, hhi⟩ := digConvert_words p.val.toNat p.w.bits
    have hrun := exec_digCvt hp ht
    rw [ht] at hrun
    dsimp only at hrun hlo hhi ⊢
    rw [hlo, hhi] at hrun
    exact ⟨_, hrun, digConvert_flags ..⟩
  · obtain ⟨t, hrun, -, hwords, hflags, -⟩ := longLatencyResult_writes hon ho
    have hreverse : o.dests.reverse = [(d + 1, b), (d, a)] := by rw [hdests]; rfl
    rw [hreverse] at hwords
    obtain ⟨hlo, -⟩ := hwords d
    obtain ⟨hhi, -⟩ := hwords (d + 1)
    rw [look_cons, if_neg (Nat.succ_ne_self d), look_cons, if_pos rfl] at hlo
    rw [look_cons, if_pos rfl] at hhi
    rw [hfresh] at hflags
    refine ⟨t, hrun, hlo, hhi, ?_⟩
    rw [hflags]
    exact (bit_applyFlags _ _ (by decide)).trans (if_pos hmask)

end Sys2Proof.Machine
end

section
/-! PROOFS. The triggers that change one thing and complete at once (R47, R60, R70, R72, R77, R105, R108, R156). -/

namespace Sys2Proof.Machine

/-- The writes of Z alone and of N alone. -/
theorem FlagWrite.put_flagZ (b : Bool) : ({} : FlagWrite).put flagZ b = ⟨1, b2n b⟩ := by cases b <;> decide

theorem FlagWrite.put_flagN (b : Bool) : ({} : FlagWrite).put flagN b = ⟨2, if b then 2 else 0⟩ := by cases b <;> decide

/-- The outcome of a trigger at the head (log entry 2). -/
theorem next_onTrigger {s : State} {i : Nat} {p : Presented} (hp : s.presented i = some p) {t : Trigger} (ht : p.op = t) (f : Nat → Width → State → State) :
    (.next (s.onTrigger i t f) : Result) = .next (f p.val.toNat p.w s) :=
  congrArg Host.Outcome.next (State.onTrigger_presented hp ht f)

/-- A fencing trigger at the head marks the bundle, or stalls while a store is buffered (R60). -/
theorem State.fenceOp_presented {s : State} {i : Nat} {p : Presented} (hp : s.presented i = some p) {t : Trigger} (ht : p.op = t) (f : Current → Current) :
    (.next (s.fenceOp i t f) : Result) =
      if (s.cog i).sbuf = [] then .next ((s.setCog i { s.cog i with cur := (s.cog i).cur.map f }).accepted i) else .next (s.stallCog i 7) := by
  rw [State.fenceOp, State.onTrigger_presented hp ht]
  split
  · next hbuf => exact congrArg Host.Outcome.next (if_pos (List.isEmpty_iff.2 hbuf))
  · next hbuf => exact congrArg Host.Outcome.next (if_neg (mt List.isEmpty_iff.1 hbuf))

/-- The index that ag.t.idx leaves (R105). -/
theorem Cog.access_agIdx {c : Cog} {p : Presented} {u : Bool} (ht : p.op = .agIdx u) :
    (c.access ⟨.agIdx u, BitVec.ofNat 42 p.val.toNat, p.w⟩).2 = c.setAg u { c.ag u with idx := p.val.toNat % 2 ^ 28 % (c.ag u).modulus } := by
  rw [Cog.access_presented c p ht, Cog.access, ht]

/-- Settles O13: each trigger writes its cog and is accepted; the fences mark the bundle. -/
theorem simpleTriggersActAtOnce : Obligations.SimpleTriggersActAtOnce := by
  intro i u s p hp
  refine ⟨fun ht => next_onTrigger hp ht _, fun ht => (next_onTrigger hp ht _).trans ?_, fun ht => next_onTrigger hp ht _,
    fun ht => next_onTrigger hp ht _, fun ht => next_onTrigger hp ht _, fun ht => State.fenceOp_presented hp ht _,
    fun ht => State.fenceOp_presented hp ht _, fun ht => (next_onTrigger hp ht _).trans ?_, fun ht => next_onTrigger hp ht _⟩
  · dsimp only
    rw [Cog.access_agIdx ht]
  · dsimp only
    rw [bits_zero, show 2 ^ 5 = 32 from rfl]

end Sys2Proof.Machine
end

section
/-! PROOFS. The cogs' channel triggers: sends, horizon tokens and receives (R108 to R111, R204, R205, R208). -/

namespace Sys2Proof.Machine

/-! ### The sender number of a cog -/

theorem State.logicalOf_lt {s : State} {i k : Nat} (h : s.logicalOf i = some k) : k < 16 := by
  unfold State.logicalOf at h
  dsimp only at h
  split at h
  · split at h
    · cases h
      assumption
    · cases h
  · split at h
    · cases h
    · cases h
      omega

/-- The sender number of a cog is its logical number (R16, R199). -/
theorem State.cogSender_lt {s : State} {i : CogId} {x : Nat} (h : s.cogSender i = some x) : x < 0x100 := by
  obtain ⟨k, hk, rfl⟩ := Option.map_eq_some_iff.1 h
  have hlt := State.logicalOf_lt hk
  have hcas : casOf i < 16 := Nat.div_lt_of_lt_mul i.isLt
  omega

/-- A replay lets the sends of cogs pass (R430). -/
theorem State.replayDiscards_cog (s : State) {x : Nat} (h : x < 0x100) : s.replayDiscards x = false := by
  rw [State.replayDiscards, decide_eq_false (by omega), decide_eq_false (by omega), Bool.or_false, Bool.and_false]

/-- The journal tap takes nothing of a cog (R414). -/
theorem State.jrnTap_cog (s : State) {m : Msg} (h : m.sender < 0x100) : s.jrnTap m = s := if_neg (by omega)

/-! ### What a send changes -/

/-- A sender's own record of its sends changes the members of the channel alone. -/
theorem State.noteSent_chan (s : State) (ch x st : Nat) :
    (∃ ms, (s.noteSent ch x st).chan ch = { s.chan ch with members := ms }) ∧ (∀ k, k ≠ ch → (s.noteSent ch x st).chan k = s.chan k) ∧
      (s.noteSent ch x st).mem = s.mem ∧ (s.noteSent ch x st).regs = s.regs ∧ (s.noteSent ch x st).cogs = s.cogs := by
  unfold State.noteSent
  split
  · exact ⟨⟨_, State.setChan_self ..⟩, fun k hk => State.setChan_ne _ _ _ (Ne.symm hk), rfl, rfl, rfl⟩
  · exact ⟨⟨_, rfl⟩, fun _ _ => rfl, rfl, rfl, rfl⟩

/-- A message enters the fabric: it is in flight, takes a credit, and its sender notes it. -/
def State.sendMsg (s : State) (m : Msg) : State :=
  let key := s.creditKey m.chan m.sender
  let c := s.chan m.chan
  (s.setChan m.chan { c with flight := c.flight ++ [.msg m], used := put c.used key (lookD c.used key 0 + 1) }).noteSent m.chan m.sender m.stamp

theorem State.sendMsg_changes (s : State) (m : Msg) :
    ((s.sendMsg m).chan m.chan).flight = (s.chan m.chan).flight ++ [.msg m] ∧
    lookD ((s.sendMsg m).chan m.chan).used (s.creditKey m.chan m.sender) 0 = lookD (s.chan m.chan).used (s.creditKey m.chan m.sender) 0 + 1 ∧
    (s.sendMsg m).mem = s.mem ∧ (s.sendMsg m).regs = s.regs ∧ (s.sendMsg m).cogs = s.cogs ∧ ∀ k, k ≠ m.chan → (s.sendMsg m).chan k = s.chan k := by
  unfold State.sendMsg
  dsimp only
  generalize ht : s.setChan m.chan _ = t
  obtain ⟨⟨ms, hchan⟩, hothers, hmem, hregs, hcogs⟩ := t.noteSent_chan m.chan m.sender m.stamp
  rw [← ht, State.setChan_self] at hchan
  rw [← ht] at hmem hregs hcogs hothers ⊢
  rw [hchan]
  refine ⟨rfl, ?_, hmem, hregs, hcogs, fun k hk => (hothers k hk).trans (State.setChan_ne _ _ _ (Ne.symm hk))⟩
  rw [lookD, look_put_self]
  rfl

/-- A cog's message: its words, stamped by the sender on an ordered channel and by the fabric on a loose one (R195, R204). -/
def State.cogMsg (s : State) (ch x st : Nat) (words : List Nat) : Msg := ⟨ch, x, if s.chOrd ch then st % 2 ^ 42 else s.now, 0, words.map (· % 2 ^ 14)⟩

/-- A send of a cog while FABRIC is on: it fails a check of R204, it waits for a credit, or it enters the fabric. -/
theorem State.trySend_cog {s : State} (hon : s.domOn 3 = true) {x : Nat} (hx : x < 0x100) (ch st : Nat) (words : List Nat) :
    s.trySend ch x st 0 words =
      match s.sendFails ch x st with
      | some n => some (s.fabErr ch x n)
      | none => if s.freeCredits ch x = 0 then none else some (s.sendMsg (s.cogMsg ch x st words)) := by
  unfold State.trySend
  rw [if_neg (by simp [hon]), if_neg (by simp [s.replayDiscards_cog hx])]
  cases s.sendFails ch x st with
  | some n => rfl
  | none =>
    dsimp only
    split
    · rfl
    · exact congrArg some (State.jrnTap_cog _ hx)

/-- A cog's send once its earlier stores have left: it is made, or it waits (R61, R205). -/
theorem State.cogSend_sent {s u : State} {i x : Nat} {words : List Nat} (hbuf : (s.cog i).sbuf = []) (hx : s.cogSender i = some x)
    (h : s.trySend (s.cog i).sel x ((s.cog i).get .chs) 0 words = some u) : s.cogSend i words = u.accepted i := by
  unfold State.cogSend
  dsimp only
  rw [if_neg (by simp [hbuf]), hx]
  dsimp only
  rw [h]

theorem State.cogSend_waits {s : State} {i x : Nat} {words : List Nat} (hbuf : (s.cog i).sbuf = []) (hx : s.cogSender i = some x)
    (h : s.trySend (s.cog i).sel x ((s.cog i).get .chs) 0 words = none) : s.cogSend i words = s.stallCog i 6 := by
  unfold State.cogSend
  dsimp only
  rw [if_neg (by simp [hbuf]), hx]
  dsimp only
  rw [h]

theorem State.cogSend_buffered {s : State} {i : Nat} (hbuf : (s.cog i).sbuf ≠ []) (words : List Nat) : s.cogSend i words = s.stallCog i 7 :=
  if_pos (by simp [hbuf])

/-- A command that sends, with the message that it puts in flight (R61, R108, R109, R204, R205). -/
theorem exec_sends {e : Instr} {i : CogId} {s : State} {x : Nat} (hx : s.cogSender i = some x) (hon : s.domOn 3 = true) {words : List Nat}
    (he : exec e s = .next (s.cogSend i words)) :
    let c := s.cog i
    let ch := c.sel
    (c.sbuf ≠ [] → exec e s = .next (s.stallCog i 7)) ∧
    (c.sbuf = [] → ∀ n, s.sendFails ch x (c.get .chs) = some n → exec e s = .next ((s.fabErr ch x n).accepted i)) ∧
    (c.sbuf = [] → s.sendFails ch x (c.get .chs) = none → s.freeCredits ch x = 0 → exec e s = .next (s.stallCog i 6)) ∧
    (c.sbuf = [] → s.sendFails ch x (c.get .chs) = none → s.freeCredits ch x ≠ 0 →
      ∃ (u : State) (m : Msg), exec e s = .next (u.accepted i) ∧ m.chan = ch ∧ m.sender = x ∧ m.kind = 0 ∧ m.words = words.map (· % 2 ^ 14) ∧
        (s.chOrd ch = true → m.stamp = c.get .chs % 2 ^ 42) ∧
        (u.chan ch).flight = (s.chan ch).flight ++ [.msg m] ∧
        lookD (u.chan ch).used (s.creditKey ch x) 0 = lookD (s.chan ch).used (s.creditKey ch x) 0 + 1 ∧
        u.mem = s.mem ∧ u.regs = s.regs ∧ u.cogs = s.cogs ∧ ∀ k, k ≠ ch → u.chan k = s.chan k) := by
  have hsend := State.trySend_cog hon (State.cogSender_lt hx) (s.cog i).sel ((s.cog i).get .chs) words
  dsimp only
  rw [he]
  refine ⟨fun hbuf => congrArg _ (State.cogSend_buffered hbuf words), fun hbuf n hfail => ?_, fun hbuf hpass hcred => ?_, fun hbuf hpass hcred => ?_⟩
  · rw [hfail] at hsend
    exact congrArg _ (State.cogSend_sent hbuf hx hsend)
  · rw [hpass] at hsend
    exact congrArg _ (State.cogSend_waits hbuf hx (hsend.trans (if_pos hcred)))
  · rw [hpass] at hsend
    exact ⟨_, s.cogMsg (s.cog i).sel x ((s.cog i).get .chs) words, congrArg _ (State.cogSend_sent hbuf hx (hsend.trans (if_neg hcred))), rfl, rfl, rfl, rfl,
      fun hord => if_pos hord, s.sendMsg_changes _⟩

/-! ### Horizon tokens -/

/-- A token of a cog that passes the checks is in flight, and its sender notes it (R207). -/
theorem State.sendToken_passes {s : State} (hon : s.domOn 3 = true) {x ch st : Nat} (hx : x < 0x100) (hord : s.chOrd ch = true)
    (hpass : s.sendFails ch x st = none) :
    s.sendToken ch x st =
      (s.setChan ch { s.chan ch with flight := (s.chan ch).flight ++ [.token x (st % 2 ^ 42)] }).noteSent ch x (st % 2 ^ 42) := by
  unfold State.sendToken
  rw [if_neg (by simp [hon, hord]), if_neg (by simp [s.replayDiscards_cog hx]), if_neg (by simp [hpass])]

theorem State.sendToken_drops {s : State} {x ch st : Nat} (hx : x < 0x100) (h : s.chOrd ch = false ∨ (s.sendFails ch x st).isSome = true) :
    s.sendToken ch x st = s := by
  unfold State.sendToken
  rcases h with h | h
  · rw [if_pos (by simp [h])]
  · rw [if_neg (by simp [s.replayDiscards_cog hx] : ¬ (true && s.replayDiscards x) = true), if_pos h, ite_self]

theorem State.noteSent_lastSent {s : State} {ch : Nat} (h : s.chOrd ch = true) (x st : Nat) :
    ((s.noteSent ch x st).member ch x).lastSent = some st := by
  unfold State.noteSent State.member
  rw [if_pos h, State.setMember, State.setChan_self, lookD, look_put_self]
  rfl

/-- CH_HZN at the head (R109). -/
theorem exec_chHzn {i : CogId} {s : State} {p : Presented} (hp : s.presented i = some p) (ht : p.op = .chHzn) {x : Nat} (hx : s.cogSender i = some x) :
    exec (.chHzn i) s = .next (if !(s.cog i).sbuf.isEmpty then s.stallCog i 7
      else (s.sendToken (s.cog i).sel x ((s.cog i).get .chs)).accepted i) := by
  refine (next_onTrigger hp ht _).trans ?_
  dsimp only
  rw [hx]

/-! ### Receives -/

/-- The merge with no injection armed gives the deliverable message, and its slot is freed (R208, R226). -/
theorem State.takeMsg_calm {s : State} (h3 : s.injArmed 0x0A0 3 = false) (h2 : s.injArmed 0x0A0 2 = false) (ch : Nat) :
    s.takeMsg ch = match s.deliverable ch with | some m => (some m, s.deliver m) | none => (none, s) := by
  unfold State.takeMsg State.readSlot
  cases s.deliverable ch with
  | none => rfl
  | some m =>
    dsimp only
    rw [if_neg (by simp [h3]), if_neg (by simp [h2])]

/-- A receive or a try at the head on a channel of the cog (R110). -/
theorem State.receiveOp_own {s : State} {i : Nat} {t : Trigger} {p : Presented} (hp : s.presented i = some p) (ht : p.op = t)
    (hown : s.canReceive i (p.val.toNat % 4096) = true) :
    (∀ m u, s.takeMsg (p.val.toNat % 4096) = (some m, u) →
      s.receiveOp i t = ((u.setCog i ((u.cog i).receive m)).watchdogKick i 1).accepted i (if t = .chTry then ({} : FlagWrite).put flagZ false else {})) ∧
    (∀ u, s.takeMsg (p.val.toNat % 4096) = (none, u) →
      s.receiveOp i t = if t = .chTry then u.accepted i (({} : FlagWrite).put flagZ true) else u.stallCog i 6) := by
  unfold State.receiveOp
  rw [State.onTrigger_presented hp ht]
  dsimp only
  rw [if_neg (by simp [hown])]
  refine ⟨fun m u h => ?_, fun u h => ?_⟩ <;> rw [h]

/-- On a channel that is not the cog's it completes with Z = 1 and is recorded (R111). -/
theorem State.receiveOp_foreign {s : State} {i : Nat} {t : Trigger} {p : Presented} (hp : s.presented i = some p) (ht : p.op = t)
    (hforeign : s.canReceive i (p.val.toNat % 4096) = false) : s.receiveOp i t = (s.badReceive i).accepted i (({} : FlagWrite).put flagZ true) := by
  unfold State.receiveOp
  rw [State.onTrigger_presented hp ht]
  exact if_pos (by simp [hforeign])

/-- Settles O19: the ends of a send, of a token, and of a receive. -/
theorem channelTriggersSendAndReceive : Obligations.ChannelTriggersSendAndReceive := by
  intro i s p x hp hx hon
  have hlt := State.cogSender_lt hx
  refine ⟨fun ht => exec_sends hx hon (next_onTrigger hp ht _), fun ht => exec_sends hx hon (next_onTrigger hp ht _), fun ht hbuf hord hpass => ?_,
    fun ht hbuf hdrop => ?_, fun ht hbuf => ?_, fun m u hown htake => ⟨fun ht => ?_, fun ht => ?_⟩, fun u hown htake => ⟨fun ht => ?_, fun ht => ?_⟩,
    fun h3 h2 => State.takeMsg_calm h3 h2 _, fun hforeign ht => ?_, fun hforeign ht => ?_⟩
  · rw [exec_chHzn hp ht hx, if_neg (by simp [hbuf]), State.sendToken_passes hon hlt hord hpass]
    generalize hu : s.setChan _ _ = u
    have hord' : u.chOrd (s.cog i).sel = true := hu ▸ hord
    obtain ⟨⟨ms, hchan⟩, -, hmem, hregs, -⟩ := u.noteSent_chan (s.cog i).sel x ((s.cog i).get .chs % 2 ^ 42)
    refine ⟨_, rfl, ?_, State.noteSent_lastSent hord' .., hmem.trans (hu ▸ rfl), hregs.trans (hu ▸ rfl)⟩
    rw [hchan, ← hu, State.setChan_self]
  · rw [exec_chHzn hp ht hx, if_neg (by simp [hbuf]), State.sendToken_drops hlt hdrop]
  · rw [exec_chHzn hp ht hx, if_pos (by simp [hbuf])]
  · exact congrArg Host.Outcome.next ((State.receiveOp_own hp ht hown).1 m u htake)
  · exact congrArg Host.Outcome.next (((State.receiveOp_own hp ht hown).1 m u htake).trans (by rw [if_pos rfl, FlagWrite.put_flagZ]; rfl))
  · exact congrArg Host.Outcome.next (((State.receiveOp_own hp ht hown).2 u htake).trans (by rw [if_pos rfl, FlagWrite.put_flagZ]; rfl))
  · exact congrArg Host.Outcome.next ((State.receiveOp_own hp ht hown).2 u htake)
  · exact congrArg Host.Outcome.next ((State.receiveOp_foreign hp ht hforeign).trans (by rw [FlagWrite.put_flagZ]; rfl))
  · exact congrArg Host.Outcome.next ((State.receiveOp_foreign hp ht hforeign).trans (by rw [FlagWrite.put_flagZ]; rfl))

end Sys2Proof.Machine
end

section
/-! PROOFS. The event, wait and trace triggers (R114, R116, R162, R163, R408, R410, R497). -/

namespace Sys2Proof.Machine

/-! ### Claims -/

/-- The three ends of a claim: by injection, with the best source, and with none (R408, R412). -/
theorem State.claim_injected {s : State} (h : s.injArmed 0x040 1 = true) (routed : Nat → Bool) (take : EvSource → EvSource) :
    s.claim routed take = (1023, s.injTake 0x040 1) := if_pos h

theorem State.claim_best {s : State} (h : s.injArmed 0x040 1 = false) (hon : s.domOn 2 = true) {routed : Nat → Bool} {n : Nat} (hbest : s.bestOf routed = some n)
    (take : EvSource → EvSource) :
    s.claim routed take = (n, s.setSrc n (take { s.src n with
      st := .claimed, vec := if s.on (srcPage n) R.EV_SRC_CFG_HOST then some (s.rd (srcPage n) R.EV_SRC_CFG_VEC) else none })) := by
  unfold State.claim
  rw [if_neg (by simp [h]), if_pos hon, hbest]

theorem State.claim_none {s : State} (h : s.injArmed 0x040 1 = false) {routed : Nat → Bool} (hnone : s.domOn 2 = false ∨ s.bestOf routed = none)
    (take : EvSource → EvSource) : s.claim routed take = (1023, s) := by
  have hbest : (if s.domOn 2 then s.bestOf routed else none) = none := by
    rcases hnone with h | h
    · rw [if_neg (by simp [h])]
    · rw [h, ite_self]
  unfold State.claim
  rw [if_neg (by simp [h]), hbest]

/-- The sources routed to a cog (R408). -/
def State.routedTo (s : State) (i n : Nat) : Bool :=
  decide (s.rd (srcPage n) R.EV_SRC_CFG_CAS = casOf i) && bit (s.rd (srcPage n) R.EV_SRC_CFG_MASK) ((s.logicalOf i).getD 16)

/-- A cog's claim takes the best source routed to it, under its cassette and logical number (R114, R408). -/
def State.cogClaim (s : State) (i : Nat) : Nat × State :=
  s.claim (s.routedTo i) fun x => { x with cas := casOf i, k := (s.logicalOf i).getD 16, host := false }

theorem State.evClaim_eq (s : State) (i : Nat) :
    s.evClaim i = ((s.cogClaim i).2.setCog i (((s.cogClaim i).2.cog i).set .evr (s.cogClaim i).1)).accepted i
      (({} : FlagWrite).put flagZ (decide ((s.cogClaim i).1 = 1023))) := rfl

/-- EV_CLAIM at the head, with what the claim gives (R114). -/
theorem exec_evClaim {i : CogId} {s u : State} {p : Presented} (hp : s.presented i = some p) (ht : p.op = .evClaim) {n : Nat}
    (hclaim : s.cogClaim i = (n, u)) (hcogs : u.cogs = s.cogs) :
    exec (.evClaim i) s = .next ((u.setCog i ((s.cog i).set .evr n)).accepted i ⟨1, b2n (decide (n = 1023))⟩) := by
  have hrun : s.evClaim i = (u.setCog i ((u.cog i).set .evr n)).accepted i (({} : FlagWrite).put flagZ (decide (n = 1023))) := by
    rw [State.evClaim_eq, hclaim]
  refine (next_onTrigger hp ht _).trans ?_
  rw [hrun, FlagWrite.put_flagZ, State.cog_of_cogs hcogs]

/-! ### Finishes -/

/-- A finish (R410): a claimed source becomes idle, or is raised anew from there. -/
theorem State.finish_eq (s : State) (n : Nat) :
    s.finish n =
      let x := s.src n
      let idle := s.setSrc n { x with st := .idle, rep := false, cas := 0, k := 0, host := false, vec := none }
      let again := s.on (srcPage n) R.EV_SRC_CFG_EN && (if isLevelSource n then !(s.queue (n - 272)).quads.isEmpty else x.rep)
      if s.domOn 2 = false then s else if x.st = .claimed then (if again then idle.arrive n else idle) else s.bump 0x040 R.EV_ERR_BADFIN := by
  unfold State.finish
  dsimp only
  generalize hidle : s.setSrc n _ = idle
  have hlevel : (if isLevelSource n = true then idle.levelCond n else (s.src n).rep) =
      if isLevelSource n = true then !(s.queue (n - 272)).quads.isEmpty else (s.src n).rep := by
    split
    · next h => rw [← hidle, State.levelCond, h]; rfl
    · rfl
  rw [hlevel, show idle.on (srcPage n) R.EV_SRC_CFG_EN = s.on (srcPage n) R.EV_SRC_CFG_EN from hidle ▸ rfl]
  by_cases hon : s.domOn 2 = true
  · refine (if_neg (by simp [hon])).trans (Eq.trans ?_ (if_neg (by simp [hon])).symm)
    by_cases hst : (s.src n).st = .claimed
    · exact (if_neg (not_not_intro hst)).trans (if_pos hst).symm
    · exact (if_pos hst).trans (if_neg hst).symm
  · exact (if_pos (by simpa using hon)).trans (if_pos (by simpa using hon)).symm

/-! ### WAIT -/

/-- The WAIT that a bundle presents, as it was first triggered (R163). -/
def State.theWait (s : State) (i v : Nat) : Waiting × State :=
  match (s.cog i).cur.bind (·.wait) with
  | some w => (w, s)
  | none => s.newWait i v

/-- What pw.t.wait does with its WAIT: the drain, the wake that held at its trigger, or the sleep (R163). -/
def State.takeWait (s : State) (i : Nat) (w : Waiting) : State :=
  match (s.cog i).drainCause with
  | some k => s.stallCog i k
  | none =>
    let u := (s.bump (cogPage i) R.COG_PWR_WAITS).wr (cogPage i) R.COG_PWR_MODE w.mode
    if w.cause ≠ 0 then (u.setCog i ((u.cog i).set .pwr (16 + (w.cause ||| u.waitCauses i w)))).accepted i else u.enterWait i w

theorem State.waitOp_presented {s : State} {i : Nat} {p : Presented} (hp : s.presented i = some p) (ht : p.op = .pwWait) :
    s.waitOp i = (s.theWait i p.val.toNat).2.takeWait i (s.theWait i p.val.toNat).1 :=
  State.onTrigger_presented hp ht _

theorem State.takeWait_drains {s : State} {i k : Nat} (h : (s.cog i).drainCause = some k) (w : Waiting) : s.takeWait i w = s.stallCog i k := by
  unfold State.takeWait
  rw [h]

theorem State.takeWait_drained {s : State} {i : Nat} (h : (s.cog i).drainCause = none) (w : Waiting) :
    s.takeWait i w =
      let u := (s.bump (cogPage i) R.COG_PWR_WAITS).wr (cogPage i) R.COG_PWR_MODE w.mode
      if w.cause ≠ 0 then (u.setCog i ((u.cog i).set .pwr (16 + (w.cause ||| u.waitCauses i w)))).accepted i else u.enterWait i w := by
  unfold State.takeWait
  rw [h]

/-- The cause of the stall while a cog drains for its WAIT, 0 once it has drained (R84). -/
def Cog.busyCause (c : Cog) : Nat := if c.loads.any (fun l => l.answer.isNone) then 2 else if c.long ≠ [] then 1 else if c.sbuf ≠ [] then 7 else 0

theorem Cog.drainCause_eq (c : Cog) : c.drainCause = if c.busyCause = 0 then none else some c.busyCause := by
  have hloads : (!c.loadsDone) = c.loads.any fun l => l.answer.isNone := by
    rw [Cog.loadsDone, List.not_all_eq_any_not]
    exact congrArg c.loads.any (funext fun l => by cases l.answer <;> rfl)
  unfold Cog.drainCause Cog.busyCause
  rw [hloads]
  cases c.loads.any fun l => l.answer.isNone <;> cases c.long <;> cases c.sbuf <;> rfl

/-- The WAIT of a bundle in progress: the one it recorded, or a new one that it records (R111, R163, R165). -/
theorem State.theWait_eq {s : State} {i : Nat} {k : Current} (hcur : (s.cog i).cur = some k) (v : Nat) :
    s.theWait i v =
      let o := (s.cog i).get .pwo
      let bad := bit o 3 && !s.canReceive i (v % 4096)
      let w0 : Waiting := { mode := o % 4, wev := bit o 2, wch := bit o 3 && !bad, wtm := bit o 4, chan := v % 4096, stamp := (s.cog i).get .tms }
      let w := k.wait.getD { w0 with cause := s.waitCauses i w0 }
      (w, if k.wait.isSome then s else
        (if bad then s.wr (cogPage i) R.COG_STORE_BADRX 1 else s).setCog i { s.cog i with cur := some { k with wait := some w } }) := by
  have hcog (b : Bool) : (if b then s.wr (cogPage i) R.COG_STORE_BADRX 1 else s).cog i = s.cog i := by cases b <;> rfl
  unfold State.theWait
  rw [hcur]
  cases hwait : k.wait with
  | some w => simp only [Option.bind_some, hwait]; rfl
  | none =>
    simp only [Option.bind_some, hwait]
    unfold State.newWait
    dsimp only
    rw [hcog, hcur]
    rfl

/-- Recording a WAIT leaves what the cog drains for. -/
theorem State.drainCause_recorded (s u : State) (i : Nat) (done : Bool) (k : Current) :
    ((if done then s else u.setCog i { s.cog i with cur := some k }).cog i).drainCause =
      if (s.cog i).busyCause = 0 then none else some (s.cog i).busyCause := by
  refine Eq.trans ?_ (s.cog i).drainCause_eq
  cases done with
  | true => rfl
  | false =>
    rw [if_neg (by decide), State.setCog_self]
    rfl

/-- A cog that has entered its WAIT and been accepted: its gate begins to change as MODE says (R163). -/
def State.asleep (z : State) (i : Nat) (w : Waiting) : State :=
  if w.mode = 1 then z.beginEntry (64 + i) .ret else if w.mode = 2 then z.beginEntry (64 + i) .off else z

theorem State.enterWait_eq (s : State) (i : Nat) (w : Waiting) :
    s.enterWait i w =
      let z := (s.setCog i { s.cog i with wait := some w }).accepted i
      if (z.cog i).wait = none then z
      else if ((z.asleep i w).cog i).haltReq.isSome || ((z.asleep i w).cog i).mon9 then (z.asleep i w).wakeCog i 0x20
      else if ((z.asleep i w).cog i).disabling then (z.asleep i w).disableWait i else z.asleep i w := by
  unfold State.enterWait
  dsimp only
  generalize (s.setCog i { s.cog i with wait := some w }).accepted i = z
  by_cases h : (z.cog i).wait = none
  · rw [if_pos (by simp [h]), if_pos h]
  · rw [if_neg (by simpa using h), if_neg h]
    rfl

/-! ### Trace -/

/-- A packet is counted as lost, with its source (R475, R497). -/
def State.traceLose (s : State) : State := ({ s.bump 0x032 R.TRC_STAT_DROP with traceLost := s.traceLost + 1 } : State).pgEvt 0x020 17

/-- The overflow packet that comes first when room returns (R497). -/
def State.overflowPacket (s : State) : TracePacket := { stamp := s.now, type := 7, value := s.traceLost }

section
variable {s : State} (hon : s.on 0x032 R.TRC_CTRL_EN = true) (k : TracePacket)
include hon

/-- What the trace unit does with a packet: by injection it loses it (R501). -/
theorem State.tracePut_injected (hinj : s.injArmed 0x032 0 = true) : s.tracePut k = (s.injTake 0x032 0).traceLose := by
  unfold State.tracePut
  simp only [hon, hinj, Bool.not_true, Bool.false_and, Bool.false_eq_true, if_false, Bool.true_or, if_true]
  rfl

/-- Without injection and with no overflow packet to come first: the packet, or its loss when the buffer is full. -/
theorem State.tracePut_calm (hinj : s.injArmed 0x032 0 = false) (hno : ¬(s.traceLost ≠ 0 ∧ s.trace.length < 4096)) :
    s.tracePut k = if 4096 ≤ s.trace.length then s.traceLose else { s with trace := s.trace ++ [k] } := by
  unfold State.tracePut
  simp only [hon, hinj, hno, Bool.not_true, Bool.not_false, Bool.true_and, Bool.false_or, Bool.false_eq_true, if_false, decide_eq_true_eq]
  rfl

/-- Without injection, with packets lost and room: the overflow packet, then the packet as with none lost. -/
theorem State.tracePut_overflow (hinj : s.injArmed 0x032 0 = false) (hlost : s.traceLost ≠ 0) (hroom : s.trace.length < 4096) :
    s.tracePut k = ({ s with trace := s.trace ++ [s.overflowPacket], traceLost := 0 } : State).tracePut k := by
  refine Eq.trans ?_ (State.tracePut_calm (s := { s with trace := s.trace ++ [s.overflowPacket], traceLost := 0 }) hon k hinj (fun h => h.1 rfl)).symm
  unfold State.tracePut
  simp only [hon, hinj, hlost, hroom, Bool.not_true, Bool.not_false, Bool.true_and, Bool.false_or, Bool.false_eq_true, if_false, decide_eq_true_eq,
    ne_eq, not_false_eq_true, and_self, if_true]
  rfl

end

/-- DBG_STIM at the head (R116). -/
theorem exec_dbgStim {i : CogId} {s : State} {p : Presented} (hp : s.presented i = some p) (ht : p.op = .dbgStim) :
    exec (.dbgStim i) s =
      let port := (s.cog i).get .dbgo % 32
      let packet : TracePacket := ⟨s.now, 0, s.traceSrc i, port, p.w.words - 1, p.val.toNat % 2 ^ (14 * p.w.words)⟩
      .next ((if !s.on 0x032 R.TRC_CTRL_EN then s.bump 0x032 R.TRC_STAT_DROP
        else if bit (s.rd 0x032 R.TRC_MASK_PORTS) port then s.tracePut packet else s).accepted i) := by
  refine (next_onTrigger hp ht _).trans ?_
  cases p.w <;> rfl

theorem dbgStim_forms {i : CogId} {s : State} {p : Presented} (hp : s.presented i = some p) (ht : p.op = .dbgStim) :
    let port := (s.cog i).get .dbgo % 32
    let packet : TracePacket := ⟨s.now, 0, s.traceSrc i, port, p.w.words - 1, p.val.toNat % 2 ^ (14 * p.w.words)⟩
    let ends := fun (t : State) => exec (.dbgStim i) s = .next (t.accepted i)
    (s.on 0x032 R.TRC_CTRL_EN = false → ends (s.bump 0x032 R.TRC_STAT_DROP)) ∧
    (s.on 0x032 R.TRC_CTRL_EN = true → bit (s.rd 0x032 R.TRC_MASK_PORTS) port = false → ends s) ∧
    (s.on 0x032 R.TRC_CTRL_EN = true → bit (s.rd 0x032 R.TRC_MASK_PORTS) port = true →
      (s.injArmed 0x032 0 = true → ends (s.injTake 0x032 0).traceLose) ∧
      (s.injArmed 0x032 0 = false → 4096 ≤ s.trace.length → ends s.traceLose) ∧
      (s.injArmed 0x032 0 = false → s.trace.length < 4096 → s.traceLost = 0 → ends { s with trace := s.trace ++ [packet] }) ∧
      (s.injArmed 0x032 0 = false → s.trace.length < 4095 → s.traceLost ≠ 0 →
        ends { s with trace := s.trace ++ [s.overflowPacket, packet], traceLost := 0 }) ∧
      (s.injArmed 0x032 0 = false → s.trace.length = 4095 → s.traceLost ≠ 0 →
        ends ({ s with trace := s.trace ++ [s.overflowPacket], traceLost := 0 } : State).traceLose)) := by
  dsimp only
  rw [exec_dbgStim hp ht]
  dsimp only
  refine ⟨fun hoff => by rw [if_pos (by simp [hoff])], fun hon hmask => by rw [if_neg (by simp [hon]), if_neg (by simp [hmask])], fun hon hmask => ?_⟩
  rw [if_neg (by simp [hon]), if_pos hmask]
  refine ⟨fun hinj => ?_, fun hinj hfull => ?_, fun hinj hroom hlost => ?_, fun hinj hroom hlost => ?_, fun hinj hlast hlost => ?_⟩
  · rw [State.tracePut_injected hon _ hinj]
  · rw [State.tracePut_calm hon _ hinj (by omega), if_pos hfull]
  · rw [State.tracePut_calm hon _ hinj (by omega), if_neg (by omega)]
  · rw [State.tracePut_overflow hon _ hinj hlost (by omega), State.tracePut_calm (s := { s with trace := _, traceLost := 0 }) hon _ hinj (fun h => h.1 rfl),
      if_neg (by rw [List.length_append, List.length_singleton]; omega), List.append_assoc]
    rfl
  · rw [State.tracePut_overflow hon _ hinj hlost (by omega), State.tracePut_calm (s := { s with trace := _, traceLost := 0 }) hon _ hinj (fun h => h.1 rfl),
      if_pos (by rw [List.length_append, List.length_singleton]; omega)]

/-- Settles O21: the claim, the finish, the WAIT as it was triggered, and the packet. -/
theorem eventWaitAndTraceTriggers : Obligations.EventWaitAndTraceTriggers := by
  intro i s p hp
  refine ⟨fun ht => ⟨fun hinj => ?_, fun hinj hon n hbest => ?_, fun hinj hnone => ?_⟩, fun ht => ?_, fun k ht hcur => ?_, fun ht => dbgStim_forms hp ht⟩
  · exact exec_evClaim hp ht (State.claim_injected hinj ..) (State.injTake_cogs ..)
  · exact exec_evClaim hp ht (State.claim_best hinj hon hbest _) rfl
  · exact exec_evClaim hp ht (State.claim_none hinj hnone _) rfl
  · refine (next_onTrigger hp ht _).trans ?_
    rw [State.finish_eq]
  · have hwait := State.theWait_eq hcur p.val.toNat
    have hrun : exec (.pwWait i) s = .next ((s.theWait i p.val.toNat).2.takeWait i (s.theWait i p.val.toNat).1) :=
      congrArg Host.Outcome.next (State.waitOp_presented hp ht)
    rw [hwait] at hrun
    intro o bad w0 w s1 busy u z asleep
    have hdrain : (s1.cog i).drainCause = if busy = 0 then none else some busy := State.drainCause_recorded ..
    refine ⟨fun hbusy => ?_, fun hidle hcause => ?_, fun hidle hcause hdone => ?_, fun hidle hcause hwaits => ?_⟩
    · rw [if_neg hbusy] at hdrain
      exact hrun.trans (congrArg _ (State.takeWait_drains hdrain w))
    all_goals
      rw [if_pos hidle] at hdrain
      refine hrun.trans (congrArg _ ((State.takeWait_drained hdrain w).trans ?_))
    · exact if_pos hcause
    · exact (if_neg (not_not_intro hcause)).trans ((State.enterWait_eq ..).trans (if_pos hdone))
    · exact (if_neg (not_not_intro hcause)).trans ((State.enterWait_eq ..).trans (if_neg hwaits))

end Sys2Proof.Machine
end

section
/-! PROOFS. The tm triggers: samples of the timebase, arming and killing (R112, R113, R265 to R269). -/

namespace Sys2Proof.Machine

/-! ### What the operations on the banks keep -/

@[simp] theorem State.injTake_rel (s : State) (p b : Nat) : (s.injTake p b).rel = s.rel := by simp [State.injTake]

@[simp] theorem State.showRel_rel (s : State) (c : Nat) : (s.showRel c).rel = s.rel := by simp [State.showRel]

@[simp] theorem State.showRel_cogs (s : State) (c : Nat) : (s.showRel c).cogs = s.cogs := by simp [State.showRel]

@[simp] theorem State.breakIdle_rel (s : State) (c : Nat) : (s.breakIdle c).rel = s.rel := by
  unfold State.breakIdle
  split <;> rfl

@[simp] theorem State.slackSample_rel (s : State) (i : Nat) (x : Int) (late : Bool) : (s.slackSample i x late).rel = s.rel := by
  unfold State.slackSample
  cases late <;> simp [State.bump, State.bumpBy]

@[simp] theorem State.relRefuse_rel (s : State) (c k entry cause : Nat) : (s.relRefuse c k entry cause).rel = s.rel := by
  unfold State.relRefuse State.capture
  dsimp only
  split <;> simp [State.bump, State.bumpBy]

@[simp] theorem State.relRefuse_cogs (s : State) (c k entry cause : Nat) : (s.relRefuse c k entry cause).cogs = s.cogs := by
  simp [State.relRefuse, State.bump, State.bumpBy]

/-- With nothing due, nothing is released before an arm or a kill. -/
theorem State.releaseDue_of_none {s : State} (h : s.relNext = none) : s.releaseDue = s := by
  unfold State.releaseDue
  cases s.rel.length with
  | zero => rfl
  | succ n => rw [State.releaseGo, h]

/-! ### Arming -/

/-- A bank with an entry armed: shown as armed, no longer idle, and its slack sampled (R266, R269). -/
def State.armEntry (s : State) (i entry k st act : Nat) (slack : Int × Bool) : State :=
  let c := casOf i
  let t := (({ s with rel := put s.rel (relKey c entry) ⟨st, act, k, s.tb, slack.2⟩ } : State).showRel c).breakIdle c
  if actPh act && !slack.2 then t else t.slackSample i slack.1 slack.2

theorem State.armEntry_rel (s : State) (i entry k st act : Nat) (slack : Int × Bool) :
    (s.armEntry i entry k st act slack).rel = put s.rel (relKey (casOf i) entry) ⟨st, act, k, s.tb, slack.2⟩ := by
  unfold State.armEntry
  dsimp only
  split <;> simp

theorem State.armEntry_keeps (s : State) (i entry k st act : Nat) (slack : Int × Bool) :
    (s.armEntry i entry k st act slack).mem = s.mem ∧ (s.armEntry i entry k st act slack).tb = s.tb := by
  unfold State.armEntry
  dsimp only
  split <;> simp

/-- The slack that an arm returns: −1 and LATE by injection (R286). -/
def State.givenSlack (s : State) (c st act : Nat) : Int × Bool := if s.injArmed (relPage c) 0 then (-1, true) else s.armSlack st act

/-- An arm of an owned entry with a legal action (R266 to R269). -/
theorem State.tmArm_legal {s : State} {i v k : Nat} {r : State} (hr : r = s.releaseDue.watchdogKick i 0) (hk : r.logicalOf i = some k)
    (hlegal : r.armRefuse (casOf i) k (v % 256) ((r.cog i).get .tmo) = 0) :
    let st := (r.cog i).get .tms
    let act := (r.cog i).get .tmo
    let slack := r.givenSlack (casOf i) st act
    let t := (if r.injArmed (relPage (casOf i)) 0 then r.injTake (relPage (casOf i)) 0 else r).armEntry i (v % 256) k st act slack
    s.tmArm i v = (t.setCog i ((t.cog i).set .tmr (wrap (clampSlack slack.1) 42))).accepted i ⟨2, if slack.2 then 2 else 0⟩ := by
  intro st act slack t
  unfold State.tmArm
  dsimp only
  rw [← hr, hk]
  dsimp only
  rw [hlegal, if_neg (not_not_intro rfl), FlagWrite.put_flagN]
  by_cases hinj : r.injArmed (relPage (casOf i)) 0 = true
  · simp only [t, slack, st, act, State.givenSlack, hinj, if_true]
    rfl
  · simp only [t, slack, st, act, State.givenSlack, hinj]
    rfl

/-- An arm that is refused (R268). -/
theorem State.tmArm_refused {s : State} {i v k : Nat} {r : State} (hr : r = s.releaseDue.watchdogKick i 0) (hk : r.logicalOf i = some k)
    (hbad : r.armRefuse (casOf i) k (v % 256) ((r.cog i).get .tmo) ≠ 0) :
    let t := r.relRefuse (casOf i) k (v % 256) (r.armRefuse (casOf i) k (v % 256) ((r.cog i).get .tmo))
    s.tmArm i v = (t.setCog i ((t.cog i).set .tmr (wrap (-134217728) 42))).accepted i ⟨2, 2⟩ := by
  unfold State.tmArm
  dsimp only
  rw [← hr, hk]
  dsimp only
  rw [if_pos hbad, FlagWrite.put_flagN]
  rfl

/-- What an accepted arm leaves, with the slack as it is returned. -/
theorem State.tmArm_arms {s : State} {i v k : Nat} {r : State} (hr : r = s.releaseDue.watchdogKick i 0) (hk : r.logicalOf i = some k)
    (hlegal : r.armRefuse (casOf i) k (v % 256) ((r.cog i).get .tmo) = 0) :
    let st := (r.cog i).get .tms
    let act := (r.cog i).get .tmo
    let key := relKey (casOf i) (v % 256)
    let slack := r.givenSlack (casOf i) st act
    ∃ u : State, s.tmArm i v = u.accepted i ⟨2, if slack.2 then 2 else 0⟩ ∧ look u.rel key = some ⟨st, act, k, r.tb, slack.2⟩ ∧
      (u.cog i).get .tmr = wrap (clampSlack slack.1) 42 ∧ (∀ q, q ≠ key → look u.rel q = look r.rel q) ∧ u.mem = r.mem ∧ u.tb = r.tb := by
  intro st act key slack
  refine ⟨_, State.tmArm_legal hr hk hlegal, ?_⟩
  have htake (b : Bool) (p : Nat) : (if b then r.injTake p 0 else r).rel = r.rel ∧ (if b then r.injTake p 0 else r).mem = r.mem ∧
      (if b then r.injTake p 0 else r).tb = r.tb := by cases b <;> simp
  obtain ⟨hrel, hmem, htb⟩ := htake (r.injArmed (relPage (casOf i)) 0) (relPage (casOf i))
  simp only [State.setCog_self, State.setCog_frame, State.armEntry_rel, State.armEntry_keeps, hrel, hmem, htb, Cog.get_set_self]
  exact ⟨look_put_self .., Nat.mod_eq_of_lt (wrap_lt _ _), fun q hq => look_put_ne _ _ hq.symm, trivial, trivial⟩

/-! ### Killing -/

/-- A kill of an owned entry disarms it; one of a foreign entry is refused (R113, R268). -/
theorem State.tmKill_owned {s : State} {i v k : Nat} (hk : s.releaseDue.logicalOf i = some k) (hown : s.releaseDue.relOwner (casOf i) (v % 256) = k) :
    s.tmKill i v = (s.releaseDue.disarm (casOf i) (v % 256)).2.accepted i ⟨1, b2n (look s.releaseDue.rel (relKey (casOf i) (v % 256))).isNone⟩ := by
  unfold State.tmKill
  dsimp only
  rw [hk]
  dsimp only
  rw [if_neg (not_not_intro hown), FlagWrite.put_flagZ, State.disarm, Option.not_isSome]

theorem State.tmKill_foreign {s : State} {i v k : Nat} (hk : s.releaseDue.logicalOf i = some k) (hown : s.releaseDue.relOwner (casOf i) (v % 256) ≠ k) :
    s.tmKill i v = (s.releaseDue.relRefuse (casOf i) k (v % 256) 4).accepted i ⟨1, 1⟩ := by
  unfold State.tmKill
  dsimp only
  rw [hk]
  dsimp only
  rw [if_pos hown, FlagWrite.put_flagZ]
  rfl

/-- Settles O20: the three samples, the release that comes first, and each of an arm and a kill as it is taken or refused. -/
theorem timeTriggersSampleArmAndKill : Obligations.TimeTriggersSampleArmAndKill := by
  intro i s p hp
  have hnow (ht : p.op = .tmNow) : exec (.tmNow i) s = .next (s.tmNow i p.val.toNat) := next_onTrigger hp ht _
  have harm (ht : p.op = .tmArm) : exec (.tmArm i) s = .next (s.tmArm i p.val.toNat) := next_onTrigger hp ht _
  have hkill (ht : p.op = .tmKill) : exec (.tmKill i) s = .next (s.tmKill i p.val.toNat) := next_onTrigger hp ht _
  refine ⟨fun ht h1 h2 => ?_, fun ht h1 => ?_, fun ht h2 => ?_, State.releaseDue_of_none, fun ht => ⟨fun k hk hlegal => ?_, fun k hk hbad => ?_⟩,
    fun ht => ⟨fun k hk hown => ?_, fun k hk hown => ?_⟩⟩
  · rw [hnow ht, State.tmNow, if_neg h1, if_neg h2]
    rfl
  · rw [hnow ht, State.tmNow, if_pos h1]
  · rw [hnow ht, State.tmNow, if_neg (by omega), if_pos h2]
  · obtain ⟨u, hrun, hleaves⟩ := State.tmArm_arms rfl hk hlegal
    exact ⟨u, (harm ht).trans (congrArg _ hrun), hleaves⟩
  · refine ⟨_, (harm ht).trans (congrArg _ (State.tmArm_refused rfl hk hbad)), by simp, ?_⟩
    rw [State.setCog_self, Cog.get_set_self, Nat.mod_eq_of_lt (wrap_lt _ _)]
  · exact ⟨_, (hkill ht).trans (congrArg _ (State.tmKill_owned hk hown)), look_del_self _, fun q hq => look_del_ne _ hq.symm,
      State.showRel_cogs .., (State.disarm_keeps ..).2.2⟩
  · exact ⟨_, (hkill ht).trans (congrArg _ (State.tmKill_foreign hk hown)), State.relRefuse_rel .., State.relRefuse_cogs ..,
      (State.relRefuse_keeps ..).2.2⟩

end Sys2Proof.Machine
end

section
/-! PROOFS. What reports, traces and entries leave of the words from COG_VBASE to COG_TRAP_INFO and of the cogs (R155, R402, R475, R497). -/

namespace Sys2Proof.Machine

/-! ### The words of an entry -/

/-- The words of a page from COG_VBASE to COG_TRAP_INFO: the base of the vectors, the stack limits and the trap capture (R155, R166). -/
def entryWord (a : Nat) : Prop := 0x50 ≤ a % 4096 ∧ a % 4096 ≤ 0x60

theorem addr_mod {f : Fld} (hs : f.stride = 0) (p j : Nat) : f.addr p j % 4096 = f.off % 4096 := by
  simp only [Fld.addr, hs]
  omega

/-- Two states that agree on the words of entries. -/
def State.SameEntryWords (s t : State) : Prop := ∀ a, entryWord a → t.reg a = s.reg a

theorem State.SameEntryWords.trans {s t u : State} (h : s.SameEntryWords t) (h' : t.SameEntryWords u) : s.SameEntryWords u :=
  fun a ha => (h' a ha).trans (h a ha)

theorem State.SameEntryWords.rd {s t : State} (h : s.SameEntryWords t) {f : Fld} (hs : f.stride = 0) (hf : 0x50 ≤ f.off % 4096 ∧ f.off % 4096 ≤ 0x60)
    (p : Nat) : t.rd p f = s.rd p f := by
  unfold State.rd
  rw [h _ (by rw [entryWord, addr_mod hs]; exact hf)]

theorem State.SameEntryWords.vectorAddr {s t : State} (h : s.SameEntryWords t) (i v : Nat) : t.vectorAddr i v = s.vectorAddr i v := by
  unfold State.vectorAddr
  rw [h.rd rfl (by decide)]

/-! ### Reports and traces -/

/-- `t` is `s` but for registers that are no words of an entry, and for parts of the machine beside its cogs and its stores. -/
structure State.KeepsEntry (s t : State) : Prop where
  words : s.SameEntryWords t
  cogs  : t.cogs = s.cogs
  mem   : t.mem = s.mem

theorem State.KeepsEntry.refl (s : State) : s.KeepsEntry s := ⟨fun _ _ => rfl, rfl, rfl⟩

theorem State.KeepsEntry.trans {s t u : State} (h : s.KeepsEntry t) (h' : t.KeepsEntry u) : s.KeepsEntry u :=
  ⟨h.words.trans h'.words, h'.cogs.trans h.cogs, h'.mem.trans h.mem⟩

theorem State.KeepsEntry.ite {s t u : State} {c : Prop} [Decidable c] (ht : s.KeepsEntry t) (hu : s.KeepsEntry u) : s.KeepsEntry (if c then t else u) := by
  split <;> assumption

/-- A field written in another word. -/
theorem State.KeepsEntry.wr (s : State) (p : Nat) (f : Fld) (v j : Nat) (h : ¬entryWord (f.addr p j)) : s.KeepsEntry (s.wr p f v j) :=
  ⟨fun _ ha => s.reg_wr_ne p f v j fun he => h (he ▸ ha), (s.wr_frame p f v j).2.2.2.2.2.1, (s.wr_keeps p f v j).2.2⟩

theorem State.KeepsEntry.wr_off (s : State) (p : Nat) {f : Fld} (v : Nat) (hs : f.stride = 0) (h : ¬(0x50 ≤ f.off % 4096 ∧ f.off % 4096 ≤ 0x60)) :
    s.KeepsEntry (s.wr p f v) := .wr s p f v 0 (by rw [entryWord, addr_mod hs]; exact h)

theorem State.KeepsEntry.upTo {s : State} {n : Nat} {f : State → Nat → State} (h : ∀ (t : State) (j : Nat), j < n → t.KeepsEntry (f t j)) : s.KeepsEntry (upTo n f s) :=
  List.foldlRecOn (List.range n) f (State.KeepsEntry.refl s) fun _ ht j hj => ht.trans (h _ j (List.mem_range.1 hj))

theorem State.KeepsEntry.cross (s : State) (n : Nat) : s.KeepsEntry (s.cross n) := .ite (.refl s) ⟨fun _ _ => rfl, rfl, rfl⟩

theorem State.KeepsEntry.reportCrossing (s : State) (p b n : Nat) : s.KeepsEntry (s.reportCrossing p b n) := by
  have hpend := State.KeepsEntry.wr_off s p (f := R.PG_EVT_PEND_PEND) (setBits (s.rd p R.PG_EVT_PEND_PEND) b 1 1) rfl (by decide)
  exact .ite (.ite (hpend.trans (.cross ..)) hpend) (.refl s)

/-- A raise, also one that is lost between clock domains and reported (R463, R475). -/
theorem State.KeepsEntry.raise (s : State) (n : Nat) : s.KeepsEntry (s.raise n) := by
  refine .ite (.refl s) (.ite ?_ (.cross ..))
  refine .trans (.trans ?_ (.reportCrossing _ 0x040 0 13)) (.reportCrossing _ 0x020 21 37)
  exact .trans (.trans (.wr_off s _ _ rfl (by decide)) (.wr_off _ _ _ rfl (by decide))) (.wr_off _ _ _ rfl (by decide))

theorem State.KeepsEntry.pgEvt (s : State) (p b : Nat) : s.KeepsEntry (s.pgEvt p b) := by
  refine .ite ?_ (.refl s)
  have hpend := State.KeepsEntry.wr_off s p (f := R.PG_EVT_PEND_PEND) (setBits (s.rd p R.PG_EVT_PEND_PEND) b 1 1) rfl (by decide)
  dsimp only
  split
  · exact hpend.trans (.raise ..)
  · exact hpend

theorem State.KeepsEntry.traceLose (s : State) : s.KeepsEntry s.traceLose := by
  have hcount : s.KeepsEntry (s.bump 0x032 R.TRC_STAT_DROP) := .wr_off s 0x032 _ rfl (by decide)
  have hlost : (s.bump 0x032 R.TRC_STAT_DROP).KeepsEntry { s.bump 0x032 R.TRC_STAT_DROP with traceLost := s.traceLost + 1 } := ⟨fun _ _ => rfl, rfl, rfl⟩
  exact (hcount.trans hlost).trans (.pgEvt ..)

/-- A packet is traced, dropped, or lost and reported (R497). -/
theorem State.KeepsEntry.tracePut (s : State) (k : TracePacket) : s.KeepsEntry (s.tracePut k) := by
  have hinj (u : State) : u.KeepsEntry (if s.injArmed 0x032 0 then u.injTake 0x032 0 else u) :=
    .ite (.wr_off u 0x032 (f := R.PG_INJ_INJ) _ rfl (by decide)) (.refl u)
  refine .ite (.refl s) (.trans (.ite ?_ (.refl s)) (.ite ((hinj _).trans (.traceLose _)) ?_))
  · exact ⟨fun _ _ => rfl, rfl, rfl⟩
  · exact ⟨fun _ _ => rfl, rfl, rfl⟩

/-! ### The capture of a trap (R155) -/

/-- The registers of cog `i` show the trap. -/
structure State.Captured (s : State) (i : Nat) (t : Trap) : Prop where
  vec   : s.rd (cogPage i) R.COG_TRAP_VEC = t.vec % 2 ^ 5
  cause : s.rd (cogPage i) R.COG_TRAP_CAUSE = t.cause % 2 ^ 4
  pc    : s.rd (cogPage i) R.COG_TRAP_PC_PC = t.pc % 2 ^ 19
  info  : s.rd (cogPage i) R.COG_TRAP_INFO_INFO = t.info % 2 ^ 28
  valid : s.rd (cogPage i) R.COG_TRAP_VALID = 1

theorem State.Captured.of_words {s u : State} {i : Nat} {t : Trap} (h : s.Captured i t) (hw : s.SameEntryWords u) : u.Captured i t where
  vec   := (hw.rd rfl (by decide) _).trans h.vec
  cause := (hw.rd rfl (by decide) _).trans h.cause
  pc    := (hw.rd rfl (by decide) _).trans h.pc
  info  := (hw.rd rfl (by decide) _).trans h.info
  valid := (hw.rd rfl (by decide) _).trans h.valid

/-- The fields that every trap writes. -/
def State.writeTrap (s : State) (p : Nat) (t : Trap) : State :=
  let s := (((s.wr p R.COG_TRAP_VEC t.vec).wr p R.COG_TRAP_CAUSE t.cause).wr p R.COG_TRAP_IDX t.idx).wr p R.COG_TRAP_LEN t.bytes.length
  (s.wr p R.COG_TRAP_PC_PC t.pc).wr p R.COG_TRAP_INFO_INFO t.info

theorem State.writeTrap_captured (s : State) (i : Nat) (t : Trap) :
    ((s.capture (cogPage i) R.COG_TRAP_VALID R.COG_TRAP_OVR).writeTrap (cogPage i) t).Captured i t := by
  have hne {f g : Fld} (h : f.off ≠ g.off) (hf : f.stride = 0) (hg : g.stride = 0) := cogPage_addr_ne i h hf hg
  have hvalid : (s.capture (cogPage i) R.COG_TRAP_VALID R.COG_TRAP_OVR).rd (cogPage i) R.COG_TRAP_VALID = 1 := State.rd_wr_self _ _ _ _ _ (by decide)
  generalize s.capture (cogPage i) R.COG_TRAP_VALID R.COG_TRAP_OVR = u at hvalid
  unfold State.writeTrap
  constructor
  · rw [State.rd_wr_ne _ _ _ _ _ (hne (by decide) rfl rfl), State.rd_wr_ne _ _ _ _ _ (hne (by decide) rfl rfl), State.rd_wr_bits _ _ _ _ _ (by decide) (by decide),
      State.rd_wr_bits _ _ _ _ _ (by decide) (by decide), State.rd_wr_bits _ _ _ _ _ (by decide) (by decide), State.rd_wr_self _ _ _ _ _ (by decide)]
    rfl
  · rw [State.rd_wr_ne _ _ _ _ _ (hne (by decide) rfl rfl), State.rd_wr_ne _ _ _ _ _ (hne (by decide) rfl rfl), State.rd_wr_bits _ _ _ _ _ (by decide) (by decide),
      State.rd_wr_bits _ _ _ _ _ (by decide) (by decide), State.rd_wr_self _ _ _ _ _ (by decide)]
    rfl
  · rw [State.rd_wr_ne _ _ _ _ _ (hne (by decide) rfl rfl), State.rd_wr_self _ _ _ _ _ (by decide)]
    rfl
  · rw [State.rd_wr_self _ _ _ _ _ (by decide)]
    rfl
  · rw [State.rd_wr_ne _ _ _ _ _ (hne (by decide) rfl rfl), State.rd_wr_ne _ _ _ _ _ (hne (by decide) rfl rfl), State.rd_wr_bits _ _ _ _ _ (by decide) (by decide),
      State.rd_wr_bits _ _ _ _ _ (by decide) (by decide), State.rd_wr_bits _ _ _ _ _ (by decide) (by decide), State.rd_wr_bits _ _ _ _ _ (by decide) (by decide)]
    exact hvalid

/-- The capture of a trap: the fields, for vector 1 the bytes, and the report. -/
theorem State.captureTrap_captured (s : State) (i : Nat) (t : Trap) : (s.captureTrap i t).Captured i t ∧ (s.captureTrap i t).cogs = s.cogs := by
  have hbytes (u : State) : u.KeepsEntry (upTo 5 (fun u j => u.wr (cogPage i) R.COG_TRAP_B_BYTES (leNat ((t.bytes.drop (4 * j)).take 4)) j) u) := by
    refine .upTo fun u j hj => .wr u _ _ _ _ ?_
    simp only [entryWord, Fld.addr, R.COG_TRAP_B_BYTES]
    omega
  have hrest := (State.KeepsEntry.ite (c := t.vec = 1) (hbytes _) (.refl ((s.capture (cogPage i) R.COG_TRAP_VALID R.COG_TRAP_OVR).writeTrap (cogPage i) t))).trans
    (.pgEvt _ (cogPage i) 0)
  refine ⟨(s.writeTrap_captured i t).of_words hrest.words, hrest.cogs.trans ?_⟩
  simp [State.writeTrap]

end Sys2Proof.Machine
end

section
/-! PROOFS. Entries into a vector (R143, R146, R149). -/

namespace Sys2Proof.Machine

/-! ### The frame (R146) -/

/-- The stack pointer below a new frame, and the frame's three words. -/
def Cog.frameAt (c : Cog) : Nat := wrap ((c.get .sp : Int) - 3) 14
def Cog.frame (c : Cog) (ret : Nat) : List SbEntry :=
  [⟨c.frameAt, [BitVec.ofNat 14 ret]⟩, ⟨(c.frameAt + 1) % 16384, [BitVec.ofNat 14 (ret / 2 ^ 14 + 2 ^ 13)]⟩, ⟨(c.frameAt + 2) % 16384, [c.flags]⟩]

/-- The cog with the frame pushed. -/
def Cog.framed (c : Cog) (ret : Nat) : Cog := { c.set .sp c.frameAt with sbuf := c.sbuf ++ c.frame ret }

theorem State.pushStore_local {s : State} {i a : Nat} (h : a < 16384) (ws : List Word) :
    s.pushStore i a ws = s.setCog i { s.cog i with sbuf := (s.cog i).sbuf ++ [⟨a, ws⟩] } :=
  if_neg (by rw [spaceOf_loc h]; decide)

theorem State.pushFrame_eq (s : State) (i ret : Nat) : s.pushFrame i ret = s.setCog i ((s.cog i).framed ret) := by
  have hq : (s.cog i).frameAt < 16384 := wrap_lt _ 14
  have hmod (k : Nat) : ((s.cog i).frameAt + k) % 16384 < 16384 := Nat.mod_lt _ (by decide)
  have hzero : ((s.cog i).frameAt + 0) % 16384 = (s.cog i).frameAt := Nat.mod_eq_of_lt hq
  unfold State.pushFrame
  change State.pushStore (State.pushStore (State.pushStore (s.setCog i ((s.cog i).set .sp (s.cog i).frameAt)) i (((s.cog i).frameAt + 0) % 16384) _) i
    (((s.cog i).frameAt + 1) % 16384) _) i (((s.cog i).frameAt + 2) % 16384) _ = _
  rw [State.pushStore_local (hmod 0), State.pushStore_local (hmod 1), State.pushStore_local (hmod 2), hzero]
  simp only [State.setCog_self, State.setCog_setCog, List.append_assoc]
  rfl

/-! ### Steps 3 to 5 of R149 -/

/-- The flags as an entry leaves them: SAT, VT and DT clear, and LVL as an event sets it. -/
def entryFlags (fl : Word) (level : Option Nat) : Word :=
  match level with
  | some l => setLevel (BitVec.ofNat 14 (setBits fl.toNat 6 3 0)) l
  | none => BitVec.ofNat 14 (setBits fl.toNat 6 3 0)

theorem levelOf_setLevel (fl : Word) {l : Nat} (h : l ≤ 16) : levelOf (setLevel fl l) = l := by
  have hbits : bits (setLevel fl l).toNat 9 5 = l % 2 ^ 5 := by
    rw [setLevel, BitVec.toNat_ofNat, Nat.mod_eq_of_lt (setBits_lt fl.isLt (by decide)), bits_setBits_self]
  rw [levelOf, hbits]
  omega

/-- The cog as it enters a vector, before its transfer to the slot. -/
def Cog.entered (c : Cog) (ret : Nat) (level : Option Nat) : Cog :=
  { c.framed ret with flags := entryFlags c.flags level, entering := level.map (· - 1), begun := none }

theorem State.enterVector_eq (s : State) (i v ret : Nat) (level : Option Nat) :
    s.enterVector i v ret level = (s.setCog i ((s.cog i).entered ret level)).transfer i (s.vectorAddr i v) := by
  unfold State.enterVector
  rw [State.pushFrame_eq]
  simp only [State.setCog_self, State.setCog_setCog, State.vectorAddr, State.rd_setCog]
  cases level <;> rfl

/-- Cog `i`, which otherwise is `c`, stands at the slot of vector `v`; the rest of the machine is as in `s`, but for registers that are no words of an
entry. -/
structure State.AtSlot (s : State) (i v : Nat) (c : Cog) (t : State) : Prop where
  cog   : (t.cog i).withoutFetch = c.withoutFetch
  pc    : (t.cog i).pc = t.vectorAddr i v
  words : s.SameEntryWords t
  mem   : t.mem = s.mem
  halts : s.NoHalts → c.haltReq = none → c.disabling = false → t.NoHalts

theorem State.transfer_atSlot (s : State) (i v : Nat) (c : Cog) : s.AtSlot i v c ((s.setCog i c).transfer i (s.vectorAddr i v)) := by
  have hcogs := (s.setCog i c).transfer_cogs i (s.vectorAddr i v)
  rw [State.setCog_self, State.setCog_setCog] at hcogs
  have hwords : s.SameEntryWords ((s.setCog i c).transfer i (s.vectorAddr i v)) :=
    (State.KeepsEntry.ite (s := (s.setCog i c).setCog i _) (.wr_off _ (cogPage i) (f := R.COG_FETCH_TC_MISS) _ rfl (by decide)) (.refl _)).words
  have hcog := (State.cog_of_cogs hcogs i).trans (State.setCog_self ..)
  have hslot : s.vectorAddr i v % 0x80000 = s.vectorAddr i v := Nat.mod_mod ..
  refine ⟨?_, ?_, hwords, ((s.setCog i c).transfer_keeps i _).2.2, fun hs hreq hdis q hq => ?_⟩
  · rw [hcog, Cog.transferTo_withoutFetch]
  · rw [hcog, Cog.transferTo_pc, hslot, hwords.vectorAddr]
  · have hbare := Cog.transferTo_withoutFetch c (s.vectorAddr i v % 0x80000)
    rw [hcogs] at hq
    exact hs.setCog (c := (c.transferTo _).1) i ((congrArg Cog.haltReq hbare :).trans hreq) ((congrArg Cog.disabling hbare :).trans hdis) q hq

/-- The stack pointer, the buffer, the flags and the entry of the cog at a slot. -/
theorem State.AtSlot.fields {s t : State} {i v : Nat} {c : Cog} (h : s.AtSlot i v c t) :
    (t.cog i).get .sp = c.get .sp ∧ (t.cog i).sbuf = c.sbuf ∧ (t.cog i).flags = c.flags ∧ (t.cog i).entering = c.entering ∧ (t.cog i).trap = c.trap ∧
      (t.cog i).lock = c.lock ∧ (t.cog i).mon9 = c.mon9 ∧ (t.cog i).warn8 = c.warn8 :=
  ⟨(congrArg (Cog.get · .sp) h.cog :), (congrArg Cog.sbuf h.cog :), (congrArg Cog.flags h.cog :), (congrArg Cog.entering h.cog :), (congrArg Cog.trap h.cog :),
    (congrArg Cog.lock h.cog :), (congrArg Cog.mon9 h.cog :), (congrArg Cog.warn8 h.cog :)⟩

theorem Cog.entered_sp (c : Cog) (ret : Nat) (level : Option Nat) : (c.entered ret level).get .sp = c.frameAt := by
  refine (Cog.get_set_self c .sp c.frameAt).trans (Nat.mod_eq_of_lt ?_)
  exact Nat.lt_of_lt_of_le (wrap_lt _ 14) (by decide)

theorem Cog.entered_sbuf {c : Cog} (h : c.sbuf = []) (ret : Nat) (level : Option Nat) : (c.entered ret level).sbuf = c.frame ret :=
  congrArg (· ++ c.frame ret) h

/-! ### Step 1 of R149 -/

/-- A cog with nothing in flight and no trap to raise at the boundary. -/
structure Cog.AtRest (c : Cog) : Prop where
  loads : c.loads = []
  sbuf  : c.sbuf = []
  long  : c.long = []
  trap3 : c.trap3 = none
  trap4 : c.trap4 = false
  trap5 : c.trap5 = false
  lock  : ∀ l, c.lock = some l → l.late = false

theorem State.drainAll_atRest {s : State} {i : Nat} (h : (s.cog i).AtRest) : s.drainAll i = s := by
  refine List.foldl_fixed' (fun k => ?_) _
  have hload : s.answerLoad i = s := by
    unfold State.answerLoad
    simp only [h.loads, List.findIdx?_nil]
  rw [hload]
  unfold State.drainStore
  rw [h.sbuf]

theorem Cog.AtRest.finishLoads {c : Cog} (h : c.AtRest) : c.finishLoads = c := by
  have hsame : ({ c with loads := [] } : Cog) = c := by rw [← h.loads]
  unfold Cog.finishLoads Cog.loadTrap Cog.takeLoads
  simp only [h.loads, List.findSome?_nil, List.foldl_nil]
  exact hsame

theorem Cog.AtRest.longDrain {c : Cog} (h : c.AtRest) : c.longDrain = c := by
  unfold Cog.longDrain
  rw [h.long]
  rfl

theorem Cog.AtRest.clear_eq {c : Cog} (h : c.AtRest) : ({ c with trap3 := none, trap4 := false, trap5 := false } : Cog) = c := by
  obtain ⟨-, -, -, h3, h4, h5, -⟩ := h
  cases c
  dsimp only at h3 h4 h5
  subst h3 h4 h5
  rfl

theorem Cog.AtRest.boundaryTrap {c : Cog} (h : c.AtRest) (a : Nat) : c.boundaryTrap a = c := by
  unfold Cog.boundaryTrap
  rw [h.trap3, h.trap4, h.trap5]
  simp only [Bool.false_eq_true, if_false]
  split
  · next l hlock =>
    rw [h.lock l hlock]
    exact h.clear_eq
  · exact h.clear_eq

theorem State.settleCog_atRest {s : State} {i : Nat} (h : (s.cog i).AtRest) : s.settleCog i = s.setCog i (s.cog i) := by
  unfold State.settleCog
  rw [State.drainAll_atRest h]
  dsimp only
  rw [if_pos (by rw [Cog.loadsDone, h.loads]; rfl), h.finishLoads, h.longDrain, h.boundaryTrap]

theorem Cog.AtRest.settled {c : Cog} (h : c.AtRest) : c.settled = true := by
  rw [Cog.settled, h.loads, h.long]
  rfl

theorem State.dropBegun_none {s : State} {i : Nat} (h : (s.cog i).begun = none) : s.dropBegun i = s := by
  unfold State.dropBegun
  dsimp only
  rw [h]

end Sys2Proof.Machine
end

section
/-! PROOFS. EXCEPTION_ENTRY, EVENT_ENTRY and the timeouts of a locked sequence (R145, R149 to R151, R155, R160). -/

namespace Sys2Proof.Machine

/-- The entry of a vector leaves the cog at its slot, on the frame and with the flags of the entry. -/
theorem State.enterVector_atSlot (s : State) (i v ret : Nat) (level : Option Nat) :
    s.AtSlot i v ((s.cog i).entered ret level) (s.enterVector i v ret level) := by
  rw [State.enterVector_eq]
  exact State.transfer_atSlot ..

theorem State.belowLo_setCog (s : State) (i : Nat) (c : Cog) (x : Int) : (s.setCog i c).belowLo i x = s.belowLo i x := by
  simp only [State.belowLo, State.on_setCog, State.rd_setCog]

theorem Cog.entered_halts (c : Cog) (ret : Nat) (level : Option Nat) :
    (c.entered ret level).haltReq = c.haltReq ∧ (c.entered ret level).disabling = c.disabling := ⟨rfl, rfl⟩

/-- A cog that runs and issues, in no WAIT, with nothing in flight, no entry begun and room for a frame. -/
structure State.MayEnter (s : State) (i : Nat) : Prop where
  runs    : s.cogRuns i = true
  issuing : (s.cog i).run = .issuing
  wait    : (s.cog i).wait = none
  begun   : (s.cog i).begun = none
  rest    : (s.cog i).AtRest
  fits    : s.belowLo i (((s.cog i).get .sp : Int) - 3) = false

/-! ### Traps -/

theorem mem_of_look {α : Type} {m : Sparse α} {a : Nat} {v : α} (h : look m a = some v) : (a, v) ∈ m := by
  induction m with
  | nil => cases h
  | cons x m ih =>
    rw [look_cons] at h
    split at h
    · next hk => cases h; exact hk ▸ List.mem_cons_self
    · exact List.mem_cons_of_mem _ (ih h)

theorem State.NoHalts.cog {s : State} (h : s.NoHalts) (i : Nat) : (s.cog i).haltReq = none ∧ (s.cog i).disabling = false := by
  unfold State.cog lookD
  cases hlook : look s.cogs i with
  | none => exact ⟨rfl, rfl⟩
  | some c => exact h _ (mem_of_look hlook)

/-- The capture of a trap that is entered, its trace, and the count of a lock timeout (R155, R160, R497). -/
def State.recordTrap (s : State) (i : Nat) (t : Trap) : State :=
  let s := s.captureTrap i t
  let s := if s.on 0x032 R.TRC_CTRL_TRAPS then s.tracePut { stamp := s.now, type := 3, src := s.traceSrc i, port := t.vec, value := t.pc } else s
  if t.vec = 10 then s.bump (cogPage i) R.COG_LOCK_CNT_TMO else s

theorem State.recordTrap_captured (s : State) (i : Nat) (t : Trap) :
    (s.recordTrap i t).Captured i t ∧ (s.recordTrap i t).cogs = s.cogs ∧ (s.recordTrap i t).mem = s.mem := by
  obtain ⟨hcaptured, hcogs⟩ := s.captureTrap_captured i t
  have hmem := (s.captureTrap_keeps i t).2.2
  have hcount (u : State) : u.KeepsEntry (if t.vec = 10 then u.bump (cogPage i) R.COG_LOCK_CNT_TMO else u) :=
    .ite (.wr_off u (cogPage i) _ rfl (by decide)) (.refl u)
  have hrest : (s.captureTrap i t).KeepsEntry (s.recordTrap i t) := .trans (.ite (.tracePut ..) (.refl _)) (hcount _)
  exact ⟨hcaptured.of_words hrest.words, hrest.cogs.trans hcogs, hrest.mem.trans hmem⟩

/-- The cog as a trap's entry withdraws the bundle in progress, and as it takes the trap: with it a locked sequence ends (R145, R149). -/
def Cog.withdrawn (c : Cog) : Cog := { c with cur := none, todo := [] }
def Cog.freed (c : Cog) : Cog := { c with trap := none, lock := none }

theorem Cog.withdrawn_freed_halts (c : Cog) : c.withdrawn.freed.haltReq = c.haltReq ∧ c.withdrawn.freed.disabling = c.disabling := ⟨rfl, rfl⟩

/-- A trap whose frame has room. -/
theorem State.tryEnter_trap {s : State} {i : Nat} (hfits : s.belowLo i (((s.cog i).get .sp : Int) - 3) = false) (v ret : Nat) (level : Option Nat) (t : Trap) :
    s.tryEnter i v ret level (some t) = ((s.recordTrap i t).setCog i ((s.recordTrap i t).cog i).freed).enterVector i t.vec ret none := by
  unfold State.tryEnter
  dsimp only
  rw [hfits, if_neg (by simp), Bool.false_and, if_neg Bool.false_ne_true]
  rfl

/-- An asynchronous entry whose frame has room. -/
theorem State.tryEnter_async {s : State} {i : Nat} (hfits : s.belowLo i (((s.cog i).get .sp : Int) - 3) = false) (v ret : Nat) (level : Option Nat) :
    s.tryEnter i v ret level none = s.enterVector i v ret level := by
  unfold State.tryEnter
  dsimp only
  rw [hfits, if_neg (by simp)]

theorem State.MayEnter.fits_setCog {s : State} {i : Nat} (h : s.MayEnter i) {c : Cog} (hsp : c.get .sp = (s.cog i).get .sp) :
    (s.setCog i c).belowLo i ((((s.setCog i c).cog i).get .sp : Int) - 3) = false := by
  rw [State.belowLo_setCog, State.setCog_self, hsp]
  exact h.fits

/-- The entry of a trap by a cog with no entry begun: the capture, the frame, and the vector's slot. -/
theorem State.MayEnter.enterTrap {s : State} {i : Nat} (h : s.MayEnter i) (t : Trap) (hhalts : s.NoHalts) :
    (s.enterTrap i t).Captured i t ∧ (s.enterTrap i t).mem = s.mem ∧
      ∃ u, State.AtSlot u i t.vec ((s.cog i).withdrawn.freed.entered t.ret none) (s.enterTrap i t) := by
  obtain ⟨hreq, hdis⟩ := hhalts.cog i
  have hstart : s.enterTrap i t = ((s.setCog i (s.cog i).withdrawn).tryEnter i t.vec t.ret none (some t)).settle := by
    rw [State.enterTrap, State.dropBegun_none h.begun]
    rfl
  obtain ⟨hcaptured, hcogs, hmem⟩ := (s.setCog i (s.cog i).withdrawn).recordTrap_captured i t
  have hcog := (State.cog_of_cogs hcogs i).trans (State.setCog_self ..)
  have hrecorded : ((s.setCog i (s.cog i).withdrawn).recordTrap i t).NoHalts := by
    intro q hq
    rw [hcogs] at hq
    exact hhalts.setCog (c := (s.cog i).withdrawn) i hreq hdis q hq
  rw [hstart, State.tryEnter_trap (h.fits_setCog (c := (s.cog i).withdrawn) rfl), hcog]
  generalize (s.setCog i (s.cog i).withdrawn).recordTrap i t = r at hcaptured hmem hrecorded
  have hslot := (r.setCog i (s.cog i).withdrawn.freed).enterVector_atSlot i t.vec t.ret none
  rw [State.setCog_self] at hslot
  obtain ⟨efreed, edisabling⟩ := (s.cog i).withdrawn_freed_halts
  obtain ⟨eentered, eentered'⟩ := (s.cog i).withdrawn.freed.entered_halts t.ret none
  have hfreed := hrecorded.setCog i (efreed.trans hreq) (edisabling.trans hdis)
  rw [(hslot.halts hfreed (eentered.trans (efreed.trans hreq)) (eentered'.trans (edisabling.trans hdis))).settle]
  exact ⟨hcaptured.of_words (.trans (t := r.setCog i _) (fun _ _ => rfl) hslot.words), hslot.mem.trans hmem, _, hslot⟩

/-- EXCEPTION_ENTRY with a trap waiting. -/
theorem State.MayEnter.exceptionEntry_trap {s : State} {i : Nat} (h : s.MayEnter i) {t : Trap} (htrap : (s.cog i).trap = some t) :
    s.exceptionEntry i = (s.setCog i (s.cog i)).enterTrap i t := by
  unfold State.exceptionEntry
  dsimp only
  rw [if_neg (by simp [h.runs, h.issuing, h.wait, htrap]), State.settleCog_atRest h.rest]
  simp only [State.setCog_self, h.rest.settled, htrap, Bool.not_true, Bool.false_eq_true, if_false]

theorem State.MayEnter.setCog_cog {s : State} {i : Nat} (h : s.MayEnter i) : (s.setCog i (s.cog i)).MayEnter i := by
  have hruns : (s.setCog i (s.cog i)).cogRuns i = s.cogRuns i := by simp only [State.cogRuns, State.domOn_setCog, State.setCog_frame]
  refine ⟨hruns.trans h.runs, ?_, ?_, ?_, ?_, h.fits_setCog rfl⟩ <;> rw [State.setCog_self]
  · exact h.issuing
  · exact h.wait
  · exact h.begun
  · exact h.rest

/-! ### Asynchronous entries -/

/-- The cog with the asynchronous cause that EXCEPTION_ENTRY takes no longer pending: the monitor's before the watchdog's (R145). -/
def Cog.taken (c : Cog) : Cog := if c.mon9 then { c with mon9 := false } else { c with warn8 := false }

theorem Cog.taken_fields (c : Cog) : c.taken.get .sp = c.get .sp ∧ c.taken.flags = c.flags ∧ c.taken.sbuf = c.sbuf ∧ c.taken.mon9 = false ∧
    c.taken.warn8 = (c.mon9 && c.warn8) := by
  unfold Cog.taken
  by_cases hmon : c.mon9 = true
  · rw [if_pos hmon, hmon]
    exact ⟨rfl, rfl, rfl, rfl, rfl⟩
  · rw [if_neg hmon, Bool.eq_false_iff.2 hmon]
    exact ⟨rfl, rfl, rfl, rfl, rfl⟩

/-- EXCEPTION_ENTRY with no trap and a monitor request or a warning pending. -/
theorem State.MayEnter.exceptionEntry_async {s : State} {i : Nat} (h : s.MayEnter i) (htrap : (s.cog i).trap = none) (hready : (s.cog i).asyncReady = true)
    (hcause : ((s.cog i).mon9 || (s.cog i).warn8) = true) :
    s.exceptionEntry i = (s.setCog i (s.cog i).taken).enterVector i (if (s.cog i).mon9 then 9 else 8) (s.cog i).pc none := by
  have hasync := State.tryEnter_async (h.fits_setCog (s.cog i).taken_fields.1) (if (s.cog i).mon9 then 9 else 8) (s.cog i).pc none
  unfold State.exceptionEntry
  dsimp only
  rw [if_neg (by simp [h.runs, h.issuing, h.wait, hready, hcause]), State.settleCog_atRest h.rest]
  simp only [State.setCog_self, h.rest.settled, htrap, Bool.not_true, Bool.false_eq_true, if_false]
  rw [State.dropBegun_none (by rw [State.setCog_self]; exact h.begun)]
  simp only [State.setCog_self, State.setCog_setCog, State.belowLo_setCog, h.fits, Bool.not_false, if_true]
  exact hasync

/-- The cog as the entry of an event of class `k` begins (R149 step 1). -/
def Cog.begins (c : Cog) (k : Nat) : Cog := { c with begun := some ⟨k, none⟩ }

theorem Cog.AtRest.begins {c : Cog} (h : c.AtRest) (k : Nat) : (c.begins k).AtRest := ⟨h.loads, h.sbuf, h.long, h.trap3, h.trap4, h.trap5, h.lock⟩

/-- The entry of an event by a cog with nothing in flight. -/
theorem State.MayEnter.enterEvent {s : State} {i : Nat} (h : s.MayEnter i) (htrap : (s.cog i).trap = none) (k : Nat) :
    s.enterEvent i k = (s.setCog i ((s.cog i).begins k)).enterVector i (16 + k) (s.cog i).pc (some (k + 1)) := by
  have hasync := State.tryEnter_async (h.fits_setCog (c := (s.cog i).begins k) rfl) (16 + k) (s.cog i).pc (some (k + 1))
  obtain ⟨-, -, -, hbegun, hrest, -⟩ := h
  generalize hc : s.cog i = c at hasync htrap hbegun hrest ⊢
  have hbegins : ({ c with begun := some ⟨k, none⟩ } : Cog) = c.begins k := rfl
  unfold State.enterEvent
  dsimp only
  rw [hc, hbegun, Option.bind_none, hbegins, State.settleCog_atRest (by rw [State.setCog_self]; exact hrest.begins k)]
  simp only [State.setCog_self, State.setCog_setCog, (hrest.begins k).settled, show (c.begins k).trap = none from htrap, Bool.not_true, Bool.false_eq_true,
    if_false]
  exact hasync

section
variable {s : State} {i k : Nat} (h : s.MayEnter i) (hclass : s.presentedClass i = some k) (hready : (s.cog i).asyncReady = true)
  (hmon : (s.cog i).mon9 = false) (hwarn : (s.cog i).warn8 = false) (hstep : ((s.cog i).stepOne && !(s.cog i).stepEvent) = false)
  (hlevel : levelOf (s.cog i).flags < k + 1)
include h hclass hready hmon hwarn hstep hlevel

/-- EVENT_ENTRY of a class above LVL, with no entry's slot being fetched. -/
theorem State.MayEnter.eventEntry_frame (hentering : (s.cog i).entering = none) : s.eventEntry i = s.enterEvent i k := by
  have hevent : s.eventClass i = some k := by
    unfold State.eventClass
    rw [hclass, h.begun]
  unfold State.eventEntry
  dsimp only
  rw [hevent]
  dsimp only
  rw [if_neg (by simp [h.runs, hready, hmon, hwarn, hlevel, hstep]), hentering]

/-- EVENT_ENTRY while the slot of an earlier event is being fetched: the frame stays (R150). -/
theorem State.MayEnter.eventEntry_again {j : Nat} (hentering : (s.cog i).entering = some j) :
    s.AtSlot i (16 + k) { s.cog i with flags := setLevel (s.cog i).flags (k + 1), entering := some k } (s.eventEntry i) := by
  have hevent : s.eventClass i = some k := by
    unfold State.eventClass
    rw [hclass, h.begun]
  unfold State.eventEntry
  dsimp only
  rw [hevent]
  dsimp only
  rw [if_neg (by simp [h.runs, hready, hmon, hwarn, hlevel, hstep]), hentering]
  exact State.transfer_atSlot ..

end

theorem Cog.trap_of_asyncReady {c : Cog} (h : c.asyncReady = true) : c.trap = none := by
  simp only [Cog.asyncReady, Bool.and_eq_true, Option.isNone_iff_eq_none] at h
  exact h.1.1.2

/-! ### The commands -/

/-- LOCK_LIMIT_TIMEOUT at a boundary after the last bundle that the sequence may have (R145, R160). -/
theorem execLockLimitTimeout_raises {i : CogId} {s : State} {l : LockSeq} (hlock : (s.cog i).lock = some l) (hlimit : l.limit ≤ l.done)
    (hboundary : (s.cog i).atBoundary = true) (htrap : (s.cog i).trap = none) (hissuing : (s.cog i).run = .issuing) :
    exec (.lockLimitTimeout i) s = .next ((s.setCog i { s.cog i with lock := none }).trapCog i
      { vec := 10, cause := 1, info := l.start, pc := l.last, ret := (s.cog i).pc }) := by
  change execLockLimitTimeout i s = _
  unfold execLockLimitTimeout
  dsimp only
  rw [hlock]
  exact congrArg Host.Outcome.next (if_pos ⟨hlimit, hboundary, by rw [htrap]; rfl, hissuing⟩)

/-- LOCK_STALL_TIMEOUT of a bundle that has stalled for more than 4 µs (R160). -/
theorem execLockStallTimeout_marks {i : CogId} {s : State} {l : LockSeq} {why since : Nat} (hseq : (s.cog i).sequence = some l)
    (hstall : (s.cog i).stall = some (why, since)) (hlate : since + 4000 < s.tb) (hreq : (s.cog i).haltReq = none) (htodo : (s.cog i).todo ≠ [])
    (hfresh : l.late = false) : exec (.lockStallTimeout i) s = .next (s.setCog i { s.cog i with lock := some { l with late := true } }) := by
  change execLockStallTimeout i s = _
  unfold execLockStallTimeout
  dsimp only
  rw [hseq, hstall]
  exact congrArg Host.Outcome.next (if_pos ⟨hlate, by rw [hreq]; rfl, by simpa using htodo, by rw [hfresh]; rfl⟩)

/-- Settles O23: every entry is one transfer of the cog, changed by its frame and its flags, to its vector's slot. -/
theorem entriesAndLockTimeouts : Obligations.EntriesAndLockTimeouts := by
  intro i s c sp q frame
  refine ⟨fun hruns hissuing hwait hbegun hloads hsbuf hlong h3 h4 h5 hlock hfits => ?_, fun l hlock hlimit hboundary htrap hissuing => ?_,
    fun l why since hseq hstall hlate hreq htodo hfresh => execLockStallTimeout_marks hseq hstall hlate hreq htodo hfresh⟩
  · have h : s.MayEnter i := ⟨hruns, hissuing, hwait, hbegun, ⟨hloads, hsbuf, hlong, h3, h4, h5, hlock⟩, hfits⟩
    refine ⟨fun tr htrap hvec hcause hhalts => ?_, fun htrap hready hasync => ?_, fun k hclass hk hready hmon hwarn hstep hlevel => ⟨fun hentering => ?_,
      fun j hentering => ?_⟩⟩
    · have hlisted : s.NoHalts := fun q hq => hhalts q.1 q.2 hq
      have hset := hlisted.setCog i (hlisted.cog i).1 (hlisted.cog i).2
      obtain ⟨hcaptured, hmem, u, hslot⟩ := h.setCog_cog.enterTrap tr hset
      rw [State.setCog_self] at hslot
      rw [← h.exceptionEntry_trap htrap] at hcaptured hmem hslot
      obtain ⟨esp, esbuf, -, -, etrap, elock, -, -⟩ := hslot.fields
      exact ⟨_, rfl, hcaptured.vec.trans (Nat.mod_eq_of_lt (by omega)), hcaptured.cause.trans (Nat.mod_eq_of_lt hcause), hcaptured.pc, hcaptured.info,
        decide_eq_true hcaptured.valid, esp.trans (Cog.entered_sp ..), etrap, elock, esbuf.trans (Cog.entered_sbuf hsbuf _ none), hslot.pc, State.byte_of_mem hmem⟩
    · have hslot := (s.setCog i c.taken).enterVector_atSlot i (if c.mon9 then 9 else 8) c.pc none
      rw [State.setCog_self, ← h.exceptionEntry_async htrap hready hasync] at hslot
      obtain ⟨esp, esbuf, -, -, -, -, emon, ewarn⟩ := hslot.fields
      obtain ⟨tsp, tflags, tsbuf, tmon, twarn⟩ := c.taken_fields
      have hq : c.taken.frameAt = q := by rw [Cog.frameAt, tsp]
      have hframe : c.taken.frame c.pc = frame c.pc := by rw [Cog.frame, hq, tflags]
      exact ⟨_, rfl, (esp.trans (Cog.entered_sp ..)).trans hq, (esbuf.trans (Cog.entered_sbuf (tsbuf.trans hsbuf) ..)).trans hframe, hslot.pc, emon.trans tmon,
        ewarn.trans twarn, State.byte_of_mem hslot.mem⟩
    · have hslot := (s.setCog i (c.begins k)).enterVector_atSlot i (16 + k) c.pc (some (k + 1))
      rw [State.setCog_self, ← h.enterEvent (Cog.trap_of_asyncReady hready) k, ← h.eventEntry_frame hclass hready hmon hwarn hstep hlevel hentering] at hslot
      obtain ⟨esp, esbuf, eflags, eentering, -, -, -, -⟩ := hslot.fields
      exact ⟨_, rfl, esp.trans (Cog.entered_sp ..), (congrArg levelOf eflags).trans (levelOf_setLevel _ (by omega)), eentering,
        esbuf.trans (Cog.entered_sbuf hsbuf ..), hslot.pc, State.byte_of_mem hslot.mem⟩
    · have hslot := h.eventEntry_again hclass hready hmon hwarn hstep hlevel hentering
      obtain ⟨esp, esbuf, eflags, eentering, -, -, -, -⟩ := hslot.fields
      exact ⟨_, rfl, esp, esbuf.trans hsbuf, (congrArg levelOf eflags).trans (levelOf_setLevel _ (by omega)), eentering, hslot.pc⟩
  · rw [execLockLimitTimeout_raises hlock hlimit hboundary htrap hissuing, State.trapCog]
    simp only [State.setCog_self, State.setCog_setCog]
    rfl

end Sys2Proof.Machine
end

section
/-! PROOFS. What a wake and the start of an entry leave of the machine beside the domains and their requests (R438, R444, R448). -/

namespace Sys2Proof.Machine

section
variable {γ : Type} {g : State → γ} (hreq : ∀ (t : State) (d v : Nat), g (t.setPowerReq d v) = g t) (hdom : ∀ (t : State) (d : Nat) (x : Dom), g (t.setDom d x) = g t)

include hreq hdom in
/-- A wake changes domains and their requests only. -/
theorem State.wakeOne_part (s : State) (d : Nat) : g (s.wakeOne d) = g s := by
  unfold State.wakeOne
  dsimp only
  split
  · exact hreq ..
  · exact hdom ..
  · exact ite_keeps g ((hdom ..).trans (hreq ..)) ((hdom ..).trans (hreq ..))

include hreq hdom in
theorem State.startWake_part (s : State) (d : Nat) : g (s.startWake d) = g s :=
  ite_keeps g rfl (foldl_keeps g _ (fun _ _ => ite_keeps g rfl (State.wakeOne_part hreq hdom ..)) _ s)

include hdom in
theorem State.beginEntry_part (s : State) (d : Nat) (t : DomSt) : g (s.beginEntry d t) = g s := ite_keeps g rfl (ite_keeps g (hdom ..) (hdom ..))

end

/-- The fields that a request of a domain leaves: beyond the page of PWR_DOM, and in PG_CTRL those below PWR_REQ. -/
theorem State.rd_setPowerReq (s : State) (d v : Nat) {q j : Nat} {f : Fld} (hpage : 0x11000 ≤ f.addr q j) (hword : f.addr q j % 4096 ≠ 8 ∨ f.lo + f.w ≤ 4) :
    (s.setPowerReq d v).rd q f j = s.rd q f j := by
  unfold State.setPowerReq
  split
  · refine State.rd_wr_ne _ _ _ _ _ ?_
    simp only [Fld.addr, R.PWR_DOM_REQ] at hpage ⊢
    omega
  · rcases hword with hword | hlow
    · refine State.rd_wr_ne _ _ _ _ _ ?_
      simp only [Fld.addr, R.PG_CTRL_PWR_REQ] at hword ⊢
      omega
    · exact State.rd_wr_bits _ _ _ _ _ (by decide) (.inr hlow)

theorem State.rd_setDom (s : State) (d : Nat) (x : Dom) (q : Nat) (f : Fld) (j : Nat) : (s.setDom d x).rd q f j = s.rd q f j := rfl

theorem State.setPowerReq_frame (s : State) (d v : Nat) : (s.setPowerReq d v).cogs = s.cogs ∧ (s.setPowerReq d v).repairs = s.repairs := by
  unfold State.setPowerReq
  split <;> exact ⟨rfl, rfl⟩

theorem State.startWake_cogs (s : State) (d : Nat) : (s.startWake d).cogs = s.cogs :=
  State.startWake_part (fun _ _ _ => (State.setPowerReq_frame ..).1) (fun _ _ _ => rfl) s d

/-! ### The idle interval of a cassette -/

theorem State.breakIdle_forms (s : State) (c : Nat) : ∃ ds, s.breakIdle c = { s with doms := ds } := by
  unfold State.breakIdle
  split <;> exact ⟨_, rfl⟩

/-- The interval of the cassette alone starts anew. -/
theorem State.dom_breakIdle (s : State) (c d : Nat) : (s.breakIdle c).dom d = if d = 8 + c then { s.dom d with idleSince := none } else s.dom d := by
  unfold State.breakIdle
  split
  · by_cases h : d = 8 + c
    · rw [if_pos h, h, State.setDom_self]
    · rw [if_neg h, State.setDom_ne _ _ _ (Ne.symm h)]
  · next hnone =>
    split
    · next h =>
      rw [h, ← hnone]
    · rfl

theorem State.domOn_breakIdle (s : State) (c d : Nat) : (s.breakIdle c).domOn d = s.domOn d := by
  have hon (k : Nat) : ((s.breakIdle c).dom k).isOn = (s.dom k).isOn := by
    rw [State.dom_breakIdle]
    split <;> rfl
  simp only [State.domOn, hon]

theorem State.waitCauses_breakIdle (s : State) (c i : Nat) (w : Waiting) : (s.breakIdle c).waitCauses i w = s.waitCauses i w := by
  have hon := s.domOn_breakIdle c 2
  obtain ⟨ds, h⟩ := s.breakIdle_forms c
  rw [h] at hon ⊢
  have hclass : ({ s with doms := ds } : State).presentedClass i = s.presentedClass i := by
    unfold State.presentedClass
    rw [hon]
    rfl
  unfold State.waitCauses
  rw [hclass]
  rfl

end Sys2Proof.Machine
end

section
/-! PROOFS. The ends of a WAIT (R163 to R166), the disable of a cog page (R441, R532), and the start of a repair (R33). -/

namespace Sys2Proof.Machine

theorem State.hostAt_reached {s : State} {p : Nat} (hr : s.hostReaches = true) (hon : s.pageOn p = true) (f : State → State) : s.hostAt p f = f s :=
  (s.host_reached hr _).trans (if_pos hon)

/-! ### The ends of a WAIT -/

/-- The WAIT `w` of a cog ends with the cause `k` where its gate is on; else the cause is latched and the gate returns (R163 to R165). -/
def State.waitEnds (s : State) (i : Nat) (w : Waiting) (k : Nat) : State :=
  let b := s.breakIdle (casOf i)
  if s.domOn (64 + i) = true ∧ (s.dom (64 + i)).emu = none then
    let u := b.setCog i { (s.cog i).set .pwr (k ||| w.cause ||| s.waitCauses i w ||| (if w.slept then 0x40 else 0)) with wait := none }
    if s.on (cogPage i) R.COG_WDT_WAITRUN = true then u else u.wdtRestart i
  else (b.setCog i { s.cog i with wait := some { w with cause := w.cause ||| k } }).startWake (64 + i)

theorem State.wakeCog_waiting {s : State} {i k : Nat} {w : Waiting} (hwait : (s.cog i).wait = some w) (hmode : w.mode ≠ 2) (hk : k ≠ 0) :
    s.wakeCog i k = s.waitEnds i w k := by
  have hcog : (s.breakIdle (casOf i)).cog i = s.cog i := by
    obtain ⟨ds, h⟩ := s.breakIdle_forms (casOf i)
    rw [h]
    rfl
  have hwdt : (s.breakIdle (casOf i)).on (cogPage i) R.COG_WDT_WAITRUN = s.on (cogPage i) R.COG_WDT_WAITRUN := by
    obtain ⟨ds, h⟩ := s.breakIdle_forms (casOf i)
    rw [h]
    rfl
  have hgate : (s.breakIdle (casOf i)).dom (64 + i) = s.dom (64 + i) := by
    rw [State.dom_breakIdle, if_neg]
    unfold casOf
    omega
  have hends : (s.breakIdle (casOf i)).endWait i k = (s.breakIdle (casOf i)).setCog i
      { (s.cog i).set .pwr (k ||| w.cause ||| s.waitCauses i w ||| (if w.slept then 0x40 else 0)) with wait := none } := by
    unfold State.endWait
    dsimp only
    rw [hcog, hwait]
    dsimp only
    rw [State.waitCauses_breakIdle]
  unfold State.wakeCog
  rw [hwait]
  dsimp only
  rw [if_neg (by simp [hk, hmode]), hends, State.on_setCog, hwdt, hcog, hgate, State.domOn_breakIdle]
  unfold State.waitEnds
  simp only [Bool.and_eq_true, Option.isNone_iff_eq_none]

/-! ### Disabling a cog's page -/

theorem pageKind_cogPage (i : CogId) : pageKind (cogPage i) = .cog := by
  revert i
  decide +kernel

/-- The cog with its disable noted; one in WAIT goes on with no cause (R532). -/
def Cog.disabled (c : Cog) : Cog := if c.wait.isNone then { c with disabling := true } else { c.set .pwr 0 with wait := none, disabling := true }

/-- The page's registers as a write of EN = 0 leaves them while the page drains (R441). -/
def State.draining (s : State) (p : Nat) : State := ((s.wr p R.PG_CTRL_EN 0).wr p R.PG_STAT_EN_PENDING 0).wr p R.PG_STAT_BUSY 1

theorem State.draining_shows (s : State) (p : Nat) :
    (s.draining p).rd p R.PG_CTRL_EN = 0 ∧ (s.draining p).rd p R.PG_STAT_BUSY = 1 ∧ (s.draining p).rd p R.PG_STAT_EN_PENDING = 0 := by
  have hne {f : Fld} (h : f.off = 12) (hs : f.stride = 0) : f.addr p 0 ≠ R.PG_CTRL_EN.addr p 0 := by
    simp only [Fld.addr, h, hs, R.PG_CTRL_EN]
    omega
  unfold State.draining
  refine ⟨?_, State.rd_wr_self _ _ _ _ _ (by decide), ?_⟩
  · rw [State.rd_wr_ne _ _ _ _ _ (hne rfl rfl), State.rd_wr_ne _ _ _ _ _ (hne rfl rfl)]
    exact State.rd_wr_self _ _ _ _ _ (by decide)
  · rw [State.rd_wr_bits _ _ _ _ _ (by decide) (by decide)]
    exact State.rd_wr_self _ _ _ _ _ (by decide)

/-- The state in which a disabled cog drains, before it stops. -/
def State.disabling (s : State) (i : Nat) : State :=
  ((s.draining (cogPage i)).setCog i { s.cog i with disabling := true }).disableWait i

/-- What the disable of a cog leaves: the cog, and beside it domains and requests of a gate that wakes. -/
theorem State.disabling_part {γ : Type} {g : State → γ} (hreq : ∀ (t : State) (d v : Nat), g (t.setPowerReq d v) = g t)
    (hdom : ∀ (t : State) (d : Nat) (x : Dom), g (t.setDom d x) = g t) (s : State) (i : Nat) :
    g (s.disabling i) = g ((s.draining (cogPage i)).setCog i (s.cog i).disabled) := by
  unfold State.disabling State.disableWait Cog.disabled
  simp only [State.setCog_self, State.setCog_setCog]
  split
  · rfl
  · exact ite_keeps g (State.startWake_part hreq hdom ..) rfl

theorem State.pageDisable_enabled {s : State} {i : CogId} (hon : s.pageOn (cogPage i) = true) (hen : s.on (cogPage i) R.PG_CTRL_EN = true) :
    s.pageDisable (cogPage i) =
      (if (s.cog i).run = .halted ∧ ¬ (s.cog i).lockup then (s.disabling i).takeDisable i else s.disabling i).settle := by
  have hi : cogPage i - 0x300 = i := Nat.add_sub_cancel_left ..
  unfold State.pageDisable
  rw [if_neg (by simp [hon]), hen, pageKind_cogPage, hi]
  rfl

theorem State.pageDisable_idle {s : State} {p : Nat} (hon : s.pageOn p = true) (hen : s.on p R.PG_CTRL_EN = false) :
    s.pageDisable p = (s.wr p R.PG_CTRL_EN 0).wr p R.PG_STAT_EN_PENDING 0 := by
  unfold State.pageDisable
  rw [if_neg (by simp [hon]), hen]
  rfl

/-- The cog that drains, its page's registers, and the rest of the machine. -/
theorem State.disabling_shows (s : State) (i : Nat) :
    (s.disabling i).on (cogPage i) R.PG_CTRL_EN = false ∧ (s.disabling i).on (cogPage i) R.PG_STAT_BUSY = true ∧
      (s.disabling i).on (cogPage i) R.PG_STAT_EN_PENDING = false ∧ (s.disabling i).cog i = (s.cog i).disabled ∧
      (∀ j, j ≠ i → (s.disabling i).cog j = s.cog j) ∧ (s.disabling i).mem = s.mem ∧ (s.disabling i).tb = s.tb := by
  obtain ⟨hen, hbusy, hpending⟩ := s.draining_shows (cogPage i)
  have hcog (j : Nat) := s.disabling_part (g := fun t => t.cog j) (fun _ _ _ => State.cog_of_cogs (State.setPowerReq_frame ..).1 j) (fun _ _ _ => rfl) i
  have hrd {f : Fld} (hpage : 0x11000 ≤ f.addr (cogPage i) 0) (hword : f.addr (cogPage i) 0 % 4096 ≠ 8 ∨ f.lo + f.w ≤ 4) :
      (s.disabling i).rd (cogPage i) f = (s.draining (cogPage i)).rd (cogPage i) f :=
    (s.disabling_part (g := fun t => t.rd (cogPage i) f) (fun _ _ _ => State.rd_setPowerReq _ _ _ hpage hword) (fun _ _ _ => rfl) i).trans (State.rd_setCog ..)
  have hpage (f : Fld) : 0x11000 ≤ f.addr (cogPage i) 0 := by
    simp only [Fld.addr, cogPage]
    omega
  have hstat {f : Fld} (h : f.off = 12) (hs : f.stride = 0) : f.addr (cogPage i) 0 % 4096 ≠ 8 := by
    rw [addr_mod hs, h]
    decide
  simp only [State.on]
  rw [hrd (hpage _) (.inr (by decide)), hrd (hpage _) (.inl (hstat rfl rfl)), hrd (hpage _) (.inl (hstat rfl rfl)), hen, hbusy, hpending]
  refine ⟨rfl, rfl, rfl, (hcog i).trans (State.setCog_self ..), fun j hj => (hcog j).trans (State.setCog_ne _ _ _ (Ne.symm hj)), ?_, ?_⟩
  · exact (State.disableWait_keeps ..).2.2
  · exact (State.disableWait_keeps ..).1

/-! ### Repairs -/

theorem State.repairRefuse_wr (s : State) (c k v : Nat) : (s.wr (casPage c) R.CAS_REPAIR_LOGICAL v).repairRefuse c k = s.repairRefuse c k := by
  have hne {f : Fld} (h : f.off = 0x44) (hs : f.stride = 0) : R.CAS_REPAIR_LOGICAL.addr (casPage c) 0 ≠ f.addr (casPage c) 0 := by
    simp only [Fld.addr, h, hs, R.CAS_REPAIR_LOGICAL]
    omega
  unfold State.repairRefuse State.physOf
  rw [State.rd_wr_ne _ _ _ _ _ (hne rfl rfl), State.on_wr_ne _ _ _ _ _ (hne rfl rfl)]
  rfl

theorem State.repairRefuse_lt (s : State) (c k : Nat) : s.repairRefuse c k < 4 := by
  unfold State.repairRefuse
  dsimp only
  split_ifs <;> decide

section
variable {s : State} {c data : Nat} (hgo : bit data 8 = true)
include hgo

theorem State.repairGo_busy (hbusy : s.on (casPage c) R.CAS_MAP_BUSY = true) : s.repairGo c data = s := if_pos (by rw [hgo, hbusy]; rfl)

variable (hidle : s.on (casPage c) R.CAS_MAP_BUSY = false)
include hidle

theorem State.repairGo_idle : s.repairGo c data =
    let u := s.wr (casPage c) R.CAS_REPAIR_LOGICAL (data % 16)
    if s.repairRefuse c (data % 16) ≠ 0 then (u.wr (casPage c) R.CAS_MAP_REJECT 1).wr (casPage c) R.CAS_MAP_REJECT_CAUSE (s.repairRefuse c (data % 16))
    else
      let i := u.physOf c (data % 16)
      let j := u.jrnBreak 8 u.now (c + 16 * (data % 16))
      let r := (({ j with repairs := put j.repairs c (data % 16, j.tb) } : State).wr (casPage c) R.CAS_MAP_BUSY 1).setPowerReq (64 + i) 0
      (if (r.dom (64 + i)).st = .off then r else r.beginEntry (64 + i) .off).wakeOne (64 + 17 * c + 16) := by
  unfold State.repairGo
  dsimp only
  rw [if_neg (by simp [hidle]), hgo, State.repairRefuse_wr]
  rfl

/-- A GO that R33 refuses shows its cause and moves nothing. -/
theorem State.repairGo_refused (hno : s.repairRefuse c (data % 16) ≠ 0) :
    (s.repairGo c data).on (casPage c) R.CAS_MAP_REJECT = true ∧ (s.repairGo c data).rd (casPage c) R.CAS_MAP_REJECT_CAUSE = s.repairRefuse c (data % 16) ∧
      (s.repairGo c data).rd (casPage c) R.CAS_MAP_SPARE_FOR = s.rd (casPage c) R.CAS_MAP_SPARE_FOR ∧
      (s.repairGo c data).rd (casPage c) R.CAS_REPAIR_LOGICAL = data % 16 ∧ (s.repairGo c data).cogs = s.cogs ∧ (s.repairGo c data).mem = s.mem := by
  have hne {f g : Fld} (h : f.off ≠ g.off) (hf : f.stride = 0) (hg : g.stride = 0) : f.addr (casPage c) 0 ≠ g.addr (casPage c) 0 := by
    simp only [Fld.addr, hf, hg]
    omega
  rw [State.repairGo_idle hgo hidle]
  dsimp only
  rw [if_pos hno]
  refine ⟨?_, ?_, ?_, ?_, rfl, rfl⟩
  · rw [State.on_wr_bits _ _ _ _ _ (by decide) (by decide), State.on_wr_self _ _ _ _ _ (by decide) rfl]
    rfl
  · exact (State.rd_wr_self _ _ _ _ _ (by decide)).trans (Nat.mod_eq_of_lt (s.repairRefuse_lt c _))
  · rw [State.rd_wr_bits _ _ _ _ _ (by decide) (by decide), State.rd_wr_bits _ _ _ _ _ (by decide) (by decide), State.rd_wr_ne _ _ _ _ _ (hne (by decide) rfl rfl)]
  · rw [State.rd_wr_ne _ _ _ _ _ (hne (by decide) rfl rfl), State.rd_wr_ne _ _ _ _ _ (hne (by decide) rfl rfl), State.rd_wr_self _ _ _ _ _ (by decide)]
    exact Nat.mod_mod ..

/-- A GO that is not refused begins the repair of its logical cog. -/
theorem State.repairGo_begins (hno : s.repairRefuse c (data % 16) = 0) :
    (s.repairGo c data).on (casPage c) R.CAS_MAP_BUSY = true ∧ look (s.repairGo c data).repairs c = some (data % 16, s.tb) := by
  rw [State.repairGo_idle hgo hidle]
  dsimp only
  rw [if_neg (not_not.2 hno)]
  generalize (s.wr (casPage c) R.CAS_REPAIR_LOGICAL (data % 16)).physOf c (data % 16) = i
  generalize hj : (s.wr (casPage c) R.CAS_REPAIR_LOGICAL (data % 16)).jrnBreak 8 (s.wr (casPage c) R.CAS_REPAIR_LOGICAL (data % 16)).now (c + 16 * (data % 16)) = j
  have htb : j.tb = s.tb := by
    rw [← hj, (State.jrnBreak_keeps ..).1]
    rfl
  generalize hr : ({ j with repairs := put j.repairs c (data % 16, j.tb) } : State) = r
  have hpart {γ : Type} {g : State → γ} (hreq : ∀ (t : State) (d v : Nat), g (t.setPowerReq d v) = g t) (hdom : ∀ (t : State) (d : Nat) (x : Dom), g (t.setDom d x) = g t) (u : State) :
      g ((if (u.dom (64 + i)).st = .off then u else u.beginEntry (64 + i) .off).wakeOne (64 + 17 * c + 16)) = g u :=
    (State.wakeOne_part hreq hdom ..).trans (ite_keeps g rfl (State.beginEntry_part hdom ..))
  have hmap {t : State} {d v : Nat} : (t.setPowerReq d v).on (casPage c) R.CAS_MAP_BUSY = t.on (casPage c) R.CAS_MAP_BUSY := by
    unfold State.on
    rw [State.rd_setPowerReq]
    · simp only [Fld.addr, casPage, R.CAS_MAP_BUSY]
      omega
    · rw [addr_mod rfl]
      exact .inl (by decide)
  constructor
  · rw [hpart (g := fun t => t.on (casPage c) R.CAS_MAP_BUSY) (fun _ _ _ => hmap) (fun _ _ _ => rfl), hmap, State.on_wr_self _ _ _ _ _ (by decide) rfl]
    rfl
  · rw [hpart (g := State.repairs) (fun _ _ _ => (State.setPowerReq_frame ..).2) (fun _ _ _ => rfl), (State.setPowerReq_frame ..).2, ← hr, ← htb]
    exact look_put_self ..

end

/-- REPAIR_GO writes GO beside the data. -/
theorem setGo_parts (d : Nat) : bit (setBits d 8 1 1) 8 = true ∧ setBits d 8 1 1 % 16 = d % 16 := by
  refine ⟨by rw [bit_setBits]; rfl, ?_⟩
  rw [setBits_parts]
  omega

/-! ### The commands -/

/-- Settles O24: one end of a WAIT for its three causes, the two forms of a disable, and the three of a GO. -/
theorem waitsEndAndCogsStop : Obligations.WaitsEndAndCogsStop := by
  refine ⟨?_, ?_, ?_, ?_⟩
  · intro i s w hwait hmode
    refine ⟨fun hcauses => ?_, fun hr => ?_, fun hr hon => ?_⟩
    · have hwake : s.waitWake i = s.wakeCog i (s.waitCauses i w) := by
        unfold State.waitWake
        rw [hwait]
      exact congrArg Host.Outcome.next (hwake.trans (State.wakeCog_waiting hwait hmode hcauses))
    · exact congrArg Host.Outcome.next ((s.host_reached hr _).trans (State.wakeCog_waiting hwait hmode (by decide)))
    · exact congrArg Host.Outcome.next ((State.hostAt_reached hr hon _).trans (State.wakeCog_waiting hwait hmode (by decide)))
  · intro i s hr hon hen
    have hrun : exec (.cogDisable i) s = .next (s.pageDisable (cogPage i)) := congrArg Host.Outcome.next (s.host_reached hr _)
    rw [State.pageDisable_enabled hon hen] at hrun
    refine ⟨s.disabling i, s.disabling_shows i, fun hhalted hlock => ?_, fun hgoes => ?_⟩
    · rw [hrun, if_pos ⟨hhalted, by simp [hlock]⟩]
    · rw [hrun, if_neg (fun hstop => hgoes.elim (· hstop.1) hstop.2)]
  · intro i s hr hon hen
    exact congrArg Host.Outcome.next ((s.host_reached hr _).trans (State.pageDisable_idle hon hen))
  · intro c data s hr hon k i no
    obtain ⟨hgo, hk⟩ := setGo_parts data.toNat
    have hrun : exec (.repairGo c data) s = .next (s.repairGo c (setBits data.toNat 8 1 1)) := congrArg Host.Outcome.next (State.hostAt_reached hr hon _)
    have hmem := (s.repairGo_keeps c (setBits data.toNat 8 1 1)).2.2
    refine ⟨fun hbusy => hrun.trans (congrArg _ (State.repairGo_busy hgo hbusy)), fun hidle hno => ?_, fun hidle hno => ?_⟩
    · have hrefused := State.repairGo_refused hgo hidle (by rw [hk]; exact hno)
      rw [hk] at hrefused
      exact ⟨_, hrun, hrefused⟩
    · obtain ⟨hbusy, hrepairs⟩ := State.repairGo_begins hgo hidle (by rw [hk]; exact hno)
      exact ⟨_, hrun, hbusy, hrepairs.trans (by rw [hk]), hmem⟩

end Sys2Proof.Machine
end

section
/-! PROOFS. Host accesses to unmapped addresses and to stores that are not on (R170). -/

namespace Sys2Proof.Machine

theorem State.windowOn_off {s : State} {w : Window} (h : ∀ d, w.dom = some d → (s.dom d).st ≠ .on) : s.windowOn w = false := by
  unfold State.windowOn
  cases hw : w.dom with
  | none => rfl
  | some d => simp [State.domOn, Dom.isOn, h d hw]

theorem State.logErr_out (s : State) (a k : Nat) : (s.logErr a k).out = s.out :=
  State.logErr_part (fun _ _ _ => rfl) (fun _ _ => rfl) (fun _ _ => rfl) s a k

/-- A read of which no byte lies in a store that is on: zeros, and one entry in the error log. -/
theorem State.bar2Get_off (s : State) {a n : Nat} (hn : 0 < n) (h : ∀ k, k < n → s.windowOn (windowOf (a + k)) = false) :
    s.bar2Get a n = (List.replicate n 0, false, s.logErr a 2) := by
  have hoff : ∀ x ∈ (List.range n).map (a + ·), s.windowOn (windowOf x) = false := by simpa using h
  obtain ⟨m, rfl⟩ := Nat.exists_eq_succ_of_ne_zero hn.ne'
  have hfirst : ((List.range (m + 1)).map (a + ·)).find? (fun x => !s.windowOn (windowOf x)) = some a := by
    rw [List.range_succ_eq_map]
    simpa using h 0 hn
  have hnone : ((List.range (m + 1)).map (a + ·)).filter (fun x => (s.logErr a 2).windowOn (windowOf x)) = [] :=
    List.filter_eq_nil_iff.2 fun x hx => by simp [State.windowOn_logErr, hoff x hx]
  unfold State.bar2Get
  dsimp only
  rw [hfirst]
  dsimp only
  rw [hnone]
  refine congrArg (·, false, s.logErr a 2) (List.eq_replicate_iff.2 ⟨by simp, fun b hb => ?_⟩)
  obtain ⟨x, hx, rfl⟩ := List.mem_map.1 hb
  simp [State.windowOn_logErr, hoff x hx]

/-- The first enabled byte of a write is the first of those that it writes. -/
theorem enabled_zipIdx_cons {k : Nat} : ∀ {bytes : List (Bool × Byte)} (n : Nat), bytes.findIdx? (·.1) = some k →
    ∃ b rest, ((bytes.zipIdx n).filter fun x => x.1.1) = (b, n + k) :: rest := by
  intro bytes
  induction bytes generalizing k with
  | nil => intro n h; simp at h
  | cons x bytes ih =>
    intro n h
    rw [List.findIdx?_cons] at h
    rw [List.zipIdx_cons]
    split at h
    · next hx =>
      cases h
      exact ⟨x, _, List.filter_cons_of_pos hx⟩
    · next hx =>
      obtain ⟨j, hj, rfl⟩ := Option.map_eq_some_iff.1 h
      obtain ⟨b, rest, hrest⟩ := ih (n + 1) hj
      exact ⟨b, rest, by rw [List.filter_cons_of_neg (by simpa using hx), hrest, Nat.add_assoc, Nat.add_comm 1]⟩

theorem State.mramStore_nil (s : State) : (s.mramStore []).mem = s.mem ∧ (s.mramStore []).elog = s.elog := by
  unfold State.mramStore
  split <;> exact ⟨rfl, rfl⟩

theorem State.bootGuards_done {s : State} (h : s.boot = .done) (a : Nat) : s.bootGuards a = false := by
  unfold State.bootGuards
  rw [h]
  rfl

/-- A write of which no byte lies in a store that is on, after boot: it is dropped, with one entry in the error log. -/
theorem State.bar2Put_off {s : State} (hboot : s.boot = .done) (x : Nat × Byte) (xs : List (Nat × Byte))
    (h : ∀ y ∈ x :: xs, s.windowOn (windowOf y.1) = false) : s.bar2Put (x :: xs) = (s.logErr x.1 2).mramStore [] := by
  have hunguarded : (x :: xs).find? (fun y => s.bootGuards y.1) = none := by simp [State.bootGuards_done hboot]
  have hkeep : (x :: xs).filter (fun y => !s.bootGuards y.1) = x :: xs := by simp [State.bootGuards_done hboot]
  have hdead : (x :: xs).filter (fun y => !s.windowOn (windowOf y.1)) = x :: xs := List.filter_eq_self.2 fun y hy => by simp [h y hy]
  have hlive : (x :: xs).filter (fun y => s.windowOn (windowOf y.1)) = [] := List.filter_eq_nil_iff.2 fun y hy => by simp [h y hy]
  unfold State.bar2Put
  dsimp only
  rw [hunguarded]
  dsimp only
  rw [hkeep, hdead, hlive]
  rfl

/-- Settles O7: neither access finds a byte whose store is on. -/
theorem deadBar2AccessesReadZeroAndAreLogged : Obligations.DeadBar2AccessesReadZeroAndAreLogged := by
  have hdead {s : State} {a : Nat} (h : (match (windowOf a).dom with | none => true | some d => decide ((s.dom d).st = .off ∨ (s.dom d).st = .ret)) = true) :
      s.windowOn (windowOf a) = false := by
    refine State.windowOn_off fun d hd => ?_
    rw [hd] at h
    rcases of_decide_eq_true h with h | h <;> simp [h]
  refine ⟨fun a n s hr hn hoff hroom => ?_, fun a bytes k s hr hoff hk hboot hroom => ?_⟩
  · have hget := s.bar2Get_off hn fun k hk => hdead (hoff k hk)
    refine ⟨_, congrArg Host.Outcome.next (s.host_reached hr _), ?_⟩
    rw [hget]
    exact ⟨rfl, s.logErr_elog a.toNat 2 hroom, (s.logErr_keeps a.toNat 2).2.2⟩
  · obtain ⟨b, rest, henabled⟩ := enabled_zipIdx_cons 0 hk
    have hoffs : ∀ y ∈ (bytes.zipIdx.filter fun x => x.1.1).map fun x => (a.toNat + x.2, x.1.2), s.windowOn (windowOf y.1) = false := by
      intro y hy
      obtain ⟨z, hz, rfl⟩ := List.mem_map.1 hy
      have hlt := (List.mem_zipIdx (List.mem_filter.1 hz).1).2.1
      exact hdead (hoff z.2 (by omega))
    have hput : exec (.bar2Write a bytes false) s =
        .next (s.bar2Put ((bytes.zipIdx.filter fun x => x.1.1).map fun x => (a.toNat + x.2, x.1.2))) :=
      congrArg Host.Outcome.next (s.host_reached hr _)
    rw [henabled, List.map_cons] at hoffs hput
    rw [State.bar2Put_off hboot _ _ hoffs, Nat.zero_add] at hput
    obtain ⟨hmem, helog⟩ := (s.logErr (a.toNat + k) 2).mramStore_nil
    exact ⟨_, hput, helog.trans (s.logErr_elog _ 2 hroom), hmem.trans (s.logErr_keeps ..).2.2⟩

end Sys2Proof.Machine
end

section
/-! PROOFS. Write-back and scrub (R173, R174, R187, R189, R192). -/

namespace Sys2Proof.Machine

/-! ### Register words -/

theorem State.reg_of_regs {s t : State} (h : t.regs = s.regs) (a : Nat) : t.reg a = s.reg a := congrArg (lookD · a _) h

/-- The report of an uncorrectable read of a cam bank writes no register but the page's PG_EVT_PEND (R192, R402): source 6 crosses no clock domain. -/
theorem State.reg_pgEvt_cam (s : State) {a : Nat} (h : R.PG_EVT_PEND_PEND.addr 0x07F 0 ≠ a) : (s.pgEvt 0x07F 0).reg a = s.reg a := by
  have hraise (t : State) : (t.raise 6).reg a = t.reg a := State.reg_of_regs (State.cross_part (g := State.regs) (fun _ _ => rfl) t 6) a
  unfold State.pgEvt
  split
  · exact (hraise _).trans (State.reg_wr_ne s _ _ _ _ h)
  · rfl

/-! ### The counters of a store -/

/-- The word or granule is bad in a way that a read corrects (R173). -/
def State.correctable (s : State) (a : Nat) : Bool := decide (look s.bad a = some .one ∨ look s.bad a = some .two)

/-- The word or granule is bad beyond correction. -/
def State.uncorrectable (s : State) (a : Nat) : Bool := decide (look s.bad a = some .uncorrectable)

/-- The counters of a store share no bit with one another, and no word with the injection bits of its page. -/
structure EccUnit.Paired (u : EccUnit) : Prop where
  ceFits : u.ce.lo + u.ce.w ≤ 32
  ueFits : u.ue.lo + u.ue.w ≤ 32
  apart  : u.ce.lo + u.ce.w ≤ u.ue.lo
  ceInj  : u.ce.addr u.page 0 ≠ R.PG_INJ_INJ.addr u.page 0
  ueInj  : u.ue.addr u.page 0 ≠ R.PG_INJ_INJ.addr u.page 0

/-- The fields that scrubbing a store goes by: its two counters and the injection bits of its page. -/
def EccUnit.fields (u : EccUnit) : List Fld := [u.ce, u.ue, R.PG_INJ_INJ]

/-- A state whose counters and injection bits of a store are those of another. -/
def EccUnit.Same (u : EccUnit) (s t : State) : Prop := ∀ f ∈ u.fields, t.rd u.page f = s.rd u.page f

theorem EccUnit.Same.refl (u : EccUnit) (s : State) : u.Same s s := fun _ _ => rfl

theorem EccUnit.Same.trans {u : EccUnit} {s t v : State} (h : u.Same s t) (h' : u.Same t v) : u.Same s v := fun f hf => (h' f hf).trans (h f hf)

theorem EccUnit.Same.of_regs (u : EccUnit) {s t : State} (h : t.regs = s.regs) : u.Same s t :=
  fun _ _ => congrArg (fun w : Reg => bits w.toNat _ _) (State.reg_of_regs h _)

theorem EccUnit.Same.ite {u : EccUnit} {s t v : State} {c : Prop} [Decidable c] (ht : u.Same s t) (hv : u.Same s v) : u.Same s (if c then t else v) := by
  split <;> assumption

theorem EccUnit.Same.wr (u : EccUnit) (s : State) {p : Nat} {f : Fld} (v : Nat) {i : Nat} (h : ∀ g ∈ u.fields, f.addr p i ≠ g.addr u.page 0) :
    u.Same s (s.wr p f v i) := fun g hg => State.rd_wr_ne s p f v i (h g hg)

theorem EccUnit.Same.capture (u : EccUnit) (s : State) {p : Nat} {valid ovr : Fld} (hv : ∀ g ∈ u.fields, valid.addr p 0 ≠ g.addr u.page 0)
    (ho : ∀ g ∈ u.fields, ovr.addr p 0 ≠ g.addr u.page 0) : u.Same s (s.capture p valid ovr) :=
  .trans (.ite (.wr u s 1 ho) (.refl u s)) (.wr u _ 1 hv)

/-- The words read are counted, each correctable one in CE and each uncorrectable one in UE, and no injection is armed or taken. -/
structure State.Counts (s : State) (u : EccUnit) (words : List Nat) (t : State) : Prop where
  ce  : t.rd u.page u.ce = min (s.rd u.page u.ce + (words.filter s.correctable).length) (2 ^ u.ce.w - 1)
  ue  : t.rd u.page u.ue = min (s.rd u.page u.ue + (words.filter s.uncorrectable).length) (2 ^ u.ue.w - 1)
  inj : t.rd u.page R.PG_INJ_INJ = s.rd u.page R.PG_INJ_INJ

theorem State.rd_saturated (s : State) (p : Nat) (f : Fld) : min (s.rd p f) (2 ^ f.w - 1) = s.rd p f :=
  Nat.min_eq_left (Nat.le_sub_one_of_lt (s.rd_lt p f 0))

theorem State.Counts.nil (s : State) (u : EccUnit) : s.Counts u [] s := ⟨(s.rd_saturated ..).symm, (s.rd_saturated ..).symm, rfl⟩

theorem State.Counts.of_same {s t v : State} {u : EccUnit} {words : List Nat} (h : s.Counts u words t) (hv : u.Same t v) : s.Counts u words v where
  ce  := (hv u.ce (by simp [EccUnit.fields])).trans h.ce
  ue  := (hv u.ue (by simp [EccUnit.fields])).trans h.ue
  inj := (hv R.PG_INJ_INJ (by simp [EccUnit.fields])).trans h.inj

theorem min_add_min (a b c m : Nat) (h : a = min b m) : min (a + c) m = min (b + c) m := by omega

/-- Words read one part after another, where the first part leaves the check bits of the second. -/
theorem State.Counts.append {s t v : State} {u : EccUnit} {xs ys : List Nat} (h : s.Counts u xs t) (h' : t.Counts u ys v)
    (hsame : ∀ a ∈ ys, look t.bad a = look s.bad a) : s.Counts u (xs ++ ys) v := by
  have hc : ys.filter t.correctable = ys.filter s.correctable := List.filter_congr fun a ha => by simp only [State.correctable, hsame a ha]
  have hu : ys.filter t.uncorrectable = ys.filter s.uncorrectable := List.filter_congr fun a ha => by simp only [State.uncorrectable, hsame a ha]
  refine ⟨?_, ?_, h'.inj.trans h.inj⟩
  · rw [h'.ce, hc, List.filter_append, List.length_append, ← Nat.add_assoc]
    exact min_add_min _ _ _ _ h.ce
  · rw [h'.ue, hu, List.filter_append, List.length_append, ← Nat.add_assoc]
    exact min_add_min _ _ _ _ h.ue

/-- A store whose injection bits are clear. -/
def EccUnit.Calm (u : EccUnit) (s : State) : Prop := s.injArmed u.page u.injC = false ∧ s.injArmed u.page u.injU = false

theorem State.Counts.calm {s t : State} {u : EccUnit} {words : List Nat} (h : s.Counts u words t) (hcalm : u.Calm s) : u.Calm t := by
  unfold EccUnit.Calm State.injArmed at *
  rwa [h.inj]

/-! ### Reads through the detectors -/

/-- What a read leaves of a part of the state that its counters do not show. -/
theorem State.eccRead_part {γ : Type} {g : State → γ} (hg : ∀ (t : State) (a : Nat) (v : Reg), g (t.setReg a v) = g t) (s : State) (u : EccUnit) (a : Nat) :
    g (s.eccRead u a).2.2 = g s := by
  unfold State.eccRead
  split
  · exact (hg ..).trans (hg ..)
  · split
    · exact (hg ..).trans (hg ..)
    · split
      · exact hg ..
      · exact hg ..
      · rfl

/-- A counter one higher, as far as its width lets it. -/
theorem State.rd_bump_self (s : State) (p : Nat) {f : Fld} (h : f.lo + f.w ≤ 32) : (s.bump p f).rd p f = min (s.rd p f + 1) (2 ^ f.w - 1) :=
  (State.rd_wr_self s p f _ 0 h).trans (Nat.mod_eq_of_lt (by have := Nat.two_pow_pos f.w; omega))

theorem State.Counts.bump_ce {s : State} {u : EccUnit} (hu : u.Paired) {a : Nat} (hc : s.correctable a = true) (hn : s.uncorrectable a = false) :
    s.Counts u [a] (s.bump u.page u.ce) := by
  refine ⟨?_, ?_, State.rd_wr_ne s _ _ _ _ hu.ceInj⟩
  · rw [List.filter_cons_of_pos hc]
    exact s.rd_bump_self u.page hu.ceFits
  · rw [List.filter_cons_of_neg (by simp [hn])]
    exact (State.rd_wr_bits s _ _ _ _ hu.ceFits (.inl hu.apart)).trans (s.rd_saturated ..).symm

theorem State.Counts.bump_ue {s : State} {u : EccUnit} (hu : u.Paired) {a : Nat} (hc : s.correctable a = false) (hn : s.uncorrectable a = true) :
    s.Counts u [a] (s.bump u.page u.ue) := by
  refine ⟨?_, ?_, State.rd_wr_ne s _ _ _ _ hu.ueInj⟩
  · rw [List.filter_cons_of_neg (by simp [hc])]
    exact (State.rd_wr_bits s _ _ _ _ hu.ueFits (.inr hu.apart)).trans (s.rd_saturated ..).symm
  · rw [List.filter_cons_of_pos hn]
    exact s.rd_bump_self u.page hu.ueFits

theorem State.Counts.good {s : State} (u : EccUnit) {a : Nat} (hc : s.correctable a = false) (hn : s.uncorrectable a = false) : s.Counts u [a] s := by
  obtain ⟨hce, hue, hinj⟩ := State.Counts.nil s u
  exact ⟨by rwa [List.filter_cons_of_neg (by simp [hc])], by rwa [List.filter_cons_of_neg (by simp [hn])], hinj⟩

/-- With no injection armed, a read counts and reports what the check bits say. -/
theorem State.eccRead_calm {s : State} {u : EccUnit} (hu : u.Paired) (hcalm : u.Calm s) (a : Nat) :
    s.Counts u [a] (s.eccRead u a).2.2 ∧ (s.eccRead u a).2.1 = false ∧ ((s.eccRead u a).1 = .corrected ↔ s.correctable a = true) := by
  unfold State.eccRead
  rw [if_neg (by simp [hcalm.2]), if_neg (by simp [hcalm.1])]
  cases hlook : look s.bad a with
  | none =>
    have hc : s.correctable a = false := by simp [State.correctable, hlook]
    exact ⟨.good u hc (by simp [State.uncorrectable, hlook]), rfl, by simp [hc]⟩
  | some b =>
    cases b with
    | uncorrectable =>
      have hc : s.correctable a = false := by simp [State.correctable, hlook]
      exact ⟨.bump_ue hu hc (by simp [State.uncorrectable, hlook]), rfl, by simp [hc]⟩
    | one | two =>
      have hc : s.correctable a = true := by simp [State.correctable, hlook]
      exact ⟨.bump_ce hu hc (by simp [State.uncorrectable, hlook]), rfl, by simp [hc]⟩

@[simp] theorem State.wr_vmramLow (s : State) (p : Nat) (f : Fld) (v i : Nat) : (s.wr p f v i).vmramLow = s.vmramLow := by
  simp [State.wr, State.setReg]

/-- A capture leaves the check bits, what waits to be written back or is counted of them, and VMRAM. -/
@[simp] theorem State.capture_frame (s : State) (p : Nat) (valid ovr : Fld) (i : Nat) :
    (s.capture p valid ovr i).bad = s.bad ∧ (s.capture p valid ovr i).writeBacks = s.writeBacks ∧ (s.capture p valid ovr i).camWrites = s.camWrites ∧
      (s.capture p valid ovr i).vmramLow = s.vmramLow := by
  unfold State.capture
  split <;> simp

/-! ### SRAM -/

/-- Words of an SRAM read by a scrub: they are counted, and those that are correctable wait to be written back (R173, R174). -/
structure State.SramScrubbed (s : State) (u : EccUnit) (words : List Nat) (t : State) : Prop where
  counts : s.Counts u words t
  waits  : t.writeBacks = s.writeBacks ++ words.filter s.correctable
  bad    : t.bad = s.bad

theorem State.SramScrubbed.append {s t v : State} {u : EccUnit} {xs ys : List Nat} (h : s.SramScrubbed u xs t) (h' : t.SramScrubbed u ys v) :
    s.SramScrubbed u (xs ++ ys) v where
  counts := h.counts.append h'.counts fun _ _ => by rw [h.bad]
  waits  := by
    have hc : t.correctable = s.correctable := by unfold State.correctable; rw [h.bad]
    rw [h'.waits, h.waits, hc, List.filter_append, List.append_assoc]
  bad    := h'.bad.trans h.bad

/-- Reads one after another of a store in which no injection is armed. -/
theorem State.SramScrubbed.foldl {u : EccUnit} {f : State → Nat → State} {addr : Nat → Nat} (hf : ∀ t k, u.Calm t → t.SramScrubbed u [addr k] (f t k)) :
    ∀ (l : List Nat) {s : State}, u.Calm s → s.SramScrubbed u (l.map addr) (l.foldl f s)
  | [], s, _ => ⟨.nil s u, (List.append_nil _).symm, rfl⟩
  | k :: l, s, hs =>
    have hk := hf s k hs
    hk.append (SramScrubbed.foldl hf l (hk.counts.calm hs))

/-- A read with the detectors, when what it leaves differs only in capture words and in the word that waits. -/
theorem State.SramScrubbed.of_read {s t : State} {u : EccUnit} {a : Nat} (hu : u.Paired) (hcalm : u.Calm s) (hsame : u.Same (s.eccRead u a).2.2 t)
    (hwaits : t.writeBacks = s.writeBacks ++ if (s.eccRead u a).1 = .corrected then [a] else []) (hbad : t.bad = s.bad) : s.SramScrubbed u [a] t := by
  obtain ⟨hcounts, -, hiff⟩ := State.eccRead_calm hu hcalm a
  refine ⟨hcounts.of_same hsame, ?_, hbad⟩
  rw [hwaits]
  by_cases h : s.correctable a = true
  · rw [if_pos (hiff.2 h), List.filter_cons_of_pos h, List.filter_nil]
  · rw [if_neg (mt hiff.1 h), List.filter_cons_of_neg h, List.filter_nil]

theorem localEcc_paired (i : Nat) : (localEcc i).Paired := by
  constructor <;> simp [localEcc, Fld.addr, R.COG_LM_ERR_CE, R.COG_LM_ERR_UE, R.PG_INJ_INJ]

theorem sharedEcc_paired (c : Nat) : (sharedEcc c).Paired := by
  constructor <;> simp [sharedEcc, Fld.addr, R.CAS_SD_ERR_CE, R.CAS_SD_ERR_UE, R.PG_INJ_INJ]

/-- A read of a word of a local store by the scrub (R174, R191). -/
theorem State.readLocal_scrubs {s : State} {i : Nat} (hcalm : (localEcc i).Calm s) (w : Nat) :
    s.SramScrubbed (localEcc i) [localBase i + 2 * (w % 16384)] (s.readLocal i w).2.2 := by
  have hcap (f : Fld) (hf : f.off = 0x88) (hs : f.stride = 0) : ∀ g ∈ (localEcc i).fields, f.addr (cogPage i) 0 ≠ g.addr (localEcc i).page 0 := by
    simp [EccUnit.fields, localEcc, Fld.addr, R.COG_LM_ERR_CE, R.COG_LM_ERR_UE, R.PG_INJ_INJ, hf, hs]
  have hcaptured (t : State) (a k : Nat) : (localEcc i).Same t
      (((t.capture (cogPage i) R.COG_LM_CAP_VALID R.COG_LM_CAP_OVR).wr (cogPage i) R.COG_LM_CAP_ADDR a).wr (cogPage i) R.COG_LM_CAP_SYN k) :=
    .trans (.trans (.capture _ t (hcap _ rfl rfl) (hcap _ rfl rfl)) (.wr _ _ a (hcap _ rfl rfl))) (.wr _ _ k (hcap _ rfl rfl))
  obtain ⟨-, hinj, -⟩ := State.eccRead_calm (localEcc_paired i) hcalm (localBase i + 2 * (w % 16384))
  have hwb := State.eccRead_part (g := State.writeBacks) (fun _ _ _ => rfl) s (localEcc i) (localBase i + 2 * (w % 16384))
  have hbad := State.eccRead_part (g := State.bad) (fun _ _ _ => rfl) s (localEcc i) (localBase i + 2 * (w % 16384))
  have hread := fun t => State.SramScrubbed.of_read (t := t) (localEcc_paired i) hcalm (a := localBase i + 2 * (w % 16384))
  unfold State.readLocal
  dsimp only
  generalize s.eccRead (localEcc i) (localBase i + 2 * (w % 16384)) = r at hinj hwb hbad hread ⊢
  obtain ⟨e, inj, t⟩ := r
  dsimp only at hinj hwb hbad hread ⊢
  subst hinj
  cases e with
  | good => exact hread _ (.refl _ t) (by simp [hwb]) hbad
  | corrected => exact hread _ (.of_regs _ rfl) (by simp [hwb]) hbad
  | uncorrectable =>
    exact hread _ (.trans (hcaptured t (w % 16384) _) (.of_regs _ rfl)) (by simp [hwb]) (by simp [hbad])

/-- A capture of an error of a cassette's store shares no word with the counters of its stores (R190). -/
theorem State.capture_cas_same {u : EccUnit} {c : Nat} (hce : u.ce.addr u.page 0 % 4096 ≠ 0x50) (hue : u.ue.addr u.page 0 % 4096 ≠ 0x50) (t : State) (a k : Nat) :
    u.Same t (((t.capture (casPage c) R.CAS_ST_CAP_VALID R.CAS_ST_CAP_OVR).wr (casPage c) R.CAS_ST_CAP_ADDR a).wr (casPage c) R.CAS_ST_CAP_STORE k) := by
  have hcap (f : Fld) (hf : f.off = 0x50) (hs : f.stride = 0) : ∀ g ∈ u.fields, f.addr (casPage c) 0 ≠ g.addr u.page 0 := by
    have haddr : f.addr (casPage c) 0 % 4096 = 0x50 := by simp [Fld.addr, hf, hs]
    have hinj : R.PG_INJ_INJ.addr u.page 0 % 4096 ≠ 0x50 := by simp [Fld.addr, R.PG_INJ_INJ]
    intro g hg h
    rw [h] at haddr
    simp only [EccUnit.fields, List.mem_cons, List.not_mem_nil, or_false] at hg
    rcases hg with rfl | rfl | rfl
    · exact hce haddr
    · exact hue haddr
    · exact hinj haddr
  exact .trans (.trans (.capture _ t (hcap _ rfl rfl) (hcap _ rfl rfl)) (.wr _ _ a (hcap _ rfl rfl))) (.wr _ _ k (hcap _ rfl rfl))

theorem sharedEcc_apart (c : Nat) :
    (sharedEcc c).ce.addr (sharedEcc c).page 0 % 4096 ≠ 0x50 ∧ (sharedEcc c).ue.addr (sharedEcc c).page 0 % 4096 ≠ 0x50 := by
  simp only [sharedEcc, Fld.addr, R.CAS_SD_ERR_CE, R.CAS_SD_ERR_UE]
  omega

/-- A read of a word of a shared store by the scrub (R174, R190). -/
theorem State.readShared_scrubs {s : State} {c : Nat} (hcalm : (sharedEcc c).Calm s) (w : Nat) :
    s.SramScrubbed (sharedEcc c) [sharedBase c + 2 * (w % 262144)] (s.readShared c w).2.2 := by
  have hcaptured := State.capture_cas_same (c := c) (sharedEcc_apart c).1 (sharedEcc_apart c).2
  obtain ⟨-, hinj, -⟩ := State.eccRead_calm (sharedEcc_paired c) hcalm (sharedBase c + 2 * (w % 262144))
  have hwb := State.eccRead_part (g := State.writeBacks) (fun _ _ _ => rfl) s (sharedEcc c) (sharedBase c + 2 * (w % 262144))
  have hbad := State.eccRead_part (g := State.bad) (fun _ _ _ => rfl) s (sharedEcc c) (sharedBase c + 2 * (w % 262144))
  have hread := fun t => State.SramScrubbed.of_read (t := t) (sharedEcc_paired c) hcalm (a := sharedBase c + 2 * (w % 262144))
  unfold State.readShared
  dsimp only
  generalize s.eccRead (sharedEcc c) (sharedBase c + 2 * (w % 262144)) = r at hinj hwb hbad hread ⊢
  obtain ⟨e, inj, t⟩ := r
  dsimp only at hinj hwb hbad hread ⊢
  subst hinj
  cases e with
  | good => exact hread _ (.refl _ t) (by simp [hwb]) hbad
  | corrected => exact hread _ (.of_regs _ rfl) (by simp [hwb]) hbad
  | uncorrectable =>
    exact hread _ (hcaptured t _ 1) (by simp [hwb]) (by simp [hbad])

/-! ### MRAM -/

/-- A granule of an MRAM read by a scrub: it is counted, and nothing is written yet (R187). -/
structure State.MramRead (s : State) (u : EccUnit) (a : Nat) (r : Ecc × State) : Prop where
  counts    : s.Counts u [a] r.2
  corrected : r.1 = .corrected ↔ s.correctable a = true
  bad       : r.2.bad = s.bad
  wear      : r.2.camWrites = s.camWrites
  vmram     : r.2.vmramLow = s.vmramLow

/-- Granules of an MRAM scrubbed: they are counted, and while VMRAM is in its window those that are correctable are rewritten, each a write of its cam bank. -/
structure State.MramScrubbed (s : State) (u : EccUnit) (bank : Option Nat) (words : List Nat) (t : State) : Prop where
  counts : s.Counts u words t
  bad    : t.bad = if s.mramWritable then (words.filter s.correctable).foldl del s.bad else s.bad
  wear   : ∀ b, bank = some b → lookD t.camWrites b 0 = lookD s.camWrites b 0 + if s.mramWritable then (words.filter s.correctable).length else 0
  vmram  : t.vmramLow = s.vmramLow

theorem look_foldl_del {α : Type} {a : Nat} {l : List Nat} (h : a ∉ l) (m : Sparse α) : look (l.foldl del m) a = look m a := by
  induction l generalizing m with
  | nil => rfl
  | cons k l ih =>
    rw [List.mem_cons, not_or] at h
    exact (ih h.2 _).trans (look_del_ne m (Ne.symm h.1))

theorem State.MramScrubbed.append {s t v : State} {u : EccUnit} {bank : Option Nat} {xs ys : List Nat} (h : s.MramScrubbed u bank xs t)
    (h' : t.MramScrubbed u bank ys v) (hdisj : ∀ a ∈ ys, a ∉ xs) : s.MramScrubbed u bank (xs ++ ys) v := by
  have hlook : ∀ a ∈ ys, look t.bad a = look s.bad a := by
    intro a ha
    rw [h.bad]
    split
    · exact look_foldl_del (fun hx => hdisj a ha (List.mem_filter.1 hx).1) _
    · rfl
  have hc : ys.filter t.correctable = ys.filter s.correctable := List.filter_congr fun a ha => by simp only [State.correctable, hlook a ha]
  have hw : t.mramWritable = s.mramWritable := by simp only [State.mramWritable, h.vmram]
  refine ⟨h.counts.append h'.counts hlook, ?_, fun b hb => ?_, h'.vmram.trans h.vmram⟩
  · rw [h'.bad, hc, hw, h.bad, List.filter_append, List.foldl_append]
    split <;> rfl
  · rw [h'.wear b hb, hc, hw, h.wear b hb, List.filter_append, List.length_append]
    split <;> omega

/-- The scrub of a granule that has been read. -/
theorem State.MramRead.scrubGranule {s : State} {u : EccUnit} {a : Nat} {r : Ecc × State} (h : s.MramRead u a r) {bank : Option Nat}
    (hwear : ∀ b, bank = some b → ∀ t : State, u.Same t (t.camWear b 1)) : s.MramScrubbed u bank [a] (s.scrubGranule a bank r) := by
  unfold State.scrubGranule
  dsimp only
  by_cases hc : s.correctable a = true
  · have hreal : look s.bad a = some .one ∨ look s.bad a = some .two := of_decide_eq_true hc
    by_cases hw : s.mramWritable = true
    · rw [if_pos ⟨h.corrected.2 hc, hreal, hw⟩]
      have hbad : (r.2.eccFix a).bad = del s.bad a := congrArg (del · a) h.bad
      have hfilter : [a].filter s.correctable = [a] := List.filter_cons_of_pos hc
      cases bank with
      | none => exact ⟨h.counts.of_same (.of_regs u rfl), by rw [hbad, if_pos hw, hfilter]; rfl, fun b hb => (nomatch hb), h.vmram⟩
      | some b =>
        refine ⟨h.counts.of_same (.trans (.of_regs u rfl) (hwear b rfl _)), ?_, fun b' hb' => ?_, h.vmram⟩
        · rw [if_pos hw, hfilter]
          exact hbad
        · cases hb'
          rw [if_pos hw, hfilter, ← h.wear]
          exact congrArg (Option.getD · 0) (look_put_self ..)
    · rw [if_neg fun hn => hw hn.2.2]
      exact ⟨h.counts, by rw [if_neg hw]; exact h.bad, fun b _ => by rw [if_neg hw, h.wear]; rfl, h.vmram⟩
  · rw [if_neg fun hn => hc (h.corrected.1 hn.1)]
    have hfilter : [a].filter s.correctable = [] := List.filter_cons_of_neg hc
    exact ⟨h.counts, by rw [hfilter, List.foldl_nil, ite_self]; exact h.bad, fun b _ => by rw [hfilter, List.length_nil, ite_self, h.wear]; rfl, h.vmram⟩

theorem progEcc_paired (c : Nat) : (progEcc c).Paired := by
  constructor <;> simp [progEcc, Fld.addr, R.CAS_PM_ERR_CE, R.CAS_PM_ERR_UE, R.PG_INJ_INJ]

theorem camEcc_paired : camEcc.Paired := by constructor <;> decide

theorem progEcc_apart (c : Nat) :
    (progEcc c).ce.addr (progEcc c).page 0 % 4096 ≠ 0x50 ∧ (progEcc c).ue.addr (progEcc c).page 0 % 4096 ≠ 0x50 := by
  simp only [progEcc, Fld.addr, R.CAS_PM_ERR_CE, R.CAS_PM_ERR_UE]
  omega

theorem State.readProg_calm {s : State} {c : Nat} (hcalm : (progEcc c).Calm s) {a : Nat} (ha : a < 0x80000) (h16 : a % 16 = 0) :
    s.MramRead (progEcc c) (progBase c + a) (s.readProg c a) := by
  have hg : a % 0x80000 / 16 * 16 = a := by omega
  have hcaptured := State.capture_cas_same (c := c) (progEcc_apart c).1 (progEcc_apart c).2
  obtain ⟨hcounts, -, hiff⟩ := State.eccRead_calm (progEcc_paired c) hcalm (progBase c + a)
  have hpart {γ : Type} {g : State → γ} (hg : ∀ (t : State) (a : Nat) (v : Reg), g (t.setReg a v) = g t) := State.eccRead_part hg s (progEcc c) (progBase c + a)
  have hbad := hpart (g := State.bad) fun _ _ _ => rfl
  have hwear := hpart (g := State.camWrites) fun _ _ _ => rfl
  have hvmram := hpart (g := State.vmramLow) fun _ _ _ => rfl
  unfold State.readProg
  dsimp only
  rw [hg]
  generalize s.eccRead (progEcc c) (progBase c + a) = r at hcounts hiff hbad hwear hvmram ⊢
  split
  · next hue =>
    exact ⟨hcounts.of_same (hcaptured _ _ 0), by rw [← hiff, hue], by simp [hbad], by simp [hwear], by simp [hvmram]⟩
  · exact ⟨hcounts, hiff, hbad, hwear, hvmram⟩

theorem camEcc_wr_same (s : State) {f : Fld} {i : Nat} (v : Nat) (h : ∀ g ∈ camEcc.fields, f.addr 0x07F i ≠ g.addr 0x07F 0) : camEcc.Same s (s.wr 0x07F f v i) :=
  .wr camEcc s v h

theorem State.camWear_same (s : State) {b : Nat} (n : Nat) : camEcc.Same s (s.camWear b n) := by
  refine .trans (t := { s with camWrites := put s.camWrites b (lookD s.camWrites b 0 + n) }) (.of_regs _ rfl) (camEcc_wr_same _ _ ?_)
  simp [EccUnit.fields, camEcc, Fld.addr, R.CAM_ERR_CE, R.CAM_ERR_UE, R.PG_INJ_INJ, R.CAM_WEAR_WRITES]
  omega

theorem State.pgEvt_cam_same (s : State) : camEcc.Same s (s.pgEvt 0x07F 0) := fun g hg =>
  congrArg (fun w : Reg => bits w.toNat _ _) (s.reg_pgEvt_cam ((by decide : ∀ g ∈ camEcc.fields, R.PG_EVT_PEND_PEND.addr 0x07F 0 ≠ g.addr 0x07F 0) g hg))

/-- The report of a page's condition leaves the check bits and what is counted of them, and VMRAM. -/
theorem State.pgEvt_mram (s : State) (p b : Nat) :
    (s.pgEvt p b).bad = s.bad ∧ (s.pgEvt p b).camWrites = s.camWrites ∧ (s.pgEvt p b).vmramLow = s.vmramLow :=
  ⟨State.pgEvt_part (g := State.bad) (fun _ _ _ => rfl) (fun _ _ => rfl) s p b, State.pgEvt_part (g := State.camWrites) (fun _ _ _ => rfl) (fun _ _ => rfl) s p b,
    State.pgEvt_part (g := State.vmramLow) (fun _ _ _ => rfl) (fun _ _ => rfl) s p b⟩

/-- A read of a granule of a cam bank (R192). -/
theorem State.readCam_calm {s : State} (hcalm : camEcc.Calm s) {b a : Nat} (hb : b < 8) (ha : a < 0x200000) (h16 : a % 16 = 0) :
    s.MramRead camEcc (camBase b + a) (s.readCam (b * 0x200000 + a)) := by
  have hgranule : 0x4000000 + 16 * ((b * 0x200000 + a) % 0x1000000 / 16) = camBase b + a := by unfold camBase; omega
  obtain ⟨hcounts, -, hiff⟩ := State.eccRead_calm camEcc_paired hcalm (camBase b + a)
  have hpart {γ : Type} {g : State → γ} (hg : ∀ (t : State) (a : Nat) (v : Reg), g (t.setReg a v) = g t) := State.eccRead_part hg s camEcc (camBase b + a)
  have hbad := hpart (g := State.bad) fun _ _ _ => rfl
  have hwear := hpart (g := State.camWrites) fun _ _ _ => rfl
  have hvmram := hpart (g := State.vmramLow) fun _ _ _ => rfl
  have hcaptured (t : State) (n k : Nat) : camEcc.Same t
      (((t.capture 0x07F R.CAM_CAP_VALID R.CAM_CAP_OVR).wr 0x07F R.CAM_CAP_GRANULE n).wr 0x07F R.CAM_CAP_UE k) :=
    .trans (.trans (.capture _ t (by decide) (by decide)) (camEcc_wr_same _ n (by decide))) (camEcc_wr_same _ k (by decide))
  unfold State.readCam
  dsimp only
  rw [hgranule]
  generalize s.eccRead camEcc (camBase b + a) = r at hcounts hiff hbad hwear hvmram ⊢
  obtain ⟨e, inj, t⟩ := r
  dsimp only at hcounts hiff hbad hwear hvmram ⊢
  cases e with
  | good => exact ⟨hcounts, hiff, hbad, hwear, hvmram⟩
  | corrected =>
    refine ⟨hcounts.of_same ?_, hiff, ?_, ?_, ?_⟩ <;> dsimp only <;> split
    · exact hcaptured _ _ 0
    · exact .refl _ t
    all_goals simpa
  | uncorrectable =>
    obtain ⟨ebad, ewear, evmram⟩ := State.pgEvt_mram (((t.capture 0x07F R.CAM_CAP_VALID R.CAM_CAP_OVR).wr 0x07F R.CAM_CAP_GRANULE ((b * 0x200000 + a) % 0x1000000 / 16)).wr 0x07F R.CAM_CAP_UE 1) 0x07F 0
    exact ⟨hcounts.of_same (.trans (hcaptured _ _ 1) (State.pgEvt_cam_same _)), hiff, by simp [ebad, hbad], by simp [ewear, hwear], by simp [evmram, hvmram]⟩

/-- The two granules of a line, read and rewritten one after the other, and the mark of the last line of a pass. -/
theorem State.MramScrubbed.line {u : EccUnit} {bank : Option Nat} {f : State → Nat → State} {a : Nat} {s : State} (hs : u.Calm s)
    (hf : ∀ (t : State) (k : Nat), u.Calm t → k < 2 → t.MramScrubbed u bank [a + 16 * k] (f t k)) {p : Nat} {done : Fld} (hdone : done.lo + done.w ≤ 32 ∧ done.w = 1)
    (hsame : ∀ g ∈ u.fields, done.addr p 0 ≠ g.addr u.page 0) (last : Bool) :
    s.MramScrubbed u bank ((List.range 2).map fun k => a + 16 * k) (if last then (upTo 2 f s).wr p done 1 else upTo 2 f s) ∧
      (last = true → (if last then (upTo 2 f s).wr p done 1 else upTo 2 f s).on p done = true) := by
  have h0 := hf s 0 hs (by decide)
  have h1 := h0.append (hf (f s 0) 1 (h0.counts.calm hs) (by decide)) (by simp)
  refine ⟨?_, fun hlast => ?_⟩
  · split
    · exact ⟨h1.counts.of_same (.wr u _ 1 hsame), h1.bad, h1.wear, h1.vmram⟩
    · exact h1
  · rw [if_pos hlast, State.on_wr_self _ _ _ _ _ hdone.1 hdone.2]
    rfl

/-! ### The commands -/

theorem correctedWriteBack_fixes (a : BitVec 29) (s : State) :
    exec (.correctedWriteBack a) s = .next (if a.toNat ∈ s.writeBacks then
      { s with writeBacks := s.writeBacks.erase a.toNat, bad := if look s.bad a.toNat = some .one then del s.bad a.toNat else s.bad } else s) := by
  refine congrArg Host.Outcome.next ?_
  by_cases hwait : a.toNat ∈ s.writeBacks
  · rw [if_pos hwait, if_pos hwait]
    by_cases hone : look s.bad a.toNat = some .one
    · rw [if_pos hone, if_pos hone]
      rfl
    · rw [if_neg hone, if_neg hone]
  · rw [if_neg hwait, if_neg hwait]

theorem sramScrub_local {i : CogId} {s : State} (hon : (s.domOn (64 + i) && s.on (casPage (casOf i)) R.CAS_SCRUB_LM_EN) = true) (hcalm : (localEcc i).Calm s) (w : BitVec 18) :
    ∃ t, exec (.sramScrub (.loc i) w) s = .next t ∧ s.SramScrubbed (localEcc i) [localBase i + 2 * (w.toNat % 16384)] t :=
  ⟨_, congrArg Host.Outcome.next (if_pos hon), State.readLocal_scrubs hcalm w.toNat⟩

theorem sramScrub_shared {c : Cas} {s : State} (hon : (s.domOn (8 + c) && s.on (casPage c) R.CAS_SCRUB_SD_EN) = true) (hcalm : (sharedEcc c).Calm s) (w : BitVec 18) :
    ∃ t, exec (.sramScrub (.shared c) w) s = .next t ∧
      s.SramScrubbed (sharedEcc c) ((List.range 8).map fun k => sharedBase c + 2 * (w.toNat / 8 * 8 + k)) t := by
  have hwords : (List.range 8).map (fun k => sharedBase c + 2 * (w.toNat / 8 * 8 + k)) =
      (List.range 8).map fun k => sharedBase c + 2 * ((w.toNat / 8 * 8 + k) % 262144) := List.map_congr_left fun k hk => by
    have hk := List.mem_range.1 hk
    have hw := w.isLt
    rw [Nat.mod_eq_of_lt (by omega)]
  rw [hwords]
  exact ⟨_, congrArg Host.Outcome.next (if_pos hon), .foldl (fun t k ht => State.readShared_scrubs ht (w.toNat / 8 * 8 + k)) _ hcalm⟩

theorem mramScrub_prog {c : Cas} {s : State} (hon : (s.domOn (8 + c) && decide (s.rd (casPage c) R.CAS_SCRUB_PM_PERIOD ≠ 0)) = true) (hcalm : (progEcc c).Calm s)
    (line : BitVec 16) (last : Bool) :
    ∃ t, exec (.mramScrub (.prog c) line last) s = .next t ∧
      s.MramScrubbed (progEcc c) none ((List.range 2).map fun k => progBase c + line.toNat % 16384 * 32 + 16 * k) t ∧
      (last = true → t.on (casPage c) R.CAS_SCRUB_PM_DONE = true) := by
  have hon' : (s.domOn (8 + c) && s.rd (casPage c) R.CAS_SCRUB_PM_PERIOD != 0) = true := by simpa using hon
  refine ⟨_, congrArg Host.Outcome.next (if_pos hon'), ?_⟩
  refine State.MramScrubbed.line hcalm (fun t k ht hk => ?_) ⟨by decide, rfl⟩ ?_ last
  · rw [Nat.add_assoc]
    exact (State.readProg_calm ht (by omega) (by omega)).scrubGranule fun b hb => nomatch hb
  · simp [EccUnit.fields, progEcc, Fld.addr, R.CAS_PM_ERR_CE, R.CAS_PM_ERR_UE, R.PG_INJ_INJ, R.CAS_SCRUB_PM_DONE]

theorem mramScrub_cam {b : Fin 8} {s : State} (hon : (s.domOn (56 + b) && decide (s.rd 0x07F R.CAM_SCRUB_PERIOD ≠ 0)) = true) (hcalm : camEcc.Calm s)
    (line : BitVec 16) (last : Bool) :
    ∃ t, exec (.mramScrub (.cam b) line last) s = .next t ∧
      s.MramScrubbed camEcc (some b) ((List.range 2).map fun k => camBase b + line.toNat * 32 + 16 * k) t ∧
      (last = true → t.on 0x07F R.CAM_SCRUB_DONE = true) := by
  have hon' : (s.domOn (56 + b) && s.rd 0x07F R.CAM_SCRUB_PERIOD != 0) = true := by simpa using hon
  refine ⟨_, congrArg Host.Outcome.next (if_pos hon'), ?_⟩
  refine State.MramScrubbed.line hcalm (fun t k ht hk => ?_) ⟨by decide, rfl⟩ (by decide) last
  have hline := line.isLt
  rw [Nat.add_assoc]
  refine (State.readCam_calm ht b.isLt (by omega) (by omega)).scrubGranule fun b' hb' u => ?_
  exact u.camWear_same 1

theorem execSramScrub_keeps (x : SramId) (w : BitVec 18) (s : State) : ∃ t, exec (.sramScrub x w) s = .next t ∧ t.mem = s.mem ∧ t.tb = s.tb := by
  cases x with
  | loc i => exact ⟨_, rfl, ite_keeps State.mem (State.readLocal_keeps ..).2.2 rfl, ite_keeps State.tb (State.readLocal_keeps ..).1 rfl⟩
  | shared c =>
    exact ⟨_, rfl, ite_keeps State.mem (upTo_mem _ _ (fun _ _ => (State.readShared_keeps ..).2.2) s) rfl,
      ite_keeps State.tb (upTo_tb _ _ (fun _ _ => (State.readShared_keeps ..).1) s) rfl⟩

theorem execMramScrub_keeps (y : MramId) (line : BitVec 16) (last : Bool) (s : State) :
    ∃ t, exec (.mramScrub y line last) s = .next t ∧ t.mem = s.mem ∧ t.tb = s.tb := by
  cases y <;> exact ⟨_, rfl, ite_keeps State.mem (by simp [State.scrubGranule_keeps]) rfl, ite_keeps State.tb (by simp [State.scrubGranule_keeps]) rfl⟩

/-- Settles O26: a scrub reads its words one after another, and each read counts and reports what the check bits say. -/
theorem scrubsAndWriteBacksCorrect : Obligations.ScrubsAndWriteBacksCorrect := by
  refine ⟨correctedWriteBack_fixes, fun i w s => ⟨fun hoff => ?_, fun hon hC hU => ?_⟩, fun c w s => ⟨fun hoff => ?_, fun hon hC hU => ?_⟩,
    fun c line last s => ⟨fun hoff => ?_, fun hon hC hU => ?_⟩, fun b line last s => ⟨fun hoff => ?_, fun hon hC hU => ?_⟩, ?_⟩
  · exact congrArg Host.Outcome.next (if_neg (by simp [hoff]))
  · obtain ⟨t, ht, hcounts, hwaits, hbad⟩ := sramScrub_local hon ⟨hC, hU⟩ w
    exact ⟨t, ht, ⟨hcounts.ce, hcounts.ue⟩, hwaits, hbad⟩
  · exact congrArg Host.Outcome.next (if_neg (by simp [hoff]))
  · obtain ⟨t, ht, hcounts, hwaits, hbad⟩ := sramScrub_shared hon ⟨hC, hU⟩ w
    exact ⟨t, ht, ⟨hcounts.ce, hcounts.ue⟩, hwaits, hbad⟩
  · exact congrArg Host.Outcome.next (if_neg (by simpa using hoff))
  · obtain ⟨t, ht, ⟨hcounts, hbad, -, -⟩, hdone⟩ := mramScrub_prog hon ⟨hC, hU⟩ line last
    exact ⟨t, ht, ⟨hcounts.ce, hcounts.ue⟩, hbad, hdone⟩
  · exact congrArg Host.Outcome.next (if_neg (by simpa using hoff))
  · obtain ⟨t, ht, ⟨hcounts, hbad, hwear, -⟩, hdone⟩ := mramScrub_cam hon ⟨hC, hU⟩ line last
    exact ⟨t, ht, ⟨hcounts.ce, hcounts.ue⟩, hbad, hwear b rfl, hdone⟩
  · intro a x y w line last s e he
    simp only [List.mem_cons, List.not_mem_nil, or_false] at he
    rcases he with rfl | rfl | rfl
    · exact ⟨_, correctedWriteBack_fixes a s, fun k => by split <;> rfl, by split <;> rfl⟩
    · obtain ⟨t, ht, hmem, htb⟩ := execSramScrub_keeps x w s
      exact ⟨t, ht, State.byte_of_mem hmem, htb⟩
    · obtain ⟨t, ht, hmem, htb⟩ := execMramScrub_keeps y line last s
      exact ⟨t, ht, State.byte_of_mem hmem, htb⟩

end Sys2Proof.Machine
end

section
/-! PROOFS. A boundary with an axis slot that does not exist (R237, R251, R264). -/

namespace Sys2Proof.Machine

/-- The number of an axis slot, beyond the 512 of R264, whose words would stand at 0x40 to 0x7F of the page of table 2. -/
def strayAxis : Nat := 0x4C0081

/-- Cadence 0 reaches its first boundary now, where the flip of table 2 acts while its pass still runs. Copy 1 of the table is live; the slot beyond the
axis table is enabled on the cadence, coupled, and has a FREE that waits. -/
def strayAxisFreed : State :=
  { State.reset with
    tb := 3
    regs := [(R.CAD_CTRL_EN.addr 0x072 0, 1), (R.AX_BIND_EN.addr 0x1000 strayAxis, 0x80000000), (R.CAM_TBL_A_EN.addr (tablePage 2) 0, 0x80000000),
      (R.CAM_TBL_B_POINTS.addr (tablePage 2) 0, 2), (R.CAM_TBL_STAT_LIVE.addr (tablePage 2) 0, 1)]
    cads := [(0, { segs := [⟨1, (2 ^ 28 - 2 ^ 20) * 2 ^ 20, 2 ^ 39, 0, 0, 1, 1, none⟩], enabledAt := 1 })]
    tables := [(2, { flip := some (1, 0), pass := .running })]
    axes := [(strayAxis, { free := some 0 })] }

/-- The slot's STATE stands where the table has its POINTS, and its velocity where the table has its status. -/
theorem strayAxis_words : R.AX_STATE_STATE.addr 0x1000 strayAxis = R.CAM_TBL_B_POINTS.addr (tablePage 2) 0 ∧
    R.AX_VEL_VEL.addr 0x1000 strayAxis = R.CAM_TBL_STAT_LIVE.addr (tablePage 2) 0 := by
  decide

theorem strayAxisFreed_boundary : strayAxisFreed.domOn 3 = true ∧ strayAxisFreed.cadEn 0 = true ∧ (strayAxisFreed.cad 0).nextBoundary = some (3, 1) ∧
    strayAxisFreed.flipsAt 0 3 1 = [2] ∧ strayAxisFreed.passAt 2 3 = .running ∧ strayAxisFreed.rd (tablePage 2) R.CAM_TBL_STAT_LIVE = 1 := by
  decide +kernel

/-- The FREE acts at the boundary, and the velocity that it sets to 0 is the status word of the table. -/
theorem strayAxisFreed_live : (strayAxisFreed.cadBoundary 0).rd (tablePage 2) R.CAM_TBL_STAT_LIVE = 0 := by
  decide +kernel

/-- Refutes O34: its first clause holds of every state, also of one that keeps live state for an axis slot beyond the 512 of R264. The words of such a slot
are the words of a table's page, and a FREE that acts on it at the boundary writes STAT.LIVE of the table whose flip is carried. The model makes no
such slot: what the statement lacks is the hypothesis that the axes are numbered below 512, as it has it of the table. -/
theorem not_boundariesNoticesAndEvaluations : ¬ Obligations.BoundariesNoticesAndEvaluations := by
  intro h
  obtain ⟨hboundary, -⟩ := h
  obtain ⟨hon, hen, hnext, hflips, hpass, hlive⟩ := strayAxisFreed_boundary
  obtain ⟨t, ht, -, -, -, -, -, -, -, hflip⟩ := (hboundary 0 strayAxisFreed).2 3 1 hon hen hnext (by decide)
  obtain ⟨-, -, hcarried⟩ := hflip 2 hflips (by decide)
  obtain ⟨-, -, hkeep, -⟩ := hcarried hpass
  obtain rfl : strayAxisFreed.cadBoundary 0 = t := Host.Outcome.next.inj ht
  exact absurd (hkeep.symm.trans strayAxisFreed_live) (by rw [hlive]; decide)

end Sys2Proof.Machine
end

section
/-! PROOFS. The enables of tables and axes, the scan and the commit pass (R178 to R182, R188, R247, R253, R257, R262). -/

namespace Sys2Proof.Machine

/-! ### The checks of an enable (R178, R262) -/

/-- The refusal of an enable, by the field that is bad or the region that overlaps. -/
theorem State.tblRefuse_cases (v : State) (t : Nat) :
    let p := v.tblPoints t
    let badField := v.rd (tablePage t) R.CAM_TBL_A_SPAN = 3 ∨ p < 2 ∨ 16384 < p ∨ 0x200000 < v.tblOfs t + regionBytes p
    let overlaps := ∃ x ∈ v.knownTables, x ≠ t ∧ (v.tblEn x = true ∨ (v.table x).scan = true) ∧ v.tblOfs t < v.tblOfs x + regionBytes (v.tblPoints x) ∧
      v.tblOfs x < v.tblOfs t + regionBytes p ∧ ∃ b, b < 8 ∧ v.usesBank t b = true ∧ v.usesBank x b = true
    (badField → v.tblRefuse t = 4) ∧ (¬ badField → overlaps → v.tblRefuse t = 1) ∧ (¬ badField → ¬ overlaps → v.tblRefuse t = 0) := by
  intro p badField overlaps
  have hany : ((v.knownTables.filter fun x => x ≠ t && v.tblBusy x).any fun x =>
      decide (v.tblOfs t < v.tblOfs x + regionBytes (v.tblPoints x) ∧ v.tblOfs x < v.tblOfs t + regionBytes p) &&
        (List.range 8).any fun b => v.usesBank t b && v.usesBank x b) = true ↔ overlaps := by
    simp only [List.any_eq_true, List.mem_filter, List.mem_range, State.tblBusy, Bool.and_eq_true, Bool.or_eq_true, decide_eq_true_eq, overlaps]
    exact ⟨fun ⟨x, ⟨hx, hne, hbusy⟩, ⟨hlo, hhi⟩, hbank⟩ => ⟨x, hx, hne, hbusy, hlo, hhi, hbank⟩,
      fun ⟨x, hx, hne, hbusy, hlo, hhi, hbank⟩ => ⟨x, ⟨hx, hne, hbusy⟩, ⟨hlo, hhi⟩, hbank⟩⟩
  unfold State.tblRefuse
  exact ⟨fun hbad => if_pos hbad, fun hok hover => (if_neg hok).trans (if_pos (hany.2 hover)), fun hok hapart => (if_neg hok).trans (if_neg (mt hany.1 hapart))⟩

/-! ### A write of a word of RW fields (R9) -/

/-- The value that RW fields leave in a word, and the fields of it. -/
theorem foldl_setBits_rw {g : Nat → Fld → Nat} {data : Nat} (hg : ∀ v f, f.acc = .rw → g v f = setBits v f.lo f.w (bits data f.lo f.w)) (fs : List Fld)
    (hfs : ∀ f ∈ fs, f.acc = .rw ∧ f.lo + f.w ≤ 32) (hapart : fs.Pairwise fun f f' => f.lo + f.w ≤ f'.lo ∨ f'.lo + f'.w ≤ f.lo) {v : Nat} (hv : v < 2 ^ 32) :
    fs.foldl g v < 2 ^ 32 ∧ (∀ f ∈ fs, bits (fs.foldl g v) f.lo f.w = bits data f.lo f.w) ∧
      ∀ f : Fld, (∀ f' ∈ fs, f'.lo + f'.w ≤ f.lo ∨ f.lo + f.w ≤ f'.lo) → bits (fs.foldl g v) f.lo f.w = bits v f.lo f.w := by
  induction fs generalizing v with
  | nil => exact ⟨hv, fun f hf => absurd hf List.not_mem_nil, fun f _ => rfl⟩
  | cons f fs ih =>
    obtain ⟨hrw, hfits⟩ := hfs f List.mem_cons_self
    obtain ⟨hhead, htail⟩ := List.pairwise_cons.1 hapart
    have hstep : g v f < 2 ^ 32 := by
      rw [hg v f hrw]
      exact setBits_lt hv hfits
    obtain ⟨hlt, hin, hout⟩ := ih (fun f' hf' => hfs f' (List.mem_cons_of_mem _ hf')) htail hstep
    refine ⟨hlt, fun f' hf' => ?_, fun f' hf' => ?_⟩
    · rcases List.mem_cons.1 hf' with rfl | hf'
      · refine (hout f' fun f'' hf'' => (hhead f'' hf'').symm).trans ?_
        rw [hg v f' hrw, bits_setBits_self]
        exact Nat.mod_eq_of_lt (bits_lt ..)
      · exact hin f' hf'
    · refine (hout f' fun f'' hf'' => hf' f'' (List.mem_cons_of_mem _ hf'')).trans ?_
      rw [hg v f hrw, bits_setBits_ne _ _ (hf' f List.mem_cons_self)]

/-- A write of a word whose fields are RW puts the value's bits into each of them (R9). -/
theorem State.rd_applyWrite_rw (s : State) {p : Nat} {f : Fld} {fs : List Fld} (hword : wordFields (f.addr p 0) = fs) (hf : f ∈ fs)
    (hfs : ∀ f ∈ fs, f.acc = .rw ∧ f.lo + f.w ≤ 32) (hapart : fs.Pairwise fun f f' => f.lo + f.w ≤ f'.lo ∨ f'.lo + f'.w ≤ f.lo) (data : Nat) :
    (s.applyWrite (f.addr p 0) data).rd p f = bits data f.lo f.w := by
  unfold State.applyWrite State.rd
  rw [State.reg_setReg_self, hword, BitVec.toNat_ofNat]
  have hgo : ∀ g : Nat → Fld → Nat, (∀ v f, f.acc = .rw → g v f = setBits v f.lo f.w (bits data f.lo f.w)) →
      bits (fs.foldl g (s.reg (f.addr p 0)).toNat % 2 ^ 32) f.lo f.w = bits data f.lo f.w := fun g hg => by
    obtain ⟨hlt, hin, -⟩ := foldl_setBits_rw hg fs hfs hapart (s.reg (f.addr p 0)).isLt
    rw [Nat.mod_eq_of_lt hlt]
    exact hin f hf
  exact hgo _ fun v f hrw => by simp only [hrw]

theorem State.reg_applyWrite_ne (s : State) {a b : Nat} (data : Nat) (h : a ≠ b) : (s.applyWrite a data).reg b = s.reg b := State.reg_setReg_ne s _ h

/-- The fields of CAM_TBL_A (R262). -/
def tblAFields : List Fld := [R.CAM_TBL_A_OFS, R.CAM_TBL_A_FIRST, R.CAM_TBL_A_SPAN, R.CAM_TBL_A_CAD, R.CAM_TBL_A_EN]

theorem pageKind_tablePage {t : Nat} (ht : t < 1024) : pageKind (tablePage t) = .camtbl := by
  unfold pageKind tablePage
  simp (disch := omega) only [if_neg, if_pos]

theorem wordFields_tblA {t : Nat} (ht : t < 1024) : wordFields (R.CAM_TBL_A_EN.addr (tablePage t) 0) = tblAFields := by
  have hbase : pageBase (R.CAM_TBL_A_EN.addr (tablePage t) 0) = tablePage t * 4096 := by
    unfold pageBase
    rw [if_neg (by unfold Fld.addr tablePage; omega)]
    simp only [Fld.addr, R.CAM_TBL_A_EN]
    omega
  have hoff : R.CAM_TBL_A_EN.addr (tablePage t) 0 - tablePage t * 4096 = 0x4C := by
    simp only [Fld.addr, R.CAM_TBL_A_EN]
    omega
  unfold wordFields
  rw [hbase, hoff, Nat.mul_div_cancel _ (by decide), pageFields, pageKind_tablePage ht]
  rfl

/-- A write of CAM_TBL_A puts the value's bits into its fields (R9, R262). -/
theorem State.rd_applyWrite_tblA (s : State) {t : Nat} (ht : t < 1024) (data : Nat) {f : Fld} (hf : f ∈ tblAFields) :
    (s.applyWrite (R.CAM_TBL_A_EN.addr (tablePage t) 0) data).rd (tablePage t) f = bits data f.lo f.w := by
  have haddr : f.addr (tablePage t) 0 = R.CAM_TBL_A_EN.addr (tablePage t) 0 := by
    have hoff : ∀ f ∈ tblAFields, f.off = 0x4C ∧ f.stride = 0 := by decide
    obtain ⟨ho, hs⟩ := hoff f hf
    simp [Fld.addr, ho, hs, R.CAM_TBL_A_EN]
  rw [← haddr]
  exact s.rd_applyWrite_rw (haddr ▸ wordFields_tblA ht) hf (by decide) (by decide) data

/-! ### The disable of a table (R181, R257) -/

/-- The axes of a selection are marked, and nothing else changes (R257). -/
theorem State.dropAxes_frame (s : State) (p : Nat → Bool) :
    (s.dropAxes p).regs = s.regs ∧ (s.dropAxes p).tables = s.tables ∧ (s.dropAxes p).shadow = s.shadow := by
  unfold State.dropAxes
  exact ⟨foldl_keeps State.regs _ (by simp) _ _, foldl_keeps State.tables _ (by simp) _ _, foldl_keeps State.shadow _ (by simp) _ _⟩

theorem State.foldl_setAxis_drop {f : State → Nat → State} (hf : ∀ s a, f s a = s.setAxis a { s.axis a with drop := true }) (a : Nat) :
    ∀ (l : List Nat) (s : State), a ∈ l ∨ (s.axis a).drop = true → ((l.foldl f s).axis a).drop = true := by
  intro l
  induction l with
  | nil => exact fun s h => h.resolve_left List.not_mem_nil
  | cons b l ih =>
    refine fun s h => ih (f s b) ?_
    rw [hf]
    by_cases hb : b = a
    · subst hb
      exact .inr (by rw [State.setAxis_self])
    · rw [State.setAxis_ne _ _ _ hb]
      exact h.imp_left fun hmem => (List.mem_cons.1 hmem).resolve_left (Ne.symm hb)

/-- A coupled or shifting axis of the selection is marked (R257). -/
theorem State.dropAxes_drop (s : State) {p : Nat → Bool} {a : Nat} (ha : a < 512) (hst : 2 ≤ s.ard a R.AX_STATE_STATE) (hp : p a = true) :
    ((s.dropAxes p).axis a).drop = true :=
  State.foldl_setAxis_drop (fun _ _ => rfl) a _ s (.inl (List.mem_filter.2 ⟨List.mem_range.2 ha, by simp [hst, hp]⟩))

/-- A word of the axis table lies on no page of a cam table. -/
theorem axis_addr_ne {f g : Fld} {a t : Nat} (ha : a < 512) (hf : f.off < 64) (hs : f.stride = 64) : g.addr (tablePage t) 0 ≠ f.addr 0x1000 a := by
  simp only [Fld.addr, tablePage, hs]
  omega

/-- A table whose descriptor and live state a disable has cleared, before the axes are marked (R181). -/
def State.cleared (s : State) (t : Nat) : State :=
  (({ s.wr (tablePage t) R.CAM_TBL_A_EN 0 with shadow := s.shadow.filter fun e => e.table ≠ t } : State).setTable t {}).wr (tablePage t) R.CAM_TBL_STAT_ARMED 0

theorem State.disableTable_eq (s : State) (t : Nat) :
    s.disableTable t = (s.cleared t).dropAxes fun a => decide ((s.wr (tablePage t) R.CAM_TBL_A_EN 0).ard a R.AX_BIND_TABLE = t) := rfl

/-- The register words of a cleared table. -/
theorem State.rd_cleared (s : State) (t p : Nat) (f : Fld) (i : Nat) :
    (s.cleared t).rd p f i = ((s.wr (tablePage t) R.CAM_TBL_A_EN 0).wr (tablePage t) R.CAM_TBL_STAT_ARMED 0).rd p f i := by
  have hregs : (s.cleared t).regs = ((s.wr (tablePage t) R.CAM_TBL_A_EN 0).wr (tablePage t) R.CAM_TBL_STAT_ARMED 0).regs := by
    simp [State.cleared, State.wr, State.setReg, State.reg]
  rw [State.rd, State.rd, State.reg_of_regs hregs]

theorem State.ard_cleared (s : State) (t : Nat) {f : Fld} {a : Nat} (ha : a < 512) (hf : f.off < 64) (hs : f.stride = 64) : (s.cleared t).ard a f = s.ard a f :=
  (s.rd_cleared t _ f a).trans ((State.rd_wr_ne _ _ _ 0 0 (axis_addr_ne ha hf hs)).trans (State.rd_wr_ne s _ _ 0 0 (axis_addr_ne ha hf hs)))

theorem tblA_addr_ne {f : Fld} (h : f ∈ tblAFields) (t : Nat) : R.CAM_TBL_STAT_ARMED.addr (tablePage t) 0 ≠ f.addr (tablePage t) 0 := by
  obtain ⟨ho, hs⟩ := (by decide : ∀ f ∈ tblAFields, f.off = 0x4C ∧ f.stride = 0) f h
  simp [Fld.addr, ho, hs, R.CAM_TBL_STAT_ARMED]

/-- Another field of CAM_TBL_A is left. -/
theorem State.rd_cleared_tblA (s : State) (t : Nat) {f : Fld} (hf : f ∈ tblAFields)
    (hen : R.CAM_TBL_A_EN.lo + R.CAM_TBL_A_EN.w ≤ f.lo ∨ f.lo + f.w ≤ R.CAM_TBL_A_EN.lo) : (s.cleared t).rd (tablePage t) f = s.rd (tablePage t) f :=
  (s.rd_cleared t _ f 0).trans ((State.rd_wr_ne _ _ _ 0 0 (tblA_addr_ne hf t)).trans (State.rd_wr_bits s _ _ 0 0 (by decide) hen))

theorem State.tblEn_cleared (s : State) (t : Nat) : (s.cleared t).tblEn t = false := by
  rw [State.tblEn, State.on, s.rd_cleared, State.rd_wr_ne _ _ _ 0 0 (tblA_addr_ne (by decide) t), State.rd_wr_self _ _ _ 0 0 (by decide)]
  rfl

theorem State.armed_cleared (s : State) (t : Nat) : (s.cleared t).on (tablePage t) R.CAM_TBL_STAT_ARMED = false := by
  rw [State.on, s.rd_cleared, State.rd_wr_self _ _ _ 0 0 (by decide)]
  rfl

theorem State.cleared_parts (s : State) (t : Nat) : (s.cleared t).table t = {} ∧ (s.cleared t).shadow = s.shadow.filter fun e => e.table ≠ t := by
  simp [State.cleared, State.table, State.setTable, lookD]

/-- What a disable leaves of a table (R181, R257). -/
structure State.Disabled (s : State) (t : Nat) (q : State) : Prop where
  en     : q.tblEn t = false
  armed  : q.on (tablePage t) R.CAM_TBL_STAT_ARMED = false
  live   : q.table t = {}
  shadow : q.shadow = s.shadow.filter fun e => e.table ≠ t
  fields : ∀ f ∈ [R.CAM_TBL_A_OFS, R.CAM_TBL_A_FIRST, R.CAM_TBL_A_SPAN, R.CAM_TBL_A_CAD], q.rd (tablePage t) f = s.rd (tablePage t) f
  axes   : ∀ a, a < 512 → 2 ≤ s.rd 0x1000 R.AX_STATE_STATE a → s.rd 0x1000 R.AX_BIND_TABLE a = t → (q.axis a).drop = true

theorem State.disableTable_disables (s : State) (t : Nat) : s.Disabled t (s.disableTable t) := by
  rw [State.disableTable_eq]
  obtain ⟨hregs, htables, hshadow⟩ := State.dropAxes_frame (s.cleared t) fun a => decide ((s.wr (tablePage t) R.CAM_TBL_A_EN 0).ard a R.AX_BIND_TABLE = t)
  obtain ⟨hlive, hfilter⟩ := s.cleared_parts t
  have hrd (f : Fld) : ((s.cleared t).dropAxes fun a => decide ((s.wr (tablePage t) R.CAM_TBL_A_EN 0).ard a R.AX_BIND_TABLE = t)).rd (tablePage t) f =
      (s.cleared t).rd (tablePage t) f := by rw [State.rd, State.rd, State.reg_of_regs hregs]
  refine ⟨?_, ?_, ?_, hshadow.trans hfilter, fun f hf => (hrd f).trans ?_, fun a ha hst htbl => State.dropAxes_drop _ ha ?_ (decide_eq_true ?_)⟩
  · rw [State.tblEn, State.on, hrd]
    exact s.tblEn_cleared t
  · rw [State.on, hrd]
    exact s.armed_cleared t
  · rw [State.table, htables]
    exact hlive
  · exact s.rd_cleared_tblA t (List.mem_of_mem_dropLast (l := tblAFields) hf)
      ((by decide : ∀ f ∈ [R.CAM_TBL_A_OFS, R.CAM_TBL_A_FIRST, R.CAM_TBL_A_SPAN, R.CAM_TBL_A_CAD],
        R.CAM_TBL_A_EN.lo + R.CAM_TBL_A_EN.w ≤ f.lo ∨ f.lo + f.w ≤ R.CAM_TBL_A_EN.lo) f hf)
  · rwa [State.ard_cleared s t ha (by decide) rfl]
  · exact (State.rd_wr_ne s _ _ 0 0 (axis_addr_ne ha (by decide) rfl)).trans htbl

/-! ### The commands of the host (R178, R257, R262) -/

theorem bit_setBits_31 (d : Nat) : bit (setBits d 31 1 1) 31 = true ∧ bit (setBits d 31 1 0) 31 = false := by
  rw [bit_setBits, bit_setBits]
  exact ⟨rfl, rfl⟩

/-- The state with the fields of CAM_TBL_A of a table written (R262). -/
def State.tblFields (s : State) (t d : Nat) : State := s.applyWrite (R.CAM_TBL_A_EN.addr (tablePage t) 0) (setBits d 31 1 0)

/-- The state with the banks of a table woken that are not on (R178). -/
def State.wakeBanks (s : State) (t : Nat) : State :=
  (List.range (s.tblSpan t)).foldl (fun (u : State) j => if u.domOn (56 + u.copyBank t j) then u else u.startWake (56 + u.copyBank t j)) s

/-- A host write of CAM_TBL_A reaches the registers (R440). -/
theorem exec_writeTblA {s : State} (hr : s.hostReaches = true) (hon : s.domOn 3 = true) (data : Reg) :
    exec (.tableEnable data) s = .next (s.writeTblA (setBits data.toNat 31 1 1)) ∧ exec (.tableDisable data) s = .next (s.writeTblA (setBits data.toNat 31 1 0)) := by
  have hpage : s.pageOn 0x071 = true := hon
  exact ⟨congrArg Host.Outcome.next (State.hostAt_reached hr hpage _), congrArg Host.Outcome.next (State.hostAt_reached hr hpage _)⟩

theorem tableEnable_cases {s : State} (data : Reg) (hr : s.hostReaches = true) (hon : s.domOn 3 = true) :
    let t := s.rd 0x071 R.CAM_TBL_IDX_IDX
    let r := s.jrnHost 0x7104C
    let v := r.tblFields t (setBits data.toNat 31 1 1)
    (r.tblBusy t = true → exec (.tableEnable data) s = .next (r.wr (tablePage t) R.CAM_TBL_STAT_REFUSE 5)) ∧
    (r.tblBusy t = false → v.tblRefuse t ≠ 0 → exec (.tableEnable data) s = .next (v.wr (tablePage t) R.CAM_TBL_STAT_REFUSE (v.tblRefuse t))) ∧
    (r.tblBusy t = false → v.tblRefuse t = 0 →
      exec (.tableEnable data) s = .next ((v.wakeBanks t).setTable t { (v.wakeBanks t).table t with scan := true })) := by
  intro t r v
  rw [(exec_writeTblA hr hon data).1]
  unfold State.writeTblA
  rw [if_pos (bit_setBits_31 _).1]
  refine ⟨fun hbusy => congrArg _ (if_pos hbusy), fun hbusy hk => congrArg _ ?_, fun hbusy hk => congrArg _ ?_⟩
  · exact (if_neg (Bool.eq_false_iff.1 hbusy)).trans (if_pos hk)
  · exact (if_neg (Bool.eq_false_iff.1 hbusy)).trans (if_neg (not_not.2 hk))

theorem tableDisable_disables {s : State} (data : Reg) (hr : s.hostReaches = true) (hon : s.domOn 3 = true) :
    let t := s.rd 0x071 R.CAM_TBL_IDX_IDX
    let r := s.jrnHost 0x7104C
    ∃ q, exec (.tableDisable data) s = .next q ∧ (r.tblFields t (setBits data.toNat 31 1 0)).Disabled t q ∧ q.mem = s.mem := by
  intro t r
  refine ⟨_, (exec_writeTblA hr hon data).2, ?_, (State.writeTblA_keeps ..).2.2⟩
  unfold State.writeTblA
  rw [if_neg (Bool.eq_false_iff.1 (bit_setBits_31 _).2)]
  exact State.disableTable_disables _ t

/-- The fields of a table that a disable writes, and the axis table that it leaves (R262). -/
theorem State.tblFields_rd (s : State) {t : Nat} (ht : t < 1024) (d x : Nat) {f : Fld} (hf : f ∈ tblAFields) (hlow : f.lo + f.w ≤ 31) :
    (s.tblFields t (setBits d 31 1 x)).rd (tablePage t) f = bits d f.lo f.w := by
  rw [State.tblFields, State.rd_applyWrite_tblA _ ht _ hf, bits_setBits_ne _ _ (.inr hlow), bits_setBits_ne _ _ (.inr hlow)]

theorem State.tblFields_ard (s : State) (t d : Nat) {f : Fld} {a : Nat} (ha : a < 512) (hf : f.off < 64) (hs : f.stride = 64) :
    (s.tblFields t d).rd 0x1000 f a = s.rd 0x1000 f a := by
  rw [State.rd, State.rd, State.tblFields, State.reg_applyWrite_ne _ _ (axis_addr_ne ha hf hs)]

/-- AXIS_ENABLE, by whether the axis is off and the demand fits (R247). -/
theorem axisEnable_cases (a : Fin 512) (data : Reg) {s : State} (hr : s.hostReaches = true) (hon : s.domOn 3 = true) :
    let adr := R.AX_BIND_EN.addr 0x1000 a
    let r := s.jrnHost adr
    let was := r.on 0x1000 R.AX_BIND_EN a
    let t := (if r.rd 0x1000 R.AX_STATE_STATE a < 2 then r.applyWrite adr (setBits (setBits data.toNat 31 1 1) 31 1 (b2n was)) else r).wr 0x1000 R.AX_BIND_EN 1 a
    (was = true → exec (.axisEnable a data) s = .next t.showDemand) ∧
    (was = false → t.demand ≤ 32000000 → exec (.axisEnable a data) s = .next ((t.wr 0x1000 R.AX_STATE_STATE 1 a).wr 0x1000 R.AX_VEL_VEL 0 a).showDemand) ∧
    (was = false → 32000000 < t.demand → exec (.axisEnable a data) s = .next (r.wr 0x071 R.CAM_LOAD_REFUSE 1)) := by
  intro adr r was t
  have hpage : s.pageOn 0x071 = true := hon
  have hexec : exec (.axisEnable a data) s = .next (s.writeAxBind a (setBits data.toNat 31 1 1)) := congrArg Host.Outcome.next (State.hostAt_reached hr hpage _)
  have hen : setBits data.toNat 31 1 1 / 2 ^ 31 = 1 := by
    rw [setBits_parts, Nat.div_eq_of_lt (a := data.toNat / 2 ^ 31)]
    · omega
    · have := data.isLt
      omega
  rw [hexec]
  unfold State.writeAxBind
  dsimp only
  rw [hen, (bit_setBits_31 _).1]
  have hwas (h : was = true) : ¬ (true && !was) = true := by rw [h]; decide
  have hoff (h : was = false) : (true && !was) = true := by rw [h]; rfl
  refine ⟨fun h => congrArg _ ?_, fun h hfits => congrArg _ ?_, fun h hmore => congrArg _ ?_⟩
  · exact (if_neg fun hc => hwas h (Bool.and_eq_true_iff.1 hc).1).trans (congrArg State.showDemand ((if_neg Bool.false_ne_true).trans (if_neg (hwas h))))
  · exact (if_neg fun hc => Nat.not_lt.2 hfits (of_decide_eq_true (Bool.and_eq_true_iff.1 hc).2)).trans
      (congrArg State.showDemand ((if_neg Bool.false_ne_true).trans (if_pos (hoff h))))
  · exact if_pos (Bool.and_eq_true_iff.2 ⟨hoff h, decide_eq_true hmore⟩)

/-! ### The scan of a table (R180) -/

/-- A read of a cam granule with valid check bits and no injection meets nothing and leaves everything. -/
theorem State.readCam_good {s : State} (hbad : s.bad = []) (hU : s.injArmed 0x07F 1 = false) (hC : s.injArmed 0x07F 0 = false) (a : Nat) :
    s.readCam a = (.good, s) := by
  have hread (g : Nat) : s.eccRead camEcc g = (.good, false, s) := by
    unfold State.eccRead
    refine (if_neg (Bool.eq_false_iff.1 hU)).trans ((if_neg (Bool.eq_false_iff.1 hC)).trans ?_)
    rw [hbad]
    rfl
  unfold State.readCam
  dsimp only
  rw [hread]

theorem State.readCamRange_good {s : State} (hbad : s.bad = []) (hU : s.injArmed 0x07F 1 = false) (hC : s.injArmed 0x07F 0 = false) (a n : Nat) :
    s.readCamRange a n = (false, s) := by
  unfold State.readCamRange
  dsimp only
  refine List.foldl_fixed' (fun g => ?_) _
  rw [State.readCam_good hbad hU hC]
  rfl

/-- A copy that reads well is valid by its header and its check (R180). -/
theorem State.scanCopy_good {s : State} {t j : Nat} (hon : s.domOn (56 + s.copyBank t j) = true) (hbad : s.bad = []) (hC : s.injArmed 0x07F 0 = false)
    (hU : s.injArmed 0x07F 1 = false) (g : Nat) :
    let h := s.bytes (s.copyBase t j) 16
    (s.scanCopy t j).1 = some g ↔ g = leNat (h.take 4) ∧ leNat ((h.drop 4).take 2) = s.tblPoints t ∧ leNat ((h.drop 6).take 2) = t ∧
      leNat ((h.drop 8).take 4) = crc32c (s.bytes (s.copyBase t j + 16) (12 * s.tblPoints t)) := by
  intro h
  have hscan : s.scanCopy t j = s.copyValid t (s.copyBase t j) (false, s) := by
    unfold State.scanCopy
    rw [if_neg (by simp [hon]), State.readCamRange_good hbad hU hC]
  have hvalid : (s.copyValid t (s.copyBase t j) (false, s)).1 = if decide (leNat ((h.drop 4).take 2) = s.tblPoints t) && decide (leNat ((h.drop 6).take 2) = t) &&
      decide (leNat ((h.drop 8).take 4) = crc32c (s.bytes (s.copyBase t j + 16) (12 * s.tblPoints t))) then some (leNat (h.take 4)) else none := rfl
  rw [hscan, hvalid]
  split
  · next hok =>
    simp only [Bool.and_eq_true, decide_eq_true_eq] at hok
    obtain ⟨⟨hpoints, hid⟩, hcrc⟩ := hok
    exact ⟨fun hg => ⟨(Option.some.inj hg).symm, hpoints, hid, hcrc⟩, fun hg => congrArg some hg.1.symm⟩
  · next hnot => exact ⟨fun hg => (nomatch hg), fun hg => absurd (by simpa [and_assoc] using hg.2) hnot⟩

/-- The later of two generations, which wrap (R180). -/
def newer (y x : Nat × Nat) : Nat × Nat := if 0 < signed (wrap ((x.2 : Int) - y.2) 32) 32 then x else y

/-- Among generations within half their range the later one is the higher. -/
theorem newer_ge {y x : Nat × Nat} (hy : y.2 < 2 ^ 31) (hx : x.2 < 2 ^ 31) : y.2 ≤ (newer y x).2 ∧ x.2 ≤ (newer y x).2 := by
  have hsigned : signed (wrap ((x.2 : Int) - y.2) 32) 32 = (x.2 : Int) - y.2 := signed_wrap (by decide) (inSigned_iff.2 ⟨by omega, by omega⟩)
  unfold newer
  rw [hsigned]
  split <;> omega

theorem newer_mem (y x : Nat × Nat) : newer y x = x ∨ newer y x = y := by
  unfold newer
  split
  · exact .inl rfl
  · exact .inr rfl

/-- The latest of the valid copies is one of them, and with generations within half their range the highest (R180). -/
theorem foldl_newer (l : List (Nat × Nat)) (y : Nat × Nat) :
    l.foldl newer y ∈ y :: l ∧ ((∀ z ∈ y :: l, z.2 < 2 ^ 31) → ∀ z ∈ y :: l, z.2 ≤ (l.foldl newer y).2) := by
  induction l generalizing y with
  | nil => simp
  | cons x l ih =>
    obtain ⟨hmem, hmax⟩ := ih (newer y x)
    have hpick := newer_mem y x
    refine ⟨?_, fun hall => ?_⟩
    · rw [List.foldl_cons]
      rcases List.mem_cons.1 hmem with h | h
      · rw [h]
        rcases hpick with h | h <;> simp [h]
      · exact List.mem_cons_of_mem _ (List.mem_cons_of_mem _ h)
    · have hy := hall y List.mem_cons_self
      have hx := hall x (List.mem_cons_of_mem _ List.mem_cons_self)
      have hmax := hmax fun z hz => by
        rcases List.mem_cons.1 hz with rfl | hz
        · rcases hpick with h | h <;> rwa [h]
        · exact hall z (List.mem_cons_of_mem _ (List.mem_cons_of_mem _ hz))
      obtain ⟨hgey, hgex⟩ := newer_ge hy hx
      have hbest := hmax _ List.mem_cons_self
      intro z hz
      rw [List.foldl_cons]
      rcases List.mem_cons.1 hz with rfl | hz
      · exact hgey.trans hbest
      · rcases List.mem_cons.1 hz with rfl | hz
        · exact hgex.trans hbest
        · exact hmax z (List.mem_cons_of_mem _ hz)

/-- A fold over an optional best, which the first element makes a real one. -/
theorem foldl_some {α : Type} {f : Option α → α → Option α} {g : α → α → α} (hf : ∀ y x, f (some y) x = some (g y x)) (l : List α) (y : α) :
    l.foldl f (some y) = some (l.foldl g y) := by
  induction l generalizing y with
  | nil => rfl
  | cons x l ih => rw [List.foldl_cons, List.foldl_cons, hf, ih]

/-- The valid copies that the scan of a table finds, with their generations, and the state after its reads (R180). -/
def State.scanned (s : State) (t : Nat) : List (Nat × Nat) × State :=
  (List.range (s.tblSpan t)).foldl (fun (q : List (Nat × Nat) × State) j => (q.1 ++ ((q.2.scanCopy t j).1.toList.map fun g => (j, g)), (q.2.scanCopy t j).2)) ([], s)

/-- The state after the reads of a scan, which no longer waits. -/
def State.scanDone (s : State) (t : Nat) : State := (s.scanned t).2.setTable t { (s.scanned t).2.table t with scan := false }

theorem camTableScan_cases (t : Fin 1024) (s : State) :
    let changing := ∃ j, j < s.tblSpan t ∧ (s.dom (56 + s.copyBank t j)).going ≠ none
    (s.domOn 3 = false ∨ (s.table t).scan = false ∨ changing → exec (.camTableScan t) s = .next s) ∧
    (s.domOn 3 = true → (s.table t).scan = true → ¬ changing →
      let q := s.scanned t
      let u := s.scanDone t
      let rises := ∀ x ∈ q.1, u.ordered (u.copyBase t x.1) (u.tblPoints t) = true
      (q.1 = [] → exec (.camTableScan t) s = .next ((u.disableTable t).wr (tablePage t) R.CAM_TBL_STAT_REFUSE 2)) ∧
      (q.1 ≠ [] → ¬ rises → exec (.camTableScan t) s = .next ((u.disableTable t).wr (tablePage t) R.CAM_TBL_STAT_REFUSE 3)) ∧
      (q.1 ≠ [] → rises → ∃ x ∈ q.1, ((∀ y ∈ q.1, y.2 < 2 ^ 31) → ∀ y ∈ q.1, y.2 ≤ x.2) ∧
        exec (.camTableScan t) s = .next ((u.wr (tablePage t) R.CAM_TBL_STAT_LIVE x.1).wr (tablePage t) R.CAM_TBL_A_EN 1))) := by
  intro changing
  have hgoing : ((List.range (s.tblSpan t)).any fun j => (s.dom (56 + s.copyBank t j)).going.isSome) = true ↔ changing := by
    simp [changing, Option.isSome_iff_ne_none]
  have hexec : exec (.camTableScan t) s = .next (s.tableScan t) := rfl
  rw [hexec]
  unfold State.tableScan
  refine ⟨fun hidle => congrArg _ (if_pos ?_), fun hon hscan hstill => ?_⟩
  · rw [Bool.or_eq_true, Bool.or_eq_true, hgoing]
    simpa [or_assoc] using hidle
  · have hgo : ¬ ((!s.domOn 3 || !(s.table t).scan || (List.range (s.tblSpan t)).any fun j => (s.dom (56 + s.copyBank t j)).going.isSome) = true) := by
      rw [Bool.or_eq_true, Bool.or_eq_true, hgoing]
      simp [hon, hscan, hstill]
    rw [if_neg hgo]
    unfold State.scanDone State.scanned
    dsimp only
    generalize List.foldl _ (([] : List (Nat × Nat)), s) _ = q
    obtain ⟨copies, v⟩ := q
    dsimp only
    cases copies with
    | nil => exact ⟨fun _ => rfl, fun h => absurd rfl h, fun h => absurd rfl h⟩
    | cons x l =>
      obtain ⟨hmem, hmax⟩ := foldl_newer l x
      rw [List.foldl_cons]
      dsimp only
      rw [foldl_some (g := newer) fun y z => (apply_ite some ..).symm]
      generalize l.foldl newer x = b at hmem hmax ⊢
      obtain ⟨j, g⟩ := b
      dsimp only
      refine ⟨fun h => absurd h (List.cons_ne_nil x l), fun _ hnot => congrArg _ (if_neg ?_), fun _ hall => ⟨(j, g), hmem, hmax, congrArg _ (if_pos ?_)⟩⟩
      · rwa [List.all_eq_true]
      · rwa [List.all_eq_true]

/-! ### What a pass leaves (R182, R188) -/

/-- A state with the table descriptors of another, and VMRAM as there. -/
structure State.SameTables (s t : State) : Prop where
  reg   : ∀ a, 0x14000000 ≤ a → t.reg a = s.reg a
  vmram : t.vmramLow = s.vmramLow

theorem State.SameTables.refl (s : State) : s.SameTables s := ⟨fun _ _ => rfl, rfl⟩

theorem State.SameTables.trans {s t u : State} (h : s.SameTables t) (h' : t.SameTables u) : s.SameTables u :=
  ⟨fun a ha => (h'.reg a ha).trans (h.reg a ha), h'.vmram.trans h.vmram⟩

theorem State.SameTables.of_regs {s t : State} (h : t.regs = s.regs) (hv : t.vmramLow = s.vmramLow) : s.SameTables t := ⟨fun a _ => State.reg_of_regs h a, hv⟩

theorem State.SameTables.ite {s t u : State} {c : Prop} [Decidable c] (ht : s.SameTables t) (hu : s.SameTables u) : s.SameTables (if c then t else u) := by
  split <;> assumption

theorem State.SameTables.foldl {α : Type} {f : State → α → State} (hf : ∀ (s : State) (x : α), s.SameTables (f s x)) :
    ∀ (l : List α) (s : State), s.SameTables (l.foldl f s)
  | [], s => .refl s
  | x :: l, s => (hf s x).trans (foldl hf l (f s x))

theorem State.SameTables.wr (s : State) {p : Nat} {f : Fld} (v : Nat) {i : Nat} (h : f.addr p i < 0x14000000) : s.SameTables (s.wr p f v i) :=
  ⟨fun a ha => State.reg_wr_ne s p f v i (by omega), State.wr_vmramLow ..⟩

theorem State.SameTables.capture (s : State) {p : Nat} {valid ovr : Fld} (hv : valid.addr p 0 < 0x14000000) (ho : ovr.addr p 0 < 0x14000000) :
    s.SameTables (s.capture p valid ovr) := .trans (.ite (.wr s 1 ho) (.refl s)) (.wr _ 1 hv)

theorem State.SameTables.eccRead (s : State) {u : EccUnit} (hce : u.ce.addr u.page 0 < 0x14000000) (hue : u.ue.addr u.page 0 < 0x14000000)
    (hinj : R.PG_INJ_INJ.addr u.page 0 < 0x14000000) (a : Nat) : s.SameTables (s.eccRead u a).2.2 := by
  unfold State.eccRead
  split
  · exact .trans (.wr s _ hinj) (.wr _ _ hue)
  · split
    · exact .trans (.wr s _ hinj) (.wr _ _ hce)
    · split
      · exact .wr s _ hue
      · exact .wr s _ hce
      · exact .refl s

theorem State.SameTables.readCam (s : State) (a : Nat) : s.SameTables (s.readCam a).2 := by
  have hcap (t : State) (n k : Nat) :
      t.SameTables (((t.capture 0x07F R.CAM_CAP_VALID R.CAM_CAP_OVR).wr 0x07F R.CAM_CAP_GRANULE n).wr 0x07F R.CAM_CAP_UE k) :=
    .trans (.trans (.capture t (by decide) (by decide)) (.wr _ n (by decide))) (.wr _ k (by decide))
  have hevt (t : State) : t.SameTables (t.pgEvt 0x07F 0) :=
    ⟨fun b hb => t.reg_pgEvt_cam (Nat.ne_of_lt (Nat.lt_of_lt_of_le (by decide) hb)), (State.pgEvt_mram ..).2.2⟩
  have hread := State.SameTables.eccRead s (u := camEcc) (by decide) (by decide) (by decide) (0x4000000 + 16 * (a % 0x1000000 / 16))
  unfold State.readCam
  dsimp only
  split
  · exact .trans (.trans hread (hcap _ _ 1)) (hevt _)
  · exact .ite (.trans hread (hcap _ _ 0)) hread
  · exact hread

theorem State.SameTables.readCamRange (s : State) (a n : Nat) : s.SameTables (s.readCamRange a n).2 := by
  unfold State.readCamRange
  dsimp only
  generalize List.map _ _ = gs
  have hgo : ∀ (l : List Nat) (q : Bool × State), s.SameTables q.2 →
      s.SameTables (l.foldl (fun (q : Bool × State) g => (q.1 || decide ((q.2.readCam (g * 16)).1 = .uncorrectable), (q.2.readCam (g * 16)).2)) q).2 := by
    intro l
    induction l with
    | nil => exact fun _ h => h
    | cons g l ih => exact fun q h => ih _ (.trans h (.readCam q.2 _))
  exact hgo gs (false, s) (.refl s)

theorem State.SameTables.readProg (s : State) {c : Nat} (hc : c < 16) (a : Nat) : s.SameTables (s.readProg c a).2 := by
  have hpage (f : Fld) (hf : f.off < 4096) (hs : f.stride = 0) : f.addr (casPage c) 0 < 0x14000000 := by
    simp only [Fld.addr, casPage, hs]
    omega
  have hread := State.SameTables.eccRead s (u := progEcc c) (hpage R.CAS_PM_ERR_CE (by decide) rfl) (hpage R.CAS_PM_ERR_UE (by decide) rfl)
    (hpage R.PG_INJ_INJ (by decide) rfl)
    (progBase c + a % 0x80000 / 16 * 16)
  unfold State.readProg
  dsimp only
  split
  · exact .trans (.trans (.trans hread (.capture _ (hpage _ (by decide) rfl) (hpage _ (by decide) rfl))) (.wr _ _ (hpage _ (by decide) rfl)))
      (.wr _ 0 (hpage _ (by decide) rfl))
  · exact hread

theorem windowOf_prog_lt {g c a : Nat} (h : windowOf g = .prog c a) : c < 16 := by
  unfold windowOf at h
  split_ifs at h
  cases h
  omega

theorem windowOf_cam_lt {g b a : Nat} (h : windowOf g = .cam b a) : b < 8 := by
  unfold windowOf at h
  split_ifs at h
  cases h
  omega

theorem State.SameTables.mramRead (s : State) (g : Nat) : s.SameTables (s.mramRead g).2 := by
  unfold State.mramRead
  split
  · next c a hwin => exact .readProg s (windowOf_prog_lt hwin) a
  · exact .readCam s _
  · exact .refl s

theorem State.SameTables.camWear (s : State) {b : Nat} (hb : b < 8) (n : Nat) : s.SameTables (s.camWear b n) := by
  refine .trans (t := { s with camWrites := put s.camWrites b (lookD s.camWrites b 0 + n) }) (.of_regs rfl rfl) (.wr _ _ ?_)
  simp only [Fld.addr, R.CAM_WEAR_WRITES]
  omega

theorem State.SameTables.granuleWrite (s : State) (g : Nat) (xs : List (Nat × Byte)) : s.SameTables (s.granuleWrite g xs) := by
  have hread : s.SameTables (if 16 ≤ xs.length then ((.good, s) : Ecc × State) else s.mramRead g).2 := by
    split
    · exact .refl s
    · exact .mramRead s g
  have hput (t : State) : t.SameTables (xs.foldl (fun (t : State) x => t.setByte x.1 x.2) t) :=
    .foldl (fun u x => .of_regs (t := u.setByte x.1 x.2) rfl rfl) xs t
  unfold State.granuleWrite
  generalize (if 16 ≤ xs.length then ((.good, s) : Ecc × State) else s.mramRead g) = r at hread ⊢
  dsimp only
  have hfix (t : State) : t.SameTables (t.eccFix g) := .of_regs rfl rfl
  have hwritten := hread.trans ((hput r.2).trans (.ite (c := r.1 = .uncorrectable) (.refl _) (hfix _)))
  refine .ite hread ?_
  split
  · next b a hwin => exact hwritten.trans (.camWear _ (windowOf_cam_lt hwin) 1)
  · exact hwritten

theorem State.SameTables.mramWrite (s : State) (xs : List (Nat × Byte)) : s.SameTables (s.mramWrite xs) := .foldl (fun t g => .granuleWrite t g _) _ s

theorem State.SameTables.passWrite (s : State) (g : Nat) (bs : List Byte) (bad : Bool) : s.SameTables (s.passWrite g bs bad) := by
  unfold State.passWrite
  refine .ite ?_ (.ite (.mramWrite s _) (.of_regs rfl rfl))
  have hfix : s.SameTables (s.eccFix g) := .of_regs rfl rfl
  split
  · next b a hwin => exact hfix.trans (.camWear _ (windowOf_cam_lt hwin) 1)
  · exact hfix

/-- A state that differs in no byte outside a range, and keeps the tables. -/
structure State.WritesIn (s : State) (lo hi : Nat) (t : State) : Prop where
  ok      : t.Ok
  tables  : s.SameTables t
  outside : ∀ a, a < lo ∨ hi ≤ a → t.byte a = s.byte a

theorem State.WritesIn.refl {s : State} (hs : s.Ok) (lo hi : Nat) : s.WritesIn lo hi s := ⟨hs, .refl s, fun _ _ => rfl⟩

theorem State.WritesIn.of_mem {s t : State} (hs : s.Ok) (h : t.mem = s.mem) (ht : s.SameTables t) (lo hi : Nat) : s.WritesIn lo hi t :=
  ⟨hs.of_mem h, ht, fun a _ => State.byte_of_mem h a⟩

theorem State.WritesIn.append {s t u : State} {lo mid hi : Nat} (h : s.WritesIn lo mid t) (h' : t.WritesIn mid hi u) (hlo : lo ≤ mid) (hhi : mid ≤ hi) :
    s.WritesIn lo hi u :=
  ⟨h'.ok, h.tables.trans h'.tables, fun a ha => (h'.outside a (by omega)).trans (h.outside a (by omega))⟩

/-- The bytes of a range that nothing is written in. -/
theorem State.WritesIn.bytes {s t : State} {lo hi : Nat} (h : s.WritesIn lo hi t) {a n : Nat} (ha : a + n ≤ lo ∨ hi ≤ a) : t.bytes a n = s.bytes a n :=
  List.map_congr_left fun i hi' => h.outside _ (by have := List.mem_range.1 hi'; omega)

/-- A pass puts the merged data into a granule of the target copy (R182). -/
theorem State.passWrite_bytes {s : State} (hs : s.Ok) (g : Nat) {bs : List Byte} (hbs : bs.length = 16) (bad : Bool) :
    s.WritesIn g (g + 16) (s.passWrite g bs bad) ∧ (s.mramWritable = true → (s.passWrite g bs bad).bytes g 16 = bs) := by
  have hkeys : ((List.range 16).map fun k => (g + k, bs.getD k 0)).map (·.1) = (List.range 16).map (g + ·) := by
    rw [List.map_map]
    rfl
  have hnodup : (((List.range 16).map fun k => (g + k, bs.getD k 0)).map (·.1)).Nodup := by
    rw [hkeys]
    exact List.nodup_range.map fun _ _ h => Nat.add_left_cancel h
  have hwhole {t : State} (h : ∀ x ∈ (List.range 16).map fun k => (g + k, bs.getD k 0), t.byte x.1 = x.2) : t.bytes g 16 = bs := by
    have hmap : t.bytes g 16 = (List.range 16).map fun k => bs.getD k 0 := List.map_congr_left fun k hk => h _ (List.mem_map_of_mem hk)
    refine hmap.trans (List.ext_getElem (by simp [hbs]) fun k _ hk => ?_)
    simp [hk]
  obtain ⟨hin, hout⟩ := State.byte_mramWrite hs hnodup
  have hbytes : (∀ a, a < g ∨ g + 16 ≤ a → (s.passWrite g bs bad).byte a = s.byte a) ∧
      (s.mramWritable = true → (s.passWrite g bs bad).bytes g 16 = bs) := by
    unfold State.passWrite State.mramStore
    dsimp only
    split
    · next hsame =>
      rw [Bool.and_eq_true, List.all_eq_true] at hsame
      have hmem : ∀ t : State, t.mem = s.mem →
          (∀ a, a < g ∨ g + 16 ≤ a → t.byte a = s.byte a) ∧ (s.mramWritable = true → t.bytes g 16 = bs) := fun t ht =>
        ⟨fun a _ => State.byte_of_mem ht a, fun _ => hwhole fun x hx => (State.byte_of_mem ht _).trans (of_decide_eq_true (hsame.2 x hx))⟩
      refine hmem _ ?_
      split <;> simp
    · split
      · refine ⟨fun a ha => hout a ?_, fun _ => hwhole hin⟩
        rw [hkeys, List.mem_map]
        rintro ⟨k, hk, rfl⟩
        have := List.mem_range.1 hk
        omega
      · next hw => exact ⟨fun a _ => rfl, fun h => absurd h hw⟩
  exact ⟨⟨State.passWrite_wf s g bs bad hs, .passWrite s g bs bad, hbytes.1⟩, hbytes.2⟩

theorem State.SameTables.rd {s t : State} (h : s.SameTables t) (k : Nat) (f : Fld) : t.rd (tablePage k) f = s.rd (tablePage k) f :=
  congrArg (fun w : Reg => bits w.toNat _ _) (h.reg _ (by unfold Fld.addr tablePage; omega))

theorem State.SameTables.copyBase {s t : State} (h : s.SameTables t) (k j : Nat) : t.copyBase k j = s.copyBase k j := by
  simp only [State.copyBase, State.copyBank, State.tblFirst, State.tblOfs, h.rd]

theorem State.SameTables.liveBase {s t : State} (h : s.SameTables t) (k : Nat) : t.liveBase k = s.liveBase k := by
  simp only [State.liveBase, State.liveCopy, h.copyBase, h.rd]

theorem State.mergedBytes_length (s : State) (t g : Nat) (fixed : List Shadow) : (s.mergedBytes t g fixed).length = 16 := by
  simp [State.mergedBytes]

/-- The merged data of a granule depends on the live copy's bytes there only (R182). -/
theorem State.SameTables.mergedBytes {s u : State} (h : s.SameTables u) {t g : Nat}
    (hlive : ∀ k, k < 16 → u.byte (s.liveBase t + (16 * g + k)) = s.byte (s.liveBase t + (16 * g + k))) (fixed : List Shadow) : u.mergedBytes t g fixed = s.mergedBytes t g fixed := by
  unfold State.mergedBytes
  refine List.map_congr_left fun k hk => ?_
  dsimp only
  rw [h.liveBase, hlive k (List.mem_range.1 hk)]

/-- A granule of the target copy in a pass: nothing is written outside it, and any but the header takes the merged data (R182). -/
theorem State.mergeGranule_bytes {s : State} (hs : s.Ok) (t tgt : Nat) (fixed : List Shadow) (g : Nat) :
    s.WritesIn (tgt + 16 * g) (tgt + 16 * g + 16) (s.mergeGranule t tgt fixed g) ∧
      (s.mramWritable = true → g ≠ 0 → (s.mergeGranule t tgt fixed g).bytes (tgt + 16 * g) 16 = s.mergedBytes t g fixed) := by
  have hmem := (State.readCam_keeps s (tgt + 16 * g)).2.2
  have htables := State.SameTables.readCam s (tgt + 16 * g)
  have hmerged := htables.mergedBytes (t := t) (g := g) (fun k _ => State.byte_of_mem hmem _) fixed
  obtain ⟨hin, hbytes⟩ := State.passWrite_bytes (hs.of_mem hmem) (tgt + 16 * g) ((s.readCam (tgt + 16 * g)).2.mergedBytes_length t g fixed)
    (decide ((s.readCam (tgt + 16 * g)).1 = .uncorrectable))
  unfold State.mergeGranule
  dsimp only
  split
  · next hg => exact ⟨.of_mem hs hmem htables _ _, fun _ h => absurd hg h⟩
  · refine ⟨⟨hin.ok, htables.trans hin.tables, fun a ha => (hin.outside a ha).trans (State.byte_of_mem hmem a)⟩, fun hw _ => (hbytes ?_).trans hmerged⟩
    rwa [State.mramWritable, htables.vmram]

/-- A line of a pass writes its two granules of the target copy only (R182). -/
theorem State.mergeLine_writes {s : State} (hs : s.Ok) (t tgt : Nat) (fixed : List Shadow) (l : Nat) :
    s.WritesIn (tgt + 32 * l) (tgt + 32 * (l + 1)) (s.mergeLine t tgt fixed l).2 := by
  have hmem := (State.readCamRange_keeps s (s.liveBase t + 32 * l) 32).2.2
  have hread : s.WritesIn (tgt + 32 * l) (tgt + 32 * l) (s.readCamRange (s.liveBase t + 32 * l) 32).2 := .of_mem hs hmem (.readCamRange s _ _) _ _
  unfold State.mergeLine
  dsimp only
  split
  · exact .of_mem hs hmem hread.tables _ _
  · obtain ⟨h1, -⟩ := State.mergeGranule_bytes hread.ok t tgt fixed (2 * l)
    obtain ⟨h2, -⟩ := State.mergeGranule_bytes h1.ok t tgt fixed (2 * l + 1)
    have e0 : tgt + 16 * (2 * l) = tgt + 32 * l := by omega
    have e1 : tgt + 16 * (2 * l + 1) = tgt + 32 * l + 16 := by omega
    have e2 : tgt + 32 * l + 16 + 16 = tgt + 32 * (l + 1) := by omega
    rw [e0] at h1
    rw [e1, e2] at h2
    exact hread.append (h1.append h2 (by omega) (by omega)) (by omega) (by omega)

/-- The live copy lies apart from the first n bytes of the target copy. -/
def State.LiveApart (s : State) (t tgt n : Nat) : Prop := s.liveBase t + n ≤ tgt ∨ tgt + n ≤ s.liveBase t

/-- Where the live line reads well, its two granules of the target copy take the merged data (R182). -/
theorem State.mergeLine_bytes {s : State} (hs : s.Ok) (hw : s.mramWritable = true) {t tgt : Nat} {fixed : List Shadow} {l n : Nat} (hn : 32 * (l + 1) ≤ n)
    (hapart : s.LiveApart t tgt n) (hread : (s.mergeLine t tgt fixed l).1 = true) {j : Nat} (hj : j = 2 * l ∨ j = 2 * l + 1) (h0 : j ≠ 0) :
    (s.mergeLine t tgt fixed l).2.bytes (tgt + 16 * j) 16 = s.mergedBytes t j fixed := by
  have hmem := (State.readCamRange_keeps s (s.liveBase t + 32 * l) 32).2.2
  have htables := State.SameTables.readCamRange s (s.liveBase t + 32 * l) 32
  have hgood : (s.readCamRange (s.liveBase t + 32 * l) 32).1 = false := by simpa [State.mergeLine] using hread
  have he : (s.mergeLine t tgt fixed l).2 =
      ((s.readCamRange (s.liveBase t + 32 * l) 32).2.mergeGranule t tgt fixed (2 * l)).mergeGranule t tgt fixed (2 * l + 1) :=
    if_neg (by simp [hgood])
  rw [he]
  generalize (s.readCamRange (s.liveBase t + 32 * l) 32).2 = r at hmem htables
  obtain ⟨h1, hb1⟩ := State.mergeGranule_bytes (hs.of_mem hmem) t tgt fixed (2 * l)
  obtain ⟨h2, hb2⟩ := State.mergeGranule_bytes h1.ok t tgt fixed (2 * l + 1)
  have hwr : r.mramWritable = true := by rwa [State.mramWritable, htables.vmram]
  rcases hj with rfl | rfl
  · have hm := htables.mergedBytes (t := t) (g := 2 * l) (fun k _ => State.byte_of_mem hmem _) fixed
    exact (h2.bytes (by omega)).trans ((hb1 hwr h0).trans hm)
  · have hsame := htables.trans h1.tables
    have hw1 : (r.mergeGranule t tgt fixed (2 * l)).mramWritable = true := by rwa [State.mramWritable, hsame.vmram]
    refine (hb2 hw1 h0).trans (hsame.mergedBytes (fun k hk => (h1.outside _ ?_).trans (State.byte_of_mem hmem _)) fixed)
    unfold State.LiveApart at hapart
    omega

/-- The lines of a pass, one of them after another as long as they read well (R182). -/
theorem State.mergeGo_succ (s : State) (t tgt : Nat) (fixed : List Shadow) (m l : Nat) : s.mergeGo t tgt fixed (m + 1) l =
    if (s.mergeLine t tgt fixed l).1 then (s.mergeLine t tgt fixed l).2.mergeGo t tgt fixed m (l + 1) else s.mergeLine t tgt fixed l := rfl

theorem State.mergeGo_writes (t tgt : Nat) (fixed : List Shadow) (m l : Nat) {s : State} (hs : s.Ok) :
    s.WritesIn (tgt + 32 * l) (tgt + 32 * (l + m)) (s.mergeGo t tgt fixed m l).2 := by
  induction m generalizing l s with
  | zero => exact .refl hs _ _
  | succ m ih =>
    have hline := State.mergeLine_writes hs t tgt fixed l
    rw [State.mergeGo_succ]
    split
    · have hrest := ih (l + 1) hline.ok
      rw [Nat.add_assoc, Nat.add_comm 1 m] at hrest
      exact hline.append hrest (by omega) (by omega)
    · exact hline.append (.refl hline.ok _ _) (by omega) (by omega)

/-- A pass that is not stopped leaves in each granule of its lines, but the header, the merged data of the state where it began (R182). -/
theorem State.mergeGo_bytes {t tgt n : Nat} {fixed : List Shadow} {m l : Nat} {s : State} (hs : s.Ok) (hw : s.mramWritable = true) (hn : 32 * (l + m) ≤ n)
    (hapart : s.LiveApart t tgt n) (hdone : (s.mergeGo t tgt fixed m l).1 = true) {j : Nat} (hlo : 2 * l ≤ j) (hhi : j < 2 * (l + m)) (h0 : j ≠ 0) :
    (s.mergeGo t tgt fixed m l).2.bytes (tgt + 16 * j) 16 = s.mergedBytes t j fixed := by
  induction m generalizing l s with
  | zero => omega
  | succ m ih =>
    have hline := State.mergeLine_writes hs t tgt fixed l
    have hbytes := State.mergeLine_bytes (fixed := fixed) (l := l) hs hw (by omega) hapart
    rw [State.mergeGo_succ] at hdone ⊢
    by_cases hread : (s.mergeLine t tgt fixed l).1 = true
    · rw [if_pos hread] at hdone ⊢
      by_cases hj : j < 2 * (l + 1)
      · exact ((State.mergeGo_writes t tgt fixed m (l + 1) hline.ok).bytes (by omega)).trans (hbytes hread (by omega) h0)
      · have hw' : (s.mergeLine t tgt fixed l).2.mramWritable = true := by rwa [State.mramWritable, hline.tables.vmram]
        have hapart' : (s.mergeLine t tgt fixed l).2.LiveApart t tgt n := by rwa [State.LiveApart, hline.tables.liveBase]
        refine (ih hline.ok hw' (by omega) hapart' hdone (by omega) (by omega)).trans ?_
        refine hline.tables.mergedBytes (fun k hk => hline.outside _ ?_) fixed
        unfold State.LiveApart at hapart
        omega
    · rw [if_neg hread] at hdone
      exact absurd hdone hread

/-- Copies in two banks lie apart, as far as their banks reach (R178). -/
theorem camBase_apart {b b' ofs n : Nat} (hb : b ≠ b') (hn : ofs + n ≤ 0x200000) :
    camBase b + ofs + n ≤ camBase b' + ofs ∨ camBase b' + ofs + n ≤ camBase b + ofs := by
  unfold camBase
  omega

/-- A pass that is not stopped leaves the merged points behind the header of the target copy (R182). -/
theorem State.mergeGo_merges {s : State} (hs : s.Ok) (hw : s.mramWritable = true) {t : Nat} {fixed : List Shadow}
    (hbank : s.copyBank t (s.targetCopy t) ≠ s.copyBank t (s.liveCopy t)) (hfits : s.tblOfs t + regionBytes (s.tblPoints t) ≤ 0x200000)
    (hdone : (s.mergeGo t (s.copyBase t (s.targetCopy t)) fixed (regionBytes (s.tblPoints t) / 32) 0).1 = true) {k : Nat}
    (hk : k < regionBytes (s.tblPoints t) / 16 - 1) :
    (s.mergeGo t (s.copyBase t (s.targetCopy t)) fixed (regionBytes (s.tblPoints t) / 32) 0).2.bytes (s.copyBase t (s.targetCopy t) + 16 * (k + 1)) 16 =
      s.mergedBytes t (k + 1) fixed := by
  have hlines : ∃ q, regionBytes (s.tblPoints t) = 32 * q := ⟨_, Nat.mul_comm _ 32⟩
  obtain ⟨q, hq⟩ := hlines
  refine State.mergeGo_bytes (n := regionBytes (s.tblPoints t)) hs hw (by omega) ?_ hdone (by omega) (by omega) (by omega)
  exact camBase_apart (Ne.symm hbank) hfits

/-! ### The ends of a pass (R182, R188) -/

/-- COMMIT_PASS, by what its merge and the merged masters say. -/
theorem commitPass_cases (t : Fin 1024) (s : State) :
    (s.domOn 3 = false ∨ s.mramWritable = false ∨ (s.table t).pass ≠ .running → exec (.commitPass t) s = .next s) ∧
    (s.domOn 3 = true → s.mramWritable = true → (s.table t).pass = .running →
      let p := s.tblPoints t
      let n := regionBytes p
      let tgt := s.copyBase t (s.targetCopy t)
      let u := (s.mergeGo t tgt (s.fixedFor t) (n / 32) 0).2
      let merged := (List.range (n / 16 - 1)).flatMap fun k => u.mergedBytes t (k + 1) (s.fixedFor t)
      let masters := (List.range p).map fun i => leNat ((merged.drop (12 * i)).take 4) % 2 ^ 28
      let rises := (masters.zip masters.tail).all (fun x => decide (x.1 < x.2)) = true
      let ends := fun (x : State) (pass : Pass) => x.setTable t { s.table t with pass := pass }
      ((s.mergeGo t tgt (s.fixedFor t) (n / 32) 0).1 = false → exec (.commitPass t) s = .next ((ends u (.ended 3)).bump 0x07F R.CAM_COMMIT_ABORT)) ∧
      ((s.mergeGo t tgt (s.fixedFor t) (n / 32) 0).1 = true →
        (u.injArmed 0x071 0 = true → exec (.commitPass t) s = .next ((ends (u.injTake 0x071 0) (.ended 2)).bump 0x071 R.CAM_FAULT_ORDER)) ∧
        (u.injArmed 0x071 0 = false → ¬ rises → exec (.commitPass t) s = .next ((ends u (.ended 2)).bump 0x071 R.CAM_FAULT_ORDER)) ∧
        (u.injArmed 0x071 0 = false → rises →
          let head := leBytes 4 (leNat (u.bytes (u.liveBase t) 4) + 1) ++ leBytes 2 p ++ leBytes 2 t ++ leBytes 4 (crc32c (merged.take (12 * p))) ++ leBytes 4 0
          exec (.commitPass t) s = .next ((u.passWrite tgt head (decide (look u.bad tgt = some .uncorrectable))).setTable t
            { s.table t with pass := .complete, target := s.targetCopy t })))) := by
  have hexec : exec (.commitPass t) s = .next (s.commitPass t) := rfl
  rw [hexec]
  unfold State.commitPass
  refine ⟨fun hidle => congrArg _ (if_pos ?_), fun hon hw hrun => ?_⟩
  · simpa [or_assoc] using hidle
  · intro p n tgt u merged masters rises ends
    have hgo : ¬ ((!s.domOn 3 || !s.mramWritable || decide ((s.table t).pass ≠ .running)) = true) := by simp [hon, hw, hrun]
    have hnotinj (h : u.injArmed 0x071 0 = false) : ¬ u.injArmed 0x071 0 = true := Bool.eq_false_iff.1 h
    rw [if_neg hgo]
    refine ⟨fun hstop => congrArg _ (if_pos (congrArg not hstop)), fun hok => ?_⟩
    have hdone : ¬ ((!(s.mergeGo t tgt (s.fixedFor t) (n / 32) 0).1) = true) := by simp [hok]
    refine ⟨fun hinj => congrArg _ ((if_neg hdone).trans ?_), fun hinj hnot => congrArg _ ((if_neg hdone).trans ?_),
      fun hinj hrises => congrArg _ ((if_neg hdone).trans (if_neg ?_))⟩
    · refine (if_pos (Bool.or_eq_true_iff.2 (.inl hinj))).trans ?_
      exact congrArg (fun x : State => (ends x (.ended 2)).bump 0x071 R.CAM_FAULT_ORDER) (if_pos hinj)
    · refine (if_pos (Bool.or_eq_true_iff.2 (.inr ?_))).trans ?_
      · exact congrArg not (Bool.eq_false_iff.2 hnot)
      · exact congrArg (fun x : State => (ends x (.ended 2)).bump 0x071 R.CAM_FAULT_ORDER) (if_neg (hnotinj hinj))
    · intro hc
      rcases Bool.or_eq_true_iff.1 hc with h | h
      · exact hnotinj hinj h
      · exact Bool.false_ne_true ((congrArg not hrises).symm.trans h)

/-- Settles O36: the host's commands and the scan by the branches of their writes, and the merged points by an induction over the lines of the pass. -/
theorem tablesAndAxesAreEnabledAfterTheirChecks : Obligations.TablesAndAxesAreEnabledAfterTheirChecks := by
  refine ⟨State.tblRefuse_cases, fun s data hr hon => ?_, fun a data s hr hon => axisEnable_cases a data hr hon,
    fun t j g s hon hbad hC hU => State.scanCopy_good hon hbad hC hU g, camTableScan_cases, fun t s => ?_⟩
  · obtain ⟨hbusy, hrefused, hwaits⟩ := tableEnable_cases data hr hon
    obtain ⟨q, hq, hdisabled, hmem⟩ := tableDisable_disables data hr hon
    have ht : s.rd 0x071 R.CAM_TBL_IDX_IDX < 1024 := s.rd_lt 0x071 R.CAM_TBL_IDX_IDX 0
    refine ⟨hbusy, hrefused, hwaits, q, hq, hdisabled.en, hdisabled.armed, hdisabled.live, hdisabled.shadow, fun f hf => ?_, fun a ha hst htbl => ?_, hmem⟩
    · refine (hdisabled.fields f hf).trans (State.tblFields_rd _ ht _ 0 (List.mem_of_mem_dropLast (l := tblAFields) hf) ?_)
      exact (by decide : ∀ f ∈ [R.CAM_TBL_A_OFS, R.CAM_TBL_A_FIRST, R.CAM_TBL_A_SPAN, R.CAM_TBL_A_CAD], f.lo + f.w ≤ 31) f hf
    · have hard (f : Fld) (hf : f.off < 64) (hs : f.stride = 64) := State.tblFields_ard (s.jrnHost 0x7104C) (s.rd 0x071 R.CAM_TBL_IDX_IDX)
        (setBits data.toNat 31 1 0) (a := a) ha hf hs
      exact hdisabled.axes a ha ((hard R.AX_STATE_STATE (by decide) rfl).symm ▸ hst) ((hard R.AX_BIND_TABLE (by decide) rfl).trans htbl)
  · obtain ⟨hidle, hruns⟩ := commitPass_cases t s
    refine ⟨hidle, fun hon hw hrun => ?_⟩
    obtain ⟨hstop, hdone⟩ := hruns hon hw hrun
    refine ⟨hstop, fun hok => ?_⟩
    obtain ⟨hinj, hnot, hrises⟩ := hdone hok
    exact ⟨hinj, hnot, fun hi h => ⟨hrises hi h, fun hs hbank hfits k hk => State.mergeGo_merges hs hw hbank hfits hok hk⟩⟩

end Sys2Proof.Machine
end

section
/-! PROOFS. Rules of the operations on a channel: what a change of it recalculates, its slots, its credits and its reports (R203 to R208, R211, R213, R226). -/

namespace Sys2Proof.Machine

/-! ### A channel written -/

@[simp] theorem State.setChan_setChan (s : State) (n : Nat) (x y : Chan) : (s.setChan n x).setChan n y = s.setChan n y := by
  simp only [State.setChan, put_put]

theorem State.chan_of_chans {s t : State} (h : t.chans = s.chans) (k : Nat) : t.chan k = s.chan k := congrArg (lookD · k ({} : Chan)) h

theorem State.queue_of_queues {s t : State} (h : t.queues = s.queues) (k : Nat) : t.queue k = s.queue k := congrArg (lookD · k ({} : Queue)) h

theorem State.rd_of_regs {s t : State} (h : t.regs = s.regs) (p : Nat) (f : Fld) (i : Nat) : t.rd p f i = s.rd p f i :=
  congrArg (fun v : Reg => bits v.toNat f.lo f.w) (State.reg_of_regs h _)

theorem State.on_of_regs {s t : State} (h : t.regs = s.regs) (p : Nat) (f : Fld) (i : Nat) : t.on p f i = s.on p f i :=
  congrArg (fun n : Nat => decide (n = 1)) (State.rd_of_regs h p f i)

theorem State.member_of_members {s t : State} {ch : Nat} (h : (t.chan ch).members = (s.chan ch).members) (x : Nat) : t.member ch x = s.member ch x :=
  congrArg (lookD · x ({} : Member)) h

theorem lookD_put {α : Type} (m : Sparse α) (a b : Nat) (v d : α) : lookD (put m a v) b d = if a = b then v else lookD m b d := by
  rw [lookD, look_put]
  split <;> rfl

/-! ### Injection bits (R226, R473) -/

/-- An injection bit that is taken leaves the others. -/
theorem State.injArmed_injTake_ne (s : State) (p : Nat) {b k : Nat} (hb : b < 32) (hne : b ≠ k) : (s.injTake p b).injArmed p k = s.injArmed p k := by
  unfold State.injArmed State.injTake
  rw [State.rd_wr_self _ _ _ _ _ (by decide), Nat.mod_eq_of_lt (setBits_lt (s.rd_lt p R.PG_INJ_INJ 0) hb), bit_setBits, if_neg (by omega)]

/-- A flit that reaches the end of its spoke changes two words of the hub's page at most. -/
theorem State.flitArrives_part {γ : Type} {g : State → γ} (hr : ∀ (t : State) (a : Nat) (v : Reg), a < 0xA1000 → g (t.setReg a v) = g t) (s : State) :
    g s.flitArrives = g s := ite_keeps g ((hr _ _ _ (by decide)).trans (hr _ _ _ (by decide))) rfl

theorem State.rd_flitArrives (s : State) {p : Nat} (h : 0xA1 ≤ p) (f : Fld) : s.flitArrives.rd p f = s.rd p f :=
  State.flitArrives_part (g := fun t => t.rd p f) (fun t a v ha => by
    have hne : a ≠ f.addr p 0 := by
      simp only [Fld.addr]
      omega
    simp only [State.rd, State.reg_setReg_ne t v hne]) s

theorem State.injArmed_flitArrives (s : State) {k : Nat} (h : k ≠ 0) : s.flitArrives.injArmed 0x0A0 k = s.injArmed 0x0A0 k := by
  refine ite_keeps (fun t => t.injArmed 0x0A0 k) ?_ rfl
  refine Eq.trans ?_ (s.injArmed_injTake_ne 0x0A0 (by decide) (Ne.symm h))
  exact congrArg (bit · k) (State.rd_wr_ne _ _ _ _ _ (by decide))

/-! ### The blocked timer (R211) -/

/-- Without the injected stall a change on a channel recalculates its blocked timer only. -/
theorem State.refresh_calm {s : State} (h : s.injArmed 0x0A0 4 = false) (ch : Nat) : ∃ b, s.refresh ch = s.setChan ch { s.chan ch with blocked := b } := by
  unfold State.refresh
  dsimp only
  split
  · exact ⟨_, rfl⟩
  · exact ⟨_, if_neg (Bool.eq_false_iff.1 h)⟩

theorem State.refresh_loose {s : State} {ch : Nat} (h : s.chOrd ch = false) : s.refresh ch = s.setChan ch { s.chan ch with blocked := none } := by
  unfold State.refresh State.blockers
  rw [if_neg (by simp [h])]
  rfl

/-- The report of a stall changes its channel's STALL, registers and raises. -/
theorem State.reportStall_part {γ : Type} {g : State → γ} (hr : ∀ (t : State) (a : Nat) (v : Reg), g (t.setReg a v) = g t)
    (hx : ∀ (t : State) (x : Sparse Nat), g { t with xing := x } = g t) (s : State) (ch x : Nat) :
    g (s.reportStall ch x) = g (s.setChan ch { s.chan ch with stall := true }) := by
  refine (State.pgEvt_part hr hx ..).trans ((hr ..).trans ((hr ..).trans ((hr ..).trans ?_)))
  exact ite_keeps g (hr ..) rfl

/-- A change on a channel recalculates its blocked timer, and an injection may report its stall (R226). -/
theorem State.refresh_chan (s : State) (ch : Nat) :
    (∃ b st, (s.refresh ch).chan ch = { s.chan ch with blocked := b, stall := st }) ∧ ∀ k, k ≠ ch → (s.refresh ch).chan k = s.chan k := by
  unfold State.refresh
  dsimp only
  split
  · exact ⟨⟨none, _, State.setChan_self ..⟩, fun k hk => State.setChan_ne _ _ _ (Ne.symm hk)⟩
  · next m blockers _ =>
    generalize (if blockers.isEmpty then none else _ : Option (Nat × Nat × Nat)) = b
    by_cases hinj : (s.setChan ch { s.chan ch with blocked := b }).injArmed 0x0A0 4 = true
    · rw [if_pos hinj]
      have hreport (k : Nat) := State.reportStall_part (g := fun t => t.chan k) (fun _ _ _ => rfl) (fun _ _ => rfl)
        ((s.setChan ch { s.chan ch with blocked := b }).injTake 0x0A0 4) ch (blockers.headD m.sender)
      have hchan : ((s.setChan ch { s.chan ch with blocked := b }).injTake 0x0A0 4).chan ch = { s.chan ch with blocked := b } := State.setChan_self ..
      refine ⟨⟨b, true, (hreport ch).trans ?_⟩, fun k hk => (hreport k).trans ?_⟩
      · rw [State.setChan_self, hchan]
      · rw [State.setChan_ne _ _ _ (Ne.symm hk)]
        exact State.setChan_ne _ _ _ (Ne.symm hk)
    · rw [if_neg hinj]
      exact ⟨⟨b, _, State.setChan_self ..⟩, fun k hk => State.setChan_ne _ _ _ (Ne.symm hk)⟩

/-- It leaves the parts of the machine beside channels, registers and raises. -/
theorem State.refresh_part {γ : Type} {g : State → γ} (hr : ∀ (t : State) (a : Nat) (v : Reg), g (t.setReg a v) = g t)
    (hx : ∀ (t : State) (x : Sparse Nat), g { t with xing := x } = g t) (hc : ∀ (t : State) (n : Nat) (x : Chan), g (t.setChan n x) = g t) (s : State)
    (ch : Nat) : g (s.refresh ch) = g s := by
  unfold State.refresh
  dsimp only
  split
  · exact hc ..
  · exact ite_keeps g ((State.reportStall_part hr hx ..).trans ((hc ..).trans ((hr ..).trans (hc ..)))) (hc ..)

/-! ### Slots and deliveries (R205, R208) -/

/-- A delivery frees the message's slot. -/
theorem State.deliver_held (s : State) (m : Msg) : ((s.deliver m).chan m.chan).held = (s.chan m.chan).held.erase m := by
  obtain ⟨⟨b, st, h⟩, -⟩ := ((s.freeSlot m).setChan m.chan { (s.freeSlot m).chan m.chan with lastDelivered := some m.stamp, stall := false }).refresh_chan m.chan
  refine (congrArg Chan.held h).trans ?_
  rw [State.setChan_self, State.freeSlot, State.restoreCredit, State.setChan_self, State.unslot, State.setChan_self]

theorem State.deliver_part {γ : Type} {g : State → γ} (hr : ∀ (t : State) (a : Nat) (v : Reg), g (t.setReg a v) = g t)
    (hx : ∀ (t : State) (x : Sparse Nat), g { t with xing := x } = g t) (hc : ∀ (t : State) (n : Nat) (x : Chan), g (t.setChan n x) = g t) (s : State)
    (m : Msg) : g (s.deliver m) = g s :=
  (State.refresh_part hr hx hc ..).trans ((hc ..).trans ((hc ..).trans (hc ..)))

theorem State.deliver_queues (s : State) (m : Msg) : (s.deliver m).queues = s.queues :=
  State.deliver_part (g := State.queues) (fun _ _ _ => rfl) (fun _ _ => rfl) (fun _ _ _ => rfl) s m

/-- A delivery on a loose channel reports nothing. -/
theorem State.deliver_loose {s : State} {m : Msg} (h : s.chOrd m.chan = false) : (s.deliver m).regs = s.regs := by
  unfold State.deliver
  dsimp only
  rw [State.refresh_loose (by exact h)]
  rfl

/-- The message that a loose channel delivers is the first to arrive (R214). -/
theorem State.deliverable_loose {s : State} {ch : Nat} (hen : s.chEn ch = true) (hord : s.chOrd ch = false) : s.deliverable ch = (s.chan ch).held.head? := by
  unfold State.deliverable
  rw [if_neg (by simp [hen]), if_neg (by simp [hord])]

/-! ### Operations on one channel -/

/-- `t` is `s` but for the channel `ch`, which stands there as `c`. -/
structure State.OnlyChan (s : State) (ch : Nat) (c : Chan) (t : State) : Prop where
  chan   : t.chan ch = c
  others : ∀ k, k ≠ ch → t.chan k = s.chan k
  rest   : { t with chans := s.chans } = s

theorem State.OnlyChan.refl (s : State) (ch : Nat) : s.OnlyChan ch (s.chan ch) s := ⟨rfl, fun _ _ => rfl, rfl⟩

theorem State.OnlyChan.setChan {s t : State} {ch : Nat} {c : Chan} (h : s.OnlyChan ch c t) (d : Chan) : s.OnlyChan ch d (t.setChan ch d) :=
  ⟨State.setChan_self .., fun k hk => (State.setChan_ne _ _ _ (Ne.symm hk)).trans (h.others k hk), h.rest⟩

theorem State.OnlyChan.trans {s t u : State} {ch : Nat} {c d : Chan} (h : s.OnlyChan ch c t) (h' : t.OnlyChan ch d u) : s.OnlyChan ch d u :=
  ⟨h'.chan, fun k hk => (h'.others k hk).trans (h.others k hk), (congrArg (fun v : State => { v with chans := s.chans }) h'.rest).trans h.rest⟩

theorem State.OnlyChan.part {γ : Type} {g : State → γ} (hg : ∀ (t : State) (cs : Sparse Chan), g { t with chans := cs } = g t) {s t : State} {ch : Nat} {c : Chan}
    (h : s.OnlyChan ch c t) : g t = g s := (hg t s.chans).symm.trans (congrArg g h.rest)

theorem State.OnlyChan.foldl {α : Type} {f : State → α → State} {ch : Nat} {l : List α} (hf : ∀ x ∈ l, ∀ t : State, ∃ c, t.OnlyChan ch c (f t x)) (s : State) :
    ∃ c, s.OnlyChan ch c (l.foldl f s) := by
  refine List.foldlRecOn (motive := fun t => ∃ c, s.OnlyChan ch c t) l f ⟨_, .refl s ch⟩ fun t ⟨c, h⟩ x hx => ?_
  obtain ⟨d, h'⟩ := hf x hx t
  exact ⟨d, h.trans h'⟩

/-! ### Credits on their way back (R203, R205, R374) -/

theorem State.restoreCredit_only {m : Msg} {ch : Nat} (h : m.chan = ch) (s : State) :
    s.OnlyChan ch { s.chan ch with back := put (s.chan ch).back (s.creditKey ch m.sender) (lookD (s.chan ch).back (s.creditKey ch m.sender) 0 + 1) }
      (s.restoreCredit m) := by
  subst h
  exact (State.OnlyChan.refl s m.chan).setChan _

theorem State.refuseMsg_only {m : Msg} {ch : Nat} (h : m.chan = ch) (s : State) : ∃ c, s.OnlyChan ch c (s.refuseMsg m) := by
  unfold State.refuseMsg
  split
  · exact ⟨_, State.restoreCredit_only h s⟩
  · exact ⟨_, .refl s ch⟩

/-- Messages of one channel that return their credits: each of the channel's keys gains one for each message that counts under it. -/
theorem State.foldl_restoreCredit {ch : Nat} (ms : List Msg) : ∀ s : State, (∀ m ∈ ms, m.chan = ch) →
    ∃ b, s.OnlyChan ch { s.chan ch with back := b } (ms.foldl (fun (t : State) m => t.restoreCredit m) s) ∧
      ∀ y, lookD b y 0 = lookD (s.chan ch).back y 0 + (ms.filter fun m => decide (s.creditKey ch m.sender = y)).length := by
  induction ms with
  | nil => exact fun s _ => ⟨_, .refl s ch, fun _ => rfl⟩
  | cons m ms ih =>
    intro s hms
    have hstep := State.restoreCredit_only (hms m List.mem_cons_self) s
    obtain ⟨b, honly, hback⟩ := ih (s.restoreCredit m) fun x hx => hms x (List.mem_cons_of_mem _ hx)
    rw [hstep.chan] at honly hback
    refine ⟨b, hstep.trans honly, fun y => (hback y).trans ?_⟩
    have hkey (x : Nat) : (s.restoreCredit m).creditKey ch x = s.creditKey ch x := rfl
    simp only [hkey, lookD_put, List.filter_cons, decide_eq_true_eq]
    split
    · next h =>
      rw [h, List.length_cons]
      omega
    · rfl

/-- The credits of a channel that is emptied or drains: those owed to a peer remain (R203). -/
theorem Chan.lookD_owed (c : Chan) (y : Nat) : lookD c.owed y 0 = if 0x200 ≤ y ∧ y < 0x400 then lookD c.back y 0 else 0 := by
  have h := look_filter_key (fun k => decide (0x200 ≤ k ∧ k < 0x400)) c.back y
  rw [Chan.owed, lookD, h]
  simp only [decide_eq_true_eq]
  split <;> rfl

end Sys2Proof.Machine
end

section
/-! PROOFS. Arrivals, tokens, credits that return, and the merge (R203, R205 to R208, R213 to R216, R226). -/

namespace Sys2Proof.Machine

/-! ### A flit at the end of its spoke -/

/-- A flit leaves the flight of its channel. -/
def State.takeFlit (s : State) (ch : Nat) (f : Flit) : State := s.setChan ch { s.chan ch with flight := (s.chan ch).flight.erase f }

/-- A flit has reached the end of its spoke. -/
def State.arrived (s : State) (ch : Nat) (f : Flit) : State := (s.takeFlit ch f).flitArrives

theorem State.arrived_part {γ : Type} {g : State → γ} (hr : ∀ (t : State) (a : Nat) (v : Reg), a < 0xA1000 → g (t.setReg a v) = g t)
    (hc : ∀ (t : State) (n : Nat) (x : Chan), g (t.setChan n x) = g t) (s : State) (ch : Nat) (f : Flit) : g (s.arrived ch f) = g s :=
  (State.flitArrives_part hr _).trans (hc ..)

theorem State.arrived_chan (s : State) (ch : Nat) (f : Flit) : (s.arrived ch f).chan ch = { s.chan ch with flight := (s.chan ch).flight.erase f } :=
  (State.flitArrives_part (g := fun t => t.chan ch) (fun _ _ _ _ => rfl) _).trans (State.setChan_self ..)

theorem State.arrived_rd (s : State) (ch : Nat) (f : Flit) (n : Nat) (g : Fld) : (s.arrived ch f).rd (chanPage n) g = s.rd (chanPage n) g :=
  State.rd_flitArrives _ (by unfold chanPage; omega) g

theorem State.arrived_injArmed {s : State} {k : Nat} (hk : k ≠ 0) (ch : Nat) (f : Flit) : (s.arrived ch f).injArmed 0x0A0 k = s.injArmed 0x0A0 k :=
  State.injArmed_flitArrives _ hk

theorem State.arrived_chEn (s : State) (ch : Nat) (f : Flit) (n : Nat) : (s.arrived ch f).chEn n = s.chEn n := by
  simp only [State.chEn, State.on, s.arrived_rd]

theorem State.arrived_chOrd (s : State) (ch : Nat) (f : Flit) (n : Nat) : (s.arrived ch f).chOrd n = s.chOrd n := by
  simp only [State.chOrd, State.on, s.arrived_rd]

theorem State.arrived_rcvCas (s : State) (ch : Nat) (f : Flit) (n : Nat) : (s.arrived ch f).rcvCas n = s.rcvCas n := by
  simp only [State.rcvCas, s.arrived_rd]

theorem State.arrived_dom (s : State) (ch : Nat) (f : Flit) (d : Nat) : (s.arrived ch f).dom d = s.dom d :=
  State.arrived_part (g := fun t => t.dom d) (fun _ _ _ _ => rfl) (fun _ _ _ => rfl) s ch f

theorem State.arrived_domOn (s : State) (ch : Nat) (f : Flit) (d : Nat) : (s.arrived ch f).domOn d = s.domOn d :=
  State.arrived_part (g := fun t => t.domOn d) (fun _ _ _ _ => rfl) (fun _ _ _ => rfl) s ch f

theorem State.arrived_hubHold (s : State) (ch : Nat) (f : Flit) : (s.arrived ch f).hubHold = s.hubHold :=
  State.arrived_part (g := State.hubHold) (fun _ _ _ _ => rfl) (fun _ _ _ => rfl) s ch f

/-! ### The slot of a message (R206, R216) -/

/-- A message takes a slot, which on an ordered channel sets its member's horizon (R206, R207). -/
def State.enterSlot (s : State) (m : Msg) : State :=
  let t := s.setChan m.chan { s.chan m.chan with held := (s.chan m.chan).held ++ [m] }
  if t.chOrd m.chan then t.setMember m.chan m.sender { t.member m.chan m.sender with horizon := some m.stamp } else t

theorem State.enterSlot_part {γ : Type} {g : State → γ} (hc : ∀ (t : State) (n : Nat) (x : Chan), g (t.setChan n x) = g t) (s : State) (m : Msg) :
    g (s.enterSlot m) = g s := ite_keeps g ((hc ..).trans (hc ..)) (hc ..)

theorem State.enterSlot_chan (s : State) (m : Msg) :
    ∃ ms, (s.enterSlot m).chan m.chan = { s.chan m.chan with held := (s.chan m.chan).held ++ [m], members := ms } ∧
      (s.chOrd m.chan = true → (lookD ms m.sender {}).horizon = some m.stamp) := by
  unfold State.enterSlot
  dsimp only
  split
  · refine ⟨_, (State.setChan_self ..).trans (by rw [State.setChan_self]), fun _ => ?_⟩
    rw [lookD_put, if_pos rfl]
  · next h =>
    exact ⟨_, State.setChan_self .., fun hord => absurd hord h⟩

/-- A message for which there is a slot: of a receiving point other than a command input, or of a command (R206, R221). -/
theorem State.occupy_slot {s : State} {m : Msg} (hen : s.chEn m.chan = true)
    (hslot : s.rd (chanPage m.chan) R.FAB_CH_LO_RCV < 0x300 ∨ m.words.headD 0 = 1 ∨ m.words.headD 0 = 2) :
    s.occupy m = (s.enterSlot m).refresh m.chan := by
  have hrd : (s.enterSlot m).rd (chanPage m.chan) R.FAB_CH_LO_RCV = s.rd (chanPage m.chan) R.FAB_CH_LO_RCV :=
    State.enterSlot_part (g := fun t => t.rd (chanPage m.chan) R.FAB_CH_LO_RCV) (fun _ _ _ => rfl) s m
  unfold State.occupy
  rw [if_neg (by simp [hen])]
  exact if_neg (hrd ▸ by omega)

theorem State.reachSpoke_slot {s : State} {m : Msg} (h : ∀ c, s.rcvCas m.chan = some c → s.domOn (8 + c) = true) : s.reachSpoke m = some (s.occupy m) := by
  unfold State.reachSpoke
  split
  · rfl
  · next c hc => exact if_pos (h c hc)

/-- A message for a cassette that is not on: discarded at one that is off, else held by the hub while it has room (R216). -/
theorem State.reachSpoke_away {s : State} {m : Msg} {c : Nat} (hcas : s.rcvCas m.chan = some c) (hoff : s.domOn (8 + c) = false) :
    s.reachSpoke m = if (s.dom (8 + c)).st = .off ∧ (s.dom (8 + c)).going = none then some ((s.restoreCredit m).fabErr m.chan m.sender 3)
      else if 256 ≤ s.hubHold.length then none else some { s with hubHold := s.hubHold ++ [m] } := by
  unfold State.reachSpoke
  rw [hcas]
  exact if_neg (by simp [hoff])

/-! ### MESSAGE_ARRIVAL and HORIZON_TOKEN_ARRIVAL -/

theorem State.messageArrival_msg {s : State} {ch x : Nat} {m : Msg} (hfirst : (s.chan ch).firstOf x = some (.msg m)) (hon : s.domOn 3 = true) :
    s.messageArrival ch x =
      if !s.chEn ch then (s.arrived ch (.msg m)).refuseMsg m
      else if s.injArmed 0x0A0 1 then ((s.takeFlit ch (.msg m)).injTake 0x0A0 1).loseMsg m
      else (if s.on (chanPage ch) R.FAB_CH_LO_TAN then (s.arrived ch (.msg m)).linkSend ch (.msg m) else (s.arrived ch (.msg m)).reachSpoke m).getD s := by
  unfold State.messageArrival
  dsimp only
  rw [hfirst]
  exact if_neg (by simp [hon])

theorem State.messageArrival_idle {s : State} {ch x : Nat} (h : (∀ m, (s.chan ch).firstOf x ≠ some (.msg m)) ∨ s.domOn 3 = false) :
    s.messageArrival ch x = s := by
  unfold State.messageArrival
  dsimp only
  split
  · next m hfirst =>
    rcases h with h | h
    · exact absurd hfirst (h m)
    · exact if_pos (by simp [h])
  · rfl

/-- A message that arrives at this device, by what stands at the end of its spoke. -/
theorem State.messageArrival_local {s : State} {ch x : Nat} {m : Msg} (hfirst : (s.chan ch).firstOf x = some (.msg m)) (hon : s.domOn 3 = true)
    (hen : s.chEn ch = true) (hinj : s.injArmed 0x0A0 1 = false) (htan : s.on (chanPage ch) R.FAB_CH_LO_TAN = false) :
    s.messageArrival ch x = ((s.arrived ch (.msg m)).reachSpoke m).getD s := by
  rw [State.messageArrival_msg hfirst hon, if_neg (by simp [hen]), if_neg (by simp [hinj]), if_neg (by simp [htan])]

theorem State.tokenArrival_token {s : State} {ch x y h : Nat} (hfirst : (s.chan ch).firstOf x = some (.token y h)) (hon : s.domOn 3 = true) :
    s.tokenArrival ch x =
      if !s.chEn ch then s.arrived ch (.token y h)
      else if s.on (chanPage ch) R.FAB_CH_LO_TAN then ((s.arrived ch (.token y h)).linkSend ch (.token y h)).getD s
      else ((s.arrived ch (.token y h)).setMember ch x { (s.arrived ch (.token y h)).member ch x with horizon := some h }).refresh ch := by
  unfold State.tokenArrival
  dsimp only
  rw [hfirst]
  exact if_neg (by simp [hon])

theorem State.tokenArrival_idle {s : State} {ch x : Nat} (h : (∀ y k, (s.chan ch).firstOf x ≠ some (.token y k)) ∨ s.domOn 3 = false) :
    s.tokenArrival ch x = s := by
  unfold State.tokenArrival
  dsimp only
  split
  · next y k hfirst =>
    rcases h with h | h
    · exact absurd hfirst (h y k)
    · exact if_pos (by simp [h])
  · rfl

/-- A message that finds its slot stands there behind those held, and its channel changes in nothing else but its members and its blocked timer. -/
theorem State.messageArrival_slot {s : State} {ch x : Nat} {m : Msg} (hfirst : (s.chan ch).firstOf x = some (.msg m)) (hon : s.domOn 3 = true)
    (hm : m.chan = ch) (hen : s.chEn ch = true) (hinj : s.injArmed 0x0A0 1 = false) (htan : s.on (chanPage ch) R.FAB_CH_LO_TAN = false)
    (hcas : ∀ c, s.rcvCas ch = some c → s.domOn (8 + c) = true)
    (hslot : s.rd (chanPage ch) R.FAB_CH_LO_RCV < 0x300 ∨ m.words.headD 0 = 1 ∨ m.words.headD 0 = 2) :
    s.messageArrival ch x = ((s.arrived ch (.msg m)).enterSlot m).refresh ch := by
  subst hm
  rw [State.messageArrival_local hfirst hon hen hinj htan, State.reachSpoke_slot (by simpa only [State.arrived_rcvCas, State.arrived_domOn] using hcas),
    State.occupy_slot (by rw [State.arrived_chEn, hen]) (by rwa [State.arrived_rd])]
  rfl

/-- With no injection armed, a loose channel takes it so. -/
theorem State.arrived_enterSlot_loose {s : State} {m : Msg} (hord : s.chOrd m.chan = false) (h0 : s.injArmed 0x0A0 0 = false) :
    ((s.arrived m.chan (.msg m)).enterSlot m).refresh m.chan = s.setChan m.chan { s.chan m.chan with
      flight := (s.chan m.chan).flight.erase (.msg m), held := (s.chan m.chan).held ++ [m], blocked := none } := by
  have harrived : s.arrived m.chan (.msg m) = s.takeFlit m.chan (.msg m) := if_neg (Bool.eq_false_iff.1 h0)
  have henter : (s.arrived m.chan (.msg m)).enterSlot m =
      (s.takeFlit m.chan (.msg m)).setChan m.chan { (s.takeFlit m.chan (.msg m)).chan m.chan with held := ((s.takeFlit m.chan (.msg m)).chan m.chan).held ++ [m] } :=
    harrived.symm ▸ if_neg (Bool.eq_false_iff.1 hord)
  rw [henter, State.refresh_loose (by exact hord)]
  simp only [State.takeFlit, State.setChan_self, State.setChan_setChan]

theorem State.arrived_enterSlot_calm {s : State} {m : Msg} (h4 : s.injArmed 0x0A0 4 = false) :
    ∃ t, ((s.arrived m.chan (.msg m)).enterSlot m).refresh m.chan = t ∧ (t.chan m.chan).flight = (s.chan m.chan).flight.erase (.msg m) ∧
      (t.chan m.chan).held = (s.chan m.chan).held ++ [m] ∧ (s.chOrd m.chan = true → (t.member m.chan m.sender).horizon = some m.stamp) ∧
      (t.chan m.chan).used = (s.chan m.chan).used ∧ t.regs = (s.arrived m.chan (.msg m)).regs := by
  have h4' : ((s.arrived m.chan (.msg m)).enterSlot m).injArmed 0x0A0 4 = false :=
    (State.enterSlot_part (g := fun t => t.injArmed 0x0A0 4) (fun _ _ _ => rfl) _ m).trans ((State.arrived_injArmed (by decide) ..).trans h4)
  obtain ⟨b, hb⟩ := State.refresh_calm h4' m.chan
  obtain ⟨ms, hchan, hhorizon⟩ := (s.arrived m.chan (.msg m)).enterSlot_chan m
  rw [State.arrived_chan] at hchan
  rw [State.arrived_chOrd] at hhorizon
  refine ⟨_, hb, ?_⟩
  rw [State.member, State.setChan_self, hchan]
  exact ⟨rfl, rfl, hhorizon, rfl, State.enterSlot_part (g := State.regs) (fun _ _ _ => rfl) _ m⟩

/-- A token that arrives at the merge sets its member's horizon (R207). -/
theorem State.tokenArrival_horizon {s : State} {ch x y h : Nat} (hfirst : (s.chan ch).firstOf x = some (.token y h)) (hon : s.domOn 3 = true)
    (hen : s.chEn ch = true) (htan : s.on (chanPage ch) R.FAB_CH_LO_TAN = false) (h4 : s.injArmed 0x0A0 4 = false) :
    ∃ t, s.tokenArrival ch x = t ∧ (t.member ch x).horizon = some h ∧ (t.chan ch).held = (s.chan ch).held ∧
      (t.chan ch).flight = (s.chan ch).flight.erase (.token y h) ∧ t.regs = (s.arrived ch (.token y h)).regs := by
  rw [State.tokenArrival_token hfirst hon, if_neg (by simp [hen]), if_neg (by simp [htan])]
  obtain ⟨b, hb⟩ := State.refresh_calm (s := (s.arrived ch (.token y h)).setMember ch x { (s.arrived ch (.token y h)).member ch x with horizon := some h })
    ((State.arrived_injArmed (by decide) ..).trans h4) ch
  refine ⟨_, hb, ?_⟩
  rw [State.member, State.setChan_self, State.setMember, State.setChan_self, State.arrived_chan]
  exact ⟨by rw [lookD_put, if_pos rfl], rfl, rfl, rfl⟩

/-! ### AUTOMATIC_TOKEN (R207) -/

theorem stampLt_asymm {a b : Nat} (h : stampLt a b = true) : stampLt b a = false := by
  have hdiff (hpos : 0 < stampDiff b a) : ¬ 0 < stampDiff a b := by
    unfold stampDiff signed wrap at *
    omega
  exact decide_eq_false (hdiff (of_decide_eq_true h))

/-- A stamp newer than the sender's last passes the checks of a member (R204). -/
theorem State.sendFails_newer {s : State} {ch x k : Nat} (hen : s.chEn ch = true) (hmem : s.isMember ch x = true)
    (hnewer : ∀ l, (s.member ch x).lastSent = some l → stampLt l k = true) : s.sendFails ch x k = none := by
  unfold State.sendFails
  rw [if_neg (by simp [hen])]
  split
  · rw [if_neg (by simp [hmem])]
    split
    · next l hl => exact if_neg (by simp [stampLt_asymm (hnewer l hl)])
    · rfl
  · rfl

/-- A token that passes the checks is in flight, and its sender notes it (R207). -/
theorem State.sendToken_enters {s : State} {ch x st : Nat} (hon : s.domOn 3 = true) (hord : s.chOrd ch = true) (hlive : s.replayDiscards x = false)
    (hpass : s.sendFails ch x st = none) :
    ∃ t, s.sendToken ch x st = t ∧ (t.chan ch).flight = (s.chan ch).flight ++ [.token x (st % 2 ^ 42)] ∧
      (t.member ch x).lastSent = some (st % 2 ^ 42) ∧ t.regs = s.regs ∧ t.mem = s.mem := by
  unfold State.sendToken
  rw [if_neg (by simp [hon, hord]), if_neg (by simp [hlive]), if_neg (by simp [hpass])]
  dsimp only
  generalize hu : s.setChan ch _ = u
  have hord' : u.chOrd ch = true := hu ▸ hord
  obtain ⟨⟨ms, hchan⟩, -, hmem, hregs, -⟩ := u.noteSent_chan ch x (st % 2 ^ 42)
  refine ⟨_, rfl, ?_, State.noteSent_lastSent hord' .., hregs.trans (hu ▸ rfl), hmem.trans (hu ▸ rfl)⟩
  rw [hchan, ← hu, State.setChan_self]

/-- A horizon is due on a channel: it is newer than what the sender sent last there, PERIOD or longer ago (R207, R227). -/
def State.tokenDue (s : State) (ch x h : Nat) : Prop :=
  ∀ l, (s.member ch x).lastSent = some l → stampLt l h = true ∧ (s.member ch x).sentAt + max 20 (s.rd 0x0A0 R.FAB_HZN_PERIOD) ≤ s.tb

/-- A sender of the set of an enabled ordered channel whose router can send tokens. -/
def State.tokenAble (s : State) (ch x : Nat) : Prop :=
  s.domOn 3 = true ∧ s.tokensOn x = true ∧ s.chEn ch = true ∧ s.chOrd ch = true ∧ x ∈ s.setSenders (s.rd (chanPage ch) R.FAB_CH_LO_SET)

theorem State.autoToken_unable {s : State} {ch x : Nat} (h : ¬ s.tokenAble ch x) (arriving : Option Nat) : s.autoToken ch x arriving = s := by
  refine if_pos ?_
  by_contra hno
  refine h ?_
  simpa [State.tokenAble, and_assoc] using hno

theorem State.autoToken_able {s : State} {ch x : Nat} {arriving : Option Nat} (h : s.tokenAble ch x) :
    (s.horizonOf ch x arriving = none → s.autoToken ch x arriving = s) ∧
    (∀ k, s.horizonOf ch x arriving = some k → s.tokenDue ch x k → s.autoToken ch x arriving = s.sendToken ch x k) ∧
    (∀ k, s.horizonOf ch x arriving = some k → ¬ s.tokenDue ch x k → s.autoToken ch x arriving = s) := by
  obtain ⟨hon, htok, hen, hord, hset⟩ := h
  unfold State.autoToken
  rw [if_neg (by simp [hon, htok, hen, hord, hset])]
  refine ⟨fun hk => by rw [hk], fun k hk hdue => ?_, fun k hk hdue => ?_⟩ <;> rw [hk] <;> dsimp only
  · refine if_pos ?_
    cases hl : (s.member ch x).lastSent with
    | none => rfl
    | some l => simpa using hdue l hl
  · refine if_neg fun hgo => hdue fun l hl => ?_
    simpa [hl] using hgo

/-! ### MERGE_DELIVERABLE (R206, R208) -/

/-- The cogs that wait in a receive on the channel are completed one after another. -/
theorem State.wakeReceivers_eq (s : State) (ch : Nat) :
    s.wakeReceivers ch = s.cogs.foldl (fun (t : State) x =>
      if (t.presented x.1).any fun p => decide (p.op = .chRecv ∧ p.val.toNat % 4096 = ch) && (t.cog x.1).stall.isSome then t.receiveOp x.1 .chRecv else t) s := by
  refine congrArg (fun f => s.cogs.foldl f s) (funext fun t => funext fun x => ?_)
  obtain ⟨i, c⟩ := x
  dsimp only
  cases t.presented i with
  | none => rfl
  | some p => simp [and_assoc]

/-- Settles O27: each arrival by what stands at the end of its spoke, and the events that find nothing to do. -/
theorem fabricMovesMessagesAndCredits : Obligations.FabricMovesMessagesAndCredits := by
  refine ⟨fun ch x s m hfirst hon hm => ?_, fun ch x s y h hfirst hon => ?_, fun ch x s hon => ?_, fun ch x s => ⟨fun h => ?_, fun h => ?_, fun h => ?_⟩,
    fun ch x arriving s => ⟨fun k hable hk hdue hmem hlive => ?_, fun h => ?_⟩, fun ch s => ⟨fun h => ?_, fun hon hmsg => ?_⟩⟩
  · have hmsg := State.messageArrival_msg hfirst hon
    refine ⟨fun hen => congrArg _ (hmsg.trans (if_pos (by simp [hen]))), fun hen hinj => congrArg _ (hmsg.trans ?_), fun hen hinj => ⟨fun htan => congrArg _ (hmsg.trans ?_),
      fun htan => ⟨fun c hc hoff hst => congrArg Host.Outcome.next ?_, fun c hc hoff hst => congrArg Host.Outcome.next ?_, fun hcas hslot => ?_⟩⟩⟩
    · rw [if_neg (by simp [hen]), if_pos hinj]
      rfl
    · rw [if_neg (by simp [hen]), if_neg (by simp [hinj]), if_pos htan]
      rfl
    · rw [State.messageArrival_local hfirst hon hen hinj htan, State.reachSpoke_away (c := c) (by rwa [hm, State.arrived_rcvCas]) (by rwa [State.arrived_domOn]),
        if_pos (by rwa [State.arrived_dom]), hm]
      rfl
    · rw [State.messageArrival_local hfirst hon hen hinj htan, State.reachSpoke_away (c := c) (by rwa [hm, State.arrived_rcvCas]) (by rwa [State.arrived_domOn]),
        if_neg (by rwa [State.arrived_dom]), State.arrived_hubHold]
      split <;> rfl
    · have hexec : exec (.messageArrival ch x) s = .next (((s.arrived ch (.msg m)).enterSlot m).refresh ch) :=
        congrArg Host.Outcome.next (State.messageArrival_slot hfirst hon hm hen hinj htan hcas hslot)
      rw [← hm] at hexec ⊢
      refine ⟨fun hord h0 => hexec.trans (congrArg Host.Outcome.next (State.arrived_enterSlot_loose hord h0)), fun h4 => ?_⟩
      obtain ⟨t, ht, hflight, hheld, hhorizon, hused, hregs⟩ := State.arrived_enterSlot_calm (s := s) (m := m) h4
      exact ⟨t, hexec.trans (congrArg Host.Outcome.next ht), hflight, hheld, hhorizon, hused, hregs⟩
  · have htoken := State.tokenArrival_token hfirst hon
    refine ⟨fun hen => congrArg Host.Outcome.next (htoken.trans (if_pos (by simp [hen]))), fun hen htan => congrArg Host.Outcome.next (htoken.trans ?_), fun hen htan h4 => ?_⟩
    · rw [if_neg (by simp [hen]), if_pos htan]
      rfl
    · obtain ⟨t, ht, hhorizon, hheld, hflight, hregs⟩ := State.tokenArrival_horizon hfirst hon hen htan h4
      exact ⟨t, congrArg Host.Outcome.next ht, hhorizon, hheld, hflight, hregs⟩
  · have hgo : ¬ (!s.domOn 3) = true := by simp [hon]
    refine ⟨fun hn => congrArg Host.Outcome.next ((if_neg hgo).trans (if_pos hn)), fun hn hx => congrArg Host.Outcome.next ((if_neg hgo).trans ((if_neg hn).trans (if_neg (Nat.not_le.2 hx)))),
      fun hempty => if_pos ?_, fun hn hx => congrArg Host.Outcome.next ((if_neg hgo).trans ((if_neg hn).trans (if_pos hx)))⟩
    refine (congrArg List.isEmpty ?_).trans (congrArg List.isEmpty hempty)
    exact State.flitArrives_part (g := State.outbox) (fun _ _ _ _ => rfl) s
  · exact congrArg Host.Outcome.next (State.messageArrival_idle h)
  · exact congrArg Host.Outcome.next (State.tokenArrival_idle h)
  · exact congrArg Host.Outcome.next (if_pos (by simp [h]))
  · obtain ⟨-, hsends, -⟩ := State.autoToken_able (ch := ch) (x := x) (arriving := arriving.map (·.toNat)) hable
    obtain ⟨hon, -, hen, hord, -⟩ := hable
    obtain ⟨t, ht, hsent⟩ := State.sendToken_enters hon hord hlive (State.sendFails_newer hen hmem fun l hl => (hdue l hl).1)
    exact ⟨t, congrArg Host.Outcome.next ((hsends k hk hdue).trans ht), hsent⟩
  · by_cases hable : s.tokenAble ch x
    · obtain ⟨hnone, -, hearly⟩ := State.autoToken_able (arriving := arriving.map (·.toNat)) hable
      rcases h with h | h | ⟨k, hk, hdue⟩
      · exact absurd hable h
      · exact congrArg Host.Outcome.next (hnone h)
      · exact congrArg Host.Outcome.next (hearly k hk hdue)
    · exact congrArg Host.Outcome.next (State.autoToken_unable hable _)
  · refine congrArg Host.Outcome.next (if_neg ?_)
    rcases h with h | h <;> simp [h]
  · refine congrArg Host.Outcome.next ((if_pos ?_).trans (s.wakeReceivers_eq ch))
    simp [hon, Option.isSome_iff_ne_none, hmsg]

end Sys2Proof.Machine
end

section
/-! PROOFS. What the journal and the brake leave of the fabric (R414, R417, R428, R463, R475, R484). -/

namespace Sys2Proof.Machine

/-! ### The journal -/

/-- The words beyond the journal's pages and before those of the crossings, but FAB_CMD: those of the hub, of channels and sets, and of the queue bank. -/
abbrev hubWord (a : Nat) : Prop := 0x64000 ≤ a ∧ a < 0x18000000 ∧ a ≠ 0xA0050

/-- Two states that agree on those words, on the channels, and on what the hub holds. -/
structure State.SameHub (s t : State) : Prop where
  words : ∀ a, hubWord a → t.reg a = s.reg a
  chans : t.chans = s.chans
  hold  : t.hubHold = s.hubHold

theorem State.SameHub.refl (s : State) : s.SameHub s := ⟨fun _ _ => rfl, rfl, rfl⟩

theorem State.SameHub.trans {s t u : State} (h : s.SameHub t) (h' : t.SameHub u) : s.SameHub u :=
  ⟨fun a ha => (h'.words a ha).trans (h.words a ha), h'.chans.trans h.chans, h'.hold.trans h.hold⟩

theorem State.SameHub.ite {s t u : State} {c : Prop} [Decidable c] (ht : s.SameHub t) (hu : s.SameHub u) : s.SameHub (if c then t else u) := by
  split <;> assumption

theorem State.SameHub.wr (s : State) (p : Nat) (f : Fld) (v j : Nat) (h : ¬ hubWord (f.addr p j)) : s.SameHub (s.wr p f v j) :=
  ⟨fun _ ha => s.reg_wr_ne p f v j fun he => h (he ▸ ha), rfl, rfl⟩

/-- A field of a page up to the journal's. -/
theorem State.SameHub.wr_low (s : State) {p : Nat} {f : Fld} (v : Nat) (hp : p ≤ 0x63) (hoff : f.off < 4096) : s.SameHub (s.wr p f v) :=
  .wr s p f v 0 fun h => by
    simp only [hubWord, Fld.addr] at h
    omega

theorem State.SameHub.bump_low (s : State) {p : Nat} {f : Fld} (hp : p ≤ 0x63) (hoff : f.off < 4096) : s.SameHub (s.bump p f) := .wr_low s _ hp hoff

theorem State.SameHub.cross (s : State) (n : Nat) : s.SameHub (s.cross n) := .ite (.refl s) ⟨fun _ _ => rfl, rfl, rfl⟩

theorem State.SameHub.reportCrossing (s : State) {p : Nat} (hp : p ≤ 0x63) (b n : Nat) : s.SameHub (s.reportCrossing p b n) := by
  have hpend := State.SameHub.wr_low s (f := R.PG_EVT_PEND_PEND) (setBits (s.rd p R.PG_EVT_PEND_PEND) b 1 1) hp (by decide)
  exact .ite (.ite (hpend.trans (.cross ..)) hpend) (.refl s)

/-- A raise, also one that is lost between clock domains and reported (R463, R475). -/
theorem State.SameHub.raise (s : State) (n : Nat) : s.SameHub (s.raise n) := by
  have hxing (u : State) (f : Fld) (v d : Nat) : u.SameHub (u.wr (xingPage d) f v) := .wr u _ f v 0 fun h => by
    simp only [hubWord, Fld.addr, xingPage] at h
    omega
  refine .ite (.refl s) (.ite ?_ (.cross ..))
  refine .trans (.trans ?_ (.reportCrossing _ (p := 0x040) (by decide) 0 13)) (.reportCrossing _ (p := 0x020) (by decide) 21 37)
  exact .trans (.trans (hxing ..) (hxing ..)) (.wr_low _ _ (by decide) (by decide))

theorem State.SameHub.pgEvt (s : State) {p : Nat} (hp : p ≤ 0x63) (b : Nat) : s.SameHub (s.pgEvt p b) := by
  refine .ite ?_ (.refl s)
  have hpend := State.SameHub.wr_low s (f := R.PG_EVT_PEND_PEND) (setBits (s.rd p R.PG_EVT_PEND_PEND) b 1 1) hp (by decide)
  dsimp only
  split
  · exact hpend.trans (.raise ..)
  · exact hpend

theorem State.SameHub.jrn (s : State) (j : Journal) : s.SameHub { s with jrn := j } := ⟨fun _ _ => rfl, rfl, rfl⟩

theorem State.SameHub.jrnDrop (s : State) (k : JRec) : s.SameHub (s.jrnDrop k) := by
  have hcount := (State.SameHub.jrn s { s.jrn with lost := s.jrn.lost + 1 }).trans (.bump_low _ (p := 0x063) (f := R.JRN_LOST_LOST) (by decide) (by decide))
  exact .ite (hcount.trans (.wr_low _ _ (by decide) (by decide))) hcount

theorem State.SameHub.jrnTake (s : State) (k : JRec) : s.SameHub (s.jrnTake k) :=
  .ite (((State.SameHub.jrn s _).trans (.wr_low _ _ (by decide) (by decide))).trans (.pgEvt _ (by decide) 14)) (.jrn s _)

theorem State.SameHub.jrnGap (s : State) : s.SameHub s.jrnGap :=
  .ite (.refl s) ((((State.SameHub.jrn s _).trans (.jrnTake ..)).trans (.wr_low _ _ (by decide) (by decide))).trans (.pgEvt _ (by decide) 13))

/-- A record that is offered enters, is dropped, or finds the journal closed (R417, R432). -/
theorem State.SameHub.jrnOffer (s : State) (k : JRec) : s.SameHub (s.jrnOffer k).2 := by
  have hgap := State.SameHub.jrnGap s
  unfold State.jrnOffer
  split
  · exact .refl s
  · split
    · exact (State.SameHub.wr_low s (f := R.PG_INJ_INJ) _ (by decide) (by decide)).trans (.jrnDrop ..)
    · dsimp only
      split
      · exact hgap
      · split
        · exact hgap.trans (.jrnDrop ..)
        · exact hgap.trans (.jrnTake ..)

theorem State.SameHub.jrnHost (s : State) (a : Nat) : s.SameHub (s.jrnHost a) := by
  have hoffer := State.SameHub.jrnOffer s ⟨3, 0x1F6, s.now % 2 ^ 42, a⟩
  refine .ite (.trans (.ite (hoffer.trans (.bump_low _ (by decide) (by decide))) hoffer) (.wr_low _ _ (by decide) (by decide))) (.refl s)

/-! ### The fabric as it reads in those words -/

theorem State.SameHub.rd {s t : State} (h : s.SameHub t) {p : Nat} {f : Fld} (hword : hubWord (f.addr p 0)) : t.rd p f = s.rd p f := by
  simp only [State.rd, h.words _ hword]

theorem State.SameHub.rd_page {s t : State} (h : s.SameHub t) {p : Nat} {f : Fld} (hp : 0x10000 ≤ p ∧ p < 0x17FFF) (hoff : f.off < 4096) :
    t.rd p f = s.rd p f := h.rd (by
  simp only [hubWord, Fld.addr]
  omega)

theorem State.SameHub.rd_chan {s t : State} (h : s.SameHub t) {ch : Nat} (hch : ch < 4096) {f : Fld} (hoff : f.off < 4096) :
    t.rd (chanPage ch) f = s.rd (chanPage ch) f := h.rd_page (by unfold chanPage; omega) hoff

theorem State.SameHub.chEn {s t : State} (h : s.SameHub t) {ch : Nat} (hch : ch < 4096) : t.chEn ch = s.chEn ch := by
  simp only [State.chEn, State.on, h.rd_chan hch (f := R.FAB_CH_LO_EN) (by decide)]

theorem State.SameHub.chOrd {s t : State} (h : s.SameHub t) {ch : Nat} (hch : ch < 4096) : t.chOrd ch = s.chOrd ch := by
  simp only [State.chOrd, State.on, h.rd_chan hch (f := R.FAB_CH_LO_ORD) (by decide)]

theorem State.SameHub.setSenders {s t : State} (h : s.SameHub t) {set : Nat} (hset : set < 512) : t.setSenders set = s.setSenders set := by
  have hrd (m : Nat) (hm : m ∈ List.range 16) {f : Fld} (hoff : f.off < 4096) : t.rd (setPage set m) f = s.rd (setPage set m) f :=
    h.rd_page (by have := List.mem_range.1 hm; unfold setPage; omega) hoff
  have hvalid : (List.range 16).filter (fun m => t.on (setPage set m) R.FAB_SET_MBR_VALID) = (List.range 16).filter fun m => s.on (setPage set m) R.FAB_SET_MBR_VALID :=
    List.filter_congr fun m hm => by simp only [State.on, hrd m hm (f := R.FAB_SET_MBR_VALID) (by decide)]
  unfold State.setSenders
  rw [hvalid]
  exact List.map_congr_left fun m hm => hrd m (List.mem_of_mem_filter hm) (by decide)

/-! ### The brake leaves the channels (R484) -/

theorem upTo_chans (n : Nat) {f : State → Nat → State} (h : ∀ t k, (f t k).chans = t.chans) (s : State) : (upTo n f s).chans = s.chans :=
  foldl_keeps State.chans f h _ s

theorem State.showPin_chans (s : State) (n time : Nat) : (s.showPin n time).chans = s.chans := ite_keeps State.chans rfl rfl

theorem State.pinsSafe_chans (s : State) : s.pinsSafe.chans = s.chans := by
  unfold State.pinsSafe State.showPins
  rw [upTo_chans _ fun _ _ => State.showPin_chans ..]
  refine (upTo_chans 32 (fun _ _ => ?_) _).trans (upTo_chans 96 (fun _ _ => ?_) _)
  · exact ite_keeps State.chans rfl rfl
  · exact ite_keeps State.chans rfl rfl

theorem State.pgEvt_chans (s : State) (p b : Nat) : (s.pgEvt p b).chans = s.chans :=
  State.pgEvt_part (g := State.chans) (fun _ _ _ => rfl) (fun _ _ => rfl) s p b

theorem State.sendFrame_chans (s : State) (p : Nat) (f : List Byte) : (s.sendFrame p f).chans = s.chans := rfl

theorem State.brakeFrames_chans (s : State) : s.brakeFrames.chans = s.chans := by
  refine upTo_chans 8 (fun t p => ?_) s
  dsimp only
  refine ite_keeps State.chans (ite_keeps State.chans ?_ ?_) rfl
  · rw [State.sendFrame_chans, State.sendFrame_chans]
  · rw [State.sendFrame_chans]

theorem State.tracePut_chans (s : State) (k : TracePacket) : (s.tracePut k).chans = s.chans := by
  refine ite_keeps State.chans rfl ?_
  refine (ite_keeps State.chans ((State.pgEvt_chans ..).trans ?_) rfl).trans (ite_keeps State.chans rfl rfl)
  exact ite_keeps State.chans rfl rfl

theorem State.wakeCog_chans (s : State) (i k : Nat) : (s.wakeCog i k).chans = s.chans := by
  unfold State.wakeCog
  split
  · rfl
  · obtain ⟨ds, hidle⟩ := s.breakIdle_forms (casOf i)
    have hend (t : State) : (t.endWait i k).chans = t.chans := by
      unfold State.endWait
      dsimp only
      split <;> rfl
    refine ite_keeps State.chans rfl ?_
    rw [hidle]
    refine ite_keeps State.chans (ite_keeps State.chans (hend _) (hend _)) ?_
    exact State.startWake_part (g := State.chans) (fun _ _ _ => ite_keeps State.chans rfl rfl) (fun _ _ _ => rfl) _ _

theorem State.requestHalt_chans (s : State) (i : Nat) (r : HaltReq) : (s.requestHalt i r).chans = s.chans :=
  ite_keeps State.chans rfl ((State.wakeCog_chans ..).trans (ite_keeps State.chans rfl (ite_keeps State.chans rfl rfl)))

theorem State.pelTrigger_chans (s : State) (g : Nat) : (s.pelTrigger g).chans = s.chans := by
  refine ite_keeps State.chans rfl ((foldl_keeps State.chans _ (fun _ _ => State.requestHalt_chans ..) _ _).trans ((State.pgEvt_chans ..).trans ?_))
  exact ite_keeps State.chans (State.tracePut_chans ..) rfl

theorem State.brake_chans (s : State) (k : BrakeCause) : (s.brake k).chans = s.chans := by
  refine ite_keeps State.chans rfl ((foldl_keeps State.chans _ (fun _ _ => ite_keeps State.chans (State.pelTrigger_chans ..) rfl) _ _).trans ?_)
  refine (ite_keeps State.chans (State.tracePut_chans ..) rfl).trans ?_
  exact (State.brakeFrames_chans _).trans ((State.pgEvt_chans ..).trans (State.pinsSafe_chans _))

theorem State.brakeIfHalt_chans (s : State) : s.brakeIfHalt.chans = s.chans := ite_keeps State.chans (State.brake_chans ..) rfl

end Sys2Proof.Machine
end

section
/-! PROOFS. The channel table, the stall report and FAB_CMD (R201 to R203, R211, R212, R227). -/

namespace Sys2Proof.Machine

/-! ### Emptying a channel (R203) -/

/-- A channel that is emptied keeps the credits owed to a peer only. -/
theorem State.emptyChan_only {s : State} {ch : Nat} (hheld : ∀ m ∈ (s.chan ch).held, m.chan = ch) (hflight : ∀ m, .msg m ∈ (s.chan ch).flight → m.chan = ch) :
    ∃ b, s.OnlyChan ch { back := b } (s.emptyChan ch) ∧ ∀ x ∈ b, 0x200 ≤ x.1 ∧ x.1 < 0x400 := by
  have hflit (f : Flit) (hf : f ∈ (s.chan ch).flight) (t : State) : ∃ c, t.OnlyChan ch c (t.refuseFlit f) := by
    cases f with
    | msg m => exact State.refuseMsg_only (hflight m hf) t
    | token => exact ⟨_, .refl t ch⟩
    | credit => exact ⟨_, .refl t ch⟩
  obtain ⟨c, hmsgs⟩ := State.OnlyChan.foldl (fun m hm t => State.refuseMsg_only (hheld m hm) t) s
  obtain ⟨d, hflits⟩ := State.OnlyChan.foldl hflit ((s.chan ch).held.foldl (fun (t : State) m => t.refuseMsg m) s)
  exact ⟨_, (hmsgs.trans hflits).setChan _, fun x hx => of_decide_eq_true (List.mem_filter.1 hx).2⟩

/-- The hub without the messages that it holds for a channel. -/
def State.hubWithout (s : State) (ch : Nat) : State := { s with hubHold := s.hubHold.filter fun m => decide (m.chan ≠ ch) }

/-- What the hub holds for a channel is discarded and its credits return (R203, R212, R216). -/
theorem State.dropHub_only (s : State) (ch : Nat) :
    ∃ b, (s.hubWithout ch).OnlyChan ch { s.chan ch with back := b } (s.dropHub ch) ∧
      ∀ y, lookD b y 0 = lookD (s.chan ch).back y 0 + (s.hubHold.filter fun m => decide (m.chan = ch) && decide (s.creditKey ch m.sender = y)).length := by
  obtain ⟨b, honly, hback⟩ := State.foldl_restoreCredit (s.hubHold.filter fun m => decide (m.chan = ch)) (s.hubWithout ch) fun m hm =>
    of_decide_eq_true (List.mem_filter.1 hm).2
  refine ⟨b, honly, fun y => (hback y).trans ?_⟩
  rw [List.filter_filter]
  exact congrArg (fun l => _ + List.length l) (List.filter_congr fun m _ => Bool.and_comm ..)

/-- The credits of a peer's senders count under the sender (R205, R374). -/
theorem State.creditKey_peer (s : State) (ch x : Nat) {y : Nat} (hy : 0x200 ≤ y ∧ y < 0x400) : s.creditKey ch x = y ↔ x = y := by
  unfold State.creditKey
  split
  · rfl
  · next h =>
    simp only [Bool.or_eq_true, decide_eq_true_eq] at h
    omega

/-- The messages of a disabled channel that return their credits are those of a peer (R203, R374). -/
theorem State.foldl_refuseMsg {ch : Nat} {ms : List Msg} (hms : ∀ m ∈ ms, m.chan = ch) (s : State) :
    ∃ b, s.OnlyChan ch { s.chan ch with back := b } (ms.foldl (fun (t : State) m => t.refuseMsg m) s) ∧
      ∀ y, 0x200 ≤ y ∧ y < 0x400 → lookD b y 0 = lookD (s.chan ch).back y 0 + (ms.filter fun m => decide (m.sender = y)).length := by
  have hpeers : ms.foldl (fun (t : State) m => t.refuseMsg m) s = (ms.filter fun m => decide (0x200 ≤ m.sender)).foldl (fun (t : State) m => t.restoreCredit m) s := by
    rw [List.foldl_filter]
    simp only [State.refuseMsg, decide_eq_true_eq]
  obtain ⟨b, honly, hback⟩ := State.foldl_restoreCredit (ms.filter fun m => decide (0x200 ≤ m.sender)) s fun m hm => hms m (List.mem_of_mem_filter hm)
  refine ⟨b, hpeers ▸ honly, fun y hy => (hback y).trans ?_⟩
  rw [List.filter_filter]
  refine congrArg (fun l => _ + List.length l) (List.filter_congr fun m _ => ?_)
  rw [← Bool.decide_and]
  refine decide_eq_decide.2 ?_
  rw [s.creditKey_peer ch m.sender hy]
  omega

/-! ### Writes of FAB_CH_LO (R202, R203) -/

theorem chLo_parts (n : Nat) : bit (n / 2 * 2 + 1) 0 = true ∧ bit (n / 2 * 2) 0 = false ∧ bits (n / 2 * 2 + 1) 1 25 = n / 2 % 2 ^ 25 ∧
    bits (n / 2 * 2) 1 25 = n / 2 % 2 ^ 25 ∧ bits n 1 25 = n / 2 % 2 ^ 25 := by
  simp only [bit, bits, decide_eq_true_eq, decide_eq_false_iff_not]
  omega

/-- The other fields of FAB_CH_LO are written while the channel is disabled. -/
def State.chFields (s : State) (ch n : Nat) : State := s.setReg (R.FAB_CH_LO_EN.addr (chanPage ch) 0) (BitVec.ofNat 32 (n / 2 % 2 ^ 25 * 2))

theorem State.chDiffers_eq (s : State) (ch : Nat) {n k : Nat} (h : bits n 1 25 = bits k 1 25) : s.chDiffers ch n = s.chDiffers ch k := by
  unfold State.chDiffers
  rw [h]

theorem exec_channelEnable {s : State} (hr : s.hostReaches = true) (hon : s.domOn 3 = true) (data : Reg) :
    let ch := s.rd 0x0A0 R.FAB_CH_IDX_IDX
    let r := s.jrnHost 0xA0064
    exec (.channelEnable data) s = .next (
      if r.chEn ch then (if r.chDiffers ch data.toNat then r.wr (chanPage ch) R.FAB_CH_STAT_REFUSE 3 else r)
      else if (r.chan ch).draining then (r.chFields ch data.toNat).setChan ch { r.chan ch with pendEn := true }
      else (r.chFields ch data.toNat).chTryEnable ch) := by
  obtain ⟨hen, -, hfields, -, hsame⟩ := chLo_parts data.toNat
  refine congrArg Host.Outcome.next ((State.hostAt_reached (p := 0x0A0) hr hon _).trans ?_)
  unfold State.writeChLo State.chFields
  simp only [hen, hfields, if_true, State.chDiffers_eq _ _ (hfields.trans hsame.symm)]

theorem exec_channelDisable_disabled {s : State} (hr : s.hostReaches = true) (hon : s.domOn 3 = true) (data : Reg)
    (hno : (s.jrnHost 0xA0064).chEn (s.rd 0x0A0 R.FAB_CH_IDX_IDX) = false) :
    let ch := s.rd 0x0A0 R.FAB_CH_IDX_IDX
    let r := s.jrnHost 0xA0064
    exec (.channelDisable data) s = .next (if (r.chan ch).draining then (r.chFields ch data.toNat).setChan ch { r.chan ch with pendEn := false }
      else r.chFields ch data.toNat) := by
  obtain ⟨-, hdis, -, hfields, -⟩ := chLo_parts data.toNat
  refine congrArg Host.Outcome.next ((State.hostAt_reached (p := 0x0A0) hr hon _).trans ?_)
  unfold State.writeChLo State.chFields
  simp only [hdis, hfields, hno, Bool.false_eq_true, if_false]

/-- EN is cleared, and REFUSE set where the written fields differ. -/
def State.chCleared (s : State) (ch n : Nat) : State :=
  (if s.chDiffers ch n then s.wr (chanPage ch) R.FAB_CH_STAT_REFUSE 3 else s).wr (chanPage ch) R.FAB_CH_LO_EN 0

theorem State.chCleared_part {γ : Type} {g : State → γ} (hr : ∀ (t : State) (a : Nat) (v : Reg), g (t.setReg a v) = g t) (s : State) (ch n : Nat) :
    g (s.chCleared ch n) = g s := (hr ..).trans (ite_keeps g (hr ..) rfl)

theorem State.chCleared_shows (s : State) (ch n : Nat) :
    (s.chCleared ch n).chEn ch = false ∧ (s.chDiffers ch n = true → (s.chCleared ch n).rd (chanPage ch) R.FAB_CH_STAT_REFUSE = 3) := by
  refine ⟨(State.on_wr_self _ _ _ _ _ (by decide) rfl).trans (by decide), fun h => ?_⟩
  unfold State.chCleared
  rw [if_pos h, State.rd_wr_ne _ _ _ _ _ (by simp only [Fld.addr, R.FAB_CH_LO_EN, R.FAB_CH_STAT_REFUSE]; omega), State.rd_wr_self _ _ _ _ _ (by decide)]
  rfl

/-- The channel that a disable leaves draining, before waiting cogs and senders go on. -/
def State.chClosed (s : State) (ch n : Nat) : State :=
  let t := (s.chan ch).held.foldl (fun (t : State) m => t.refuseMsg m) (((s.chCleared ch n).cutFeeds ch).dropHub ch)
  t.setChan ch { flight := (s.chan ch).flight, draining := true, back := (t.chan ch).owed }

theorem exec_channelDisable_enabled {s : State} (hr : s.hostReaches = true) (hon : s.domOn 3 = true) (data : Reg)
    (hen : (s.jrnHost 0xA0064).chEn (s.rd 0x0A0 R.FAB_CH_IDX_IDX) = true) :
    exec (.channelDisable data) s = .next ((((s.jrnHost 0xA0064).chClosed (s.rd 0x0A0 R.FAB_CH_IDX_IDX) data.toNat).wakeReceivers
      (s.rd 0x0A0 R.FAB_CH_IDX_IDX)).flushOutbox) := by
  obtain ⟨-, hdis, -, hfields, hsame⟩ := chLo_parts data.toNat
  refine congrArg Host.Outcome.next ((State.hostAt_reached (p := 0x0A0) hr hon _).trans ?_)
  unfold State.writeChLo State.chClosed State.chCleared
  simp only [hdis, hen, if_true, Bool.false_eq_true, if_false, State.chDiffers_eq _ _ (hfields.trans hsame.symm)]

theorem State.chClosed_drains {s : State} {ch : Nat} (hheld : ∀ m ∈ (s.chan ch).held, m.chan = ch) (n : Nat) :
    (s.chClosed ch n).chEn ch = false ∧ ∃ b, (s.chClosed ch n).chan ch = { flight := (s.chan ch).flight, draining := true, back := b } ∧
      (∀ y, lookD b y 0 = if 0x200 ≤ y ∧ y < 0x400 then lookD (s.chan ch).back y 0 + ((s.chan ch).held.filter fun m => decide (m.sender = y)).length +
        (s.hubHold.filter fun m => decide (m.chan = ch ∧ m.sender = y)).length else 0) ∧
      (s.chDiffers ch n = true → (s.chClosed ch n).rd (chanPage ch) R.FAB_CH_STAT_REFUSE = 3) ∧ (∀ k, k ≠ ch → (s.chClosed ch n).chan k = s.chan k) ∧
      (s.chClosed ch n).mem = s.mem := by
  have hchan (k : Nat) : ((s.chCleared ch n).cutFeeds ch).chan k = s.chan k := State.chCleared_part (g := fun t => t.chan k) (fun _ _ _ => rfl) s ch n
  have hhold : ((s.chCleared ch n).cutFeeds ch).hubHold = s.hubHold := State.chCleared_part (g := State.hubHold) (fun _ _ _ => rfl) s ch n
  obtain ⟨c, hhub, hhubBack⟩ := ((s.chCleared ch n).cutFeeds ch).dropHub_only ch
  obtain ⟨d, hmsgs, hmsgsBack⟩ := State.foldl_refuseMsg hheld (((s.chCleared ch n).cutFeeds ch).dropHub ch)
  obtain ⟨hen, hrefuse⟩ := s.chCleared_shows ch n
  have honly : State.OnlyChan _ ch _ (s.chClosed ch n) := hhub.trans (hmsgs.setChan _)
  have hregs : (s.chClosed ch n).regs = (s.chCleared ch n).regs := honly.part (g := State.regs) fun _ _ => rfl
  refine ⟨(State.on_of_regs hregs ..).trans hen, _, honly.chan, fun y => ?_, fun h => (State.rd_of_regs hregs ..).trans (hrefuse h),
    fun k hk => (honly.others k hk).trans (hchan k), (honly.part (g := State.mem) fun _ _ => rfl).trans (State.chCleared_part (g := State.mem) (fun _ _ _ => rfl) s ch n)⟩
  rw [Chan.lookD_owed, hmsgs.chan]
  split
  · next hy =>
    have hpeer : (fun m : Msg => decide (m.chan = ch) && decide (((s.chCleared ch n).cutFeeds ch).creditKey ch m.sender = y)) = fun m => decide (m.chan = ch ∧ m.sender = y) :=
      funext fun m => by rw [← Bool.decide_and]; exact decide_eq_decide.2 (and_congr_right fun _ => State.creditKey_peer _ _ _ hy)
    refine (hmsgsBack y hy).trans ?_
    rw [hhub.chan, hhubBack y, hpeer, hhold, hchan]
    omega
  · rfl

/-! ### FAB_SET_MBR (R202) -/

theorem filter_put {α : Type} {p : Nat × α → Bool} {a : Nat} (hp : ∀ v, p (a, v) = false) (m : Sparse α) (v : α) : (put m a v).filter p = m.filter p := by
  induction m with
  | nil => exact List.filter_cons_of_neg (by simp [hp])
  | cons x m ih =>
    obtain ⟨k, w⟩ := x
    simp only [put]
    split
    · exact List.filter_cons_of_neg (by simp [hp])
    · split
      · next h =>
        subst h
        rw [List.filter_cons_of_neg (by simp [hp]), List.filter_cons_of_neg (by simp [hp])]
      · rw [List.filter_cons, List.filter_cons, ih]

/-- Whether an enabled ordered channel uses a set. -/
def State.setUsed (s : State) (set : Nat) : Bool :=
  s.knownChans.any fun ch => s.chEn ch && s.chOrd ch && decide (s.rd (chanPage ch) R.FAB_CH_LO_SET = set)

/-- A field of a set's member is none of a channel's descriptor. -/
theorem State.setUsed_wr (s : State) (set m : Nat) {f : Fld} (hf : f.off = 0x74) (v n : Nat) : (s.wr (setPage set m) f v).setUsed n = s.setUsed n := by
  have hknown : (s.wr (setPage set m) f v).knownChans = s.knownChans := by
    refine congrArg (List.map _) (filter_put (fun w => decide_eq_false fun h => ?_) s.regs _)
    simp only [Fld.addr, setPage, chanPage] at h
    omega
  have hrd (ch : Nat) {g : Fld} (hg : g.off = 0x64) : (s.wr (setPage set m) f v).rd (chanPage ch) g = s.rd (chanPage ch) g := by
    refine State.rd_wr_ne _ _ _ _ _ ?_
    simp only [Fld.addr]
    omega
  unfold State.setUsed State.chEn State.chOrd State.on
  simp only [hknown, hrd _ (g := R.FAB_CH_LO_EN) rfl, hrd _ (g := R.FAB_CH_LO_ORD) rfl, hrd _ (g := R.FAB_CH_LO_SET) rfl]

/-- A write of a member is taken while no enabled ordered channel uses the set, and else shown as rejected. -/
theorem State.writeSetMbr_cases (s : State) (n : Nat) :
    let set := s.rd 0x0A0 R.FAB_SET_IDX_SET
    let p := setPage set (s.rd 0x0A0 R.FAB_SET_IDX_MBR)
    (s.setUsed set = false → (s.writeSetMbr n).rd p R.FAB_SET_MBR_SENDER = n % 1024 ∧ (s.writeSetMbr n).rd p R.FAB_SET_MBR_VALID = n / 2 ^ 15 % 2) ∧
    (s.setUsed set = true → (s.writeSetMbr n).on p R.FAB_SET_MBR_REJECT = true ∧ (s.writeSetMbr n).rd p R.FAB_SET_MBR_SENDER = s.rd p R.FAB_SET_MBR_SENDER ∧
      (s.writeSetMbr n).rd p R.FAB_SET_MBR_VALID = s.rd p R.FAB_SET_MBR_VALID) := by
  intro set p
  have hclear : ∃ u : State, (if bit n 18 then s.wr p R.FAB_SET_MBR_REJECT 0 else s) = u ∧ u.setUsed set = s.setUsed set ∧
      u.rd p R.FAB_SET_MBR_SENDER = s.rd p R.FAB_SET_MBR_SENDER ∧ u.rd p R.FAB_SET_MBR_VALID = s.rd p R.FAB_SET_MBR_VALID := by
    split
    · exact ⟨_, rfl, s.setUsed_wr _ _ rfl 0 set, State.rd_wr_bits _ _ _ _ _ (by decide) (by decide), State.rd_wr_bits _ _ _ _ _ (by decide) (by decide)⟩
    · exact ⟨_, rfl, rfl, rfl, rfl⟩
  obtain ⟨u, hu, hused, hsender, hvalid⟩ := hclear
  have heq : s.writeSetMbr n = if u.setUsed set then u.wr p R.FAB_SET_MBR_REJECT 1 else (u.wr p R.FAB_SET_MBR_SENDER (n % 1024)).wr p R.FAB_SET_MBR_VALID (n / 2 ^ 15) :=
    hu ▸ rfl
  refine ⟨fun h => ?_, fun h => ?_⟩
  · rw [heq, if_neg (by simp [hused, h]), State.rd_wr_bits _ _ _ _ _ (by decide) (by decide), State.rd_wr_self _ _ _ _ _ (by decide), State.rd_wr_self _ _ _ _ _ (by decide)]
    exact ⟨Nat.mod_mod .., rfl⟩
  · rw [heq, if_pos (by simp [hused, h]), State.on_wr_self _ _ _ _ _ (by decide) rfl, State.rd_wr_bits _ _ _ _ _ (by decide) (by decide),
      State.rd_wr_bits _ _ _ _ _ (by decide) (by decide)]
    exact ⟨rfl, hsender, hvalid⟩

/-! ### The stall report (R211) -/

/-- An event of the hub's page leaves the words that show the stall. -/
theorem State.reg_pgEvt_hub (s : State) {a : Nat} (ha : hubWord a) (hne : R.PG_EVT_PEND_PEND.addr 0x0A0 0 ≠ a) (b : Nat) : (s.pgEvt 0x0A0 b).reg a = s.reg a := by
  refine ite_keeps (fun t => t.reg a) ?_ rfl
  dsimp only
  split
  · exact ((State.SameHub.raise ..).words a ha).trans (State.reg_wr_ne _ _ _ _ _ hne)
  · exact State.reg_wr_ne _ _ _ _ _ hne

theorem State.reportStall_shows (s : State) (ch x : Nat) :
    ((s.reportStall ch x).chan ch) = { s.chan ch with stall := true } ∧ (s.reportStall ch x).on 0x0A0 R.FAB_STALL_VALID = true ∧
      (s.reportStall ch x).rd 0x0A0 R.FAB_STALL_CHAN = ch % 4096 ∧ (s.reportStall ch x).rd 0x0A0 R.FAB_STALL_SENDER = x % 1024 := by
  have hword (t : State) (f : Fld) (hf : f.addr 0x0A0 0 = 0xA004C) : (t.pgEvt 0x0A0 0).rd 0x0A0 f = t.rd 0x0A0 f :=
    congrArg (fun v : Reg => bits v.toNat f.lo f.w) (t.reg_pgEvt_hub (by rw [hf]; decide) (by rw [hf]; decide) 0)
  refine ⟨(State.reportStall_part (g := fun t => t.chan ch) (fun _ _ _ => rfl) (fun _ _ => rfl) s ch x).trans (State.setChan_self ..), ?_⟩
  unfold State.reportStall State.on
  dsimp only
  rw [hword _ _ rfl, hword _ _ rfl, hword _ _ rfl]
  refine ⟨decide_eq_true ?_, ?_, State.rd_wr_self _ _ _ _ _ (by decide)⟩
  · rw [State.rd_wr_bits _ _ _ _ _ (by decide) (by decide), State.rd_wr_bits _ _ _ _ _ (by decide) (by decide)]
    exact State.rd_wr_self _ _ _ _ _ (by decide)
  · rw [State.rd_wr_bits _ _ _ _ _ (by decide) (by decide)]
    exact State.rd_wr_self _ _ _ _ _ (by decide)

theorem State.horizonStall_due {s : State} {ch : Nat} {a b since : Nat} {m : Msg} {x : Nat} (hon : s.domOn 3 = true)
    (hblocked : (s.chan ch).blocked = some (a, b, since)) (hleast : leastMsg (s.chan ch).held = some m) (hstall : (s.chan ch).stall = false)
    (hdead : s.rd 0x0A0 R.FAB_HZN_DEAD ≠ 0) (hlate : since + s.rd 0x0A0 R.FAB_HZN_DEAD * 1000 < s.tb)
    (hfind : (s.activeMembers ch).find? (s.blocks ch m) = some x) : s.horizonStall ch = s.reportStall ch x := by
  unfold State.horizonStall
  dsimp only
  rw [hblocked, hleast]
  dsimp only
  rw [if_pos (by simp [hon, hstall, hdead, hlate]), hfind]

theorem State.horizonStall_idle {s : State} {ch : Nat} (h : (s.chan ch).stall = true ∨ (s.chan ch).blocked = none) : s.horizonStall ch = s := by
  unfold State.horizonStall
  dsimp only
  rcases h with h | h
  · split
    · exact if_neg (by simp [h])
    · rfl
  · rw [h]

/-! ### FAB_CMD (R212, R227) -/

/-- A command as the hub takes it: a recording journal takes its BREAK record, and FAB_CMD shows it. -/
def State.fabTaken (s : State) (op ch x : Nat) : State :=
  (((s.jrnHost 0xA0050).wr 0x0A0 R.FAB_CMD_CHAN ch).wr 0x0A0 R.FAB_CMD_SENDER x).wr 0x0A0 R.FAB_CMD_OP op

theorem State.fabTaken_same (s : State) (op ch x : Nat) : s.SameHub (s.fabTaken op ch x) := by
  have hword (u : State) (f : Fld) (v : Nat) (hf : f.addr 0x0A0 0 = 0xA0050) : u.SameHub (u.wr 0x0A0 f v) := .wr u _ f v 0 fun h => h.2.2 hf
  exact (((State.SameHub.jrnHost s _).trans (hword _ _ _ rfl)).trans (hword _ _ _ rfl)).trans (hword _ _ _ rfl)

/-- A channel's set, if it is ordered, holds a sender. -/
abbrev State.setHas (s : State) (ch x : Nat) : Prop := s.chOrd ch = true ∧ x ∈ s.setSenders (s.rd (chanPage ch) R.FAB_CH_LO_SET)

theorem State.SameHub.setHas {s t : State} (h : s.SameHub t) {ch : Nat} (hch : ch < 4096) (x : Nat) : t.setHas ch x ↔ s.setHas ch x := by
  unfold State.setHas
  rw [h.chOrd hch, h.rd_chan hch (by decide), h.setSenders (s.rd_lt _ R.FAB_CH_LO_SET 0)]

theorem State.SameHub.injArmed {s t : State} (h : s.SameHub t) (b : Nat) : t.injArmed 0x0A0 b = s.injArmed 0x0A0 b :=
  congrArg (bit · b) (h.rd (by decide))

/-- What the hub makes of a command that it has taken. -/
theorem State.fabCmd_taken {s u : State} {op ch x : Nat} (hu : s.fabTaken op ch x = u) (hop : op ≠ 0) :
    s.fabCmd op ch x =
      if u.chEn ch = false ∨ op ≠ 3 ∧ ¬ u.setHas ch x then u.wr 0x0A0 R.FAB_CMD_REJECT 1
      else if op = 1 then (u.setMember ch x { u.member ch x with retired := true }).refresh ch
      else if op = 2 then ((u.setMember ch x { u.member ch x with retired := false, horizon := (u.chan ch).lastDelivered }).refresh ch).brakeIfHalt
      else ((((u.chan ch).held.foldl (fun (t : State) m => t.freeSlot m) u).dropHub ch).cutFeeds ch).refresh ch := by
  unfold State.fabTaken at hu
  unfold State.fabCmd
  dsimp only
  rw [hu, if_neg hop]
  refine if_congr ?_ rfl rfl
  unfold State.setHas
  cases u.chOrd ch <;> simp

/-- A member's state written, and the channel's timer with it. -/
theorem State.setMember_refresh {u : State} (h4 : u.injArmed 0x0A0 4 = false) (ch x : Nat) (y : Member) :
    ((u.setMember ch x y).refresh ch).member ch x = y ∧ (((u.setMember ch x y).refresh ch).chan ch).held = (u.chan ch).held ∧
      ∀ z, z ≠ x → ((u.setMember ch x y).refresh ch).member ch z = u.member ch z := by
  obtain ⟨b, hb⟩ := State.refresh_calm (s := u.setMember ch x y) h4 ch
  have hmember (z : Nat) : ((u.setMember ch x y).refresh ch).member ch z = if x = z then y else u.member ch z := by
    rw [hb, State.member, State.setChan_self, State.setMember, State.setChan_self]
    exact lookD_put ..
  refine ⟨(hmember x).trans (if_pos rfl), ?_, fun z hz => (hmember z).trans (if_neg (Ne.symm hz))⟩
  rw [hb, State.setChan_self, State.setMember, State.setChan_self]

/-- Every held message of a channel is discarded, and its credit returns (R212). -/
theorem State.foldl_freeSlot {ch : Nat} (ms : List Msg) : ∀ s : State, (s.chan ch).held = ms → (∀ m ∈ ms, m.chan = ch) →
    ∃ b, s.OnlyChan ch { s.chan ch with held := [], back := b } (ms.foldl (fun (t : State) m => t.freeSlot m) s) ∧
      ∀ y, lookD b y 0 = lookD (s.chan ch).back y 0 + (ms.filter fun m => decide (s.creditKey ch m.sender = y)).length := by
  induction ms with
  | nil =>
    intro s hheld _
    have hsame : { s.chan ch with held := [], back := (s.chan ch).back } = s.chan ch := by rw [← hheld]
    exact ⟨_, hsame ▸ .refl s ch, fun _ => rfl⟩
  | cons m ms ih =>
    intro s hheld hms
    have hm : m.chan = ch := hms m List.mem_cons_self
    have hunslot : s.OnlyChan ch { s.chan ch with held := ms } (s.unslot m) := by
      rw [State.unslot, hm, hheld, List.erase_cons_head]
      exact (State.OnlyChan.refl s ch).setChan _
    have hcredit := State.restoreCredit_only hm (s.unslot m)
    rw [hunslot.chan] at hcredit
    obtain ⟨b, honly, hback⟩ := ih (s.freeSlot m) (congrArg Chan.held hcredit.chan) fun x hx => hms x (List.mem_cons_of_mem _ hx)
    have hfree := hunslot.trans hcredit
    rw [State.freeSlot, hcredit.chan] at honly hback
    refine ⟨b, hfree.trans honly, fun y => (hback y).trans ?_⟩
    have hkey (t : State) (ht : t.regs = s.regs) (x : Nat) : t.creditKey ch x = s.creditKey ch x := by
      unfold State.creditKey State.chOrd
      rw [State.on_of_regs ht]
    simp only [hkey (s.unslot m) rfl, hkey ((s.unslot m).restoreCredit m) rfl, lookD_put, List.filter_cons, decide_eq_true_eq]
    split
    · next h =>
      rw [h, List.length_cons]
      omega
    · rfl

/-- A command that does not fit its channel is rejected. -/
theorem State.fabCmd_unfit {s : State} {op ch x : Nat} (hop : op ≠ 0) (hch : ch < 4096) (h : s.chEn ch = false ∨ op ≠ 3 ∧ ¬ s.setHas ch x) :
    s.fabCmd op ch x = (s.fabTaken op ch x).wr 0x0A0 R.FAB_CMD_REJECT 1 := by
  have hsame := s.fabTaken_same op ch x
  rw [State.fabCmd_taken rfl hop]
  exact if_pos (by rwa [hsame.chEn hch, hsame.setHas hch])

theorem State.SameHub.rejects {s u : State} (h : s.SameHub u) :
    (u.wr 0x0A0 R.FAB_CMD_REJECT 1).on 0x0A0 R.FAB_CMD_REJECT = true ∧ (u.wr 0x0A0 R.FAB_CMD_REJECT 1).chans = s.chans :=
  ⟨State.on_wr_self u _ _ _ _ (by decide) rfl, h.chans⟩

theorem State.fabCmd_rejects {s : State} {op ch x : Nat} (hop : op ≠ 0) (hch : ch < 4096) (h : s.chEn ch = false ∨ op ≠ 3 ∧ ¬ s.setHas ch x) :
    (s.fabCmd op ch x).on 0x0A0 R.FAB_CMD_REJECT = true ∧ (s.fabCmd op ch x).chans = s.chans := by
  rw [State.fabCmd_unfit hop hch h]
  exact (s.fabTaken_same op ch x).rejects

section
variable {s : State} {ch x : Nat} (h4 : s.injArmed 0x0A0 4 = false) (hch : ch < 4096) (hen : s.chEn ch = true)
include h4 hch hen

/-- Retire and restore write their member only (R212). -/
theorem State.fabCmd_retires (hset : s.setHas ch x) :
    (s.fabCmd 1 ch x).member ch x = { s.member ch x with retired := true } ∧ ((s.fabCmd 1 ch x).chan ch).held = (s.chan ch).held ∧
      ∀ y, y ≠ x → (s.fabCmd 1 ch x).member ch y = s.member ch y := by
  have hsame := s.fabTaken_same 1 ch x
  have hchan := State.chan_of_chans hsame.chans ch
  have hmember (y : Nat) := State.member_of_members (congrArg Chan.members hchan) y
  rw [State.fabCmd_taken rfl (by decide), if_neg (by simp [hsame.chEn hch, hen, hsame.setHas hch, hset]), if_pos rfl, ← hchan, ← hmember x]
  simp only [← hmember]
  exact State.setMember_refresh ((hsame.injArmed 4).trans h4) ..

theorem State.fabCmd_restores (hset : s.setHas ch x) :
    (s.fabCmd 2 ch x).member ch x = { s.member ch x with retired := false, horizon := (s.chan ch).lastDelivered } ∧
      ((s.fabCmd 2 ch x).chan ch).held = (s.chan ch).held ∧ ∀ y, y ≠ x → (s.fabCmd 2 ch x).member ch y = s.member ch y := by
  have hsame := s.fabTaken_same 2 ch x
  have hchan := State.chan_of_chans hsame.chans ch
  have hmember (y : Nat) := State.member_of_members (congrArg Chan.members hchan) y
  have hbrake (t : State) : t.brakeIfHalt.chan ch = t.chan ch := State.chan_of_chans t.brakeIfHalt_chans ch
  rw [State.fabCmd_taken rfl (by decide), if_neg (by simp [hsame.chEn hch, hen, hsame.setHas hch, hset]), if_neg (by decide), if_pos rfl, hbrake, ← hchan]
  simp only [← hmember, State.member_of_members (congrArg Chan.members (hbrake _))]
  exact State.setMember_refresh ((hsame.injArmed 4).trans h4) ..

/-- Flush discards what the channel holds and what the hub holds for it (R212). -/
theorem State.fabCmd_flushes (hheld : ∀ m ∈ (s.chan ch).held, m.chan = ch) :
    ((s.fabCmd 3 ch x).chan ch).held = [] ∧ ((s.fabCmd 3 ch x).chan ch).flight = (s.chan ch).flight ∧
      (∀ y, lookD ((s.fabCmd 3 ch x).chan ch).back y 0 = lookD (s.chan ch).back y 0 + ((s.chan ch).held.filter fun m => decide (s.creditKey ch m.sender = y)).length +
        (s.hubHold.filter fun m => decide (m.chan = ch) && decide (s.creditKey ch m.sender = y)).length) ∧
      (s.fabCmd 3 ch x).hubHold = s.hubHold.filter fun m => decide (m.chan ≠ ch) := by
  have hsame := s.fabTaken_same 3 ch x
  generalize hu : s.fabTaken 3 ch x = u at hsame
  have hchan := State.chan_of_chans hsame.chans ch
  have hkey (y : Nat) : u.creditKey ch y = s.creditKey ch y := by
    unfold State.creditKey
    rw [hsame.chOrd hch]
  obtain ⟨b, hslots, hslotsBack⟩ := State.foldl_freeSlot (u.chan ch).held u rfl (hchan ▸ hheld)
  generalize hv : (u.chan ch).held.foldl (fun (t : State) m => t.freeSlot m) u = v at hslots
  have hregs : v.regs = u.regs := hslots.part (g := State.regs) fun _ _ => rfl
  have hhold : v.hubHold = s.hubHold := (hslots.part (g := State.hubHold) fun _ _ => rfl).trans hsame.hold
  have hkeyv (y : Nat) : v.creditKey ch y = s.creditKey ch y := by
    rw [← hkey]
    unfold State.creditKey State.chOrd
    rw [State.on_of_regs hregs]
  obtain ⟨c, hhub, hhubBack⟩ := v.dropHub_only ch
  have hinj : ((v.dropHub ch).cutFeeds ch).injArmed 0x0A0 4 = false := by
    have hdrop : (v.dropHub ch).regs = u.regs := (hhub.part (g := State.regs) fun _ _ => rfl).trans hregs
    exact (congrArg (bit · 4) (State.rd_of_regs hdrop ..)).trans ((hsame.injArmed 4).trans h4)
  obtain ⟨k, hk⟩ := State.refresh_calm hinj ch
  rw [State.fabCmd_taken hu (by decide), if_neg (by simp [hsame.chEn hch, hen]), if_neg (by decide), if_neg (by decide), hv, hk, State.setChan_self]
  have hcut : ((v.dropHub ch).cutFeeds ch).chan ch = (v.dropHub ch).chan ch := rfl
  rw [hcut, hhub.chan, hslots.chan, ← hchan]
  refine ⟨rfl, rfl, fun y => ?_, ?_⟩
  · refine (hhubBack y).trans ?_
    rw [hslots.chan]
    simp only [hslotsBack, hkey, hkeyv, hhold]
  · exact (hhub.part (g := State.hubHold) fun _ _ => rfl).trans (congrArg (List.filter _) hhold)

end

/-! ### The obligation -/

theorem exec_fabCmd {s : State} (hr : s.hostReaches = true) (hon : s.domOn 3 = true) (ch : Fin 4096) (x : Fin 1024) :
    exec (.fabCmdRetire ch x) s = .next (s.fabCmd 1 ch x) ∧ exec (.fabCmdRestore ch x) s = .next (s.fabCmd 2 ch x) ∧
      exec (.fabCmdFlush ch x) s = .next (s.fabCmd 3 ch x) := by
  refine ⟨?_, ?_, ?_⟩ <;> exact congrArg Host.Outcome.next (State.hostAt_reached (p := 0x0A0) hr hon _)

/-- Settles O28: each write of FAB_CH_LO by what the channel is, the stall report, and each FAB_CMD on the state after its BREAK record. -/
theorem channelsOpenCloseStallAndTakeCommands : Obligations.ChannelsOpenCloseStallAndTakeCommands := by
  refine ⟨⟨fun t ch hheld hflight => ?_, fun s hrec => if_neg (by simp [hrec]), fun s data hr hon => ⟨fun hen hdr => ?_, fun hen hdr => ?_, fun hen => ?_, fun hen => ?_,
    fun hen hheld => ?_⟩, fun ch s => rfl, fun s data hr hon => ?_, fun ch s a b since m x hon hblocked hleast hstall hdead hlate hfind hx => ?_,
    fun ch s h => congrArg Host.Outcome.next (State.horizonStall_idle h)⟩, fun ch x s hr hon h4 => ?_⟩
  · obtain ⟨b, honly, hpeers⟩ := State.emptyChan_only hheld hflight
    exact ⟨b, honly.chan, hpeers, honly.part (g := State.regs) fun _ _ => rfl, honly.others⟩
  · rw [exec_channelEnable hr hon, if_neg (by simp [hen]), if_neg (by simp [hdr])]
    rfl
  · rw [exec_channelEnable hr hon, if_neg (by simp [hen]), if_pos hdr]
    rfl
  · rw [exec_channelEnable hr hon, if_pos hen]
  · exact exec_channelDisable_disabled hr hon data hen
  · obtain ⟨hdis, b, hchan, hback, hrefuse, hothers, hmem⟩ := State.chClosed_drains hheld data.toNat
    exact ⟨_, b, exec_channelDisable_enabled hr hon data hen, hdis, hchan, hback, hrefuse, hothers, hmem⟩
  · obtain ⟨hfree, hused⟩ := s.writeSetMbr_cases data.toNat
    obtain ⟨-, -, hmem⟩ := s.writeSetMbr_keeps data.toNat
    exact ⟨_, congrArg Host.Outcome.next (State.hostAt_reached (p := 0x0A0) hr hon _), hmem, hfree, hused⟩
  · obtain ⟨-, -, hmem⟩ := s.horizonStall_keeps ch
    rw [State.horizonStall_due hon hblocked hleast hstall hdead hlate hfind] at hmem
    obtain ⟨hchan, hvalid, hshown, hsender⟩ := s.reportStall_shows ch x
    exact ⟨_, congrArg Host.Outcome.next (State.horizonStall_due hon hblocked hleast hstall hdead hlate hfind), congrArg Chan.stall hchan, (congrArg Chan.held hchan :), hvalid,
      hshown.trans (Nat.mod_eq_of_lt ch.isLt), hsender.trans (Nat.mod_eq_of_lt hx), hmem⟩
  · intro valid rejected
    obtain ⟨hretire, hrestore, hflush⟩ := exec_fabCmd hr hon ch x
    have hmem (op : Nat) : (s.fabCmd op ch x).mem = s.mem := (s.fabCmd_keeps op ch x).2.2
    have hrejects {e : Instr} {op : Nat} (he : exec e s = .next (s.fabCmd op ch x)) (hop : op ≠ 0) (h : s.chEn ch = false ∨ op ≠ 3 ∧ ¬ valid) : rejected e := by
      obtain ⟨hreject, hchans⟩ := State.fabCmd_rejects hop ch.isLt h
      exact ⟨_, he, hreject, hchans, hmem op⟩
    refine ⟨fun hen hset => ⟨?_, ?_⟩, fun hen hheld => ?_, fun h => ⟨?_, ?_⟩, fun h => ?_⟩
    · obtain ⟨hmember, hheld, hothers⟩ := State.fabCmd_retires h4 ch.isLt hen hset
      exact ⟨_, hretire, hmember, hheld, hothers, hmem 1⟩
    · obtain ⟨hmember, hheld, hothers⟩ := State.fabCmd_restores h4 ch.isLt hen hset
      exact ⟨_, hrestore, hmember, hheld, hothers, hmem 2⟩
    · obtain ⟨hnone, hflight, hback, hhold⟩ := State.fabCmd_flushes (x := x) h4 ch.isLt hen hheld
      exact ⟨_, hflush, hnone, hflight, hback, hhold, hmem 3⟩
    · exact hrejects hretire (by decide) (h.imp_right fun hset => ⟨by decide, hset⟩)
    · exact hrejects hrestore (by decide) (h.imp_right fun hset => ⟨by decide, hset⟩)
    · exact hrejects hflush (by decide) (.inl h)

end Sys2Proof.Machine
end

section
/-! PROOFS. Pushes, closes, pops and drops of a queue (R217 to R224). -/

namespace Sys2Proof.Machine

/-! ### Operations on one queue -/

@[simp] theorem State.setQueue_setQueue (s : State) (q : Nat) (x y : Queue) : (s.setQueue q x).setQueue q y = s.setQueue q y := by
  simp only [State.setQueue, put_put]

/-- The queue `q` stands in `t` as `x`, every other queue, the channels, the registers, the timebase and the stores as in `s`. -/
structure State.OnlyQueue (s : State) (q : Nat) (x : Queue) (t : State) : Prop where
  queue  : t.queue q = x
  others : ∀ r, r ≠ q → t.queue r = s.queue r
  chans  : t.chans = s.chans
  regs   : t.regs = s.regs
  tb     : t.tb = s.tb
  mem    : t.mem = s.mem

theorem State.OnlyQueue.refl (s : State) (q : Nat) : s.OnlyQueue q (s.queue q) s := ⟨rfl, fun _ _ => rfl, rfl, rfl, rfl, rfl⟩

theorem State.OnlyQueue.set (s : State) (q : Nat) (x : Queue) : s.OnlyQueue q x (s.setQueue q x) :=
  ⟨State.setQueue_self .., fun _ hr => State.setQueue_ne _ _ _ (Ne.symm hr), rfl, rfl, rfl, rfl⟩

theorem State.OnlyQueue.trans {s t u : State} {q : Nat} {x y : Queue} (h : s.OnlyQueue q x t) (h' : t.OnlyQueue q y u) : s.OnlyQueue q y u :=
  ⟨h'.queue, fun r hr => (h'.others r hr).trans (h.others r hr), h'.chans.trans h.chans, h'.regs.trans h.regs, h'.tb.trans h.tb, h'.mem.trans h.mem⟩

theorem State.OnlyQueue.qrd {s t : State} {q : Nat} {x : Queue} (h : s.OnlyQueue q x t) (r : Nat) (f : Fld) : t.qrd r f = s.qrd r f := State.rd_of_regs h.regs ..

theorem State.OnlyQueue.qCap {s t : State} {q : Nat} {x : Queue} (h : s.OnlyQueue q x t) (r : Nat) : t.qCap r = s.qCap r :=
  congrArg (2 ^ ·) (h.qrd r _)

/-- A queue's level source is of the controller's clock domain: its raise changes what is on its way only (R402, R404). -/
theorem State.OnlyQueue.qLevel {s t : State} {q : Nat} (hq : q < 256) {x : Queue} (h : s.OnlyQueue q x t) : s.OnlyQueue q x (t.qLevel q) := by
  have hraise (u : State) : u.raise (272 + q) = u.cross (272 + q) := by
    have hown : isReservedSource (272 + q) = false := decide_eq_false (by omega)
    have hclock : sourceCrosses (272 + q) = false := decide_eq_false (by omega)
    unfold State.raise
    rw [hown, hclock]
    rfl
  have hpart {γ : Type} {g : State → γ} (hsrc : ∀ u n y, g (State.setSrc u n y) = g u) (hcross : ∀ u n, g (State.cross u n) = g u) : g (t.qLevel q) = g t := by
    unfold State.qLevel State.levelSource
    dsimp only
    rw [hraise]
    exact ite_keeps g ((hcross ..).trans (ite_keeps g rfl (hsrc ..))) (ite_keeps g rfl (hsrc ..))
  have hqueues : (t.qLevel q).queues = t.queues := hpart (g := State.queues) (fun _ _ _ => rfl) fun _ _ => ite_keeps State.queues rfl rfl
  obtain ⟨htb, -, hmem⟩ := t.qLevel_keeps q
  exact ⟨(State.queue_of_queues hqueues q).trans h.queue, fun r hr => (State.queue_of_queues hqueues r).trans (h.others r hr),
    (hpart (g := State.chans) (fun _ _ _ => rfl) fun _ _ => ite_keeps State.chans rfl rfl).trans h.chans,
    (hpart (g := State.regs) (fun _ _ _ => rfl) fun _ _ => ite_keeps State.regs rfl rfl).trans h.regs, htb.trans h.tb, hmem.trans h.mem⟩

/-! ### Pushes and closes (R218, R219, R222, R223) -/

/-- The queue with a word pushed at a time. -/
def Queue.pushed (x : Queue) (w time : Nat) : Queue := { x with touched := time, opened := x.opened ++ [w % 2 ^ 14] }

/-- The queue with its open quad closed at the tail. -/
def Queue.closed (x : Queue) (eop tmo : Bool) : Queue :=
  { x with opened := [], closeWait := none, lossNext := false,
           quads := x.quads ++ [{ words := (x.opened ++ [0, 0, 0, 0]).take 4, valid := x.opened.length, eop := eop, tmo := tmo, loss := x.lossNext }] }

/-- The quad that a pushed word closes. -/
def Queue.lastQuad (x : Queue) (w : Nat) (eop loss : Bool) : Quad :=
  { words := (x.opened ++ [w % 2 ^ 14] ++ [0, 0, 0, 0]).take 4, valid := x.opened.length + 1, eop := eop, loss := loss }

theorem Queue.closed_pushed_quads (x : Queue) (w time : Nat) (eop : Bool) :
    ((x.pushed w time).closed eop false).quads = x.quads ++ [x.lastQuad w eop x.lossNext] := by
  simp [Queue.closed, Queue.pushed, Queue.lastQuad]

theorem State.closeQuad_closes {s : State} {q : Nat} (hq : q < 256) (hdrop : (s.queue q).dropping = false) (eop tmo : Bool) :
    s.OnlyQueue q ((s.queue q).closed eop tmo) (s.closeQuad q (s.queue q).opened eop tmo) := by
  unfold State.closeQuad
  dsimp only
  rw [if_neg (by simp [hdrop])]
  exact (State.OnlyQueue.set ..).qLevel hq

theorem State.closeQuad_discards {s : State} {q : Nat} (hdrop : (s.queue q).dropping = true) (words : List Nat) (eop tmo : Bool) :
    s.OnlyQueue q { s.queue q with opened := [], closeWait := none, dropping := !eop } (s.closeQuad q words eop tmo) := by
  unfold State.closeQuad
  dsimp only
  rw [if_pos hdrop]
  exact .set ..

/-- Whether a push closes the open quad. -/
abbrev Queue.shuts (x : Queue) (eop : Bool) : Prop := eop = true ∨ 3 ≤ x.opened.length

theorem State.qCloses_iff (s : State) (q : Nat) (eop : Bool) : s.qCloses q eop = true ↔ (s.queue q).shuts eop := by
  simp [State.qCloses]

theorem State.qBlocked_iff (s : State) (q : Nat) (eop : Bool) :
    s.qBlocked q eop = true ↔ (s.queue q).closeWait ≠ none ∨ (s.queue q).shuts eop ∧ (s.queue q).dropping = false ∧ s.qCap q ≤ (s.queue q).quads.length := by
  simp [State.qBlocked, State.qCloses, Option.isSome_iff_ne_none, and_assoc]

/-- What the queue is after a push that does not wait. -/
theorem State.OnlyQueue.qTryPush {s u : State} {q : Nat} {x : Queue} (hq : q < 256) (hu : s.OnlyQueue q x u) (hfree : x.closeWait = none) (w : Nat) (eop : Bool) :
    (¬ x.shuts eop → ∃ t, u.qTryPush q w eop = some t ∧ s.OnlyQueue q (x.pushed w s.tb) t) ∧
    (x.dropping = false → x.shuts eop → ¬ s.qCap q ≤ x.quads.length →
      ∃ t, u.qTryPush q w eop = some t ∧ s.OnlyQueue q ((x.pushed w s.tb).closed eop false) t) ∧
    (x.dropping = true → x.shuts eop →
      ∃ t, u.qTryPush q w eop = some t ∧ s.OnlyQueue q { x.pushed w s.tb with opened := [], closeWait := none, dropping := !eop } t) := by
  rw [← hu.queue] at hfree ⊢
  rw [← hu.tb, ← hu.qCap]
  have hpushed := State.OnlyQueue.set u q ((u.queue q).pushed w u.tb)
  have hshuts := u.qCloses_iff q eop
  have hgo (h : ¬ u.qBlocked q eop = true) : u.qTryPush q w eop = some (if u.qCloses q eop then
      (u.setQueue q ((u.queue q).pushed w u.tb)).closeQuad q ((u.queue q).pushed w u.tb).opened eop false else u.setQueue q ((u.queue q).pushed w u.tb)) := if_neg h
  rw [u.qBlocked_iff q eop] at hgo
  generalize u.setQueue q ((u.queue q).pushed w u.tb) = v at hpushed hgo
  refine ⟨fun hno => ⟨_, hgo (by simp [hfree, hno]), ?_⟩, fun hdrop hyes hroom => ⟨_, hgo (by simp [hfree, hroom]), ?_⟩, fun hdrop hyes => ⟨_, hgo (by simp [hfree, hdrop]), ?_⟩⟩
  · rw [if_neg (hshuts.not.2 hno)]
    exact hu.trans hpushed
  · rw [if_pos (hshuts.2 hyes), ← hpushed.queue]
    exact hu.trans (hpushed.trans (State.closeQuad_closes hq (by rwa [hpushed.queue]) eop false))
  · rw [if_pos (hshuts.2 hyes), ← hpushed.queue]
    exact hu.trans (hpushed.trans (State.closeQuad_discards (by rwa [hpushed.queue]) _ eop false))

theorem State.qTryPush_waits {s : State} {q : Nat} {eop : Bool}
    (h : (s.queue q).closeWait ≠ none ∨ (s.queue q).shuts eop ∧ (s.queue q).dropping = false ∧ s.qCap q ≤ (s.queue q).quads.length) (w : Nat) :
    s.qTryPush q w eop = none := if_pos ((s.qBlocked_iff q eop).2 h)

/-- A close without a push (R218, R222). -/
theorem State.qClose_cases {s : State} {q : Nat} (hq : q < 256) (tmo : Bool) :
    ((s.queue q).opened ≠ [] → (s.queue q).dropping = false → ¬ s.qCap q ≤ (s.queue q).quads.length → s.OnlyQueue q ((s.queue q).closed false tmo) (s.qClose q tmo)) ∧
    ((s.queue q).opened ≠ [] → (s.queue q).dropping = false → s.qCap q ≤ (s.queue q).quads.length →
      s.qClose q tmo = s.setQueue q { s.queue q with closeWait := some (tmo || (s.queue q).closeWait.getD false) }) ∧
    ((s.queue q).opened = [] → s.qClose q tmo = s) := by
  unfold State.qClose
  dsimp only
  refine ⟨fun hopen hdrop hroom => ?_, fun hopen hdrop hfull => ?_, fun hopen => if_pos (by simp [hopen])⟩ <;> rw [if_neg (by simpa using hopen)]
  · rw [if_neg (by simp [hroom])]
    exact State.closeQuad_closes hq hdrop ..
  · exact if_pos (by simp [hdrop, hfull])


/-! ### The producers (R218 to R220, R224) -/

/-- A loose channel that feeds a queue's input. -/
theorem State.feeders_loose {s : State} {r ch : Nat} (h : ch ∈ s.feeders r) : s.chEn ch = true ∧ s.chOrd ch = false := by
  obtain ⟨-, hch⟩ := List.mem_filter.1 h
  simp only [Bool.and_eq_true, Bool.not_eq_true'] at hch
  exact ⟨hch.1.1.1, hch.1.1.2⟩

/-- The next word of a chain producer's buffer, which notes a loss before it. -/
theorem State.qNext_chain {s : State} {q w : Nat} {eop loss : Bool} {rest : List (Nat × Bool × Bool)} (hkind : s.qrd q R.QSRC_KIND = 2)
    (hbuffer : (s.queue q).buffer = (w, eop, loss) :: rest) :
    ∃ u, s.qNext q = (some (w, eop), u) ∧ s.OnlyQueue q { s.queue q with lossNext := (s.queue q).lossNext || loss } u ∧ ∀ y, u.setQueue q y = s.setQueue q y := by
  have hnext : s.qNext q = (some (w, eop), if loss then s.setQueue q { s.queue q with lossNext := true } else s) := by
    unfold State.qNext
    dsimp only
    rw [if_neg (by simp [hkind]), if_pos hkind]
    generalize s.setQueue q _ = u
    rw [hbuffer]
  rw [hnext]
  cases loss with
  | false => exact ⟨_, rfl, by simpa using .refl s q, fun _ => rfl⟩
  | true => exact ⟨_, rfl, by simpa using .set s q _, fun y => s.setQueue_setQueue q _ y⟩

/-- The next word of the loose message that the queue takes in, or of the first that arrives. -/
theorem State.qNext_loose {s : State} {q ch n : Nat} {m : Msg} {ms : List Msg} (hkind : s.qrd q R.QSRC_KIND = 1) (hheld : (s.chan ch).held = m :: ms)
    (hturn : (s.queue q).part = some (ch, n) ∨ ((s.queue q).part = none ∧ n = 0 ∧
      (s.feeders (0x200 + q)).find? (fun k => !(s.chan k).held.isEmpty) = some ch ∧ s.injArmed 0x0A0 2 = false ∧ s.injArmed 0x0A0 3 = false)) :
    ∃ u, s.qNext q = (some (m.words.getD n 0, decide (n + 1 = m.words.length)), u) ∧ s.OnlyQueue q { s.queue q with part := some (ch, n) } u ∧
      ∀ y, u.setQueue q y = s.setQueue q y := by
  unfold State.qNext
  dsimp only
  rw [if_pos hkind]
  obtain hpart | ⟨hpart, hn, hfind, h2, h3⟩ := hturn
  · have hsame : { s.queue q with part := some (ch, n) } = s.queue q := by rw [← hpart]
    rw [hpart]
    dsimp only
    rw [hheld]
    exact ⟨s, rfl, hsame ▸ .refl s q, fun _ => rfl⟩
  · obtain ⟨hen, hord⟩ := State.feeders_loose (List.mem_of_find?_eq_some hfind)
    have hread : s.readSlot ch = (some m, s) := by
      unfold State.readSlot
      rw [State.deliverable_loose hen hord, hheld]
      dsimp only [List.head?_cons]
      rw [if_neg (by simp [h3]), if_neg (by simp [h2])]
    rw [hpart, hfind]
    dsimp only
    rw [hread]
    subst hn
    exact ⟨_, by simp only [Nat.zero_add, eq_comm], .set s q _, fun y => s.setQueue_setQueue q _ y⟩

/-- A chain producer's word leaves its buffer. -/
theorem State.qTaken_chain {s : State} {q : Nat} (hkind : s.qrd q R.QSRC_KIND = 2) :
    s.OnlyQueue q { s.queue q with buffer := (s.queue q).buffer.tail } (s.qTaken q) := by
  unfold State.qTaken
  dsimp only
  rw [if_neg (by simp [hkind])]
  exact .set ..

/-- The queue `q` stands in `t` as `x`, every other queue and the stores as in `s`. -/
structure State.QueueAs (s : State) (q : Nat) (x : Queue) (t : State) : Prop where
  queue  : t.queue q = x
  others : ∀ r, r ≠ q → t.queue r = s.queue r
  mem    : t.mem = s.mem

theorem State.OnlyQueue.as {s t : State} {q : Nat} {x : Queue} (h : s.OnlyQueue q x t) : s.QueueAs q x t := ⟨h.queue, h.others, h.mem⟩

theorem State.QueueAs.trans {s t u : State} {q : Nat} {x y : Queue} (h : s.QueueAs q x t) (h' : t.QueueAs q y u) : s.QueueAs q y u :=
  ⟨h'.queue, fun r hr => (h'.others r hr).trans (h.others r hr), h'.mem.trans h.mem⟩

/-- A delivery, and what the queue notes of it. -/
theorem State.QueueAs.deliver (s : State) (m : Msg) (q : Nat) (x : Queue) : s.QueueAs q x ((s.deliver m).setQueue q x) := by
  obtain ⟨-, -, hmem⟩ := s.deliver_keeps m
  exact ⟨State.setQueue_self .., fun r hr => (State.setQueue_ne _ _ _ (Ne.symm hr)).trans (State.queue_of_queues (s.deliver_queues m) r), hmem⟩

/-- A loose message's word is counted, its last with its slot freed. -/
theorem State.qTaken_loose {s : State} {q ch n : Nat} {m : Msg} {ms : List Msg} (hkind : s.qrd q R.QSRC_KIND = 1) (hpart : (s.queue q).part = some (ch, n))
    (hheld : (s.chan ch).held = m :: ms) (hm : m.chan = ch) :
    let last := n + 1 = m.words.length
    s.QueueAs q { s.queue q with part := if last then none else some (ch, n + 1) } (s.qTaken q) ∧ ((s.qTaken q).chan ch).held = if last then ms else m :: ms := by
  intro last
  unfold State.qTaken
  dsimp only
  rw [if_pos hkind, hpart]
  dsimp only
  rw [hheld]
  dsimp only
  by_cases hlast : last
  · rw [if_pos hlast, if_pos hlast, if_pos hlast]
    refine ⟨.deliver .., ?_⟩
    have hfreed := s.deliver_held m
    rwa [hm, hheld, List.erase_cons_head] at hfreed
  · rw [if_neg hlast, if_neg hlast, if_neg hlast]
    exact ⟨(State.OnlyQueue.set ..).as, hheld⟩

/-- Whatever the producer, its word's entry changes its own place only. -/
theorem State.qTaken_as (s : State) (q : Nat) : ∃ p b, s.QueueAs q { s.queue q with part := p, buffer := b } (s.qTaken q) := by
  unfold State.qTaken
  dsimp only
  split
  · split
    · split
      · split
        · exact ⟨_, _, .deliver ..⟩
        · exact ⟨_, _, (State.OnlyQueue.set ..).as⟩
      · exact ⟨_, _, (State.OnlyQueue.set ..).as⟩
    · exact ⟨_, _, (State.OnlyQueue.refl s q).as⟩
  · exact ⟨_, _, (State.OnlyQueue.set ..).as⟩

/-- QUEUE_PUSH of a word that is ready: it enters, and its producer goes on, or it waits. -/
theorem State.OnlyQueue.queuePush {s u : State} {q w : Nat} {eop : Bool} {x : Queue} (hq : q < 256) (hu : s.OnlyQueue q x u) (hon : s.qOn q = true)
    (hwait : (s.queue q).waiting = none) (hnext : s.qNext q = (some (w, eop), u)) (hfree : x.closeWait = none) (hdrop : x.dropping = false) :
    (¬ x.shuts eop → ∃ t, s.queuePush q = t.qTaken q ∧ s.OnlyQueue q (x.pushed w s.tb) t) ∧
    (x.shuts eop → ¬ s.qCap q ≤ x.quads.length → ∃ t, s.queuePush q = t.qTaken q ∧ s.OnlyQueue q ((x.pushed w s.tb).closed eop false) t) ∧
    (x.shuts eop → s.qCap q ≤ x.quads.length → s.queuePush q = u.setQueue q { x with waiting := some (w, eop) }) := by
  have hpush : (∀ t, u.qTryPush q w eop = some t → s.queuePush q = t.qTaken q) ∧
      (u.qTryPush q w eop = none → s.queuePush q = u.setQueue q { u.queue q with waiting := some (w, eop) }) := by
    unfold State.queuePush
    rw [if_neg (by simp [hon, hwait])]
    dsimp only
    rw [hnext]
    refine ⟨fun t ht => ?_, fun ht => ?_⟩ <;> dsimp only <;> rw [ht]
  obtain ⟨henters, hwaits⟩ := hpush
  obtain ⟨hjoins, hcloses, -⟩ := hu.qTryPush hq hfree w eop
  refine ⟨fun hno => ?_, fun hyes hroom => ?_, fun hyes hfull => ?_⟩
  · obtain ⟨t, ht, h⟩ := hjoins hno
    exact ⟨t, henters t ht, h⟩
  · obtain ⟨t, ht, h⟩ := hcloses hdrop hyes hroom
    exact ⟨t, henters t ht, h⟩
  · rw [hwaits (State.qTryPush_waits (by rw [hu.queue, hu.qCap]; exact .inr ⟨hyes, hdrop, hfull⟩) w), hu.queue]

/-- QUEUE_PUSH_RESUME of a push that waits, with a slot free. -/
theorem State.queueResume_push {s t : State} {q w : Nat} {eop : Bool} (hon : s.qOn q = true) (hroom : ¬ s.qCap q ≤ (s.queue q).quads.length)
    (hclose : (s.queue q).closeWait = none) (hwait : (s.queue q).waiting = some (w, eop))
    (ht : (s.setQueue q { s.queue q with waiting := none }).qTryPush q w eop = some t) : s.queueResume q = t.qTaken q := by
  unfold State.queueResume
  dsimp only
  rw [if_neg (by simp [hon, hroom])]
  dsimp only at ht
  generalize s.setQueue q _ = u at ht ⊢
  rw [hclose, hwait]
  dsimp only
  rw [ht]

/-- QUEUE_TIMEOUT of an open quad that is due. -/
theorem State.queueTimeout_due {s : State} {q : Nat} (hon : s.qOn q = true) (hclose : (s.queue q).closeWait = none) (hopen : (s.queue q).opened ≠ [])
    (hfrozen : s.frozen (qPage q) = false) (hns : s.qrd q R.QTMO_NS ≠ 0) (hdue : (s.queue q).touched + s.qrd q R.QTMO_NS ≤ s.tb) :
    s.queueTimeout q = s.qClose q true := if_pos (by simp [hon, hclose, hopen, hfrozen, hns, hdue])

/-- The pages of the queues are of FABRIC (R229, R437). -/
theorem State.pageOn_qPage (s : State) {q : Nat} (hq : q < 256) : s.pageOn (qPage q) = s.domOn 3 := by
  have hdom : ∀ k < 16, pageDom (0x0B0 + k) = 3 := by decide
  exact congrArg s.domOn (hdom _ (by omega))

/-- A push by the host (R219, R229). -/
theorem exec_qpush {s : State} {q : Fin 256} (hr : s.hostReaches = true) (hon : s.qOn q = true) (hkind : s.qrd q R.QSRC_KIND = 0) (w : Word) (eop : Bool) :
    exec (.qpush q w eop) s = .next ((s.qTryPush q w.toNat eop).getD (s.bump (qPage q) R.QCNT_HDROP (q % 16))) := by
  have hpage : s.pageOn (qPage q) = true := (s.pageOn_qPage q.isLt).trans (Bool.and_eq_true_iff.1 hon).1
  exact congrArg Host.Outcome.next ((State.hostAt_reached hr hpage _).trans (if_neg (by simp [hon, hkind])))

/-- Settles O29: each push by whether it closes the open quad, and by whether there is a slot. -/
theorem queuesPushInOrder : Obligations.QueuesPushInOrder := by
  intro q s hon x shuts full joins closes
  have hown := State.OnlyQueue.refl s q
  have hjoins {t : State} {y : Queue} {w : Nat} (h : s.QueueAs q y t) (hopen : y.opened = x.opened ++ [w % 2 ^ 14]) (hquads : y.quads = x.quads)
      (htouched : y.touched = s.tb) : joins t w := by
    rw [← h.queue] at hopen hquads htouched
    exact ⟨hopen, hquads, htouched, h.mem, h.others⟩
  have hcloses {t : State} {y : Queue} {w : Nat} {eop loss : Bool} (h : s.QueueAs q y t) (hopen : y.opened = [])
      (hquads : y.quads = x.quads ++ [x.lastQuad w eop (x.lossNext || loss)]) : closes t w eop loss := by
    rw [← h.queue] at hopen hquads
    exact ⟨hopen, hquads, h.mem, h.others⟩
  have hquads (w : Nat) (eop : Bool) : ((x.pushed w s.tb).closed eop false).quads = x.quads ++ [x.lastQuad w eop (x.lossNext || false)] := by
    rw [Bool.or_false]
    exact x.closed_pushed_quads w s.tb eop
  refine ⟨fun w eop hr hkind => ⟨fun hfree hdrop => ?_, fun hfree hdrop hyes => ?_, fun hbusy => ?_⟩, fun w eop loss rest hfree hdrop hkind hwait hbuffer => ?_,
    fun ch n m ms hfree hdrop hkind hwait hheld hm hturn => ?_, fun w eop hfree hdrop hwait hyes hroom => ?_, fun hfree hdrop hopen hfrozen hns hdue => ?_⟩
  · obtain ⟨hpushes, hshuts, -⟩ := hown.qTryPush q.isLt hfree w.toNat eop
    refine ⟨fun hno => ?_, fun hyes hroom => ?_, fun hyes hfull => ?_⟩ <;> rw [exec_qpush hr hon hkind]
    · obtain ⟨t, ht, h⟩ := hpushes hno
      exact ⟨t, by rw [ht]; rfl, hjoins h.as rfl rfl rfl, h.regs⟩
    · obtain ⟨t, ht, h⟩ := hshuts hdrop hyes hroom
      exact ⟨t, by rw [ht]; rfl, hcloses h.as rfl (hquads ..)⟩
    · rw [State.qTryPush_waits (.inr ⟨hyes, hdrop, hfull⟩)]
      rfl
  · obtain ⟨-, -, hdiscards⟩ := hown.qTryPush q.isLt hfree w.toNat eop
    obtain ⟨t, ht, h⟩ := hdiscards hdrop hyes
    refine ⟨t, by rw [exec_qpush hr hon hkind, ht]; rfl, ?_⟩
    rw [h.queue]
    exact ⟨rfl, rfl, rfl, h.mem⟩
  · rw [exec_qpush hr hon hkind, State.qTryPush_waits (.inl hbusy)]
    rfl
  · obtain ⟨u, hnext, hu, hset⟩ := State.qNext_chain hkind hbuffer
    obtain ⟨hpushes, hshuts, hwaits⟩ := hu.queuePush q.isLt hon hwait hnext hfree hdrop
    have htaken {t : State} {y : Queue} (h : s.OnlyQueue q y t) : s.QueueAs q { y with buffer := y.buffer.tail } (t.qTaken q) := by
      have := State.qTaken_chain ((h.qrd q _).trans hkind)
      rw [h.queue] at this
      exact (h.trans this).as
    have hrest : x.buffer.tail = rest := congrArg List.tail hbuffer
    refine ⟨fun hno => ?_, fun hyes hroom => ?_, fun hyes hfull => ?_⟩
    · obtain ⟨t, ht, h⟩ := hpushes hno
      have h' := htaken h
      exact ⟨_, congrArg Host.Outcome.next ht, hjoins h' rfl rfl rfl, (congrArg Queue.buffer h'.queue).trans hrest, congrArg Queue.lossNext h'.queue⟩
    · obtain ⟨t, ht, h⟩ := hshuts hyes hroom
      have h' := htaken h
      exact ⟨_, congrArg Host.Outcome.next ht, hcloses h' rfl (Queue.closed_pushed_quads ..), (congrArg Queue.buffer h'.queue).trans hrest⟩
    · exact congrArg Host.Outcome.next ((hwaits hyes hfull).trans (hset _))
  · obtain ⟨u, hnext, hu, hset⟩ := State.qNext_loose hkind hheld hturn
    obtain ⟨hpushes, hshuts, hwaits⟩ := hu.queuePush q.isLt hon hwait hnext hfree hdrop
    intro w eop moves
    have htaken {t : State} {y : Queue} (h : s.OnlyQueue q y t) (hpart : y.part = some (ch, n)) :
        s.QueueAs q { y with part := if n + 1 = m.words.length then none else some (ch, n + 1) } (t.qTaken q) ∧ moves (t.qTaken q) := by
      obtain ⟨htook, hslot⟩ := State.qTaken_loose ((h.qrd q _).trans hkind) (h.queue ▸ hpart) ((State.chan_of_chans h.chans ch ▸ hheld :)) hm
      rw [h.queue] at htook
      refine ⟨h.as.trans htook, (congrArg Queue.part htook.queue).trans ?_, hslot.trans ?_⟩ <;> simp [eop]
    refine ⟨fun hno => ?_, fun hyes hroom => ?_, fun hyes hfull => ?_⟩
    · obtain ⟨t, ht, h⟩ := hpushes hno
      obtain ⟨h', hmoves⟩ := htaken h rfl
      exact ⟨_, congrArg Host.Outcome.next ht, hjoins h' rfl rfl rfl, hmoves⟩
    · obtain ⟨t, ht, h⟩ := hshuts hyes hroom
      obtain ⟨h', hmoves⟩ := htaken h rfl
      exact ⟨_, congrArg Host.Outcome.next ht, hcloses h' rfl (hquads ..), hmoves⟩
    · have hstate := (hwaits hyes hfull).trans (hset _)
      exact ⟨_, congrArg Host.Outcome.next hstate, State.setQueue_self .., hheld, rfl⟩
  · have hset := State.OnlyQueue.set s q { x with waiting := none }
    obtain ⟨-, hshuts, -⟩ := hset.qTryPush q.isLt hfree w eop
    obtain ⟨t, ht, h⟩ := hshuts hdrop hyes hroom
    obtain ⟨p, b, htook⟩ := t.qTaken_as q
    rw [h.queue] at htook
    have h' := h.as.trans htook
    exact ⟨_, congrArg Host.Outcome.next (State.queueResume_push hon hroom hfree hwait ht), hcloses h' rfl (hquads ..), congrArg Queue.waiting h'.queue⟩
  · have hexec : exec (.queueTimeout q) s = .next (s.qClose q true) := congrArg Host.Outcome.next (State.queueTimeout_due hon hfree hopen hfrozen hns hdue)
    obtain ⟨hshuts, hwaits, -⟩ := s.qClose_cases q.isLt true
    refine ⟨fun hroom => ?_, fun hfull => ?_⟩
    · have h := hshuts hopen hdrop hroom
      exact ⟨_, hexec, congrArg Queue.opened h.queue, congrArg Queue.quads h.queue, h.mem⟩
    · exact hexec.trans (congrArg Host.Outcome.next (hwaits hopen hdrop hfull))

end Sys2Proof.Machine
end

section
/-! PROOFS. QCMD, the command messages, a quad sent, and the enable of a queue (R217, R221 to R224, R229). -/

namespace Sys2Proof.Machine

/-! ### Pops and drops (R221, R223) -/

theorem State.qPop_pops {s : State} {q : Nat} (hq : q < 256) {d : Quad} {ds : List Quad} (h : (s.queue q).quads = d :: ds) :
    ∃ k, s.OnlyQueue q { s.queue q with quads := ds, head := k, touched := s.tb } (s.qPop q) := by
  refine ⟨((s.queue q).head + 1) % s.qCap q, ?_⟩
  unfold State.qPop
  dsimp only
  rw [if_neg (by simp [h]), h]
  exact (State.OnlyQueue.set ..).qLevel hq

theorem State.qPop_empty {s : State} {q : Nat} (h : (s.queue q).quads = []) : s.qPop q = s := if_pos (by simp [h])

/-- The queue after a drop, by the quad that ends its packet. -/
def Queue.dropped (x : Queue) (cap : Nat) : Option Nat → Queue
  | some k => { x with quads := x.quads.drop (k + 1), head := (x.head + k + 1) % cap }
  | none => { x with quads := [], head := (x.head + x.quads.length) % cap, opened := [], closeWait := none, dropping := true }

theorem State.qDrop_drops (s : State) {q : Nat} (hq : q < 256) :
    s.OnlyQueue q ((s.queue q).dropped (s.qCap q) ((s.queue q).quads.findIdx? (·.eop))) (s.qDrop q) := by
  unfold State.qDrop
  dsimp only
  cases (s.queue q).quads.findIdx? (·.eop) <;> exact (State.OnlyQueue.set ..).qLevel hq

theorem Queue.dropped_touched (x : Queue) (cap : Nat) (k : Option Nat) : (x.dropped cap k).touched = x.touched := by
  cases k <;> rfl

/-- The commands of a QCMD write on an enabled queue (R229). -/
theorem State.writeQcmd_enabled {s : State} {q : Nat} (h : s.qrd q R.QCFG_EN = 1) :
    s.writeQcmd q 1 = s.qPop q ∧ s.writeQcmd q 2 = s.qDrop q ∧ s.writeQcmd q 4 = s.qClose q false := by
  have hgo : ¬ s.qrd q R.QCFG_EN = 0 := by simp [h]
  exact ⟨if_neg hgo, if_neg hgo, if_neg hgo⟩

theorem exec_qcmd {s : State} {q : Fin 256} (hr : s.hostReaches = true) (hon : s.domOn 3 = true) (hen : s.qrd q R.QCFG_EN = 1) :
    exec (.qcmdPop q) s = .next (s.qPop q) ∧ exec (.qcmdDrop q) s = .next (s.qDrop q) ∧ exec (.qcmdFlush q) s = .next (s.qClose q false) := by
  have hpage : s.pageOn (qPage q) = true := (s.pageOn_qPage q.isLt).trans hon
  obtain ⟨hpop, hdrop, hflush⟩ := State.writeQcmd_enabled hen
  exact ⟨congrArg Host.Outcome.next ((State.hostAt_reached hr hpage _).trans hpop), congrArg Host.Outcome.next ((State.hostAt_reached hr hpage _).trans hdrop),
    congrArg Host.Outcome.next ((State.hostAt_reached hr hpage _).trans hflush)⟩

/-! ### Command messages (R221) -/

/-- Whether a channel holds a message that a command input's trigger takes: its command, or one that names none. -/
def State.offersCmd (s : State) (w0 ch : Nat) : Bool := (s.chan ch).held.head?.any fun m => decide (m.words.headD 0 = w0 ∨ m.words.headD 0 ∉ [1, 2])

/-- A command message at the head of the first channel that feeds the command input is taken, and its command acts. -/
theorem State.queueCmd_takes {s : State} {q w0 ch : Nat} {m : Msg} {ms : List Msg} (hon : s.domOn 3 = true)
    (hfind : (s.feeders (0x300 + q)).find? (s.offersCmd w0) = some ch) (hheld : (s.chan ch).held = m :: ms) (hm : m.chan = ch) (hw : m.words.headD 0 = w0)
    (h3 : s.injArmed 0x0A0 3 = false) (h2 : s.injArmed 0x0A0 2 = false) :
    (∀ f, s.queueCmd q w0 f = f (s.deliver m)) ∧ (s.deliver m).regs = s.regs ∧ ((s.deliver m).chan ch).held = ms := by
  obtain ⟨hen, hord⟩ := State.feeders_loose (List.mem_of_find?_eq_some hfind)
  have hfreed := s.deliver_held m
  rw [hm, hheld, List.erase_cons_head] at hfreed
  refine ⟨fun f => ?_, State.deliver_loose (by rwa [hm]), hfreed⟩
  have htake : s.takeMsg ch = (some m, s.deliver m) := by
    rw [State.takeMsg_calm h3 h2, State.deliverable_loose hen hord, hheld]
    rfl
  have hsame (p : Nat → Bool) (hp : ∀ k, p k = s.offersCmd w0 k) : (s.feeders (0x300 + q)).find? p = some ch := funext hp ▸ hfind
  unfold State.queueCmd
  dsimp only
  rw [hsame]
  · dsimp only
    rw [if_pos hon, htake]
    exact if_pos (by simpa using hw)
  · intro k
    unfold State.offersCmd
    cases (s.chan k).held with
    | nil => rfl
    | cons y ys => simp

/-- A delivery that leaves the registers leaves a queue on or off. -/
theorem State.deliver_qOn {s : State} {m : Msg} (hregs : (s.deliver m).regs = s.regs) (q : Nat) : (s.deliver m).qOn q = s.qOn q := by
  have hdom : (s.deliver m).domOn 3 = s.domOn 3 := State.deliver_part (g := fun t => t.domOn 3) (fun _ _ _ => rfl) (fun _ _ => rfl) (fun _ _ _ => rfl) s m
  unfold State.qOn State.qrd
  rw [hdom, State.rd_of_regs hregs]

/-! ### A quad sent (R221) -/

/-- The message that a quad leaves as. -/
def State.quadMsg (s : State) (q : Nat) (d : Quad) : Msg :=
  ⟨s.qrd q R.QDST_ID, 0x11B, if s.chOrd (s.qrd q R.QDST_ID) then s.now % 2 ^ 42 else s.now, d.kind, (d.words.take d.valid).map (· % 2 ^ 14)⟩

/-- The queue bank's send, which no replay discards and no journal copies (R414, R430). -/
theorem State.trySend_quad {s : State} (hon : s.domOn 3 = true) (q : Nat) (d : Quad) :
    (∀ n, s.sendFails (s.qrd q R.QDST_ID) 0x11B s.now = some n →
      s.trySend (s.qrd q R.QDST_ID) 0x11B s.now d.kind (d.words.take d.valid) = some (s.fabErr (s.qrd q R.QDST_ID) 0x11B n)) ∧
    (s.sendFails (s.qrd q R.QDST_ID) 0x11B s.now = none → s.trySend (s.qrd q R.QDST_ID) 0x11B s.now d.kind (d.words.take d.valid) =
      if s.freeCredits (s.qrd q R.QDST_ID) 0x11B = 0 then none else some (s.sendMsg (s.quadMsg q d))) := by
  have hlive : s.replayDiscards 0x11B = false := by
    unfold State.replayDiscards
    exact Bool.and_eq_false_imp.2 fun _ => rfl
  unfold State.trySend
  rw [if_neg (by simp [hon]), if_neg (by simp [hlive])]
  refine ⟨fun n hn => by rw [hn], fun hn => ?_⟩
  rw [hn]
  dsimp only
  split
  · rfl
  · exact congrArg some (if_neg (of_decide_eq_false rfl))

theorem State.sendMsg_queues (s : State) (m : Msg) : (s.sendMsg m).queues = s.queues := ite_keeps State.queues rfl rfl

/-- The oldest quad at the queue memory's detectors, no injection armed. -/
theorem State.quadSend_calm {s : State} {q : Nat} {d : Quad} {ds : List Quad} (hon : s.qOn q = true) (hdst : s.qrd q R.QDST_KIND = 1)
    (h : (s.queue q).quads = d :: ds) (h0 : s.injArmed 0x0A1 0 = false) (h1 : s.injArmed 0x0A1 1 = false) :
    (∀ t, s.trySend (s.qrd q R.QDST_ID) 0x11B s.now d.kind (d.words.take d.valid) = some t →
      s.quadSend q = if (s.sendFails (s.qrd q R.QDST_ID) 0x11B s.now).isSome then t else t.qPop q) ∧
    (s.trySend (s.qrd q R.QDST_ID) 0x11B s.now d.kind (d.words.take d.valid) = none → s.quadSend q = s) := by
  have hread : s.qRead q = (some d, s) := by
    unfold State.qRead
    dsimp only
    rw [h]
    dsimp only
    rw [if_neg (by simp [h1]), if_neg (by simp [h0])]
  unfold State.quadSend
  rw [if_neg (by simp [hon, hdst])]
  dsimp only
  rw [hread]
  refine ⟨fun t ht => ?_, fun ht => ?_⟩ <;> dsimp only <;> rw [ht]

/-! ### The enable of a queue (R229) -/

theorem qcfg_parts (n : Nat) : bit (setBits n 31 1 1) 31 = true ∧ setBits n 31 1 1 % 2 ^ 15 = bits n 0 15 ∧ setBits n 31 1 1 / 2 ^ 16 % 2 ^ 4 = bits n 16 4 := by
  have hbase := bits_setBits_ne n (lo := 31) (w := 1) (lo' := 0) (w' := 15) 1 (.inr (by decide))
  have hsize := bits_setBits_ne n (lo := 31) (w := 1) (lo' := 16) (w' := 4) 1 (.inr (by decide))
  refine ⟨(bit_setBits_31 n).1, ?_, hsize⟩
  rw [← hbase, bits, Nat.pow_zero, Nat.div_one]

/-- The queue's region as a write of QCFG sets it. -/
def State.qRegion (s : State) (q n : Nat) : State := (s.wr (qPage q) R.QCFG_BASE n (q % 16)).wr (qPage q) R.QCFG_SIZE (n / 2 ^ 16) (q % 16)

theorem State.qRegion_self (s : State) (q n : Nat) : (s.qRegion q n).qrd q R.QCFG_BASE = n % 2 ^ 15 ∧ (s.qRegion q n).qrd q R.QCFG_SIZE = n / 2 ^ 16 % 2 ^ 4 ∧
    (s.qRegion q n).qrd q R.QCFG_EN = s.qrd q R.QCFG_EN := by
  refine ⟨?_, State.rd_wr_self _ _ _ _ _ (by decide), ?_⟩ <;> refine (State.rd_wr_bits _ _ _ _ _ (by decide) (by decide)).trans ?_
  · exact State.rd_wr_self _ _ _ _ _ (by decide)
  · exact State.rd_wr_bits _ _ _ _ _ (by decide) (by decide)

/-- The words of QCFG of two queues are apart. -/
theorem State.qrd_wr_ne (s : State) {q r : Nat} (h : r ≠ q) {f g : Fld} (hf : f.off = 0x40 ∧ f.stride = 64) (hg : g.off = 0x40 ∧ g.stride = 64) (v : Nat) :
    (s.wr (qPage q) f v (q % 16)).qrd r g = s.qrd r g := by
  refine State.rd_wr_ne _ _ _ _ _ ?_
  simp only [Fld.addr, qPage, hf.1, hf.2, hg.1, hg.2]
  omega

theorem State.qRegion_ne (s : State) {q r : Nat} (h : r ≠ q) (n : Nat) {g : Fld} (hg : g.off = 0x40 ∧ g.stride = 64) : (s.qRegion q n).qrd r g = s.qrd r g :=
  (State.qrd_wr_ne _ h ⟨rfl, rfl⟩ hg _).trans (s.qrd_wr_ne h ⟨rfl, rfl⟩ hg _)

/-- No other enabled queue has a part of a region (R217). -/
def State.qFree (s : State) (q base size : Nat) : Prop :=
  ∀ r, r < 256 → r ≠ q → s.qrd r R.QCFG_EN = 1 → s.qrd r R.QCFG_BASE + s.qCap r ≤ base ∨ base + 2 ^ size ≤ s.qrd r R.QCFG_BASE

/-- Whether another enabled queue's region overlaps that of a queue. -/
def State.qClash (s : State) (q : Nat) : Bool :=
  (List.range 256).any fun r => decide (r ≠ q) && decide (s.qrd r R.QCFG_EN = 1) &&
    decide (s.qrd q R.QCFG_BASE < s.qrd r R.QCFG_BASE + s.qCap r ∧ s.qrd r R.QCFG_BASE < s.qrd q R.QCFG_BASE + s.qCap q)

theorem State.qClash_iff (s : State) (q n : Nat) : (s.qRegion q n).qClash q = true ↔ ¬ s.qFree q (n % 2 ^ 15) (n / 2 ^ 16 % 2 ^ 4) := by
  obtain ⟨hbase, hsize, -⟩ := s.qRegion_self q n
  have hcap : (s.qRegion q n).qCap q = 2 ^ (n / 2 ^ 16 % 2 ^ 4) := congrArg (2 ^ ·) hsize
  have hother {r : Nat} (hr : r ≠ q) : (s.qRegion q n).qrd r R.QCFG_EN = s.qrd r R.QCFG_EN ∧ (s.qRegion q n).qrd r R.QCFG_BASE = s.qrd r R.QCFG_BASE ∧
      (s.qRegion q n).qCap r = s.qCap r :=
    ⟨s.qRegion_ne hr n ⟨rfl, rfl⟩, s.qRegion_ne hr n ⟨rfl, rfl⟩, congrArg (2 ^ ·) (s.qRegion_ne hr n ⟨rfl, rfl⟩)⟩
  unfold State.qClash State.qFree
  rw [hbase, hcap, List.any_eq_true]
  push Not
  refine exists_congr fun r => ?_
  rw [List.mem_range, Bool.and_eq_true, Bool.and_eq_true, decide_eq_true_eq, decide_eq_true_eq, decide_eq_true_eq, and_assoc]
  refine and_congr_right fun _ => and_congr_right fun hr => ?_
  obtain ⟨hen, hb, hc⟩ := hother hr
  rw [hen, hb, hc]

/-- The queue as its enable empties it. -/
def State.qEmptied (s : State) (q : Nat) : State := (s.setQueue q { buffer := (s.queue q).buffer, touched := s.tb }).qLevel q

theorem State.writeQcfg_enables {s : State} {q n : Nat} (hoff : s.qrd q R.QCFG_EN = 0) (hset : bit n 31 = true) :
    (2 ≤ n / 2 ^ 16 % 2 ^ 4 → s.qFree q (n % 2 ^ 15) (n / 2 ^ 16 % 2 ^ 4) → s.writeQcfg q n = ((s.qRegion q n).qEmptied q).wr (qPage q) R.QCFG_EN 1 (q % 16)) ∧
    (n / 2 ^ 16 % 2 ^ 4 < 2 ∨ ¬ s.qFree q (n % 2 ^ 15) (n / 2 ^ 16 % 2 ^ 4) → s.writeQcfg q n = s.qRegion q n) := by
  have hwrite : s.writeQcfg q n = if decide ((s.qRegion q n).qrd q R.QCFG_SIZE < 2) || (s.qRegion q n).qClash q then s.qRegion q n
      else ((s.qRegion q n).qEmptied q).wr (qPage q) R.QCFG_EN 1 (q % 16) := by
    unfold State.writeQcfg
    dsimp only
    rw [if_pos hset, if_neg (show ¬ s.qrd q R.QCFG_EN = 1 by simp [hoff])]
    rfl
  obtain ⟨-, hsize, -⟩ := s.qRegion_self q n
  have hrefused : (decide ((s.qRegion q n).qrd q R.QCFG_SIZE < 2) || (s.qRegion q n).qClash q) = true ↔
      n / 2 ^ 16 % 2 ^ 4 < 2 ∨ ¬ s.qFree q (n % 2 ^ 15) (n / 2 ^ 16 % 2 ^ 4) := by
    rw [Bool.or_eq_true, decide_eq_true_eq, hsize, s.qClash_iff]
  refine ⟨fun hlarge hfree => hwrite.trans (if_neg fun h => ?_), fun h => hwrite.trans (if_pos (hrefused.2 h))⟩
  exact (hrefused.1 h).elim (Nat.not_lt.2 hlarge) fun hno => hno hfree

theorem exec_queueEnable {s : State} {q : Fin 256} (hr : s.hostReaches = true) (hon : s.domOn 3 = true) (data : Reg) :
    exec (.queueEnable q data) s = .next (s.writeQcfg q (setBits data.toNat 31 1 1)) :=
  congrArg Host.Outcome.next (State.hostAt_reached hr ((s.pageOn_qPage q.isLt).trans hon) _)

/-! ### The obligation -/

/-- Settles O30: each QCMD form and command message by what the queue holds, the quad sent by its checks, and the enable by the regions. -/
theorem queuesPopDropFlushSendAndEnable : Obligations.QueuesPopDropFlushSendAndEnable := by
  refine ⟨fun q s hon hen => ?_, fun q data s hr hon hoff => ?_⟩
  · intro x drops flushes
    have hqon : s.qOn q = true := Bool.and_eq_true_iff.2 ⟨hon, decide_eq_true hen⟩
    have hdrops {t : State} (h : s.QueueAs q (x.dropped (s.qCap q) (x.quads.findIdx? (·.eop))) t) : drops t := by
      obtain ⟨hqueue, hothers, hmem⟩ := h
      refine ⟨fun k hk => ?_, fun hk => ?_, (congrArg Queue.touched hqueue).trans (Queue.dropped_touched ..), hmem, hothers⟩ <;> rw [hqueue, hk]
      · exact ⟨rfl, rfl⟩
      · exact ⟨rfl, rfl, rfl⟩
    have hflushes {t : State} (h : s.QueueAs q (x.closed false false) t) : flushes t :=
      ⟨congrArg Queue.opened h.queue, congrArg Queue.quads h.queue, h.mem, h.others⟩
    refine ⟨fun hr => ?_, fun ch m ms w0 hfind hheld hm hw h3 h2 => ?_, fun d ds hquads hdst h0 h1 => ?_⟩
    · obtain ⟨hpop, hdrop, hflush⟩ := exec_qcmd hr hon hen
      obtain ⟨hshuts, hwaits, hidle⟩ := s.qClose_cases q.isLt false
      refine ⟨fun d ds hquads => ?_, fun hquads => ?_, ⟨_, hdrop, hdrops (s.qDrop_drops q.isLt).as⟩, fun hopen hdr hroom => ⟨_, hflush, hflushes ?_⟩,
        fun hopen hdr hfull => ?_, fun hopen => ?_⟩
      · obtain ⟨k, h⟩ := State.qPop_pops q.isLt hquads
        exact ⟨_, hpop, congrArg Queue.quads h.queue, (congrArg Queue.opened h.queue :), h.mem, h.others⟩
      · rw [hpop, State.qPop_empty hquads]
      · exact (hshuts hopen hdr (Nat.not_le.2 hroom)).as
      · rw [hflush, hwaits hopen hdr hfull, Bool.false_or]
      · rw [hflush, hidle hopen]
    · have hoffers : (s.feeders (0x300 + q)).find? (s.offersCmd w0) = some ch := by
        rw [← hfind]
        refine congrArg (List.find? · _) (funext fun k => ?_)
        unfold State.offersCmd
        cases (s.chan k).held <;> rfl
      obtain ⟨hcmd, hregs, hfreed⟩ := State.queueCmd_takes hon hoffers hheld hm hw h3 h2
      have hqueue (r : Nat) : (s.deliver m).queue r = s.queue r := State.queue_of_queues (s.deliver_queues m) r
      have hcap : (s.deliver m).qCap q = s.qCap q := congrArg (2 ^ ·) (State.rd_of_regs hregs ..)
      have hacts : (s.deliver m).qOn q = true := (State.deliver_qOn hregs q).trans hqon
      have hdelivered : s.QueueAs q x (s.deliver m) := ⟨hqueue q, fun r _ => hqueue r, (s.deliver_keeps m).2.2⟩
      refine ⟨fun h => ?_, fun h hopen hdr hroom => ?_⟩ <;> subst h
      · have h := (s.deliver m).qDrop_drops q.isLt
        rw [hqueue, hcap] at h
        exact ⟨_, congrArg Host.Outcome.next ((hcmd _).trans (if_pos hacts)), hdrops (hdelivered.trans h.as), (congrArg Chan.held (State.chan_of_chans h.chans ch)).trans hfreed⟩
      · obtain ⟨hshuts, -⟩ := (s.deliver m).qClose_cases q.isLt false
        rw [hqueue, hcap] at hshuts
        have h := hshuts hopen hdr (Nat.not_le.2 hroom)
        exact ⟨_, congrArg Host.Outcome.next ((hcmd _).trans (if_pos hacts)), hflushes (hdelivered.trans h.as), (congrArg Chan.held (State.chan_of_chans h.chans ch)).trans hfreed⟩
    · intro ch
      obtain ⟨hsends, hwaits⟩ := State.quadSend_calm hqon hdst hquads h0 h1
      obtain ⟨hfails, hpasses⟩ := State.trySend_quad hon q d
      refine ⟨fun hpass hcredit => ?_, fun n hfail => ?_, fun hpass hcredit => ?_⟩
      · have hsend := hsends _ ((hpasses hpass).trans (if_neg hcredit))
        rw [if_neg (by simp [show s.sendFails (s.qrd q R.QDST_ID) 0x11B s.now = none from hpass])] at hsend
        obtain ⟨hflight, -, hmem, -⟩ := s.sendMsg_changes (s.quadMsg q d)
        obtain ⟨k, h⟩ := State.qPop_pops q.isLt ((congrArg Queue.quads (State.queue_of_queues (s.sendMsg_queues (s.quadMsg q d)) q)).trans hquads)
        exact ⟨_, s.quadMsg q d, congrArg Host.Outcome.next hsend, congrArg Queue.quads h.queue,
          (congrArg Chan.flight (State.chan_of_chans h.chans ch)).trans hflight, rfl, rfl, rfl, rfl, h.mem.trans hmem⟩
      · refine congrArg Host.Outcome.next ((hsends _ (hfails n hfail)).trans (if_pos ?_))
        exact Option.isSome_iff_exists.2 ⟨n, hfail⟩
      · exact congrArg Host.Outcome.next (hwaits ((hpasses hpass).trans (if_pos hcredit)))
  · intro base size free
    obtain ⟨hset, hbase, hsize⟩ := qcfg_parts data.toNat
    obtain ⟨henables, hrefuses⟩ := State.writeQcfg_enables (n := setBits data.toNat 31 1 1) hoff hset
    obtain ⟨hb, hs, hen⟩ := s.qRegion_self q (setBits data.toNat 31 1 1)
    rw [hbase] at henables hrefuses hb
    rw [hsize] at henables hrefuses hs
    refine ⟨fun hlarge hfree => ?_, fun h => ?_⟩
    · have hexec := (exec_queueEnable (q := q) hr hon data).trans (congrArg Host.Outcome.next (henables hlarge hfree))
      have hempty : (s.qRegion q (setBits data.toNat 31 1 1)).OnlyQueue q { buffer := (s.queue q).buffer, touched := s.tb } _ := (State.OnlyQueue.set ..).qLevel q.isLt
      refine ⟨_, hexec, State.rd_wr_self _ _ _ _ _ (by decide), ?_, ?_, congrArg Queue.quads hempty.queue, congrArg Queue.opened hempty.queue,
        congrArg Queue.dropping hempty.queue, hempty.mem, hempty.others⟩
      · exact (State.rd_wr_bits _ _ _ _ _ (by decide) (by decide)).trans ((hempty.qrd q _).trans hb)
      · exact (State.rd_wr_bits _ _ _ _ _ (by decide) (by decide)).trans ((hempty.qrd q _).trans hs)
    · exact ⟨_, (exec_queueEnable (q := q) hr hon data).trans (congrArg Host.Outcome.next (hrefuses h)), hen.trans hoff, rfl, rfl⟩

end Sys2Proof.Machine
end

section
/-! PROOFS. The timebase and the queue through every command, and through the tick (R230). -/

namespace Sys2Proof.Machine

/-! ### The forms that a command's meaning takes -/

/-- Two states at one time, with the same commands waiting. -/
abbrev State.SameTime (s t : State) : Prop := t.tb = s.tb ∧ t.pending = s.pending

theorem State.SameTime.trans {s t u : State} (h : s.SameTime t) (h' : t.SameTime u) : s.SameTime u := ⟨h'.1.trans h.1, h'.2.trans h.2⟩

theorem State.SameTime.ite {s t u : State} {c : Prop} [Decidable c] (ht : s.SameTime t) (hu : s.SameTime u) : s.SameTime (if c then t else u) := by
  split <;> assumption

theorem State.SameTime.host {s : State} {f : State → State} (h : s.SameTime (f s)) : s.SameTime (s.host f) :=
  ⟨State.host_keeps State.tb s f h.1 rfl, State.host_keeps State.pending s f h.2 rfl⟩

theorem State.SameTime.hostAt {s : State} {p : Nat} {f : State → State} (h : s.SameTime (f s)) : s.SameTime (s.hostAt p f) :=
  .host (.ite h ⟨by simp, by simp⟩)

theorem State.SameTime.onTrigger {s : State} {i : Nat} {t : Trigger} {f : Nat → Width → State → State} (h : ∀ v w, s.SameTime (f v w s)) :
    s.SameTime (s.onTrigger i t f) :=
  ⟨State.onTrigger_keeps State.tb s i t f fun v w => (h v w).1, State.onTrigger_keeps State.pending s i t f fun v w => (h v w).2⟩

theorem State.SameTime.queueCmd (s : State) (q w0 : Nat) {f : State → State} (hf : ∀ t : State, t.SameTime (f t)) : s.SameTime (s.queueCmd q w0 f) :=
  ⟨State.queueCmd_keeps State.tb s q w0 f (fun t => (hf t).1) fun ch => (State.takeMsg_keeps s ch).1,
    State.queueCmd_keeps State.pending s q w0 f (fun t => (hf t).2) fun ch => (State.takeMsg_keeps s ch).2.1⟩

/-! ### The commands whose arm decides between more than one change -/

theorem execRet_sameTime (i : CogId) (s : State) : ∃ t, execRet i s = .next t ∧ s.SameTime t := by
  refine ⟨_, rfl, .onTrigger fun v w => ?_⟩
  dsimp only
  generalize (s.readStack i ((s.cog i).get Port.sp) 2).1.getD 1 0 = flags
  have hread : s.SameTime (if bit flags 13 then (s.readStack i ((s.cog i).get Port.sp) 2).2.2.readStack i ((s.cog i).get Port.sp + 2) 1
      else ([], none, (s.readStack i ((s.cog i).get Port.sp) 2).2.2)).2.2 := by
    split <;> exact ⟨by simp, by simp⟩
  split
  · exact hread.trans ⟨by simp, by simp⟩
  · exact hread.trans (.ite ⟨by simp, by simp⟩ ⟨by simp, by simp⟩)

theorem execLpRest_sameTime (i : CogId) (s : State) : ∃ t, execLpRest i s = .next t ∧ s.SameTime t := by
  refine ⟨_, rfl, .onTrigger fun v w => ?_⟩
  dsimp only
  split <;> exact ⟨by simp, by simp⟩

theorem execChHzn_sameTime (i : CogId) (s : State) : ∃ t, execChHzn i s = .next t ∧ s.SameTime t := by
  refine ⟨_, rfl, .onTrigger fun v w => .ite ⟨by simp, by simp⟩ ?_⟩
  split <;> exact ⟨by simp, by simp⟩

theorem execLockLimitTimeout_sameTime (i : CogId) (s : State) : ∃ t, execLockLimitTimeout i s = .next t ∧ s.SameTime t := by
  refine ⟨_, rfl, ?_⟩
  dsimp only
  split
  · exact .ite ⟨by simp, by simp⟩ ⟨rfl, rfl⟩
  · exact ⟨rfl, rfl⟩

theorem execLockStallTimeout_sameTime (i : CogId) (s : State) : ∃ t, execLockStallTimeout i s = .next t ∧ s.SameTime t := by
  refine ⟨_, rfl, ?_⟩
  dsimp only
  split
  · exact .ite ⟨by simp, by simp⟩ ⟨rfl, rfl⟩
  · exact ⟨rfl, rfl⟩

theorem execSramScrub_sameTime (x : SramId) (w : BitVec 18) (s : State) : ∃ t, execSramScrub x w s = .next t ∧ s.SameTime t := by
  cases x <;> exact ⟨_, rfl, .ite ⟨by simp, by simp⟩ ⟨rfl, rfl⟩⟩

theorem execMramScrub_sameTime (y : MramId) (line : BitVec 16) (last : Bool) (s : State) : ∃ t, execMramScrub y line last s = .next t ∧ s.SameTime t := by
  cases y <;> exact ⟨_, rfl, .ite ⟨by simp [State.scrubGranule_keeps], by simp [State.scrubGranule_keeps]⟩ ⟨rfl, rfl⟩⟩

theorem execEvHclaim_sameTime (v : Fin 64) (s : State) : ∃ t, execEvHclaim v s = .next t ∧ s.SameTime t := by
  refine ⟨_, rfl, .host ?_⟩
  dsimp only
  split <;> exact ⟨by simp, by simp⟩

theorem execDaDataAccess_sameTime (port : Fin 2) (data : Option Reg) (mode : PmbReply) (s : State) :
    ∃ t, execDaDataAccess port data mode s = .next t ∧ s.SameTime t := by
  cases data <;> exact ⟨_, rfl, by simp, by simp⟩

/-! ### Every command -/

/-- Every command but those of the power answers a state of the same time, with the same commands waiting. -/
theorem exec_sameTime (c : Instr) (s : State) (hc : ∀ ref rails, c ≠ .powerOnReset ref rails ∧ c ≠ .powerLoss ref rails) :
    ∃ t, exec c s = .next t ∧ s.SameTime t := by
  cases c with
  | bundle _ | longLatencyResult _ _ | ldW _ | ldL _ | ldT _ | ldAg _ _ | loadAnswer _ | stW _ | stL _ | stT _ | stAg _ _ | storeBufferDrain _
  | chRecv _ | chTry _ | pwWait _ | lineFetch _ | prefetch _ | exceptionEntry _ | eventEntry _ | waitWake _ | correctedWriteBack _ | commitPass _
  | camTableScan _ | messageArrival _ _ | mergeDeliverable _ | creditReturn _ _ | horizonTokenArrival _ _ | automaticToken _ _ _ | horizonStall _
  | channelDrainDone _ | queuePush _ | queuePushResume _ | queueTimeout _ | queueQuadSend _ | timerefLoss | pllRelock _ | slewEnd | trim _ | rate _
  | ptSel _ | ptM _ | ptY _ | ptK _ | flip _ | couple _ | free _ | shift _ | syncEdge _ | cadenceBoundary _ | notice _ | camEvaluation _ _
  | releaseMarker _ _ | releasePinEdge _ _ | pulseEnd _ | releasePwmDutyLoad _ _ | releaseChainCommit _ _ | releaseMessage _ _ | strobeOpenWindow _ _
  | strobeCloseWindow _ _ | strobeLatchEncoder _ _ | strobeStartSsi _ _ | bankMismatch _ | pinEdgeCapture _ _ | phaseWindowOpen _
  | phaseWindowClose _ | encoderTransition _ _ _ | encoderPeriodicLatch _ | encoderZLatch _ | ssiFrameEnd _ _ | pwmPeriodStart _ | pwmFall _
  | laneLock _ | relockTimeout _ | lossOfSignal _ _ | controlAck _ _ _ _ _ | controlTimeout _ | heartbeatPacket _ | heartbeatLost _ | eventPacket _
  | lineTrigger _ | lineComplete _ _ _ _ _ _ _ _ _ _ | triggerAbandon _ | lostReport _ | findingSend _ | visionIdleRetention _ | imageRead _ _
  | chainCycleStart _ | cyclicFrameReturn _ _ _ | ringBreakTimeout _ | feedbackDeadline _ | bulkFrameReturn _ _ | parameterTimeout _
  | portStateChange _ | chnCmdDone _ _ _ | chainIdleRetention _ | groupReceive _ _ _ _ _ _ | timeBlockSend _ | timeBlockReceive _ _ _ _ _ _ _
  | lockAcquire | timeBlockTimeout | tandemPortDown _ _ | tandemPortUp _ _ _ | spanRecord _ | descriptorFetch _ _ | moverBeat _ _ _ _ _
  | readBack _ _ _ | eventRaise _ | groupTimeLimit _ | journalRecordWrite | digestIntervalEnd | jrnTrigEdge _ | snapshot _ | replayRecord _ _
  | replayDigestCompare | domainEntry _ _ | domainWake _ | domainRestore _ | restoreFail _ | wakePin _ _ | pwrAlarm | idleRule _ | governorPeriod _ _
  | readVout _ _ | pmbusAlert _ _ _ | vcogUndervoltage _ | vcogRecover _ | tempConversion _ _ | railSample _ _ | srefLoss | watchdogWarning _
  | watchdogExpiry _ | brakeIn | twoWireRead _ | twoWireWrite _ _ _ _ | twoWireReadIncrement _ | twoWireWriteIncrement _ _ _ _ | lineReset | idcode
  | bypass | extest _ | samplePreload _ | dau _ _ _ _ | trst | auReq _ _ | nonceReady _ _ | auChk _ _ | authCheckDone _ | auDrop _ _ | benchWrite _ _
  | attachWrite _ _ | perst | boot | otpBlowDone | pageDrainDone _ | bankMismatchEnd _ | vcogOvervoltage _ | brakeInRelease | pcieLinkDown
  | pcieLinkUp _ _ _ _ _ => exact ⟨_, rfl, by simp, by simp⟩
  | aluAdd _ _ | aluAdc _ _ | aluSub _ _ | aluAnd _ _ | aluOr _ _ | aluXor _ _ | aluLim _ _ | shShl _ | shShr _ | shSar _ | macMul _ | macMac _
  | macMsu _ | macLd _ | divS _ | divU _ | digAdd _ | digSub _ | digAdj _ | fence _ | fsync _ | dbgStim _ | macRd _ | digCvt _ | agSet _ _
  | agIdx _ _ | ldSet _ | br _ | call _ | lock _ | lpLoop _ | lpExit _ | lpSave _ | chSel _ | chSend _ | chSend4 _ | tmNow _ | tmArm _ | tmKill _
  | evClaim _ | evFin _ => exact ⟨_, rfl, .onTrigger fun _ _ => ⟨by simp, by simp⟩⟩
  | cogKick _ | repairGo _ _ | fabCmdRetire _ _ | fabCmdRestore _ _ | fabCmdFlush _ _ | channelEnable _ | channelDisable _ | setMemberWrite _
  | qcmdPop _ | qcmdDrop _ | qcmdFlush _ | qpush _ _ _ | tbAdjGo _ | cadenceEnable _ _ | cadenceDisable _ _ | relKill _ _ | fioSafeClr
  | laneEnable _ _ | laneRateWrite _ _ | freezeArm _ _ | parameterRequest _ _ | portRequest _ _ | chnWake _ | chnEnumerate _ | chnMeasure _
  | chnRejoin _ | mailboxSend _ _ | mvGo _ | mvStop _ | mvClr _ | mvEnable _ _ | eventSourceConfig _ | evHfin _ | evSw _ | journalEnable _
  | journalDisable _ | journalMark _ | replayEnable _ | replayGo _ | govSetWrite _ _ _ | watchdogKick _ | hltBrakeSet | hltBrakeClr | cogHalt _ _
  | cogResume _ _ | cogStep _ _ | dbgValWrite _ _ | dbgValHiWrite _ _ | pelotonGo _ _ | pelotonResume _ _ | trcPop _ | deviceReset _ | sysBootGo
  | otpBlow _ | elogPop => exact ⟨_, rfl, .hostAt ⟨by simp, by simp⟩⟩
  | cogDisable _ | bar2Write _ _ _ _ | bar2Read _ _ | queueEnable _ _ | tbNowRead | cadPosRead _ | tableEnable _ | tableDisable _ | axisEnable _ _
  | controlCommandGo _ _ | visWake _ | domainRequest _ _ | pwrKick _ | dbgValRead _ | pageSoftReset _ _ | pgCtrlEnable _ _
  | registerWrite _ _ _ _ _ _ => exact ⟨_, rfl, .host ⟨by simp, by simp⟩⟩
  | ret _ => exact execRet_sameTime _ s
  | lpRest _ => exact execLpRest_sameTime _ s
  | chHzn _ => exact execChHzn_sameTime _ s
  | lockLimitTimeout _ => exact execLockLimitTimeout_sameTime _ s
  | lockStallTimeout _ => exact execLockStallTimeout_sameTime _ s
  | sramScrub _ _ => exact execSramScrub_sameTime _ _ s
  | mramScrub _ _ _ => exact execMramScrub_sameTime _ _ _ s
  | queueCmdDrop _ | queueCmdFlush _ => exact ⟨_, rfl, .queueCmd _ _ _ fun t => .ite ⟨by simp, by simp⟩ ⟨rfl, rfl⟩⟩
  | spanMaskWrite _ _ => exact ⟨_, rfl, .ite ⟨by simp, by simp⟩ (.hostAt ⟨by simp, by simp⟩)⟩
  | evHclaim _ => exact execEvHclaim_sameTime _ s
  | pgEvtPendClear _ _ | pgInjWrite _ _ _ => exact ⟨_, rfl, .ite (.hostAt ⟨by simp, by simp⟩) ⟨rfl, rfl⟩⟩
  | daDataAccess _ _ _ => exact execDaDataAccess_sameTime _ _ _ s
  | powerOnReset ref rails => exact absurd rfl (hc ref rails).1
  | powerLoss ref rails => exact absurd rfl (hc ref rails).2

/-- The commands of the power answer a state whose timebase is 0. -/
theorem exec_power (ref : Bool) (rails : BitVec 3) {c : Instr} (hc : c = .powerOnReset ref rails ∨ c = .powerLoss ref rails) (s : State) :
    ∃ t, exec c s = .next t ∧ t.tb = 0 ∧ t.pending = s.pending := by
  rcases hc with rfl | rfl
  · exact ⟨_, rfl, (State.powerOn_keeps ..).1, by simp [State.powerOn_keeps]⟩
  · exact ⟨_, rfl, (State.powerOn_keeps ..).1, by simp [State.powerOn_keeps]⟩

/-! ### The tick -/

/-- One nanosecond passes, unless the device holds itself in reset (R230, R526). -/
theorem State.tick_time (s : State) : s.tick.tb = (if s.boot = .held then s.tb else (s.tb + 1) % 2 ^ 64) ∧ s.tick.pending = s.pending := by
  unfold State.tick
  split <;> exact ⟨by simp, by simp⟩

/-- Settles O4: the commands by cases, each by the law of the operation that it calls; the empty queue by the tick. -/
theorem onlyPowerMovesTheTimebase : Obligations.OnlyPowerMovesTheTimebase := by
  refine ⟨fun c s => ?_, fun s hs => ?_⟩
  · by_cases hc : ∃ ref rails, c = .powerOnReset ref rails ∨ c = .powerLoss ref rails
    · obtain ⟨ref, rails, hc⟩ := hc
      obtain ⟨t, ht, htb, hpending⟩ := exec_power ref rails hc s
      exact ⟨t, ht, hpending, fun hnot => (hc.elim (hnot ref rails).1 (hnot ref rails).2).elim, fun _ _ _ => htb⟩
    · have hnot (ref rails) : c ≠ .powerOnReset ref rails ∧ c ≠ .powerLoss ref rails := not_or.1 fun h => hc ⟨ref, rails, h⟩
      obtain ⟨t, ht, htb, hpending⟩ := exec_sameTime c s hnot
      exact ⟨t, ht, hpending, fun _ => htb, fun ref rails h => absurd ⟨ref, rails, h⟩ hc⟩
  · obtain ⟨htb, hpending⟩ := s.tick_time
    refine ⟨s.tick, ?_, htb, hpending.trans hs⟩
    unfold step
    rw [hs]

end Sys2Proof.Machine
end

section
/-! PROOFS. What the reports of an event and of a journal record leave (R402, R414, R417, R463). -/

namespace Sys2Proof.Machine

/-- A field read after a field of another word at the same index was written. -/
theorem State.rd_wr_off (s : State) (p : Nat) (f : Fld) (v i : Nat) {g : Fld} (h : f.off ≠ g.off ∧ f.stride = g.stride) :
    (s.wr p f v i).rd p g i = s.rd p g i :=
  State.rd_wr_ne s p f v i (by simp only [Fld.addr, h.2]; omega)

/-- An event leaves the words beyond the journal's pages but for the page's PG_EVT_PEND. -/
theorem State.reg_pgEvt_other (s : State) {a p : Nat} (ha : hubWord a) (hne : R.PG_EVT_PEND_PEND.addr p 0 ≠ a) (b : Nat) : (s.pgEvt p b).reg a = s.reg a := by
  refine ite_keeps (fun t => t.reg a) ?_ rfl
  dsimp only
  split
  · exact ((State.SameHub.raise ..).words a ha).trans (State.reg_wr_ne _ _ _ _ _ hne)
  · exact State.reg_wr_ne _ _ _ _ _ hne

theorem State.rd_pgEvt_other (s : State) {p q i : Nat} {f : Fld} (ha : hubWord (f.addr q i)) (hne : R.PG_EVT_PEND_PEND.addr p 0 ≠ f.addr q i) (b : Nat) :
    (s.pgEvt p b).rd q f i = s.rd q f i :=
  congrArg (fun w : Reg => bits w.toNat _ _) (s.reg_pgEvt_other ha hne b)

section
variable {γ : Type} {g : State → γ} (hr : ∀ (t : State) (a : Nat) (v : Reg), g (t.setReg a v) = g t) (hx : ∀ (t : State) (x : Sparse Nat), g { t with xing := x } = g t)
  (hj : ∀ (t : State) (j : Journal), g { t with jrn := j } = g t)
include hr hx hj

theorem State.jrnTake_part (s : State) (k : JRec) : g (s.jrnTake k) = g s :=
  ite_keeps g ((State.pgEvt_part hr hx ..).trans ((hr ..).trans (hj ..))) (hj ..)

omit hx in
theorem State.jrnDrop_part (s : State) (k : JRec) : g (s.jrnDrop k) = g s := ite_keeps g ((hr ..).trans ((hr ..).trans (hj ..))) ((hr ..).trans (hj ..))

theorem State.jrnGap_part (s : State) : g s.jrnGap = g s :=
  ite_keeps g rfl ((State.pgEvt_part hr hx ..).trans ((hr ..).trans ((State.jrnTake_part hr hx hj ..).trans (hj ..))))

/-- A record that is offered moves nothing but registers, the raises on their way and the journal. -/
theorem State.jrnOffer_part (s : State) (k : JRec) : g (s.jrnOffer k).2 = g s := by
  have hgap := s.jrnGap_part hr hx hj
  unfold State.jrnOffer
  split
  · rfl
  · split
    · exact (State.jrnDrop_part hr hj ..).trans (hr ..)
    · dsimp only
      split
      · exact hgap
      · split
        · exact (State.jrnDrop_part hr hj ..).trans hgap
        · exact (State.jrnTake_part hr hx hj ..).trans hgap

end

/-- A record leaves the words beyond the journal's pages. -/
theorem State.rd_jrnPut (s : State) (k : JRec) {p i : Nat} {f : Fld} (ha : hubWord (f.addr p i)) : (s.jrnPut k).rd p f i = s.rd p f i :=
  congrArg (fun w : Reg => bits w.toNat _ _) ((State.SameHub.jrnOffer s k).words _ ha)

theorem State.jrnPut_timeref (s : State) (k : JRec) : (s.jrnPut k).timeref = s.timeref ∧ (s.jrnPut k).aligning = s.aligning :=
  ⟨State.jrnOffer_part (g := State.timeref) (fun _ _ _ => rfl) (fun _ _ => rfl) (fun _ _ => rfl) s k,
    State.jrnOffer_part (g := State.aligning) (fun _ _ _ => rfl) (fun _ _ => rfl) (fun _ _ => rfl) s k⟩

/-- While the journal does not record, a host write leaves no break. -/
theorem State.jrnHost_idle {s : State} (h : s.recording = false) (a : Nat) : s.jrnHost a = s := if_neg (by simp [h])

end Sys2Proof.Machine
end

section
/-! PROOFS. The commands of the timebase (R230, R232, R234, R261, R372). -/

namespace Sys2Proof.Machine

/-! ### Holdover (R232) -/

/-- The timebase outside holdover finds no edge: what it writes before the event and the record. -/
def State.holdEntered (s : State) : State :=
  ((((s.wr 0x070 R.TB_STAT_REF_OK 0).wr 0x070 R.TB_STAT_HOLD 1).wr 0x070 R.TB_STAT_HOLD_SEEN 1).bump 0x070 R.TB_STAT_HOLD_CNT).wr 0x070 R.TB_HOLD_IN_STAMP (s.now / 1024)

theorem State.holdEntered_fields (s : State) :
    s.holdEntered.on 0x070 R.TB_STAT_HOLD = true ∧ s.holdEntered.on 0x070 R.TB_STAT_HOLD_SEEN = true ∧ s.holdEntered.on 0x070 R.TB_STAT_REF_OK = false ∧
      s.holdEntered.rd 0x070 R.TB_HOLD_IN_STAMP = s.now / 1024 % 2 ^ R.TB_HOLD_IN_STAMP.w := by
  unfold State.holdEntered State.bump State.bumpBy State.on
  refine ⟨?_, ?_, ?_, State.rd_wr_self _ _ _ _ _ (by decide)⟩ <;> simp (disch := decide) only [State.rd_wr_self, State.rd_wr_off, State.rd_wr_bits] <;> rfl

/-- The words of the timebase's page that hold its fields are none of the journal's, and not its PG_EVT_PEND. -/
theorem tbWord {f : Fld} (hf : 0x40 ≤ f.off ∧ f.off < 0x60) : hubWord (f.addr 0x070 0) ∧ R.PG_EVT_PEND_PEND.addr 0x070 0 ≠ f.addr 0x070 0 := by
  simp only [hubWord, Fld.addr, R.PG_EVT_PEND_PEND]
  omega

/-- TIMEREF is gone from now on. -/
def State.edgesLost (s : State) : State := { s with timeref := { s.timeref with gone := true, back := none, since := s.tb } }

theorem timerefLoss_outside {s : State} (h : s.on 0x070 R.TB_STAT_HOLD = false) :
    ∃ t, exec .timerefLoss s = .next t ∧ t.on 0x070 R.TB_STAT_HOLD = true ∧ t.on 0x070 R.TB_STAT_HOLD_SEEN = true ∧ t.on 0x070 R.TB_STAT_REF_OK = false ∧
      t.rd 0x070 R.TB_HOLD_IN_STAMP = s.now / 1024 % 2 ^ R.TB_HOLD_IN_STAMP.w ∧
      t.timeref = { s.timeref with gone := true, back := none, since := s.tb } ∧ t.tb = s.tb ∧ t.mem = s.mem := by
  have hloss : s.timerefLoss = (s.edgesLost.holdEntered.pgEvt 0x070 0).jrnPut ⟨1, 0x1F4, s.now, 0⟩ := by
    unfold State.timerefLoss State.refAbsent
    refine (if_neg ?_).trans rfl
    rw [State.on_wr_bits _ _ _ _ _ (by decide) (by decide)]
    exact Bool.eq_false_iff.1 h
  have hrd {f : Fld} (hf : 0x40 ≤ f.off ∧ f.off < 0x60) : s.timerefLoss.rd 0x070 f = s.edgesLost.holdEntered.rd 0x070 f := by
    obtain ⟨hword, hpend⟩ := tbWord hf
    rw [hloss, State.rd_jrnPut _ _ hword, State.rd_pgEvt_other _ hword hpend]
  have hon {f : Fld} (hf : 0x40 ≤ f.off ∧ f.off < 0x60) : s.timerefLoss.on 0x070 f = s.edgesLost.holdEntered.on 0x070 f := by rw [State.on, hrd hf, State.on]
  obtain ⟨hhold, hseen, href, hstamp⟩ := s.edgesLost.holdEntered_fields
  refine ⟨_, rfl, (hon (by decide)).trans hhold, (hon (by decide)).trans hseen, (hon (by decide)).trans href, (hrd (by decide)).trans hstamp, ?_, by simp, by simp⟩
  rw [hloss, (State.jrnPut_timeref ..).1, State.pgEvt_part (g := State.timeref) (fun _ _ _ => rfl) fun _ _ => rfl]
  rfl

/-- In holdover a loss of TIMEREF is only noted. -/
theorem timerefLoss_inside {s : State} (h : s.on 0x070 R.TB_STAT_HOLD = true) :
    exec .timerefLoss s = .next (({ s with timeref := { s.timeref with gone := true, back := none } } : State).wr 0x070 R.TB_STAT_REF_OK 0) := by
  refine congrArg Host.Outcome.next (if_pos ?_)
  rwa [State.on_wr_bits _ _ _ _ _ (by decide) (by decide)]

theorem State.mayRelock_iff (s : State) : s.mayRelock = true ↔ s.timeref.injUntil = none ∧ ∀ b, s.timeref.back = some b → b + 1000000 ≤ s.tb := by
  unfold State.mayRelock
  rw [Bool.and_eq_true, Option.isNone_iff_eq_none]
  refine and_congr_right fun _ => ?_
  cases s.timeref.back <;> simp

theorem exec_pllRelock (s : State) : exec (.pllRelock true) s = .next s.pllRelock := rfl

theorem pllRelock_early {s : State} (h : s.mayRelock = false) : exec (.pllRelock true) s = .next s :=
  (exec_pllRelock s).trans (congrArg Host.Outcome.next (if_pos (by simp [h])))

theorem State.refBack_hold (s : State) : s.refBack.on 0x070 R.TB_STAT_HOLD = s.on 0x070 R.TB_STAT_HOLD :=
  ite_keeps (fun t => t.on 0x070 R.TB_STAT_HOLD) rfl (State.on_wr_bits _ _ _ _ _ (by decide) (by decide))

/-- The relock outside holdover only reports the edges. -/
theorem pllRelock_outside {s : State} (hmay : s.mayRelock = true) (h : s.on 0x070 R.TB_STAT_HOLD = false) : exec (.pllRelock true) s = .next s.refBack :=
  (exec_pllRelock s).trans (congrArg Host.Outcome.next ((if_neg (by simp [hmay])).trans (if_pos (by simp [s.refBack_hold, h]))))

/-- The timebase leaves holdover: what it writes before the record. -/
def State.holdLeft (s : State) : State :=
  ((s.wr 0x070 R.TB_STAT_HOLD 0).wr 0x070 R.TB_STAT_SLEW 1).wr 0x070 R.TB_HOLD_OUT_STAMP (s.now / 1024)

theorem State.holdLeft_fields (s : State) :
    s.holdLeft.on 0x070 R.TB_STAT_HOLD = false ∧ s.holdLeft.on 0x070 R.TB_STAT_SLEW = true ∧ s.holdLeft.on 0x070 R.TB_STAT_REF_OK = s.on 0x070 R.TB_STAT_REF_OK ∧
      s.holdLeft.rd 0x070 R.TB_HOLD_OUT_STAMP = s.now / 1024 % 2 ^ R.TB_HOLD_OUT_STAMP.w := by
  unfold State.holdLeft State.on
  refine ⟨?_, ?_, ?_, State.rd_wr_self _ _ _ _ _ (by decide)⟩ <;> simp (disch := decide) only [State.rd_wr_self, State.rd_wr_off, State.rd_wr_bits] <;> rfl

/-- The relock in holdover ends it and starts the alignment. -/
theorem pllRelock_inside {s : State} (hmay : s.mayRelock = true) (h : s.on 0x070 R.TB_STAT_HOLD = true) :
    ∃ t, exec (.pllRelock true) s = .next t ∧ t.on 0x070 R.TB_STAT_HOLD = false ∧ t.on 0x070 R.TB_STAT_SLEW = true ∧ t.on 0x070 R.TB_STAT_REF_OK = true ∧
      t.rd 0x070 R.TB_HOLD_OUT_STAMP = s.now / 1024 % 2 ^ R.TB_HOLD_OUT_STAMP.w ∧ t.aligning = true ∧ t.tb = s.tb ∧ t.mem = s.mem := by
  obtain ⟨hinj, -⟩ := s.mayRelock_iff.1 hmay
  have hok : s.refBack.on 0x070 R.TB_STAT_REF_OK = true :=
    (congrArg (fun t : State => t.on 0x070 R.TB_STAT_REF_OK) (if_neg (by simp [hinj]))).trans (State.on_wr_self _ _ _ _ _ (by decide) rfl)
  have hnow : s.refBack.now = s.now := congrArg (· % 2 ^ 42) s.refBack_keeps.1
  obtain ⟨tr, hlock⟩ : ∃ tr, s.pllRelock = ({ s.refBack.holdLeft with aligning := true, timeref := tr } : State).jrnPut ⟨2, 0x1F4, s.refBack.now, 0⟩ :=
    ⟨_, (if_neg (by simp [hmay])).trans (if_neg (by simp [s.refBack_hold, h]))⟩
  have hrd {f : Fld} (hf : 0x40 ≤ f.off ∧ f.off < 0x60) : s.pllRelock.rd 0x070 f = s.refBack.holdLeft.rd 0x070 f := by
    rw [hlock, State.rd_jrnPut _ _ (tbWord hf).1]
    rfl
  have hon {f : Fld} (hf : 0x40 ≤ f.off ∧ f.off < 0x60) : s.pllRelock.on 0x070 f = s.refBack.holdLeft.on 0x070 f := by rw [State.on, hrd hf, State.on]
  obtain ⟨hhold, hslew, href, hstamp⟩ := s.refBack.holdLeft_fields
  refine ⟨_, exec_pllRelock s, (hon (by decide)).trans hhold, (hon (by decide)).trans hslew, (hon (by decide)).trans (href.trans hok),
    (hrd (by decide)).trans (hstamp.trans (by rw [hnow])), ?_, by simp, by simp⟩
  rw [hlock, (State.jrnPut_timeref ..).2]

/-! ### The adjustment and the sample (R234, R261, R372) -/

theorem signed_ofs (ofs : BitVec 28) : signed ofs.toNat 28 = ofs.toInt := by
  rw [signed, BitVec.toInt_eq_toNat_cond, Nat.mod_eq_of_lt ofs.isLt]
  have := ofs.isLt
  split <;> split <;> omega

/-- What TB_ADJ.GO leaves to be slewed: the sum where 28 bits hold it, and a free value beyond (R234). -/
def State.adjLeft (s : State) (ofs : BitVec 28) : Nat :=
  let sum := signed (s.rd 0x070 R.TB_ADJ_REM_REM) 28 + ofs.toInt
  if sum < 2 ^ 27 ∧ -(2 ^ 27 : Int) ≤ sum then wrap sum 28 else Config.freeValue s.free % 2 ^ 28

theorem State.adjLeft_lt (s : State) (ofs : BitVec 28) : s.adjLeft ofs < 2 ^ 28 := by
  unfold State.adjLeft
  dsimp only
  split
  · exact wrap_lt _ _
  · exact Nat.mod_lt _ (by decide)

/-- The state with the offset and what is left in their registers, the free values drawn up to `n`. -/
def State.adjusted (s : State) (ofs : BitVec 28) (n : Nat) : State :=
  ({ s.wr 0x070 R.TB_ADJ_OFS ofs.toNat with free := n } : State).wr 0x070 R.TB_ADJ_REM_REM (s.adjLeft ofs)

theorem State.adjusted_fields (s : State) (ofs : BitVec 28) (n : Nat) :
    (s.adjusted ofs n).rd 0x070 R.TB_ADJ_OFS = ofs.toNat ∧ (s.adjusted ofs n).rd 0x070 R.TB_ADJ_REM_REM = s.adjLeft ofs := by
  refine ⟨?_, (State.rd_wr_self _ _ _ _ _ (by decide)).trans (Nat.mod_eq_of_lt (s.adjLeft_lt ofs))⟩
  exact (State.rd_wr_off _ 0x070 R.TB_ADJ_REM_REM _ 0 (by decide)).trans ((State.rd_wr_self s _ _ _ _ (by decide)).trans (Nat.mod_eq_of_lt ofs.isLt))

/-- TB_ADJ.GO of a device that follows no leader, after the host's break record (R234). -/
theorem State.tbAdjGo_leads {s : State} (hlead : (s.jrnHost 0x7004C).tandemFollows = false) (ofs : BitVec 28) :
    let r := s.jrnHost 0x7004C
    ∃ n, s.tbAdjGo ofs.toNat = if r.adjLeft ofs ≠ 0 then (r.adjusted ofs n).wr 0x070 R.TB_STAT_SLEW 1 else r.adjusted ofs n := by
  intro r
  have hsum : signed ((r.wr 0x070 R.TB_ADJ_OFS ofs.toNat).rd 0x070 R.TB_ADJ_REM_REM) 28 + signed ofs.toNat 28 =
      signed (r.rd 0x070 R.TB_ADJ_REM_REM) 28 + ofs.toInt := by
    rw [signed_ofs, State.rd_wr_off _ _ _ _ _ (by decide)]
  unfold State.tbAdjGo
  rw [if_neg (Bool.eq_false_iff.1 hlead)]
  dsimp only
  rw [hsum]
  unfold State.adjusted State.adjLeft
  dsimp only
  split
  · next h => exact ⟨_, by rw [if_pos h.symm]⟩
  · next h => exact ⟨_, by rw [if_neg (mt And.symm h)]; rfl⟩

/-- What TB_ADJ.GO leaves in the registers (R234). -/
theorem State.tbAdjGo_fields {s : State} (hlead : (s.jrnHost 0x7004C).tandemFollows = false) (ofs : BitVec 28) :
    let r := s.jrnHost 0x7004C
    let t := s.tbAdjGo ofs.toNat
    t.rd 0x070 R.TB_ADJ_OFS = ofs.toNat ∧ t.rd 0x070 R.TB_ADJ_REM_REM = r.adjLeft ofs ∧ (r.adjLeft ofs ≠ 0 → t.on 0x070 R.TB_STAT_SLEW = true) ∧
      t.aligning = r.aligning := by
  intro r t
  obtain ⟨n, hgo⟩ := State.tbAdjGo_leads hlead ofs
  obtain ⟨hofs, hrem⟩ := r.adjusted_fields ofs n
  have hrd {f : Fld} (hf : R.TB_STAT_SLEW.off ≠ f.off ∧ R.TB_STAT_SLEW.stride = f.stride) : t.rd 0x070 f = (r.adjusted ofs n).rd 0x070 f := by
    unfold t
    rw [hgo]
    exact ite_keeps (fun t => t.rd 0x070 f) (State.rd_wr_off _ _ _ _ _ hf) rfl
  refine ⟨(hrd (by decide)).trans hofs, (hrd (by decide)).trans hrem, fun h => ?_, ?_⟩
  · unfold t
    rw [hgo, if_pos h, State.on_wr_self _ _ _ _ _ (by decide) rfl]
    rfl
  · unfold t
    rw [hgo]
    exact ite_keeps State.aligning rfl rfl

theorem exec_tbAdjGo {s : State} (hr : s.hostReaches = true) (hon : s.domOn 1 = true) (ofs : BitVec 28) : exec (.tbAdjGo ofs) s = .next (s.tbAdjGo ofs.toNat) :=
  congrArg Host.Outcome.next (State.hostAt_reached (p := 0x070) hr hon _)

/-- A read of TB_NOW_LO samples the count and HOLD (R261). -/
theorem tbNowRead_samples {s : State} (hr : s.hostReaches = true) :
    ∃ t, exec .tbNowRead s = .next t ∧ t.rd 0x070 R.TB_NOW_LO_NOW + 2 ^ 32 * t.rd 0x070 R.TB_NOW_HI_NOW = s.tb % 2 ^ 64 ∧
      t.rd 0x070 R.TB_STAT_HOLD_SMP = s.rd 0x070 R.TB_STAT_HOLD ∧ t.out = .regRead 0x70040 (BitVec.ofNat 32 s.tb) :: s.out ∧ t.tb = s.tb ∧ t.mem = s.mem := by
  refine ⟨_, congrArg Host.Outcome.next (s.host_reached hr _), ?_, ?_, rfl, by simp, by simp⟩
  · have hlo : s.tbNowRead.rd 0x070 R.TB_NOW_LO_NOW = s.tb % 2 ^ 32 := by
      refine (State.rd_wr_off _ 0x070 R.TB_STAT_HOLD_SMP _ 0 (by decide)).trans ((State.rd_wr_off _ _ _ _ _ (by decide)).trans ?_)
      exact State.rd_wr_self _ _ _ _ _ (by decide)
    have hhi : s.tbNowRead.rd 0x070 R.TB_NOW_HI_NOW = s.tb / 2 ^ 32 % 2 ^ 32 :=
      (State.rd_wr_off _ 0x070 R.TB_STAT_HOLD_SMP _ 0 (by decide)).trans (State.rd_wr_self _ _ _ _ _ (by decide))
    rw [hlo, hhi]
    omega
  · refine (State.rd_wr_self _ 0x070 R.TB_STAT_HOLD_SMP _ 0 (by decide)).trans (Nat.mod_eq_of_lt ?_)
    exact s.rd_lt 0x070 R.TB_STAT_HOLD 0

/-- Settles O31, a command at a time. -/
theorem timebaseCommandsActOnTheirRegisters : Obligations.TimebaseCommandsActOnTheirRegisters := by
  refine ⟨fun s h => State.jrnHost_idle h _, fun s => ?_⟩
  intro noEdges back aligned
  refine ⟨timerefLoss_outside, timerefLoss_inside, rfl, fun h => pllRelock_early ?_, fun hinj hback => ?_, rfl, fun ofs hr hon => ?_, tbNowRead_samples⟩
  · refine Bool.eq_false_iff.2 fun hmay => ?_
    obtain ⟨hnone, hlong⟩ := s.mayRelock_iff.1 hmay
    rcases h with h | ⟨b, hb, hlt⟩
    · simp [hnone] at h
    · exact absurd (hlong b hb) (Nat.not_le.2 hlt)
  · have hmay := s.mayRelock_iff.2 ⟨hinj, hback⟩
    exact ⟨pllRelock_outside hmay, pllRelock_inside hmay⟩
  · intro r sum fits left
    refine ⟨fun h => (exec_tbAdjGo hr hon ofs).trans (congrArg Host.Outcome.next ?_), fun h => ?_⟩
    · refine (if_pos (Bool.and_eq_true_iff.2 h)).trans ?_
      rw [Nat.mod_eq_of_lt ofs.isLt]
    · obtain ⟨hofs, hrem, hslew, halign⟩ := State.tbAdjGo_fields (Bool.eq_false_iff.2 fun hf => h (Bool.and_eq_true_iff.1 hf)) ofs
      exact ⟨_, exec_tbAdjGo hr hon ofs, hofs, hrem, hslew, halign, by simp, by simp⟩

end Sys2Proof.Machine
end

section
/-! PROOFS. The registers of a cadence (R9, R236 to R238, R263). -/

namespace Sys2Proof.Machine

/-! ### Words -/

/-- The words of the cadences lie below those of the axis table and of the cam tables. -/
theorem cad_addr_lt (n : Fin 16) {f : Fld} (hf : f.off < 0x80 ∧ f.stride = 64) : f.addr 0x072 n < 0x73000 := by
  simp only [Fld.addr, hf.2]
  omega

theorem State.reg_wr_cad (s : State) (n : Fin 16) {f : Fld} (hf : f.off < 0x80 ∧ f.stride = 64) (v : Nat) {a : Nat} (ha : 0x73000 ≤ a) :
    (s.wr 0x072 f v n).reg a = s.reg a :=
  State.reg_wr_ne _ _ _ _ _ (Nat.ne_of_lt (Nat.lt_of_lt_of_le (cad_addr_lt n hf) ha))

/-- A word that is one field reads as written. -/
theorem State.reg_wr_whole (s : State) (p : Nat) {f : Fld} (hf : f.lo = 0 ∧ f.w = 32) (v i : Nat) : (s.wr p f v i).reg (f.addr p i) = BitVec.ofNat 32 v := by
  unfold State.wr
  rw [State.reg_setReg_self, hf.1, hf.2]
  apply BitVec.eq_of_toNat_eq
  have hlt := (s.reg (f.addr p i)).isLt
  simp only [setBits, bits, BitVec.toNat_ofNat]
  omega

/-- A write of a word whose fields are RW puts the value's bits into each of them, at any index (R9). -/
theorem State.rd_applyWrite_at (s : State) {p i : Nat} {f : Fld} {fs : List Fld} (hword : wordFields (f.addr p i) = fs) (hf : f ∈ fs)
    (hfs : ∀ f ∈ fs, f.acc = .rw ∧ f.lo + f.w ≤ 32) (hapart : fs.Pairwise fun f f' => f.lo + f.w ≤ f'.lo ∨ f'.lo + f'.w ≤ f.lo) (data : Nat) :
    (s.applyWrite (f.addr p i) data).rd p f i = bits data f.lo f.w := by
  unfold State.applyWrite State.rd
  rw [State.reg_setReg_self, hword, BitVec.toNat_ofNat]
  have hgo : ∀ g : Nat → Fld → Nat, (∀ v f, f.acc = .rw → g v f = setBits v f.lo f.w (bits data f.lo f.w)) →
      bits (fs.foldl g (s.reg (f.addr p i)).toNat % 2 ^ 32) f.lo f.w = bits data f.lo f.w := fun g hg => by
    obtain ⟨hlt, hin, -⟩ := foldl_setBits_rw hg fs hfs hapart (s.reg (f.addr p i)).isLt
    rw [Nat.mod_eq_of_lt hlt]
    exact hin f hf
  exact hgo _ fun v f hrw => by simp only [hrw]

/-- The fields of CAD_CTRL (R263). -/
def cadCtrlFields : List Fld := [R.CAD_CTRL_EN, R.CAD_CTRL_NOTE_EN, R.CAD_CTRL_SYNC_EN, R.CAD_CTRL_SYNC_GAIN, R.CAD_CTRL_NOTE_CHAN]

theorem wordFields_cadCtrl : ∀ n : Fin 16, wordFields (R.CAD_CTRL_EN.addr 0x072 n) = cadCtrlFields := by decide

theorem cadCtrl_addr {f : Fld} (hf : f ∈ cadCtrlFields) (n : Nat) : f.addr 0x072 n = R.CAD_CTRL_EN.addr 0x072 n := by
  obtain ⟨ho, hs⟩ := (by decide : ∀ f ∈ cadCtrlFields, f.off = 0x40 ∧ f.stride = 64) f hf
  simp only [Fld.addr, ho, hs, R.CAD_CTRL_EN]

/-! ### A write of CAD_CTRL (R238) -/

/-- The state with the fields of CAD_CTRL written, but for EN, which stands as it was. -/
def State.ctrlWritten (s : State) (n data : Nat) : State := s.applyWrite (R.CAD_CTRL_EN.addr 0x072 n) (setBits data 0 1 (b2n (s.cadEn n)))

theorem State.rd_ctrlWritten (s : State) (n : Fin 16) (data : Nat) {f : Fld} (hf : f ∈ cadCtrlFields) :
    (s.ctrlWritten n data).rd 0x072 f n = bits (setBits data 0 1 (b2n (s.cadEn n))) f.lo f.w := by
  have haddr := cadCtrl_addr hf n
  unfold State.ctrlWritten
  rw [← haddr]
  exact s.rd_applyWrite_at (haddr ▸ wordFields_cadCtrl n) hf (by decide) (by decide) _

theorem State.ctrlWritten_en (s : State) (n : Fin 16) (data : Nat) : (s.ctrlWritten n data).cadEn n = s.cadEn n := by
  have hrd : (s.ctrlWritten n data).rd 0x072 R.CAD_CTRL_EN n = b2n (s.cadEn n) := by
    rw [s.rd_ctrlWritten n data (by decide)]
    refine (bits_setBits_self ..).trans ?_
    cases s.cadEn n <;> rfl
  unfold State.cadEn State.on at hrd ⊢
  rw [hrd]
  by_cases h : s.rd 0x072 R.CAD_CTRL_EN n = 1 <;> simp [h]

/-- The fields of CAD_CTRL other than EN. -/
def cadCtrlOthers : List Fld := [R.CAD_CTRL_NOTE_EN, R.CAD_CTRL_SYNC_EN, R.CAD_CTRL_SYNC_GAIN, R.CAD_CTRL_NOTE_CHAN]

/-- They are as written, whatever value EN had in the write. -/
theorem State.ctrlWritten_others (s : State) (n : Fin 16) (data b : Nat) : ∀ f ∈ cadCtrlOthers,
    (s.ctrlWritten n (setBits data 0 1 b)).rd 0x072 f n = bits data f.lo f.w := by
  intro f hf
  have hapart := (by decide : ∀ f ∈ cadCtrlOthers, 0 + 1 ≤ f.lo ∨ f.lo + f.w ≤ 0) f hf
  rw [s.rd_ctrlWritten n _ (List.mem_cons_of_mem _ hf), bits_setBits_ne _ _ hapart, bits_setBits_ne _ _ hapart]

/-- Another word of the cadence is left. -/
theorem State.rd_ctrlWritten_off (s : State) (n data : Nat) {f : Fld} (hf : f.off ≠ 0x40 ∧ f.stride = 64) :
    (s.ctrlWritten n data).rd 0x072 f n = s.rd 0x072 f n :=
  congrArg (fun w : Reg => bits w.toNat _ _) (s.reg_applyWrite_ne _ (by simp only [Fld.addr, R.CAD_CTRL_EN, hf.2]; omega))

theorem State.reg_ctrlWritten (s : State) (n : Fin 16) (data : Nat) {a : Nat} (ha : 0x73000 ≤ a) : (s.ctrlWritten n data).reg a = s.reg a :=
  s.reg_applyWrite_ne _ (Nat.ne_of_lt (Nat.lt_of_lt_of_le (cad_addr_lt n (by decide)) ha))

/-- A write of EN = 1, and of EN = 0: a cadence that stands so already changes no course. -/
theorem State.writeCadCtrl_cases {s r : State} {n : Nat} (hr : s.jrnHost (R.CAD_CTRL_EN.addr 0x072 n) = r) (data : Nat) :
    (r.cadEn n = false → s.writeCadCtrl n (setBits data 0 1 1) = (r.ctrlWritten n (setBits data 0 1 1)).cadEnable n) ∧
    (r.cadEn n = true → s.writeCadCtrl n (setBits data 0 1 1) = r.ctrlWritten n (setBits data 0 1 1)) ∧
    (r.cadEn n = true → s.writeCadCtrl n (setBits data 0 1 0) = (r.ctrlWritten n (setBits data 0 1 0)).cadDisable n) ∧
    (r.cadEn n = false → s.writeCadCtrl n (setBits data 0 1 0) = r.ctrlWritten n (setBits data 0 1 0)) := by
  have h1 : bit (setBits data 0 1 1) 0 = true := (bit_setBits ..).trans rfl
  have h0 : bit (setBits data 0 1 0) 0 = false := (bit_setBits ..).trans rfl
  unfold State.writeCadCtrl State.ctrlWritten
  dsimp only
  rw [hr]
  refine ⟨fun h => ?_, fun h => ?_, fun h => ?_, fun h => ?_⟩ <;> simp [h, h1, h0]

/-! ### Courses (R236) -/

theorem State.setCourse_cad (s : State) (n : Nat) (c : Cadence) :
    (s.setCourse n c).cad n = { c with was := (s.tb, (s.cad n).segs) :: (s.cad n).was.filter fun x => decide (s.tb < x.1 + 2 ^ 30) } ∧
      ∀ k, k ≠ n → (s.setCourse n c).cad k = s.cad k :=
  ⟨State.setCad_self .., fun _ hk => State.setCad_ne _ _ _ (Ne.symm hk)⟩

/-- Without a ramp a stretch advances by its rate (R236). -/
theorem Seg.pos_steady {g : Seg} {t : Nat} (hramp : g.rampT = 0) (hext : g.ext = none) (ht : g.start ≤ t) :
    g.pos t = (g.a + g.rate * (t - g.start : Nat)) / 2 ^ 20 + g.kDone := by
  have hraw : g.raw t = (g.a + g.rate * (t - g.start : Nat)) / 2 ^ 20 + g.kDone := by
    rw [Seg.raw, Seg.applied, if_pos (.inl hramp), Seg.accAt, Int.ofNat_sub ht, Int.add_zero]
  unfold Seg.pos
  split
  · exact hraw
  · simp [hramp, hext, hraw]

/-- The stretch that an enable starts (R238). -/
def enableSeg (t pos : Nat) (rate : Int) : Seg := ⟨t, pos * 2 ^ 20, rate, 0, 0, t, 1, none⟩

theorem Cadence.posAt_enable {c : Cadence} {t pos : Nat} {rate : Int} (h : c.segs = [enableSeg t pos rate]) : c.posAt t = pos := by
  have hseg : c.segAt t = some (enableSeg t pos rate) := by simp [Cadence.segAt, h, enableSeg]
  unfold Cadence.posAt
  rw [hseg]
  show (enableSeg t pos rate).pos (max t t) = pos
  rw [Nat.max_eq_left (Nat.le_refl t), Seg.pos_steady rfl rfl (Nat.le_refl t)]
  simp [enableSeg]

/-! ### Enable and disable (R238, R257) -/

/-- The words that show the cycle and the boundary are none of those before them. -/
theorem State.rd_showCad (s : State) (n : Nat) {f : Fld} (hf : f.off < 0x68 ∧ f.stride = 64) : (s.showCad n).rd 0x072 f n = s.rd 0x072 f n := by
  obtain ⟨hoff, hs⟩ := hf
  have hne (g : Fld) (hg : 0x68 ≤ g.off ∧ g.stride = 64) : g.off ≠ f.off ∧ g.stride = f.stride := ⟨by omega, hg.2.trans hs.symm⟩
  unfold State.showCad
  rw [State.rd_wr_off _ _ _ _ _ (hne _ (by decide)), State.rd_wr_off _ _ _ _ _ (hne _ (by decide)), State.rd_wr_off _ _ _ _ _ (hne _ (by decide))]

theorem State.showCad_cads (s : State) (n : Nat) : (s.showCad n).cads = s.cads := by simp [State.showCad]

/-- What an enable leaves: EN, and one stretch from the next tick on at CAD_POS (R238). -/
theorem State.cadEnable_starts (s : State) (n : Nat) :
    let pos : Nat := s.rd 0x072 R.CAD_POS_LO_VALUE n + s.rd 0x072 R.CAD_POS_HI_VALUE n * 2 ^ 32
    let rate := signed (s.rd 0x072 R.CAD_RATE_LO_VALUE n + s.rd 0x072 R.CAD_RATE_HI_VALUE n * 2 ^ 32) 42
    let t := s.cadEnable n
    t.cadEn n = true ∧ (t.cad n).segs = [enableSeg (s.tb + 1) pos rate] ∧ (t.cad n).cyc = (pos / 2 ^ 28 : Nat) ∧ (t.cad n).bnds = [] ∧
      (t.cad n).enabledAt = s.tb + 1 ∧ (∀ f ∈ cadCtrlOthers, t.rd 0x072 f n = s.rd 0x072 f n) ∧ ∀ k, k ≠ n → t.cad k = s.cad k := by
  intro pos rate t
  have hcads (u : State) : ((u.wr 0x072 R.CAD_CTRL_EN 1 n).showCad n).cads = u.cads := (State.showCad_cads ..).trans rfl
  have hcad (u : State) (k : Nat) : ((u.wr 0x072 R.CAD_CTRL_EN 1 n).showCad n).cad k = u.cad k := congrArg (fun m => lookD m k ({} : Cadence)) (hcads u)
  unfold t State.cadEnable
  refine ⟨?_, ?_, ?_, ?_, ?_, fun f hf => ?_, fun k hk => ?_⟩
  · rw [State.cadEn, State.on, State.rd_showCad _ _ (by decide), State.rd_wr_self _ _ _ _ _ (by decide)]
    rfl
  · rw [hcad, (State.setCourse_cad ..).1]
    rfl
  · rw [hcad, (State.setCourse_cad ..).1]
    rfl
  · rw [hcad, (State.setCourse_cad ..).1]
  · rw [hcad, (State.setCourse_cad ..).1]
  · obtain ⟨hoff, hapart⟩ := (by decide : ∀ f ∈ cadCtrlOthers, (f.off < 0x68 ∧ f.stride = 64) ∧ (0 + 1 ≤ f.lo ∨ f.lo + f.w ≤ 0)) f hf
    rw [State.rd_showCad _ _ hoff, State.rd_wr_bits _ _ _ _ _ (by decide) hapart]
    rfl
  · rw [hcad, (State.setCourse_cad ..).2 k hk]

/-- A position in its pair of registers (R263). -/
def State.showPos (s : State) (n p : Nat) : State := (s.wr 0x072 R.CAD_POS_LO_VALUE p n).wr 0x072 R.CAD_POS_HI_VALUE (p / 2 ^ 32) n

theorem State.rd_showPos (s : State) (n : Nat) {p : Nat} (hp : p < 2 ^ 42) :
    (s.showPos n p).rd 0x072 R.CAD_POS_LO_VALUE n + (s.showPos n p).rd 0x072 R.CAD_POS_HI_VALUE n * 2 ^ 32 = p := by
  have hlo : (s.showPos n p).rd 0x072 R.CAD_POS_LO_VALUE n = p % 2 ^ 32 := (State.rd_wr_off _ _ _ _ _ (by decide)).trans (State.rd_wr_self _ _ _ _ _ (by decide))
  have hhi : (s.showPos n p).rd 0x072 R.CAD_POS_HI_VALUE n = p / 2 ^ 32 % 2 ^ 10 := State.rd_wr_self _ _ _ _ _ (by decide)
  rw [hlo, hhi]
  omega

/-- The state that a disable leaves before the axes are marked: the position frozen, no stretch, EN 0. -/
def State.stopped (s : State) (n : Nat) : State :=
  ((s.showPos n (wrap ((s.cad n).posAt s.tb) 42)).setCourse n { s.cad n with segs := [] }).wr 0x072 R.CAD_CTRL_EN 0 n

theorem State.cadDisable_eq (s : State) (n : Nat) :
    s.cadDisable n = (s.stopped n).dropAxes fun a =>
      decide ((s.stopped n).ard a R.AX_BIND_CAD = n) || decide ((s.stopped n).rd (tablePage ((s.stopped n).ard a R.AX_BIND_TABLE)) R.CAM_TBL_A_CAD = n) := rfl

theorem State.reg_stopped (s : State) (n : Fin 16) {a : Nat} (ha : 0x73000 ≤ a) : (s.stopped n).reg a = s.reg a := by
  unfold State.stopped State.showPos
  refine (State.reg_wr_cad _ _ (by decide) _ ha).trans ?_
  exact (State.reg_wr_cad _ _ (f := R.CAD_POS_HI_VALUE) (by decide) _ ha).trans (State.reg_wr_cad _ _ (by decide) _ ha)

theorem State.rd_stopped_axis (s : State) (n : Fin 16) (a : Nat) (f : Fld) : (s.stopped n).rd 0x1000 f a = s.rd 0x1000 f a :=
  congrArg (fun w : Reg => bits w.toNat _ _) (s.reg_stopped n (by unfold Fld.addr; omega))

theorem State.rd_stopped_table (s : State) (n : Fin 16) (t : Nat) (f : Fld) : (s.stopped n).rd (tablePage t) f = s.rd (tablePage t) f :=
  congrArg (fun w : Reg => bits w.toNat _ _) (s.reg_stopped n (by unfold Fld.addr tablePage; omega))

/-- What a disable leaves (R238, R257). -/
theorem State.cadDisable_stops (s : State) (n : Fin 16) :
    let t := s.cadDisable n
    t.cadEn n = false ∧ (t.cad n).segs = [] ∧
      t.rd 0x072 R.CAD_POS_LO_VALUE n + t.rd 0x072 R.CAD_POS_HI_VALUE n * 2 ^ 32 = wrap ((s.cad n).posAt s.tb) 42 ∧
      (∀ a, a < 512 → 2 ≤ s.rd 0x1000 R.AX_STATE_STATE a →
        s.rd 0x1000 R.AX_BIND_CAD a = n.val ∨ s.rd (tablePage (s.rd 0x1000 R.AX_BIND_TABLE a)) R.CAM_TBL_A_CAD = n.val → (t.axis a).drop = true) ∧
      (∀ f ∈ cadCtrlOthers, t.rd 0x072 f n = s.rd 0x072 f n) ∧ ∀ k, k ≠ n.val → t.cad k = s.cad k := by
  intro t
  have hrd (f : Fld) : t.rd 0x072 f n = (s.stopped n).rd 0x072 f n := State.rd_of_regs (State.dropAxes_frame ..).1 ..
  have hcad (k : Nat) : t.cad k = (s.stopped n).cad k :=
    congrArg (fun m => lookD m k ({} : Cadence)) (foldl_keeps State.cads _ (by simp) _ (s.stopped n))
  have hen : (s.stopped n).rd 0x072 R.CAD_CTRL_EN n = 0 := State.rd_wr_self _ _ _ _ _ (by decide)
  refine ⟨?_, ?_, ?_, fun a ha hst hon => ?_, fun f hf => (hrd f).trans ?_, fun k hk => (hcad k).trans ?_⟩
  · rw [State.cadEn, State.on, hrd, hen]
    rfl
  · rw [hcad]
    exact congrArg Cadence.segs (State.setCourse_cad ..).1
  · have hpos {f : Fld} (hf : R.CAD_CTRL_EN.off ≠ f.off ∧ R.CAD_CTRL_EN.stride = f.stride) :
        t.rd 0x072 f n = (s.showPos n (wrap ((s.cad n).posAt s.tb) 42)).rd 0x072 f n := (hrd f).trans (State.rd_wr_off _ _ _ _ _ hf)
    rw [hpos (by decide), hpos (by decide)]
    exact s.rd_showPos n (wrap_lt ..)
  · unfold t
    rw [s.cadDisable_eq]
    refine State.dropAxes_drop _ ha ?_ ?_
    · rwa [State.ard, s.rd_stopped_axis]
    · simp only [State.ard, s.rd_stopped_axis, s.rd_stopped_table]
      simpa using hon
  · obtain ⟨hoff, hapart⟩ := (by decide : ∀ f ∈ cadCtrlOthers, (f.off = 0x40 ∧ f.stride = 64) ∧ (0 + 1 ≤ f.lo ∨ f.lo + f.w ≤ 0)) f hf
    have hne {g : Fld} (hg : g.off ≠ 0x40 ∧ g.stride = 64) : g.off ≠ f.off ∧ g.stride = f.stride := ⟨hoff.1 ▸ hg.1, hg.2.trans hoff.2.symm⟩
    refine (State.rd_wr_bits _ _ _ _ _ (by decide) hapart).trans ?_
    exact (State.rd_wr_off _ _ R.CAD_POS_HI_VALUE _ _ (hne (by decide))).trans (State.rd_wr_off _ _ _ _ _ (hne (by decide)))
  · exact (State.setCourse_cad ..).2 k hk

/-! ### The host's commands (R238, R263) -/

theorem exec_writeCadCtrl {s : State} (hr : s.hostReaches = true) (hon : s.domOn 3 = true) (n : Fin 16) (data : Reg) :
    exec (.cadenceEnable n data) s = .next (s.writeCadCtrl n (setBits data.toNat 0 1 1)) ∧
      exec (.cadenceDisable n data) s = .next (s.writeCadCtrl n (setBits data.toNat 0 1 0)) :=
  ⟨congrArg Host.Outcome.next (State.hostAt_reached (p := 0x072) hr hon _), congrArg Host.Outcome.next (State.hostAt_reached (p := 0x072) hr hon _)⟩

theorem exec_cadPosRead {s : State} (hr : s.hostReaches = true) (n : Fin 16) :
    exec (.cadPosRead n) s = .next (if s.domOn 3 then s.cadPosRead n else { s with out := .regRead (R.CAD_POS_LO_VALUE.addr 0x072 n) 0 :: s.out }) :=
  congrArg Host.Outcome.next (s.host_reached hr _)

/-- A read of CAD_POS_LO of an enabled cadence samples its position (R263). -/
theorem State.cadPosRead_enabled {s : State} {n : Nat} (hen : s.cadEn n = true) :
    s.cadPosRead n = { s.showPos n (wrap ((s.cad n).posAt s.tb) 42) with
      out := .regRead (R.CAD_POS_LO_VALUE.addr 0x072 n) (BitVec.ofNat 32 (wrap ((s.cad n).posAt s.tb) 42)) :: s.out } := by
  have hlo : (s.showPos n (wrap ((s.cad n).posAt s.tb) 42)).reg (R.CAD_POS_LO_VALUE.addr 0x072 n) = BitVec.ofNat 32 (wrap ((s.cad n).posAt s.tb) 42) :=
    (State.reg_wr_ne _ _ _ _ _ (by simp only [Fld.addr, R.CAD_POS_HI_VALUE, R.CAD_POS_LO_VALUE]; omega)).trans (State.reg_wr_whole _ _ (by decide) _ _)
  simp only [State.cadPosRead, if_pos hen]
  exact congrArg (fun v => ({ s.showPos n (wrap ((s.cad n).posAt s.tb) 42) with out := .regRead (R.CAD_POS_LO_VALUE.addr 0x072 n) v :: s.out } : State)) hlo

theorem State.cadPosRead_disabled {s : State} {n : Nat} (hen : s.cadEn n = false) :
    s.cadPosRead n = { s with out := .regRead (R.CAD_POS_LO_VALUE.addr 0x072 n) (s.reg (R.CAD_POS_LO_VALUE.addr 0x072 n)) :: s.out } := by
  simp only [State.cadPosRead, if_neg (Bool.eq_false_iff.1 hen)]

end Sys2Proof.Machine
end

section
/-! PROOFS. The commands of a cadence's command input (R239 to R242). -/

namespace Sys2Proof.Machine

/-! ### The late rule (R240) -/

/-- The stamp at which a command acts. -/
theorem State.lateRule_stamp (s : State) (n : Nat) (m : Msg) (t : Nat) :
    (s.lateRule n m t).1 = max (if t ≤ s.cmt n then s.cmt n + 1 else t) (if s.cadEn n then (s.cad n).enabledAt else 0) := by
  unfold State.lateRule
  dsimp only
  split <;> simp only [decide_eq_true_eq]

/-- A command that is not late, and not reported so, leaves the state. -/
theorem State.lateRule_timely {s : State} {n : Nat} {t : Nat} (m : Msg) (ht : s.cmt n < t) (hinj : s.injArmed 0x072 0 = false) : (s.lateRule n m t).2 = s := by
  have hlate : s.isLate n t = false := by simp [State.isLate, hinj, ht]
  simp only [State.lateRule, hlate, Bool.false_eq_true, if_false]

/-- A late command is counted and noticed. -/
def State.lateNoted (s : State) (n : Nat) (m : Msg) : State :=
  (s.bump 0x072 R.CAD_CNT_LATE n).notice n { stamp := s.cmt n + 1, type := 3, w1 := if m.cadOp = 16 then 15 else m.cadOp, w3 := m.sender }

theorem State.lateNoted_unwatched {s : State} {n : Nat} (m : Msg) (hrec : s.recording = false) (hdl : s.on 0x021 R.DL_CFG_EN n = false) :
    (s.lateNoted n m).recording = false ∧ (s.lateNoted n m).on 0x021 R.DL_CFG_EN n = false := by
  have hrd {p i : Nat} {f : Fld} (h : R.CAD_CNT_LATE.addr 0x072 n ≠ f.addr p i) : (s.lateNoted n m).on p f i = s.on p f i :=
    congrArg (fun v : Nat => decide (v = 1)) (State.rd_wr_ne _ _ _ _ _ h)
  constructor
  · have hjrn {f : Fld} (hf : f.off < 0x1000 ∧ f.stride = 0) : (s.lateNoted n m).on 0x060 f = s.on 0x060 f :=
      hrd (by simp only [Fld.addr, R.CAD_CNT_LATE, hf.2]; omega)
    have hpage : (s.lateNoted n m).pageOn 0x060 = s.pageOn 0x060 := rfl
    unfold State.recording State.blockOn at hrec ⊢
    rwa [hpage, hjrn (by decide), hjrn (by decide), hjrn (by decide), hjrn (by decide)]
  · rwa [hrd (by simp only [Fld.addr, R.CAD_CNT_LATE, R.DL_CFG_EN]; omega)]

/-- Without monitor and journal the count and the notice LATE are all that it leaves. -/
theorem State.lateRule_late {s : State} {n t : Nat} (m : Msg) (ht : t ≤ s.cmt n) (hrec : s.recording = false) (hdl : s.on 0x021 R.DL_CFG_EN n = false) :
    (s.lateRule n m t).2 = (s.lateNoted n m).pgEvt 0x072 0 := by
  have hlate : s.isLate n t = true := by simp [State.isLate, ht]
  obtain ⟨hrec', hdl'⟩ := State.lateNoted_unwatched m hrec hdl
  have hmiss : (s.lateNoted n m).dlMiss n 4 = s.lateNoted n m := if_neg (by simp [hdl'])
  have hbreak (c t d : Nat) : (s.lateNoted n m).jrnBreak c t d = s.lateNoted n m := if_neg (by simp [hrec'])
  unfold State.lateNoted at hmiss hbreak ⊢
  simp only [State.lateRule, hlate, ht, decide_true, if_true, hmiss, hbreak]

/-! ### Taking a command (R208, R239) -/

/-- The commands of a cadence, each with its OP. -/
def cadInstrs (n : Fin 16) : List (Nat × Instr) :=
  [(1, .trim n), (2, .rate n), (3, .ptSel n), (4, .ptM n), (5, .ptY n), (6, .ptK n), (7, .flip n), (8, .couple n), (9, .free n), (10, .shift n), (16, .syncEdge n)]

theorem exec_cadInstrs (n : Fin 16) (s : State) : ∀ x ∈ cadInstrs n, exec x.2 s = .next (s.cadCommand n x.1) := by
  simp only [cadInstrs, List.forall_mem_cons]
  exact ⟨rfl, rfl, rfl, rfl, rfl, rfl, rfl, rfl, rfl, rfl, rfl, List.forall_mem_nil _⟩

/-- With FABRIC not on nothing is taken. -/
theorem State.cadCommand_off {s : State} (hoff : s.domOn 3 = false) (n op : Nat) : s.cadCommand n op = s := by
  simp only [State.cadCommand, hoff, Bool.false_eq_true, if_false]

/-- The deliverable message is taken by the command of its OP, and by every command where its OP is not one that is accepted. -/
theorem State.cadCommand_takes {s : State} {n ch : Nat} {m : Msg} (h : s.commandReady n ch m) {op : Nat}
    (hop : m.cadOp = op ∨ m.cadOp = 0 ∨ 11 ≤ m.cadOp ∧ m.cadOp ≤ 15) :
    s.cadCommand n op = ((s.deliver m).cadExec n m.cadOp m).notePast n ((s.deliver m).cmdEffect n m) (s.deliver m) := by
  obtain ⟨hdom, hchan, hm, h3, h2⟩ := h
  have htake : s.takeMsg ch = (some m, s.deliver m) := by rw [State.takeMsg_calm h3 h2, hm]
  simp only [State.cadCommand, hdom, hchan, List.find?_cons, hm, Option.any_some, hop, decide_true, if_true, htake]

/-- A message of an OP that R239 does not accept is refused. -/
theorem State.cadExec_unknown (s : State) (n : Nat) {op : Nat} (m : Msg) (hop : op = 0 ∨ 11 ≤ op ∧ op ≤ 15) : s.cadExec n op m = s.refuse n 1 m := by
  unfold State.cadExec
  dsimp only
  rw [if_neg (by omega), if_neg (by omega), if_neg (by omega), if_neg (by omega), if_neg (by omega), if_neg (by omega)]

/-! ### TRIM and RATE (R241, R242) -/

theorem State.cadExec_spanned {s : State} {n : Nat} (hsp : s.spanned n = true) {op : Nat} (hop : op = 1 ∨ op = 2) (m : Msg) : s.cadExec n op m = s.refuse n 1 m := by
  simp only [State.cadExec, hop, hsp, if_true]

theorem State.cadExec_disabled {s : State} {n : Nat} (hsp : s.spanned n = false) (hen : s.cadEn n = false) {op : Nat} (hop : op = 1 ∨ op = 2) (m : Msg) :
    s.cadExec n op m = s.refuse n 2 m := by
  simp only [State.cadExec, hop, hsp, hen, if_true, Bool.not_false, Bool.false_eq_true, if_false]

theorem State.cadExec_trimRate {s : State} {n : Nat} (hsp : s.spanned n = false) (hen : s.cadEn n = true) (m : Msg) :
    let l := s.lateRule n m (s.absStamp m.stamp)
    s.cadExec n 1 m = l.2.trimCmd n l.1 (m.value 1 2) ∧ s.cadExec n 2 m = l.2.rateCmd n l.1 (m.value 1 3) := by
  simp [State.cadExec, hsp, hen]

/-- With no boundary passed at or after the stamp nothing is computed anew. -/
theorem State.recompute_none {s : State} {n t : Nat} (h : ∀ b ∈ (s.cad n).bnds, b.1 < t) : s.recompute n t = s := by
  have hkeep : (s.cad n).bnds.filter (fun b => decide (b.1 < t)) = (s.cad n).bnds := List.filter_eq_self.2 fun b hb => decide_eq_true (h b hb)
  simp [State.recompute, hkeep]

theorem State.rateCmd_forward {s : State} {n t : Nat} (h : ∀ b ∈ (s.cad n).bnds, b.1 < t) (r : Int) :
    s.rateCmd n t r = (s.setCourse n ((s.cad n).restart t ((s.cad n).remainder t) r (s.rd 0x072 R.CAD_SLEW_TICKS n) true)).spanEmit n true t r := by
  unfold State.rateCmd
  dsimp only
  rw [State.recompute_none (by rwa [(State.setCourse_cad ..).1])]
  rfl

/-- What a TRIM finds used of the cycle's budget, what of the amount is left of it, and what it accepts of a request (R242). -/
def State.trimUsed (s : State) (n t : Nat) : Nat :=
  if wrap ((s.cad n).posAt t / 2 ^ 28) 14 = (s.cad n).usedCyc then (s.cad n).used else 0

def State.trimAccepted (s : State) (n t : Nat) (req : Int) : Int :=
  let room : Int := if (s.cad n).vars.rate = 0 then 0 else (min (s.rd 0x072 R.CAD_TRIM_MAX n) (2 ^ 24) - s.trimUsed n t : Nat)
  max (-room) (min req room)

/-- The report of a clipped TRIM. -/
def State.clipNoted (s : State) (n t : Nat) (req acc : Int) : State :=
  if acc = req then s else (s.bump 0x072 R.CAD_CNT_CLIP n).notice n { stamp := t, type := 2, w1 := wrap (req - acc) 28 % 2 ^ 14, w2 := wrap (req - acc) 28 / 2 ^ 14 }

/-- It changes neither the course nor what has passed, nor the length of a ramp. -/
theorem State.clipNoted_course (s : State) (n t : Nat) (req acc : Int) :
    ((s.clipNoted n t req acc).cad n).segs = (s.cad n).segs ∧ ((s.clipNoted n t req acc).cad n).bnds = (s.cad n).bnds ∧
      (s.clipNoted n t req acc).rd 0x072 R.CAD_SLEW_TICKS n = s.rd 0x072 R.CAD_SLEW_TICKS n := by
  unfold State.clipNoted
  split
  · exact ⟨rfl, rfl, rfl⟩
  · unfold State.notice
    rw [State.setCad_self]
    exact ⟨rfl, rfl, State.rd_wr_off _ _ _ _ _ (by decide)⟩

theorem State.trimCmd_eq (s : State) (n t : Nat) (req : Int) :
    let acc := s.trimAccepted n t req
    let x := s.clipNoted n t req acc
    let c := { x.cad n with used := s.trimUsed n t + acc.natAbs, usedCyc := wrap ((s.cad n).posAt t / 2 ^ 28) 14 }
    s.trimCmd n t req = ((x.setCourse n (c.restart t (c.remainder t + acc) (s.cad n).vars.rate (x.rd 0x072 R.CAD_SLEW_TICKS n) false)).recompute n t).spanEmit n false t acc := rfl

theorem Cadence.remainder_of_segs {c d : Cadence} (h : c.segs = d.segs) (t : Nat) : c.remainder t = d.remainder t := by
  unfold Cadence.remainder Cadence.vars
  rw [h]

theorem State.trimCmd_forward {s : State} {n t : Nat} (h : ∀ b ∈ (s.cad n).bnds, b.1 < t) (req : Int) :
    let acc := s.trimAccepted n t req
    let x := s.clipNoted n t req acc
    let c := { x.cad n with used := s.trimUsed n t + acc.natAbs, usedCyc := wrap ((s.cad n).posAt t / 2 ^ 28) 14 }
    s.trimCmd n t req = (x.setCourse n (c.restart t ((s.cad n).remainder t + acc) (s.cad n).vars.rate (s.rd 0x072 R.CAD_SLEW_TICKS n) false)).spanEmit n false t acc := by
  intro acc x c
  obtain ⟨hsegs, hbnds, hslew⟩ := s.clipNoted_course n t req acc
  have hrem : c.remainder t = (s.cad n).remainder t := Cadence.remainder_of_segs hsegs t
  refine (s.trimCmd_eq n t req).trans ?_
  dsimp only
  rw [State.recompute_none]
  · rw [hslew]
    exact congrArg (fun r : Int => (x.setCourse n (c.restart t (r + acc) _ _ _)).spanEmit n false t acc) hrem
  · rw [(State.setCourse_cad ..).1]
    exact hbnds ▸ h

end Sys2Proof.Machine
end

section
/-! PROOFS. O32 (R236 to R242, R257, R263). -/

namespace Sys2Proof.Machine

/-- The other fields of CAD_CTRL are as written, every other cadence, the stores and the timebase as before. -/
def CtrlKept (s r : State) (n : Fin 16) (data : Nat) (t : State) : Prop :=
  (∀ f ∈ cadCtrlOthers, t.rd 0x072 f n = bits data f.lo f.w) ∧ (∀ k, k ≠ n.val → t.cad k = r.cad k) ∧ t.mem = s.mem ∧ t.tb = s.tb

/-- CADENCE_ENABLE (R238). -/
theorem exec_cadenceEnable {s r : State} (hr : s.hostReaches = true) (hon : s.domOn 3 = true) (n : Fin 16) (data : Reg)
    (hjrn : s.jrnHost (R.CAD_CTRL_EN.addr 0x072 n) = r) :
    let pos : Nat := r.rd 0x072 R.CAD_POS_LO_VALUE n + r.rd 0x072 R.CAD_POS_HI_VALUE n * 2 ^ 32
    let rate := signed (r.rd 0x072 R.CAD_RATE_LO_VALUE n + r.rd 0x072 R.CAD_RATE_HI_VALUE n * 2 ^ 32) 42
    (r.cadEn n = false → ∃ t, exec (.cadenceEnable n data) s = .next t ∧ t.cadEn n = true ∧
      (t.cad n).segs = [enableSeg (s.tb + 1) pos rate] ∧ (t.cad n).cyc = (pos / 2 ^ 28 : Nat) ∧ (t.cad n).bnds = [] ∧
      (t.cad n).enabledAt = s.tb + 1 ∧ (t.cad n).posAt (s.tb + 1) = pos ∧ CtrlKept s r n data.toNat t) ∧
    (r.cadEn n = true → ∃ t, exec (.cadenceEnable n data) s = .next t ∧ t.cadEn n = true ∧ t.cad n = r.cad n ∧ CtrlKept s r n data.toNat t) := by
  intro pos rate
  obtain ⟨hstart, hsame, -, -⟩ := State.writeCadCtrl_cases hjrn data.toNat
  obtain ⟨htb, -, hmem⟩ := s.jrnHost_keeps (R.CAD_CTRL_EN.addr 0x072 n)
  rw [hjrn] at htb hmem
  rw [(exec_writeCadCtrl hr hon n data).1]
  have hothers := r.ctrlWritten_others n data.toNat 1
  refine ⟨fun hen => ⟨_, congrArg Host.Outcome.next (hstart hen), ?_⟩, fun hen => ⟨_, congrArg Host.Outcome.next (hsame hen), ?_⟩⟩
  · obtain ⟨hen', hsegs, hcyc, hbnds, hat, hrest, hcads⟩ := State.cadEnable_starts (r.ctrlWritten n (setBits data.toNat 0 1 1)) n
    have htb' : (r.ctrlWritten n (setBits data.toNat 0 1 1)).tb = s.tb := htb
    rw [r.rd_ctrlWritten_off _ _ (by decide), r.rd_ctrlWritten_off _ _ (by decide)] at hcyc
    rw [r.rd_ctrlWritten_off _ _ (by decide), r.rd_ctrlWritten_off _ _ (by decide), r.rd_ctrlWritten_off _ _ (by decide),
      r.rd_ctrlWritten_off _ _ (by decide), htb'] at hsegs
    rw [htb'] at hat
    refine ⟨hen', hsegs, hcyc, hbnds, hat, Cadence.posAt_enable hsegs, fun f hf => (hrest f hf).trans (hothers f hf), hcads,
      (State.cadEnable_keeps ..).2.2.trans hmem, (State.cadEnable_keeps ..).1.trans htb⟩
  · exact ⟨(r.ctrlWritten_en n _).trans hen, rfl, hothers, fun _ _ => rfl, hmem, htb⟩

/-- CADENCE_DISABLE (R238, R257). -/
theorem exec_cadenceDisable {s r : State} (hr : s.hostReaches = true) (hon : s.domOn 3 = true) (n : Fin 16) (data : Reg)
    (hjrn : s.jrnHost (R.CAD_CTRL_EN.addr 0x072 n) = r) :
    (r.cadEn n = true → ∃ t, exec (.cadenceDisable n data) s = .next t ∧ t.cadEn n = false ∧ (t.cad n).segs = [] ∧
      t.rd 0x072 R.CAD_POS_LO_VALUE n + t.rd 0x072 R.CAD_POS_HI_VALUE n * 2 ^ 32 = wrap ((r.cad n).posAt r.tb) 42 ∧
      (∀ a, a < 512 → 2 ≤ r.rd 0x1000 R.AX_STATE_STATE a →
        r.rd 0x1000 R.AX_BIND_CAD a = n.val ∨ r.rd (tablePage (r.rd 0x1000 R.AX_BIND_TABLE a)) R.CAM_TBL_A_CAD = n.val → (t.axis a).drop = true) ∧
      CtrlKept s r n data.toNat t) ∧
    (r.cadEn n = false → ∃ t, exec (.cadenceDisable n data) s = .next t ∧ t.cadEn n = false ∧ t.cad n = r.cad n ∧ CtrlKept s r n data.toNat t) := by
  obtain ⟨-, -, hstop, hsame⟩ := State.writeCadCtrl_cases hjrn data.toNat
  obtain ⟨htb, -, hmem⟩ := s.jrnHost_keeps (R.CAD_CTRL_EN.addr 0x072 n)
  rw [hjrn] at htb hmem
  rw [(exec_writeCadCtrl hr hon n data).2]
  have hothers := r.ctrlWritten_others n data.toNat 0
  refine ⟨fun hen => ⟨_, congrArg Host.Outcome.next (hstop hen), ?_⟩, fun hen => ⟨_, congrArg Host.Outcome.next (hsame hen), ?_⟩⟩
  · obtain ⟨hen', hsegs, hpos, haxes, hrest, hcads⟩ := State.cadDisable_stops (r.ctrlWritten n (setBits data.toNat 0 1 0)) n
    have hrd (p : Nat) (f : Fld) (i : Nat) (ha : 0x73000 ≤ f.addr p i) : (r.ctrlWritten n (setBits data.toNat 0 1 0)).rd p f i = r.rd p f i :=
      congrArg (fun w : Reg => bits w.toNat _ _) (r.reg_ctrlWritten n _ ha)
    have haxis (f : Fld) (a : Nat) := hrd 0x1000 f a (by unfold Fld.addr; omega)
    have htable (tb : Nat) (f : Fld) := hrd (tablePage tb) f 0 (by unfold Fld.addr tablePage; omega)
    simp only [haxis, htable] at haxes
    refine ⟨hen', hsegs, hpos, haxes, fun f hf => (hrest f hf).trans (hothers f hf), hcads,
      (State.cadDisable_keeps ..).2.2.trans hmem, (State.cadDisable_keeps ..).1.trans htb⟩
  · exact ⟨(r.ctrlWritten_en n _).trans hen, rfl, hothers, fun _ _ => rfl, hmem, htb⟩

/-- CAD_POS_READ (R263). -/
theorem exec_cadPosRead_enabled {s : State} (hr : s.hostReaches = true) (hon : s.domOn 3 = true) {n : Fin 16} (hen : s.cadEn n = true) :
    ∃ t, exec (.cadPosRead n) s = .next t ∧
      t.rd 0x072 R.CAD_POS_LO_VALUE n + t.rd 0x072 R.CAD_POS_HI_VALUE n * 2 ^ 32 = wrap ((s.cad n).posAt s.tb) 42 ∧
      t.out = .regRead (R.CAD_POS_LO_VALUE.addr 0x072 n) (BitVec.ofNat 32 (wrap ((s.cad n).posAt s.tb) 42)) :: s.out ∧ t.cads = s.cads ∧ t.mem = s.mem := by
  rw [exec_cadPosRead hr, if_pos hon, State.cadPosRead_enabled hen]
  exact ⟨_, rfl, s.rd_showPos n (wrap_lt ..), rfl, rfl, rfl⟩

/-- The state that the command of a message's OP answers. -/
theorem exec_cadInstr_takes {s : State} {n : Fin 16} {ch : Nat} {m : Msg} (h : s.commandReady n ch m) {x : Nat × Instr} (hx : x ∈ cadInstrs n)
    (hop : m.cadOp = x.1 ∨ m.cadOp = 0 ∨ 11 ≤ m.cadOp ∧ m.cadOp ≤ 15) {t : State} (ht : (s.deliver m).cadExec n m.cadOp m = t) :
    exec x.2 s = .next (t.notePast n ((s.deliver m).cmdEffect n m) (s.deliver m)) := by
  rw [exec_cadInstrs n s x hx, State.cadCommand_takes h hop, ht]

/-- Settles O32: CAD_CTRL and CAD_POS by the registers they write, TRIM and RATE by the ramp they fold into the course. -/
theorem cadencesRunTrimAndChangeRate : Obligations.CadencesRunTrimAndChangeRate := by
  unfold Obligations.CadencesRunTrimAndChangeRate
  refine ⟨⟨fun a s hrec => s.jrnHost_idle hrec a, fun n data s hr hon => ?_, fun n s hr hoff => ?_, fun _ _ => Seg.pos_steady⟩,
    fun n m t u => ⟨u.lateRule_stamp n m t, u.lateRule_timely m, u.lateRule_late m⟩, fun n s hoff e he => ?_, fun n s ch m hready => ?_⟩
  · obtain ⟨hstart, hstarted⟩ := exec_cadenceEnable hr hon n data rfl
    obtain ⟨hstop, hstopped⟩ := exec_cadenceDisable hr hon n data rfl
    refine ⟨hstart, hstarted, hstop, hstopped, exec_cadPosRead_enabled hr hon, fun hen => ?_⟩
    rw [exec_cadPosRead hr, if_pos hon, State.cadPosRead_disabled hen]
  · rw [exec_cadPosRead hr, if_neg (by simp [hoff])]
  · obtain ⟨x, hx, rfl⟩ := List.mem_map.1 (show e ∈ (cadInstrs n).map Prod.snd from he)
    rw [exec_cadInstrs n s x hx, State.cadCommand_off hoff]
  · intro u t at_ w c becomes
    have htrim (h : m.cadOp = 1) {x : State} (hx : u.cadExec n 1 m = x) : becomes (.trim n) x :=
      exec_cadInstr_takes hready (x := (1, .trim n)) (by simp [cadInstrs]) (.inl h) (h ▸ hx)
    have hrate (h : m.cadOp = 2) {x : State} (hx : u.cadExec n 2 m = x) : becomes (.rate n) x :=
      exec_cadInstr_takes hready (x := (2, .rate n)) (by simp [cadInstrs]) (.inl h) (h ▸ hx)
    refine ⟨fun hop e he => ?_, fun hsp => ⟨fun h => ?_, fun h => ?_⟩, fun hsp hen => ⟨fun h => ?_, fun h => ?_⟩, fun hsp hen hb => ⟨fun h => ?_, fun h => ?_⟩⟩
    · obtain ⟨x, hx, rfl⟩ := List.mem_map.1 (show e ∈ (cadInstrs n).map Prod.snd from he)
      exact exec_cadInstr_takes hready hx (.inr hop) (u.cadExec_unknown n m hop)
    · exact htrim h (State.cadExec_spanned hsp (.inl rfl) m)
    · exact hrate h (State.cadExec_spanned hsp (.inr rfl) m)
    · exact htrim h (State.cadExec_disabled hsp hen (.inl rfl) m)
    · exact hrate h (State.cadExec_disabled hsp hen (.inr rfl) m)
    · exact htrim h ((State.cadExec_trimRate hsp hen m).1.trans (State.trimCmd_forward hb _))
    · exact hrate h ((State.cadExec_trimRate hsp hen m).2.trans (State.rateCmd_forward hb _))

end Sys2Proof.Machine
end

section
/-! PROOFS. O33 (R181, R182, R239 to R241, R244, R250, R251, R255, R256). -/

namespace Sys2Proof.Machine

/-- The command of a message's OP takes it. -/
theorem exec_cadInstr_of_op {s : State} {n : Fin 16} {ch op : Nat} {m : Msg} {e : Instr} (h : s.commandReady n ch m) (he : (op, e) ∈ cadInstrs n)
    (hop : m.cadOp = op) {t : State} (ht : (s.deliver m).cadExec n op m = t) :
    exec e s = .next (t.notePast n ((s.deliver m).cmdEffect n m) (s.deliver m)) :=
  exec_cadInstr_takes h he (.inl hop) (hop ▸ ht)

/-! ### PT_SEL (R250) -/

theorem State.cadExec_ptSel_refused {s : State} {n k : Nat} {m : Msg} (h : s.tableRefuse n m.arg = some k) : s.cadExec n 3 m = s.refuse n k m := by
  simp [State.cadExec, h]

theorem State.cadExec_ptSel {s : State} {n : Nat} {m : Msg} (h : s.tableRefuse n m.arg = none) :
    let w := (s.lateRule n m (s.absStamp m.stamp)).2
    s.cadExec n 3 m = w.setCad n { w.cad n with ptrs := put (w.cad n).ptrs m.sender (m.arg, m.words.getD 1 0 % 2 ^ 14) } := by
  simp [State.cadExec, h]

/-! ### PT_M, PT_Y and PT_K (R181, R182, R250) -/

theorem State.cadExec_point (s : State) (n : Nat) (m : Msg) {op : Nat} (hop : op = 4 ∨ op = 5 ∨ op = 6) : s.cadExec n op m = s.pointCmd n m := by
  unfold State.cadExec
  dsimp only
  rw [if_neg (by omega), if_neg (by omega), if_pos (by omega)]

theorem State.pointCmd_unselected {s : State} {n : Nat} {m : Msg} (h : look (s.cad n).ptrs m.sender = none) : s.pointCmd n m = s.refuse n 4 m := by
  simp only [State.pointCmd, h]

/-- The shadow holds an entry for a point in a generation. -/
def State.shadowHolds (s : State) (t i : Nat) (g : Bool) : Prop := ∃ y ∈ s.shadow, y.table = t ∧ y.point = i ∧ y.gen = g

theorem State.shadow_any_iff (s : State) (t i : Nat) (g : Bool) :
    (s.shadow.any fun e => decide (e.table = t ∧ e.point = i ∧ e.gen = g)) = true ↔ s.shadowHolds t i g := by
  simp only [List.any_eq_true, decide_eq_true_eq, State.shadowHolds]

/-- The entry that PT_M, PT_Y or PT_K puts: the point as it stood, with one field replaced (R181). -/
def pointEntry (op t i : Nat) (g : Bool) (old : Nat × Nat × Nat) (v : Nat) : Shadow :=
  match op with
  | 4 => ⟨t, i, g, v, old.2.1, old.2.2⟩
  | 5 => ⟨t, i, g, old.1, v, old.2.2⟩
  | _ => ⟨t, i, g, old.1, old.2.1, v⟩

section Selected

variable {s : State} {n t i : Nat} {m : Msg} (hsel : look (s.cad n).ptrs m.sender = some (t, i))
include hsel

theorem State.pointCmd_refused {k : Nat} (h : s.tableRefuse n t = some k) : s.pointCmd n m = s.refuse n k m := by
  simp only [State.pointCmd, hsel, h]

variable (htab : s.tableRefuse n t = none)
include htab

theorem State.pointCmd_beyond (h : s.tblPoints t ≤ i) : s.pointCmd n m = s.refuse n 4 m := by
  simp only [State.pointCmd, hsel, htab, if_pos h]

variable (hi : i < s.tblPoints t)
include hi

theorem State.pointCmd_injected (h : s.injArmed 0x07F 2 = true) : s.pointCmd n m = ((s.injTake 0x07F 2).bump 0x07F R.CAM_BUF_REFUSED).refuse n 3 m := by
  simp only [State.pointCmd, hsel, htab, if_neg (Nat.not_le.2 hi), h, Bool.true_or, if_true]

theorem State.pointCmd_full (h : s.injArmed 0x07F 2 = false) (hheld : ¬ s.shadowHolds t i (s.table t).gen) (hfull : 4096 ≤ s.shadow.length) :
    s.pointCmd n m = (s.bump 0x07F R.CAM_BUF_REFUSED).refuse n 3 m := by
  have hany := Bool.eq_false_iff.2 fun hany => hheld ((s.shadow_any_iff t i _).1 hany)
  simp only [State.pointCmd, hsel, htab, if_neg (Nat.not_le.2 hi), h, hany, hfull, Bool.false_or, Bool.not_false, decide_true, Bool.and_true, if_true,
    Bool.false_eq_true, if_false]

theorem State.pointCmd_edits (h : s.injArmed 0x07F 2 = false) (hroom : s.shadowHolds t i (s.table t).gen ∨ s.shadow.length < 4096) :
    let w := (s.lateRule n m (s.absStamp m.stamp)).2
    let r : State := { w.shadowRead t i with shadow :=
      ((w.shadowRead t i).shadow.filter fun x => !decide (x.table = t ∧ x.point = i ∧ x.gen = (s.table t).gen)) ++
        [pointEntry m.cadOp t i (s.table t).gen (w.shadowPoint t i) (wrap (m.value 1 2) 28)] }
    s.pointCmd n m = if bit (m.words.getD 3 0) 0 then r.setCad n { r.cad n with ptrs := put (r.cad n).ptrs m.sender (t, (i + 1) % 2 ^ 14) } else r := by
  intro w r
  have hcond : ((s.injArmed 0x07F 2 || (!(s.shadow.any fun e => decide (e.table = t ∧ e.point = i ∧ e.gen = (s.table t).gen)) && decide (4096 ≤ s.shadow.length))) = true) = False := by
    rw [h, Bool.false_or, eq_iff_iff, iff_false, Bool.and_eq_true, Bool.not_eq_true', ← Bool.not_eq_true, State.shadow_any_iff, decide_eq_true_eq]
    rintro ⟨hheld, hfull⟩
    exact hroom.elim hheld (Nat.not_lt.2 hfull)
  simp only [State.pointCmd, hsel, htab, if_neg (Nat.not_le.2 hi), hcond, if_false]
  rfl

end Selected

/-! ### FLIP (R255, R256) -/

theorem State.cadExec_flip (s : State) (n : Nat) (m : Msg) : s.cadExec n 7 m = s.flipCmd n m := rfl

theorem State.flipCmd_refused {s : State} {n k : Nat} {m : Msg} (h : s.tableRefuse n m.arg = some k) : s.flipCmd n m = s.refuse n k m := by
  simp only [State.flipCmd, h]

theorem State.flipCmd_armed {s : State} {n : Nat} {m : Msg} (h : s.tableRefuse n m.arg = none) (harm : (s.table m.arg).flip ≠ none) :
    s.flipCmd n m = s.refuse n 6 m := by
  simp only [State.flipCmd, h, if_pos (Option.isSome_iff_ne_none.2 harm)]

/-- The entries of a table that an arming fixes, as of the generation it closes: of two for a point the later one (log entry 109). -/
def State.shadowFixed (s : State) (t : Nat) : List Shadow :=
  let g := (s.table t).gen
  let mine := s.shadow.filter fun e => e.table = t
  (mine.filter fun e => e.gen = g || !(mine.any fun x => decide (x.point = e.point ∧ x.gen = g))).map fun e => { e with gen := g }

/-- A flip armed for a cycle, from a stamp on (R255). -/
def State.armFlip (s : State) (t cy at_ : Nat) : State :=
  let r : State := { s with shadow := (s.shadow.filter fun e => e.table ≠ t) ++ s.shadowFixed t }
  let r := r.setTable t { s.table t with flip := some (cy, at_), gen := !(s.table t).gen, pass := .running, armedAt := s.tb, lateAt := none }
  (r.wr (tablePage t) R.CAM_TBL_STAT_ARMED 1).wr (tablePage t) R.CAM_TBL_STAT_ARM_CYCLE cy

theorem State.flipCmd_arms {s : State} {n : Nat} {m : Msg} (h : s.tableRefuse n m.arg = none) (hfree : (s.table m.arg).flip = none) :
    let l := s.lateRule n m (s.absStamp m.stamp)
    s.flipCmd n m = l.2.armFlip m.arg (m.words.getD 1 0 % 2 ^ 14) l.1 := by
  simp only [State.flipCmd, h, hfree, Option.isSome_none, Bool.false_eq_true, if_false]
  rfl

theorem State.armFlip_stat (s : State) (t at_ : Nat) {cy : Nat} (hcy : cy < 2 ^ 14) :
    (s.armFlip t cy at_).on (tablePage t) R.CAM_TBL_STAT_ARMED = true ∧ (s.armFlip t cy at_).rd (tablePage t) R.CAM_TBL_STAT_ARM_CYCLE = cy := by
  unfold State.armFlip State.on
  dsimp only
  refine ⟨?_, (State.rd_wr_self _ _ _ _ _ (by decide)).trans (Nat.mod_eq_of_lt hcy)⟩
  rw [State.rd_wr_bits _ _ _ _ _ (by decide) (by decide), State.rd_wr_self _ _ _ _ _ (by decide)]
  rfl

theorem State.mem_armFlip_shadow (s : State) (t cy at_ : Nat) (y : Shadow) :
    y ∈ (s.armFlip t cy at_).shadow ↔ (y ∈ s.shadow ∧ y.table ≠ t) ∨ ∃ z ∈ s.shadow, z.table = t ∧ y = { z with gen := (s.table t).gen } ∧
      (z.gen = (s.table t).gen ∨ ∀ o ∈ s.shadow, o.table = t → o.point = z.point → o.gen ≠ (s.table t).gen) := by
  have hnewer (z : Shadow) : (z.gen = (s.table t).gen || !((s.shadow.filter fun e => e.table = t).any fun x => decide (x.point = z.point ∧ x.gen = (s.table t).gen))) = true ↔
      (z.gen = (s.table t).gen ∨ ∀ o ∈ s.shadow, o.table = t → o.point = z.point → o.gen ≠ (s.table t).gen) := by
    simp
  show y ∈ (s.shadow.filter fun e => e.table ≠ t) ++ s.shadowFixed t ↔ _
  simp only [State.shadowFixed, List.mem_append, List.mem_map, List.mem_filter, hnewer, decide_eq_true_eq]
  refine or_congr Iff.rfl ⟨?_, ?_⟩
  · rintro ⟨z, ⟨⟨hz, ht⟩, hg⟩, rfl⟩
    exact ⟨z, hz, ht, rfl, hg⟩
  · rintro ⟨z, hz, ht, rfl, hg⟩
    exact ⟨z, ⟨⟨hz, ht⟩, hg⟩, rfl⟩

/-! ### COUPLE, FREE and SHIFT (R251) -/

theorem State.cadExec_axis_refused {s : State} {n k : Nat} {m : Msg} (h : s.axisRefuse n m = some k) {op : Nat} (hop : op = 8 ∨ op = 9 ∨ op = 10) :
    s.cadExec n op m = s.refuse n k m := by
  unfold State.cadExec
  dsimp only
  rw [if_neg (by omega), if_neg (by omega), if_neg (by omega), if_neg (by omega), if_pos (by omega), h]

section Accepted

variable {s : State} {n : Nat} {m : Msg} (h : s.axisRefuse n m = none)
include h

theorem State.cadExec_couple :
    let l := s.lateRule n m (s.absStamp m.stamp)
    let x := l.2.axis (m.arg % 512)
    s.cadExec n 8 m = l.2.setAxis (m.arg % 512) { x with couple := x.couple ++ [(m.words.getD 1 0 % 2 ^ 14, l.1)] } := by
  simp [State.cadExec, h]

theorem State.cadExec_shift :
    let l := s.lateRule n m (s.absStamp m.stamp)
    let x := l.2.axis (m.arg % 512)
    s.cadExec n 10 m = l.2.setAxis (m.arg % 512) { x with shiftAt := some (m.value 1 2, max 1 (m.words.getD 3 0 % 2 ^ 14), l.1) } := by
  simp [State.cadExec, h]

theorem State.cadExec_free :
    let l := s.lateRule n m (s.absStamp m.stamp)
    let x := l.2.axis (m.arg % 512)
    s.cadExec n 9 m = (l.2.setAxis (m.arg % 512) { x with free := some ((x.free.map fun k => min k l.1).getD l.1) }).applyFree (m.arg % 512) l.2.tb := by
  simp [State.cadExec, h]

end Accepted

/-- A FREE waits for its stamp, and acts once that has come. -/
theorem State.applyFree_set (s : State) (a : Nat) (x : Axis) (f t : Nat) :
    (t < f → (s.setAxis a { x with free := some f }).applyFree a t = s.setAxis a { x with free := some f }) ∧
    (f ≤ t → (s.setAxis a { x with free := some f }).applyFree a t = (s.setAxis a { x with free := some f }).axisFree a f) := by
  unfold State.applyFree
  rw [State.setAxis_self]
  exact ⟨fun h => if_neg (Nat.not_le.2 h), fun h => if_pos h⟩

/-- What freewheel leaves (R246). -/
theorem State.freewheel_leaves (s : State) (a : Nat) :
    let r := s.freewheel a
    r.rd 0x1000 R.AX_STATE_STATE a = 1 ∧ r.rd 0x1000 R.AX_VEL_VEL a = 0 ∧ r.rd 0x1000 R.AX_POS_POS a = s.rd 0x1000 R.AX_POS_POS a ∧
      r.axis a = { s.axis a with shift := none, shiftAt := none, drop := false, braked := false } := by
  intro r
  unfold r State.freewheel State.awr
  refine ⟨?_, ?_, ?_, State.setAxis_self ..⟩
  · rw [State.rd_wr_off _ _ _ _ _ (by decide), State.rd_wr_off _ _ _ _ _ (by decide), State.rd_wr_self _ _ _ _ _ (by decide)]
    rfl
  · rw [State.rd_wr_off _ _ _ _ _ (by decide), State.rd_wr_self _ _ _ _ _ (by decide)]
    rfl
  · rw [State.rd_wr_off _ _ _ _ _ (by decide), State.rd_wr_off _ _ _ _ _ (by decide), State.rd_wr_off _ _ _ _ _ (by decide)]
    rfl

/-- FREE of an axis that is not off: freewheel at the position last commanded, and the couples stamped at or before it are gone (R251). -/
theorem State.axisFree_leaves (s : State) (a f : Nat) (hst : s.rd 0x1000 R.AX_STATE_STATE a ≠ 0) :
    let r := s.axisFree a f
    r.rd 0x1000 R.AX_STATE_STATE a = 1 ∧ r.rd 0x1000 R.AX_VEL_VEL a = 0 ∧ r.rd 0x1000 R.AX_POS_POS a = s.rd 0x1000 R.AX_POS_POS a ∧
      (r.axis a).free = none ∧ (r.axis a).shift = none ∧ (r.axis a).shiftAt = none ∧
      (r.axis a).couple = (s.axis a).couple.filter fun k => decide (f < k.2) := by
  intro r
  have hr : r = (s.setAxis a { s.axis a with free := none, couple := (s.axis a).couple.filter fun k => decide (f < k.2) }).freewheel a := if_neg hst
  obtain ⟨hstate, hvel, hpos, haxis⟩ := State.freewheel_leaves (s.setAxis a { s.axis a with free := none, couple := (s.axis a).couple.filter fun k => decide (f < k.2) }) a
  rw [State.setAxis_self] at haxis
  rw [hr, haxis]
  exact ⟨hstate, hvel, hpos, rfl, rfl, rfl, rfl⟩

/-! ### The SYNC edge (R244) -/

/-- Two roundings toward 0 in a row are one. -/
theorem tdiv_tdiv_two_pow (d : Int) (a b : Nat) : (d.tdiv (2 ^ a)).tdiv (2 ^ b) = d.tdiv (2 ^ (a + b)) := by
  have hnat (k : Nat) : ((k : Int).tdiv (2 ^ a)).tdiv (2 ^ b) = (k : Int).tdiv (2 ^ (a + b)) := by
    have hdiv : k / 2 ^ a / 2 ^ b = k / 2 ^ (a + b) := by rw [Nat.div_div_eq_div_mul, pow_add]
    exact_mod_cast congrArg Int.ofNat hdiv
  obtain ⟨k, rfl | rfl⟩ := d.eq_nat_or_neg
  · exact hnat k
  · rw [Int.neg_tdiv, Int.neg_tdiv, Int.neg_tdiv, hnat]

theorem State.cadExec_sync (s : State) (n : Nat) (m : Msg) :
    s.cadExec n 16 m = if s.spanned n || !s.on 0x072 R.CAD_CTRL_SYNC_EN n then s.refuse n 1 m else if !s.cadEn n then s.refuse n 2 m else s.syncCmd n m := rfl

/-- An edge that is rejected is counted and noticed with the reason and its distance. -/
def State.syncReject (s : State) (n e detail : Nat) (d : Int) : State :=
  (s.bump 0x072 R.CAD_CNT_SYNCREJ n).notice n { stamp := e, type := 8, detail := detail, w1 := wrap d 28 % 2 ^ 14, w2 := wrap d 28 / 2 ^ 14 }

/-- The boundary nearest to an edge's target, of those passed and those ahead. -/
def State.syncFound (v : State) (n e : Nat) (tgt : Int) : Option Nat :=
  let c := v.cad n
  nearest tgt ((c.bnds.map (·.1)) ++ (c.upToStamp e).ahead tgt 8192 c.latest.1 c.latest.2)

/-- An edge at a distance d behind that boundary: rejected as beyond it, once for the monitor as late, or before it; inside the window it trims. -/
def State.syncJudged (v : State) (n e : Nat) (late : Bool) (d : Int) : State :=
  let win : Int := 16 * v.rd 0x072 R.CAD_SYNCW_WIN n
  let miss := fun (y : State) => if late then y else y.dlMiss n 4
  if v.injArmed 0x072 1 then (miss (v.injTake 0x072 1)).syncReject n e 2 d
  else if win ≤ d then (miss v).syncReject n e 2 d
  else if d < -win then v.syncReject n e 1 d
  else v.trimCmd n e (-((d * (v.cad n).rateAt e).tdiv (2 ^ 20)).tdiv (2 ^ v.rd 0x072 R.CAD_CTRL_SYNC_GAIN n))

section Edge

variable {s v : State} {n e edge : Nat} {m : Msg} {tgt : Int} (hedge : s.absStamp m.stamp + s.rd 0x072 R.CAD_SYNCW_DLY n = edge)
  (htgt : (s.absStamp m.stamp : Int) + signed (s.rd 0x072 R.CAD_SYNC_OFS n) 20 = tgt) (he : (s.lateRule n m edge).1 = e) (hv : (s.lateRule n m edge).2 = v)

include hedge htgt he hv

theorem State.syncCmd_lost (hf : v.syncFound n e tgt = none) : s.syncCmd n m = v.syncReject n e 3 0 := by
  subst hedge htgt he hv
  unfold State.syncFound at hf
  dsimp only at hf
  unfold State.syncCmd
  dsimp only [State.crd]
  rw [hf]
  rfl

theorem State.syncCmd_found {b : Nat} (hf : v.syncFound n e tgt = some b) : s.syncCmd n m = v.syncJudged n e (s.isLate n edge) (tgt - b) := by
  subst hedge htgt he hv
  unfold State.syncFound at hf
  dsimp only at hf
  unfold State.syncCmd State.syncJudged
  dsimp only [State.crd]
  rw [hf, tdiv_tdiv_two_pow]
  cases s.isLate n (s.absStamp m.stamp + s.rd 0x072 R.CAD_SYNCW_DLY n) <;> rfl

end Edge

/-! ### The statement -/

/-- Settles O33: each command takes its message, and the branch of its rule that the state selects gives the result. -/
theorem pointFlipAndAxisCommandsAreKept : Obligations.PointFlipAndAxisCommandsAreKept := by
  unfold Obligations.PointFlipAndAxisCommandsAreKept
  intro n s ch m hready u t at_ w becomes cycle
  have does {op : Nat} {e : Instr} (he : (op, e) ∈ cadInstrs n) (hop : m.cadOp = op) {x : State} (hx : u.cadExec n op m = x) : becomes e x :=
    exec_cadInstr_of_op hready he hop hx
  have hmem : w.mem = s.mem := by simp [w, u]
  refine ⟨fun hop => ⟨fun k hk => ?_, fun htab => ?_⟩, fun x hx hop => ?_, fun hop => ⟨fun k hk => ?_, fun htab harm => ?_, fun htab hfree => ?_⟩, ?_, fun hop => ?_⟩
  · exact does (by simp [cadInstrs]) hop (State.cadExec_ptSel_refused hk)
  · exact does (by simp [cadInstrs]) hop (State.cadExec_ptSel htab)
  · have hx' : x ∈ cadInstrs n ∧ (x.1 = 4 ∨ x.1 = 5 ∨ x.1 = 6) := by
      simp only [List.mem_cons, List.not_mem_nil, or_false] at hx
      rcases hx with rfl | rfl | rfl <;> simp [cadInstrs]
    have doesPoint {y : State} (hy : u.pointCmd n m = y) : becomes x.2 y := does hx'.1 hop ((u.cadExec_point n m hx'.2).trans hy)
    refine ⟨fun hsel => doesPoint (State.pointCmd_unselected hsel), fun tb i hsel => ⟨fun k hk => doesPoint (State.pointCmd_refused hsel hk),
      fun htab hi => doesPoint (State.pointCmd_beyond hsel htab hi), fun htab hi => ⟨fun hinj => doesPoint (State.pointCmd_injected hsel htab hi hinj),
      fun hinj hheld hfull => doesPoint (State.pointCmd_full hsel htab hi hinj hheld hfull), fun hinj hroom => doesPoint ?_⟩⟩⟩
    refine (State.pointCmd_edits hsel htab hi hinj hroom).trans ?_
    rw [hop]
    simp only [List.mem_cons, List.not_mem_nil, or_false] at hx
    rcases hx with rfl | rfl | rfl <;> rfl
  · exact does (by simp [cadInstrs]) hop (State.flipCmd_refused hk)
  · exact does (by simp [cadInstrs]) hop (State.flipCmd_armed htab harm)
  · obtain ⟨harmed, hcy⟩ := w.armFlip_stat m.arg at_ (cy := cycle) (Nat.mod_lt _ (by decide))
    exact ⟨_, does (by simp [cadInstrs]) hop (State.flipCmd_arms htab hfree), State.setTable_self .., harmed, hcy, w.mem_armFlip_shadow m.arg cycle at_,
      fun k hk => State.setTable_ne _ _ _ hk.symm, hmem⟩
  · intro a x f
    refine ⟨fun k hk e he hop => does ?_ hop (State.cadExec_axis_refused hk ?_), fun hok => ⟨fun hop => ?_, fun hop hf => ?_, fun hop hf hst => ?_, fun hop => ?_⟩⟩
    · simp only [List.mem_cons, List.not_mem_nil, or_false] at he
      rcases he with rfl | rfl | rfl <;> simp [cadInstrs]
    · simp only [List.mem_cons, List.not_mem_nil, or_false] at he
      rcases he with rfl | rfl | rfl <;> simp
    · exact does (by simp [cadInstrs]) hop (State.cadExec_couple hok)
    · exact does (by simp [cadInstrs]) hop ((State.cadExec_free hok).trans ((w.applyFree_set a x f w.tb).1 hf))
    · obtain ⟨hstate, hvel, hpos, hfree, hshift, hat, hcouple⟩ := State.axisFree_leaves (w.setAxis a { x with free := some f }) a f hst
      rw [State.setAxis_self] at hcouple
      exact ⟨_, does (by simp [cadInstrs]) hop ((State.cadExec_free hok).trans ((w.applyFree_set a x f w.tb).2 hf)), hstate, hvel, hpos, hfree, hshift, hat, hcouple⟩
    · exact does (by simp [cadInstrs]) hop (State.cadExec_shift hok)
  · have doesSync {y : State} (hy : u.cadExec n 16 m = y) : becomes (.syncEdge n) y := does (by simp [cadInstrs]) hop hy
    rw [State.cadExec_sync] at doesSync
    refine ⟨fun hno => doesSync (if_pos ?_), fun hsp hen hoff => doesSync ?_, fun hsp hen hon => ?_⟩
    · rcases hno with h | h <;> simp [h]
    · simp [hsp, hen, hoff]
    · intro edge e v c tgt win rejected late found
      have hsync {y : State} (hy : u.syncCmd n m = y) : becomes (.syncEdge n) y := doesSync (by simpa [hsp, hen, hon] using hy)
      refine ⟨fun hf => hsync (State.syncCmd_lost rfl rfl rfl rfl hf), fun b hf => ?_⟩
      have hjudged {y : State} (hy : v.syncJudged n e (u.isLate n edge) (tgt - b) = y) : becomes (.syncEdge n) y :=
        hsync ((State.syncCmd_found rfl rfl rfl rfl hf).trans hy)
      refine ⟨fun hinj => hjudged (if_pos hinj), fun hinj => ⟨fun hd => ?_, fun hd hd' => ?_, fun hd hd' => ?_⟩⟩
      · exact hjudged ((if_neg (Bool.eq_false_iff.1 hinj)).trans (if_pos hd))
      · exact hjudged ((if_neg (Bool.eq_false_iff.1 hinj)).trans ((if_neg (Int.not_le.2 hd)).trans (if_pos hd')))
      · exact hjudged ((if_neg (Bool.eq_false_iff.1 hinj)).trans ((if_neg (Int.not_le.2 hd)).trans (if_neg (Int.not_lt.2 hd'))))

end Sys2Proof.Machine
end

section
/-! PROOFS. O35 (R246, R249, R250, R253, R254, R257, R258). -/

namespace Sys2Proof.Machine

/-! ### The interpolant at a point of its table (R253, R254) -/

/-- Bisection finds the place that parts the values at or below x from those above it. -/
theorem countBelow_eq {f : Nat → Nat} {x r : Nat} (n lo hi : Nat) (hlo : lo ≤ r) (hhi : r ≤ hi) (hn : hi - lo < 2 ^ n)
    (hbelow : ∀ j, j < r → f j ≤ x) (habove : ∀ j, r ≤ j → j < hi → x < f j) : countBelow f x n lo hi = r := by
  induction n generalizing lo hi with
  | zero =>
    rw [Nat.pow_zero] at hn
    exact Nat.le_antisymm hlo (Nat.le_trans hhi (show hi ≤ lo by omega))
  | succ n ih =>
    rw [Nat.pow_succ] at hn
    unfold countBelow
    split
    next hdone => omega
    next hopen =>
      split
      next hmid =>
        have hr : (lo + hi) / 2 < r := Nat.lt_of_not_le fun hr => Nat.not_lt.2 hmid (habove _ hr (by omega))
        exact ih _ _ hr hhi (by omega) habove
      next hmid =>
        have hr : r ≤ (lo + hi) / 2 := Nat.le_of_not_lt fun hr => hmid (hbelow _ hr)
        exact ih _ _ hlo hr (by omega) fun j hj hj' => habove j hj (by omega)

/-- At the master of a point of a table with strictly increasing masters, that point and those before it lie at or below. -/
theorem State.belowAt_point {s : State} {t base i : Nat} (hmax : s.tblPoints t ≤ 16384) (hi : i < s.tblPoints t)
    (hinc : ∀ j k, j < k → k < s.tblPoints t → (s.pointAt base j).1 < (s.pointAt base k).1) :
    s.belowAt t base (s.pointAt base i).1 = i + 1 := by
  refine countBelow_eq 16 0 _ (Nat.zero_le _) hi (by omega) (fun j hj => ?_) fun j hj hj' => hinc i j hj hj'
  rcases Nat.lt_or_eq_of_le (Nat.lt_succ_iff.1 hj) with hlt | rfl
  · exact (hinc j i hlt hi).le
  · exact Nat.le_refl _

theorem roundDiv_exact {y d : Int} (hd : 0 < d) : roundDiv (y * d) d = y := by
  unfold roundDiv
  rw [show 2 * (y * d) + d = d + y * (2 * d) by ring, Int.add_mul_ediv_right _ _ (by omega), Int.ediv_eq_zero_of_lt hd.le (by omega), Int.zero_add]

theorem State.pointAt_master_lt (s : State) (base i : Nat) : (s.pointAt base i).1 < 2 ^ 28 := Nat.mod_lt _ (by decide)

/-- The master at which the interval after point i ends: that of the next point, one cycle on past the last (R253). -/
def State.nextMaster (s : State) (t base i : Nat) : Int :=
  if i + 1 = s.tblPoints t then (s.pointAt base 0).1 + 2 ^ 28 else (s.pointAt base (i + 1)).1

theorem State.lt_nextMaster {s : State} {t base i : Nat} (hi : i < s.tblPoints t)
    (hinc : ∀ j k, j < k → k < s.tblPoints t → (s.pointAt base j).1 < (s.pointAt base k).1) : ((s.pointAt base i).1 : Int) < s.nextMaster t base i := by
  unfold State.nextMaster
  split
  next hlast =>
    have := s.pointAt_master_lt base i
    omega
  next hnext => exact_mod_cast hinc i (i + 1) (Nat.lt_succ_self i) (by omega)

/-- The cubic of the interval after a point starts at that point. -/
theorem State.cubicAt_start {s : State} {t base i : Nat} (h : ((s.pointAt base i).1 : Int) < s.nextMaster t base i) :
    (s.cubicAt t base (s.pointAt base i).1 (i + 1)).1 = signed (s.pointAt base i).2.1 28 := by
  have hfirst : (s.intervalOf t (i + 1)).1 = i := by simp [State.intervalOf]
  have hend : (if i + 1 = s.tblPoints t then ((s.pointAt base (s.intervalOf t (i + 1)).2).1 : Int) + 2 ^ 28 else ((s.pointAt base (s.intervalOf t (i + 1)).2).1 : Int)) =
      s.nextMaster t base i := by
    unfold State.nextMaster State.intervalOf
    split <;> simp_all
  have hh : 0 < (2 ^ 28 : Int) * (s.nextMaster t base i - (s.pointAt base i).1) ^ 3 := by
    have := pow_pos (Int.sub_pos.2 h) 3
    omega
  unfold State.cubicAt
  dsimp only
  rw [hend, hfirst, if_neg (Nat.succ_ne_zero i), if_neg (Nat.succ_ne_zero i)]
  refine Eq.trans (congrArg (roundDiv · _) ?_) (roundDiv_exact hh)
  ring

theorem State.interpolate_point {s : State} {t c i : Nat} (hmax : s.tblPoints t ≤ 16384) (hi : i < s.tblPoints t)
    (hinc : ∀ j k, j < k → k < s.tblPoints t → (s.pointAt (s.baseAt t c) j).1 < (s.pointAt (s.baseAt t c) k).1) :
    (s.interpolate t c (s.pointAt (s.baseAt t c) i).1).1 = signed (s.pointAt (s.baseAt t c) i).2.1 28 := by
  unfold State.interpolate
  dsimp only
  rw [State.belowAt_point hmax hi hinc]
  exact State.cubicAt_start (State.lt_nextMaster hi hinc)

/-! ### What an interpolant depends on -/

/-- Two states whose tables, cadences and cam stores are the same. -/
structure State.SameCams (s t : State) : Prop where
  mem : t.mem = s.mem
  tables : t.tables = s.tables
  cads : t.cads = s.cads
  table_rd : ∀ k f, t.rd (tablePage k) f = s.rd (tablePage k) f
  cad_en : ∀ n, n < 16 → t.cadEn n = s.cadEn n

namespace State.SameCams

variable {s t : State}

theorem trans {u : State} (h : s.SameCams t) (h' : t.SameCams u) : s.SameCams u :=
  ⟨h'.mem.trans h.mem, h'.tables.trans h.tables, h'.cads.trans h.cads, fun k f => (h'.table_rd k f).trans (h.table_rd k f),
    fun n hn => (h'.cad_en n hn).trans (h.cad_en n hn)⟩

/-- A write of the axis table changes none of it. -/
theorem awr (s : State) {a : Nat} (ha : a < 512) {f : Fld} (hf : f.off < 64 ∧ f.stride = 64) (v : Nat) : s.SameCams (s.awr a f v) := by
  refine ⟨rfl, rfl, rfl, fun k g => State.rd_wr_ne _ _ _ _ _ (axis_addr_ne ha hf.1 hf.2).symm, fun n hn => ?_⟩
  refine congrArg (fun v : Nat => decide (v = 1)) (State.rd_wr_ne _ _ _ _ _ ?_)
  simp only [Fld.addr, hf.2, R.CAD_CTRL_EN]
  omega

variable (h : s.SameCams t)
include h

theorem pointAt : t.pointAt = s.pointAt := by
  funext base i
  unfold State.pointAt State.bytes State.byte
  rw [h.mem]

theorem table (k : Nat) : t.table k = s.table k := congrArg (fun m => lookD m k ({} : Table)) h.tables

theorem cad (n : Nat) : t.cad n = s.cad n := congrArg (fun m => lookD m n ({} : Cadence)) h.cads

theorem tblPoints : t.tblPoints = s.tblPoints := funext fun k => h.table_rd k _

theorem copyBase : t.copyBase = s.copyBase := by
  funext k j
  unfold State.copyBase State.copyBank State.tblFirst State.tblOfs
  rw [h.table_rd, h.table_rd]

theorem comingTo {n : Nat} (hn : n < 16) (c : Nat) : t.comingTo n c = s.comingTo n c := by
  unfold State.comingTo State.cadRuns
  rw [h.cad_en n hn, h.cad]

theorem copyAt (k c : Nat) : t.copyAt k c = s.copyAt k c := by
  unfold State.copyAt State.flipBefore State.liveCopy
  rw [h.table, h.table_rd, h.table_rd, h.comingTo (s.rd_lt (tablePage k) R.CAM_TBL_A_CAD 0)]

theorem baseAt (k c : Nat) : t.baseAt k c = s.baseAt k c := by
  unfold State.baseAt
  rw [h.copyBase, h.copyAt]

theorem intervalOf : t.intervalOf = s.intervalOf := by
  funext k j
  unfold State.intervalOf
  rw [h.tblPoints]

theorem interpolate (k c x : Nat) : (t.interpolate k c x).1 = (s.interpolate k c x).1 := by
  unfold State.interpolate State.belowAt State.cubicAt
  dsimp only
  rw [h.baseAt, h.pointAt, h.tblPoints, h.intervalOf, h.table_rd]

end State.SameCams

/-- With good lines an interpolant is read without a failure, and leaves the state. -/
theorem State.interpolate_good {s : State} (hbad : s.bad = []) (hU : s.injArmed 0x07F 1 = false) (hC : s.injArmed 0x07F 0 = false) (t c x : Nat) :
    (s.interpolate t c x).2.2 = (false, s) := by
  simp only [State.interpolate, State.readInterval, State.readCamRange_good hbad hU hC, joinRead, Bool.or_self]

/-! ### Faults of an axis (R246) -/

/-- The setpoint of an axis after its evaluation, given to its drive where the slot is the first of that drive. -/
def State.stageAxis (s : State) (a c : Nat) (coupled : Bool) : State :=
  let key := 64 * s.ard a R.AX_BIND_PORT + s.ard a R.AX_BIND_NODE
  let lower := (s.enabledAxes.find? fun b => 64 * s.ard b R.AX_BIND_PORT + s.ard b R.AX_BIND_NODE = key).getD a
  if lower = a then { s with staging := put s.staging key ⟨s.ard a R.AX_POS_POS, s.ard a R.AX_VEL_VEL, coupled, c⟩ } else s

theorem State.stageAxis_frame (s : State) (a c : Nat) (coupled : Bool) :
    (s.stageAxis a c coupled).regs = s.regs ∧ (s.stageAxis a c coupled).axes = s.axes := by
  unfold State.stageAxis
  dsimp only
  split <;> exact ⟨rfl, rfl⟩

theorem State.rd_axisFault (s : State) {a : Nat} (ha : a < 512) (cause t : Nat) {f : Fld} (hf : f.off < 64 ∧ f.stride = 64) :
    (s.axisFault a cause t).rd 0x1000 f a = (((s.freewheel a).awr a R.AX_STATE_FAULT 1).awr a R.AX_STATE_CAUSE cause).rd 0x1000 f a := by
  unfold State.axisFault
  refine State.rd_pgEvt_other _ ?_ ?_ 0
  · simp only [hubWord, Fld.addr, hf.2]
    omega
  · simp only [Fld.addr, hf.2, R.PG_EVT_PEND_PEND]
    omega

/-- What a fault leaves of an axis (R246). -/
theorem State.axisFault_leaves (s : State) {a cause : Nat} (ha : a < 512) (hcause : cause < 8) (t : Nat) :
    let r := s.axisFault a cause t
    r.rd 0x1000 R.AX_STATE_STATE a = 1 ∧ r.on 0x1000 R.AX_STATE_FAULT a = true ∧ r.rd 0x1000 R.AX_STATE_CAUSE a = cause ∧
      r.rd 0x1000 R.AX_VEL_VEL a = 0 ∧ r.rd 0x1000 R.AX_POS_POS a = s.rd 0x1000 R.AX_POS_POS a := by
  intro r
  obtain ⟨hstate, hvel, hpos, -⟩ := s.freewheel_leaves a
  unfold State.on
  refine ⟨?_, ?_, ?_, ?_, ?_⟩ <;> rw [s.rd_axisFault ha _ _ (by decide)] <;> unfold State.awr
  · rwa [State.rd_wr_bits _ _ _ _ _ (by decide) (by decide), State.rd_wr_bits _ _ _ _ _ (by decide) (by decide)]
  · rw [State.rd_wr_bits _ _ _ _ _ (by decide) (by decide), State.rd_wr_self _ _ _ _ _ (by decide)]
    rfl
  · exact (State.rd_wr_self _ _ _ _ _ (by decide)).trans (Nat.mod_eq_of_lt hcause)
  · rwa [State.rd_wr_off _ _ _ _ _ (by decide), State.rd_wr_off _ _ _ _ _ (by decide)]
  · rwa [State.rd_wr_off _ _ _ _ _ (by decide), State.rd_wr_off _ _ _ _ _ (by decide)]

/-! ### The evaluation (R249, R250) -/

/-- The units of 2^-16 that its master has moved by since the last evaluation (R249). -/
def State.axisMoved (s : State) (a c : Nat) : Int :=
  ((s.axis a).frac : Int) + ((s.cad (s.rd 0x1000 R.AX_BIND_CAD a)).posAt c - (s.axis a).posC) * signed (s.rd 0x1000 R.AX_GCUR_G a) 28

/-- Its master as the registers show it, and where that movement takes it. -/
def State.axisMaster (s : State) (a : Nat) : Nat := s.rd 0x1000 R.AX_MST_LO_M a + s.rd 0x1000 R.AX_MST_HI_M a * 2 ^ 32

def State.axisReached (s : State) (a c : Nat) : Int := (s.axisMaster a : Int) + s.axisMoved a c / 2 ^ 16

/-- Its base after the cycles that the master has entered (R253). -/
def State.axisBase (s : State) (a c : Nat) : Nat :=
  wrap ((s.rd 0x1000 R.AX_BASEY_BASEY a : Int) + (s.axisReached a c / 2 ^ 28 - (s.axisMaster a : Int) / 2 ^ 28) *
    signed (s.rd (tablePage (s.rd 0x1000 R.AX_BIND_TABLE a)) R.CAM_TBL_ADV_ADV) 28) 28

/-- The registers with the master, the base and the gear of an evaluation. -/
def State.axisShown (s : State) (a c : Nat) : State :=
  (((s.setMaster a (wrap (s.axisReached a c) 42)).awr a R.AX_BASEY_BASEY (s.axisBase a c)).awr a R.AX_GCUR_G
    (wrap (signed (s.rd 0x1000 R.AX_GCUR_G a) 28) 28)).awr a R.AX_SHIFT_LEFT 0

/-- The state in which the table is read. -/
def State.axisAdvanced (s : State) (a c : Nat) : State :=
  (s.axisShown a c).setAxis a { s.axis a with
    frac := (s.axisMoved a c - s.axisMoved a c / 2 ^ 16 * 2 ^ 16).toNat, posC := (s.cad (s.rd 0x1000 R.AX_BIND_CAD a)).posAt c, shift := none }

/-- The evaluation of a coupled axis for which nothing waits: braked, with its table or cadence lost, or without a shift. -/
theorem State.evalAxis_coupled {s : State} {a c : Nat} (hfree : (s.axis a).free = none) (hst : s.rd 0x1000 R.AX_STATE_STATE a = 2)
    (hcoming : s.comingTo (s.rd 0x1000 R.AX_BIND_CAD a) c = []) :
    let braked := s.on 0x020 R.HLT_BRAKE_ACTIVE || (s.axis a).braked
    (braked = true → s.evalAxis a c = (s.axisFault a 3 c).stageAxis a c false) ∧
    (braked = false → s.axisLost a c = true → s.evalAxis a c = (s.axisFault a 4 c).stageAxis a c false) ∧
    (braked = false → s.axisLost a c = false → (s.axis a).shift = none → ∀ y dy,
      (s.axisAdvanced a c).command a c (wrap (s.axisReached a c) 42) = (false, y, dy, s.axisAdvanced a c) →
      ∃ v, s.evalAxis a c = (((s.axisAdvanced a c).awr a R.AX_POS_POS y).awr a R.AX_VEL_VEL v).stageAxis a c true) := by
  have happly : s.applyFree a c = s := by simp only [State.applyFree, hfree]
  have hcoming' : s.comingTo (s.ard a R.AX_BIND_CAD) c = [] := hcoming
  have hlive : ¬ s.ard a R.AX_STATE_STATE < 2 := Nat.not_lt.2 hst.ge
  intro braked
  unfold State.evalAxis
  extract_lets n s1 s2 stage cad p x m seg active len speed
  have hs : s2 = s := by
    unfold s2 s1 n
    rw [hcoming', List.foldl_nil, happly]
  have hstage (u : State) (coupled : Bool) : stage u coupled = u.stageAxis a c coupled := rfl
  clear_value s2 stage
  subst hs
  rw [if_neg hlive]
  refine ⟨fun hb => (if_pos hb).trans (hstage ..), fun hb hl => ?_, fun hb hl hshift y dy hcmd => ?_⟩
  · rw [if_neg (Bool.eq_false_iff.1 hb), if_pos hl, hstage]
  · rw [show x.shift = none from hshift, if_neg (Bool.eq_false_iff.1 hb), if_neg (Bool.eq_false_iff.1 hl)]
    dsimp only
    -- The goal shows the advanced state unfolded.
    erw [hcmd]
    simp only [Bool.false_eq_true, if_false, hstage]
    exact ⟨_, rfl⟩

/-! ### The state in which the table is read -/

/-- A write of one word of an axis leaves its others. -/
theorem State.rd_awr_off (s : State) (a : Nat) (f : Fld) (v : Nat) {g : Fld} (h : f.off ≠ g.off ∧ f.stride = g.stride) :
    (s.awr a f v).rd 0x1000 g a = s.rd 0x1000 g a :=
  State.rd_wr_off _ _ _ _ _ h

theorem State.rd_awr_self (s : State) (a : Nat) (f : Fld) (v : Nat) (h : f.lo + f.w ≤ 32) : (s.awr a f v).rd 0x1000 f a = v % 2 ^ f.w :=
  State.rd_wr_self _ _ _ _ _ h

theorem State.injArmed_awr (s : State) (a : Nat) (f : Fld) (v b : Nat) : (s.awr a f v).injArmed 0x07F b = s.injArmed 0x07F b :=
  congrArg (bit · b) (State.rd_wr_ne _ _ _ _ _ (by simp only [Fld.addr, R.PG_INJ_INJ]; omega))

/-- The registers that an evaluation shows (R249). -/
theorem State.rd_axisShown (s : State) (a c : Nat) :
    let u := s.axisShown a c
    u.rd 0x1000 R.AX_MST_LO_M a + u.rd 0x1000 R.AX_MST_HI_M a * 2 ^ 32 = wrap (s.axisReached a c) 42 ∧
      u.rd 0x1000 R.AX_BASEY_BASEY a = s.axisBase a c ∧ u.rd 0x1000 R.AX_STATE_STATE a = s.rd 0x1000 R.AX_STATE_STATE a ∧
      u.rd 0x1000 R.AX_BIND_TABLE a = s.rd 0x1000 R.AX_BIND_TABLE a := by
  intro u
  unfold u State.axisShown State.setMaster
  refine ⟨?_, ?_, ?_, ?_⟩ <;> simp (disch := decide) only [State.rd_awr_off, State.rd_awr_self]
  · have hlt := wrap_lt (s.axisReached a c) 42
    generalize wrap (s.axisReached a c) 42 = m at hlt ⊢
    simp only [R.AX_MST_LO_M, R.AX_MST_HI_M]
    omega
  · exact Nat.mod_eq_of_lt (wrap_lt ..)

/-- The table and the cadences read as before. -/
theorem State.SameCams.axisAdvanced (s : State) {a : Nat} (ha : a < 512) (c : Nat) : s.SameCams (s.axisAdvanced a c) := by
  have hshown : s.SameCams (s.axisShown a c) := by
    refine ((((awr s ha ?_ _).trans (awr _ ha ?_ _)).trans (awr _ ha ?_ _)).trans (awr _ ha ?_ _)).trans (awr _ ha ?_ _) <;> decide
  exact hshown.trans ⟨rfl, rfl, rfl, fun _ _ => rfl, fun _ _ => rfl⟩

/-- The position that an evaluation commands (R250, R254). -/
def State.axisPosition (s : State) (a c : Nat) : Nat :=
  wrap ((s.interpolate (s.rd 0x1000 R.AX_BIND_TABLE a) c (wrap (s.axisReached a c) 42 % 2 ^ 28)).1 + s.axisBase a c) 28

/-- With good lines the command is read from the table as it stands. -/
theorem State.command_axisAdvanced {s : State} {a : Nat} (ha : a < 512) (hbad : s.bad = []) (hC : s.injArmed 0x07F 0 = false) (hU : s.injArmed 0x07F 1 = false) (c : Nat) :
    ∃ dy, (s.axisAdvanced a c).command a c (wrap (s.axisReached a c) 42) = (false, s.axisPosition a c, dy, s.axisAdvanced a c) := by
  obtain ⟨-, hbase, -, htable⟩ := s.rd_axisShown a c
  have hinj (b : Nat) : (s.axisAdvanced a c).injArmed 0x07F b = s.injArmed 0x07F b := by
    unfold State.axisAdvanced
    show (s.axisShown a c).injArmed 0x07F b = _
    simp only [State.axisShown, State.setMaster, State.injArmed_awr]
  have hread := State.interpolate_good (s := s.axisAdvanced a c) hbad ((hinj 1).trans hU) ((hinj 0).trans hC)
  have htable' : (s.axisAdvanced a c).ard a R.AX_BIND_TABLE = s.rd 0x1000 R.AX_BIND_TABLE a := htable
  have hbase' : (s.axisAdvanced a c).ard a R.AX_BASEY_BASEY = s.axisBase a c := hbase
  unfold State.command
  dsimp only
  rw [htable', hread, (State.SameCams.axisAdvanced s ha c).interpolate]
  dsimp only
  rw [hbase']
  exact ⟨_, rfl⟩

/-- What the evaluation of a coupled axis leaves. -/
theorem State.evalAxis_leaves {s t : State} {a c v : Nat} (ht : t = (((s.axisAdvanced a c).awr a R.AX_POS_POS (s.axisPosition a c)).awr a R.AX_VEL_VEL v).stageAxis a c true) :
    t.rd 0x1000 R.AX_MST_LO_M a + t.rd 0x1000 R.AX_MST_HI_M a * 2 ^ 32 = wrap (s.axisReached a c) 42 ∧
      ((t.axis a).frac : Int) = s.axisMoved a c % 2 ^ 16 ∧ (t.axis a).posC = (s.cad (s.rd 0x1000 R.AX_BIND_CAD a)).posAt c ∧
      t.rd 0x1000 R.AX_BASEY_BASEY a = s.axisBase a c ∧ t.rd 0x1000 R.AX_POS_POS a = s.axisPosition a c ∧
      t.rd 0x1000 R.AX_STATE_STATE a = s.rd 0x1000 R.AX_STATE_STATE a := by
  obtain ⟨hmaster, hbase, hstate, -⟩ := s.rd_axisShown a c
  obtain ⟨hregs, haxes⟩ := (((s.axisAdvanced a c).awr a R.AX_POS_POS (s.axisPosition a c)).awr a R.AX_VEL_VEL v).stageAxis_frame a c true
  rw [← ht] at hregs haxes
  have hshown (f : Fld) : (s.axisAdvanced a c).rd 0x1000 f a = (s.axisShown a c).rd 0x1000 f a := rfl
  have haxis : t.axis a = (s.axisAdvanced a c).axis a := congrArg (fun m => lookD m a ({} : Axis)) haxes
  rw [State.axisAdvanced, State.setAxis_self] at haxis
  simp (disch := decide) only [State.rd_of_regs hregs, State.rd_awr_off, State.rd_awr_self, hshown, haxis]
  refine ⟨hmaster, ?_, trivial, hbase, Nat.mod_eq_of_lt (wrap_lt ..), hstate⟩
  omega

/-- Settles O35: the evaluation by its branch, and the cubic of the interval after a point at its start. -/
theorem coupledAxesFollowTheirMaster : Obligations.CoupledAxesFollowTheirMaster := by
  unfold Obligations.CoupledAxesFollowTheirMaster
  refine ⟨fun s a c hfree hst hcoming ha => ?_, fun s t c i _ hmax hi hinc => State.interpolate_point hmax hi hinc⟩
  have hmem : (s.evalAxis a c).mem = s.mem := (s.evalAxis_keeps a c).2.2
  intro braked faults
  have hfault {cause : Nat} (hcause : cause < 8) (h : s.evalAxis a c = (s.axisFault a cause c).stageAxis a c false) : faults cause := by
    obtain ⟨hstate, hbit, hcode, hvel, hpos⟩ := s.axisFault_leaves ha hcause c
    have hrd (f : Fld) : (s.evalAxis a c).rd 0x1000 f a = (s.axisFault a cause c).rd 0x1000 f a :=
      State.rd_of_regs ((congrArg State.regs h).trans (State.stageAxis_frame ..).1) ..
    exact ⟨(hrd _).trans hstate, (congrArg (fun v : Nat => decide (v = 1)) (hrd _)).trans hbit, (hrd _).trans hcode, (hrd _).trans hvel, (hrd _).trans hpos, hmem⟩
  obtain ⟨hbraked, hlost, hsteady⟩ := State.evalAxis_coupled hfree hst hcoming
  refine ⟨fun hb => hfault (by decide) (hbraked hb), fun hb hl => hfault (by decide) (hlost hb hl), fun hb hl hshift hbad hC hU => ?_⟩
  obtain ⟨dy, hcmd⟩ := State.command_axisAdvanced ha hbad hC hU c
  obtain ⟨v, ht⟩ := hsteady hb hl hshift _ _ hcmd
  obtain ⟨hmaster, hfrac, hpos, hbase, hy, hstate⟩ := State.evalAxis_leaves ht
  exact ⟨hmaster, hfrac, hpos, hbase, hy, hstate.trans hst, hmem⟩

end Sys2Proof.Machine
end

section
/-! PROOFS. What a pin shows, and what the edge placer and the ends of pulses leave of it (R272, R275, R276). -/

namespace Sys2Proof.Machine

/-! ### The shown level of a pin -/

/-- A pin shown moves the pins, FIO_CFG.OUT and the record of outputs. -/
theorem State.showPin_part {γ : Type} {g : State → γ} (hr : ∀ (t : State) (a : Nat) (v : Reg), g (t.setReg a v) = g t)
    (hp : ∀ (t : State) (k : Nat) (x : Pin), g (t.setPin k x) = g t) (ho : ∀ (t : State) (l : List Out), g { t with out := l } = g t) (s : State) (n time : Nat) :
    g (s.showPin n time) = g s :=
  ite_keeps g rfl ((ho ..).trans ((hr ..).trans (hp ..)))

theorem State.rd_showPin (s : State) (n time : Nat) {p i : Nat} {f : Fld} (h : R.FIO_CFG_OUT.addr 0x080 n ≠ f.addr p i) :
    (s.showPin n time).rd p f i = s.rd p f i :=
  ite_keeps (fun t => t.rd p f i) rfl (State.rd_wr_ne _ _ _ _ _ h)

theorem State.pin_showPin_ne (s : State) {n k : Nat} (time : Nat) (h : n ≠ k) : (s.showPin n time).pin k = s.pin k :=
  ite_keeps (fun t => t.pin k) rfl (State.setPin_ne _ _ _ h)

/-- Of the pin itself, what it shows changes. -/
theorem State.pin_showPin_self (s : State) (n time : Nat) : (s.showPin n time).pin n = { s.pin n with shown := s.pinDrive n } := by
  unfold State.showPin
  dsimp only
  split
  · next h => rw [← h]
  · exact State.setPin_self ..

/-- A pin's state set and shown. -/
theorem State.setPin_showPin (s : State) (n time : Nat) (x : Pin) :
    ((s.setPin n x).showPin n time).pin n = { x with shown := (s.setPin n x).pinDrive n } ∧
      (∀ k, k ≠ n → ((s.setPin n x).showPin n time).pin k = s.pin k) := by
  refine ⟨?_, fun k hk => ?_⟩
  · rw [State.pin_showPin_self, State.setPin_self]
  · rw [State.pin_showPin_ne _ _ hk.symm, State.setPin_ne _ _ _ hk.symm]

/-! ### The edge placer (R272, R275) -/

/-- The edge that the placer makes on a pin, from a level before it. -/
def State.makeEdge (s : State) (c n time level : Nat) (pulse : Option Nat) (before : Bool) : State :=
  (s.setPin n { s.pin n with driven := true, level := if level = 2 then !before else decide (level ≠ 0), pulse := pulse,
                             last := some (time, before, c) }).showPin n time

/-- The level of a pin before its next edge. -/
def State.heldLevel (s : State) (n : Nat) : Bool := if (s.pin n).driven then (s.pin n).level else s.on 0x080 R.FIO_CFG_HLVL n

theorem Pin.clash_eq_none {x : Pin} {time : Nat} (h : ∀ l b k, x.last = some (l, b, k) → l + 4 ≤ time ∨ time + 4 ≤ l) : x.clash time = none := by
  refine Option.filter_eq_none_iff.2 fun y hy => ?_
  have := h y.1 y.2.1 y.2.2 hy
  simp only [decide_eq_true_eq]
  omega

theorem Pin.clash_eq_some {x : Pin} {time l : Nat} {b : Bool} {k : Nat} (h : x.last = some (l, b, k)) (hl : time < l + 4) (ht : l < time + 4) :
    x.clash time = some (l, b, k) := by
  unfold Pin.clash
  rw [h]
  exact Option.filter_some_pos (by simpa using ⟨hl, ht⟩)

section
variable {s : State} {n time : Nat} (c level : Nat) (pulse : Option Nat)

/-- The three ends of an edge: made, made in the place of an earlier one, and dropped for a later one. -/
theorem State.placeEdge_free (h : (s.pin n).clash time = none) : s.placeEdge c n time level pulse = s.makeEdge c n time level pulse (s.heldLevel n) := by
  unfold State.placeEdge
  dsimp only
  rw [h]
  rfl

theorem State.placeEdge_replaces {l k : Nat} {b : Bool} (h : (s.pin n).clash time = some (l, b, k)) (hlate : l ≤ time) :
    s.placeEdge c n time level pulse = ((s.bump (relPage c) R.REL_CNT_COLLIDE).unplaceEdge n time b).makeEdge c n time level pulse b := by
  unfold State.placeEdge
  dsimp only
  rw [h]
  exact if_neg (Nat.not_lt.2 hlate)

theorem State.placeEdge_yields {l k : Nat} {b : Bool} (h : (s.pin n).clash time = some (l, b, k)) (hearly : time < l) :
    s.placeEdge c n time level pulse = s.bump (relPage k) R.REL_CNT_COLLIDE := by
  unfold State.placeEdge
  dsimp only
  rw [h]
  exact if_pos hearly

end

/-- An edge moves the pins, registers and the record of outputs. -/
theorem State.placeEdge_part {γ : Type} {g : State → γ} (hr : ∀ (t : State) (a : Nat) (v : Reg), g (t.setReg a v) = g t)
    (hp : ∀ (t : State) (x : Pin), g (t.setPin n x) = g t) (ho : ∀ (t : State) (l : List Out), g { t with out := l } = g t) (s : State) (c time level : Nat) (pulse : Option Nat) :
    g (s.placeEdge c n time level pulse) = g s := by
  have hshow (t : State) : g (t.showPin n time) = g t := ite_keeps g rfl ((ho ..).trans ((hr ..).trans (hp ..)))
  have hmake (t : State) (b : Bool) : g (t.makeEdge c n time level pulse b) = g t := (hshow _).trans (hp ..)
  cases h : (s.pin n).clash time with
  | none => rw [State.placeEdge_free _ _ _ h, hmake]
  | some y =>
    obtain ⟨l, b, k⟩ := y
    rcases Nat.lt_or_ge time l with hl | hl
    · rw [State.placeEdge_yields _ _ _ h hl]
      exact hr ..
    · rw [State.placeEdge_replaces _ _ _ h hl, hmake]
      exact (ho ..).trans ((hp ..).trans ((hp ..).trans (hr ..)))

/-- The word of a bank's counters is none of those that show the pins. -/
theorem fioCfgOut_ne_relPage (n k : Nat) (hn : n < 96) (f : Fld) : R.FIO_CFG_OUT.addr 0x080 n ≠ f.addr (relPage k) 0 := by
  simp only [Fld.addr, relPage, R.FIO_CFG_OUT]
  omega

theorem State.rd_makeEdge (s : State) (c time level : Nat) (pulse : Option Nat) (b : Bool) {n : Nat} (hn : n < 96) (k : Nat) (f : Fld) :
    (s.makeEdge c n time level pulse b).rd (relPage k) f = s.rd (relPage k) f :=
  State.rd_showPin _ _ _ (fioCfgOut_ne_relPage n k hn f)

/-- A made edge drives the pin (R272). -/
theorem State.pin_makeEdge (s : State) (c n time level : Nat) (pulse : Option Nat) (b : Bool) :
    let x := (s.makeEdge c n time level pulse b).pin n
    x.driven = true ∧ x.pulse = pulse ∧ x.last = some (time, b, c) ∧ x.level = (if level = 2 then !b else decide (level ≠ 0)) := by
  dsimp only
  unfold State.makeEdge
  rw [(State.setPin_showPin ..).1]
  exact ⟨rfl, rfl, rfl, rfl⟩

/-! ### The ends of pulses (R272) -/

/-- PULSE_END without a pulse that has ended. -/
theorem State.pulseEnd_early {s : State} {n : Nat} (h : s.domOn 3 = false ∨ ∀ e, (s.pin n).pulse = some e → 4 * s.tb < e) : s.pulseEnd n = s := by
  unfold State.pulseEnd
  split
  · next e he =>
    refine if_neg ?_
    rcases h with h | h
    · simp [h]
    · have := h e he
      simp only [Bool.and_eq_true, decide_eq_true_eq]
      omega
  · rfl

theorem State.pulseEnd_due {s : State} {n e : Nat} (he : (s.pin n).pulse = some e) (hon : s.domOn 3 = true) (hdue : e ≤ 4 * s.tb) :
    s.pulseEnd n = (s.setPin n { s.pin n with
      level := false, pulse := none, last := some (e, (s.pin n).level, ((s.pin n).last.map (·.2.2)).getD 0) }).showPin n e := by
  unfold State.pulseEnd
  rw [he]
  exact if_pos (by simp [hon, hdue])

end Sys2Proof.Machine
end

section
/-! PROOFS. O37: releases act on their targets (R265, R270, R272, R275). -/

namespace Sys2Proof.Machine

/-! ### The entry that releases next (R270, R275) -/

theorem relKey_div (c : Nat) (entry : Fin 256) : relKey c entry / 256 = c := by
  unfold relKey
  omega

theorem relKey_mod (c : Nat) (entry : Fin 256) : relKey c entry % 256 = entry := by
  unfold relKey
  omega

theorem State.releaseIf_idle {s : State} {c entry : Nat} (h : s.domOn (8 + c) = false ∨ ∀ t k e, s.relNext = some (t, k, e) → k ≠ relKey c entry)
    (kind : Nat → Bool) : s.releaseIf c entry kind = s := by
  unfold State.releaseIf
  rcases h with h | h
  · exact if_pos (by simp [h])
  · split
    · rfl
    · split
      · next t k e hnext => exact if_neg (by simp [h t k e hnext])
      · rfl

theorem State.releaseIf_next {s : State} {c entry tick : Nat} {e : RelEntry} (hon : s.domOn (8 + c) = true)
    (hnext : s.relNext = some (tick, relKey c entry, e)) (kind : Nat → Bool) :
    s.releaseIf c entry kind = if kind e.act then s.release (relKey c entry) tick e else s := by
  unfold State.releaseIf
  rw [if_neg (by simp [hon]), hnext]
  simp

/-- The nine commands that release an entry, each with the actions it stands for. -/
def releaseKinds (c : Cas) (entry : Fin 256) : List (Instr × (Nat → Bool)) :=
  [(.releaseMarker c entry, fun a => decide (actType a = 0)), (.releasePinEdge c entry, fun a => decide (actType a = 1)),
    (.releasePwmDutyLoad c entry, fun a => decide (actType a = 2)), (.releaseChainCommit c entry, fun a => decide (actType a = 3)),
    (.releaseMessage c entry, fun a => decide (actType a = 4)), (.strobeOpenWindow c entry, fun a => decide (actType a = 5 ∧ bits a 5 3 = 0)),
    (.strobeCloseWindow c entry, fun a => decide (actType a = 5 ∧ bits a 5 3 = 1)), (.strobeLatchEncoder c entry, fun a => decide (actType a = 5 ∧ bits a 5 3 = 2)),
    (.strobeStartSsi c entry, fun a => decide (actType a = 5 ∧ bits a 5 3 = 3))]

theorem exec_releaseKinds (c : Cas) (entry : Fin 256) (s : State) : ∀ x ∈ releaseKinds c entry, exec x.1 s = .next (s.releaseIf c entry x.2) := by
  have hstrobe (n : Nat) : (.next (s.releaseIf c entry fun a => decide (actType a = 5) && decide (bits a 5 3 = n)) : Result) =
      .next (s.releaseIf c entry fun a => decide (actType a = 5 ∧ bits a 5 3 = n)) := by simp only [Bool.decide_and]
  simp only [releaseKinds, List.forall_mem_cons]
  exact ⟨rfl, rfl, rfl, rfl, rfl, hstrobe 0, hstrobe 1, hstrobe 2, hstrobe 3, fun _ h => nomatch h⟩

/-! ### The actions (R272) -/

section
variable {s u : State} {c tick : Nat} {entry : Fin 256} {e : RelEntry} (hu : s.freed (relKey c entry) tick e = u)
include hu

theorem State.release_marker (ht : actType e.act = 0) : s.release (relKey c entry) tick e = u := by
  unfold State.release
  simp only [ht, hu]

theorem State.release_pinEdge (ht : actType e.act = 1) :
    s.release (relKey c entry) tick e = u.relPinEdge c tick (if e.late then setBits e.act 32 2 0 else e.act) := by
  unfold State.release
  simp only [ht, hu, relKey_div]

theorem State.release_pwm (ht : actType e.act = 2) : s.release (relKey c entry) tick e = u.relPwm tick e.act := by
  unfold State.release
  simp only [ht, hu]

theorem State.release_commit (ht : actType e.act = 3) :
    s.release (relKey c entry) tick e =
      (u.chainCommit (bits e.act 0 3) tick c entry).getD ((u.commitDiscard (bits e.act 0 3) tick c entry).relDiscard c) := by
  unfold State.release
  simp only [ht, hu, relKey_div, relKey_mod]

theorem State.release_message (ht : actType e.act = 4) : s.release (relKey c entry) tick e = u.relMessage c entry tick e := by
  unfold State.release
  simp only [ht, hu, relKey_div, relKey_mod]

theorem State.release_strobe (ht : actType e.act = 5) : s.release (relKey c entry) tick e = u.relStrobe tick e.act := by
  unfold State.release
  simp only [ht, hu]

end

/-- A word beyond the journal's pages has no part in whether it records. -/
theorem State.recording_wr (s : State) (p : Nat) (f : Fld) (v : Nat) (h : 0x61000 ≤ f.addr p 0) : (s.wr p f v).recording = s.recording := by
  have hrd (g : Fld) (hg : g.off < 4096) : (s.wr p f v).rd 0x060 g = s.rd 0x060 g := State.rd_wr_ne _ _ _ _ _ (by
    have : g.addr 0x060 0 < 0x61000 := by
      simp only [Fld.addr]
      omega
    omega)
  simp only [State.recording, State.blockOn, State.on, hrd R.PG_CTRL_EN (by decide), hrd R.PG_CTRL_SRST (by decide), hrd R.JRN_CTRL_EN (by decide),
    hrd R.JRN_STAT_FROZEN (by decide)]
  rfl

/-- An entry on time by its stamp, with no journal, replay or injection to report to, leaves its bank only (R270). -/
theorem State.freed_plain {s : State} {c tick : Nat} {entry : Fin 256} {e : RelEntry} (hlate : e.late = false) (hph : actPh e.act = false)
    (hrec : s.recording = false) (hrpl : s.rpl.going = false) (hinj : s.injArmed (relPage c) 1 = false) :
    s.freed (relKey c entry) tick e = ({ s with rel := del s.rel (relKey c entry) } : State).showRel c := by
  have hrec' : (({ s with rel := del s.rel (relKey c entry) } : State).showRel c).recording = false :=
    (State.recording_wr _ _ _ _ (by simp only [Fld.addr, relPage]; omega)).trans hrec
  have hinj' : (({ s with rel := del s.rel (relKey c entry) } : State).showRel c).injArmed (relPage c) 1 = false :=
    (congrArg (bit · 1) (State.rd_wr_off _ _ _ _ _ (by decide))).trans hinj
  have hdigest : (({ s with rel := del s.rel (relKey c entry) } : State).showRel c).relDigest c (relKey c entry % 256) tick e =
      ({ s with rel := del s.rel (relKey c entry) } : State).showRel c :=
    if_neg (by rw [hrec']; simpa [State.showRel] using hrpl)
  unfold State.freed
  simp only [relKey_div, hdigest, hlate, hph, hinj', Bool.false_and, Bool.false_eq_true, if_false]

/-- A pin edge reads no bit of its action that LATE clears but FINE (R272). -/
theorem State.relPinEdge_late (s : State) (c tick act : Nat) (late : Bool) :
    s.relPinEdge c tick (if late then setBits act 32 2 0 else act) =
      let time := 4 * tick + actFine (if late then setBits act 32 2 0 else act)
      if s.rd 0x080 R.FIO_CFG_FUNC (bits act 0 7) = 1 ∧ s.pinSafe (bits act 0 7) = false then
        s.placeEdge c (bits act 0 7) time (bits act 8 2) (if bits act 8 2 = 3 then some (time + 4 * max 1 (bits act 12 20)) else none)
      else s.bump (relPage c) R.REL_CNT_DISCARD := by
  have hbits (lo w : Nat) (h : lo + w ≤ 32) : bits (if late then setBits act 32 2 0 else act) lo w = bits act lo w := by
    cases late
    · rfl
    · exact bits_setBits_ne _ _ (.inr h)
  unfold State.relPinEdge State.relDiscard
  rw [hbits 0 7 (by decide), hbits 8 2 (by decide), hbits 12 20 (by decide)]
  dsimp only
  by_cases hfunc : s.rd 0x080 R.FIO_CFG_FUNC (bits act 0 7) = 1
  · cases s.pinSafe (bits act 0 7)
    · exact (if_neg (by simp [hfunc])).trans (if_pos ⟨hfunc, rfl⟩).symm
    · exact (if_pos (by simp)).trans (if_neg (by simp)).symm
  · exact (if_pos (by simp [hfunc])).trans (if_neg (by simp [hfunc])).symm

/-- A duty load (R272) that waits for its period start, and one taken at once: in a period whose pulse stands the fall moves. -/
theorem State.relPwm_waits (s : State) (tick : Nat) {act : Nat} (hnow : bit act 5 = false) :
    s.relPwm tick act = s.setPwm (bits act 0 5) { s.pwm (bits act 0 5) with pend := some (bits act 16 16, bit act 6, tick) } :=
  if_pos (by simp [hnow])

theorem State.relPwm_low {s : State} (tick : Nat) {act : Nat} (hnow : bit act 5 = true) (hlow : (s.pwm (bits act 0 5)).start = none ∨ (s.pwm (bits act 0 5)).high = false) :
    s.relPwm tick act = s.pwmSet (bits act 0 5) (bits act 16 16) (bit act 6) := by
  unfold State.relPwm
  dsimp only
  rw [if_neg (by simp [hnow])]
  split
  · next t hstart hhigh =>
    rcases hlow with h | h
    · rw [h] at hstart
      cases hstart
    · rw [h] at hhigh
      cases hhigh
  · rfl

theorem State.rd_pwmSet (s : State) (j duty : Nat) (full : Bool) {f : Fld} (h : f.off ≠ R.PWM_DUTY_DUTY.off ∧ f.stride = 16) :
    (s.pwmSet j duty full).rd 0x083 f j = s.rd 0x083 f j := by
  have hduty (u : State) (v : Nat) : (u.wr 0x083 R.PWM_DUTY_DUTY v j).rd 0x083 f j = u.rd 0x083 f j := State.rd_wr_off _ _ _ _ _ ⟨h.1.symm, h.2.symm⟩
  have hfull (u : State) (v : Nat) : (u.wr 0x083 R.PWM_DUTY_FULL v j).rd 0x083 f j = u.rd 0x083 f j := State.rd_wr_off _ _ _ _ _ ⟨h.1.symm, h.2.symm⟩
  unfold State.pwmSet
  rw [hfull, hduty]

theorem State.relPwm_high {s : State} (tick : Nat) {act t : Nat} (hnow : bit act 5 = true) (hstart : (s.pwm (bits act 0 5)).start = some t)
    (hhigh : (s.pwm (bits act 0 5)).high = true) :
    let j := bits act 0 5
    let v := s.pwmSet j (bits act 16 16) (bit act 6)
    let fall := 4 * t + pwmFallAfter (max 20 (s.rd 0x083 R.PWM_PER_PERIOD j)) (bits act 16 16)
    s.relPwm tick act =
      if bit act 6 then v.setPwm j { s.pwm j with fall := none }
      else if 4 * tick < fall then v.setPwm j { s.pwm j with fall := some fall }
      else (v.setPwm j { s.pwm j with high := false, fall := none }).showPin (s.rd 0x083 R.PWM_CFG_PIN j) (4 * tick) := by
  intro j v fall
  have hper : v.pwmPeriod j = max 20 (s.rd 0x083 R.PWM_PER_PERIOD j) := by rw [State.pwmPeriod, State.rd_pwmSet _ _ _ _ (by decide)]
  have hpin : v.rd 0x083 R.PWM_CFG_PIN j = s.rd 0x083 R.PWM_CFG_PIN j := State.rd_pwmSet _ _ _ _ (by decide)
  unfold State.relPwm
  dsimp only
  rw [if_neg (by simp [hnow]), hstart, hhigh]
  dsimp only
  rw [hper, hpin]

/-- Settles O37: each release by its action, each edge by the last one on its pin, and the ends of pulses. -/
theorem releasesActAndDriveTheirPins : Obligations.ReleasesActAndDriveTheirPins := by
  unfold Obligations.ReleasesActAndDriveTheirPins
  refine ⟨fun c entry s => ⟨fun h x hx => ?_, fun tick e hon hnext => ?_⟩, fun s c n time level pulse _ hn _ => ?_, fun n s => ⟨fun h => ?_, fun e he hdue hle => ?_⟩⟩
  · rw [exec_releaseKinds c entry s x hx, State.releaseIf_idle h]
  · intro u act pin level time port j duty full
    have hu : s.freed (relKey c entry) tick e = u := rfl
    have hgo (kind : Nat → Bool) (hk : kind e.act = true) : s.releaseIf c entry kind = s.release (relKey c entry) tick e := by
      rw [State.releaseIf_next hon hnext, if_pos hk]
    refine ⟨fun x hx hk => ?_, fun hl hp hr hg hi => State.freed_plain hl hp hr hg hi, fun ht => ?_, fun ht => ?_, fun ht hnow => ?_, fun ht hnow => ?_, fun ht => ?_, fun ht => ?_⟩
    · rw [exec_releaseKinds c entry s x hx, State.releaseIf_next hon hnext, if_neg (by simp [hk])]
    · exact congrArg Host.Outcome.next ((hgo _ (decide_eq_true ht)).trans (State.release_marker hu ht))
    · exact congrArg Host.Outcome.next ((hgo _ (decide_eq_true ht)).trans ((State.release_pinEdge hu ht).trans (u.relPinEdge_late ..)))
    · exact congrArg Host.Outcome.next ((hgo _ (decide_eq_true ht)).trans ((State.release_pwm hu ht).trans (u.relPwm_waits tick hnow)))
    · have hrun := (hgo (fun a => decide (actType a = 2)) (decide_eq_true ht)).trans (State.release_pwm hu ht)
      exact ⟨fun hlow => congrArg Host.Outcome.next (hrun.trans (State.relPwm_low tick hnow hlow)),
        fun t hstart hhigh => congrArg Host.Outcome.next (hrun.trans (State.relPwm_high tick hnow hstart hhigh))⟩
    · refine congrArg Host.Outcome.next ((hgo _ (decide_eq_true ht)).trans ((State.release_commit hu ht).trans ?_))
      cases u.chainCommit port tick c entry <;> rfl
    · refine congrArg Host.Outcome.next ((hgo _ (decide_eq_true ht)).trans ((State.release_message hu ht).trans ?_))
      unfold State.relMessage
      cases e.late <;> rfl
  · intro x t held made counted
    refine ⟨fun hfree => ?_, fun l b k hlast hle hlt => ?_, fun l b k _ hlast hlt hclose => ?_, (State.placeEdge_keeps ..).2.2, ?_, fun k hk => ?_⟩
    · have ht : t = s.makeEdge c n time level pulse held := State.placeEdge_free _ _ _ (Pin.clash_eq_none hfree)
      simp only [made, ht]
      exact ⟨State.pin_makeEdge .., State.rd_makeEdge s c time level pulse held hn c _⟩
    · have ht := State.placeEdge_replaces c level pulse (Pin.clash_eq_some hlast hlt (by omega)) hle
      simp only [made, counted, t, ht]
      exact ⟨State.pin_makeEdge .., (State.rd_makeEdge _ c time level pulse b hn c _).trans (State.rd_bump_self s _ (by decide))⟩
    · have ht := State.placeEdge_yields c level pulse (Pin.clash_eq_some hlast (by omega) hclose) hlt
      simp only [counted, t, ht]
      exact ⟨rfl, State.rd_bump_self s _ (by decide)⟩
    · exact State.placeEdge_part (g := State.rel) (fun _ _ _ => rfl) (fun _ _ => rfl) (fun _ _ => rfl) s c time level pulse
    · exact State.placeEdge_part (g := fun t => t.pin k) (fun _ _ _ => rfl) (fun _ _ => State.setPin_ne _ _ _ hk.symm) (fun _ _ => rfl) s c time level pulse
  · exact congrArg Host.Outcome.next (State.pulseEnd_early h)
  · have ht := State.pulseEnd_due he hdue hle
    obtain ⟨hpin, hothers⟩ := s.setPin_showPin n e { s.pin n with level := false, pulse := none, last := some (e, (s.pin n).level, ((s.pin n).last.map (·.2.2)).getD 0) }
    rw [← ht] at hpin hothers
    exact ⟨_, rfl, by rw [hpin], by rw [hpin], by rw [hpin], (State.pulseEnd_keeps ..).2.2, hothers⟩

end Sys2Proof.Machine
end

section
/-! PROOFS. What messages and reports leave of the capture windows (R280 to R282). -/

namespace Sys2Proof.Machine

/-- The words of the capture windows. -/
abbrev winWord (a : Nat) : Prop := 0x81100 ≤ a ∧ a < 0x82000

theorem hubWord_of_winWord {a : Nat} (h : winWord a) : hubWord a := ⟨by omega, by omega, by omega⟩

/-- Two states with the same capture windows. -/
structure State.SameWins (s t : State) : Prop where
  words : ∀ a, winWord a → t.reg a = s.reg a
  cws   : t.cws = s.cws

theorem State.SameWins.refl (s : State) : s.SameWins s := ⟨fun _ _ => rfl, rfl⟩

theorem State.SameWins.trans {s t u : State} (h : s.SameWins t) (h' : t.SameWins u) : s.SameWins u :=
  ⟨fun a ha => (h'.words a ha).trans (h.words a ha), h'.cws.trans h.cws⟩

theorem State.SameWins.ite {s t u : State} {c : Prop} [Decidable c] (ht : s.SameWins t) (hu : s.SameWins u) : s.SameWins (if c then t else u) := by
  split <;> assumption

theorem State.SameWins.wr (s : State) (p : Nat) (f : Fld) (v j : Nat) (h : ¬ winWord (f.addr p j)) : s.SameWins (s.wr p f v j) :=
  ⟨fun _ ha => s.reg_wr_ne p f v j fun he => h (he ▸ ha), rfl⟩

/-- A field of another page. -/
theorem State.SameWins.wr_page (s : State) {p : Nat} {f : Fld} (v : Nat) (hp : p ≠ 0x081) (hoff : f.off < 4096) : s.SameWins (s.wr p f v) :=
  .wr s p f v 0 fun h => by
    simp only [winWord, Fld.addr] at h
    omega

theorem State.SameWins.raise (s : State) (n : Nat) : s.SameWins (s.raise n) :=
  ⟨fun a ha => (State.SameHub.raise s n).words a (hubWord_of_winWord ha), State.raise_part (g := State.cws) (fun _ _ _ => rfl) (fun _ _ => rfl) s n⟩

theorem State.SameWins.jrnOffer (s : State) (k : JRec) : s.SameWins (s.jrnOffer k).2 :=
  ⟨fun a ha => (State.SameHub.jrnOffer s k).words a (hubWord_of_winWord ha),
    State.jrnOffer_part (g := State.cws) (fun _ _ _ => rfl) (fun _ _ => rfl) (fun _ _ => rfl) s k⟩

theorem State.SameWins.jrnBreak (s : State) (cause stamp detail : Nat) : s.SameWins (s.jrnBreak cause stamp detail) := by
  have hoffer := State.SameWins.jrnOffer s ⟨cause, 0x1F6, stamp % 2 ^ 42, detail⟩
  exact .ite ((State.SameWins.ite (hoffer.trans (.wr_page _ _ (by decide) (by decide))) hoffer).trans (.wr_page _ _ (by decide) (by decide))) (.refl s)

/-! ### Sends (R204, R205, R280) -/

theorem State.SameWins.setChan (s : State) (ch : Nat) (c : Chan) : s.SameWins (s.setChan ch c) := ⟨fun _ _ => rfl, rfl⟩

theorem State.SameWins.fabErr (s : State) (ch sender cause : Nat) : s.SameWins (s.fabErr ch sender cause) := by
  have hwr (u : State) {f : Fld} (v : Nat) (hoff : f.off < 4096) : u.SameWins (u.wr 0x0A0 f v) := .wr_page u v (by decide) hoff
  have hcapture (u : State) : u.SameWins (u.capture 0x0A0 R.FAB_ERR_CAP_VALID R.FAB_ERR_CAP_OVR) :=
    (State.SameWins.ite (hwr u _ (by decide)) (.refl u)).trans (hwr _ _ (by decide))
  refine .trans (hwr s _ ?_) ((((hcapture _).trans (hwr _ _ (by decide))).trans (hwr _ _ (by decide))).trans (hwr _ _ (by decide)))
  (repeat' split) <;> decide

/-- A send that is discarded, one that fails, and one that enters the fabric. -/
theorem State.SameWins.trySend {s z : State} {ch sender stamp kind : Nat} {words : List Nat} {live : Bool}
    (h : s.trySend ch sender stamp kind words live = some z) : s.SameWins z := by
  unfold State.trySend at h
  split at h
  · cases h
  · split at h
    · cases h
      exact .wr_page s _ (by decide) (by decide)
    · split at h
      · cases h
        exact .fabErr ..
      · split at h
        · cases h
        · cases h
          exact ((State.SameWins.setChan s _ _).trans (.ite (.setChan ..) (.refl _))).trans (.ite (.jrnOffer ..) (.refl _))

theorem State.SameWins.trySendMsg {s z : State} {m : Msg} (h : s.trySendMsg m = some z) : s.SameWins z := by
  unfold State.trySendMsg at h
  dsimp only at h
  split at h
  · obtain ⟨y, hy, rfl⟩ := Option.map_eq_some_iff.1 h
    have hsame := State.SameWins.trySend hy
    exact ⟨hsame.words, hsame.cws⟩
  · exact .trySend h

theorem State.SameWins.hwSend (s : State) (ch sender stamp kind : Nat) (words : List Nat) : s.SameWins (s.hwSend ch sender stamp kind words) := by
  have hwait (l : List Msg) : s.SameWins { s with outbox := l } := ⟨fun _ _ => rfl, rfl⟩
  refine .ite (hwait _) ?_
  cases h : s.trySendMsg ⟨ch, sender, stamp % 2 ^ 42, kind, words⟩ with
  | none => exact hwait _
  | some z => exact .trySendMsg h

/-! ### Captures (R280) -/

theorem State.SameWins.captureLate (s : State) (m : Msg) : s.SameWins (s.captureLate m) := by
  have hcount : s.SameWins { s.bump 0x081 R.CAP_ERR_LATE with capLost := put s.capLost m.capSource (lookD s.capLost m.capSource 0 + 1) } :=
    ⟨(State.SameWins.wr s 0x081 R.CAP_ERR_LATE _ 0 (by decide)).words, rfl⟩
  have hevt (u : State) : u.SameWins (u.pgEvt 0x081 0) :=
    ⟨fun a ha => u.reg_pgEvt_other (hubWord_of_winWord ha) (by simp only [Fld.addr, R.PG_EVT_PEND_PEND]; omega) 0,
      State.pgEvt_part (g := State.cws) (fun _ _ _ => rfl) (fun _ _ => rfl) u _ _⟩
  exact (hcount.trans (hevt _)).trans (.jrnBreak ..)

theorem State.SameWins.waiting (s : State) (l : List Msg) : s.SameWins { s with caps := l } := ⟨fun _ _ => rfl, rfl⟩

theorem State.SameWins.flushCaps (s : State) : s.SameWins s.flushCaps := by
  unfold State.flushCaps
  refine List.foldlRecOn _ _ (State.SameWins.waiting s _) fun t ht m _ => ht.trans ?_
  exact .ite ((State.SameWins.wr t 0x081 R.PG_INJ_INJ _ 0 (by decide)).trans (.captureLate ..)) (.ite (.captureLate ..) (.hwSend ..))

theorem State.SameWins.capture118 (s : State) (ch stamp : Nat) (c : CapMsg) : s.SameWins (s.capture118 ch stamp c) :=
  (State.SameWins.waiting s _).trans (.flushCaps _)

/-! ### The windows as they read -/

theorem State.SameWins.rd {s t : State} (h : s.SameWins t) {w : Nat} (hw : w < 32) {f : Fld} (hf : 0x100 ≤ f.off ∧ f.off < 0x110 ∧ f.stride = 16) :
    t.rd 0x081 f w = s.rd 0x081 f w := by
  have hword : winWord (f.addr 0x081 w) := by
    simp only [winWord, Fld.addr, hf.2.2]
    omega
  simp only [State.rd, h.words _ hword]

theorem State.SameWins.on {s t : State} (h : s.SameWins t) {w : Nat} (hw : w < 32) {f : Fld} (hf : 0x100 ≤ f.off ∧ f.off < 0x110 ∧ f.stride = 16) :
    t.on 0x081 f w = s.on 0x081 f w := by
  simp only [State.on, h.rd hw hf]

/-! ### Windows that open and close (R281, R282) -/

/-- What a window that opens reads as. -/
theorem State.winOpen_leaves (s : State) (w tick : Nat) (mark : Option Int) :
    let t := s.winOpen w tick mark
    t.on 0x081 R.CW_STAT_OPEN w = true ∧ t.on 0x081 R.CW_STAT_HIT w = false ∧ t.win w = { s.win w with opened := tick, seek := tick - 1, mark := mark } ∧ t.pins = s.pins := by
  intro t
  refine ⟨?_, ?_, State.setWin_self .., rfl⟩
  · exact (State.on_wr_bits _ _ _ _ _ (by decide) (by decide)).trans (State.on_wr_self _ _ _ _ _ (by decide) (by decide))
  · exact State.on_wr_self _ _ _ _ _ (by decide) (by decide)

/-- An opening as it ends, before its MISS is judged. -/
def State.ended (s : State) (w tick : Nat) : Opening := ⟨(s.win w).opened, tick, s.on 0x081 R.CW_STAT_HIT w, s.on 0x081 R.CW_CTRL_MISS w⟩

/-- The openings that a closed window keeps. -/
def State.keptOpenings (s : State) (w tick : Nat) : List Opening := s.ended w tick :: (s.win w).past.filter fun y => y.miss || decide (s.tb < y.close + 49)

/-- A window closed, before its MISSes are judged. -/
def State.winEnd (s : State) (w tick : Nat) (mark : Option Int) : State :=
  (s.setWin w { s.win w with past := s.keptOpenings w tick, seek := tick - 1, mark := mark }).wr 0x081 R.CW_STAT_OPEN 0 w

theorem State.winClose_eq (s : State) (w tick : Nat) (mark : Option Int) : s.winClose w tick mark = (s.winEnd w tick mark).winJudge w := rfl

theorem State.winEnd_win (s : State) (w tick : Nat) (mark : Option Int) :
    (s.winEnd w tick mark).win w = { s.win w with past := s.keptOpenings w tick, seek := tick - 1, mark := mark } := State.setWin_self ..

/-- The MISS of an opening falls due as before. -/
theorem State.missDue_winEnd (s : State) (w tick : Nat) (mark : Option Int) (o : Opening) : (s.winEnd w tick mark).missDue w o = s.missDue w o := by
  have hpin : (s.winEnd w tick mark).rd 0x081 R.CW_CTRL_PIN w = s.rd 0x081 R.CW_CTRL_PIN w := State.rd_wr_off _ _ _ _ _ (by decide)
  have hsync : (s.winEnd w tick mark).rd 0x081 R.CAP_SYNC_FILT = s.rd 0x081 R.CAP_SYNC_FILT :=
    State.rd_wr_ne _ _ _ _ _ (by simp only [Fld.addr, R.CW_STAT_OPEN, R.CAP_SYNC_FILT]; omega)
  have hlt : s.rd 0x081 R.CW_CTRL_PIN w < 2 ^ 7 := s.rd_lt ..
  have hfilt : (s.winEnd w tick mark).rd 0x080 R.FIO_CFG_FILT (s.rd 0x081 R.CW_CTRL_PIN w) = s.rd 0x080 R.FIO_CFG_FILT (s.rd 0x081 R.CW_CTRL_PIN w) :=
    State.rd_wr_ne _ _ _ _ _ (by simp only [Fld.addr, R.CW_STAT_OPEN, R.FIO_CFG_FILT]; omega)
  unfold State.missDue State.filterNs
  rw [hpin, hsync, hfilt]
  rfl

/-- A MISS counted moves the window's CW_STAT.MISSES only. -/
theorem State.winMiss_leaves (s : State) {w : Nat} (hw : w < 32) (o : Opening) :
    (s.winMiss w o).cws = s.cws ∧ (s.winMiss w o).on 0x081 R.CW_STAT_OPEN w = s.on 0x081 R.CW_STAT_OPEN w ∧
      (s.winMiss w o).rd 0x081 R.CW_STAT_MISSES w = min (s.rd 0x081 R.CW_STAT_MISSES w + b2n (!o.hit)) (2 ^ R.CW_STAT_MISSES.w - 1) := by
  unfold State.winMiss
  split
  · next h =>
    rw [h]
    exact ⟨rfl, rfl, (Nat.min_eq_left (Nat.le_sub_one_of_lt (s.rd_lt ..))).symm⟩
  · next h =>
    have hsame := State.SameWins.capture118 (s.bump 0x081 R.CW_STAT_MISSES w) (s.rd 0x081 R.CW_CTRL_CHAN w) o.close
      { src := s.rd 0x081 R.CW_CTRL_PIN w, type := 1, win := some w }
    have hopen : (s.bump 0x081 R.CW_STAT_MISSES w).on 0x081 R.CW_STAT_OPEN w = s.on 0x081 R.CW_STAT_OPEN w := State.on_wr_bits _ _ _ _ _ (by decide) (by decide)
    have hcount : (s.bump 0x081 R.CW_STAT_MISSES w).rd 0x081 R.CW_STAT_MISSES w = min (s.rd 0x081 R.CW_STAT_MISSES w + 1) (2 ^ R.CW_STAT_MISSES.w - 1) :=
      (State.rd_wr_self _ _ _ _ _ (by decide)).trans (Nat.mod_eq_of_lt (by have : 2 ^ R.CW_STAT_MISSES.w = 256 := rfl; omega))
    rw [Bool.eq_false_iff.2 h]
    exact ⟨hsame.cws, (hsame.on hw (by decide)).trans hopen, (hsame.rd hw (by decide)).trans hcount⟩

/-- A window whose MISSes that are due wait no longer. -/
def State.settled (s : State) (w : Nat) : State :=
  s.setWin w { s.win w with past := (s.win w).past.map fun o => if s.missDue w o then { o with miss := false } else o }

theorem State.winJudge_eq (s : State) (w : Nat) :
    s.winJudge w = ((s.win w).past.filter (s.missDue w)).reverse.foldl (fun (t : State) o => t.winMiss w o) (s.settled w) := rfl

/-- The openings of a window once its MISSes are judged. -/
theorem State.winJudge_leaves (s : State) {w : Nat} (hw : w < 32) :
    (s.winJudge w).win w = { s.win w with past := (s.win w).past.map fun o => if s.missDue w o then { o with miss := false } else o } ∧
      (s.winJudge w).on 0x081 R.CW_STAT_OPEN w = s.on 0x081 R.CW_STAT_OPEN w := by
  rw [State.winJudge_eq]
  refine ⟨?_, foldl_keeps (fun t : State => t.on 0x081 R.CW_STAT_OPEN w) _ (fun t o => (t.winMiss_leaves hw o).2.1) _ _⟩
  exact (foldl_keeps (fun t : State => t.win w) _ (fun t o => congrArg (fun m => lookD m w ({} : Win)) (t.winMiss_leaves hw o).1) _ _).trans (State.setWin_self ..)

/-- The opening that a close keeps: its MISS is judged at once or waits for the filter time (R279, R282; log entry 52). -/
def State.closedOpening (s : State) (w tick : Nat) : Opening :=
  { s.ended w tick with miss := s.on 0x081 R.CW_CTRL_MISS w && decide (s.tb < tick + s.filterNs (s.rd 0x081 R.CW_CTRL_PIN w)) }

theorem State.judged_ended (s : State) (w tick : Nat) :
    (if s.missDue w (s.ended w tick) then { s.ended w tick with miss := false } else s.ended w tick) = s.closedOpening w tick := by
  unfold State.closedOpening State.missDue
  rw [show (s.ended w tick).miss = s.on 0x081 R.CW_CTRL_MISS w from rfl, show (s.ended w tick).close = tick from rfl]
  by_cases hdue : tick + s.filterNs (s.rd 0x081 R.CW_CTRL_PIN w) ≤ s.tb
  · rw [decide_eq_true hdue, decide_eq_false (Nat.not_lt.2 hdue), Bool.and_true, Bool.and_false]
    split
    · rfl
    · next h => rw [State.ended, Bool.eq_false_iff.2 h]
  · rw [decide_eq_false hdue, decide_eq_true (Nat.lt_of_not_le hdue), Bool.and_true, Bool.and_false]
    rfl

/-- What a window that closes reads as. -/
theorem State.winClose_leaves (s : State) {w : Nat} (hw : w < 32) (tick : Nat) (mark : Option Int) :
    let t := s.winClose w tick mark
    t.on 0x081 R.CW_STAT_OPEN w = false ∧ (t.win w).past.head? = some (s.closedOpening w tick) ∧ (t.win w).mark = mark := by
  dsimp only
  obtain ⟨hwin, hopen⟩ := (s.winEnd w tick mark).winJudge_leaves hw
  rw [State.winClose_eq, hwin, hopen, State.winEnd_win]
  refine ⟨State.on_wr_self _ _ _ _ _ (by decide) (by decide), ?_, rfl⟩
  simp only [State.keptOpenings, List.map_cons, List.head?_cons, State.missDue_winEnd, State.judged_ended]

/-- With no older MISS to judge, a close judges that of the opening that it ends, once its filter time has passed. -/
theorem State.winClose_judges (s : State) {w : Nat} (hw : w < 32) (tick : Nat) (mark : Option Int) (hold : ∀ y ∈ (s.win w).past, y.miss = false) :
    let t := s.winClose w tick mark
    let judged := s.on 0x081 R.CW_CTRL_MISS w && !s.on 0x081 R.CW_STAT_HIT w && !(s.closedOpening w tick).miss
    t.rd 0x081 R.CW_STAT_MISSES w = min (s.rd 0x081 R.CW_STAT_MISSES w + b2n judged) (2 ^ R.CW_STAT_MISSES.w - 1) ∧ (judged = false → t.caps = s.caps) := by
  intro t judged
  have hjudged : judged = (s.missDue w (s.ended w tick) && !s.on 0x081 R.CW_STAT_HIT w) := by
    simp only [judged, State.closedOpening, State.missDue, State.ended]
    by_cases hdue : tick + s.filterNs (s.rd 0x081 R.CW_CTRL_PIN w) ≤ s.tb
    · simp [hdue]
    · cases s.on 0x081 R.CW_CTRL_MISS w <;> simp [hdue, Nat.lt_of_not_le hdue]
  have hfilter : (s.keptOpenings w tick).filter ((s.winEnd w tick mark).missDue w) = if s.missDue w (s.ended w tick) then [s.ended w tick] else [] := by
    have hrest : ((s.win w).past.filter fun y => y.miss || decide (s.tb < y.close + 49)).filter ((s.winEnd w tick mark).missDue w) = [] :=
      List.filter_eq_nil_iff.2 fun y hy => by simp [State.missDue, hold y (List.mem_of_mem_filter hy)]
    rw [State.keptOpenings, List.filter_cons, State.missDue_winEnd, hrest]
  let v := (s.winEnd w tick mark).settled w
  have hmisses : v.rd 0x081 R.CW_STAT_MISSES w = s.rd 0x081 R.CW_STAT_MISSES w := State.rd_wr_bits _ _ _ _ _ (by decide) (by decide)
  have ht : t = if s.missDue w (s.ended w tick) then v.winMiss w (s.ended w tick) else v := by
    show (s.winEnd w tick mark).winJudge w = _
    rw [State.winJudge_eq, State.winEnd_win]
    dsimp only
    rw [hfilter]
    cases s.missDue w (s.ended w tick) <;> rfl
  have hsat : min (s.rd 0x081 R.CW_STAT_MISSES w) (2 ^ R.CW_STAT_MISSES.w - 1) = s.rd 0x081 R.CW_STAT_MISSES w :=
    Nat.min_eq_left (Nat.le_sub_one_of_lt (s.rd_lt ..))
  rw [hjudged, ht]
  cases s.missDue w (s.ended w tick) with
  | false => exact ⟨hmisses.trans hsat.symm, fun _ => rfl⟩
  | true =>
    refine ⟨((v.winMiss_leaves hw _).2.2).trans (by rw [hmisses]; rfl), fun hhit => ?_⟩
    have hstays : v.winMiss w (s.ended w tick) = v := if_pos (by simpa [State.ended] using hhit)
    exact (congrArg State.caps hstays).trans (rfl : v.caps = s.caps)

end Sys2Proof.Machine
end

section
/-! PROOFS. O38: strobes and the host's kill (R271, R272, R281 to R283, R287). -/

namespace Sys2Proof.Machine

/-! ### Strobes (R272) -/

section
variable (s : State) (tick : Nat) {act : Nat}

theorem State.relStrobe_open (h : bits act 5 3 = 0) : s.relStrobe tick act = s.winStrobe (bits act 0 5) tick true := by
  unfold State.relStrobe
  simp only [h]

theorem State.relStrobe_close (h : bits act 5 3 = 1) : s.relStrobe tick act = s.winStrobe (bits act 0 5) tick false := by
  unfold State.relStrobe
  simp only [h]

theorem State.relStrobe_latch (h : bits act 5 3 = 2) : s.relStrobe tick act = s.encLatch (bits act 0 5) tick false := by
  unfold State.relStrobe
  simp only [h]

theorem State.relStrobe_ssi (h : bits act 5 3 = 3) : s.relStrobe tick act = s.ssiStart (bits act 0 5) tick := by
  unfold State.relStrobe
  simp only [h]

end

/-- Whether strobes open and close a window: enabled, and absolute (R281). -/
def State.absolute (s : State) (w : Nat) : Prop := s.on 0x081 R.CW_CTRL_EN w = true ∧ s.on 0x081 R.CW_CTRL_MODE w = false

theorem State.winStrobe_ignored {s : State} {w : Nat} (opens : Bool) (h : ¬ s.absolute w ∨ s.on 0x081 R.CW_STAT_OPEN w = opens) (tick : Nat) :
    s.winStrobe w tick opens = s := by
  unfold State.winStrobe
  split
  · rfl
  · next habs =>
    have hopen : s.on 0x081 R.CW_STAT_OPEN w = opens := h.resolve_left fun hn => hn (by simpa [State.absolute] using habs)
    cases opens <;> simp [hopen]

theorem State.winStrobe_acts {s : State} {w : Nat} (habs : s.absolute w) {opens : Bool} (hopen : s.on 0x081 R.CW_STAT_OPEN w = !opens) (tick : Nat) :
    s.winStrobe w tick opens = if opens then s.winOpen w tick none else s.winClose w tick none := by
  unfold State.winStrobe
  rw [if_neg (by simp [habs.1, habs.2])]
  cases opens <;> simp [hopen]

/-! ### Encoders (R283) -/

/-- The latch of a count, in quadrature only. -/
theorem State.encLatch_eq (s : State) (e tick : Nat) (zl : Bool) :
    s.encLatch e tick zl = if s.rd 0x082 R.ENC_CFG_MODE e = 1 then
      s.capture118 (s.rd 0x082 R.ENC_CHAN_CHAN e) tick { src := e, type := 2, zl := zl, val := s.rd 0x082 R.ENC_CNT_COUNT e } else s :=
  ite_not ..

/-- An SSI clock shown moves a pin, FIO_CFG.OUT and the record of outputs. -/
theorem State.ssiShow_part {γ : Type} {g : State → γ} (hr : ∀ (t : State) (a : Nat) (v : Reg), g (t.setReg a v) = g t)
    (hp : ∀ (t : State) (k : Nat) (x : Pin), g (t.setPin k x) = g t) (ho : ∀ (t : State) (l : List Out), g { t with out := l } = g t)
    (htb : ∀ (t : State) (n : Nat), g { t with tb := n } = g t) (s : State) (e tick : Nat) : g (s.ssiShow e tick) = g s :=
  ite_keeps g rfl ((State.showPin_part hr hp ho ..).trans ((htb ..).trans ((State.showPin_part hr hp ho ..).trans (htb ..))))

theorem State.ssiShow_noPin {s : State} {e : Nat} (h : 96 ≤ s.rd 0x082 R.ENC_CFG_PIN_A e) (tick : Nat) : s.ssiShow e tick = s := if_pos h

theorem State.ssiStart_other {s : State} {e : Nat} (h : s.rd 0x082 R.ENC_CFG_MODE e ≠ 2) (tick : Nat) : s.ssiStart e tick = s := if_pos h

theorem State.ssiStart_busy {s : State} {e tick : Nat} (hmode : s.rd 0x082 R.ENC_CFG_MODE e = 2) (h : (s.enc e).frame ≠ none ∨ tick < (s.enc e).pauseEnd) :
    s.ssiStart e tick = s.bump 0x082 R.ENC_STAT_SSIERR e :=
  (if_neg (not_not_intro hmode)).trans (if_pos (h.imp_left Option.isSome_iff_ne_none.2))

/-- Whether DATA is low as an SSI frame of an encoder starts. -/
def State.ssiLow (s : State) (e : Nat) : Bool := !(s.encPin (s.rd 0x082 R.ENC_CFG_PIN_B e) && (s.pin (s.rd 0x082 R.ENC_CFG_PIN_B e)).inp)

theorem State.ssiStart_starts {s : State} {e tick : Nat} (hmode : s.rd 0x082 R.ENC_CFG_MODE e = 2) (hidle : (s.enc e).frame = none) (hpause : (s.enc e).pauseEnd ≤ tick) :
    s.ssiStart e tick = (s.setEnc e { s.enc e with frame := some (tick, s.ssiLow e) }).ssiShow e tick :=
  (if_neg (not_not_intro hmode)).trans (if_neg (by simp [hidle, Nat.not_lt.2 hpause]))

/-- What a frame that starts leaves. -/
theorem State.ssiStart_leaves {s : State} {e tick : Nat} (hmode : s.rd 0x082 R.ENC_CFG_MODE e = 2) (hidle : (s.enc e).frame = none) (hpause : (s.enc e).pauseEnd ≤ tick) :
    let t := s.ssiStart e tick
    t.enc e = { s.enc e with frame := some (tick, s.ssiLow e) } ∧ (∀ k, k ≠ e → t.enc k = s.enc k) ∧
      (96 ≤ s.rd 0x082 R.ENC_CFG_PIN_A e → t.regs = s.regs) ∧ t.caps = s.caps := by
  dsimp only
  rw [State.ssiStart_starts hmode hidle hpause]
  have henc (k : Nat) := State.ssiShow_part (g := fun t => t.enc k) (fun _ _ _ => rfl) (fun _ _ _ => rfl) (fun _ _ => rfl) (fun _ _ => rfl)
    (s.setEnc e { s.enc e with frame := some (tick, s.ssiLow e) }) e tick
  refine ⟨(henc e).trans (State.setEnc_self ..), fun k hk => (henc k).trans (State.setEnc_ne _ _ _ hk.symm), fun hpin => ?_, ?_⟩
  · rw [State.ssiShow_noPin (s := s.setEnc e _) hpin]
    rfl
  · exact State.ssiShow_part (g := State.caps) (fun _ _ _ => rfl) (fun _ _ _ => rfl) (fun _ _ => rfl) (fun _ _ => rfl) _ e tick

/-! ### The host's kill (R271, R287) -/

/-- A write of a release bank's word changes neither the cadences nor their enables, so what is due stays due. -/
theorem State.relNext_wr (s : State) (p : Nat) (f : Fld) (v : Nat) (h : f.addr p 0 % 64 ≠ 0) : (s.wr p f v).relNext = s.relNext := by
  have hcad (n : Nat) : (s.wr p f v).cadEn n = s.cadEn n := State.on_wr_ne _ _ _ _ _ (by
    intro he
    rw [he] at h
    simp only [Fld.addr, R.CAD_CTRL_EN] at h
    omega)
  have htick : (s.wr p f v).relTick = s.relTick := funext fun e => by
    unfold State.relTick
    rw [hcad]
    rfl
  unfold State.relNext
  rw [htick]
  rfl

theorem relPage_dom (c : Cas) : pageDom (relPage c) = 8 + c := by revert c; decide

/-- REL_IDX with KILL: what is due is released, then the entry is disarmed. -/
theorem State.writeRelIdx_kill (s : State) (c : Nat) (entry : Fin 256) :
    s.writeRelIdx c (256 + entry.val) =
      let r := ((s.wr (relPage c) R.REL_IDX_ENTRY entry).jrnHost (R.REL_IDX_KILL.addr (relPage c) 0)).releaseDue
      ({ r with rel := del r.rel (relKey c entry) } : State).showRel c := by
  have hmod : (256 + entry.val) % 256 = entry.val := by omega
  have hidx : s.wr (relPage c) R.REL_IDX_ENTRY (256 + entry.val) = s.wr (relPage c) R.REL_IDX_ENTRY entry := by
    have hbits : (256 + entry.val) % 2 ^ R.REL_IDX_ENTRY.w = entry.val % 2 ^ R.REL_IDX_ENTRY.w := by simp [R.REL_IDX_ENTRY]
    unfold State.wr setBits
    rw [hbits]
  have hkill : bit (256 + entry.val) 8 = true := by
    simp only [bit, decide_eq_true_eq]
    omega
  unfold State.writeRelIdx
  dsimp only
  rw [hidx, hmod, if_pos hkill]
  rfl

/-- Settles O38: each strobe by what it finds at its window or encoder, and the kill with nothing due. -/
theorem strobesReachWindowsAndEncoders : Obligations.StrobesReachWindowsAndEncoders := by
  unfold Obligations.StrobesReachWindowsAndEncoders
  refine ⟨fun c entry s tick e hon hnext htype => ?_, fun c entry s hreach hon => ?_⟩
  · intro u x absolute isOpen
    have hx : x < 32 := bits_lt e.act 0 5
    have hmem : u.mem = s.mem := (State.freed_keeps ..).2.2
    have hgo (op : Nat) (hop : bits e.act 5 3 = op) :
        s.releaseIf c entry (fun a => decide (actType a = 5) && decide (bits a 5 3 = op)) = u.relStrobe tick e.act := by
      rw [State.releaseIf_next hon hnext, if_pos (by simp [htype, hop])]
      exact State.release_strobe rfl htype
    refine ⟨fun hop => ?_, fun hop => ?_, fun hop => ?_, fun hop => ?_⟩
    · have hrun : exec (.strobeOpenWindow c entry) s = .next (u.winStrobe x tick true) := congrArg Host.Outcome.next ((hgo 0 hop).trans (u.relStrobe_open tick hop))
      refine ⟨fun habs hclosed => ?_, fun h => ?_⟩
      · obtain ⟨hopen, hhit, hwin, hpins⟩ := u.winOpen_leaves x tick none
        rw [State.winStrobe_acts habs (opens := true) (Bool.eq_false_iff.2 hclosed)] at hrun
        exact ⟨_, hrun, hopen, hhit, by rw [if_pos rfl, hwin], by rw [if_pos rfl, hwin], hpins, (State.winOpen_keeps ..).2.2.trans hmem⟩
      · rw [hrun, State.winStrobe_ignored true h]
    · have hrun : exec (.strobeCloseWindow c entry) s = .next (u.winStrobe x tick false) := congrArg Host.Outcome.next ((hgo 1 hop).trans (u.relStrobe_close tick hop))
      refine ⟨fun habs hopen => ?_, fun h => ?_⟩
      · obtain ⟨hclosed, hhead, -⟩ := u.winClose_leaves hx tick none
        rw [State.winStrobe_acts habs (opens := false) hopen] at hrun
        exact ⟨_, u.closedOpening x tick, hrun, hclosed, hhead, rfl, rfl, rfl, rfl, (State.winClose_keeps ..).2.2.trans hmem, fun hold => u.winClose_judges hx tick none hold⟩
      · rw [hrun, State.winStrobe_ignored false (h.imp_right fun h => Bool.eq_false_iff.2 h)]
    · exact congrArg Host.Outcome.next ((hgo 2 hop).trans ((u.relStrobe_latch tick hop).trans (u.encLatch_eq ..)))
    · have hrun : exec (.strobeStartSsi c entry) s = .next (u.ssiStart x tick) := congrArg Host.Outcome.next ((hgo 3 hop).trans (u.relStrobe_ssi tick hop))
      refine ⟨fun hmode => ?_, fun hmode => ⟨fun hbusy => ?_, fun hidle hpause => ?_⟩⟩
      · rw [hrun, State.ssiStart_other hmode]
      · rw [hrun, State.ssiStart_busy hmode hbusy]
      · obtain ⟨henc, hothers, hregs, hcaps⟩ := State.ssiStart_leaves hmode hidle hpause
        exact ⟨_, hrun, congrArg Encoder.frame henc, hothers, hregs, hcaps, (State.ssiStart_keeps ..).1.trans (State.freed_keeps ..).1, (State.ssiStart_keeps ..).2.2.trans hmem⟩
  · intro w r
    have hrun : exec (.relKill c entry) s = .next (({ r with rel := del r.rel (relKey c entry) } : State).showRel c) := by
      refine congrArg Host.Outcome.next ((State.hostAt_reached hreach ?_ _).trans (State.writeRelIdx_kill ..))
      rw [State.pageOn, relPage_dom, hon]
    refine ⟨hrun, fun hrec hnone hrising => ⟨_, hrun, ?_⟩⟩
    have hw : r = w := by
      have hidle : w.jrnHost (R.REL_IDX_KILL.addr (relPage c) 0) = w :=
        State.jrnHost_idle ((State.recording_wr _ _ _ _ (by simp only [Fld.addr, relPage]; omega)).trans hrec) _
      have hlate : w.relNext = none := (State.relNext_wr _ _ _ _ (by simp only [Fld.addr, relPage, R.REL_IDX_ENTRY]; omega)).trans hnone
      simp only [r, hidle, State.releaseDue_of_none hlate]
    have hrel : r.rel = s.rel := (congrArg State.rel hw).trans rfl
    have hidx : r.rd (relPage c) R.REL_IDX_ENTRY = entry.val :=
      (congrArg (fun t => t.rd (relPage c) R.REL_IDX_ENTRY) hw).trans ((State.rd_wr_self _ _ _ _ _ (by decide)).trans (Nat.mod_eq_of_lt entry.isLt))
    rw [State.showRel_rel, hrel]
    exact ⟨look_del_self _ hrising, fun k hk => look_del_ne _ hk.symm, (State.rd_wr_off _ _ _ _ _ (by decide)).trans hidx,
      (State.showRel_keeps ..).2.2.trans ((congrArg State.mem hw).trans rfl)⟩

end Sys2Proof.Machine
end

section
/-! PROOFS. O39: captures, phase windows, bank mismatches and the safe state (R276, R278 to R282). -/

namespace Sys2Proof.Machine

/-! ### An edge of an input (R279, R280) -/

/-- The state in which an edge is judged raises its pin's source when it is selected directly. -/
def State.edgeRaised (w : State) (n : Nat) (rise : Bool) : State :=
  if edgeSelects (w.capEdge n) rise = true ∧ n < 96 then w.raise (528 + n) else w

/-- An edge less than 8 ns after the last captured one of its pin is lost. -/
def State.edgeLost (w : State) (n : Nat) (rise : Bool) : State :=
  let u := w.edgeRaised n rise
  ({ u with capLost := put u.capLost n (lookD u.capLost n 0 + 1) } : State).bump 0x081 R.CAP_ERR_LOST

/-- The stamp of an edge: the start of its filter time. -/
def State.edgeStamp (w : State) (n : Nat) : Nat := w.tb - w.filterNs n

/-- An edge that is captured: noted on its pin, and sent where it is selected directly. -/
def State.edgeSent (w : State) (n : Nat) (rise : Bool) : State :=
  let taken := (w.edgeRaised n rise).setPin n { w.pin n with cap := some (w.edgeStamp n) }
  if edgeSelects (w.capEdge n) rise then taken.capture118 (taken.capChan n) (w.edgeStamp n) { src := n, type := 0, rise := rise } else taken

/-- The windows of a pin that an edge lies inside of. -/
def State.windowsAround (w : State) (n : Nat) : List Nat := (w.windowsOn n).filter fun x => w.inWindow x (w.edgeStamp n)

/-- An edge outside of every window of its pin is counted by each of them (R282). -/
def State.countOutside (w : State) (n : Nat) (u : State) : State :=
  if (w.windowsAround n).isEmpty then (w.windowsOn n).foldl (fun (u : State) x => u.bump 0x081 R.CW_STAT_OUTSIDE x) u else u

theorem State.edgeRaised_pin (w : State) (n : Nat) (rise : Bool) : (w.edgeRaised n rise).pin n = w.pin n :=
  ite_keeps (fun t => t.pin n) (State.raise_part (g := fun t => t.pin n) (fun _ _ _ => rfl) (fun _ _ => rfl) w _) rfl

theorem State.edgeSent_same (w : State) (n : Nat) (rise : Bool) : w.SameWins (w.edgeSent n rise) := by
  have htaken : w.SameWins ((w.edgeRaised n rise).setPin n { w.pin n with cap := some (w.edgeStamp n) }) :=
    (State.SameWins.ite (.raise ..) (.refl w)).trans ⟨fun _ _ => rfl, rfl⟩
  exact .ite (htaken.trans (.capture118 ..)) htaken

/-- An edge of an input that moves is judged once the windows due have acted and the input shows its level. -/
theorem State.pinEdge_judged {s w : State} {n : Nat} {rise : Bool} (hon : s.domOn 3 = true) (hmoves : (s.pin n).inp ≠ rise) (hw : (s.windowsDue n).setInput n rise = w) :
    s.pinEdge n rise =
      if !edgeSelects (w.capEdge n) rise && !((w.windowsOn n).any fun x => w.winSelects x rise) then w.countOutside n w
      else if (w.pin n).cap.any fun k => decide (w.edgeStamp n < k + 8) then w.edgeLost n rise
      else ((w.windowsAround n).filter fun x => (w.edgeSent n rise).winSelects x rise).foldl (fun (u : State) x => u.windowEdge x n (w.edgeStamp n) rise)
        (w.countOutside n (w.edgeSent n rise)) := by
  unfold State.pinEdge
  rw [if_neg (by simp [hon, hmoves])]
  dsimp only
  rw [hw]
  have hraised : (if (edgeSelects (w.capEdge n) rise && decide (n < 96)) = true then w.raise (528 + n) else w) = w.edgeRaised n rise := by
    simp only [State.edgeRaised, Bool.and_eq_true, decide_eq_true_eq]
  rw [hraised, State.edgeRaised_pin]
  rfl

section
variable {s w : State} {n : Nat} {rise : Bool} (hon : s.domOn 3 = true) (hmoves : (s.pin n).inp ≠ rise) (hw : (s.windowsDue n).setInput n rise = w)
include hon hmoves hw

/-- The three ends of an edge: selected by nothing, lost, and captured. -/
theorem State.pinEdge_unselected (hd : edgeSelects (w.capEdge n) rise = false) (hs : (w.windowsOn n).any (fun x => w.winSelects x rise) = false) :
    s.pinEdge n rise = w.countOutside n w :=
  (State.pinEdge_judged hon hmoves hw).trans (if_pos (by simp only [hd, hs]; rfl))

theorem State.pinEdge_lost (hsel : edgeSelects (w.capEdge n) rise = true ∨ (w.windowsOn n).any (fun x => w.winSelects x rise) = true)
    (hsoon : ∃ k, (w.pin n).cap = some k ∧ w.edgeStamp n < k + 8) : s.pinEdge n rise = w.edgeLost n rise := by
  obtain ⟨k, hk, hlt⟩ := hsoon
  refine (State.pinEdge_judged hon hmoves hw).trans ((if_neg ?_).trans (if_pos ?_))
  · rcases hsel with h | h <;> rw [h] <;> simp
  · rw [hk]
    exact decide_eq_true hlt

theorem State.pinEdge_captured (hsel : edgeSelects (w.capEdge n) rise = true ∨ (w.windowsOn n).any (fun x => w.winSelects x rise) = true)
    (hfree : ¬ ∃ k, (w.pin n).cap = some k ∧ w.edgeStamp n < k + 8) :
    s.pinEdge n rise = ((w.windowsAround n).filter fun x => (w.edgeSent n rise).winSelects x rise).foldl
      (fun (u : State) x => u.windowEdge x n (w.edgeStamp n) rise) (w.countOutside n (w.edgeSent n rise)) := by
  refine (State.pinEdge_judged hon hmoves hw).trans ((if_neg ?_).trans (if_neg ?_))
  · rcases hsel with h | h <;> rw [h] <;> simp
  · cases hcap : (w.pin n).cap with
    | none => exact Bool.false_ne_true
    | some k => exact fun h => hfree ⟨k, hcap, of_decide_eq_true h⟩

end

theorem State.countOutside_noWindow {w : State} {n : Nat} (h : w.windowsOn n = []) (u : State) : w.countOutside n u = u := by
  simp [State.countOutside, State.windowsAround, h]

theorem State.windowsAround_one {w : State} {n x : Nat} (h : w.windowsOn n = [x]) :
    w.windowsAround n = if w.inWindow x (w.edgeStamp n) then [x] else [] := by
  rw [State.windowsAround, h, List.filter_cons, List.filter_nil]

theorem State.countOutside_one {w : State} {n x : Nat} (h : w.windowsOn n = [x]) (u : State) :
    w.countOutside n u = if w.inWindow x (w.edgeStamp n) then u else u.bump 0x081 R.CW_STAT_OUTSIDE x := by
  rw [State.countOutside, State.windowsAround_one h, h]
  cases w.inWindow x (w.edgeStamp n) <;> rfl

theorem State.windowEdge_eq (s : State) (x n t : Nat) (rise : Bool) :
    s.windowEdge x n t rise = if s.on 0x081 R.CW_CTRL_FIRST x ∧ s.openingHit x t = true then s.bump 0x081 R.CW_STAT_EXTRA x
      else (s.noteHit x t).capture118 (s.rd 0x081 R.CW_CTRL_CHAN x) t { src := n, type := 0, rise := rise, win := some x } := by
  simp only [State.windowEdge, Bool.and_eq_true]

/-- With nothing due and no window on the pin, an edge finds the state as it was. -/
theorem State.windowsDue_idle {s : State} {n : Nat} (hdue : s.strobeDue = false) (hnone : s.windowsOn n = []) : s.windowsDue n = s := by
  simp [State.windowsDue, hdue, hnone]

/-! ### Phase windows (R281) -/

section
variable {s : State} {w : Nat}

theorem State.phaseOpen_stays (h : s.on 0x081 R.CW_STAT_OPEN w = true ∨ s.winEdge w (s.rd 0x081 R.CW_OPEN_PHASE w) true = none) : s.phaseOpen w = s := by
  unfold State.phaseOpen
  split
  · rfl
  · next hclosed => rw [h.resolve_left hclosed]

theorem State.phaseOpen_opens {t : Nat} {p : Int} (hclosed : s.on 0x081 R.CW_STAT_OPEN w = false)
    (hedge : s.winEdge w (s.rd 0x081 R.CW_OPEN_PHASE w) true = some (t, p)) : s.phaseOpen w = s.winOpen w t (some p) := by
  unfold State.phaseOpen
  rw [if_neg (by simp [hclosed]), hedge]

theorem State.phaseClose_stays (h : s.on 0x081 R.CW_STAT_OPEN w = false ∨ s.winEdge w (s.rd 0x081 R.CW_CLOSE_PHASE w) false = none) : s.phaseClose w = s := by
  unfold State.phaseClose
  split
  · rfl
  · next hopen => rw [h.resolve_left (by simpa using hopen)]

theorem State.phaseClose_closes {t : Nat} {p : Int} (hopen : s.on 0x081 R.CW_STAT_OPEN w = true)
    (hedge : s.winEdge w (s.rd 0x081 R.CW_CLOSE_PHASE w) false = some (t, p)) : s.phaseClose w = s.winClose w t (some p) := by
  unfold State.phaseClose
  rw [if_neg (by simp [hopen]), hedge]

end

/-! ### All pins shown, and the banks (R276) -/

theorem State.showPins_part {γ : Type} {g : State → γ} (hr : ∀ (t : State) (a : Nat) (v : Reg), g (t.setReg a v) = g t)
    (hp : ∀ (t : State) (k : Nat) (x : Pin), g (t.setPin k x) = g t) (ho : ∀ (t : State) (l : List Out), g { t with out := l } = g t) (s : State) :
    g s.showPins = g s :=
  foldl_keeps g _ (fun t n => State.showPin_part hr hp ho t n _) _ s

/-- The words of page 0x080 before FIO_CFG show no pin's output. -/
theorem State.rd_showPins (s : State) {f : Fld} (h : f.off < 0x100) : s.showPins.rd 0x080 f = s.rd 0x080 f :=
  foldl_keeps (fun t : State => t.rd 0x080 f) _ (fun t n => State.rd_showPin t n _ (by simp only [Fld.addr, R.FIO_CFG_OUT]; omega)) _ s

/-- What a bank's rail monitor reports shows in FIO_BANK.MISMATCH, where an injected mismatch of bank 0 stands as well (R276, R286). -/
theorem State.setMismatch_leaves (s : State) (b : Fin 6) (m : Bool) :
    bit ((s.setMismatch b m).rd 0x080 R.FIO_BANK_MISMATCH) b = (m || decide (b.val = 0) && s.misUntil.isSome) ∧ bit (s.setMismatch b m).misBanks b = m := by
  have hbanks : bit (setBits s.misBanks b 1 (b2n m)) b = m := by
    rw [bit_setBits, if_pos ⟨Nat.le_refl _, Nat.lt_succ_self _⟩, Nat.sub_self]
    cases m <;> rfl
  have hevt (u : State) : (u.pgEvt 0x080 0).rd 0x080 R.FIO_BANK_MISMATCH = u.rd 0x080 R.FIO_BANK_MISMATCH ∧ (u.pgEvt 0x080 0).misBanks = u.misBanks :=
    ⟨u.rd_pgEvt_other (by decide) (by decide) 0, State.pgEvt_part (g := State.misBanks) (fun _ _ _ => rfl) (fun _ _ => rfl) u _ _⟩
  have hshown (u : State) : u.showBanks.rd 0x080 R.FIO_BANK_MISMATCH = setBits u.misBanks 0 1 (if u.misUntil.isSome then 1 else u.misBanks) % 2 ^ 6 ∧
      u.showBanks.misBanks = u.misBanks :=
    ⟨(State.rd_showPins _ (by decide)).trans (State.rd_wr_self _ _ _ _ _ (by decide)),
      (State.showPins_part (g := State.misBanks) (fun _ _ _ => rfl) (fun _ _ _ => rfl) (fun _ _ => rfl) _)⟩
  obtain ⟨hrd, hmis⟩ : (s.setMismatch b m).rd 0x080 R.FIO_BANK_MISMATCH =
      setBits (setBits s.misBanks b 1 (b2n m)) 0 1 (if s.misUntil.isSome then 1 else setBits s.misBanks b 1 (b2n m)) % 2 ^ 6 ∧
      (s.setMismatch b m).misBanks = setBits s.misBanks b 1 (b2n m) := by
    obtain ⟨hrd, hmis⟩ := hshown { s with misBanks := setBits s.misBanks b 1 (b2n m) }
    unfold State.setMismatch
    dsimp only
    split
    · exact ⟨(hevt _).1.trans hrd, (hevt _).2.trans hmis⟩
    · exact ⟨hrd, hmis⟩
  rw [hrd, hmis]
  refine ⟨?_, hbanks⟩
  rw [bit_testBit, Nat.testBit_mod_two_pow, decide_eq_true b.isLt, Bool.true_and, ← bit_testBit, bit_setBits]
  by_cases hb : b.val = 0
  · rw [if_pos (by omega), decide_eq_true hb, Bool.true_and]
    rw [hb] at hbanks ⊢
    cases s.misUntil with
    | none => exact hbanks.trans (Bool.or_false m).symm
    | some t => exact (rfl : bit 1 (0 - 0) = true).trans (Bool.or_true m).symm
  · rw [if_neg (by omega), hbanks, decide_eq_false hb, Bool.false_and, Bool.or_false]

/-! ### The end of the safe state (R278) -/

theorem upTo_keeps {γ : Type} (g : State → γ) {f : State → Nat → State} {n : Nat} (h : ∀ t j, j < n → g (f t j) = g t) (s : State) : g (upTo n f s) = g s :=
  List.foldlRecOn (motive := fun t => g t = g s) (List.range n) f rfl fun t ht j hj => (h t j (List.mem_range.1 hj)).trans ht

/-- A part that one step of a walk moves is as that step leaves it. -/
theorem upTo_step {γ : Type} (g : State → γ) {f : State → Nat → State} {k : Nat} (h : ∀ t j, j ≠ k → g (f t j) = g t) {n : Nat} (hk : k < n) (s : State) :
    ∃ t, g t = g s ∧ g (upTo n f s) = g (f t k) := by
  induction n with
  | zero => exact absurd hk (Nat.not_lt_zero k)
  | succ n ih =>
    have hlast : upTo (n + 1) f s = f (upTo n f s) n := by rw [upTo, List.range_succ, List.foldl_append]; rfl
    rw [hlast]
    by_cases hn : k = n
    · subst hn
      exact ⟨upTo k f s, upTo_keeps g (fun t j hj => h t j (Nat.ne_of_lt hj)) s, rfl⟩
    · obtain ⟨t, ht, hend⟩ := ih (by omega)
      exact ⟨t, ht, (h _ n (Ne.symm hn)).trans hend⟩

/-- A PWM channel that is held, or whose pin is safe, waits for its next period. -/
def State.freePwm (t : State) (j : Nat) : State :=
  let x := t.pwm j
  if x.held || (t.pin (t.rd 0x083 R.PWM_CFG_PIN j)).safe then
    t.setPwm j { x with held := false, wait := true, start := if x.held then some t.tb else x.start } else t

/-- A safe pin is safe no longer, and no release drives it. -/
def State.freePin (t : State) (n : Nat) : State := if (t.pin n).safe then t.setPin n { t.pin n with safe := false, driven := false, pulse := none } else t

theorem State.freePwm_pin (t : State) (j n : Nat) : (t.freePwm j).pin n = t.pin n := by
  unfold State.freePwm
  exact ite_keeps (fun t => t.pin n) rfl rfl

theorem State.freePwm_pwm_ne (t : State) {j k : Nat} (h : k ≠ j) : ((t.freePwm k).pwm j, (t.freePwm k).tb) = (t.pwm j, t.tb) := by
  unfold State.freePwm
  exact ite_keeps (fun t => (t.pwm j, t.tb)) (congrArg (·, t.tb) (State.setPwm_ne _ _ _ h)) rfl

theorem State.freePin_pin_ne (t : State) {n k : Nat} (h : k ≠ n) : (t.freePin k).pin n = t.pin n := by
  unfold State.freePin
  exact ite_keeps (fun t => t.pin n) (State.setPin_ne _ _ _ h) rfl

theorem State.freePin_pwm (t : State) (n j : Nat) : (t.freePin n).pwm j = t.pwm j := by
  unfold State.freePin
  exact ite_keeps (fun t => t.pwm j) rfl rfl

theorem State.safeEnd_eq (s : State) : s.safeEnd = ((upTo 96 State.freePin (upTo 32 State.freePwm s)).wr 0x080 R.FIO_SAFE_ACTIVE 0).showPins := rfl

theorem State.safeEnd_active (s : State) : s.safeEnd.on 0x080 R.FIO_SAFE_ACTIVE = false :=
  (congrArg (fun v : Nat => decide (v = 1)) (State.rd_showPins _ (by decide))).trans (State.on_wr_self _ _ _ _ _ (by decide) (by decide))

/-- What of a pin does not show its level. -/
def State.pinHold (s : State) (n : Nat) : Bool × Bool × Option Nat := ((s.pin n).safe, (s.pin n).driven, (s.pin n).pulse)

theorem State.pinHold_showPin (s : State) (k time n : Nat) : (s.showPin k time).pinHold n = s.pinHold n := by
  unfold State.pinHold
  by_cases h : k = n
  · subst h
    rw [State.pin_showPin_self]
  · rw [State.pin_showPin_ne _ _ h]

theorem State.pinHold_showPins (s : State) (n : Nat) : s.showPins.pinHold n = s.pinHold n :=
  foldl_keeps (fun t : State => t.pinHold n) _ (fun t k => t.pinHold_showPin k _ n) _ s

theorem State.safeEnd_pin (s : State) {n : Nat} (hn : n < 96) :
    (s.safeEnd.pin n).safe = false ∧ ((s.pin n).safe = true → (s.safeEnd.pin n).driven = false ∧ (s.safeEnd.pin n).pulse = none) := by
  have hpwms (t : State) : (upTo 32 State.freePwm t).pin n = t.pin n := upTo_keeps (fun t => t.pin n) (fun t j _ => t.freePwm_pin j n) t
  obtain ⟨t, ht, hfreed⟩ := upTo_step (fun t => t.pin n) (fun t _ hj => t.freePin_pin_ne hj) hn (upTo 32 State.freePwm s)
  have hshown (u : State) : ((u.wr 0x080 R.FIO_SAFE_ACTIVE 0).showPins).pinHold n = u.pinHold n := State.pinHold_showPins ..
  have hhold : s.safeEnd.pinHold n = (t.freePin n).pinHold n := by
    rw [State.safeEnd_eq, hshown]
    simp only [State.pinHold, hfreed]
  obtain ⟨hsafe, hdriven, hpulse⟩ : (s.safeEnd.pin n).safe = ((t.freePin n).pin n).safe ∧ (s.safeEnd.pin n).driven = ((t.freePin n).pin n).driven ∧
      (s.safeEnd.pin n).pulse = ((t.freePin n).pin n).pulse := by simpa only [State.pinHold, Prod.mk.injEq] using hhold
  rw [hsafe, hdriven, hpulse, ← hpwms s, ← ht]
  by_cases h : (t.pin n).safe = true
  · rw [State.freePin, if_pos h, State.setPin_self]
    exact ⟨rfl, fun _ => ⟨rfl, rfl⟩⟩
  · rw [State.freePin, if_neg h]
    exact ⟨Bool.eq_false_iff.2 h, fun hs => absurd hs h⟩

theorem State.safeEnd_pwm (s : State) {j : Nat} (hj : j < 32) :
    (s.safeEnd.pwm j).held = false ∧ ((s.pwm j).held = true → (s.safeEnd.pwm j).wait = true ∧ (s.safeEnd.pwm j).start = some s.tb) := by
  obtain ⟨t, ht, hfreed⟩ := upTo_step (fun t => (t.pwm j, t.tb)) (fun t _ hk => t.freePwm_pwm_ne hk) hj s
  obtain ⟨hpwm, htb⟩ := Prod.mk.inj ht
  have hshown (u : State) : ((u.wr 0x080 R.FIO_SAFE_ACTIVE 0).showPins).pwm j = u.pwm j :=
    State.showPins_part (g := fun t => t.pwm j) (fun _ _ _ => rfl) (fun _ _ _ => rfl) (fun _ _ => rfl) _
  have hpins (u : State) : (upTo 96 State.freePin u).pwm j = u.pwm j := upTo_keeps (fun t => t.pwm j) (fun t n _ => t.freePin_pwm n j) u
  have hend : s.safeEnd.pwm j = (t.freePwm j).pwm j := by
    rw [State.safeEnd_eq, hshown, hpins]
    exact (Prod.mk.inj hfreed).1
  rw [hend, ← hpwm, ← htb]
  unfold State.freePwm
  dsimp only
  split
  · rw [State.setPwm_self]
    exact ⟨rfl, fun h => ⟨rfl, if_pos h⟩⟩
  · next h =>
    obtain ⟨hheld, -⟩ : (t.pwm j).held = false ∧ _ := by simpa using h
    exact ⟨hheld, fun hs => by rw [hheld] at hs; cases hs⟩

/-- Settles O39: an edge by what selects it and where it lies, a phase window by its edge, a bank by its report, and CLR by what it frees. -/
theorem capturesWindowsAndBanks : Obligations.CapturesWindowsAndBanks := by
  unfold Obligations.CapturesWindowsAndBanks
  refine ⟨fun n rise s => ⟨fun h => ?_, fun hon hmoves => ?_⟩, fun w s => ⟨fun h => ?_, fun h => ?_, fun t p => ⟨fun hclosed hedge => ?_, fun hopen hedge => ?_⟩⟩,
    fun b s hon => ⟨?_, ?_⟩, fun s hreach hon => ⟨fun h => ?_, fun hbrake hactive => ?_⟩⟩
  · refine congrArg Host.Outcome.next (if_pos ?_)
    rcases h with h | h <;> simp [h]
  · intro w t direct raised soon taken sent lost
    have hw : (s.windowsDue n).setInput n rise = w := rfl
    have hsel (x : Nat) (hx : w.windowsOn n = [x]) : (w.windowsOn n).any (fun x => w.winSelects x rise) = edgeSelects (w.rd 0x081 R.CW_CTRL_EDGE x) rise := by
      simp [hx, State.winSelects]
    refine ⟨State.windowsDue_idle, fun hnone => ⟨fun hd => ?_, fun hd hsoon => ?_, fun hd hfree => ?_⟩, fun x hx => ?_⟩
    · exact congrArg Host.Outcome.next ((State.pinEdge_unselected hon hmoves hw hd (by simp [hnone])).trans (State.countOutside_noWindow hnone w))
    · exact congrArg Host.Outcome.next (State.pinEdge_lost hon hmoves hw (.inl hd) hsoon)
    · refine congrArg Host.Outcome.next ((State.pinEdge_captured hon hmoves hw (.inl hd) hfree).trans ?_)
      rw [State.countOutside_noWindow hnone, State.windowsAround, hnone]
      rfl
    · intro selects inside
      have hedge : (w.edgeSent n rise).winSelects x rise = selects := by
        have hlt : x < 32 := List.mem_range.1 (List.mem_filter.1 (hx ▸ List.mem_singleton_self x : x ∈ w.windowsOn n)).1
        rw [State.winSelects, (w.edgeSent_same n rise).rd hlt (by decide)]
      refine ⟨fun hd hs => ?_, fun h hsoon => ?_, fun h hfree => ?_⟩
      · exact congrArg Host.Outcome.next ((State.pinEdge_unselected hon hmoves hw hd ((hsel x hx).trans hs)).trans (State.countOutside_one hx w))
      · exact congrArg Host.Outcome.next (State.pinEdge_lost hon hmoves hw (h.imp_right (hsel x hx).trans) hsoon)
      · have hrun := congrArg (Host.Outcome.next (φ := Fault) (ρ := Refusal)) (State.pinEdge_captured hon hmoves hw (h.imp_right (hsel x hx).trans) hfree)
        rw [State.countOutside_one hx, State.windowsAround_one hx] at hrun
        refine ⟨fun hin => hrun.trans ?_, fun hin hs => hrun.trans ?_, fun hin hs => hrun.trans ?_⟩
        all_goals rw [show w.inWindow x (w.edgeStamp n) = _ from hin]
        · rfl
        · rw [if_pos rfl, if_pos rfl, List.filter_cons, hedge, hs]
          rfl
        · rw [if_pos rfl, if_pos rfl, List.filter_cons, hedge, hs]
          exact congrArg Host.Outcome.next (State.windowEdge_eq ..)
  · exact congrArg Host.Outcome.next (State.phaseOpen_stays h)
  · exact congrArg Host.Outcome.next (State.phaseClose_stays h)
  · obtain ⟨hopen, hhit, hwin, -⟩ := s.winOpen_leaves w t (some p)
    exact ⟨_, congrArg Host.Outcome.next (State.phaseOpen_opens hclosed hedge), hopen, hhit, by rw [hwin], by rw [hwin], (State.winOpen_keeps ..).2.2⟩
  · obtain ⟨hclosed, hhead, hmark⟩ := s.winClose_leaves w.isLt t (some p)
    exact ⟨_, s.closedOpening w t, congrArg Host.Outcome.next (State.phaseClose_closes hopen hedge), hclosed, hhead, rfl, rfl, rfl, hmark, (State.winClose_keeps ..).2.2⟩
  · obtain ⟨hshown, hbank⟩ := s.setMismatch_leaves b true
    exact ⟨_, congrArg Host.Outcome.next (if_pos hon), hshown, hbank, (State.setMismatch_keeps ..).2.2⟩
  · obtain ⟨hshown, hbank⟩ := s.setMismatch_leaves b false
    exact ⟨_, congrArg Host.Outcome.next (if_pos hon), hshown, hbank, (State.setMismatch_keeps ..).2.2⟩
  all_goals
    have hrun : exec .fioSafeClr s = .next s.safeClear := congrArg Host.Outcome.next (State.hostAt_reached (p := 0x080) hreach hon _)
    rw [hrun]
  · refine congrArg Host.Outcome.next (if_pos ?_)
    rcases h with h | h <;> simp [h]
  · refine ⟨s.safeEnd, congrArg Host.Outcome.next (if_neg (by simp [hbrake, hactive])), s.safeEnd_active, fun n hn => s.safeEnd_pin hn, fun j hj => s.safeEnd_pwm hj,
      (State.safeEnd_keeps s).2.2⟩

end Sys2Proof.Machine
end

section
/-! PROOFS. O40: encoders, SSI frames and PWM (R272, R276, R283, R284, R290, R291). -/

namespace Sys2Proof.Machine

/-! ### Quadrature (R283) -/

/-- Whether an encoder sees levels of its pins that are new to it. -/
def State.encSees (s : State) (e : Nat) (a b : Bool) : Prop :=
  s.domOn 3 = true ∧ s.encPin (s.rd 0x082 R.ENC_CFG_PIN_A e) = true ∧ s.encPin (s.rd 0x082 R.ENC_CFG_PIN_B e) = true ∧ ¬ (a = (s.enc e).a ∧ b = (s.enc e).b)

theorem State.encTransition_unseen {s : State} {e : Nat} {a b : Bool} (h : ¬ s.encSees e a b) : s.encTransition e a b = s := by
  unfold State.encTransition
  split
  · rfl
  · next hpins =>
    refine if_pos ?_
    by_contra hnew
    exact h (by simpa [State.encSees, and_assoc] using And.intro hpins hnew)

/-- An encoder follows new levels, and in quadrature counts them: up, down, or as an error. -/
theorem State.encTransition_seen {s : State} {e : Nat} {a b : Bool} (h : s.encSees e a b) :
    let x := s.enc e
    let u := s.setEnc e { x with a := a, b := b }
    let step : Int := if (if a ≠ x.a then a != b else a == b) = Config.quadForward then 1 else -1
    s.encTransition e a b =
      if s.rd 0x082 R.ENC_CFG_MODE e ≠ 1 then u
      else if e = 0 ∧ s.injArmed 0x082 0 = true then (u.injTake 0x082 0).bump 0x082 R.ENC_STAT_QERR e
      else if a ≠ x.a ∧ b ≠ x.b then u.bump 0x082 R.ENC_STAT_QERR e
      else u.wr 0x082 R.ENC_CNT_COUNT (wrap ((s.rd 0x082 R.ENC_CNT_COUNT e : Int) + step) 28) e := by
  obtain ⟨hon, hpinA, hpinB, hnew⟩ := h
  intro x u step
  unfold State.encTransition
  dsimp only
  rw [if_neg (by simp [hon, hpinA, hpinB]), if_neg (by simpa using hnew)]
  simp only [Bool.and_eq_true, decide_eq_true_eq]
  rfl

/-! ### Latches (R283, R290) -/

/-- The latest tick of an encoder's period. -/
def State.latchTick (s : State) (e : Nat) : Nat :=
  let per := max 1000 (s.rd 0x082 R.ENC_PER_PERIOD e)
  s.tb - (s.tb - s.rd 0x082 R.ENC_OFS_OFS e % per) % per

/-- Whether an encoder's periodic latch falls due: it has a period, and its latest tick is new. -/
def State.latchDue (s : State) (e : Nat) : Prop :=
  s.domOn 3 = true ∧ s.rd 0x082 R.ENC_PER_PERIOD e ≠ 0 ∧ s.rd 0x082 R.ENC_OFS_OFS e % max 1000 (s.rd 0x082 R.ENC_PER_PERIOD e) ≤ s.tb ∧
    ∀ l, (s.enc e).lastPer = some l → l < s.latchTick e

/-- A tick is new unless the last one lies at or after it. -/
theorem any_le_eq_false {o : Option Nat} {t : Nat} : (o.any fun l => decide (t ≤ l)) = false ↔ ∀ l, o = some l → l < t := by
  cases o <;> simp

theorem State.encPeriodic_idle {s : State} {e : Nat} (h : ¬ s.latchDue e) : s.encPeriodic e = s := by
  unfold State.encPeriodic
  dsimp only
  split
  · rfl
  · next hon =>
    split
    · rfl
    · next hofs =>
      refine if_pos ?_
      by_contra hnew
      obtain ⟨hdom, hper⟩ : s.domOn 3 = true ∧ s.rd 0x082 R.ENC_PER_PERIOD e ≠ 0 := by simpa using hon
      exact h ⟨hdom, hper, Nat.le_of_not_lt hofs, any_le_eq_false.1 (Bool.eq_false_iff.2 hnew)⟩

theorem State.encPeriodic_due {s : State} {e : Nat} (h : s.latchDue e) :
    let u := s.setEnc e { s.enc e with lastPer := some (s.latchTick e) }
    s.encPeriodic e = if s.rd 0x082 R.ENC_CFG_MODE e = 2 then u.ssiStart e (s.latchTick e) else u.encLatch e (s.latchTick e) false := by
  obtain ⟨hdom, hper, hofs, hnew⟩ := h
  unfold State.encPeriodic
  dsimp only
  rw [if_neg (by simp [hdom, hper]), if_neg (Nat.not_lt.2 hofs)]
  exact if_neg (Bool.eq_false_iff.1 (any_le_eq_false.2 hnew))

/-- A rising Z edge shows ZSEEN, and latches the count where ZLATCH asks for it. -/
theorem State.encZ_seen {s : State} {e : Nat} (hon : s.domOn 3 = true) (hpin : s.encPin (s.rd 0x082 R.ENC_CFG_PIN_Z e) = true) :
    let z := s.wr 0x082 R.ENC_STAT_ZSEEN 1 e
    s.encZ e = if s.on 0x082 R.ENC_CFG_ZLATCH e then
      (if s.rd 0x082 R.ENC_CFG_MODE e = 1 then
        z.capture118 (s.rd 0x082 R.ENC_CHAN_CHAN e) s.tb { src := e, type := 2, zl := true, val := s.rd 0x082 R.ENC_CNT_COUNT e } else z) else z := by
  intro z
  have hrd {f : Fld} (hf : R.ENC_STAT_ZSEEN.off ≠ f.off ∧ R.ENC_STAT_ZSEEN.stride = f.stride) : z.rd 0x082 f e = s.rd 0x082 f e := State.rd_wr_off _ _ _ _ _ hf
  have htb : z.tb = s.tb := (State.wr_keeps ..).1
  unfold State.encZ
  rw [if_neg (by simp [hon, hpin])]
  dsimp only
  rw [State.encLatch_eq, State.on, hrd (by decide), hrd (by decide), hrd (by decide), hrd (by decide), htb]
  rfl

theorem State.encZ_unseen {s : State} {e : Nat} (h : s.domOn 3 = false ∨ s.encPin (s.rd 0x082 R.ENC_CFG_PIN_Z e) = false) : s.encZ e = s :=
  if_pos (by rcases h with h | h <;> simp [h])

/-! ### The end of an SSI frame (R283) -/

/-- An SSI clock shown moves no word beyond the pins' page. -/
theorem State.rd_ssiShow (s : State) (e tick : Nat) {p i : Nat} {f : Fld} (h : 0x81000 ≤ f.addr p i) : (s.ssiShow e tick).rd p f i = s.rd p f i := by
  have hne : R.FIO_CFG_OUT.addr 0x080 (s.rd 0x082 R.ENC_CFG_PIN_A e) ≠ f.addr p i := by
    have hlt : s.rd 0x082 R.ENC_CFG_PIN_A e < 2 ^ 7 := s.rd_lt ..
    simp only [Fld.addr, R.FIO_CFG_OUT] at h ⊢
    omega
  exact ite_keeps (fun t => t.rd p f i) rfl ((State.rd_showPin _ _ _ hne).trans (State.rd_showPin { s with tb := tick } _ _ hne))

theorem State.ssiEnd_early {s : State} {e : Nat} (v : Nat)
    (h : s.domOn 3 = false ∨ ∀ start low, (s.enc e).frame = some (start, low) → s.tb < start + 2 * s.ssiBits e * s.ssiHalf e) : s.ssiEnd e v = s := by
  unfold State.ssiEnd
  dsimp only
  split
  · rfl
  · next start low hframe =>
    refine if_pos ?_
    rcases h with h | h
    · simp [h]
    · simp [h start low hframe]

/-- The frame's end: its pause, and its position captured or an error counted. -/
theorem State.ssiEnd_done {s : State} {e start : Nat} {low : Bool} (data : Nat) (hon : s.domOn 3 = true) (hframe : (s.enc e).frame = some (start, low))
    (hdone : start + 2 * s.ssiBits e * s.ssiHalf e ≤ s.tb) :
    let stop := start + 2 * s.ssiBits e * s.ssiHalf e
    let injected := decide (e = 0) && s.injArmed 0x082 1
    let parity := s.on 0x082 R.ENC_SSI_PAR e
    let v := data % 2 ^ s.ssiBits e
    let odd := decide (((List.range (s.ssiBits e)).map fun i => b2n (bit v i)).sum % 2 = 1)
    let err := low || injected || (parity && odd)
    let raw := if parity then v / 2 else v
    let u := if injected then s.injTake 0x082 1 else s
    let w := (u.ssiShow e stop).setEnc e { s.enc e with frame := none, pauseEnd := stop + 1000 * max 1 (s.rd 0x082 R.ENC_SSI_MONO e) }
    s.ssiEnd e data = (if err then w.bump 0x082 R.ENC_STAT_SSIERR e else w).capture118 (s.rd 0x082 R.ENC_CHAN_CHAN e) stop
      { src := e, type := 3, err := err, val := if err then 0 else if s.on 0x082 R.ENC_SSI_GRAY e then grayDecode raw else raw } := by
  intro stop injected parity v odd err raw u w
  have htaken {f : Fld} (hf : 0x20 ≤ f.off) : u.rd 0x082 f e = s.rd 0x082 f e :=
    ite_keeps (fun t => t.rd 0x082 f e) (State.rd_wr_ne _ _ _ _ _ (by simp only [Fld.addr, R.PG_INJ_INJ]; omega)) rfl
  have hshown {f : Fld} (hf : 0x20 ≤ f.off) : (u.ssiShow e stop).rd 0x082 f e = s.rd 0x082 f e :=
    (u.rd_ssiShow e stop (by simp only [Fld.addr]; omega)).trans (htaken hf)
  have hcounted (c : Bool) : (if c then w.bump 0x082 R.ENC_STAT_SSIERR e else w).rd 0x082 R.ENC_CHAN_CHAN e = s.rd 0x082 R.ENC_CHAN_CHAN e :=
    (ite_keeps (fun t => t.rd 0x082 R.ENC_CHAN_CHAN e) (State.rd_wr_off _ _ _ _ _ (by decide)) rfl).trans (hshown (by decide))
  have hgray : u.on 0x082 R.ENC_SSI_GRAY e = s.on 0x082 R.ENC_SSI_GRAY e := congrArg (fun n : Nat => decide (n = 1)) (htaken (by decide))
  unfold State.ssiEnd
  dsimp only
  rw [hframe]
  dsimp only
  rw [if_neg (by simp [hon, hdone]), hshown (by decide)]
  refine Eq.trans ?_ (congrArg₂ (fun ch pos => (if err then w.bump 0x082 R.ENC_STAT_SSIERR e else w).capture118 ch stop { src := e, type := 3, err := err, val := pos })
    (hcounted err) (congrArg (fun g : Bool => if err then 0 else if g then grayDecode raw else raw) hgray))
  rfl

/-! ### PWM (R284, R291) -/

/-- The latest tick at which a period of a PWM channel starts. -/
def State.periodTick (s : State) (j : Nat) : Nat := s.tb - (s.tb - s.rd 0x083 R.PWM_ORG_ORG j % s.pwmPeriod j) % s.pwmPeriod j

/-- Whether a period of a PWM channel starts anew: the channel runs, is not held safe, and its latest tick is new. -/
def State.periodDue (s : State) (j : Nat) : Prop :=
  s.domOn 3 = true ∧ s.on 0x083 R.PWM_CFG_EN j = true ∧ (s.pwm j).held = false ∧ s.rd 0x083 R.PWM_ORG_ORG j % s.pwmPeriod j ≤ s.tb ∧
    ∀ u, (s.pwm j).start = some u → u < s.periodTick j

/-- The duty that waits for a period which starts at a tick. -/
def Pwm.waiting (x : Pwm) (t : Nat) : Option (Nat × Bool × Nat) := x.pend.filter fun y => decide (y.2.2 ≤ t)

/-- A channel takes the duty that waited for it, if one did. -/
def State.takeDuty (s : State) (j : Nat) : Option (Nat × Bool × Nat) → State
  | some (d, f, _) => s.pwmSet j d f
  | none => s

/-- A channel whose period starts at a tick with a duty. -/
def Pwm.started (x : Pwm) (t per duty : Nat) (full : Bool) : Pwm :=
  { x with start := some t, wait := false, high := full || decide (duty ≠ 0),
           fall := if full ∨ duty = 0 then none else some (4 * t + pwmFallAfter per duty) }

theorem Pwm.started_eq (x : Pwm) (t per duty : Nat) (full : Bool) :
    x.started t per duty full =
      { x with start := some t, wait := false, high := full || decide (duty ≠ 0),
               fall := if duty = 0 then none else if full then none else some (4 * t + pwmFallAfter per duty) } := by
  unfold Pwm.started
  by_cases h : duty = 0 <;> cases full <;> simp [h]

/-- A period starts with the duty that the channel's registers show. -/
def State.startPeriod (v : State) (j t per : Nat) (x : Pwm) : State :=
  (v.setPwm j (x.started t per (v.rd 0x083 R.PWM_DUTY_DUTY j) (v.on 0x083 R.PWM_DUTY_FULL j))).showPin (v.rd 0x083 R.PWM_CFG_PIN j) (4 * t)

theorem State.pwmPeriodStart_idle {s : State} {j : Nat} (h : ¬ s.periodDue j) : s.pwmPeriodStart j = s := by
  unfold State.pwmPeriodStart
  dsimp only
  split
  · rfl
  · next hon =>
    refine if_pos ?_
    by_contra hnew
    obtain ⟨⟨⟨hdom, hen⟩, hheld⟩, horg⟩ : ((s.domOn 3 = true ∧ s.on 0x083 R.PWM_CFG_EN j = true) ∧ (s.pwm j).held = false) ∧
      s.rd 0x083 R.PWM_ORG_ORG j % s.pwmPeriod j ≤ s.tb := by simpa using hon
    exact h ⟨hdom, hen, hheld, horg, any_le_eq_false.1 (Bool.eq_false_iff.2 hnew)⟩

theorem State.pwmPeriodStart_due {s : State} {j : Nat} (h : s.periodDue j) :
    let taken := (s.pwm j).waiting (s.periodTick j)
    s.pwmPeriodStart j =
      (s.takeDuty j taken).startPeriod j (s.periodTick j) (s.pwmPeriod j) { s.pwm j with pend := if taken.isSome then none else (s.pwm j).pend } := by
  obtain ⟨hdom, hen, hheld, horg, hnew⟩ := h
  unfold State.pwmPeriodStart
  dsimp only
  rw [if_neg (by simp [hdom, hen, hheld, horg])]
  refine (if_neg (Bool.eq_false_iff.1 (any_le_eq_false.2 hnew))).trans ?_
  rw [State.startPeriod, Pwm.started_eq]
  rfl

/-- A duty set reads back. -/
theorem State.pwmSet_leaves (s : State) (j : Nat) {duty : Nat} (hd : duty < 65536) (full : Bool) :
    (s.pwmSet j duty full).rd 0x083 R.PWM_DUTY_DUTY j = duty ∧ (s.pwmSet j duty full).on 0x083 R.PWM_DUTY_FULL j = full := by
  refine ⟨?_, (State.on_wr_self _ _ _ _ _ (by decide) (by decide)).trans (by cases full <;> rfl)⟩
  exact (State.rd_wr_bits _ _ _ _ _ (by decide) (by decide)).trans ((State.rd_wr_self _ _ _ _ _ (by decide)).trans (Nat.mod_eq_of_lt hd))

theorem State.takeDuty_leaves (s : State) (j : Nat) (taken : Option (Nat × Bool × Nat)) (hduty : ∀ y, taken = some y → y.1 < 65536) :
    (s.takeDuty j taken).rd 0x083 R.PWM_DUTY_DUTY j = (taken.map (·.1)).getD (s.rd 0x083 R.PWM_DUTY_DUTY j) ∧
      (s.takeDuty j taken).on 0x083 R.PWM_DUTY_FULL j = (taken.map (·.2.1)).getD (s.on 0x083 R.PWM_DUTY_FULL j) ∧
      (s.takeDuty j taken).pwms = s.pwms ∧ (s.takeDuty j taken).mem = s.mem := by
  cases taken with
  | none => exact ⟨rfl, rfl, rfl, rfl⟩
  | some y =>
    obtain ⟨hset, hfull⟩ := s.pwmSet_leaves j (hduty y rfl) y.2.1
    exact ⟨hset, hfull, rfl, rfl⟩

/-- A word of the PWM page is none of those that show the pins. -/
theorem State.rd_showPwm (s : State) (j time : Nat) (v : State) (f : Fld) : (s.showPin (v.rd 0x083 R.PWM_CFG_PIN j) time).rd 0x083 f j = s.rd 0x083 f j :=
  State.rd_showPin _ _ _ (by
    have hlt : v.rd 0x083 R.PWM_CFG_PIN j < 2 ^ 7 := v.rd_lt ..
    simp only [Fld.addr, R.FIO_CFG_OUT]
    omega)

/-- A channel set and its pin shown. -/
theorem State.setPwm_showPin (s : State) (j n time : Nat) (x : Pwm) :
    ((s.setPwm j x).showPin n time).pwm j = x ∧ (∀ k, k ≠ j → ((s.setPwm j x).showPin n time).pwm k = s.pwm k) := by
  have hshown (k : Nat) := State.showPin_part (g := fun t => t.pwm k) (fun _ _ _ => rfl) (fun _ _ _ => rfl) (fun _ _ => rfl) (s.setPwm j x) n time
  exact ⟨(hshown j).trans (State.setPwm_self ..), fun k hk => (hshown k).trans (State.setPwm_ne _ _ _ hk.symm)⟩

theorem State.startPeriod_leaves (v : State) (j t per : Nat) (x : Pwm) {duty : Nat} {full : Bool} (hd : v.rd 0x083 R.PWM_DUTY_DUTY j = duty)
    (hf : v.on 0x083 R.PWM_DUTY_FULL j = full) :
    let r := v.startPeriod j t per x
    r.pwm j = x.started t per duty full ∧
      r.rd 0x083 R.PWM_DUTY_DUTY j = duty ∧ r.on 0x083 R.PWM_DUTY_FULL j = full ∧ r.mem = v.mem ∧ ∀ k, k ≠ j → r.pwm k = v.pwm k := by
  dsimp only
  unfold State.startPeriod
  rw [hd, hf]
  obtain ⟨hpwm, hothers⟩ := v.setPwm_showPin j (v.rd 0x083 R.PWM_CFG_PIN j) (4 * t) (x.started t per duty full)
  have hrd (f : Fld) := State.rd_showPwm (v.setPwm j (x.started t per duty full)) j (4 * t) v f
  exact ⟨hpwm, (hrd _).trans hd, (congrArg (fun n : Nat => decide (n = 1)) (hrd _)).trans hf, (State.showPin_keeps ..).2.2, hothers⟩

theorem State.pwmFall_early {s : State} {j : Nat} (h : s.domOn 3 = false ∨ (s.pwm j).high = false ∨ ∀ f, (s.pwm j).fall = some f → 4 * s.tb < f) :
    s.pwmFall j = s := by
  unfold State.pwmFall
  dsimp only
  split
  · next f hfall =>
    refine if_neg ?_
    rcases h with h | h | h
    · simp [h]
    · simp [h]
    · simp [h f hfall]
  · rfl

theorem State.pwmFall_due {s : State} {j f : Nat} (hon : s.domOn 3 = true) (hfall : (s.pwm j).fall = some f) (hhigh : (s.pwm j).high = true) (hf : f ≤ 4 * s.tb) :
    s.pwmFall j = (s.setPwm j { s.pwm j with high := false, fall := none }).showPin (s.rd 0x083 R.PWM_CFG_PIN j) f := by
  unfold State.pwmFall
  dsimp only
  rw [hfall]
  exact if_pos (by simp [hon, hhigh, hf])

/-- Settles O40: each command by whether its moment has come, and by the mode, the frame or the duty that it finds. -/
theorem encodersAndPwmRun : Obligations.EncodersAndPwmRun := by
  unfold Obligations.EncodersAndPwmRun
  refine ⟨fun e a b s => ?_, fun e s => ⟨fun hon hpin => ?_, fun h => ?_, fun hnot => ?_, fun hdue hmode => ?_, fun hdue hmode => ⟨fun hbusy => ?_, fun hidle hpause => ?_⟩⟩,
    fun e data s => ⟨fun h => ?_, fun start low hon hframe hdone => ?_⟩, fun j s => ⟨fun hnot => ?_, fun hdue hduty => ?_, fun h => ?_, fun f hon hfall hhigh hle => ?_⟩⟩
  · intro x seen u injected step
    have hrun (hseen : seen) := congrArg (Host.Outcome.next (φ := Fault) (ρ := Refusal)) (State.encTransition_seen (s := s) (e := e) (a := a) (b := b) hseen)
    refine ⟨fun h => congrArg Host.Outcome.next (State.encTransition_unseen h), fun hseen hmode => ?_, fun hseen hmode => ⟨fun hinj => ?_, fun hinj ha hb => ?_, fun hinj hone => ?_⟩⟩
    · exact (hrun hseen).trans (congrArg _ (if_pos hmode))
    all_goals refine (hrun hseen).trans (congrArg _ ((if_neg (not_not_intro hmode)).trans ?_))
    · exact if_pos hinj
    · exact (if_neg hinj).trans (if_pos ⟨ha, hb⟩)
    · exact (if_neg hinj).trans (if_neg fun h => hone.elim h.1 h.2)
  · exact congrArg Host.Outcome.next (State.encZ_seen hon hpin)
  · exact congrArg Host.Outcome.next (State.encZ_unseen h)
  · exact congrArg Host.Outcome.next (State.encPeriodic_idle hnot)
  · exact congrArg Host.Outcome.next ((State.encPeriodic_due hdue).trans ((if_neg hmode).trans (State.encLatch_eq ..)))
  · refine congrArg Host.Outcome.next ((State.encPeriodic_due hdue).trans ((if_pos hmode).trans (State.ssiStart_busy hmode ?_)))
    rwa [State.setEnc_self]
  · have henc := s.setEnc_self e { s.enc e with lastPer := some (s.latchTick e) }
    obtain ⟨hframe, hothers, -, hcaps⟩ := State.ssiStart_leaves (s := s.setEnc e { s.enc e with lastPer := some (s.latchTick e) }) hmode
      ((congrArg Encoder.frame henc).trans hidle) ((congrArg Encoder.pauseEnd henc).trans_le hpause)
    rw [henc] at hframe
    exact ⟨_, congrArg Host.Outcome.next ((State.encPeriodic_due hdue).trans (if_pos hmode)), congrArg Encoder.frame hframe, congrArg Encoder.lastPer hframe,
      fun k hk => (hothers k hk).trans (State.setEnc_ne _ _ _ hk.symm), hcaps, (State.ssiStart_keeps ..).2.2⟩
  · exact congrArg Host.Outcome.next (State.ssiEnd_early _ h)
  · exact congrArg Host.Outcome.next (State.ssiEnd_done data.toNat hon hframe hdone)
  · exact congrArg Host.Outcome.next (State.pwmPeriodStart_idle hnot)
  · obtain ⟨hd, hf, hpwms, hmem⟩ := s.takeDuty_leaves j ((s.pwm j).waiting (s.periodTick j)) hduty
    obtain ⟨hpwm, hset, hfull, hkept, hothers⟩ := State.startPeriod_leaves _ j (s.periodTick j) (s.pwmPeriod j)
      { s.pwm j with pend := if ((s.pwm j).waiting (s.periodTick j)).isSome then none else (s.pwm j).pend } hd hf
    exact ⟨_, congrArg Host.Outcome.next (State.pwmPeriodStart_due hdue), hpwm, hset, hfull, hkept.trans hmem,
      fun k hk => (hothers k hk).trans (congrArg (fun m => lookD m k ({} : Pwm)) hpwms)⟩
  · exact congrArg Host.Outcome.next (State.pwmFall_early h)
  · obtain ⟨hpwm, hothers⟩ := s.setPwm_showPin j (s.rd 0x083 R.PWM_CFG_PIN j) f { s.pwm j with high := false, fall := none }
    rw [← State.pwmFall_due hon hfall hhigh hle] at hpwm hothers
    exact ⟨_, rfl, hpwm, (State.pwmFall_keeps ..).2.2, hothers⟩

end Sys2Proof.Machine
end
